-- ==== Sys2Proof/Word.lean ====
section
/-! DEFINITION. The word and byte types of the FJV's registers and memories (R3), and the place of a register field. -/

namespace Sys2Proof

/-- A register word of BAR0 (R483). -/
abbrev Word := BitVec 32

/-- A byte of device memory. -/
abbrev Byte := BitVec 8

/-- A register field: BAR0 offset of its word, msb, lsb. -/
structure Loc where
  off : Nat
  hi : Nat
  lo : Nat
  deriving DecidableEq, Repr

end Sys2Proof
end

