-- ==== Sys2Proof/Syntax.lean ====
section
/-! DEFINITION. The commands of the FJV: one constructor of `Instr` for each row of spec/opcode_table.json.  Operands
are the number of the object a command names and what comes from outside the module (pins, links, sensors, masters). -/

namespace Sys2Proof

/-- The four access paths to BAR0 (R482). -/
inductive Path where
  | jtag | brook | mgmt | pcie
  deriving DecidableEq, Repr

/-- A BAR0 write: byte offset, value, byte enables (R483). -/
structure BusWrite where
  off : BitVec 25
  val : Word
  be : BitVec 4
  deriving DecidableEq, Repr

/-- The TCLK count of a counting window (R36), and that of the other reference's window when it ends in the same moment (R42). -/
structure WindowCount where
  own : Nat
  other : Option Nat
  deriving DecidableEq, Repr

/-- The levels in mV that the pins EVTn_P and EVTn_N of an event input swing to (R56). -/
structure PinSwing where
  p : Int
  n : Int
  deriving DecidableEq, Repr

/-- The four levels of a PAM4 symbol (R76): −3, −1, +1, +3.  An NRZ symbol is one of the outer two. -/
inductive Level where
  | m3 | m1 | p1 | p3
  deriving DecidableEq, Repr

/-- What a lane's TCLK interpolator measures of an anchor (R98): the device time at which the TCLK cycle began, and the tap. -/
structure AnchorTap where
  base : Nat
  tap : Fin 16
  deriving DecidableEq, Repr

/-- A received SYNC block with, on logical lane 0, the anchor measured after it (R82, R98). -/
structure SyncRx where
  payload : BitVec 256
  anchor : Option AnchorTap
  deriving DecidableEq, Repr

/-- What the eight lanes of a JESD204C port carried for 16 words: the octets of each lane, none for a lane whose block is missing (R103). -/
abbrev JesdRx := List (Option (List Byte))

/-- Why a READY or ACTIVE lane enters RETRAIN (R89). -/
inductive RetrainCause where
  | los | lol | amLoss | uncorrectable
  deriving DecidableEq, Repr

/-- What error correction finds in one word that is read (R258, R259, R284). -/
inductive Ecc where
  | good | corrected | uncorrectable
  deriving DecidableEq, Repr

/-- The consumers of R254 and the best-effort requesters; a fixed-unit writer by its owner ID (R271). -/
inductive Consumer where
  | ring (port : Fin 4)
  | deep (port : Fin 4)
  | stream
  | backwater
  | migration
  | riffle (core : Fin 64)
  | millrace (chan : Fin 32)
  | display
  | bar2
  | scrub
  | writer (id : Nat)
  deriving DecidableEq, Repr

/-- A request to a rank controller or to the Pool (R255, R271): who asks, for which device address and how many bytes, the bytes
to write (none for a read), and what error correction finds in the words it reads, in rising order, the rest `good`: a write reads those it covers in part (R258). -/
structure MemReq where
  who : Consumer
  addr : Nat
  len : Nat
  data : Option (List Byte)
  ecc : List Ecc
  deriving DecidableEq, Repr

/-- What error correction finds in a core's own memories as an instruction issues (R284): in the 64-bit word that is fetched, and in the words of local data
memory that its load reads, in rising order, the rest `good`. -/
structure LocalEcc where
  fetch : Ecc
  data : List Ecc
  deriving DecidableEq, Repr

/-- An instruction of a Riffle core seen from its compute slot: predicate, the slot's fields, the 32 bits of the
memory slot that issue with it (R292), and what error correction finds. -/
structure CSlot where
  core : Fin 64
  pr : BitVec 3
  pn : Bool
  cx : BitVec 4
  cy : BitVec 4
  cz : BitVec 4
  ci : BitVec 10
  mem : BitVec 32
  ecc : LocalEcc := ⟨.good, []⟩
  deriving DecidableEq, Repr

/-- An instruction of a Riffle core seen from its memory slot: predicate, the slot's fields, the 28 bits of the
compute slot (COP, CX, CY, CZ, CI) that issue with it (R292), and what error correction finds. -/
structure MSlot where
  core : Fin 64
  pr : BitVec 3
  pn : Bool
  comp : BitVec 28
  mr : BitVec 4
  ma : BitVec 3
  ms : Bool
  mo : BitVec 3
  low : BitVec 15
  ecc : LocalEcc := ⟨.good, []⟩
  deriving DecidableEq, Repr

/-- What a far access or a Millrace burst meets at its target (R319 check 3): a response with what error correction finds in
the words that it reads, in rising order (the rest `good`), or none within 4,096 FCLK cycles. -/
inductive Response where
  | answered (ecc : List Ecc)
  | timeout
  deriving DecidableEq, Repr

/-- The requesters of the walker (R310, R333 MMU_LF_INFO.REQ). -/
inductive Requester where
  | core (c : Fin 64)
  | chan (ch : Fin 32)
  deriving DecidableEq, Repr

/-- A received PTP message (R350): the event or general messages an end-to-end time-receiver uses.  Times are in
1/65,536 ns; corrections likewise. -/
inductive PtpMsg where
  | announce (clockId priority1 clockClass accuracy variance priority2 gmId steps : Nat) (utcOffset : Int) (utcValid : Bool)
  | sync (clockId seq : Nat) (twoStep : Bool) (origin : Nat) (correction : Int)
  | followUp (clockId seq : Nat) (origin : Nat) (correction : Int)
  | delayResp (clockId seq : Nat) (receipt : Nat) (correction : Int)
  deriving DecidableEq, Repr

/-- The unit a commit point of "Weir triggering and acquisition" belongs to (R227). -/
inductive WeirUnit where
  | seq (s : Fin 16)
  | cond (p : Fin 4)
  | cap (p : Fin 4)
  deriving DecidableEq, Repr

/-- Measured results of a port calibration (R108): tap trims of nine lanes, lane skews, port skew, PHASE. -/
structure PortCalResult where
  trims : List (List Int)
  laneSkew : List Int
  portSkew : Int
  phase : Nat
  deriving DecidableEq, Repr

/-- What a DisplayPort sink reports in DPCD 0x000-0x00F that R363 and R365 use. -/
structure SinkCaps where
  maxRate : Fin 4
  maxLanes : Fin 3
  downspread : Bool
  deriving DecidableEq, Repr

/-- How the access to one word of an SPI transfer, counted from 0, meets a Brook access to the same word (R279, R401). -/
inductive Collision where
  | none
  | spiLater (word : Nat) (brookWrites : Bool)
  | brookLater (word : Nat) (brookWrites : Bool)
  deriving DecidableEq, Repr

/-- A read through the device memory window (R356): its bytes, and what error correction finds in the words that the access reads (R258), in rising order,
the rest `good`. -/
structure Bar2Span where
  len : Nat
  ecc : List Ecc
  deriving DecidableEq, Repr

/-- The commands: the rows of spec/opcode_table.json. -/
inductive Instr where
  -- registers, commit, basins (spec/00, 01, 18)
  | registerWrite (path : Path) (w : BusWrite)
  | readLo (path : Path) (off : BitVec 25)
  | commit (hdr : BitVec 25)
  | basinCommit (hdr : BitVec 25)
  | basinCmd (hdr : BitVec 25) (code : BitVec 8)
  -- clocks and device time (spec/02)
  | dtStep
  | dtStepApply
  | settod
  | settodApply (tap : Fin 16)
  | dtrestart
  | lockWindowEnd (ref : Fin 2) (count : WindowCount) (ctl mean : Word)
  | refLost (ref : Fin 2)
  | clockCommit
  | rivLockWindowEnd (count : Nat)
  | ppsMeasurement (tap : Fin 16)
  | dtHoldover
  | ptpSecond
  | dtFracRead (path : Path)
  -- event timing (spec/03)
  | evtEdge (n : Fin 8) (tap : Fin 16) (pin : PinSwing) (nearGate : Bool)
  | orphanDiscard (k : Fin 4)
  | evtCfgWrite (n : Fin 8) (val : Word) (be : BitVec 4)
  | pairCfgWrite (k : Fin 4) (val : Word) (be : BitVec 4)
  | gateTransition (k : Fin 4) (level : Bool)
  | evtQpop0Read (path : Path) (n : Fin 8)
  | pairQpop0Read (path : Path) (k : Fin 4)
  | evtCal
  | flush
  | evtCalInputEnd (trims : List Int) (skew : Int)
  -- ingress ports (spec/04)
  | portCfgWrite (p : Fin 4) (val : Word) (be : BitVec 4)
  | restart (p : Fin 4)
  | portCal (p : Fin 4)
  | ingRetrain (p : Fin 4)
  | portIdle (p : Fin 4)
  | portWake (p : Fin 4)
  | laneDetectDone (p : Fin 4) (l : Fin 9)
  | codewordRx (p : Fin 4) (l : Fin 9) (levels : List Level)
  | trainPresetMeasured (p : Fin 4) (l : Fin 9) (errs : Nat)
  | syncBlock (p : Fin 4) (l : Fin 9) (rx : SyncRx)
  | retrainTrigger (p : Fin 4) (l : Fin 9) (cause : RetrainCause)
  | trainTimeout (p : Fin 4) (l : Fin 9)
  | retrainTimeout (p : Fin 4) (l : Fin 9)
  | spareIn (p : Fin 4) (logical : Fin 8)
  | laneBackoffEnd (p : Fin 4) (l : Fin 9)
  | serSecond (p : Fin 4) (l : Fin 9) (errs syms : Nat)
  | laneWakeResume (p : Fin 4) (l : Fin 9) (amFound : Bool)
  | epochFix (p : Fin 4) (frameCnt : BitVec 48) (anchor : AnchorTap)
  | slip (p : Fin 4)
  | portCalDue (p : Fin 4)
  | portCalEnd (p : Fin 4) (result : Option PortCalResult)
  | sysrefEdge (tap : Fin 16)
  | jesdSyncLossTimeout (p : Fin 4) (l : Fin 9)
  -- transform reaches (spec/05)
  | srFrameDone (p : Fin 4)
  | mrFrameDone (p : Fin 4)
  | drPassADone (p : Fin 4)
  | drPassBDone (p : Fin 4)
  | level2UpdateDone (p : Fin 4)
  | segmentDone (k : Fin 3) (p : Fin 4)
  | reachCommit (k : Fin 3) (p : Fin 4)
  | srSnap (p : Fin 4)
  | cut (k : Fin 3) (p : Fin 4)
  | reserve (p : Fin 4)
  | utabWrite (p : Fin 4) (b : Fin 2) (j : Fin 32768) (val : Word) (be : BitVec 4)
  -- detectors and silt planes (spec/06)
  | traceUpdateDone (p : Fin 4) (t : Fin 8)
  | traceSlotFree (p : Fin 4) (t : Fin 8) (val : Word)
  | planePeriodEnd (p : Fin 4) (n : Fin 4)
  | planeClearDone (p : Fin 4) (n : Fin 4) (b : Fin 2)
  | decayPassStart (p : Fin 4) (n : Fin 4)
  | tileWriteDone (p : Fin 4)
  | lutWrite (l : Fin 4) (b : Fin 2) (i : Fin 1024) (val : Word) (be : BitVec 4)
  | detSltCommit (silt : Bool) (p : Fin 4)
  | detClear (p : Fin 4)
  | sltClear (p : Fin 4)
  | sltRelease (p : Fin 4)
  | swap (p : Fin 4)
  -- tributary bank (spec/07)
  | coarseSample (p : Fin 4)
  | trbRound
  | ctxBlockBoundary (i : Fin 16384)
  | ctxCommitWrite (i : Fin 16384) (val : Word) (be : BitVec 4)
  | resetCtx
  | report
  | trbRecordWrite
  | iqRecordWrite
  -- Weir and capture (spec/08)
  | slotEval (s : Fin 16)
  | weirTimerExpire (s : Fin 16) (n : Fin 2)
  | tagWrite
  | weirCommit (u : WeirUnit)
  | mtabDataAccess (path : Path) (p : Fin 4) (wr : Option (Word × BitVec 4))
  | arm (s : Fin 16)
  | disarm (s : Fin 16)
  | force (s : Fin 16)
  | capRelease (p : Fin 4)
  | hold (p : Fin 4)
  | unhold (p : Fin 4)
  | releaseAll (p : Fin 4)
  | capClose (p : Fin 4)
  | ringBlockWrite (p : Fin 4)
  | ringLenApply (p : Fin 4)
  | doneqPop (path : Path) (p : Fin 4)
  -- Reservoir, Pool, Eddy (spec/09)
  | refreshWindow
  | stackTempHot (stack : Fin 4)
  | stackCoolEnd
  | rsvRequest (rank : Fin 128) (arrived : List MemReq)
  | ageUrgent (rank : Fin 128) (who : Consumer)
  | ceWindowEnd (rank : Fin 128)
  | scrubPeriodStart (pool : Bool)
  | scrubPassDone (pool : Bool)
  | migCopyDone
  | switchoverStart
  | switchoverEnd
  | rankDead (rank : Fin 128)
  | retire
  | rsvScrub
  | handover
  | poolRelease
  | handoverClearDone
  | eddyFullWrite (h : Fin 2) (val : Word) (be : BitVec 4) (produced : Word)
  -- Riffle: compute slot (spec/10, R293)
  | nop (memSlot : Bool) (i : CSlot)
  | cmul (i : CSlot)
  | cmac (i : CSlot)
  | rmac (i : CSlot)
  | pwr (i : CSlot)
  | aclr (i : CSlot)
  | aadd (i : CSlot)
  | ash (i : CSlot)
  | aexp (i : CSlot)
  | anrm (i : CSlot)
  | arnd (i : CSlot)
  | ar32 (i : CSlot)
  | aflt (i : CSlot)
  | facc (i : CSlot)
  | dexp (i : CSlot)
  | dnrm (i : CSlot)
  | dadd (i : CSlot)
  | dsub (i : CSlot)
  | dconj (i : CSlot)
  | dswap (i : CSlot)
  | dpack (i : CSlot)
  | dunpk (i : CSlot)
  | dmov (i : CSlot)
  | mta (i : CSlot)
  | mfa (i : CSlot)
  | mts (i : CSlot)
  | mfs (i : CSlot)
  | add (i : CSlot)
  | sub (i : CSlot)
  | and (i : CSlot)
  | or (i : CSlot)
  | xor (i : CSlot)
  | shl (i : CSlot)
  | shr (i : CSlot)
  | shrl (i : CSlot)
  | addi (i : CSlot)
  | movi (i : CSlot)
  | movh (i : CSlot)
  | clti (i : CSlot)
  | ceq (i : CSlot)
  | clt (i : CSlot)
  | cltu (i : CSlot)
  | ceqi (i : CSlot)
  | pand (i : CSlot)
  | pnot (i : CSlot)
  | fadd (i : CSlot)
  | fsub (i : CSlot)
  | fmul (i : CSlot)
  | fmax (i : CSlot)
  | fmin (i : CSlot)
  | fclt (i : CSlot)
  | fcvt (i : CSlot)
  -- Riffle: memory slot (R294)
  | ldw (i : MSlot)
  | ldfw (i : MSlot)
  | stw (i : MSlot)
  | stfw (i : MSlot)
  | ldc6 (i : MSlot)
  | ldfc6 (i : MSlot)
  | stc6 (i : MSlot)
  | stfc6 (i : MSlot)
  | ldc4 (i : MSlot)
  | ldfc4 (i : MSlot)
  | stc4 (i : MSlot)
  | stfc4 (i : MSlot)
  | sta (i : MSlot)
  | stfa (i : MSlot)
  | br (i : MSlot)
  | call (i : MSlot)
  | jmp (i : MSlot)
  | wait (i : MSlot)
  | waitRelease (c : Fin 64)
  | eclrv (i : MSlot)
  | evs (i : MSlot)
  | eflg (i : MSlot)
  | eclr (i : MSlot)
  | sys (i : MSlot)
  | rte (i : MSlot)
  | halt (i : MSlot)
  -- Riffle: the cores
  | farAccessComplete (c : Fin 64) (resp : Response)
  | preempt (c : Fin 64)
  | ctmrExpire (c : Fin 64)
  | doorbell (c : Fin 64)
  | rflRun (c : Fin 64)
  | rflHaltCmd (c : Fin 64)
  | rflStep (c : Fin 64)
  | rflReset (c : Fin 64)
  | imemWrite (c : Fin 64) (val : Word) (be : BitVec 4)
  | dmemDataAccess (path : Path) (c : Fin 64) (wr : Option (Word × BitVec 4))
  | dbgDataWrite (c : Fin 64) (val : Word) (be : BitVec 4)
  -- translation and Millrace (spec/11)
  | pageWalkDone (r : Requester) (ecc : List Ecc)
  | invAll
  | invAs
  | invVa
  | invDone
  | mlrStart (ch : Fin 32)
  | mlrStop (ch : Fin 32)
  | mlrResume (ch : Fin 32)
  | mlrAbort (ch : Fin 32)
  | descFetchDone (ch : Fin 32) (resp : Response)
  | burstIssue
  | burstComplete (ch : Fin 32) (read write : Response)
  | burstRetry (ch : Fin 32)
  | descComplete (ch : Fin 32)
  | readbackDone (ch : Fin 32) (resp : Response)
  -- streaming, network, host (spec/12)
  | strStart
  | strStop
  | sendRec
  | qpReset
  | datagramBuild (m : Fin 64)
  | memqEntryValid (m : Fin 64)
  | frameTx (k : Fin 4)
  | pfcFrameRx (k : Fin 4) (enable : BitVec 8) (quanta : List (BitVec 16))
  | pauseFrameRx (k : Fin 4) (quanta : BitVec 16)
  | pauseEnd (k : Fin 4) (prio : Fin 8)
  | arpRequest (k : Fin 4) (senderMac : BitVec 48) (senderIp targetIp : BitVec 32)
  | neighbourSolicitation (k : Fin 4) (sourceMac : BitVec 48) (sourceIp target : BitVec 128)
  | frameDiscard (k : Fin 4)
  | ptpMessage (k : Fin 4) (m : PtpMsg) (rxTap : Nat)
  | delayReqTx
  | mgmtPacket (k : Fin 4) (srcMac : BitVec 48) (v6 : Bool) (srcIp : BitVec 128) (srcPort : BitVec 16) (bytes : List Byte)
  | roceAckRx (q : Fin 64) (psn : BitVec 24) (syndrome : BitVec 8)
  | ackTimeout (q : Fin 64)
  | rnrDelayEnd (q : Fin 64)
  | linkUp (k : Fin 4)
  | linkDown (k : Fin 4)
  | pcieBar2Access (off : BitVec 32) (span : Bar2Span) (wr : Option (List Byte))
  | pcieConfigRequest (reg : BitVec 12) (wr : Option (Word × BitVec 4))
  | hostDown
  | hostUp (gen : Fin 6) (width : BitVec 4)
  | msixVectorUnmask (v : Fin 256)
  | vecHoldEnd (v : Fin 256)
  -- display (spec/13)
  | dpRetrain (o : Fin 2)
  | aux (o : Fin 2)
  | auxDone (o : Fin 2) (reply : Fin 4) (bytes : List Byte)
  | hpdRise (o : Fin 2) (lowSamples : Nat) (lostLock : Bool) (caps : SinkCaps)
  | hpdUnplug (o : Fin 2)
  | dpTrainDone (o : Fin 2) (trained : List (Fin 3 × Fin 4))
  | vblankStart
  | underrun
  -- Brook (spec/14)
  | brookRound (en present : Bool)
  | mbRegRead
  | mbRegWrite
  | logFetch
  | alertAck
  | killClr
  | adcConversion (code : Nat)
  | adcQpop (path : Path)
  | adcWarmupEnd
  | kill (n : Fin 12)
  | extractionImminent
  | extractionClear
  | brookTimerExpire (n : Fin 8)
  | brkCal
  | brkCalDue
  | adcCalEnd (offset gain : Int)
  | selftest
  | selftestDone (pass : Bool)
  | resetFlt
  | clrLatch
  | spiRead (addr : BitVec 16) (words : Nat) (col : Collision)
  | spiWrite (addr : BitVec 16) (words : List Word) (col : Collision)
  | spiRdsr
  | standbyPowerUp
  | standbyPowerLoss
  | dieReset
  -- module, start-up, image, lifecycle, journal (spec/15, 16)
  | thermalSample (codes : List Nat)
  | hourTick
  | dieStart (flashOk0 flashOk1 : Bool) (locked : Option Word)
  | startupLockTimeout
  | erase
  | eraseDone (ok : Bool)
  | program
  | progDone (ok : Bool)
  | imgCheck
  | chkDone (flashOk : Bool)
  | advance (fusesVerify : Bool)
  | svnCommit (fusesVerify : Bool)
  | compact
  | compactDone
  | journalEntryWrite (ok : Bool)
  | jtagRegacc (w : BusWrite) (read : Bool)
  -- event log, counters (spec/17)
  | logEntryWrite
  | logRseqWrite (val : Word) (be : BitVec 4)
  | mark
  | perfSnap
  | snapPeriodExpire
  | snapDone
  | clrAll
  | hclr
  | perfCntLoWrite (n : Fin 256) (val : Word) (be : BitVec 4)
  | perfCntHiWrite (n : Fin 256) (val : Word) (be : BitVec 4)
  | perfCfgWrite (n : Fin 256) (val : Word) (be : BitVec 4)
  | perfCtrlWrite (val : Word) (be : BitVec 4)
  -- rows at the end of the table
  | lossOfSignal (p : Fin 4) (l : Fin 9) (los : Bool)
  | jesdSyncHeaderLock (p : Fin 4) (l : Fin 9)
  | sampleRelease (p : Fin 4) (jesd : JesdRx)
  | clockOutputRestart (o : Fin 2)
  | poisonFillDone (chunk : Nat)
  | decayPassDone (p : Fin 4) (n : Fin 4)
  | comparatorSample (n : Fin 12) (raw : Bool)
  | deferredDieHold
  | announceReceiptTimeout
  | imemHiRead (path : Path) (c : Fin 64)
  deriving DecidableEq, Repr

end Sys2Proof
end

