-- ==== Sys2Proof/Config.lean ====
section
/-! DEFINITION. What the spec leaves open: free values, opaque constants of which nothing can be proved. -/

namespace Sys2Proof.Config

/-- The free value of number `n`: the state counts the free values it has taken (log entry 4). -/
opaque freeNat : Nat → Nat

/-- Error of a built-in window coefficient within ±1 LSB (R120): window, WPARAM, span, index. -/
opaque winErr : Nat → Nat → Nat → Nat → Int

/-- Coefficients of the channeliser's prototype of 16 × H_c points (R184: not stated): H_c, index. -/
opaque coarseTap : Nat → Nat → Int

/-- Error of a coarse sample within ±1 LSB of the prototype's sum (R186 states no rounding): port, channel, coarse sample. -/
opaque coarseErr : Nat → Nat → Nat → Int × Int

/-- Coefficients of the half-band filter (R194) and of the decimating FIR of a decimation (R195): not stated. -/
opaque halfTap : Nat → Int
opaque firTap : Nat → Nat → Int

/-- Error of an output of a context's chain within 1 LSB and the gain error that R195 allows: context, number of the free value. -/
opaque ctxErr : Nat → Nat → Int × Int

/-- The CIC gain correction of a decimation, as the context store shows it (R190, R195: its format is not stated). -/
opaque cicGain : Nat → Nat

/-- TRB_CH_LAT of a port (R214: fixed, its value is not stated). -/
opaque chanLat : Nat → Nat

/-- The power word of a bin where G of R129 divides by a window sum that is 0 (no quotient is stated): exponent, re, im; the word of G
in a product's descriptor; and a cross-power word of R147 from such a G: count of frames, sum as mantissa and exponent (log entry 69). -/
opaque zeroGainPower : Int → Int → Int → Nat
opaque zeroGainNorm : Nat
opaque zeroGainCross : Nat → Int → Int → Nat

/-- UNIT_SERIAL and UNIT_DIE (R478: fixed). -/
opaque unitSerial : Nat
opaque unitDie : Nat

/-- The factory trims of Brook's ADC, as BRK_ADC_TRIM lays them out (R384: measured when the module is built). -/
opaque brkTrim : Nat

end Sys2Proof.Config
end

