-- ==== Sys2Proof/Machine/Bits.lean ====
section
/-! DEFINITION. Bit fields, two's complement, rounding and byte order: the arithmetic that the rules share.
Integers follow "How tables, pseudocode and examples are read" of spec/00_scope.md; narrowing follows R127. -/

namespace Sys2Proof.Machine

/-- Bits msb down to lsb of a number. -/
def bits (x hi lo : Nat) : Nat := (x / 2 ^ lo) % 2 ^ (hi + 1 - lo)

/-- One bit of a number, as a Boolean. -/
def bitAt (x n : Nat) : Bool := (x / 2 ^ n) % 2 == 1

/-- 1 for true, 0 for false. -/
def b2n (b : Bool) : Nat := if b then 1 else 0

/-- The word `w` with bits msb down to lsb replaced by `v` (cut to the field's width). -/
def putBits (w hi lo v : Nat) : Nat :=
  w / 2 ^ (hi + 1) * 2 ^ (hi + 1) + v % 2 ^ (hi + 1 - lo) * 2 ^ lo + w % 2 ^ lo

/-- The `n`-bit pattern read as two's complement. -/
def sext (n x : Nat) : Int :=
  if x % 2 ^ n < 2 ^ (n - 1) then ((x % 2 ^ n : Nat) : Int) else ((x % 2 ^ n : Nat) : Int) - (2 ^ n : Nat)

/-- The `n`-bit two's complement pattern of an integer. -/
def enc (n : Nat) (x : Int) : Nat := (x % ((2 ^ n : Nat) : Int)).toNat

/-- An integer held in a signed register of `n` bits (it wraps). -/
def swrap (n : Nat) (x : Int) : Int := sext n (enc n x)

/-- Clamp to an interval. -/
def clampI (lo hi x : Int) : Int := if x < lo then lo else if hi < x then hi else x

/-- Clamp to `n` signed bits. -/
def clampS (n : Nat) (x : Int) : Int := clampI (-((2 ^ (n - 1) : Nat) : Int)) ((2 ^ (n - 1) : Nat) - 1) x

/-- Is the value outside `n` signed bits? -/
def clampsS (n : Nat) (x : Int) : Bool := clampS n x != x

/-- Arithmetic right shift: floor division by a power of two. -/
def asr (x : Int) (k : Nat) : Int := x / ((2 ^ k : Nat) : Int)

/-- `num / den` rounded to nearest, ties to even (R127); `den` positive. -/
def rneDiv (num : Int) (den : Nat) : Int :=
  let q := num / (den : Int)
  let r := 2 * (num % (den : Int))
  if r < den then q else if (den : Int) < r then q + 1 else if q % 2 = 0 then q else q + 1

/-- `x × 2^-k` rounded to nearest, ties to even. -/
def rneShr (x : Int) (k : Nat) : Int := rneDiv x (2 ^ k)

/-- `x × 2^s` for a signed `s`, rounded when it narrows. -/
def rneScale (x s : Int) : Int := if 0 ≤ s then x * ((2 ^ s.toNat : Nat) : Int) else rneShr x (-s).toNat

/-- `⌊log2 x⌋`, 0 at 0. -/
def flog2 (x : Nat) : Nat := Nat.log2 x

/-- `⌈log2 x⌉`, 0 at 0 and 1. -/
def clog2 (x : Nat) : Nat := if x ≤ 1 then 0 else Nat.log2 (x - 1) + 1

/-- `⌈a / b⌉`. -/
def cdiv (a b : Nat) : Nat := (a + b - 1) / b

/-- The `n` low bytes of a number, least significant first (R3). -/
def leBytes : Nat → Nat → List Byte
  | 0, _ => []
  | n + 1, v => BitVec.ofNat 8 v :: leBytes n (v / 256)

/-- The number that bytes spell, least significant first. -/
def leNat : List Byte → Nat
  | [] => 0
  | b :: t => b.toNat + 256 * leNat t

/-- The number that bytes spell, most significant first. -/
def beNat (l : List Byte) : Nat := l.foldl (fun a b => 256 * a + b.toNat) 0

/-- `n` bytes of a number, most significant first. -/
def beBytes (n v : Nat) : List Byte := (leBytes n v).reverse

/-- `a, a + 1, …`: `n` numbers. -/
def upFrom (a n : Nat) : List Nat := (List.range n).map (a + ·)

/-- Add 1 to a counter of `n` bits that saturates. -/
def satAdd (n x k : Nat) : Nat := min (x + k) (2 ^ n - 1)

/-- XOR of the bits of a number's binary digits, up to `n` of them. -/
def parity : Nat → Nat → Bool
  | 0, _ => false
  | n + 1, x => xor (x % 2 == 1) (parity n (x / 2))

/-- Write a list of values at a position of a list; positions beyond the end are dropped. -/
def putAt {α : Type} (l : List α) (i : Nat) (v : α) : List α := l.set i v

/-- Iterate a function. -/
def iter {α : Type} (f : α → α) : Nat → α → α
  | 0, a => a
  | n + 1, a => iter f n (f a)

end Sys2Proof.Machine
end

