-- ==== Sys2Proof/Machine/Regs.lean ====
section
/-! DEFINITION. The BAR0 register map of the FJV: one offset per register word, one location (offset, msb, lsb) per
field, taken from the register tables of spec/02 to spec/18 (the rule is named at each group).  A `@pair` of the
spec (LO/HI) is named by the offset of its LO word; its HI word is at + 4.  The three reaches share one layout
(R151), so SRH_, MRH_ and DRH_ words of one layout are named XRH_ with the kind k = 0 SR, 1 MR, 2 DR. -/

namespace Sys2Proof.R


/-! Registers of spec/02_clocks_timebase.md, R55. -/

def CLK_REF_CTRL : Nat := 0x00100040
def CLK_REF_CTRL_LBW : Loc := ⟨CLK_REF_CTRL, 4, 3⟩
def CLK_REF_CTRL_AUTO_PREF : Loc := ⟨CLK_REF_CTRL, 2, 2⟩
def CLK_REF_CTRL_REF_SEL : Loc := ⟨CLK_REF_CTRL, 1, 0⟩
def CLK_WS_STATUS : Nat := 0x00100044
def CLK_WS_STATUS_GOOD_WIN : Loc := ⟨CLK_WS_STATUS, 10, 8⟩
def CLK_WS_STATUS_ACT_REF : Loc := ⟨CLK_WS_STATUS, 5, 5⟩
def CLK_WS_STATUS_PPS_OK : Loc := ⟨CLK_WS_STATUS, 4, 4⟩
def CLK_WS_STATUS_REFB_OK : Loc := ⟨CLK_WS_STATUS, 3, 3⟩
def CLK_WS_STATUS_REFA_OK : Loc := ⟨CLK_WS_STATUS, 2, 2⟩
def CLK_WS_STATUS_HOLDOVER : Loc := ⟨CLK_WS_STATUS, 1, 1⟩
def CLK_WS_STATUS_LOCK : Loc := ⟨CLK_WS_STATUS, 0, 0⟩
def CLK_WS_HOLDVAL : Nat := 0x00100048
def CLK_LOCK_COUNT : Nat := 0x0010004C
def CLK_WS_CTRLVAL : Nat := 0x00100050
def CLK_COUT_CFG (o : Nat) : Nat := 0x00100060 + 0x4 * o
def CLK_COUT_CFG_EN (o : Nat) : Loc := ⟨CLK_COUT_CFG o, 22, 22⟩
def CLK_COUT_CFG_LEVEL (o : Nat) : Loc := ⟨CLK_COUT_CFG o, 21, 20⟩
def CLK_COUT_CFG_FMT (o : Nat) : Loc := ⟨CLK_COUT_CFG o, 19, 18⟩
def CLK_COUT_CFG_SRC (o : Nat) : Loc := ⟨CLK_COUT_CFG o, 17, 16⟩
def CLK_COUT_CFG_DIV (o : Nat) : Loc := ⟨CLK_COUT_CFG o, 15, 0⟩
def CLK_RIV_CFG : Nat := 0x00100068
def CLK_RIV_CFG_RIV_LOCK : Loc := ⟨CLK_RIV_CFG, 24, 24⟩
def CLK_RIV_CFG_ODIV : Loc := ⟨CLK_RIV_CFG, 23, 18⟩
def CLK_RIV_CFG_SS_RATE : Loc := ⟨CLK_RIV_CFG, 17, 16⟩
def CLK_RIV_CFG_SS_DEPTH : Loc := ⟨CLK_RIV_CFG, 15, 13⟩
def CLK_RIV_CFG_SS_MODE : Loc := ⟨CLK_RIV_CFG, 12, 11⟩
def CLK_RIV_CFG_N_INT : Loc := ⟨CLK_RIV_CFG, 4, 0⟩
def CLK_RIV_NFRAC : Nat := 0x0010006C
def CLK_RIV_NFRAC_N_FRAC : Loc := ⟨CLK_RIV_NFRAC, 23, 0⟩
def CLK_DT_CTRL : Nat := 0x00100080
def CLK_DT_CTRL_PPS_WIN : Loc := ⟨CLK_DT_CTRL, 19, 16⟩
def CLK_DT_CTRL_KI_SHIFT : Loc := ⟨CLK_DT_CTRL, 15, 12⟩
def CLK_DT_CTRL_KP_SHIFT : Loc := ⟨CLK_DT_CTRL, 11, 8⟩
def CLK_DT_CTRL_AUTO_STEP : Loc := ⟨CLK_DT_CTRL, 3, 3⟩
def CLK_DT_CTRL_PPS_EDGE : Loc := ⟨CLK_DT_CTRL, 2, 2⟩
def CLK_DT_CTRL_SRC : Loc := ⟨CLK_DT_CTRL, 1, 0⟩
def CLK_DT_STATUS : Nat := 0x00100084
def CLK_DT_STATUS_REJECT_CNT : Loc := ⟨CLK_DT_STATUS, 31, 16⟩
def CLK_DT_STATUS_TOD_PEND : Loc := ⟨CLK_DT_STATUS, 4, 4⟩
def CLK_DT_STATUS_STEP_PEND : Loc := ⟨CLK_DT_STATUS, 3, 3⟩
def CLK_DT_STATUS_COAST : Loc := ⟨CLK_DT_STATUS, 2, 2⟩
def CLK_DT_STATUS_STATE : Loc := ⟨CLK_DT_STATUS, 1, 0⟩
def CLK_DT_FRAC : Nat := 0x00100088
def CLK_DT_NS : Nat := 0x0010008C
def CLK_DT_SEC_LO : Nat := 0x00100090
def CLK_DT_SEC_HI : Nat := 0x00100094
def CLK_DT_RATE : Nat := 0x00100098
def CLK_PPS_ERR : Nat := 0x0010009C
def CLK_DT_STEP_LO : Nat := 0x001000A0
def CLK_DT_STEP_HI : Nat := 0x001000A4
def CLK_DT_TOD_LO : Nat := 0x001000A8
def CLK_DT_TOD_HI : Nat := 0x001000AC

/-! Registers of spec/03_event_timing.md, R71. -/

def EVT_CFG (n : Nat) : Nat := 0x00200100 + 0x40 * n
def EVT_CFG_THRESH (n : Nat) : Loc := ⟨EVT_CFG n, 23, 16⟩
def EVT_CFG_HYST (n : Nat) : Loc := ⟨EVT_CFG n, 15, 12⟩
def EVT_CFG_GATE_POL (n : Nat) : Loc := ⟨EVT_CFG n, 7, 7⟩
def EVT_CFG_GATE_MODE (n : Nat) : Loc := ⟨EVT_CFG n, 6, 5⟩
def EVT_CFG_DIFF (n : Nat) : Loc := ⟨EVT_CFG n, 4, 4⟩
def EVT_CFG_EDGE (n : Nat) : Loc := ⟨EVT_CFG n, 2, 1⟩
def EVT_CFG_EN (n : Nat) : Loc := ⟨EVT_CFG n, 0, 0⟩
def EVT_HOLDOFF (n : Nat) : Nat := 0x00200104 + 0x40 * n
def EVT_HOLDOFF_HOLDOFF (n : Nat) : Loc := ⟨EVT_HOLDOFF n, 15, 0⟩
def EVT_SKEW (n : Nat) : Nat := 0x00200108 + 0x40 * n
def EVT_STATUS (n : Nat) : Nat := 0x0020010C + 0x40 * n
def EVT_STATUS_CAL_BUSY (n : Nat) : Loc := ⟨EVT_STATUS n, 12, 12⟩
def EVT_STATUS_ARMED (n : Nat) : Loc := ⟨EVT_STATUS n, 11, 11⟩
def EVT_STATUS_GATE (n : Nat) : Loc := ⟨EVT_STATUS n, 10, 10⟩
def EVT_STATUS_QCOUNT (n : Nat) : Loc := ⟨EVT_STATUS n, 9, 0⟩
def EVT_QPOP (n w : Nat) : Nat := 0x00200110 + 0x40 * n + 0x4 * w
def EVT_LOST (n : Nat) : Nat := 0x00200120 + 0x40 * n
def EVT_MISS (n : Nat) : Nat := 0x00200128 + 0x40 * n
def EVT_ACC (n : Nat) : Nat := 0x00200130 + 0x40 * n
def EVT_TRIM (m p : Nat) : Nat := 0x00200400 + 0x40 * m + 0x4 * p
def EVT_PPS_SKEW : Nat := 0x00200040
def EVT_CMD_MASK : Nat := 0x00200044
def PAIR_CFG (k : Nat) : Nat := 0x00200800 + 0x20 * k
def PAIR_CFG_PAIR_WIN (k : Nat) : Loc := ⟨PAIR_CFG k, 31, 16⟩
def PAIR_CFG_MODE (k : Nat) : Loc := ⟨PAIR_CFG k, 1, 1⟩
def PAIR_CFG_EN (k : Nat) : Loc := ⟨PAIR_CFG k, 0, 0⟩
def PAIR_STATUS (k : Nat) : Nat := 0x00200804 + 0x20 * k
def PAIR_STATUS_ORPHAN_HELD (k : Nat) : Loc := ⟨PAIR_STATUS k, 8, 8⟩
def PAIR_STATUS_ARMED (k : Nat) : Loc := ⟨PAIR_STATUS k, 7, 7⟩
def PAIR_STATUS_QCOUNT (k : Nat) : Loc := ⟨PAIR_STATUS k, 6, 0⟩
def PAIR_QPOP (k w : Nat) : Nat := 0x00200808 + 0x20 * k + 0x4 * w
def PAIR_ORPHAN (k : Nat) : Nat := 0x00200818 + 0x20 * k
def PAIR_LOST (k : Nat) : Nat := 0x0020081C + 0x20 * k

/-! Registers of spec/04_ingress_lanes.md, R111. -/

def ING_PORT_CFG (p : Nat) : Nat := 0x00401040 + 0x1000 * p
def ING_PORT_CFG_PORT_ID (p : Nat) : Loc := ⟨ING_PORT_CFG p, 17, 16⟩
def ING_PORT_CFG_SYSREF_CONT (p : Nat) : Loc := ⟨ING_PORT_CFG p, 15, 15⟩
def ING_PORT_CFG_SPARE_IDLE (p : Nat) : Loc := ⟨ING_PORT_CFG p, 14, 14⟩
def ING_PORT_CFG_CLIP_EN (p : Nat) : Loc := ⟨ING_PORT_CFG p, 13, 13⟩
def ING_PORT_CFG_BOND (p : Nat) : Loc := ⟨ING_PORT_CFG p, 12, 12⟩
def ING_PORT_CFG_CPLX (p : Nat) : Loc := ⟨ING_PORT_CFG p, 11, 11⟩
def ING_PORT_CFG_WIDTH (p : Nat) : Loc := ⟨ING_PORT_CFG p, 10, 8⟩
def ING_PORT_CFG_DEC (p : Nat) : Loc := ⟨ING_PORT_CFG p, 6, 4⟩
def ING_PORT_CFG_RATE (p : Nat) : Loc := ⟨ING_PORT_CFG p, 3, 2⟩
def ING_PORT_CFG_LINK (p : Nat) : Loc := ⟨ING_PORT_CFG p, 1, 1⟩
def ING_PORT_CFG_EN (p : Nat) : Loc := ⟨ING_PORT_CFG p, 0, 0⟩
def ING_PORT_STATUS (p : Nat) : Nat := 0x00401044 + 0x1000 * p
def ING_PORT_STATUS_LAT (p : Nat) : Loc := ⟨ING_PORT_STATUS p, 26, 16⟩
def ING_PORT_STATUS_SYSREF_OK (p : Nat) : Loc := ⟨ING_PORT_STATUS p, 7, 7⟩
def ING_PORT_STATUS_DEG (p : Nat) : Loc := ⟨ING_PORT_STATUS p, 6, 6⟩
def ING_PORT_STATUS_BONDED (p : Nat) : Loc := ⟨ING_PORT_STATUS p, 5, 5⟩
def ING_PORT_STATUS_EPOCH_VALID (p : Nat) : Loc := ⟨ING_PORT_STATUS p, 4, 4⟩
def ING_PORT_STATUS_CAL_BUSY (p : Nat) : Loc := ⟨ING_PORT_STATUS p, 3, 3⟩
def ING_PORT_STATUS_STATE (p : Nat) : Loc := ⟨ING_PORT_STATUS p, 2, 0⟩
def ING_LANE_MAP (p : Nat) : Nat := 0x00401048 + 0x1000 * p
def ING_CMD_ARG (p : Nat) : Nat := 0x0040104C + 0x1000 * p
def ING_CMD_ARG_LANE (p : Nat) : Loc := ⟨ING_CMD_ARG p, 3, 0⟩
def ING_PHASE (p : Nat) : Nat := 0x00401050 + 0x1000 * p
def ING_PORT_SKEW (p : Nat) : Nat := 0x00401054 + 0x1000 * p
def ING_CAL_PERIOD (p : Nat) : Nat := 0x00401058 + 0x1000 * p
def ING_EPOCH_FC (p : Nat) : Nat := 0x00401060 + 0x1000 * p
def ING_GAP (p : Nat) : Nat := 0x00401070 + 0x1000 * p
def ING_CLIP (p : Nat) : Nat := 0x00401078 + 0x1000 * p
def ING_BADBLK (p : Nat) : Nat := 0x00401080 + 0x1000 * p
def ING_LANE_STATUS (p l : Nat) : Nat := 0x00401100 + 0x1000 * p + 0x40 * l
def ING_LANE_STATUS_BACKOFF (p l : Nat) : Loc := ⟨ING_LANE_STATUS p l, 19, 16⟩
def ING_LANE_STATUS_LOGICAL (p l : Nat) : Loc := ⟨ING_LANE_STATUS p l, 15, 12⟩
def ING_LANE_STATUS_PRESET (p l : Nat) : Loc := ⟨ING_LANE_STATUS p l, 10, 8⟩
def ING_LANE_STATUS_DEG (p l : Nat) : Loc := ⟨ING_LANE_STATUS p l, 7, 7⟩
def ING_LANE_STATUS_AM_LOCK (p l : Nat) : Loc := ⟨ING_LANE_STATUS p l, 6, 6⟩
def ING_LANE_STATUS_LOL (p l : Nat) : Loc := ⟨ING_LANE_STATUS p l, 5, 5⟩
def ING_LANE_STATUS_LOS (p l : Nat) : Loc := ⟨ING_LANE_STATUS p l, 4, 4⟩
def ING_LANE_STATUS_STATE (p l : Nat) : Loc := ⟨ING_LANE_STATUS p l, 3, 0⟩
def ING_LANE_SKEW (p l : Nat) : Nat := 0x00401104 + 0x1000 * p + 0x40 * l
def ING_LANE_SER (p l : Nat) : Nat := 0x00401108 + 0x1000 * p + 0x40 * l
def ING_CW_CORR (p l : Nat) : Nat := 0x00401110 + 0x1000 * p + 0x40 * l
def ING_CW_UNCORR (p l : Nat) : Nat := 0x00401118 + 0x1000 * p + 0x40 * l
def ING_RETRAIN_CNT (p l : Nat) : Nat := 0x00401120 + 0x1000 * p + 0x40 * l
def ING_TRIM (p l t : Nat) : Nat := 0x00401800 + 0x1000 * p + 0x40 * l + 0x4 * t

/-! Registers of spec/05_transform_reaches.md, R151. -/

def XRH_CFG (k p : Nat) : Nat := 0x00810040 + 0x10000 * k + 0x1000 * p
def XRH_CFG_NORM (k p : Nat) : Loc := ⟨XRH_CFG k p, 21, 20⟩
def XRH_CFG_UBANK (k p : Nat) : Loc := ⟨XRH_CFG k p, 19, 19⟩
def XRH_CFG_WIN (k p : Nat) : Loc := ⟨XRH_CFG k p, 18, 16⟩
def XRH_CFG_PRESUM (k p : Nat) : Loc := ⟨XRH_CFG k p, 15, 14⟩
def XRH_CFG_OVL (k p : Nat) : Loc := ⟨XRH_CFG k p, 11, 9⟩
def XRH_CFG_N_LOG2 (k p : Nat) : Loc := ⟨XRH_CFG k p, 8, 4⟩
def XRH_CFG_EN (k p : Nat) : Loc := ⟨XRH_CFG k p, 0, 0⟩
def XRH_WPARAM (k p : Nat) : Nat := 0x00810044 + 0x10000 * k + 0x1000 * p
def XRH_OUT (k p : Nat) : Nat := 0x00810048 + 0x10000 * k + 0x1000 * p
def XRH_OUT_OUT_FMT (k p : Nat) : Loc := ⟨XRH_OUT k p, 27, 26⟩
def XRH_OUT_EDDY (k p : Nat) : Loc := ⟨XRH_OUT k p, 23, 16⟩
def XRH_OUT_DB_OFFSET (k p : Nat) : Loc := ⟨XRH_OUT k p, 15, 0⟩
def SRH_EXPORT (p : Nat) : Nat := 0x0081004C + 0x1000 * p
def SRH_EXPORT_EXP_EN (p : Nat) : Loc := ⟨SRH_EXPORT p, 16, 16⟩
def SRH_EXPORT_EXPORT_DIV (p : Nat) : Loc := ⟨SRH_EXPORT p, 15, 0⟩
def MRH_INTEG (p : Nat) : Nat := 0x0082004C + 0x1000 * p
def MRH_INTEG_FM1 (p : Nat) : Loc := ⟨MRH_INTEG p, 23, 0⟩
def DRH_INTEG (p : Nat) : Nat := 0x0083004C + 0x1000 * p
def DRH_INTEG_FM1 (p : Nat) : Loc := ⟨DRH_INTEG p, 23, 0⟩
def MRH_ASTRO (p : Nat) : Nat := 0x00820050 + 0x1000 * p
def MRH_ASTRO_SK_LOG2 (p : Nat) : Loc := ⟨MRH_ASTRO p, 11, 8⟩
def MRH_ASTRO_EXCISE (p : Nat) : Loc := ⟨MRH_ASTRO p, 2, 2⟩
def MRH_ASTRO_SK_EN (p : Nat) : Loc := ⟨MRH_ASTRO p, 1, 1⟩
def MRH_ASTRO_XP_EN (p : Nat) : Loc := ⟨MRH_ASTRO p, 0, 0⟩
def MRH_SK_LO (p : Nat) : Nat := 0x00820054 + 0x1000 * p
def MRH_SK_HI (p : Nat) : Nat := 0x00820058 + 0x1000 * p
def MRH_POOL (p : Nat) : Nat := 0x0082005C + 0x1000 * p
def MRH_POOL_COUNT (p : Nat) : Loc := ⟨MRH_POOL p, 26, 16⟩
def MRH_POOL_BASE (p : Nat) : Loc := ⟨MRH_POOL p, 10, 0⟩
def DRH_REGION_LO (p : Nat) : Nat := 0x00830050 + 0x1000 * p
def DRH_REGION_HI (p : Nat) : Nat := 0x00830054 + 0x1000 * p
def DRH_REGION_SIZE (p : Nat) : Nat := 0x00830058 + 0x1000 * p
def DRH_RSV (p : Nat) : Nat := 0x0083005C + 0x1000 * p
def DRH_CMD_ARG (p : Nat) : Nat := 0x00830060 + 0x1000 * p
def XRH_STATUS (k p : Nat) : Nat := 0x00810070 + 0x10000 * k + 0x1000 * p
def XRH_STATUS_OVL_ACT (k p : Nat) : Loc := ⟨XRH_STATUS k p, 15, 13⟩
def XRH_STATUS_N_ACT (k p : Nat) : Loc := ⟨XRH_STATUS k p, 12, 8⟩
def XRH_STATUS_INT_OPEN (k p : Nat) : Loc := ⟨XRH_STATUS k p, 3, 3⟩
def XRH_STATUS_XP_LOCK (k p : Nat) : Loc := ⟨XRH_STATUS k p, 2, 2⟩
def XRH_STATUS_SLAVE (k p : Nat) : Loc := ⟨XRH_STATUS k p, 1, 1⟩
def XRH_STATUS_RUN (k p : Nat) : Loc := ⟨XRH_STATUS k p, 0, 0⟩
def XRH_LAT (k p : Nat) : Nat := 0x00810074 + 0x10000 * k + 0x1000 * p
def XRH_WSUM (k p : Nat) : Nat := 0x00810078 + 0x10000 * k + 0x1000 * p
def XRH_WSQ (k p : Nat) : Nat := 0x0081007C + 0x10000 * k + 0x1000 * p
def MRH_XP_RESID (p : Nat) : Nat := 0x00820080 + 0x1000 * p
def MRH_FRAMES_OPEN (p : Nat) : Nat := 0x00820084 + 0x1000 * p
def DRH_FRAMES_OPEN (p : Nat) : Nat := 0x00830084 + 0x1000 * p
def XRH_FRAMES (k p : Nat) : Nat := 0x00810090 + 0x10000 * k + 0x1000 * p
def XRH_SAT (k p : Nat) : Nat := 0x00810098 + 0x10000 * k + 0x1000 * p
def XRH_DROP (k p : Nat) : Nat := 0x008100A0 + 0x10000 * k + 0x1000 * p
def DRH_FLUSH_LATE (p : Nat) : Nat := 0x008300A8 + 0x1000 * p
def MRH_RFI_BLK (p : Nat) : Nat := 0x008200B0 + 0x1000 * p
def SRH_UTAB (p b j : Nat) : Nat := 0x00880000 + 0x40000 * p + 0x20000 * b + 0x4 * j

/-! Registers of spec/06_silt_planes_detectors.md, R183. -/

def SLT_CMD_ARG (p : Nat) : Nat := 0x00C10040 + 0x1000 * p
def SLT_CMD_ARG_MASK (p : Nat) : Loc := ⟨SLT_CMD_ARG p, 11, 8⟩
def SLT_CMD_ARG_BUF (p : Nat) : Loc := ⟨SLT_CMD_ARG p, 4, 4⟩
def SLT_CMD_ARG_PLANE (p : Nat) : Loc := ⟨SLT_CMD_ARG p, 1, 0⟩
def SLT_PL_CFG (p n : Nat) : Nat := 0x00C10100 + 0x1000 * p + 0x40 * n
def SLT_PL_CFG_ARR_BASE (p n : Nat) : Loc := ⟨SLT_PL_CFG p n, 30, 24⟩
def SLT_PL_CFG_COLM (p n : Nat) : Loc := ⟨SLT_PL_CFG p n, 20, 16⟩
def SLT_PL_CFG_ROWM (p n : Nat) : Loc := ⟨SLT_PL_CFG p n, 11, 8⟩
def SLT_PL_CFG_REDUCE (p n : Nat) : Loc := ⟨SLT_PL_CFG p n, 3, 2⟩
def SLT_PL_CFG_DBUF (p n : Nat) : Loc := ⟨SLT_PL_CFG p n, 1, 1⟩
def SLT_PL_CFG_EN (p n : Nat) : Loc := ⟨SLT_PL_CFG p n, 0, 0⟩
def SLT_PL_MAP (p n : Nat) : Nat := 0x00C10104 + 0x1000 * p + 0x40 * n
def SLT_PL_MAP_START (p n : Nat) : Loc := ⟨SLT_PL_MAP p n, 15, 0⟩
def SLT_PL_STEP (p n : Nat) : Nat := 0x00C10108 + 0x1000 * p + 0x40 * n
def SLT_PL_ROW (p n : Nat) : Nat := 0x00C1010C + 0x1000 * p + 0x40 * n
def SLT_PL_ROW_ROW_STEP (p n : Nat) : Loc := ⟨SLT_PL_ROW p n, 25, 16⟩
def SLT_PL_ROW_TOP_DB (p n : Nat) : Loc := ⟨SLT_PL_ROW p n, 15, 0⟩
def SLT_PL_PER (p n : Nat) : Nat := 0x00C10110 + 0x1000 * p + 0x40 * n
def SLT_PL_DECAY (p n : Nat) : Nat := 0x00C10114 + 0x1000 * p + 0x40 * n
def SLT_PL_DECAY_DSH (p n : Nat) : Loc := ⟨SLT_PL_DECAY p n, 3, 0⟩
def SLT_PL_STATUS (p n : Nat) : Nat := 0x00C10118 + 0x1000 * p + 0x40 * n
def SLT_PL_STATUS_SLAVE (p n : Nat) : Loc := ⟨SLT_PL_STATUS p n, 7, 7⟩
def SLT_PL_STATUS_SUSP (p n : Nat) : Loc := ⟨SLT_PL_STATUS p n, 6, 6⟩
def SLT_PL_STATUS_CLEARING (p n : Nat) : Loc := ⟨SLT_PL_STATUS p n, 5, 5⟩
def SLT_PL_STATUS_LIVE (p n : Nat) : Loc := ⟨SLT_PL_STATUS p n, 4, 4⟩
def SLT_PL_STATUS_BUF1 (p n : Nat) : Loc := ⟨SLT_PL_STATUS p n, 3, 2⟩
def SLT_PL_STATUS_BUF0 (p n : Nat) : Loc := ⟨SLT_PL_STATUS p n, 1, 0⟩
def SLT_PL_SEQ (p n : Nat) : Nat := 0x00C1011C + 0x1000 * p + 0x40 * n
def SLT_PL_SATINC (p n : Nat) : Nat := 0x00C10120 + 0x1000 * p + 0x40 * n
def SLT_PL_OVERRUN (p n : Nat) : Nat := 0x00C10128 + 0x1000 * p + 0x40 * n
def SLT_PL_DECAY_SKIP (p n : Nat) : Nat := 0x00C10130 + 0x1000 * p + 0x40 * n
def DET_POOL (p : Nat) : Nat := 0x00C20040 + 0x1000 * p
def DET_POOL_COUNT (p : Nat) : Loc := ⟨DET_POOL p, 26, 16⟩
def DET_POOL_BASE (p : Nat) : Loc := ⟨DET_POOL p, 10, 0⟩
def DET_CMD_ARG (p : Nat) : Nat := 0x00C20044 + 0x1000 * p
def DET_CMD_ARG_MASK (p : Nat) : Loc := ⟨DET_CMD_ARG p, 7, 0⟩
def DET_TR_CFG (p t : Nat) : Nat := 0x00C20100 + 0x1000 * p + 0x20 * t
def DET_TR_CFG_AVG_SH (p t : Nat) : Loc := ⟨DET_TR_CFG p t, 12, 8⟩
def DET_TR_CFG_FMT (p t : Nat) : Loc := ⟨DET_TR_CFG p t, 7, 6⟩
def DET_TR_CFG_REDUCE (p t : Nat) : Loc := ⟨DET_TR_CFG p t, 5, 4⟩
def DET_TR_CFG_DET (p t : Nat) : Loc := ⟨DET_TR_CFG p t, 3, 1⟩
def DET_TR_CFG_EN (p t : Nat) : Loc := ⟨DET_TR_CFG p t, 0, 0⟩
def DET_TR_MAP (p t : Nat) : Nat := 0x00C20104 + 0x1000 * p + 0x20 * t
def DET_TR_MAP_PTSM1 (p t : Nat) : Loc := ⟨DET_TR_MAP p t, 31, 16⟩
def DET_TR_MAP_START (p t : Nat) : Loc := ⟨DET_TR_MAP p t, 15, 0⟩
def DET_TR_STEP (p t : Nat) : Nat := 0x00C20108 + 0x1000 * p + 0x20 * t
def DET_TR_UPD (p t : Nat) : Nat := 0x00C2010C + 0x1000 * p + 0x20 * t
def DET_TR_UPD_FM1 (p t : Nat) : Loc := ⟨DET_TR_UPD p t, 23, 0⟩
def DET_TR_STATUS (p t : Nat) : Nat := 0x00C20110 + 0x1000 * p + 0x20 * t
def DET_TR_STATUS_RDY1 (p t : Nat) : Loc := ⟨DET_TR_STATUS p t, 1, 1⟩
def DET_TR_STATUS_RDY0 (p t : Nat) : Loc := ⟨DET_TR_STATUS p t, 0, 0⟩
def DET_TR_SLOT (p t : Nat) : Nat := 0x00C20114 + 0x1000 * p + 0x20 * t
def DET_TR_SLOT_BANKS (p t : Nat) : Loc := ⟨DET_TR_SLOT p t, 26, 16⟩
def DET_TR_SLOT_FIRST (p t : Nat) : Loc := ⟨DET_TR_SLOT p t, 10, 0⟩
def DET_TR_DROP (p t : Nat) : Nat := 0x00C20118 + 0x1000 * p + 0x20 * t
def DET_SPG_CFG (p : Nat) : Nat := 0x00C20400 + 0x1000 * p
def DET_SPG_CFG_LINES_LOG2 (p : Nat) : Loc := ⟨DET_SPG_CFG p, 11, 8⟩
def DET_SPG_CFG_LINE_RED (p : Nat) : Loc := ⟨DET_SPG_CFG p, 4, 4⟩
def DET_SPG_CFG_REDUCE (p : Nat) : Loc := ⟨DET_SPG_CFG p, 3, 2⟩
def DET_SPG_CFG_EN (p : Nat) : Loc := ⟨DET_SPG_CFG p, 0, 0⟩
def DET_SPG_MAP (p : Nat) : Nat := 0x00C20404 + 0x1000 * p
def DET_SPG_MAP_PTSM1 (p : Nat) : Loc := ⟨DET_SPG_MAP p, 27, 16⟩
def DET_SPG_MAP_START (p : Nat) : Loc := ⟨DET_SPG_MAP p, 15, 0⟩
def DET_SPG_STEP (p : Nat) : Nat := 0x00C20408 + 0x1000 * p
def DET_SPG_LFR (p : Nat) : Nat := 0x00C2040C + 0x1000 * p
def DET_SPG_LFR_FM1 (p : Nat) : Loc := ⟨DET_SPG_LFR p, 15, 0⟩
def DET_SPG_REGION_LO (p : Nat) : Nat := 0x00C20410 + 0x1000 * p
def DET_SPG_REGION_HI (p : Nat) : Nat := 0x00C20414 + 0x1000 * p
def DET_SPG_REGION_SIZE (p : Nat) : Nat := 0x00C20418 + 0x1000 * p
def DET_SPG_WSEQ (p : Nat) : Nat := 0x00C2041C + 0x1000 * p
def DET_SPG_WOFF (p : Nat) : Nat := 0x00C20420 + 0x1000 * p
def DET_SPG_TDROP (p : Nat) : Nat := 0x00C20428 + 0x1000 * p
def COL_LUT_CFG (l : Nat) : Nat := 0x00C30040 + 0x4 * l
def COL_LUT_CFG_LIN_SH (l : Nat) : Loc := ⟨COL_LUT_CFG l, 7, 4⟩
def COL_LUT_CFG_MODE (l : Nat) : Loc := ⟨COL_LUT_CFG l, 1, 1⟩
def COL_LUT_CFG_BANK (l : Nat) : Loc := ⟨COL_LUT_CFG l, 0, 0⟩
def COL_LUT (l b i : Nat) : Nat := 0x00C40000 + 0x2000 * l + 0x1000 * b + 0x4 * i

/-! Registers of spec/07_tributary_bank.md, R214. -/

def TRB_CTX_CTL (i : Nat) : Nat := 0x01100000 + 0x40 * i
def TRB_CTX_CTL_COMMIT (i : Nat) : Loc := ⟨TRB_CTX_CTL i, 31, 31⟩
def TRB_CTX_CTL_IQ_EN (i : Nat) : Loc := ⟨TRB_CTX_CTL i, 22, 22⟩
def TRB_CTX_CTL_WEIR_EN (i : Nat) : Loc := ⟨TRB_CTX_CTL i, 21, 21⟩
def TRB_CTX_CTL_EV_EN (i : Nat) : Loc := ⟨TRB_CTX_CTL i, 20, 20⟩
def TRB_CTX_CTL_REP_EN (i : Nat) : Loc := ⟨TRB_CTX_CTL i, 19, 19⟩
def TRB_CTX_CTL_CHAN (i : Nat) : Loc := ⟨TRB_CTX_CTL i, 16, 4⟩
def TRB_CTX_CTL_PORT (i : Nat) : Loc := ⟨TRB_CTX_CTL i, 3, 2⟩
def TRB_CTX_CTL_STRADDLE (i : Nat) : Loc := ⟨TRB_CTX_CTL i, 1, 1⟩
def TRB_CTX_CTL_EN (i : Nat) : Loc := ⟨TRB_CTX_CTL i, 0, 0⟩
def TRB_CTX_FTW (i : Nat) : Nat := 0x01100004 + 0x40 * i
def TRB_CTX_DEC (i : Nat) : Nat := 0x01100008 + 0x40 * i
def TRB_CTX_DEC_BLK_LOG2 (i : Nat) : Loc := ⟨TRB_CTX_DEC i, 18, 16⟩
def TRB_CTX_DEC_R_C (i : Nat) : Loc := ⟨TRB_CTX_DEC i, 13, 0⟩
def TRB_CTX_VID (i : Nat) : Nat := 0x0110000C + 0x40 * i
def TRB_CTX_VID_VID_OFF (i : Nat) : Loc := ⟨TRB_CTX_VID i, 31, 10⟩
def TRB_CTX_VID_VLENM1 (i : Nat) : Loc := ⟨TRB_CTX_VID i, 9, 0⟩
def TRB_CTX_REP (i : Nat) : Nat := 0x01100010 + 0x40 * i
def TRB_CTX_REP_REPM1 (i : Nat) : Loc := ⟨TRB_CTX_REP i, 15, 0⟩
def TRB_CTX_THR (i : Nat) : Nat := 0x01100014 + 0x40 * i
def TRB_CTX_THR_HYST (i : Nat) : Loc := ⟨TRB_CTX_THR i, 31, 16⟩
def TRB_CTX_THR_THR_ON (i : Nat) : Loc := ⟨TRB_CTX_THR i, 15, 0⟩
def TRB_CTX_MIN (i : Nat) : Nat := 0x01100018 + 0x40 * i
def TRB_CTX_MIN_MIN_OFFM1 (i : Nat) : Loc := ⟨TRB_CTX_MIN i, 31, 16⟩
def TRB_CTX_MIN_MIN_ONM1 (i : Nat) : Loc := ⟨TRB_CTX_MIN i, 15, 0⟩
def TRB_CTX_OCC (i : Nat) : Nat := 0x0110001C + 0x40 * i
def TRB_CTX_OCC_OCC_THR (i : Nat) : Loc := ⟨TRB_CTX_OCC i, 15, 0⟩
def TRB_CTX_IQ (i : Nat) : Nat := 0x01100020 + 0x40 * i
def TRB_CTX_IQ_IQ_SLOT (i : Nat) : Loc := ⟨TRB_CTX_IQ i, 7, 0⟩
def TRB_CTX_DBO (i : Nat) : Nat := 0x01100024 + 0x40 * i
def TRB_CTX_DBO_DB_OFFSET (i : Nat) : Loc := ⟨TRB_CTX_DBO i, 15, 0⟩
def TRB_CTX_STAT (i : Nat) : Nat := 0x01100030 + 0x40 * i
def TRB_CTX_STAT_TUNE_SEQ (i : Nat) : Loc := ⟨TRB_CTX_STAT i, 31, 16⟩
def TRB_CTX_STAT_IDLE_WHY (i : Nat) : Loc := ⟨TRB_CTX_STAT i, 11, 10⟩
def TRB_CTX_STAT_REASON (i : Nat) : Loc := ⟨TRB_CTX_STAT i, 9, 7⟩
def TRB_CTX_STAT_CFG_REJ (i : Nat) : Loc := ⟨TRB_CTX_STAT i, 6, 6⟩
def TRB_CTX_STAT_COMMIT_PEND (i : Nat) : Loc := ⟨TRB_CTX_STAT i, 5, 5⟩
def TRB_CTX_STAT_EV_ON (i : Nat) : Loc := ⟨TRB_CTX_STAT i, 4, 4⟩
def TRB_CTX_STAT_SETTLING (i : Nat) : Loc := ⟨TRB_CTX_STAT i, 3, 3⟩
def TRB_CTX_STAT_RUN (i : Nat) : Loc := ⟨TRB_CTX_STAT i, 0, 0⟩
def TRB_CTX_LPWR (i : Nat) : Nat := 0x01100034 + 0x40 * i
def TRB_CTX_LVID (i : Nat) : Nat := 0x01100038 + 0x40 * i
def TRB_CTX_LVID_LATEST (i : Nat) : Loc := ⟨TRB_CTX_LVID i, 31, 16⟩
def TRB_CTX_LVID_PEAK (i : Nat) : Loc := ⟨TRB_CTX_LVID i, 15, 0⟩
def TRB_CTX_RSEQ (i : Nat) : Nat := 0x0110003C + 0x40 * i
def TRB_CH_STATUS (p : Nat) : Nat := 0x01010040 + 0x1000 * p
def TRB_CH_STATUS_SLAVE (p : Nat) : Loc := ⟨TRB_CH_STATUS p, 1, 1⟩
def TRB_CH_STATUS_RUN (p : Nat) : Loc := ⟨TRB_CH_STATUS p, 0, 0⟩
def TRB_CH_LAT (p : Nat) : Nat := 0x01010044 + 0x1000 * p
def TRB_CH_SAT (p : Nat) : Nat := 0x01010048 + 0x1000 * p
def TRB_STATE_POOL : Nat := 0x01020040
def TRB_STATE_POOL_COUNT : Loc := ⟨TRB_STATE_POOL, 26, 16⟩
def TRB_STATE_POOL_BASE : Loc := ⟨TRB_STATE_POOL, 10, 0⟩
def TRB_VID_POOL : Nat := 0x01020044
def TRB_VID_POOL_COUNT : Loc := ⟨TRB_VID_POOL, 26, 16⟩
def TRB_VID_POOL_BASE : Loc := ⟨TRB_VID_POOL, 10, 0⟩
def TRB_REP_REGION_LO : Nat := 0x01020048
def TRB_REP_REGION_HI : Nat := 0x0102004C
def TRB_REP_REGION_SIZE : Nat := 0x01020050
def TRB_IQ_REGION_LO : Nat := 0x01020054
def TRB_IQ_REGION_HI : Nat := 0x01020058
def TRB_IQ_REGION_HI_IQ_SLOTS_LOG2 : Loc := ⟨TRB_IQ_REGION_HI, 12, 8⟩
def TRB_IQ_REGION_HI_ADDR : Loc := ⟨TRB_IQ_REGION_HI, 7, 0⟩
def TRB_CMD_ARG : Nat := 0x01020060
def TRB_CMD_ARG_CTX : Loc := ⟨TRB_CMD_ARG, 13, 0⟩
def TRB_REP_WSEQ : Nat := 0x01020064
def TRB_REP_WOFF : Nat := 0x01020068
def TRB_RECQ_DROP : Nat := 0x01020070
def TRB_IQ_DROP : Nat := 0x01020078
def TRB_CFG_REJ : Nat := 0x01020080
def TRB_SAT : Nat := 0x01020088
def TRB_ENG_LOAD (e : Nat) : Nat := 0x01020100 + 0x4 * e
def TRB_ENG_LOAD_CTXS (e : Nat) : Loc := ⟨TRB_ENG_LOAD e, 26, 16⟩
def TRB_ENG_LOAD_WEIGHT (e : Nat) : Loc := ⟨TRB_ENG_LOAD e, 15, 0⟩
def TRB_IQ_WSEQ (s : Nat) : Nat := 0x01020400 + 0x4 * s

/-! Registers of spec/08_trigger_acquisition.md, R246. -/

def WEIR_SEQ_CFG (s : Nat) : Nat := 0x01410040 + 0x1000 * s
def WEIR_SEQ_CFG_AUTO_ARM (s : Nat) : Loc := ⟨WEIR_SEQ_CFG s, 4, 4⟩
def WEIR_SEQ_CFG_ARM_STATE (s : Nat) : Loc := ⟨WEIR_SEQ_CFG s, 3, 0⟩
def WEIR_SEQ_STATUS (s : Nat) : Nat := 0x01410044 + 0x1000 * s
def WEIR_SEQ_STATUS_C1_OVF (s : Nat) : Loc := ⟨WEIR_SEQ_STATUS s, 12, 12⟩
def WEIR_SEQ_STATUS_C0_OVF (s : Nat) : Loc := ⟨WEIR_SEQ_STATUS s, 11, 11⟩
def WEIR_SEQ_STATUS_T1_EXP (s : Nat) : Loc := ⟨WEIR_SEQ_STATUS s, 10, 10⟩
def WEIR_SEQ_STATUS_T1_RUN (s : Nat) : Loc := ⟨WEIR_SEQ_STATUS s, 9, 9⟩
def WEIR_SEQ_STATUS_T0_EXP (s : Nat) : Loc := ⟨WEIR_SEQ_STATUS s, 8, 8⟩
def WEIR_SEQ_STATUS_T0_RUN (s : Nat) : Loc := ⟨WEIR_SEQ_STATUS s, 7, 7⟩
def WEIR_SEQ_STATUS_OPEN (s : Nat) : Loc := ⟨WEIR_SEQ_STATUS s, 6, 6⟩
def WEIR_SEQ_STATUS_SIGNAL (s : Nat) : Loc := ⟨WEIR_SEQ_STATUS s, 5, 5⟩
def WEIR_SEQ_STATUS_ARMED (s : Nat) : Loc := ⟨WEIR_SEQ_STATUS s, 4, 4⟩
def WEIR_SEQ_STATUS_STATE (s : Nat) : Loc := ⟨WEIR_SEQ_STATUS s, 3, 0⟩
def WEIR_CNT (s n : Nat) : Nat := 0x01410048 + 0x1000 * s + 0x4 * n
def WEIR_LIMIT (s n : Nat) : Nat := 0x01410050 + 0x1000 * s + 0x4 * n
def WEIR_TIMER_LO (s n : Nat) : Nat := 0x01410058 + 0x1000 * s + 0x8 * n
def WEIR_TIMER_HI (s n : Nat) : Nat := 0x0141005C + 0x1000 * s + 0x8 * n
def WEIR_TSEL (s n : Nat) : Nat := 0x01410068 + 0x1000 * s + 0x4 * n
def WEIR_TSEL_HI (s n : Nat) : Loc := ⟨WEIR_TSEL s n, 29, 16⟩
def WEIR_TSEL_KIND (s n : Nat) : Loc := ⟨WEIR_TSEL s n, 15, 14⟩
def WEIR_TSEL_LO (s n : Nat) : Loc := ⟨WEIR_TSEL s n, 13, 0⟩
def WEIR_CMD_ARG (s : Nat) : Nat := 0x01410070 + 0x1000 * s
def WEIR_CMD_ARG_PROFILE (s : Nat) : Loc := ⟨WEIR_CMD_ARG s, 17, 16⟩
def WEIR_CMD_ARG_ACTIONS (s : Nat) : Loc := ⟨WEIR_CMD_ARG s, 15, 0⟩
def WEIR_PRF_PRE_LO (s r : Nat) : Nat := 0x01410080 + 0x1000 * s + 0x10 * r
def WEIR_PRF_PRE_HI (s r : Nat) : Nat := 0x01410084 + 0x1000 * s + 0x10 * r
def WEIR_PRF_POST_LO (s r : Nat) : Nat := 0x01410088 + 0x1000 * s + 0x10 * r
def WEIR_PRF_POST_HI (s r : Nat) : Nat := 0x0141008C + 0x1000 * s + 0x10 * r
def WEIR_ARMED (s : Nat) : Nat := 0x01410100 + 0x1000 * s
def WEIR_DEAD_GAP (s : Nat) : Nat := 0x01410108 + 0x1000 * s
def WEIR_DEAD_STALE (s : Nat) : Nat := 0x01410110 + 0x1000 * s
def WEIR_DEAD_FULL (s : Nat) : Nat := 0x01410118 + 0x1000 * s
def WEIR_TAGS (s : Nat) : Nat := 0x01410120 + 0x1000 * s
def WEIR_PINS (s : Nat) : Nat := 0x01410128 + 0x1000 * s
def WEIR_REFUSED (s : Nat) : Nat := 0x01410130 + 0x1000 * s
def WEIR_ARC0 (s q a : Nat) : Nat := 0x01410400 + 0x1000 * s + 0x20 * q + 0x8 * a
def WEIR_ARC0_EN (s q a : Nat) : Loc := ⟨WEIR_ARC0 s q a, 24, 24⟩
def WEIR_ARC0_NEXT (s q a : Nat) : Loc := ⟨WEIR_ARC0 s q a, 23, 20⟩
def WEIR_ARC0_OP (s q a : Nat) : Loc := ⟨WEIR_ARC0 s q a, 19, 18⟩
def WEIR_ARC0_INV_B (s q a : Nat) : Loc := ⟨WEIR_ARC0 s q a, 17, 17⟩
def WEIR_ARC0_INV_A (s q a : Nat) : Loc := ⟨WEIR_ARC0 s q a, 16, 16⟩
def WEIR_ARC0_SRC_B (s q a : Nat) : Loc := ⟨WEIR_ARC0 s q a, 15, 8⟩
def WEIR_ARC0_SRC_A (s q a : Nat) : Loc := ⟨WEIR_ARC0 s q a, 7, 0⟩
def WEIR_ARC1 (s q a : Nat) : Nat := 0x01410404 + 0x1000 * s + 0x20 * q + 0x8 * a
def WEIR_ARC1_PROFILE (s q a : Nat) : Loc := ⟨WEIR_ARC1 s q a, 17, 16⟩
def WEIR_ARC1_ACT (s q a : Nat) : Loc := ⟨WEIR_ARC1 s q a, 14, 0⟩
def WEIR_LVL_CFG (p n : Nat) : Nat := 0x01430040 + 0x1000 * p + 0x4 * n
def WEIR_LVL_CFG_EN (p n : Nat) : Loc := ⟨WEIR_LVL_CFG p n, 20, 20⟩
def WEIR_LVL_CFG_MODE (p n : Nat) : Loc := ⟨WEIR_LVL_CFG p n, 17, 16⟩
def WEIR_LVL_CFG_TH (p n : Nat) : Loc := ⟨WEIR_LVL_CFG p n, 15, 0⟩
def WEIR_MTAB_ADDR (p : Nat) : Nat := 0x01430050 + 0x1000 * p
def WEIR_MTAB_ADDR_ENTRY (p : Nat) : Loc := ⟨WEIR_MTAB_ADDR p, 18, 0⟩
def WEIR_MTAB_DATA (p : Nat) : Nat := 0x01430054 + 0x1000 * p
def WEIR_COND_STATUS (p : Nat) : Nat := 0x01430058 + 0x1000 * p
def WEIR_COND_STATUS_SLAVE (p : Nat) : Loc := ⟨WEIR_COND_STATUS p, 0, 0⟩
def WEIR_MASK_CFG (p m : Nat) : Nat := 0x01430100 + 0x1000 * p + 0x10 * m
def WEIR_MASK_CFG_START (p m : Nat) : Loc := ⟨WEIR_MASK_CFG p m, 31, 16⟩
def WEIR_MASK_CFG_KIND (p m : Nat) : Loc := ⟨WEIR_MASK_CFG p m, 1, 1⟩
def WEIR_MASK_CFG_EN (p m : Nat) : Loc := ⟨WEIR_MASK_CFG p m, 0, 0⟩
def WEIR_MASK_LEN (p m : Nat) : Nat := 0x01430104 + 0x1000 * p + 0x10 * m
def WEIR_MASK_LEN_LENM1 (p m : Nat) : Loc := ⟨WEIR_MASK_LEN p m, 14, 0⟩
def WEIR_MASK_BASE (p m : Nat) : Nat := 0x01430108 + 0x1000 * p + 0x10 * m
def WEIR_MASK_MIN (p m : Nat) : Nat := 0x0143010C + 0x1000 * p + 0x10 * m
def WEIR_MASK_MIN_MINM1 (p m : Nat) : Loc := ⟨WEIR_MASK_MIN p m, 14, 0⟩
def WEIR_HITS (p m : Nat) : Nat := 0x01430200 + 0x1000 * p + 0x8 * m
def CAP_CFG (p : Nat) : Nat := 0x01420040 + 0x1000 * p
def CAP_CFG_POLICY (p : Nat) : Loc := ⟨CAP_CFG p, 0, 0⟩
def CAP_RING_LEN (p : Nat) : Nat := 0x01420044 + 0x1000 * p
def CAP_MIN_LIVE (p : Nat) : Nat := 0x01420048 + 0x1000 * p
def CAP_RING_REGION_LO (p : Nat) : Nat := 0x0142004C + 0x1000 * p
def CAP_RING_REGION_HI (p : Nat) : Nat := 0x01420050 + 0x1000 * p
def CAP_RING_REGION_SIZE (p : Nat) : Nat := 0x01420054 + 0x1000 * p
def CAP_STAT_POOL (p : Nat) : Nat := 0x01420058 + 0x1000 * p
def CAP_STAT_POOL_COUNT (p : Nat) : Loc := ⟨CAP_STAT_POOL p, 26, 16⟩
def CAP_STAT_POOL_BASE (p : Nat) : Loc := ⟨CAP_STAT_POOL p, 10, 0⟩
def CAP_STATUS (p : Nat) : Nat := 0x0142005C + 0x1000 * p
def CAP_STATUS_RECS (p : Nat) : Loc := ⟨CAP_STATUS p, 26, 16⟩
def CAP_STATUS_DRAINED (p : Nat) : Loc := ⟨CAP_STATUS p, 2, 2⟩
def CAP_STATUS_FULL (p : Nat) : Loc := ⟨CAP_STATUS p, 1, 1⟩
def CAP_STATUS_LEN_PEND (p : Nat) : Loc := ⟨CAP_STATUS p, 0, 0⟩
def CAP_PINNED (p : Nat) : Nat := 0x01420060 + 0x1000 * p
def CAP_LEN_ACT (p : Nat) : Nat := 0x01420064 + 0x1000 * p
def CAP_WR_RWN (p : Nat) : Nat := 0x01420068 + 0x1000 * p
def CAP_DONEQ (p : Nat) : Nat := 0x01420070 + 0x1000 * p
def CAP_DONEQ_VALID (p : Nat) : Loc := ⟨CAP_DONEQ p, 31, 31⟩
def CAP_DONEQ_ID (p : Nat) : Loc := ⟨CAP_DONEQ p, 9, 0⟩
def CAP_CMD_ARG (p : Nat) : Nat := 0x01420074 + 0x1000 * p
def CAP_CMD_ARG_REC (p : Nat) : Loc := ⟨CAP_CMD_ARG p, 9, 0⟩
def CAP_DISCARD (p : Nat) : Nat := 0x01420080 + 0x1000 * p
def CAP_REFUSED (p : Nat) : Nat := 0x01420088 + 0x1000 * p
def CAP_RECLAIM (p : Nat) : Nat := 0x01420090 + 0x1000 * p
def CAP_LOST (p : Nat) : Nat := 0x01420098 + 0x1000 * p
def CAP_EP_RWN (p e : Nat) : Nat := 0x01420100 + 0x1000 * p + 0x20 * e
def CAP_EP_DT (p e w : Nat) : Nat := 0x01420108 + 0x1000 * p + 0x20 * e + 0x4 * w
def CAP_DESC (p id w : Nat) : Nat := 0x01600000 + 0x20000 * p + 0x80 * id + 0x4 * w
def WEIR_TAG_REGION_LO : Nat := 0x01440040
def WEIR_TAG_REGION_HI : Nat := 0x01440044
def WEIR_TAG_REGION_SIZE : Nat := 0x01440048
def WEIR_TAG_WSEQ : Nat := 0x0144004C
def WEIR_TAG_WOFF : Nat := 0x01440050
def WEIR_TAG_DROP : Nat := 0x01440058
def WEIR_LAG : Nat := 0x01440060

/-! Registers of spec/09_reservoir_pool.md, R282. -/

def RSV_STATUS : Nat := 0x01810040
def RSV_STATUS_L : Loc := ⟨RSV_STATUS, 14, 8⟩
def RSV_STATUS_SPARES_LEFT : Loc := ⟨RSV_STATUS, 7, 4⟩
def RSV_STATUS_SCRUB_BUSY : Loc := ⟨RSV_STATUS, 3, 3⟩
def RSV_STATUS_MIGRATING : Loc := ⟨RSV_STATUS, 2, 2⟩
def RSV_STATUS_HOT : Loc := ⟨RSV_STATUS, 1, 1⟩
def RSV_STATUS_MEM_DEG : Loc := ⟨RSV_STATUS, 0, 0⟩
def RSV_RETIRE_CFG : Nat := 0x01810044
def RSV_RETIRE_CFG_CE_LIMIT : Loc := ⟨RSV_RETIRE_CFG, 31, 16⟩
def RSV_RETIRE_CFG_CE_WIN : Loc := ⟨RSV_RETIRE_CFG, 11, 4⟩
def RSV_RETIRE_CFG_UE_RETIRE : Loc := ⟨RSV_RETIRE_CFG, 1, 1⟩
def RSV_RETIRE_CFG_AUTO : Loc := ⟨RSV_RETIRE_CFG, 0, 0⟩
def RSV_AGE_LIMIT : Nat := 0x01810048
def RSV_SCRUB_PERIOD : Nat := 0x0181004C
def RSV_CMD_ARG : Nat := 0x01810050
def RSV_CMD_ARG_RANK : Loc := ⟨RSV_CMD_ARG, 6, 0⟩
def RSV_COMMITTED : Nat := 0x01810054
def RSV_RESERVED : Nat := 0x01810058
def RSV_MIG_PROG : Nat := 0x01810060
def RSV_MIG_PAIR : Nat := 0x01810064
def RSV_MIG_PAIR_SPARE : Loc := ⟨RSV_MIG_PAIR, 14, 8⟩
def RSV_MIG_PAIR_SOURCE : Loc := ⟨RSV_MIG_PAIR, 6, 0⟩
def RSV_RES_RING (p : Nat) : Nat := 0x01810080 + 0x4 * p
def RSV_RES_DR (p : Nat) : Nat := 0x01810090 + 0x4 * p
def RSV_RES_STREAM : Nat := 0x018100A0
def RSV_RES_BWATER : Nat := 0x018100A4
def RSV_RES_MIG : Nat := 0x018100A8
def RSV_UE_ADDR_LO : Nat := 0x018100B0
def RSV_UE_ADDR_HI : Nat := 0x018100B4
def RSV_REG_BASE (n : Nat) : Nat := 0x01810400 + 0x10 * n
def RSV_REG_SIZE (n : Nat) : Nat := 0x01810404 + 0x10 * n
def RSV_REG_CFG (n : Nat) : Nat := 0x01810408 + 0x10 * n
def RSV_REG_CFG_OWNER (n : Nat) : Loc := ⟨RSV_REG_CFG n, 28, 16⟩
def RSV_REG_CFG_RING (n : Nat) : Loc := ⟨RSV_REG_CFG n, 5, 5⟩
def RSV_REG_CFG_PLACED (n : Nat) : Loc := ⟨RSV_REG_CFG n, 4, 4⟩
def RSV_REG_CFG_PAGE (n : Nat) : Loc := ⟨RSV_REG_CFG n, 3, 2⟩
def RSV_REG_CFG_ORDER (n : Nat) : Loc := ⟨RSV_REG_CFG n, 1, 0⟩
def RSV_RANK_STATUS (r : Nat) : Nat := 0x01811000 + 0x20 * r
def RSV_RANK_STATUS_LOGICAL (r : Nat) : Loc := ⟨RSV_RANK_STATUS r, 14, 8⟩
def RSV_RANK_STATUS_STATE (r : Nat) : Loc := ⟨RSV_RANK_STATUS r, 2, 0⟩
def RSV_RANK_CE (r : Nat) : Nat := 0x01811008 + 0x20 * r
def RSV_RANK_UE (r : Nat) : Nat := 0x01811010 + 0x20 * r
def RSV_RANK_CEWIN (r : Nat) : Nat := 0x01811018 + 0x20 * r
def RSV_RANK_MAP (l : Nat) : Nat := 0x01812000 + 0x4 * l
def RSV_RANK_MAP_RANK (l : Nat) : Loc := ⟨RSV_RANK_MAP l, 6, 0⟩
def POOL_CMD_ARG : Nat := 0x01820040
def POOL_CMD_ARG_CLEAR : Loc := ⟨POOL_CMD_ARG, 31, 31⟩
def POOL_CMD_ARG_OWNER : Loc := ⟨POOL_CMD_ARG, 28, 16⟩
def POOL_CMD_ARG_FIRST : Loc := ⟨POOL_CMD_ARG, 10, 0⟩
def POOL_CMD_CNT : Nat := 0x01820044
def POOL_CMD_CNT_COUNTM1 : Loc := ⟨POOL_CMD_CNT, 10, 0⟩
def POOL_SCRUB_PERIOD : Nat := 0x01820048
def POOL_CE : Nat := 0x01820050
def POOL_UE : Nat := 0x01820058
def POOL_UE_ADDR : Nat := 0x01820060
def POOL_OWNER (b : Nat) : Nat := 0x01821000 + 0x4 * b
def POOL_OWNER_STATE (b : Nat) : Loc := ⟨POOL_OWNER b, 17, 16⟩
def POOL_OWNER_OWNER (b : Nat) : Loc := ⟨POOL_OWNER b, 12, 0⟩
def EDDY_FULL (h : Nat) : Nat := 0x01830040 + 0x4 * h
def EDDY_WCOL : Nat := 0x01830048
def EDDY_PROD (n : Nat) : Nat := 0x01830100 + 0x4 * n

/-! Registers of spec/10_riffle_cores.md, R309. -/

def RFL_CFG (c : Nat) : Nat := 0x01A10040 + 0x1000 * c
def RFL_CFG_FAULT_ACT (c : Nat) : Loc := ⟨RFL_CFG c, 2, 2⟩
def RFL_CFG_AUTO_RUN (c : Nat) : Loc := ⟨RFL_CFG c, 1, 1⟩
def RFL_CFG_KERNEL (c : Nat) : Loc := ⟨RFL_CFG c, 0, 0⟩
def RFL_STATUS (c : Nat) : Nat := 0x01A10044 + 0x1000 * c
def RFL_STATUS_PC (c : Nat) : Loc := ⟨RFL_STATUS c, 19, 8⟩
def RFL_STATUS_SAT (c : Nat) : Loc := ⟨RFL_STATUS c, 7, 7⟩
def RFL_STATUS_IE (c : Nat) : Loc := ⟨RFL_STATUS c, 6, 6⟩
def RFL_STATUS_BANK (c : Nat) : Loc := ⟨RFL_STATUS c, 5, 5⟩
def RFL_STATUS_MODE (c : Nat) : Loc := ⟨RFL_STATUS c, 4, 4⟩
def RFL_STATUS_RUN (c : Nat) : Loc := ⟨RFL_STATUS c, 1, 0⟩
def RFL_ENTRY (c : Nat) : Nat := 0x01A10048 + 0x1000 * c
def RFL_VEC_EVENT (c : Nat) : Nat := 0x01A1004C + 0x1000 * c
def RFL_VEC_FAULT (c : Nat) : Nat := 0x01A10050 + 0x1000 * c
def RFL_VEC_SYS (c : Nat) : Nat := 0x01A10054 + 0x1000 * c
def RFL_EDDY_SEL (c : Nat) : Nat := 0x01A10058 + 0x1000 * c
def RFL_EDDY_SEL_B3 (c : Nat) : Loc := ⟨RFL_EDDY_SEL c, 29, 24⟩
def RFL_EDDY_SEL_B2 (c : Nat) : Loc := ⟨RFL_EDDY_SEL c, 21, 16⟩
def RFL_EDDY_SEL_B1 (c : Nat) : Loc := ⟨RFL_EDDY_SEL c, 13, 8⟩
def RFL_EDDY_SEL_B0 (c : Nat) : Loc := ⟨RFL_EDDY_SEL c, 5, 0⟩
def RFL_ECAUSE (c : Nat) : Nat := 0x01A1005C + 0x1000 * c
def RFL_ECAUSE_DOUBLE (c : Nat) : Loc := ⟨RFL_ECAUSE c, 8, 8⟩
def RFL_ECAUSE_CAUSE (c : Nat) : Loc := ⟨RFL_ECAUSE c, 3, 0⟩
def RFL_EPC (c : Nat) : Nat := 0x01A10060 + 0x1000 * c
def RFL_EADDR_LO (c : Nat) : Nat := 0x01A10064 + 0x1000 * c
def RFL_EADDR_HI (c : Nat) : Nat := 0x01A10068 + 0x1000 * c
def RFL_IMEM_ADDR (c : Nat) : Nat := 0x01A10070 + 0x1000 * c
def RFL_IMEM_LO (c : Nat) : Nat := 0x01A10074 + 0x1000 * c
def RFL_IMEM_HI (c : Nat) : Nat := 0x01A10078 + 0x1000 * c
def RFL_DMEM_ADDR (c : Nat) : Nat := 0x01A1007C + 0x1000 * c
def RFL_DMEM_ADDR_ADDR (c : Nat) : Loc := ⟨RFL_DMEM_ADDR c, 17, 2⟩
def RFL_DMEM_DATA (c : Nat) : Nat := 0x01A10080 + 0x1000 * c
def RFL_DOORBELL (c : Nat) : Nat := 0x01A10084 + 0x1000 * c
def RFL_CYCLE (c : Nat) : Nat := 0x01A10088 + 0x1000 * c
def RFL_STALL (c : Nat) : Nat := 0x01A10090 + 0x1000 * c
def RFL_FAULTS (c : Nat) : Nat := 0x01A10098 + 0x1000 * c
def RFL_DBG_SEL (c : Nat) : Nat := 0x01A100A0 + 0x1000 * c
def RFL_DBG_SEL_BANK (c : Nat) : Loc := ⟨RFL_DBG_SEL c, 16, 16⟩
def RFL_DBG_SEL_PART (c : Nat) : Loc := ⟨RFL_DBG_SEL c, 14, 12⟩
def RFL_DBG_SEL_FILE (c : Nat) : Loc := ⟨RFL_DBG_SEL c, 10, 8⟩
def RFL_DBG_SEL_INDEX (c : Nat) : Loc := ⟨RFL_DBG_SEL c, 3, 0⟩
def RFL_DBG_DATA (c : Nat) : Nat := 0x01A100A4 + 0x1000 * c
def RFL_CE (c : Nat) : Nat := 0x01A100A8 + 0x1000 * c

/-! Registers of spec/11_translation_millrace.md, R333. -/

def MMU_CMD_ARG_LO : Nat := 0x01C10040
def MMU_CMD_ARG_LO_VA : Loc := ⟨MMU_CMD_ARG_LO, 31, 0⟩
def MMU_CMD_ARG_HI : Nat := 0x01C10044
def MMU_CMD_ARG_HI_ASID : Loc := ⟨MMU_CMD_ARG_HI, 19, 16⟩
def MMU_CMD_ARG_HI_VA : Loc := ⟨MMU_CMD_ARG_HI, 15, 0⟩
def MMU_LF_INFO : Nat := 0x01C10048
def MMU_LF_INFO_VALID : Loc := ⟨MMU_LF_INFO, 31, 31⟩
def MMU_LF_INFO_LEVEL : Loc := ⟨MMU_LF_INFO, 21, 20⟩
def MMU_LF_INFO_MALFORMED : Loc := ⟨MMU_LF_INFO, 18, 18⟩
def MMU_LF_INFO_WALK : Loc := ⟨MMU_LF_INFO, 17, 17⟩
def MMU_LF_INFO_WRITE : Loc := ⟨MMU_LF_INFO, 16, 16⟩
def MMU_LF_INFO_CAUSE : Loc := ⟨MMU_LF_INFO, 15, 12⟩
def MMU_LF_INFO_ASID : Loc := ⟨MMU_LF_INFO, 11, 8⟩
def MMU_LF_INFO_REQ : Loc := ⟨MMU_LF_INFO, 6, 0⟩
def MMU_LF_VA_LO : Nat := 0x01C1004C
def MMU_LF_VA_HI : Nat := 0x01C10050
def MMU_AS_ROOT_LO (n : Nat) : Nat := 0x01C10060 + 0x8 * n
def MMU_AS_ROOT_LO_ROOT (n : Nat) : Loc := ⟨MMU_AS_ROOT_LO n, 31, 12⟩
def MMU_AS_ROOT_LO_EN (n : Nat) : Loc := ⟨MMU_AS_ROOT_LO n, 0, 0⟩
def MMU_AS_ROOT_HI (n : Nat) : Nat := 0x01C10064 + 0x8 * n
def MMU_AS_ROOT_HI_ROOT (n : Nat) : Loc := ⟨MMU_AS_ROOT_HI n, 7, 0⟩
def MMU_WALKS : Nat := 0x01C100E0
def MMU_FAULTS : Nat := 0x01C100E8
def MMU_MALFORMED : Nat := 0x01C100F0
def MMU_CORE_ASID (c : Nat) : Nat := 0x01C10100 + 0x4 * c
def MMU_CORE_ASID_ASID (c : Nat) : Loc := ⟨MMU_CORE_ASID c, 3, 0⟩
def MLR_CFG (ch : Nat) : Nat := 0x01C20040 + 0x1000 * ch
def MLR_CFG_PHYS_OK (ch : Nat) : Loc := ⟨MLR_CFG ch, 16, 16⟩
def MLR_CFG_ASID (ch : Nat) : Loc := ⟨MLR_CFG ch, 11, 8⟩
def MLR_CFG_RETRY_LIM (ch : Nat) : Loc := ⟨MLR_CFG ch, 7, 4⟩
def MLR_CFG_PRIO (ch : Nat) : Loc := ⟨MLR_CFG ch, 1, 0⟩
def MLR_STATUS (ch : Nat) : Nat := 0x01C20044 + 0x1000 * ch
def MLR_STATUS_REGD (ch : Nat) : Loc := ⟨MLR_STATUS ch, 11, 11⟩
def MLR_STATUS_URGENT (ch : Nat) : Loc := ⟨MLR_STATUS ch, 10, 10⟩
def MLR_STATUS_SIDE (ch : Nat) : Loc := ⟨MLR_STATUS ch, 9, 9⟩
def MLR_STATUS_DESC (ch : Nat) : Loc := ⟨MLR_STATUS ch, 8, 8⟩
def MLR_STATUS_CAUSE (ch : Nat) : Loc := ⟨MLR_STATUS ch, 7, 4⟩
def MLR_STATUS_STATE (ch : Nat) : Loc := ⟨MLR_STATUS ch, 2, 0⟩
def MLR_POS_X (ch : Nat) : Nat := 0x01C20048 + 0x1000 * ch
def MLR_POS_X_X (ch : Nat) : Loc := ⟨MLR_POS_X ch, 23, 0⟩
def MLR_POS_YZ (ch : Nat) : Nat := 0x01C2004C + 0x1000 * ch
def MLR_POS_YZ_Z (ch : Nat) : Loc := ⟨MLR_POS_YZ ch, 31, 16⟩
def MLR_POS_YZ_Y (ch : Nat) : Loc := ⟨MLR_POS_YZ ch, 15, 0⟩
def MLR_FLT_VA_LO (ch : Nat) : Nat := 0x01C20050 + 0x1000 * ch
def MLR_FLT_VA_HI (ch : Nat) : Nat := 0x01C20054 + 0x1000 * ch
def MLR_FLT_VA_HI_PHYS (ch : Nat) : Loc := ⟨MLR_FLT_VA_HI ch, 31, 31⟩
def MLR_FLT_VA_HI_VA (ch : Nat) : Loc := ⟨MLR_FLT_VA_HI ch, 15, 0⟩
def MLR_CUR_LO (ch : Nat) : Nat := 0x01C20058 + 0x1000 * ch
def MLR_CUR_HI (ch : Nat) : Nat := 0x01C2005C + 0x1000 * ch
def MLR_DONE (ch : Nat) : Nat := 0x01C20060 + 0x1000 * ch
def MLR_BYTES (ch : Nat) : Nat := 0x01C20068 + 0x1000 * ch
def MLR_RETRIES (ch : Nat) : Nat := 0x01C20070 + 0x1000 * ch
def MLR_DESC (ch w : Nat) : Nat := 0x01C20080 + 0x1000 * ch + 0x4 * w

/-! Registers of spec/12_streaming_host.md, R361. -/

def NET_LNK_CFG (k : Nat) : Nat := 0x01D10040 + 0x1000 * k
def NET_LNK_CFG_ND_EN (k : Nat) : Loc := ⟨NET_LNK_CFG k, 5, 5⟩
def NET_LNK_CFG_ARP_EN (k : Nat) : Loc := ⟨NET_LNK_CFG k, 4, 4⟩
def NET_LNK_CFG_PFC_EN (k : Nat) : Loc := ⟨NET_LNK_CFG k, 3, 3⟩
def NET_LNK_CFG_PAUSE_EN (k : Nat) : Loc := ⟨NET_LNK_CFG k, 2, 2⟩
def NET_LNK_CFG_SPLIT (k : Nat) : Loc := ⟨NET_LNK_CFG k, 1, 1⟩
def NET_LNK_CFG_EN (k : Nat) : Loc := ⟨NET_LNK_CFG k, 0, 0⟩
def NET_LNK_STATUS (k : Nat) : Nat := 0x01D10044 + 0x1000 * k
def NET_LNK_STATUS_IN_BW (k : Nat) : Loc := ⟨NET_LNK_STATUS k, 16, 16⟩
def NET_LNK_STATUS_PAUSED (k : Nat) : Loc := ⟨NET_LNK_STATUS k, 15, 8⟩
def NET_LNK_STATUS_PCS (k : Nat) : Loc := ⟨NET_LNK_STATUS k, 1, 1⟩
def NET_LNK_STATUS_UP (k : Nat) : Loc := ⟨NET_LNK_STATUS k, 0, 0⟩
def NET_MAC_LO (k : Nat) : Nat := 0x01D10048 + 0x1000 * k
def NET_MAC_HI (k : Nat) : Nat := 0x01D1004C + 0x1000 * k
def NET_IP4 (k : Nat) : Nat := 0x01D10050 + 0x1000 * k
def NET_IP6 (k w : Nat) : Nat := 0x01D10054 + 0x1000 * k + 0x4 * w
def NET_TX_FRAMES (k : Nat) : Nat := 0x01D10070 + 0x1000 * k
def NET_RX_DISCARD (k : Nat) : Nat := 0x01D10078 + 0x1000 * k
def NET_PAUSE_RX (k : Nat) : Nat := 0x01D10080 + 0x1000 * k
def NET_CMD_ARG : Nat := 0x01D20040
def NET_CMD_ARG_REC : Loc := ⟨NET_CMD_ARG, 25, 16⟩
def NET_CMD_ARG_PORT : Loc := ⟨NET_CMD_ARG, 15, 14⟩
def NET_CMD_ARG_QP : Loc := ⟨NET_CMD_ARG, 13, 8⟩
def NET_CMD_ARG_STREAM : Loc := ⟨NET_CMD_ARG, 5, 0⟩
def NET_BW_REGION_LO : Nat := 0x01D20044
def NET_BW_REGION_HI : Nat := 0x01D20048
def NET_BW_REGION_SIZE : Nat := 0x01D2004C
def NET_RTX_POOL : Nat := 0x01D20050
def NET_RTX_POOL_COUNT : Loc := ⟨NET_RTX_POOL, 26, 16⟩
def NET_RTX_POOL_BASE : Loc := ⟨NET_RTX_POOL, 10, 0⟩
def NET_BW_FILL (k : Nat) : Nat := 0x01D20060 + 0x4 * k
def NET_BW_DROP : Nat := 0x01D20070
def NET_STR_CFG (m : Nat) : Nat := 0x01D21000 + 0x40 * m
def NET_STR_CFG_KIND (m : Nat) : Loc := ⟨NET_STR_CFG m, 19, 16⟩
def NET_STR_CFG_PACK (m : Nat) : Loc := ⟨NET_STR_CFG m, 15, 15⟩
def NET_STR_CFG_AUTO_REL (m : Nat) : Loc := ⟨NET_STR_CFG m, 14, 14⟩
def NET_STR_CFG_ROCE (m : Nat) : Loc := ⟨NET_STR_CFG m, 13, 13⟩
def NET_STR_CFG_PCP (m : Nat) : Loc := ⟨NET_STR_CFG m, 12, 10⟩
def NET_STR_CFG_LINK (m : Nat) : Loc := ⟨NET_STR_CFG m, 9, 8⟩
def NET_STR_CFG_AUTOSTART (m : Nat) : Loc := ⟨NET_STR_CFG m, 0, 0⟩
def NET_STR_SRC (m : Nat) : Nat := 0x01D21004 + 0x40 * m
def NET_STR_SRC_NQ_LOG2 (m : Nat) : Loc := ⟨NET_STR_SRC m, 20, 16⟩
def NET_STR_SRC_INDEX (m : Nat) : Loc := ⟨NET_STR_SRC m, 15, 8⟩
def NET_STR_SRC_PORT (m : Nat) : Loc := ⟨NET_STR_SRC m, 1, 0⟩
def NET_STR_DST (m : Nat) : Nat := 0x01D21008 + 0x40 * m
def NET_STR_PAY (m : Nat) : Nat := 0x01D2100C + 0x40 * m
def NET_STR_AUX_LO (m : Nat) : Nat := 0x01D21010 + 0x40 * m
def NET_STR_AUX_HI (m : Nat) : Nat := 0x01D21014 + 0x40 * m
def NET_STR_STATUS (m : Nat) : Nat := 0x01D21018 + 0x40 * m
def NET_STR_STATUS_IN_BW (m : Nat) : Loc := ⟨NET_STR_STATUS m, 16, 16⟩
def NET_STR_STATUS_QDEPTH (m : Nat) : Loc := ⟨NET_STR_STATUS m, 14, 8⟩
def NET_STR_STATUS_STATE (m : Nat) : Loc := ⟨NET_STR_STATUS m, 1, 0⟩
def NET_STR_PKT (m : Nat) : Nat := 0x01D21020 + 0x40 * m
def NET_STR_BYTES (m : Nat) : Nat := 0x01D21028 + 0x40 * m
def NET_STR_LOST (m : Nat) : Nat := 0x01D21030 + 0x40 * m
def NET_DST_MAC_LO (d : Nat) : Nat := 0x01D22000 + 0x40 * d
def NET_DST_MAC_HI (d : Nat) : Nat := 0x01D22004 + 0x40 * d
def NET_DST_MAC_HI_IPV6 (d : Nat) : Loc := ⟨NET_DST_MAC_HI d, 29, 29⟩
def NET_DST_MAC_HI_VLAN_EN (d : Nat) : Loc := ⟨NET_DST_MAC_HI d, 28, 28⟩
def NET_DST_MAC_HI_VID (d : Nat) : Loc := ⟨NET_DST_MAC_HI d, 27, 16⟩
def NET_DST_MAC_HI_MAC (d : Nat) : Loc := ⟨NET_DST_MAC_HI d, 15, 0⟩
def NET_DST_IP (d w : Nat) : Nat := 0x01D22008 + 0x40 * d + 0x4 * w
def NET_DST_PORTS (d : Nat) : Nat := 0x01D22018 + 0x40 * d
def NET_DST_PORTS_SRC (d : Nat) : Loc := ⟨NET_DST_PORTS d, 31, 16⟩
def NET_DST_PORTS_DST (d : Nat) : Loc := ⟨NET_DST_PORTS d, 15, 0⟩
def NET_DST_TOS (d : Nat) : Nat := 0x01D2201C + 0x40 * d
def NET_DST_TOS_TTL (d : Nat) : Loc := ⟨NET_DST_TOS d, 15, 8⟩
def NET_DST_TOS_DSCP (d : Nat) : Loc := ⟨NET_DST_TOS d, 5, 0⟩
def NET_QP_CFG (q : Nat) : Nat := 0x01D23000 + 0x40 * q
def NET_QP_CFG_DST (q : Nat) : Loc := ⟨NET_QP_CFG q, 29, 24⟩
def NET_QP_CFG_IMM_ALL (q : Nat) : Loc := ⟨NET_QP_CFG q, 17, 17⟩
def NET_QP_CFG_TIMEOUT (q : Nat) : Loc := ⟨NET_QP_CFG q, 16, 12⟩
def NET_QP_CFG_RNR_RETRY (q : Nat) : Loc := ⟨NET_QP_CFG q, 10, 8⟩
def NET_QP_CFG_RETRY_CNT (q : Nat) : Loc := ⟨NET_QP_CFG q, 6, 4⟩
def NET_QP_CFG_PMTU (q : Nat) : Loc := ⟨NET_QP_CFG q, 2, 1⟩
def NET_QP_CFG_EN (q : Nat) : Loc := ⟨NET_QP_CFG q, 0, 0⟩
def NET_QP_DQPN (q : Nat) : Nat := 0x01D23004 + 0x40 * q
def NET_QP_RKEY (q : Nat) : Nat := 0x01D23008 + 0x40 * q
def NET_QP_VA_LO (q : Nat) : Nat := 0x01D2300C + 0x40 * q
def NET_QP_VA_HI (q : Nat) : Nat := 0x01D23010 + 0x40 * q
def NET_QP_SLOT (q : Nat) : Nat := 0x01D23014 + 0x40 * q
def NET_QP_SLOT_SLOT_LOG2 (q : Nat) : Loc := ⟨NET_QP_SLOT q, 12, 8⟩
def NET_QP_SLOT_NSLOT_LOG2 (q : Nat) : Loc := ⟨NET_QP_SLOT q, 4, 0⟩
def NET_QP_PSN (q : Nat) : Nat := 0x01D23018 + 0x40 * q
def NET_QP_STATUS (q : Nat) : Nat := 0x01D2301C + 0x40 * q
def NET_QP_STATUS_SYNDROME (q : Nat) : Loc := ⟨NET_QP_STATUS q, 15, 8⟩
def NET_QP_STATUS_STATE (q : Nat) : Loc := ⟨NET_QP_STATUS q, 1, 0⟩
def NET_QP_RETX (q : Nat) : Nat := 0x01D23020 + 0x40 * q
def HOST_STATUS : Nat := 0x01D30044
def HOST_STATUS_MSIX_EN : Loc := ⟨HOST_STATUS, 8, 8⟩
def HOST_STATUS_WIDTH : Loc := ⟨HOST_STATUS, 7, 4⟩
def HOST_STATUS_GEN : Loc := ⟨HOST_STATUS, 3, 1⟩
def HOST_STATUS_LINK_UP : Loc := ⟨HOST_STATUS, 0, 0⟩
def HOST_WIN_LO : Nat := 0x01D30048
def HOST_WIN_LO_BASE : Loc := ⟨HOST_WIN_LO, 31, 20⟩
def HOST_WIN_HI : Nat := 0x01D3004C
def HOST_WIN_HI_BASE : Loc := ⟨HOST_WIN_HI, 7, 0⟩
def HOST_ERR : Nat := 0x01D30050
def HOST_DOWN : Nat := 0x01D30058
def MSIX_ADDR_LO (v : Nat) : Nat := 0x01D38000 + 0x10 * v
def MSIX_ADDR_HI (v : Nat) : Nat := 0x01D38004 + 0x10 * v
def MSIX_DATA (v : Nat) : Nat := 0x01D38008 + 0x10 * v
def MSIX_CTRL (v : Nat) : Nat := 0x01D3800C + 0x10 * v
def MSIX_CTRL_MASK (v : Nat) : Loc := ⟨MSIX_CTRL v, 0, 0⟩
def MSIX_PBA (w : Nat) : Nat := 0x01D39000 + 0x4 * w
def PTP_CFG : Nat := 0x01D40040
def PTP_CFG_GM_FIX : Loc := ⟨PTP_CFG, 20, 20⟩
def PTP_CFG_DREQ_LOG2 : Loc := ⟨PTP_CFG, 19, 16⟩
def PTP_CFG_DOMAIN : Loc := ⟨PTP_CFG, 15, 8⟩
def PTP_CFG_TRANSPORT : Loc := ⟨PTP_CFG, 5, 4⟩
def PTP_CFG_LINK : Loc := ⟨PTP_CFG, 2, 1⟩
def PTP_CFG_EN : Loc := ⟨PTP_CFG, 0, 0⟩
def PTP_STATUS : Nat := 0x01D40044
def PTP_STATUS_UTC_OFFSET : Loc := ⟨PTP_STATUS, 31, 16⟩
def PTP_STATUS_UTC_VALID : Loc := ⟨PTP_STATUS, 2, 2⟩
def PTP_STATUS_STATE : Loc := ⟨PTP_STATUS, 1, 0⟩
def PTP_GM_LO : Nat := 0x01D40048
def PTP_GM_HI : Nat := 0x01D4004C
def PTP_OFFSET : Nat := 0x01D40050
def PTP_DELAY : Nat := 0x01D40054
def PTP_TX_LAT : Nat := 0x01D40058
def PTP_RX_LAT : Nat := 0x01D4005C
def MGMT_CFG : Nat := 0x01D50040
def MGMT_CFG_MGMT_PORT : Loc := ⟨MGMT_CFG, 31, 16⟩
def MGMT_CFG_EN : Loc := ⟨MGMT_CFG, 0, 0⟩
def MGMT_BOOT_ID_LO : Nat := 0x01D50044
def MGMT_BOOT_ID_HI : Nat := 0x01D50048
def MGMT_MSEQ : Nat := 0x01D5004C
def MGMT_ACC : Nat := 0x01D50058
def MGMT_REJ : Nat := 0x01D50060

/-! Registers of spec/13_display.md, R376. -/

def DPY_CFG : Nat := 0x01E10040
def DPY_CFG_VREPM1 : Loc := ⟨DPY_CFG, 22, 20⟩
def DPY_CFG_HREPM1 : Loc := ⟨DPY_CFG, 18, 16⟩
def DPY_CFG_LUT : Loc := ⟨DPY_CFG, 15, 14⟩
def DPY_CFG_BUFSEL : Loc := ⟨DPY_CFG, 13, 12⟩
def DPY_CFG_PLANE : Loc := ⟨DPY_CFG, 11, 10⟩
def DPY_CFG_PORT : Loc := ⟨DPY_CFG, 9, 8⟩
def DPY_CFG_VSPOL : Loc := ⟨DPY_CFG, 4, 4⟩
def DPY_CFG_HSPOL : Loc := ⟨DPY_CFG, 3, 3⟩
def DPY_CFG_SRC_KIND : Loc := ⟨DPY_CFG, 2, 1⟩
def DPY_CFG_EN : Loc := ⟨DPY_CFG, 0, 0⟩
def DPY_H0 : Nat := 0x01E10044
def DPY_H0_HFP : Loc := ⟨DPY_H0, 25, 16⟩
def DPY_H0_HACT : Loc := ⟨DPY_H0, 12, 0⟩
def DPY_H1 : Nat := 0x01E10048
def DPY_H1_HBP : Loc := ⟨DPY_H1, 25, 16⟩
def DPY_H1_HSYNC : Loc := ⟨DPY_H1, 9, 0⟩
def DPY_V0 : Nat := 0x01E1004C
def DPY_V0_VFP : Loc := ⟨DPY_V0, 25, 16⟩
def DPY_V0_VACT : Loc := ⟨DPY_V0, 11, 0⟩
def DPY_V1 : Nat := 0x01E10050
def DPY_V1_VBP : Loc := ⟨DPY_V1, 25, 16⟩
def DPY_V1_VSYNC : Loc := ⟨DPY_V1, 9, 0⟩
def DPY_FB_BASE_LO : Nat := 0x01E10054
def DPY_FB_BASE_HI : Nat := 0x01E10058
def DPY_FB_STRIDE : Nat := 0x01E1005C
def DPY_STATUS : Nat := 0x01E10060
def DPY_STATUS_LINE : Loc := ⟨DPY_STATUS, 27, 16⟩
def DPY_STATUS_ABORTED : Loc := ⟨DPY_STATUS, 3, 3⟩
def DPY_STATUS_COMMIT_PEND : Loc := ⟨DPY_STATUS, 2, 2⟩
def DPY_STATUS_VBLANK : Loc := ⟨DPY_STATUS, 1, 1⟩
def DPY_STATUS_RUN : Loc := ⟨DPY_STATUS, 0, 0⟩
def DPY_FB_SIZE : Nat := 0x01E10064
def DPY_FB_SIZE_FB_H : Loc := ⟨DPY_FB_SIZE, 27, 16⟩
def DPY_FB_SIZE_FB_W : Loc := ⟨DPY_FB_SIZE, 11, 0⟩
def DPY_POS : Nat := 0x01E10068
def DPY_POS_Y0 : Loc := ⟨DPY_POS, 27, 16⟩
def DPY_POS_X0 : Loc := ⟨DPY_POS, 11, 0⟩
def DPY_BORDER : Nat := 0x01E1006C
def DPY_WM : Nat := 0x01E10070
def DPY_WM_HIGH_WM : Loc := ⟨DPY_WM, 25, 16⟩
def DPY_WM_LOW_WM : Loc := ⟨DPY_WM, 9, 0⟩
def DPY_FRAME : Nat := 0x01E10080
def DPY_UNDERRUN : Nat := 0x01E10088
def DPY_OUT_CFG (o : Nat) : Nat := 0x01E20040 + 0x1000 * o
def DPY_OUT_CFG_RATE_MAX (o : Nat) : Loc := ⟨DPY_OUT_CFG o, 5, 4⟩
def DPY_OUT_CFG_LANES_MAX (o : Nat) : Loc := ⟨DPY_OUT_CFG o, 2, 1⟩
def DPY_OUT_CFG_EN (o : Nat) : Loc := ⟨DPY_OUT_CFG o, 0, 0⟩
def DPY_OUT_STATUS (o : Nat) : Nat := 0x01E20044 + 0x1000 * o
def DPY_OUT_STATUS_STATE (o : Nat) : Loc := ⟨DPY_OUT_STATUS o, 10, 8⟩
def DPY_OUT_STATUS_SINK_SS (o : Nat) : Loc := ⟨DPY_OUT_STATUS o, 6, 6⟩
def DPY_OUT_STATUS_RATE (o : Nat) : Loc := ⟨DPY_OUT_STATUS o, 5, 4⟩
def DPY_OUT_STATUS_LANES (o : Nat) : Loc := ⟨DPY_OUT_STATUS o, 3, 2⟩
def DPY_OUT_STATUS_TRAINED (o : Nat) : Loc := ⟨DPY_OUT_STATUS o, 1, 1⟩
def DPY_OUT_STATUS_HPD (o : Nat) : Loc := ⟨DPY_OUT_STATUS o, 0, 0⟩
def DPY_AUX_CTRL (o : Nat) : Nat := 0x01E20048 + 0x1000 * o
def DPY_AUX_CTRL_OP (o : Nat) : Loc := ⟨DPY_AUX_CTRL o, 31, 28⟩
def DPY_AUX_CTRL_LENM1 (o : Nat) : Loc := ⟨DPY_AUX_CTRL o, 27, 24⟩
def DPY_AUX_CTRL_ADDR (o : Nat) : Loc := ⟨DPY_AUX_CTRL o, 19, 0⟩
def DPY_AUX_STATUS (o : Nat) : Nat := 0x01E2004C + 0x1000 * o
def DPY_AUX_STATUS_BYTES (o : Nat) : Loc := ⟨DPY_AUX_STATUS o, 12, 8⟩
def DPY_AUX_STATUS_REPLY (o : Nat) : Loc := ⟨DPY_AUX_STATUS o, 1, 0⟩
def DPY_AUX_DATA (o w : Nat) : Nat := 0x01E20050 + 0x1000 * o + 0x4 * w
def DPY_RETRAIN_CNT (o : Nat) : Nat := 0x01E20060 + 0x1000 * o

/-! Registers of spec/14_brook.md, R406. -/

def BRK_STATUS : Nat := 0x01E80040
def BRK_STATUS_RAIL_ON : Loc := ⟨BRK_STATUS, 31, 24⟩
def BRK_STATUS_CMP : Loc := ⟨BRK_STATUS, 23, 12⟩
def BRK_STATUS_WARM : Loc := ⟨BRK_STATUS, 6, 6⟩
def BRK_STATUS_CAL_BUSY : Loc := ⟨BRK_STATUS, 5, 5⟩
def BRK_STATUS_EXTRACT : Loc := ⟨BRK_STATUS, 4, 4⟩
def BRK_STATUS_KILLED : Loc := ⟨BRK_STATUS, 3, 3⟩
def BRK_STATUS_DIE_RUN : Loc := ⟨BRK_STATUS, 2, 2⟩
def BRK_STATUS_DIE_GO : Loc := ⟨BRK_STATUS, 1, 1⟩
def BRK_STATUS_PRESENT : Loc := ⟨BRK_STATUS, 0, 0⟩
def BRK_ADC_CFG : Nat := 0x01E80044
def BRK_ADC_CFG_LENM1 : Loc := ⟨BRK_ADC_CFG, 12, 8⟩
def BRK_ADC_CFG_REFBUF_EN : Loc := ⟨BRK_ADC_CFG, 0, 0⟩
def BRK_ADC_QPOP : Nat := 0x01E80048
def BRK_ADC_TRIM : Nat := 0x01E8004C
def BRK_ADC_TRIM_GAIN : Loc := ⟨BRK_ADC_TRIM, 23, 8⟩
def BRK_ADC_TRIM_OFFSET : Loc := ⟨BRK_ADC_TRIM, 7, 0⟩
def BRK_CAL_PERIOD : Nat := 0x01E80050
def BRK_XCOL : Nat := 0x01E80054
def BRK_XCOL_COUNT : Loc := ⟨BRK_XCOL, 31, 16⟩
def BRK_XCOL_SET : Loc := ⟨BRK_XCOL, 0, 0⟩
def BRK_CMD_ARG : Nat := 0x01E80058
def BRK_BT : Nat := 0x01E80060
def BRK_LOG_WSEQ : Nat := 0x01E80068
def BRK_LOG_LOST : Nat := 0x01E8006C
def BRK_ADC_LOST : Nat := 0x01E80070
def BRK_TMR (n : Nat) : Nat := 0x01E80080 + 0x4 * n
def BRK_RAIL_ORDER : Nat := 0x01E800A0
def BRK_RAIL_SLOT : Nat := 0x01E800A4
def BRK_RAIL_STATUS : Nat := 0x01E800A8
def BRK_RAIL_STATUS_ANY_EN : Loc := ⟨BRK_RAIL_STATUS, 11, 11⟩
def BRK_RAIL_STATUS_HIGHEST : Loc := ⟨BRK_RAIL_STATUS, 10, 8⟩
def BRK_RAIL_STATUS_GOOD : Loc := ⟨BRK_RAIL_STATUS, 7, 0⟩
def BRK_SEQ (e : Nat) : Nat := 0x01E80100 + 0x4 * e
def BRK_SEQ_QUEUE (e : Nat) : Loc := ⟨BRK_SEQ e, 13, 13⟩
def BRK_SEQ_SLOT_EN (e : Nat) : Loc := ⟨BRK_SEQ e, 12, 12⟩
def BRK_SEQ_SLOT (e : Nat) : Loc := ⟨BRK_SEQ e, 11, 8⟩
def BRK_SEQ_CHAN (e : Nat) : Loc := ⟨BRK_SEQ e, 5, 0⟩
def BRK_CMP_CFG (n : Nat) : Nat := 0x01E80200 + 0x4 * n
def BRK_CMP_CFG_KILL (n : Nat) : Loc := ⟨BRK_CMP_CFG n, 15, 15⟩
def BRK_CMP_CFG_BTMR (n : Nat) : Loc := ⟨BRK_CMP_CFG n, 14, 12⟩
def BRK_CMP_CFG_BLK_SRC (n : Nat) : Loc := ⟨BRK_CMP_CFG n, 11, 11⟩
def BRK_CMP_CFG_FILT (n : Nat) : Loc := ⟨BRK_CMP_CFG n, 10, 9⟩
def BRK_CMP_CFG_MAJ (n : Nat) : Loc := ⟨BRK_CMP_CFG n, 8, 7⟩
def BRK_CMP_CFG_HYST (n : Nat) : Loc := ⟨BRK_CMP_CFG n, 6, 2⟩
def BRK_CMP_CFG_MODE (n : Nat) : Loc := ⟨BRK_CMP_CFG n, 1, 0⟩
def BRK_CMP_STATUS (n : Nat) : Nat := 0x01E80240 + 0x4 * n
def BRK_CMP_STATUS_ST_FAIL (n : Nat) : Loc := ⟨BRK_CMP_STATUS n, 4, 4⟩
def BRK_CMP_STATUS_ST_PASS (n : Nat) : Loc := ⟨BRK_CMP_STATUS n, 3, 3⟩
def BRK_CMP_STATUS_ST_BUSY (n : Nat) : Loc := ⟨BRK_CMP_STATUS n, 2, 2⟩
def BRK_CMP_STATUS_FILTERED (n : Nat) : Loc := ⟨BRK_CMP_STATUS n, 1, 1⟩
def BRK_CMP_STATUS_RAW (n : Nat) : Loc := ⟨BRK_CMP_STATUS n, 0, 0⟩
def BRK_FLT_CFG (n : Nat) : Nat := 0x01E80300 + 0x10 * n
def BRK_FLT_CFG_SRCSLOT (n : Nat) : Loc := ⟨BRK_FLT_CFG n, 19, 16⟩
def BRK_FLT_CFG_SRC (n : Nat) : Loc := ⟨BRK_FLT_CFG n, 15, 15⟩
def BRK_FLT_CFG_SHIFT (n : Nat) : Loc := ⟨BRK_FLT_CFG n, 14, 10⟩
def BRK_FLT_CFG_NM1 (n : Nat) : Loc := ⟨BRK_FLT_CFG n, 9, 0⟩
def BRK_FLT_LIM (n : Nat) : Nat := 0x01E80304 + 0x10 * n
def BRK_FLT_LIM_HI (n : Nat) : Loc := ⟨BRK_FLT_LIM n, 31, 16⟩
def BRK_FLT_LIM_LO (n : Nat) : Loc := ⟨BRK_FLT_LIM n, 15, 0⟩
def BRK_FLT_OUT (n : Nat) : Nat := 0x01E80308 + 0x10 * n
def BRK_FLT_OUT_STALE (n : Nat) : Loc := ⟨BRK_FLT_OUT n, 29, 29⟩
def BRK_FLT_OUT_SETTLING (n : Nat) : Loc := ⟨BRK_FLT_OUT n, 28, 28⟩
def BRK_FLT_OUT_FILL (n : Nat) : Loc := ⟨BRK_FLT_OUT n, 26, 16⟩
def BRK_FLT_OUT_OUT (n : Nat) : Loc := ⟨BRK_FLT_OUT n, 15, 0⟩
def BRK_FLT_SAT (n : Nat) : Nat := 0x01E8030C + 0x10 * n
def BRK_FLT_SAT_SAT (n : Nat) : Loc := ⟨BRK_FLT_SAT n, 0, 0⟩
def BRK_RULE0 (r : Nat) : Nat := 0x01E80400 + 0x10 * r
def BRK_RULE0_EN (r : Nat) : Loc := ⟨BRK_RULE0 r, 31, 31⟩
def BRK_RULE0_LATCH (r : Nat) : Loc := ⟨BRK_RULE0 r, 30, 30⟩
def BRK_RULE0_COMB (r : Nat) : Loc := ⟨BRK_RULE0 r, 29, 28⟩
def BRK_RULE0_INV_A (r : Nat) : Loc := ⟨BRK_RULE0 r, 27, 27⟩
def BRK_RULE0_SRC_A (r : Nat) : Loc := ⟨BRK_RULE0 r, 26, 20⟩
def BRK_RULE0_INV_B (r : Nat) : Loc := ⟨BRK_RULE0 r, 19, 19⟩
def BRK_RULE0_SRC_B (r : Nat) : Loc := ⟨BRK_RULE0 r, 18, 12⟩
def BRK_RULE0_EDGE (r : Nat) : Loc := ⟨BRK_RULE0 r, 11, 11⟩
def BRK_RULE1 (r : Nat) : Nat := 0x01E80404 + 0x10 * r
def BRK_RULE1_SEQ_DOWN (r : Nat) : Loc := ⟨BRK_RULE1 r, 26, 26⟩
def BRK_RULE1_SEQ_UP (r : Nat) : Loc := ⟨BRK_RULE1 r, 25, 25⟩
def BRK_RULE1_FSLOT (r : Nat) : Loc := ⟨BRK_RULE1 r, 24, 21⟩
def BRK_RULE1_FRESET (r : Nat) : Loc := ⟨BRK_RULE1 r, 20, 20⟩
def BRK_RULE1_DIE_GO (r : Nat) : Loc := ⟨BRK_RULE1 r, 19, 19⟩
def BRK_RULE1_DIE_HOLD (r : Nat) : Loc := ⟨BRK_RULE1 r, 18, 18⟩
def BRK_RULE1_EXTRACT (r : Nat) : Loc := ⟨BRK_RULE1 r, 17, 17⟩
def BRK_RULE1_DIE_EVT (r : Nat) : Loc := ⟨BRK_RULE1 r, 16, 16⟩
def BRK_RULE1_ALERT (r : Nat) : Loc := ⟨BRK_RULE1 r, 15, 15⟩
def BRK_RULE1_LOG (r : Nat) : Loc := ⟨BRK_RULE1 r, 14, 14⟩
def BRK_RULE1_TMR (r : Nat) : Loc := ⟨BRK_RULE1 r, 13, 11⟩
def BRK_RULE1_T_START (r : Nat) : Loc := ⟨BRK_RULE1 r, 10, 10⟩
def BRK_RULE1_RAIL_OFF (r : Nat) : Loc := ⟨BRK_RULE1 r, 9, 9⟩
def BRK_RULE1_RAIL_ON (r : Nat) : Loc := ⟨BRK_RULE1 r, 8, 8⟩
def BRK_RULE1_RAILS (r : Nat) : Loc := ⟨BRK_RULE1 r, 7, 0⟩
def BRK_RULE2 (r : Nat) : Nat := 0x01E80408 + 0x10 * r
def BRK_RULE2_SET_B (r : Nat) : Loc := ⟨BRK_RULE2 r, 31, 16⟩
def BRK_RULE2_SET_A (r : Nat) : Loc := ⟨BRK_RULE2 r, 15, 0⟩

/-! Registers of spec/15_module_electrical.md, R426. -/

def MOD_THERM_CFG : Nat := 0x00004040
def MOD_THERM_CFG_THROT_REL : Loc := ⟨MOD_THERM_CFG, 23, 16⟩
def MOD_THERM_CFG_THROT2 : Loc := ⟨MOD_THERM_CFG, 15, 8⟩
def MOD_THERM_CFG_THROT1 : Loc := ⟨MOD_THERM_CFG, 7, 0⟩
def MOD_THERM_STATUS : Nat := 0x00004044
def MOD_THERM_STATUS_LEVEL : Loc := ⟨MOD_THERM_STATUS, 17, 16⟩
def MOD_THERM_STATUS_HOTTEST : Loc := ⟨MOD_THERM_STATUS, 15, 14⟩
def MOD_THERM_STATUS_TJ_MAX : Loc := ⟨MOD_THERM_STATUS, 11, 0⟩
def MOD_HOURS : Nat := 0x00004048
def MOD_HOT_HOURS : Nat := 0x00004050
def MOD_THROT : Nat := 0x00004058
def MOD_PIN : Nat := 0x00004060

/-! Registers of spec/16_startup_image_lifecycle.md, R453. -/

def IMG_STATUS : Nat := 0x01F90040
def IMG_STATUS_CHK : Loc := ⟨IMG_STATUS, 19, 16⟩
def IMG_STATUS_SLOT1_RES : Loc := ⟨IMG_STATUS, 15, 12⟩
def IMG_STATUS_SLOT0_RES : Loc := ⟨IMG_STATUS, 11, 8⟩
def IMG_STATUS_FALLBACK : Loc := ⟨IMG_STATUS, 2, 2⟩
def IMG_STATUS_NOIMAGE : Loc := ⟨IMG_STATUS, 1, 1⟩
def IMG_STATUS_RUN_SLOT : Loc := ⟨IMG_STATUS, 0, 0⟩
def IMG_VER : Nat := 0x01F90044
def IMG_INFO : Nat := 0x01F90048
def IMG_INFO_MODULE : Loc := ⟨IMG_INFO, 31, 16⟩
def IMG_INFO_SVN : Loc := ⟨IMG_INFO, 7, 0⟩
def IMG_DIGEST (w : Nat) : Nat := 0x01F90050 + 0x4 * w
def IMG_CMD_ARG : Nat := 0x01F90080
def IMG_CMD_ARG_SLOT : Loc := ⟨IMG_CMD_ARG, 0, 0⟩
def IMG_SRC_LO : Nat := 0x01F90084
def IMG_SRC_HI : Nat := 0x01F90088
def IMG_LEN : Nat := 0x01F9008C
def LCS_STATUS : Nat := 0x01FA0040
def LCS_STATUS_KEY_FUSED : Loc := ⟨LCS_STATUS, 16, 16⟩
def LCS_STATUS_SVN_FUSE : Loc := ⟨LCS_STATUS, 14, 8⟩
def LCS_STATUS_STATE : Loc := ⟨LCS_STATUS, 1, 0⟩
def LCS_CONFIRM : Nat := 0x01FA0044
def LCS_KEYHASH (w : Nat) : Nat := 0x01FA0050 + 0x4 * w
def JNL_STATUS : Nat := 0x01FB0040
def JNL_STATUS_PENDING : Loc := ⟨JNL_STATUS, 23, 16⟩
def JNL_STATUS_FILL : Loc := ⟨JNL_STATUS, 15, 3⟩
def JNL_STATUS_COMPACTING : Loc := ⟨JNL_STATUS, 1, 1⟩
def JNL_STATUS_ACTIVE : Loc := ⟨JNL_STATUS, 0, 0⟩
def JNL_GEN : Nat := 0x01FB0044
def JNL_SEQ : Nat := 0x01FB0048
def JNL_BAD : Nat := 0x01FB0050
def JNL_WRITES : Nat := 0x01FB0058
def JNL_COMPACT : Nat := 0x01FB0060

/-! Registers of spec/17_log_counters_faults.md, R473. -/

def LOG_CFG : Nat := 0x01F10040
def LOG_CFG_FILL_THR : Loc := ⟨LOG_CFG, 13, 8⟩
def LOG_CFG_MIN_SEV : Loc := ⟨LOG_CFG, 2, 0⟩
def LOG_WSEQ : Nat := 0x01F10044
def LOG_RSEQ : Nat := 0x01F10048
def LOG_LOST : Nat := 0x01F10050
def LOG_DROP : Nat := 0x01F10058
def LOG_MARK_ARG : Nat := 0x01F10060
def LOG_MARK_SEV : Nat := 0x01F10064
def LOG_MARK_SEV_SEV : Loc := ⟨LOG_MARK_SEV, 2, 0⟩
def LOG_VEC_HOLD (v : Nat) : Nat := 0x01F10400 + 0x4 * v
def LOG_LINE_MASK_LO (l : Nat) : Nat := 0x01F10800 + 0x8 * l
def LOG_LINE_MASK_HI (l : Nat) : Nat := 0x01F10804 + 0x8 * l
def LOG_ROUTE0 (k : Nat) : Nat := 0x01F11000 + 0x8 * k
def LOG_ROUTE0_EN (k : Nat) : Loc := ⟨LOG_ROUTE0 k, 31, 31⟩
def LOG_ROUTE0_ALLBITS (k : Nat) : Loc := ⟨LOG_ROUTE0 k, 30, 30⟩
def LOG_ROUTE0_SEV (k : Nat) : Loc := ⟨LOG_ROUTE0 k, 26, 24⟩
def LOG_ROUTE0_BIT (k : Nat) : Loc := ⟨LOG_ROUTE0 k, 20, 16⟩
def LOG_ROUTE0_UNIT (k : Nat) : Loc := ⟨LOG_ROUTE0 k, 12, 0⟩
def LOG_ROUTE1 (k : Nat) : Nat := 0x01F11004 + 0x8 * k
def LOG_ROUTE1_LOG (k : Nat) : Loc := ⟨LOG_ROUTE1 k, 31, 31⟩
def LOG_ROUTE1_BROOK (k : Nat) : Loc := ⟨LOG_ROUTE1 k, 30, 30⟩
def LOG_ROUTE1_MSIX (k : Nat) : Loc := ⟨LOG_ROUTE1 k, 29, 29⟩
def LOG_ROUTE1_RFL (k : Nat) : Loc := ⟨LOG_ROUTE1 k, 28, 28⟩
def LOG_ROUTE1_LINE (k : Nat) : Loc := ⟨LOG_ROUTE1 k, 20, 16⟩
def LOG_ROUTE1_VEC (k : Nat) : Loc := ⟨LOG_ROUTE1 k, 7, 0⟩
def PERF_CTRL : Nat := 0x01F40040
def PERF_CTRL_SNAP_PERIOD : Loc := ⟨PERF_CTRL, 31, 16⟩
def PERF_CTRL_FREEZE : Loc := ⟨PERF_CTRL, 0, 0⟩
def PERF_POOL : Nat := 0x01F40044
def PERF_POOL_VALID : Loc := ⟨PERF_POOL, 31, 31⟩
def PERF_POOL_BANK : Loc := ⟨PERF_POOL, 10, 0⟩
def PERF_CMD_ARG : Nat := 0x01F40048
def PERF_CMD_ARG_HIST : Loc := ⟨PERF_CMD_ARG, 3, 0⟩
def PERF_OVF (i : Nat) : Nat := 0x01F40060 + 0x4 * i
def PERF_HOVF : Nat := 0x01F40080
def PERF_CFG (n : Nat) : Nat := 0x01F41000 + 0x10 * n
def PERF_CFG_SEL (n : Nat) : Loc := ⟨PERF_CFG n, 25, 8⟩
def PERF_CFG_CLR (n : Nat) : Loc := ⟨PERF_CFG n, 3, 3⟩
def PERF_CFG_GRANT (n : Nat) : Loc := ⟨PERF_CFG n, 2, 2⟩
def PERF_CFG_MODE (n : Nat) : Loc := ⟨PERF_CFG n, 1, 0⟩
def PERF_CNT (n : Nat) : Nat := 0x01F41004 + 0x10 * n
def PERF_HCFG (h : Nat) : Nat := 0x01F42000 + 0x10 * h
def PERF_HCFG_INST (h : Nat) : Loc := ⟨PERF_HCFG h, 23, 16⟩
def PERF_HCFG_SRC (h : Nat) : Loc := ⟨PERF_HCFG h, 11, 8⟩
def PERF_HCFG_GRANT (h : Nat) : Loc := ⟨PERF_HCFG h, 1, 1⟩
def PERF_HCFG_EN (h : Nat) : Loc := ⟨PERF_HCFG h, 0, 0⟩
def PERF_HBIN (h b : Nat) : Nat := 0x01F44000 + 0x200 * h + 0x8 * b

/-! Registers of spec/18_register_map.md, R478. -/

def UNIT_VENDOR : Nat := 0x00000040
def UNIT_STEP : Nat := 0x00000044
def UNIT_SERIAL_LO : Nat := 0x00000048
def UNIT_SERIAL_HI : Nat := 0x0000004C
def UNIT_DIE_LO : Nat := 0x00000050
def UNIT_DIE_HI : Nat := 0x00000054
def UNIT_CAPS : Nat := 0x00000058

end Sys2Proof.R
end

