-- ==== Sys2Proof/Machine/RegTable.lean ====
section
/-! DEFINITION. The access type of every register field (R4) and the reset value of every word, from the register
tables of spec/02 to spec/18.  A row describes a block of like words: base offset, the strides and counts of its
indices (largest stride first), whether it is a LO/HI pair, and its fields.  A field the tables do not list is
reserved (R6): it reads 0 and a write leaves it. -/

namespace Sys2Proof.Machine

/-- Access types of R4; `shlk` is SH for rules 16 to 63 and LK for rules 0 to 15 of Brook (R396, R406). -/
inductive Acc where
  | rw | ro | w1c | w1s | wo | sh | lk | shlk
  deriving DecidableEq, Repr

/-- A field of a register word: msb, lsb, access type. -/
structure FieldAcc where
  hi : Nat
  lo : Nat
  acc : Acc
  deriving DecidableEq, Repr

/-- A block of like register words. -/
structure RegBlock where
  base : Nat
  dims : List (Nat × Nat)
  pair : Bool
  fields : List FieldAcc
  deriving DecidableEq, Repr

/-- Register blocks of spec/02_clocks_timebase.md. -/
def blocks02a : List RegBlock := [
  ⟨0x00100040, [], false, [⟨4, 3, .sh⟩, ⟨2, 2, .sh⟩, ⟨1, 0, .sh⟩]⟩,
  ⟨0x00100044, [], false, [⟨10, 8, .ro⟩, ⟨5, 5, .ro⟩, ⟨4, 4, .ro⟩, ⟨3, 3, .ro⟩, ⟨2, 2, .ro⟩, ⟨1, 1, .ro⟩, ⟨0, 0, .ro⟩]⟩,
  ⟨0x00100048, [], false, [⟨31, 0, .ro⟩]⟩,
  ⟨0x0010004C, [], false, [⟨31, 0, .ro⟩]⟩,
  ⟨0x00100050, [], false, [⟨31, 0, .ro⟩]⟩,
  ⟨0x00100060, [(0x4, 2)], false, [⟨22, 22, .sh⟩, ⟨21, 20, .sh⟩, ⟨19, 18, .sh⟩, ⟨17, 16, .sh⟩, ⟨15, 0, .sh⟩]⟩,
  ⟨0x00100068, [], false, [⟨24, 24, .ro⟩, ⟨23, 18, .sh⟩, ⟨17, 16, .sh⟩, ⟨15, 13, .sh⟩, ⟨12, 11, .sh⟩, ⟨4, 0, .sh⟩]⟩,
  ⟨0x0010006C, [], false, [⟨23, 0, .sh⟩]⟩,
  ⟨0x00100080, [], false, [⟨19, 16, .rw⟩, ⟨15, 12, .rw⟩, ⟨11, 8, .rw⟩, ⟨3, 3, .rw⟩, ⟨2, 2, .rw⟩, ⟨1, 0, .rw⟩]⟩,
  ⟨0x00100084, [], false, [⟨31, 16, .ro⟩, ⟨4, 4, .ro⟩, ⟨3, 3, .ro⟩, ⟨2, 2, .ro⟩, ⟨1, 0, .ro⟩]⟩,
  ⟨0x00100088, [], false, [⟨15, 0, .ro⟩]⟩,
  ⟨0x0010008C, [], false, [⟨31, 0, .ro⟩]⟩,
  ⟨0x00100090, [], false, [⟨31, 0, .ro⟩]⟩,
  ⟨0x00100094, [], false, [⟨15, 0, .ro⟩]⟩,
  ⟨0x00100098, [], false, [⟨31, 0, .ro⟩]⟩,
  ⟨0x0010009C, [], false, [⟨31, 0, .ro⟩]⟩,
  ⟨0x001000A0, [], false, [⟨31, 0, .rw⟩]⟩,
  ⟨0x001000A4, [], false, [⟨31, 0, .rw⟩]⟩,
  ⟨0x001000A8, [], false, [⟨31, 0, .rw⟩]⟩,
  ⟨0x001000AC, [], false, [⟨15, 0, .rw⟩]⟩]

/-- Register blocks of spec/03_event_timing.md. -/
def blocks03a : List RegBlock := [
  ⟨0x00200100, [(0x40, 8)], false, [⟨23, 16, .rw⟩, ⟨15, 12, .rw⟩, ⟨7, 7, .rw⟩, ⟨6, 5, .rw⟩, ⟨4, 4, .rw⟩, ⟨2, 1, .rw⟩, ⟨0, 0, .rw⟩]⟩,
  ⟨0x00200104, [(0x40, 8)], false, [⟨15, 0, .rw⟩]⟩,
  ⟨0x00200108, [(0x40, 8)], false, [⟨31, 0, .ro⟩]⟩,
  ⟨0x0020010C, [(0x40, 8)], false, [⟨12, 12, .ro⟩, ⟨11, 11, .ro⟩, ⟨10, 10, .ro⟩, ⟨9, 0, .ro⟩]⟩,
  ⟨0x00200110, [(0x40, 8), (0x4, 4)], false, [⟨31, 0, .ro⟩]⟩,
  ⟨0x00200120, [(0x40, 8)], true, [⟨31, 0, .ro⟩]⟩,
  ⟨0x00200128, [(0x40, 8)], true, [⟨31, 0, .ro⟩]⟩,
  ⟨0x00200130, [(0x40, 8)], true, [⟨31, 0, .ro⟩]⟩,
  ⟨0x00200400, [(0x40, 9), (0x4, 16)], false, [⟨11, 0, .ro⟩]⟩,
  ⟨0x00200040, [], false, [⟨31, 0, .ro⟩]⟩,
  ⟨0x00200044, [], false, [⟨8, 0, .rw⟩]⟩,
  ⟨0x00200800, [(0x20, 4)], false, [⟨31, 16, .rw⟩, ⟨1, 1, .rw⟩, ⟨0, 0, .rw⟩]⟩,
  ⟨0x00200804, [(0x20, 4)], false, [⟨8, 8, .ro⟩, ⟨7, 7, .ro⟩, ⟨6, 0, .ro⟩]⟩,
  ⟨0x00200808, [(0x20, 4), (0x4, 4)], false, [⟨31, 0, .ro⟩]⟩,
  ⟨0x00200818, [(0x20, 4)], false, [⟨31, 0, .ro⟩]⟩,
  ⟨0x0020081C, [(0x20, 4)], false, [⟨31, 0, .ro⟩]⟩]

/-- Register blocks of spec/04_ingress_lanes.md. -/
def blocks04a : List RegBlock := [
  ⟨0x00401040, [(0x1000, 4)], false, [⟨17, 16, .rw⟩, ⟨15, 15, .rw⟩, ⟨14, 14, .rw⟩, ⟨13, 13, .rw⟩, ⟨12, 12, .rw⟩, ⟨11, 11, .rw⟩, ⟨10, 8, .rw⟩, ⟨6, 4, .rw⟩, ⟨3, 2, .rw⟩, ⟨1, 1, .rw⟩, ⟨0, 0, .rw⟩]⟩,
  ⟨0x00401044, [(0x1000, 4)], false, [⟨26, 16, .ro⟩, ⟨7, 7, .ro⟩, ⟨6, 6, .ro⟩, ⟨5, 5, .ro⟩, ⟨4, 4, .ro⟩, ⟨3, 3, .ro⟩, ⟨2, 0, .ro⟩]⟩,
  ⟨0x00401048, [(0x1000, 4)], false, [⟨31, 0, .ro⟩]⟩,
  ⟨0x0040104C, [(0x1000, 4)], false, [⟨3, 0, .rw⟩]⟩,
  ⟨0x00401050, [(0x1000, 4)], false, [⟨31, 0, .ro⟩]⟩,
  ⟨0x00401054, [(0x1000, 4)], false, [⟨31, 0, .ro⟩]⟩,
  ⟨0x00401058, [(0x1000, 4)], false, [⟨31, 0, .rw⟩]⟩,
  ⟨0x00401060, [(0x1000, 4)], true, [⟨31, 0, .ro⟩]⟩,
  ⟨0x00401070, [(0x1000, 4)], true, [⟨31, 0, .ro⟩]⟩,
  ⟨0x00401078, [(0x1000, 4)], true, [⟨31, 0, .ro⟩]⟩,
  ⟨0x00401080, [(0x1000, 4)], true, [⟨31, 0, .ro⟩]⟩,
  ⟨0x00401100, [(0x1000, 4), (0x40, 9)], false, [⟨19, 16, .ro⟩, ⟨15, 12, .ro⟩, ⟨10, 8, .ro⟩, ⟨7, 7, .ro⟩, ⟨6, 6, .ro⟩, ⟨5, 5, .ro⟩, ⟨4, 4, .ro⟩, ⟨3, 0, .ro⟩]⟩,
  ⟨0x00401104, [(0x1000, 4), (0x40, 9)], false, [⟨31, 0, .ro⟩]⟩,
  ⟨0x00401108, [(0x1000, 4), (0x40, 9)], false, [⟨31, 0, .ro⟩]⟩,
  ⟨0x00401110, [(0x1000, 4), (0x40, 9)], true, [⟨31, 0, .ro⟩]⟩,
  ⟨0x00401118, [(0x1000, 4), (0x40, 9)], true, [⟨31, 0, .ro⟩]⟩,
  ⟨0x00401120, [(0x1000, 4), (0x40, 9)], true, [⟨31, 0, .ro⟩]⟩,
  ⟨0x00401800, [(0x1000, 4), (0x40, 9), (0x4, 16)], false, [⟨11, 0, .ro⟩]⟩]

/-- Register blocks of spec/05_transform_reaches.md. -/
def blocks05a : List RegBlock := [
  ⟨0x00810040, [(0x10000, 3), (0x1000, 4)], false, [⟨21, 20, .sh⟩, ⟨19, 19, .sh⟩, ⟨18, 16, .sh⟩, ⟨15, 14, .sh⟩, ⟨11, 9, .sh⟩, ⟨8, 4, .sh⟩, ⟨0, 0, .sh⟩]⟩,
  ⟨0x00810044, [(0x10000, 3), (0x1000, 4)], false, [⟨31, 0, .sh⟩]⟩,
  ⟨0x00810048, [(0x10000, 3), (0x1000, 4)], false, [⟨27, 26, .sh⟩, ⟨23, 16, .sh⟩, ⟨15, 0, .sh⟩]⟩,
  ⟨0x0081004C, [(0x1000, 4)], false, [⟨16, 16, .sh⟩, ⟨15, 0, .sh⟩]⟩,
  ⟨0x0082004C, [(0x1000, 4)], false, [⟨23, 0, .sh⟩]⟩,
  ⟨0x0083004C, [(0x1000, 4)], false, [⟨23, 0, .sh⟩]⟩,
  ⟨0x00820050, [(0x1000, 4)], false, [⟨11, 8, .sh⟩, ⟨2, 2, .sh⟩, ⟨1, 1, .sh⟩, ⟨0, 0, .sh⟩]⟩,
  ⟨0x00820054, [(0x1000, 4)], false, [⟨31, 0, .sh⟩]⟩,
  ⟨0x00820058, [(0x1000, 4)], false, [⟨31, 0, .sh⟩]⟩,
  ⟨0x0082005C, [(0x1000, 4)], false, [⟨26, 16, .sh⟩, ⟨10, 0, .sh⟩]⟩,
  ⟨0x00830050, [(0x1000, 4)], false, [⟨31, 0, .ro⟩]⟩,
  ⟨0x00830054, [(0x1000, 4)], false, [⟨7, 0, .ro⟩]⟩,
  ⟨0x00830058, [(0x1000, 4)], false, [⟨31, 0, .ro⟩]⟩,
  ⟨0x0083005C, [(0x1000, 4)], false, [⟨31, 0, .ro⟩]⟩,
  ⟨0x00830060, [(0x1000, 4)], false, [⟨31, 0, .rw⟩]⟩,
  ⟨0x00810070, [(0x10000, 3), (0x1000, 4)], false, [⟨15, 13, .ro⟩, ⟨12, 8, .ro⟩, ⟨3, 3, .ro⟩, ⟨2, 2, .ro⟩, ⟨1, 1, .ro⟩, ⟨0, 0, .ro⟩]⟩,
  ⟨0x00810074, [(0x10000, 3), (0x1000, 4)], false, [⟨31, 0, .ro⟩]⟩,
  ⟨0x00810078, [(0x10000, 3), (0x1000, 4)], false, [⟨31, 0, .ro⟩]⟩,
  ⟨0x0081007C, [(0x10000, 3), (0x1000, 4)], false, [⟨31, 0, .ro⟩]⟩,
  ⟨0x00820080, [(0x1000, 4)], false, [⟨31, 0, .ro⟩]⟩,
  ⟨0x00820084, [(0x1000, 4)], false, [⟨31, 0, .ro⟩]⟩,
  ⟨0x00830084, [(0x1000, 4)], false, [⟨31, 0, .ro⟩]⟩,
  ⟨0x00810090, [(0x10000, 3), (0x1000, 4)], true, [⟨31, 0, .ro⟩]⟩,
  ⟨0x00810098, [(0x10000, 3), (0x1000, 4)], true, [⟨31, 0, .ro⟩]⟩,
  ⟨0x008100A0, [(0x10000, 3), (0x1000, 4)], true, [⟨31, 0, .ro⟩]⟩]

/-- Register blocks of spec/05_transform_reaches.md. -/
def blocks05b : List RegBlock := [
  ⟨0x008300A8, [(0x1000, 4)], true, [⟨31, 0, .ro⟩]⟩,
  ⟨0x008200B0, [(0x1000, 4)], true, [⟨31, 0, .ro⟩]⟩,
  ⟨0x00880000, [(0x40000, 4), (0x20000, 2), (0x4, 32768)], false, [⟨17, 0, .rw⟩]⟩]

/-- Register blocks of spec/06_silt_planes_detectors.md. -/
def blocks06a : List RegBlock := [
  ⟨0x00C10040, [(0x1000, 4)], false, [⟨11, 8, .rw⟩, ⟨4, 4, .rw⟩, ⟨1, 0, .rw⟩]⟩,
  ⟨0x00C10100, [(0x1000, 4), (0x40, 4)], false, [⟨30, 24, .sh⟩, ⟨20, 16, .sh⟩, ⟨11, 8, .sh⟩, ⟨3, 2, .sh⟩, ⟨1, 1, .sh⟩, ⟨0, 0, .sh⟩]⟩,
  ⟨0x00C10104, [(0x1000, 4), (0x40, 4)], false, [⟨15, 0, .sh⟩]⟩,
  ⟨0x00C10108, [(0x1000, 4), (0x40, 4)], false, [⟨31, 0, .sh⟩]⟩,
  ⟨0x00C1010C, [(0x1000, 4), (0x40, 4)], false, [⟨25, 16, .sh⟩, ⟨15, 0, .sh⟩]⟩,
  ⟨0x00C10110, [(0x1000, 4), (0x40, 4)], false, [⟨23, 0, .sh⟩]⟩,
  ⟨0x00C10114, [(0x1000, 4), (0x40, 4)], false, [⟨3, 0, .sh⟩]⟩,
  ⟨0x00C10118, [(0x1000, 4), (0x40, 4)], false, [⟨7, 7, .ro⟩, ⟨6, 6, .ro⟩, ⟨5, 5, .ro⟩, ⟨4, 4, .ro⟩, ⟨3, 2, .ro⟩, ⟨1, 0, .ro⟩]⟩,
  ⟨0x00C1011C, [(0x1000, 4), (0x40, 4)], false, [⟨31, 0, .ro⟩]⟩,
  ⟨0x00C10120, [(0x1000, 4), (0x40, 4)], true, [⟨31, 0, .ro⟩]⟩,
  ⟨0x00C10128, [(0x1000, 4), (0x40, 4)], true, [⟨31, 0, .ro⟩]⟩,
  ⟨0x00C10130, [(0x1000, 4), (0x40, 4)], false, [⟨31, 0, .ro⟩]⟩,
  ⟨0x00C20040, [(0x1000, 4)], false, [⟨26, 16, .sh⟩, ⟨10, 0, .sh⟩]⟩,
  ⟨0x00C20044, [(0x1000, 4)], false, [⟨7, 0, .rw⟩]⟩,
  ⟨0x00C20100, [(0x1000, 4), (0x20, 8)], false, [⟨12, 8, .sh⟩, ⟨7, 6, .sh⟩, ⟨5, 4, .sh⟩, ⟨3, 1, .sh⟩, ⟨0, 0, .sh⟩]⟩,
  ⟨0x00C20104, [(0x1000, 4), (0x20, 8)], false, [⟨31, 16, .sh⟩, ⟨15, 0, .sh⟩]⟩,
  ⟨0x00C20108, [(0x1000, 4), (0x20, 8)], false, [⟨31, 0, .sh⟩]⟩,
  ⟨0x00C2010C, [(0x1000, 4), (0x20, 8)], false, [⟨23, 0, .sh⟩]⟩,
  ⟨0x00C20110, [(0x1000, 4), (0x20, 8)], false, [⟨1, 1, .w1c⟩, ⟨0, 0, .w1c⟩]⟩,
  ⟨0x00C20114, [(0x1000, 4), (0x20, 8)], false, [⟨26, 16, .ro⟩, ⟨10, 0, .ro⟩]⟩,
  ⟨0x00C20118, [(0x1000, 4), (0x20, 8)], true, [⟨31, 0, .ro⟩]⟩,
  ⟨0x00C20400, [(0x1000, 4)], false, [⟨11, 8, .sh⟩, ⟨4, 4, .sh⟩, ⟨3, 2, .sh⟩, ⟨0, 0, .sh⟩]⟩,
  ⟨0x00C20404, [(0x1000, 4)], false, [⟨27, 16, .sh⟩, ⟨15, 0, .sh⟩]⟩,
  ⟨0x00C20408, [(0x1000, 4)], false, [⟨31, 0, .sh⟩]⟩,
  ⟨0x00C2040C, [(0x1000, 4)], false, [⟨15, 0, .sh⟩]⟩]

/-- Register blocks of spec/06_silt_planes_detectors.md. -/
def blocks06b : List RegBlock := [
  ⟨0x00C20410, [(0x1000, 4)], false, [⟨31, 0, .ro⟩]⟩,
  ⟨0x00C20414, [(0x1000, 4)], false, [⟨7, 0, .ro⟩]⟩,
  ⟨0x00C20418, [(0x1000, 4)], false, [⟨31, 0, .ro⟩]⟩,
  ⟨0x00C2041C, [(0x1000, 4)], false, [⟨31, 0, .ro⟩]⟩,
  ⟨0x00C20420, [(0x1000, 4)], false, [⟨31, 0, .ro⟩]⟩,
  ⟨0x00C20428, [(0x1000, 4)], true, [⟨31, 0, .ro⟩]⟩,
  ⟨0x00C30040, [(0x4, 4)], false, [⟨7, 4, .sh⟩, ⟨1, 1, .sh⟩, ⟨0, 0, .sh⟩]⟩,
  ⟨0x00C40000, [(0x2000, 4), (0x1000, 2), (0x4, 1024)], false, [⟨23, 0, .rw⟩]⟩]

/-- Register blocks of spec/07_tributary_bank.md. -/
def blocks07a : List RegBlock := [
  ⟨0x01100000, [(0x40, 16384)], false, [⟨31, 31, .wo⟩, ⟨22, 22, .sh⟩, ⟨21, 21, .sh⟩, ⟨20, 20, .sh⟩, ⟨19, 19, .sh⟩, ⟨16, 4, .sh⟩, ⟨3, 2, .sh⟩, ⟨1, 1, .sh⟩, ⟨0, 0, .sh⟩]⟩,
  ⟨0x01100004, [(0x40, 16384)], false, [⟨31, 0, .sh⟩]⟩,
  ⟨0x01100008, [(0x40, 16384)], false, [⟨18, 16, .sh⟩, ⟨13, 0, .sh⟩]⟩,
  ⟨0x0110000C, [(0x40, 16384)], false, [⟨31, 10, .sh⟩, ⟨9, 0, .sh⟩]⟩,
  ⟨0x01100010, [(0x40, 16384)], false, [⟨15, 0, .sh⟩]⟩,
  ⟨0x01100014, [(0x40, 16384)], false, [⟨31, 16, .sh⟩, ⟨15, 0, .sh⟩]⟩,
  ⟨0x01100018, [(0x40, 16384)], false, [⟨31, 16, .sh⟩, ⟨15, 0, .sh⟩]⟩,
  ⟨0x0110001C, [(0x40, 16384)], false, [⟨15, 0, .sh⟩]⟩,
  ⟨0x01100020, [(0x40, 16384)], false, [⟨7, 0, .sh⟩]⟩,
  ⟨0x01100024, [(0x40, 16384)], false, [⟨15, 0, .sh⟩]⟩,
  ⟨0x01100030, [(0x40, 16384)], false, [⟨31, 16, .ro⟩, ⟨11, 10, .ro⟩, ⟨9, 7, .ro⟩, ⟨6, 6, .ro⟩, ⟨5, 5, .ro⟩, ⟨4, 4, .ro⟩, ⟨3, 3, .ro⟩, ⟨0, 0, .ro⟩]⟩,
  ⟨0x01100034, [(0x40, 16384)], false, [⟨31, 0, .ro⟩]⟩,
  ⟨0x01100038, [(0x40, 16384)], false, [⟨31, 16, .ro⟩, ⟨15, 0, .ro⟩]⟩,
  ⟨0x0110003C, [(0x40, 16384)], false, [⟨31, 0, .ro⟩]⟩,
  ⟨0x01010040, [(0x1000, 4)], false, [⟨1, 1, .ro⟩, ⟨0, 0, .ro⟩]⟩,
  ⟨0x01010044, [(0x1000, 4)], false, [⟨31, 0, .ro⟩]⟩,
  ⟨0x01010048, [(0x1000, 4)], true, [⟨31, 0, .ro⟩]⟩,
  ⟨0x01020040, [], false, [⟨26, 16, .ro⟩, ⟨10, 0, .ro⟩]⟩,
  ⟨0x01020044, [], false, [⟨26, 16, .ro⟩, ⟨10, 0, .ro⟩]⟩,
  ⟨0x01020048, [], false, [⟨31, 0, .ro⟩]⟩,
  ⟨0x0102004C, [], false, [⟨7, 0, .ro⟩]⟩,
  ⟨0x01020050, [], false, [⟨31, 0, .ro⟩]⟩,
  ⟨0x01020054, [], false, [⟨31, 0, .ro⟩]⟩,
  ⟨0x01020058, [], false, [⟨12, 8, .ro⟩, ⟨7, 0, .ro⟩]⟩,
  ⟨0x01020060, [], false, [⟨13, 0, .rw⟩]⟩]

/-- Register blocks of spec/07_tributary_bank.md. -/
def blocks07b : List RegBlock := [
  ⟨0x01020064, [], false, [⟨31, 0, .ro⟩]⟩,
  ⟨0x01020068, [], false, [⟨31, 0, .ro⟩]⟩,
  ⟨0x01020070, [], true, [⟨31, 0, .ro⟩]⟩,
  ⟨0x01020078, [], true, [⟨31, 0, .ro⟩]⟩,
  ⟨0x01020080, [], true, [⟨31, 0, .ro⟩]⟩,
  ⟨0x01020088, [], true, [⟨31, 0, .ro⟩]⟩,
  ⟨0x01020100, [(0x4, 16)], false, [⟨26, 16, .ro⟩, ⟨15, 0, .ro⟩]⟩,
  ⟨0x01020400, [(0x4, 256)], false, [⟨31, 0, .ro⟩]⟩]

/-- Register blocks of spec/08_trigger_acquisition.md. -/
def blocks08a : List RegBlock := [
  ⟨0x01410040, [(0x1000, 16)], false, [⟨4, 4, .sh⟩, ⟨3, 0, .sh⟩]⟩,
  ⟨0x01410044, [(0x1000, 16)], false, [⟨12, 12, .ro⟩, ⟨11, 11, .ro⟩, ⟨10, 10, .ro⟩, ⟨9, 9, .ro⟩, ⟨8, 8, .ro⟩, ⟨7, 7, .ro⟩, ⟨6, 6, .ro⟩, ⟨5, 5, .ro⟩, ⟨4, 4, .ro⟩, ⟨3, 0, .ro⟩]⟩,
  ⟨0x01410048, [(0x1000, 16), (0x4, 2)], false, [⟨31, 0, .ro⟩]⟩,
  ⟨0x01410050, [(0x1000, 16), (0x4, 2)], false, [⟨31, 0, .sh⟩]⟩,
  ⟨0x01410058, [(0x1000, 16), (0x8, 2)], false, [⟨31, 0, .sh⟩]⟩,
  ⟨0x0141005C, [(0x1000, 16), (0x8, 2)], false, [⟨15, 0, .sh⟩]⟩,
  ⟨0x01410068, [(0x1000, 16), (0x4, 2)], false, [⟨29, 16, .sh⟩, ⟨15, 14, .sh⟩, ⟨13, 0, .sh⟩]⟩,
  ⟨0x01410070, [(0x1000, 16)], false, [⟨17, 16, .rw⟩, ⟨15, 0, .rw⟩]⟩,
  ⟨0x01410080, [(0x1000, 16), (0x10, 4)], false, [⟨31, 0, .sh⟩]⟩,
  ⟨0x01410084, [(0x1000, 16), (0x10, 4)], false, [⟨7, 0, .sh⟩]⟩,
  ⟨0x01410088, [(0x1000, 16), (0x10, 4)], false, [⟨31, 0, .sh⟩]⟩,
  ⟨0x0141008C, [(0x1000, 16), (0x10, 4)], false, [⟨7, 0, .sh⟩]⟩,
  ⟨0x01410100, [(0x1000, 16)], true, [⟨31, 0, .ro⟩]⟩,
  ⟨0x01410108, [(0x1000, 16)], true, [⟨31, 0, .ro⟩]⟩,
  ⟨0x01410110, [(0x1000, 16)], true, [⟨31, 0, .ro⟩]⟩,
  ⟨0x01410118, [(0x1000, 16)], true, [⟨31, 0, .ro⟩]⟩,
  ⟨0x01410120, [(0x1000, 16)], true, [⟨31, 0, .ro⟩]⟩,
  ⟨0x01410128, [(0x1000, 16)], true, [⟨31, 0, .ro⟩]⟩,
  ⟨0x01410130, [(0x1000, 16)], true, [⟨31, 0, .ro⟩]⟩,
  ⟨0x01410400, [(0x1000, 16), (0x20, 16), (0x8, 4)], false, [⟨24, 24, .sh⟩, ⟨23, 20, .sh⟩, ⟨19, 18, .sh⟩, ⟨17, 17, .sh⟩, ⟨16, 16, .sh⟩, ⟨15, 8, .sh⟩, ⟨7, 0, .sh⟩]⟩,
  ⟨0x01410404, [(0x1000, 16), (0x20, 16), (0x8, 4)], false, [⟨17, 16, .sh⟩, ⟨14, 0, .sh⟩]⟩,
  ⟨0x01430040, [(0x1000, 4), (0x4, 2)], false, [⟨20, 20, .sh⟩, ⟨17, 16, .sh⟩, ⟨15, 0, .sh⟩]⟩,
  ⟨0x01430050, [(0x1000, 4)], false, [⟨18, 0, .rw⟩]⟩,
  ⟨0x01430054, [(0x1000, 4)], false, [⟨15, 0, .rw⟩]⟩,
  ⟨0x01430058, [(0x1000, 4)], false, [⟨0, 0, .ro⟩]⟩]

/-- Register blocks of spec/08_trigger_acquisition.md. -/
def blocks08b : List RegBlock := [
  ⟨0x01430100, [(0x1000, 4), (0x10, 16)], false, [⟨31, 16, .sh⟩, ⟨1, 1, .sh⟩, ⟨0, 0, .sh⟩]⟩,
  ⟨0x01430104, [(0x1000, 4), (0x10, 16)], false, [⟨14, 0, .sh⟩]⟩,
  ⟨0x01430108, [(0x1000, 4), (0x10, 16)], false, [⟨18, 0, .sh⟩]⟩,
  ⟨0x0143010C, [(0x1000, 4), (0x10, 16)], false, [⟨14, 0, .sh⟩]⟩,
  ⟨0x01430200, [(0x1000, 4), (0x8, 16)], true, [⟨31, 0, .ro⟩]⟩,
  ⟨0x01420040, [(0x1000, 4)], false, [⟨0, 0, .sh⟩]⟩,
  ⟨0x01420044, [(0x1000, 4)], false, [⟨31, 0, .sh⟩]⟩,
  ⟨0x01420048, [(0x1000, 4)], false, [⟨31, 0, .sh⟩]⟩,
  ⟨0x0142004C, [(0x1000, 4)], false, [⟨31, 0, .ro⟩]⟩,
  ⟨0x01420050, [(0x1000, 4)], false, [⟨7, 0, .ro⟩]⟩,
  ⟨0x01420054, [(0x1000, 4)], false, [⟨31, 0, .ro⟩]⟩,
  ⟨0x01420058, [(0x1000, 4)], false, [⟨26, 16, .ro⟩, ⟨10, 0, .ro⟩]⟩,
  ⟨0x0142005C, [(0x1000, 4)], false, [⟨26, 16, .ro⟩, ⟨2, 2, .ro⟩, ⟨1, 1, .ro⟩, ⟨0, 0, .ro⟩]⟩,
  ⟨0x01420060, [(0x1000, 4)], false, [⟨31, 0, .ro⟩]⟩,
  ⟨0x01420064, [(0x1000, 4)], false, [⟨31, 0, .ro⟩]⟩,
  ⟨0x01420068, [(0x1000, 4)], true, [⟨31, 0, .ro⟩]⟩,
  ⟨0x01420070, [(0x1000, 4)], false, [⟨31, 31, .ro⟩, ⟨9, 0, .ro⟩]⟩,
  ⟨0x01420074, [(0x1000, 4)], false, [⟨9, 0, .rw⟩]⟩,
  ⟨0x01420080, [(0x1000, 4)], true, [⟨31, 0, .ro⟩]⟩,
  ⟨0x01420088, [(0x1000, 4)], true, [⟨31, 0, .ro⟩]⟩,
  ⟨0x01420090, [(0x1000, 4)], true, [⟨31, 0, .ro⟩]⟩,
  ⟨0x01420098, [(0x1000, 4)], true, [⟨31, 0, .ro⟩]⟩,
  ⟨0x01420100, [(0x1000, 4), (0x20, 8)], true, [⟨31, 0, .ro⟩]⟩,
  ⟨0x01420108, [(0x1000, 4), (0x20, 8), (0x4, 3)], false, [⟨31, 0, .ro⟩]⟩,
  ⟨0x01600000, [(0x20000, 4), (0x80, 1024), (0x4, 32)], false, [⟨31, 0, .ro⟩]⟩]

/-- Register blocks of spec/08_trigger_acquisition.md. -/
def blocks08c : List RegBlock := [
  ⟨0x01440040, [], false, [⟨31, 0, .ro⟩]⟩,
  ⟨0x01440044, [], false, [⟨7, 0, .ro⟩]⟩,
  ⟨0x01440048, [], false, [⟨31, 0, .ro⟩]⟩,
  ⟨0x0144004C, [], false, [⟨31, 0, .ro⟩]⟩,
  ⟨0x01440050, [], false, [⟨31, 0, .ro⟩]⟩,
  ⟨0x01440058, [], true, [⟨31, 0, .ro⟩]⟩,
  ⟨0x01440060, [], false, [⟨31, 0, .ro⟩]⟩]

/-- Register blocks of spec/09_reservoir_pool.md. -/
def blocks09a : List RegBlock := [
  ⟨0x01810040, [], false, [⟨14, 8, .ro⟩, ⟨7, 4, .ro⟩, ⟨3, 3, .ro⟩, ⟨2, 2, .ro⟩, ⟨1, 1, .ro⟩, ⟨0, 0, .ro⟩]⟩,
  ⟨0x01810044, [], false, [⟨31, 16, .rw⟩, ⟨11, 4, .rw⟩, ⟨1, 1, .rw⟩, ⟨0, 0, .rw⟩]⟩,
  ⟨0x01810048, [], false, [⟨15, 0, .rw⟩]⟩,
  ⟨0x0181004C, [], false, [⟨15, 0, .rw⟩]⟩,
  ⟨0x01810050, [], false, [⟨6, 0, .rw⟩]⟩,
  ⟨0x01810054, [], false, [⟨31, 0, .ro⟩]⟩,
  ⟨0x01810058, [], false, [⟨31, 0, .ro⟩]⟩,
  ⟨0x01810060, [], false, [⟨31, 0, .ro⟩]⟩,
  ⟨0x01810064, [], false, [⟨14, 8, .ro⟩, ⟨6, 0, .ro⟩]⟩,
  ⟨0x01810080, [(0x4, 4)], false, [⟨31, 0, .ro⟩]⟩,
  ⟨0x01810090, [(0x4, 4)], false, [⟨31, 0, .ro⟩]⟩,
  ⟨0x018100A0, [], false, [⟨31, 0, .ro⟩]⟩,
  ⟨0x018100A4, [], false, [⟨31, 0, .ro⟩]⟩,
  ⟨0x018100A8, [], false, [⟨31, 0, .ro⟩]⟩,
  ⟨0x018100B0, [], false, [⟨31, 0, .ro⟩]⟩,
  ⟨0x018100B4, [], false, [⟨7, 0, .ro⟩]⟩,
  ⟨0x01810400, [(0x10, 64)], false, [⟨31, 0, .ro⟩]⟩,
  ⟨0x01810404, [(0x10, 64)], false, [⟨31, 0, .ro⟩]⟩,
  ⟨0x01810408, [(0x10, 64)], false, [⟨28, 16, .ro⟩, ⟨5, 5, .ro⟩, ⟨4, 4, .ro⟩, ⟨3, 2, .ro⟩, ⟨1, 0, .ro⟩]⟩,
  ⟨0x01811000, [(0x20, 128)], false, [⟨14, 8, .ro⟩, ⟨2, 0, .ro⟩]⟩,
  ⟨0x01811008, [(0x20, 128)], true, [⟨31, 0, .ro⟩]⟩,
  ⟨0x01811010, [(0x20, 128)], true, [⟨31, 0, .ro⟩]⟩,
  ⟨0x01811018, [(0x20, 128)], false, [⟨31, 0, .ro⟩]⟩,
  ⟨0x01812000, [(0x4, 124)], false, [⟨6, 0, .ro⟩]⟩,
  ⟨0x01820040, [], false, [⟨31, 31, .rw⟩, ⟨28, 16, .rw⟩, ⟨10, 0, .rw⟩]⟩]

/-- Register blocks of spec/09_reservoir_pool.md. -/
def blocks09b : List RegBlock := [
  ⟨0x01820044, [], false, [⟨10, 0, .rw⟩]⟩,
  ⟨0x01820048, [], false, [⟨15, 0, .rw⟩]⟩,
  ⟨0x01820050, [], true, [⟨31, 0, .ro⟩]⟩,
  ⟨0x01820058, [], true, [⟨31, 0, .ro⟩]⟩,
  ⟨0x01820060, [], false, [⟨31, 0, .ro⟩]⟩,
  ⟨0x01821000, [(0x4, 1280)], false, [⟨17, 16, .ro⟩, ⟨12, 0, .ro⟩]⟩,
  ⟨0x01830040, [(0x4, 2)], false, [⟨31, 0, .w1c⟩]⟩,
  ⟨0x01830048, [], true, [⟨31, 0, .ro⟩]⟩,
  ⟨0x01830100, [(0x4, 64)], false, [⟨12, 0, .ro⟩]⟩]

/-- Register blocks of spec/10_riffle_cores.md. -/
def blocks10a : List RegBlock := [
  ⟨0x01A10040, [(0x1000, 64)], false, [⟨2, 2, .rw⟩, ⟨1, 1, .ro⟩, ⟨0, 0, .ro⟩]⟩,
  ⟨0x01A10044, [(0x1000, 64)], false, [⟨19, 8, .ro⟩, ⟨7, 7, .ro⟩, ⟨6, 6, .ro⟩, ⟨5, 5, .ro⟩, ⟨4, 4, .ro⟩, ⟨1, 0, .ro⟩]⟩,
  ⟨0x01A10048, [(0x1000, 64)], false, [⟨11, 0, .rw⟩]⟩,
  ⟨0x01A1004C, [(0x1000, 64)], false, [⟨11, 0, .rw⟩]⟩,
  ⟨0x01A10050, [(0x1000, 64)], false, [⟨11, 0, .rw⟩]⟩,
  ⟨0x01A10054, [(0x1000, 64)], false, [⟨11, 0, .rw⟩]⟩,
  ⟨0x01A10058, [(0x1000, 64)], false, [⟨29, 24, .rw⟩, ⟨21, 16, .rw⟩, ⟨13, 8, .rw⟩, ⟨5, 0, .rw⟩]⟩,
  ⟨0x01A1005C, [(0x1000, 64)], false, [⟨8, 8, .ro⟩, ⟨3, 0, .ro⟩]⟩,
  ⟨0x01A10060, [(0x1000, 64)], false, [⟨11, 0, .ro⟩]⟩,
  ⟨0x01A10064, [(0x1000, 64)], false, [⟨31, 0, .ro⟩]⟩,
  ⟨0x01A10068, [(0x1000, 64)], false, [⟨15, 0, .ro⟩]⟩,
  ⟨0x01A10070, [(0x1000, 64)], false, [⟨11, 0, .rw⟩]⟩,
  ⟨0x01A10074, [(0x1000, 64)], false, [⟨31, 0, .rw⟩]⟩,
  ⟨0x01A10078, [(0x1000, 64)], false, [⟨31, 0, .rw⟩]⟩,
  ⟨0x01A1007C, [(0x1000, 64)], false, [⟨17, 2, .rw⟩]⟩,
  ⟨0x01A10080, [(0x1000, 64)], false, [⟨31, 0, .rw⟩]⟩,
  ⟨0x01A10084, [(0x1000, 64)], false, [⟨31, 0, .wo⟩]⟩,
  ⟨0x01A10088, [(0x1000, 64)], true, [⟨31, 0, .ro⟩]⟩,
  ⟨0x01A10090, [(0x1000, 64)], true, [⟨31, 0, .ro⟩]⟩,
  ⟨0x01A10098, [(0x1000, 64)], true, [⟨31, 0, .ro⟩]⟩,
  ⟨0x01A100A0, [(0x1000, 64)], false, [⟨16, 16, .rw⟩, ⟨14, 12, .rw⟩, ⟨10, 8, .rw⟩, ⟨3, 0, .rw⟩]⟩,
  ⟨0x01A100A4, [(0x1000, 64)], false, [⟨31, 0, .rw⟩]⟩,
  ⟨0x01A100A8, [(0x1000, 64)], true, [⟨31, 0, .ro⟩]⟩]

/-- Register blocks of spec/11_translation_millrace.md. -/
def blocks11a : List RegBlock := [
  ⟨0x01C10040, [], false, [⟨31, 0, .rw⟩]⟩,
  ⟨0x01C10044, [], false, [⟨19, 16, .rw⟩, ⟨15, 0, .rw⟩]⟩,
  ⟨0x01C10048, [], false, [⟨31, 31, .ro⟩, ⟨21, 20, .ro⟩, ⟨18, 18, .ro⟩, ⟨17, 17, .ro⟩, ⟨16, 16, .ro⟩, ⟨15, 12, .ro⟩, ⟨11, 8, .ro⟩, ⟨6, 0, .ro⟩]⟩,
  ⟨0x01C1004C, [], false, [⟨31, 0, .ro⟩]⟩,
  ⟨0x01C10050, [], false, [⟨15, 0, .ro⟩]⟩,
  ⟨0x01C10060, [(0x8, 16)], false, [⟨31, 12, .rw⟩, ⟨0, 0, .rw⟩]⟩,
  ⟨0x01C10064, [(0x8, 16)], false, [⟨7, 0, .rw⟩]⟩,
  ⟨0x01C100E0, [], true, [⟨31, 0, .ro⟩]⟩,
  ⟨0x01C100E8, [], true, [⟨31, 0, .ro⟩]⟩,
  ⟨0x01C100F0, [], true, [⟨31, 0, .ro⟩]⟩,
  ⟨0x01C10100, [(0x4, 64)], false, [⟨3, 0, .rw⟩]⟩,
  ⟨0x01C20040, [(0x1000, 32)], false, [⟨16, 16, .ro⟩, ⟨11, 8, .rw⟩, ⟨7, 4, .rw⟩, ⟨1, 0, .rw⟩]⟩,
  ⟨0x01C20044, [(0x1000, 32)], false, [⟨11, 11, .ro⟩, ⟨10, 10, .ro⟩, ⟨9, 9, .ro⟩, ⟨8, 8, .ro⟩, ⟨7, 4, .ro⟩, ⟨2, 0, .ro⟩]⟩,
  ⟨0x01C20048, [(0x1000, 32)], false, [⟨23, 0, .ro⟩]⟩,
  ⟨0x01C2004C, [(0x1000, 32)], false, [⟨31, 16, .ro⟩, ⟨15, 0, .ro⟩]⟩,
  ⟨0x01C20050, [(0x1000, 32)], false, [⟨31, 0, .ro⟩]⟩,
  ⟨0x01C20054, [(0x1000, 32)], false, [⟨31, 31, .ro⟩, ⟨15, 0, .ro⟩]⟩,
  ⟨0x01C20058, [(0x1000, 32)], false, [⟨31, 0, .ro⟩]⟩,
  ⟨0x01C2005C, [(0x1000, 32)], false, [⟨31, 0, .ro⟩]⟩,
  ⟨0x01C20060, [(0x1000, 32)], true, [⟨31, 0, .ro⟩]⟩,
  ⟨0x01C20068, [(0x1000, 32)], true, [⟨31, 0, .ro⟩]⟩,
  ⟨0x01C20070, [(0x1000, 32)], true, [⟨31, 0, .ro⟩]⟩,
  ⟨0x01C20080, [(0x1000, 32), (0x4, 16)], false, [⟨31, 0, .rw⟩]⟩]

/-- Register blocks of spec/12_streaming_host.md. -/
def blocks12a : List RegBlock := [
  ⟨0x01D10040, [(0x1000, 4)], false, [⟨5, 5, .rw⟩, ⟨4, 4, .rw⟩, ⟨3, 3, .rw⟩, ⟨2, 2, .rw⟩, ⟨1, 1, .rw⟩, ⟨0, 0, .rw⟩]⟩,
  ⟨0x01D10044, [(0x1000, 4)], false, [⟨16, 16, .ro⟩, ⟨15, 8, .ro⟩, ⟨1, 1, .ro⟩, ⟨0, 0, .ro⟩]⟩,
  ⟨0x01D10048, [(0x1000, 4)], false, [⟨31, 0, .ro⟩]⟩,
  ⟨0x01D1004C, [(0x1000, 4)], false, [⟨15, 0, .ro⟩]⟩,
  ⟨0x01D10050, [(0x1000, 4)], false, [⟨31, 0, .ro⟩]⟩,
  ⟨0x01D10054, [(0x1000, 4), (0x4, 4)], false, [⟨31, 0, .ro⟩]⟩,
  ⟨0x01D10070, [(0x1000, 4)], true, [⟨31, 0, .ro⟩]⟩,
  ⟨0x01D10078, [(0x1000, 4)], true, [⟨31, 0, .ro⟩]⟩,
  ⟨0x01D10080, [(0x1000, 4)], true, [⟨31, 0, .ro⟩]⟩,
  ⟨0x01D20040, [], false, [⟨25, 16, .rw⟩, ⟨15, 14, .rw⟩, ⟨13, 8, .rw⟩, ⟨5, 0, .rw⟩]⟩,
  ⟨0x01D20044, [], false, [⟨31, 0, .ro⟩]⟩,
  ⟨0x01D20048, [], false, [⟨7, 0, .ro⟩]⟩,
  ⟨0x01D2004C, [], false, [⟨31, 0, .ro⟩]⟩,
  ⟨0x01D20050, [], false, [⟨26, 16, .ro⟩, ⟨10, 0, .ro⟩]⟩,
  ⟨0x01D20060, [(0x4, 4)], false, [⟨31, 0, .ro⟩]⟩,
  ⟨0x01D20070, [], true, [⟨31, 0, .ro⟩]⟩,
  ⟨0x01D21000, [(0x40, 64)], false, [⟨19, 16, .rw⟩, ⟨15, 15, .rw⟩, ⟨14, 14, .rw⟩, ⟨13, 13, .rw⟩, ⟨12, 10, .rw⟩, ⟨9, 8, .rw⟩, ⟨0, 0, .rw⟩]⟩,
  ⟨0x01D21004, [(0x40, 64)], false, [⟨20, 16, .rw⟩, ⟨15, 8, .rw⟩, ⟨1, 0, .rw⟩]⟩,
  ⟨0x01D21008, [(0x40, 64)], false, [⟨5, 0, .rw⟩]⟩,
  ⟨0x01D2100C, [(0x40, 64)], false, [⟨13, 0, .rw⟩]⟩,
  ⟨0x01D21010, [(0x40, 64)], false, [⟨31, 6, .rw⟩]⟩,
  ⟨0x01D21014, [(0x40, 64)], false, [⟨7, 0, .rw⟩]⟩,
  ⟨0x01D21018, [(0x40, 64)], false, [⟨16, 16, .ro⟩, ⟨14, 8, .ro⟩, ⟨1, 0, .ro⟩]⟩,
  ⟨0x01D21020, [(0x40, 64)], true, [⟨31, 0, .ro⟩]⟩,
  ⟨0x01D21028, [(0x40, 64)], true, [⟨31, 0, .ro⟩]⟩]

/-- Register blocks of spec/12_streaming_host.md. -/
def blocks12b : List RegBlock := [
  ⟨0x01D21030, [(0x40, 64)], true, [⟨31, 0, .ro⟩]⟩,
  ⟨0x01D22000, [(0x40, 64)], false, [⟨31, 0, .rw⟩]⟩,
  ⟨0x01D22004, [(0x40, 64)], false, [⟨29, 29, .rw⟩, ⟨28, 28, .rw⟩, ⟨27, 16, .rw⟩, ⟨15, 0, .rw⟩]⟩,
  ⟨0x01D22008, [(0x40, 64), (0x4, 4)], false, [⟨31, 0, .rw⟩]⟩,
  ⟨0x01D22018, [(0x40, 64)], false, [⟨31, 16, .rw⟩, ⟨15, 0, .rw⟩]⟩,
  ⟨0x01D2201C, [(0x40, 64)], false, [⟨15, 8, .rw⟩, ⟨5, 0, .rw⟩]⟩,
  ⟨0x01D23000, [(0x40, 64)], false, [⟨29, 24, .rw⟩, ⟨17, 17, .rw⟩, ⟨16, 12, .rw⟩, ⟨10, 8, .rw⟩, ⟨6, 4, .rw⟩, ⟨2, 1, .rw⟩, ⟨0, 0, .rw⟩]⟩,
  ⟨0x01D23004, [(0x40, 64)], false, [⟨23, 0, .rw⟩]⟩,
  ⟨0x01D23008, [(0x40, 64)], false, [⟨31, 0, .rw⟩]⟩,
  ⟨0x01D2300C, [(0x40, 64)], false, [⟨31, 0, .rw⟩]⟩,
  ⟨0x01D23010, [(0x40, 64)], false, [⟨31, 0, .rw⟩]⟩,
  ⟨0x01D23014, [(0x40, 64)], false, [⟨12, 8, .rw⟩, ⟨4, 0, .rw⟩]⟩,
  ⟨0x01D23018, [(0x40, 64)], false, [⟨23, 0, .rw⟩]⟩,
  ⟨0x01D2301C, [(0x40, 64)], false, [⟨15, 8, .ro⟩, ⟨1, 0, .ro⟩]⟩,
  ⟨0x01D23020, [(0x40, 64)], true, [⟨31, 0, .ro⟩]⟩,
  ⟨0x01D30044, [], false, [⟨8, 8, .ro⟩, ⟨7, 4, .ro⟩, ⟨3, 1, .ro⟩, ⟨0, 0, .ro⟩]⟩,
  ⟨0x01D30048, [], false, [⟨31, 20, .rw⟩]⟩,
  ⟨0x01D3004C, [], false, [⟨7, 0, .rw⟩]⟩,
  ⟨0x01D30050, [], true, [⟨31, 0, .ro⟩]⟩,
  ⟨0x01D30058, [], true, [⟨31, 0, .ro⟩]⟩,
  ⟨0x01D38000, [(0x10, 256)], false, [⟨31, 0, .rw⟩]⟩,
  ⟨0x01D38004, [(0x10, 256)], false, [⟨31, 0, .rw⟩]⟩,
  ⟨0x01D38008, [(0x10, 256)], false, [⟨31, 0, .rw⟩]⟩,
  ⟨0x01D3800C, [(0x10, 256)], false, [⟨0, 0, .rw⟩]⟩,
  ⟨0x01D39000, [(0x4, 8)], false, [⟨31, 0, .ro⟩]⟩]

/-- Register blocks of spec/12_streaming_host.md. -/
def blocks12c : List RegBlock := [
  ⟨0x01D40040, [], false, [⟨20, 20, .rw⟩, ⟨19, 16, .rw⟩, ⟨15, 8, .rw⟩, ⟨5, 4, .rw⟩, ⟨2, 1, .rw⟩, ⟨0, 0, .rw⟩]⟩,
  ⟨0x01D40044, [], false, [⟨31, 16, .ro⟩, ⟨2, 2, .ro⟩, ⟨1, 0, .ro⟩]⟩,
  ⟨0x01D40048, [], false, [⟨31, 0, .rw⟩]⟩,
  ⟨0x01D4004C, [], false, [⟨31, 0, .rw⟩]⟩,
  ⟨0x01D40050, [], false, [⟨31, 0, .ro⟩]⟩,
  ⟨0x01D40054, [], false, [⟨31, 0, .ro⟩]⟩,
  ⟨0x01D40058, [], false, [⟨31, 0, .ro⟩]⟩,
  ⟨0x01D4005C, [], false, [⟨31, 0, .ro⟩]⟩,
  ⟨0x01D50040, [], false, [⟨31, 16, .rw⟩, ⟨0, 0, .rw⟩]⟩,
  ⟨0x01D50044, [], false, [⟨31, 0, .ro⟩]⟩,
  ⟨0x01D50048, [], false, [⟨31, 0, .ro⟩]⟩,
  ⟨0x01D5004C, [], true, [⟨31, 0, .ro⟩]⟩,
  ⟨0x01D50058, [], true, [⟨31, 0, .ro⟩]⟩,
  ⟨0x01D50060, [], true, [⟨31, 0, .ro⟩]⟩]

/-- Register blocks of spec/13_display.md. -/
def blocks13a : List RegBlock := [
  ⟨0x01E10040, [], false, [⟨22, 20, .sh⟩, ⟨18, 16, .sh⟩, ⟨15, 14, .sh⟩, ⟨13, 12, .sh⟩, ⟨11, 10, .sh⟩, ⟨9, 8, .sh⟩, ⟨4, 4, .sh⟩, ⟨3, 3, .sh⟩, ⟨2, 1, .sh⟩, ⟨0, 0, .sh⟩]⟩,
  ⟨0x01E10044, [], false, [⟨25, 16, .sh⟩, ⟨12, 0, .sh⟩]⟩,
  ⟨0x01E10048, [], false, [⟨25, 16, .sh⟩, ⟨9, 0, .sh⟩]⟩,
  ⟨0x01E1004C, [], false, [⟨25, 16, .sh⟩, ⟨11, 0, .sh⟩]⟩,
  ⟨0x01E10050, [], false, [⟨25, 16, .sh⟩, ⟨9, 0, .sh⟩]⟩,
  ⟨0x01E10054, [], false, [⟨31, 6, .sh⟩]⟩,
  ⟨0x01E10058, [], false, [⟨7, 0, .sh⟩]⟩,
  ⟨0x01E1005C, [], false, [⟨17, 0, .sh⟩]⟩,
  ⟨0x01E10060, [], false, [⟨27, 16, .ro⟩, ⟨3, 3, .ro⟩, ⟨2, 2, .ro⟩, ⟨1, 1, .ro⟩, ⟨0, 0, .ro⟩]⟩,
  ⟨0x01E10064, [], false, [⟨27, 16, .sh⟩, ⟨11, 0, .sh⟩]⟩,
  ⟨0x01E10068, [], false, [⟨27, 16, .sh⟩, ⟨11, 0, .sh⟩]⟩,
  ⟨0x01E1006C, [], false, [⟨23, 0, .sh⟩]⟩,
  ⟨0x01E10070, [], false, [⟨25, 16, .sh⟩, ⟨9, 0, .sh⟩]⟩,
  ⟨0x01E10080, [], true, [⟨31, 0, .ro⟩]⟩,
  ⟨0x01E10088, [], true, [⟨31, 0, .ro⟩]⟩,
  ⟨0x01E20040, [(0x1000, 2)], false, [⟨5, 4, .rw⟩, ⟨2, 1, .rw⟩, ⟨0, 0, .rw⟩]⟩,
  ⟨0x01E20044, [(0x1000, 2)], false, [⟨10, 8, .ro⟩, ⟨6, 6, .ro⟩, ⟨5, 4, .ro⟩, ⟨3, 2, .ro⟩, ⟨1, 1, .ro⟩, ⟨0, 0, .ro⟩]⟩,
  ⟨0x01E20048, [(0x1000, 2)], false, [⟨31, 28, .rw⟩, ⟨27, 24, .rw⟩, ⟨19, 0, .rw⟩]⟩,
  ⟨0x01E2004C, [(0x1000, 2)], false, [⟨12, 8, .ro⟩, ⟨1, 0, .ro⟩]⟩,
  ⟨0x01E20050, [(0x1000, 2), (0x4, 4)], false, [⟨31, 0, .rw⟩]⟩,
  ⟨0x01E20060, [(0x1000, 2)], true, [⟨31, 0, .ro⟩]⟩]

/-- Register blocks of spec/14_brook.md. -/
def blocks14a : List RegBlock := [
  ⟨0x01E80040, [], false, [⟨31, 24, .ro⟩, ⟨23, 12, .ro⟩, ⟨6, 6, .ro⟩, ⟨5, 5, .ro⟩, ⟨4, 4, .ro⟩, ⟨3, 3, .ro⟩, ⟨2, 2, .ro⟩, ⟨1, 1, .ro⟩, ⟨0, 0, .ro⟩]⟩,
  ⟨0x01E80044, [], false, [⟨12, 8, .sh⟩, ⟨0, 0, .sh⟩]⟩,
  ⟨0x01E80048, [], false, [⟨31, 0, .ro⟩]⟩,
  ⟨0x01E8004C, [], false, [⟨23, 8, .ro⟩, ⟨7, 0, .ro⟩]⟩,
  ⟨0x01E80050, [], false, [⟨31, 0, .rw⟩]⟩,
  ⟨0x01E80054, [], false, [⟨31, 16, .ro⟩, ⟨0, 0, .w1c⟩]⟩,
  ⟨0x01E80058, [], false, [⟨31, 0, .rw⟩]⟩,
  ⟨0x01E80060, [], true, [⟨31, 0, .ro⟩]⟩,
  ⟨0x01E80068, [], false, [⟨31, 0, .ro⟩]⟩,
  ⟨0x01E8006C, [], false, [⟨31, 0, .ro⟩]⟩,
  ⟨0x01E80070, [], false, [⟨31, 0, .ro⟩]⟩,
  ⟨0x01E80080, [(0x4, 8)], false, [⟨23, 0, .sh⟩]⟩,
  ⟨0x01E800A0, [], false, [⟨23, 0, .lk⟩]⟩,
  ⟨0x01E800A4, [], false, [⟨31, 0, .lk⟩]⟩,
  ⟨0x01E800A8, [], false, [⟨11, 11, .ro⟩, ⟨10, 8, .ro⟩, ⟨7, 0, .ro⟩]⟩,
  ⟨0x01E80100, [(0x4, 32)], false, [⟨13, 13, .sh⟩, ⟨12, 12, .sh⟩, ⟨11, 8, .sh⟩, ⟨5, 0, .sh⟩]⟩,
  ⟨0x01E80200, [(0x4, 12)], false, [⟨15, 15, .lk⟩, ⟨14, 12, .sh⟩, ⟨11, 11, .sh⟩, ⟨10, 9, .sh⟩, ⟨8, 7, .sh⟩, ⟨6, 2, .sh⟩, ⟨1, 0, .sh⟩]⟩,
  ⟨0x01E80240, [(0x4, 12)], false, [⟨4, 4, .ro⟩, ⟨3, 3, .ro⟩, ⟨2, 2, .ro⟩, ⟨1, 1, .ro⟩, ⟨0, 0, .ro⟩]⟩,
  ⟨0x01E80300, [(0x10, 16)], false, [⟨19, 16, .sh⟩, ⟨15, 15, .sh⟩, ⟨14, 10, .sh⟩, ⟨9, 0, .sh⟩]⟩,
  ⟨0x01E80304, [(0x10, 16)], false, [⟨31, 16, .sh⟩, ⟨15, 0, .sh⟩]⟩,
  ⟨0x01E80308, [(0x10, 16)], false, [⟨29, 29, .ro⟩, ⟨28, 28, .ro⟩, ⟨26, 16, .ro⟩, ⟨15, 0, .ro⟩]⟩,
  ⟨0x01E8030C, [(0x10, 16)], false, [⟨0, 0, .w1c⟩]⟩,
  ⟨0x01E80400, [(0x10, 64)], false, [⟨31, 31, .shlk⟩, ⟨30, 30, .shlk⟩, ⟨29, 28, .shlk⟩, ⟨27, 27, .shlk⟩, ⟨26, 20, .shlk⟩, ⟨19, 19, .shlk⟩, ⟨18, 12, .shlk⟩, ⟨11, 11, .shlk⟩]⟩,
  ⟨0x01E80404, [(0x10, 64)], false, [⟨26, 26, .shlk⟩, ⟨25, 25, .shlk⟩, ⟨24, 21, .shlk⟩, ⟨20, 20, .shlk⟩, ⟨19, 19, .shlk⟩, ⟨18, 18, .shlk⟩, ⟨17, 17, .shlk⟩, ⟨16, 16, .shlk⟩, ⟨15, 15, .shlk⟩, ⟨14, 14, .shlk⟩, ⟨13, 11, .shlk⟩, ⟨10, 10, .shlk⟩, ⟨9, 9, .shlk⟩, ⟨8, 8, .shlk⟩, ⟨7, 0, .shlk⟩]⟩,
  ⟨0x01E80408, [(0x10, 64)], false, [⟨31, 16, .shlk⟩, ⟨15, 0, .shlk⟩]⟩]

/-- Register blocks of spec/15_module_electrical.md. -/
def blocks15a : List RegBlock := [
  ⟨0x00004040, [], false, [⟨23, 16, .rw⟩, ⟨15, 8, .rw⟩, ⟨7, 0, .rw⟩]⟩,
  ⟨0x00004044, [], false, [⟨17, 16, .ro⟩, ⟨15, 14, .ro⟩, ⟨11, 0, .ro⟩]⟩,
  ⟨0x00004048, [], true, [⟨31, 0, .ro⟩]⟩,
  ⟨0x00004050, [], true, [⟨31, 0, .ro⟩]⟩,
  ⟨0x00004058, [], true, [⟨31, 0, .ro⟩]⟩,
  ⟨0x00004060, [], false, [⟨15, 0, .ro⟩]⟩]

/-- Register blocks of spec/16_startup_image_lifecycle.md. -/
def blocks16a : List RegBlock := [
  ⟨0x01F90040, [], false, [⟨19, 16, .ro⟩, ⟨15, 12, .ro⟩, ⟨11, 8, .ro⟩, ⟨2, 2, .ro⟩, ⟨1, 1, .ro⟩, ⟨0, 0, .ro⟩]⟩,
  ⟨0x01F90044, [], false, [⟨31, 0, .ro⟩]⟩,
  ⟨0x01F90048, [], false, [⟨31, 16, .ro⟩, ⟨7, 0, .ro⟩]⟩,
  ⟨0x01F90050, [(0x4, 12)], false, [⟨31, 0, .ro⟩]⟩,
  ⟨0x01F90080, [], false, [⟨0, 0, .rw⟩]⟩,
  ⟨0x01F90084, [], false, [⟨31, 6, .rw⟩]⟩,
  ⟨0x01F90088, [], false, [⟨7, 0, .rw⟩]⟩,
  ⟨0x01F9008C, [], false, [⟨31, 0, .rw⟩]⟩,
  ⟨0x01FA0040, [], false, [⟨16, 16, .ro⟩, ⟨14, 8, .ro⟩, ⟨1, 0, .ro⟩]⟩,
  ⟨0x01FA0044, [], false, [⟨15, 0, .rw⟩]⟩,
  ⟨0x01FA0050, [(0x4, 12)], false, [⟨31, 0, .ro⟩]⟩,
  ⟨0x01FB0040, [], false, [⟨23, 16, .ro⟩, ⟨15, 3, .ro⟩, ⟨1, 1, .ro⟩, ⟨0, 0, .ro⟩]⟩,
  ⟨0x01FB0044, [], false, [⟨31, 0, .ro⟩]⟩,
  ⟨0x01FB0048, [], false, [⟨31, 0, .ro⟩]⟩,
  ⟨0x01FB0050, [], true, [⟨31, 0, .ro⟩]⟩,
  ⟨0x01FB0058, [], true, [⟨31, 0, .ro⟩]⟩,
  ⟨0x01FB0060, [], true, [⟨31, 0, .ro⟩]⟩]

/-- Register blocks of spec/17_log_counters_faults.md. -/
def blocks17a : List RegBlock := [
  ⟨0x01F10040, [], false, [⟨13, 8, .rw⟩, ⟨2, 0, .rw⟩]⟩,
  ⟨0x01F10044, [], false, [⟨31, 0, .ro⟩]⟩,
  ⟨0x01F10048, [], false, [⟨31, 0, .rw⟩]⟩,
  ⟨0x01F10050, [], true, [⟨31, 0, .ro⟩]⟩,
  ⟨0x01F10058, [], true, [⟨31, 0, .ro⟩]⟩,
  ⟨0x01F10060, [], false, [⟨31, 0, .rw⟩]⟩,
  ⟨0x01F10064, [], false, [⟨2, 0, .rw⟩]⟩,
  ⟨0x01F10400, [(0x4, 256)], false, [⟨15, 0, .rw⟩]⟩,
  ⟨0x01F10800, [(0x8, 24)], false, [⟨31, 0, .rw⟩]⟩,
  ⟨0x01F10804, [(0x8, 24)], false, [⟨31, 0, .rw⟩]⟩,
  ⟨0x01F11000, [(0x8, 256)], false, [⟨31, 31, .rw⟩, ⟨30, 30, .rw⟩, ⟨26, 24, .rw⟩, ⟨20, 16, .rw⟩, ⟨12, 0, .rw⟩]⟩,
  ⟨0x01F11004, [(0x8, 256)], false, [⟨31, 31, .rw⟩, ⟨30, 30, .rw⟩, ⟨29, 29, .rw⟩, ⟨28, 28, .rw⟩, ⟨20, 16, .rw⟩, ⟨7, 0, .rw⟩]⟩,
  ⟨0x01F40040, [], false, [⟨31, 16, .rw⟩, ⟨0, 0, .rw⟩]⟩,
  ⟨0x01F40044, [], false, [⟨31, 31, .ro⟩, ⟨10, 0, .ro⟩]⟩,
  ⟨0x01F40048, [], false, [⟨3, 0, .rw⟩]⟩,
  ⟨0x01F40060, [(0x4, 8)], false, [⟨31, 0, .w1c⟩]⟩,
  ⟨0x01F40080, [], false, [⟨15, 0, .w1c⟩]⟩,
  ⟨0x01F41000, [(0x10, 256)], false, [⟨25, 8, .rw⟩, ⟨3, 3, .wo⟩, ⟨2, 2, .rw⟩, ⟨1, 0, .rw⟩]⟩,
  ⟨0x01F41004, [(0x10, 256)], true, [⟨31, 0, .rw⟩]⟩,
  ⟨0x01F42000, [(0x10, 16)], false, [⟨23, 16, .rw⟩, ⟨11, 8, .rw⟩, ⟨1, 1, .rw⟩, ⟨0, 0, .rw⟩]⟩,
  ⟨0x01F44000, [(0x200, 16), (0x8, 64)], true, [⟨31, 0, .ro⟩]⟩]

/-- Register blocks of spec/18_register_map.md. -/
def blocks18a : List RegBlock := [
  ⟨0x00000040, [], false, [⟨31, 0, .ro⟩]⟩,
  ⟨0x00000044, [], false, [⟨31, 0, .ro⟩]⟩,
  ⟨0x00000048, [], false, [⟨31, 0, .ro⟩]⟩,
  ⟨0x0000004C, [], false, [⟨31, 0, .ro⟩]⟩,
  ⟨0x00000050, [], false, [⟨31, 0, .ro⟩]⟩,
  ⟨0x00000054, [], false, [⟨31, 0, .ro⟩]⟩,
  ⟨0x00000058, [], false, [⟨31, 0, .ro⟩]⟩]

/-- Every register block. -/
def regBlocks : List RegBlock :=
  blocks02a ++ blocks03a ++ blocks04a ++ blocks05a ++ blocks05b ++ blocks06a ++ blocks06b ++ blocks07a ++ blocks07b ++ blocks08a ++ blocks08b ++ blocks08c ++ blocks09a ++ blocks09b ++ blocks10a ++ blocks11a ++ blocks12a ++ blocks12b ++ blocks12c ++ blocks13a ++ blocks14a ++ blocks15a ++ blocks16a ++ blocks17a ++ blocks18a

/-- Does the offset, relative to the base, name a word of the block? -/
def dimsMatch : List (Nat × Nat) → Bool → Nat → Bool
  | [], pair, d => d == 0 || (pair && d == 4)
  | (stride, count) :: t, pair, d => decide (d / stride < count) && dimsMatch t pair (d % stride)

/-- The block a word offset lies in, if any. -/
def RegBlock.hit (b : RegBlock) (off : Nat) : Bool :=
  decide (b.base ≤ off) && dimsMatch b.dims b.pair (off - b.base)

/-- The fields of the word at a BAR0 offset (none for an offset that no chapter assigns, R483). -/
def fieldsOf (off : Nat) : List FieldAcc :=
  match regBlocks.find? (fun b => b.hit off) with
  | some b => b.fields
  | none => []

/-- Mask of the bits msb down to lsb. -/
def bitMask (hi lo : Nat) : Nat := (2 ^ (hi + 1 - lo) - 1) * 2 ^ lo

/-- Mask of the fields of a word whose access type satisfies `p`. -/
def accMask (fs : List FieldAcc) (p : Acc → Bool) : Nat :=
  fs.foldl (fun m f => if p f.acc then m ||| bitMask f.hi f.lo else m) 0

/-- Mask of the shadowed bits of a word; for a Brook rule word, LK for rules 0 to 15 and SH above. -/
def shMask (off : Nat) : Nat :=
  accMask (fieldsOf off) (fun a => a == .sh || (a == .shlk && decide (0x01E80500 ≤ off)))

/-- Words whose reset value is not 0: base offset, strides and counts, value (the Reset column of the tables;
MSIX_CTRL by the PCIe specification, R357). -/
def resetRows : List (Nat × List (Nat × Nat) × Nat) := [
  (0x00100084, [], 0x4),
  (0x00401048, [(0x1000, 4)], 0x76543210),
  (0x00401100, [(0x1000, 4), (0x40, 9)], 0xF030),
  (0x0142005C, [(0x1000, 4)], 0x4),
  (0x01440060, [], 0x4080),
  (0x018100A8, [], 0x190),
  (0x01811000, [(0x20, 128)], 0x7F00),
  (0x01D3800C, [(0x10, 256)], 0x1),
  (0x01E80040, [], 0x40),
  (0x00004040, [], 0x585E5C),
  (0x00000040, [], 0x64101C7B),
  (0x00000044, [], 0x10B),
  (0x00000058, [], 0x10204004)]

/-- Factory settings of Brook (R396, R398, limits of R414): word offset and value; first part: ADC, list, comparators, filter slots. -/
def brookFactoryA : List (Nat × Nat) := [
  (0x01E80044, 0xB01), (0x01E80080, 0x4E20), (0x01E800A0, 0x97E4C8), (0x01E800A4, 0x76543210),
  (0x01E80100, 0x1019), (0x01E80104, 0x111A), (0x01E80108, 0x121B), (0x01E8010C, 0x131C),
  (0x01E80110, 0x141D), (0x01E80114, 0x151E), (0x01E80118, 0x161F), (0x01E8011C, 0x1720),
  (0x01E80120, 0x1821), (0x01E80124, 0x1922), (0x01E80128, 0x1A23), (0x01E8012C, 0x1B24),
  (0x01E80200, 0x281), (0x01E80204, 0x281), (0x01E80208, 0x8000), (0x01E8020C, 0x302),
  (0x01E80210, 0x2), (0x01E80214, 0x2), (0x01E80218, 0x2), (0x01E8021C, 0x2),
  (0x01E80220, 0x2), (0x01E80224, 0x2), (0x01E80228, 0x2), (0x01E8022C, 0x2),
  (0x01E80300, 0x100F), (0x01E80304, 0xABE09C4), (0x01E80310, 0x100F), (0x01E80314, 0xB220A8C),
  (0x01E80320, 0x100F), (0x01E80324, 0xD5C0CA8), (0x01E80330, 0x100F), (0x01E80334, 0xC3F0B9A),
  (0x01E80340, 0x100F), (0x01E80344, 0x5910546), (0x01E80350, 0x100F), (0x01E80354, 0x6AE0654),
  (0x01E80360, 0x100F), (0x01E80364, 0x82A07BC), (0x01E80370, 0x100F), (0x01E80374, 0x2F802D0),
  (0x01E80380, 0x100F), (0x01E80384, 0xA900000), (0x01E80390, 0x100F), (0x01E80394, 0xA900000),
  (0x01E803A0, 0x100F), (0x01E803A4, 0xA900000), (0x01E803B0, 0x100F), (0x01E803B4, 0xA900000)]

/-- Factory settings of Brook: the words of rules 0 to 15 (R396). -/
def brookFactoryB : List (Nat × Nat) := [
  (0x01E80400, 0x93820800), (0x01E80404, 0x400), (0x01E80410, 0x93042000), (0x01E80414, 0x2000000),
  (0x01E80420, 0x939A1000), (0x01E80430, 0x82100800), (0x01E80434, 0x4000), (0x01E80440, 0x84C00800),
  (0x01E80444, 0xC000), (0x01E80450, 0x84D00800), (0x01E80454, 0x4000), (0x01E80460, 0x3E00000),
  (0x01E80470, 0x3E00000), (0x01E80480, 0x90439800), (0x01E80484, 0x84000), (0x01E80490, 0x8B900000),
  (0x01E80494, 0x4040000), (0x01E804A0, 0x83B00800), (0x01E804A4, 0x4C000), (0x01E804B0, 0x82100000),
  (0x01E804B4, 0x402FF), (0x01E804C0, 0xC2C00000), (0x01E804C4, 0x402FE), (0x01E804C8, 0xF00),
  (0x01E804D0, 0xC2E00000), (0x01E804D4, 0x402FF), (0x01E804D8, 0xFF), (0x01E804E0, 0x83C00800),
  (0x01E804E4, 0xC000), (0x01E804F0, 0x83A00800), (0x01E804F4, 0x10000)]

/-- Reset value of the word at a BAR0 offset: the Reset column of its table; for a field loaded from the image, the
factory value its chapter names (R398 for Brook, R421 for MOD_THERM_CFG), else 0 (R438); Pool banks 1,264 to 1,279 are
owned by the log unit (R274) and every other bank is RELEASED with ID 0 (R271). -/
def resetNat (off : Nat) : Nat :=
  if 0x01E80000 ≤ off ∧ off < 0x01E81000 then
    if off = 0x01E80040 then 0x40
    else ((brookFactoryA ++ brookFactoryB).find? (fun x => x.1 == off)).elim 0 Prod.snd
  else if 0x01821000 ≤ off ∧ off < 0x01822400 then
    if 0x018223C0 ≤ off then 0x11F10 else 0x20000
  else
    (resetRows.find? (fun x => decide (x.1 ≤ off) && dimsMatch x.2.1 false (off - x.1))).elim 0 (fun x => x.2.2)

/-- `resetNat` as a register word. -/
def resetWord (off : Nat) : Word := BitVec.ofNat 32 (resetNat off)

end Sys2Proof.Machine
end

