-- ==== Sys2Proof/Machine/Tbl.lean ====
section
/-! DEFINITION. Tables: sparse data by number, as a list of (key, value) pairs.  An absent key has the value the
reader names as the default.  `Tbl.set` replaces the entry of a key or puts a new one in key order. -/

namespace Sys2Proof.Machine

/-- A table keyed by numbers. -/
abbrev Tbl (β : Type) := List (Nat × β)

variable {β : Type}

/-- The entry of key `k`, or the default. -/
def Tbl.get (d : β) : Tbl β → Nat → β
  | [], _ => d
  | (a, v) :: t, k => if a = k then v else Tbl.get d t k

/-- The entry of key `k`, if there is one. -/
def Tbl.find : Tbl β → Nat → Option β
  | [], _ => none
  | (a, v) :: t, k => if a = k then some v else Tbl.find t k

/-- Set the entry of key `k`. -/
def Tbl.set : Tbl β → Nat → β → Tbl β
  | [], k, v => [(k, v)]
  | (a, w) :: t, k, v =>
    if a = k then (a, v) :: t
    else if k < a then (k, v) :: (a, w) :: t
    else (a, w) :: Tbl.set t k v

/-- Change the entry of key `k` by a function. -/
def Tbl.upd (d : β) (t : Tbl β) (k : Nat) (f : β → β) : Tbl β := Tbl.set t k (f (Tbl.get d t k))

/-- Remove the entries of key `k`. -/
def Tbl.del (t : Tbl β) (k : Nat) : Tbl β := t.filter (fun e => e.1 != k)

/-- The entries with keys from `lo` up to `hi`, `hi` excluded. -/
def Tbl.range (t : Tbl β) (lo hi : Nat) : Tbl β := t.filter (fun e => decide (lo ≤ e.1) && decide (e.1 < hi))

end Sys2Proof.Machine
end

