-- ==== Sys2Proof/Machine/StateBoot.lean ====
section
/-! DEFINITION. State of the flash, the fuses, the journal, the start-up and the die's thermal control (spec/15, spec/16) that no register holds. -/

namespace Sys2Proof.Machine

/-- An entry in a journal group (R447): TYPE, KEY, SEQ, values, and whether its check word is right. -/
structure JEntry where
  typ : Nat
  key : Nat
  seq : Nat
  vals : List Int
  good : Bool
  deriving DecidableEq, Repr

/-- A journal sector group (R446): valid header, GEN, entries in order, bytes from the start of the group to the next entry. -/
structure JGroup where
  valid : Bool
  gen : Nat
  entries : List JEntry
  pos : Nat
  deriving DecidableEq, Repr

/-- An erased group. -/
def JGroup.init : JGroup := { valid := false, gen := 0, entries := [], pos := 0 }

/-- A flash operation of the image unit that runs (R451). -/
inductive FlashOp where
  | erase (slot : Nat)
  | program (slot src len : Nat)
  | check (slot : Nat)
  deriving DecidableEq, Repr

/-- Flash, fuses, start-up.  `life` the lifecycle state (R442), `keyHash` the fused key hash, `svn` the fused floor; `slot0`, `slot1` the image slots, the bytes
after the end erased (0xFF); the journal's groups, the active one, failures of the entry being written (R449), a compaction that runs (R450); `pub` PUBKEY of the
running image; `parked` a start-up that waits for lock at step 7 (R437), with the slot accepted, if any; `inRel` and `inThr` the temperature samples in a row below
THROT_REL, and from there up to below THROT2 (R421);
`disabled` the units that run disabled since the start, for an unplaced region or a refused reservation, by header (R249, R269);
`held`: Brook holds the die in reset, so that no analysis goes on until the next start (R28). -/
structure Boot where
  life : Nat
  keyHash : Option (List Byte)
  svn : Nat
  slot0 : List Byte
  slot1 : List Byte
  op : Option FlashOp
  grp0 : JGroup
  grp1 : JGroup
  active : Nat
  tries : Nat
  compacting : Bool
  pub : List Byte
  parked : Option (Option Nat)
  inRel : Nat
  inThr : Nat
  disabled : List Nat
  held : Bool
  deriving DecidableEq, Repr

/-- A module in state BLANK with an erased flash. -/
def Boot.init : Boot :=
  { life := 0, keyHash := none, svn := 0, slot0 := [], slot1 := [], op := none, grp0 := JGroup.init, grp1 := JGroup.init, active := 0, tries := 0,
    compacting := false, pub := [], parked := none, inRel := 0, inThr := 0, disabled := [], held := false }

end Sys2Proof.Machine
end

