-- ==== Sys2Proof/Machine/StateBrook.lean ====
section
/-! DEFINITION. State of Brook beside its registers (spec/14_brook.md). -/

namespace Sys2Proof.Machine

/-- A comparator: the last raw samples, newest first, and the BCLK cycles a blanking hold still lasts (R385). -/
structure CmpSt where
  hist : List Bool
  hold : Nat
  deriving DecidableEq, Repr

def CmpSt.init : CmpSt := { hist := [], hold := 0 }

/-- A Brook timer that was started: BT of its end in µs, and whether its end was reached (R394). -/
structure TmrSt where
  fin : Nat
  expired : Bool
  deriving DecidableEq, Repr

/-- Brook.  `on`: standby power is up; `bt`: BT in µs at the start of the next round (R377); `pos`: next entry of the conversion list; `volt` and `amp`: last
codes of channels 25 and 0 (MOD_PIN); `adcq`: result queue, oldest first, as BRK_ADC_QPOP shows it (R382); `adcSeq`, `lossDue`: number of the next result, and
whether one was lost just before it; `trimTo`: offset and gain that the trims step to (R384); `slots`: inputs of a filter slot since its reset with their STALE
marks, newest first, at most N (R388); `held`, `prev`: bit masks of the rules whose condition has held since CLR_LATCH and of the rules true after the previous round
(R392); `log`: the Brook log by SEQ mod 1,024 (R399); `alert`: ALERT_N is asserted; `col`: COL of RDSR; `mbSeq`: MB_SEQ last acted on (R403); `tests`: comparators under
SELFTEST, oldest first (R387); `hit`: the exchange RAM word that SPI wrote while Brook read it, with the BCLK cycle (R279); `defer`: less than 20 µs since extraction imminent rose, and what waits for their end: a DIE_HOLD, a SEQ_DOWN (R418). -/
structure Brk where
  on : Bool
  bt : Nat
  pos : Nat
  volt : Nat
  amp : Nat
  adcq : List Nat
  adcSeq : Nat
  lossDue : Bool
  trimTo : Option (Int × Int)
  slots : Tbl (List (Nat × Bool))
  cmps : Tbl CmpSt
  tmrs : Tbl TmrSt
  held : Nat
  prev : Nat
  log : Tbl (List Byte)
  alert : Bool
  col : Bool
  mbSeq : Nat
  hit : Option (Nat × Nat)
  tests : List Nat
  defer : Bool
  holdDue : Bool
  downDue : Bool
  deriving DecidableEq, Repr

/-- Brook without standby power. -/
def Brk.init : Brk :=
  { on := false, bt := 0, pos := 0, volt := 0, amp := 0, adcq := [], adcSeq := 0, lossDue := false, trimTo := none, slots := [], cmps := [],
    tmrs := [], held := 0, prev := 0, log := [], alert := false, col := false, mbSeq := 0, hit := none, tests := [], defer := false, holdDue := false,
    downDue := false }

end Sys2Proof.Machine
end

