-- ==== Sys2Proof/Machine/StateBase.lean ====
section
/-! DEFINITION. State that every block shares: what reports leave behind (R454 to R481), pending snapshots (R20) and
what leaves the module at its pins. -/

namespace Sys2Proof.Machine

/-- An entry of the event log before it is written (R460, R461).  `dt` counts 1/65,536 ns. -/
structure LogEntry where
  unit : Nat
  kind : Nat
  sev : Nat
  code : Nat
  arg0 : Nat
  arg1 : Nat
  dt : Nat
  coast : Bool
  deriving DecidableEq, Repr

/-- CMD_STATUS of a unit (R479) and its CMD_BUSY (R480). -/
structure CmdSt where
  status : Nat
  code : Nat
  busy : Bool
  deriving DecidableEq, Repr

/-- A command that a basin has forwarded (R26): code, members that have not returned a final code, worst code so far. -/
structure Fwd where
  code : Nat
  left : List Nat
  worst : Nat
  deriving DecidableEq, Repr

/-- State of one MSI-X vector's hold (R457): a hold runs; the TCLK cycle of a trigger that arrived during it. -/
structure VecHold where
  running : Bool
  trig : Option Nat
  deriving DecidableEq, Repr

/-- What leaves the module at its pins and links, newest first. -/
inductive Out where
  /-- a BAR0 read returned a value (R483) -/
  | regRead (path : Path) (off val : Nat)
  /-- an MSI-X write (R357) -/
  | msix (vec addr data : Nat)
  /-- a message on the back channel of a port (R86, R87) -/
  | backChannel (port : Nat) (msg : Nat)
  /-- an Ethernet frame begins on a link (R335): what it is, and its bytes where the spec lays them out -/
  | frame (link : Nat) (what : String) (bytes : List Byte)
  /-- data returned to a BAR2 read; `ep` is the PCIe poison bit (R356) -/
  | bar2Read (bytes : List Byte) (ep : Bool)
  /-- a BAR2 read completes with Completer Abort (R356) -/
  | bar2Abort
  /-- a config read returns a value (R355) -/
  | configRead (reg val : Nat)
  /-- a config request gets Configuration Request Retry Status (R358) -/
  | configRetry
  /-- an AUX transaction is sent on a DisplayPort output (R363, R374) -/
  | aux (output : Nat) (cmd addr len : Nat) (bytes : List Byte)
  /-- a clock output starts, stops or goes to high impedance (R44): 0 off, 1 high impedance, 2 running; the VCO cycle from which a ratio counts, and the ratio -/
  | clockOut (output mode start div : Nat)
  /-- words that an SPI transfer returned, each with its collision mark (R400, R401) -/
  | spi (words : List Nat)
  /-- data returned by JTAG REGACC (R445): value, status code -/
  | jtag (val status : Nat)
  /-- a line of an event output or a protocol pin, by name, takes a level -/
  | pin (name : String) (level : Nat)
  deriving DecidableEq, Repr

/-- A pending commit snapshot (R20): the unit's header and the snapped words. -/
structure Snap where
  hdr : Nat
  words : Tbl Nat
  deriving DecidableEq, Repr

/-- What reports leave behind: the header words that events, faults and commands change (R454, R474, R479), the queue
of the event log (R462), the counters and histograms (R464, R469), the vectors whose PBA bit is set, with the TCLK cycle of the trigger, and their holds (R357, R457), the cores' EVP words
(R299), Brook's exchange RAM with the notice ring in it (R402, R458), what left the module, and by the offset of its word each W1C bit's last cycle of setting:
the CCLK cycle and the bits set in it (R5). -/
structure Rep where
  pend : Tbl Nat
  flt : Tbl Nat
  cmd : Tbl CmdSt
  fwd : Tbl Fwd
  logq : List LogEntry
  dropMark : Bool
  logDrop : Nat
  cnt : Tbl Nat
  ovf : Nat
  hbin : Tbl Nat
  hovf : Nat
  pba : Tbl Nat
  holds : Tbl VecHold
  fnMask : Bool
  evp : Tbl Nat
  xram : Tbl Byte
  notices : Nat
  out : List Out
  fresh : Tbl (Nat × Nat)
  deriving DecidableEq, Repr

/-- Nothing reported yet (R472, R474: every one of these words resets to 0). -/
def Rep.init : Rep :=
  { pend := [], flt := [], cmd := [], fwd := [], logq := [], dropMark := false, logDrop := 0, cnt := [], ovf := 0,
    hbin := [], hovf := 0, pba := [], holds := [], fnMask := false, evp := [], xram := [], notices := 0, out := [], fresh := [] }

end Sys2Proof.Machine
end

