-- ==== Sys2Proof/Machine/StateIng.lean ====
section
/-! DEFINITION. State of the ingress ports and their lanes (spec/04) that no register holds. -/

namespace Sys2Proof.Machine

/-- A receive lane.  AM lock (R81): alignment codewords in a row, missing ones in a row, codewords since the last place
of one, last AM_CNT.  `scr` is the descrambler's 58-bit state (R79).  Training (R88): presets still to measure, the first under
measurement; best preset and its errors; waiting for the ACK of PRESET; last chosen preset.  `prev` is the state before IDLE, `idleAt` the TCLK cycle
in which the lane went there, from which its codewords are counted on (R92); `fails` the consecutive
failures (R90); `unc` the TCLK cycles of recent uncorrectable codewords (R89); `rx` the data blocks received for each
frame, in order, `none` for a missing block; `rxFc` the frame now received; `waking` WAKE has been sent to the idled lane (R92). -/
structure LaneSt where
  amGood : Nat
  amMiss : Nat
  since : Nat
  amCnt : Nat
  scr : Nat
  sweep : List Nat
  best : Option (Nat × Nat)
  waitAck : Bool
  chosen : Nat
  prev : Nat
  idleAt : Nat
  fails : Nat
  unc : List Nat
  rx : Tbl (List (Option Nat))
  rxFc : Option Nat
  waking : Bool
  deriving DecidableEq, Repr

def LaneSt.init : LaneSt :=
  { amGood := 0, amMiss := 0, since := 0, amCnt := 0, scr := 0, sweep := [], best := none, waitAck := false, chosen := 0,
    prev := 0, idleAt := 0, fails := 0, unc := [], rx := [], rxFc := none, waking := false }

/-- A calibrated value of `w` bits in the register word at `off` that still moves to `goal` (R107). -/
structure TrimMove where
  off : Nat
  w : Nat
  goal : Int
  deriving DecidableEq, Repr

/-- An ingress port.  `link` is the ING_PORT_CFG word in force on the lanes (R72), `fmt` that of the schedule on which words are released, the one of
the last epoch (R116); `cfgBad` the last one was illegal (R74).  Epoch
(R98, R99): FRAME_CNT and release tick of its first frame; `anyEp` a first epoch has been fixed since start-up.  `asm` the port must reassemble before it delivers (R84, R99); `gone` logical lanes
without a working lane (R95); `recheck` whether the epoch may be kept is still to be judged (R99); `moved` logical lanes on their way to a spare (R94); `fmtOk` logical lanes whose SYNC block has matched since a mismatch (R84).  `relF`, `relR`
the frame and the word of 16 samples released next; `deliver` the first word of 16 samples that is delivered, 8,192 to a frame (R91); `gapCoast` zero-filled words
carry COAST (R99); `calDue` a calibration waits (R105); `calFirst` the first calibration of R440 is owed; `calAt`, `cals` the SCLK ticks of the last calibration's start, and of the start and end of those that ended (R106); `idle` the port is idled, `ext` by an imminent extraction (R93); `sysref` the last SYSREF in phase (R104);
`skewTo`, `phaseTo` the values that calibrated PORT_SKEW and PHASE still move to, `trimTo` the trims and lane skews that do, one after the other (R107). -/
structure PortSt where
  link : Nat
  fmt : Nat
  cfgBad : Bool
  epFc : Nat
  epTick : Nat
  anyEp : Bool
  asm : Bool
  recheck : Bool
  gone : List Nat
  moved : List Nat
  fmtOk : List Nat
  relF : Nat
  relR : Nat
  deliver : Option Nat
  gapCoast : Bool
  calDue : Bool
  calFirst : Bool
  calAt : Nat
  cals : List (Nat × Nat)
  idle : Bool
  ext : Bool
  sysref : Option Nat
  skewTo : Option Int
  phaseTo : Option Nat
  trimTo : List TrimMove
  deriving DecidableEq, Repr

def PortSt.init : PortSt :=
  { link := 0, fmt := 0, cfgBad := false, epFc := 0, epTick := 0, anyEp := false, asm := true,
    recheck := false, gone := [], moved := [], fmtOk := [], relF := 0, relR := 0, deliver := none, gapCoast := false, calDue := false,
    calFirst := true, calAt := 0, cals := [], idle := false, ext := false, sysref := none, skewTo := none, phaseTo := none, trimTo := [] }

/-- The ingress ports; lane l of port p has key 9 p + l. -/
structure Ing where
  port : Tbl PortSt
  lane : Tbl LaneSt
  deriving DecidableEq, Repr

def Ing.init : Ing := { port := [], lane := [] }

end Sys2Proof.Machine
end

