-- ==== Sys2Proof/Machine/StateMmu.lean ====
section
/-! DEFINITION. State of the translation unit and the Millrace channels (spec/11) that no register holds. -/

namespace Sys2Proof.Machine

/-- A TLB entry (R316): address space, virtual and device address of its page, log2 of the page's bytes, permissions. -/
structure TlbE where
  asid : Nat
  va : Nat
  pa : Nat
  size : Nat
  u : Bool
  w : Bool
  r : Bool
  deriving DecidableEq, Repr

/-- The translation unit: TLBs, least recently used last (key: core number, 64 for Millrace); the running invalidation (command, address space, VA; R317) and
the requesters (core c, 64 + channel) whose walks began before it. -/
structure Mmu where
  tlb : Tbl (List TlbE)
  inv : Option (Nat × Nat × Nat)
  discard : List Nat
  deriving DecidableEq, Repr

def Mmu.init : Mmu := { tlb := [], inv := none, discard := [] }

/-- A burst that has been issued (R322): offsets within the descriptor, addresses with PHYS in bit 63, bytes, FCLK cycle of issue, the words of its descriptor and
the number of that among the channel's; `orphan` it was aborted. -/
structure Burst where
  x : Nat
  y : Nat
  z : Nat
  src : Nat
  dst : Nat
  len : Nat
  since : Nat
  desc : List Nat
  num : Nat
  orphan : Bool
  deriving DecidableEq, Repr

/-- What a channel works on: nothing, a descriptor fetch, its bursts, the read-back, or a descriptor that is complete but for steps 3 to 5 of R329. -/
inductive MlrStage where
  | none | fetch | bursts | readback | done
  deriving DecidableEq, Repr

/-- A Millrace channel: stage, descriptor words (R324), next burst to issue, bursts outstanding, oldest first, STOP pending (R328), FCLK cycle since which the next burst waits and whether it is urgent
(R325), FCLK cycle of the first MIGRATING and BUS retries of the present burst, fetch or read-back (R327); `num` the number of the descriptor, `old` what the bytes that
its bursts overwrote in its own source held before, by number × 2^64 + address (R323). -/
structure MlrCh where
  stage : MlrStage
  desc : List Nat
  nx : Nat
  ny : Nat
  nz : Nat
  left : Bool
  out : List Burst
  stop : Bool
  ready : Nat
  urg : Bool
  mig : Option Nat
  bus : Nat
  num : Nat
  old : Tbl Byte
  deriving DecidableEq, Repr

def MlrCh.init : MlrCh :=
  { stage := .none, desc := [], nx := 0, ny := 0, nz := 0, left := false, out := [], stop := false, ready := 0, urg := false, mig := none, bus := 0, num := 0, old := [] }

/-- The channels, and for each PRIO the one served last (R325). -/
structure Mlr where
  ch : Tbl MlrCh
  last : Tbl Nat
  deriving DecidableEq, Repr

def Mlr.init : Mlr := { ch := [], last := [] }

end Sys2Proof.Machine
end

