-- ==== Sys2Proof/Machine/StateNet.lean ====
section
/-! DEFINITION. State of the streams, link queues, queue pairs, management and host port (spec/12) that no register holds. -/

namespace Sys2Proof.Machine

/-- What follows a product once its last byte has been read (R338): nothing, an Eddy FULL flag cleared, a trace slot freed, a plane buffer
or a capture record released, or a MEMQ entry's VALID cleared. -/
inductive After where
  | none
  | eddy (n : Nat)
  | trace (p t slot : Nat)
  | plane (p n b : Nat)
  | record (p id : Nat)
  | memq (addr : Nat)
  deriving DecidableEq, Repr

/-- A part of a product: bytes that the stream made, or bytes to be read at a device address. -/
inductive Piece where
  | lit (bs : List Byte)
  | dev (addr len : Nat)
  deriving DecidableEq, Repr

/-- A product that a stream sends (R338 to R341). -/
structure NProd where
  id : Nat
  psw : Nat
  dtFirst : Nat
  dtLast : Nat
  len : Nat
  pieces : List Piece
  after : After
  deriving DecidableEq, Repr

/-- A word of a tap read from its ring: value as sent, RWN, DT, PSW bits of its block's status byte, poison. -/
structure TapW where
  v : Nat
  rwn : Nat
  dt : Nat
  psw : Nat
  deriving DecidableEq, Repr

/-- A stream.  `cfg` to `qpw` are the settings copied at START (R337); `seq` PKT_SEQ; `loss`, `restart` owed to the next datagram (R341); `cur` the product
being sent with its offset; `pos` the next record, plane period or MEMQ entry of its source; `seen` a plane buffer's period sent last; `flip` the Eddy buffer due next; `recq` queued records (port, id);
a tap's next word, its words read and not yet sent, bits of the first one already sent, and payload bytes sent since START. -/
structure Strm where
  run : Bool
  cfg : Nat
  src : Nat
  dst : Nat
  pay : Nat
  aux : Nat
  dest : List Nat
  qpw : List Nat
  seq : Nat
  loss : Bool
  restart : Bool
  cur : Option NProd
  off : Nat
  pos : Nat
  seen : Option Nat
  flip : Option Nat
  recq : List (Nat × Nat)
  tapNext : Nat
  tapBuf : List TapW
  tapBit : Nat
  tapOff : Nat
  deriving DecidableEq, Repr

def Strm.init : Strm :=
  { run := false, cfg := 0, src := 0, dst := 0, pay := 0, aux := 0, dest := [], qpw := [], seq := 0, loss := false, restart := false, cur := none,
    off := 0, pos := 0, seen := none, flip := none, recq := [], tapNext := 0, tapBuf := [], tapBit := 0, tapOff := 0 }

/-- A datagram on its way (R340 to R343): stream, queue pair, link, priority, destination and queue-pair words in force, Wenud bytes, LAST, product bytes, PKT_SEQ, and
the frames still to be sent with their PSNs (0 for UDP), Ethernet header to the last byte before the FCS. -/
structure Dg where
  stream : Nat
  qp : Option Nat
  link : Nat
  prio : Nat
  dest : List Nat
  qpw : List Nat
  body : List Byte
  last : Bool
  pay : Nat
  seq : Nat
  frames : List (Nat × List Byte)
  deriving DecidableEq, Repr

/-- A message in the retransmit store (R348). -/
structure QMsg where
  link : Nat
  prio : Nat
  cfg : Nat
  frames : List (Nat × List Byte)
  deriving DecidableEq, Repr

/-- A queue pair (R346 to R349): next PSN, next message number, first unacknowledged PSN, unacknowledged messages (oldest first), retries and
RNR retries since the last progress, and whether an RNR delay runs. -/
structure QpSt where
  psn : Nat
  msg : Nat
  una : Nat
  store : List QMsg
  retry : Nat
  rnr : Nat
  rnrWait : Bool
  deriving DecidableEq, Repr

def QpSt.init : QpSt := { psn := 0, msg := 0, una := 0, store := [], retry := 0, rnr := 0, rnrWait := false }

/-- The network and host units: streams, on-die queues by 8 × link + priority, frames to be sent again likewise (queue pair, PSN, frame), Backwater FIFOs by link,
queue pairs, link settings in force since EN was last set (R334), writable words of PCIe config space, whether start-up has released the host port (R358), BAR2 accesses held by a switch-over window
(R356), key of the management packets (R352), DT second of the last logged rejection (R353). -/
structure Net where
  str : Tbl Strm
  die : Tbl (List Dg)
  re : Tbl (List (Nat × Nat × List Byte))
  bw : Tbl (List Dg)
  qp : Tbl QpSt
  lnk : Tbl Nat
  cfgsp : Tbl Nat
  hostOpen : Bool
  held : List MemReq
  key : Option (List Byte)
  rejSec : Option Nat
  deriving DecidableEq, Repr

def Net.init : Net :=
  { str := [], die := [], re := [], bw := [], qp := [], lnk := [], cfgsp := [], hostOpen := false, held := [], key := none, rejSec := none }

end Sys2Proof.Machine
end

