-- ==== Sys2Proof/Machine/StatePerf.lean ====
section
/-! DEFINITION. State of the counter unit (spec/17) beside its counters and histograms: the holding registers of PERF_CNTn_LO (R465), SNAP_SEQ, and the
snapshot that is being written with its bank (R468). -/

namespace Sys2Proof.Machine

structure Perf where
  lo : Tbl Nat
  seq : Nat
  busy : Option (Nat × List Byte)
  deriving DecidableEq, Repr

def Perf.init : Perf := { lo := [], seq := 0, busy := none }

end Sys2Proof.Machine
end

