-- ==== Sys2Proof/Machine/StateRfl.lean ====
section
/-! DEFINITION. State of the Riffle cores (spec/10) that no register holds. -/

namespace Sys2Proof.Machine

/-- One bank of a core's registers (R285).  D and ACC hold (re, im) as signed integers; `mac` the accumulators as the next MAC-class operation sees them (R295); `p` the
predicates 1 to 7. -/
structure RBank where
  d : Tbl (Int × Int)
  acc : Tbl (Int × Int)
  mac : Tbl (Int × Int)
  g : Tbl Nat
  a : Tbl Nat
  i : Tbl Nat
  m : Tbl Nat
  b : Tbl Nat
  p : Tbl Bool
  deriving DecidableEq, Repr

def RBank.init : RBank := { d := [], acc := [], mac := [], g := [], a := [], i := [], m := [], b := [], p := [] }

/-- What an instruction writes: registers, special registers (R286), or the EVP bits that ECLRV clears. -/
inductive RTgt where
  | d (n : Nat) | acc (n : Nat) | g (n : Nat) | a (n : Nat) | i (n : Nat) | m (n : Nat) | b (n : Nat) | p (n : Nat)
  | sp (n : Nat) | evClear
  deriving DecidableEq, Repr

/-- A result in flight (R295, R301): advancing cycles until it is seen, the bank it lands in (true: shadow), target and value; a single value is the first component. -/
structure Wr where
  left : Nat
  shadow : Bool
  tgt : RTgt
  re : Int
  im : Int
  deriving DecidableEq, Repr

/-- A branch that is pending (R294, R302): target, delay slots left, whether it is an RTE. -/
structure Branch where
  target : Nat
  left : Nat
  rte : Bool
  deriving DecidableEq, Repr

/-- A far access that is outstanding (R298): the instruction, FCLK cycle of its issue, address space (R310). -/
structure Far where
  word : Nat
  since : Nat
  asid : Nat
  deriving DecidableEq, Repr

/-- A Riffle core.  `run` is RFL_STATUS.RUN; `flight` results in flight, oldest first; `shadow` BANK, `sup` MODE; `ctmr` the timer's value with the FCLK cycle at which it held; `cycHi` the latched
CYC_HI; `noPre` no main-bank instruction has issued since an RTE (R302); `mask` that of the WAIT that stalls; `win` an Eddy-window access that waits for port B (R298); `step` a STEP is under way, `haltReq` a HALT
waits for the far access; cycles not HALTED and cycles STALLED or WAITING, each with the FCLK cycle from which the present stretch counts; instruction words and
data bytes that are not 0. -/
structure RCore where
  main : RBank
  shad : RBank
  flight : List Wr
  run : Nat
  pc : Nat
  shadow : Bool
  sup : Bool
  ie : Bool
  sat : Bool
  br : Option Branch
  vseg : Nat
  ewin : Nat
  eve : Nat
  ctmr : Nat × Nat
  cycHi : Nat
  epc : Nat
  ectx : Nat
  ecause : Nat
  eaddr : Nat
  noPre : Bool
  mask : Nat
  far : Option Far
  win : Option Nat
  step : Bool
  haltReq : Bool
  cyc : Nat
  cycFrom : Nat
  stall : Nat
  stallFrom : Nat
  imem : Tbl Nat
  dmem : Tbl Byte
  deriving DecidableEq, Repr

def RCore.init : RCore :=
  { main := RBank.init, shad := RBank.init, flight := [], run := 0, pc := 0, shadow := false, sup := false, ie := false, sat := false, br := none,
    vseg := 0, ewin := 0, eve := 0, ctmr := (0, 0), cycHi := 0, epc := 0, ectx := 0, ecause := 0, eaddr := 0, noPre := false, mask := 0, far := none, win := none,
    step := false, haltReq := false, cyc := 0, cycFrom := 0, stall := 0, stallFrom := 0, imem := [], dmem := [] }

end Sys2Proof.Machine
end

