-- ==== Sys2Proof/Machine/StateRsv.lean ====
section
/-! DEFINITION. State of the Reservoir, the Pool and the Eddy buffers (spec/09) that no register holds. -/

namespace Sys2Proof.Machine

/-- A request that waits at a rank controller (R255): the FCLK cycle of its arrival, and whether it is urgent (R256). -/
structure WaitReq where
  req : MemReq
  since : Nat
  urgent : Bool
  deriving DecidableEq, Repr

/-- A bank of a rank (R250, R251): predictor, row accessed last and the column in it, whether that row is open. -/
structure RowBank where
  pred : Nat
  row : Option Nat
  col : Nat
  opn : Bool
  deriving DecidableEq, Repr

def RowBank.init : RowBank := { pred := 2, row := none, col := 0, opn := false }

/-- The running migration (R264, R265): source and spare, last chunk copied or the copy given up. -/
structure Mig where
  src : Nat
  dst : Nat
  copied : Bool
  deriving DecidableEq, Repr

/-- What a failed rank lost (R267, R268): in-rank chunks from `first` on hold no data until they are filled with poison; `filled` those filled; `gone` when no spare
took its place; `healed` 8-byte words written in full since; `held` the bytes of writes that wait for a chunk's fill, oldest first, each with whether its write covered
its word in full. -/
structure Lost where
  first : Nat
  filled : List Nat
  gone : Bool
  healed : List Nat
  held : List (Nat × Byte × Bool)
  deriving DecidableEq, Repr

/-- The memories: requests waiting by physical rank, the consumer served last in the reserved (2 r) and the best-effort class (2 r + 1) of rank r, credit in eighths of a byte with the FCLK cycle at
which it was counted (R255), banks by 16 r + bank, FCLK cycle at which the last refresh window ends (R252), migration with its switch-over window, ranks
that wait for theirs (R263), losses by logical rank, scrub passes that run and the commanded one (R260, R280), Pool ranges being cleared by a handover, oldest first (R273), and the Eddy word stored last with its FCLK
cycle and the bytes it held before (R278), at port A and port B; of each Eddy buffer the FCLK cycle in which port B was used last and the requester served, a core by its number, then the
Millrace channels from 64, then the host (R298). -/
structure Rsv where
  waits : Tbl (List WaitReq)
  last : Tbl Nat
  credit : Tbl (Nat × Nat)
  bank : Tbl RowBank
  refreshEnd : Nat
  mig : Option Mig
  window : Bool
  due : List Nat
  lost : Tbl Lost
  scrubR : Bool
  scrubP : Bool
  scrubCmd : Bool
  clearing : List (Nat × Nat)
  eddyA : Option (Nat × Nat × List Byte)
  eddyB : Option (Nat × Nat)
  portB : Tbl (Nat × Nat)
  deriving DecidableEq, Repr

def Rsv.init : Rsv :=
  { waits := [], last := [], credit := [], bank := [], refreshEnd := 0, mig := none, window := false, due := [], lost := [],
    scrubR := false, scrubP := false, scrubCmd := false, clearing := [], eddyA := none, eddyB := none, portB := [] }

end Sys2Proof.Machine
end

