-- ==== Sys2Proof/Machine/StateTime.lean ====
section
/-! DEFINITION. State of the clock unit (spec/02) and of the event-timing unit (spec/03) that no register holds. -/

namespace Sys2Proof.Machine

/-- A clock output (R44): `mode` 0 not driven, 1 in its 2 µs of high impedance, 2 running; with SRC = 0 `start` is the VCO cycle of the coincident divider edge
on which the present ratio `div` starts, and `old` the start and ratio that it keeps until then. -/
structure Cout where
  mode : Nat
  start : Nat
  div : Nat
  old : Option (Nat × Nat)
  deriving DecidableEq, Repr

def Cout.init : Cout := { mode := 0, start := 0, div := 0, old := none }

/-- Wellspring, clock outputs, Rivulet and device time.
`t0` the TCLK cycle in which the dividers last started (R34); `dt` counts 1/65,536 ns and `dtFrac` 2^-44 of that (R46); `acc` is the servo's accumulator (R51); `src` the source in
force (CLK_DT_CTRL.SRC takes effect at DTRESTART); `run` the errors of the consecutive measurements counted by R47 and
R49, newest first; `autoDone` the automatic step of this ACQUIRE is spent (R47); `restepOk` RESTEP_REQ may be raised
(R49); `step` the pending step in ns (R50); `tod` SETTOD is pending with its seconds value (R53); `lastPps` and `lastAcc` the TCLK cycles of the last PPS edge and the last accepted
measurement; `qualA`, `qualB` consecutive qualifying windows (R41); `mean` the mean control value of the last good
window (R38); `cout` the clock outputs (R44);
`rivGood` Rivulet's consecutive good windows (R487). -/
structure Clk where
  t0 : Nat
  dt : Nat
  dtFrac : Nat
  acc : Int
  src : Nat
  run : List Int
  autoDone : Bool
  restepOk : Bool
  step : Option Int
  tod : Option Nat
  lastPps : Option Nat
  lastAcc : Nat
  qualA : Nat
  qualB : Nat
  mean : Nat
  cout : Tbl Cout
  rivGood : Nat
  deriving DecidableEq, Repr

def Clk.init : Clk :=
  { t0 := 0, dt := 0, dtFrac := 0, acc := 0, src := 0, run := [], autoDone := false, restepOk := true, step := none, tod := none,
    lastPps := none, lastAcc := 0, qualA := 0, qualB := 0, mean := 0x80000000, cout := [], rivGood := 0 }

/-- An accepted edge in its input's queue (R61). -/
structure EvtEntry where
  seq : Nat
  loss : Bool
  stale : Bool
  coast : Bool
  falling : Bool
  dt : Int
  deriving DecidableEq, Repr

/-- An event input: its queue, oldest first; the accepted edges counted for SEQ; the TCLK cycle of the last accepted edge (R57);
the TCLK cycle in which blanking ends (R58); LOSS owed to the next entry (R62); one-shot armed (R60); the comparator's output (R56). -/
structure EvtIn where
  q : List EvtEntry
  seq : Nat
  last : Option Nat
  blankEnd : Nat
  loss : Bool
  armed : Bool
  high : Bool
  deriving DecidableEq, Repr

def EvtIn.init : EvtIn := { q := [], seq := 0, last := none, blankEnd := 0, loss := false, armed := false, high := false }

/-- An edge that a pairing unit holds (R66). -/
structure PairEdge where
  seq : Nat
  coast : Bool
  stale : Bool
  dt : Int
  deriving DecidableEq, Repr

/-- An interval record (R68). -/
structure PairRec where
  unres : Bool
  order : Bool
  rearm : Bool
  coast : Bool
  stale : Bool
  loss : Bool
  startSeq : Nat
  stopSeq : Nat
  interval : Int
  deriving DecidableEq, Repr

/-- An accepted edge that a pairing unit has not processed yet: a stop?, the TCLK cycle of its arrival (R66). -/
structure PairWait where
  stop : Bool
  arr : Nat
  edge : PairEdge
  deriving DecidableEq, Repr

/-- A pairing unit: edges that wait for their turn, in order of their DT (R66); armed start, re-armed since, held orphan stop, record queue (oldest first), LOSS owed. -/
structure PairSt where
  wait : List PairWait
  start : Option PairEdge
  rearm : Bool
  orphan : Option PairEdge
  q : List PairRec
  loss : Bool
  deriving DecidableEq, Repr

def PairSt.init : PairSt := { wait := [], start := none, rearm := false, orphan := none, q := [], loss := false }

/-- The event-timing unit: inputs, pairing units, gate levels (R60), inputs still to calibrate, the first one under
calibration (R69). -/
structure Evt where
  inp : Tbl EvtIn
  pair : Tbl PairSt
  gate : Tbl Bool
  cal : List Nat
  deriving DecidableEq, Repr

def Evt.init : Evt := { inp := [], pair := [], gate := [], cal := [] }

/-- A time-transmitter heard by Announce (R350): its clockIdentity, the dataset that the comparison of the standard ranks, and its UTC offset. -/
structure PtpMaster where
  id : Nat
  rank : List Nat
  steps : Nat
  utc : Int
  utcValid : Bool
  deriving DecidableEq, Repr

/-- The PTP time-receiver (R350, R351): time-transmitters heard, the selected one, a two-step Sync that waits for its Follow_Up (sequence, t2, correction), the last
complete Sync (t1, t2, correction), the Delay_Req in flight (sequence, t3), next sequence, best exchange of the second (round trip, offset). -/
structure Ptp where
  masters : List PtpMaster
  sel : Option Nat
  wait : Option (Nat × Int × Int)
  sync : Option (Int × Int × Int)
  dreq : Option (Nat × Int)
  dseq : Nat
  best : Option (Int × Int)
  deriving DecidableEq, Repr

def Ptp.init : Ptp := { masters := [], sel := none, wait := none, sync := none, dreq := none, dseq := 0, best := none }

/-- A display output: what the plugged sink reports (R363), the AUX transaction that runs (operation, length; R374). -/
structure DpOut where
  caps : SinkCaps
  aux : Option (Nat × Nat)
  deriving DecidableEq, Repr

def DpOut.init : DpOut := { caps := { maxRate := 0, maxLanes := 0, downspread := false }, aux := none }

/-- The display: outputs; the TCLK cycle in which line VACT last began (R367, R372); the plane buffer shown with BUFSEL = 2 (R368). -/
structure Dsp where
  out : Tbl DpOut
  vAt : Nat
  shown : Nat
  deriving DecidableEq, Repr

def Dsp.init : Dsp := { out := [], vAt := 0, shown := 0 }

end Sys2Proof.Machine
end

