-- ==== Sys2Proof/Machine/Float.lean ====
section
/-! DEFINITION. Binary floating point of IEEE 754 as the rules use it: binary32 words (R129, R293), sums and means in
binary64 (R141, R147, R153, R155).  A finite value is a dyadic number m × 2^e; each operation is exact and is rounded
once to nearest, ties to even, to 24 or 53 bits. -/

namespace Sys2Proof.Machine

/-- The number `m × 2^e`. -/
structure Dy where
  m : Int
  e : Int
  deriving DecidableEq, Repr

def Dy.zero : Dy := ⟨0, 0⟩
def Dy.ofInt (x : Int) : Dy := ⟨x, 0⟩

/-- Both mantissas at the smaller exponent. -/
def Dy.align (a b : Dy) : Int × Int × Int :=
  if a.e ≤ b.e then (a.m, b.m * ((2 ^ (b.e - a.e).toNat : Nat) : Int), a.e)
  else (a.m * ((2 ^ (a.e - b.e).toNat : Nat) : Int), b.m, b.e)

/-- Exact sum. -/
def Dy.add (a b : Dy) : Dy := match Dy.align a b with | (x, y, e) => ⟨x + y, e⟩

def Dy.neg (a : Dy) : Dy := ⟨-a.m, a.e⟩

def Dy.sub (a b : Dy) : Dy := Dy.add a b.neg

/-- Exact product. -/
def Dy.mul (a b : Dy) : Dy := ⟨a.m * b.m, a.e + b.e⟩

/-- Exact scaling by a power of two. -/
def Dy.scale (a : Dy) (k : Int) : Dy := ⟨a.m, a.e + k⟩

def Dy.lt (a b : Dy) : Bool := match Dy.align a b with | (x, y, _) => decide (x < y)

def Dy.isZero (a : Dy) : Bool := a.m == 0

/-- Round to `p` bits of precision with least exponent `emin`: nearest, ties to even. -/
def Dy.round (p : Nat) (emin : Int) (a : Dy) : Dy :=
  if a.m = 0 then Dy.zero
  else
    let e := max emin (a.e + Nat.log2 a.m.natAbs + 1 - p)
    let m := if e ≤ a.e then a.m * ((2 ^ (a.e - e).toNat : Nat) : Int) else rneShr a.m (e - a.e).toNat
    if m = 0 then Dy.zero else ⟨m, e⟩

/-- Round to binary64. -/
def Dy.r64 (a : Dy) : Dy := Dy.round 53 (-1074) a

/-- Round to binary32's precision and range of exponents (no overflow check). -/
def Dy.r32 (a : Dy) : Dy := Dy.round 24 (-149) a

/-- Quotient rounded to `p` bits: the integer quotient carries two bits more and a sticky bit. -/
def Dy.divRound (p : Nat) (emin : Int) (a b : Dy) : Dy :=
  if b.m = 0 ∨ a.m = 0 then Dy.zero
  else
    let k := p + 3 + Nat.log2 b.m.natAbs
    let num := a.m.natAbs * 2 ^ k
    let q := num / b.m.natAbs
    let st := if num % b.m.natAbs = 0 then 0 else 1
    let v : Int := ((2 * q + st : Nat) : Int)
    Dy.round p emin ⟨if (a.m < 0) = (b.m < 0) then v else -v, a.e - b.e - k - 1⟩

/-- Quotient in binary64. -/
def Dy.div64 (a b : Dy) : Dy := Dy.divRound 53 (-1074) a b

/-- Sum in binary64. -/
def Dy.add64 (a b : Dy) : Dy := (Dy.add a b).r64

/-- Product in binary64. -/
def Dy.mul64 (a b : Dy) : Dy := (Dy.mul a b).r64

/-- Rounded to an integer, ties to even. -/
def Dy.toIntRne (a : Dy) : Int := rneScale a.m a.e

/-- A binary32 value. -/
inductive Fl where
  | nan
  | inf (neg : Bool)
  | fin (neg : Bool) (v : Dy)
  deriving DecidableEq, Repr

/-- Decode a binary32 word. -/
def Fl.dec (w : Nat) : Fl :=
  let s := bitAt w 31
  let e := bits w 30 23
  let f := bits w 22 0
  let sg : Int := if s then -1 else 1
  if e = 255 then (if f = 0 then .inf s else .nan)
  else if e = 0 then .fin s ⟨sg * f, -149⟩
  else .fin s ⟨sg * (f + 0x800000), (e : Int) - 150⟩

/-- Encode a value already rounded to binary32's precision; a magnitude of 2^128 or more is an infinity. -/
def Fl.encDy (neg : Bool) (a : Dy) : Nat :=
  let s := if neg then 0x80000000 else 0
  if a.m = 0 then s
  else
    let n := a.m.natAbs
    let l := Nat.log2 n
    let top : Int := a.e + l
    if 128 ≤ top then s + 0x7F800000
    else if top < -126 then s + (n * 2 ^ (a.e + 149).toNat)
    else
      let f := if l ≤ 23 then n * 2 ^ (23 - l) else n / 2 ^ (l - 23)
      s + (top + 127).toNat * 0x800000 + (f - 0x800000)

/-- Encode a value already rounded to binary64's precision (no overflow occurs). -/
def f64Bits (a : Dy) : Nat :=
  if a.m = 0 then 0
  else
    let n := a.m.natAbs
    let l := Nat.log2 n
    let top : Int := a.e + l
    let s := if a.m < 0 then 2 ^ 63 else 0
    if top < -1022 then s + n * 2 ^ (a.e + 1074).toNat
    else
      let f := if l ≤ 52 then n * 2 ^ (52 - l) else n / 2 ^ (l - 52)
      s + (top + 1023).toNat * 2 ^ 52 + (f - 2 ^ 52)

/-- Round a dyadic number to a binary32 word. -/
def f32OfDy (a : Dy) : Nat := Fl.encDy (decide (a.m < 0)) a.r32

/-- The finite value of a binary32 word (0 for an infinity or a NaN). -/
def dyOfF32 (w : Nat) : Dy :=
  match Fl.dec w with
  | .fin _ v => v
  | _ => Dy.zero

/-- Is the word a finite binary32? -/
def f32Finite (w : Nat) : Bool := bits w 30 23 != 255

/-- Does `10^k × D^-2000` lie below 1, for `D` the dyadic `x`?  That is, `10^k < x^2000`. -/
def tenPowLt (k : Int) (x : Dy) : Bool :=
  let n := x.m.natAbs ^ 2000
  let e := x.e * 2000
  let lhs := (if 0 ≤ k then 10 ^ k.toNat else 1) * (if e < 0 then 2 ^ (-e).toNat else 1)
  let rhs := n * (if k < 0 then 10 ^ (-k).toNat else 1) * (if 0 ≤ e then 2 ^ e.toNat else 1)
  decide (lhs < rhs)

/-- Search for the largest `c` from `lo` with `10^(2c - 1) < x^2000`, halving an interval of `2^n`. -/
def dbSearch : Nat → Int → Dy → Int
  | 0, lo, _ => lo
  | n + 1, lo, x =>
    let mid := lo + ((2 ^ n : Nat) : Int)
    if tenPowLt (2 * mid - 1) x then dbSearch n mid x else dbSearch n lo x

/-- `1000 × log10 P` rounded to the nearest integer (R129), for a positive binary32 value. -/
def dbExact (x : Dy) : Int := dbSearch 17 (-50000) x

/-- The dB code of a binary32 power word (R129, R130) and whether it clamped at the top. -/
def dbCode (off : Int) (p : Nat) : Int × Bool :=
  let x := dyOfF32 p
  if x.m ≤ 0 then (-32768, false)
  else
    let c := dbExact x + off
    if c < -32767 then (-32767, false) else if 32767 < c then (32767, true) else (c, false)

/-- `10^(num/1000)` rounded once to binary32 (R157): the largest binary32 step is found by comparing 1000th powers.
The word is searched bit by bit: `w` is the largest finite positive word whose midpoint with the word below it lies
below `10^(num/1000)`. -/
def pow10Below (num : Int) (x : Dy) : Bool :=
  -- x < 10^(num/1000)  iff  x^1000 < 10^num
  let n := x.m.natAbs ^ 1000
  let e := x.e * 1000
  let lhs := n * (if num < 0 then 10 ^ (-num).toNat else 1) * (if 0 ≤ e then 2 ^ e.toNat else 1)
  let rhs := (if 0 ≤ num then 10 ^ num.toNat else 1) * (if e < 0 then 2 ^ (-e).toNat else 1)
  decide (lhs < rhs)

/-- Midpoint of a positive binary32 word and the word below it. -/
def f32MidBelow (w : Nat) : Dy := (Dy.add (dyOfF32 w) (dyOfF32 (w - 1))).scale (-1)

/-- Bitwise search of `pow10F32`. -/
def pow10Search : Nat → Nat → Int → Nat
  | 0, w, _ => w
  | n + 1, w, num =>
    let w' := w + 2 ^ n
    if decide (w' < 0x7F800000) && pow10Below num (f32MidBelow w') then pow10Search n w' num else pow10Search n w num

/-- `10^(num/1000)` as a binary32 word. -/
def pow10F32 (num : Int) : Nat := pow10Search 31 0 num

/-! Fixed-point functions for coefficients (R120, R126): values carry `fxBits` fraction bits. -/

def fxBits : Nat := 160

/-- π with `fxBits` fraction bits (π × 2^160, rounded down). -/
def fxPi : Int := 4591442807048218921384805199743311128454155024418

/-- Taylor sum with terms `t`, `t × x2 / (k (k+1))`, … of alternating sign when `alt`. -/
def fxSeries : Nat → Bool → Int → Int → Nat → Int → Int
  | 0, _, acc, _, _, _ => acc
  | n + 1, alt, acc, t, k, x2 =>
    let t' := t * x2 / ((2 ^ fxBits : Nat) : Int) / ((k * (k + 1) : Nat) : Int)
    let t'' := if alt then -t' else t'
    fxSeries n alt (acc + t'') t'' (k + 2) x2

/-- cos of an angle in fixed point. -/
def fxCos (th : Int) : Int :=
  let one : Int := ((2 ^ fxBits : Nat) : Int)
  fxSeries 80 true one one 1 (th * th / one)

/-- sin of an angle in fixed point. -/
def fxSin (th : Int) : Int :=
  let one : Int := ((2 ^ fxBits : Nat) : Int)
  fxSeries 80 true th th 2 (th * th / one)

/-- The angle `2 π t / m`. -/
def fxAngle (t m : Nat) : Int := 2 * fxPi * ((t % m : Nat) : Int) / (m : Int)

/-- `exp(-x)` for `x ≥ 0` as the reciprocal of the series of `exp x`. -/
def fxExpPos : Nat → Int → Int → Nat → Int → Int
  | 0, acc, _, _, _ => acc
  | n + 1, acc, t, k, x => let t' := t * x / ((2 ^ fxBits : Nat) : Int) / (k : Int); fxExpPos n (acc + t') t' (k + 1) x

def fxExpNeg (x : Int) : Int :=
  let one : Int := ((2 ^ fxBits : Nat) : Int)
  one * one / fxExpPos 700 one one 1 x

/-- Modified Bessel function I0 of an argument whose square over 4 is `y`: the sum of `y^k / (k!)^2`. -/
def fxI0 : Nat → Int → Int → Nat → Int → Int
  | 0, acc, _, _, _ => acc
  | n + 1, acc, t, k, y => let t' := t * y / ((2 ^ fxBits : Nat) : Int) / ((k * k : Nat) : Int); fxI0 n (acc + t') t' (k + 1) y

/-- Round a fixed-point value times 2^f to an integer. -/
def fxRound (x : Int) (f : Nat) : Int := rneShr (x * ((2 ^ f : Nat) : Int)) fxBits

/-- A dyadic number in fixed point. -/
def fxOfDy (a : Dy) : Int := rneScale a.m (a.e + fxBits)

end Sys2Proof.Machine
end

