-- ==== Sys2Proof/Machine/StateReach.lean ====
section
/-! DEFINITION. State of the transform reaches (spec/05), the trace detectors, spectrogram streams and silt planes (spec/06)
that no register holds. -/

namespace Sys2Proof.Machine

/-- A frame grid (R116, R117): settings its frames began with (register words of the unit), format
of the port and whether it was bonded, RWN of its point 0 (on the odd port of a bond too), next frame to complete, how many frames began before the grid ended, RWN (on either port) from which its points are
zero-filled because a new epoch began, whether the grid itself began with a new epoch, and the
numbers of frames after which CUT ends an integration (R149). -/
structure Grid where
  cfg : Tbl Nat
  fmt : Nat
  bond : Bool
  origin : Nat
  origin2 : Nat
  next : Nat
  stop : Option Nat
  cut : Option Nat
  cut2 : Option Nat
  epoch : Bool
  cuts : List Nat
  deriving DecidableEq, Repr

/-- A completed frame: mantissas of the delivered bins, EXP = E - Fb, PSW, DTs of its span. -/
structure Frame where
  bins : List (Int × Int)
  exp : Int
  psw : Nat
  dtFirst : Nat
  dtLast : Nat
  deriving DecidableEq, Repr

/-- An open integration (R141, R143, R147, R148): frames so far; per bin the sum, the sum of the present kurtosis block, its
s1 and s2, the frames summed and the map; cross-power sums likewise, with their PSW; frames in the present block; PSW and DTs; level-1 sums of the deep reach; δ of the last pair (R146); the device addresses at which its sums
lie: level 1 (mid reach: the sums in its Pool banks) and level 2. -/
structure Integ where
  frames : Nat
  sum : List Dy
  blk : List Dy
  s1 : List Dy
  s2 : List Dy
  cnt : List Nat
  rfi : List Bool
  xp : List (Dy × Dy)
  xpBlk : List (Dy × Dy)
  xpPsw : Nat
  inBlk : Nat
  psw : Nat
  dtFirst : Nat
  dtLast : Nat
  lvl1 : List Dy
  resid : Int
  at1 : Nat
  at2 : Nat
  deriving DecidableEq, Repr

/-- A finished segment on its way to an Eddy buffer (R132, R133): the buffer it is due for and its bytes. -/
structure Seg where
  buf : Nat
  bytes : List Byte
  deriving DecidableEq, Repr

/-- A deep-reach frame whose pass A is complete (R137, R138): its number and grid, T by column with the device address of its T buffer, the exponent of each group of 64 columns, PSW, DTs,
saturation, and whether it is to be held (R144). -/
structure DrFrame where
  num : Nat
  grid : Grid
  t : List (List (Int × Int))
  base : Nat
  es : List Int
  psw : Nat
  dtFirst : Nat
  dtLast : Nat
  sat : Bool
  stale : Bool
  deriving DecidableEq, Repr

/-- A reach.  `snap` each SNAP waits for the next frame that begins at or after its RWN; `alt` by EDDY: the next segment due for that pair is due for EDDY + 1;
`segs` finished segments, oldest first; `last` the last frame completed under the settings in force while its port was not under calibration, `lastPw` its powers and
PSW in the deep reach, `lastXp` the last such frame formed of the cross-power partner (R144); `tSeq` deep-reach frames whose pass A is complete,
`sums` the set of sums in use (R141); `passA` deep-reach frames that wait for pass B; `late` a level-2 update is
under way, `owed` the level-1 sums wait for it to end (R142). -/
structure Reach where
  grids : List Grid
  prodSeq : Nat
  alt : Tbl Bool
  snap : List Nat
  segs : List Seg
  integ : Option Integ
  last : Option Frame
  lastPw : Option (List Nat × Nat)
  lastXp : Option Frame
  tSeq : Nat
  sums : Nat
  passA : List DrFrame
  late : Bool
  owed : Bool
  deriving DecidableEq, Repr

def Reach.init : Reach :=
  { grids := [], prodSeq := 0, alt := [], snap := [], segs := [], integ := none, last := none, lastPw := none, lastXp := none, tSeq := 0, sums := 0, passA := [],
    late := false, owed := false }

/-- The cross-power alignment of a primary (R146): the number of the partner's point less that of the primary's point of the same time, and δ; `cur` for the
primary's frames from word `at_` on, `old` for those before it, and the partner's RWN at which the words of the old alignment end when it was the
partner that began an epoch. -/
structure XpAlign where
  at_ : Nat
  cut : Option Nat
  old : Option (Int × Int)
  cur : Option (Int × Int)
  deriving DecidableEq, Repr

def XpAlign.init : XpAlign := { at_ := 0, cut := none, old := none, cur := none }

/-- The reaches: unit k of port p has key 4 k + p; user window coefficients (key (2 p + b) × 32,768 + j); cross-power alignment of each
primary. -/
structure Rch where
  reach : Tbl Reach
  utab : Tbl Nat
  xpAlign : Tbl XpAlign
  deriving DecidableEq, Repr

def Rch.init : Rch := { reach := [], utab := [], xpAlign := [] }

/-- A trace record that waits for TRACE_UPDATE_DONE: the first bank and the banks per slot of its trace when the update ended (R159), and its bytes. -/
structure TrRec where
  first : Nat
  banks : Nat
  bytes : List Byte
  deriving DecidableEq, Repr

/-- A trace (R155 to R160): update number, frames in the open update; per point the update's power word (peak, sample) or sum (averages)
and the running value or hold; frames since the restart; PSW and DTs of the update and since the restart; least bin count of its frames (R154); DB_OFFSET, N_LOG2 and bonding of
the last frame; slot written last; records that wait for TRACE_UPDATE_DONE (oldest first). -/
structure Trace where
  seq : Nat
  frames : Nat
  acc : List Nat
  sum : List Dy
  run : Option (List Dy)
  hold : Option (List Nat)
  holdFrames : Nat
  psw : Nat
  holdPsw : Nat
  dtFirst : Nat
  holdFirst : Nat
  dtLast : Nat
  kmin : Nat
  dbo : Int
  nlog : Nat
  bond : Bool
  lastSlot : Nat
  done : List TrRec
  deriving DecidableEq, Repr

def Trace.init : Trace :=
  { seq := 0, frames := 0, acc := [], sum := [], run := none, hold := none, holdFrames := 0, psw := 0, holdPsw := 0,
    dtFirst := 0, holdFirst := 0, dtLast := 0, kmin := 0, dbo := 0, nlog := 0, bond := false, lastSlot := 1, done := [] }

/-- A spectrogram stream (R173, R174): frames in the open line, the line's accumulators and least bin count, lines completed in the open tile (oldest first), PSW, DTs,
DB_OFFSET, N_LOG2 and bonding of the last frame, tiles ended, a completed tile being written (device address of its buffer, bytes), offset of the next slot, MAP_SHORT seen in the tile,
PSW and MAP_SHORT of the open line, the tile buffer in use, tiles that the region still holds (WSEQ after the write, offset, bytes; oldest first). -/
structure Spg where
  frames : Nat
  acc : List Nat
  sum : List Dy
  kmin : Nat
  lines : List (List Int)
  psw : Nat
  dtFirst : Nat
  dtLast : Nat
  dbo : Int
  nlog : Nat
  bond : Bool
  seq : Nat
  writing : Option (Nat × List Byte)
  nextOff : Nat
  short : Bool
  lpsw : Nat
  lshort : Bool
  buf : Nat
  tiles : List (Nat × Nat × Nat)
  deriving DecidableEq, Repr

def Spg.init : Spg :=
  { frames := 0, acc := [], sum := [], kmin := 0, lines := [], psw := 0, dtFirst := 0, dtLast := 0, dbo := 0, nlog := 0,
    bond := false, seq := 0, writing := none, nextOff := 0, short := false, lpsw := 0, lshort := false, buf := 0, tiles := [] }

/-- States of a plane buffer (R168). -/
inductive BufSt where
  | live | full | clearing | ready
  deriving DecidableEq, Repr

/-- A plane buffer with its header (R168, R170): counters by row × COLS + column, frames, saturated increments, clamps, PSW, DTs, flags, period number,
and the CFG, MAP, STEP and ROW words and bonding that it counts or counted under. -/
structure PBuf where
  st : BufSt
  cnt : Tbl Nat
  frames : Nat
  satinc : Nat
  ovr : Nat
  under : Nat
  psw : Nat
  dtFirst : Nat
  dtLast : Nat
  flags : Nat
  seq : Nat
  cfg : Nat
  map : Nat
  step : Nat
  row : Nat
  bond : Bool
  deriving DecidableEq, Repr

def PBuf.init : PBuf :=
  { st := .live, cnt := [], frames := 0, satinc := 0, ovr := 0, under := 0, psw := 0, dtFirst := 0, dtLast := 0,
    flags := 0, seq := 0, cfg := 0, map := 0, step := 0, row := 0, bond := false }

/-- A silt plane: its buffers, which one is LIVE, whether it counts, suspended (R167), buffers whose clear must end before it counts again (bits; R179, R181), periods completed, a period that has been
extended (R168), SWAP commanded, decay pass running, frames counted since the last clear and their
number when the last pass fell due (R171). -/
structure Plane where
  b0 : PBuf
  b1 : PBuf
  live : Nat
  on : Bool
  susp : Bool
  clearing : Nat
  seq : Nat
  ovr : Bool
  swap : Bool
  decaying : Bool
  counted : Nat
  decayAt : Nat
  deriving DecidableEq, Repr

def Plane.init : Plane :=
  { b0 := PBuf.init, b1 := PBuf.init, live := 0, on := false, susp := false, clearing := 0, seq := 0, ovr := false,
    swap := false, decaying := false, counted := 0, decayAt := 0 }

/-- What a commit point of a detector unit, of a silt unit or of the port's short reach brings to the traces, the stream and the planes of port `p`: the snapshot's words, or whether
N, OVL or WIN changed. -/
inductive SiltAct where
  | det (ws : Tbl Nat)
  | slt (ws : Tbl Nat)
  | sr (restart : Bool)
  deriving DecidableEq, Repr

/-- A commit point that waits while frames that began before word `w` of the port finish under the old settings (R177). -/
structure SiltDue where
  p : Nat
  w : Nat
  act : SiltAct
  deriving DecidableEq, Repr

/-- Detectors and silt: commit points that wait for frames in flight, oldest first; trace t of port p has key 8 p + t, plane n of port p key 4 p + n; colour entries (key (2 l + b) × 1,024 + i). -/
structure Slt where
  trace : Tbl Trace
  spg : Tbl Spg
  plane : Tbl Plane
  lut : Tbl Nat
  due : List SiltDue
  deriving DecidableEq, Repr

def Slt.init : Slt := { trace := [], spg := [], plane := [], lut := [], due := [] }

end Sys2Proof.Machine
end

