-- ==== Sys2Proof/Machine/StateTrb.lean ====
section
/-! DEFINITION. State of the tributary bank (spec/07) that no register holds. -/

namespace Sys2Proof.Machine

/-- The filter chain of a context (R194, R195), newest first: the last 16 coarse samples of its channels, the CIC filter's integrators and combs
(100 bits each), and the 128 CIC outputs of the FIR. -/
structure Chain where
  half : List ((Int × Int) × (Int × Int))
  integ : List (Int × Int)
  comb : List (Int × Int)
  fir : List (Int × Int)
  deriving DecidableEq, Repr

def Chain.init : Chain := { half := [], integ := List.replicate 6 (0, 0), comb := List.replicate 6 (0, 0), fir := [] }

/-- A tributary context.  `snap` its pending snapshot of words 0 to 11 (R192); `reset`, `report` wait for the next block boundary (R212).  Chain: coarse sample
at the last reset (R197), chain inputs since, outputs since, NCO phase (R195).  `vid` the powers of the video window, newest first (R200); `nc`, `nv` the outputs from which chain and
video settle (R198).  Qualification (R203): state, run counter, onset and its EDGE_DT, onset of the ON.  Open report (R202): its first output, sum of powers, peak and
its output, occupancy, settled outputs; values of the last report (R18).  Open IQ record: its outputs, oldest first, record number (R210); its last record's length, EXP and samples.
`evSeq` event records written; `sats` outputs that clamped; `chain` the filter chain; `vsum` the video running sum S (R200); `occSat` an occupancy
code of the open report clamped; `spoilt` the output from which chain state that could not be read back enters the outputs, `pois` outputs whose video value missed one (R259). -/
structure Ctx where
  snap : Option (List Nat)
  reset : Bool
  report : Bool
  m0 : Nat
  ins : Nat
  n : Nat
  phase : Nat
  vid : List Nat
  nc : Nat
  nv : Nat
  on : Bool
  run : Nat
  onset : Nat
  edge : Nat
  onAt : Nat
  repFrom : Nat
  sum : Dy
  peak : Nat
  peakN : Nat
  occ : Nat
  samples : Nat
  lastRep : Option (List Nat)
  iq : List (Int × Int)
  iqSeq : Nat
  lastIq : Option (Nat × Int × List Byte)
  evSeq : Nat
  sats : List Nat
  chain : Chain
  vsum : Nat
  occSat : Bool
  spoilt : Option Nat
  pois : List Nat
  deriving DecidableEq, Repr

def Ctx.init : Ctx :=
  { snap := none, reset := false, report := false, m0 := 0, ins := 0, n := 0, phase := 0, vid := [], nc := 0, nv := 0, on := false, run := 0,
    onset := 0, edge := 0, onAt := 0, repFrom := 0, sum := Dy.zero, peak := 0, peakN := 0, occ := 0, samples := 0, lastRep := none, iq := [], iqSeq := 0,
    lastIq := none, evSeq := 0, sats := [], chain := Chain.init, vsum := 0, occSat := false, spoilt := none, pois := [] }

/-- The bank: contexts, the channelisers' grids with their next coarse sample (R185), coarse samples released before the grid, the next coarse sample at the
start of the last round, whether a round has run, the queue of records (R208) and of IQ records with their streams (R211), oldest first. -/
structure Trb where
  ctx : Tbl Ctx
  grid : Tbl Grid
  base : Tbl Nat
  mark : Tbl Nat
  started : Bool
  recq : List (List Byte)
  iqq : List (Nat × List Byte)
  deriving DecidableEq, Repr

def Trb.init : Trb := { ctx := [], grid := [], base := [], mark := [], started := false, recq := [], iqq := [] }

end Sys2Proof.Machine
end

