-- ==== Sys2Proof/Machine/StateWeir.lean ====
section
/-! DEFINITION. State of the Weir sequencers, condition units, capture units and the tag unit (spec/08) that no register
holds. -/

namespace Sys2Proof.Machine

/-- A released sample word (R98, R230): its 16-bit container as a signed number (R119), its product status bits (R16),
its DT in 1/65,536 ns (R14), and the SCLK tick whose DT interval holds it (R226). -/
structure Smp where
  v : Int
  psw : Nat
  dt : Nat
  tick : Nat := 0
  deriving DecidableEq, Repr

/-- A slot of a port (R215): RWN of the first words of its first and last point, DTs of these points and of the next slot's first point (R216), points in it, OR of the PSWs
of the frames that end it, masks hit with the lowest violating bin (R220), and whether it holds a zero-filled word; the port whose words number it, the word after its last point,
the word up to which its words are released ones (R116), the range of its words in the odd ring of a bond, and the tick of its end (R226). -/
structure Slot where
  first : Nat
  last : Nat
  firstDt : Nat
  lastDt : Nat
  endDt : Nat
  points : Nat
  psw : Nat
  hits : Tbl Nat
  zero : Bool
  port : Nat := 0
  next : Nat := 0
  lim : Nat := 0
  first2 : Nat := 0
  lim2 : Nat := 0
  tick : Nat := 0
  deriving DecidableEq, Repr

/-- A timer of a sequencer (R225): its expiry DT, and whether it counts as expired. -/
structure WTimer where
  expiry : Nat
  expired : Bool
  deriving DecidableEq, Repr

/-- A sequencer.  `from` and `until` bound the slots evaluated (R228); `sig` is SIGNAL and `sigLog` its value after each
slot, with the tick of the slot's end, newest first (R226); `force` the pending FORCE with its actions and profile (R244); `opn` the open record
(R233); `slots` the slots that wait for evaluation, oldest first (R217); `old` the settings that slots begun before a commit still use, newest commit first (R227); `slotOf` the port whose slots
it still evaluates when a bond formed or was released after it began to do so (R229). -/
structure WSeq where
  armed : Bool
  from_ : Nat
  until_ : Option Nat
  st : Nat
  cnt0 : Nat
  cnt1 : Nat
  ovf0 : Bool
  ovf1 : Bool
  tm0 : Option WTimer
  tm1 : Option WTimer
  sig : Bool
  sigLog : List (Nat × Bool)
  force : Option (Nat × Nat)
  tagSeq : Nat
  opn : Option Nat
  slots : List Slot
  old : List (Nat × Tbl Nat)
  slotOf : Option Nat
  deriving DecidableEq, Repr

def WSeq.init : WSeq :=
  { armed := false, from_ := 0, until_ := none, st := 0, cnt0 := 0, cnt1 := 0, ovf0 := false, ovf1 := false, tm0 := none,
    tm1 := none, sig := false, sigLog := [], force := none, tagSeq := 0, opn := none, slots := [], old := [], slotOf := none }

/-- A tributary record as Weir sees it (R204, R219): port, context, ON or OFF, DT_LAST, occurrence DT. -/
structure TrbOcc where
  port : Nat
  ctx : Nat
  on : Bool
  dtLast : Nat
  occ : Nat
  deriving DecidableEq, Repr

/-- States of a capture record (R238, R241). -/
inductive RecSt where
  | free | filling | opn | done
  deriving DecidableEq, Repr

/-- A capture record (R233 to R241).  `first` and `last` are the numbers of its first and last block, counted from RWN 0
in blocks of 2,048 words; `blocks` pairs the blocks it holds with their place in the ring, in order written; `words` the words
it holds once DONE. -/
structure Rec where
  seq : Nat
  st : RecSt
  held : Bool
  preShort : Bool
  trunc : Bool
  epSplit : Bool
  bonded : Bool
  forced : Bool
  lost : Bool
  src : Nat
  prof : Nat
  memDeg : Bool
  partner : Option Nat
  trigDt : Nat
  tagSeq : Nat
  first : Nat
  last : Nat
  trigRwn : Nat
  blocks : List (Nat × Nat)
  words : Nat
  deriving DecidableEq, Repr

def Rec.init : Rec :=
  { seq := 0, st := .free, held := false, preShort := false, trunc := false, epSplit := false, bonded := false,
    forced := false, lost := false, src := 0, prof := 0, memDeg := false, partner := none, trigDt := 0, tagSeq := 0,
    first := 0, last := 0, trigRwn := 0, blocks := [], words := 0 }

/-- A capture unit: records, next pin number, done queue (oldest first), place in the ring of each numbered block that
still holds its words, next RWN to be written, the place being written, LEN that waits for R240, next entry of the epoch table, RWNs at which epochs began (newest first), RWN up to which a shrink took words from
the ring's readers (R240). -/
structure Cap where
  recs : Tbl Rec
  recSeq : Nat
  doneq : List Nat
  pos : Tbl Nat
  wr : Nat
  cur : Nat
  lenPend : Option Nat
  epNext : Nat
  epochs : List Nat
  lostTo : Nat
  deriving DecidableEq, Repr

def Cap.init : Cap :=
  { recs := [], recSeq := 0, doneq := [], pos := [(0, 0)], wr := 0, cur := 0, lenPend := none, epNext := 0, epochs := [], lostTo := 0 }

/-- Weir: sequencers, capture units, mask stores (entry p × 524,288 + e, R221), occurrences of level detectors (key
port × 2 + n; RWNs and DTs newest first, R222), of event inputs (R63) and of tributary records (R204), the settings that frames begun
before a condition unit's commit still use (R227), the word after the last slot of each port, the queue of tag records, oldest first (R242), and the released words of each port, newest first, from which
triggers, frames and records take their words. -/
structure Weir where
  seq : Tbl WSeq
  cap : Tbl Cap
  mtab : Tbl Nat
  lvl : Tbl (List (Nat × Nat))
  edges : List (Nat × Nat)
  trb : List TrbOcc
  condOld : Tbl (List (Nat × Tbl Nat))
  slotEnd : Tbl Nat
  tagq : List (List Byte)
  hist : Tbl (List Smp)
  deriving DecidableEq, Repr

def Weir.init : Weir :=
  { seq := [], cap := [], mtab := [], lvl := [], edges := [], trb := [], condOld := [], slotEnd := [], tagq := [], hist := [] }

end Sys2Proof.Machine
end

