-- ==== Sys2Proof/Machine/State.lean ====
section
/-! DEFINITION. The state of the FJV-6410: every register, memory, queue and counter the spec gives the module, and the
queue of commands that wait. -/

namespace Sys2Proof.Machine

/-- An entry queued for the journal (R447, R449): TYPE, KEY, values. -/
structure JItem where
  typ : Nat
  key : Nat
  vals : List Int
  deriving DecidableEq, Repr

/-- The module.  `regs` holds the register words of BAR0 that differ from their reset value; `shadow` the shadow copies of words with SH fields that differ from
the working word (R20); `snaps` pending snapshots; `latch` the holding registers of 64-bit pairs, key path × 2^25 + LO offset (R484);
`rep` what reports leave behind; `tclk` counts TCLK cycles; `mem` is device memory, a byte per listed address, 0 where none is listed; `poison` its poisoned 8-byte
words (R259).  `freeCtr` is the model's own: it numbers the free values taken so far. -/
structure State where
  pending : List Instr
  tclk : Nat
  freeCtr : Nat
  regs : Tbl Word
  shadow : Tbl Nat
  snaps : List Snap
  latch : Tbl Nat
  rep : Rep
  mem : List Host.Cell
  poison : List Nat
  rsv : Rsv
  mmu : Mmu
  mlr : Mlr
  rfl : Tbl RCore
  jq : List JItem
  clk : Clk
  evt : Evt
  ing : Ing
  rch : Rch
  slt : Slt
  trb : Trb
  weir : Weir
  ptp : Ptp
  dsp : Dsp
  net : Net
  brk : Brk
  perf : Perf
  boot : Boot
  deriving DecidableEq, Repr

/-- Why the machine may stop with a fault: no command of the table stops the block (every error flag, refused command and core fault is an effect on
`State`), so there is no such reason. -/
inductive Fault where
  deriving DecidableEq, Repr

/-- Why a command is refused by the model. -/
inductive Refusal where
  /-- Raised only by an arm of `exec` whose command has no meaning yet; safe. -/
  | notModelled (mnemonic : String)
  deriving DecidableEq, Repr

/-- The module right after reset: every register at its reset value, every queue and memory empty. -/
def State.reset : State :=
  { pending := [], tclk := 0, freeCtr := 0, regs := [], shadow := [], snaps := [], latch := [], rep := Rep.init,
    mem := [], poison := [], rsv := Rsv.init, mmu := Mmu.init, mlr := Mlr.init, rfl := [], jq := [], clk := Clk.init, evt := Evt.init, ing := Ing.init, rch := Rch.init,
    slt := Slt.init, trb := Trb.init, weir := Weir.init, ptp := Ptp.init, dsp := Dsp.init, net := Net.init, brk := Brk.init, perf := Perf.init, boot := Boot.init }

end Sys2Proof.Machine
end

