-- ==== Sys2Proof/Machine/Units.lean ====
section
/-! DEFINITION. The unit tree of R474 to R476: basins and members in table order, classes, instances, and the argument
register of each unit that accepts commands (R461). Headers are named by their BAR0 offset. -/

namespace Sys2Proof.Machine

/-- `n` headers from `base`, 4 KiB apart. -/
def rowHdrs (base n : Nat) : List Nat := (List.range n).map (fun i => base + 0x1000 * i)

def hMod : Nat := 0x4000
def hClk : Nat := 0x100000
def hEvt : Nat := 0x200000
def hIng (p : Nat) : Nat := 0x401000 + 0x1000 * p
def hRch (k p : Nat) : Nat := 0x810000 + 0x10000 * k + 0x1000 * p
def hSlt (p : Nat) : Nat := 0xC10000 + 0x1000 * p
def hDet (p : Nat) : Nat := 0xC20000 + 0x1000 * p
def hCol : Nat := 0xC30000
def hChn (p : Nat) : Nat := 0x1010000 + 0x1000 * p
def hBank : Nat := 0x1020000
def hSeq (s : Nat) : Nat := 0x1410000 + 0x1000 * s
def hCap (p : Nat) : Nat := 0x1420000 + 0x1000 * p
def hCond (p : Nat) : Nat := 0x1430000 + 0x1000 * p
def hTag : Nat := 0x1440000
def hRsv : Nat := 0x1810000
def hPool : Nat := 0x1820000
def hEddy : Nat := 0x1830000
def hCore (c : Nat) : Nat := 0x1A10000 + 0x1000 * c
def hMmu : Nat := 0x1C10000
def hMlr (ch : Nat) : Nat := 0x1C20000 + 0x1000 * ch
def hLink (k : Nat) : Nat := 0x1D10000 + 0x1000 * k
def hStr : Nat := 0x1D20000
def hHost : Nat := 0x1D30000
def hPtp : Nat := 0x1D40000
def hMgmt : Nat := 0x1D50000
def hRas : Nat := 0x1E10000
def hDp (o : Nat) : Nat := 0x1E20000 + 0x1000 * o
def hBrk : Nat := 0x1E80000
def hLog : Nat := 0x1F10000
def hPerf : Nat := 0x1F40000
def hImg : Nat := 0x1F90000
def hLcs : Nat := 0x1FA0000
def hJnl : Nat := 0x1FB0000

/-- The members of the root (R476). -/
def rootMembers : List Nat :=
  [hMod, hClk, hEvt, 0x400000, 0x800000, 0xC00000, 0x1000000, 0x1400000, 0x1800000, 0x1A00000, 0x1C00000,
   0x1D00000, 0x1E00000, hBrk, 0x1F00000, 0x1F80000]

/-- The basins below the root with their members in member-table order. -/
def basins : List (Nat × List Nat) := [
  (0x400000, rowHdrs 0x401000 4),
  (0x800000, rowHdrs 0x810000 4 ++ rowHdrs 0x820000 4 ++ rowHdrs 0x830000 4),
  (0xC00000, rowHdrs 0xC10000 4 ++ rowHdrs 0xC20000 4 ++ [hCol]),
  (0x1000000, rowHdrs 0x1010000 4 ++ [hBank]),
  (0x1400000, rowHdrs 0x1410000 16 ++ rowHdrs 0x1420000 4 ++ rowHdrs 0x1430000 4 ++ [hTag]),
  (0x1800000, [hRsv, hPool, hEddy]),
  (0x1A00000, rowHdrs 0x1A10000 64),
  (0x1C00000, hMmu :: rowHdrs 0x1C20000 32),
  (0x1D00000, rowHdrs 0x1D10000 4 ++ [hStr, hHost, hPtp, hMgmt]),
  (0x1E00000, hRas :: rowHdrs 0x1E20000 2),
  (0x1F00000, [hLog, hPerf]),
  (0x1F80000, [hImg, hLcs, hJnl])]

/-- Members of a basin, or none. -/
def members (h : Nat) : List Nat :=
  if h = 0 then rootMembers
  else match basins.find? (fun b => b.1 == h) with
    | some b => b.2
    | none => []

/-- Is the offset the header of a basin? -/
def isBasin (h : Nat) : Bool := h == 0 || (basins.any (fun b => b.1 == h))

/-- Is the offset the header of a leaf unit? -/
def isLeaf (h : Nat) : Bool :=
  (rootMembers.any (fun m => m == h) || basins.any (fun b => b.2.any (fun m => m == h))) && !isBasin h

/-- The basins that contain a unit or basin, innermost first (R455). -/
def basinsOf (h : Nat) : List Nat :=
  if h = 0 then []
  else match basins.find? (fun b => b.2.any (fun m => m == h)) with
    | some b => [b.1, 0]
    | none => [0]

/-- The leaf units of a basin at any depth, in visiting order. -/
def leaves (h : Nat) : List Nat :=
  if h = 0 then rootMembers.foldr (fun m acc => (if isBasin m then members m else [m]) ++ acc) []
  else members h

/-- Owner ID of a unit (R271). -/
def ownerId (h : Nat) : Nat := h / 0x1000

/-- CLASS of a header (R476). -/
def unitClass (h : Nat) : Nat :=
  if h = 0 then 1 else if isBasin h then 2
  else if h = hMod then 0x100 else if h = hClk then 0x200 else if h = hEvt then 0x300
  else if h / 0x100000 = 4 then 0x400
  else if h / 0x100000 = 8 then 0x500 + (h / 0x10000 % 16 - 1)
  else if h / 0x100000 = 0xC then 0x600 + (h / 0x10000 % 16 - 1)
  else if h / 0x100000 = 0x10 then 0x700 + (h / 0x10000 % 16 - 1)
  else if h / 0x100000 = 0x14 then 0x800 + (h / 0x10000 % 16 - 1)
  else if h / 0x100000 = 0x18 then 0x900 + (h / 0x10000 % 16 - 1)
  else if h / 0x100000 = 0x1A then 0xA00
  else if h / 0x100000 = 0x1C then (if h = hMmu then 0xB00 else 0xB01)
  else if h / 0x100000 = 0x1D then 0xC00 + (h / 0x10000 % 16 - 1)
  else if h = hBrk then 0xE00
  else if h / 0x100000 = 0x1E then 0xD00 + (h / 0x10000 % 16 - 1)
  else if h = hLog then 0xF00 else if h = hPerf then 0xF01
  else 0x1000 + (h / 0x10000 % 16 - 9)

/-- INSTANCE of a header: port, core, channel, sequencer, link or output number, otherwise 0 (R474). -/
def unitInstance (h : Nat) : Nat :=
  let c := unitClass h
  if c = 0x400 then (h - 0x401000) / 0x1000
  else if c = 0xA00 then (h - 0x1A10000) / 0x1000
  else if c = 0xB01 then (h - 0x1C20000) / 0x1000
  else if c = 0x500 ∨ c = 0x501 ∨ c = 0x502 ∨ c = 0x600 ∨ c = 0x601 ∨ c = 0x700 ∨ c = 0x800 ∨ c = 0x801 ∨ c = 0x802
      ∨ c = 0xC00 ∨ c = 0xD01 then h / 0x1000 % 16
  else 0

/-- The register whose value a KIND 1 log entry carries (R461), if the unit has a CMD_ARG register. -/
def cmdArgOff (h : Nat) : Option Nat :=
  let c := unitClass h
  let i := unitInstance h
  if c = 0x400 then some (R.ING_CMD_ARG i)
  else if c = 0x502 then some (R.DRH_CMD_ARG i)
  else if c = 0x600 then some (R.SLT_CMD_ARG i)
  else if c = 0x601 then some (R.DET_CMD_ARG i)
  else if c = 0x701 then some R.TRB_CMD_ARG
  else if c = 0x800 then some (R.WEIR_CMD_ARG i)
  else if c = 0x801 then some (R.CAP_CMD_ARG i)
  else if c = 0x900 then some R.RSV_CMD_ARG
  else if c = 0x901 then some R.POOL_CMD_ARG
  else if c = 0xB00 then some R.MMU_CMD_ARG_LO
  else if c = 0xC01 then some R.NET_CMD_ARG
  else if c = 0xE00 then some R.BRK_CMD_ARG
  else if c = 0x1000 then some R.IMG_CMD_ARG
  else if c = 0xF01 then some R.PERF_CMD_ARG
  else none

end Sys2Proof.Machine
end

