-- ==== Sys2Proof/Machine/Ops.lean ====
section
/-! DEFINITION. The operations that every block shares: registers and counters, device memory, device time, occurrences
and the router (R454 to R458), the event log's queue (R461, R462), faults, commands (R479 to R481, R26), snapshots
(R20 to R22), the journal's queue (R449) and free values. -/

namespace Sys2Proof.Machine

/-! Registers. -/

/-- The register word at a BAR0 offset. -/
def State.word (s : State) (off : Nat) : Word :=
  match Tbl.find s.regs off with
  | some w => w
  | none => resetWord off

/-- The register word at a BAR0 offset, as a number. -/
def State.wordN (s : State) (off : Nat) : Nat := (s.word off).toNat

/-- Replace a register word. -/
def State.setWord (s : State) (off v : Nat) : State := { s with regs := Tbl.set s.regs off (BitVec.ofNat 32 v) }

/-- A field of a register. -/
def State.fld (s : State) (l : Loc) : Nat := bits (s.wordN l.off) l.hi l.lo

/-- A one-bit field. -/
def State.flag (s : State) (l : Loc) : Bool := s.fld l == 1

/-- Replace a field of a register. -/
def State.setFld (s : State) (l : Loc) (v : Nat) : State := s.setWord l.off (putBits (s.wordN l.off) l.hi l.lo v)

/-- Replace a one-bit field. -/
def State.setFlag (s : State) (l : Loc) (b : Bool) : State := s.setFld l (b2n b)

/-- A 64-bit value in a LO/HI pair. -/
def State.pair (s : State) (off : Nat) : Nat := s.wordN off + 2 ^ 32 * s.wordN (off + 4)

/-- Replace a LO/HI pair. -/
def State.setPair (s : State) (off v : Nat) : State := (s.setWord off (v % 2 ^ 32)).setWord (off + 4) (v / 2 ^ 32 % 2 ^ 32)

/-- Add to a 64-bit counter (it wraps). -/
def State.bump64 (s : State) (off k : Nat) : State := s.setPair off ((s.pair off + k) % 2 ^ 64)

/-- Add to a 32-bit counter that saturates. -/
def State.bumpSat (s : State) (off k : Nat) : State := s.setWord off (satAdd 32 (s.wordN off) k)

/-- A signed field. -/
def State.sfld (s : State) (l : Loc) : Int := sext (l.hi + 1 - l.lo) (s.fld l)

/-- The register words held in a range of offsets that differ from their reset values or were written. -/
def State.regRange (s : State) (lo hi : Nat) : List (Nat × Nat) :=
  (Tbl.range s.regs lo hi).map (fun e => (e.1, e.2.toNat))

/-! Free values. -/

/-- The next free value below `n` (0 when `n` is 0), and the state with it taken. -/
def State.takeFree (s : State) (n : Nat) : Nat × State :=
  (Config.freeNat s.freeCtr % n, { s with freeCtr := s.freeCtr + 1 })

/-! Device memory: bytes by address in canonical form. -/

/-- What a device address reads as. -/
def memGet : List Host.Cell → Nat → Byte
  | [], _ => 0
  | (a, v) :: t, k => if a = k then v else memGet t k

/-- Store a byte: the list stays sorted and holds no zero. -/
def memSet : List Host.Cell → Nat → Byte → List Host.Cell
  | [], k, v => if v = 0 then [] else [(k, v)]
  | (a, w) :: t, k, v =>
    if a = k then (if v = 0 then t else (a, v) :: t)
    else if k < a then (if v = 0 then (a, w) :: t else (k, v) :: (a, w) :: t)
    else (a, w) :: memSet t k v

/-- The canonical form of memory: addresses strictly rising, no entry 0. -/
def memWf : List Host.Cell → Bool
  | [] => true
  | [(_, v)] => v != 0
  | (a, v) :: (b, w) :: t => v != 0 && decide (a < b) && memWf ((b, w) :: t)

/-- Store bytes at rising addresses. -/
def memPut : List Host.Cell → Nat → List Byte → List Host.Cell
  | m, _, [] => m
  | m, a, b :: t => memPut (memSet m a b) (a + 1) t

/-- Bytes at rising addresses. -/
def memTake (m : List Host.Cell) (a n : Nat) : List Byte := (upFrom a n).map (memGet m)

/-- The 8-byte words that a write of `n` bytes covers in full (R259). -/
def fullWords (a n : Nat) : List Nat :=
  (upFrom ((a + 7) / 8) ((a + n) / 8 - (a + 7) / 8)).map (· * 8)

/-- The 8-byte words that an access of `n` bytes touches. -/
def touchedWords (a n : Nat) : List Nat :=
  if n = 0 then [] else (upFrom (a / 8) ((a + n - 1) / 8 + 1 - a / 8)).map (· * 8)

/-- The words that a write of `n` bytes covers in part only, and so reads first (R258). -/
def partWords (a n : Nat) : List Nat := (touchedWords a n).filter (fun w => !(fullWords a n).contains w)

/-- Numbers without repeats, in order of first appearance. -/
def nubNat (l : List Nat) : List Nat := l.foldl (fun acc x => if acc.contains x then acc else acc ++ [x]) []

/-! Reservoir addresses (R247 to R250). -/

/-- Bytes of a rank. -/
def rankBytes : Nat := 768 * 2 ^ 20

/-- Logical ranks in service. -/
def State.lRanks (s : State) : Nat := s.fld R.RSV_STATUS_L

/-- Does a device address lie in the Reservoir band? -/
def State.inReservoir (s : State) (a : Nat) : Bool := decide (a < s.lRanks * rankBytes)

/-- The placed region that holds a Reservoir address. -/
def State.regionAt (s : State) (a : Nat) : Option Nat :=
  (List.range 64).find? (fun n => s.flag (R.RSV_REG_CFG_PLACED n) && decide (s.wordN (R.RSV_REG_BASE n) ≤ a / 2 ^ 20) &&
    decide (a / 2 ^ 20 < s.wordN (R.RSV_REG_BASE n) + s.wordN (R.RSV_REG_SIZE n)))

/-- Logical rank and in-rank byte address in an address order (R250); `base` is that of an order-2 region, whose tiles are stacked from the place that
order 0 gives for the base. -/
def rankLoc (l order base a : Nat) : Nat × Nat :=
  if order = 1 then (a / 256 % l, a / 256 / l * 256 + a % 256)
  else if order = 2 then
    let t := (a - base) / 24576
    ((t + base / 2048) % l, base / 2048 / l * 2048 + t / l * 24576 + (a - base) % 24576)
  else (a / 2048 % l, a / 2048 / l * 2048 + a % 2048)

/-- Logical rank and in-rank byte address of a Reservoir address. -/
def State.rankOf (s : State) (a : Nat) : Nat × Nat :=
  match s.regionAt a with
  | some n => rankLoc s.lRanks (s.fld (R.RSV_REG_CFG_ORDER n)) (s.wordN (R.RSV_REG_BASE n) * 2 ^ 20) a
  | none => rankLoc s.lRanks 0 0 a

/-- What the loss of a rank does to a word: `none` where nothing was lost. -/
def State.lostAt (s : State) (a : Nat) : Option (Nat × Lost) :=
  if s.rsv.lost.isEmpty || !s.inReservoir a then none
  else
    let x := s.rankOf a
    match Tbl.find s.rsv.lost x.1 with
    | some l => if l.first ≤ x.2 / 2048 then some (x.1, l) else none
    | none => none

/-- Is the chunk of an in-rank address filled with poison by now? -/
def Lost.isFilled (l : Lost) (loc : Nat) : Bool := l.filled.contains (loc / 2048)

/-- Store bytes where nothing was lost. -/
def State.memStore (s : State) (a : Nat) (bs : List Byte) : State :=
  { s with mem := memPut s.mem a bs
           poison := s.poison.filter (fun w => !(fullWords a bs.length).contains w) }

/-- Store one byte of a write where a rank was lost: discarded, held for the fill, or stored (R267, R268); `full`: the write covers the byte's word in full. -/
def lostStore (a : Nat) (b : Byte) (full : Bool) (s : State) : State :=
  match s.lostAt a with
  | none => { s with mem := memSet s.mem a b }
  | some (l, x) =>
    if x.gone then s
    else if x.isFilled (s.rankOf a).2 then { s with mem := memSet s.mem a b }
    else { s with rsv := { s.rsv with lost := Tbl.set s.rsv.lost l { x with held := x.held ++ [(a, b, full)] } } }

/-- A word written in full is good again where its chunk is filled (R259). -/
def lostHeal (w : Nat) (s : State) : State :=
  match s.lostAt w with
  | none => { s with poison := s.poison.filter (· != w) }
  | some (l, x) =>
    if x.gone || !x.isFilled (s.rankOf w).2 then s
    else { s with rsv := { s.rsv with lost := Tbl.set s.rsv.lost l { x with healed := nubNat (w :: x.healed) } } }

/-- A write to device memory by a unit of the module: bytes stored, poison of fully written words cleared (R259, R267). -/
def State.memWrite (s : State) (a : Nat) (bs : List Byte) : State :=
  if s.rsv.lost.isEmpty then s.memStore a bs
  else
    let full := fullWords a bs.length
    let s1 := (bs.zip (List.range bs.length)).foldl (fun s e => lostStore (a + e.2) e.1 (full.contains ((a + e.2) / 8 * 8)) s) s
    (fullWords a bs.length).foldl (fun s w => lostHeal w s) s1

/-- Bytes of device memory. -/
def State.memRead (s : State) (a n : Nat) : List Byte := memTake s.mem a n

/-- Is the 8-byte word at `w` poisoned? -/
def State.wordPoisoned (s : State) (w : Nat) : Bool :=
  match s.lostAt w with
  | some (_, x) => x.gone || !x.isFilled (s.rankOf w).2 || !x.healed.contains w
  | none => s.poison.contains w

/-- Does an access touch a poisoned word? -/
def State.poisoned (s : State) (a n : Nat) : Bool := (touchedWords a n).any s.wordPoisoned

/-- What a fixed-function unit reads: 0 in place of a poisoned word (R259). -/
def State.readFixed (s : State) (a n : Nat) : List Byte :=
  (upFrom a n).map (fun x => if s.wordPoisoned (x / 8 * 8) then 0 else memGet s.mem x)

/-- Base of the Pool band and bytes of a bank (R247). -/
def poolBase : Nat := 0xE000000000
def bankBytes : Nat := 0x20000
def eddyBase : Nat := 0xE100000000

/-- Does a device address lie in the Pool? in the Eddy band? -/
def inPool (a : Nat) : Bool := decide (poolBase ≤ a) && decide (a < poolBase + 1280 * bankBytes)
def inEddy (a : Nat) : Bool := decide (eddyBase ≤ a) && decide (a < eddyBase + 64 * 0x8000)

/-- May the owner write the Pool banks that `n` bytes from `a` touch (R271)? -/
def State.poolWritable (s : State) (owner a n : Nat) : Bool :=
  let f := (a - poolBase) / bankBytes
  let l := (a + n - 1 - poolBase) / bankBytes
  (upFrom f (l + 1 - f)).all (fun b => s.fld (R.POOL_OWNER_OWNER b) == owner && s.fld (R.POOL_OWNER_STATE b) == 1)

/-- Does the unit own each of `n` Pool banks from `b`, in state OWNED: may it write them (R271)? -/
def State.ownsBanks (s : State) (hdr b n : Nat) : Bool :=
  decide (b + n ≤ 1280) &&
  (upFrom b n).all (fun i => s.fld (R.POOL_OWNER_OWNER i) == ownerId hdr && s.fld (R.POOL_OWNER_STATE i) == 1)

/-- May the unit's snapshot name the banks: they are its own, OWNED or RELEASED (R272, R273)? -/
def State.namesBanks (s : State) (hdr b n : Nat) : Bool :=
  decide (b + n ≤ 1280) &&
  (upFrom b n).all (fun i => s.fld (R.POOL_OWNER_OWNER i) == ownerId hdr && (s.fld (R.POOL_OWNER_STATE i) == 1 || s.fld (R.POOL_OWNER_STATE i) == 2))

/-- A commit point of a unit whose working settings now name `n` banks from `b`: its banks among them become OWNED, its others RELEASED (R272). -/
def poolClaim (hdr b n : Nat) (s : State) : State :=
  (List.range 1264).foldl (fun s i =>
    if s.fld (R.POOL_OWNER_OWNER i) == ownerId hdr then
      let named := decide (b ≤ i) && decide (i < b + n)
      let st := s.fld (R.POOL_OWNER_STATE i)
      if named && st == 2 then s.setFld (R.POOL_OWNER_STATE i) 1
      else if !named && st == 1 then s.setFld (R.POOL_OWNER_STATE i) 2
      else s
    else s) s

/-- A write of a unit to the Pool banks at device address `a`: discarded unless it owns them (R271). -/
def unitPoolWrite (hdr a : Nat) (bs : List Byte) (s : State) : State :=
  let f := (a - poolBase) / bankBytes
  let l := (a + bs.length - 1 - poolBase) / bankBytes
  if s.ownsBanks hdr f (l + 1 - f) then s.memWrite a bs else s

/-! Device time. -/

/-- Units of 1/65,536 ns in a second. -/
def unitsPerSec : Nat := 1000000000 * 65536

/-- The 96-bit format of DT (seconds, nanoseconds, fraction). -/
def dtPack (u : Nat) : Nat :=
  u / unitsPerSec * 2 ^ 48 + u % unitsPerSec / 65536 * 2 ^ 16 + u % 65536

/-- The 12 bytes of a DT in a record, DT[15:0] first. -/
def dtBytes (u : Nat) : List Byte := leBytes 12 (dtPack u)

/-- COAST as products receive it (R39, R51). -/
def State.coast (s : State) : Bool := !s.flag R.CLK_WS_STATUS_LOCK || s.fld R.CLK_DT_STATUS_STATE != 2

/-- The SCLK tick now. -/
def State.tick (s : State) : Nat := s.tclk / 2

/-- The FCLK cycle now. -/
def State.fclk (s : State) : Nat := s.tclk / 4

/-- The CCLK cycle now. -/
def State.cclk (s : State) : Nat := s.tclk / 16

/-! Reports. -/

/-- What left the module. -/
def State.emit (s : State) (o : Out) : State := { s with rep := { s.rep with out := o :: s.rep.out } }

/-- Note that bits `m` of the W1C word at `off` are set in CCLK cycle `c` (R5). -/
def freshen (c off m : Nat) (l : Tbl (Nat × Nat)) : Tbl (Nat × Nat) :=
  Tbl.upd (c, 0) l off fun x => (c, if x.1 = c then x.2 ||| m else m)

/-- The bits of a W1C word that have been set in this CCLK cycle. -/
def State.justSet (s : State) (off : Nat) : Nat :=
  let x := Tbl.get (s.cclk, 0) s.rep.fresh off
  if x.1 = s.cclk then x.2 else 0

/-- A W1C word with value `old` after ones in `m` are written to it: a bit set in this CCLK cycle stays set (R5). -/
def State.w1c (s : State) (off old m : Nat) : Nat := old &&& (0xFFFFFFFF - (m - (m &&& s.justSet off)))

/-- Set bits of a register's W1C word. -/
def State.setW1c (s : State) (off m : Nat) : State :=
  let t := s.setWord off (s.wordN off ||| m)
  { t with rep := { t.rep with fresh := freshen s.cclk off m t.rep.fresh } }

/-- EVENT_PEND and FAULT of a unit. -/
def State.pendOf (s : State) (h : Nat) : Nat := Tbl.get 0 s.rep.pend h
def State.faultOf (s : State) (h : Nat) : Nat := Tbl.get 0 s.rep.flt h
def State.faultBit (s : State) (h b : Nat) : Bool := bitAt (s.faultOf h) b

/-- Add a latency to every histogram that measures the source at this instance (R469, R467); the histograms that saturate for the
first time follow as occurrences. -/
def histAdd (s : State) (r : Rep) (src inst lat : Nat) : Rep × List (Nat × Nat) :=
  if s.flag R.PERF_CTRL_FREEZE then (r, []) else
  (List.range 16).foldl (fun acc h =>
    let r := acc.1
    if s.flag (R.PERF_HCFG_EN h) && s.fld (R.PERF_HCFG_SRC h) == src &&
        (src == 5 || src == 7 || s.fld (R.PERF_HCFG_INST h) == inst) then
      let b := if lat = 0 then 0 else min 63 (Nat.log2 lat + 1)
      let v := Tbl.get 0 r.hbin (64 * h + b)
      let r' := { r with hbin := Tbl.set r.hbin (64 * h + b) (satAdd 64 v 1) }
      if v + 1 = 2 ^ 64 - 1 && !bitAt r.hovf h then
        ({ r' with hovf := r'.hovf ||| 2 ^ h, fresh := freshen s.cclk R.PERF_HOVF (2 ^ h) r'.fresh }, acc.2 ++ [(hPerf, 2)])
      else (r', acc.2)
    else acc) (r, [])

/-- May vector `v` send now: link up, MSI-X Enable 1, Function Mask 0, vector unmasked (R357, R358)? -/
def vecOpen (s : State) (r : Rep) (v : Nat) : Bool :=
  s.flag R.HOST_STATUS_LINK_UP && s.flag R.HOST_STATUS_MSIX_EN && !r.fnMask && !s.flag (R.MSIX_CTRL_MASK v)

/-- Send the message of vector `v` for a trigger of TCLK cycle `t`; a hold begins when LOG_VEC_HOLD is not 0 (R457). -/
def vecSend (s : State) (r : Rep) (v t : Nat) : Rep × List (Nat × Nat) :=
  let r1 := { r with out := .msix v (s.wordN (R.MSIX_ADDR_LO v) + 2 ^ 32 * s.wordN (R.MSIX_ADDR_HI v)) (s.wordN (R.MSIX_DATA v)) :: r.out
                     pba := Tbl.del r.pba v
                     holds := if bits (s.wordN (R.LOG_VEC_HOLD v)) 15 0 = 0 then r.holds
                              else Tbl.set r.holds v { running := true, trig := none } }
  histAdd s r1 8 v ((s.tclk - t) / 16)

/-- A trigger of vector `v` (R357, R457). -/
def vecTrigger (s : State) (r : Rep) (v t : Nat) : Rep × List (Nat × Nat) :=
  match Tbl.find r.holds v with
  | some { running := true, trig := tr } =>
    ({ r with holds := Tbl.set r.holds v { running := true, trig := some (tr.getD t) } }, [])
  | _ =>
    if vecOpen s r v then vecSend s r v t
    else ({ r with pba := match Tbl.find r.pba v with | some _ => r.pba | none => Tbl.set r.pba v t }, [])

/-- Queue an entry for the event log; a full queue drops it (R462). -/
def queueLog (r : Rep) (e : LogEntry) : Rep × List (Nat × Nat) :=
  if r.logq.length < 256 then ({ r with logq := r.logq ++ [e] }, [])
  else ({ r with logDrop := (r.logDrop + 1) % 2 ^ 64, dropMark := true }, [(hLog, 1)])

/-- An entry of the present moment. -/
def mkEntry (s : State) (h kind sev code arg0 arg1 : Nat) : LogEntry :=
  { unit := ownerId h, kind := kind, sev := sev, code := code, arg0 := arg0 % 2 ^ 32, arg1 := arg1 % 2 ^ 32, dt := s.clk.dt, coast := s.coast }

/-- The enabled routes: words 0 and 1 (R455, R473). -/
def enabledRoutes (s : State) : List (Nat × Nat) :=
  (s.regRange 0x01F11000 0x01F11800).filterMap (fun e =>
    if e.1 % 8 = 0 && bitAt e.2 31 then some (e.2, s.wordN (e.1 + 4)) else none)

/-- The routes that match an occurrence (R455). -/
def routesFor (s : State) (h bit : Nat) : List (Nat × Nat) :=
  (enabledRoutes s).filter (fun w =>
    ((h :: basinsOf h).any (fun u => ownerId u == bits w.1 12 0)) && (bitAt w.1 30 || bits w.1 20 16 == bit))

/-- Severity of a route or MARK: 5 to 7 count as 4 (R461). -/
def sevOf (x : Nat) : Nat := min x 4

/-- Store bytes in Brook's exchange RAM. -/
def xramPut (m : Tbl Byte) (a : Nat) (bs : List Byte) : Tbl Byte :=
  (bs.zip (List.range bs.length)).foldl (fun m e => Tbl.set m (a + e.2) e.1) m

/-- One notice in Brook's ring (R458). -/
def postNotice (s : State) (r : Rep) (h bit sev : Nat) : Rep :=
  let n := r.notices
  let e := leBytes 2 (ownerId h) ++ leBytes 1 bit ++ leBytes 1 sev ++ leBytes 4 n ++
           leBytes 4 (dtPack s.clk.dt / 2 ^ 48) ++ leBytes 4 (dtPack s.clk.dt / 2 ^ 16)
  { r with xram := xramPut (xramPut r.xram (0x1E10 + n % 31 * 16) e) 0x1E00 (leBytes 4 (n + 1)), notices := (n + 1) % 2 ^ 32 }

/-- Cores that a LOG_LINE_MASK names (R456). -/
def lineCores (s : State) (l : Nat) : List Nat :=
  let m := s.wordN (R.LOG_LINE_MASK_LO l) + 2 ^ 32 * s.wordN (R.LOG_LINE_MASK_HI l)
  (List.range 64).filter (fun c => bitAt m c)

/-- Key of a core's EVP word, which is at no offset of BAR0, among the W1C words. -/
def evpKey (c : Nat) : Nat := 4 * c + 1

/-- Set a bit of a core's EVP word in CCLK cycle `cyc` (R299). -/
def evpSet (cyc : Nat) (r : Rep) (c b : Nat) : Rep := { r with evp := Tbl.upd 0 r.evp c (· ||| 2 ^ b), fresh := freshen cyc (evpKey c) (2 ^ b) r.fresh }

/-- Count an occurrence in the EDGE counters that name it (R464, R466, R467). -/
def edgeCount (s : State) (r : Rep) (h bit : Nat) : Rep × List (Nat × Nat) :=
  if s.flag R.PERF_CTRL_FREEZE then (r, []) else
  ((s.regRange 0x01F41000 0x01F42000).filter (fun e => e.1 % 16 == 0 && bits e.2 1 0 == 1 &&
      bits e.2 20 8 == ownerId h && bits e.2 25 21 == bit)).foldl (fun acc e =>
    let n := (e.1 - 0x01F41000) / 16
    let v := Tbl.get 0 acc.1.cnt n
    if v + 1 = 2 ^ 64 then ({ acc.1 with cnt := Tbl.set acc.1.cnt n 0, ovf := acc.1.ovf ||| 2 ^ n, fresh := freshen s.cclk (R.PERF_OVF (n / 32)) (2 ^ (n % 32)) acc.1.fresh }, acc.2 ++ [(hPerf, 0)])
    else ({ acc.1 with cnt := Tbl.set acc.1.cnt n (v + 1) }, acc.2)) (r, [])

/-- Deliver an occurrence to each of its targets once (R455, R456). -/
def deliver (s : State) (r : Rep) (h bit : Nat) : Rep × List (Nat × Nat) :=
  let rs := routesFor s h bit
  let logs := rs.filter (fun w => bitAt w.2 31)
  let sev := logs.foldl (fun m w => max m (sevOf (bits w.1 26 24))) 0
  let a := if h ≠ hLog && !logs.isEmpty && decide (s.fld R.LOG_CFG_MIN_SEV ≤ sev)
           then queueLog r (mkEntry s h 0 sev bit (Tbl.get 0 r.pend h) 0) else (r, [])
  let vecs := nubNat ((rs.filter (fun w => bitAt w.2 29)).map (fun w => bits w.2 7 0))
  let b := vecs.foldl (fun acc v => let x := vecTrigger s acc.1 v s.tclk; (x.1, acc.2 ++ x.2)) a
  let lines := nubNat (((rs.filter (fun w => bitAt w.2 28)).map (fun w => bits w.2 20 16)).filter (· < 24))
  let r2 := lines.foldl (fun r l => (lineCores s l).foldl (fun r c => evpSet s.cclk r c l) r) b.1
  let bks := rs.filter (fun w => bitAt w.2 30)
  let r3 := if bks.isEmpty then r2 else postNotice s r2 h bit (bks.foldl (fun m w => max m (sevOf (bits w.1 26 24))) 0)
  (r3, b.2)

/-- One occurrence: EVENT_PEND, counters, delivery unless masked (R454); what follows from it. -/
def occur (s : State) (r : Rep) (h bit : Nat) : Rep × List (Nat × Nat) :=
  let r1 := { r with pend := Tbl.upd 0 r.pend h (· ||| 2 ^ bit), fresh := freshen s.cclk (h + 0x20) (2 ^ bit) r.fresh }
  let a := edgeCount s r1 h bit
  if bitAt (s.wordN (h + 0x24)) bit then a
  else let b := deliver s a.1 h bit; (b.1, a.2 ++ b.2)

/-- Work off occurrences, those that follow from others last.  Each further one needs a counter or a histogram that overflows or an entry that
is dropped, so the list runs out long before the bound. -/
def runOcc : Nat → State → List (Nat × Nat) → Rep → Rep
  | 0, _, _, r => r
  | _, _, [], r => r
  | n + 1, s, (h, b) :: t, r => let x := occur s r h b; runOcc n s (t ++ x.2) x.1

/-- Raise an event of a unit. -/
def raise (h bit : Nat) (s : State) : State := { s with rep := runOcc 1000 s [(h, bit)] s.rep }

/-- Write an entry of KIND 1 to 7 (R461). -/
def addLog (h kind sev code arg0 arg1 : Nat) (s : State) : State :=
  let x := queueLog s.rep (mkEntry s h kind sev code arg0 arg1)
  { s with rep := runOcc 1000 s x.2 x.1 }

/-- Record a latency (R469). -/
def addLatency (src inst lat : Nat) (s : State) : State :=
  let x := histAdd s s.rep src inst lat
  { s with rep := runOcc 1000 s x.2 x.1 }

/-- Set a bit of a FAULT word; a rise is logged (R461 KIND 2). -/
def setFault (h bit : Nat) (s : State) : State :=
  if s.faultBit h bit then s
  else
    let s1 := { s with rep := { s.rep with flt := Tbl.upd 0 s.rep.flt h (· ||| 2 ^ bit) } }
    addLog h 2 3 bit (s1.faultOf h) 0 s1

/-- Clear a bit of a FAULT word. -/
def clearFault (h bit : Nat) (s : State) : State :=
  { s with rep := { s.rep with flt := Tbl.upd 0 s.rep.flt h (fun w => putBits w bit bit 0) } }

def putFault (h bit : Nat) (b : Bool) (s : State) : State := if b then setFault h bit s else clearFault h bit s

/-- Does a unit run disabled since the start (R249, R269)? -/
def State.disabled (s : State) (h : Nat) : Bool := s.boot.disabled.contains h

/-- A step of analysis: there is none while the die is held in reset (R28). -/
def analysis (f : State → State) (s : State) : State := if s.boot.held then s else f s

/-! Commands. -/

/-- Status codes of R479. -/
inductive Code where
  | ok | busy | state | range | locked | nounit | fault | budget
  deriving DecidableEq, Repr

def Code.num : Code → Nat
  | .ok => 0 | .busy => 1 | .state => 2 | .range => 3 | .locked => 4 | .nounit => 5 | .fault => 6 | .budget => 7

/-- Codes whose refusal is logged (R481). -/
def Code.logged : Code → Bool
  | .state => true | .locked => true | .budget => true | _ => false

def State.cmdSt (s : State) (h : Nat) : CmdSt := Tbl.get { status := 0, code := 0, busy := false } s.rep.cmd h

/-- CMD_BUSY of a unit; in a basin of any member at any depth (R475) or of its own forwarded command (R26). -/
def State.cmdBusy (s : State) (h : Nat) : Bool :=
  if isBasin h then
    ((leaves h).any (fun m => (s.cmdSt m).busy)) || (Tbl.find s.rep.fwd h).isSome ||
      ((members h).any (fun m => (Tbl.find s.rep.fwd m).isSome))
  else (s.cmdSt h).busy

/-- Give a command's final code to the basins that forwarded it (R26). -/
def fwdReturn (h : Nat) (c : Code) (r : Rep) : Rep :=
  (basinsOf h).foldl (fun r b =>
    match Tbl.find r.fwd b with
    | none => r
    | some f =>
      if f.left.contains h then
        let left := f.left.filter (· != h)
        let worst := max f.worst c.num
        if left.isEmpty then
          { r with fwd := Tbl.del r.fwd b, cmd := Tbl.set r.cmd b { status := worst, code := f.code, busy := false } }
        else { r with fwd := Tbl.set r.fwd b { f with left := left, worst := worst } }
      else r) r

/-- The final code of a command (R479); a refusal with STATE, LOCKED or BUDGET is logged (R481). -/
def finish (h code : Nat) (c : Code) (s : State) : State :=
  let s1 := { s with rep := fwdReturn h c { s.rep with cmd := Tbl.set s.rep.cmd h { status := c.num, code := code, busy := false } } }
  if c.logged then
    addLog h 1 1 (code + 256 * c.num) (match cmdArgOff h with | some o => s1.wordN o | none => 0) 0 s1
  else s1

/-- A command that runs: CMD_STATUS reads BUSY until it ends (R480). -/
def startBusy (h code : Nat) (s : State) : State :=
  { s with rep := { s.rep with cmd := Tbl.set s.rep.cmd h { status := 1, code := code, busy := true } } }

/-- A command that takes effect at once: refused without effect while CMD_BUSY (R480), else the code it returns and the state it leaves.
A command written while another runs changes nothing. -/
def runCmd (h code : Nat) (f : State → Code × State) (s : State) : State :=
  if s.cmdBusy h then s
  else match f s with | (c, s') => finish h code c s'

/-- A command that runs on after its acceptance (R480): `none` means that it now runs. -/
def runLong (h code : Nat) (f : State → Option Code × State) (s : State) : State :=
  if s.cmdBusy h then s
  else match f s with
    | (some c, s') => finish h code c s'
    | (none, s') => startBusy h code s'

/-- A refusal: no effect. -/
def refuse (c : Code) (s : State) : Code × State := (c, s)

/-! Shadowed fields. -/

/-- The shadow copy of a word: what a read of its SH fields returns (R4). -/
def State.shadowN (s : State) (off : Nat) : Nat :=
  match Tbl.find s.shadow off with
  | some w => w
  | none => s.wordN off

/-- Offsets of the words of a unit whose shadow copy may differ from the working word: its 4 KiB page. -/
def State.shadowPage (s : State) (h : Nat) : Tbl Nat := Tbl.range s.shadow h (h + 0x1000)

/-- Take a snapshot of a unit's shadowed fields; a pending one is replaced (R20, R21).  Fields never written have the
working value as their shadow, and take it from there. -/
def takeSnap (h : Nat) (s : State) : State :=
  { s with snaps := s.snaps.filter (fun x => x.hdr != h) ++ [{ hdr := h, words := s.shadowPage h }] }

/-- The pending snapshot of a unit. -/
def State.snapOf (s : State) (h : Nat) : Option (Tbl Nat) := (s.snaps.find? (fun x => x.hdr == h)).map Snap.words

/-- The pending snapshot is gone. -/
def dropSnap (h : Nat) (s : State) : State := { s with snaps := s.snaps.filter (fun x => x.hdr != h) }

/-- The working words with a snapshot's SH fields in them. -/
def overlay (s : State) (ws : Tbl Nat) : State :=
  ws.foldl (fun s e =>
    let m := shMask e.1
    s.setWord e.1 ((s.wordN e.1 &&& (0xFFFFFFFF - m)) ||| (e.2 &&& m))) s

/-- The commit point of a unit whose snapshot is never rejected as a whole: apply it. -/
def applySnap (h : Nat) (s : State) : State :=
  match s.snapOf h with
  | none => s
  | some ws => dropSnap h (overlay s ws)

/-- A rejected snapshot: the working settings stay, CFG_REJ is raised and one entry of KIND 3 written (R118, R461). -/
def rejectSnap (h bit obj : Nat) (s : State) : State := addLog h 3 2 0 obj 0 (raise h bit (dropSnap h s))

/-! The journal's queue (R449): a pending entry replaces an older one of the same TYPE and KEY. -/
def journal (typ key : Nat) (vals : List Int) (s : State) : State :=
  { s with jq := s.jq.filter (fun e => !(e.typ == typ && e.key == key)) ++ [{ typ := typ, key := key, vals := vals }] }

end Sys2Proof.Machine
end

