-- ==== Sys2Proof/Machine/Frames.lean ====
section
/-! DEFINITION. Frames on the Ethernet links: IEEE 802.3 and 802.1Q, IPv4, IPv6, UDP, RoCEv2, ARP, neighbour advertisement, PTP (R335, R346, R350), and
check words (CRC-32 of IEEE 802.3; CRC-32C of the journal, R446).  The layouts that the spec takes from those standards are PRESUMED (log entry 17). -/

namespace Sys2Proof.Machine

/-- One bit of a reflected CRC. -/
def crcBit (poly c : Nat) : Nat := if c % 2 = 1 then (c / 2) ^^^ poly else c / 2

/-- One byte of a reflected CRC. -/
def crcByte (poly c : Nat) (b : Byte) : Nat := iter (crcBit poly) 8 (c ^^^ b.toNat)

/-- A reflected 32-bit CRC with the usual start and final inversion. -/
def crc32 (poly : Nat) (bs : List Byte) : Nat := bs.foldl (crcByte poly) 0xFFFFFFFF ^^^ 0xFFFFFFFF

/-- CRC-32 of IEEE 802.3, and CRC-32C. -/
def crcEth (bs : List Byte) : Nat := crc32 0xEDB88320 bs
def crcC (bs : List Byte) : Nat := crc32 0x82F63B78 bs

/-- Sum of the 16-bit words of bytes, most significant byte first, an odd byte padded with 0. -/
def sum16 : List Byte → Nat
  | [] => 0
  | [a] => a.toNat * 256
  | a :: b :: t => a.toNat * 256 + b.toNat + sum16 t

/-- One's complement of the one's complement sum. -/
def inetSum (bs : List Byte) : Nat :=
  let fold (x : Nat) : Nat := x % 65536 + x / 65536
  0xFFFF - fold (fold (fold (sum16 bs)))

/-! Link addresses. -/

def State.linkMac (s : State) (k : Nat) : List Byte := beBytes 6 (s.wordN (R.NET_MAC_LO k) + 2 ^ 32 * bits (s.wordN (R.NET_MAC_HI k)) 15 0)
def State.linkIp4 (s : State) (k : Nat) : List Byte := beBytes 4 (s.wordN (R.NET_IP4 k))
def State.linkIp6 (s : State) (k : Nat) : List Byte := (List.range 4).flatMap (fun w => beBytes 4 (s.wordN (R.NET_IP6 k w)))

/-- An untagged frame, destination first, without FCS. -/
def ethFrame (dst src : List Byte) (ety : Nat) (body : List Byte) : List Byte := dst ++ src ++ beBytes 2 ety ++ body

/-- A frame with an 802.1Q tag. -/
def ethTagged (dst src : List Byte) (pcp vid ety : Nat) (body : List Byte) : List Byte :=
  dst ++ src ++ beBytes 2 0x8100 ++ beBytes 2 (pcp * 8192 + vid) ++ beBytes 2 ety ++ body

/-- The FCS of a frame, as it leaves after padding to 60 bytes. -/
def withFcs (fr : List Byte) : List Byte :=
  let f := fr ++ List.replicate (60 - fr.length) 0
  f ++ leBytes 4 (crcEth f)

/-- An IPv4 header with DF set, no options and identification 0 (R335). -/
def ip4Hdr (tos ttl proto len : Nat) (src dst : List Byte) : List Byte :=
  let h (c : Nat) : List Byte := [0x45] ++ beBytes 1 tos ++ beBytes 2 (20 + len) ++ beBytes 2 0 ++ beBytes 2 0x4000 ++ beBytes 1 ttl ++ beBytes 1 proto ++
    beBytes 2 c ++ src ++ dst
  h (inetSum (h 0))

/-- An IPv6 header without extension headers. -/
def ip6Hdr (tos hops next len : Nat) (src dst : List Byte) : List Byte :=
  beBytes 4 (0x60000000 + tos * 2 ^ 20) ++ beBytes 2 len ++ beBytes 1 next ++ beBytes 1 hops ++ src ++ dst

/-- A UDP datagram with its checksum (R335), and the IP header over it. -/
def udpIp (v6 : Bool) (tos ttl sport dport : Nat) (src dst body : List Byte) : List Byte :=
  let n := 8 + body.length
  let u (c : Nat) : List Byte := beBytes 2 sport ++ beBytes 2 dport ++ beBytes 2 n ++ beBytes 2 c ++ body
  let ps := src ++ dst ++ (if v6 then beBytes 4 n ++ beBytes 4 17 else beBytes 2 17 ++ beBytes 2 n)
  let c := inetSum (ps ++ u 0)
  let d := u (if c = 0 then 0xFFFF else c)
  (if v6 then ip6Hdr tos ttl 17 n src dst else ip4Hdr tos ttl 17 n src dst) ++ d

/-! Destinations: the words MAC_LO, MAC_HI, IP0 to IP3, PORTS, TOS of an entry (R361). -/

def dstW (d : List Nat) (i : Nat) : Nat := d.getD i 0
def dstMac (d : List Nat) : List Byte := beBytes 6 (dstW d 0 + 2 ^ 32 * bits (dstW d 1) 15 0)
def dstV6 (d : List Nat) : Bool := bitAt (dstW d 1) 29
def dstIp (d : List Nat) : List Byte :=
  if dstV6 d then beBytes 4 (dstW d 2) ++ beBytes 4 (dstW d 3) ++ beBytes 4 (dstW d 4) ++ beBytes 4 (dstW d 5) else beBytes 4 (dstW d 2)

/-- A UDP frame to a destination over a link, tagged when the destination asks for it. -/
def udpFrame (s : State) (k pcp : Nat) (d : List Nat) (dport : Nat) (body : List Byte) : List Byte :=
  let v6 := dstV6 d
  let ip := udpIp v6 (bits (dstW d 7) 5 0 * 4) (bits (dstW d 7) 15 8) (bits (dstW d 6) 31 16) dport (if v6 then s.linkIp6 k else s.linkIp4 k) (dstIp d) body
  let ety := if v6 then 0x86DD else 0x0800
  if bitAt (dstW d 1) 28 then ethTagged (dstMac d) (s.linkMac k) pcp (bits (dstW d 1) 27 16) ety ip else ethFrame (dstMac d) (s.linkMac k) ety ip

/-! RoCEv2 (R346, R347).  Words of a queue pair: CFG, DQPN, RKEY, VA_LO, VA_HI, SLOT. -/

def qpW (q : List Nat) (i : Nat) : Nat := q.getD i 0
def qpMtu (q : List Nat) : Nat := 1024 * 2 ^ min 2 (bits (qpW q 0) 2 1)
def qpPsnMod : Nat := 2 ^ 24

/-- Base transport header: opcode, pad count, destination queue pair, acknowledge request, PSN. -/
def bth (op pad dqpn : Nat) (ack : Bool) (psn : Nat) : List Byte :=
  beBytes 1 op ++ beBytes 1 (0x40 + pad * 16) ++ beBytes 2 0xFFFF ++ beBytes 1 0 ++ beBytes 3 dqpn ++ beBytes 1 (if ack then 0x80 else 0) ++ beBytes 3 psn

/-- The invariant CRC of a packet: IP and UDP headers with their variable fields at ones, then the transport header with its reserved byte at ones. -/
def icrc (v6 : Bool) (ip : List Byte) : Nat :=
  let h := if v6 then 40 else 20
  let mask (i : Nat) : Bool :=
    if v6 then (i == 7) || (i == h + 6) || (i == h + 7) || (i == h + 8 + 4)
    else (i == 1) || (i == 8) || (i == 10) || (i == 11) || (i == h + 6) || (i == h + 7) || (i == h + 8 + 4)
  let b := (ip.zip (List.range ip.length)).map (fun e =>
    if mask e.2 then (0xFF : Byte) else if v6 && e.2 = 0 then e.1 ||| 0x0F else if v6 && (e.2 = 1 || e.2 = 2 || e.2 = 3) then (0xFF : Byte) else e.1)
  crcEth (List.replicate 8 (0xFF : Byte) ++ b)

/-- One packet of a message: part `i` of `n`, with the write's address and length in the first and the immediate in the last. -/
def rocePacket (s : State) (k pcp : Nat) (d q : List Nat) (i n va len psn : Nat) (imm : Option Nat) (part : List Byte) : List Byte :=
  let first := i == 0
  let last := i + 1 == n
  let op := if first && last then (if imm.isSome then 0x0B else 0x0A) else if first then 0x06 else if last then (if imm.isSome then 0x09 else 0x08) else 0x07
  let pad := (4 - part.length % 4) % 4
  let t := bth op pad (bits (qpW q 1) 23 0) last psn ++
    (if first then beBytes 8 (va % 2 ^ 64) ++ beBytes 4 (qpW q 2) ++ beBytes 4 len else []) ++
    (match imm with | some v => if last then beBytes 4 v else [] | none => []) ++ part ++ List.replicate pad 0
  let v6 := dstV6 d
  let src := if v6 then s.linkIp6 k else s.linkIp4 k
  let ip0 := udpIp v6 (bits (dstW d 7) 5 0 * 4) (bits (dstW d 7) 15 8) (bits (dstW d 6) 31 16) 4791 src (dstIp d) (t ++ leBytes 4 0)
  let ic := icrc v6 (ip0.take (ip0.length - 4))
  udpFrame s k pcp d 4791 (t ++ leBytes 4 ic)

/-- The packets of message `n` of a queue pair that begins at a PSN (R347). -/
def roceFrames (s : State) (k pcp : Nat) (d q : List Nat) (msg psn seq : Nat) (last : Bool) (body : List Byte) : List (Nat × List Byte) :=
  let mtu := qpMtu q
  let n := max 1 (cdiv body.length mtu)
  let va := qpW q 3 + 2 ^ 32 * qpW q 4 + msg % 2 ^ bits (qpW q 5) 4 0 * 2 ^ bits (qpW q 5) 12 8
  let imm := if bitAt (qpW q 0) 17 || last then some (seq % 2 ^ 32) else none
  (List.range n).map (fun i =>
    let p := (psn + i) % qpPsnMod
    (p, rocePacket s k pcp d q i n va body.length p imm ((body.drop (i * mtu)).take mtu)))

/-! Answers of the link itself (R335) and PTP (R350). -/

/-- The reply to an ARP request. -/
def arpReply (s : State) (k : Nat) (mac ip : List Byte) : List Byte :=
  ethFrame mac (s.linkMac k) 0x0806
    (beBytes 2 1 ++ beBytes 2 0x0800 ++ [6, 4] ++ beBytes 2 2 ++ s.linkMac k ++ s.linkIp4 k ++ mac ++ ip)

/-- The neighbour advertisement that answers a solicitation; to all nodes when its source is unspecified. -/
def neighbourAdv (s : State) (k : Nat) (mac ip : List Byte) : List Byte :=
  let anon := ip.all (· == 0)
  let dst := if anon then beBytes 16 (0xFF02 * 2 ^ 112 + 1) else ip
  let dmac := if anon then beBytes 6 0x333300000001 else mac
  let b (c : Nat) : List Byte := [136, 0] ++ beBytes 2 c ++ beBytes 4 (if anon then 0x20000000 else 0x60000000) ++ s.linkIp6 k ++ [2, 1] ++ s.linkMac k
  let n := (b 0).length
  let c := inetSum (s.linkIp6 k ++ dst ++ beBytes 4 n ++ beBytes 4 58 ++ b 0)
  ethFrame dmac (s.linkMac k) 0x86DD (ip6Hdr 0 255 58 n (s.linkIp6 k) dst ++ b c)

/-- Delay_Req of the time-receiver, over the transport that PTP_CFG selects. -/
def delayReqFrame (s : State) (k seq : Nat) : List Byte :=
  let m := s.linkMac k
  let cid := m.take 3 ++ [0xFF, 0xFE] ++ m.drop 3
  let msg := [0x01, 0x02] ++ beBytes 2 44 ++ beBytes 1 (s.fld R.PTP_CFG_DOMAIN) ++ beBytes 1 0 ++ beBytes 2 0 ++ beBytes 8 0 ++ beBytes 4 0 ++ cid ++ beBytes 2 1 ++
    beBytes 2 seq ++ [0x01, 0x7F] ++ beBytes 10 0
  match s.fld R.PTP_CFG_TRANSPORT with
  | 1 => ethFrame (beBytes 6 0x01005E000181) m 0x0800 (udpIp false 0 1 319 319 (s.linkIp4 k) (beBytes 4 0xE0000181) msg)
  | 2 => ethFrame (beBytes 6 0x333300000181) m 0x86DD (udpIp true 0 1 319 319 (s.linkIp6 k) (beBytes 16 (0xFF0E * 2 ^ 112 + 0x181)) msg)
  | _ => ethFrame (beBytes 6 0x011B19000000) m 0x88F7 msg

end Sys2Proof.Machine
end

