-- ==== Sys2Proof/Machine/Operands.lean ====
section
/-! DEFINITION. The operand forms of register accesses: byte enables, the effect of a write on each access type (R4, R483) and the
read latch of LO/HI pairs (R484). -/

namespace Sys2Proof.Machine

/-- The bits that byte enables select. -/
def beMask (be : Nat) : Nat :=
  (if bitAt be 0 then 0xFF else 0) + (if bitAt be 1 then 0xFF00 else 0) + (if bitAt be 2 then 0xFF0000 else 0) +
    (if bitAt be 3 then 0xFF000000 else 0)

/-- `old` with the bits of a mask taken from `v`. -/
def blend (old v m : Nat) : Nat := (old &&& (0xFFFFFFFF - m)) ||| (v &&& m)

/-- `old` with the enabled bytes of `v`. -/
def mergeBe (old v be : Nat) : Nat := blend old v (beMask be)

/-- Is the lifecycle state OPEN (LCS_STATUS.STATE 1)? -/
def State.lifeOpen (s : State) : Bool := s.fld R.LCS_STATUS_STATE == 1

/-- Fields that a write sets at once: RW, and LK in the OPEN state (R4); rules 0 to 15 of Brook are LK. -/
def setMask (opn : Bool) (off : Nat) : Nat :=
  accMask (fieldsOf off) (fun a => a == .rw || (opn && (a == .lk || (a == .shlk && decide (off < 0x01E80500)))))

/-- The new value of a word's RW, LK, W1C and W1S fields when enabled bytes of `v` are written over `old` (R4, R483); the W1C bits in `kept` stay (R5). -/
def writtenWord (opn : Bool) (off old kept v be : Nat) : Nat :=
  let m := beMask be
  let fs := fieldsOf off
  let c := accMask fs (· == .w1c) &&& m &&& v
  let t := accMask fs (· == .w1s) &&& m &&& v
  (blend old v (setMask opn off &&& m) &&& (0xFFFFFFFF - (c - (c &&& kept)))) ||| t

/-- A write to a word whose effect is that of its fields' access types: SH fields go to the shadow copy (R4). -/
def writeFields (off v be : Nat) (s : State) : State :=
  let sh := shMask off
  let s1 := if sh = 0 then s
            else { s with shadow := Tbl.set s.shadow off (blend (s.shadowN off) v (sh &&& beMask be)) }
  s1.setWord off (writtenWord s.lifeOpen off (s.wordN off) (s.justSet off) v be)

/-- Number of an access path, in the order in which accesses of one cycle are taken (R482). -/
def pathNum : Path → Nat
  | .jtag => 0 | .brook => 1 | .mgmt => 2 | .pcie => 3

/-- Key of the holding register of a pair on a path (R484). -/
def latchKey (path : Path) (lo : Nat) : Nat := pathNum path * 2 ^ 25 + lo

/-- Latch the high word of a pair on a path. -/
def latchHi (path : Path) (lo hi : Nat) (s : State) : State := { s with latch := Tbl.set s.latch (latchKey path lo) hi }

/-- The high word that a read of HI returns on a path. -/
def State.latched (s : State) (path : Path) (lo : Nat) : Nat := Tbl.get 0 s.latch (latchKey path lo)

end Sys2Proof.Machine
end

