-- ==== Sys2Proof/Machine/Fft.lean ====
section
/-! DEFINITION. The block-floating transform of R119 to R127 and R488: windows, input conversion, radix-2 and radix-4 stages, split
stage and the twiddle-only stage, on lists of complex integers. -/

namespace Sys2Proof.Machine

/-- A complex integer. -/
abbrev Cx := Int × Int

def Cx.add (a b : Cx) : Cx := (a.1 + b.1, a.2 + b.2)
def Cx.sub (a b : Cx) : Cx := (a.1 - b.1, a.2 - b.2)
/-- Times j, and times -j. -/
def Cx.mulJ (a : Cx) : Cx := (-a.2, a.1)
def Cx.mulNJ (a : Cx) : Cx := (a.2, -a.1)
def Cx.mul (a b : Cx) : Cx := (a.1 * b.1 - a.2 * b.2, a.1 * b.2 + a.2 * b.1)
def Cx.conj (a : Cx) : Cx := (a.1, -a.2)
def Cx.smul (k : Int) (a : Cx) : Cx := (k * a.1, k * a.2)

/-! Windows (R120, R121). -/

/-- `cos (2 π m i / l)` in fixed point. -/
def winCos (m i l : Nat) : Int := fxCos (fxAngle (m * i) l)

/-- A decimal coefficient `n / 10^9` in fixed point. -/
def fxDec (n : Int) : Int := n * ((2 ^ fxBits : Nat) : Int) / 1000000000

/-- `w[i]` of a built-in window in fixed point. -/
def winValue (win wparam l i : Nat) : Int :=
  let one : Int := ((2 ^ fxBits : Nat) : Int)
  let c := fun (k : Int) (m : Nat) => fxDec k * winCos m i l / one
  let u2 := (((2 * i : Nat) : Int) - (l : Int)) * (((2 * i : Nat) : Int) - (l : Int))
  let l2 := (l : Int) * (l : Int)
  if win = 1 then fxDec 500000000 - c 500000000 1
  else if win = 2 then fxDec 358750000 - c 488290000 1 + c 141280000 2 - c 11680000 3
  else if win = 3 then fxDec 215578950 - c 416631580 1 + c 277263158 2 - c 83578947 3 + c 6947368 4
  else if win = 4 then
    let sg := fxOfDy (dyOfF32 wparam)
    if sg = 0 then 0 else fxExpNeg (one * u2 / l2 * one / (2 * sg * sg / one))
  else if win = 5 then
    let b := fxOfDy (dyOfF32 wparam)
    let q := b * b / one / 4
    fxI0 300 one one 1 (q * (l2 - u2) / l2) * one / fxI0 300 one one 1 q
  else one

/-- The quantised coefficient `wq[i]`; `user` reads the bank (R121). -/
def winCoef (user : Nat → Int) (win wparam l i : Nat) : Int :=
  if win = 6 then user (i * 32768 / l)
  else clampI (-131072) 131071 (fxRound (winValue win wparam l i) 16 + clampI (-1) 1 (Config.winErr win wparam l i))

/-- The quantised window of a span. -/
def winList (user : Nat → Int) (win wparam l : Nat) : List Int := (List.range l).map (winCoef user win wparam l)

/-- WSUM and WSQ (R122). -/
def winSum (wq : List Int) : Dy := ⟨wq.foldl (· + ·) 0, -16⟩
def winSq (wq : List Int) : Dy := ⟨wq.foldl (fun a w => a + w * w) 0, -32⟩
def winMax (wq : List Int) : Nat := wq.foldl (fun a w => max a w.natAbs) 0

/-- E0 of R123. -/
def inputExp (p wmax : Nat) : Nat := clog2 (cdiv (p * wmax) 65536)

/-! Blocks and stages. -/

/-- Largest component magnitude of a block. -/
def blockMax (b : List Cx) : Nat := b.foldl (fun a z => max a (max z.1.natAbs z.2.natAbs)) 0

/-- The shift `s` of R125 for a stage of guard count `g`. -/
def stageShift (fb g a : Nat) : Nat :=
  ((g : Int) - (if a = 0 then (fb : Int) else (fb : Int) - 1 - Nat.log2 a)).toNat

/-- Round and clamp a component (R127). -/
def narrow (fb k : Nat) (x : Int) : Int := clampI (-((2 ^ fb : Nat) : Int)) (((2 ^ fb : Nat) : Int) - 1) (rneShr x k)

/-- Did it clamp? -/
def narrowSat (fb k : Nat) (x : Int) : Bool := narrow fb k x != rneShr x k

/-- A block of exact values times 2^k, narrowed; and whether any saturated. -/
def narrowBlock (fb k : Nat) (b : List Cx) : List Cx × Bool :=
  (b.map (fun z => (narrow fb k z.1, narrow fb k z.2)), b.any (fun z => narrowSat fb k z.1 || narrowSat fb k z.2))

/-- `W_l^t` times 2^fb (R126): the factors 1, -1, j, -j are exact. -/
def twiddle (fb l t : Nat) : Cx :=
  let tt := t % l
  let one : Int := ((2 ^ fb : Nat) : Int)
  if 4 * tt % l = 0 then
    (match 4 * tt / l with | 0 => (one, 0) | 1 => (0, -one) | 2 => (-one, 0) | _ => (0, one))
  else
    let th := fxAngle tt l
    (clampI (-(one - 1)) (one - 1) (fxRound (fxCos th) fb), clampI (-(one - 1)) (one - 1) (-(fxRound (fxSin th) fb)))

/-- A radix-2 stage on one group: the two halves it becomes, times 2^fb. -/
def bfly2 (fb : Nat) (z : List Cx) : List (List Cx) :=
  let l := z.length
  let a := z.take (l / 2)
  let b := z.drop (l / 2)
  [List.zipWith (fun x y => Cx.smul ((2 ^ fb : Nat) : Int) (Cx.add x y)) a b,
   List.zipWith (fun n xy => Cx.mul (Cx.sub xy.1 xy.2) (twiddle fb l n)) (List.range (l / 2)) (a.zip b)]

/-- Output `t` of the four-point butterfly of R488. -/
def bflyOut (t : Nat) (x0 x1 x2 x3 : Cx) : Cx :=
  match t with
  | 0 => Cx.add (Cx.add x0 x1) (Cx.add x2 x3)
  | 1 => Cx.add (Cx.add x0 (Cx.mulNJ x1)) (Cx.add (Cx.smul (-1) x2) (Cx.mulJ x3))
  | 2 => Cx.add (Cx.sub x0 x1) (Cx.sub x2 x3)
  | _ => Cx.add (Cx.add x0 (Cx.mulJ x1)) (Cx.add (Cx.smul (-1) x2) (Cx.mulNJ x3))

/-- A radix-4 stage on one group: the four quarters it becomes, times 2^fb. -/
def bfly4 (fb : Nat) (z : List Cx) : List (List Cx) :=
  let l := z.length
  let q := l / 4
  let x0 := z.take q
  let x1 := (z.drop q).take q
  let x2 := (z.drop (2 * q)).take q
  let x3 := z.drop (3 * q)
  let quads := (x0.zip x1).zip (x2.zip x3)
  (List.range 4).map (fun t =>
    List.zipWith (fun n w => Cx.mul (bflyOut t w.1.1 w.1.2 w.2.1 w.2.2) (twiddle fb l (n * t))) (List.range q) quads)

/-- A whole block in the transform: its groups, its exponent, whether anything saturated. -/
structure Blk where
  groups : List (List Cx)
  exp : Int
  sat : Bool
  deriving DecidableEq, Repr

/-- A stage over the whole block (R125). -/
def runStage (fb g : Nat) (f : List Cx → List (List Cx)) (b : Blk) : Blk :=
  let a := b.groups.foldl (fun m z => max m (blockMax z)) 0
  let s := stageShift fb g a
  let out := b.groups.flatMap f
  let nb := out.map (narrowBlock fb (fb + s))
  { groups := nb.map Prod.fst, exp := b.exp + s, sat := b.sat || nb.any Prod.snd }

/-- `n` radix-4 stages. -/
def radix4Stages (fb : Nat) : Nat → Blk → Blk
  | 0, b => b
  | n + 1, b => radix4Stages fb n (runStage fb 3 (bfly4 fb) b)

/-- All stages of a transform over `2^q` points for every group of the block. -/
def fftStages (fb q : Nat) (b : Blk) : Blk :=
  radix4Stages fb (q / 2) (if q % 2 = 1 then runStage fb 2 (bfly2 fb) b else b)

/-- Take elements of lists in turn. -/
def interleave : List (List Cx) → List Cx
  | ls => (List.range (ls.foldl (fun m l => max m l.length) 0)).flatMap (fun i => ls.filterMap (fun l => l[i]?))

/-- Undo the digit reversal of `n` radix-4 stages (R488). -/
def undoDigits : Nat → List Cx → List Cx
  | 0, z => z
  | n + 1, z =>
    let q := z.length / 4
    interleave [undoDigits n (z.take q), undoDigits n ((z.drop q).take q), undoDigits n ((z.drop (2 * q)).take q),
                undoDigits n (z.drop (3 * q))]

/-- `Z[k]` in natural order from the order after the last stage of a transform over `2^q` points. -/
def naturalOrder (q : Nat) (z : List Cx) : List Cx :=
  if q % 2 = 1 then
    let h := z.length / 2
    interleave [undoDigits (q / 2) (z.take h), undoDigits (q / 2) (z.drop h)]
  else undoDigits (q / 2) z

/-- One transform over a block of one group of `2^q` points: natural order, exponent, saturation. -/
def fftOne (fb q : Nat) (z : List Cx) (e : Int) (sat : Bool) : Blk :=
  let b := fftStages fb q { groups := [z], exp := e, sat := sat }
  { b with groups := [naturalOrder q b.groups.flatten] }

/-- The split stage's exact outputs times 2^(fb + 1), for outputs `k` of `ks` (R124). -/
def splitOut (fb m : Nat) (z : Nat → Cx) (k : Nat) : Cx :=
  let a := z k
  let b := Cx.conj (z ((m - k) % m))
  Cx.sub (Cx.smul ((2 ^ fb : Nat) : Int) (Cx.add a b)) (Cx.mulJ (Cx.mul (Cx.sub a b) (twiddle fb (2 * m) k)))

/-- The split stage on a natural-order block. -/
def splitStage (fb : Nat) (b : Blk) : Blk :=
  let z := b.groups.flatten
  let m := z.length
  let s := stageShift fb 2 (blockMax z)
  let nb := narrowBlock fb (fb + 1 + s) ((List.range m).map (splitOut fb m (fun i => z.getD i (0, 0))))
  { groups := [nb.1], exp := b.exp + s, sat := b.sat || nb.2 }

/-- Pairs of a list as complex points. -/
def pairUp : List Int → List Cx
  | a :: b :: t => (a, b) :: pairUp t
  | _ => []

/-- The delivered bins of a short or mid reach frame from its windowed inputs `y` (exact, times 2^31): real ports pass the
inputs in order, complex ports I and Q alternately (R123, R124, R128). -/
def transform (fb nlog e0 : Nat) (cplx : Bool) (y : List Int) : Blk :=
  let sc := (fb : Int) - e0 - 31
  let m := y.map (fun x => rneScale x sc)
  let c := m.map (clampI (-((2 ^ fb : Nat) : Int)) (((2 ^ fb : Nat) : Int) - 1))
  let b := fftOne fb (if cplx then nlog else nlog - 1) (pairUp c) e0 (c != m)
  if cplx then
    let z := b.groups.flatten
    let h := z.length / 2
    { b with groups := [z.drop h ++ z.take h] }
  else splitStage fb b

/-! Power (R129). -/

/-- `G` of NORM in binary64; 0 stands for the G that divides by a window sum of 0, which no other G is (log entry 69). -/
def normG (norm : Nat) (wsum wsq : Dy) : Dy :=
  if norm = 1 then Dy.div64 (Dy.ofInt 1) (Dy.mul64 wsum.r64 wsum.r64)
  else if norm = 2 then Dy.div64 (Dy.ofInt 1) wsq.r64
  else Dy.ofInt 1

/-- The binary32 power word of a bin; under a G that divides by 0 a free value, a finite one (log entry 69). -/
def powerWord (g : Dy) (exp : Int) (z : Cx) : Nat :=
  if g.m = 0 then Config.zeroGainPower exp z.1 z.2 % 0x7F800000
  else f32OfDy (Dy.mul64 g ⟨z.1 * z.1 + z.2 * z.2, 2 * exp⟩)

/-- The binary32 word of G in a descriptor (R133). -/
def gainWord (g : Dy) : Nat := if g.m = 0 then Config.zeroGainNorm % 2 ^ 32 else f32OfDy g

/-- A component of a bin's cross-power: G over the `n` frames summed, times their sum (R147); 0 where none was (R148). -/
def crossWord (g : Dy) (n : Nat) (x : Dy) : Nat :=
  if n = 0 then 0
  else if g.m = 0 then Config.zeroGainCross n x.m x.e % 2 ^ 32
  else f32OfDy (Dy.mul64 (Dy.div64 g (Dy.ofInt (n : Nat))) x)

end Sys2Proof.Machine
end

