-- ==== Sys2Proof/Machine/PortOps.lean ====
section
/-! DEFINITION. What the blocks downstream of an ingress port read from it: format in force (R72), released words, points and their DTs (R98, R112, R230, R232), bonding (R101, R145), and the
bits of the product status word (R16, R17). -/

namespace Sys2Proof.Machine

/-! Product status word bits (R16). -/
def pswValid : Nat := 0x1
def pswStale : Nat := 0x2
def pswCoast : Nat := 0x4
def pswGap : Nat := 0x8
def pswClip : Nat := 0x10
def pswSat : Nat := 0x20
def pswLaneDeg : Nat := 0x40
def pswRfi : Nat := 0x80
def pswSettling : Nat := 0x100
def pswPoison : Nat := 0x200
def pswMemDeg : Nat := 0x400

/-- Bits 1 to 10: those that are ORed over contributions (R17). -/
def pswOrMask : Nat := 0x7FE

/-- PSW of a product from the OR of its contributions' bits and whether any sample was present (R16, R17). -/
def pswMake (orBits : Nat) (present : Bool) : Nat :=
  (orBits &&& pswOrMask) ||| (if present && (orBits &&& pswPoison) == 0 then 1 else 0)

/-- PSW of a combination: OR of bits 1 to 10, VALID when any contribution is VALID and POISON is clear. -/
def pswCombine (a b : Nat) : Nat := pswMake (a ||| b) (bitAt a 0 || bitAt b 0)

/-- The MEM_DEG bit as every product carries it (R270). -/
def State.memDeg (s : State) : Nat := if s.flag R.RSV_STATUS_MEM_DEG then pswMemDeg else 0

/-! Ports. -/

def State.portSt (s : State) (p : Nat) : PortSt := Tbl.get PortSt.init s.ing.port p

def State.setPort (s : State) (p : Nat) (x : PortSt) : State := { s with ing := { s.ing with port := Tbl.set s.ing.port p x } }

/-- Complex port? -/
def fmtCplx (f : Nat) : Bool := bitAt f 11
/-- Decimation D = 2^DEC. -/
def fmtD (f : Nat) : Nat := 2 ^ bits f 6 4
/-- Sample width in bits. -/
def fmtW (f : Nat) : Nat := 8 + 2 * bits f 10 8

/-- Words released on a port since start-up, newest first. -/
def State.hist (s : State) (p : Nat) : List Smp := Tbl.get [] s.weir.hist p

/-- How many words a port has released: the RWN of the next one (R230). -/
def State.released (s : State) (p : Nat) : Nat := (s.hist p).length

/-- Is the port half of a formed bond (R102)? -/
def State.bonded (s : State) (p : Nat) : Bool := s.flag (R.ING_PORT_STATUS_BONDED p)

/-- Is the port the odd port of a formed bond (R145, R180)? -/
def State.slave (s : State) (p : Nat) : Bool := p % 2 == 1 && s.bonded p

/-- Words per point: 2 on a complex port (R112). -/
def wpp (fmt : Nat) : Nat := if fmtCplx fmt then 2 else 1

/-- DT units from one point to the next (R232). -/
def pointUnits (fmt : Nat) : Nat := (if fmtCplx fmt then 5120 else 2560) * fmtD fmt

/-- The word of number `r`, if it has been released. -/
def State.smp (s : State) (p r : Nat) : Option Smp :=
  let h := s.hist p
  if r < h.length then h[h.length - 1 - r]? else none

/-- `n` words from number `r`; words at or beyond `lim`, and words not released, are zero-filled with GAP. -/
def State.wordsFrom (s : State) (p r n lim : Nat) : List Smp :=
  let h := s.hist p
  let e := min (r + n) (min lim h.length)
  let got := if r < e then ((h.drop (h.length - e)).take (e - r)).reverse else []
  got ++ List.replicate (n - got.length) { v := 0, psw := pswGap, dt := 0 }

/-- DT of word `r`: its own when it was released before `lim`, else that of the schedule which the last word before `lim` was on (R116). -/
def State.wordDt (s : State) (p fmt r lim : Nat) : Nat :=
  let e := min lim (s.released p)
  if r < e then (match s.smp p r with | some x => x.dt | none => 0)
  else match s.smp p (e - 1) with
    | some x => x.dt + (r / wpp fmt - (e - 1) / wpp fmt) * pointUnits fmt
    | none => r / wpp fmt * pointUnits fmt

/-- The word that holds the latest point whose DT is not after `t` (R233); the first word of that point, and word 0 when every point
lies after `t`.  `h` is newest first and holds `n` words. -/
def latestWord (wp : Nat) : List Smp → Nat → Nat → Nat
  | [], _, _ => 0
  | x :: t, n, u => if (n - 1) % wp = 0 && decide (x.dt ≤ u) then n - 1 else latestWord wp t (n - 1) u

/-- First word of the latest point not after a DT. -/
def State.wordAtDt (s : State) (p u : Nat) : Nat := latestWord (wpp (s.portSt p).fmt) (s.hist p) (s.released p) u

/-- Device time at a TCLK cycle, at the present rate. -/
def dtAt (s : State) (c : Int) : Int :=
  s.clk.dt + ((c - s.tclk) * (20480 * (17592186044416 + sext 32 (s.wordN R.CLK_DT_RATE))) + s.clk.dtFrac) / 17592186044416

/-- The SCLK tick whose DT interval holds a DT: the last one that device time does not put after it (R226). -/
def tickOfDt (s : State) (d : Int) : Nat :=
  let inc : Int := 20480 * (17592186044416 + sext 32 (s.wordN R.CLK_DT_RATE))
  ((s.tclk + (((d - s.clk.dt + 1) * 17592186044416 - s.clk.dtFrac) + inc - 1) / inc - 1) / 2).toNat

end Sys2Proof.Machine
end

