-- ==== Sys2Proof/Machine/ReachCore.lean ====
section
/-! DEFINITION. Reach settings (R114, R151), frames of a grid (R113, R116, R119 to R130), segments (R132 to R134). -/

namespace Sys2Proof.Machine

def State.reach (s : State) (k p : Nat) : Reach := Tbl.get Reach.init s.rch.reach (4 * k + p)
def State.setReach (s : State) (k p : Nat) (x : Reach) : State := { s with rch := { s.rch with reach := Tbl.set s.rch.reach (4 * k + p) x } }

/-- Decoded settings of a reach: kind and port, the CFG, WPARAM, OUT, EXPORT/INTEG, ASTRO, SK and POOL words. -/
structure RSet where
  k : Nat
  p : Nat
  cfg : Nat
  wparam : Nat
  out : Nat
  w4C : Nat
  astro : Nat
  skLo : Nat
  skHi : Nat
  pool : Nat
  deriving DecidableEq, Repr

/-- The settings that the words of a unit spell, read through `w`. -/
def rset (k p : Nat) (w : Nat → Nat) : RSet :=
  let h := hRch k p
  { k := k, p := p, cfg := w (h + 0x40), wparam := w (h + 0x44), out := w (h + 0x48), w4C := w (h + 0x4C), astro := w (h + 0x50),
    skLo := w (h + 0x54), skHi := w (h + 0x58), pool := w (h + 0x5C) }

def RSet.en (r : RSet) : Bool := bitAt r.cfg 0
def RSet.nlog (r : RSet) : Nat := bits r.cfg 8 4
def RSet.ovl (r : RSet) : Nat := bits r.cfg 11 9
def RSet.taps (r : RSet) : Nat := 2 ^ bits r.cfg 15 14
def RSet.win (r : RSet) : Nat := bits r.cfg 18 16
def RSet.ubank (r : RSet) : Nat := bits r.cfg 19 19
def RSet.norm (r : RSet) : Nat := bits r.cfg 21 20
def RSet.n (r : RSet) : Nat := 2 ^ r.nlog
def RSet.hop (r : RSet) : Nat := r.n / 2 ^ r.ovl
def RSet.span (r : RSet) : Nat := r.taps * r.n
def RSet.fmt (r : RSet) : Nat := bits r.out 27 26
def RSet.eddy (r : RSet) : Nat := bits r.out 23 16
def RSet.dbOff (r : RSet) : Int := sext 16 r.out
def RSet.expEn (r : RSet) : Bool := bitAt r.w4C 16
def RSet.expDiv (r : RSet) : Nat := bits r.w4C 15 0
/-- Frames per product F. -/
def RSet.f (r : RSet) : Nat := bits r.w4C 23 0 + 1
def RSet.xpEn (r : RSet) : Bool := bitAt r.astro 0
def RSet.skEn (r : RSet) : Bool := r.k == 1 && bitAt r.astro 1
def RSet.excise (r : RSet) : Bool := bitAt r.astro 2
def RSet.mSk (r : RSet) : Nat := 2 ^ bits r.astro 11 8
/-- Mantissa fraction bits Fb (R114). -/
def RSet.fb (r : RSet) : Nat := if r.k = 2 then 23 else 17

/-- The working settings. -/
def State.rset (s : State) (k p : Nat) : RSet := Sys2Proof.Machine.rset k p s.wordN

/-- The settings that the frames of a grid began with. -/
def Grid.set (k p : Nat) (g : Grid) : RSet := Sys2Proof.Machine.rset k p (fun o => Tbl.get 0 g.cfg o)

/-- The words that a grid remembers. -/
def gridWords (s : State) (k p : Nat) : Tbl Nat :=
  (upFrom 16 8).map (fun i => (hRch k p + 4 * i, s.wordN (hRch k p + 4 * i)))

/-- Output bins of a frame: K of R123. -/
def binsOf (r : RSet) (cplx : Bool) : Nat := if cplx then r.n else r.n / 2

/-- User coefficient `j` of a bank, signed Q2.16 (R121, R151). -/
def State.userCoef (s : State) (p b j : Nat) : Int := sext 18 (Tbl.get 0 s.rch.utab ((2 * p + b) * 32768 + j))

/-- The quantised window of a setting. -/
def State.window (s : State) (r : RSet) : List Int := winList (s.userCoef r.p r.ubank) r.win r.wparam r.span

/-- A new grid at an origin. -/
def newGrid (s : State) (k p : Nat) (origin : Nat) (epoch : Bool) : Grid :=
  { cfg := gridWords s k p, fmt := (s.portSt p).fmt, bond := s.bonded p, origin := origin,
    origin2 := s.released (p + 1), next := 0, stop := none, cut := none, cut2 := none, epoch := epoch, cuts := [] }

/-- Words from point 0 to point `n` on the grid's (even) port. -/
def Grid.wordOff (g : Grid) (n : Nat) : Nat := if g.bond then n / 2 else n * wpp g.fmt

/-- Points released since the grid's origin. -/
def Grid.points (s : State) (p : Nat) (g : Grid) : Nat :=
  if g.bond then 2 * min (s.released p - g.origin) (s.released (p + 1) - g.origin2) else (s.released p - g.origin) / wpp g.fmt

/-- Frames of the grid that have begun: frame k begins when point kH is released. -/
def Grid.begun (s : State) (k p : Nat) (g : Grid) : Nat := cdiv (g.points s p) (g.set k p).hop

/-- First word of the next short-reach frame of a port (R177, R227); the next word when the short reach does not run. -/
def nextFrameWord (s : State) (p : Nat) : Nat :=
  match (s.reach 0 p).grids.getLast? with
  | some g => if g.stop.isNone then g.origin + g.wordOff (Grid.begun s 0 p g * (Grid.set 0 p g).hop) else s.released p
  | none => s.released p

/-- Is a short-reach frame that began before word `w` still to complete? -/
def State.flyingBefore (s : State) (p w : Nat) : Bool :=
  (s.reach 0 p).grids.any (fun g => decide (g.next < g.stop.getD (g.begun s 0 p)) && decide (g.origin + g.wordOff (g.next * (g.set 0 p).hop) < w))

/-- The sample components of points `n` to `n + m - 1` of a grid, each word before the grid's end taken through `rd` (port, RWN), in the order the
window takes them, with the OR of their PSW bits and whether any was present. -/
def gridInputBy (rd : Nat → Nat → Smp → Smp) (s : State) (p : Nat) (g : Grid) (n m : Nat) : List Int × Nat × Bool :=
  let words (q r k lim : Nat) : List Smp :=
    ((s.wordsFrom q r k lim).zip (upFrom r k)).map (fun e => if e.2 < lim then rd q e.2 e.1 else e.1)
  let lim := g.cut.getD (s.released p)
  let ws :=
    if g.bond then
      let o := n % 2
      let a := words p (g.origin + n / 2) (cdiv (m + o) 2) lim
      let b := words (p + 1) (g.origin2 + n / 2) (cdiv (m + o) 2) (g.cut2.getD (s.released (p + 1)))
      (((a.zip b).flatMap (fun x => [x.1, x.2])).drop o).take m
    else words p (g.origin + g.wordOff n) (g.wordOff m) lim
  (ws.map Smp.v, ws.foldl (fun a x => a ||| x.psw) 0, ws.any (fun x => (x.psw &&& pswGap) == 0))

/-- What a reach that takes its points as they are released uses of a frame. -/
def gridInput (s : State) (p : Nat) (g : Grid) (n m : Nat) : List Int × Nat × Bool := gridInputBy (fun _ _ x => x) s p g n m

/-- DT of point `n` of a grid. -/
def gridDt (s : State) (p : Nat) (g : Grid) (n : Nat) : Nat :=
  let lim := g.cut.getD (s.released p)
  if g.bond && n % 2 == 1 then s.wordDt (p + 1) g.fmt (g.origin2 + n / 2) (g.cut2.getD (s.released (p + 1)))
  else s.wordDt p g.fmt (g.origin + g.wordOff n) lim

/-- Windowed and pre-summed inputs times 2^31 (R119): `c` components a point. -/
def presum (c taps n : Nat) (wq x : List Int) : List Int :=
  let wx := List.zipWith (· * ·) (wq.flatMap (fun w => List.replicate c w)) x
  (List.range taps).foldl (fun acc t => List.zipWith (· + ·) acc ((wx.drop (t * n * c)).take (n * c))) (List.replicate (n * c) 0)

/-- The frame of a short or mid reach whose first point is point `n` of a grid, transformed (R119 to R128). -/
def computeFrame (s : State) (r : RSet) (g : Grid) (n : Nat) : Frame × Bool :=
  let inp := gridInput s r.p g n r.span
  let wq := s.window r
  let cplx := fmtCplx g.fmt && !g.bond
  let y := presum (if cplx then 2 else 1) r.taps r.n wq inp.1
  let b := transform r.fb r.nlog (inputExp r.taps (winMax wq)) cplx y
  ({ bins := b.groups.flatten, exp := b.exp - r.fb, psw := pswMake (inp.2.1 ||| (if b.sat then pswSat else 0)) inp.2.2,
     dtFirst := gridDt s r.p g n, dtLast := gridDt s r.p g (n + r.span - 1) }, b.sat)

/-- The frame held in place of one that has a point taken under calibration (R18, R144); `last` is the one it repeats.  DESIGN CHOICE (log entry 73): the held
frame carries the bits 1 to 10 of the frame it repeats beside its own. -/
def heldFrame (r : RSet) (cplx : Bool) (last : Option Frame) (f : Frame) : Frame :=
  match last with
  | some l => { f with bins := l.bins, exp := l.exp, psw := (f.psw ||| (l.psw &&& pswOrMask) ||| pswStale) }
  | none => { f with bins := List.replicate (binsOf r cplx) (0, 0), exp := 0, psw := (f.psw &&& pswOrMask) ||| pswStale }

/-- G of R129. -/
def gainOf (s : State) (r : RSet) : Dy :=
  let wq := s.window r
  normG r.norm (winSum wq) (winSq wq)

/-- Power words and dB codes of a frame; does a code clamp at the top (R129, R130)? -/
def powerDb (s : State) (r : RSet) (f : Frame) : List Nat × List Int × Bool :=
  let g := gainOf s r
  let pw := f.bins.map (powerWord g f.exp)
  let dc := pw.map (dbCode r.dbOff)
  (pw, dc.map Prod.fst, dc.any Prod.snd)

/-! Values of a reach in memory (R137, R141, R259). -/

/-- What a fixed-function unit reads back of bytes that it stored: 0 in place of a poisoned word. -/
def State.maskBytes (s : State) (a : Nat) (bs : List Byte) : List Byte :=
  (bs.zip (List.range bs.length)).map (fun e => if s.wordPoisoned ((a + e.2) / 8 * 8) then 0 else e.1)

/-- What it reads back of sums of `w` bytes each. -/
def State.maskDy (s : State) (a w : Nat) (l : List Dy) : List Dy :=
  (l.zip (List.range l.length)).map (fun e => if s.poisoned (a + w * e.2) w then Dy.zero else e.1)

/-- Binary64 and binary32 sums as bytes. -/
def bytes64 (l : List Dy) : List Byte := l.flatMap (fun v => leBytes 8 (f64Bits v))
def bytes32 (l : List Dy) : List Byte := l.flatMap (fun v => leBytes 4 (f32OfDy v))

/-- Set POISON in a PSW, which clears VALID (R16, R259). -/
def pswPoisoned (b : Bool) (psw : Nat) : Nat := if b then pswMake (psw ||| pswPoison) false else psw

/-! Segments. -/

/-- Three bytes of a component (R129). -/
def cxBytes (z : Cx) : List Byte := leBytes 3 (enc 24 z.1) ++ leBytes 3 (enc 24 z.2)

/-- One product to be cut into segments: kind bits, format bits, per-bin payload, RFI map, counts, and the descriptor's values. -/
structure Prod where
  kind : Nat
  fmt : Nat
  bins : List (List Byte)
  rfi : List Bool
  cnts : List Nat
  dtFirst : Nat
  dtLast : Nat
  psw : Nat
  exp : Int
  frames : Nat
  normG : Nat
  xpResid : Int
  deriving DecidableEq, Repr

/-- A bit map in bytes, padded to a multiple of 8 bytes (R133). -/
def mapBytes (l : List Bool) : List Byte :=
  let v := (l.zip (List.range l.length)).foldl (fun a e => if e.1 then a + 2 ^ e.2 else a) 0
  leBytes (cdiv l.length 64 * 8) v

/-- The segment descriptor of R133 with its payload. -/
def segBytes (r : RSet) (dec seq idx cnt first : Nat) (d : Prod) (bins : List (List Byte)) (rfi : List Bool) (cnts : List Nat) : List Byte :=
  leBytes 4 seq ++ leBytes 2 idx ++ leBytes 2 cnt ++ leBytes 4 first ++ leBytes 2 bins.length ++ leBytes 1 d.kind ++
  leBytes 1 (d.fmt + (if d.rfi.isEmpty then 0 else 4) + (if d.cnts.isEmpty then 0 else 8)) ++ dtBytes d.dtFirst ++ dtBytes d.dtLast ++
  leBytes 2 d.psw ++ leBytes 2 (enc 16 d.exp) ++ leBytes 4 d.frames ++ leBytes 1 r.nlog ++ leBytes 1 r.ovl ++ leBytes 1 r.win ++
  leBytes 1 dec ++ leBytes 4 d.normG ++ leBytes 4 (enc 32 d.xpResid) ++ leBytes 4 0 ++
  bins.flatten ++ (if d.rfi.isEmpty then [] else mapBytes rfi) ++ (if d.cnts.isEmpty then [] else cnts.flatMap (leBytes 4))

/-- Cut a product into segments (R132) and queue them at the reach, each due for the buffer after the last one's of the pair that the product's settings name. -/
def emitProduct (r : RSet) (dec : Nat) (d : Prod) (s : State) : State :=
  let x := s.reach r.k r.p
  let alt := Tbl.get false x.alt r.eddy
  let per := if d.fmt = 3 || !d.cnts.isEmpty then 2048 else 4096
  let n := cdiv d.bins.length per
  let segs := (List.range n).map (fun i =>
    { buf := r.eddy + (if alt then 1 - i % 2 else i % 2)
      bytes := segBytes r dec x.prodSeq i n (i * per) { d with psw := d.psw ||| s.memDeg } ((d.bins.drop (i * per)).take per) ((d.rfi.drop (i * per)).take per)
        ((d.cnts.drop (i * per)).take per) : Seg })
  s.setReach r.k r.p { x with prodSeq := (x.prodSeq + 1) % 2 ^ 32, segs := x.segs ++ segs, alt := Tbl.set x.alt r.eddy (xor alt (n % 2 == 1)) }

/-- KIND of the descriptor: reach, port, bonded (R133). -/
def kindByte (kd p : Nat) (bond : Bool) : Nat := kd + 4 * p + (if bond then 16 else 0)

/-- Payload of a frame's bins in a format (R129). -/
def binPayload (fmt : Nat) (f : Frame) (pw : List Nat) (dc : List Int) : List (List Byte) :=
  if fmt = 0 then f.bins.map cxBytes else if fmt = 1 then pw.map (leBytes 4) else dc.map (fun c => leBytes 2 (enc 16 c))

/-- Set a buffer's FULL flag (R276). -/
def setFull (n : Nat) (s : State) : State := s.setW1c (R.EDDY_FULL (n / 32)) (2 ^ (n % 32))

/-- Is the buffer full? -/
def State.full (s : State) (n : Nat) : Bool := bitAt (s.wordN (R.EDDY_FULL (n / 32))) (n % 32)

/-- Port A stores a segment; its last word is the one stored in this cycle, and a port-B write to it in this cycle loses (R278). -/
def eddyStoreA (a : Nat) (bs : List Byte) (s : State) : State :=
  let w := (a + bs.length - 1) / 8 * 8
  let s1 := { s with mem := memPut s.mem a bs, rsv := { s.rsv with eddyA := some (s.fclk, w, s.memRead w 8) } }
  if s.rsv.eddyB == some (s.fclk, w) then raise hEddy 0 (s1.bump64 R.EDDY_WCOL 1) else s1

/-- The reach finishes its oldest segment: it is stored in the buffer due for it, or discarded (R132, R134). -/
def storeSegment (k p : Nat) (s : State) : State :=
  let x := s.reach k p
  match x.segs with
  | [] => s
  | sg :: rest =>
    let s1 := s.setReach k p { x with segs := rest }
    if s.full sg.buf then raise (hRch k p) 2 (s1.bump64 (R.XRH_DROP k p) 1)
    else setFull sg.buf (eddyStoreA (eddyBase + sg.buf * 0x8000) sg.bytes s1)

end Sys2Proof.Machine
end

