-- ==== Sys2Proof/Machine/Rsv.lean ====
section
/-! DEFINITION. Reservoir, Pool and Eddy buffers (spec/09): rank controllers, refresh, error correction, retirement, handover, FULL flags. -/

namespace Sys2Proof.Machine

/-! Ranks (R248, R262 to R268). -/

def rkSpare : Nat := 0
def rkInService : Nat := 1
def rkSrc : Nat := 2
def rkDst : Nat := 3
def rkRetired : Nat := 4
def rkDead : Nat := 5
def rkPend : Nat := 6
def State.rank (s : State) (r : Nat) : Nat := s.fld (R.RSV_RANK_STATUS_STATE r)

/-- The requests that wait at a rank's controller. -/
def State.waits (s : State) (r : Nat) : List WaitReq := Tbl.get [] s.rsv.waits r

/-- Chunks of 2 KiB in a rank. -/
def rankChunks : Nat := 393216

/-- SPARES_LEFT counts the ranks in SPARE. -/
def sparesLeft (s : State) : Nat := (List.filter (fun r => s.rank r == rkSpare) (List.range 128)).length

/-- Put a rank into a state. -/
def rankTo (r st : Nat) (s : State) : State :=
  let t := s.setFld (R.RSV_RANK_STATUS_STATE r) st
  t.setFld R.RSV_STATUS_SPARES_LEFT (sparesLeft t)

/-- MEM_DEG follows L and the dead ranks (R270). -/
def memDegUpdate (s : State) : State :=
  let b := decide (s.lRanks < 124) || (List.range 128).any fun r => s.rank r == rkDead
  putFault hRsv 0 b (s.setFlag R.RSV_STATUS_MEM_DEG b)

/-- The journal's entry of the retirement list and the map (R266, R268). -/
def journalRanks (s : State) : State :=
  let gone := List.filter (fun r => s.rank r == rkRetired || s.rank r == rkPend) (List.range 128)
  journal 6 0 (List.map Int.ofNat (gone.length :: (gone ++ List.map (fun l => s.fld (R.RSV_RANK_MAP_RANK l)) (List.range s.lRanks)))) s

/-- The spare for a rank: its own stack's, else that of the lowest-numbered stack that has one (R262). -/
def spareFor (s : State) (r : Nat) : Option Nat :=
  match List.find? (fun x => s.rank x == rkSpare) (upFrom (r / 32 * 32) 32) with
  | some x => some x
  | none => List.find? (fun x => s.rank x == rkSpare) (List.range 128)

/-- Record what a dead rank lost from chunk `first` on (R267, R268). -/
def loseRank (r first : Nat) (gone : Bool) (s : State) : State :=
  let x := { first := first, filled := [], gone := gone, healed := [], held := [] }
  { s with rsv := { s.rsv with lost := s.rsv.lost.set (s.fld (R.RSV_RANK_STATUS_LOGICAL r)) x } }

/-- Start the migration of a rank, or leave it without a spare (R262, R264, R267, R268). -/
def startMig (r : Nat) (s : State) : State :=
  let dead := s.rank r == rkDead
  match spareFor s r with
  | none => if dead then loseRank r 0 true s else journalRanks (raise hRsv 5 (rankTo r rkPend s))
  | some d =>
    let s1 := rankTo d rkDst (if dead then s else rankTo r rkSrc s)
    let s2 := { s1 with rsv := { s1.rsv with mig := some { src := r, dst := d, copied := dead } } }
    raise hRsv 3 (((s2.setFlag R.RSV_STATUS_MIGRATING true).setWord R.RSV_MIG_PROG 0).setWord R.RSV_MIG_PAIR (r + 256 * d))

/-- While no migration runs, up to `n` ranks that wait for theirs are taken in order: one that finds no spare is left without, and the next follows (R263, R268). -/
def takeDue : Nat → State → State
  | 0, s => s
  | n + 1, s =>
    match s.rsv.mig, s.rsv.due with
    | none, r :: rest =>
      takeDue n
        (startMig r
          { s with rsv := { s.rsv with due := rest } })
    | _, _ => s

/-- The next rank that waits for its migration starts (R263). -/
def nextMig (s : State) : State := takeDue s.rsv.due.length s

/-- A rank in service falls due (R262, R263). -/
def fallDue (r : Nat) (s : State) : State :=
  if s.rsv.due.contains r || !(s.rank r == rkInService || s.rank r == rkPend) then s
  else
    let s1 := addLog hRsv 4 3 2 r 0 (raise hRsv 2 s)
    nextMig
      { s1 with rsv := { s1.rsv with due := s1.rsv.due ++ [r] } }

/-- A rank fails outright (R267, R268); a failed spare of a running migration ends it, and its source falls due again (log entry 16). -/
def rankDead (r : Nat) (s : State) : State :=
  if s.rank r = rkDead then s
  else
    let was := s.rank r
    let s1 := memDegUpdate (addLog hRsv 4 3 3 r 0 (raise hRsv 6 (rankTo r rkDead s)))
    if was = rkSrc then
      let k := s1.takeFree (rankChunks + 1)
      let done :=
        match s.rsv.mig with
        | some m => m.copied
        | none => false
      let s2 := if done then s1 else loseRank r k.1 false k.2
      { s2 with rsv := { s2.rsv with mig := Option.map (fun m => { m with copied := true }) s2.rsv.mig } }
    else
      if was = rkInService ∨ was = rkPend then
        let s2 := loseRank r 0 (spareFor s1 r).isNone s1
        if (spareFor s1 r).isSome then
          nextMig
            { s2 with rsv := { s2.rsv with due := List.filter (fun x => x != r) s2.rsv.due ++ [r] } }
        else
          { s2 with rsv := { s2.rsv with due := List.filter (fun x => x != r) s2.rsv.due } }
      else
        if was = rkDst then
          match s.rsv.mig with
          | none => s1
          | some m =>
            let back := if s1.rank m.src = rkDead then s1 else rankTo m.src rkInService s1
            nextMig
              ({ back.setFlag R.RSV_STATUS_MIGRATING false with rsv := { back.rsv with mig := none, window := false, due := m.src :: back.rsv.due } })
        else s1

/-- The last chunk has been copied (R264). -/
def migCopyDone (s : State) : State :=
  match s.rsv.mig with
  | some m =>
    if m.copied then s
    else
      { s.setWord R.RSV_MIG_PROG rankChunks with rsv := { s.rsv with mig := some { m with copied := true } } }
  | none => s

/-- The switch-over window begins (R265). -/
def switchStart (s : State) : State :=
  match s.rsv.mig with
  | some m =>
    if m.copied then
      { s with rsv := { s.rsv with window := true } }
    else s
  | none => s

/-- The requests held at the source wait at the spare from now on, in their order (R265). -/
def moveWaits (src dst : Nat) (s : State) : Tbl (List WaitReq) :=
  if (s.waits src).isEmpty then s.rsv.waits else Tbl.del (Tbl.set s.rsv.waits dst (s.waits src ++ s.waits dst)) src

/-- The window ends: the logical rank points at the spare (R265, R266). -/
def switchEnd (s : State) : State :=
  match s.rsv.mig with
  | some m =>
    if !s.rsv.window then s
    else
      let l := s.fld (R.RSV_RANK_STATUS_LOGICAL m.src)
      let s1 := (rankTo m.dst rkInService (rankTo m.src rkRetired s)).setFld (R.RSV_RANK_MAP_RANK l) m.dst
      let s2 := (s1.setFld (R.RSV_RANK_STATUS_LOGICAL m.src) 127).setFld (R.RSV_RANK_STATUS_LOGICAL m.dst) l
      let s3 := { s2.setFlag R.RSV_STATUS_MIGRATING false with rsv := { s2.rsv with mig := none, window := false, waits := moveWaits m.src m.dst s2 } }
      nextMig (journalRanks (raise hRsv 4 (memDegUpdate s3)))
  | none => s

/-- Is the device address in a logical rank's switch-over window (R265)? -/
def State.inWindow (s : State) (a : Nat) : Bool :=
  s.rsv.window && s.inReservoir a &&
    match s.rsv.mig with
    | some m => s.fld (R.RSV_RANK_STATUS_LOGICAL m.src) == (s.rankOf a).1
    | none => false

/-- A chunk of the spare has been filled with poison, which begins when the logical rank has switched over from the dead rank; the writes held for it follow, and
a word that one of them covered in full is good (R259, R267). -/
def poisonFillDone (chunk : Nat) (s : State) : State :=
  let mayFill (e : Nat × Lost) : Bool :=
    !e.2.gone && decide (e.2.first ≤ chunk) && !e.2.filled.contains chunk && s.rank (s.fld (R.RSV_RANK_MAP_RANK e.1)) != rkDead
  match List.find? mayFill s.rsv.lost with
  | none => s
  | some (l, x) =>
    let mine := List.filter (fun e => (s.rankOf e.1).2 / 2048 == chunk) x.held
    let x1 := { x with filled := chunk :: x.filled, held := List.filter (fun e => (s.rankOf e.1).2 / 2048 != chunk) x.held }
    let s1 := { s with mem := List.foldl (fun m e => memSet m e.1 e.2.1) s.mem mine, rsv := { s.rsv with lost := s.rsv.lost.set l x1 } }
    List.foldl (fun s w => lostHeal w s) s1 (nubNat (List.map (fun e => e.1 / 8 * 8) (List.filter (fun e => e.2.2) mine)))

/-- Is a rank due by its error counts (R262)?  One in service, with AUTO: its corrected reads in the window reach CE_LIMIT, or with UE_RETIRE it has had a new uncorrectable error. -/
def errorsDue (s : State) (r : Nat) : Bool :=
  s.flag R.RSV_RETIRE_CFG_AUTO && s.rank r == rkInService &&
    (decide (0 < s.wordN (R.RSV_RANK_CEWIN r)) && decide (s.fld R.RSV_RETIRE_CFG_CE_LIMIT ≤ s.wordN (R.RSV_RANK_CEWIN r)) ||
      s.flag R.RSV_RETIRE_CFG_UE_RETIRE && s.pair (R.RSV_RANK_UE r) != 0)

/-- A rank whose error counts make it due falls due. -/
def dueByErrors (r : Nat) (s : State) : State := if errorsDue s r then fallDue r s else s

/-- After a write of RSV_RETIRE_CFG, every rank is judged anew, in rising order. -/
def retireCfgWritten (s : State) : State := (List.range 128).foldl (fun s r => dueByErrors r s) s

/-- A corrected read of a physical rank (R258, R262). -/
def ceRank (r : Nat) (s : State) : State := dueByErrors r (raise hRsv 0 ((s.bump64 (R.RSV_RANK_CE r) 1).bumpSat (R.RSV_RANK_CEWIN r) 1))

/-- A new uncorrectable word: poisoned, counted, logged (R259, R262). -/
def newUe (a : Nat) (s : State) : State :=
  let w := a / 8 * 8
  if s.wordPoisoned w then s
  else
    let s0 := { s with poison := w :: s.poison }
    let s1 :=
      match s.lostAt w with
      | some (l, x) =>
        { s0 with rsv := { s0.rsv with lost := s0.rsv.lost.set l { x with healed := List.filter (fun x => x != w) x.healed } } }
      | none => s0
    if s.inReservoir a then
      let r := s.fld (R.RSV_RANK_MAP_RANK (s.rankOf a).1)
      let s2 :=
        addLog hRsv 4 3 1 (w % 2 ^ 32) (w / 2 ^ 32)
          (raise hRsv 1 (((s1.bump64 (R.RSV_RANK_UE r) 1).setWord R.RSV_UE_ADDR_LO (w % 2 ^ 32)).setWord R.RSV_UE_ADDR_HI (w / 2 ^ 32)))
      dueByErrors r s2
    else addLog hPool 4 3 1 (w % 2 ^ 32) (w / 2 ^ 32) (raise hPool 1 ((s1.bump64 R.POOL_UE 1).setWord R.POOL_UE_ADDR ((w - poolBase) % 2 ^ 32)))

/-- What error correction finds when a word of the Reservoir or of the Pool is read; the Eddy buffers and the views have none. -/
def eccRead (a : Nat) (e : Ecc) (s : State) : State :=
  let pool := inPool a
  if !(pool || s.inReservoir a) then s
  else
    match e with
    | .good => s
    | .corrected =>
      if s.wordPoisoned (a / 8 * 8) then s
      else if pool then raise hPool 0 (s.bump64 R.POOL_CE 1) else ceRank (s.fld (R.RSV_RANK_MAP_RANK (s.rankOf a).1)) s
    | .uncorrectable => newUe a s

/-- What error correction finds in the words of an access; those without an outcome are good. -/
def eccWords (ws : List Nat) (es : List Ecc) (s : State) : State := (ws.zip es).foldl (fun s e => eccRead e.1 e.2 s) s

/-- Number of a consumer in round robin. -/
def conNum : Consumer → Nat
  | .ring p => ↑p
  | .deep p => 4 + ↑p
  | .stream => 8
  | .backwater => 9
  | .migration => 10
  | .riffle c => 16 + ↑c
  | .millrace ch => 80 + ↑ch
  | .display => 112
  | .bar2 => 113
  | .scrub => 114
  | .writer id => 128 + id

/-- Reservation of a consumer in 0.1 GB/s; none for a best-effort one (R254). -/
def reservation (s : State) : Consumer → Option Nat
  | .ring p => some (s.wordN (R.RSV_RES_RING ↑p))
  | .deep p => some (s.wordN (R.RSV_RES_DR ↑p))
  | .stream => some (s.wordN R.RSV_RES_STREAM)
  | .backwater => some (s.wordN R.RSV_RES_BWATER)
  | .migration => some (s.wordN R.RSV_RES_MIG)
  | _ => none

/-- Credit in eighths of a byte: a reservation of r × 0.1 GB/s earns r of them in each FCLK cycle, up to 2 µs of it. -/
def credit (s : State) (c : Consumer) : Nat :=
  match reservation s c with
  | none => 0
  | some r =>
    let x := Tbl.get (0, 0) s.rsv.credit (conNum c)
    min (1600 * r) (x.1 + r * (s.fclk - x.2))

def hasCredit (s : State) (q : MemReq) : Bool := (reservation s q.who).isSome && decide (8 * q.len ≤ credit s q.who)
/-- The first request whose consumer comes next after `last` in round robin. -/
def roundRobin (last : Nat) (l : List WaitReq) : Option WaitReq :=
  let better := fun a b =>
    let x := conNum a.req.who
    let y := conNum b.req.who
    if decide (last < x) == decide (last < y) then decide (x < y) else decide (last < x)
  List.foldl
    (fun m w =>
      match m with
      | none => some w
      | some b => if better w b then some w else m)
    none l

/-- The oldest request. -/
def oldest (l : List WaitReq) : Option WaitReq :=
  List.foldl
    (fun m w =>
      match m with
      | none => some w
      | some b => if w.since < b.since then some w else m)
    none l

/-- The PRIO of a Millrace channel's request (R325). -/
def prioOf (s : State) : Consumer → Option Nat
  | .millrace ch => some (s.fld (R.MLR_CFG_PRIO ↑ch))
  | _ => none

/-- Requests in the priority order of their chapter (R255): a Millrace channel's stands back behind that of a channel with a higher PRIO (R325); no other chapter gives
an order. -/
def byPriority (s : State) (l : List WaitReq) : List WaitReq :=
  l.filter fun w =>
    match prioOf s w.req.who with
    | none => true
    | some k => !l.any fun x => decide (k < (prioOf s x.req.who).getD 0)

/-- Which request a rank controller grants next, and whether it is in the reserved class (R255). -/
def grant (s : State) (r : Nat) : Option (WaitReq × Bool) :=
  let l := s.waits r
  match roundRobin (Tbl.get 10 s.rsv.last (2 * r)) (List.filter (fun w => hasCredit s w.req) l) with
  | some w => some (w, true)
  | none =>
    match oldest (List.filter WaitReq.urgent l) with
    | some w => some (w, false)
    | none => Option.map (fun w => (w, false)) (roundRobin (Tbl.get 0 s.rsv.last (2 * r + 1)) (byPriority s l))

/-- A place in a rank (R250): bank, row and column, and the page policy of the address's region. -/
structure RankCell where
  bank : Nat
  row : Nat
  col : Nat
  page : Nat
  deriving DecidableEq, Repr

/-- Bank, row and column of an in-rank address in orders 0 and 1. -/
def locCell (order loc page : Nat) : RankCell :=
  if order = 1 then { bank := loc / 256 % 16, row := loc / 16384, col := loc % 256 + 256 * (loc / 4096 % 4), page := page }
  else { bank := loc / 1024 % 16, row := loc / 16384, col := loc % 1024, page := page }

/-- The same in order 2, for byte `a` of a region with its first byte at `base`: 24 pieces of one row each, piece and bank by the tile, so that a tile takes two rows of
banks 0 to 7 and one of banks 8 to 15; the tiles that share a rank are stacked upwards from the row of the base, two rows for each (log entry 32). -/
def tileCell (l base a page : Nat) : RankCell :=
  let k := a % 24576 / 1024
  { bank := k % 16, row := base / 2048 / l * 2048 / 16384 + 2 * (a / 24576 / l) + k / 16, col := a % 1024, page := page }

/-- Where a Reservoir address lies in its rank. -/
def State.cellOf (s : State) (a : Nat) : RankCell :=
  match s.regionAt a with
  | none => locCell 0 (s.rankOf a).2 0
  | some n =>
    let page := s.fld (R.RSV_REG_CFG_PAGE n)
    let base := s.wordN (R.RSV_REG_BASE n) * 2 ^ 20
    if s.fld (R.RSV_REG_CFG_ORDER n) = 2 then tileCell s.lRanks base (a - base) page else locCell (s.fld (R.RSV_REG_CFG_ORDER n)) (s.rankOf a).2 page

/-- A bank after an access (R251): its predictor, and its row kept open while requests wait for it or by predictor and PAGE. -/
def bankAccess (b : RowBank) (c : RankCell) (busy : Bool) : RowBank :=
  let hit := b.opn && b.row == some c.row
  let miss := b.row.isSome && b.row != some c.row
  let pred := if hit then min 3 (b.pred + 1) else if miss then b.pred - 1 else b.pred
  { pred := pred, row := some c.row, col := c.col, opn := busy || if c.page = 1 then true else if c.page = 2 then false else decide (2 ≤ pred) }

/-- The requests that arrive for a rank and wait: those of its logical rank; a core's or a Millrace channel's faults in the switch-over window instead (R265). -/
def arrivals (s : State) (r : Nat) (l : List MemReq) : List WaitReq :=
  List.map (fun q => { req := q, since := s.fclk, urgent := false })
    (List.filter
      (fun q =>
        s.inReservoir q.addr && s.fld (R.RSV_RANK_MAP_RANK (s.rankOf q.addr).1) == r &&
          !(s.inWindow q.addr &&
              match q.who with
              | .riffle _ => true
              | .millrace _ => true
              | _ => false))
      l)

/-- Serve one request: what it reads is corrected or poisoned, what it writes is stored; a word that it writes in part is read first. -/
def serve (q : MemReq) (s : State) : State :=
  match q.data with
  | none => eccWords (touchedWords q.addr q.len) q.ecc s
  | some bs => (eccWords (partWords q.addr bs.length) q.ecc s).memWrite q.addr bs

/-- Owner ID with which a requester writes the Pool (R271); those without one never write it. -/
def consumerOwner : Consumer → Option Nat
  | .riffle c => some (0x1A10 + ↑c)
  | .millrace ch => some (0x1C20 + ↑ch)
  | .bar2 => some (ownerId hHost)
  | .writer id => some id
  | _ => none

/-- A request to the Pool, which has no rank controller: served at once, a write only if the bank is its requester's (R271, R275). -/
def poolServe (q : MemReq) (s : State) : State :=
  match q.data with
  | none => serve q s
  | some bs =>
    match consumerOwner q.who with
    | some id => if s.poolWritable id q.addr bs.length then serve q s else s
    | none => s

/-- The requests of `l` that name Pool words. -/
def poolReqs (l : List MemReq) : List MemReq := l.filter fun q => inPool q.addr && inPool (q.addr + (match q.data with | some bs => bs.length | none => q.len) - 1)

/-- One cycle of a rank controller (R255, R258, R259): requests arrive, and one is granted outside refresh and switch-over windows. -/
def rankCycle (r : Nat) (arrived : List MemReq) (s0 : State) : State :=
  let s := { s0 with rsv := { s0.rsv with waits := s0.rsv.waits.set r (s0.waits r ++ arrivals s0 r arrived) } }
  let win :=
    s.rsv.window &&
      match s.rsv.mig with
      | some m => m.src == r || m.dst == r
      | none => false
  if decide (s.fclk < s.rsv.refreshEnd) || win then s
  else
    match grant s r with
    | none => s
    | some (w, res) =>
      let q := w.req
      let rest := (s.waits r).erase w
      let cr := if res then s.rsv.credit.set (conNum q.who) (credit s q.who - 8 * q.len, s.fclk) else s.rsv.credit
      let c := s.cellOf q.addr
      let busy := rest.any fun x => (s.cellOf x.req.addr).bank == c.bank
      let s1 := { s with rsv := { s.rsv with waits := s.rsv.waits.set r (List.map (fun x => if w.urgent && x.req.who == q.who then { x with urgent := false } else x) rest), last := s.rsv.last.set (if res then 2 * r else 2 * r + 1) (conNum q.who), credit := cr, bank := Tbl.upd RowBank.init s.rsv.bank (16 * r + c.bank) fun b => bankAccess b c busy } }
      let s2 := serve q s1
      if q.data.isNone then addLatency (if res then 1 else 2) (r / 32) (s.fclk - w.since) s2 else s2

/-- One cycle of a rank controller, and what reaches the Pool in it. -/
def rsvRequest (r : Nat) (arrived : List MemReq) (s : State) : State := (poolReqs arrived).foldl (fun s q => poolServe q s) (rankCycle r arrived s)

/-- The requests of a requester that wait in the best-effort class of a rank become urgent (R256), and a Millrace channel at its engine (R325); those of a consumer with a
reservation wait there for want of credit (R255, R343); scrub never ages. -/
def ageUrgent (r : Nat) (who : Consumer) (s : State) : State :=
  if who == .scrub then s
  else
    let s1 := { s with rsv := { s.rsv with waits := s.rsv.waits.set r (List.map (fun w => if w.req.who == who && !hasCredit s w.req then { w with urgent := true } else w) (s.waits r)) } }
    match who with
    | .millrace ch =>
      { s1 with mlr := { s1.mlr with ch := Tbl.upd MlrCh.init s1.mlr.ch ↑ch fun x => { x with urg := true } } }
    | _ => s1

/-- A refresh window begins: 280 FCLK cycles; every row closes (R251, R252). -/
def refreshWindow (s : State) : State := { s with rsv := { s.rsv with bank := List.map (fun e => (e.1, { e.2 with opn := false })) s.rsv.bank, refreshEnd := s.fclk + 280 } }
def stackHot (s : State) : State := if s.flag R.RSV_STATUS_HOT then s else raise hRsv 7 (s.setFlag R.RSV_STATUS_HOT true)
def stackCool (s : State) : State := if s.flag R.RSV_STATUS_HOT then raise hRsv 8 (s.setFlag R.RSV_STATUS_HOT false) else s

/-- A pass of scrub begins or ends (R260). -/
def scrubStart (pool : Bool) (s : State) : State :=
  if pool then
    { s with rsv := { s.rsv with scrubP := true } }
  else
    { s.setFlag R.RSV_STATUS_SCRUB_BUSY true with rsv := { s.rsv with scrubR := true } }

def scrubDone (pool : Bool) (s : State) : State :=
  if pool then
    if s.rsv.scrubP then
      raise hPool 3
        { s with rsv := { s.rsv with scrubP := false } }
    else s
  else
    if s.rsv.scrubR then
      raise hRsv 9
        ({ s.setFlag R.RSV_STATUS_SCRUB_BUSY false with rsv := { s.rsv with scrubR := false, scrubCmd := false } })
    else s

def retireCmd (s : State) : Code × State :=
  let r := s.wordN R.RSV_CMD_ARG
  if 127 < r then (.range, s)
  else
    if !(s.rank r == rkInService || s.rank r == rkPend) then (.state, s)
    else if s.rsv.mig.isSome then (.busy, s) else (.ok, fallDue r s)

def scrubCmd (s : State) : Code × State :=
  if s.rsv.scrubCmd then (.busy, s)
  else
    (.ok,
      let t := scrubStart false s
      { t with rsv := { t.rsv with scrubCmd := true } })

def poolFirst (s : State) : Nat := s.fld R.POOL_CMD_ARG_FIRST
def poolCount (s : State) : Nat := s.fld R.POOL_CMD_CNT_COUNTM1 + 1

/-- Does the range of a command lie below the log unit's banks (R274, R280)? -/
def poolRange (s : State) : Bool := decide (poolFirst s + poolCount s ≤ 1264)

/-- Owners whose banks RELEASE frees: cores, Millrace channels, the host port. -/
def releasable (id : Nat) : Bool := decide (6672 ≤ id) && decide (id < 6736) || decide (7200 ≤ id) && decide (id < 7232) || id == ownerId hHost
def setBanks (f n st : Nat) (s : State) : State := List.foldl (fun s b => s.setFld (R.POOL_OWNER_STATE b) st) s (upFrom f n)

def handoverCmd (s : State) : Code × State :=
  let f := poolFirst s
  let n := poolCount s
  let own := s.fld R.POOL_CMD_ARG_OWNER
  if !poolRange s || own == 0 then (.range, s)
  else
    if !(upFrom f n).all fun b => s.fld (R.POOL_OWNER_STATE b) == 2 then (.state, s)
    else
      let s1 := List.foldl (fun s b => s.setFld (R.POOL_OWNER_OWNER b) own) s (upFrom f n)
      if s.flag R.POOL_CMD_ARG_CLEAR then
        (.ok,
          { setBanks f n 3 s1 with rsv := { s1.rsv with clearing := s1.rsv.clearing ++ [(f, n)] } })
      else (.ok, raise hPool 2 (setBanks f n 1 s1))

def poolReleaseCmd (s : State) : Code × State :=
  let f := poolFirst s
  let n := poolCount s
  if !poolRange s then (.range, s)
  else
    if (!(upFrom f n).all fun b => s.fld (R.POOL_OWNER_STATE b) == 1 && releasable (s.fld (R.POOL_OWNER_OWNER b))) then (.state, s)
    else (.ok, setBanks f n 2 s)

/-- Zero a range of device memory. -/
def memZero (a n : Nat) (s : State) : State := { s with mem := List.filter (fun c => !(decide (a ≤ c.1) && decide (c.1 < a + n))) s.mem, poison := List.filter (fun w => !(decide (a ≤ w) && decide (w < a + n))) s.poison }

/-- The oldest clearing handover ends (R273). -/
def handoverClearDone (s : State) : State :=
  match s.rsv.clearing with
  | [] => s
  | (f, n) :: rest =>
    raise hPool 2
      (setBanks f n 1
        (memZero (poolBase + f * bankBytes) (n * bankBytes)
          { s with rsv := { s.rsv with clearing := rest } }))

/-- A W1C write of FULL flags in a cycle in which the producers set those of `produced`, which stay set (R5). -/
def eddyFullWrite (h v be produced : Nat) (s : State) : State :=
  (s.setWord (R.EDDY_FULL h) (s.w1c (R.EDDY_FULL h) (s.wordN (R.EDDY_FULL h)) (v &&& beMask be))).setW1c (R.EDDY_FULL h) produced

/-- A write through port B: its words that port A stores in the same FCLK cycle are discarded and counted. -/
def eddyWriteB (a : Nat) (bs : List Byte) (s : State) : State :=
  match s.rsv.eddyA with
  | some (c, w, _) =>
    if decide (c = s.fclk) && (touchedWords a bs.length).contains w then
      let keep := (bs.zip (upFrom a bs.length)).filter (fun e => e.2 / 8 * 8 != w)
      let s1 : State := { s with mem := keep.foldl (fun m e => memSet m e.2 e.1) s.mem }
      raise hEddy 0 (s1.bump64 R.EDDY_WCOL 1)
    else
      { s with mem := memPut s.mem a bs, rsv := { s.rsv with eddyB := some (s.fclk, a / 8 * 8) } }
  | none =>
    { s with mem := memPut s.mem a bs, rsv := { s.rsv with eddyB := some (s.fclk, a / 8 * 8) } }

/-- A read through port B: a word that port A stores in the same cycle reads as before. -/
def eddyReadB (s : State) (a n : Nat) : List Byte :=
  match s.rsv.eddyA with
  | some (c, w, old) =>
    if c = s.fclk then List.map (fun x => if x / 8 * 8 = w then old[x - w]?.getD 0 else memGet s.mem x) (upFrom a n) else s.memRead a n
  | none => s.memRead a n

/-- REFRESH_WINDOW (R252). -/
def execRefreshWindow (s : State) : Host.Outcome State Fault Refusal := Host.Outcome.next (refreshWindow s)

/-- STACK_TEMP_HOT (R253). -/
def execStackTempHot (_stack : Fin 4) (s : State) : Host.Outcome State Fault Refusal := Host.Outcome.next (stackHot s)

/-- STACK_COOL_END (R253). -/
def execStackCoolEnd (s : State) : Host.Outcome State Fault Refusal := Host.Outcome.next (stackCool s)

/-- RSV_REQUEST (R255, R258, R259). -/
def execRsvRequest (rank : Fin 128) (arrived : List MemReq) (s : State) : Host.Outcome State Fault Refusal :=
  Host.Outcome.next (rsvRequest (↑rank) arrived s)

/-- AGE_URGENT (R256). -/
def execAgeUrgent (rank : Fin 128) (who : Consumer) (s : State) : Host.Outcome State Fault Refusal := Host.Outcome.next (ageUrgent (↑rank) who s)

/-- CE_WINDOW_END (R262). -/
def execCeWindowEnd (rank : Fin 128) (s : State) : Host.Outcome State Fault Refusal := Host.Outcome.next (s.setWord (R.RSV_RANK_CEWIN ↑rank) 0)

/-- SCRUB_PERIOD_START (R260). -/
def execScrubPeriodStart (pool : Bool) (s : State) : Host.Outcome State Fault Refusal := Host.Outcome.next (scrubStart pool s)

/-- SCRUB_PASS_DONE (R260). -/
def execScrubPassDone (pool : Bool) (s : State) : Host.Outcome State Fault Refusal := Host.Outcome.next (scrubDone pool s)

/-- MIG_COPY_DONE (R264). -/
def execMigCopyDone (s : State) : Host.Outcome State Fault Refusal := Host.Outcome.next (migCopyDone s)

/-- SWITCHOVER_START (R265). -/
def execSwitchoverStart (s : State) : Host.Outcome State Fault Refusal := Host.Outcome.next (switchStart s)

/-- RANK_DEAD (R267, R268). -/
def execRankDead (rank : Fin 128) (s : State) : Host.Outcome State Fault Refusal := Host.Outcome.next (rankDead (↑rank) s)

/-- RETIRE (R262, R263, R280). -/
def execRetire (s : State) : Host.Outcome State Fault Refusal := Host.Outcome.next (runCmd hRsv 1 retireCmd s)

/-- SCRUB (R260, R280). -/
def execRsvScrub (s : State) : Host.Outcome State Fault Refusal := Host.Outcome.next (runCmd hRsv 2 scrubCmd s)

/-- HANDOVER (R273, R274, R280). -/
def execHandover (s : State) : Host.Outcome State Fault Refusal := Host.Outcome.next (runCmd hPool 1 handoverCmd s)

/-- RELEASE of the Pool (R272, R280). -/
def execPoolRelease (s : State) : Host.Outcome State Fault Refusal := Host.Outcome.next (runCmd hPool 2 poolReleaseCmd s)

/-- HANDOVER_CLEAR_DONE (R273). -/
def execHandoverClearDone (s : State) : Host.Outcome State Fault Refusal := Host.Outcome.next (handoverClearDone s)

/-- EDDY_FULL_WRITE (R276). -/
def execEddyFullWrite (h : Fin 2) (val : Word) (be : BitVec 4) (produced : Word) (s : State) : Host.Outcome State Fault Refusal :=
  Host.Outcome.next (eddyFullWrite (↑h) (BitVec.toNat val) be.toNat (BitVec.toNat produced) s)

/-- POISON_FILL_DONE (R267). -/
def execPoisonFillDone (chunk : Nat) (s : State) : Host.Outcome State Fault Refusal := Host.Outcome.next (poisonFillDone chunk s)

end Sys2Proof.Machine
end

