-- ==== Sys2Proof/Machine/Silt.lean ====
section
/-! DEFINITION. Trace detectors, spectrogram streams, silt planes and colour tables (spec/06). -/

namespace Sys2Proof.Machine

/-! Columns (R152, R153). -/

/-- A column map with its REDUCE. -/
structure CMap where
  start : Nat
  step : Nat
  n : Nat
  red : Nat
  deriving DecidableEq, Repr

def CMap.lo (m : CMap) (c : Nat) : Nat := m.start + c * m.step / 65536
def CMap.hi (m : CMap) (c : Nat) : Nat := max (m.lo c) (m.start + (c + 1) * m.step / 65536 - 1)

/-- STEP lies in its range and the last column ends below K (R152). -/
def CMap.legal (m : CMap) (k : Nat) : Bool :=
  decide (0x100 ≤ m.step) && decide (m.step ≤ 0x1000000) && decide (m.hi (m.n - 1) < k)

/-- What a delivered short-reach frame brings (R131): powers, dB codes, their number K, PSW, DTs, and the settings in force. -/
structure FrameIn where
  pw : List Nat
  dc : List Int
  k : Nat
  psw : Nat
  dtFirst : Nat
  dtLast : Nat
  dbo : Int
  nlog : Nat
  bond : Bool
  deriving DecidableEq, Repr

/-- The first of the pairs that is best by `better`. -/
def bestOf (better : Nat → Nat → Bool) : List (Nat × Int) → Nat × Int → Nat × Int
  | [], b => b
  | x :: t, b => bestOf better t (if better x.1 b.1 then x else b)

/-- Power and code of column `c` (R153); `none` when its first bin lies beyond the frame (R154). -/
def reduceCol (f : FrameIn) (m : CMap) (c : Nat) : Option (Nat × Int) :=
  if f.k ≤ m.lo c then none
  else
    let n := min (m.hi c) (f.k - 1) + 1 - m.lo c
    match (((f.pw.drop (m.lo c)).take n).zip ((f.dc.drop (m.lo c)).take n)) with
    | [] => none
    | x :: t =>
      if m.red = 3 then some x
      else if m.red = 0 then some (bestOf (fun a b => decide (b < a)) t x)
      else if m.red = 1 then some (bestOf (fun a b => decide (a < b)) t x)
      else
        let sum := (x :: t).foldl (fun a y => Dy.add64 a (dyOfF32 y.1)) Dy.zero
        let p := f32OfDy (Dy.divRound 24 (-149) sum (Dy.ofInt (n : Nat)))
        some (p, (dbCode f.dbo p).1)

/-- Does a MEAN column's code clamp at the top (R127, R130)? -/
def meanClamps (f : FrameIn) (m : CMap) : Bool :=
  m.red == 2 && (List.range m.n).any (fun c => match reduceCol f m c with | some x => (dbCode f.dbo x.1).2 | none => false)

/-- Columns of a frame; a column without a value gives power 0 and code −32,768. -/
def columns (f : FrameIn) (m : CMap) : List (Nat × Int) :=
  (List.range m.n).map (fun c => (reduceCol f m c).getD (0, -32768))

/-- Bins that the short reach of a port delivers under the settings in force (R123). -/
def srBins (s : State) (p : Nat) : Nat := binsOf (s.rset 0 p) (fmtCplx (s.portSt p).fmt && !s.bonded p)

/-- Hop of the short reach in SCLK ticks (R115). -/
def hopTicks (s : State) (p : Nat) (r : RSet) : Nat :=
  r.hop * pointUnits (s.portSt p).fmt / 40960 / (if s.bonded p then 2 else 1)

/-! Traces (R155 to R161). -/

def State.trace (s : State) (p t : Nat) : Trace := Tbl.get Trace.init s.slt.trace (8 * p + t)
def State.setTrace (s : State) (p t : Nat) (x : Trace) : State := { s with slt := { s.slt with trace := Tbl.set s.slt.trace (8 * p + t) x } }
def State.spg (s : State) (p : Nat) : Spg := Tbl.get Spg.init s.slt.spg p
def State.setSpg (s : State) (p : Nat) (x : Spg) : State := { s with slt := { s.slt with spg := Tbl.set s.slt.spg p x } }
def State.plane (s : State) (p n : Nat) : Plane := Tbl.get Plane.init s.slt.plane (4 * p + n)
def State.setPlane (s : State) (p n : Nat) (x : Plane) : State := { s with slt := { s.slt with plane := Tbl.set s.slt.plane (4 * p + n) x } }

def trEn (s : State) (p t : Nat) : Bool := s.flag (R.DET_TR_CFG_EN p t)
def trDet (s : State) (p t : Nat) : Nat := s.fld (R.DET_TR_CFG_DET p t)
def trMap (s : State) (p t : Nat) : CMap :=
  { start := s.fld (R.DET_TR_MAP_START p t), step := s.wordN (R.DET_TR_STEP p t), n := s.fld (R.DET_TR_MAP_PTSM1 p t) + 1,
    red := s.fld (R.DET_TR_CFG_REDUCE p t) }

/-- Banks of one record slot (R159). -/
def trBanks (s : State) (p t : Nat) : Nat :=
  if trEn s p t then
    let b := match s.fld (R.DET_TR_CFG_FMT p t) with | 0 => 4 | 1 => 2 | _ => 6
    cdiv (64 + (trMap s p t).n * b) bankBytes
  else 0

/-- The 64-byte header of R161. -/
def trHeader (seq src det fmt red pts frames dtF dtL psw : Nat) (dbo : Int) (m : CMap) (nlog hold : Nat) : List Byte :=
  leBytes 4 seq ++ leBytes 1 src ++ leBytes 1 det ++ leBytes 1 fmt ++ leBytes 1 red ++ leBytes 4 pts ++ leBytes 4 frames ++
  dtBytes dtF ++ dtBytes dtL ++ leBytes 2 psw ++ leBytes 2 (enc 16 dbo) ++ leBytes 4 m.start ++ leBytes 4 m.step ++
  leBytes 1 nlog ++ leBytes 3 0 ++ leBytes 8 hold

/-- Delivered power and code of a point from a detector's value (R157), and whether the code clamps at the top. -/
def deliverPower (dbo : Int) (v : Nat) : Nat × Int × Bool := (v, (dbCode dbo v).1, (dbCode dbo v).2)
def deliverLog (dbo : Int) (y : Dy) : Nat × Int × Bool :=
  let c := y.toIntRne
  (pow10F32 (c - dbo), c, false)

/-- The running value a_n (R156), component by component. -/
def runAvg (sh : Nat) (prev : Option (List Dy)) (x : List Dy) : List Dy :=
  match prev with
  | none => x
  | some a => List.zipWith (fun a x => Dy.add64 a ((Dy.sub x a).r64.scale (-(sh : Int)))) a x

/-- End the open update of a trace: its record waits to be written (R155 to R161, R177).  DESIGN CHOICE (log entry 74): with AVG_SH of 1 or more, DT_FIRST and PSW are those of the update
itself, not of all updates since the restart. -/
def endUpdate (p t : Nat) (s : State) : State :=
  let x := s.trace p t
  if x.frames = 0 then s
  else
    let det := trDet s p t
    let m := trMap s p t
    let sh := s.fld (R.DET_TR_CFG_AVG_SH p t)
    let avg := det == 3 || det == 4
    let mean := x.sum.map (fun v => Dy.div64 v (Dy.ofInt (x.frames : Nat)))
    let out := if avg && sh != 0 then runAvg sh x.run mean else mean
    let holdTr := decide (5 ≤ det)
    let pts : List (Nat × Int × Bool) :=
      if det = 4 then out.map (deliverLog x.dbo)
      else if det = 3 then out.map (fun v => deliverPower x.dbo (f32OfDy v))
      else (if holdTr then x.hold.getD [] else x.acc).map (deliverPower x.dbo)
    let pts := (pts.zip (List.range pts.length)).map (fun e => if x.kmin ≤ m.lo e.2 then (0, (-32768 : Int), false) else e.1)
    let short := decide (x.kmin ≤ m.hi (m.n - 1))
    let fmt := s.fld (R.DET_TR_CFG_FMT p t)
    let psw := (if holdTr then x.holdPsw else x.psw) ||| (if pts.any (fun e => e.2.2) then pswSat else 0) ||| s.memDeg
    let bytes := trHeader x.seq (t + 8 * p + (if x.bond then 32 else 0)) det (fmt + (if short then 4 else 0)) m.red m.n x.frames
        (if holdTr then x.holdFirst else x.dtFirst) x.dtLast psw x.dbo m x.nlog (if holdTr then x.holdFrames else x.frames) ++
      (if fmt = 1 then [] else pts.flatMap (fun e => leBytes 4 e.1)) ++
      (if fmt = 0 then [] else pts.flatMap (fun e => leBytes 2 (enc 16 e.2.1)))
    s.setTrace p t { x with
      seq := (x.seq + 1) % 2 ^ 32, frames := 0, acc := [], sum := [], psw := 0,
      run := if avg && sh != 0 then some out else none
      done := x.done ++ [{ first := s.fld (R.DET_TR_SLOT_FIRST p t), banks := s.fld (R.DET_TR_SLOT_BANKS p t), bytes := bytes }] }

/-- A trace takes a frame (R155); the update ends with its last frame. -/
def traceFrame (p t : Nat) (f : FrameIn) (s : State) : State :=
  if !trEn s p t then s
  else
    let x := s.trace p t
    let det := trDet s p t
    let m := trMap s p t
    let cs := columns f m
    let pw := cs.map Prod.fst
    let first := x.frames == 0
    let vals : List Dy := if det = 4 then cs.map (fun c => Dy.ofInt (if c.2 = -32768 then -32767 else c.2)) else pw.map dyOfF32
    let acc := if first || det == 2 then pw
      else if det = 0 then List.zipWith max x.acc pw else if det = 1 then List.zipWith min x.acc pw else []
    let holdTr := decide (5 ≤ det)
    let hold := match x.hold with
      | none => pw
      | some h => if det = 5 then List.zipWith max h pw else List.zipWith min h pw
    let newHold := x.hold.isNone
    let psw := f.psw ||| (if meanClamps f m then pswSat else 0)
    let y := { x with
      frames := x.frames + 1
      acc := if det ≤ 2 then acc else []
      sum := if det = 3 ∨ det = 4 then (if first then vals else List.zipWith Dy.add64 x.sum vals) else []
      hold := if holdTr then some hold else none
      holdFrames := if newHold then 1 else x.holdFrames + 1
      holdPsw := if newHold then psw else pswCombine x.holdPsw psw
      holdFirst := if newHold then f.dtFirst else x.holdFirst
      psw := if first then psw else pswCombine x.psw psw
      dtFirst := if first then f.dtFirst else x.dtFirst
      dtLast := f.dtLast
      kmin := if (if holdTr then newHold else first) then f.k else min x.kmin f.k
      dbo := f.dbo, nlog := f.nlog, bond := f.bond }
    let s1 := s.setTrace p t y
    if y.frames = s.fld (R.DET_TR_UPD_FM1 p t) + 1 then endUpdate p t s1 else s1

/-- Does a trace run a running average (R156)? -/
def trRunAvg (s : State) (p t : Nat) : Bool := (trDet s p t == 3 || trDet s p t == 4) && s.fld (R.DET_TR_CFG_AVG_SH p t) != 0

/-- A hold or running average restarts with the next frame (R158); a running average drops the frames of the open update (log entry 74). -/
def restartTrace (p t : Nat) (s : State) : State :=
  let x := s.trace p t
  let avg := trRunAvg s p t
  s.setTrace p t { x with
    run := none, hold := none, holdFrames := 0, holdPsw := 0
    frames := if avg then 0 else x.frames, acc := if avg then [] else x.acc, sum := if avg then [] else x.sum, psw := if avg then 0 else x.psw }

/-- The record of a completed update is written to a free slot, or discarded (R160). -/
def traceUpdateDone (p t : Nat) (s : State) : State :=
  let x := s.trace p t
  match x.done with
  | [] => s
  | r :: rest =>
    let rdy := s.wordN (R.DET_TR_STATUS p t)
    let a := 1 - x.lastSlot
    let slot := if !bitAt rdy a then some a else if !bitAt rdy (1 - a) then some (1 - a) else none
    match slot with
    | none => raise (hDet p) 9 ((s.setTrace p t { x with done := rest }).bump64 (R.DET_TR_DROP p t) 1)
    | some k =>
      let s1 := s.setTrace p t { x with done := rest, lastSlot := k }
      let s2 := unitPoolWrite (hDet p) (poolBase + (r.first + k * r.banks) * bankBytes) r.bytes s1
      raise (hDet p) t (s2.setW1c (R.DET_TR_STATUS p t) (2 ^ k))

/-! Spectrogram tiles (R173, R174). -/

def spgMap (s : State) (p : Nat) : CMap :=
  { start := s.fld (R.DET_SPG_MAP_START p), step := s.wordN (R.DET_SPG_STEP p), n := s.fld (R.DET_SPG_MAP_PTSM1 p) + 1,
    red := s.fld (R.DET_SPG_CFG_REDUCE p) }

/-- Banks of one tile buffer. -/
def spgBanks (s : State) (p : Nat) : Nat :=
  if s.flag (R.DET_SPG_CFG_EN p) then cdiv (64 + 2 ^ s.fld (R.DET_SPG_CFG_LINES_LOG2 p) * (spgMap s p).n * 2) bankBytes else 0

/-- Device address of a tile buffer: the two follow the last record slot (R159). -/
def spgAddr (s : State) (p b : Nat) : Nat :=
  poolBase + (s.fld (R.DET_POOL_BASE p) + (List.range 8).foldl (fun a t => a + 2 * trBanks s p t) 0 + b * spgBanks s p) * bankBytes

/-- End the open tile with the lines completed so far: it is on its way to the region, or discarded. -/
def endTile (p : Nat) (s : State) : State :=
  let x := s.spg p
  let y := { x with frames := 0, acc := [], sum := [], lines := [], psw := 0, short := false, lpsw := 0, lshort := false }
  if x.lines.isEmpty then s.setSpg p y
  else
    let m := spgMap s p
    let head := trHeader x.seq (8 * p + (if x.bond then 32 else 0)) 0x80 (1 + (if x.short then 4 else 0)) m.red m.n
        (s.fld (R.DET_SPG_LFR_FM1 p) + 1) x.dtFirst x.dtLast (x.psw ||| s.memDeg) x.dbo m x.nlog x.lines.length
    let bytes := head ++ x.lines.flatMap (fun l => l.flatMap (fun c => leBytes 2 (enc 16 c)))
    let seq := (x.seq + 1) % 2 ^ 32
    let a := spgAddr s p x.buf
    match x.writing with
    | some _ => raise (hDet p) 10 ((s.setSpg p { y with seq := seq }).bump64 (R.DET_SPG_TDROP p) 1)
    | none => raise (hDet p) 8 (unitPoolWrite (hDet p) a head (s.setSpg p { y with seq := seq, writing := some (a, bytes), buf := 1 - x.buf }))

/-- The stream takes a frame; a line ends after LINE_FRAMES frames and goes to the tile buffer, a tile after 2^LINES_LOG2 lines. -/
def spgFrame (p : Nat) (f : FrameIn) (s : State) : State :=
  if !s.flag (R.DET_SPG_CFG_EN p) then s
  else
    let x := s.spg p
    let m := spgMap s p
    let pw := (columns f m).map Prod.fst
    let first := x.frames == 0
    let avg := s.flag (R.DET_SPG_CFG_LINE_RED p)
    let acc := if first then pw else List.zipWith max x.acc pw
    let sum := if first then pw.map dyOfF32 else List.zipWith Dy.add64 x.sum (pw.map dyOfF32)
    let kmin := if first then f.k else min x.kmin f.k
    let n := x.frames + 1
    let psw := f.psw ||| (if meanClamps f m then pswSat else 0)
    let y := { x with
      frames := n, acc := acc, sum := sum, kmin := kmin
      lpsw := if first then psw else pswCombine x.lpsw psw
      lshort := (!first && x.lshort) || decide (kmin ≤ m.hi (m.n - 1))
      dtFirst := if first && x.lines.isEmpty then f.dtFirst else x.dtFirst }
    if n < s.fld (R.DET_SPG_LFR_FM1 p) + 1 then s.setSpg p y
    else
      let vals := if avg then sum.map (fun v => f32OfDy (Dy.div64 v (Dy.ofInt (n : Nat)))) else acc
      let codes := (vals.zip (List.range vals.length)).map (fun e => if kmin ≤ m.lo e.2 then ((-32768 : Int), false) else dbCode f.dbo e.1)
      let lpsw := y.lpsw ||| (if codes.any Prod.snd then pswSat else 0)
      let z := { y with
        frames := 0, acc := [], sum := [], lines := x.lines ++ [codes.map Prod.fst], dtLast := f.dtLast, dbo := f.dbo, nlog := f.nlog, bond := f.bond
        psw := if x.lines.isEmpty then lpsw else pswCombine x.psw lpsw
        short := x.short || y.lshort }
      let s1 := unitPoolWrite (hDet p) (spgAddr s p x.buf + 64 + x.lines.length * m.n * 2) (codes.flatMap (fun c => leBytes 2 (enc 16 c.1))) (s.setSpg p z)
      if z.lines.length = 2 ^ s.fld (R.DET_SPG_CFG_LINES_LOG2 p) then endTile p s1 else s1

/-- The bytes of a completed tile as they are read from its buffer: poisoned words read as 0, and the tile then carries POISON in its header (R161, R259). -/
def tileRead (s : State) (a : Nat) (bs : List Byte) : List Byte :=
  if !s.poisoned a bs.length then bs
  else
    let b := s.maskBytes a bs
    b.take 40 ++ leBytes 2 (pswPoisoned true (leNat ((b.drop 40).take 2))) ++ b.drop 42

/-- A tile has been written to the region (R174); one that no slot of the region can hold is discarded. -/
def tileWriteDone (p : Nat) (s : State) : State :=
  let x := s.spg p
  match x.writing with
  | none => s
  | some (a, bs) =>
    let size := cdiv bs.length 4096 * 4096
    let region := s.wordN (R.DET_SPG_REGION_SIZE p) * 2 ^ 20
    let off := if x.nextOff + size ≤ region then x.nextOff else 0
    if region < size then raise (hDet p) 10 ((s.setSpg p { x with writing := none }).bump64 (R.DET_SPG_TDROP p) 1)
    else
      let base := s.wordN (R.DET_SPG_REGION_LO p) + 2 ^ 32 * s.wordN (R.DET_SPG_REGION_HI p)
      let n := (s.wordN (R.DET_SPG_WSEQ p) + 1) % 2 ^ 32
      let kept := x.tiles.filter (fun e => decide (e.2.1 + e.2.2 ≤ off) || decide (off + size ≤ e.2.1))
      (((s.setSpg p { x with writing := none, nextOff := off + size, tiles := kept ++ [(n, off, bs.length)] }).memWrite (base + off) (tileRead s a bs)).setWord (R.DET_SPG_WOFF p) off).setWord
        (R.DET_SPG_WSEQ p) n

/-! Silt planes (R162 to R172). -/

def plEn (s : State) (p n : Nat) : Bool := s.flag (R.SLT_PL_CFG_EN p n)
def plCols (cfg : Nat) : Nat := 64 * (bits cfg 20 16 + 1)
def plRows (cfg : Nat) : Nat := 64 * (bits cfg 11 8 + 1)
def plDbuf (cfg : Nat) : Bool := bitAt cfg 1
def plUnits (cfg : Nat) : Nat := cdiv (plCols cfg * plRows cfg) 65536 * (if plDbuf cfg then 2 else 1)
def plMap (s : State) (p n : Nat) : CMap :=
  { start := s.fld (R.SLT_PL_MAP_START p n), step := s.wordN (R.SLT_PL_STEP p n), n := plCols (s.wordN (R.SLT_PL_CFG p n)),
    red := s.fld (R.SLT_PL_CFG_REDUCE p n) }
/-- PERIOD_FRAMES or DECAY_FRAMES. -/
def plPer (s : State) (p n : Nat) : Nat := bits (s.wordN (R.SLT_PL_PER p n)) 23 0 + 1

def Plane.buf (x : Plane) (b : Nat) : PBuf := if b = 0 then x.b0 else x.b1
def Plane.setBuf (x : Plane) (b : Nat) (v : PBuf) : Plane := if b = 0 then { x with b0 := v } else { x with b1 := v }
def Plane.liveBuf (x : Plane) : PBuf := x.buf x.live

/-- An empty buffer in a state, under the plane's working settings. -/
def newBuf (s : State) (p n : Nat) (st : BufSt) (seq : Nat) : PBuf :=
  { PBuf.init with st := st, seq := seq, cfg := s.wordN (R.SLT_PL_CFG p n), map := s.wordN (R.SLT_PL_MAP p n),
                   step := s.wordN (R.SLT_PL_STEP p n), row := s.wordN (R.SLT_PL_ROW p n), bond := s.bonded p }

/-- Row of a code (R163). -/
def planeRow (top : Int) (rowStep : Nat) (q : Int) : Int := (top - q) / (rowStep : Int)

/-- One increment of a buffer: column, code (R163, R164). -/
def increment (top : Int) (rowStep rows cols : Nat) (b : PBuf) (c : Nat) (q : Int) : PBuf :=
  let r := planeRow top rowStep q
  let ovr := decide (r < 0)
  let under := decide ((rows : Int) - 1 < r)
  let row := if ovr then 0 else if under then rows - 1 else r.toNat
  let v := Tbl.get 0 b.cnt (row * cols + c)
  let b1 := { b with ovr := if ovr then satAdd 16 b.ovr 1 else b.ovr, under := if under then satAdd 16 b.under 1 else b.under }
  if v = 65535 then { b1 with satinc := satAdd 32 b.satinc 1 } else { b1 with cnt := Tbl.set b.cnt (row * cols + c) (v + 1) }

/-- Is the increment of a column with a code saturated (R163, R164)? -/
def incSat (top : Int) (rowStep rows cols : Nat) (b : PBuf) (c : Nat) (q : Int) : Bool :=
  let r := planeRow top rowStep q
  Tbl.get 0 b.cnt ((min r.toNat (rows - 1)) * cols + c) == 65535

/-- A plane counts a frame (R163). -/
def planeFrame (p n : Nat) (f : FrameIn) (s : State) : State :=
  let x := s.plane p n
  if !(plEn s p n && x.on && !x.susp) then s
  else
    let m := plMap s p n
    let cfg := s.wordN (R.SLT_PL_CFG p n)
    let cs := (List.range m.n).map (reduceCol f m)
    let b := x.liveBuf
    let top := s.sfld (R.SLT_PL_ROW_TOP_DB p n)
    let step := s.fld (R.SLT_PL_ROW_ROW_STEP p n)
    let r := (cs.zip (List.range cs.length)).foldl (fun (a : PBuf × Nat) e => match e.1 with
      | none => a
      | some v => (increment top step (plRows cfg) m.n a.1 e.2 v.2, a.2 + b2n (incSat top step (plRows cfg) m.n a.1 e.2 v.2))) (b, 0)
    let b1 := r.1
    let sat := r.2
    let psw := f.psw ||| (if meanClamps f m || decide (0 < sat) then pswSat else 0)
    let first := b.frames == 0
    let b2 := { b1 with
      frames := satAdd 32 b.frames 1
      psw := if first then psw else pswCombine b.psw psw
      dtFirst := if first then f.dtFirst else b.dtFirst
      dtLast := f.dtLast
      flags := b.flags ||| (if f.k ≤ m.hi (m.n - 1) then 2 else 0)
      bond := f.bond }
    let s1 := s.setPlane p n { x.setBuf x.live b2 with counted := x.counted + 1 }
    if 0 < sat then raise (hSlt p) 5 (s1.bump64 (R.SLT_PL_SATINC p n) sat) else s1

/-- The LIVE buffer becomes FULL and the period counts as completed (R168, R179). -/
def fillBuf (p n : Nat) (s : State) : State :=
  let x := s.plane p n
  let seq := (x.seq + 1) % 2 ^ 32
  raise (hSlt p) n (s.setPlane p n { x.setBuf x.live { x.liveBuf with st := .full, psw := x.liveBuf.psw ||| s.memDeg } with seq := seq, ovr := false, swap := false })

/-- The buffers of a double-buffered plane swap (R168). -/
def swapBufs (p n : Nat) (s : State) : State :=
  let s1 := fillBuf p n s
  let x := s1.plane p n
  let o := 1 - x.live
  let b := newBuf s1 p n .live x.seq
  s1.setPlane p n { x.setBuf o { b with flags := if x.susp then 4 else 0 } with live := o }

/-- May the swap take place: the plane counts and the other buffer is READY? -/
def canSwap (x : Plane) : Bool := x.on && (x.buf (1 - x.live)).st == .ready

/-- A frame boundary that ends a period: swap, or extend the period (R168). -/
def planePeriodEnd (p n : Nat) (s : State) : State :=
  let x := s.plane p n
  if !(plEn s p n && plDbuf (s.wordN (R.SLT_PL_CFG p n)) && x.on && (x.swap || decide (plPer s p n ≤ x.liveBuf.frames))) then s
  else if canSwap x then swapBufs p n s
  else if x.ovr then s
  else
    raise (hSlt p) 4 ((s.setPlane p n { x.setBuf x.live { x.liveBuf with flags := x.liveBuf.flags ||| 8 } with ovr := true }).bump64
      (R.SLT_PL_OVERRUN p n) 1)

/-- A CLEARING buffer has been zeroed (R169, R179, R181). -/
def planeClearDone (p n b : Nat) (s : State) : State :=
  let x := s.plane p n
  if (x.buf b).st != .clearing then s
  else
    let x1 := x.setBuf b (newBuf s p n .ready x.seq)
    if !bitAt x.clearing b then s.setPlane p n x1
    else
      let left := putBits x.clearing b b 0
      if left != 0 then s.setPlane p n { x1 with clearing := left }
      else s.setPlane p n { x1.setBuf x.live { newBuf s p n .live x.seq with flags := if x.susp then 4 else 0 } with
                            clearing := 0, on := true, counted := 0, decayAt := 0 }

/-- One visit of a decay pass (R171). -/
def decayed (dsh c : Nat) : Nat := c - max (c / 2 ^ dsh) (min c 1)

/-- A decay pass falls due: every counter is visited, or the pass is skipped (R171, R172). -/
def decayPassStart (p n : Nat) (s : State) : State :=
  let x := s.plane p n
  let dsh := s.fld (R.SLT_PL_DECAY_DSH p n)
  let b := x.liveBuf
  if !(plEn s p n && !plDbuf (s.wordN (R.SLT_PL_CFG p n)) && dsh != 0 && x.on && decide (x.decayAt < x.counted) && x.counted % plPer s p n == 0) then s
  else if x.decaying then raise (hSlt p) 7 ((s.setPlane p n { x with decayAt := x.counted }).bumpSat (R.SLT_PL_DECAY_SKIP p n) 1)
  else s.setPlane p n { x.setBuf x.live { b with cnt := (b.cnt.map (fun e => (e.1, decayed dsh e.2))).filter (fun e => e.2 != 0) } with
                        decaying := true, decayAt := x.counted }

/-- The running pass completes. -/
def decayPassDone (p n : Nat) (s : State) : State := s.setPlane p n { s.plane p n with decaying := false }

/-- Columns of the planes that count (R166). -/
def planeLoad (s : State) (p : Nat) : Nat :=
  (List.range 4).foldl (fun a n => if plEn s p n && !(s.plane p n).susp then a + plCols (s.wordN (R.SLT_PL_CFG p n)) else a) 0

/-- R166. -/
def rateOk (s : State) (p : Nat) : Bool := decide (planeLoad s p ≤ 256 * hopTicks s p (s.rset 0 p))

/-- Suspend or resume a plane (R167). -/
def setSusp (p n : Nat) (b : Bool) (s : State) : State :=
  let x := s.plane p n
  let y := if b && x.on then x.setBuf x.live { x.liveBuf with flags := x.liveBuf.flags ||| 4 } else x
  let s1 := s.setPlane p n { y with susp := b }
  if b then raise (hSlt p) 8 s1 else s1

/-- FAULT.MAP of both units follows the maps of what is enabled (R154). -/
def mapFaults (p : Nat) (s : State) : State :=
  let k := srBins s p
  let bad (m : CMap) : Bool := decide (k ≤ m.hi (m.n - 1))
  let det := (List.range 8).any (fun t => trEn s p t && bad (trMap s p t)) || (s.flag (R.DET_SPG_CFG_EN p) && bad (spgMap s p))
  let slt := (List.range 4).any (fun n => plEn s p n && bad (plMap s p n))
  putFault (hSlt p) 1 slt (putFault (hDet p) 0 det s)

/-- A short-reach commit point as the planes see it (R167, R170 SR_CHANGED). -/
def planesSrCommit (p : Nat) (s : State) : State :=
  let s1 := (List.range 4).foldl (fun s n =>
    let x := s.plane p n
    if plEn s p n && x.on then s.setPlane p n (x.setBuf x.live { x.liveBuf with flags := x.liveBuf.flags ||| 1 }) else s) s
  let s2 := [3, 2, 1, 0].foldl (fun s n => if !rateOk s p && plEn s p n && !(s.plane p n).susp then setSusp p n true s else s) s1
  let fresh := (List.range 4).any (fun n => (s2.plane p n).susp && !(s1.plane p n).susp)
  let s3 := if fresh then s2 else (List.range 4).foldl (fun s n =>
    if plEn s p n && (s.plane p n).susp then (let t := setSusp p n false s; if rateOk t p then t else s) else s) s2
  putFault (hSlt p) 0 ((List.range 4).any (fun n => plEn s3 p n && (s3.plane p n).susp)) s3

/-- A short-reach commit point takes effect at the detector and silt units (R154, R158, R167, R174); `restart` when N, OVL or WIN changed. -/
def applySr (p : Nat) (restart : Bool) (s : State) : State :=
  let s1 := endTile p s
  let s2 := if restart then (List.range 8).foldl (fun s t => restartTrace p t s) s1 else s1
  mapFaults p (planesSrCommit p s2)

/-! Views (R170). -/

def bufCode : BufSt → Nat
  | .live => 0 | .full => 1 | .clearing => 2 | .ready => 3

/-- The 64-byte header of a view. -/
def viewHeader (p n : Nat) (b : PBuf) : List Byte :=
  leBytes 4 b.seq ++ leBytes 1 (n + 4 * p + (if b.bond then 16 else 0) + (if plDbuf b.cfg then 32 else 0)) ++ leBytes 1 (bufCode b.st) ++
  leBytes 2 (plCols b.cfg) ++ leBytes 2 (plRows b.cfg) ++ leBytes 2 (bits b.row 15 0) ++ leBytes 2 (bits b.row 25 16) ++
  leBytes 1 (bits b.cfg 3 2) ++ leBytes 1 b.flags ++ dtBytes b.dtFirst ++ dtBytes b.dtLast ++ leBytes 2 b.psw ++ leBytes 2 0 ++
  leBytes 4 b.map ++ leBytes 4 b.step ++ leBytes 4 b.frames ++ leBytes 4 b.satinc ++ leBytes 2 b.ovr ++ leBytes 2 b.under

/-- The byte of the plane views at a device address from 0xF0_0000_0000 up; 0 beyond a plane's counters and in view 1 of a single-buffered plane. -/
def viewByte (s : State) (a : Nat) : Byte :=
  let o := a - 0xF000000000
  let p := o / 0x4000000
  let n := o / 0x1000000 % 4
  let b := o / 0x800000 % 2
  let i := o % 0x800000
  if 4 ≤ p then 0
  else
    let x := (s.plane p n).buf b
    if b = 1 ∧ !plDbuf (s.wordN (R.SLT_PL_CFG p n)) then 0
    else if i < 64 then (viewHeader p n x).getD i 0
    else if i < 0x1000 then 0
    else
      let c := (i - 0x1000) / 2
      if plCols x.cfg * plRows x.cfg ≤ c then 0 else BitVec.ofNat 8 (Tbl.get 0 x.cnt c / 256 ^ (i % 2))

/-- SLT_PLn_STATUS (R183). -/
def planeStatus (s : State) (p n : Nat) : Nat :=
  let x := s.plane p n
  bufCode x.b0.st + 4 * bufCode x.b1.st + 16 * x.live +
  32 * b2n (x.b0.st == .clearing || x.b1.st == .clearing) + 64 * b2n x.susp + 128 * b2n (s.slave p)

/-! Commit (R177 to R180). -/

/-- Does the short reach of the port deliver frames to the unit? -/
def srRuns (s : State) (p : Nat) : Bool := (s.rset 0 p).en && !s.slave p

/-- The first trace (8 for the spectrogram stream, 0 for the Pool banks) at which the detector settings fail a check (R152, R159, R178). -/
def detBad (s : State) (p : Nat) : Option Nat :=
  let k := srBins s p
  match (List.range 8).find? (fun t => trEn s p t &&
      (trDet s p t == 7 || s.fld (R.DET_TR_CFG_FMT p t) == 3 || decide (32768 < (trMap s p t).n) || !(trMap s p t).legal k)) with
  | some t => some t
  | none =>
    if s.flag (R.DET_SPG_CFG_EN p) && (!(spgMap s p).legal k || decide (s.fld (R.DET_SPG_CFG_LINES_LOG2 p) < 4) ||
        decide (10 < s.fld (R.DET_SPG_CFG_LINES_LOG2 p))) then some 8
    else
      let need := 2 * ((List.range 8).foldl (fun a t => a + trBanks s p t) 0 + spgBanks s p)
      let cnt := s.fld (R.DET_POOL_COUNT p)
      if decide (need ≤ cnt) && s.namesBanks (hDet p) (s.fld (R.DET_POOL_BASE p)) cnt then none else some 0

/-- Lay out the record slots from BASE (R159). -/
def laySlots (p : Nat) (s : State) : State :=
  ((List.range 8).foldl (fun (acc : Nat × State) t =>
    let b := trBanks acc.2 p t
    let s' := (acc.2.setWord (R.DET_TR_SLOT p t) (if b = 0 then 0 else acc.1 + 65536 * b))
    (acc.1 + 2 * b, s')) (s.fld (R.DET_POOL_BASE p), s)).2

/-- Settings of a trace that restart its hold or average when they change (R158). -/
def traceKey (s : State) (p t : Nat) : Bool × Nat × CMap := (trEn s p t, trDet s p t, trMap s p t)

/-- A snapshot whose commit point has waited is rejected (R118, R178). -/
def rejectDue (h bit obj : Nat) (s : State) : State := addLog h 3 2 0 obj 0 (raise h bit s)

/-- The detector unit's commit point with the snapshot's words. -/
def applyDet (p : Nat) (ws : Tbl Nat) (s : State) : State :=
  let new := overlay s ws
  match detBad new p with
  | some i => rejectDue (hDet p) 11 i s
  | none =>
    let s1 := endTile p ((List.range 8).foldl (fun s t => if trEn s p t then endUpdate p t s else s) s)
    let s2 := overlay s1 ws
    let s3 := (List.range 8).foldl (fun a t => if traceKey s p t == traceKey new p t then a else restartTrace p t a) s2
    let s4 := poolClaim (hDet p) (s3.fld (R.DET_POOL_BASE p)) (s3.fld (R.DET_POOL_COUNT p)) (laySlots p s3)
    mapFaults p (clearFault (hDet p) 1 s4)

/-- The first plane at which the silt settings fail a check (R152, R162, R171, R178); 3 for R166. -/
def sltBad (s new : State) (p : Nat) : Option Nat :=
  let k := srBins s p
  let cfg (n : Nat) := new.wordN (R.SLT_PL_CFG p n)
  let arr (n : Nat) := bits (cfg n) 30 24
  match (List.range 4).find? (fun n => plEn new p n &&
      (!(plMap new p n).legal k || decide (new.fld (R.SLT_PL_ROW_ROW_STEP p n) < 1) || decide (1000 < new.fld (R.SLT_PL_ROW_ROW_STEP p n)) ||
       (plDbuf (cfg n) && new.fld (R.SLT_PL_DECAY_DSH p n) != 0) || decide (128 < arr n + plUnits (cfg n)) ||
       (List.range n).any (fun m => plEn new p m && decide (arr m < arr n + plUnits (cfg n)) && decide (arr n < arr m + plUnits (cfg m))) ||
       (plEn s p n && (let old := s.wordN (R.SLT_PL_CFG p n)
         bits old 20 16 != bits (cfg n) 20 16 || bits old 11 8 != bits (cfg n) 11 8 || plDbuf old != plDbuf (cfg n) || bits old 30 24 != arr n)))) with
  | some n => some n
  | none => if rateOk new p then none else some 3

/-- Does the snapshot change what ends a period of a double-buffered plane that stays enabled (R177)? -/
def planeChanged (s new : State) (p n : Nat) : Bool :=
  plEn s p n && plEn new p n && plDbuf (s.wordN (R.SLT_PL_CFG p n)) &&
  (plMap s p n != plMap new p n || s.wordN (R.SLT_PL_ROW p n) != new.wordN (R.SLT_PL_ROW p n) || plPer s p n != plPer new p n)

/-- A plane at the commit point, the new settings in force (R177, R179). -/
def planeCommit (old : State) (p n : Nat) (s : State) : State :=
  let was := plEn old p n
  let x := s.plane p n
  if was && !plEn s p n then
    let s1 := if x.on then fillBuf p n s else s
    s1.setPlane p n { s1.plane p n with on := false, susp := false, clearing := 0, decaying := false }
  else if !was && plEn s p n then
    let d := plDbuf (s.wordN (R.SLT_PL_CFG p n))
    s.setPlane p n { x with b0 := newBuf s p n .clearing x.seq, b1 := if d then newBuf s p n .clearing x.seq else PBuf.init,
                            live := 0, on := false, susp := false, clearing := if d then 3 else 1, ovr := false, swap := false,
                            decaying := false, counted := 0, decayAt := 0 }
  else if planeChanged old s p n then swapBufs p n s
  else if x.on then
    let b := newBuf s p n .live x.seq
    s.setPlane p n (x.setBuf x.live { x.liveBuf with cfg := b.cfg, map := b.map, step := b.step, row := b.row })
  else s

/-- Must a snapshot of the silt unit wait: a plane whose period it ends cannot swap (R177)? -/
def sltWaits (p : Nat) (ws : Tbl Nat) (s : State) : Bool :=
  (List.range 4).any (fun n => planeChanged s (overlay s ws) p n && !canSwap (s.plane p n))

/-- The silt unit's commit point with the snapshot's words. -/
def applySlt (p : Nat) (ws : Tbl Nat) (s : State) : State :=
  match sltBad s (overlay s ws) p with
  | some i => rejectDue (hSlt p) 6 i s
  | none =>
    let s1 := (List.range 4).foldl (fun a n => planeCommit s p n a) (overlay s ws)
    let s2 := putFault (hSlt p) 0 ((List.range 4).any (fun n => plEn s1 p n && (s1.plane p n).susp)) s1
    mapFaults p (clearFault (hSlt p) 2 s2)

/-- A commit point of port `p` takes effect, unless it must wait. -/
def applyDue (p : Nat) (a : SiltAct) (s : State) : Option State :=
  match a with
  | .det ws => some (applyDet p ws s)
  | .slt ws => if sltWaits p ws s then none else some (applySlt p ws s)
  | .sr r => some (applySr p r s)

/-- Work off the commit points of port `p` whose word passes `ok`, oldest first; the others, and those that must wait, stay. -/
def runDue (ok : Nat → Bool) (p : Nat) : List SiltDue → State → List SiltDue × State
  | [], s => ([], s)
  | e :: t, s =>
    match (if e.p = p ∧ ok e.w = true then applyDue p e.act s else none) with
    | some s' => runDue ok p t s'
    | none => let r := runDue ok p t s; (e :: r.1, r.2)

def drainDue (ok : Nat → Bool) (p : Nat) (s : State) : State :=
  let r := runDue ok p s.slt.due s
  { r.2 with slt := { r.2.slt with due := r.1 } }

/-- Commit points of port `p` that no frame in flight holds up any more take effect (R177). -/
def settleDue (p : Nat) (s : State) : State := if s.slt.due.isEmpty then s else drainDue (fun w => !s.flyingBefore p w) p s

/-- A commit point at word `w`: frames that began before it finish under the old settings (R117, R177).  DEDUCED (log entry 74). -/
def commitAt (p w : Nat) (a : SiltAct) (s : State) : State :=
  settleDue p { s with slt := { s.slt with due := s.slt.due ++ [{ p := p, w := w, act := a }] } }

/-- A short-reach commit point whose new grid begins at word `w`. -/
def siltSrCommit (p w : Nat) (restart : Bool) (s : State) : State := commitAt p w (.sr restart) s

/-- The detector unit's commit point: the next frame that begins (R177). -/
def detCommit (p : Nat) (s : State) : State :=
  match s.snapOf (hDet p) with
  | none => s
  | some ws => if !srRuns s p then s else commitAt p (nextFrameWord s p) (.det ws) (dropSnap (hDet p) s)

/-- The silt unit's commit point: the next frame that begins; it waits while a plane whose period it ends cannot swap (R177). -/
def sltCommit (p : Nat) (s : State) : State :=
  match s.snapOf (hSlt p) with
  | none => s
  | some ws => if !srRuns s p || sltWaits p ws s then s else commitAt p (nextFrameWord s p) (.slt ws) (dropSnap (hSlt p) s)

/-- A frame whose first word is `w` reaches the traces, the spectrogram stream and the planes of its port (R131), after the commit points that it begins behind and before those that it
held up (R177); the odd port of a bond receives none but those it had begun (R116, R180). -/
def siltFrame (p w : Nat) (f : FrameIn) (s : State) : State :=
  let s0 := if s.slt.due.isEmpty then s else drainDue (fun v => decide (v ≤ w)) p s
  let s1 := (List.range 8).foldl (fun s t => traceFrame p t f s) s0
  let s2 := (List.range 4).foldl (fun s n => planeFrame p n f s) (spgFrame p f s1)
  settleDue p (mapFaults p s2)

/-! Commands (R181). -/

/-- DET CLEAR. -/
def detClear (p : Nat) (s : State) : Code × State :=
  if s.slave p then (.state, s)
  else
    let m := s.fld (R.DET_CMD_ARG_MASK p)
    if m = 0 then (.range, s)
    else (.ok, (List.range 8).foldl (fun s t => if bitAt m t then restartTrace p t s else s) s)

/-- SLT CLEAR. -/
def sltClear (p : Nat) (s : State) : Code × State :=
  if s.slave p then (.state, s)
  else
    let m := s.fld (R.SLT_CMD_ARG_MASK p)
    if m = 0 then (.range, s)
    else (.ok, (List.range 4).foldl (fun s n =>
      let x := s.plane p n
      if bitAt m n && x.on then
        s.setPlane p n { x.setBuf x.live { x.liveBuf with st := .clearing } with
          on := false, clearing := 2 ^ x.live, ovr := false, swap := false, decaying := false }
      else s) s)

/-- SLT RELEASE. -/
def sltRelease (p : Nat) (s : State) : Code × State :=
  if s.slave p then (.state, s)
  else
    let n := s.fld (R.SLT_CMD_ARG_PLANE p)
    let b := s.fld (R.SLT_CMD_ARG_BUF p)
    let x := s.plane p n
    if (x.buf b).st != .full then (.state, s)
    else (.ok, s.setPlane p n (x.setBuf b { x.buf b with st := .clearing }))

/-- SLT SWAP. -/
def sltSwap (p : Nat) (s : State) : Code × State :=
  if s.slave p then (.state, s)
  else
    let n := s.fld (R.SLT_CMD_ARG_PLANE p)
    if !(plEn s p n && plDbuf (s.wordN (R.SLT_PL_CFG p n))) then (.state, s)
    else (.ok, s.setPlane p n { s.plane p n with swap := true })

/-! Colour tables (R175, R176). -/

/-- Index of a count in a table (R175). -/
def colourIdx (mode linSh n : Nat) : Nat :=
  if mode = 0 then min 1023 (n / 2 ^ linSh)
  else
    let v := n + 1
    let e := Nat.log2 v
    let f := if 6 ≤ e then v / 2 ^ (e - 6) % 64 else v * 2 ^ (6 - e) % 64
    min 1023 (64 * e + f)

/-- A write to a colour entry: stored, or discarded with TAB_ERR when its bank is in use (R176). -/
def lutWrite (l b i : Nat) (val be : Nat) (s : State) : State :=
  if s.fld (R.COL_LUT_CFG_BANK l) = b then raise hCol 0 s
  else
    let k := (2 * l + b) * 1024 + i
    let old := Tbl.get 0 s.slt.lut k
    let new := (List.range 3).foldl (fun w j => if bitAt be j then putBits w (8 * j + 7) (8 * j) (bits val (8 * j + 7) (8 * j)) else w) old
    { s with slt := { s.slt with lut := Tbl.set s.slt.lut k new } }

/-- What a count shows in table `l`: the entry of its index in the bank that the working BANK selects, red, green and blue (R175). -/
def colourOf (s : State) (l n : Nat) : Nat :=
  Tbl.get 0 s.slt.lut ((2 * l + s.fld (R.COL_LUT_CFG_BANK l)) * 1024 + colourIdx (s.fld (R.COL_LUT_CFG_MODE l)) (s.fld (R.COL_LUT_CFG_LIN_SH l)) n)

/-- The colour unit's commit point (R176). -/
def colCommit (s : State) : State := applySnap hCol s

/-! Meanings of the commands of spec/06. -/

/-- TRACE_UPDATE_DONE (R160). -/
def execTraceUpdateDone (p : Fin 4) (t : Fin 8) (s : State) : Host.Outcome State Fault Refusal := .next (analysis (traceUpdateDone p t) s)

/-- TRACE_SLOT_FREE (R160): RDY bits written 1 are cleared. -/
def execTraceSlotFree (p : Fin 4) (t : Fin 8) (val : Word) (s : State) : Host.Outcome State Fault Refusal :=
  .next (s.setWord (R.DET_TR_STATUS p t) (s.w1c (R.DET_TR_STATUS p t) (s.wordN (R.DET_TR_STATUS p t)) val.toNat))

/-- PLANE_PERIOD_END (R168). -/
def execPlanePeriodEnd (p n : Fin 4) (s : State) : Host.Outcome State Fault Refusal := .next (analysis (planePeriodEnd p n) s)

/-- PLANE_CLEAR_DONE (R169, R179). -/
def execPlaneClearDone (p n : Fin 4) (b : Fin 2) (s : State) : Host.Outcome State Fault Refusal := .next (planeClearDone p n b s)

/-- DECAY_PASS_START (R171). -/
def execDecayPassStart (p n : Fin 4) (s : State) : Host.Outcome State Fault Refusal := .next (analysis (decayPassStart p n) s)

/-- DECAY_PASS_DONE (R171). -/
def execDecayPassDone (p n : Fin 4) (s : State) : Host.Outcome State Fault Refusal := .next (decayPassDone p n s)

/-- TILE_WRITE_DONE (R174). -/
def execTileWriteDone (p : Fin 4) (s : State) : Host.Outcome State Fault Refusal := .next (tileWriteDone p s)

/-- LUT_WRITE (R176). -/
def execLutWrite (l : Fin 4) (b : Fin 2) (i : Fin 1024) (val : Word) (be : BitVec 4) (s : State) : Host.Outcome State Fault Refusal :=
  .next (lutWrite l b i val.toNat be.toNat s)

/-- DET_SLT_COMMIT (R177 to R179). -/
def execDetSltCommit (silt : Bool) (p : Fin 4) (s : State) : Host.Outcome State Fault Refusal :=
  .next (if silt then sltCommit p s else detCommit p s)

/-- DET_CLEAR (R181). -/
def execDetClear (p : Fin 4) (s : State) : Host.Outcome State Fault Refusal := .next (runCmd (hDet p) 1 (detClear p) s)

/-- SLT_CLEAR (R181). -/
def execSltClear (p : Fin 4) (s : State) : Host.Outcome State Fault Refusal := .next (runCmd (hSlt p) 1 (sltClear p) s)

/-- SLT_RELEASE (R181). -/
def execSltRelease (p : Fin 4) (s : State) : Host.Outcome State Fault Refusal := .next (runCmd (hSlt p) 2 (sltRelease p) s)

/-- SWAP (R181). -/
def execSwap (p : Fin 4) (s : State) : Host.Outcome State Fault Refusal := .next (runCmd (hSlt p) 3 (sltSwap p) s)

end Sys2Proof.Machine
end

