-- ==== Sys2Proof/Machine/Trib.lean ====
section
/-! DEFINITION. The tributary bank (spec/07): coarse channelisers, contexts, reports, events and IQ records. -/

namespace Sys2Proof.Machine

def State.ctx (s : State) (i : Nat) : Ctx := Tbl.get Ctx.init s.trb.ctx i
def State.setCtx (s : State) (i : Nat) (x : Ctx) : State := { s with trb := { s.trb with ctx := Tbl.set s.trb.ctx i x } }

/-! Coarse channelisers (R184 to R186). -/

/-- The channeliser hop H_c in points. -/
def hcOf (fmt : Nat) (bond : Bool) : Nat := if bond then 8192 else if fmtCplx fmt then 2048 else 4096
def Grid.hc (g : Grid) : Nat := hcOf g.fmt g.bond
/-- Channels of a port. -/
def channelsOf (bond : Bool) : Nat := if bond then 8192 else 4096

/-- Was a point of the span of coarse sample `m` of the present grid present? -/
def coarsePresent (s : State) (p : Nat) (g : Grid) (m : Nat) : Bool := (gridInput s p g (m * g.hc) (16 * g.hc)).2.2

/-- `a / b` rounded to nearest, ties to even, for a divisor of either sign. -/
def rneQuot (a b : Int) : Int := rneDiv (if b < 0 then -a else a) b.natAbs

/-- `z × exp(-j2π t / l)`, with 31 more fraction bits. -/
def rotate (l t : Nat) (z : Cx) : Cx := if z.1 = 0 ∧ z.2 = 0 then (0, 0) else Cx.mul z (twiddle 31 l t)

/-- Sum of complex numbers. -/
def cxSum (l : List Cx) : Cx := l.foldl Cx.add (0, 0)

/-- The centre of a channel in steps of Δ from the port's zero frequency, modulo the 2 H_c steps of its point rate (R184). -/
def Grid.centre (g : Grid) (ch : Nat) : Nat := if fmtCplx g.fmt && !g.bond then (ch + 2048) % 4096 else ch

/-- The points of a span as complex numbers. -/
def spanPoints (cplx : Bool) : List Int → List Cx
  | a :: b :: t => if cplx then (a, b) :: spanPoints cplx t else (a, 0) :: (b, 0) :: spanPoints cplx t
  | [a] => [(a, 0)]
  | [] => []

/-- A coarse sample before it is clamped (R184 to R186): the prototype's sum over the points of its span with the channel's centre moved to 0 Hz, not inverted, its gain 1 at the centre;
zero where no point of its span was present (R206).  The prototype's coefficients and the last place are free. -/
def coarseRaw (present : Bool) (s : State) (p : Nat) (g : Grid) (ch m : Nat) : Cx :=
  if present then
    let x := spanPoints (fmtCplx g.fmt && !g.bond) (gridInput s p g (m * g.hc) (16 * g.hc)).1
    let h := (List.range (16 * g.hc)).map (Config.coarseTap g.hc)
    let y := cxSum (((x.zip h).zip (List.range (16 * g.hc))).map (fun e =>
      rotate (2 * g.hc) (g.centre ch * (m * g.hc + e.2)) (Cx.smul e.1.2 e.1.1)))
    let d := (h.foldl (· + ·) 0) * 2 ^ 25
    let er := Config.coarseErr p ch (Tbl.get 0 s.trb.base p + m)
    (rneQuot y.1 d + clampI (-1) 1 er.1, rneQuot y.2 d + clampI (-1) 1 er.2)
  else (0, 0)

/-- Does a coarse sample clamp (R186)? -/
def coarseClamps (present : Bool) (s : State) (p : Nat) (g : Grid) (ch m : Nat) : Bool :=
  let x := coarseRaw present s p g ch m
  clampsS 24 x.1 || clampsS 24 x.2

/-- A coarse sample as the contexts take it. -/
def coarseVal (s : State) (p : Nat) (g : Grid) (ch m : Nat) : Cx :=
  let x := coarseRaw (coarsePresent s p g m) s p g ch m
  (clampS 24 x.1, clampS 24 x.2)

/-- Channels in which coarse sample `m` clamps. -/
def coarseSats (s : State) (p : Nat) (g : Grid) (m : Nat) : Nat :=
  ((List.range (channelsOf g.bond)).filter (fun c => coarseClamps (coarsePresent s p g m) s p g c m)).length

/-- Clamped components are counted (R186). -/
def countCoarse (p k : Nat) (s : State) : State := if 0 < k then raise (hChn p) 0 (s.bump64 (R.TRB_CH_SAT p) k) else s

/-- The next coarse sample of every channel is released once its span is. -/
def coarseSample (p : Nat) (s : State) : State :=
  match Tbl.find s.trb.grid p with
  | none => s
  | some g =>
    if s.slave p || decide (g.points s p < g.next * g.hc + 16 * g.hc) then s
    else
      countCoarse p (coarseSats s p g g.next) { s with trb := { s.trb with grid := Tbl.set s.trb.grid p { g with next := g.next + 1 } } }

/-! Settings of a context (R214). -/

/-- Words 0 to 9 of a context's settings. -/
structure CSet where
  ctl : Nat
  ftw : Nat
  dec : Nat
  vid : Nat
  rep : Nat
  thr : Nat
  min : Nat
  occ : Nat
  iq : Nat
  dbo : Nat
  deriving DecidableEq, Repr

def cset (w : Nat → Nat) : CSet :=
  { ctl := w 0, ftw := w 1, dec := w 2, vid := w 3, rep := w 4, thr := w 5, min := w 6, occ := w 7, iq := w 8, dbo := w 9 }

/-- The working settings of context `i`. -/
def State.cset (s : State) (i : Nat) : CSet := Sys2Proof.Machine.cset (fun w => s.wordN (R.TRB_CTX_CTL i + 4 * w))

def CSet.en (c : CSet) : Bool := bitAt c.ctl 0
def CSet.straddle (c : CSet) : Bool := bitAt c.ctl 1
def CSet.port (c : CSet) : Nat := bits c.ctl 3 2
def CSet.chan (c : CSet) : Nat := bits c.ctl 16 4
def CSet.repEn (c : CSet) : Bool := bitAt c.ctl 19
def CSet.evEn (c : CSet) : Bool := bitAt c.ctl 20
def CSet.weirEn (c : CSet) : Bool := bitAt c.ctl 21
def CSet.iqEn (c : CSet) : Bool := bitAt c.ctl 22
def CSet.ftwI (c : CSet) : Int := sext 32 c.ftw
def CSet.rc (c : CSet) : Nat := bits c.dec 13 0
def CSet.blk (c : CSet) : Nat := 2 ^ bits c.dec 18 16
def CSet.vlen (c : CSet) : Nat := bits c.vid 9 0 + 1
def CSet.vidOff (c : CSet) : Nat := bits c.vid 31 10
def CSet.repN (c : CSet) : Nat := bits c.rep 15 0 + 1
def CSet.thrOn (c : CSet) : Int := sext 16 c.thr
def CSet.hyst (c : CSet) : Nat := bits c.thr 31 16
def CSet.minOn (c : CSet) : Nat := bits c.min 15 0 + 1
def CSet.minOff (c : CSet) : Nat := bits c.min 31 16 + 1
def CSet.occThr (c : CSet) : Int := sext 16 c.occ
def CSet.slot (c : CSet) : Nat := bits c.iq 7 0
def CSet.dbOff (c : CSet) : Int := sext 16 c.dbo
/-- NCH: channels that the context takes. -/
def CSet.nch (c : CSet) : Nat := if c.straddle then 2 else 1
/-- Outputs of a report (R202). -/
def CSet.repLen (c : CSet) : Nat := c.blk * c.repN

/-- D of a context's port: 1 for a bonded pair (R187). -/
def ctxD (s : State) (p : Nat) : Nat := if s.bonded p then 1 else fmtD (s.portSt p).fmt

/-- Weight of a context (R187). -/
def CSet.weight (s : State) (c : CSet) : Nat := if c.en then 16 * c.nch / ctxD s c.port else 0

/-- IDLE_WHY (R207, R214). -/
def ctxWhy (s : State) (c : CSet) : Nat :=
  if !c.en then 1 else if s.slave c.port then 2 else if channelsOf (s.bonded c.port) < c.chan + c.nch then 3 else 0

/-- Working weight of engine `e` without context `skip`, and its enabled contexts (R187, TRB_ENG_LOAD). -/
def engLoad (s : State) (e : Nat) (skip : Option Nat) : Nat × Nat :=
  (upFrom (1024 * e) 1024).foldl (fun a i => if some i = skip then a else (a.1 + (s.cset i).weight s, a.2 + b2n (s.cset i).en)) (0, 0)

/-- Numbers of the contexts that are enabled, but one. -/
def othersEnabled (s : State) (i : Nat) : List Nat := (List.range 16384).filter (fun j => j != i && (s.cset j).en)

/-- Reports per second of a context as a fraction (R189). -/
def CSet.repRate (s : State) (c : CSet) : Nat × Nat := (6250000 * c.nch, 2 * c.rc * ctxD s c.port * c.repLen)

/-- Sum of fractions in lowest terms. -/
def fracAdd (a b : Nat × Nat) : Nat × Nat :=
  let n := a.1 * b.2 + b.1 * a.2
  let d := a.2 * b.2
  (n / Nat.gcd n d, d / Nat.gcd n d)

/-- The first failing check of R193, 0 when all pass. -/
def ctxReason (s : State) (i : Nat) (c : CSet) : Nat :=
  if c.rc = 0 ∨ 12800 < c.rc ∨ 64 < c.blk ∨ channelsOf (s.bonded c.port) < c.chan + c.nch then 1
  else if (if c.straddle then 832 * c.rc * 2 ^ 32 < c.ftwI.natAbs * 4000 * c.rc + 800 * 2 ^ 32
           else 10 * c.rc * 2 ^ 32 < c.ftwI.natAbs * 40 * c.rc + 8 * 2 ^ 32) then 2
  else if 16384 < (engLoad s (i / 1024) (some i)).1 + c.weight s then 3
  else if c.en && c.iqEn && (othersEnabled s i).any (fun j => (s.cset j).iqEn && (s.cset j).slot == c.slot) then 4
  else if s.fld R.TRB_VID_POOL_COUNT * bankBytes < c.vidOff * 64 + 4 * c.vlen then 5
  else
    let rs := ((othersEnabled s i).filter (fun j => (s.cset j).repEn)).map (fun j => (s.cset j).repRate s)
    let t := (if c.en && c.repEn then c.repRate s :: rs else rs).foldl fracAdd (0, 1)
    if 100000000 * t.2 < t.1 then 6 else 0

/-! Spans and settling (R197, R198). -/

/-- Chain support of an output in chain inputs. -/
def CSet.support (c : CSet) : Nat := 133 * c.rc + 31 * b2n c.straddle - 5

/-- First and last point of output `n`; the first one of an early output lies before the grid's first point. -/
def outFirst (g : Grid) (c : CSet) (m0 n : Nat) : Int := ((m0 : Int) + (((2 * c.rc * (n + 1) : Nat) : Int) - (c.support : Nat)) / ((c.nch : Nat) : Int)) * (g.hc : Nat)
def outLast (g : Grid) (c : CSet) (m0 n : Nat) : Nat := (m0 + (2 * c.rc * (n + 1) - 1) / c.nch) * g.hc + 16 * g.hc - 1

/-- First settled output; first settled video value. -/
def firstSettled (c : CSet) (x : Ctx) : Nat := x.nc + cdiv c.support (2 * c.rc) - 1
def firstVideo (c : CSet) (x : Ctx) : Nat := max (firstSettled c x) x.nv + c.vlen - 1

/-- DT of a point of a grid; a point before the first one has the DT that the grid's schedule gives when it is followed back.  DESIGN CHOICE (log entry 75). -/
def pointDt (s : State) (p : Nat) (g : Grid) (n : Int) : Nat :=
  if 0 ≤ n then gridDt s p g n.toNat else gridDt s p g 0 - n.natAbs * (if g.bond then 1280 else pointUnits g.fmt)

/-- OR of the PSW bits that outputs `a` to `b` collect, and whether a sample was present. -/
def spanPsw (s : State) (g : Grid) (c : CSet) (x : Ctx) (a b : Nat) : Nat × Bool :=
  let p := c.port
  let lo := (outFirst g c x.m0 a).toNat
  let hi := outLast g c x.m0 b
  let inp := gridInput s p g lo (hi + 1 - lo)
  let ms := upFrom (lo / g.hc) ((hi + 1) / g.hc - 15 - lo / g.hc)
  let sat := ms.any (fun m =>
      let present := coarsePresent s p g m
      coarseClamps present s p g c.chan m || (c.straddle && coarseClamps present s p g (c.chan + 1) m)) ||
    x.sats.any (fun n => decide (a ≤ n) && decide (n ≤ b))
  let pois := x.pois.any (fun n => decide (a ≤ n) && decide (n ≤ b)) || (match x.spoilt with | some n => decide (n ≤ b) | none => false)
  (inp.2.1 ||| (if sat then pswSat else 0) ||| (if pois then pswPoison else 0) ||| s.memDeg, inp.2.2)

/-! Records (R208 to R211). -/

/-- The 64-byte layout of R209 from 0x00 to 0x27. -/
def recHead (i seq kind : Nat) (forced : Bool) (g : Grid) (c : CSet) (psw tune samples dtF dtL : Nat) : List Byte :=
  leBytes 4 seq ++ leBytes 2 i ++ leBytes 1 kind ++
  leBytes 1 (b2n c.straddle + 2 * b2n forced + 4 * c.port + 16 * b2n g.bond) ++ leBytes 2 psw ++ leBytes 2 tune ++ leBytes 4 samples ++
  dtBytes dtF ++ dtBytes dtL

def tuneSeq (s : State) (i : Nat) : Nat := s.fld (R.TRB_CTX_STAT_TUNE_SEQ i)

/-- Queue a report or event record, or discard it (R208). -/
def queueRec (bs : List Byte) (s : State) : State :=
  if s.trb.recq.length < 4096 then { s with trb := { s.trb with recq := s.trb.recq ++ [bs] } }
  else raise hBank 1 (s.bump64 R.TRB_RECQ_DROP 1)

/-- Queue an IQ record, or discard it (R211). -/
def queueIq (slot : Nat) (bs : List Byte) (s : State) : State :=
  if s.trb.iqq.length < 1024 then { s with trb := { s.trb with iqq := s.trb.iqq ++ [(slot, bs)] } }
  else raise hBank 2 (s.bump64 R.TRB_IQ_DROP 1)

/-- First output that contributes to a report of outputs `repFrom` to `n - 1`: by its power, or within the window of the first settled video value. -/
def repFirst (c : CSet) (x : Ctx) : Nat :=
  if x.samples = 0 then x.repFrom
  else
    let fo := max x.repFrom (firstSettled c x)
    let fv := max x.repFrom (firstVideo c x)
    if fv < x.n then min fo (fv + 1 - c.vlen) else fo

/-- PSW of the open report. -/
def repPsw (s : State) (g : Grid) (c : CSet) (x : Ctx) : Nat × Bool :=
  let sp := spanPsw s g c x (repFirst c x) (x.n - 1)
  (sp.1 ||| (if x.repFrom < firstVideo c x then pswSettling else 0) ||| (if x.occSat then pswSat else 0), sp.2 && x.samples != 0)

/-- POWER of the open report. -/
def repPower (x : Ctx) : Nat := if x.samples = 0 then 0 else f32OfDy (Dy.div64 x.sum (Dy.ofInt (x.samples : Nat)))

/-- The open report ends: a new one begins with the next output that begins a block of `blk` outputs (R202).  DESIGN CHOICE (log entry 75): the outputs before it belong to no report. -/
def Ctx.newReport (x : Ctx) (blk : Nat) : Ctx :=
  { x with repFrom := cdiv x.n blk * blk, sum := Dy.zero, peak := 0, peakN := 0, occ := 0, samples := 0, occSat := false }

/-- End the open report and emit it with the outputs that it holds (R202); a report with a sample taken under calibration is held (R205, R18). -/
def endReport (i : Nat) (g : Grid) (c : CSet) (s : State) : State :=
  let x := s.ctx i
  if x.n ≤ x.repFrom || !c.repEn then s.setCtx i (x.newReport c.blk)
  else
    let ps := repPsw s g c x
    let stale := bitAt ps.1 1
    let own := [repPower x, x.peak, x.occ, x.peakN, x.samples, ps.1, b2n ps.2]
    let vals := if stale then x.lastRep.getD [0, 0, 0, 0, 0, 0, 0] else own
    let v (k : Nat) : Nat := vals[k]?.getD 0
    let psw := if stale then pswMake ((ps.1 ||| v 5 ||| pswStale)) (v 6 == 1) else pswMake ps.1 ps.2
    let seq := s.wordN (R.TRB_CTX_RSEQ i)
    let bs := recHead i seq 0 false g c psw (tuneSeq s i) (v 4) (pointDt s c.port g (outFirst g c x.m0 (repFirst c x)))
        (gridDt s c.port g (outLast g c x.m0 (x.n - 1))) ++
      leBytes 4 (v 0) ++ leBytes 4 (v 1) ++ leBytes 4 (v 2) ++ leBytes 4 (v 3) ++ leBytes 8 0
    let s1 := s.setCtx i { x.newReport c.blk with lastRep := if stale then x.lastRep else some own }
    let s2 := ((s1.setWord (R.TRB_CTX_LPWR i) (v 0)).setFld (R.TRB_CTX_LVID_PEAK i) (enc 16 (dbCode c.dbOff (v 1)).1)).setWord (R.TRB_CTX_RSEQ i) ((seq + 1) % 2 ^ 32)
    queueRec bs s2

/-- EXP of an IQ record (R210). -/
def iqExp (iq : List (Int × Int)) : Int :=
  let m := iq.foldl (fun a y => max a (max y.1.natAbs y.2.natAbs)) 0
  if m = 0 then -40 else (Nat.log2 m : Int) - 20

/-- Samples of an IQ record, 4,032 bytes. -/
def iqBytes (e : Int) (iq : List (Int × Int)) : List Byte :=
  iq.flatMap (fun y => leBytes 2 (enc 16 (clampS 16 (rneScale y.1 (-6 - e)))) ++ leBytes 2 (enc 16 (clampS 16 (rneScale y.2 (-6 - e))))) ++
    leBytes (4 * (1008 - iq.length)) 0

/-- Does a component of an IQ record clamp (R210, R127)? -/
def iqSat (e : Int) (iq : List (Int × Int)) : Bool := iq.any (fun y => clampsS 16 (rneScale y.1 (-6 - e)) || clampsS 16 (rneScale y.2 (-6 - e)))

/-- End the open IQ record and emit it (R210); held under calibration (R205). -/
def endIq (i : Nat) (g : Grid) (c : CSet) (s : State) : State :=
  let x := s.ctx i
  if x.iq.isEmpty then s
  else
    let a := x.n - x.iq.length
    let sp := spanPsw s g c x a (x.n - 1)
    let or := sp.1 ||| (if a < firstSettled c x then pswSettling else 0)
    let stale := bitAt or 1
    let e := iqExp x.iq
    let clamp := if iqSat e x.iq && !stale then pswSat else 0
    let own := (x.iq.length, e, iqBytes e x.iq)
    let v := if stale then x.lastIq.getD (x.iq.length, -40, leBytes 4032 0) else own
    let psw := pswMake (or ||| clamp) (sp.2 && (!stale || x.lastIq.isSome))
    let bs := recHead i x.iqSeq 3 false g c psw (tuneSeq s i) v.1 (pointDt s c.port g (outFirst g c x.m0 a))
        (gridDt s c.port g (outLast g c x.m0 (x.n - 1))) ++ leBytes 2 (enc 16 v.2.1) ++ leBytes 22 0 ++ v.2.2
    queueIq c.slot bs (s.setCtx i { x with iq := [], iqSeq := (x.iqSeq + 1) % 2 ^ 32, lastIq := if stale then x.lastIq else some own })

/-- Write and present an ON or OFF record (R203, R204, R209). -/
def emitEvent (i : Nat) (g : Grid) (c : CSet) (on forced : Bool) (psw dtF dtL edge level run : Nat) (s : State) : State :=
  let x := s.ctx i
  let bs := recHead i x.evSeq (if on then 1 else 2) forced g c psw (tuneSeq s i) 0 dtF dtL ++
    (if forced then leBytes 12 0 else dtBytes edge) ++ leBytes 4 level ++ leBytes 4 run ++ leBytes 4 0
  let s1 := if c.evEn then queueRec bs (s.setCtx i { x with evSeq := (x.evSeq + 1) % 2 ^ 32 }) else s
  if c.weirEn then
    { s1 with weir := { s1.weir with trb := { port := c.port, ctx := i, on := on, dtLast := dtL, occ := if forced then dtL else edge } :: s1.weir.trb } }
  else s1

/-- Close an open ON by a forced OFF record (R199, R203); LEVEL and RUN of that record are not stated. -/
def forceOff (i : Nat) (g : Grid) (c : CSet) (s : State) : State :=
  let x := s.ctx i
  if !x.on then s.setCtx i { x with run := 0 }
  else
    let s0 := s.setCtx i { x with on := false, run := 0 }
    let lv := s0.takeFree (2 ^ 16)
    let rn := lv.2.takeFree (2 ^ 32)
    let n := x.n - 1
    let sp := spanPsw s g c x n n
    emitEvent i g c false true (pswMake sp.1 sp.2) (pointDt s c.port g (outFirst g c x.m0 n)) (gridDt s c.port g (outLast g c x.m0 n)) 0 lv.1 rn.1 rn.2

/-- A grid for a port that has none. -/
def State.chGrid (s : State) (p : Nat) : Grid := (Tbl.find s.trb.grid p).getD (newGrid s 0 p (s.released p) true)

/-- What every commit and reset ends (R199). -/
def endOpen (i : Nat) (s : State) : State :=
  let c := s.cset i
  let g := s.chGrid c.port
  endIq i g c (endReport i g c s)

/-- The first row of R199: chain, counter and video cleared, qualification OFF, from coarse sample `m0` on. -/
def Ctx.cleared (x : Ctx) (m0 : Nat) : Ctx :=
  { x with m0 := m0, ins := 0, n := 0, phase := 0, vid := [], nc := 0, nv := 0, on := false, run := 0, repFrom := 0, sum := Dy.zero, peak := 0, peakN := 0,
           occ := 0, samples := 0, iq := [], sats := [], reset := false, chain := Chain.init, vsum := 0, occSat := false, spoilt := none, pois := [] }

/-- Coarse sample with which a context of a port resumes: the one after the last it took, or the first of the last round. -/
def resumeAt (s : State) (i : Nat) (c : CSet) (same : Bool) : Nat :=
  let x := s.ctx i
  if same then x.m0 + x.ins / c.nch else Tbl.get 0 s.trb.mark c.port

/-- Reset of a context by the first row of R199. -/
def resetCtx (i : Nat) (s : State) : State :=
  let c := s.cset i
  let s1 := forceOff i (s.chGrid c.port) c (endOpen i s)
  s1.setCtx i ((s1.ctx i).cleared (resumeAt s1 i c (ctxWhy s c == 0)))

/-- Apply or reject the snapshot of a context at its commit point (R193, R199). -/
def ctxApply (i : Nat) (s : State) : State :=
  match (s.ctx i).snap with
  | none => s
  | some ws =>
    let s0 := s.setCtx i { s.ctx i with snap := none }
    let old := s.cset i
    let t := overlay s0 ((List.range ws.length).map (fun k => (R.TRB_CTX_CTL i + 4 * k, ws[k]?.getD 0)))
    let c := t.cset i
    let why := ctxReason s0 i c
    if why ≠ 0 then
      addLog hBank 3 2 why i 0 (raise hBank 0
        (((s0.setFlag (R.TRB_CTX_STAT_CFG_REJ i) true).setFld (R.TRB_CTX_STAT_REASON i) why).bump64 R.TRB_CFG_REJ 1))
    else
      let first := (!old.en && c.en) || old.port != c.port || old.chan != c.chan || old.straddle != c.straddle || old.rc != c.rc
      let ftw := old.ftw != c.ftw
      let vid := old.vlen != c.vlen || old.vidOff != c.vidOff
      let thr := old.thr != c.thr || old.min != c.min
      let s1 := endOpen i s0
      let s2 := if first || ftw || vid then forceOff i (s1.chGrid old.port) old s1 else s1
      let m0 := resumeAt s2 i (if old.port == c.port && ctxWhy s old == 0 then old else c) (old.port == c.port && ctxWhy s old == 0)
      let x := s2.ctx i
      let y := if first then x.cleared m0
        else
          { x with nc := if ftw then x.n else x.nc
                   nv := if ftw || vid then x.n else x.nv
                   vid := if vid then [] else x.vid
                   vsum := if vid then 0 else x.vsum
                   repFrom := cdiv x.n c.blk * c.blk
                   run := if thr then 0 else x.run }
      let s3 := overlay (s2.setCtx i { y with lastRep := none, lastIq := none }) ((List.range ws.length).map (fun k => (R.TRB_CTX_CTL i + 4 * k, ws[k]?.getD 0)))
      ((s3.setFlag (R.TRB_CTX_STAT_CFG_REJ i) false).setFld (R.TRB_CTX_STAT_REASON i) 0).setFld (R.TRB_CTX_STAT_TUNE_SEQ i) (tuneSeq s i + 1)

/-- What waits for a context's block boundary takes effect (R192, R212). -/
def ctxPending (i : Nat) (s : State) : State :=
  let x := s.ctx i
  let s1 := if x.report then let c := s.cset i; (fun t => t.setCtx i { t.ctx i with report := false }) (endReport i (s.chGrid c.port) c s) else s
  let s2 := ctxApply i s1
  if x.reset then (if (s2.cset i).en then resetCtx i s2 else s2.setCtx i { s2.ctx i with reset := false }) else s2

/-- Does a context stand at the start of an output block? -/
def atBlock (c : CSet) (x : Ctx) : Bool := x.ins == 2 * c.rc * x.n && x.n % c.blk == 0

/-! Outputs (R195, R200 to R205). -/

/-- q of R200. -/
def vidQ (w : Nat) : Nat := let v := (dyOfF32 w).scale 58; min (if 0 ≤ v.e then v.m * ((2 ^ v.e.toNat : Nat) : Int) else asr v.m (-v.e).toNat).toNat (2 ^ 64 - 1)

/-- Do the video histories of two contexts overlap (R191)? -/
def vidOverlap (a b : CSet) : Bool := decide (a.vidOff * 64 < b.vidOff * 64 + 4 * b.vlen) && decide (b.vidOff * 64 < a.vidOff * 64 + 4 * a.vlen)

/-- The point at the centre of an output's chain support. -/
def centrePoint (g : Grid) (c : CSet) (m0 n : Nat) : Int := (outFirst g c m0 n + (outLast g c m0 n : Nat)) / 2

/-- Qualification on the settled video value of output `n` (R203). -/
def qualify (i : Nat) (g : Grid) (c : CSet) (n : Nat) (code : Int) (clamp : Bool) (s : State) : State :=
  let x := s.ctx i
  let hit := if x.on then decide (code < c.thrOn - c.hyst) else decide (c.thrOn ≤ code)
  if !hit then s.setCtx i { x with run := 0 }
  else
    let first := x.run == 0
    let y := { x with run := x.run + 1, onset := if first then n else x.onset,
                      edge := if first then pointDt s c.port g (centrePoint g c x.m0 n) else x.edge }
    if y.run < (if x.on then c.minOff else c.minOn) then s.setCtx i y
    else
      let a := y.onset + 1 - c.vlen
      let sp := spanPsw s g c y a n
      let s1 := s.setCtx i { y with on := !x.on, run := 0, onAt := if x.on then x.onAt else y.onset }
      emitEvent i g c (!x.on) false (pswMake (sp.1 ||| (if clamp then pswSat else 0)) sp.2) (pointDt s c.port g (outFirst g c y.m0 a))
        (gridDt s c.port g (outLast g c y.m0 n)) y.edge (enc 16 code) (if x.on then (y.onset - x.onAt) % 2 ^ 32 else y.run) s1

/-! The filter chain (R194, R195). -/

/-- Fraction bits of the CIC filter's inputs: as many as its 100-bit integrators leave, 31 at most.  DESIGN CHOICE (log entry 75). -/
def cicFrac (rc : Nat) : Nat := min 31 (95 - clog2 (rc ^ 6))

/-- Phase `k` of the half-band interpolation of the samples of a channel, newest first, with 10 more fraction bits (R194): gain 1. -/
def halfOut (k : Nat) (x : List Cx) : Cx :=
  let h := (List.range 32).map Config.halfTap
  let y := cxSum ((x.zip (List.range 16)).map (fun e => Cx.smul (Config.halfTap (2 * e.2 + k)) e.1))
  let d := h.foldl (· + ·) 0
  if x.all (fun z => z == (0, 0)) then (0, 0) else (rneQuot (2048 * y.1) d, rneQuot (2048 * y.2) d)

/-- Chain input `j` before the NCO, with 31 fraction bits: the channel's sample, or the two channels' interpolated, each shifted by Δ/2 to the midpoint between them, and added (R194).
DEDUCED (log entry 75): the midpoint lies Δ/2 above the lower channel's centre and Δ/2 below the upper one's, and the shifts' phase counts from the grid's first coarse sample. -/
def chainIn (c : CSet) (m0 j : Nat) (half : List (Cx × Cx)) : Cx :=
  if c.straddle then
    let k := 2 * m0 + j
    let lo := rotate 8 k (halfOut (j % 2) (half.map Prod.fst))
    let hi := rotate 8 (7 * k) (halfOut (j % 2) (half.map Prod.snd))
    (rneShr (lo.1 + hi.1) 31, rneShr (lo.2 + hi.2) 31)
  else match half with | x :: _ => Cx.smul 1024 x.1 | [] => (0, 0)

/-- The integrators of the CIC filter take an input (R195): 100 bits each, wrapping. -/
def cicInteg : Cx → List Cx → List Cx
  | _, [] => []
  | v, x :: t => let y := (swrap 100 (x.1 + v.1), swrap 100 (x.2 + v.2)); y :: cicInteg y t

/-- Its combs take the last integrator's value at the decimated rate: the combs after it and the CIC output. -/
def cicComb : Cx → List Cx → List Cx × Cx
  | v, [] => ([], v)
  | v, x :: t => let r := cicComb (swrap 100 (v.1 - x.1), swrap 100 (v.2 - x.2)) t; (v :: r.1, r.2)

/-- Chain input `j` of a context enters its chain at an NCO phase of 32 bits, of which 20 count (R195). -/
def chainStep (s : State) (g : Grid) (c : CSet) (m0 phase j : Nat) (x : Chain) : Chain :=
  let half := if j % c.nch = 0 then
      ((coarseVal s c.port g c.chan (m0 + j / c.nch), if c.straddle then coarseVal s c.port g (c.chan + 1) (m0 + j / c.nch) else (0, 0)) :: x.half).take 16
    else x.half
  let w := rotate (2 ^ 20) (phase / 2 ^ 12) (chainIn c m0 j half)
  let sh := 62 - cicFrac c.rc
  let ig := cicInteg (rneShr w.1 sh, rneShr w.2 sh) x.integ
  if (j + 1) % c.rc = 0 then
    let r := cicComb (ig.getLast?.getD (0, 0)) x.comb
    { half := half, integ := ig, comb := r.1, fir := (r.2 :: x.fir).take 128 }
  else { x with half := half, integ := ig }

/-- Output of the decimating FIR (R195), in units of 2^-21: 128 taps of linear phase over the CIC outputs, gain 1 with the CIC filter's R_C^6 divided out. -/
def firOut (rc : Nat) (fir : List Cx) : Cx :=
  let h := (List.range 128).map (fun k => Config.firTap rc (min k (127 - k)))
  let y := cxSum ((fir.zip h).map (fun e => Cx.smul (e.2 * 2 ^ 21) e.1))
  let d := (h.foldl (· + ·) 0) * ((rc ^ 6 * 2 ^ cicFrac rc : Nat) : Int)
  if fir.all (fun z => z == (0, 0)) then (0, 0) else (rneQuot y.1 d, rneQuot y.2 d)

/-- A component with the free error that the rules leave: 1 LSB, and the gain's 2^-20. -/
def chainErr (y e : Int) : Int := y + clampI (-(1 + (y.natAbs / 2 ^ 20 : Nat))) (1 + (y.natAbs / 2 ^ 20 : Nat)) e

/-- y[n] before its clamp; zero where no sample of its span was present, free from the output on where the chain's state could not be read back (R259, log entry 75). -/
def chainOut (i : Nat) (present : Bool) (rc : Nat) (x : Ctx) (s : State) : Cx × State :=
  if x.spoilt.isSome then
    let a := s.takeFree (2 ^ 24)
    let b := a.2.takeFree (2 ^ 24)
    ((sext 24 a.1, sext 24 b.1), b.2)
  else if present then
    let y := firOut rc x.chain.fir
    let e := Config.ctxErr i s.freeCtr
    ((chainErr y.1 e.1, chainErr y.2 e.2), { s with freeCtr := s.freeCtr + 1 })
  else (firOut rc x.chain.fir, s)

/-- A context takes its chain inputs up to number `m`. -/
def ctxTake (i : Nat) (g : Grid) (c : CSet) (m : Nat) (s : State) : State :=
  let x := s.ctx i
  s.setCtx i { x with
    ins := m, phase := (x.phase + c.ftw * (m - x.ins)) % 2 ^ 32
    chain := (upFrom x.ins (m - x.ins)).foldl (fun ch j => chainStep s g c x.m0 ((x.phase + c.ftw * (j - x.ins)) % 2 ^ 32) j ch) x.chain }

/-- Device address of the chain state of a context: 2 KiB (R190). -/
def chainAddr (s : State) (i : Nat) : Nat := poolBase + s.fld R.TRB_STATE_POOL_BASE * bankBytes + 2048 * i

/-- The engine fetches a context's chain state from the Pool; what it cannot read back spoils the outputs from the next on (R259). -/
def chainFetch (i : Nat) (s : State) : State :=
  if s.poisoned (chainAddr s i) 2048 then (let x := s.ctx i; s.setCtx i { x with spoilt := some (x.spoilt.getD x.n) }) else s

/-- It stores the chain state back; the layout of the 2 KiB is not stated, so their bytes are free. -/
def chainStore (i : Nat) (s : State) : State :=
  let r := s.takeFree (2 ^ 16384)
  unitPoolWrite hBank (chainAddr s i) (leBytes 2048 r.1) r.2

/-- Device address of the video history's entry of output `n`. -/
def vidAddr (s : State) (c : CSet) (n : Nat) : Nat := poolBase + s.fld R.TRB_VID_POOL_BASE * bankBytes + c.vidOff * 64 + 4 * (n % c.vlen)

/-- One output y[n] of a context with its power and video value (R195, R200 to R203). -/
def ctxOutput (i : Nat) (g : Grid) (c : CSet) (overlap : Bool) (s : State) : State :=
  let x := s.ctx i
  let n := x.n
  let fr := chainOut i (spanPsw s g c x n n).2 c.rc x s
  let f := fr.1
  let sat := clampsS 24 f.1 || clampsS 24 f.2
  let re := clampS 24 f.1
  let im := clampS 24 f.2
  let pw := f32OfDy ⟨re * re + im * im, -42⟩
  let lost := decide (x.vid.length = c.vlen) && s.poisoned (vidAddr s c n) 4
  let old := if x.vid.length = c.vlen then (if lost then 0 else vidQ (x.vid.getLast?.getD 0)) else 0
  let sum := (x.vsum + vidQ pw + 2 ^ 74 - old) % 2 ^ 74
  let vr := fr.2.takeFree (2 ^ 32)
  let v := if overlap then vr.1 else f32OfDy (Dy.divRound 24 (-149) ⟨(sum : Nat), -58⟩ (Dy.ofInt (c.vlen : Nat)))
  let s1 := if overlap then vr.2 else fr.2
  let dc := dbCode c.dbOff v
  let inRep := decide (x.repFrom ≤ n)
  let sOut := inRep && decide (firstSettled c x ≤ n)
  let vOut := decide (firstVideo c x ≤ n)
  let sVid := inRep && vOut
  let top := sVid && (decide (x.peak < v) || decide (n < max x.repFrom (firstVideo c x) + 1))
  let y := { x with
    n := n + 1, vid := (pw :: x.vid).take c.vlen, vsum := sum, sats := if sat then n :: x.sats else x.sats, pois := if lost then n :: x.pois else x.pois
    sum := if sOut then Dy.add64 x.sum (dyOfF32 pw) else x.sum
    samples := if sOut then x.samples + 1 else x.samples
    peak := if top then v else x.peak
    peakN := if top then n - x.repFrom else x.peakN
    occ := if sVid && decide (c.occThr ≤ dc.1) then x.occ + 1 else x.occ
    occSat := x.occSat || (sVid && dc.2)
    iq := if c.iqEn then x.iq ++ [(re, im)] else x.iq }
  let s2 := unitPoolWrite hBank (vidAddr s c n) (leBytes 4 pw) ((s1.setCtx i y).setFld (R.TRB_CTX_LVID_LATEST i) (enc 16 dc.1))
  let s3 := if sat then raise hBank 3 (s2.bump64 R.TRB_SAT 1) else s2
  let s4 := if vOut && !bitAt (spanPsw s3 g c y (n + 1 - c.vlen) n).1 1 then qualify i g c n dc.1 dc.2 s3 else s3
  let s5 := if y.iq.length = 1008 then endIq i g c s4 else s4
  if n + 1 = y.repFrom + c.repLen then endReport i g c s5 else s5

/-- A context takes its chain inputs up to coarse sample `lim` of its port; each boundary of an output block on the way counts (R192, R197). -/
def ctxRun (i lim : Nat) : Nat → State → State
  | 0, s => s
  | k + 1, s0 =>
    let s := if atBlock (s0.cset i) (s0.ctx i) then ctxPending i s0 else s0
    let c := s.cset i
    if ctxWhy s c ≠ 0 then s
    else
      let x := s.ctx i
      let g := s.chGrid c.port
      let avail := (lim - x.m0) * c.nch
      let next := 2 * c.rc * (x.n + 1)
      if avail < next then ctxTake i g c (max avail x.ins) s
      else ctxRun i lim k (ctxOutput i g c ((othersEnabled s i).any (fun j => vidOverlap c (s.cset j))) (ctxTake i g c next s))

/-- An enabled context is served up to coarse sample `lim` (R187, R190). -/
def ctxServe (i lim : Nat) (s : State) : State := chainStore i (ctxRun i lim (2 * lim + 2) (chainFetch i s))

/-- A context in a scheduling round: a disabled or idle one takes what waits for it at the start of the round (R192, R207). -/
def ctxRound (i : Nat) (s0 : State) : State :=
  let s := if ctxWhy s0 (s0.cset i) ≠ 0 then ctxPending i s0 else s0
  let p := (s.cset i).port
  match Tbl.find s.trb.grid p with
  | none => s
  | some g => if ctxWhy s (s.cset i) = 0 then ctxServe i g.next s else s

/-- One scheduling round of 4,096 SCLK ticks (R187, R191). -/
def trbRound (s : State) : State :=
  let s0 := { s with trb := { s.trb with started := true } }
  let s1 := if s.faultBit hBank 1 then s0 else (s.trb.ctx.map Prod.fst).foldl (fun s i => ctxRound i s) s0
  { s1 with trb := { s1.trb with mark := s1.trb.grid.map (fun e => (e.1, e.2.next)) } }

/-- A context reaches an output block boundary between rounds; one that produces nothing has none (R192). -/
def ctxBlockBoundary (i : Nat) (s : State) : State :=
  if s.faultBit hBank 1 then s
  else if ctxWhy s (s.cset i) = 0 && atBlock (s.cset i) (s.ctx i) then ctxPending i s else s

/-- The enabled contexts of a port that have been touched. -/
def portCtxs (s : State) (p : Nat) : List Nat := (s.trb.ctx.map Prod.fst).filter (fun i => (s.cset i).port == p && (s.cset i).en)

/-- A port's grid ends with the last word released (R116, R206): coarse samples begun are completed at once with zero-fill and GAP, the contexts take them, and what is open ends.
DEDUCED (log entry 75): the contexts take them before they are reset. -/
def trbClose (p : Nat) (s : State) : State :=
  match Tbl.find s.trb.grid p with
  | none => s
  | some g0 =>
    let m := max g0.next (cdiv (g0.points s p) g0.hc)
    let g := { g0 with cut := some (s.released p), cut2 := some (s.released (p + 1)) }
    let s1 := (upFrom g.next (m - g.next)).foldl (fun s k => countCoarse p (coarseSats s p g k) s)
      { s with trb := { s.trb with grid := Tbl.set s.trb.grid p { g with next := m } } }
    let mine := portCtxs s1 p
    let s2 := if s1.faultBit hBank 1 then s1 else (mine.filter (fun i => ctxWhy s1 (s1.cset i) == 0)).foldl (fun s i => ctxServe i m s) s1
    mine.foldl (fun s i => let c := s.cset i; forceOff i (s.chGrid p) c (endOpen i s)) s2

/-- A new grid begins with the next word, but on the odd port of a bond, and every context of the port is reset (R206, R207). -/
def trbOpen (p : Nat) (s : State) : State :=
  let old := match Tbl.find s.trb.grid p with | some g => g.next | none => 0
  let grid := if s.slave p then Tbl.del s.trb.grid p else Tbl.set s.trb.grid p (newGrid s 0 p (s.released p) true)
  let s1 := { s with trb := { s.trb with grid := grid, base := Tbl.upd 0 s.trb.base p (· + old), mark := Tbl.del s.trb.mark p } }
  (portCtxs s p).foldl (fun s i => s.setCtx i ((s.ctx i).cleared 0)) s1

/-- A port fixes a new epoch (R206). -/
def trbEpoch (p : Nat) (s : State) : State := trbOpen p (trbClose p s)

/-- The channelisers start with the die (R185, R440): a provisional grid on every port. -/
def chanStart (s : State) : State := [0, 1, 2, 3].foldl (fun s p => trbOpen p s) s

/-! Commit and commands (R192, R212). -/

/-- A context with a snapshot of its words 0 to 11. -/
def ctxSnapped (s : State) (i : Nat) : Ctx :=
  { s.ctx i with snap := some ((List.range 12).map (fun w => s.shadowN (R.TRB_CTX_CTL i + 4 * w))) }

/-- Snapshot one context. -/
def ctxSnap (i : Nat) (s : State) : State := s.setCtx i (ctxSnapped s i)

/-- COMMIT in the bank unit's CONTROL: every context. -/
def bankCommit (s : State) : State := { s with trb := { s.trb with ctx := (List.range 16384).map (fun i => (i, ctxSnapped s i)) } }

/-- A write of context word 0. -/
def ctxCtlWrite (i v be : Nat) (s : State) : State :=
  let s1 := writeFields (R.TRB_CTX_CTL i) v be s
  if bitAt v 31 && bitAt be 3 then ctxSnap i s1 else s1

def resetCtxCmd (s : State) : Code × State :=
  let i := s.fld R.TRB_CMD_ARG_CTX
  if (s.cset i).en then (.ok, s.setCtx i { s.ctx i with reset := true }) else (.state, s)

def reportCmd (s : State) : Code × State :=
  let i := s.fld R.TRB_CMD_ARG_CTX
  if (s.cset i).en && (s.cset i).repEn then (.ok, s.setCtx i { s.ctx i with report := true }) else (.state, s)

/-- The oldest queued record is written to the ring (R208); a ring of size 0 takes none. -/
def recordWrite (s : State) : State :=
  match s.trb.recq with
  | [] => s
  | bs :: rest =>
    let size := s.wordN R.TRB_REP_REGION_SIZE * 2 ^ 20
    let s1 := { s with trb := { s.trb with recq := rest } }
    if size = 0 then s1
    else
      let seq := s.wordN R.TRB_REP_WSEQ
      let off := if seq = 0 ∧ s.wordN R.TRB_REP_WOFF = 0 then 0 else (s.wordN R.TRB_REP_WOFF + 64) % size
      let base := s.wordN R.TRB_REP_REGION_LO + 2 ^ 32 * bits (s.wordN R.TRB_REP_REGION_HI) 7 0
      ((s1.memWrite (base + off) bs).setWord R.TRB_REP_WOFF off).setWord R.TRB_REP_WSEQ ((seq + 1) % 2 ^ 32)

/-- Records that the ring of an IQ stream holds, and its device address (R211). -/
def iqSlots (s : State) : Nat := 2 ^ s.fld R.TRB_IQ_REGION_HI_IQ_SLOTS_LOG2
def iqBase (s : State) (st : Nat) : Nat :=
  s.wordN R.TRB_IQ_REGION_LO + 2 ^ 32 * s.fld R.TRB_IQ_REGION_HI_ADDR + st * iqSlots s * 4096

/-- The oldest queued IQ record is written to its stream's ring (R211). -/
def iqWrite (s : State) : State :=
  match s.trb.iqq with
  | [] => s
  | (st, bs) :: rest =>
    let seq := s.wordN (R.TRB_IQ_WSEQ st)
    ({ s with trb := { s.trb with iqq := rest } }.memWrite (iqBase s st + seq % iqSlots s * 4096) bs).setWord (R.TRB_IQ_WSEQ st) ((seq + 1) % 2 ^ 32)

/-! What reads show (R190, R214). -/

/-- TRB_CTX_STAT. -/
def ctxStat (s : State) (i : Nat) : Nat :=
  let c := s.cset i
  let x := s.ctx i
  let why := if s.trb.started then ctxWhy s c else 0
  let run := s.trb.started && why == 0 && !s.faultBit hBank 1 && (Tbl.find s.trb.grid c.port).isSome
  s.wordN (R.TRB_CTX_STAT i) + 2 ^ 10 * why + 2 ^ 5 * b2n x.snap.isSome + 2 ^ 4 * b2n x.on +
    2 ^ 3 * b2n (run && decide (x.n ≤ firstVideo c x)) + b2n run

def chStatus (s : State) (p : Nat) : Nat := b2n (!s.slave p && (Tbl.find s.trb.grid p).isSome) + 2 * b2n (s.slave p)

def engLoadWord (s : State) (e : Nat) : Nat := let x := engLoad s e none; x.1 + 2 ^ 16 * x.2

/-- The 64 words of a context in the store view. -/
def ctxView (s : State) (i : Nat) : List Nat :=
  let c := s.cset i
  let x := s.ctx i
  let g := s.chGrid c.port
  let lo (n : Nat) : Nat := n % 2 ^ 32
  let hi (n : Nat) : Nat := n / 2 ^ 32 % 2 ^ 32
  let sum := x.vsum
  let sumBits := f64Bits x.sum
  let opn := decide (x.repFrom < x.n)
  let dtf := if opn then dtPack (pointDt s c.port g (outFirst g c x.m0 (repFirst c x))) else 0
  let psw := if opn then (let r := repPsw s g c x; pswMake r.1 r.2) else 0
  let edge := if x.run = 0 then 0 else dtPack x.edge
  let big := x.iq.foldl (fun a y => max a (max y.1.natAbs y.2.natAbs)) 0
  (List.range 12).map (fun w => s.shadowN (R.TRB_CTX_CTL i + 4 * w)) ++
  [ctxStat s i, s.wordN (R.TRB_CTX_LPWR i), s.wordN (R.TRB_CTX_LVID i), s.wordN (R.TRB_CTX_RSEQ i)] ++
  (List.range 12).map (fun w => s.wordN (R.TRB_CTX_CTL i + 4 * w)) ++
  [x.phase, Config.cicGain c.rc % 2 ^ 24, lo x.n, hi x.n, lo sum, hi sum, sum / 2 ^ 64 % 2 ^ 10 + 2 ^ 16 * x.vid.length,
   b2n x.on + 2 ^ 16 * x.run, lo (firstSettled c x), hi (firstSettled c x),
   lo sumBits, hi sumBits, x.peak, lo x.occ, lo x.samples, lo x.peakN, lo dtf, hi dtf, dtf / 2 ^ 64, psw,
   lo (if x.run = 0 then 0 else x.onset), hi (if x.run = 0 then 0 else x.onset), lo edge, hi edge, edge / 2 ^ 64,
   x.iq.length, f32OfDy ⟨(big : Nat), -21⟩, x.iqSeq] ++ List.replicate 8 0

/-- A byte of the store view at an offset from 0xF1_0000_0000. -/
def ctxViewByte (s : State) (o : Nat) : Byte := ((leBytes 4 ((ctxView s (o / 256))[o % 256 / 4]?.getD 0))[o % 4]?).getD 0

/-! Meanings of the commands of spec/07. -/

/-- COARSE_SAMPLE (R185, R186). -/
def execCoarseSample (p : Fin 4) (s : State) : Host.Outcome State Fault Refusal := .next (analysis (coarseSample p) s)

/-- TRB_ROUND (R187, R194 to R207). -/
def execTrbRound (s : State) : Host.Outcome State Fault Refusal := .next (analysis trbRound s)

/-- CTX_BLOCK_BOUNDARY (R192, R193, R199). -/
def execCtxBlockBoundary (i : Fin 16384) (s : State) : Host.Outcome State Fault Refusal := .next (ctxBlockBoundary i s)

/-- CTX_COMMIT_WRITE (R192). -/
def execCtxCommitWrite (i : Fin 16384) (val : Word) (be : BitVec 4) (s : State) : Host.Outcome State Fault Refusal :=
  .next (ctxCtlWrite i val.toNat be.toNat s)

/-- RESET_CTX (R212). -/
def execResetCtx (s : State) : Host.Outcome State Fault Refusal := .next (runCmd hBank 1 resetCtxCmd s)

/-- REPORT (R212). -/
def execReport (s : State) : Host.Outcome State Fault Refusal := .next (runCmd hBank 2 reportCmd s)

/-- TRB_RECORD_WRITE (R208). -/
def execTrbRecordWrite (s : State) : Host.Outcome State Fault Refusal := .next (recordWrite s)

/-- IQ_RECORD_WRITE (R211). -/
def execIqRecordWrite (s : State) : Host.Outcome State Fault Refusal := .next (iqWrite s)

end Sys2Proof.Machine
end

