-- ==== Sys2Proof/Machine/Weir.lean ====
section
/-! DEFINITION. Condition units, sequencers, capture units and the tag unit of Weir (spec/08). -/

namespace Sys2Proof.Machine

def State.seq (s : State) (n : Nat) : WSeq := Tbl.get WSeq.init s.weir.seq n
def State.setSeq (s : State) (n : Nat) (x : WSeq) : State := { s with weir := { s.weir with seq := s.weir.seq.set n x } }
def State.cap (s : State) (p : Nat) : Cap := Tbl.get Cap.init s.weir.cap p
def State.setCap (s : State) (p : Nat) (x : Cap) : State := { s with weir := { s.weir with cap := s.weir.cap.set p x } }
def Cap.record (c : Cap) (id : Nat) : Rec := Tbl.get Rec.init c.recs id
def Cap.setRec (c : Cap) (id : Nat) (r : Rec) : Cap := { c with recs := c.recs.set id r }

/-- Words of a ring block (R230). -/
def blkWords : Nat := 2048

/-- LEN in force, in blocks. -/
def ringLen (s : State) (p : Nat) : Nat := s.wordN (R.CAP_LEN_ACT p)
def minLive (s : State) (p : Nat) : Nat := s.wordN (R.CAP_MIN_LIVE p)
def ringBase (s : State) (p : Nat) : Nat := s.wordN (R.CAP_RING_REGION_LO p) + 2 ^ 32 * s.wordN (R.CAP_RING_REGION_HI p)

/-- The port whose short-reach grid gives a port its slots: the even port of a bond (R229). -/
def slotPort (s : State) (p : Nat) : Nat := if s.slave p then p - 1 else p

/-- The other port of a formed bond. -/
def bondMate (p : Nat) : Nat := if p % 2 = 0 then p + 1 else p - 1

/-- Words of a ring that `n` points take (R233); on a bond each ring holds every other point. -/
def pointWords (s : State) (p n : Nat) : Nat := if s.bonded p then cdiv n 2 else n * wpp (s.portSt p).fmt

/-! The writer (R230, R231, R234). -/

/-- The number of the block that the writer is in: the last one that has a place. -/
def Cap.curBlk (c : Cap) : Nat := (Option.map Prod.fst (List.getLast? c.pos)).getD 0

/-- Status byte of words (R231). -/
def statusByte (ws : List Smp) : Nat :=
  let o := List.foldl (fun a x => a ||| x.psw) 0 ws
  b2n (bitAt o 1) + 2 * b2n (bitAt o 2) + 4 * b2n (bitAt o 3) + 8 * b2n (bitAt o 4) + 16 * b2n (bitAt o 6)

/-- Write released words that the present block can take. -/
def capWrite (p : Nat) (s : State) : State :=
  let c := s.cap p
  if ringLen s p = 0 then
    s.setCap p
      { c with wr := s.released p }
  else
    let e := min (s.released p) ((c.curBlk + 1) * blkWords)
    if e ≤ c.wr then s
    else
      let ws := s.wordsFrom p c.wr (e - c.wr) e
      let a := ringBase s p + c.cur * 4096 + c.wr % blkWords * 2
      (s.memWrite a (List.flatMap (fun x => leBytes 2 (enc 16 x.v)) ws)).setCap p
        { c with wr := e }

/-- Is the record kept (not FREE)? -/
def Rec.kept (r : Rec) : Bool := r.st != .free

/-- Does the record still take blocks? -/
def Rec.active (r : Rec) : Bool := r.st == .filling || r.st == .opn

/-- Numbers of the blocks that a record covers: those it holds and, while it fills, those up to its end (R235). -/
def Rec.nums (cur : Nat) (r : Rec) : List Nat :=
  if r.kept then
    List.map Prod.fst r.blocks ++ if r.active then upFrom (max (cur + 1) r.first) (r.last + 1 - max (cur + 1) r.first) else []
  else []

/-- Blocks pinned or reserved (R235): P. -/
def Cap.pinned (c : Cap) : List Nat := nubNat (List.flatMap (fun e => Rec.nums c.curBlk e.2) c.recs)

/-- Does a record hold the place? -/
def Cap.placePinned (c : Cap) (b : Nat) : Bool := List.any c.recs fun e => e.2.kept && e.2.blocks.any fun x => x.2 == b

/-- The next place in ring order that no record covers (R234). -/
def Cap.nextPlace (c : Cap) (len : Nat) : Nat :=
  (List.find? (fun b => !c.placePinned b) (List.map (fun i => (c.cur + 1 + i) % len) (List.range len))).getD c.cur

/-- Extents of consecutive places: (first place, number of blocks). -/
def extents : List Nat → List (Nat × Nat)
  | [] => []
  | b :: t =>
    match extents t with
    | (f, n) :: r => if b + 1 = f then (b, n + 1) :: r else (b, 1) :: (f, n) :: r
    | [] => [(b, 1)]

/-- A record is complete: DONE, its id joins the done queue, REC_DONE is raised (R238). -/
def recDone (p id : Nat) (s : State) : State :=
  let c := s.cap p
  let r := c.record id
  let n := min c.wr ((r.last + 1) * blkWords) - r.first * blkWords
  let s1 :=
    s.setCap p
      { c.setRec id { r with st := .done, words := n } with doneq := c.doneq ++ [id] }
  let s2 :=
    List.foldl
      (fun s k =>
        if (s.seq k).opn == some id && k / 4 == p then
          s.setSeq k
            { s.seq k with opn := none }
        else s)
      s1 (List.range 16)
  raise (hCap p) 0 s2

/-- Release a record of one ring: FREE, its blocks rejoin the live ring; its id leaves the done queue, which so holds 1,024 ids at most (R238).  DEDUCED (log entry 76). -/
def freeRec (p id : Nat) (s : State) : State :=
  let c := s.cap p
  s.setCap p
    { c.setRec id { c.record id with st := .free, held := false, blocks := [] } with doneq := c.doneq.filter (· != id) }

/-- Release a record, and its partner on a bond (R237). -/
def releaseRec (p id : Nat) (s : State) : State :=
  let r := (s.cap p).record id
  let s1 := freeRec p id s
  match r.partner with
  | some j =>
    if (((s.cap (bondMate p)).record j).partner == some id && ((s.cap (bondMate p)).record j).kept) then freeRec (bondMate p) j s1 else s1
  | none => s1

/-- End a record at a block (R233, R244): blocks after it leave it; it is DONE when that block is written. -/
def endRec (p id j : Nat) (trunc : Bool) (s : State) : State :=
  let c := s.cap p
  let r := c.record id
  let j := min (max j r.first) r.last
  let s1 :=
    s.setCap p
      (c.setRec id
        { r with st := .filling, trunc := r.trunc || trunc, last := j, blocks := List.filter (fun b => decide (b.1 ≤ j)) r.blocks })
  let s2 :=
    List.foldl
      (fun s k =>
        if (s.seq k).opn == some id && k / 4 == p then
          s.setSeq k
            { s.seq k with opn := none }
        else s)
      s1 (List.range 16)
  if (j + 1) * blkWords ≤ c.wr then recDone p id s2 else s2

/-- The writer completes a block and moves on (R234, R238). -/
def ringBlockWrite (p : Nat) (s : State) : State :=
  let c := s.cap p
  let j := c.curBlk
  if ringLen s p = 0 ∨ c.wr < (j + 1) * blkWords then s
  else
    let st := statusByte (s.wordsFrom p (j * blkWords) blkWords c.wr)
    let s1 := unitPoolWrite (hCap p) (poolBase + bits (s.wordN (R.CAP_STAT_POOL p)) 10 0 * bankBytes + c.cur) (leBytes 1 st) s
    let nxt := c.nextPlace (ringLen s p)
    let ids := List.map Prod.fst c.recs
    let ends := List.filter (fun id => (c.record id).active && decide ((c.record id).last ≤ j)) ids
    let fifth :=
      List.filter
        (fun id =>
          let r := c.record id
          r.active && decide (j < r.last) && decide (r.first ≤ j + 1) && decide (4 < (extents (List.map Prod.snd r.blocks ++ [nxt])).length))
        ids
    let takes := fun r => r.active && decide (j < r.last) && decide (r.first ≤ j + 1)
    let s2 :=
      List.foldl
        (fun s id =>
          let c := s.cap p
          let r := c.record id
          recDone p id
            (s.setCap p
              (c.setRec id
                { r with trunc := true, last := j })))
        s1 fifth
    let s3 :=
      List.foldl
        (fun s id =>
          let c := s.cap p
          let r := c.record id
          recDone p id
            (s.setCap p
              (c.setRec id
                { r with trunc := r.trunc || r.st == .opn })))
        s2 ends
    let c3 := s3.cap p
    let c4 := { c3 with recs := List.map (fun e => if takes e.2 then (e.1, { e.2 with blocks := e.2.blocks ++ [(j + 1, nxt)] }) else e) c3.recs, pos := Tbl.set (List.filter (fun e => e.2 != nxt) c3.pos) (j + 1) nxt, cur := nxt }
    capWrite p (s3.setCap p c4)

/-- A new epoch begins at the next word (R232, R239); it replaces the entry of one that began at the same word. -/
def epochEntry (p dt : Nat) (s : State) : State :=
  let c := s.cap p
  let r := s.released p
  let again := c.epochs.head? == some r
  let e := if again then (c.epNext + 7) % 8 else c.epNext
  let s1 := (s.setPair (R.CAP_EP_RWN p e) r).setWord (R.CAP_EP_DT p e 0) (bits (dtPack dt) 31 0)
  let s2 := (s1.setWord (R.CAP_EP_DT p e 1) (bits (dtPack dt) 63 32)).setWord (R.CAP_EP_DT p e 2) (bits (dtPack dt) 95 64)
  s2.setCap p { c with epNext := (e + 1) % 8, epochs := if again then c.epochs else r :: c.epochs }

/-- What a pin would cover: first block, last block, PRE_SHORT, blocks held now. -/
structure Plan where
  first : Nat
  last : Nat
  short : Bool
  blocks : List (Nat × Nat)
  trig : Nat
  deriving DecidableEq, Repr

/-- Walk back from block `j` over `n` blocks while they still have a place. -/
def heldBack (pos : Tbl Nat) : Nat → Nat → List (Nat × Nat)
  | 0, _ => []
  | n + 1, j =>
    match Tbl.find pos j with
    | none => []
    | some b => (if j = 0 then [] else heldBack pos n (j - 1)) ++ [(j, b)]

/-- The latest four extents of a list of blocks (R234). -/
def lastFour (bs : List (Nat × Nat)) : List (Nat × Nat) :=
  let ex := extents (List.map Prod.snd bs)
  List.drop (bs.length - (List.map Prod.snd (List.drop (ex.length - 4) ex)).sum) bs

/-- Plan a pin with a trigger word and PRE and POST in words (R233, R234). -/
def Cap.plan (c : Cap) (trig pre post : Nat) : Plan :=
  let j1 := (trig + post - 1) / blkWords
  let j0 := (trig - pre) / blkWords
  let have_ := min j1 c.curBlk
  let all := if j0 ≤ have_ then heldBack c.pos (have_ + 1 - j0) have_ else []
  let bs := lastFour all
  let first :=
    match bs with
    | b :: _ => b.1
    | [] => if j0 ≤ have_ then have_ + 1 else j0
  { first := first, last := max j1 (first - 1), short := decide (trig < pre) || decide (j0 < first), blocks := bs, trig := trig }

/-- The blocks of a plan: held and still to come. -/
def Cap.planNums (c : Cap) (x : Plan) : List Nat :=
  List.map Prod.fst x.blocks ++ upFrom (max (c.curBlk + 1) x.first) (x.last + 1 - max (c.curBlk + 1) x.first)

/-- The capacity check of R235, as if the records `skip` were released. -/
def Cap.fits (c : Cap) (len ml : Nat) (x : Plan) (skip : List Nat) : Bool :=
  let pins := nubNat (List.flatMap (fun e => Rec.nums c.curBlk e.2) (List.filter (fun e => !skip.contains e.1) c.recs))
  let new := List.filter (fun j => !pins.contains j) (nubNat (c.planNums x))
  decide (pins.length + new.length + ml ≤ len)

/-- The lowest free record entry. -/
def Cap.freeId (c : Cap) : Option Nat := List.find? (fun i => !(c.record i).kept) (List.range 1024)

/-- DONE records that are not HELD, oldest REC_SEQ first. -/
def Cap.reclaimable (c : Cap) : List Nat :=
  let l := List.filter (fun e => e.2.st == .done && !e.2.held) c.recs
  List.map Prod.fst
    (List.foldl
      (fun acc e => List.filter (fun x => decide (x.2.seq < e.2.seq)) acc ++ [e] ++ List.filter (fun x => !decide (x.2.seq < e.2.seq)) acc) []
      l)

/-- Make room for a plan, releasing DONE records under POLICY 1 (R235): does it fit? -/
def makeRoom (p trig pre post : Nat) : Nat → State → Bool × State
  | 0, s => (false, s)
  | n + 1, s =>
    let c := s.cap p
    if c.freeId.isSome && c.fits (ringLen s p) (minLive s p) (c.plan trig pre post) [] then (true, s)
    else if s.wordN (R.CAP_CFG p) % 2 = 1 then
      match c.reclaimable with
      | [] => (false, s)
      | id :: _ => makeRoom p trig pre post n (raise (hCap p) 2 ((releaseRec p id s).bump64 (R.CAP_RECLAIM p) 1))
    else (false, s)

/-- Enter a record by a plan. -/
def enterRec (p sq : Nat) (opn forced : Bool) (prof trigDt tagSeq : Nat) (x : Plan) (id : Nat) (partner : Option Nat) (s : State) : State :=
  let c := s.cap p
  let r := { Rec.init with seq := c.recSeq, st := if opn then .opn else .filling, preShort := x.short, bonded := s.bonded p, forced := forced, src := sq + 16 * (sq / 4) + 64 * prof, prof := prof, memDeg := s.flag R.RSV_STATUS_MEM_DEG, partner := partner, trigDt := trigDt, tagSeq := tagSeq, first := x.first, last := x.last, trigRwn := x.trig, blocks := x.blocks }
  let s1 :=
    s.setCap p
      { c.setRec id r with recSeq := (c.recSeq + 1) % 2 ^ 32 }
  if (x.last + 1) * blkWords ≤ c.wr then
    let c1 := s1.cap p
    recDone p id
      (s1.setCap p
        (c1.setRec id
          { c1.record id with trunc := opn }))
  else s1

/-- A pin of sequencer `sq` was accepted as record `i`. -/
def pinAccepted (sq : Nat) (opn : Bool) (i : Nat) (s : State) : Option Nat × State :=
  let still := ((s.cap (sq / 4)).record i).st == .opn
  let s1 :=
    if opn && still then
      s.setSeq sq
        { s.seq sq with opn := some i }
    else s
  (some i, raise (hSeq sq) 1 (s1.bump64 (R.WEIR_PINS sq) 1))

/-- A pin that no open record answers. -/
def pinNew (sq : Nat) (opn forced : Bool) (pre post prof trigDt tagSeq p : Nat) (s : State) : Option Nat × State :=
  let prw := pointWords s p pre
  let pow := pointWords s p post
  let refused := fun s => (none, raise (hSeq sq) 2 (raise (hCap p) 1 ((s.bump64 (R.CAP_REFUSED p) 1).bump64 (R.WEIR_REFUSED sq) 1)))
  let t := s.wordAtDt p trigDt
  let a := makeRoom p t prw pow 1025 s
  if !a.1 then refused a.2
  else
    if s.bonded p then
      let m := bondMate p
      let tm := a.2.wordAtDt m trigDt
      let b := makeRoom m tm prw pow 1025 a.2
      if !b.1 then refused b.2
      else
        match (b.2.cap p).freeId, (b.2.cap m).freeId with
        | some i, some j =>
          let s1 := enterRec p sq opn forced prof trigDt tagSeq ((b.2.cap p).plan t prw pow) i (some j) b.2
          let s2 := enterRec m sq opn forced prof trigDt tagSeq ((s1.cap m).plan tm prw pow) j (some i) s1
          pinAccepted sq opn i s2
        | _, _ => refused b.2
    else
      match (a.2.cap p).freeId with
      | some i => pinAccepted sq opn i (enterRec p sq opn forced prof trigDt tagSeq ((a.2.cap p).plan t prw pow) i none a.2)
      | none => refused a.2

/-- PIN or OPEN of sequencer `sq` (R233 to R237): the record's id when it is accepted. -/
def pin (sq : Nat) (opn forced : Bool) (pre post prof trigDt tagSeq : Nat) (s : State) : Option Nat × State :=
  let p := sq / 4
  match (s.seq sq).opn with
  | some id => if opn then (some id, s) else pinNew sq opn forced pre post prof trigDt tagSeq p s
  | none => pinNew sq opn forced pre post prof trigDt tagSeq p s

/-- End the open record of a sequencer, on both rings of a bond. -/
def closeOpen (sq : Nat) (blk : State → Nat → Nat) (trunc : Bool) (s : State) : State :=
  match (s.seq sq).opn with
  | none => s
  | some id =>
    let p := sq / 4
    let partner := ((s.cap p).record id).partner
    let s1 := endRec p id (blk s p) trunc s
    match partner with
    | some j => if s.bonded p then endRec (bondMate p) j (blk s1 (bondMate p)) trunc s1 else s1
    | none => s1

/-- A record closed by DISARM at the last word written (R228): DONE at once. -/
def truncNow (p id : Nat) (s : State) : State :=
  let c := s.cap p
  let r := c.record id
  let j := max r.first ((c.wr - 1) / blkWords)
  recDone p id
    (s.setCap p
      (c.setRec id
        { r with trunc := true, last := min j r.last, blocks := List.filter (fun b => decide (b.1 ≤ j)) r.blocks }))

/-- Would a ring refuse a pin of `pre` and `post` points at a trigger word now? -/
def ringRefuses (p pre post trig : Nat) (s : State) : Bool :=
  let c := s.cap p
  let skip := if s.wordN (R.CAP_CFG p) % 2 = 1 then c.reclaimable else []
  !((c.freeId.isSome || !skip.isEmpty) && c.fits (ringLen s p) (minLive s p) (c.plan trig (pointWords s p pre) (pointWords s p post)) skip)

/-- Would a pin be refused now (R243, CAP_STATUS.FULL)?  On a bond either ring refuses it (R237); `trig` gives the trigger word of a ring. -/
def wouldRefuse (p pre post : Nat) (trig : Nat → Nat) (s : State) : Bool :=
  ringRefuses p pre post (trig p) s || (s.bonded p && ringRefuses (bondMate p) pre post (trig (bondMate p)) s)

/-- The words of a unit as settings that a later commit replaces. -/
def pageWords (s : State) (h : Nat) : Tbl Nat := s.regRange h (h + 4096)

/-- Read a setting from remembered words. -/
def fromWords (t : Tbl Nat) (o : Nat) : Nat := Tbl.get (resetNat o) t o

/-- The settings in force at word `f`: those before the earliest remembered commit after it, or the working ones. -/
def settingsAt (s : State) (old : List (Nat × Tbl Nat)) (f : Nat) : Nat → Nat :=
  match (old.filter (fun e => decide (f < e.1))).getLast? with
  | some e => fromWords e.2
  | none => s.wordN

/-- A field read through a word reader. -/
def rd (w : Nat → Nat) (l : Loc) : Nat := bits (w l.off) l.hi l.lo
def rdFlag (w : Nat → Nat) (l : Loc) : Bool := rd w l == 1

/-- Limit of mask entry `e`. -/
def maskEntry (s : State) (p e : Nat) : Int := sext 16 (Tbl.get 0 s.weir.mtab (p * 524288 + e))

/-- Lowest violating bin and whether the frame hits mask `m` under settings `w`. -/
def maskHit (s : State) (p m : Nat) (w : Nat → Nat) (f : FrameIn) : Option Nat :=
  if !rdFlag w (R.WEIR_MASK_CFG_EN p m) || f.psw &&& pswStale + pswGap != 0 then none
  else
    let st := rd w (R.WEIR_MASK_CFG_START p m)
    let len := rd w (R.WEIR_MASK_LEN_LENM1 p m) + 1
    let base := bits (w (R.WEIR_MASK_BASE p m)) 18 0
    let kind := rd w (R.WEIR_MASK_CFG_KIND p m)
    let viol :=
      List.filter
        (fun b =>
          let lim := maskEntry s p ((base + b) % 524288)
          let q := f.dc.getD (st + b) (-32768)
          lim != -32768 && if kind = 0 then decide (lim < q) else decide (q < lim))
        (List.range (min len (f.k - st)))
    if rd w (R.WEIR_MASK_MIN_MINM1 p m) + 1 ≤ viol.length then Option.map (fun x => st + x) viol.head? else none

/-- FAULT.MASK while an enabled mask has bins at or beyond K of the short reach in force (R220). -/
def maskFault (p : Nat) (s : State) : State :=
  putFault (hCond p) 0
    ((List.range 16).any fun m =>
      s.flag (R.WEIR_MASK_CFG_EN p m) && decide (srBins s p < s.fld (R.WEIR_MASK_CFG_START p m) + s.fld (R.WEIR_MASK_LEN_LENM1 p m) + 1))
    s

/-- Is an entry inside the range of a mask that works (R221)? -/
def entryInUse (s : State) (p e : Nat) : Bool :=
  (List.range 16).any fun m =>
    s.flag (R.WEIR_MASK_CFG_EN p m) && decide (bits (s.wordN (R.WEIR_MASK_BASE p m)) 18 0 ≤ e) &&
      decide (e < bits (s.wordN (R.WEIR_MASK_BASE p m)) 18 0 + s.fld (R.WEIR_MASK_LEN_LENM1 p m) + 1)

/-- Write a mask entry, or discard the write with TAB_ERR (R221). -/
def mtabWrite (p e v : Nat) (s : State) : State :=
  if entryInUse s p e then raise (hCond p) 1 s
  else
    { s with weir := { s.weir with mtab := s.weir.mtab.set (p * 524288 + e) (v % 65536) } }

/-- The mask stores as device memory at 0xF2_0000_0000 (R221): one byte read. -/
def mtabByte (s : State) (a : Nat) : Byte :=
  let o := a - 1039382085632
  BitVec.ofNat 8 (Tbl.get 0 s.weir.mtab (o / 2) / 256 ^ (o % 2))

/-- Bytes written to the mask stores: each entry touched is written once with its bytes replaced. -/
def mtabBytes (a : Nat) (bs : List Byte) (s : State) : State :=
  let o := a - 1039382085632
  List.foldl
    (fun s e =>
      let old := Tbl.get 0 s.weir.mtab e
      let b := fun i =>
        if 2 * e + i < o then bits old (8 * i + 7) (8 * i)
        else
          match bs[2 * e + i - o]? with
          | some x => BitVec.toNat x
          | none => bits old (8 * i + 7) (8 * i)
      mtabWrite (e / 524288) (e % 524288) (b 0 + 256 * b 1) s)
    s (upFrom (o / 2) ((o + bs.length + 1) / 2 - o / 2))

/-- A word of a port is tested by the level detectors (R222). -/
def lvlWord (p r : Nat) (x : Smp) (s : State) : State :=
  if x.psw &&& pswGap != 0 then s
  else
    let w := settingsAt s (Tbl.get [] s.weir.condOld p) r
    List.foldl
      (fun s n =>
        let th := sext 16 (w (R.WEIR_LVL_CFG p n))
        let md := rd w (R.WEIR_LVL_CFG_MODE p n)
        let hit := if md = 0 then decide (th ≤ x.v) else if md = 1 then decide (x.v ≤ th) else decide (th ≤ ↑x.v.natAbs)
        if rdFlag w (R.WEIR_LVL_CFG_EN p n) && hit then
          { s with weir := { s.weir with lvl := Tbl.upd [] s.weir.lvl (2 * p + n) fun l => (r, x.dt) :: l } }
        else s)
      s (List.range 2)

/-- The slot that a frame of grid `g` of port `p` ends: from word `first` to the point whose first word is `last` (R215, R216). -/
def slotOfFrame (p : Nat) (g : Grid) (first last psw : Nat) (hits : Tbl Nat) (lastDt : Nat) (s : State) : Slot :=
  let wp := if g.bond then 1 else wpp g.fmt
  let nw := last + wp
  let lim := g.cut.getD (s.released p)
  let lim2 := g.cut2.getD (s.released (p + 1))
  let first2 := g.origin2 + (first - g.origin)
  let zero (q r n l : Nat) : Bool := (s.wordsFrom q r n l).any fun x => x.psw &&& pswGap != 0
  let lastSmp := if g.bond then (if first2 + (last - first) < lim2 then s.smp (p + 1) (first2 + (last - first)) else none) else if last < lim then s.smp p last else none
  { first := first, last := last, firstDt := s.wordDt p g.fmt first lim, lastDt := lastDt, endDt := s.wordDt p g.fmt nw lim
    points := if g.bond then 2 * (nw - first) else (nw - first) / wp, psw := psw, hits := hits
    zero := zero p first (nw - first) lim || g.bond && zero (p + 1) first2 (nw - first) lim2
    port := p, next := nw, lim := min nw lim, first2 := first2, lim2 := min (first2 + (nw - first)) lim2
    tick := match lastSmp with | some x => x.tick | none => tickOfDt s lastDt }

/-- A slot ends: queue it at the sequencers that take their slots from the port; a frame that ends where the last slot ended joins it (R215). -/
def slotFrame (p : Nat) (merge : Bool) (sl : Slot) (s : State) : State :=
  let join := fun a b => List.foldl (fun t e => t.set e.1 (min e.2 (Tbl.get e.2 t e.1))) a b
  let s1 :=
    List.foldl
      (fun s n =>
        let x := s.seq n
        if merge then
          match x.slots.getLast? with
          | some l => s.setSeq n { x with slots := x.slots.dropLast ++ [{ l with psw := l.psw ||| sl.psw, hits := join l.hits sl.hits }] }
          | none => s
        else s.setSeq n { x with slots := x.slots ++ [sl] })
      s (upFrom (4 * p) (if s.bonded p then 8 else 4))
  { s1 with weir := { s1.weir with slotEnd := s1.weir.slotEnd.set p sl.next } }

/-- A delivered frame of grid `g` meets the masks and ends a slot (R215, R220). `start` is the frame's first word, `last` the first word of its last point; the first slot of an epoch (`fresh`) begins
with the grid. -/
def weirFrame (p : Nat) (g : Grid) (start last : Nat) (fresh : Bool) (f : FrameIn) (s : State) : State :=
  let w := settingsAt s (Tbl.get [] s.weir.condOld p) start
  let hits := List.filterMap (fun m => Option.map (fun b => (m, b)) (maskHit s p m w f)) (List.range 16)
  let s1 := List.foldl (fun s h => s.bump64 (R.WEIR_HITS p h.1) 1) s hits
  let prev := if fresh then none else s.weir.slotEnd.find p
  slotFrame p (prev == some (last + if g.bond then 1 else wpp g.fmt)) (slotOfFrame p g (prev.getD g.origin) last f.psw hits f.dtLast s1) s1

/-- Occurrences whose DT lies in a slot: the earliest. -/
def firstIn (sl : Slot) (l : List Nat) : Option Nat :=
  List.foldl
    (fun m d =>
      some
        (match m with
        | none => d
        | some x => min x d))
    none (List.filter (fun d => decide (sl.firstDt ≤ d) && decide (d < sl.endDt)) l)

/-- Words of a slot that met a level detector of port `p`: the DT of the first (R218, R229). -/
def lvlIn (sl : Slot) (p : Nat) (l : List (Nat × Nat)) : Option Nat :=
  let a := if p = sl.port then sl.first else sl.first2
  let b := if p = sl.port then sl.lim else sl.lim2
  (List.foldl (fun (m : Option (Nat × Nat)) e => match m with | none => some e | some x => if e.1 < x.1 then some e else m) none
    (List.filter (fun e => decide (a ≤ e.1) && decide (e.1 < b)) l)).map Prod.snd

/-- Does a selector match a tributary record (R219)? -/
def tselMatch (w : Nat → Nat) (n i port : Nat) (o : TrbOcc) : Bool :=
  let k := rd w (R.WEIR_TSEL_KIND n i)
  o.port == port && decide (rd w (R.WEIR_TSEL_LO n i) ≤ o.ctx) && decide (o.ctx ≤ rd w (R.WEIR_TSEL_HI n i)) &&
    (k == 2 || k == 0 && o.on || k == 1 && !o.on)

/-- A source in a slot (R218): its occurrence DT when it is true. -/
def source (s : State) (n : Nat) (w : Nat → Nat) (sl : Slot) (code : Nat) : Option Nat :=
  let p := n / 4
  let x := s.seq n
  if code = 1 then some sl.lastDt
  else
    if 16 ≤ code ∧ code ≤ 31 then Option.map (fun _ => sl.lastDt) (sl.hits.find (code - 16))
    else
      if code = 32 ∨ code = 33 then lvlIn sl p (Tbl.get [] s.weir.lvl (2 * p + (code - 32)))
      else
        if 40 ≤ code ∧ code ≤ 47 then firstIn sl (List.map Prod.snd (List.filter (fun e => e.1 == code - 40) s.weir.edges))
        else
          if code = 48 ∨ code = 49 then
            let os :=
              List.filter (fun o => tselMatch w n (code - 48) (slotPort s p) o && decide (sl.firstDt ≤ o.dtLast) && decide (o.dtLast < sl.endDt))
                s.weir.trb
            List.foldl
              (fun m d =>
                some
                  (match m with
                  | none => d
                  | some y => min y d))
              none (List.map TrbOcc.occ os)
          else
            if code = 52 ∨ code = 53 then
              match if code = 52 then x.tm0 else x.tm1 with
              | some t => if t.expiry ≤ sl.lastDt then some (max t.expiry sl.firstDt) else none
              | none => none
            else
              if code = 54 ∨ code = 55 then if w (R.WEIR_LIMIT n (code - 54)) ≤ if code = 54 then x.cnt0 else x.cnt1 then some sl.lastDt else none
              else
                if 64 ≤ code ∧ code ≤ 79 then
                  let j := code - 64
                  let v :=
                    if j = n then x.sig
                    else
                      match List.find? (fun e => decide (e.1 < sl.tick) || e.1 == sl.tick && decide (j < n)) (s.seq j).sigLog with
                      | some e => e.2
                      | none => false
                  if v then some sl.lastDt else none
                else none

/-- A term: whether it is true after inversion, and the DT it contributes (R223). -/
def term (s : State) (n : Nat) (w : Nat → Nat) (sl : Slot) (code : Nat) (inv : Bool) : Bool × Nat :=
  match source s n w sl code with
  | some d => (!inv, if inv then sl.lastDt else d)
  | none => (inv, sl.lastDt)

/-- The condition of an arc: true, trigger DT, A true, B true. -/
def arcTest (s : State) (n : Nat) (w : Nat → Nat) (sl : Slot) (q a : Nat) : Option (Nat × Bool × Bool) :=
  if !rdFlag w (R.WEIR_ARC0_EN n q a) then none
  else
    let ta := term s n w sl (rd w (R.WEIR_ARC0_SRC_A n q a)) (rdFlag w (R.WEIR_ARC0_INV_A n q a))
    let tb := term s n w sl (rd w (R.WEIR_ARC0_SRC_B n q a)) (rdFlag w (R.WEIR_ARC0_INV_B n q a))
    let op := rd w (R.WEIR_ARC0_OP n q a)
    if op = 0 then if ta.1 then some (ta.2, true, false) else none
    else
      if op = 1 then if ta.1 && tb.1 then some (max ta.2 tb.2, true, true) else none
      else
        if ta.1 && tb.1 then some (min ta.2 tb.2, true, true)
        else if ta.1 then some (ta.2, true, false) else if tb.1 then some (tb.2, false, true) else none

/-- MASK_BIN of a tag: the lowest violating bin of the first non-inverted true MASK term (R242). -/
def maskBin (w : Nat → Nat) (n : Nat) (sl : Slot) (q a : Nat) : Nat :=
  let one := fun code inv => if 16 ≤ code ∧ code ≤ 31 ∧ inv = false then sl.hits.find (code - 16) else none
  match one (rd w (R.WEIR_ARC0_SRC_A n q a)) (rdFlag w (R.WEIR_ARC0_INV_A n q a)) with
  | some b => b
  | none => if rd w (R.WEIR_ARC0_OP n q a) = 0 then 65535 else (one (rd w (R.WEIR_ARC0_SRC_B n q a)) (rdFlag w (R.WEIR_ARC0_INV_B n q a))).getD 65535

/-- PRE and POST of a profile, in points. -/
def profPre (w : Nat → Nat) (n r : Nat) : Nat := w (R.WEIR_PRF_PRE_LO n r) + 2 ^ 32 * bits (w (R.WEIR_PRF_PRE_HI n r)) 7 0
def profPost (w : Nat → Nat) (n r : Nat) : Nat := w (R.WEIR_PRF_POST_LO n r) + 2 ^ 32 * bits (w (R.WEIR_PRF_POST_HI n r)) 7 0

/-- Counter actions (R224): new count and whether an increment met the limit. -/
def cntAct (clr inc : Bool) (c : Nat) : Nat × Bool :=
  let c := if clr then 0 else c
  if inc then (satAdd 32 c 1, c == 2 ^ 32 - 1) else (c, false)

/-- Timer actions (R224, R225). -/
def tmAct (stop start : Bool) (len lastDt : Nat) (t : Option WTimer) : Option WTimer :=
  if start then some { expiry := lastDt + len * 40960, expired := false } else if stop then none else t

/-- Queue a tag record, or discard it with TAG_DROP (R242). -/
def queueTag (bs : List Byte) (s : State) : State :=
  if s.weir.tagq.length < 1024 && !s.disabled hTag then
    { s with weir := { s.weir with tagq := s.weir.tagq ++ [bs] } }
  else raise hTag 0 (s.bump64 R.WEIR_TAG_DROP 1)

/-- Dead-time total of a sequencer. -/
def deadTotal (s : State) (n : Nat) : Nat := s.pair (R.WEIR_DEAD_GAP n) + s.pair (R.WEIR_DEAD_STALE n) + s.pair (R.WEIR_DEAD_FULL n)

/-- An arc taken: its number, its terms' values, the lowest violating bin of its mask term. -/
structure ArcTaken where
  arc : Nat
  a : Bool
  b : Bool
  bin : Nat
  deriving DecidableEq, Repr

/-- Apply the actions of an arc or of FORCE and enter the next state (R223, R224). -/
def act (n : Nat) (w : Nat → Nat) (sl : Slot) (acts prof trig next : Nat) (forced : Bool) (k : ArcTaken) (s : State) : State :=
  let x := s.seq n
  let b := fun i => bitAt acts i
  let c0 := cntAct (b 8) (b 7) x.cnt0
  let c1 := cntAct (b 10) (b 9) x.cnt1
  let tl := fun i => w (R.WEIR_TIMER_LO n i) + 2 ^ 32 * bits (w (R.WEIR_TIMER_HI n i)) 15 0
  let sig := if b 5 then true else if b 6 then false else x.sig
  let x1 := { x with cnt0 := c0.1, cnt1 := c1.1, ovf0 := x.ovf0 || c0.2, ovf1 := x.ovf1 || c1.2, tm0 := tmAct (b 12) (b 11) (tl 0) sl.lastDt x.tm0, tm1 := tmAct (b 14) (b 13) (tl 1) sl.lastDt x.tm1, sig := sig }
  let s1 := s.setSeq n x1
  let s2 := if c0.2 || c1.2 then raise (hSeq n) 4 s1 else s1
  let s3 := if b 2 then closeOpen n (fun s p => s.wordAtDt p trig / blkWords) false s2 else s2
  let pre := profPre w n prof
  let post := profPost w n prof
  let p1 :=
    if b 0 then
      let r := pin n false forced pre post prof trig x.tagSeq s3
      (some r.1, r.2)
    else (none, s3)
  let p2 :=
    if b 1 then
      let r := pin n true forced pre post prof trig x.tagSeq p1.2
      (some r.1, r.2)
    else (none, p1.2)
  let got :=
    match p2.1, p1.1 with
    | some (some i), _ => some i
    | _, some (some i) => some i
    | _, _ => none
  let refused := p1.1 == some none || p2.1 == some none
  let rec_ :=
    (match got with
      | some i => i + 32768
      | none => 0) +
      if refused then 16384 else 0
  let s4 := p2.2
  let tagged := b 0 || b 1 || b 2 || b 3
  let bytes :=
    leBytes 4 x.tagSeq ++ leBytes 1 (n + 16 * (n / 4) + 64 * b2n (s.bonded (n / 4)) + 128 * b2n forced) ++ leBytes 1 (x.st + 16 * next) ++
                              leBytes 1 (k.arc + 4 * b2n k.a + 8 * b2n k.b) ++
                            leBytes 1 0 ++
                          leBytes 2 acts ++
                        leBytes 2 rec_ ++
                      leBytes 4 0 ++
                    dtBytes trig ++
                  dtBytes sl.lastDt ++
                leBytes 2 sl.psw ++
              leBytes 2 k.bin ++
            leBytes 4 c0.1 ++
          leBytes 4 c1.1 ++
        leBytes 8 (deadTotal s n) ++
      leBytes 4 0
  let s5 :=
    if tagged then
      queueTag bytes
        ((s4.setSeq n
              { s4.seq n with tagSeq := (x.tagSeq + 1) % 2 ^ 32 }).bump64
          (R.WEIR_TAGS n) 1)
    else s4
  let s6 := if b 4 then raise (hSeq n) 0 s5 else s5
  s6.setSeq n
    { s6.seq n with st := next }

/-- Dead time of a slot in the present state (R243): which counter takes it. -/
def deadCat (s : State) (n : Nat) (w : Nat → Nat) (sl : Slot) : Option Nat :=
  let q := (s.seq n).st
  let en := List.filter (fun a => rdFlag w (R.WEIR_ARC0_EN n q a)) (List.range 4)
  let codes :=
    List.flatMap (fun a => rd w (R.WEIR_ARC0_SRC_A n q a) :: if rd w (R.WEIR_ARC0_OP n q a) = 0 then [] else [rd w (R.WEIR_ARC0_SRC_B n q a)]) en
  let mask := codes.any fun c => decide (16 ≤ c) && decide (c ≤ 31)
  let lvl := codes.any fun c => c == 32 || c == 33
  let p := n / 4
  if (mask || lvl) && (bitAt sl.psw 3 || sl.zero) then some (R.WEIR_DEAD_GAP n)
  else
    if mask && bitAt sl.psw 1 then some (R.WEIR_DEAD_STALE n)
    else
      if
          (en.any fun a =>
              rd w (R.WEIR_ARC1_ACT n q a) % 4 != 0 &&
                let r := rd w (R.WEIR_ARC1_PROFILE n q a)
                wouldRefuse p (profPre w n r) (profPost w n r) (fun q => s.wordAtDt q sl.lastDt) s) =
            true then
        some (R.WEIR_DEAD_FULL n)
      else none

/-- Close what a disarmed sequencer left open and clear its SIGNAL (R228). -/
def quiet (n : Nat) (s : State) : State :=
  let s1 :=
    match (s.seq n).opn with
    | none => s
    | some id =>
      let p := n / 4
      let partner := ((s.cap p).record id).partner
      let s1 := truncNow p id s
      match partner with
      | some j => if ((s1.cap (bondMate p)).record j).active then truncNow (bondMate p) j s1 else s1
      | none => s1
  s1.setSeq n
    { s1.seq n with sig := false, sigLog := [], opn := none }

/-- The port whose slots a sequencer evaluates (R229). -/
def State.slotsOf (s : State) (n : Nat) : Nat := (s.seq n).slotOf.getD (slotPort s (n / 4))

/-- A waiting slot with the DT at which it ends: that of the next slot's first point, when that slot is known (R216). -/
def Slot.until (sl : Slot) (rest : List Slot) : Slot :=
  match rest with
  | y :: _ => { sl with endDt := y.firstDt }
  | [] => sl

/-- Evaluate the oldest slot that waits at a sequencer (R217, R223). -/
def slotEval (n : Nat) (s : State) : State :=
  let x := s.seq n
  match x.slots with
  | [] => s
  | sl0 :: rest =>
    let sl := sl0.until rest
    let s0 :=
      s.setSeq n
        { x with slots := rest }
    let live :=
      sl.port == s.slotsOf n && decide (x.from_ ≤ sl.first) &&
        match x.until_ with
        | some u => decide (sl.first < u)
        | none => x.armed
    if !live then s0
    else
      let w := settingsAt s x.old sl.first
      let s1 := if x.armed then s0.bump64 (R.WEIR_ARMED n) sl.points else s0
      let s2 :=
        if x.armed then
          match deadCat s1 n w sl with
          | some o => s1.bump64 o sl.points
          | none => s1
        else s1
      let s3 :=
        match x.force with
        | some (a, r) =>
          act n w sl a r sl.lastDt x.st true { arc := 0, a := false, b := false, bin := 65535 }
            (s2.setSeq n
              { s2.seq n with force := none })
        | none =>
          match List.find? (fun a => (arcTest s2 n w sl x.st a).isSome) (List.range 4) with
          | none => s2
          | some a =>
            match arcTest s2 n w sl x.st a with
            | none => s2
            | some (trig, ta, tb) =>
              act n w sl (rd w (R.WEIR_ARC1_ACT n x.st a)) (rd w (R.WEIR_ARC1_PROFILE n x.st a)) trig (rd w (R.WEIR_ARC0_NEXT n x.st a)) false
                { arc := a, a := ta, b := tb, bin := maskBin w n sl x.st a } s2
      let y := s3.seq n
      let s4 :=
        s3.setSeq n
          { y with sigLog := (sl.tick, y.sig) :: y.sigLog }
      match x.until_ with
      | some u => if u ≤ sl.next then quiet n s4 else s4
      | none => s4

/-- A timer reaches its expiry DT (R225). -/
def timerExpire (n i : Nat) (s : State) : State :=
  let x := s.seq n
  let f := fun t => Option.map (fun t => if t.expiry ≤ s.clk.dt then { t with expired := true } else t) t
  s.setSeq n
    (if i = 0 then
      { x with tm0 := f x.tm0 }
    else
      { x with tm1 := f x.tm1 })

/-- Arm a sequencer (R228). -/
def armSeq (n : Nat) (s : State) : State :=
  let x := s.seq n
  let s1 :=
    s.setSeq n
      { x with armed := true, from_ := s.released (slotPort s (n / 4)), until_ := none, st := s.fld (R.WEIR_SEQ_CFG_ARM_STATE n), cnt0 := 0, cnt1 := 0, ovf0 := false, ovf1 := false, tm0 := none, tm1 := none, sig := false, sigLog := [], force := none,
               slotOf := none, old := if s.slotsOf n = slotPort s (n / 4) then x.old else [] }
  (((s1.setPair (R.WEIR_ARMED n) 0).setPair (R.WEIR_DEAD_GAP n) 0).setPair (R.WEIR_DEAD_STALE n) 0).setPair (R.WEIR_DEAD_FULL n) 0

/-- Disarm a sequencer (R228). -/
def disarmSeq (n : Nat) (s : State) : State :=
  let x := s.seq n
  quiet n
    (s.setSeq n
      { x with armed := false, until_ := some (s.released (s.slotsOf n)), force := none })

/-- A bond of ports `p` and `p + 1` forms or is released (R229): slots that began before still belong to the port that `was` gave them, by whose words they are numbered. -/
def bondSeqs (p : Nat) (was : Nat → Nat) (s : State) : State :=
  List.foldl
    (fun s n =>
      let s0 := s.setSeq n { s.seq n with slotOf := some ((s.seq n).slotOf.getD (was (n / 4))) }
      let s1 := if (s0.seq n).armed then disarmSeq n s0 else s0
      if s.flag (R.WEIR_SEQ_CFG_AUTO_ARM n) then armSeq n s1 else s1)
    s (upFrom (4 * p) 8)

/-- Source codes of R218. -/
def sourceLegal (c : Nat) : Bool :=
  c == 0 || c == 1 || decide (16 ≤ c) && decide (c ≤ 33) || decide (40 ≤ c) && decide (c ≤ 49) || decide (52 ≤ c) && decide (c ≤ 55) ||
    decide (64 ≤ c) && decide (c ≤ 79)

/-- Do the sequencer's settings pass R227? -/
def seqLegal (s : State) (n : Nat) : Bool :=
  ((List.range 4).all fun r => decide (0 < profPre s.wordN n r + profPost s.wordN n r)) &&
  ((List.range 2).all fun i => s.fld (R.WEIR_TSEL_KIND n i) != 3 && decide (s.fld (R.WEIR_TSEL_LO n i) ≤ s.fld (R.WEIR_TSEL_HI n i))) &&
    (List.range 16).all fun q =>
      (List.range 4).all fun a =>
        sourceLegal (s.fld (R.WEIR_ARC0_SRC_A n q a)) && sourceLegal (s.fld (R.WEIR_ARC0_SRC_B n q a)) && s.fld (R.WEIR_ARC0_OP n q a) != 3

/-- The first mask or, from 16, level detector at which the condition unit's settings fail (R227). -/
def condBad (s : State) (p : Nat) : Option Nat :=
  match List.find? (fun m => decide (524288 < bits (s.wordN (R.WEIR_MASK_BASE p m)) 18 0 + s.fld (R.WEIR_MASK_LEN_LENM1 p m) + 1)) (List.range 16) with
  | some m => some m
  | none => Option.map (fun x => 16 + x) (List.find? (fun n => s.fld (R.WEIR_LVL_CFG_MODE p n) == 3) (List.range 2))

/-- Points that the working deep reach of a port needs its ring to keep (R139); 0 when it is disabled. -/
def deepNeed (s : State) (p : Nat) : Nat :=
  let r := s.rset 2 (slotPort s p)
  if r.en then 2 * r.n + 2 ^ 20 else 0

/-- Points of the port's stream that a number of blocks holds (R139, R236). -/
def blockPoints (s : State) (p n : Nat) : Nat := n * blkWords / wpp (s.portSt p).fmt

/-- The history rings that the deep reach of a port reads: both rings of a bond (R139, R145). -/
def ringsOf (s : State) (p : Nat) : List Nat := if s.bonded p then [p - p % 2, p - p % 2 + 1] else [p]

/-- Are the history rings long enough for the deep reach's settings (R139)? -/
def ringEnough (s : State) (p : Nat) (r : RSet) : Bool :=
  (ringsOf s p).all (fun q => decide (2 * r.n + 2 ^ 20 ≤ blockPoints s q (min (ringLen s q) (minLive s q))))

/-- FAULT.REGION of the deep reaches that read a port's ring, alone or on a bond (R139): set while the rings are too short for the working settings. -/
def ringFault (p : Nat) (s : State) : State :=
  [p - p % 2, p - p % 2 + 1].foldl (fun s q => putFault (hRch 2 q) 1 ((s.rset 2 q).en && !s.slave q && !ringEnough s q (s.rset 2 q)) s) s

/-- Do the capture unit's settings pass R227, R231, R236 and R240? -/
def capLegal (s : State) (p : Nat) : Bool :=
  let len := s.wordN (R.CAP_RING_LEN p)
  let ml := minLive s p
  decide (len * 4096 ≤ s.wordN (R.CAP_RING_REGION_SIZE p) * 2 ^ 20) && decide (ml + 2 ≤ len) &&
        decide (cdiv len bankBytes ≤ bits (s.wordN (R.CAP_STAT_POOL p)) 26 16) &&
      s.namesBanks (hCap p) (bits (s.wordN (R.CAP_STAT_POOL p)) 10 0) (cdiv len bankBytes) &&
    decide (deepNeed s p ≤ blockPoints s p ml)

/-- A sequencer's commit point. -/
def seqCommit (n : Nat) (s : State) : State :=
  match s.snapOf (hSeq n) with
  | none => s
  | some ws =>
    let new := overlay s ws
    if !seqLegal new n then rejectSnap (hSeq n) 3 0 s
    else
      let x := s.seq n
      let s1 := dropSnap (hSeq n) new
      clearFault (hSeq n) 0
        (s1.setSeq n
          { x with old := (if x.slotOf = none then nextFrameWord s (slotPort s (n / 4)) else s.released (s.slotsOf n), pageWords s (hSeq n)) :: x.old })

/-- A condition unit's commit point. -/
def condCommit (p : Nat) (s : State) : State :=
  match s.snapOf (hCond p) with
  | none => s
  | some ws =>
    let new := overlay s ws
    match condBad new p with
    | some m => rejectSnap (hCond p) 0 m s
    | none =>
      let s1 := dropSnap (hCond p) new
      let s2 := { s1 with weir := { s1.weir with condOld := Tbl.upd [] s1.weir.condOld p fun l => (nextFrameWord s p, pageWords s (hCond p)) :: l } }
      maskFault p (clearFault (hCond p) 1 s2)

/-- A capture unit's commit point: LEN then waits for R240. -/
def capCommit (p : Nat) (s : State) : State :=
  match s.snapOf (hCap p) with
  | none => s
  | some ws =>
    let new := overlay s ws
    if !capLegal new p then rejectSnap (hCap p) 6 0 s
    else
      let len := new.wordN (R.CAP_RING_LEN p)
      let c := s.cap p
      clearFault (hCap p) 0
        ((dropSnap (hCap p) new).setCap p
          { c with lenPend := if len = ringLen s p then none else some len })

/-! Ring length (R240). -/

/-- Is the ring drained: no record FILLING, OPEN or DONE? -/
def Cap.drained (c : Cap) : Bool := List.all c.recs fun e => !e.2.kept

/-- Has the writer just wrapped: every place below the one it is in is pinned? -/
def Cap.wrapped (c : Cap) : Bool := (List.range c.cur).all fun b => c.placePinned b

/-- A record loses its blocks at or beyond place `l` (R240). -/
def loseBlocks (p l id : Nat) (s : State) : State :=
  let c := s.cap p
  let r := c.record id
  let keep := List.filter (fun b => decide (b.2 < l)) r.blocks
  if keep.length = r.blocks.length then s
  else
    if keep.isEmpty then
      let act := r.active
      let s1 :=
        s.setCap p
          (c.setRec id
            { r with st := .done, lost := true, blocks := [] })
      let s2 := raise (hCap p) 5 (s1.bump64 (R.CAP_LOST p) 1)
      if act then recDone p id s2 else s2
    else
      s.setCap p
        (c.setRec id
          { r with trunc := true, blocks := keep })

/-- DONE records are released, oldest first, HELD or not, until the pins fit (R240). -/
def loseDone (p l : Nat) : Nat → State → State
  | 0, s => s
  | n + 1, s =>
    let c := s.cap p
    if c.pinned.length + minLive s p ≤ l then s
    else
      let d := c.recs.filter (fun e => e.2.st == .done && !e.2.blocks.isEmpty)
      match d.foldl (fun (m : Option (Nat × Rec)) e => match m with | none => some e | some x => if e.2.seq < x.2.seq then some e else m) none with
      | none => s
      | some e => loseDone p l n (raise (hCap p) 5 ((releaseRec p e.1 s).bump64 (R.CAP_LOST p) 1))

/-- Apply the pending LEN (R240), read pointers apart. -/
def capLenApply (p : Nat) (s : State) : State :=
  let c := s.cap p
  match c.lenPend with
  | none => s
  | some l =>
    if !(c.drained || c.wrapped) then s
    else
      let old := ringLen s p
      let s1 :=
        (s.setWord (R.CAP_LEN_ACT p) l).setCap p
          { c with lenPend := none }
      let s2 :=
        if l < old then
          let t := List.foldl (fun s id => if ((s.cap p).record id).kept then loseBlocks p l id s else s) s1 (List.map Prod.fst c.recs)
          let t1 := loseDone p l 1024 t
          let c1 := t1.cap p
          t1.setCap p
            { c1 with pos := List.filter (fun e => decide (e.2 < l) || e.1 == c1.curBlk) c1.pos }
        else s1
      raise (hCap p) 3 (ringFault p s2)

/-! Registers that are computed. -/

/-- WEIR_SEQ_STATUS (R246). -/
def seqStatus (s : State) (n : Nat) : Nat :=
  let x := s.seq n
  let ex := fun t =>
    match t with
    | some t => t.expired || decide (t.expiry ≤ s.clk.dt)
    | none => false
  x.st + 16 * b2n x.armed + 32 * b2n x.sig + 64 * b2n x.opn.isSome + 128 * b2n x.tm0.isSome + 256 * b2n (ex x.tm0) + 512 * b2n x.tm1.isSome +
        1024 * b2n (ex x.tm1) +
      2048 * b2n x.ovf0 +
    4096 * b2n x.ovf1

/-- The largest profile that an enabled pinning arc names of the sequencers that pin in the port's ring: those of both ports on a bond (R237). -/
def largestProfile (s : State) (p : Nat) : Option (Nat × Nat) :=
  let l :=
    List.flatMap
      (fun n =>
        List.flatMap
          (fun q =>
            List.filterMap
              (fun a =>
                if s.flag (R.WEIR_ARC0_EN n q a) && s.fld (R.WEIR_ARC1_ACT n q a) % 4 != 0 then
                  let r := s.fld (R.WEIR_ARC1_PROFILE n q a)
                  some (profPre s.wordN n r, profPost s.wordN n r)
                else none)
              (List.range 4))
          (List.range 16))
      (if s.bonded p then upFrom (4 * (p - p % 2)) 8 else upFrom (4 * p) 4)
  List.foldl
    (fun m x =>
      match m with
      | none => some x
      | some y => if y.1 + y.2 < x.1 + x.2 then some x else m)
    none l

/-- CAP_STATUS (R246). -/
def capStatus (s : State) (p : Nat) : Nat :=
  let c := s.cap p
  let full :=
    match largestProfile s p with
    | some x => wouldRefuse p x.1 x.2 (fun q => (s.cap q).wr) s
    | none => false
  b2n c.lenPend.isSome + 2 * b2n full + 4 * b2n c.drained + 65536 * (List.filter (fun e => e.2.kept) c.recs).length

/-- PSW bits 1 to 6 of a block that a record holds: its status byte in the Pool, or for a block that is still written the bits of its words so far (R231, R239). -/
def blockPsw (s : State) (p : Nat) (b : Nat × Nat) : Nat :=
  let c := s.cap p
  let st := if b.1 < c.curBlk then
      leNat (s.maskBytes (poolBase + bits (s.wordN (R.CAP_STAT_POOL p)) 10 0 * bankBytes + b.2) (s.memRead (poolBase + bits (s.wordN (R.CAP_STAT_POOL p)) 10 0 * bankBytes + b.2) 1))
    else statusByte (s.wordsFrom p (b.1 * blkWords) (min blkWords (c.wr - b.1 * blkWords)) c.wr)
  2 * bits st 3 0 + 64 * bits st 4 4

/-- The 128-byte record descriptor (R241). -/
def descriptor (s : State) (p id : Nat) : List Byte :=
  let c := s.cap p
  let r := c.record id
  let n := if r.active then min c.wr ((r.last + 1) * blkWords) - r.first * blkWords else r.words
  let first := r.first * blkWords
  let ws := s.wordsFrom p first n (first + n)
  let o := List.foldl (fun a b => a ||| blockPsw s p b) 0 r.blocks
  let held := List.flatMap (fun b => s.wordsFrom p (b.1 * blkWords) (min blkWords (c.wr - b.1 * blkWords)) c.wr) r.blocks
  let psw := pswMake (o ||| if r.memDeg then pswMemDeg else 0) (held.any fun x => x.psw &&& pswGap == 0)
  let split := c.epochs.any fun e => decide (first < e) && decide (e < first + n)
  let ex := extents (List.map Prod.snd r.blocks)
  let exb := fun i =>
    match ex[i]? with
    | some e => leBytes 4 e.1 ++ leBytes 4 e.2
    | none => leBytes 8 0
  let stc :=
    match r.st with
    | .free => 0
    | .filling => 1
    | .opn => 2
    | .done => 3
  leBytes 4 r.seq ++ leBytes 2 id ++ leBytes 1 stc ++
                                      leBytes 1
                                        (b2n r.held + 2 * b2n r.preShort + 4 * b2n r.trunc + 8 * b2n split + 16 * b2n r.bonded + 32 * b2n r.forced +
                                          64 * b2n r.lost) ++
                                    leBytes 1 (r.src % 256) ++
                                  leBytes 1 ex.length ++
                                leBytes 2 psw ++
                              leBytes 2
                                (match r.partner with
                                | some j => j + 32768
                                | none => 0) ++
                            leBytes 2 0 ++
                          dtBytes
                            (match ws.head? with
                            | some x => x.dt
                            | none => 0) ++
                        dtBytes
                          (match ws.getLast? with
                          | some x => x.dt
                          | none => 0) ++
                      dtBytes r.trigDt ++
                    leBytes 4 r.tagSeq ++
                  leBytes 8 first ++
                leBytes 8 n ++
              leBytes 8 r.trigRwn ++
            exb 0 ++
          exb 1 ++
        exb 2 ++
      exb 3 ++
    leBytes 16 0

/-! Commands (R244) and accesses. -/

/-- Run a capture command on the record that CAP_CMD_ARG names. -/
def onRec (p : Nat) (ok : Rec → Bool) (f : Nat → State → State) (s : State) : Code × State :=
  let id := s.fld (R.CAP_CMD_ARG_REC p)
  if ok ((s.cap p).record id) then (.ok, f id s) else (.state, s)

/-- Set HELD on a record and its partner (R237). -/
def setHeld (p id : Nat) (b : Bool) (s : State) : State :=
  let c := s.cap p
  let r := c.record id
  let s1 :=
    s.setCap p
      (c.setRec id
        { r with held := b })
  match r.partner with
  | some j =>
    let d := s1.cap (bondMate p)
    if (d.record j).partner == some id && (d.record j).kept then
      s1.setCap (bondMate p)
        (d.setRec j
          { d.record j with held := b })
    else s1
  | none => s1

def armCmd (n : Nat) (s : State) : Code × State := if (s.seq n).armed then (.state, s) else (.ok, armSeq n s)
def disarmCmd (n : Nat) (s : State) : Code × State := if (s.seq n).armed then (.ok, disarmSeq n s) else (.state, s)

def forceCmd (n : Nat) (s : State) : Code × State :=
  if (s.seq n).armed then
    (.ok,
      s.setSeq n
        { s.seq n with force := some (s.fld (R.WEIR_CMD_ARG_ACTIONS n) % 32768, s.fld (R.WEIR_CMD_ARG_PROFILE n)) })
  else (.state, s)

def capReleaseCmd (p : Nat) (s : State) : Code × State := onRec p (fun r => r.st == .done) (releaseRec p) s
def holdCmd (p : Nat) (s : State) : Code × State := onRec p (fun r => r.st == .done) (fun id => setHeld p id true) s
def unholdCmd (p : Nat) (s : State) : Code × State := onRec p (fun r => r.st == .done && r.held) (fun id => setHeld p id false) s

def releaseAllCmd (p : Nat) (s : State) : Code × State :=
  (.ok,
    List.foldl (fun s id => if (((s.cap p).record id).st == .done && !((s.cap p).record id).held) then releaseRec p id s else s) s
      (List.map Prod.fst (s.cap p).recs))

def capCloseCmd (p : Nat) (s : State) : Code × State :=
  onRec p (fun r => r.st == .opn)
    (fun id s =>
      let partner := ((s.cap p).record id).partner
      let s1 := endRec p id (s.cap p).curBlk false s
      match partner with
      | some j => if s.bonded p then endRec (bondMate p) j (s1.cap (bondMate p)).curBlk false s1 else s1
      | none => s1)
    s

/-- An access to WEIR_MTAB_DATA (R221): the entry at ADDR, then ADDR + 1. -/
def mtabData (path : Path) (p : Nat) (wr : Option (Nat × Nat)) (s : State) : State :=
  let e := s.fld (R.WEIR_MTAB_ADDR_ENTRY p)
  let old := Tbl.get 0 s.weir.mtab (p * 524288 + e)
  let s1 :=
    match wr with
    | none => s.emit (Out.regRead path (R.WEIR_MTAB_DATA p) old)
    | some (v, be) =>
      let b := fun i => if bitAt be i then bits v (8 * i + 7) (8 * i) else bits old (8 * i + 7) (8 * i)
      mtabWrite p e (b 0 + 256 * b 1) s
  s1.setFld (R.WEIR_MTAB_ADDR_ENTRY p) (e + 1)

/-- A read of CAP_DONEQ pops the oldest id (R238). -/
def doneqPop (path : Path) (p : Nat) (s : State) : State :=
  let c := s.cap p
  match c.doneq with
  | [] => s.emit (Out.regRead path (R.CAP_DONEQ p) 0)
  | id :: t =>
    (s.setCap p
          { c with doneq := t }).emit
      (Out.regRead path (R.CAP_DONEQ p) (0x80000000 + id))

/-- A queued tag record has been written to the tag ring, which wraps at its end (R242). -/
def tagWrite (s : State) : State :=
  match s.weir.tagq with
  | [] => s
  | bs :: rest =>
    let size := s.wordN R.WEIR_TAG_REGION_SIZE * 2 ^ 20
    let s1 := { s with weir := { s.weir with tagq := rest } }
    if size = 0 then s1
    else
      let seq := s.wordN R.WEIR_TAG_WSEQ
      let nxt := s.wordN R.WEIR_TAG_WOFF + 64
      let off := if seq = 0 ∧ s.wordN R.WEIR_TAG_WOFF = 0 then 0 else if nxt + 64 ≤ size then nxt else 0
      let base := s.wordN R.WEIR_TAG_REGION_LO + 2 ^ 32 * s.wordN R.WEIR_TAG_REGION_HI
      ((s1.memWrite (base + off) bs).setWord R.WEIR_TAG_WOFF off).setWord R.WEIR_TAG_WSEQ ((seq + 1) % 2 ^ 32)

/-! Meanings of the commands of spec/08 (RING_BLOCK_WRITE and RING_LEN_APPLY stand in Net.lean, with the taps whose read pointers they move). -/

/-- SLOT_EVAL (R223). -/
def execSlotEval (s : Fin 16) (st : State) : Host.Outcome State Fault Refusal := Host.Outcome.next (analysis (slotEval (↑s)) st)

/-- WEIR_TIMER_EXPIRE (R225). -/
def execWeirTimerExpire (s : Fin 16) (n : Fin 2) (st : State) : Host.Outcome State Fault Refusal := Host.Outcome.next (timerExpire (↑s) (↑n) st)

/-- TAG_WRITE (R242). -/
def execTagWrite (s : State) : Host.Outcome State Fault Refusal := Host.Outcome.next (tagWrite s)

/-- WEIR_COMMIT (R227). -/
def execWeirCommit (u : WeirUnit) (s : State) : Host.Outcome State Fault Refusal :=
  Host.Outcome.next
    (match u with
    | WeirUnit.seq n => seqCommit (↑n) s
    | WeirUnit.cond p => condCommit (↑p) s
    | WeirUnit.cap p => capCommit (↑p) s)

/-- MTAB_DATA_ACCESS (R221). -/
def execMtabDataAccess (path : Path) (p : Fin 4) (wr : Option (Word × BitVec 4)) (s : State) : Host.Outcome State Fault Refusal :=
  Host.Outcome.next (mtabData path (↑p) (Option.map (fun x => (BitVec.toNat x.1, x.2.toNat)) wr) s)

/-- ARM (R228, R244). -/
def execArm (s : Fin 16) (st : State) : Host.Outcome State Fault Refusal := Host.Outcome.next (runCmd (hSeq ↑s) 1 (armCmd ↑s) st)

/-- DISARM (R228, R244). -/
def execDisarm (s : Fin 16) (st : State) : Host.Outcome State Fault Refusal := Host.Outcome.next (runCmd (hSeq ↑s) 2 (disarmCmd ↑s) st)

/-- FORCE (R244). -/
def execForce (s : Fin 16) (st : State) : Host.Outcome State Fault Refusal := Host.Outcome.next (runCmd (hSeq ↑s) 3 (forceCmd ↑s) st)

/-- CAP_RELEASE (R244). -/
def execCapRelease (p : Fin 4) (s : State) : Host.Outcome State Fault Refusal := Host.Outcome.next (runCmd (hCap ↑p) 1 (capReleaseCmd ↑p) s)

/-- HOLD (R244). -/
def execHold (p : Fin 4) (s : State) : Host.Outcome State Fault Refusal := Host.Outcome.next (runCmd (hCap ↑p) 2 (holdCmd ↑p) s)

/-- UNHOLD (R244). -/
def execUnhold (p : Fin 4) (s : State) : Host.Outcome State Fault Refusal := Host.Outcome.next (runCmd (hCap ↑p) 3 (unholdCmd ↑p) s)

/-- RELEASE_ALL (R244). -/
def execReleaseAll (p : Fin 4) (s : State) : Host.Outcome State Fault Refusal := Host.Outcome.next (runCmd (hCap ↑p) 4 (releaseAllCmd ↑p) s)

/-- CAP_CLOSE (R244). -/
def execCapClose (p : Fin 4) (s : State) : Host.Outcome State Fault Refusal := Host.Outcome.next (runCmd (hCap ↑p) 5 (capCloseCmd ↑p) s)

/-- DONEQ_POP (R238). -/
def execDoneqPop (path : Path) (p : Fin 4) (s : State) : Host.Outcome State Fault Refusal := Host.Outcome.next (doneqPop path (↑p) s)

end Sys2Proof.Machine
end

