-- ==== Sys2Proof/Machine/Mmu.lean ====
section
/-! DEFINITION. Device addresses as requesters see them (R247), translation and its faults (R310 to R320). -/

namespace Sys2Proof.Machine

/-! Bands (R247). -/

/-- Does a device address lie in the band of plane views, of the context store view, of the mask stores? -/
def inPlanes (a : Nat) : Bool := decide (0xF000000000 ≤ a) && decide (a < 0xF010000000)
def inStore (a : Nat) : Bool := decide (0xF100000000 ≤ a) && decide (a < 0xF100400000)
def inMasks (a : Nat) : Bool := decide (0xF200000000 ≤ a) && decide (a < 0xF200400000)

/-- Number of the band of a device address, none outside the bands. -/
def State.band (s : State) (a : Nat) : Option Nat :=
  if s.inReservoir a then some 0 else if inPool a then some 1 else if inEddy a then some 2
  else if inPlanes a then some 3 else if inStore a then some 4 else if inMasks a then some 5 else none

/-- Do `n` bytes from `a` lie within one band? -/
def State.inBands (s : State) (a n : Nat) : Bool := (s.band a).isSome && s.band (a + n - 1) == s.band a

/-- Bytes at a device address. -/
def devRead (s : State) (a n : Nat) : List Byte :=
  match s.band a with
  | some 2 => eddyReadB s a n
  | some 3 => (upFrom a n).map (viewByte s)
  | some 4 => (upFrom a n).map (fun x => ctxViewByte s (x - 0xF100000000))
  | some 5 => (upFrom a n).map (mtabByte s)
  | _ => s.memRead a n

/-- Store bytes at a device address; the read-only views take none (R170, R190). -/
def devWrite (a : Nat) (bs : List Byte) (s : State) : State :=
  match s.band a with
  | some 0 => s.memWrite a bs
  | some 1 => s.memWrite a bs
  | some 2 => eddyWriteB a bs s
  | some 5 => mtabBytes a bs s
  | _ => s

/-- Does a response say that one of the first `k` words read is uncorrectable? -/
def respUe (resp : Response) (k : Nat) : Bool :=
  match resp with
  | .answered es => (es.take k).contains .uncorrectable
  | .timeout => false

/-- Checks 2 to 5 of R319 for an access to a device address, by cause code; 0 when it succeeds. -/
def devCause (s : State) (owner a n : Nat) (wr : Bool) (resp : Response) : Nat :=
  if wr && inPool a && !s.poolWritable owner a n then 6
  else if !s.inBands a n || resp == .timeout then 9
  else if s.inWindow a then 7
  else if !wr && (s.poisoned a n || (respUe resp (touchedWords a n).length && (s.inReservoir a || inPool a))) then 8
  else 0

/-- The words that an access reads: of a write, those it covers in part (R258). -/
def readWords (a n : Nat) (wr : Bool) : List Nat := if wr then partWords a n else touchedWords a n

/-- What error correction finds in the words that an access reads. -/
def devEcc (a n : Nat) (wr : Bool) (resp : Response) (s : State) : State :=
  match resp with
  | .answered es => eccWords (readWords a n wr) es s
  | .timeout => s

/-- The response for what follows the first `k` words of an access. -/
def respDrop (resp : Response) (k : Nat) : Response :=
  match resp with
  | .answered es => .answered (es.drop k)
  | .timeout => .timeout

/-! Walks (R312 to R315). -/

/-- A translation fault: cause, walk level, malformed entry, a walk read that returned poison. -/
structure TFault where
  cause : Nat
  level : Nat
  mal : Bool
  walk : Bool
  deriving DecidableEq, Repr

def notMapped (level : Nat) (mal : Bool) : TFault := { cause := 5, level := level, mal := mal, walk := false }

/-- Lies a table in the Pool or Reservoir bands? -/
def tableOk (s : State) (a : Nat) : Bool := s.inReservoir a || inPool a

/-- The walk from a table at a level; `es` is what error correction finds in the entries that it reads, in order, the rest `good`. -/
def walkFrom (s : State) (asid va : Nat) : List Ecc → List Nat → Nat → TFault ⊕ TlbE
  | _, [], _ => .inl (notMapped 3 true)
  | es, sh :: rest, tbl =>
    let level := 3 - rest.length
    if !tableOk s tbl then .inl (notMapped level true)
    else
      let ea := tbl + 8 * (va / 2 ^ sh % 512)
      let e := leNat (s.memRead ea 8)
      let leaf := bitAt e 1
      if s.poisoned ea 8 || es.head? == some .uncorrectable then .inl { cause := 8, level := level, mal := false, walk := true }
      else if !bitAt e 0 then .inl (notMapped level false)
      else if e / 2 ^ 40 ≠ 0 then .inl (notMapped level true)
      else if leaf then
        let size := if level = 2 then 21 else if bits e 3 2 = 1 then 16 else 12
        if level < 2 ∨ (level = 3 ∧ 1 < bits e 3 2) then .inl (notMapped level true)
        else .inr { asid := asid, va := va / 2 ^ size * 2 ^ size, pa := e % 2 ^ 40 / 2 ^ size * 2 ^ size, size := size,
                    u := bitAt e 6, w := bitAt e 5, r := bitAt e 4 }
      else if rest.isEmpty then .inl (notMapped level true)
      else
        let nxt := e % 2 ^ 40 / 4096 * 4096
        if !tableOk s nxt then .inl (notMapped level true) else walkFrom s asid va (es.drop 1) rest nxt

/-- The table entries that the walk reads, in order: it ends at the first that is poisoned, uncorrectable, not valid, malformed or a leaf. -/
def walkReads (s : State) (va : Nat) : List Ecc → List Nat → Nat → List Nat
  | _, [], _ => []
  | es, sh :: rest, tbl =>
    if !tableOk s tbl then []
    else
      let ea := tbl + 8 * (va / 2 ^ sh % 512)
      let e := leNat (s.memRead ea 8)
      let nxt := e % 2 ^ 40 / 4096 * 4096
      if s.poisoned ea 8 || es.head? == some .uncorrectable || !bitAt e 0 || bitAt e 1 || rest.isEmpty || e / 2 ^ 40 != 0 || !tableOk s nxt then [ea]
      else ea :: walkReads s va (es.drop 1) rest nxt

/-- Root of an address space (R310). -/
def asRoot (s : State) (n : Nat) : Nat := s.fld (R.MMU_AS_ROOT_LO_ROOT n) * 4096 + 2 ^ 32 * s.fld (R.MMU_AS_ROOT_HI_ROOT n)
def asEn (s : State) (n : Nat) : Bool := s.flag (R.MMU_AS_ROOT_LO_EN n)

/-! TLBs (R316). -/

/-- TLB of a requester and how many entries it holds. -/
def tlbKey (req : Nat) : Nat := min req 64
def tlbSize (req : Nat) : Nat := if req < 64 then 32 else 128

def State.tlb (s : State) (req : Nat) : List TlbE := Tbl.get [] s.mmu.tlb (tlbKey req)
def State.setTlb (s : State) (req : Nat) (l : List TlbE) : State := { s with mmu := { s.mmu with tlb := Tbl.set s.mmu.tlb (tlbKey req) l } }

def TlbE.covers (e : TlbE) (asid va : Nat) : Bool := e.asid == asid && va / 2 ^ e.size == e.va / 2 ^ e.size

/-- Use an entry: it becomes the most recently used. -/
def tlbUse (req : Nat) (e : TlbE) (s : State) : State := s.setTlb req ((e :: (s.tlb req).erase e).take (tlbSize req))

/-- Record a fault of a requester (R320). -/
def mmuFault (req asid va : Nat) (wr : Bool) (f : TFault) (s : State) : State :=
  let info := 2 ^ 31 + 2 ^ 20 * f.level + 2 ^ 18 * b2n f.mal + 2 ^ 17 * b2n f.walk + 2 ^ 16 * b2n wr + 2 ^ 12 * f.cause + 2 ^ 8 * asid + req
  raise hMmu 0 ((((s.setWord R.MMU_LF_INFO info).setWord R.MMU_LF_VA_LO (va % 2 ^ 32)).setWord R.MMU_LF_VA_HI (va / 2 ^ 32 % 2 ^ 16)).bump64 R.MMU_FAULTS 1)

/-- The walk of a requester has ended: an invalidation no longer waits for it (R317). -/
def walkEnded (req : Nat) (s : State) : State := { s with mmu := { s.mmu with discard := s.mmu.discard.filter (· != req) } }

/-- A walk of a requester ends: an entry to use, or a fault; the fill of a walk that an invalidation overtook is discarded (R317). -/
def walk (req asid va : Nat) (ecc : List Ecc) (s : State) : (TFault ⊕ TlbE) × State :=
  let levels := [39, 30, 21, 12]
  let root := asRoot s asid
  let res := walkFrom s asid va ecc levels root
  let s1 := (eccWords (walkReads s va ecc levels root) ecc s).bump64 R.MMU_WALKS 1
  let drop := s.mmu.discard.contains req
  let s2 := walkEnded req s1
  match res with
  | .inr e => (res, if drop then s2 else s2.setTlb req ((e :: s2.tlb req).take (tlbSize req)))
  | .inl f => (res, if f.mal then raise hMmu 1 (s2.bump64 R.MMU_MALFORMED 1) else s2)

/-- Translate a virtual address (check 1 of R319). -/
def translate (req asid va : Nat) (s : State) : (TFault ⊕ TlbE) × State :=
  if !asEn s asid then (.inl (notMapped 0 false), s)
  else match (s.tlb req).find? (fun e => e.covers asid va) with
    | some e => (.inr e, tlbUse req e s)
    | none => walk req asid va [] s

/-- Does a requester's access need a walk? -/
def needsWalk (s : State) (req asid va : Nat) : Bool := asEn s asid && !((s.tlb req).any (fun e => e.covers asid va))

/-- Permissions of a page for an access (check 2 of R319). -/
def pageOk (e : TlbE) (wr user : Bool) : Bool := (if wr then e.w else e.r) && (!user || e.u)

/-- Device address of a virtual address in a page. -/
def TlbE.dev (e : TlbE) (va : Nat) : Nat := e.pa + va % 2 ^ e.size

/-! Invalidation (R317, R331). -/

/-- Does an invalidation remove an entry? -/
def invHits (inv : Nat × Nat × Nat) (e : TlbE) : Bool :=
  if inv.1 = 1 then true else if inv.1 = 2 then e.asid == inv.2.1 else e.covers inv.2.1 inv.2.2

end Sys2Proof.Machine
end

