-- ==== Sys2Proof/Machine/Net.lean ====
section
/-! DEFINITION. Ethernet links, streams, Backwater, RoCEv2 and PTP (spec/12; management packets and the host port stand in Host.lean). -/

namespace Sys2Proof.Machine

def State.strm (s : State) (m : Nat) : Strm := Tbl.get Strm.init s.net.str m
def State.setStrm (s : State) (m : Nat) (x : Strm) : State := { s with net := { s.net with str := Tbl.set s.net.str m x } }
def State.qpSt (s : State) (q : Nat) : QpSt := Tbl.get QpSt.init s.net.qp q
def State.setQp (s : State) (q : Nat) (x : QpSt) : State := { s with net := { s.net with qp := Tbl.set s.net.qp q x } }
def State.dieQ (s : State) (k c : Nat) : List Dg := Tbl.get [] s.net.die (8 * k + c)
def State.setDie (s : State) (k c : Nat) (l : List Dg) : State := { s with net := { s.net with die := Tbl.set s.net.die (8 * k + c) l } }
def State.reQ (s : State) (k c : Nat) : List (Nat × Nat × List Byte) := Tbl.get [] s.net.re (8 * k + c)
def State.setRe (s : State) (k c : Nat) (l : List (Nat × Nat × List Byte)) : State := { s with net := { s.net with re := Tbl.set s.net.re (8 * k + c) l } }
def State.bwQ (s : State) (k : Nat) : List Dg := Tbl.get [] s.net.bw k
def State.setBw (s : State) (k : Nat) (l : List Dg) : State := { s with net := { s.net with bw := Tbl.set s.net.bw k l } }

/-! Links (R334, R336). -/

/-- The link settings in force. -/
def lnkCfg (s : State) (k : Nat) : Nat := Tbl.get 0 s.net.lnk k
/-- Is the link in use: enabled, and links 1 and 3 only when their port is split? -/
def lnkOn (s : State) (k : Nat) : Bool := bitAt (lnkCfg s k) 0 && (k % 2 == 0 || (bitAt (lnkCfg s (k - 1)) 0 && bitAt (lnkCfg s (k - 1)) 1))
def lnkUp (s : State) (k : Nat) : Bool := s.flag (R.NET_LNK_STATUS_UP k)
/-- Links in use, at least 1. -/
def linksUsed (s : State) : Nat := max 1 ((List.range 4).filter (lnkOn s)).length
/-- Is a priority paused? A link that is down counts as paused on all. -/
def paused (s : State) (k c : Nat) : Bool := !lnkUp s k || bitAt (s.fld (R.NET_LNK_STATUS_PAUSED k)) c

/-- A link goes down. -/
def linkDown (k : Nat) (s : State) : State :=
  if lnkUp s k then
    raise (hLink k) 1 (((s.setFlag (R.NET_LNK_STATUS_UP k) false).setFlag (R.NET_LNK_STATUS_PCS k) false).setFld (R.NET_LNK_STATUS_PAUSED k) 0xFF)
  else s

/-- A link comes up. -/
def linkUp (k : Nat) (s : State) : State :=
  if lnkOn s k && !lnkUp s k then
    raise (hLink k) 0 (((s.setFlag (R.NET_LNK_STATUS_UP k) true).setFlag (R.NET_LNK_STATUS_PCS k) true).setFld (R.NET_LNK_STATUS_PAUSED k) 0)
  else s

/-- The settings of NET_LNK_CFG take effect when EN is set (R334); clearing EN takes the link down. -/
def lnkEnable (k old new : Nat) (s : State) : State :=
  if !bitAt old 0 && bitAt new 0 then { s with net := { s.net with lnk := Tbl.set s.net.lnk k new } }
  else if bitAt old 0 && !bitAt new 0 then linkDown k { s with net := { s.net with lnk := Tbl.set s.net.lnk k 0 } }
  else s

/-- Set the pause of a priority. -/
def setPause (k c : Nat) (b : Bool) (s : State) : State :=
  s.setFld (R.NET_LNK_STATUS_PAUSED k) (putBits (s.fld (R.NET_LNK_STATUS_PAUSED k)) c c (b2n b))

/-- A received frame that is not accepted (R335). -/
def rxDiscard (k : Nat) (s : State) : State := if lnkUp s k then s.bump64 (R.NET_RX_DISCARD k) 1 else s

/-- PFC: each enabled priority pauses for its time; a time of 0 ends its pause. -/
def pfcRx (k en : Nat) (quanta : List Nat) (s : State) : State :=
  if !lnkUp s k then s
  else if !bitAt (lnkCfg s k) 3 then rxDiscard k s
  else (List.range 8).foldl (fun s c => if bitAt en c then setPause k c (quanta.getD c 0 != 0) s else s) (s.bump64 (R.NET_PAUSE_RX k) 1)

/-- PAUSE: all eight priorities. -/
def pauseRx (k quanta : Nat) (s : State) : State :=
  if !lnkUp s k then s
  else if !bitAt (lnkCfg s k) 2 then rxDiscard k s
  else (List.range 8).foldl (fun s c => setPause k c (quanta != 0) s) (s.bump64 (R.NET_PAUSE_RX k) 1)

/-- A pause time expires; it does not end the pause of a link that is down. -/
def pauseEnd (k c : Nat) (s : State) : State := if lnkUp s k then setPause k c false s else s

/-- A frame that the link itself sends leaves at once (log entry 18). -/
def sendNow (k : Nat) (what : String) (fr : List Byte) (s : State) : State :=
  if lnkUp s k then (s.bump64 (R.NET_TX_FRAMES k) 1).emit (.frame k what (withFcs fr)) else s

def arpRx (k mac ip target : Nat) (s : State) : State :=
  if !lnkUp s k then s
  else if bitAt (lnkCfg s k) 4 && target == s.wordN (R.NET_IP4 k) then sendNow k "ARP" (arpReply s k (beBytes 6 mac) (beBytes 4 ip)) s
  else rxDiscard k s

def ndRx (k mac ip target : Nat) (s : State) : State :=
  if !lnkUp s k then s
  else if bitAt (lnkCfg s k) 5 && beBytes 16 target == s.linkIp6 k then sendNow k "ND" (neighbourAdv s k (beBytes 6 mac) (beBytes 16 ip)) s
  else rxDiscard k s

/-! Streams: settings in force (R337). -/

def Strm.kind (x : Strm) : Nat := bits x.cfg 19 16
def Strm.pack (x : Strm) : Bool := bitAt x.cfg 15
def Strm.autoRel (x : Strm) : Bool := bitAt x.cfg 14
def Strm.roce (x : Strm) : Bool := bitAt x.cfg 13
def Strm.pcp (x : Strm) : Nat := bits x.cfg 12 10
def Strm.link (x : Strm) : Nat := bits x.cfg 9 8
def Strm.port (x : Strm) : Nat := bits x.src 1 0
def Strm.index (x : Strm) : Nat := bits x.src 15 8
def Strm.nq (x : Strm) : Nat := 2 ^ bits x.src 20 16
def Strm.room (x : Strm) : Nat := x.pay - 64
def Strm.paced (x : Strm) : Bool := x.kind == 9 || x.kind == 10
def Strm.qpair (x : Strm) : Option Nat := if x.roce then some x.dst else none

/-- LOSS is owed to the stream's next datagram (R341, R345); the stream unit raises LOSS. -/
def strLoss (m : Nat) (s : State) : State := raise hStr 4 (s.setStrm m { s.strm m with loss := true })

/-- A datagram of a stream is discarded (R344, R349). -/
def strDiscard (m : Nat) (s : State) : State := strLoss m (s.bump64 (R.NET_STR_LOST m) 1)

/-- Where a ring-following source stands at START: the records written so far (R338). -/
def ringCount (s : State) (kind port idx : Nat) : Nat :=
  if kind = 4 then s.wordN (R.DET_SPG_WSEQ port) else if kind = 5 then s.wordN R.TRB_REP_WSEQ
  else if kind = 6 then s.wordN (R.TRB_IQ_WSEQ idx) else if kind = 7 then s.wordN R.WEIR_TAG_WSEQ else 0

/-- PAY_MAX is 128 to 9,088 and a multiple of 64 (R359). -/
def payLegal (n : Nat) : Bool := decide (128 ≤ n) && decide (n ≤ 9088) && n % 64 == 0

/-- Words of a destination entry and of a queue pair entry. -/
def dstWords (s : State) (d : Nat) : List Nat :=
  [s.wordN (R.NET_DST_MAC_LO d), s.wordN (R.NET_DST_MAC_HI d), s.wordN (R.NET_DST_IP d 0), s.wordN (R.NET_DST_IP d 1), s.wordN (R.NET_DST_IP d 2),
   s.wordN (R.NET_DST_IP d 3), s.wordN (R.NET_DST_PORTS d), s.wordN (R.NET_DST_TOS d)]
def qpWords (s : State) (q : Nat) : List Nat :=
  [s.wordN (R.NET_QP_CFG q), s.wordN (R.NET_QP_DQPN q), s.wordN (R.NET_QP_RKEY q), s.wordN (R.NET_QP_VA_LO q), s.wordN (R.NET_QP_VA_HI q), s.wordN (R.NET_QP_SLOT q)]

/-- Start stream `m` (R337). -/
def strStartAt (m : Nat) (s : State) : Code × State :=
  let kind := s.fld (R.NET_STR_CFG_KIND m)
  if (s.strm m).run || s.disabled hStr then (.state, s)
  else if kind == 0 || decide (10 < kind) || !payLegal (bits (s.wordN (R.NET_STR_PAY m)) 13 0) then (.range, s)
  else
    let cfg := s.wordN (R.NET_STR_CFG m)
    let dst := bits (s.wordN (R.NET_STR_DST m)) 5 0
    let port := s.fld (R.NET_STR_SRC_PORT m)
    let roce := bitAt cfg 13
    let x : Strm := { Strm.init with
      run := true, cfg := cfg, src := s.wordN (R.NET_STR_SRC m), dst := dst, pay := bits (s.wordN (R.NET_STR_PAY m)) 13 0
      aux := s.wordN (R.NET_STR_AUX_LO m) / 64 * 64 + 2 ^ 32 * bits (s.wordN (R.NET_STR_AUX_HI m)) 7 0
      dest := dstWords s (if roce then s.fld (R.NET_QP_CFG_DST dst) else dst)
      qpw := if roce then qpWords s dst else []
      seq := (s.strm m).seq, loss := (s.strm m).loss, restart := true
      pos := ringCount s kind port (s.fld (R.NET_STR_SRC_INDEX m))
      tapNext := cdiv (s.cap port).wr blkWords * blkWords }
    (.ok, (s.setStrm m x).setFld (R.NET_STR_STATUS_STATE m) 1)

def cmdStream (s : State) : Nat := s.fld R.NET_CMD_ARG_STREAM
def strStartCmd (s : State) : Code × State := strStartAt (cmdStream s) s

/-- STOP: no datagram is half built between commands, so the stream is IDLE at once (R359). -/
def strStopCmd (s : State) : Code × State :=
  let m := cmdStream s
  let x := s.strm m
  if !x.run then (.state, s)
  else (.ok, (s.setStrm m { x with run := false, cur := none, off := 0, recq := [], tapBuf := [] }).setFld (R.NET_STR_STATUS_STATE m) 0)

/-- SEND_REC (R359). -/
def sendRecCmd (s : State) : Code × State :=
  let m := cmdStream s
  let x := s.strm m
  let p := s.fld R.NET_CMD_ARG_PORT
  let id := s.fld R.NET_CMD_ARG_REC
  if ((s.cap p).record id).st != .done then (.state, s)
  else if 64 ≤ x.recq.length then (.busy, s)
  else (.ok, s.setStrm m { x with recq := x.recq ++ [(p, id)] })

/-! Sources (R338, R339, R345). -/

/-- Little-endian fields of bytes. -/
def fieldAt (bs : List Byte) (o n : Nat) : Nat := leNat ((bs.drop o).take n)
/-- A DT of a record as a count of 1/65,536 ns. -/
def recDt (bs : List Byte) (o : Nat) : Nat := fieldAt bs o 2 + 65536 * fieldAt bs (o + 2) 4 + unitsPerSec * fieldAt bs (o + 6) 6

/-- What a stream reads: 0 in place of a poisoned word (R259, R341). -/
def strRead (s : State) (a n : Nat) : List Byte := if s.inReservoir a || inPool a then s.readFixed a n else devRead s a n

/-- Bytes of a segment (R133): descriptor, bins, RFI map, counts. -/
def segLen (d : List Byte) : Nat :=
  let f := fieldAt d 0xF 1
  let bins := fieldAt d 0xC 2
  let per := match f % 4 with | 0 => 6 | 1 => 4 | 2 => 2 | _ => 8
  64 + bins * per + (if bitAt f 2 then cdiv bins 64 * 8 else 0) + (if bitAt f 3 then 4 * bins else 0)

/-- A product of the 64-byte-header kind whose DTs stand at 0x10 and 0x1C. -/
def recProd (id pswAt len : Nat) (h : List Byte) (pcs : List Piece) (after : After) : NProd :=
  { id := id, psw := fieldAt h pswAt 2, dtFirst := recDt h 0x10, dtLast := recDt h 0x1C, len := len, pieces := pcs, after := after }

/-- REACH: the buffer due next when it is FULL, else the other one; of two FULL buffers at the start, the older segment. -/
def openReach (s : State) (x : Strm) : Option (NProd × Strm) :=
  let i := x.index
  let head (b : Nat) : List Byte := devRead s (eddyBase + b * 0x8000) 64
  let key (b : Nat) : Nat := fieldAt (head b) 0 4 * 65536 + fieldAt (head b) 4 2
  let pick : Option Nat :=
    match s.full i, s.full (i + 1) with
    | true, true => some (match x.flip with | some f => f | none => if key (i + 1) < key i then i + 1 else i)
    | true, false => some i
    | false, true => some (i + 1)
    | false, false => none
  match pick with
  | none => none
  | some b =>
    let h := head b
    let n := segLen h
    some (recProd (key b) 0x28 n h [.dev (eddyBase + b * 0x8000) n] (.eddy b), { x with flip := some (if b = i then i + 1 else i) })

/-- TRACE: a record that is RDY, the older first. -/
def openTrace (s : State) (x : Strm) : Option (NProd × Strm) :=
  let p := x.port
  let t := x.index
  let at_ (k : Nat) : Nat := poolBase + (s.fld (R.DET_TR_SLOT_FIRST p t) + k * s.fld (R.DET_TR_SLOT_BANKS p t)) * bankBytes
  let rdy (k : Nat) : Bool := bitAt (s.wordN (R.DET_TR_STATUS p t)) k
  let seq (k : Nat) : Nat := fieldAt (strRead s (at_ k) 64) 0 4
  let pick : Option Nat := if rdy 0 && rdy 1 then some (if seq 1 < seq 0 then 1 else 0) else if rdy 0 then some 0 else if rdy 1 then some 1 else none
  match pick with
  | none => none
  | some k =>
    let h := strRead s (at_ k) 64
    let per := match fieldAt h 6 1 % 4 with | 0 => 4 | 1 => 2 | _ => 6
    let n := 64 + fieldAt h 8 4 * per
    some (recProd (seq k) 0x28 n h [.dev (at_ k) n] (.trace p t k), x)

/-- PLANE: a FULL buffer whose period has not been sent. -/
def openPlane (s : State) (x : Strm) : Option (NProd × Strm) :=
  let p := x.port
  let n := x.index % 4
  let pl := s.plane p n
  let ok (b : Nat) : Bool := (pl.buf b).st == .full && x.seen != some (pl.buf b).seq
  let pick : Option Nat := if !plDbuf (s.wordN (R.SLT_PL_CFG p n)) then none else if ok 0 then some 0 else if ok 1 then some 1 else none
  match pick with
  | none => none
  | some b =>
    let bf := pl.buf b
    let base := 0xF000000000 + p * 0x4000000 + n * 0x1000000 + b * 0x800000
    let len := 64 + plCols bf.cfg * plRows bf.cfg * 2
    some ({ id := bf.seq, psw := bf.psw, dtFirst := bf.dtFirst, dtLast := bf.dtLast, len := len, pieces := [.dev base 64, .dev (base + 0x1000) (len - 64)],
            after := if x.autoRel then .plane p n b else .none }, { x with seen := some bf.seq })

/-- How many records a ring still holds of those not read, and whether some were overwritten (R345): `n` slots, `w` written, `pos` read. -/
def ringNext (n w pos : Nat) : Option (Nat × Bool) :=
  let d := (w + 2 ^ 32 - pos) % 2 ^ 32
  if d = 0 ∨ n = 0 then none else if n < d then some ((w + 2 ^ 32 - n) % 2 ^ 32, true) else some (pos, false)

/-- A fixed-size record of a ring: where it lies, counted back from the last one written at `woff`. -/
def ringRec (s : State) (x : Strm) (base size woff w rec pswAt : Nat) : Option (NProd × Strm × Bool) :=
  match ringNext (size / rec) w x.pos with
  | none => none
  | some (j, lost) =>
    let back := ((w + 2 ^ 32 - 1 - j) % 2 ^ 32) * rec % size
    let a := base + (woff + size - back) % size
    let h := strRead s a 64
    some (recProd ((j + 1) % 2 ^ 32) pswAt rec h [.dev a rec] .none, { x with pos := (j + 1) % 2 ^ 32 }, lost)

/-- TILES: the oldest tile after the last one read that the region still holds. -/
def openTile (s : State) (x : Strm) : Option (NProd × Strm × Bool) :=
  let p := x.port
  let w := s.wordN (R.DET_SPG_WSEQ p)
  let d := (w + 2 ^ 32 - x.pos) % 2 ^ 32
  let later := (s.spg p).tiles.filter (fun t => decide (0 < (t.1 + 2 ^ 32 - x.pos) % 2 ^ 32) && decide ((t.1 + 2 ^ 32 - x.pos) % 2 ^ 32 ≤ d))
  match later with
  | [] => none
  | (n, off, len) :: _ =>
    let a := s.wordN (R.DET_SPG_REGION_LO p) + 2 ^ 32 * s.wordN (R.DET_SPG_REGION_HI p) + off
    let h := strRead s a 64
    some (recProd (fieldAt h 0 4) 0x28 len h [.dev a len] .none, { x with pos := n }, decide (n ≠ (x.pos + 1) % 2 ^ 32))

/-- RECORD: the oldest queued record that is still DONE: descriptor, then its words (R233, R241). -/
def openRecord (s : State) (x : Strm) : Option (NProd × Strm) :=
  match x.recq.dropWhile (fun e => ((s.cap e.1).record e.2).st != .done) with
  | [] => none
  | (p, id) :: rest =>
    let d := descriptor s p id
    let n := fieldAt d 0x40 8
    let first := fieldAt d 0x38 8
    let pcs := ((s.cap p).record id).blocks.map (fun b =>
      Piece.dev (ringBase s p + b.2 * 4096) (2 * min blkWords (first + n - b.1 * blkWords)))
    let len := 128 + (pcs.map (fun c => match c with | .dev _ l => l | .lit b => b.length)).sum
    some ({ id := fieldAt d 0 4, psw := fieldAt d 0xA 2, dtFirst := recDt d 0x10, dtLast := recDt d 0x1C, len := len, pieces := .lit d :: pcs,
            after := if x.autoRel then .record p id else .none }, { x with recq := rest })

/-- MEMQ: the next entry, when it is VALID (R339). -/
def openMemq (s : State) (x : Strm) : Option (NProd × Strm) :=
  let a := x.aux + x.pos % x.nq * 64
  let e := strRead s a 64
  let w0 := fieldAt e 0 8
  if !bitAt w0 63 then none
  else
    let n := fieldAt e 8 4
    some ({ id := fieldAt e 0x10 8, psw := fieldAt e 0xC 2, dtFirst := recDt e 0x18, dtLast := recDt e 0x24, len := n,
            pieces := [.dev (w0 % 2 ^ 40) n], after := .memq a }, { x with pos := x.pos + 1 })

/-- Take the stream's next product, if there is one; a ring-following source that was overrun owes LOSS. -/
def openProduct (m : Nat) (s : State) : State :=
  let x := s.strm m
  let plain (r : Option (NProd × Strm)) : Option (NProd × Strm × Bool) := r.map (fun y => (y.1, y.2, false))
  let got : Option (NProd × Strm × Bool) :=
    match x.kind with
    | 1 => plain (openReach s x)
    | 2 => plain (openTrace s x)
    | 3 => plain (openPlane s x)
    | 4 => openTile s x
    | 5 => ringRec s x (s.wordN R.TRB_REP_REGION_LO + 2 ^ 32 * bits (s.wordN R.TRB_REP_REGION_HI) 7 0) (s.wordN R.TRB_REP_REGION_SIZE * 2 ^ 20)
        (s.wordN R.TRB_REP_WOFF) (s.wordN R.TRB_REP_WSEQ) 64 0x8
    | 6 => ringRec s x (iqBase s x.index) (iqSlots s * 4096) ((s.wordN (R.TRB_IQ_WSEQ x.index) + iqSlots s - 1) % iqSlots s * 4096)
        (s.wordN (R.TRB_IQ_WSEQ x.index)) 4096 0x8
    | 7 => ringRec s x (s.wordN R.WEIR_TAG_REGION_LO + 2 ^ 32 * s.wordN R.WEIR_TAG_REGION_HI) (s.wordN R.WEIR_TAG_REGION_SIZE * 2 ^ 20)
        (s.wordN R.WEIR_TAG_WOFF) (s.wordN R.WEIR_TAG_WSEQ) 64 0x28
    | 9 => plain (openRecord s x)
    | 10 => plain (openMemq s x)
    | _ => none
  match got with
  | none => s
  | some (d, y, lost) =>
    let s1 := s.setStrm m { y with cur := some d, off := 0 }
    if lost then strLoss m s1 else s1

/-- What follows a product (R338, R339). -/
def afterProduct (a : After) (s : State) : State :=
  match a with
  | .none => s
  | .eddy n => s.setWord (R.EDDY_FULL (n / 32)) (putBits (s.wordN (R.EDDY_FULL (n / 32))) (n % 32) (n % 32) 0)
  | .trace p t k => s.setWord (R.DET_TR_STATUS p t) (putBits (s.wordN (R.DET_TR_STATUS p t)) k k 0)
  | .plane p n b =>
    let x := s.plane p n
    if (x.buf b).st == .full then s.setPlane p n (x.setBuf b { x.buf b with st := .clearing }) else s
  | .record p id => if ((s.cap p).record id).st == .done then releaseRec p id s else s
  | .memq a =>
    let w := (s.readFixed a 8)
    let bs := w.take 7 ++ [(w.getD 7 0) &&& 0x7F]
    if inPool a then unitPoolWrite hStr a bs s else if s.inReservoir a then s.memWrite a bs else s

/-- `n` bytes of a product from an offset, and whether a poisoned word is among them. -/
def readPieces (s : State) : List Piece → Nat → Nat → List Byte × Bool
  | [], _, _ => ([], false)
  | .lit bs :: t, off, n =>
    let a := (bs.drop off).take n
    let r := readPieces s t (off - bs.length) (n - a.length)
    (a ++ r.1, r.2)
  | .dev d l :: t, off, n =>
    let k := min n (l - off)
    let a := if k = 0 then [] else strRead s (d + off) k
    let po := k != 0 && (s.inReservoir (d + off) || inPool (d + off)) && s.poisoned (d + off) k
    let r := readPieces s t (off - l) (n - k)
    (a ++ r.1, po || r.2)

/-! Queues (R342 to R344) and the retransmit store (R348). -/

/-- Bytes in an on-die queue. -/
def dieFill (s : State) (k c : Nat) : Nat := ((s.dieQ k c).map (fun d => (d.frames.map (fun f => f.2.length)).sum)).sum

/-- Bytes that a datagram takes in Backwater: each frame without FCS, rounded up to 64 bytes. -/
def bwSize (d : Dg) : Nat := (d.frames.map (fun f => cdiv f.2.length 64 * 64)).sum
def bwFill (s : State) (k : Nat) : Nat := ((s.bwQ k).map bwSize).sum
def bwPart (s : State) : Nat := s.wordN R.NET_BW_REGION_SIZE * 2 ^ 20 / linksUsed s

/-- Bytes of a link's share of the store, and those in it. -/
def storeCap (s : State) : Nat := s.fld R.NET_RTX_POOL_COUNT * bankBytes / linksUsed s
def storeUsed (s : State) (k : Nat) : Nat :=
  (s.net.qp.map (fun e => ((e.2.store.filter (fun q => q.link == k)).map (fun q => (q.frames.map (fun f => f.2.length)).sum)).sum)).sum
def storeFits (s : State) (d : Dg) : Bool :=
  d.qp.isNone || decide (storeUsed s d.link + (d.frames.map (fun f => f.2.length)).sum ≤ storeCap s)

/-- Is a queue pair in RTS? -/
def qpRts (s : State) (q : Nat) : Bool := s.fld (R.NET_QP_STATUS_STATE q) == 1

/-- Would a datagram go to Backwater (R343, R348)? -/
def spills (s : State) (d : Dg) : Bool :=
  paused s d.link d.prio || decide (768 * 1024 < dieFill s d.link d.prio) || (s.bwQ d.link).any (fun e => e.prio == d.prio) || !storeFits s d

/-- Give a datagram of a queue pair its message number and PSNs and put it into the store (R346 to R348). -/
def toStore (d : Dg) (s : State) : Dg × State :=
  match d.qp with
  | none => (d, s)
  | some q =>
    let x := s.qpSt q
    let fr := roceFrames s d.link d.prio d.dest d.qpw x.msg x.psn d.seq d.last d.body
    let y := { x with psn := (x.psn + fr.length) % qpPsnMod, msg := x.msg + 1, una := if x.store.isEmpty then x.psn else x.una,
                      store := x.store ++ [{ link := d.link, prio := d.prio, cfg := qpW d.qpw 0, frames := fr }] }
    ({ d with frames := fr }, s.setQp q y)

/-- The 64-byte Wenud header (R341). -/
def wenud (s : State) (flags m kind psw seq id off len plen dtF dtL : Nat) : List Byte :=
  leBytes 2 0x4E57 ++ leBytes 1 1 ++ leBytes 1 flags ++ leBytes 1 m ++ leBytes 1 kind ++ leBytes 2 psw ++ leBytes 8 seq ++ leBytes 8 id ++ leBytes 6 off ++
  leBytes 2 len ++ leBytes 6 plen ++ leBytes 2 (s.fld R.IMG_INFO_MODULE) ++ dtBytes dtF ++ dtBytes dtL

/-- A datagram of a stream whose header has the given FLAGS; the frames of a queue pair's message take their PSNs when it enters the store. -/
def mkDg (s : State) (m : Nat) (x : Strm) (last : Bool) (pay : Nat) (body : List Byte) : Dg :=
  let fr := if x.roce then roceFrames s x.link x.pcp x.dest x.qpw 0 0 x.seq last body
            else [(0, udpFrame s x.link x.pcp x.dest (bits (dstW x.dest 6) 15 0) body)]
  { stream := m, qp := x.qpair, link := x.link, prio := x.pcp, dest := x.dest, qpw := x.qpw, body := body, last := last, pay := pay, seq := x.seq, frames := fr }

/-- Queue a datagram with a given payload (R340 to R344): on die, in Backwater or discarded. -/
def queueDatagram (m : Nat) (first last : Bool) (psw id off plen dtF dtL : Nat) (payload : List Byte) (s : State) : State :=
  let x := s.strm m
  let hdr (spilled : Bool) : List Byte :=
    wenud s (b2n first + 2 * b2n last + 4 * b2n x.loss + 8 * b2n x.restart + 16 * b2n spilled) m x.kind psw x.seq id off payload.length plen dtF dtL
  let d (spilled : Bool) : Dg := mkDg s m x last payload.length (hdr spilled ++ payload)
  let dead := match x.qpair with | some q => !qpRts s q | none => false
  let built := { x with seq := (x.seq + 1) % 2 ^ 64, restart := false }
  if dead then strDiscard m (s.setStrm m built)
  else if !spills s (d false) then
    let r := toStore (d false) (s.setStrm m { built with loss := false })
    r.2.setDie x.link x.pcp (r.2.dieQ x.link x.pcp ++ [r.1])
  else if bwFill s x.link + bwSize (d true) ≤ bwPart s then
    let empty := (s.bwQ x.link).isEmpty
    let s1 := (s.setStrm m { built with loss := false }).setBw x.link (s.bwQ x.link ++ [d true])
    if empty then raise hStr 0 s1 else s1
  else strDiscard m (raise hStr 2 ((s.setStrm m built).bump64 R.NET_BW_DROP 1))

/-- Build the next datagram of the product being sent; a paced stream waits until it would go to the on-die queue (R343). -/
def buildOne (m : Nat) (s : State) : State :=
  let x := s.strm m
  match x.cur with
  | none => s
  | some d =>
    let n := min x.room (d.len - x.off)
    let r := readPieces s d.pieces x.off n
    let last := decide (d.len ≤ x.off + n)
    let probe := mkDg s m x last n (List.replicate (64 + n) 0)
    let dead := match x.qpair with | some q => !qpRts s q | none => false
    if x.paced && !dead && spills s probe then s
    else
      let psw := if r.2 then (d.psw ||| pswPoison) / 2 * 2 else d.psw
      let s1 := queueDatagram m (x.off == 0) last psw d.id x.off d.len d.dtFirst d.dtLast r.1 s
      if last then afterProduct d.after (s1.setStrm m { s1.strm m with cur := none, off := 0 })
      else s1.setStrm m { s1.strm m with off := x.off + n }

/-! Taps (R338, R345). -/

/-- The oldest live block after block `j`: one that is still in the ring and that no record pins. -/
def oldestLive (c : Cap) (j : Nat) : Nat :=
  ((c.pos.filter (fun e => decide (j < e.1) && !c.placePinned e.2)).map Prod.fst).foldl min c.curBlk

/-- A tap whose next block has been reused continues at the oldest live block (R345). -/
def tapSkip (m : Nat) (s : State) : State :=
  let x := s.strm m
  let c := s.cap x.port
  let j := x.tapNext / blkWords
  if x.run && x.kind == 8 && decide (j < c.curBlk) && (Tbl.find c.pos j).isNone then
    let n := oldestLive c j * blkWords
    strLoss m (raise (hCap x.port) 4 ((s.setStrm m { x with tapNext := n }).bump64 (R.CAP_DISCARD x.port) (n - x.tapNext)))
  else s

/-- PSW bits of a ring status byte (R231). -/
def statusPsw (b : Nat) : Nat := b % 16 * 2 + (if bitAt b 4 then pswLaneDeg else 0)

/-- Read the tap's next block once the writer has completed it. -/
def tapRead (m : Nat) (s : State) : State :=
  let s := tapSkip m s
  let x := s.strm m
  let p := x.port
  let c := s.cap p
  let j := x.tapNext / blkWords
  match (if j < c.curBlk then Tbl.find c.pos j else none) with
  | none => s
  | some b =>
    let base := ringBase s p + b * 4096
    let st := ((s.memRead (poolBase + bits (s.wordN (R.CAP_STAT_POOL p)) 10 0 * bankBytes + b) 1).getD 0 0).toNat
    let w := fmtW (s.portSt p).fmt
    let ws := (upFrom x.tapNext ((j + 1) * blkWords - x.tapNext)).map (fun r =>
      let a := base + r % blkWords * 2
      let bad := s.poisoned a 2
      let v := if bad then 0 else leNat (s.memRead a 2)
      let gap := match s.smp p r with | some y => y.psw &&& pswGap != 0 | none => true
      { v := if x.pack then v / 2 ^ (16 - w) else v, rwn := r, dt := s.wordDt p (s.portSt p).fmt r (s.released p),
        psw := statusPsw st ||| (if bad then pswPoison else 0) ||| b2n (!gap) : TapW })
    s.setStrm m { x with tapNext := (j + 1) * blkWords, tapBuf := x.tapBuf ++ ws }

/-- The bits of tap words as one number, the first word's least significant bit first. -/
def tapBits (w : Nat) : List TapW → Nat
  | [] => 0
  | x :: t => x.v % 2 ^ w + 2 ^ w * tapBits w t

/-- Build a tap's next datagram from completed blocks: the bit stream cut without regard to word boundaries (R338). -/
def tapBuild (m : Nat) (s0 : State) : State :=
  let s := iter (fun s => if (s.strm m).tapBuf.length < 2 * 9088 then tapRead m s else s) 12 s0
  let x := s.strm m
  let w := if x.pack then fmtW (s.portSt x.port).fmt else 16
  let need := x.room * 8
  let have_ := x.tapBuf.length * w - x.tapBit
  if have_ < need ∨ x.room = 0 then s
  else
    let cnt := cdiv (x.tapBit + need) w
    let used := x.tapBuf.take cnt
    let v := tapBits w used / 2 ^ x.tapBit % 2 ^ need
    let o := used.foldl (fun a y => a ||| y.psw) 0
    let psw := pswMake (o ||| s.memDeg) (bitAt o 0)
    let hd := used.head?.getD { v := 0, rwn := 0, dt := 0, psw := 0 }
    let tl := used.getLast?.getD hd
    let endBit := x.tapBit + need
    let s1 := queueDatagram m (x.tapOff == 0) false psw hd.rwn x.tapOff 0 hd.dt tl.dt (leBytes x.room v) s
    let y := s1.strm m
    s1.setStrm m { y with tapBuf := x.tapBuf.drop (endBit / w), tapBit := endBit % w, tapOff := x.tapOff + x.room }

/-- DATAGRAM_BUILD: a running stream opens its next product when it has none and builds one datagram of it. -/
def datagramBuild (m : Nat) (s : State) : State :=
  let x := s.strm m
  if !x.run then s
  else if x.kind = 8 then tapBuild m s
  else buildOne m (if x.cur.isSome then s else openProduct m s)

/-- MEMQ_ENTRY_VALID: the stream takes its next entry, sends its bytes as far as the queue takes them, and clears VALID (R339). -/
def memqEntry (m : Nat) (s : State) : State :=
  let x := s.strm m
  if !(x.run && x.kind == 10 && x.cur.isNone) then s
  else
    let s1 := openProduct m s
    match (s1.strm m).cur with
    | none => s
    | some d =>
      if d.len = 0 then afterProduct d.after (s1.setStrm m { s1.strm m with cur := none })
      else iter (buildOne m) (cdiv d.len (max 1 x.room)) s1

/-! Transmission (R342 to R344). -/

/-- May a queue pair send: RTS, no RNR delay running? -/
def qpSends (s : State) (q : Option Nat) : Bool := match q with | some q => qpRts s q && !(s.qpSt q).rnrWait | none => true

/-- Datagrams at a link whose queue pair is not in RTS are discarded (R349). -/
def purgeDead (k : Nat) (s : State) : State :=
  let dead (d : Dg) : Bool := match d.qp with | some q => !qpRts s q | none => false
  let b := s.bwQ k
  let gone := b.filter dead
  if gone.isEmpty then s
  else
    let keep := b.filter (fun d => !dead d)
    let s1 := gone.foldl (fun s d => strDiscard d.stream s) (s.setBw k keep)
    if keep.isEmpty then raise hStr 1 s1 else s1

/-- A frame of a datagram leaves; with its last frame the datagram counts as sent. -/
def sendFrame (k : Nat) (d : Dg) (f : List Byte) (fin : Bool) (s : State) : State :=
  let s1 := (s.bump64 (R.NET_TX_FRAMES k) 1).emit (.frame k "WENUD" (withFcs f))
  if fin then (s1.bump64 (R.NET_STR_PKT d.stream) 1).bump64 (R.NET_STR_BYTES d.stream) d.pay else s1

/-- Take the first datagram that satisfies a test out of a list. -/
def takeFirst {α : Type} (ok : α → Bool) : List α → Option (List α × α × List α)
  | [] => none
  | a :: t => if ok a then some ([], a, t) else (takeFirst ok t).map (fun r => (a :: r.1, r.2.1, r.2.2))

/-- One frame of priority `c`, if one is ready: a frame to be sent again, else the oldest on die, else the oldest in Backwater. -/
def txPrio (k c : Nat) (s : State) : Option State :=
  match takeFirst (fun e => qpSends s (some e.1)) (s.reQ k c) with
  | some (a, e, t) =>
    some (((s.setRe k c (a ++ t)).bump64 (R.NET_QP_RETX e.1) 1).bump64 (R.NET_TX_FRAMES k) 1 |>.emit (.frame k "RETX" (withFcs e.2.2)))
  | none =>
    match takeFirst (fun d => qpSends s d.qp) (s.dieQ k c) with
    | some (a, d, t) =>
      (match d.frames with
       | [] => some (s.setDie k c (a ++ t))
       | f :: [] => some (sendFrame k d f.2 true (s.setDie k c (a ++ t)))
       | f :: fs => some (sendFrame k d f.2 false (s.setDie k c (a ++ { d with frames := fs } :: t))))
    | none =>
      match takeFirst (fun d => d.prio == c && qpSends s d.qp && storeFits s d) (s.bwQ k) with
      | none => none
      | some (a, d, t) =>
        let r := toStore d (s.setBw k (a ++ t))
        let s1 := if (a ++ t).isEmpty then raise hStr 1 r.2 else r.2
        match r.1.frames with
        | [] => some s1
        | f :: [] => some (sendFrame k d f.2 true s1)
        | f :: fs => some (sendFrame k d f.2 false (s1.setDie k c ({ r.1 with frames := fs } :: s1.dieQ k c)))

/-- FRAME_TX: the highest unpaused priority with a frame ready sends its oldest frame. -/
def frameTx (k : Nat) (s0 : State) : State :=
  if !lnkUp s0 k then s0
  else
    let s := purgeDead k s0
    ([7, 6, 5, 4, 3, 2, 1, 0].findSome? (fun c => if paused s k c then none else txPrio k c s)).getD s

/-! Queue pairs (R346 to R349). -/

/-- Distance between PSNs. -/
def psnDist (a b : Nat) : Nat := (b + qpPsnMod - a) % qpPsnMod

/-- Link and priority of a queue pair's oldest unacknowledged message. -/
def qpLane (s : State) (q : Nat) : Option (Nat × Nat) := (s.qpSt q).store.head?.map (fun x => (x.link, x.prio))

/-- Do the timers of a queue pair run (R348)? -/
def qpTimers (s : State) (q : Nat) : Bool := qpRts s q && (match qpLane s q with | some (k, c) => !paused s k c | none => false)

/-- Everything of a queue pair leaves the queues and the store; datagrams not yet sent count as lost. -/
def qpDrop (q : Nat) (s : State) : State :=
  let s1 : State := { s with net := { s.net with re := s.net.re.map (fun e => (e.1, e.2.filter (fun f => f.1 != q))) } }
  let gone := s1.net.die.flatMap (fun e => e.2.filter (fun d => d.qp == some q))
  let s2 : State := { s1 with net := { s1.net with die := s1.net.die.map (fun e => (e.1, e.2.filter (fun d => d.qp != some q))) } }
  let s3 := gone.foldl (fun s d => strDiscard d.stream s) s2
  s3.setQp q { s3.qpSt q with store := [], retry := 0, rnr := 0, rnrWait := false }

/-- The queue pair enters ERROR (R349). -/
def qpError (q : Nat) (s : State) : State :=
  addLog hStr 7 3 1 q 0 (raise hStr 3 (qpDrop q (s.setFld (R.NET_QP_STATUS_STATE q) 2)))

/-- Send again from the first unacknowledged PSN what has been sent. -/
def qpResend (q : Nat) (s : State) : State :=
  let x := s.qpSt q
  let unsent := ((s.net.die.flatMap (fun e => e.2.filter (fun d => d.qp == some q))).flatMap (fun d => d.frames.map Prod.fst))
  let s1 : State := { s with net := { s.net with re := s.net.re.map (fun e => (e.1, e.2.filter (fun f => f.1 != q))) } }
  x.store.foldl (fun s msg =>
    let fr := msg.frames.filter (fun f => decide (psnDist x.una f.1 < qpPsnMod / 2) && !unsent.contains f.1)
    s.setRe msg.link msg.prio (s.reQ msg.link msg.prio ++ fr.map (fun f => (q, f.1, f.2)))) s1

/-- Everything before a PSN is acknowledged. -/
def qpAck (q upTo : Nat) (s : State) : State :=
  let x := s.qpSt q
  if psnDist x.una upTo = 0 then s
  else
    let keep := x.store.filter (fun m => m.frames.any (fun f => decide (psnDist upTo f.1 < qpPsnMod / 2)))
    let s1 := s.setQp q { x with store := keep, una := upTo, retry := 0, rnr := 0, rnrWait := false }
    { s1 with net := { s1.net with re := s1.net.re.map (fun e => (e.1, e.2.filter (fun f => f.1 != q || decide (psnDist upTo f.2.1 < qpPsnMod / 2)))) } }

/-- Limits of the oldest unacknowledged message. -/
def qpLimit (s : State) (q hi lo : Nat) : Nat := match (s.qpSt q).store.head? with | some m => bits m.cfg hi lo | none => 0

/-- Resend, or ERROR when RETRY_CNT resends have been made (R348, R349). -/
def qpRetry (q : Nat) (s : State) : State :=
  let x := s.qpSt q
  if x.retry < qpLimit s q 6 4 then qpResend q (s.setQp q { x with retry := x.retry + 1 }) else qpError q s

/-- A RoCEv2 acknowledgement or NAK: PSN and syndrome (R348, R349). -/
def roceAck (q psn syn : Nat) (s : State) : State :=
  let x := s.qpSt q
  if !qpRts s q || x.store.isEmpty || decide (psnDist x.una x.psn ≤ psnDist x.una psn) then s
  else
    let s0 := if syn / 32 = 0 then s else s.setFld (R.NET_QP_STATUS_SYNDROME q) syn
    if syn / 32 = 0 then qpAck q ((psn + 1) % qpPsnMod) s0
    else if syn / 32 = 1 then
      let s1 := qpAck q psn s0
      let y := s1.qpSt q
      let lim := qpLimit s1 q 10 8
      if lim = 7 ∨ y.rnr < lim then s1.setQp q { y with rnr := y.rnr + 1, rnrWait := true } else qpError q s1
    else if syn = 0x60 then qpRetry q (qpAck q psn s0)
    else if syn = 0x61 ∨ syn = 0x62 ∨ syn = 0x63 then qpError q s0
    else s0

def ackTimeout (q : Nat) (s : State) : State := if qpTimers s q && !(s.qpSt q).rnrWait then qpRetry q s else s

def rnrDelayEnd (q : Nat) (s : State) : State :=
  if qpTimers s q && (s.qpSt q).rnrWait then qpResend q (s.setQp q { s.qpSt q with rnrWait := false }) else s

/-- Are the queue pair's ring and the PAY_MAX of the streams that name it legal (R347)? -/
def qpLegal (s : State) (q : Nat) : Bool :=
  let sl := s.fld (R.NET_QP_SLOT_SLOT_LOG2 q)
  let pays := ((List.range 64).filter (fun m => s.flag (R.NET_STR_CFG_ROCE m) && bits (s.wordN (R.NET_STR_DST m)) 5 0 == q)).map
    (fun m => bits (s.wordN (R.NET_STR_PAY m)) 13 0)
  let live := ((List.range 64).filter (fun m => (s.strm m).run && (s.strm m).qpair == some q)).map (fun m => (s.strm m).pay)
  decide (7 ≤ sl) && decide (sl ≤ 14) && decide (s.fld (R.NET_QP_SLOT_NSLOT_LOG2 q) ≤ 20) && s.fld (R.NET_QP_CFG_PMTU q) != 3 &&
  (pays ++ live).all (fun p => decide (p ≤ 2 ^ sl))

/-- QP_RESET: RTS at QP_PSN; every stream of the queue pair owes LOSS (R346, R349, R359). -/
def qpResetCmd (s : State) : Code × State :=
  let q := s.fld R.NET_CMD_ARG_QP
  if !qpLegal s q then (.range, s)
  else
    let psn := bits (s.wordN (R.NET_QP_PSN q)) 23 0
    let s1 := (qpDrop q s).setQp q { QpSt.init with psn := psn, una := psn }
    let s2 := (List.range 64).foldl (fun s m =>
      if (s.strm m).run && (s.strm m).qpair == some q then s.setStrm m { s.strm m with loss := true } else s) s1
    (.ok, s2.setFld (R.NET_QP_STATUS_STATE q) 1)

/-! Registers that are computed (R361). -/

def strStatus (s : State) (m : Nat) : Nat :=
  s.fld (R.NET_STR_STATUS_STATE m) + 256 * (s.strm m).recq.length +
  65536 * b2n ((List.range 4).any (fun k => (s.bwQ k).any (fun d => d.stream == m)))
def lnkStatus (s : State) (k : Nat) : Nat := putBits (s.wordN (R.NET_LNK_STATUS k)) 16 16 (b2n (!(s.bwQ k).isEmpty))
def bwFillKib (s : State) (k : Nat) : Nat := cdiv (bwFill s k) 1024

/-! PTP time-receiver (R350, R351). -/

/-- Is a time-transmitter accepted under GM_FIX? -/
def ptpAccepts (s : State) (id : Nat) : Bool := !s.flag R.PTP_CFG_GM_FIX || id == s.wordN R.PTP_GM_LO + 2 ^ 32 * s.wordN R.PTP_GM_HI

/-- Order of datasets: the smaller list first. -/
def rankLt : List Nat → List Nat → Bool
  | [], [] => false
  | [], _ => true
  | _, [] => false
  | a :: t, b :: u => decide (a < b) || (a == b && rankLt t u)

/-- The best announced time-transmitter by dataset comparison. -/
def bestMaster (s : State) : Option PtpMaster :=
  (s.ptp.masters.filter (fun m => ptpAccepts s m.id)).foldl (fun b m => match b with | none => some m | some x => if rankLt m.rank x.rank then some m else b) none

/-- Select a time-transmitter; a change raises GM_CHANGE and drops the exchanges of the old one. -/
def ptpSelect (s : State) : State :=
  match bestMaster s with
  | none => (({ s with ptp := { s.ptp with sel := none, wait := none, sync := none, dreq := none } }.setFld R.PTP_STATUS_STATE 1).setFlag R.PTP_STATUS_UTC_VALID false)
  | some m =>
    let s1 := (s.setFld R.PTP_STATUS_UTC_OFFSET (enc 16 m.utc)).setFlag R.PTP_STATUS_UTC_VALID m.utcValid
    if s.ptp.sel == some m.id then s1
    else raise hPtp 0 ({ s1 with ptp := { s1.ptp with sel := some m.id, wait := none, sync := none, dreq := none } }.setFld R.PTP_STATUS_STATE 2)

/-- A time-transmitter announced itself. -/
def ptpAnnounce (m : PtpMaster) (s : State) : State :=
  ptpSelect { s with ptp := { s.ptp with masters := s.ptp.masters.filter (fun x => x.id != m.id) ++ [m] } }

/-- A complete exchange: round trip and offset with the correction fields applied. -/
def ptpExchange (t1 t2 c1 t3 t4 c2 : Int) (s : State) : State :=
  let down := t2 - t1 - c1
  let rt := down + (t4 - t3 - c2)
  let off := down - rt / 2
  let best := match s.ptp.best with | some b => if b.1 ≤ rt then b else (rt, off) | none => (rt, off)
  { s with ptp := { s.ptp with best := some best, dreq := none } }.setFld R.PTP_STATUS_STATE 3

/-- A received PTP message, timestamped at the MAC and referred to the connector. -/
def ptpRx (k : Nat) (msg : PtpMsg) (rxTap : Nat) (s : State) : State :=
  if !lnkUp s k then s
  else if !s.flag R.PTP_CFG_EN || s.fld R.PTP_CFG_LINK != k then rxDiscard k s
  else
    let t2 : Int := (s.clk.dt + rxTap : Nat) - sext 32 (s.wordN R.PTP_RX_LAT)
    let from_ (id : Nat) : Bool := s.ptp.sel == some id
    match msg with
    | .announce id p1 cc acc var p2 gm steps utc uv =>
      ptpAnnounce { id := id, rank := [p1, cc, acc, var, p2, gm, steps, id], steps := steps, utc := utc, utcValid := uv } s
    | .sync id seq two origin corr =>
      if !from_ id then s
      else if two then { s with ptp := { s.ptp with wait := some (seq, t2, corr) } }
      else { s with ptp := { s.ptp with wait := none, sync := some (origin, t2, corr) } }
    | .followUp id seq origin corr =>
      if !from_ id then s
      else match s.ptp.wait with
      | some (q, t, c) => if q = seq then { s with ptp := { s.ptp with wait := none, sync := some (origin, t, c + corr) } } else s
      | none => s
    | .delayResp id seq receipt corr =>
      if !from_ id then s
      else match s.ptp.sync, s.ptp.dreq with
      | some (t1, t, c), some (q, t3) => if q = seq then ptpExchange t1 t c t3 receipt corr s else s
      | _, _ => s

/-- The Delay_Req interval expires (R350). -/
def delayReq (s : State) : State :=
  let k := s.fld R.PTP_CFG_LINK
  if s.flag R.PTP_CFG_EN && s.ptp.sel.isSome && lnkUp s k then
    let q := s.ptp.dseq
    let t3 : Int := (s.clk.dt : Nat) + sext 32 (s.wordN R.PTP_TX_LAT)
    sendNow k "PTP" (delayReqFrame s k q) { s with ptp := { s.ptp with dreq := some (q, t3), dseq := (q + 1) % 65536 } }
  else s

/-- No Announce from the selected time-transmitter within the receipt timeout (R360). -/
def announceLost (s : State) : State :=
  match s.ptp.sel with
  | none => s
  | some id => ptpSelect (raise hPtp 1 { s with ptp := { s.ptp with masters := s.ptp.masters.filter (fun m => m.id != id) } })

/-- A write of PTP_CFG: EN starts and stops the time-receiver. -/
def ptpEnable (old new : Nat) (s : State) : State :=
  if bitAt old 0 == bitAt new 0 then s
  else if bitAt new 0 then { s with ptp := Ptp.init }.setFld R.PTP_STATUS_STATE 1
  else ({ s with ptp := Ptp.init }.setFld R.PTP_STATUS_STATE 0).setFlag R.PTP_STATUS_UTC_VALID false

/-! Ring commands that move taps (R234, R240, R345). -/

def tapSkips (p : Nat) (s : State) : State := (List.range 64).foldl (fun s m => if (s.strm m).port == p then tapSkip m s else s) s

/-- The first word that the deep reach of a port still needs from the port's ring. -/
def deepPointer (s : State) (p : Nat) : Option Nat :=
  let q := slotPort s p
  match (s.reach 2 q).grids.getLast? with
  | none => none
  | some g => if !(s.rset 2 q).en then none else some ((if q = p then g.origin else g.origin2) + g.wordOff (g.next * (g.set 2 q).hop))

/-- A read pointer in a block at or beyond place `l` moves to the writer's block (R240). -/
def movedTo (old : Cap) (l r : Nat) : Option Nat :=
  match Tbl.find old.pos (r / blkWords) with
  | some b => if l ≤ b ∧ r / blkWords < old.curBlk then some (old.curBlk * blkWords) else none
  | none => none

/-- RING_LEN_APPLY with the read pointers of the deep reach and of the taps (R240). -/
def ringLenApply (p : Nat) (s : State) : State :=
  let old := s.cap p
  let s1 := capLenApply p s
  if old.lenPend.isNone || (s1.cap p).lenPend.isSome || ringLen s p ≤ ringLen s1 p then s1
  else
    let l := ringLen s1 p
    let drop (n : Nat) (s : State) : State := raise (hCap p) 4 (s.bump64 (R.CAP_DISCARD p) n)
    let s2 := match deepPointer s p with
      | some r => (match movedTo old l r with
        | some n => drop (n - r) (s1.setCap p { s1.cap p with lostTo := max (s1.cap p).lostTo n })
        | none => s1)
      | none => s1
    (List.range 64).foldl (fun s m =>
      let x := s.strm m
      if x.run && x.kind == 8 && x.port == p then
        match movedTo old l x.tapNext with
        | some n => strLoss m (drop (n - x.tapNext) (s.setStrm m { x with tapNext := n }))
        | none => s
      else s) s2

/-! Meanings of the commands of spec/12 but for those of the management unit and the host port. -/

/-- RING_BLOCK_WRITE (R230, R231, R234, R238, R345). -/
def execRingBlockWrite (p : Fin 4) (s : State) : Host.Outcome State Fault Refusal := .next (tapSkips p (ringBlockWrite p s))

/-- RING_LEN_APPLY (R240). -/
def execRingLenApply (p : Fin 4) (s : State) : Host.Outcome State Fault Refusal := .next (ringLenApply p s)

/-- STR_START (R337, R359). -/
def execStrStart (s : State) : Host.Outcome State Fault Refusal := .next (runCmd hStr 1 strStartCmd s)

/-- STR_STOP (R359). -/
def execStrStop (s : State) : Host.Outcome State Fault Refusal := .next (runCmd hStr 2 strStopCmd s)

/-- SEND_REC (R359). -/
def execSendRec (s : State) : Host.Outcome State Fault Refusal := .next (runCmd hStr 3 sendRecCmd s)

/-- QP_RESET (R346, R347, R359). -/
def execQpReset (s : State) : Host.Outcome State Fault Refusal := .next (runCmd hStr 4 qpResetCmd s)

/-- DATAGRAM_BUILD (R338, R340 to R349). -/
def execDatagramBuild (m : Fin 64) (s : State) : Host.Outcome State Fault Refusal := .next (datagramBuild m s)

/-- MEMQ_ENTRY_VALID (R339). -/
def execMemqEntryValid (m : Fin 64) (s : State) : Host.Outcome State Fault Refusal := .next (memqEntry m s)

/-- FRAME_TX (R335, R336, R342 to R344). -/
def execFrameTx (k : Fin 4) (s : State) : Host.Outcome State Fault Refusal := .next (frameTx k s)

/-- PFC_FRAME_RX (R336). -/
def execPfcFrameRx (k : Fin 4) (enable : BitVec 8) (quanta : List (BitVec 16)) (s : State) : Host.Outcome State Fault Refusal :=
  .next (pfcRx k enable.toNat (quanta.map BitVec.toNat) s)

/-- PAUSE_FRAME_RX (R336). -/
def execPauseFrameRx (k : Fin 4) (quanta : BitVec 16) (s : State) : Host.Outcome State Fault Refusal := .next (pauseRx k quanta.toNat s)

/-- PAUSE_END (R336). -/
def execPauseEnd (k : Fin 4) (prio : Fin 8) (s : State) : Host.Outcome State Fault Refusal := .next (pauseEnd k prio s)

/-- ARP_REQUEST (R335). -/
def execArpRequest (k : Fin 4) (senderMac : BitVec 48) (senderIp targetIp : BitVec 32) (s : State) : Host.Outcome State Fault Refusal :=
  .next (arpRx k senderMac.toNat senderIp.toNat targetIp.toNat s)

/-- NEIGHBOUR_SOLICITATION (R335). -/
def execNeighbourSolicitation (k : Fin 4) (sourceMac : BitVec 48) (sourceIp target : BitVec 128) (s : State) : Host.Outcome State Fault Refusal :=
  .next (ndRx k sourceMac.toNat sourceIp.toNat target.toNat s)

/-- FRAME_DISCARD (R335). -/
def execFrameDiscard (k : Fin 4) (s : State) : Host.Outcome State Fault Refusal := .next (rxDiscard k s)

/-- PTP_MESSAGE (R350). -/
def execPtpMessage (k : Fin 4) (m : PtpMsg) (rxTap : Nat) (s : State) : Host.Outcome State Fault Refusal := .next (ptpRx k m rxTap s)

/-- DELAY_REQ_TX (R350). -/
def execDelayReqTx (s : State) : Host.Outcome State Fault Refusal := .next (delayReq s)

/-- ROCE_ACK_RX (R348, R349). -/
def execRoceAckRx (q : Fin 64) (psn : BitVec 24) (syndrome : BitVec 8) (s : State) : Host.Outcome State Fault Refusal :=
  .next (roceAck q psn.toNat syndrome.toNat s)

/-- ACK_TIMEOUT (R348, R349). -/
def execAckTimeout (q : Fin 64) (s : State) : Host.Outcome State Fault Refusal := .next (ackTimeout q s)

/-- RNR_DELAY_END (R348). -/
def execRnrDelayEnd (q : Fin 64) (s : State) : Host.Outcome State Fault Refusal := .next (rnrDelayEnd q s)

/-- LINK_UP (R334). -/
def execLinkUp (k : Fin 4) (s : State) : Host.Outcome State Fault Refusal := .next (linkUp k s)

/-- LINK_DOWN (R336). -/
def execLinkDown (k : Fin 4) (s : State) : Host.Outcome State Fault Refusal := .next (linkDown k s)

/-- ANNOUNCE_RECEIPT_TIMEOUT (R360). -/
def execAnnounceReceiptTimeout (s : State) : Host.Outcome State Fault Refusal := .next (announceLost s)

end Sys2Proof.Machine
end

