-- ==== Sys2Proof/Machine/RiffleCore.lean ====
section
/-! DEFINITION. The machine of a Riffle core (spec/10): registers, results in flight, slots, faults, the issue of an instruction word. -/

namespace Sys2Proof.Machine

def State.core (s : State) (c : Nat) : RCore := Tbl.get RCore.init s.rfl c
def State.setCore (s : State) (c : Nat) (x : RCore) : State := { s with rfl := Tbl.set s.rfl c x }

def rHalted : Nat := 0
def rRunning : Nat := 1
def rWaiting : Nat := 2
def rStalled : Nat := 3

/-- The bank in use. -/
def RCore.bank (x : RCore) : RBank := if x.shadow then x.shad else x.main

/-- Change the run state: the cycle counters follow (R309). -/
def runTo (c st : Nat) (s : State) : State :=
  let x := s.core c
  let f := s.fclk
  let stalled (n : Nat) : Bool := n == rWaiting || n == rStalled
  let y := { x with
    cyc := if x.run = rHalted then x.cyc else x.cyc + (f - x.cycFrom), cycFrom := f
    stall := if stalled x.run then x.stall + (f - x.stallFrom) else x.stall, stallFrom := f
    run := st }
  let s1 := s.setCore c y
  if st = rHalted ∧ x.run ≠ rHalted ∧ !x.step then raise (hCore c) 0 s1 else s1

/-- RFL_CYCLE and RFL_STALL. -/
def cycleCount (s : State) (c : Nat) : Nat := let x := s.core c; (if x.run = rHalted then x.cyc else x.cyc + (s.fclk - x.cycFrom)) % 2 ^ 64
def stallCount (s : State) (c : Nat) : Nat :=
  let x := s.core c
  (if x.run = rWaiting ∨ x.run = rStalled then x.stall + (s.fclk - x.stallFrom) else x.stall) % 2 ^ 64

/-- EVP: latched bits, and the FULL flags of the four buffers of RFL_EDDY_SEL (R299). -/
def evpWord (s : State) (c : Nat) : Nat :=
  let sel := s.wordN (R.RFL_EDDY_SEL c)
  Tbl.get 0 s.rep.evp c + (List.range 4).foldl (fun a k => a + 2 ^ (24 + k) * b2n (s.full (bits sel (8 * k + 5) (8 * k)))) 0

/-- The latched EVP bits. -/
def evpLatched : Nat := 0x30FFFFFF

/-- Clear latched EVP bits; one set in this cycle stays set. -/
def evpClear (c m : Nat) (s : State) : State :=
  { s with rep := { s.rep with evp := Tbl.upd 0 s.rep.evp c (fun w => s.w1c (evpKey c) w (m &&& evpLatched)) } }

/-- CTMR now. -/
def ctmrNow (s : State) (x : RCore) : Nat := x.ctmr.1 - (s.fclk - x.ctmr.2)

/-! Results in flight (R295, R296, R301). -/

/-- Write a register of a bank. -/
def RBank.put (b : RBank) (t : RTgt) (re im : Int) : RBank :=
  let n32 := enc 32 re
  match t with
  | .d n => { b with d := Tbl.set b.d n (re, im) }
  | .acc n => { b with acc := Tbl.set b.acc n (re, im) }
  | .g n => { b with g := Tbl.set b.g n n32 }
  | .a n => { b with a := Tbl.set b.a n n32 }
  | .i n => { b with i := Tbl.set b.i n n32 }
  | .m n => { b with m := Tbl.set b.m n n32 }
  | .b n => { b with b := Tbl.set b.b n n32 }
  | .p n => if n = 0 then b else { b with p := Tbl.set b.p n (re != 0) }
  | .sp _ => b
  | .evClear => b

/-- A special register takes a value (R286). -/
def putSpecial (c n v : Nat) (s : State) : State :=
  let x := s.core c
  if n = 0 then s.setCore c { x with ie := bitAt v 2, sat := x.sat && !bitAt v 3 }
  else if n = 1 then s.setCore c { x with vseg := v % 2 ^ 16 }
  else if n = 2 then s.setCore c { x with ewin := v % 2 ^ 7 }
  else if n = 3 then evpClear c v s
  else if n = 4 then s.setCore c { x with eve := v }
  else if n = 5 then s.setCore c { x with ctmr := (v, s.fclk) }
  else if n = 8 then s.setCore c { x with epc := v % 2 ^ 12 }
  else if n = 9 then s.setCore c { x with ectx := v % 2 ^ 14 }
  else s

/-- A result lands. -/
def land (c : Nat) (s : State) (w : Wr) : State :=
  match w.tgt with
  | .sp n => putSpecial c n (enc 32 w.re) s
  | .evClear => evpClear c (enc 32 w.re) s
  | t =>
    let x := s.core c
    if w.shadow then s.setCore c { x with shad := x.shad.put t w.re w.im } else s.setCore c { x with main := x.main.put t w.re w.im }

/-- One advancing cycle: results whose latency has passed land, the later-issued last. -/
def advance (c : Nat) (s : State) : State :=
  let x := s.core c
  let fl := x.flight.map (fun w => { w with left := w.left - 1 })
  (fl.filter (fun w => w.left == 0)).foldl (land c) (s.setCore c { x with flight := fl.filter (fun w => w.left != 0) })

/-- Every result in flight lands. -/
def landAll (c : Nat) (s : State) : State := iter (advance c) 4 s

/-- Halt: results in flight land (R304, R307). -/
def haltCore (c : Nat) (s : State) : State := runTo c rHalted (landAll c s)

/-! Reads. -/

def RBank.D (b : RBank) (n : Nat) : Int × Int := Tbl.get (0, 0) b.d n
def RBank.A (b : RBank) (n : Nat) : Nat := Tbl.get 0 b.a n
def RBank.G (b : RBank) (n : Nat) : Nat := Tbl.get 0 b.g n
def RBank.P (b : RBank) (n : Nat) : Bool := if n % 8 = 0 then true else Tbl.get false b.p (n % 8)
def RBank.ACC (b : RBank) (n : Nat) : Int × Int := Tbl.get (0, 0) b.acc n
def RBank.MAC (b : RBank) (n : Nat) : Int × Int := Tbl.get (0, 0) b.mac n
/-- A register of the address generators: file 0 A, 1 I, 2 M, 3 B. -/
def RBank.file (b : RBank) (f n : Nat) : Nat := Tbl.get 0 (if f = 0 then b.a else if f = 1 then b.i else if f = 2 then b.m else b.b) n
def fileTgt (f n : Nat) : RTgt := if f = 0 then .a n else if f = 1 then .i n else if f = 2 then .m n else .b n

/-! Arithmetic of the datapath (R287 to R289). -/

/-- Shift left with saturation to `n` bits, or right with rounding. -/
def shiftSat (n : Nat) (v sh : Int) : Int := clampS n (rneScale v sh)
/-- Leading bits equal to the sign bit of an `n`-bit value. -/
def signBits (n : Nat) (v : Int) : Nat :=
  let m := (if v < 0 then -v - 1 else v).toNat
  n - (if m = 0 then 0 else Nat.log2 m + 1)
/-- AEXP and DEXP: `g` guard and sign bits, `z` the exponent of zero. -/
def expOf (n g : Nat) (z : Int) (v : Int × Int) : Int :=
  if v.1 = 0 ∧ v.2 = 0 then z else ((min (signBits n v.1) (signBits n v.2) : Nat) : Int) - (g : Int)
/-- ARND, AR32 and STA: an accumulator half times 2^k, rounded once and clamped. -/
def roundTo (n : Nat) (v k : Int) : Int := clampS n (rneScale v k)
def roundClamps (n : Nat) (v k : Int) : Bool := clampsS n (rneScale v k)

/-! Binary32 (R293). -/

def fNan : Nat := 0x7FC00000
/-- Round a sum or product; an exact zero takes the sign given. -/
def fPack (zneg : Bool) (v : Dy) : Nat := if v.m = 0 then (if zneg then 0x80000000 else 0) else
  let r := v.r32
  if r.m = 0 then (if v.m < 0 then 0x80000000 else 0) else Fl.encDy (decide (v.m < 0)) r
def fInf (neg : Bool) : Nat := if neg then 0xFF800000 else 0x7F800000
def fAdd (a b : Nat) : Nat :=
  match Fl.dec a, Fl.dec b with
  | .nan, _ => fNan
  | _, .nan => fNan
  | .inf x, .inf y => if x = y then fInf x else fNan
  | .inf x, _ => fInf x
  | _, .inf y => fInf y
  | .fin x v, .fin y w => fPack (x && y) (Dy.add v w)
def fNeg (a : Nat) : Nat := a ^^^ 0x80000000
def fMul (a b : Nat) : Nat :=
  match Fl.dec a, Fl.dec b with
  | .nan, _ => fNan
  | _, .nan => fNan
  | .inf x, .inf y => fInf (xor x y)
  | .inf x, .fin y w => if w.m = 0 then fNan else fInf (xor x y)
  | .fin x v, .inf y => if v.m = 0 then fNan else fInf (xor x y)
  | .fin x v, .fin y w => fPack (xor x y) (Dy.mul v w)
/-- `a < b`; false with a NaN. -/
def fLt (a b : Nat) : Bool :=
  match Fl.dec a, Fl.dec b with
  | .nan, _ => false
  | _, .nan => false
  | .inf x, .inf y => x && !y
  | .inf x, _ => x
  | _, .inf y => !y
  | .fin _ v, .fin _ w => Dy.lt v w
def fIsNan (a : Nat) : Bool := match Fl.dec a with | .nan => true | _ => false
/-- Order in which −0 lies below +0. -/
def fBelow (a b : Nat) : Bool := fLt a b || (a == 0x80000000 && b == 0)
def fMax (a b : Nat) : Nat := if fIsNan a then (if fIsNan b then fNan else b) else if fIsNan b then a else if fBelow a b then b else a
def fMin (a b : Nat) : Nat := if fIsNan a then (if fIsNan b then fNan else b) else if fIsNan b then a else if fBelow b a then b else a
/-- binary32 to int32: saturating, NaN to 0; whether it clamped. -/
def fToInt (a : Nat) : Int × Bool :=
  match Fl.dec a with
  | .nan => (0, false)
  | .inf n => (if n then -2147483648 else 2147483647, true)
  | .fin _ v => (clampS 32 v.toIntRne, clampsS 32 v.toIntRne)

/-! Instruction words (R292). -/

/-- What a slot does: its results with their latencies, and whether it set SAT. -/
structure SlotRes where
  wr : List (Nat × RTgt × Int × Int)
  sat : Bool
  mac : Option (Nat × Int × Int)
  deriving DecidableEq, Repr

def res (k : Nat) (t : RTgt) (v : Int) : SlotRes := { wr := [(k, t, v, 0)], sat := false, mac := none }
def resD (t : RTgt) (v : Int × Int) (sat : Bool) : SlotRes := { wr := [(2, t, v.1, v.2)], sat := sat, mac := none }
/-- A MAC-class result: 72 bits a half, saturating. -/
def resMac (n : Nat) (v : Int × Int) : SlotRes :=
  let r := (clampS 72 v.1, clampS 72 v.2)
  { wr := [(4, .acc n, r.1, r.2)], sat := clampsS 72 v.1 || clampsS 72 v.2, mac := some (n, r.1, r.2) }
def noRes : SlotRes := { wr := [], sat := false, mac := none }

/-- Special registers that only supervisor code reads or writes (R286). -/
def spSupRead (n : Nat) : Bool := decide (8 ≤ n) && decide (n ≤ 12)
def spSupWrite (n : Nat) : Bool := n == 4 || spSupRead n

/-- FCLK cycles since the start (R286): since the dividers started (R34). -/
def State.cycles (s : State) : Nat := (s.tclk - s.clk.t0) / 4

/-- MFS. -/
def readSpecial (s : State) (c n : Nat) : Nat :=
  let x := s.core c
  match n with
  | 0 => b2n x.sup + 2 * b2n x.shadow + 4 * b2n x.ie + 8 * b2n x.sat
  | 1 => x.vseg
  | 2 => x.ewin
  | 3 => evpWord s c
  | 4 => x.eve
  | 5 => ctmrNow s x
  | 6 => s.cycles % 2 ^ 32
  | 7 => x.cycHi
  | 8 => x.epc
  | 9 => x.ectx
  | 10 => x.ecause
  | 11 => x.eaddr % 2 ^ 32
  | 12 => x.eaddr / 2 ^ 32
  | _ => c

/-- The compute slot (R293): a fault's cause, or its results. -/
def computeSlot (s : State) (c : Nat) (b : RBank) (w : Nat) : Nat ⊕ SlotRes :=
  let cop := bits w 59 54
  let cx := bits w 53 50
  let cy := bits w 49 46
  let cz := bits w 45 42
  let ci := bits w 41 32
  let x := b.D cy
  let yz := b.D cz
  let y := if bitAt ci 0 then (yz.1, -yz.2) else yz
  let sg : Int := if bitAt ci 1 then -1 else 1
  let unit : Int := 536870912
  let m0 := x.1 * y.1 * unit * sg
  let m1 := x.2 * y.2 * unit * sg
  let m2 := x.1 * y.2 * unit * sg
  let m3 := x.2 * y.1 * unit * sg
  let ax := cx % 4
  let acc := b.MAC ax
  let accY := b.ACC (cy % 4)
  let sh := sext 7 ci
  let gy := b.G cy
  let gz := b.G cz
  let iy := sext 32 gy
  let iz := sext 32 gz
  let imm := sext 10 ci
  let gsh (v : Int) : Int := clampI (-64) 63 v
  let g (v : Int) : Nat ⊕ SlotRes := .inr (res 1 (.g cx) v)
  let p (v : Bool) : Nat ⊕ SlotRes := .inr (res 2 (.p (cx % 8)) (b2n v))
  let f (v : Nat) : Nat ⊕ SlotRes := .inr (res 3 (.g cx) v)
  let d2 (v : Int × Int) : Nat ⊕ SlotRes := .inr (resD (.d cx) (clampS 18 v.1, clampS 18 v.2) (clampsS 18 v.1 || clampsS 18 v.2))
  match cop with
  | 0x00 => .inr noRes
  | 0x01 => .inr (resMac ax (m0 - m1, m2 + m3))
  | 0x02 => .inr (resMac ax (acc.1 + m0 - m1, acc.2 + m2 + m3))
  | 0x03 => .inr (resMac ax (acc.1 + m0, acc.2 + m1))
  | 0x04 => .inr (resMac ax (acc.1 + (x.1 * x.1 + x.2 * x.2) * unit * sg, acc.2))
  | 0x05 => .inr (resMac ax (0, 0))
  | 0x06 => let o := b.MAC (cy % 4); .inr (resMac ax (acc.1 + o.1, acc.2 + o.2))
  | 0x07 => .inr (resMac ax (rneScale acc.1 sh, rneScale acc.2 sh))
  | 0x08 => .inr (res 2 (.g cx) (expOf 72 9 63 accY))
  | 0x09 => .inr (resMac ax (rneScale acc.1 (gsh iy), rneScale acc.2 (gsh iy)))
  | 0x0A => .inr (resD (.d cx) (roundTo 18 accY.1 (sh - 46), roundTo 18 accY.2 (sh - 46)) (roundClamps 18 accY.1 (sh - 46) || roundClamps 18 accY.2 (sh - 46)))
  | 0x0B => .inr { res 2 (.g cx) (roundTo 32 accY.1 (sh - 32)) with sat := roundClamps 32 accY.1 (sh - 32) }
  | 0x0C => .inr (res 2 (.g cx) (f32OfDy ⟨accY.1, sh - 63⟩ : Nat))
  | 0x0D =>
    match Fl.dec gy with
    | .nan => .inr { resMac ax acc with sat := true }
    | .inf neg => .inr { resMac ax (clampS 72 (if neg then -(2 ^ 73) else 2 ^ 73), acc.2) with sat := true }
    | .fin _ v => .inr (resMac ax (acc.1 + rneScale v.m (v.e + 63 + sh), acc.2))
  | 0x10 => .inr (res 2 (.g cx) (expOf 18 1 17 x))
  | 0x11 => d2 (rneScale x.1 (gsh iz), rneScale x.2 (gsh iz))
  | 0x12 => d2 (x.1 + yz.1, x.2 + yz.2)
  | 0x13 => d2 (x.1 - yz.1, x.2 - yz.2)
  | 0x14 => d2 (x.1, -x.2)
  | 0x15 => d2 (x.2, x.1)
  | 0x16 => d2 (sext 18 gy, sext 18 gz)
  | 0x17 => .inr (res 2 (.g cx) (if bitAt ci 0 then x.2 else x.1))
  | 0x18 => d2 x
  | 0x19 => .inr (res 2 (fileTgt (bits ci 4 3) (bits ci 2 0)) gy)
  | 0x1A => g (b.file (bits ci 4 3) (bits ci 2 0))
  | 0x1B =>
    let n := bits ci 4 0
    if 13 < n then .inl 1 else if spSupWrite n && !(s.core c).sup then .inl 2 else .inr (res 2 (.sp n) gy)
  | 0x1C =>
    let n := bits ci 4 0
    if 13 < n then .inl 1 else if spSupRead n && !(s.core c).sup then .inl 2 else g (readSpecial s c n)
  | 0x20 => g (iy + iz)
  | 0x21 => g (iy - iz)
  | 0x22 => g ((gy &&& gz : Nat) : Int)
  | 0x23 => g ((gy ||| gz : Nat) : Int)
  | 0x24 => g ((gy ^^^ gz : Nat) : Int)
  | 0x25 => g ((gy * 2 ^ bits ci 4 0 : Nat) : Int)
  | 0x26 => g (asr iy (bits ci 4 0))
  | 0x27 => g ((gy / 2 ^ bits ci 4 0 : Nat) : Int)
  | 0x28 => g (iy + imm)
  | 0x29 => g (sext 14 (bits w 45 32))
  | 0x2A => g ((bits w 49 32 * 2 ^ 14 + b.G cx % 2 ^ 14 : Nat) : Int)
  | 0x2B => p (decide (iy < imm))
  | 0x2C => p (gy == gz)
  | 0x2D => p (decide (iy < iz))
  | 0x2E => p (decide (gy < gz))
  | 0x2F => p (iy == imm)
  | 0x30 => p (b.P cy && b.P cz)
  | 0x31 => p (!b.P cy)
  | 0x38 => f (fAdd gy gz)
  | 0x39 => f (fAdd gy (fNeg gz))
  | 0x3A => f (fMul gy gz)
  | 0x3B => f (fMax gy gz)
  | 0x3C => f (fMin gy gz)
  | 0x3D => .inr (res 3 (.p (cx % 8)) (b2n (fLt gy gz)))
  | 0x3E => if bitAt ci 0 then .inr { res 3 (.g cx) (fToInt gy).1 with sat := (fToInt gy).2 } else f (f32OfDy ⟨iy, 0⟩)
  | _ => .inl 1

/-! Memory slot (R290, R291, R294). -/

/-- Bits reversed within `k` bits. -/
def bitRev : Nat → Nat → Nat
  | 0, _ => 0
  | k + 1, x => x % 2 * 2 ^ k + bitRev k (x / 2)

/-- Post-modify of A[n] (R290). -/
def postMod (b : RBank) (n : Nat) (off : Int) : Nat :=
  let a := (b.A n : Int)
  let base := (b.file 3 n : Int)
  let m := b.file 2 n
  let len : Nat := m % 2 ^ 24
  if len = 0 then enc 32 (a + off)
  else if !bitAt m 31 then enc 32 (base + (a - base + off) % (len : Int))
  else
    let k := Nat.log2 len
    let u := enc k (a - base)
    let v := enc k off
    enc 32 (base + ((bitRev k ((bitRev k u + bitRev k v) % 2 ^ k) : Nat) : Int))

/-- Bytes of a load or store operation by MOP, and the alignment it needs. -/
def memSize (mop : Nat) : Nat := match mop % 16 with | 1 => 4 | 2 => 4 | 3 => 6 | 4 => 6 | 5 => 4 | 6 => 4 | _ => 8
def memAlign (mop : Nat) : Nat := match mop % 16 with | 3 => 2 | 4 => 2 | 7 => 8 | _ => 4
/-- Is the MOP a load or a store, local or far? -/
def isMem (mop : Nat) : Bool := decide (mop < 0x20) && decide (1 ≤ mop % 16) && decide (mop % 16 ≤ 7)
def isFar (mop : Nat) : Bool := isMem mop && decide (16 ≤ mop)
def isStore (mop : Nat) : Bool := isMem mop && (mop % 16 == 2 || mop % 16 == 4 || mop % 16 == 6 || mop % 16 == 7)

/-- The bytes that a store writes, and whether a component clamps. -/
def storeBytes (b : RBank) (mop mr : Nat) : List Byte × Bool :=
  let d := b.D mr
  let a := b.ACC (mr % 4)
  match mop % 16 with
  | 2 => (leBytes 4 (b.G mr), false)
  | 4 => (leBytes 3 (enc 24 d.1) ++ leBytes 3 (enc 24 d.2), false)
  | 6 => (leBytes 2 (enc 16 (roundTo 16 d.1 (-2))) ++ leBytes 2 (enc 16 (roundTo 16 d.2 (-2))), roundClamps 16 d.1 (-2) || roundClamps 16 d.2 (-2))
  | _ => (leBytes 4 (enc 32 (roundTo 32 a.1 (-32))) ++ leBytes 4 (enc 32 (roundTo 32 a.2 (-32))), roundClamps 32 a.1 (-32) || roundClamps 32 a.2 (-32))

/-- What a load brings from its bytes. -/
def loadRes (mop mr : Nat) (bs : List Byte) : SlotRes :=
  let c24 (l : List Byte) : Int := sext 24 (leNat l)
  let c16 (l : List Byte) : Int := 4 * sext 16 (leNat l)
  match mop % 16 with
  | 1 => res 4 (.g mr) (leNat bs)
  | 3 =>
    let v := (c24 (bs.take 3), c24 (bs.drop 3))
    { wr := [(4, .d mr, clampS 18 v.1, clampS 18 v.2)], sat := clampsS 18 v.1 || clampsS 18 v.2, mac := none }
  | _ => { wr := [(4, .d mr, c16 (bs.take 2), c16 (bs.drop 2))], sat := false, mac := none }

/-- Does a local access lie in data memory, or in the Eddy window while it is enabled (R283)? -/
def localOk (x : RCore) (a n : Nat) : Bool :=
  decide (a + n ≤ 0x40000) || (decide (0x40000 ≤ a) && decide (a + n ≤ 0x48000) && bitAt x.ewin 6)

/-- Device address of the Eddy window's byte. -/
def winAddr (x : RCore) (a : Nat) : Nat := eddyBase + x.ewin % 64 * 0x8000 + (a - 0x40000)

def localRead (s : State) (c a n : Nat) : List Byte :=
  let x := s.core c
  if a < 0x40000 then (upFrom a n).map (fun k => Tbl.get 0 x.dmem k) else eddyReadB s (winAddr x a) n

/-- Store bytes in a core's data memory. -/
def dmemPut (c a : Nat) (bs : List Byte) (s : State) : State :=
  let x := s.core c
  s.setCore c { x with dmem := (bs.zip (upFrom a bs.length)).foldl (fun t e => if e.1 = 0 then Tbl.del t e.2 else Tbl.set t e.2 e.1) x.dmem }

def localWrite (c a : Nat) (bs : List Byte) (s : State) : State :=
  if a < 0x40000 then dmemPut c a bs s else eddyWriteB (winAddr (s.core c) a) bs s

/-! Faults, SYS and pre-emption (R300 to R304). -/

/-- ECTX of a pending branch. -/
def ectxOf (b : Option Branch) : Nat := match b with | some x => x.target + 2 ^ 12 * x.left | none => 0

/-- The registers that record a cause for BAR0 readers. -/
def recordCause (c cause epc : Nat) (ea : Option Nat) (dbl : Bool) (s : State) : State :=
  let s1 := (s.setWord (R.RFL_ECAUSE c) (cause + 256 * b2n dbl)).setWord (R.RFL_EPC c) epc
  match ea with
  | some a => (s1.setWord (R.RFL_EADDR_LO c) (a % 2 ^ 32)).setWord (R.RFL_EADDR_HI c) (a / 2 ^ 32 % 2 ^ 16)
  | none => s1

/-- Enter a handler: shadow bank, supervisor mode, the resume index and the pending branch saved; `bub` cycles pass in the pipeline before its first instruction. -/
def enterHandler (c vec cause epc bub : Nat) (ea : Option Nat) (s : State) : State :=
  let s1 := iter (advance c) bub s
  let x := s1.core c
  let s2 := s1.setCore c { x with shadow := true, sup := true, pc := vec % 4096, br := none, epc := epc, ectx := ectxOf x.br, ecause := cause,
                                  eaddr := ea.getD x.eaddr, far := none }
  recordCause c cause epc ea false (if x.run = rHalted then s2 else runTo c rRunning s2)

/-- A precise fault (R303, R304); SYS enters its own handler. -/
def coreFault (c cause : Nat) (ea : Option Nat) (s : State) : State :=
  let x := s.core c
  let sys := cause == 10
  let epc := if sys then (x.pc + 1) % 4096 else x.pc
  let s1 := if sys then s else raise (hCore c) 1 (s.bump64 (R.RFL_FAULTS c) 1)
  let s1 := s1.setCore c { s1.core c with far := none }
  if x.shadow then
    let s2 := recordCause c cause epc ea true (haltCore c s1)
    let s3 := raise (hCore c) 4 (setFault (hCore c) 2 s2)
    if sys then raise (hCore c) 1 s3 else s3
  else if sys then enterHandler c (s.wordN (R.RFL_VEC_SYS c)) cause epc 2 none s1
  else if s.flag (R.RFL_CFG_FAULT_ACT c) then enterHandler c (s.wordN (R.RFL_VEC_FAULT c)) cause epc 2 ea s1
  else setFault (hCore c) 1 (recordCause c cause epc ea false (haltCore c s1))

/-! Issue. -/

/-- The index that issues next, with pending branches and RTE honoured (R294, R302). -/
def stepPc (c : Nat) (nbr : Option Branch) (s : State) : State :=
  let x := s.core c
  let y := { x with pc := (x.pc + 1) % 4096, noPre := if x.shadow then x.noPre else false }
  match x.br with
  | none => s.setCore c { y with br := nbr }
  | some b =>
    if 1 < b.left then s.setCore c { y with br := some { b with left := b.left - 1 } }
    else if b.rte then
      let l := bits y.ectx 13 12
      s.setCore c { y with shadow := false, sup := false, noPre := true, pc := y.epc,
                           br := if l = 0 then none else some { target := bits y.ectx 11 0, left := l, rte := false } }
    else s.setCore c { y with pc := b.target, br := none }

/-- The results of both slots start on their way, the memory slot's first so that the compute slot's wins (R296). -/
def launch (c : Nat) (m k : SlotRes) (s : State) : State :=
  let x := s.core c
  let mk (r : SlotRes) : List Wr := r.wr.map (fun e => { left := e.1, shadow := x.shadow, tgt := e.2.1, re := e.2.2.1, im := e.2.2.2 })
  let put (b : RBank) : RBank := match k.mac with | some (n, re, im) => { b with mac := Tbl.set b.mac n (re, im) } | none => b
  let y := { x with flight := x.flight ++ mk m ++ mk k, sat := x.sat || m.sat || k.sat }
  s.setCore c (if x.shadow then { y with shad := put y.shad } else { y with main := put y.main })

/-- What a memory-slot operation does when it does not fault: its results, its effect, a branch it takes, and what follows its issue. -/
structure MemRes where
  res : SlotRes
  br : Option Branch
  deriving DecidableEq, Repr

/-- Causes of the memory slot that are known before any far response (R283, R291, R294, R297, R302). -/
def memCause (x : RCore) (b : RBank) (w : Nat) : Option (Nat × Option Nat) :=
  let mop := bits w 31 26
  let va := x.vseg * 2 ^ 32 + b.A (bits w 21 19)
  if isMem mop then
    let a := b.A (bits w 21 19)
    let ea := if isFar mop then va else a
    if a % memAlign mop ≠ 0 then some (4, some ea)
    else if !isFar mop && !localOk x a (memSize mop) then some (3, some ea) else none
  else if mop = 0 then none
  else if mop < 0x20 ∨ 0x2A < mop then some (1, none)
  else if (mop = 0x20 ∨ mop = 0x21 ∨ mop = 0x22 ∨ mop = 0x28 ∨ mop = 0x29) ∧ x.br.isSome then some (1, none)
  else if mop = 0x29 ∧ !x.sup then some (2, none)
  else none

/-- Results of the memory slot's registers: loads from `bs`, post-modify, CALL, EFLG, ECLRV. -/
def memResults (s : State) (x : RCore) (b : RBank) (w : Nat) (bs : List Byte) : SlotRes :=
  let mop := bits w 31 26
  let mr := bits w 25 22
  let n := bits w 21 19
  if isMem mop then
    let off := if bitAt w 18 then sext 18 w else sext 32 (b.file 1 (bits w 17 15))
    let pm : Nat × RTgt × Int × Int := (1, .a n, (postMod b n off : Nat), 0)
    let r := if isStore mop then { noRes with sat := (storeBytes b mop mr).2 } else loadRes mop mr bs
    { r with wr := pm :: r.wr }
  else if mop = 0x21 then res 1 (.g 15) ((x.pc + 3) % 4096 : Nat)
  else if mop = 0x24 then res 2 .evClear (b.G mr)
  else if mop = 0x26 then res 2 (.p (mr % 8)) (b2n (s.full (bits w 5 0)))
  else noRes

/-- Effects of the memory slot on what lies outside the registers. -/
def memEffect (c : Nat) (b : RBank) (w : Nat) (s : State) : State :=
  let mop := bits w 31 26
  if isStore mop && !isFar mop then localWrite c (b.A (bits w 21 19)) (storeBytes b mop (bits w 25 22)).1 s
  else if mop = 0x25 then raise (hCore c) 2 s
  else if mop = 0x27 then
    let n := bits w 5 0
    s.setWord (R.EDDY_FULL (n / 32)) (putBits (s.wordN (R.EDDY_FULL (n / 32))) (n % 32) (n % 32) 0)
  else s

/-- The branch that a control operation leaves pending. -/
def memBranch (b : RBank) (w : Nat) : Option Branch :=
  let mop := bits w 31 26
  if mop = 0x20 ∨ mop = 0x21 then some { target := bits w 11 0, left := 2, rte := false }
  else if mop = 0x22 then some { target := b.G (bits w 25 22) % 4096, left := 2, rte := false }
  else if mop = 0x29 then some { target := 0, left := 2, rte := true }
  else none

/-- CYC_LO latches CYC_HI (R286). -/
def latchCyc (c w : Nat) (s : State) : State :=
  if bits w 59 54 = 0x1C ∧ bits w 36 32 = 6 then s.setCore c { s.core c with cycHi := s.cycles / 2 ^ 32 % 2 ^ 32 } else s

/-- A step of one instruction ends, or a HALT that waited takes effect (R307). -/
def settle (c : Nat) (s : State) : State :=
  let x := s.core c
  if x.run = rRunning ∧ x.haltReq then (fun t => t.setCore c { t.core c with haltReq := false, step := false }) (haltCore c (s.setCore c { x with step := false }))
  else if x.run = rRunning ∧ x.step then (fun t => t.setCore c { t.core c with step := false }) (runTo c rHalted s)
  else if x.run = rHalted then s.setCore c { x with haltReq := false, step := false }
  else s

/-- An instruction completes: both slots take effect, `bs` the bytes of its load. -/
def complete (c w : Nat) (k : SlotRes) (bs : List Byte) (s : State) : State :=
  let x := s.core c
  let b := x.bank
  let mop := bits w 31 26
  let s1 := launch c (memResults s x b w bs) k (latchCyc c w (memEffect c b w s))
  if mop = 0x28 then coreFault c 10 none s1
  else
    let s2 := stepPc c (memBranch b w) s1
    if mop = 0x2A then haltCore c s2
    else if mop = 0x23 ∧ b.G (bits w 25 22) ≠ 0 ∧ (evpWord s c &&& b.G (bits w 25 22)) = 0 then
      runTo c rWaiting (s2.setCore c { s2.core c with mask := b.G (bits w 25 22) })
    else s2

/-! Port B of the Eddy buffers (R298). -/

/-- The buffer whose window a local access of an instruction word uses. -/
def winBuffer (x : RCore) (w : Nat) : Option Nat :=
  let mop := bits w 31 26
  if isMem mop && !isFar mop && decide (0x40000 ≤ x.bank.A (bits w 21 19)) then some (x.ewin % 64) else none

/-- The cores that wait for port B of a buffer. -/
def portWaits (s : State) (n : Nat) : List Nat :=
  s.rfl.filterMap (fun e => match e.2.win with | some w => if winBuffer e.2 w = some n then some e.1 else none | none => none)

/-- Is port B of a buffer taken in this FCLK cycle, or do cores wait for it? -/
def portBusy (s : State) (n : Nat) : Bool :=
  (match Tbl.find s.rsv.portB n with | some e => e.1 == s.fclk | none => false) || !(portWaits s n).isEmpty

/-- A requester uses port B of a buffer. -/
def portUse (n who : Nat) (s : State) : State := { s with rsv := { s.rsv with portB := Tbl.set s.rsv.portB n (s.fclk, who) } }

/-- The same for an access to a device address. -/
def portUseAt (a who : Nat) (s : State) : State := if inEddy a then portUse ((a - eddyBase) / 0x8000) who s else s

/-- The bytes that a local load reads; none for other operations. -/
def localLoad (s : State) (c w : Nat) : List Byte :=
  let mop := bits w 31 26
  if isMem mop && !isStore mop then localRead s c ((s.core c).bank.A (bits w 21 19)) (memSize mop) else []

/-- A window access that waited has port B in this cycle: the stall ends and the instruction completes. -/
def winServe (n c : Nat) (s : State) : State :=
  match (s.core c).win with
  | none => s
  | some w =>
    let s1 := portUse n c (runTo c rRunning (s.setCore c { s.core c with win := none }))
    match computeSlot s1 c (s1.core c).bank w with
    | .inl cause => settle c (coreFault c cause none s1)
    | .inr k => settle c (complete c w k (localLoad s1 c w) s1)

/-- The number that comes first after `last` in cyclic order. -/
def nextAfter (last : Nat) (l : List Nat) : Option Nat :=
  match l.find? (fun c => decide (last < c)) with
  | some c => some c
  | none => l.head?

/-- An FCLK cycle begins: port B of each buffer goes to the next core that waits for it, round robin. -/
def portTick (s : State) : State :=
  if s.tclk % 4 ≠ 0 || !s.rfl.any (fun e => e.2.win.isSome) then s
  else (List.range 64).foldl (fun s n =>
    match nextAfter (Tbl.get (0, 0) s.rsv.portB n).2 (portWaits s n) with
    | some c => winServe n c s
    | none => s) s

/-! Error correction of the local memories (R284). -/

/-- Words of local data memory that a load reads, and what is found in them. -/
def localEcc (x : RCore) (w : Nat) (e : LocalEcc) : List Ecc :=
  let mop := bits w 31 26
  let a := x.bank.A (bits w 21 19)
  if isMem mop && !isFar mop && !isStore mop && decide (a < 0x40000) then e.data.take (touchedWords a (memSize mop)).length else []

/-- Corrected reads count in RFL_CE. -/
def localCe (c : Nat) (es : List Ecc) (s : State) : State :=
  let n := (es.filter (fun e => e == .corrected)).length
  if n = 0 then s else s.bump64 (R.RFL_CE c) n

/-- A core issues an instruction word (R292): the pipeline advances; a word that cannot be corrected takes IFETCH; a false predicate leaves both slots without effect; the first fault
of the slots is taken, the compute slot's before the memory slot's; a far access stalls the core, and so does a window access that does not get port B. -/
def issueWord (c w : Nat) (e : LocalEcc) (s0 : State) : State :=
  if (s0.core c).run ≠ rRunning then s0
  else
    let s := localCe c [e.fetch] (advance c s0)
    let x := s.core c
    let b := x.bank
    settle c (
      if e.fetch = .uncorrectable then coreFault c 11 none s
      else if xor (b.P (bits w 63 61)) (bitAt w 60) then
        match computeSlot s c b w with
        | .inl cause => coreFault c cause none s
        | .inr k =>
          match memCause x b w with
          | some (cause, ea) => coreFault c cause ea s
          | none =>
            let mop := bits w 31 26
            if isFar mop then
              runTo c rStalled (s.setCore c { x with far := some { word := w, since := s.fclk, asid := s.fld (R.MMU_CORE_ASID_ASID c) } })
            else
              match winBuffer x w with
              | some n =>
                if portBusy s n then runTo c rStalled (s.setCore c { x with win := some w })
                else complete c w k (localLoad s c w) (portUse n c s)
              | none =>
                let es := localEcc x w e
                let s1 := localCe c es s
                if es.contains .uncorrectable then coreFault c 8 (some (b.A (bits w 21 19))) s1
                else complete c w k (localLoad s1 c w) s1
      else stepPc c none s)

/-! Far accesses (R291, R298, R319, R320). -/

/-- Virtual address of a core's far access. -/
def farVa (x : RCore) (w : Nat) : Nat := x.vseg * 2 ^ 32 + x.bank.A (bits w 21 19)

/-- The part of a far access that lies in one page: virtual address of its first byte, first byte of the page, device address, bytes. -/
structure FarPart where
  va : Nat
  page : Nat
  dev : Nat
  len : Nat
  deriving DecidableEq, Repr

/-- How a far access fails: the fault, the virtual address of the bytes that meet it, and EADDR. -/
structure FarFail where
  fault : TFault
  va : Nat
  ea : Nat
  deriving DecidableEq, Repr

/-- EADDR (R291): the access's address, or, where its bytes span two pages, the first byte of the faulting page. -/
def farEaddr (span : Bool) (va page : Nat) : Nat := if span then page else va

/-- A far access of a core faults: recorded in the translation unit and taken by the core (R320). -/
def farFault (c : Nat) (f : Far) (e : FarFail) (s : State) : State :=
  let wr := isStore (bits f.word 31 26)
  let s1 := addLatency 4 c (s.fclk - f.since) (mmuFault c f.asid e.va wr e.fault s)
  settle c (coreFault c e.fault.cause (some e.ea) s1)

/-- Translate the page that holds `va`, of which `n` bytes are wanted (checks 1 and 2): the bytes up to its end, or the fault with the page's first byte. -/
def farPage (c : Nat) (f : Far) (user : Bool) (va n : Nat) (s : State) : ((TFault × Nat) ⊕ FarPart) × State :=
  match translate c f.asid va s with
  | (.inl t, s1) => (.inl (t, va / 4096 * 4096), s1)
  | (.inr e, s1) =>
    let z := 2 ^ e.size
    let wr := isStore (bits f.word 31 26)
    if !pageOk e wr user then (.inl ({ cause := 6, level := 0, mal := false, walk := false }, va / z * z), s1)
    else (.inr { va := va, page := va / z * z, dev := e.dev va, len := min n (z - va % z) }, s1)

/-- Translate the page or the two pages that `n` bytes from `va` lie in: their parts, or the first fault.  Where the first page has no translation, its size is taken as 4 KiB. -/
def farTranslate (c : Nat) (f : Far) (user : Bool) (va n : Nat) (s : State) : (FarFail ⊕ List FarPart) × State :=
  match farPage c f user va n s with
  | (.inl t, s1) =>
    let span := match (s1.tlb c).find? (fun e => e.covers f.asid va) with
      | some e => decide (2 ^ e.size - va % 2 ^ e.size < n)
      | none => decide (4096 - va % 4096 < n)
    (.inl { fault := t.1, va := va, ea := farEaddr span va t.2 }, s1)
  | (.inr p, s1) =>
    if p.len = n then (.inr [p], s1)
    else
      let v2 := (va + p.len) % 2 ^ 48
      match farPage c f user v2 (n - p.len) s1 with
      | (.inl t, s2) => (.inl { fault := t.1, va := v2, ea := t.2 }, s2)
      | (.inr q, s2) => (.inr [p, q], s2)

/-- Owner ID of a core (R306). -/
def coreOwner (c : Nat) : Nat := 0x1A10 + c

/-- The first part of an access that fails checks 2 to 5 of R319, and its cause. -/
def farCheck (s : State) (owner : Nat) (wr : Bool) : List FarPart → Response → Option (FarPart × Nat)
  | [], _ => none
  | p :: rest, resp =>
    let c := devCause s owner p.dev p.len wr resp
    if c ≠ 0 then some (p, c) else farCheck s owner wr rest (respDrop resp (readWords p.dev p.len wr).length)

/-- What error correction finds in the words of the parts. -/
def farEcc (parts : List FarPart) (wr : Bool) (resp : Response) (s : State) : State :=
  match resp with
  | .answered es => eccWords (parts.flatMap (fun p => readWords p.dev p.len wr)) es s
  | .timeout => s

/-- Store the bytes of a far store in its parts. -/
def farStore : List FarPart → List Byte → State → State
  | [], _, s => s
  | p :: rest, bs, s => farStore rest (bs.drop p.len) (devWrite p.dev (bs.take p.len) s)

/-- The outstanding far access of a core ends with a response: every check of R319, then the instruction completes. -/
def farComplete (c : Nat) (resp : Response) (s : State) : State :=
  let x := s.core c
  match x.far with
  | none => s
  | some f =>
    let mop := bits f.word 31 26
    let wr := isStore mop
    match farTranslate c f (!x.sup) (farVa x f.word) (memSize mop) s with
    | (.inl e, s1) => farFault c f e s1
    | (.inr parts, s1) =>
      match farCheck s1 (coreOwner c) wr parts resp with
      | some (p, cause) =>
        let s2 := if cause = 8 then farEcc parts wr resp s1 else s1
        farFault c f { fault := { cause := cause, level := 0, mal := false, walk := false }, va := p.va, ea := farEaddr (decide (1 < parts.length)) p.va p.page } s2
      | none =>
        let s2 := parts.foldl (fun s p => portUseAt p.dev c s) (farEcc parts wr resp s1)
        let data := parts.flatMap (fun p => devRead s2 p.dev p.len)
        let s3 := if wr then farStore parts (storeBytes x.bank mop (bits f.word 25 22)).1 s2 else s2
        let s4 := addLatency 4 c (s3.fclk - f.since) (runTo c rRunning (s3.setCore c { s3.core c with far := none }))
        match computeSlot s4 c x.bank f.word with
        | .inl cause => settle c (coreFault c cause none s4)
        | .inr k => settle c (complete c f.word k (if wr then [] else data) s4)

/-- The addresses of a far access whose pages a translation must know: its first byte, and the first byte beyond the page of that, as far as the page is known. -/
def farVas (s : State) (c : Nat) (f : Far) (va n : Nat) : List Nat :=
  let z := match (s.tlb c).find? (fun e => e.covers f.asid va) with | some e => 2 ^ e.size | none => 4096
  let k := z - va % z
  if k < n then [va, (va + k) % 2 ^ 48] else [va]

/-- The walk of a core's far access ends: its first untranslated page is filled, or the access faults (R312 to R315). -/
def coreWalk (c : Nat) (ecc : List Ecc) (s : State) : State :=
  let x := s.core c
  match x.far with
  | none => walkEnded c s
  | some f =>
    let va := farVa x f.word
    let vas := farVas s c f va (memSize (bits f.word 31 26))
    match vas.find? (fun v => needsWalk s c f.asid v) with
    | none => walkEnded c s
    | some v =>
      match walk c f.asid v ecc s with
      | (.inr _, s1) => s1
      | (.inl t, s1) => farFault c f { fault := t, va := v, ea := farEaddr (decide (1 < vas.length)) v (v / 4096 * 4096) } s1

/-- Does a core wait for a walk? -/
def coreWalks (s : State) (c : Nat) : Bool :=
  let x := s.core c
  match x.far with
  | none => false
  | some f => (farVas s c f (farVa x f.word) (memSize (bits f.word 31 26))).any (fun v => needsWalk s c f.asid v)

end Sys2Proof.Machine
end

