-- ==== Sys2Proof/Machine/Host.lean ====
section
/-! DEFINITION. The PCIe host port and MSI-X (R355 to R358, R457). -/

namespace Sys2Proof.Machine

/-! MSI-X (R357, R457). -/

/-- Put what a report left behind and what follows from it into the state. -/
def applyRep (x : Rep × List (Nat × Nat)) (s : State) : State := { s with rep := runOcc 1000 s x.2 x.1 }

/-- Vectors with their PBA bit set that may send now send. -/
def pbaFlush (s : State) : State :=
  s.rep.pba.foldl (fun s e => if vecOpen s s.rep e.1 then applyRep (vecSend s s.rep e.1 e.2) s else s) s

/-- A vector is unmasked. -/
def vecUnmask (v : Nat) (s : State) : State :=
  let s1 := s.setFlag (R.MSIX_CTRL_MASK v) false
  match Tbl.find s1.rep.pba v with
  | some t => if vecOpen s1 s1.rep v then applyRep (vecSend s1 s1.rep v t) s1 else s1
  | none => s1

/-- A vector's hold ends: one message when a trigger arrived during it, and a new hold. -/
def vecHoldEnd (v : Nat) (s : State) : State :=
  match Tbl.find s.rep.holds v with
  | none => s
  | some h =>
    let s1 := { s with rep := { s.rep with holds := Tbl.del s.rep.holds v } }
    match h.trig with
    | some t => applyRep (vecTrigger s1 s1.rep v t) s1
    | none => s1

/-! Config space (R355, R358).  The places of the capabilities, and the values the standards give where the spec gives none, are PRESUMED (log entry 19). -/

/-- Reset values of the dwords that are not 0. -/
def cfgReset : Tbl Nat := [
  (0x00, 0x64101C7B), (0x04, 0x00100000), (0x08, 0x1180000B), (0x10, 0x4), (0x18, 0xC), (0x2C, 0x64101C7B), (0x34, 0x40),
  (0x40, 0x00035001), (0x44, 0x8), (0x50, 0x00FF7011), (0x54, 0x01D38000), (0x58, 0x01D39000),
  (0x70, 0x00020010), (0x74, 0x00008002), (0x78, 0x00002810), (0x7C, 0x00000085),
  (0x100, 0x15020001), (0x10C, 0x00462030), (0x114, 0x00002000), (0x150, 0x00010003)]

/-- Writable bits. -/
def cfgMask : Tbl Nat := [
  (0x04, 0x0546), (0x0C, 0xFF), (0x10, 0xFE000000), (0x14, 0xFFFFFFFF), (0x1C, 0xFFFFFFFF), (0x3C, 0xFF), (0x44, 0x3), (0x50, 0xC0000000),
  (0x78, 0x7FFF), (0x80, 0x03FB), (0x108, 0xFFFFFFFF), (0x10C, 0xFFFFFFFF), (0x114, 0xFFFFFFFF), (0x118, 0x1FF)]

/-- A dword of config space: link speed and width follow the link, the serial number is the module's. -/
def cfgRead (s : State) (r : Nat) : Nat :=
  let w := match Tbl.find s.net.cfgsp r with | some v => v | none => Tbl.get 0 cfgReset r
  if r = 0x80 then w % 65536 + s.fld R.HOST_STATUS_GEN * 2 ^ 16 + s.fld R.HOST_STATUS_WIDTH * 2 ^ 20
  else if r = 0x154 then Config.unitSerial % 2 ^ 32 else if r = 0x158 then Config.unitSerial / 2 ^ 32 % 2 ^ 32 else w

/-- A write to config space; MSI-X Enable and Function Mask act on the vectors (R358). -/
def cfgWrite (r v be : Nat) (s : State) : State :=
  let m := Tbl.get 0 cfgMask r &&& ((if bitAt be 0 then 0xFF else 0) + (if bitAt be 1 then 0xFF00 else 0) + (if bitAt be 2 then 0xFF0000 else 0) +
    (if bitAt be 3 then 0xFF000000 else 0))
  let w := (cfgRead s r &&& (0xFFFFFFFF - m)) ||| (v &&& m)
  let s1 := if m = 0 then s else { s with net := { s.net with cfgsp := Tbl.set s.net.cfgsp r w } }
  if r = 0x50 then
    let s2 := s1.setFlag R.HOST_STATUS_MSIX_EN (bitAt w 31)
    pbaFlush { s2 with rep := { s2.rep with fnMask := bitAt w 30 } }
  else s1

/-- A config request: retry status until start-up has released the host port. -/
def configRequest (r : Nat) (wr : Option (Nat × Nat)) (s : State) : State :=
  if !s.net.hostOpen then s.emit .configRetry
  else if !s.flag R.HOST_STATUS_LINK_UP then s
  else match wr with
  | some (v, be) => cfgWrite (r / 4 * 4) v be s
  | none => s.emit (.configRead (r / 4 * 4) (cfgRead s (r / 4 * 4)))

/-! The device memory window (R356). -/

/-- Does a Reservoir address lie in a region marked RING? -/
def inRing (s : State) (a : Nat) : Bool := match s.regionAt a with | some n => s.flag (R.RSV_REG_CFG_RING n) | none => false

/-- An access through the window once it is served. -/
def bar2Serve (q : MemReq) (s : State) : State :=
  let a := q.addr
  let n := q.len
  if !s.inBands a n then
    let s1 := raise hHost 2 (s.bump64 R.HOST_ERR 1)
    if q.data.isNone then s1.emit .bar2Abort else s1
  else if q.data.isNone then
    let s1 := serve q (portUseAt a 96 s)
    s1.emit (.bar2Read (devRead s1 a n) ((s1.inReservoir a || inPool a) && s1.poisoned a n))
  else if s.inReservoir a then (if inRing s a || inRing s (a + n - 1) then s else serve q s)
  else if inPool a then poolServe q s
  else s

/-- A host access through BAR2; held while its rank is in the switch-over window (R265). -/
def bar2Access (off : Nat) (span : Bar2Span) (wr : Option (List Byte)) (s : State) : State :=
  let n := match wr with | some bs => bs.length | none => span.len
  if !s.net.hostOpen || !s.flag R.HOST_STATUS_LINK_UP || n == 0 then s
  else
    let a := s.fld R.HOST_WIN_LO_BASE * 2 ^ 20 + 2 ^ 32 * s.fld R.HOST_WIN_HI_BASE + off
    let q : MemReq := { who := .bar2, addr := a, len := n, data := wr, ecc := span.ecc }
    if s.inBands a n && s.inWindow a then { s with net := { s.net with held := s.net.held ++ [q] } }
    else bar2Serve q s

/-- The accesses that waited for the end of the window. -/
def bar2Release (s : State) : State :=
  if s.rsv.window then s
  else s.net.held.foldl (fun s q => bar2Serve q s) { s with net := { s.net with held := [] } }

/-! Link down and up (R358). -/

/-- The link goes down: reads in progress are abandoned, messages not sent set their PBA bits. -/
def hostDown (s : State) : State :=
  if !s.flag R.HOST_STATUS_LINK_UP then s
  else
    let pba := s.rep.holds.foldl (fun p e => match e.2.trig with | some t => (match Tbl.find p e.1 with | some _ => p | none => Tbl.set p e.1 t) | none => p) s.rep.pba
    let s1 : State := { s with rep := { s.rep with pba := pba, holds := s.rep.holds.map (fun e => (e.1, { e.2 with trig := none })) }
                               net := { s.net with held := s.net.held.filter (fun q => q.data.isSome) } }
    let s2 := ((s1.setFlag R.HOST_STATUS_LINK_UP false).setFld R.HOST_STATUS_GEN 0).setFld R.HOST_STATUS_WIDTH 0
    raise hHost 1 (s2.bump64 R.HOST_DOWN 1)

/-- The link has trained: config space starts from its reset values. -/
def hostUp (gen width : Nat) (s : State) : State :=
  if s.flag R.HOST_STATUS_LINK_UP then s
  else
    let s1 : State := { s with net := { s.net with cfgsp := [] }, rep := { s.rep with fnMask := false } }
    raise hHost 0 (((s1.setFlag R.HOST_STATUS_LINK_UP true).setFld R.HOST_STATUS_GEN gen).setFld R.HOST_STATUS_WIDTH width |>.setFlag R.HOST_STATUS_MSIX_EN false)

/-! Meanings. -/

/-- SWITCHOVER_END (R265, R266, R356). -/
def execSwitchoverEnd (s : State) : Host.Outcome State Fault Refusal := .next (bar2Release (switchEnd s))

/-- PCIE_BAR2_ACCESS (R356). -/
def execPcieBar2Access (off : BitVec 32) (span : Bar2Span) (wr : Option (List Byte)) (s : State) : Host.Outcome State Fault Refusal :=
  .next (bar2Access off.toNat span wr s)

/-- PCIE_CONFIG_REQUEST (R355, R358). -/
def execPcieConfigRequest (reg : BitVec 12) (wr : Option (Word × BitVec 4)) (s : State) : Host.Outcome State Fault Refusal :=
  .next (configRequest reg.toNat (wr.map (fun w => (w.1.toNat, w.2.toNat))) s)

/-- HOST_DOWN (R358). -/
def execHostDown (s : State) : Host.Outcome State Fault Refusal := .next (hostDown s)

/-- HOST_UP (R358). -/
def execHostUp (gen : Fin 6) (width : BitVec 4) (s : State) : Host.Outcome State Fault Refusal := .next (hostUp gen width.toNat s)

/-- MSIX_VECTOR_UNMASK (R357). -/
def execMsixVectorUnmask (v : Fin 256) (s : State) : Host.Outcome State Fault Refusal := .next (vecUnmask v s)

/-- VEC_HOLD_END (R457). -/
def execVecHoldEnd (v : Fin 256) (s : State) : Host.Outcome State Fault Refusal := .next (vecHoldEnd v s)

end Sys2Proof.Machine
end

