-- ==== Sys2Proof/Machine/Reach.lean ====
section
/-! DEFINITION. The transform reaches (spec/05): frames, integration, cross-power, kurtosis, the deep reach's two passes, commit points and
commands. -/

namespace Sys2Proof.Machine

/-! The next frame of a reach. -/

/-- First word of the last point of frame `j` of a grid. -/
def Grid.lastWord (k p : Nat) (g : Grid) (j : Nat) : Nat := g.origin + g.wordOff (j * (g.set k p).hop + (g.set k p).span - 1)

/-- Is the next frame of a grid complete: it has begun, and its last point is released or the grid was cut by a new epoch (R116)? -/
def Grid.ready (s : State) (k p : Nat) (g : Grid) : Bool :=
  (match g.stop with | some n => decide (g.next < n) | none => true) &&
  (g.cut.isSome || decide (g.next * (g.set k p).hop + (g.set k p).span ≤ g.points s p))

/-- Which grid gives the next frame: a cut grid first, else the one whose frame ends first. -/
def pickGrid (s : State) (k p : Nat) (gs : List Grid) : Option Nat :=
  let c := (gs.zip (List.range gs.length)).filter (fun e => e.1.ready s k p)
  match c.find? (fun e => e.1.cut.isSome) with
  | some e => some e.2
  | none => (c.foldl (fun (m : Option (Nat × Nat)) e =>
      let w := e.1.lastWord k p e.1.next
      match m with | none => some (w, e.2) | some x => if w < x.1 then some (w, e.2) else m) none).map Prod.snd

/-- Take the next frame: its grid and number, and the state with the grid advanced; grids that end are dropped. -/
def takeFrame (k p : Nat) (s : State) : Option (Grid × Nat) × State :=
  let x := s.reach k p
  match pickGrid s k p x.grids with
  | none => (none, s)
  | some i =>
    match x.grids[i]? with
    | none => (none, s)
    | some g =>
      let gs := (x.grids.set i { g with next := g.next + 1 }).filter (fun g => match g.stop with | some n => decide (g.next < n) | none => true)
      (some (g, g.next), s.setReach k p { x with grids := gs })

/-- Are the grid's settings those in force? -/
def Grid.current (s : State) (k p : Nat) (g : Grid) : Bool := g.cfg == gridWords s k p

/-- DEC of the descriptor. -/
def Grid.dec (g : Grid) : Nat := if g.bond then 0 else bits g.fmt 6 4

/-- Is a port that the grid takes its points from under calibration? -/
def Grid.calBusy (s : State) (p : Nat) (g : Grid) : Bool := s.flag (R.ING_PORT_STATUS_CAL_BUSY p) || (g.bond && s.flag (R.ING_PORT_STATUS_CAL_BUSY (p + 1)))

/-- Compute the frame at point `n`, held by R144 when a point was taken under calibration; remember it, unless a calibration has begun, when its settings are in force.  DESIGN CHOICE (log entry
73): the frame repeated is one of the reach's settings in force, whatever format or bond its port had then. -/
def frameAt (k p : Nat) (g : Grid) (n : Nat) (s : State) : Frame × Bool × State :=
  let r := g.set k p
  let c := computeFrame s r g n
  let x := s.reach k p
  if bitAt c.1.psw 1 then
    (heldFrame r (fmtCplx g.fmt && !g.bond) (if g.current s k p then x.last else none) c.1, false, s)
  else (c.1, c.2, if g.current s k p && !g.calBusy s p then s.setReach k p { x with last := some c.1 } else s)

/-- The partner's frame at point `n` of a grid of its own, for the cross-power of primary `p`; held by R144 like a frame of the primary. -/
def partnerFrame (p q : Nat) (g : Grid) (n : Nat) (s : State) : Frame × State :=
  let r := g.set 1 q
  let c := computeFrame s r g n
  let x := s.reach 1 p
  if bitAt c.1.psw 1 then (heldFrame r (fmtCplx g.fmt && !g.bond) x.lastXp c.1, s)
  else (c.1, if g.calBusy s q then s else s.setReach 1 p { x with lastXp := some c.1 })

/-- Count a saturated frame (R127). -/
def countSat (k p : Nat) (s : State) : State := raise (hRch k p) 0 (s.bump64 (R.XRH_SAT k p) 1)

/-- Count a completed frame, and a saturated one (R127). -/
def countFrame (k p : Nat) (sat : Bool) (s : State) : State :=
  let s1 := s.bump64 (R.XRH_FRAMES k p) 1
  if sat then countSat k p s1 else s1

/-! Short reach (R131, R132). -/

/-- One short-reach frame completes: detectors, planes, masks, and an export when one is due. -/
def srFrameDone (p : Nat) (s : State) : State :=
  match takeFrame 0 p s with
  | (none, _) => s
  | (some (g, j), s0) =>
    let r := g.set 0 p
    let fr := frameAt 0 p g (j * r.hop) s0
    let pd := powerDb s r fr.1
    let sat := fr.2.1 || pd.2.2
    let f := { fr.1 with psw := fr.1.psw ||| (if pd.2.2 then pswSat else 0) ||| s.memDeg }
    let s1 := countFrame 0 p sat fr.2.2
    let fi : FrameIn := {
      pw := pd.1, dc := pd.2.1, k := binsOf r (fmtCplx g.fmt && !g.bond), psw := f.psw, dtFirst := f.dtFirst,
      dtLast := f.dtLast, dbo := r.dbOff, nlog := r.nlog, bond := g.bond }
    let w0 := g.origin + g.wordOff (j * r.hop)
    let s2 := siltFrame p w0 fi s1
    let s3 := weirFrame p g w0 (g.lastWord 0 p j) (g.epoch && j == 0) fi s2
    let x := s3.reach 0 p
    let snap := x.snap.any (fun w => decide (w ≤ w0))
    if snap || (r.expEn && j % (r.expDiv + 1) == 0) then
      let s4 := if snap then s3.setReach 0 p { x with snap := x.snap.filter (fun w => decide (w0 < w)) } else s3
      emitProduct r g.dec {
        kind := kindByte 0 p g.bond, fmt := r.fmt, bins := binPayload r.fmt f pd.1 pd.2.1, rfi := [], cnts := [],
        dtFirst := f.dtFirst, dtLast := f.dtLast, psw := f.psw, exp := if r.fmt = 0 then f.exp else 0, frames := 1,
        normG := if r.fmt = 0 then 0x3F800000 else gainWord (gainOf s r), xpResid := 0 } s4
    else s3

/-! Cross-power (R146, R147). -/

/-- The partner of a primary, if the port is one. -/
def xpPartner (s : State) (p : Nat) : Option Nat :=
  if p = 0 then (if s.bonded 0 && s.bonded 2 then some 2 else if s.bonded 0 then none else some 1)
  else if p = 2 && !s.bonded 2 then some 3
  else none

/-- Does cross-power run: XP_EN on a primary and like settings in force on both mid reaches? -/
def xpLock (s : State) (p : Nat) : Bool :=
  match xpPartner s p with
  | none => false
  | some q =>
    let a := s.rset 1 p
    let b := s.rset 1 q
    let fa := (s.portSt p).fmt
    let fb := (s.portSt q).fmt
    a.xpEn && a.en && b.en && a.nlog == b.nlog && a.ovl == b.ovl && a.win == b.win && a.ubank == b.ubank && a.taps == b.taps &&
    fmtD fa == fmtD fb && fmtCplx fa == fmtCplx fb && a.f == b.f

/-- The number of a port's point that word `w` begins: on a bond the points of both ports are numbered together. -/
def pointNo (s : State) (p w : Nat) : Nat := if s.bonded p then 2 * w else w / wpp (s.portSt p).fmt

/-- A grid of the partner whose point 0 lies at point `i` (bond: at its even point) and whose words end at `cut`, and the point within it. -/
def partnerGrid (s : State) (q i : Nat) (cut : Option Nat) : Grid × Nat :=
  let w := if s.bonded q then i / 2 else i * wpp (s.portSt q).fmt
  let other (r : Nat) : Nat := r + s.released (q + 1) - s.released q
  ({ cfg := gridWords s 1 q, fmt := (s.portSt q).fmt, bond := s.bonded q, origin := w, origin2 := other w,
     next := 0, stop := none, cut := cut, cut2 := cut.map other, epoch := false, cuts := [] }, if s.bonded q then i % 2 else 0)

/-- DT of a point of the partner. -/
def partnerDt (s : State) (q i : Nat) : Nat := gridDt s q (partnerGrid s q i none).1 (partnerGrid s q i none).2

/-- The partner's point nearest to a DT, the earlier on a tie, and δ. -/
def nearestPoint (s : State) (q d : Nat) : Nat × Int :=
  let i := pointNo s q (s.wordAtDt q d)
  let err (k : Nat) : Int := (partnerDt s q k : Int) - (d : Int)
  [i + 1, i + 2].foldl (fun m k => if (err k).natAbs < m.2.natAbs then (k, err k) else m) (i, err i)

/-- The alignment of a primary's frame whose first word is `w` and point `i`, of DT `d`; it is set when none is in force for that frame (R146). -/
def xpSet (p q i w d : Nat) (s : State) : (Int × Int) × State :=
  let a := Tbl.get XpAlign.init s.rch.xpAlign p
  match (if w < a.at_ then a.old else a.cur) with
  | some v => (v, s)
  | none =>
    let n := nearestPoint s q d
    let v : Int × Int := ((n.1 : Int) - (i : Int), n.2)
    let b := if w < a.at_ then { a with old := some v } else { a with cur := some v }
    (v, raise (hRch 1 p) 7 (({ s with rch := { s.rch with xpAlign := Tbl.set s.rch.xpAlign p b } }).setWord (R.MRH_XP_RESID p) (enc 32 n.2)))

/-- A new epoch of port `p`: alignment is set again for the primary's frames that begin after it (R146). -/
def xpEpoch (p : Nat) (s : State) : State :=
  [0, 2].foldl (fun s a =>
    if (xpPartner s a).isSome && (a == p || xpPartner s a == some p) then
      let b := Tbl.get XpAlign.init s.rch.xpAlign a
      let n : XpAlign := { at_ := s.released a, cut := if a = p then none else some (s.released p), old := b.cur, cur := none }
      { s with rch := { s.rch with xpAlign := Tbl.set s.rch.xpAlign a n } }
    else s) s

/-- The terms xa × conj(xb) of a frame pair in binary64. -/
def xpTerms (a b : Frame) : List (Dy × Dy) :=
  List.zipWith (fun x y =>
    (Dy.r64 ⟨x.1 * y.1 + x.2 * y.2, a.exp + b.exp⟩, Dy.r64 ⟨x.2 * y.1 - x.1 * y.2, a.exp + b.exp⟩)) a.bins b.bins

/-! Integration (R141, R143, R148). -/

def Integ.fresh (n : Nat) : Integ :=
  { frames := 0, sum := List.replicate n Dy.zero, blk := [], s1 := [], s2 := [], cnt := List.replicate n 0, rfi := [], xp := [], xpBlk := [],
    xpPsw := 0, inBlk := 0, psw := 0, dtFirst := 0, dtLast := 0, lvl1 := [], resid := 0, at1 := 0, at2 := 0 }

/-- Sums in binary64, term by term; an empty list is all zero. -/
def addAll (a b : List Dy) : List Dy := if a.isEmpty then b else List.zipWith Dy.add64 a b
def addPairs (a b : List (Dy × Dy)) : List (Dy × Dy) :=
  if a.isEmpty then b else List.zipWith (fun x y => (Dy.add64 x.1 y.1, Dy.add64 x.2 y.2)) a b

/-- Is a value below, or above, a binary32 threshold? -/
def belowF32 (x : Dy) (w : Nat) : Bool := match Fl.dec w with | .fin _ v => Dy.lt x v | .inf neg => !neg | .nan => false
def aboveF32 (x : Dy) (w : Nat) : Bool := match Fl.dec w with | .fin _ v => Dy.lt v x | .inf neg => neg | .nan => false

/-- The kurtosis flag of a bin (R148). -/
def skFlag (m lo hi : Nat) (s1 s2 : Dy) : Bool :=
  let md := Dy.ofInt (m : Nat)
  let a := Dy.div64 (Dy.add md (Dy.ofInt 1)) (Dy.sub md (Dy.ofInt 1))
  let b := Dy.div64 (Dy.mul64 md s2) (Dy.mul64 s1 s1)
  let sk := Dy.mul64 a (Dy.add64 b (Dy.ofInt (-1)))
  decide (0 < s1.m) && (belowF32 sk lo || aboveF32 sk hi)

/-- A block of M_SK frames ends: flags join the map; with EXCISE the sums of unflagged bins are added (R148).  Was a bin flagged? -/
def closeBlock (r : RSet) (i : Integ) : Integ × Bool :=
  let fl := List.zipWith (skFlag r.mSk r.skLo r.skHi) i.s1 i.s2
  let i1 := { i with rfi := if i.rfi.isEmpty then fl else List.zipWith (· || ·) i.rfi fl, s1 := [], s2 := [], blk := [], xpBlk := [], inBlk := 0 }
  let pick {α : Type} (add : α → α → α) (old new : List α) : List α := List.zipWith (fun f x => if f then x.1 else add x.1 x.2) fl (old.zip new)
  (if r.excise then
    { i1 with sum := pick Dy.add64 i.sum i.blk, cnt := pick (· + ·) i.cnt (List.replicate fl.length i.inBlk)
              xp := if i.xpBlk.isEmpty then i.xp else
                pick (fun x y => (Dy.add64 x.1 y.1, Dy.add64 x.2 y.2)) (if i.xp.isEmpty then List.replicate fl.length (Dy.zero, Dy.zero) else i.xp) i.xpBlk }
   else i1, fl.any id)

/-- A frame joins the integration; `xp` its cross-power terms and the pair's PSW when cross-power runs. -/
def integAdd (r : RSet) (f : Frame) (pw : List Nat) (xp : Option (List (Dy × Dy) × Nat)) (old : Option Integ) : Integ × Bool :=
  let i := old.getD (Integ.fresh pw.length)
  let ps := pw.map dyOfF32
  let first := i.frames == 0
  let ex := r.skEn && r.excise
  let runXp := first || !(i.xp.isEmpty && i.xpBlk.isEmpty)
  let tx := match xp with | some x => if runXp then x.1 else [] | none => []
  let j := { i with
    frames := i.frames + 1
    psw := if first then f.psw else pswCombine i.psw f.psw
    dtFirst := if first then f.dtFirst else i.dtFirst
    dtLast := f.dtLast
    sum := if ex then i.sum else List.zipWith Dy.add64 i.sum ps
    cnt := if ex then i.cnt else i.cnt.map (· + 1)
    blk := if ex then addAll i.blk ps else []
    s1 := if r.skEn then addAll i.s1 ps else []
    s2 := if r.skEn then addAll i.s2 (ps.map (fun p => Dy.mul64 p p)) else []
    inBlk := if r.skEn then i.inBlk + 1 else 0
    xp := if tx.isEmpty then [] else if ex then i.xp else addPairs i.xp tx
    xpBlk := if tx.isEmpty then [] else if ex then addPairs i.xpBlk tx else []
    xpPsw := match xp with | some x => if first then x.2 else pswCombine i.xpPsw x.2 | none => i.xpPsw }
  if r.skEn && j.inBlk == r.mSk then closeBlock r j else (j, false)

/-- Places of the mid reach's sums, after its frames in the banks that MRH_POOL names (R136, R141): sums, cross-power sums, kurtosis sums, counts.
DESIGN CHOICE (log entry 73). -/
def mrAreas (s : State) (p : Nat) (r : RSet) (a k : Nat) : Nat × Nat × Nat × Nat :=
  let x := a + 8 * k
  let m := x + (if r.xpEn && (xpPartner s p).isSome then 16 * k else 0)
  (a, x, m, m + (if r.skEn then 16 * k else 0))

/-- Where the mid reach's sums begin. -/
def mrBase (r : RSet) (k : Nat) : Nat := poolBase + bits r.pool 10 0 * bankBytes + (18 + 6 * r.ovl) * k

/-- The sums of an open integration as the mid reach reads them back, and whether a poisoned word was among them (R259). -/
def mrMask (p : Nat) (r : RSet) (i : Integ) (s : State) : Integ × Bool :=
  let k := i.sum.length
  let a := mrAreas s p r i.at1 k
  let hit := s.poisoned a.1 (8 * k) || (!i.xp.isEmpty && s.poisoned a.2.1 (16 * k)) || (!i.s1.isEmpty && s.poisoned a.2.2.1 (16 * k)) ||
    (r.excise && s.poisoned a.2.2.2 (4 * k))
  let pair (b : Nat) (l : List Dy) (o : Nat) : List Dy := (l.zip (List.range l.length)).map (fun e => if s.poisoned (b + 16 * e.2 + o) 8 then Dy.zero else e.1)
  if !hit then (i, false)
  else ({ i with
    sum := s.maskDy a.1 8 i.sum
    xp := (pair a.2.1 (i.xp.map Prod.fst) 0).zip (pair a.2.1 (i.xp.map Prod.snd) 8)
    s1 := pair a.2.2.1 i.s1 0
    s2 := pair a.2.2.1 i.s2 8
    cnt := if r.excise then (i.cnt.zip (List.range i.cnt.length)).map (fun e => if s.poisoned (a.2.2.2 + 4 * e.2) 4 then 0 else e.1) else i.cnt
    psw := pswPoisoned true i.psw
    xpPsw := pswPoisoned true i.xpPsw }, true)

/-- The mid reach stores its sums (R141). -/
def mrStore (p : Nat) (r : RSet) (i : Integ) (s : State) : State :=
  let h := hRch 1 p
  let a := mrAreas s p r i.at1 i.sum.length
  let s1 := unitPoolWrite h a.1 (bytes64 i.sum) s
  let s2 := if i.xp.isEmpty then s1 else unitPoolWrite h a.2.1 (bytes64 (i.xp.flatMap (fun x => [x.1, x.2]))) s1
  let s3 := if i.s1.isEmpty then s2 else unitPoolWrite h a.2.2.1 (bytes64 ((i.s1.zip i.s2).flatMap (fun x => [x.1, x.2]))) s2
  if r.excise then unitPoolWrite h a.2.2.2 (i.cnt.flatMap (leBytes 4)) s3 else s3

/-- Deliver an integrated product of a mid reach, with its cross-power product (R143, R147, R148); `f` is its last frame and `sat` tells whether that frame is
counted as saturated already (R127; DESIGN CHOICE, log entry 73: a clamp of the product counts its last frame). -/
def emitInteg (p : Nat) (g : Grid) (f : Frame) (sat : Bool) (i00 : Integ) (s00 : State) : State :=
  let r := g.set 1 p
  let i0 := (mrMask p r i00 s00).1
  let ex := r.skEn && r.excise
  let i := if ex && i0.inBlk != 0 then
      { i0 with sum := List.zipWith Dy.add64 i0.sum i0.blk, cnt := i0.cnt.map (· + i0.inBlk),
                xp := if i0.xpBlk.isEmpty then i0.xp else addPairs i0.xp i0.xpBlk }
    else i0
  let gain := gainOf s00 r
  let mean := List.zipWith (fun v n => f32OfDy (Dy.div64 v (Dy.ofInt (n : Nat)))) i.sum i.cnt
  let dc := mean.map (dbCode r.dbOff)
  let map := if r.skEn then (if i.rfi.isEmpty then List.replicate i.sum.length false else i.rfi) else []
  let rfi := if map.any id then pswRfi else 0
  let top := r.fmt = 2 && dc.any Prod.snd
  let psw := i.psw ||| rfi ||| (if top then pswSat else 0)
  let s := if top && !sat then countSat 1 p s00 else s00
  let bins := if r.fmt = 0 then f.bins.map cxBytes else if r.fmt = 1 then mean.map (leBytes 4) else dc.map (fun c => leBytes 2 (enc 16 c.1))
  let cnts := if ex then i.cnt else []
  let d : Prod := {
    kind := kindByte 1 p g.bond, fmt := r.fmt, bins := bins, rfi := map, cnts := cnts, dtFirst := i.dtFirst, dtLast := i.dtLast,
    psw := psw, exp := if r.fmt = 0 then f.exp else 0, frames := i.frames, normG := if r.fmt = 0 then 0x3F800000 else gainWord gain, xpResid := 0 }
  let s1 := emitProduct r g.dec d s
  let s2 := if i.xp.isEmpty then s1
    else
      let c := List.zipWith (fun (x : Dy × Dy) (n : Nat) =>
        leBytes 4 (crossWord gain n x.1) ++ leBytes 4 (crossWord gain n x.2)) i.xp i.cnt
      emitProduct r g.dec { d with
        kind := kindByte 3 p g.bond, fmt := 3, bins := c, psw := i.xpPsw ||| rfi, exp := 0, normG := gainWord gain,
        xpResid := i.resid } s1
  raise (hRch 1 p) 3 s2

/-- Does the integration end with frame `j` of a grid: F frames, the last frame of an ending grid (R117), or CUT (R149)? -/
def integEnds (r : RSet) (g : Grid) (j frames : Nat) : Bool :=
  frames == r.f || (g.cut.isNone && g.stop == some (j + 1)) || g.cuts.contains (j + 1)

/-- One mid-reach frame completes (R143, R146, R148). -/
def mrFrameDone (p : Nat) (s : State) : State :=
  match takeFrame 1 p s with
  | (none, _) => s
  | (some (g, j), s0) =>
    let r := g.set 1 p
    let n := j * r.hop
    let fr := frameAt 1 p g n s0
    let pd := powerDb s r fr.1
    let f := fr.1
    let s1 := countFrame 1 p fr.2.1 fr.2.2
    let run := xpLock s1 p && g.current s 1 p
    let xr : Option (List (Dy × Dy) × Nat) × Int × State :=
      match xpPartner s1 p with
      | some q =>
        if run then
          let i := (if g.bond then 2 * g.origin else g.origin / wpp g.fmt) + n
          let w := g.origin + g.wordOff n
          let al := xpSet p q i w f.dtFirst s1
          let b := Tbl.get XpAlign.init s1.rch.xpAlign p
          let pg := partnerGrid s1 q ((i : Int) + al.1.1).toNat (if w < b.at_ then b.cut else none)
          let pf := partnerFrame p q pg.1 pg.2 al.2
          (some (xpTerms f pf.1, pswCombine f.psw pf.1.psw), al.1.2, pf.2)
        else (none, 0, s1)
      | none => (none, 0, s1)
    let s2 := xr.2.2
    let old := (s2.reach 1 p).integ.map (fun i => (mrMask p r i s2).1)
    let ia := integAdd r f pd.1 xr.1 old
    let i1 := { ia.1 with
      resid := xr.2.1
      at1 := if old.isNone then mrBase r ia.1.sum.length else ia.1.at1 }
    let s3 := mrStore p r i1 (if ia.2 then raise (hRch 1 p) 4 (s2.bump64 (R.MRH_RFI_BLK p) 1) else s2)
    if integEnds r g j i1.frames then emitInteg p g f fr.2.1 i1 (s3.setReach 1 p { s3.reach 1 p with integ := none })
    else s3.setReach 1 p { s3.reach 1 p with integ := some i1 }

/-! Deep reach (R137 to R142). -/

/-- M1 and M2 exponents for `2^q` working points. -/
def drSplit (q : Nat) : Nat × Nat := ((q + 1) / 2, q - (q + 1) / 2)

/-- Lists of 64 items. -/
def by64 {α : Type} (l : List α) : List (List α) := (List.range (cdiv l.length 64)).map (fun i => (l.drop (64 * i)).take 64)

/-- The twiddle-only stage on a column group whose first column is `c0` (R124, R138). -/
def twiddleStage (fb m c0 : Nat) (b : Blk) : Blk :=
  let a := b.groups.foldl (fun mx z => max mx (blockMax z)) 0
  let s := stageShift fb 1 a
  let out := (b.groups.zip (List.range b.groups.length)).map (fun e =>
    narrowBlock fb (fb + s) ((e.1.zip (List.range e.1.length)).map (fun v => Cx.mul v.1 (twiddle fb m ((c0 + e.2) * v.2)))))
  { groups := out.map Prod.fst, exp := b.exp + s, sat := b.sat || out.any Prod.snd }

/-- Pass A of a frame's working points: T by column and the exponent of each column group. -/
def passA (fb q : Nat) (z : List Cx) (e0 : Int) : List (List Cx) × List Int × Bool :=
  let m1 := 2 ^ (drSplit q).1
  let q2 := (drSplit q).2
  let col (c : Nat) : List Cx := (List.range (2 ^ q2)).map (fun i => z.getD (c + m1 * i) (0, 0))
  let bs := (by64 (List.range m1)).map (fun cs =>
    let b := fftStages fb q2 { groups := cs.map col, exp := e0, sat := false }
    let parts := (List.range cs.length).map (fun i => ((b.groups.drop (i * (b.groups.length / cs.length))).take (b.groups.length / cs.length)).flatten)
    twiddleStage fb (2 ^ q) (cs.headD 0) { b with groups := parts.map (naturalOrder q2) })
  (bs.flatMap Blk.groups, bs.map Blk.exp, bs.any Blk.sat)

/-- Pass B of one row group: the rows `ks` with their exponents aligned to `er`, transformed; row number with its outputs over k1. -/
def passBRows (fb q1 : Nat) (t : List (List Cx)) (es : List Int) (er : Int) (ks : List Nat) : List (Nat × List Cx) × Int × Bool :=
  let row (k : Nat) : List Cx := (t.zip (List.range t.length)).map (fun e =>
    let d := (er - es.getD (e.2 / 64) er).toNat
    let v := e.1.getD k (0, 0)
    (rneShr v.1 d, rneShr v.2 d))
  let b := fftStages fb q1 { groups := ks.map row, exp := er, sat := false }
  let w := b.groups.length / ks.length
  (ks.zip ((List.range ks.length).map (fun i => naturalOrder q1 ((b.groups.drop (i * w)).take w).flatten)), b.exp, b.sat)

/-- Pass B: the power words of the delivered bins in ascending order, and saturation. -/
def passB (fb q : Nat) (cplx : Bool) (gain : Dy) (t : List (List Cx)) (es : List Int) : List Nat × Bool :=
  let q1 := (drSplit q).1
  let m2 := 2 ^ (drSplit q).2
  let m := 2 ^ q
  let er := match es with | [] => 0 | e :: r => r.foldl max e
  let groups := by64 (List.range m2)
  let outs := groups.map (fun ks =>
    let all := if cplx then ks else nubNat (ks ++ ks.map (fun k => (m2 - k) % m2))
    let b := passBRows fb q1 t es er all
    if cplx then
      (b.1.flatMap (fun e => (e.2.zip (List.range e.2.length)).map (fun v => (e.1 + m2 * v.2, powerWord gain (b.2.1 - fb) v.1))), b.2.2)
    else
      let z (i : Nat) : Cx := (Tbl.get [] b.1 (i % m2)).getD (i / m2) (0, 0)
      let kk := ks.flatMap (fun k => (List.range (2 ^ q1)).map (fun k1 => k + m2 * k1))
      let s := stageShift fb 2 (b.1.foldl (fun a e => max a (blockMax e.2)) 0)
      let nb := narrowBlock fb (fb + 1 + s) (kk.map (splitOut fb m z))
      ((kk.zip nb.1).map (fun e => (e.1, powerWord gain (b.2.1 + s - fb) e.2)), b.2.2 || nb.2))
  let tab := outs.flatMap Prod.fst
  let at_ (k : Nat) : Nat := match tab.find? (fun e => e.1 == k) with | some e => e.2 | none => 0
  ((List.range m).map (fun k => at_ (if cplx then (k + m / 2) % m else k)), outs.any Prod.snd)

/-- A word of a history ring as the deep reach reads it back (R137, R230): 0 with POISON in place of a poisoned one (R259). -/
def ringSmp (s : State) (q r : Nat) (x : Smp) : Smp :=
  match Tbl.find (s.cap q).pos (r / blkWords) with
  | some b =>
    if decide (ringLen s q = 0) || decide ((s.cap q).wr ≤ r) then x
    else
      let a := ringBase s q + b * 4096 + r % blkWords * 2
      { x with v := sext 16 (leNat (s.readFixed a 2)), psw := if s.poisoned a 2 then x.psw ||| pswPoison else x.psw }
  | none => x

/-- Base of the deep reach's region (R139). -/
def drBase (s : State) (p : Nat) : Nat := s.wordN (R.DRH_REGION_LO p) + 2 ^ 32 * s.wordN (R.DRH_REGION_HI p)

/-- Delivered bins of a grid's frames. -/
def Grid.bins (k p : Nat) (g : Grid) : Nat := binsOf (g.set k p) (fmtCplx g.fmt && !g.bond)

/-- Bytes of T in tiles of 64 columns by 64 rows, 6 bytes a value (R137, R250). -/
def tBytes (t : List (List Cx)) : List Byte :=
  (by64 t).flatMap (fun cg => (by64 (List.range (cg.headD []).length)).flatMap (fun rg => rg.flatMap (fun k => cg.flatMap (fun c => cxBytes (c.getD k (0, 0))))))

/-- T as pass B reads it back, and whether a poisoned word was in it (R259). -/
def tMask (s : State) (base m : Nat) (t : List (List Cx)) : List (List Cx) × Bool :=
  if !s.poisoned base (6 * m) then (t, false)
  else
    ((t.zip (List.range t.length)).map (fun c => (c.1.zip (List.range c.1.length)).map (fun v =>
      let b := s.maskBytes (base + (c.2 / 64 * cdiv c.1.length 64 + v.2 / 64) * 24576 + v.2 % 64 * 384 + c.2 % 64 * 6) (cxBytes v.1)
      (sext 24 (leNat (b.take 3)), sext 24 (leNat (b.drop 3))))), true)

/-- Level-1 and level-2 places of a set of sums, after the T buffers (R139).  DESIGN CHOICE (log entry 73). -/
def drSums (s : State) (p : Nat) (r : RSet) (k set : Nat) : Nat × Nat :=
  let b := drBase s p + 12 * (1 + r.ovl) * k
  (b + set * 4 * k, b + 8 * k + set * 8 * k)

/-- The level-1 and the level-2 sums of an integration as the deep reach reads them back (R259). -/
def drMask1 (i : Integ) (s : State) : Integ :=
  if !s.poisoned i.at1 (4 * i.lvl1.length) then i else { i with lvl1 := s.maskDy i.at1 4 i.lvl1, psw := pswPoisoned true i.psw }
def drMask2 (i : Integ) (s : State) : Integ :=
  if !s.poisoned i.at2 (8 * i.sum.length) then i else { i with sum := s.maskDy i.at2 8 i.sum, psw := pswPoisoned true i.psw }

/-- Pass A of the deep reach's next frame completes: its points were read from the ring, T is in the region. -/
def drPassADone (p : Nat) (s : State) : State :=
  match takeFrame 2 p s with
  | (none, _) => s
  | (some (g, j), s0) =>
    let r := g.set 2 p
    let n := j * r.hop
    let lost := decide (g.origin + g.wordOff n < (s.cap p).lostTo) || (g.bond && decide (g.origin2 + n / 2 < (s.cap (p + 1)).lostTo))
    let inp := gridInputBy (ringSmp s) s p g n r.span
    let cplx := fmtCplx g.fmt && !g.bond
    let dead := !ringEnough s p r || lost
    let wq := s.window r
    let e0 := inputExp 1 (winMax wq)
    let q := if cplx then r.nlog else r.nlog - 1
    let y := if dead then List.replicate inp.1.length 0 else presum (if cplx then 2 else 1) 1 r.n wq inp.1
    let mm := y.map (fun v => rneScale v ((r.fb : Int) - e0 - 31))
    let cc := mm.map (clampI (-((2 ^ r.fb : Nat) : Int)) (((2 ^ r.fb : Nat) : Int) - 1))
    let a := passA r.fb q (pairUp cc) e0
    let psw := if dead then pswGap else pswMake inp.2.1 inp.2.2
    let x := s0.reach 2 p
    let base := drBase s p + x.tSeq % (2 * (1 + r.ovl)) * 6 * g.bins 2 p
    let fr : DrFrame := {
      num := j, grid := g, t := a.1, base := base, es := a.2.1, psw := psw, dtFirst := gridDt s p g n, dtLast := gridDt s p g (n + r.span - 1),
      sat := a.2.2 || cc != mm, stale := bitAt psw 1 }
    ringFault p ((s0.memWrite base (tBytes a.1)).setReach 2 p { x with passA := x.passA ++ [fr], tSeq := x.tSeq + 1 })

/-- Deliver the integrated product of the deep reach; `sat` as for `emitInteg`. -/
def emitDr (p : Nat) (g : Grid) (sat : Bool) (i0 : Integ) (s : State) : State :=
  let r := g.set 2 p
  let i := drMask2 (drMask1 i0 s) s
  let tot := if i.sum.isEmpty then i.lvl1 else if i.lvl1.isEmpty then i.sum else List.zipWith Dy.add64 i.sum i.lvl1
  let mean := tot.map (fun v => f32OfDy (Dy.div64 v (Dy.ofInt (i.frames : Nat))))
  let dc := mean.map (dbCode r.dbOff)
  let top := r.fmt = 2 && dc.any Prod.snd
  let psw := i.psw ||| (if top then pswSat else 0)
  raise (hRch 2 p) 3 (emitProduct r g.dec {
    kind := kindByte 2 p g.bond, fmt := r.fmt,
    bins := if r.fmt = 2 then dc.map (fun c => leBytes 2 (enc 16 c.1)) else mean.map (leBytes 4), rfi := [], cnts := [], dtFirst := i.dtFirst, dtLast := i.dtLast,
    psw := psw, exp := 0, frames := i.frames, normG := gainWord (gainOf s r), xpResid := 0 } (if top && !sat then countSat 2 p s else s))

/-- The level-1 sums are added into level 2, which is stored (R141). -/
def level2Add (i0 : Integ) (s : State) : Integ × State :=
  let i := drMask2 i0 s
  let t := addAll i.sum i.lvl1
  ({ i with sum := t, lvl1 := [] }, s.memWrite i.at2 (bytes64 t))

/-- The end of a group of 256 frames: level 1 is added into level 2, or, while the last update runs, keeps accumulating (R141, R142). -/
def level2Group (p : Nat) (i : Integ) (s : State) : Integ × State :=
  let x := s.reach 2 p
  if x.late then (i, raise (hRch 2 p) 5 (((s.memWrite i.at1 (bytes32 i.lvl1)).setReach 2 p { x with owed := true }).bump64 (R.DRH_FLUSH_LATE p) 1))
  else level2Add i (s.setReach 2 p { x with late := true })

/-- Pass B of the oldest deep-reach frame completes: its power joins the level-1 sums (R137, R141). -/
def drPassBDone (p : Nat) (s : State) : State :=
  let x := s.reach 2 p
  match x.passA with
  | [] => s
  | fr :: rest =>
    let g := fr.grid
    let r := g.set 2 p
    let cplx := fmtCplx g.fmt && !g.bond
    let q := if cplx then r.nlog else r.nlog - 1
    let t := tMask s fr.base (2 ^ q) fr.t
    let b := passB r.fb q cplx (gainOf s r) t.1 fr.es
    let cur := g.current s 2 p
    let held := match (if cur then x.lastPw else none) with
      | some l => (l.1, (fr.psw ||| (l.2 &&& pswOrMask) ||| pswStale))
      | none => (List.replicate (binsOf r cplx) 0, (fr.psw &&& pswOrMask) ||| pswStale)
    let sat := !fr.stale && (fr.sat || b.2)
    let psw := if fr.stale then held.2 else pswPoisoned t.2 (fr.psw ||| (if sat then pswSat else 0))
    let pw := if fr.stale then held.1 else b.1
    let s1 := countFrame 2 p sat (s.setReach 2 p { x with passA := rest, lastPw := if cur && !fr.stale && !g.calBusy s p then some (pw, psw) else x.lastPw })
    let ps := pw.map dyOfF32
    let at_ := drSums s p r ps.length x.sums
    let i0 := match x.integ with
      | some i => drMask1 i s1
      | none => { Integ.fresh 0 with at1 := at_.1, at2 := at_.2 }
    let first := i0.frames == 0
    let n := i0.frames + 1
    let flush := decide (256 < r.f) && n % 256 == 0 && !(s1.reach 2 p).late
    let i1 := { i0 with
      frames := n
      psw := if first then psw else pswCombine i0.psw psw
      dtFirst := if first then fr.dtFirst else i0.dtFirst
      dtLast := fr.dtLast
      lvl1 := if i0.lvl1.isEmpty then ps else List.zipWith (fun a v => if flush then Dy.add64 a v else (Dy.add a v).r32) i0.lvl1 ps }
    let gp := if 256 < r.f ∧ n % 256 = 0 then level2Group p i1 s1 else (i1, s1.memWrite i1.at1 (bytes32 i1.lvl1))
    if integEnds r g fr.num n then
      emitDr p g sat gp.1 (gp.2.setReach 2 p { gp.2.reach 2 p with integ := none, owed := false, sums := 1 - x.sums })
    else gp.2.setReach 2 p { gp.2.reach 2 p with integ := some gp.1 }

/-- A level-2 update completes; the level-1 sums that waited for it are added next (R142). -/
def level2Done (p : Nat) (s : State) : State :=
  let x := s.reach 2 p
  if !x.late then s
  else match x.integ with
    | some i =>
      if x.owed then
        let a := level2Add (drMask1 i s) s
        a.2.setReach 2 p { x with owed := false, integ := some a.1 }
      else s.setReach 2 p { x with late := false }
    | none => s.setReach 2 p { x with late := false, owed := false }

/-! Commit points (R114 to R118). -/

/-- Banks that the mid reach needs (R136). -/
def mrBanks (s : State) (p : Nat) (r : RSet) : Nat :=
  let k := binsOf r (fmtCplx (s.portSt p).fmt && !s.bonded p)
  cdiv ((18 + 6 * r.ovl) * k + 8 * k + 16 * k * b2n (r.xpEn && (xpPartner s p).isSome) + 16 * k * b2n r.skEn + 4 * k * b2n r.excise) bankBytes

/-- Reservation that the deep reach needs, in 0.1 GB/s (R140). -/
def drNeed (s : State) (p : Nat) (r : RSet) : Nat :=
  if s.bonded p then 6144 * 2 ^ r.ovl else cdiv (3072 * 2 ^ r.ovl) (fmtD (s.portSt p).fmt)

/-- Reservations granted (R254), with DRH_RSV of port `p` taken as `v`. -/
def reserved (s : State) (p v : Nat) : Nat :=
  (List.range 4).foldl (fun a q => a + s.wordN (R.RSV_RES_RING q) + (if q = p then v else s.wordN (R.DRH_RSV q))) 0 +
  s.wordN R.RSV_RES_STREAM + s.wordN R.RSV_RES_BWATER + s.wordN R.RSV_RES_MIG

/-- The committed Reservoir bandwidth, 0.1 GB/s (R10, R269, R282). -/
def committed (s : State) : Nat := s.wordN R.RSV_COMMITTED

/-- WPARAM within its range for Gaussian and Kaiser windows (R120). -/
def wparamLegal (win w : Nat) : Bool :=
  if win = 4 then f32Finite w && !Dy.lt (dyOfF32 w) (dyOfF32 0x3D4CCCCD) && !Dy.lt (dyOfF32 0x3F000000) (dyOfF32 w)
  else if win = 5 then f32Finite w && !Dy.lt (dyOfF32 w) Dy.zero && !Dy.lt (Dy.ofInt 40) (dyOfF32 w)
  else true

/-- Is Eddy buffer `n` free for the unit (R277)? -/
def eddyFree (s : State) (h n : Nat) : Bool := s.wordN (R.EDDY_PROD n) == 0 || s.wordN (R.EDDY_PROD n) == ownerId h

/-- Do a reach's settings pass R118? -/
def reachLegal (s : State) (k p : Nat) : Bool :=
  let r := s.rset k p
  let fmt := (s.portSt p).fmt
  let bond := s.bonded p
  let d := fmtD fmt
  let common := r.win != 7 && r.norm != 3 && wparamLegal r.win r.wparam && r.fmt != 3 && r.eddy % 2 == 0 && decide (r.eddy ≤ 62) &&
    eddyFree s (hRch k p) r.eddy && eddyFree s (hRch k p) (r.eddy + 1)
  !r.en || (common &&
    (if k = 0 then
      decide (8 ≤ r.nlog) && decide (r.nlog ≤ 15) && decide (r.ovl ≤ 4) &&
      decide (2 ^ r.ovl ≤ if bond then 4 else 4 * d) && decide (16 ≤ hopTicks s p r)
    else if k = 1 then
      decide (15 ≤ r.nlog) && decide (r.nlog ≤ 19) && decide (r.ovl ≤ 1) && r.taps == 1 && decide (r.f ≤ 65536) &&
      (r.fmt != 0 || r.f == 1) &&
      (!r.skEn || (decide (4 ≤ bits r.astro 11 8) && decide (bits r.astro 11 8 ≤ 14) && r.f % r.mSk == 0)) &&
      decide (mrBanks s p r ≤ bits r.pool 26 16) && s.namesBanks (hRch 1 p) (bits r.pool 10 0) (bits r.pool 26 16)
    else
      decide (20 ≤ r.nlog) && decide (r.nlog ≤ 27) && decide (r.ovl ≤ 1) && r.taps == 1 && r.fmt != 0 &&
      (ringsOf s p).all (fun q => decide (2 * r.n + 2 ^ 20 ≤ blockPoints s q (minLive s q))) &&
      decide ((36 + 12 * r.ovl) * binsOf r (fmtCplx fmt && !bond) ≤ s.wordN (R.DRH_REGION_SIZE p) * 2 ^ 20) &&
      decide (drNeed s p r ≤ ((ringsOf s p).map (fun q => s.wordN (R.DRH_RSV q))).sum)))

/-- EDDY_PROD follows the pair that a reach names (R132, R277). -/
def nameEddy (k p : Nat) (s : State) : State :=
  let r := s.rset k p
  let id := ownerId (hRch k p)
  (List.range 64).foldl (fun s n =>
    let mine := r.en && (n == r.eddy || n == r.eddy + 1)
    if mine then s.setWord (R.EDDY_PROD n) id else if s.wordN (R.EDDY_PROD n) == id then s.setWord (R.EDDY_PROD n) 0 else s) s

/-- LAT of R135. -/
def reachLat (s : State) (k p : Nat) : Nat :=
  let r := s.rset k p
  let cplx := fmtCplx (s.portSt p).fmt && !s.bonded p
  let q := if cplx then r.nlog else r.nlog - 1
  let m := 2 ^ q
  let st := q / 2 + q % 2 + (if cplx then 0 else 1)
  if !r.en then 0
  else if k = 0 then (st + 1) * m / (if s.bonded p then 64 else 32) + 56
  else if k = 1 then (cdiv q 4 + (if cplx then 0 else 1) + 1) * m / 128 + 1024
  else 2 * (r.span * pointUnits (s.portSt p).fmt / 40960 / (if s.bonded p then 2 else 1)) + 160000

/-- What a reach shows of its settings in force: WSUM and WSQ (R122). -/
def showSettings (k p : Nat) (s : State) : State :=
  let wq := s.window (s.rset k p)
  (s.setWord (R.XRH_WSUM k p) (f32OfDy (winSum wq))).setWord (R.XRH_WSQ k p) (f32OfDy (winSq wq))

/-- End the open integration now with the frames it holds (R117). -/
def endInteg (k p : Nat) (g : Option Grid) (s : State) : State :=
  let x := s.reach k p
  match x.integ, g with
  | some i, some g =>
    let s1 := s.setReach k p { x with integ := none, owed := false, sums := 1 - x.sums }
    if k = 1 then emitInteg p g (x.last.getD { bins := [], exp := 0, psw := 0, dtFirst := 0, dtLast := 0 }) false i s1 else emitDr p g false i s1
  | _, _ => s

/-- The open integration is to end with the last of the frames that wait for pass B (R117, R149). -/
def cutPassA (l : List DrFrame) : List DrFrame :=
  match l.getLast? with
  | some f => l.dropLast ++ [{ f with grid := { f.grid with cuts := (f.num + 1) :: f.grid.cuts } }]
  | none => l

/-- A product of the same kind and settings is to be held from here on: none is known yet (R18, R144). -/
def Reach.forget (x : Reach) : Reach := { x with last := none, lastPw := none, lastXp := none }

/-- The reach's commit point (R117, R118). -/
def reachCommit (k p : Nat) (s : State) : State :=
  match s.snapOf (hRch k p) with
  | none => s
  | some ws =>
    let new := overlay s ws
    if !reachLegal new k p then rejectSnap (hRch k p) 1 0 s
    else
      let x := s.reach k p
      let old := s.rset k p
      -- the running grid ends after the frames that have begun
      let live := if old.en && !s.slave p then x.grids.getLast?.filter (fun g => g.stop.isNone) else none
      let n := match live with | some g => g.begun s k p | none => 0
      let origin := match live with | some g => g.origin + g.wordOff (n * (g.set k p).hop) | none => s.released p
      let gs := match live with
        | some g => x.grids.dropLast ++ (if g.next < n then [{ g with stop := some n }] else [])
        | none => x.grids
      let flying : Bool := match live with | some g => decide (g.next < n) | none => false
      let inFlight := flying || !x.passA.isEmpty
      let s0 := s.setReach k p { x with grids := gs, passA := if flying then x.passA else cutPassA x.passA }
      let s1 := if inFlight then s0 else endInteg k p live s0
      let s2 := dropSnap (hRch k p) (overlay s1 ws)
      let r := s2.rset k p
      let y := s2.reach k p
      let g := { newGrid s2 k p origin false with origin2 := (match live with | some g => g.origin2 + (origin - g.origin) | none => s2.released (p + 1)) }
      let s3 := s2.setReach k p { y.forget with
        grids := if r.en && !s2.slave p then y.grids ++ [g] else y.grids
        alt := if r.eddy = old.eddy then y.alt else Tbl.set y.alt r.eddy false }
      let s4 := showSettings k p (nameEddy k p s3)
      let s5 :=
        if k = 1 then
          [0, 2].foldl (fun s a => if xpPartner s a == some p then s.setReach 1 a { s.reach 1 a with lastXp := none } else s)
            (poolClaim (hRch 1 p) (bits r.pool 10 0) (if r.en then bits r.pool 26 16 else 0) s4)
        else if k = 2 then ringFault p s4
        else s4
      let s6 := clearFault (hRch k p) 0 s5
      if k = 0 then maskFault p <| siltSrCommit p origin (old.nlog != r.nlog || old.ovl != r.ovl || old.win != r.win) s6 else s6

/-- A port fixes a new epoch whose first word is the next one (R116): frames begun are completed at once, new grids begin but on the odd port of a
bond, whose reaches produce nothing from then on (R145). -/
def reachEpoch (p : Nat) (s : State) : State :=
  let s1 := (List.range 3).foldl (fun s k =>
    let x := s.reach k p
    let w := s.released p
    let cutG (g : Grid) : Grid :=
      if g.cut.isSome then g else { g with cut := some w, cut2 := some (s.released (p + 1)), stop := some (g.stop.getD (g.begun s k p)) }
    let gs := (x.grids.map cutG).filter (fun g => match g.stop with | some n => decide (g.next < n) | none => true)
    s.setReach k p { x with grids := if (s.rset k p).en && !s.slave p then gs ++ [newGrid s k p w true] else gs }) s
  xpEpoch p (ringFault p s1)

/-! Commands (R149) and the user windows (R121). -/

/-- XRH_STATUS (R151). -/
def reachStatus (s : State) (k p : Nat) : Nat :=
  let r := s.rset k p
  let x := s.reach k p
  b2n (r.en && !s.slave p && !x.grids.isEmpty) + 2 * b2n (s.slave p) + 4 * b2n (k == 1 && xpLock s p) + 8 * b2n x.integ.isSome +
  256 * r.nlog + 8192 * r.ovl

/-- Frames in the open integration. -/
def framesOpen (s : State) (k p : Nat) : Nat := match (s.reach k p).integ with | some i => i.frames | none => 0

/-- STATE on a slave or a disabled reach. -/
def reachIdle (s : State) (k p : Nat) : Bool := s.slave p || !(s.rset k p).en

def srSnapCmd (p : Nat) (s : State) : Code × State :=
  if reachIdle s 0 p then (.state, s) else (.ok, s.setReach 0 p { s.reach 0 p with snap := (s.reach 0 p).snap ++ [s.released p] })

/-- The grids with a cut after the last frame that has begun and is still to complete, if there is one (R149). -/
def lastFlying (s : State) (k p : Nat) : List Grid → Option (List Grid)
  | [] => none
  | g :: t =>
    match lastFlying s k p t with
    | some l => some (g :: l)
    | none =>
      let n := g.stop.getD (g.begun s k p)
      if g.next < n then some ({ g with cuts := n :: g.cuts } :: t) else none

def cutCmd (k p : Nat) (s : State) : Code × State :=
  if reachIdle s k p || (s.rset k p).f == 1 then (.state, s)
  else
    let x := s.reach k p
    match lastFlying s k p x.grids with
    | some gs => (.ok, s.setReach k p { x with grids := gs })
    | none =>
      if x.passA.isEmpty then (.ok, endInteg k p x.grids.getLast? s) else (.ok, s.setReach k p { x with passA := cutPassA x.passA })

def reserveCmd (p : Nat) (s : State) : Code × State :=
  if reachIdle s 2 p then (.state, s)
  else
    let v := s.wordN (R.DRH_CMD_ARG p)
    let mate := if s.bonded p then s.wordN (R.DRH_RSV (p + 1)) else 0
    if v + mate < drNeed s p (s.rset 2 p) then (.range, s)
    else if committed s < reserved s p v then (.budget, s)
    else (.ok, (s.setWord (R.DRH_RSV p) v).setWord (R.RSV_RES_DR p) v)

/-- Which reaches of the port select a user bank (R121)? -/
def bankUsers (s : State) (p b : Nat) : List Nat :=
  (List.range 3).filter (fun k => (s.rset k p).en && (s.rset k p).win == 6 && (s.rset k p).ubank == b)

/-- A write of a user coefficient: stored, or discarded with TAB_ERR while the bank is in use (R121). -/
def utabWrite (p b j val be : Nat) (s : State) : State :=
  let us := bankUsers s p b
  if us.isEmpty then
    let k := (2 * p + b) * 32768 + j
    let old := enc 32 (sext 18 (Tbl.get 0 s.rch.utab k))
    let v := (List.range 4).foldl (fun w i => if bitAt be i then putBits w (8 * i + 7) (8 * i) (bits val (8 * i + 7) (8 * i)) else w) old
    { s with rch := { s.rch with utab := Tbl.set s.rch.utab k (v % 2 ^ 18) } }
  else us.foldl (fun s k => raise (hRch k p) 6 s) s

/-! Meanings of the commands of spec/05. -/

/-- SR_FRAME_DONE (R131). -/
def execSrFrameDone (p : Fin 4) (s : State) : Host.Outcome State Fault Refusal := .next (analysis (srFrameDone p) s)

/-- MR_FRAME_DONE (R143). -/
def execMrFrameDone (p : Fin 4) (s : State) : Host.Outcome State Fault Refusal := .next (analysis (mrFrameDone p) s)

/-- DR_PASS_A_DONE (R137). -/
def execDrPassADone (p : Fin 4) (s : State) : Host.Outcome State Fault Refusal := .next (analysis (drPassADone p) s)

/-- DR_PASS_B_DONE (R137). -/
def execDrPassBDone (p : Fin 4) (s : State) : Host.Outcome State Fault Refusal := .next (analysis (drPassBDone p) s)

/-- LEVEL2_UPDATE_DONE (R142). -/
def execLevel2UpdateDone (p : Fin 4) (s : State) : Host.Outcome State Fault Refusal := .next (analysis (level2Done p) s)

/-- SEGMENT_DONE (R132, R134). -/
def execSegmentDone (k : Fin 3) (p : Fin 4) (s : State) : Host.Outcome State Fault Refusal := .next (analysis (storeSegment k p) s)

/-- REACH_COMMIT (R117, R118). -/
def execReachCommit (k : Fin 3) (p : Fin 4) (s : State) : Host.Outcome State Fault Refusal := .next (reachCommit k p s)

/-- SR_SNAP (R149). -/
def execSrSnap (p : Fin 4) (s : State) : Host.Outcome State Fault Refusal := .next (runCmd (hRch 0 p) 1 (srSnapCmd p) s)

/-- CUT (R149): the mid or deep reach; code 1 of the short reach is SNAP. -/
def execCut (k : Fin 3) (p : Fin 4) (s : State) : Host.Outcome State Fault Refusal :=
  .next (runCmd (hRch k p) 1 (if (k : Nat) = 0 then srSnapCmd p else cutCmd k p) s)

/-- RESERVE (R140, R149). -/
def execReserve (p : Fin 4) (s : State) : Host.Outcome State Fault Refusal := .next (runCmd (hRch 2 p) 2 (reserveCmd p) s)

/-- UTAB_WRITE (R121). -/
def execUtabWrite (p : Fin 4) (b : Fin 2) (j : Fin 32768) (val : Word) (be : BitVec 4) (s : State) : Host.Outcome State Fault Refusal :=
  .next (utabWrite p b j val.toNat be.toNat s)

end Sys2Proof.Machine
end

