-- ==== Sys2Proof/Machine/Rs.lean ====
section
/-! DEFINITION. The RS(544,514) code of R80, the descrambler of R79 and the blocks of a codeword (R78). -/

namespace Sys2Proof.Machine

/-- Multiply by α in GF(2^10) with x^10 + x^3 + 1. -/
def gfX (a : Nat) : Nat := if 512 ≤ a then (2 * a) ^^^ 0x409 else 2 * a

/-- Product in GF(2^10). -/
def gfMul (a b : Nat) : Nat :=
  ((List.range 10).foldl (fun (st : Nat × Nat) i => (if bitAt b i then st.1 ^^^ st.2 else st.1, gfX st.2)) (0, a)).1

/-- α^n. -/
def gfExp (n : Nat) : Nat := iter gfX (n % 1023) 1

/-- Inverse: the power 1,022. -/
def gfInv (a : Nat) : Nat :=
  ((List.range 9).foldl (fun (st : Nat × Nat) _ => let q := gfMul st.2 st.2; (gfMul st.1 q, q)) (1, a)).1

/-- Value of a polynomial, lowest coefficient first. -/
def gfEval (p : List Nat) (x : Nat) : Nat := p.foldr (fun c acc => gfMul acc x ^^^ c) 0

/-- Sum of two polynomials. -/
def gfAdd : List Nat → List Nat → List Nat
  | [], b => b
  | a, [] => a
  | x :: a, y :: b => (x ^^^ y) :: gfAdd a b

/-- Product with a constant and a power of x. -/
def gfScale (c m : Nat) (p : List Nat) : List Nat := List.replicate m 0 ++ p.map (gfMul c)

/-- Syndrome j: the received polynomial, highest order first, at α^j. -/
def syndrome (c : List Nat) (j : Nat) : Nat :=
  let x := gfExp j
  c.foldl (fun acc v => gfMul acc x ^^^ v) 0

/-- State of the search for the error locator. -/
structure Bm where
  c : List Nat
  b : List Nat
  len : Nat
  m : Nat
  d : Nat
  deriving DecidableEq, Repr

/-- One step of the search with syndrome n. -/
def bmStep (syn : List Nat) (st : Bm) (n : Nat) : Bm :=
  let d := (List.range (st.len + 1)).foldl (fun acc i => acc ^^^ gfMul ((st.c[i]?).getD 0) (if i ≤ n then (syn[n - i]?).getD 0 else 0)) 0
  if d = 0 then { st with m := st.m + 1 }
  else
    let c' := gfAdd st.c (gfScale (gfMul d (gfInv st.d)) st.m st.b)
    if 2 * st.len ≤ n then { c := c', b := st.c, len := n + 1 - st.len, m := 1, d := d }
    else { st with c := c', m := st.m + 1 }

/-- Correct a codeword of 544 symbols: the symbols and how many were wrong, or none when it is uncorrectable (more than
15 wrong symbols, R80). -/
def rsCorrect (c : List Nat) : Option (List Nat × Nat) :=
  if c.length ≠ 544 then none
  else
    let syn := (List.range 30).map (syndrome c)
    if syn.all (· == 0) then some (c, 0)
    else
      let st := (List.range 30).foldl (bmStep syn) { c := [1], b := [1], len := 0, m := 1, d := 1 }
      if 15 < st.len then none
      else
        let lam := st.c.take (st.len + 1)
        let locs := (List.range 544).filter (fun e => gfEval lam (gfExp (1023 - e % 1023)) == 0)
        if locs.length ≠ st.len then none
        else
          let om := (List.range 30).map (fun i => (List.range (i + 1)).foldl (fun a j => a ^^^ gfMul ((lam[j]?).getD 0) ((syn[i - j]?).getD 0)) 0)
          let dl := (List.range st.len).map (fun i => if i % 2 = 0 then (lam[i + 1]?).getD 0 else 0)
          let fixAt (c : List Nat) (e : Nat) : List Nat :=
            let xi := gfExp (1023 - e % 1023)
            let v := gfMul (gfExp e) (gfMul (gfEval om xi) (gfInv (gfEval dl xi)))
            c.set (543 - e) ((c.getD (543 - e) 0) ^^^ v)
          some (locs.foldl fixAt c, st.len)

/-- The pair of bits that a PAM4 level stands for, the first in time first (R76). -/
def pam4Bits : Level → List Nat
  | .m3 => [0, 0]
  | .m1 => [0, 1]
  | .p1 => [1, 1]
  | .p3 => [1, 0]

/-- The bit of an NRZ symbol: 1 for the positive level.  PRESUMED: the spec does not name the polarity (log entry 72). -/
def nrzBit : Level → Nat
  | .m3 | .m1 => 0
  | .p1 | .p3 => 1

/-- Ten bits to a symbol, the first one sent least significant (R80). -/
def tenBits : Nat → List Nat → List Nat
  | 0, _ => []
  | n + 1, bs => (bs.take 10).foldr (fun b acc => b + 2 * acc) 0 :: tenBits n (bs.drop 10)

/-- The symbols of a codeword from the levels on the lane: PAM4 at RATE 0, else NRZ (R75, R76). -/
def lineSymbols (rate : Nat) (levels : List Level) : List Nat :=
  let bs := if rate = 0 then levels.flatMap pam4Bits else levels.map nrzBit
  tenBits (bs.length / 10) bs

/-- The message bits of a codeword as a number: message symbol s in bits 10 s + 9 to 10 s (R80). -/
def rsMessage (c : List Nat) : Nat := (c.take 514).foldr (fun v acc => v % 1024 + 1024 * acc) 0

/-- Block b of a message: its header bit and its 256 payload bits (R78). -/
def rsBlock (msg b : Nat) : Nat × Nat := (bits msg (257 * b) (257 * b), bits msg (257 * b + 256) (257 * b + 1))

/-- Descramble a payload (R79): its bits, and the last 58 received payload bits, the latest in bit 0. -/
def descramble (scr payload : Nat) : Nat × Nat :=
  (List.range 256).foldl (fun (st : Nat × Nat) i =>
    let r := payload / 2 ^ i % 2
    let d := r ^^^ (st.2 / 2 ^ 38 % 2) ^^^ (st.2 / 2 ^ 57 % 2)
    (st.1 + d * 2 ^ i, (st.2 * 2 + r) % 2 ^ 58)) (0, scr)

end Sys2Proof.Machine
end

