-- ==== Sys2Proof/Machine/Ingress.lean ====
section
/-! DEFINITION. Ingress ports and the Taborn link (spec/04_ingress_lanes.md): lanes, codewords, epochs, release of words, bonding,
JESD204C and calibration. -/

namespace Sys2Proof.Machine

/-! Lanes. -/

def State.lane (s : State) (p l : Nat) : LaneSt := Tbl.get LaneSt.init s.ing.lane (9 * p + l)
def State.setLane (s : State) (p l : Nat) (x : LaneSt) : State := { s with ing := { s.ing with lane := Tbl.set s.ing.lane (9 * p + l) x } }

/-- Lane states (R111). -/
def lnOff : Nat := 0
def lnDetect : Nat := 1
def lnLock : Nat := 2
def lnTrain : Nat := 3
def lnReady : Nat := 4
def lnActive : Nat := 5
def lnRetrain : Nat := 6
def lnFailed : Nat := 7
def lnIdle : Nat := 8

def State.lnSt (s : State) (p l : Nat) : Nat := s.fld (R.ING_LANE_STATUS_STATE p l)
def State.lnLogical (s : State) (p l : Nat) : Nat := s.fld (R.ING_LANE_STATUS_LOGICAL p l)

/-- Port states (R91). -/
def psDown : Nat := 0
def psAssemble : Nat := 1
def psRun : Nat := 2
def psSpared : Nat := 3
def psDead : Nat := 4
def psIdle : Nat := 5

def State.portState (s : State) (p : Nat) : Nat := s.fld (R.ING_PORT_STATUS_STATE p)

/-- Is the port in RUN or SPARED? -/
def State.portRuns (s : State) (p : Nat) : Bool := s.portState p == psRun || s.portState p == psSpared

/-- Does the port run JESD204C? -/
def State.jesd (s : State) (p : Nat) : Bool := bitAt (s.portSt p).link 1

/-- ING_LANE_MAP: the physical lane of a logical lane; JESD204C uses L0 to L7 as they are (R103). -/
def State.laneOf (s : State) (p k : Nat) : Nat := if s.jesd p then k else bits (s.wordN (R.ING_LANE_MAP p)) (4 * k + 3) (4 * k)

/-- Change an entry of ING_LANE_MAP, and journal the map (R96). -/
def setMap (p k l : Nat) (s : State) : State :=
  let w := putBits (s.wordN (R.ING_LANE_MAP p)) (4 * k + 3) (4 * k) l
  if w = s.wordN (R.ING_LANE_MAP p) then s else journal 7 p [(w : Int)] (s.setWord (R.ING_LANE_MAP p) w)

/-- The CRC-8 of a back-channel message (R86): x^8 + x^2 + x + 1 from 0x00, message bit 0 first. -/
def bcCrc (msg : Nat) : Nat :=
  (List.range 32).foldl (fun crc i =>
    let fb := (crc / 128 % 2) ^^^ (msg / 2 ^ i % 2)
    if fb = 1 then (2 * crc % 256) ^^^ 7 else 2 * crc % 256) 0

/-- A back-channel frame of 48 bits, bit 0 sent first (R86): header 0x5A, the message, its CRC-8. -/
def bcFrame (msg : Nat) : Nat := 0x5A + 256 * msg + 2 ^ 40 * bcCrc msg

/-- Back-channel messages (R86, R87): CODE, physical lane, logical lane, preset. -/
def bcSend (p code phys logical preset : Nat) (s : State) : State :=
  s.emit (.backChannel p (bcFrame (code + 256 * phys + 4096 * logical + 65536 * preset)))

/-- Latency of a link configuration (R98). -/
def latOf (fmt : Nat) : Nat :=
  if bitAt fmt 1 then 384 else if bits fmt 3 2 = 0 then 448 else if bits fmt 3 2 = 1 then 704 else 1216

/-- A lane changes state: its status bits (R111), the end of DEG (R89) and the events of R110. -/
def laneTo (p l st : Nat) (s : State) : State :=
  let old := s.lnSt p l
  let s1 := s.setFld (R.ING_LANE_STATUS_STATE p l) st
  let s2 := if st = lnReady ∨ st = lnActive then s1 else s1.setFlag (R.ING_LANE_STATUS_DEG p l) false
  let s3 := if st = lnOff ∨ st = lnIdle then
              ((s2.setFlag (R.ING_LANE_STATUS_LOS p l) true).setFlag (R.ING_LANE_STATUS_LOL p l) true).setFlag (R.ING_LANE_STATUS_AM_LOCK p l) false
            else if st = lnDetect ∨ st = lnRetrain then (s2.setFlag (R.ING_LANE_STATUS_LOL p l) true).setFlag (R.ING_LANE_STATUS_AM_LOCK p l) false
            else if st = lnLock ∨ st = lnFailed then s2.setFlag (R.ING_LANE_STATUS_AM_LOCK p l) false
            else s2
  let s4 := if old = lnActive ∧ st ≠ lnActive then raise (hIng p) 0 s3 else s3
  if st = lnReady ∧ old ≠ lnReady then raise (hIng p) 1 s4 else s4

/-- A lane starts over on AM lock: no alignment codeword seen, no sweep, no ACK awaited. -/
def LaneSt.unlocked (x : LaneSt) : LaneSt := { x with amGood := 0, amMiss := 0, since := 0, sweep := [], best := none, waitAck := false }

/-- DETECT: TRAIN is sent on a Taborn lane, which brings preset P0 (R87, R88). -/
def toDetect (p l : Nat) (s : State) : State :=
  let s1 := (laneTo p l lnDetect s).setLane p l { (s.lane p l).unlocked with waking := false }
  if s1.jesd p then s1 else bcSend p 1 l 0 0 (s1.setFld (R.ING_LANE_STATUS_PRESET p l) 0)

/-! The state of the port (R91). -/

/-- Are all eight logical lanes ACTIVE? -/
def State.allActive (s : State) (p : Nat) : Bool := (List.range 8).all (fun k => s.lnSt p (s.laneOf p k) == lnActive)

/-- The port state that the lanes, the epoch and the commands call for. -/
def portTarget (s : State) (p : Nat) : Nat :=
  let x := s.portSt p
  if x.idle && x.ext then psIdle
  else if !s.flag (R.ING_PORT_CFG_EN p) || x.cfgBad then psDown
  else if x.idle then psIdle
  else if !x.gone.isEmpty then psDead
  else if !s.allActive p || !s.flag (R.ING_PORT_STATUS_EPOCH_VALID p) || x.asm || !x.moved.isEmpty then psAssemble
  else if (List.range 8).any (fun k => s.laneOf p k == 8 || s.flag (R.ING_LANE_STATUS_DEG p (s.laneOf p k))) then psSpared
  else psRun

/-- Place of the word now at the pins in the release schedule, in words of 16 samples. -/
def pinPos (x : PortSt) : Nat := x.relF * 8192 + x.relR + latOf x.fmt / fmtD x.fmt

/-- Length of a frame in SCLK ticks as a fraction: 2^17 words, or with JESD204C the 256 octets of each lane of an extended multiblock. -/
def frameTicks (f : Nat) : Nat × Nat :=
  if bitAt f 1 then (1024 * fmtD f, if bits f 10 8 = 0 then 8 else if bits f 10 8 ≤ 2 then 12 else 16) else (8192 * fmtD f, 1)

/-- Place of the first word of the next frame that begins at the pins (R91); with JESD204C, of the next extended multiblock. -/
def nextFrame (s : State) (p : Nat) : Nat :=
  let x := s.portSt p
  if s.jesd p then
    let n := (frameTicks x.fmt).2
    x.epFc * 8192 + cdiv (((pinPos x - x.epFc * 8192) * n / 1024 + 1) * 1024) n
  else (pinPos x / 8192 + 1) * 8192

/-- Start the calibration of a port (R105, R106). -/
def calStart (p : Nat) (s : State) : State :=
  (s.setFlag (R.ING_PORT_STATUS_CAL_BUSY p) true).setPort p { s.portSt p with calDue := false, calAt := s.tick }

/-- The end of a calibration of the port, done or failed (R106). -/
def calStop (p : Nat) (s : State) : State :=
  (s.setFlag (R.ING_PORT_STATUS_CAL_BUSY p) false).setPort p { s.portSt p with cals := ((s.portSt p).calAt, s.tick) :: (s.portSt p).cals }

/-- Deferred calibrations run one at a time, lowest port first, on ports in RUN or SPARED (R105). -/
def calKick (s : State) : State :=
  if (List.range 4).any (fun p => s.flag (R.ING_PORT_STATUS_CAL_BUSY p)) then s
  else match (List.range 4).find? (fun p => (s.portSt p).calDue && s.portRuns p) with
    | some p => calStart p s
    | none => s

/-- A lane goes to electrical idle (R92); the place of its codeword count is kept. -/
def idleLane (p l : Nat) (s : State) : State :=
  (laneTo p l lnIdle s).setLane p l
    { s.lane p l with prev := s.lnSt p l, idleAt := s.tclk, waking := false, sweep := [], best := none, waitAck := false }

/-- Bring the port to the state that its lanes and epoch call for: STATE, DEG, events and LANE_DEAD (R91, R95, R110), the first frame
delivered (R91), the calibration of R440.  A port that leaves RUN and SPARED with an epoch must judge whether it may keep it, and its gap carries COAST
until it has (R99).  LANE_DEAD clears on the return to SPARED or RUN (R95). -/
def portUpdate (p : Nat) (s : State) : State :=
  let old := s.portState p
  let new := portTarget s p
  let runs := new == psRun || new == psSpared
  let ran := old == psRun || old == psSpared
  let s1 := (s.setFld (R.ING_PORT_STATUS_STATE p) new).setFlag (R.ING_PORT_STATUS_DEG p) (new == psSpared)
  let x := s1.portSt p
  let doubt := ran && !runs && s1.flag (R.ING_PORT_STATUS_EPOCH_VALID p)
  let s2 := s1.setPort p
    { x with deliver := if runs then some (x.deliver.getD (nextFrame s1 p)) else none
             recheck := x.recheck || doubt
             gapCoast := x.gapCoast || doubt
             calDue := x.calDue || (runs && x.calFirst)
             calFirst := x.calFirst && !runs }
  let s3 := if runs && !ran then raise (hIng p) 11 s2 else s2
  let s4 := if new = psDead ∧ old ≠ psDead then setFault (hIng p) 0 (raise (hIng p) 3 s3)
            else if runs then clearFault (hIng p) 0 s3 else s3
  calKick s4

/-- A calibration of the port ends as failed (R107). -/
def calFail (p : Nat) (s : State) : State :=
  if s.flag (R.ING_PORT_STATUS_CAL_BUSY p) then calKick (raise (hIng p) 8 (calStop p s)) else s

/-! Assignment of logical lanes (R88, R94 to R96). -/

/-- Give logical lane `k` to lane `l` by RUN, or by SPARE on L8 (R87): a READY lane is ACTIVE, an idled spare is woken first. -/
def giveLane (p k l : Nat) (spare : Bool) (s : State) : State :=
  let idl := s.lnSt p l == lnIdle
  let s1 := if idl then (bcSend p 6 l 0 0 s).setLane p l { s.lane p l with prev := lnActive, waking := true } else s
  let s2 := bcSend p (if spare then 4 else 3) l k 0 s1
  let s3 := setMap p k l (s2.setFld (R.ING_LANE_STATUS_LOGICAL p l) k)
  if idl then s3 else laneTo p l lnActive s3

/-- Lanes that may serve as a spare: READY, or IDLE as a spare, and carrying no logical lane. -/
def spares (s : State) (p : Nat) : List Nat :=
  (List.range 9).filter (fun l => s.lnLogical p l == 15 &&
    (s.lnSt p l == lnReady || (s.lnSt p l == lnIdle && (s.lane p l).prev == lnReady)))

/-- Move logical lane `k`, whose lane has failed, to a spare: L8 first, else the lowest other one; with none left it has no working lane (R94, R95). -/
def substitute (p k : Nat) (s : State) : State :=
  let sp := if (s.portSt p).idle then [] else spares s p
  let x := s.portSt p
  match sp with
  | [] => s.setPort p { x with gone := if x.gone.contains k then x.gone else x.gone ++ [k], moved := x.moved.filter (· != k) }
  | l :: _ =>
    let t := if sp.contains 8 then 8 else l
    giveLane p k t (t == 8) (s.setPort p { x with moved := if x.moved.contains k then x.moved else x.moved ++ [k] })

/-- FAILED: the count of failures and the back-off, the log entry, TRAIN_FAIL (R90, R110), and the substitution of the lane it carried (R94). -/
def laneFail (p l : Nat) (s : State) : State :=
  let x := s.lane p l
  let b := min x.fails 15
  let k := s.lnLogical p l
  let s1 := ((laneTo p l lnFailed s).setLane p l { x.unlocked with fails := x.fails + 1 }).setFld (R.ING_LANE_STATUS_BACKOFF p l) b
  let s2 := raise (hIng p) 4 (addLog (hIng p) 5 2 1 (p * 16 + l) b s1)
  let s3 := if k = 15 then s2 else substitute p k (s2.setFld (R.ING_LANE_STATUS_LOGICAL p l) 15)
  portUpdate p s3

/-- READY (R88, R90): the lane takes its logical lane again, or the lowest one without a working lane (R95), or is a spare (R96), kept idle with SPARE_IDLE (R94). -/
def laneReady (p l : Nat) (s : State) : State :=
  let s1 := ((laneTo p l lnReady s).setLane p l { s.lane p l with fails := 0, unc := [], waitAck := false, sweep := [] }).setFld (R.ING_LANE_STATUS_BACKOFF p l) 0
  let k := s1.lnLogical p l
  let x := s1.portSt p
  let s2 :=
    if k ≠ 15 then giveLane p k l false s1
    else match (List.range 8).find? (fun k => x.gone.contains k) with
      | some k => giveLane p k l false (s1.setPort p { x with gone := x.gone.filter (· != k) })
      | none =>
        if s1.flag (R.ING_PORT_CFG_SPARE_IDLE p) then bcSend p 5 l 0 0 (idleLane p l s1) else s1
  portUpdate p s2

/-- Is SYSREF continuous and in phase, so that the epoch survives a re-synchronisation (R104)? -/
def State.sysrefHeld (s : State) (p : Nat) : Bool := s.flag (R.ING_PORT_CFG_SYSREF_CONT p) && s.flag (R.ING_PORT_STATUS_SYSREF_OK p)

/-- The epoch of a JESD204C port does not survive (R104); the gap carries COAST (R99). -/
def jesdEpochEnd (p : Nat) (s : State) : State :=
  if s.flag (R.ING_PORT_STATUS_EPOCH_VALID p) then
    (s.setFlag (R.ING_PORT_STATUS_EPOCH_VALID p) false).setPort p { s.portSt p with gapCoast := true, asm := true }
  else s

/-- RETRAIN (R88, R89) of a READY or ACTIVE lane; a trigger on a lane that carries a logical lane ends a calibration as failed (R107).  On a JESD204C port
the epoch survives only with SYSREF continuous and in phase (R104). -/
def laneRetrain (p l : Nat) (los trigger : Bool) (s : State) : State :=
  if s.lnSt p l = lnReady ∨ s.lnSt p l = lnActive then
    let s1 := (laneTo p l lnRetrain s).setLane p l { (s.lane p l).unlocked with unc := [] }
    let s2 := (if los then s1.setFlag (R.ING_LANE_STATUS_LOS p l) true else s1).bump64 (R.ING_RETRAIN_CNT p l) 1
    let s3 := if trigger && s.lnLogical p l != 15 then calFail p s2 else s2
    portUpdate p (if s.jesd p && !s.sysrefHeld p then jesdEpochEnd p s3 else s3)
  else s

/-- PRESET for the first preset of the sweep (R88). -/
def sweepNext (p l : Nat) (s : State) : State :=
  match (s.lane p l).sweep with
  | q :: _ => bcSend p 2 l 0 q (s.setFld (R.ING_LANE_STATUS_PRESET p l) q)
  | [] => s

/-- AM lock is gained (R81): LOCK goes to TRAIN and measures P0 to P7; RETRAIN measures the last chosen preset, then the others (R88). -/
def amGained (p l : Nat) (s : State) : State :=
  let s1 := s.setFlag (R.ING_LANE_STATUS_AM_LOCK p l) true
  let x := s1.lane p l
  if s.lnSt p l = lnLock then
    sweepNext p l ((laneTo p l lnTrain s1).setLane p l { x with sweep := List.range 8, best := none, waitAck := false })
  else if s.lnSt p l = lnRetrain then
    sweepNext p l (s1.setLane p l { x with sweep := x.chosen :: (List.range 8).filter (· != x.chosen), best := none, waitAck := false })
  else s1

/-- Back to LOCK (R88), which locks at P0: PRESET is sent with it. -/
def trainToLock (p l : Nat) (s : State) : State :=
  let s1 := (laneTo p l lnLock s).setLane p l (s.lane p l).unlocked
  if s.jesd p then s1 else bcSend p 2 l 0 0 (s1.setFld (R.ING_LANE_STATUS_PRESET p l) 0)

/-- Signal, CDR lock or AM lock is lost on a lane in LOCK, TRAIN, RETRAIN, READY or ACTIVE (R88, R89). -/
def laneLost (p l : Nat) (los lol : Bool) (s : State) : State :=
  let s1 := if los then s.setFlag (R.ING_LANE_STATUS_LOS p l) true else s
  let s2 := if los || lol then s1.setFlag (R.ING_LANE_STATUS_LOL p l) true else s1
  let st := s.lnSt p l
  if st = lnLock then (if los then laneFail p l s2 else s2.setLane p l (s.lane p l).unlocked)
  else if st = lnTrain then (if los then laneFail p l s2 else trainToLock p l s2)
  else if st = lnRetrain then
    (s2.setFlag (R.ING_LANE_STATUS_AM_LOCK p l) false).setLane p l (s.lane p l).unlocked
  else if st = lnReady ∨ st = lnActive then laneRetrain p l los true s
  else if st = lnDetect ∨ st = lnFailed then s2
  else s

/-! Configuration (R72 to R74). -/

/-- Legal format (R74): the smallest D of the table. -/
def fmtLegal (f : Nat) : Bool :=
  let w := bits f 10 8
  let d := bits f 6 4
  decide (w ≤ 4) && decide (d ≤ 4) &&
  (if bitAt f 1 then decide ((if w = 0 then 0 else 1) ≤ d)
   else match bits f 3 2 with
     | 0 => true
     | 1 => decide ((if w = 0 then 0 else 1) ≤ d)
     | 2 => decide ((if w = 0 then 1 else 2) ≤ d)
     | _ => false)

/-- A bond of the pair of port `p` is released: each port's reaches resume with a new grid (R145), the sequencers follow (R229). -/
def unbond (p : Nat) (s : State) : State :=
  if s.bonded p then
    let e := p - p % 2
    let s1 := ((trbClose e s).setFlag (R.ING_PORT_STATUS_BONDED e) false).setFlag (R.ING_PORT_STATUS_BONDED (e + 1)) false
    maskFault (e + 1) <| maskFault e <| bondSeqs e (fun _ => e) (trbOpen (e + 1) (trbOpen e (reachEpoch (e + 1) (reachEpoch e s1))))
  else s

/-- All lanes to OFF, the epoch and a calibration end (R72, R88, R99, R107); FMT and XWIRE clear (R84).  A lane keeps its count of failures, which only READY
sets back (R90); calibrated values go on to their targets (R107). -/
def portStop (p : Nat) (s : State) : State :=
  let s1 := (List.range 9).foldl (fun s l =>
    ((laneTo p l lnOff s).setFld (R.ING_LANE_STATUS_LOGICAL p l) 15).setLane p l { LaneSt.init with fails := (s.lane p l).fails }) (calFail p s)
  let had := s1.flag (R.ING_PORT_STATUS_EPOCH_VALID p)
  let x := s1.portSt p
  let s2 := (s1.setFlag (R.ING_PORT_STATUS_EPOCH_VALID p) false).setPort p
    { x with asm := true, recheck := false, gone := [], moved := [], fmtOk := [], idle := false, ext := false, deliver := none, gapCoast := x.gapCoast || had
             sysref := none, phaseTo := none }
  unbond p (clearFault (hIng p) 2 (clearFault (hIng p) 1 (s2.setFlag (R.ING_PORT_STATUS_SYSREF_OK p) false)))

/-- The lanes of an enabled port start: each carries the logical lane that the map gives it, and goes to DETECT; with JESD204C L8 stays off (R103). -/
def lanesStart (p : Nat) (s : State) : State :=
  let s1 := (List.range 8).foldl (fun s k => s.setFld (R.ING_LANE_STATUS_LOGICAL p (s.laneOf p k)) k) s
  (List.range (if s.jesd p then 8 else 9)).foldl (fun s l => toDetect p l s) s1

/-- Apply ING_PORT_CFG (R72, R74): the format of the link, FAULT.CFG; then the lanes go to DETECT.  Until an epoch is fixed, words are released on the
schedule of the last one (R116). -/
def applyCfg (p : Nat) (s : State) : Code × State :=
  let s1 := portStop p s
  let f := s1.wordN (R.ING_PORT_CFG p)
  let ok := fmtLegal f
  let s2 := (s1.setPort p { s1.portSt p with link := f, cfgBad := !ok }).setFld (R.ING_PORT_STATUS_LAT p) (latOf f)
  let s3 := putFault (hIng p) 3 (!ok) s2
  let s4 := if s3.flag (R.ING_PORT_CFG_EN p) && ok then lanesStart p s3 else s3
  (if ok then .ok else .range, portUpdate p s4)

/-- A write to ING_PORT_CFG (R72): EN, PORT_ID, SYSREF_CONT, CLIP_EN and SPARE_IDLE act at once, the format at the next RESTART. -/
def portCfgWrite (p v be : Nat) (s : State) : State :=
  let en0 := s.flag (R.ING_PORT_CFG_EN p)
  let si0 := s.flag (R.ING_PORT_CFG_SPARE_IDLE p)
  let s1 := writeFields (R.ING_PORT_CFG p) v be s
  let en1 := s1.flag (R.ING_PORT_CFG_EN p)
  let si1 := s1.flag (R.ING_PORT_CFG_SPARE_IDLE p)
  if en0 && !en1 then portUpdate p (portStop p s1)
  else if !en0 && en1 then (applyCfg p s1).2
  else if en1 && si0 != si1 && !(s1.portSt p).idle then
    (spares s1 p).foldl (fun s l =>
      if si1 && s.lnSt p l == lnReady then
        bcSend p 5 l 0 0 (idleLane p l s)
      else if !si1 && s.lnSt p l == lnIdle then (bcSend p 6 l 0 0 s).setLane p l { s.lane p l with waking := true }
      else s) s1
  else s1

/-! Codewords (R78 to R81). -/

/-- Is the block, as received, an AM block (R81)? -/
def amForm (b : Nat × Nat) : Bool := b.1 == 0 && bits b.2 7 0 == 0x41 && bits b.2 95 64 == 0x9C4E2B71

/-- AM lock on an alignment codeword with count `c`, or on its absence (R81). -/
def amStep (p l : Nat) (c : Option Nat) (s : State) : State :=
  let x := s.lane p l
  let next := (x.amCnt + 1) % 2 ^ 32
  if s.flag (R.ING_LANE_STATUS_AM_LOCK p l) then
    if c = some next then s.setLane p l { x with amMiss := 0, since := 0, amCnt := next }
    else if x.amMiss + 1 < 4 then s.setLane p l { x with amMiss := x.amMiss + 1, since := 0, amCnt := next }
    else
      let s1 := (s.setFlag (R.ING_LANE_STATUS_AM_LOCK p l) false).setLane p l x.unlocked
      if s.lnSt p l = lnTrain then trainToLock p l s1
      else if s.lnSt p l = lnReady ∨ s.lnSt p l = lnActive then laneRetrain p l false true s1
      else s1
  else match c with
    | none => s.setLane p l { x with amGood := 0, since := 0 }
    | some c =>
      let g := if x.amGood ≠ 0 ∧ x.since = 16384 ∧ c = next then x.amGood + 1 else 1
      let s1 := s.setLane p l { x with amGood := g, since := 0, amCnt := c, amMiss := 0 }
      if g = 3 then amGained p l s1 else s1

/-- Append blocks received for the frame under way on a lane; none is kept beyond the 64 W blocks of a frame (R82). -/
def rxAdd (w : Nat) (x : LaneSt) (bs : List (Option Nat)) : LaneSt :=
  match x.rxFc with
  | some f => { x with rx := Tbl.upd [] x.rx f (fun l => (l ++ bs).take (64 * w)) }
  | none => x

/-- One block of a data codeword (R78, R79, R82). -/
def blockRx (p l : Nat) (b : Nat × Nat) (s : State) : State :=
  let x := s.lane p l
  let d := descramble x.scr b.2
  let x1 := { x with scr := d.2 }
  if b.1 = 1 then s.setLane p l (rxAdd (fmtW (s.portSt p).link) x1 [some d.1])
  else if bits d.1 7 0 = 0x53 then s.setLane p l { x1 with rxFc := some (bits d.1 63 16), rx := Tbl.set x1.rx (bits d.1 63 16) [] }
  else if bits d.1 7 0 = 0x49 ∨ bits d.1 7 0 = 0x41 then s.setLane p l x1
  else (s.setLane p l x1).bump64 (R.ING_BADBLK p) 1

/-- An uncorrectable codeword (R80, R89): its blocks are missing; how many of them held data is a free value. -/
def uncorrectable (p l : Nat) (syms : List Nat) (s : State) : State :=
  let x := s.lane p l
  let f := s.takeFree 21
  let msg := rsMessage syms
  let scr := (List.range 20).foldl (fun sc b => (descramble sc (rsBlock msg b).2).2) x.scr
  let unc := s.tclk :: x.unc.filter (fun t => decide (s.tclk < t + 3200000))
  let s1 := (f.2.setLane p l { rxAdd (fmtW (s.portSt p).link) x (List.replicate f.1 none) with scr := scr, unc := unc }).bump64 (R.ING_CW_UNCORR p l) 1
  if 16 ≤ unc.length then laneRetrain p l false true s1 else s1

/-- The symbols of a codeword received on a lane of port `p` (R75, R76). -/
def State.rxSyms (s : State) (p : Nat) (levels : List Level) : List Nat := lineSymbols (bits (s.portSt p).link 3 2) levels

/-- A codeword is received on a Taborn lane whose receiver runs; in DETECT and FAILED it shows a signal (R111). -/
def codewordRx (p l : Nat) (syms : List Nat) (s : State) : State :=
  let st := s.lnSt p l
  if !s.jesd p && (st == lnDetect || st == lnFailed) then s.setFlag (R.ING_LANE_STATUS_LOS p l) false
  else if s.jesd p || !(st == lnLock || st == lnTrain || st == lnReady || st == lnActive || st == lnRetrain) then s
  else
    let s0 := (s.setFlag (R.ING_LANE_STATUS_LOL p l) false).setFlag (R.ING_LANE_STATUS_LOS p l) false
    let x := s0.lane p l
    let due := x.since == 16384 && (s0.flag (R.ING_LANE_STATUS_AM_LOCK p l) || x.amGood != 0)
    let locked := s0.flag (R.ING_LANE_STATUS_AM_LOCK p l)
    match rsCorrect syms with
    | none =>
      if due then
        let s1 := (s0.setLane p l { x with unc := s.tclk :: x.unc.filter (fun t => decide (s.tclk < t + 3200000)) }).bump64 (R.ING_CW_UNCORR p l) 1
        let s2 := amStep p l none s1
        if 16 ≤ (s1.lane p l).unc.length then laneRetrain p l false true s2 else s2
      else
        let s1 := uncorrectable p l syms s0
        s1.setLane p l { s1.lane p l with since := x.since + 1 }
    | some (c, n) =>
      let s1 := if n = 0 then s0 else s0.bump64 (R.ING_CW_CORR p l) 1
      let msg := rsMessage c
      let b0 := rsBlock msg 0
      if due || (!locked && amForm b0) then
        amStep p l (if amForm b0 then some (bits b0.2 55 24) else none) s1
      else
        let s2 := s1.setLane p l { x with since := x.since + 1 }
        (List.range 20).foldl (fun s b => blockRx p l (rsBlock msg b) s) s2

/-! Training (R88). -/

/-- SER ≤ 1 × 10^-5 over 2^14 codewords of 544 symbols (R88). -/
def serGood (errs : Nat) : Bool := decide (errs * 100000 ≤ 16384 * 544)

/-- A preset of the sweep has been measured. -/
def presetMeasured (p l errs : Nat) (s : State) : State :=
  let x := s.lane p l
  match x.sweep with
  | [] => s
  | q :: rest =>
    if s.lnSt p l = lnRetrain then
      if serGood errs then laneReady p l (s.setLane p l { x with chosen := q, sweep := [] })
      else if rest.isEmpty then laneFail p l s
      else sweepNext p l (s.setLane p l { x with sweep := rest })
    else if s.lnSt p l = lnTrain then
      let best := match x.best with
        | some (b, e) => if errs < e then (q, errs) else (b, e)
        | none => (q, errs)
      if !rest.isEmpty then sweepNext p l (s.setLane p l { x with sweep := rest, best := some best })
      else if !serGood best.2 then laneFail p l s
      else if best.1 = q then laneReady p l (s.setLane p l { x with chosen := q, sweep := [] })
      else bcSend p 2 l 0 best.1 ((s.setFld (R.ING_LANE_STATUS_PRESET p l) best.1).setLane p l
             { x with chosen := best.1, sweep := [], best := some best, waitAck := true })
    else s

/-! SYNC blocks (R82, R84). -/

/-- Fields of a SYNC block that differ from the configuration: format, identity. -/
def syncBad (s : State) (p d : Nat) : Bool × Bool :=
  let f := (s.portSt p).link
  (bits d 66 64 != bits f 10 8 || bits d 67 67 != bits f 11 11 || bits d 70 68 != bits f 6 4, bits d 13 12 != s.fld (R.ING_PORT_CFG_PORT_ID p))

/-- Device time, less the latency, at an SCLK tick. -/
def tickPin (s : State) (f : Nat) (t : Int) : Int := dtAt s (2 * t) - latOf f * 40960

/-- The anchor that the epoch predicts for frame `fc` (R99): the time of its tick, with the tick as a fraction. -/
def predictedAnchor (s : State) (p fc : Nat) : Int :=
  let x := s.portSt p
  let l := frameTicks x.fmt
  let num : Int := ((fc : Int) - x.epFc) * l.1
  let t := x.epTick + num / l.2
  tickPin s x.fmt t + (num % l.2) * 40960 / l.2 + s.wordN (R.ING_PHASE p)

/-- The time of an anchor (R98): the interpolator's measurement on the lane of logical lane 0, corrected by its trim and ING_LANE_SKEW. -/
def anchorTime (s : State) (p : Nat) (a : AnchorTap) : Int :=
  let l := s.laneOf p 0
  a.base + 1280 * a.tap.val + sext 12 (s.wordN (R.ING_TRIM p l a.tap)) - sext 32 (s.wordN (R.ING_LANE_SKEW p l))

/-- Does an anchor lie within ±5,120 units of its predicted time (R99)? -/
def anchorNear (s : State) (p fc : Nat) (a : AnchorTap) : Bool := decide ((anchorTime s p a - predictedAnchor s p fc).natAbs ≤ 5120)

/-- The FRAME_CNT that the release schedule predicts for the frame that begins at the pins now. -/
def predictedFc (x : PortSt) : Nat := (pinPos x + 4096) / 8192 % 2 ^ 48

/-- A SYNC block on a lane that has AM lock (R82, R84); on logical lane 0 the anchor after it shows whether an epoch in doubt is kept (R99). -/
def syncBlock (p l d : Nat) (a : Option AnchorTap) (s : State) : State :=
  let st := s.lnSt p l
  if s.jesd p || bits d 7 0 != 0x53 || !s.flag (R.ING_LANE_STATUS_AM_LOCK p l) then s
  else
    let x := s.lane p l
    let fc := bits d 63 16
    let s1 := if x.rxFc = some fc then s else s.setLane p l { x with rxFc := some fc, rx := Tbl.set x.rx fc [] }
    let bad := syncBad s1 p d
    let y := s1.portSt p
    let k := bits d 11 8
    let runs := s1.portRuns p
    let s2 :=
      if bad.1 || bad.2 then
        let s2 := if bad.1 then setFault (hIng p) 1 s1 else s1
        let s3 := if bad.2 then setFault (hIng p) 2 s2 else s2
        portUpdate p (s3.setPort p { s3.portSt p with fmtOk := [], asm := true })
      else
        let oks := if k < 8 && !y.fmtOk.contains k then k :: y.fmtOk else y.fmtOk
        let s2 := s1.setPort p { y with fmtOk := oks }
        let s3 := if oks.length = 8 then clearFault (hIng p) 2 (clearFault (hIng p) 1 s2) else s2
        let judge := y.recheck && !y.asm
        let off := ((runs || judge) && fc != predictedFc y) || (judge && k == 0 && a.any (fun a => !anchorNear s1 p fc a))
        if off then portUpdate p (s3.setPort p { s3.portSt p with asm := true, gapCoast := true })
        else if judge && k == 0 && a.isSome then s3.setPort p { s3.portSt p with recheck := false, gapCoast := false }
        else s3
    if st = lnTrain ∧ x.waitAck ∧ bits d 79 72 = 2 then laneReady p l s2 else s2

/-! Epochs (R98 to R102, R104). -/

/-- Release tick and PHASE for an anchor: 0 ≤ PHASE < 40,960 (R98). -/
def fixPhase (s : State) (f : Nat) (a : Int) : Int × Int :=
  let now : Int := s.tick
  let t := now + (a - tickPin s f now) / 40960
  let ph := a - tickPin s f t
  if ph < 0 then (t - 1, a - tickPin s f (t - 1))
  else if 40960 ≤ ph then (t + 1, a - tickPin s f (t + 1)) else (t, ph)

/-- Begin an epoch on the port, in the format of its link: its first frame is the next one of its schedule that no release tick has passed. -/
def beginEpoch (p fc : Nat) (t : Int) (phase : Nat) (s : State) : State :=
  let x := s.portSt p
  let l := frameTicks x.link
  let next : Int := max (x.epTick + ((x.relF - x.epFc) * 8192 + x.relR) * fmtD x.fmt : Nat) s.tick
  let skip := if t < next then ((next - t) * l.2 + l.1 - 1) / l.1 else 0
  let tick := t + skip * l.1 / l.2
  let f := (fc + skip.toNat) % 2 ^ 48
  let s1 := ((s.setWord (R.ING_PHASE p) phase).setPair (R.ING_EPOCH_FC p) f).setFlag (R.ING_PORT_STATUS_EPOCH_VALID p) true
  s1.setPort p { x with fmt := x.link, epFc := f, epTick := tick.toNat, anyEp := true, asm := false, recheck := false, relF := f, relR := 0, gapCoast := false
                        deliver := some (f * 8192), phaseTo := none }

/-- EPOCH_NEW with its log entry, except for the first epoch after start-up (R99). -/
def epochNew (p : Nat) (old : Nat) (first : Bool) (s : State) : State :=
  if first then s else addLog (hIng p) 5 2 2 old (s.wordN (R.ING_PHASE p)) (raise (hIng p) 5 s)

/-- DT of the first word of a port's schedule. -/
def firstDt (s : State) (p : Nat) : Nat :=
  let x := s.portSt p
  (tickPin s x.fmt x.epTick + s.wordN (R.ING_PHASE p) - sext 32 (s.wordN (R.ING_PORT_SKEW p))).toNat

/-- What the blocks behind the port do at a new epoch (R116, R146, R206, R239). -/
def epochDown (p : Nat) (s : State) : State :=
  maskFault p (trbEpoch p (reachEpoch p (epochEntry p (firstDt s p) s)))

/-- Try to bond the pair of port `p` when both ports have an epoch (R101, R102). -/
def bondForm (p : Nat) (s : State) : State :=
  let e := p - p % 2
  let o := e + 1
  let x := s.portSt e
  let y := s.portSt o
  if bitAt x.fmt 12 && s.flag (R.ING_PORT_STATUS_EPOCH_VALID e) && s.flag (R.ING_PORT_STATUS_EPOCH_VALID o) then
    let same := bits x.fmt 10 1 == bits y.fmt 10 1 && bits x.fmt 6 4 == 0 && !fmtCplx x.fmt && !fmtCplx y.fmt
    let d := predictedAnchor s e x.epFc - predictedAnchor s o x.epFc
    if same && decide (d.natAbs ≤ 81920) then
      let f := max x.relF y.relF
      let l := frameTicks x.fmt
      let t := x.epTick + (f - x.epFc) * l.1 / l.2
      let ph := s.wordN (R.ING_PHASE e)
      let s1 := (((trbClose o (trbClose e s)).setPort e { x with relF := f, relR := 0, deliver := some (f * 8192) }).setPort o { y with epFc := f, epTick := t, relF := f, relR := 0, deliver := some (f * 8192) }).setWord (R.ING_PHASE o) (ph + 1280)
      let s2 := ((s1.setPair (R.ING_EPOCH_FC o) f).setFlag (R.ING_PORT_STATUS_BONDED e) true).setFlag (R.ING_PORT_STATUS_BONDED o) true
      maskFault o <| maskFault e <| bondSeqs e id (trbOpen e (trbOpen o (reachEpoch e (reachEpoch o (epochEntry o (firstDt s2 o) (clearFault (hIng e) 4 s2))))))
    else setFault (hIng e) 4 (raise (hIng e) 9 s)
  else s

/-- 256 anchors in ASSEMBLE (R98, R99): the epoch is kept, or a new one fixed; `a` is what they give for frame `fc`. -/
def epochFix (p fc : Nat) (a : AnchorTap) (s : State) : State :=
  let x := s.portSt p
  let bad := s.faultBit (hIng p) 1 || s.faultBit (hIng p) 2
  if s.portState p != psAssemble || !s.allActive p || !x.moved.isEmpty || bad then s
  else
    let valid := s.flag (R.ING_PORT_STATUS_EPOCH_VALID p)
    if valid && anchorNear s p fc a then
      portUpdate p (s.setPort p { x with asm := false, recheck := false, gapCoast := false })
    else
      let old := s.wordN (R.ING_PHASE p)
      let ft := fixPhase s x.link (anchorTime s p a)
      let s1 := unbond p s
      let s2 := epochDown p (epochNew p old (!x.anyEp) (beginEpoch p fc ft.1 ft.2.toNat s1))
      portUpdate p (bondForm p s2)

/-- SLIP (R100). -/
def slip (p : Nat) (s : State) : State :=
  if s.portRuns p then portUpdate p (raise (hIng p) 6 (s.setPort p { s.portSt p with asm := true, gapCoast := true })) else s

/-- A SYSREF edge at device time `t` on a JESD204C port (R104): in phase within one TCLK cycle of a multiple of the extended multiblock, or ignored; out of phase
while a lane is not ACTIVE, the epoch ends. -/
def sysrefPort (p t : Nat) (s : State) : State :=
  let x := s.portSt p
  if !(s.flag (R.ING_PORT_CFG_EN p) && s.jesd p) then s
  else
    let l := frameTicks x.link
    let ok := match x.sysref with
      | none => true
      | some t0 =>
        let d := ((t : Int) - t0) * l.2
        let m : Int := l.1 * 40960
        decide (min (d % m) (m - d % m) ≤ 20480 * l.2)
    if ok then (s.setPort p { x with sysref := some t }).setFlag (R.ING_PORT_STATUS_SYSREF_OK p) true
    else
      let s1 := raise (hIng p) 10 (s.setFlag (R.ING_PORT_STATUS_SYSREF_OK p) false)
      if s.allActive p then s1 else portUpdate p (jesdEpochEnd p s1)

/-- Sync-header lock of a JESD204C lane (R103, R104): it carries the logical lane of its number, FAULT.LANE_DEAD clears when no lane lacks lock any more, and the epoch
survives only with SYSREF continuous and in phase. -/
def syncHeaderLock (p l : Nat) (s : State) : State :=
  if s.jesd p && decide (l < 8) && (s.lnSt p l == lnLock || s.lnSt p l == lnDetect || s.lnSt p l == lnRetrain || s.lnSt p l == lnFailed) then
    let s1 := (s.setFlag (R.ING_LANE_STATUS_LOS p l) false).setFlag (R.ING_LANE_STATUS_LOL p l) false
    let g := (s1.portSt p).gone.filter (· != l)
    let s2 := (s1.setPort p { s1.portSt p with gone := g }).setFld (R.ING_LANE_STATUS_LOGICAL p l) l
    let s3 := if g.isEmpty then clearFault (hIng p) 0 s2 else s2
    portUpdate p (laneTo p l lnActive (if s.sysrefHeld p then s3 else jesdEpochEnd p s3))
  else s

/-- 40 ms without sync-header lock (R104). -/
def syncLossTimeout (p l : Nat) (s : State) : State :=
  if s.jesd p && decide (l < 8) && s.flag (R.ING_PORT_CFG_EN p) && s.lnSt p l != lnActive && !(s.portSt p).gone.contains l then
    portUpdate p (s.setPort p { s.portSt p with gone := (s.portSt p).gone ++ [l] })
  else s

/-! Release of words (R83, R85, R91, R98). -/

/-- Block `i` of a frame, if it was received on the lane of its logical lane. -/
def rxBlock (s : State) (p f i : Nat) : Option Nat :=
  match (Tbl.get [] (s.lane p (s.laneOf p (i % 8))).rx f)[i / 8]? with
  | some b => b
  | none => none

/-- Word `w` of a frame (R83): none when a block that holds part of it is missing. -/
def rxWord (s : State) (p f w : Nat) : Option Nat :=
  let n := fmtW (s.portSt p).fmt
  let b0 := w * n
  let i := b0 / 256
  match rxBlock s p f i, rxBlock s p f ((b0 + n - 1) / 256) with
  | some x, some y => some (if (b0 + n - 1) / 256 = i then bits x (b0 % 256 + n - 1) (b0 % 256) else (x + 2 ^ 256 * y) / 2 ^ (b0 % 256) % 2 ^ n)
  | _, _ => none

/-- Step a calibrated value toward its target by at most 1,280 units (R107). -/
def stepTo (cur goal : Int) : Int := cur + clampI (-1280) 1280 (goal - cur)

/-- The first of the calibrated trims and lane skews that has not reached its value moves a step (R107). -/
def trimMove (p : Nat) (s : State) : State :=
  match (s.portSt p).trimTo.dropWhile (fun m => sext m.w (s.wordN m.off) == m.goal) with
  | [] => s.setPort p { s.portSt p with trimTo := [] }
  | m :: rest => (s.setWord m.off (enc m.w (stepTo (sext m.w (s.wordN m.off)) m.goal))).setPort p { s.portSt p with trimTo := m :: rest }

/-- Calibrated trims, skews and PHASE move at a frame boundary (R107). -/
def calMove (p : Nat) (s0 : State) : State :=
  let s := trimMove p s0
  let x := s.portSt p
  let s1 := match x.skewTo with
    | some t => s.setWord (R.ING_PORT_SKEW p) (enc 32 (stepTo (sext 32 (s.wordN (R.ING_PORT_SKEW p))) t))
    | none => s
  let s2 := match x.phaseTo with
    | some t => s1.setWord (R.ING_PHASE p) (stepTo (s1.wordN (R.ING_PHASE p)) t).toNat
    | none => s1
  s2.setPort p { x with skewTo := x.skewTo.filter (fun t => sext 32 (s2.wordN (R.ING_PORT_SKEW p)) != t)
                        phaseTo := x.phaseTo.filter (fun t => s2.wordN (R.ING_PHASE p) != t) }

/-- Octets of a lane in a JESD204C frame, F, and the width N′ of a sample in it (R103). -/
def jesdShape (f : Nat) : Nat × Nat := if bits f 10 8 = 0 then (1, 8) else if bits f 10 8 ≤ 2 then (3, 12) else (1, 16)

/-- Group `i` of N′ bits of a frame's octets, most significant bit first; none when an octet of it is missing (R103). -/
def jesdGroup (np : Nat) (os : List (Option Nat)) (i : Nat) : Option Nat :=
  let a := i * np / 8
  let b := (i * np + np - 1) / 8
  let part := (os.drop a).take (b - a + 1)
  if part.length == b - a + 1 && part.all Option.isSome then
    some (part.foldl (fun acc o => acc * 256 + o.getD 0) 0 / 2 ^ (8 * (b + 1) - (i + 1) * np) % 2 ^ np)
  else none

/-- Word `j` of the 16 that the lanes' octets `rx` carry (R103): each frame has F octets of every lane in the order of the lanes, on a complex port the samples
of converter 0 before those of converter 1; a word's W bits stand first in its N′, tail bits are dropped. -/
def jesdWord (f : Nat) (rx : JesdRx) (j : Nat) : Option Nat :=
  let sh := jesdShape f
  let n := 64 * sh.1 / sh.2
  let m := j / n
  let i := if fmtCplx f then j % n / 2 + (if j % 2 = 1 then n / 2 else 0) else j % n
  let os := rx.flatMap (fun lane => match lane with
    | some bs => ((bs.map BitVec.toNat).drop (m * sh.1)).take sh.1 |>.map some
    | none => List.replicate sh.1 none)
  (jesdGroup sh.2 os i).map (· / 2 ^ (sh.2 - fmtW f))

/-- Was a word released at SCLK tick `t` taken at the pins while a calibration of the port ran (R106)? -/
def calTaken (s : State) (p : Nat) (t : Nat) : Bool :=
  let x := s.portSt p
  let u := t - latOf x.fmt
  (s.flag (R.ING_PORT_STATUS_CAL_BUSY p) && decide (x.calAt ≤ u)) || x.cals.any (fun c => decide (c.1 ≤ u) && decide (u ≤ c.2))

/-- Release the next 16 words of a port: delivered, or zero-filled with GAP, each with its DT (R98); the ring writer takes them and the level detectors test them. -/
def sampleRelease (p : Nat) (jesd : JesdRx) (s : State) : State :=
  let s0 := if (s.portSt p).relR = 0 then calMove p s else s
  let x := s0.portSt p
  let n := fmtW x.fmt
  let d := fmtD x.fmt
  let live := s0.portRuns p && s0.allActive p && (match x.deliver with | some w => decide (w ≤ x.relF * 8192 + x.relR) | none => false)
  let t := x.epTick + ((x.relF - x.epFc) * 8192 + x.relR) * d
  let base := (if s0.portState p = psSpared then pswLaneDeg else 0) + (if calTaken s0 p t then pswStale else 0)
  let coast := if s0.coast then pswCoast else 0
  let gap := pswGap ||| coast ||| (if x.gapCoast then pswCoast else 0)
  let t0 := tickPin s0 x.fmt t + s0.wordN (R.ING_PHASE p) - sext 32 (s0.wordN (R.ING_PORT_SKEW p))
  let clipEn := s0.flag (R.ING_PORT_CFG_CLIP_EN p)
  let mk (j : Nat) : Smp × Bool :=
    let raw := if !live then none else if s0.jesd p then jesdWord x.fmt jesd j else rxWord s0 p x.relF (x.relR * 16 + j)
    let jj := if fmtCplx x.fmt then j / 2 * 2 else j
    let dt := (t0 + jj * 2560 * d).toNat
    match raw with
    | none => ({ v := 0, psw := base ||| gap, dt := dt, tick := tickOfDt s0 dt }, false)
    | some r =>
      let clip := clipEn && (r == 2 ^ (n - 1) || r + 1 == 2 ^ (n - 1))
      ({ v := sext n r * 2 ^ (16 - n), psw := base ||| coast ||| (if clip then pswClip else 0), dt := dt, tick := tickOfDt s0 dt }, clip)
  let ws := (List.range 16).map mk
  let gaps := (ws.filter (fun w => (w.1.psw &&& pswGap) != 0)).length
  let clips := (ws.filter Prod.snd).length
  let rwn := s0.released p
  let s1 := { s0 with weir := { s0.weir with hist := Tbl.set s0.weir.hist p ((ws.map Prod.fst).reverse ++ s0.hist p) } }
  let s2 := (s1.bump64 (R.ING_GAP p) gaps).bump64 (R.ING_CLIP p) clips
  let last := decide (8191 ≤ x.relR)
  let s3 := s2.setPort p { x with relR := if last then 0 else x.relR + 1, relF := if last then (x.relF + 1) % 2 ^ 48 else x.relF }
  let s4 := if last then (List.range 9).foldl (fun s l => s.setLane p l { s.lane p l with rx := Tbl.del (s.lane p l).rx x.relF }) s3 else s3
  let s5 := capWrite p s4
  ((ws.map Prod.fst).zip (upFrom rwn 16)).foldl (fun s w => lvlWord p w.2 w.1 s) s5

/-! Calibration (R105 to R108). -/

/-- Do the results of a calibration lie within the limits of their registers (R107, R111)? -/
def calResultOk (r : PortCalResult) : Bool :=
  r.trims.all (fun t => t.all (fun v => decide (-2048 ≤ v) && decide (v ≤ 2047))) &&
  (r.portSkew :: r.laneSkew).all (fun v => decide (-2147483648 ≤ v) && decide (v ≤ 2147483647)) && decide (r.phase < 40960)

/-- The moves of a lane's trims and skew to their calibrated values. -/
def trimMoves (p l : Nat) (r : PortCalResult) : List TrimMove :=
  (((r.trims[l]?).getD []).zip (List.range 16)).map (fun t => { off := R.ING_TRIM p l t.2, w := 12, goal := t.1 }) ++
  [{ off := R.ING_LANE_SKEW p l, w := 32, goal := (r.laneSkew[l]?).getD 0 }]

/-- The end of a port calibration: results journalled, in force step by step; or the old values kept (R107). -/
def portCalEnd (p : Nat) (res : Option PortCalResult) (s : State) : State :=
  if !s.flag (R.ING_PORT_STATUS_CAL_BUSY p) then s
  else match res with
    | none => calFail p s
    | some r =>
      if !calResultOk r then calFail p s
      else
        let s1 := (List.range 9).foldl (fun s l => journal 1 (p * 16 + l) ((r.trims[l]?).getD [] ++ [(r.laneSkew[l]?).getD 0]) s) s
        let s2 := journal 2 p [r.portSkew] s1
        let s3 := s2.setPort p { s2.portSt p with skewTo := some r.portSkew, phaseTo := some r.phase, trimTo := (List.range 9).flatMap (fun l => trimMoves p l r) }
        calKick (raise (hIng p) 7 (calStop p s3))

/-- The automatic period of a port expires (R108). -/
def portCalDue (p : Nat) (s : State) : State :=
  if s.wordN (R.ING_CAL_PERIOD p) = 0 then s else calKick (s.setPort p { s.portSt p with calDue := true })

/-! Commands (R109). -/

def portCalCmd (p : Nat) (s : State) : Code × State :=
  if (List.range 4).any (fun q => s.flag (R.ING_PORT_STATUS_CAL_BUSY q)) then refuse .busy s
  else if s.portRuns p then (.ok, calStart p s) else refuse .state s

def ingRetrainCmd (p : Nat) (s : State) : Code × State :=
  let l := s.fld (R.ING_CMD_ARG_LANE p)
  if 8 < l then refuse .range s
  else if s.lnSt p l = lnReady ∨ s.lnSt p l = lnActive then (.ok, laneRetrain p l false false s)
  else refuse .state s

/-- Every lane to electrical idle (R88, R93, R109); by an imminent extraction (`ext`) those that are off too. -/
def portToIdle (p : Nat) (ext : Bool) (s : State) : State :=
  let s1 := bcSend p 5 15 0 0 s
  let s2 := (List.range 9).foldl (fun s l =>
    if (s.lnSt p l = lnOff ∧ !ext) ∨ s.lnSt p l = lnIdle then s.setLane p l { s.lane p l with waking := false }
    else idleLane p l s) s1
  portUpdate p (s2.setPort p { s2.portSt p with idle := true, ext := (s2.portSt p).ext || ext })

def portIdleCmd (p : Nat) (s : State) : Code × State :=
  if s.portState p = psDown then refuse .state s else (.ok, portToIdle p false s)

def portWakeCmd (p : Nat) (s : State) : Code × State :=
  if s.portState p ≠ psIdle then refuse .state s
  else
    let s1 := bcSend p 6 15 0 0 s
    let s2 := (List.range 9).foldl (fun s l => if s.lnSt p l = lnIdle then s.setLane p l { s.lane p l with waking := true } else s) s1
    (.ok, portUpdate p (s2.setPort p { s2.portSt p with idle := false, ext := false }))

/-- Codewords that a Taborn transmitter has counted in `n` TCLK cycles, the last one to its end: one lasts 5,440 bits at the lane's rate (R75, R80). -/
def codewords (rate n : Nat) : Nat := cdiv (n * 225) (69632 * 2 ^ rate)

/-- The place of the codeword count after a lane's idle time (R81, R92). -/
def LaneSt.counted (x : LaneSt) (rate now : Nat) : LaneSt :=
  let n := x.since + codewords rate (now - x.idleAt)
  { x with since := n % 16385, amCnt := (x.amCnt + n / 16385) % 2 ^ 32, amMiss := 0 }

/-- The WAKE burst reaches an idled lane (R92); a lane that was off stays so on a port that is not enabled. -/
def wakeResume (p l : Nat) (found : Bool) (s : State) : State :=
  let x := s.lane p l
  if !(s.lnSt p l == lnIdle && x.waking) then s
  else
    let s1 := s.setLane p l { x with waking := false }
    if x.prev = lnReady ∨ x.prev = lnActive then
      let s2 := s1.setFlag (R.ING_LANE_STATUS_LOS p l) false
      if !found then portUpdate p (trainToLock p l s2)
      else
        let s3 := ((s2.setFlag (R.ING_LANE_STATUS_LOL p l) false).setFlag (R.ING_LANE_STATUS_AM_LOCK p l) true).setLane p l
                    ((s2.lane p l).counted (bits (s.portSt p).link 3 2) s.tclk)
        if x.prev = lnActive then portUpdate p (laneTo p l lnActive s3)
        else if s3.flag (R.ING_PORT_CFG_SPARE_IDLE p) then laneReady p l s3
        else portUpdate p (laneTo p l lnReady s3)
    else if x.prev = lnOff ∧ (!s.flag (R.ING_PORT_CFG_EN p) || (s.portSt p).cfgBad || (s.jesd p && l == 8)) then portUpdate p (laneTo p l lnOff s1)
    else portUpdate p (toDetect p l s1)

/-- The logical lane that was moved to a spare is deskewed on it (R94): SPARE_IN, and the port enters SPARED or RUN. -/
def spareIn (p k : Nat) (s : State) : State :=
  let x := s.portSt p
  if x.moved.contains k && s.lnSt p (s.laneOf p k) == lnActive then
    portUpdate p (raise (hIng p) 2 (s.setPort p { x with moved := x.moved.filter (· != k) }))
  else s

/-- SER over the last second (R89, R111). -/
def serSecond (p l errs syms : Nat) (s : State) : State :=
  if s.lnSt p l = lnReady ∨ s.lnSt p l = lnActive then
    portUpdate p ((s.setWord (R.ING_LANE_SER p l) (min (errs * 2 ^ 20 / max syms 1) 0xFFFFFFFF)).setFlag (R.ING_LANE_STATUS_DEG p l) (decide (syms < errs * 10000)))
  else s

/-! Meanings of the commands of spec/04. -/

/-- PORT_CFG_WRITE (R72). -/
def execPortCfgWrite (p : Fin 4) (val : Word) (be : BitVec 4) (s : State) : Host.Outcome State Fault Refusal :=
  .next (portCfgWrite p val.toNat be.toNat s)

/-- RESTART (R109). -/
def execRestart (p : Fin 4) (s : State) : Host.Outcome State Fault Refusal := .next (runCmd (hIng p) 1 (applyCfg p) s)

/-- PORT_CAL (R105, R109). -/
def execPortCal (p : Fin 4) (s : State) : Host.Outcome State Fault Refusal := .next (runCmd (hIng p) 2 (portCalCmd p) s)

/-- RETRAIN (R109). -/
def execIngRetrain (p : Fin 4) (s : State) : Host.Outcome State Fault Refusal := .next (runCmd (hIng p) 3 (ingRetrainCmd p) s)

/-- IDLE (R109). -/
def execPortIdle (p : Fin 4) (s : State) : Host.Outcome State Fault Refusal := .next (runCmd (hIng p) 4 (portIdleCmd p) s)

/-- WAKE (R92, R109). -/
def execPortWake (p : Fin 4) (s : State) : Host.Outcome State Fault Refusal := .next (runCmd (hIng p) 5 (portWakeCmd p) s)

/-- LANE_DETECT_DONE (R88). -/
def execLaneDetectDone (p : Fin 4) (l : Fin 9) (s : State) : Host.Outcome State Fault Refusal :=
  .next (if s.lnSt p l = lnDetect then laneTo p l lnLock (s.setFlag (R.ING_LANE_STATUS_LOS p l) false) else s)

/-- CODEWORD_RX (R76, R78 to R81). -/
def execCodewordRx (p : Fin 4) (l : Fin 9) (levels : List Level) (s : State) : Host.Outcome State Fault Refusal :=
  .next (codewordRx p l (s.rxSyms p levels) s)

/-- TRAIN_PRESET_MEASURED (R88). -/
def execTrainPresetMeasured (p : Fin 4) (l : Fin 9) (errs : Nat) (s : State) : Host.Outcome State Fault Refusal :=
  .next (presetMeasured p l errs s)

/-- SYNC_BLOCK (R84, R86). -/
def execSyncBlock (p : Fin 4) (l : Fin 9) (rx : SyncRx) (s : State) : Host.Outcome State Fault Refusal :=
  .next (syncBlock p l rx.payload.toNat rx.anchor s)

/-- RETRAIN_TRIGGER (R89). -/
def execRetrainTrigger (p : Fin 4) (l : Fin 9) (cause : RetrainCause) (s : State) : Host.Outcome State Fault Refusal :=
  .next (laneRetrain p l (cause == .los) true s)

/-- TRAIN_TIMEOUT (R88). -/
def execTrainTimeout (p : Fin 4) (l : Fin 9) (s : State) : Host.Outcome State Fault Refusal :=
  .next (if s.lnSt p l = lnLock ∨ s.lnSt p l = lnTrain then laneFail p l s else s)

/-- RETRAIN_TIMEOUT (R88). -/
def execRetrainTimeout (p : Fin 4) (l : Fin 9) (s : State) : Host.Outcome State Fault Refusal :=
  .next (if s.lnSt p l = lnRetrain then laneFail p l s else s)

/-- SPARE_IN (R94). -/
def execSpareIn (p : Fin 4) (logical : Fin 8) (s : State) : Host.Outcome State Fault Refusal := .next (spareIn p logical s)

/-- LANE_BACKOFF_END (R90). -/
def execLaneBackoffEnd (p : Fin 4) (l : Fin 9) (s : State) : Host.Outcome State Fault Refusal :=
  .next (if s.lnSt p l = lnFailed then toDetect p l s else s)

/-- SER_SECOND (R89). -/
def execSerSecond (p : Fin 4) (l : Fin 9) (errs syms : Nat) (s : State) : Host.Outcome State Fault Refusal :=
  .next (serSecond p l errs syms s)

/-- LANE_WAKE_RESUME (R92). -/
def execLaneWakeResume (p : Fin 4) (l : Fin 9) (amFound : Bool) (s : State) : Host.Outcome State Fault Refusal :=
  .next (wakeResume p l amFound s)

/-- EPOCH_FIX (R98, R99, R102). -/
def execEpochFix (p : Fin 4) (frameCnt : BitVec 48) (anchor : AnchorTap) (s : State) : Host.Outcome State Fault Refusal :=
  .next (epochFix p frameCnt.toNat anchor s)

/-- SLIP (R100). -/
def execSlip (p : Fin 4) (s : State) : Host.Outcome State Fault Refusal := .next (slip p s)

/-- PORT_CAL_DUE (R105, R108). -/
def execPortCalDue (p : Fin 4) (s : State) : Host.Outcome State Fault Refusal := .next (portCalDue p s)

/-- PORT_CAL_END (R107, R108). -/
def execPortCalEnd (p : Fin 4) (result : Option PortCalResult) (s : State) : Host.Outcome State Fault Refusal :=
  .next (portCalEnd p result s)

/-- SYSREF_EDGE (R104): the edge lies `tap` sixteenths of a TCLK cycle after the present cycle began. -/
def execSysrefEdge (tap : Fin 16) (s : State) : Host.Outcome State Fault Refusal :=
  .next ((List.range 4).foldl (fun st p => sysrefPort p (s.clk.dt + tap * 1280) st) s)

/-- JESD_SYNC_LOSS_TIMEOUT (R104). -/
def execJesdSyncLossTimeout (p : Fin 4) (l : Fin 9) (s : State) : Host.Outcome State Fault Refusal := .next (syncLossTimeout p l s)

/-- LOSS_OF_SIGNAL (R88, R89): LOS, or loss of CDR lock. -/
def execLossOfSignal (p : Fin 4) (l : Fin 9) (los : Bool) (s : State) : Host.Outcome State Fault Refusal :=
  .next (laneLost p l los true s)

/-- JESD_SYNC_HEADER_LOCK (R104). -/
def execJesdSyncHeaderLock (p : Fin 4) (l : Fin 9) (s : State) : Host.Outcome State Fault Refusal := .next (syncHeaderLock p l s)

/-- SAMPLE_RELEASE (R98). -/
def execSampleRelease (p : Fin 4) (jesd : JesdRx) (s : State) : Host.Outcome State Fault Refusal :=
  .next (analysis (sampleRelease p jesd) s)

end Sys2Proof.Machine
end

