-- ==== Sys2Proof/Machine/Brook.lean ====
section
/-! DEFINITION. Brook (spec/14_brook.md): ADC, comparators, filter slots, rules, rail sequencer, standby log, SPI target. -/

namespace Sys2Proof.Machine

def State.setBrk (s : State) (b : Brk) : State := { s with brk := b }

/-! Reports: events, ALERT_N and the Brook log (R399, R403, R405). -/

/-- ALERT_N goes low (R403). -/
def alertOn (s : State) : State :=
  if s.brk.alert then s else { s with brk := { s.brk with alert := true } }.emit (.pin "ALERT_N" 0)

/-- A raised Brook event asserts ALERT_N. -/
def brkRaise (bit : Nat) (s : State) : State := alertOn (raise hBrk bit s)

/-- BT of the round in progress, as BRK_BT shows it. -/
def State.roundBt (s : State) : Nat := s.pair R.BRK_BT

/-- An entry of the Brook log; the oldest is overwritten when it is full (R399). -/
def brkLogAt (bt code arg : Nat) (s : State) : State :=
  let n := s.wordN R.BRK_LOG_WSEQ
  let run := s.flag R.BRK_STATUS_DIE_RUN
  let e := leBytes 4 n ++ leBytes 2 code ++ leBytes 1 (b2n run) ++ leBytes 1 0 ++ leBytes 8 (bt % 2 ^ 48) ++
           (if run then dtBytes s.clk.dt else leBytes 12 0) ++ leBytes 4 arg
  let full := (Tbl.find s.brk.log (n % 1024)).isSome
  let s1 := ({ s with brk := { s.brk with log := Tbl.set s.brk.log (n % 1024) e } }).setWord R.BRK_LOG_WSEQ ((n + 1) % 2 ^ 32)
  if full then brkRaise 8 (s1.bumpSat R.BRK_LOG_LOST 1) else s1

/-- An entry of the round in progress. -/
def brkLog (code arg : Nat) (s : State) : State := brkLogAt s.roundBt code arg s

/-! Filter slots (R388 to R391). -/

def slotN (s : State) (n : Nat) : Nat := s.fld (R.BRK_FLT_CFG_NM1 n) + 1
def slotHist (s : State) (n : Nat) : List (Nat × Bool) := Tbl.get [] s.brk.slots n
def slotSettled (s : State) (n : Nat) : Bool := !s.flag (R.BRK_FLT_OUT_SETTLING n)
def slotOut (s : State) (n : Nat) : Nat := s.fld (R.BRK_FLT_OUT_OUT n)

/-- A slot's output word after its history changed: suppressed until N inputs are in; a clamp sets SAT. -/
def slotShow (n : Nat) (s : State) : State :=
  let h := slotHist s n
  let full := decide (slotN s n ≤ h.length)
  let v := (h.foldl (fun a e => a + e.1) 0) / 2 ^ s.fld (R.BRK_FLT_CFG_SHIFT n)
  let s1 := s.setWord (R.BRK_FLT_OUT n)
    ((if full then min v 65535 else 0) + h.length * 2 ^ 16 + b2n (!full) * 2 ^ 28 + b2n (full && h.any (fun e => e.2)) * 2 ^ 29)
  if full && decide (65535 < v) then s1.setW1c (R.BRK_FLT_SAT n) 1 else s1

/-- A slot takes an input (R388). -/
def slotTake (n v : Nat) (stale : Bool) (s : State) : State :=
  slotShow n { s with brk := { s.brk with slots := Tbl.set s.brk.slots n (((v, stale) :: slotHist s n).take (slotN s n)) } }

/-- The slots of a list and those chained from them, down every chain (R389). -/
def chained (s : State) (l : List Nat) : List Nat :=
  iter (fun l => l ++ (List.range 16).filter (fun n => !l.contains n && s.flag (R.BRK_FLT_CFG_SRC n) && l.contains (s.fld (R.BRK_FLT_CFG_SRCSLOT n)))) 16 l

/-- The synchronising reset of slots (R389, R390). -/
def resetSlots (l : List Nat) (s : State) : State :=
  (chained s l).foldl (fun s n => slotShow n { s with brk := { s.brk with slots := Tbl.set s.brk.slots n [] } }) s

/-- Slots chained from settled slots take their sources' outputs at the end of a round. -/
def chainInputs (s : State) : State :=
  (List.range 16).foldl (fun t n =>
    let j := s.fld (R.BRK_FLT_CFG_SRCSLOT n)
    if s.flag (R.BRK_FLT_CFG_SRC n) && slotSettled s j then slotTake n (slotOut s j) (s.flag (R.BRK_FLT_OUT_STALE j)) t else t) s

def slotAbove (s : State) (n : Nat) : Bool := slotSettled s n && decide (s.fld (R.BRK_FLT_LIM_HI n) < slotOut s n)
def slotBelow (s : State) (n : Nat) : Bool := slotSettled s n && decide (slotOut s n < s.fld (R.BRK_FLT_LIM_LO n))

/-! Rails (R394, R397). -/

def State.rails (s : State) : Nat := s.fld R.BRK_STATUS_RAIL_ON
/-- The rail at a position of BRK_RAIL_ORDER. -/
def railAt (s : State) (k : Nat) : Nat := bits (s.wordN R.BRK_RAIL_ORDER) (3 * k + 2) (3 * k)
/-- The good slot of a rail. -/
def goodSlot (s : State) (n : Nat) : Nat := bits (s.wordN R.BRK_RAIL_SLOT) (4 * n + 3) (4 * n)
/-- May BRK_RAIL_ORDER take the value: eight different rails? -/
def railOrderOk (v : Nat) : Bool := (List.range 8).all (fun r => (List.range 8).any (fun k => bits v (3 * k + 2) (3 * k) == r))

/-- Set the rail enables; a disabled rail is not GOOD. -/
def setRails (m : Nat) (s : State) : State :=
  let s1 := s.setFld R.BRK_STATUS_RAIL_ON m
  let on := (List.range 8).filter (fun k => bitAt m (railAt s k))
  (((s1.setFld R.BRK_RAIL_STATUS_GOOD (s.fld R.BRK_RAIL_STATUS_GOOD &&& m)).setFld R.BRK_RAIL_STATUS_HIGHEST (on.foldl max 0))).setFlag
    R.BRK_RAIL_STATUS_ANY_EN (m != 0)

/-- GOOD from the round after a rail's good slot is settled and above HI while the rail is enabled. -/
def goodUpdate (s : State) : State :=
  s.setFld R.BRK_RAIL_STATUS_GOOD ((List.range 8).foldl (fun m n =>
    if bitAt s.rails n && slotAbove s (goodSlot s n) then m ||| 2 ^ n else m) (s.fld R.BRK_RAIL_STATUS_GOOD))

/-- The die is held in reset: analysis stops until the next start (R28). -/
def dieHold (s : State) : State :=
  let t := (s.setFlag R.BRK_STATUS_DIE_GO false).setFlag R.BRK_STATUS_DIE_RUN false
  { t with boot := { t.boot with held := true } }

/-- A comparator switches the power stage off (R386). -/
def brkKill (n : Nat) (s : State) : State :=
  brkLog 0x100 n (brkRaise 0 (setFault hBrk 0 (dieHold (setRails 0 (s.setFlag R.BRK_STATUS_KILLED true)))))

/-- May a comparator kill: KILL = 1, MODE = FAST, not under test (R386, R387)? -/
def killArmed (s : State) (n : Nat) : Bool :=
  s.flag (R.BRK_CMP_CFG_KILL n) && s.fld (R.BRK_CMP_CFG_MODE n) == 0 && !s.brk.tests.contains n

/-! Housekeeping ADC (R380 to R384). -/

/-- A result for the queue; a full queue loses it (R382). -/
def adcPush (chan code : Nat) (warm stale : Bool) (s : State) : State :=
  let b := s.brk
  if 64 ≤ b.adcq.length then
    { s with brk := { b with adcSeq := (b.adcSeq + 1) % 256, lossDue := true } }.bumpSat R.BRK_ADC_LOST 1
  else
    let w := 2 ^ 31 + b2n b.lossDue * 2 ^ 30 + b2n warm * 2 ^ 29 + b2n stale * 2 ^ 28 + chan * 2 ^ 22 + b.adcSeq * 2 ^ 12 + code
    { s with brk := { b with adcq := b.adcq ++ [w], adcSeq := (b.adcSeq + 1) % 256, lossDue := false } }

/-- What a read of BRK_ADC_QPOP returns and leaves. -/
def adcPop (s : State) : Nat × State :=
  match s.brk.adcq with
  | [] => (0, s)
  | w :: t => (w, { s with brk := { s.brk with adcq := t } })

/-- MOD_PIN: 0.016 V per code of channel 25, 0.004 A per code of channel 0, in 0.1 W (R414, R426). -/
def powerIn (ch code : Nat) (s : State) : State :=
  let b := if ch = 0 then { s.brk with amp := code } else if ch = 25 then { s.brk with volt := code } else s.brk
  (s.setBrk b).setWord R.MOD_PIN (min 65535 (b.volt * b.amp * 64 / 100000))

/-- The conversion of the next list entry completes; the die's sensors read 0 while its core rail is off (R396). -/
def adcConvert (raw : Nat) (s : State) : State :=
  if !s.brk.on then s
  else
    let len := s.fld R.BRK_ADC_CFG_LENM1 + 1
    let e := if s.brk.pos < len then s.brk.pos else 0
    let ch := s.fld (R.BRK_SEQ_CHAN e)
    let code := if 33 ≤ ch ∧ ch ≤ 36 ∧ bitAt s.rails 4 = false then 0 else min raw 4095
    let warm := !s.flag R.BRK_ADC_CFG_REFBUF_EN || s.flag R.BRK_STATUS_WARM
    let stale := s.flag R.BRK_STATUS_CAL_BUSY
    let n := s.fld (R.BRK_SEQ_SLOT e)
    let s1 := powerIn ch code { s with brk := { s.brk with pos := (e + 1) % len } }
    let s2 := if s.flag (R.BRK_SEQ_SLOT_EN e) && !warm && !s.flag (R.BRK_FLT_CFG_SRC n) then slotTake n code stale s1 else s1
    if s.flag (R.BRK_SEQ_QUEUE e) then adcPush ch code warm stale s2 else s2

/-- A calibration of the ADC starts (R383). -/
def adcCalStart (s : State) : State := s.setFlag R.BRK_STATUS_CAL_BUSY true

def brkCalCmd (s : State) : Code × State :=
  if s.flag R.BRK_STATUS_CAL_BUSY then refuse .busy s else (.ok, adcCalStart s)

/-- It ends: new trims, or the old ones when the offset lies outside ±32 codes or the gain outside ±2 % (R384). -/
def adcCalFinish (offset gain : Int) (s : State) : State :=
  if !s.flag R.BRK_STATUS_CAL_BUSY then s
  else
    let s1 := s.setFlag R.BRK_STATUS_CAL_BUSY false
    if 32 < offset.natAbs ∨ 81 < gain.natAbs then brkLog 0x103 0 (brkRaise 3 s1)
    else brkLog 0x102 0 (brkRaise 2 (journal 4 0 [offset, gain] { s1 with brk := { s1.brk with trimTo := some (offset, gain) } }))

/-- One step of at most 1 towards a target. -/
def trimTowards (v t : Int) : Int := if v < t then v + 1 else if t < v then v - 1 else v

/-- Trims move at a round boundary (R384). -/
def trimStep (s : State) : State :=
  match s.brk.trimTo with
  | none => s
  | some (o, g) =>
    let o1 := trimTowards (s.sfld R.BRK_ADC_TRIM_OFFSET) o
    let g1 := trimTowards (s.sfld R.BRK_ADC_TRIM_GAIN) g
    let s1 := (s.setFld R.BRK_ADC_TRIM_OFFSET (enc 8 o1)).setFld R.BRK_ADC_TRIM_GAIN (enc 16 g1)
    if o1 = o ∧ g1 = g then { s1 with brk := { s1.brk with trimTo := none } } else s1

/-! Comparators (R385 to R387). -/

def tmrExpired (s : State) (n : Nat) : Bool :=
  match Tbl.find s.brk.tmrs n with
  | some t => t.expired || decide (t.fin ≤ s.brk.bt)
  | none => false

def tmrRuns (s : State) (n : Nat) : Bool := (Tbl.find s.brk.tmrs n).isSome && !tmrExpired s n

/-- Samples of the majority. -/
def majLen (m : Nat) : Nat := if m = 0 then 3 else if m = 1 then 5 else 9

/-- Majority of the last samples. -/
def majority (k : Nat) (h : List Bool) : Bool := decide (k < 2 * ((h.take k).filter (fun b => b)).length)

/-- Show a filtered output, in BRK_STATUS too. -/
def cmpShow (n : Nat) (b : Bool) (s : State) : State :=
  (s.setFlag (R.BRK_CMP_STATUS_FILTERED n) b).setFld R.BRK_STATUS_CMP (putBits (s.fld R.BRK_STATUS_CMP) n n (b2n b))

/-- One sample of a comparator: the filtered output by FILT. -/
def cmpFilter (n : Nat) (raw : Bool) (s : State) : State :=
  let c := Tbl.get CmpSt.init s.brk.cmps n
  let f := s.fld (R.BRK_CMP_CFG_FILT n)
  let old := s.flag (R.BRK_CMP_STATUS_FILTERED n)
  let h := (raw :: c.hist).take 9
  let x := if f = 1 ∨ f = 3 then majority (majLen (s.fld (R.BRK_CMP_CFG_MAJ n))) h else raw
  let held := decide (2 ≤ f) && (if s.flag (R.BRK_CMP_CFG_BLK_SRC n) then tmrRuns s (s.fld (R.BRK_CMP_CFG_BTMR n)) else decide (1 < c.hold))
  let out := if held then old else x
  let hold := if f < 2 || s.flag (R.BRK_CMP_CFG_BLK_SRC n) then 0
              else if out != old then bits (s.wordN (R.BRK_TMR (s.fld (R.BRK_CMP_CFG_BTMR n)))) 23 0 * 50 + 1 else c.hold - 1
  cmpShow n out { s with brk := { s.brk with cmps := Tbl.set s.brk.cmps n { hist := h, hold := hold } } }

/-- A BCLK cycle samples a comparator; under test its filtered output is held and KILL disarmed. -/
def cmpSample (n : Nat) (raw : Bool) (s : State) : State :=
  if !s.brk.on then s
  else
    let rise := raw && !s.flag (R.BRK_CMP_STATUS_RAW n)
    let s1 := s.setFlag (R.BRK_CMP_STATUS_RAW n) raw
    let s2 := if s.brk.tests.contains n then s1 else cmpFilter n raw s1
    if rise && killArmed s n then brkKill n s2 else s2

/-- The majority history restarts from the current sample (R385). -/
def cmpRestart (n : Nat) (s : State) : State :=
  { s with brk := { s.brk with cmps := Tbl.upd CmpSt.init s.brk.cmps n (fun c => { c with hist := List.replicate 9 (s.flag (R.BRK_CMP_STATUS_RAW n)) }) } }

def selftestCmd (s : State) : Code × State :=
  let n := bits (s.wordN R.BRK_CMD_ARG) 3 0
  if 11 < n then refuse .range s
  else if s.flag (R.BRK_CMP_CFG_KILL n) && !s.flag R.BRK_STATUS_KILLED then refuse .state s
  else
    let s1 := ((s.setFlag (R.BRK_CMP_STATUS_ST_BUSY n) true).setFlag (R.BRK_CMP_STATUS_ST_PASS n) false).setFlag (R.BRK_CMP_STATUS_ST_FAIL n) false
    (.ok, { s1 with brk := { s1.brk with tests := s1.brk.tests.filter (· != n) ++ [n] } })

/-- The oldest running test ends (R387). -/
def selftestEnd (pass : Bool) (s : State) : State :=
  match s.brk.tests with
  | [] => s
  | n :: t =>
    let s1 := ((s.setFlag (R.BRK_CMP_STATUS_ST_BUSY n) false).setFlag (R.BRK_CMP_STATUS_ST_PASS n) pass).setFlag (R.BRK_CMP_STATUS_ST_FAIL n) (!pass)
    let s2 := putFault hBrk 1 ((List.range 12).any (fun k => s1.flag (R.BRK_CMP_STATUS_ST_FAIL k))) { s1 with brk := { s1.brk with tests := t } }
    brkLog 0x104 n (brkRaise 4 s2)

/-! Commit (R378 to R380, R385, R388, R389, R393, R406). -/

/-- Is a rule source one of R393? -/
def srcOk (c : Nat) : Bool := c != 0x2F && c != 0x3D

/-- Does following the source of a slot come back to it? -/
def slotLoop (s : State) (n : Nat) : Bool :=
  let next := fun (o : Option Nat) => o.bind (fun j => if s.flag (R.BRK_FLT_CFG_SRC j) then some (s.fld (R.BRK_FLT_CFG_SRCSLOT j)) else none)
  (List.range 16).any (fun k => iter next (k + 1) (some n) == some n)

/-- Settings that a commit rejects. -/
def brkBad (s : State) : Bool :=
  (List.range (s.fld R.BRK_ADC_CFG_LENM1 + 1)).any (fun e => decide (37 < s.fld (R.BRK_SEQ_CHAN e))) ||
  (List.range 16).any (slotLoop s) ||
  (List.range 12).any (fun n => s.fld (R.BRK_CMP_CFG_MAJ n) == 3 || s.fld (R.BRK_CMP_CFG_MODE n) == 3) ||
  (List.range 64).any (fun r => s.fld (R.BRK_RULE0_COMB r) == 3 || !srcOk (s.fld (R.BRK_RULE0_SRC_A r)) || !srcOk (s.fld (R.BRK_RULE0_SRC_B r)))

/-- Did a commit change the slot's SRC, N or SHIFT, or the channel of an entry that feeds it? -/
def slotChanged (old new : State) (n : Nat) : Bool :=
  old.fld (R.BRK_FLT_CFG_SRC n) != new.fld (R.BRK_FLT_CFG_SRC n) || old.fld (R.BRK_FLT_CFG_NM1 n) != new.fld (R.BRK_FLT_CFG_NM1 n) ||
  old.fld (R.BRK_FLT_CFG_SHIFT n) != new.fld (R.BRK_FLT_CFG_SHIFT n) ||
  (List.range 32).any (fun e => new.flag (R.BRK_SEQ_SLOT_EN e) && new.fld (R.BRK_SEQ_SLOT e) == n &&
    old.fld (R.BRK_SEQ_CHAN e) != new.fld (R.BRK_SEQ_CHAN e))

/-- What changed settings do. -/
def brkSettled (old new : State) : State :=
  let s1 := if !new.flag R.BRK_ADC_CFG_REFBUF_EN || !old.flag R.BRK_ADC_CFG_REFBUF_EN then new.setFlag R.BRK_STATUS_WARM true else new
  let s2 := resetSlots ((List.range 16).filter (slotChanged old new)) s1
  (List.range 12).foldl (fun s n =>
    if old.fld (R.BRK_CMP_CFG_MODE n) != new.fld (R.BRK_CMP_CFG_MODE n) || old.fld (R.BRK_CMP_CFG_MAJ n) != new.fld (R.BRK_CMP_CFG_MAJ n) ||
        old.fld (R.BRK_CMP_CFG_FILT n) != new.fld (R.BRK_CMP_CFG_FILT n) then cmpRestart n s else s) s2

/-- Brook's commit point. -/
def brkCommit (s : State) : State :=
  match s.snapOf hBrk with
  | none => s
  | some ws =>
    let t := overlay (dropSnap hBrk s) ws
    if brkBad t then brkLogAt s.brk.bt 0x105 0 (alertOn (rejectSnap hBrk 5 0 s)) else brkSettled s t

/-! Rules (R392, R393). -/

/-- Is a term true on the snapshot: source code, set, EN pin? -/
def termTrue (s : State) (en : Bool) (c set : Nat) : Bool :=
  if c < 0x10 then slotAbove s c
  else if c < 0x20 then slotBelow s (c - 0x10)
  else if c < 0x2C then s.flag (R.BRK_CMP_STATUS_FILTERED (c - 0x20))
  else if c = 0x2C then (List.range 16).any (fun n => bitAt set n && slotAbove s n)
  else if c = 0x2D then (List.range 16).any (fun n => bitAt set n && slotBelow s n)
  else if c = 0x2E then (List.range 8).any (fun n => bitAt set n && bitAt s.rails n && bitAt (s.fld R.BRK_RAIL_STATUS_GOOD) n && slotBelow s (goodSlot s n))
  else if c < 0x30 then false
  else if c < 0x38 then tmrExpired s (c - 0x30)
  else if c = 0x38 then s.flag R.BRK_STATUS_PRESENT
  else if c = 0x39 then en
  else if c = 0x3A then s.flag R.BRK_STATUS_DIE_RUN
  else if c = 0x3B then s.flag R.BRK_STATUS_EXTRACT
  else if c = 0x3C then s.flag R.BRK_STATUS_KILLED
  else if c = 0x3F then true
  else if c < 0x40 then false
  else bitAt s.brk.prev (c - 0x40)

/-- Does the condition of a rule hold? -/
def ruleCond (s : State) (en : Bool) (r : Nat) : Bool :=
  let a := termTrue s en (s.fld (R.BRK_RULE0_SRC_A r)) (s.fld (R.BRK_RULE2_SET_A r)) != s.flag (R.BRK_RULE0_INV_A r)
  let b := termTrue s en (s.fld (R.BRK_RULE0_SRC_B r)) (s.fld (R.BRK_RULE2_SET_B r)) != s.flag (R.BRK_RULE0_INV_B r)
  match s.fld (R.BRK_RULE0_COMB r) with
  | 0 => a
  | 1 => a && b
  | 2 => a || b
  | _ => false

/-- A rule's condition and whether the rule is true: enabled, and its condition holds or, with LATCH, has held. -/
def ruleTrue (s : State) (en : Bool) (r : Nat) : Bool × Bool :=
  let c := s.flag (R.BRK_RULE0_EN r) && ruleCond s en r
  (c && s.flag (R.BRK_RULE0_LATCH r), c || (s.flag (R.BRK_RULE0_EN r) && s.flag (R.BRK_RULE0_LATCH r) && bitAt s.brk.held r))

/-- ARG of a LOG action: the first slot output that the rule names, else its comparator, else 0 (R399). -/
def logArg (s : State) (r : Nat) : Nat :=
  let terms := [(s.fld (R.BRK_RULE0_SRC_A r), s.fld (R.BRK_RULE2_SET_A r)), (s.fld (R.BRK_RULE0_SRC_B r), s.fld (R.BRK_RULE2_SET_B r))]
  let slot := fun (t : Nat × Nat) =>
    if t.1 < 0x20 then some (t.1 % 16) else if t.1 = 0x2C ∨ t.1 = 0x2D then (List.range 16).find? (fun n => bitAt t.2 n) else none
  let ts := if s.fld (R.BRK_RULE0_COMB r) = 0 then terms.take 1 else terms
  match ts.findSome? slot with
  | some n => slotOut s n
  | none => match ts.find? (fun t => decide (0x20 ≤ t.1) && decide (t.1 < 0x2C)) with
    | some t => t.1 - 0x20
    | none => 0

/-- Extraction imminent is raised (R93, R395, R417). -/
def extractRaise (s : State) : State :=
  if s.flag R.BRK_STATUS_EXTRACT then s
  else
    let s1 := brkLog 0x101 0 (brkRaise 1 (s.setFlag R.BRK_STATUS_EXTRACT true))
    let s2 := { s1 with brk := { s1.brk with defer := true } }
    hostDown ((List.range 4).foldl (fun s p => portToIdle p true s) s2)

/-- Actions of one rule but those on rails, sequencer and die. -/
def ruleAct (r : Nat) (s : State) : State :=
  let f := fun (l : Loc) => s.flag l
  let s1 := if f (R.BRK_RULE1_T_START r) then
      let n := s.fld (R.BRK_RULE1_TMR r)
      { s with brk := { s.brk with tmrs := Tbl.set s.brk.tmrs n { fin := s.brk.bt + bits (s.wordN (R.BRK_TMR n)) 23 0, expired := false } } }
    else s
  let s2 := if f (R.BRK_RULE1_LOG r) then brkLogAt s.brk.bt r (logArg s r) s1 else s1
  let s3 := if f (R.BRK_RULE1_ALERT r) then alertOn s2 else s2
  let s4 := if f (R.BRK_RULE1_DIE_EVT r) then brkRaise 6 s3 else s3
  let s5 := if f (R.BRK_RULE1_EXTRACT r) then extractRaise s4 else s4
  if f (R.BRK_RULE1_FRESET r) then resetSlots [s.fld (R.BRK_RULE1_FSLOT r)] s5 else s5

/-- The rail enables after a round: direct actions, then at most one rail by the sequencer (R394, R397). -/
def railsNext (s : State) (on off : Nat) (down up : Bool) : Nat :=
  let m := (s.rails ||| on) &&& (0xFF - off)
  let enabled := (List.range 8).filter (fun k => bitAt m (railAt s k))
  if down then
    match enabled.reverse with
    | k :: _ => putBits m (railAt s k) (railAt s k) 0
    | [] => m
  else if up then
    match (List.range 8).find? (fun k => !bitAt m (railAt s k)) with
    | some k =>
      if (List.range k).all (fun j => bitAt (s.fld R.BRK_RAIL_STATUS_GOOD) (railAt s j)) && !bitAt off (railAt s k) then m ||| 2 ^ railAt s k else m
    | none => m
  else m

/-- Actions on rails, sequencer and die of the rules that act (R394, R418). -/
def powerActs (rs : List Nat) (s : State) : State :=
  let any := fun (l : Nat → Loc) => rs.any (fun r => s.flag (l r))
  let mask := fun (l : Nat → Loc) => rs.foldl (fun m r => if s.flag (l r) then m ||| s.fld (R.BRK_RULE1_RAILS r) else m) 0
  if s.flag R.BRK_STATUS_KILLED then s
  else
    let wait := s.brk.defer && s.flag R.BRK_STATUS_EXTRACT
    let down := any R.BRK_RULE1_SEQ_DOWN || s.brk.downDue
    let hold := any R.BRK_RULE1_DIE_HOLD
    let s1 := setRails (railsNext s (mask R.BRK_RULE1_RAIL_ON) (mask R.BRK_RULE1_RAIL_OFF) (down && !wait) (any R.BRK_RULE1_SEQ_UP && !down)) s
    let s2 := { s1 with brk := { s1.brk with downDue := down && wait, holdDue := s1.brk.holdDue || (hold && wait) } }
    if hold then (if wait then s2 else dieHold s2)
    else if any R.BRK_RULE1_DIE_GO then s2.setFlag R.BRK_STATUS_DIE_GO true else s2

/-- The 64 rules on one snapshot, and their actions. -/
def runRules (en : Bool) (s : State) : State :=
  let ev := (List.range 64).map (fun r => (r, ruleTrue s en r))
  let held := ev.foldl (fun m e => if e.2.1 then m ||| 2 ^ e.1 else m) s.brk.held
  let now := ev.foldl (fun m e => if e.2.2 then m ||| 2 ^ e.1 else m) 0
  let acts := (ev.filter (fun e => e.2.2 && !(s.flag (R.BRK_RULE0_EDGE e.1) && bitAt s.brk.prev e.1))).map (fun e => e.1)
  let s1 := acts.foldl (fun s r => ruleAct r s) s
  let s2 := powerActs acts s1
  { s2 with brk := { s2.brk with held := held, prev := now } }

/-! The status block, whose layout is the model's (log entry 20): BT at 0x00, BRK_STATUS at 0x08, the word of slot n at 0x10 + 4n as BRK_FLTn_OUT with SAT in bit 30. -/
def statusBlock (s : State) : State :=
  let slots := (List.range 16).foldl (fun l n =>
    l ++ leBytes 4 (s.wordN (R.BRK_FLT_OUT n) + b2n (s.flag (R.BRK_FLT_SAT_SAT n)) * 2 ^ 30)) []
  let bs := leBytes 8 s.brk.bt ++ leBytes 4 (s.wordN R.BRK_STATUS) ++ leBytes 4 0 ++ slots ++ List.replicate 176 0
  { s with rep := { s.rep with xram := xramPut s.rep.xram 0 bs } }

/-- A round (R378); `mailbox` serves the request mailbox (R403). -/
def brkRound (mailbox : State → State) (en present : Bool) (s : State) : State :=
  if !s.brk.on then s
  else
    let s1 := brkCommit (chainInputs (trimStep s))
    let s2 := goodUpdate ((s1.setFlag R.BRK_STATUS_PRESENT present).setPair R.BRK_BT (s1.brk.bt % 2 ^ 48))
    let s3 := statusBlock (mailbox (runRules en s2))
    { s3 with brk := { s3.brk with bt := (s3.brk.bt + 10) % 2 ^ 48 } }

/-! Standby power and resets (R377, R379). -/

/-- Brook's settings return to factory values, its log, exchange RAM, queue and filters are wiped; power, die permission and KILL latch stay. -/
def brkWipe (s : State) : State :=
  let keep := (s.wordN R.BRK_STATUS, s.wordN R.BRK_RAIL_STATUS, (List.range 12).map (fun n => s.wordN (R.BRK_CMP_STATUS n)))
  let inBrk := fun (o : Nat) => decide (hBrk ≤ o) && decide (o < hBrk + 0x1000)
  let killed := s.flag R.BRK_STATUS_KILLED
  let warm := s.flag R.BRK_STATUS_WARM || !s.flag R.BRK_ADC_CFG_REFBUF_EN
  let s1 : State :=
    { s with regs := s.regs.filter (fun e => !inBrk e.1), shadow := s.shadow.filter (fun e => !inBrk e.1)
             snaps := s.snaps.filter (fun x => x.hdr != hBrk)
             rep := { s.rep with pend := Tbl.del s.rep.pend hBrk, cmd := Tbl.del s.rep.cmd hBrk, xram := [], notices := 0
                                 flt := Tbl.upd 0 s.rep.flt hBrk (fun w => if killed then w &&& 1 else 0) }
             brk := { s.brk with adcq := [], adcSeq := 0, lossDue := false, trimTo := none, slots := [], log := [], mbSeq := 0, pos := 0 } }
  let s2 := ((keep.2.2.zip (List.range 12)).foldl (fun s e => s.setWord (R.BRK_CMP_STATUS e.2) e.1) s1).setWord R.BRK_RAIL_STATUS keep.2.1
  let s3 := (s2.setWord R.BRK_STATUS keep.1).setFlag R.BRK_STATUS_WARM warm
  let s4 := (s3.setWord R.BRK_ADC_TRIM (Config.brkTrim % 2 ^ 24)).setPair R.BRK_BT (s.pair R.BRK_BT)
  (List.range 12).foldl (fun s n => cmpRestart n s) (resetSlots (List.range 16) s4)

/-- Standby power comes up. -/
def brkPowerUp (s : State) : State :=
  if s.brk.on then s
  else brkWipe ({ s with brk := { Brk.init with on := true }, regs := s.regs.filter (fun e => !(decide (hBrk ≤ e.1) && decide (e.1 < hBrk + 0x1000))) })

/-- Standby power is lost: Brook stops and everything it held is gone. -/
def brkPowerLoss (s : State) : State :=
  { s with brk := Brk.init
           regs := s.regs.filter (fun e => !(decide (hBrk ≤ e.1) && decide (e.1 < hBrk + 0x1000)))
           shadow := s.shadow.filter (fun e => !(decide (hBrk ≤ e.1) && decide (e.1 < hBrk + 0x1000)))
           snaps := s.snaps.filter (fun x => x.hdr != hBrk)
           rep := { s.rep with pend := Tbl.del s.rep.pend hBrk, cmd := Tbl.del s.rep.cmd hBrk, flt := Tbl.del s.rep.flt hBrk, xram := [], notices := 0 } }

/-! Commands of the unit (R404). -/

def resetFltCmd (s : State) : Code × State :=
  let m := bits (s.wordN R.BRK_CMD_ARG) 31 16
  if m = 0 then refuse .range s else (.ok, resetSlots ((List.range 16).filter (fun n => bitAt m n)) s)

def clrLatchCmd (s : State) : Code × State :=
  let r := bits (s.wordN R.BRK_CMD_ARG) 5 0
  if !s.flag (R.BRK_RULE0_LATCH r) then refuse .state s
  else (.ok, { s with brk := { s.brk with held := putBits s.brk.held r r 0 } })

/-! SPI target (R279, R400, R401). -/

def xramWord (s : State) (a : Nat) : Nat := leNat ((upFrom a 4).map (Tbl.get 0 s.rep.xram))
def setXramWord (a v : Nat) (s : State) : State := { s with rep := { s.rep with xram := xramPut s.rep.xram a (leBytes 4 v) } }

/-- Brook's access was the later of two that collided, or its write met another (R279, R401). -/
def xcol (s : State) : State :=
  brkRaise 7 ((s.setFld R.BRK_XCOL_COUNT (min 65535 (s.fld R.BRK_XCOL_COUNT + 1))).setW1c R.BRK_XCOL 1)

/-- What a collision leaves beside the words of the transfer. -/
def spiCollide (col : Collision) (wr : Bool) (s : State) : State :=
  match col with
  | .none => s
  | .spiLater _ w =>
    let s1 := (({ s with brk := { s.brk with col := true } }).emit (.pin "XBUSY" 1)).emit (.pin "XBUSY" 0)
    if wr && w then xcol s1 else s1
  | .brookLater _ _ => xcol s

/-- The word of a transfer that a Brook write meets. -/
def brkWrote : Collision → Option Nat
  | .none => none
  | .spiLater i w => if w then some i else none
  | .brookLater i w => if w then some i else none

/-- The word of a transfer that a Brook read meets and finds written: its read is the earlier, so Brook does not repeat it (R401). -/
def brkReads : Collision → Option Nat
  | .spiLater i false => some i
  | _ => none

/-- Byte address of word `i` of a transfer: it wraps at 16 KiB. -/
def spiAddr (addr i : Nat) : Nat := (addr / 4 + i) % 4096 * 4

/-- READ: a word that Brook writes in the same cycle is undefined. -/
def spiReadWords (addr n : Nat) (col : Collision) (s : State) : State :=
  if !s.brk.on then s
  else
    let ws := (List.range n).map (fun i => xramWord s (spiAddr addr i))
    match brkWrote col with
    | some i =>
      let x := s.takeFree (2 ^ 32)
      spiCollide col false (x.2.emit (.spi (ws.set i x.1)))
    | none => spiCollide col false (s.emit (.spi ws))

/-- The BCLK cycle now: 64 TCLK cycles. -/
def State.bclk (s : State) : Nat := s.tclk / 64

/-- WRITE: the SPI write is stored; what Brook reads of the colliding word in this cycle is undefined. -/
def spiWriteWords (addr : Nat) (ws : List Nat) (col : Collision) (s : State) : State :=
  if !s.brk.on then s
  else
    let s1 := (ws.zip (List.range ws.length)).foldl (fun s e => setXramWord (spiAddr addr e.2) e.1 s) s
    spiCollide col true
      (match brkReads col with
       | some i => { s1 with brk := { s1.brk with hit := some (s1.bclk, spiAddr addr i) } }
       | none => s1)

/-- The exchange RAM as Brook reads it now: a word that SPI writes in the same BCLK cycle reads as a free value (R279); the memory holds what SPI wrote. -/
def brkView (s : State) : Tbl Byte × State :=
  match s.brk.hit with
  | some (t, a) =>
    if t = s.bclk then
      let x := s.takeFree (2 ^ 32)
      (xramPut s.rep.xram a (leBytes 4 x.1), x.2)
    else (s.rep.xram, s)
  | none => (s.rep.xram, s)

/-- RDSR: COL, ALERT, DIE_RUN, MB_BUSY; it clears COL. -/
def spiStatus (s : State) : State :=
  if !s.brk.on then s
  else
    let busy := xramWord s 0x100 != xramWord s 0x180
    ({ s with brk := { s.brk with col := false } }).emit
      (.spi [b2n s.brk.col + 2 * b2n s.brk.alert + 4 * b2n (s.flag R.BRK_STATUS_DIE_RUN) + 8 * b2n busy])

/-! Meanings. -/

/-- ADC_CONVERSION (R380 to R383, R388): `code` is the code after the trims. -/
def execAdcConversion (code : Nat) (s : State) : Host.Outcome State Fault Refusal := .next (adcConvert code s)

/-- ADC_QPOP (R382). -/
def execAdcQpop (path : Path) (s : State) : Host.Outcome State Fault Refusal :=
  .next ((adcPop s).2.emit (.regRead path R.BRK_ADC_QPOP (adcPop s).1))

/-- ADC_WARMUP_END (R381). -/
def execAdcWarmupEnd (s : State) : Host.Outcome State Fault Refusal :=
  .next (if s.brk.on && s.flag R.BRK_ADC_CFG_REFBUF_EN then s.setFlag R.BRK_STATUS_WARM false else s)

/-- KILL (R386): the raw output of a comparator goes high. -/
def execKill (n : Fin 12) (s : State) : Host.Outcome State Fault Refusal :=
  .next (if s.brk.on && killArmed s n then brkKill n (s.setFlag (R.BRK_CMP_STATUS_RAW n) true) else s)

/-- EXTRACTION_IMMINENT (R395): PRSNT_N was sampled high three times. -/
def execExtractionImminent (s : State) : Host.Outcome State Fault Refusal :=
  .next (if s.brk.on then extractRaise (s.setFlag R.BRK_STATUS_PRESENT false) else s)

/-- EXTRACTION_CLEAR (R395). -/
def execExtractionClear (s : State) : Host.Outcome State Fault Refusal :=
  .next (if s.brk.on then (s.setFlag R.BRK_STATUS_EXTRACT false).setFlag R.BRK_STATUS_PRESENT true else s)

/-- BROOK_TIMER_EXPIRE (R394). -/
def execBrookTimerExpire (n : Fin 8) (s : State) : Host.Outcome State Fault Refusal :=
  .next (match Tbl.find s.brk.tmrs n with
    | some t => { s with brk := { s.brk with tmrs := Tbl.set s.brk.tmrs n { t with expired := true } } }
    | none => s)

/-- BRK_CAL (R383, R404). -/
def execBrkCal (s : State) : Host.Outcome State Fault Refusal := .next (runCmd hBrk 1 brkCalCmd s)

/-- BRK_CAL_DUE (R383, R440). -/
def execBrkCalDue (s : State) : Host.Outcome State Fault Refusal :=
  .next (if s.brk.on && s.wordN R.BRK_CAL_PERIOD != 0 then adcCalStart s else s)

/-- ADC_CAL_END (R384). -/
def execAdcCalEnd (offset gain : Int) (s : State) : Host.Outcome State Fault Refusal := .next (adcCalFinish offset gain s)

/-- SELFTEST (R387, R404). -/
def execSelftest (s : State) : Host.Outcome State Fault Refusal := .next (runCmd hBrk 2 selftestCmd s)

/-- SELFTEST_DONE (R387). -/
def execSelftestDone (pass : Bool) (s : State) : Host.Outcome State Fault Refusal := .next (selftestEnd pass s)

/-- RESET_FLT (R389, R404). -/
def execResetFlt (s : State) : Host.Outcome State Fault Refusal := .next (runCmd hBrk 3 resetFltCmd s)

/-- CLR_LATCH (R404). -/
def execClrLatch (s : State) : Host.Outcome State Fault Refusal := .next (runCmd hBrk 4 clrLatchCmd s)

/-- COMPARATOR_SAMPLE (R385, R386). -/
def execComparatorSample (n : Fin 12) (raw : Bool) (s : State) : Host.Outcome State Fault Refusal := .next (cmpSample n raw s)

/-- DEFERRED_DIE_HOLD (R418). -/
def execDeferredDieHold (s : State) : Host.Outcome State Fault Refusal :=
  .next (if !s.brk.defer then s
    else
      let s1 := { s with brk := { s.brk with defer := false, holdDue := false } }
      if s.brk.holdDue then dieHold s1 else s1)

/-- SPI_READ (R400, R401). -/
def execSpiRead (addr : BitVec 16) (words : Nat) (col : Collision) (s : State) : Host.Outcome State Fault Refusal :=
  .next (spiReadWords addr.toNat words col s)

/-- SPI_WRITE (R400, R401). -/
def execSpiWrite (addr : BitVec 16) (words : List Word) (col : Collision) (s : State) : Host.Outcome State Fault Refusal :=
  .next (spiWriteWords addr.toNat (words.map BitVec.toNat) col s)

/-- SPI_RDSR (R400). -/
def execSpiRdsr (s : State) : Host.Outcome State Fault Refusal := .next (spiStatus s)

/-- STANDBY_POWER_UP (R377, R379, R398). -/
def execStandbyPowerUp (s : State) : Host.Outcome State Fault Refusal := .next (brkPowerUp s)

end Sys2Proof.Machine
end

