-- ==== Sys2Proof/Machine/Crypto.lean ====
section
/-! DEFINITION. The published algorithms that the FJV names: SHA-256 and SHA-384 (FIPS 180-4), HMAC (FIPS 198-1; R352), and the check of an ECDSA signature
on P-384 (FIPS 186-4; R431). -/

namespace Sys2Proof.Machine

/-! SHA-2. -/

/-- The first eighty primes. -/
def primes80 : List Nat :=
  [2, 3, 5, 7, 11, 13, 17, 19, 23, 29, 31, 37, 41, 43, 47, 53, 59, 61, 67, 71, 73, 79, 83, 89, 97, 101, 103, 107, 109, 113, 127, 131,
   137, 139, 149, 151, 157, 163, 167, 173, 179, 181, 191, 193, 197, 199, 211, 223, 227, 229, 233, 239, 241, 251, 257, 263, 269, 271, 277, 281,
   283, 293, 307, 311, 313, 317, 331, 337, 347, 349, 353, 359, 367, 373, 379, 383, 389, 397, 401, 409]

/-- `⌊n^(1/k)⌋`, for roots below 2^70. -/
def kthRoot (k n : Nat) : Nat := ((List.range 70).reverse).foldl (fun r b => if (r + 2 ^ b) ^ k ≤ n then r + 2 ^ b else r) 0

/-- The first 64 bits of the fractional part of the k-th root of a prime. -/
def rootFrac (k p : Nat) : Nat := kthRoot k (p * 2 ^ (64 * k)) % 2 ^ 64

/-- The two hash functions' sizes and rotations: word width, block bytes, bytes of the length, rotations of Σ0, Σ1, σ0 and σ1 (the last of each σ is a shift). -/
structure Sha where
  w : Nat
  block : Nat
  len : Nat
  s0 : Nat × Nat × Nat
  s1 : Nat × Nat × Nat
  m0 : Nat × Nat × Nat
  m1 : Nat × Nat × Nat

def sha2w32 : Sha := { w := 32, block := 64, len := 8, s0 := (2, 13, 22), s1 := (6, 11, 25), m0 := (7, 18, 3), m1 := (17, 19, 10) }
def sha2w64 : Sha := { w := 64, block := 128, len := 16, s0 := (28, 34, 39), s1 := (14, 18, 41), m0 := (1, 8, 7), m1 := (19, 61, 6) }

def Sha.big (h : Sha) (r : Nat × Nat × Nat) (x : BitVec h.w) : BitVec h.w := x.rotateRight r.1 ^^^ x.rotateRight r.2.1 ^^^ x.rotateRight r.2.2
def Sha.small (h : Sha) (r : Nat × Nat × Nat) (x : BitVec h.w) : BitVec h.w := x.rotateRight r.1 ^^^ x.rotateRight r.2.1 ^^^ (x >>> r.2.2)

/-- The message schedule, newest word first, with `n` more words. -/
def Sha.schedule (h : Sha) : Nat → List (BitVec h.w) → List (BitVec h.w)
  | 0, l => l
  | n + 1, l =>
    let g (i : Nat) : BitVec h.w := (l[i]?).getD 0
    Sha.schedule h n ((h.small h.m1 (g 1) + g 6 + h.small h.m0 (g 14) + g 15) :: l)

/-- One round on the working variables a to h. -/
def Sha.round (h : Sha) (v : List (BitVec h.w)) (kw : BitVec h.w) : List (BitVec h.w) :=
  match v with
  | [a, b, c, d, e, f, g, x] =>
    let t1 := x + h.big h.s1 e + ((e &&& f) ^^^ (~~~e &&& g)) + kw
    let t2 := h.big h.s0 a + ((a &&& b) ^^^ (a &&& c) ^^^ (b &&& c))
    [t1 + t2, a, b, c, d + t1, e, f, g]
  | _ => v

/-- The round constants. -/
def Sha.ks (h : Sha) : List (BitVec h.w) :=
  (if h.w = 32 then primes80.take 64 else primes80).map (fun p => BitVec.ofNat h.w (rootFrac 3 p / 2 ^ (64 - h.w)))

/-- The hash value after one more block. -/
def Sha.compress (h : Sha) (ks : List (BitVec h.w)) (v : List (BitVec h.w)) (blk : List Byte) : List (BitVec h.w) :=
  let ws0 := (List.range 16).map (fun i => BitVec.ofNat h.w (beNat ((blk.drop (i * (h.w / 8))).take (h.w / 8))))
  let ws := (h.schedule (ks.length - 16) ws0.reverse).reverse
  let out := ((ks.zip ws).map (fun e => e.1 + e.2)).foldl h.round v
  (v.zip out).map (fun e => e.1 + e.2)

/-- Work through `n` blocks. -/
def Sha.blocks (h : Sha) (ks : List (BitVec h.w)) : Nat → List Byte → List (BitVec h.w) → List (BitVec h.w)
  | 0, _, v => v
  | n + 1, m, v => Sha.blocks h ks n (m.drop h.block) (h.compress ks v (m.take h.block))

/-- The digest of a message from initial hash values. -/
def Sha.digest (h : Sha) (h0 : List Nat) (m : List Byte) : List Byte :=
  let z := (2 * h.block - (m.length + 1 + h.len) % h.block) % h.block
  let p := m ++ [0x80] ++ List.replicate z 0 ++ beBytes h.len (8 * m.length)
  let v := h.blocks h.ks (p.length / h.block) p (h0.map (fun x => BitVec.ofNat h.w (x / 2 ^ (64 - h.w))))
  (v.map (fun x => beBytes (h.w / 8) x.toNat)).flatten

def sha256 (m : List Byte) : List Byte := sha2w32.digest ((primes80.take 8).map (rootFrac 2)) m
def sha384 (m : List Byte) : List Byte := (sha2w64.digest (((primes80.drop 8).take 8).map (rootFrac 2)) m).take 48

/-- HMAC-SHA-256. -/
def hmacSha256 (key m : List Byte) : List Byte :=
  let k := (if 64 < key.length then sha256 key else key)
  let k0 := k ++ List.replicate (64 - k.length) 0
  sha256 (k0.map (· ^^^ 0x5C) ++ sha256 (k0.map (· ^^^ 0x36) ++ m))

/-! ECDSA on P-384. -/

def p384p : Nat := 2 ^ 384 - 2 ^ 128 - 2 ^ 96 + 2 ^ 32 - 1
def p384b : Nat := 0xb3312fa7e23ee7e4988e056be3f82d19181d9c6efe8141120314088f5013875ac656398d8a2ed19d2a85c8edd3ec2aef
def p384gx : Nat := 0xaa87ca22be8b05378eb1c71ef320ad746e1d3b628ba79b9859f741e082542a385502f25dbf55296c3a545e3872760ab7
def p384gy : Nat := 0x3617de4a96262c6f5d9e98bf9292dc29f8f41dbd289a147ce9da3113b5f0b8c00a60b1ce1d7e819d7a431d7c90ea0e5f
def p384n : Nat := 0xffffffffffffffffffffffffffffffffffffffffffffffffc7634d81f4372ddf581a0db248b0a77aecec196accc52973

/-- `x^e mod m` over `k` bits of the exponent. -/
def powMod (m : Nat) : Nat → Nat → Nat → Nat
  | 0, _, _ => 1
  | k + 1, x, e => let h := powMod m k (x * x % m) (e / 2); if e % 2 = 1 then h * x % m else h

/-- A point in Jacobian coordinates; Z = 0 is the point at infinity. -/
structure JPt where
  x : Nat
  y : Nat
  z : Nat
  deriving DecidableEq, Repr

/-- A difference mod p. -/
def subP (a b : Nat) : Nat := (a + p384p - b % p384p) % p384p

def JPt.dbl (a : JPt) : JPt :=
  let p := p384p
  let d := a.z * a.z % p
  let g := a.y * a.y % p
  let b := a.x * g % p
  let al := 3 * (subP a.x d * (a.x + d)) % p
  let x3 := subP (al * al) (8 * b)
  let z3 := subP (subP ((a.y + a.z) * (a.y + a.z)) g) d
  { x := x3, y := subP (al * subP (4 * b) x3) (8 * (g * g % p)), z := z3 }

def JPt.add (a b : JPt) : JPt :=
  let p := p384p
  if a.z % p = 0 then b else if b.z % p = 0 then a
  else
    let zz1 := a.z * a.z % p
    let zz2 := b.z * b.z % p
    let u1 := a.x * zz2 % p
    let u2 := b.x * zz1 % p
    let s1 := a.y * b.z % p * zz2 % p
    let s2 := b.y * a.z % p * zz1 % p
    if u1 = u2 then (if s1 = s2 then a.dbl else { x := 1, y := 1, z := 0 })
    else
      let h := subP u2 u1
      let r := subP s2 s1
      let hh := h * h % p
      let hhh := h * hh % p
      let v := u1 * hh % p
      let x3 := subP (subP (r * r) hhh) (2 * v)
      { x := x3, y := subP (r * subP v x3) (s1 * hhh), z := a.z * b.z % p * h % p }

/-- `u1 G + u2 Q` over `k` bits from the top. -/
def dblAdd (g q : JPt) (u1 u2 : Nat) : Nat → JPt
  | 0 => { x := 1, y := 1, z := 0 }
  | k + 1 =>
    let t := (dblAdd g q (u1 / 2) (u2 / 2) k).dbl
    let t1 := if u1 % 2 = 1 then t.add g else t
    if u2 % 2 = 1 then t1.add q else t1

/-- Does the signature (r, s) of a 384-bit digest verify under the public key 0x04, X, Y? -/
def ecdsaOk (pub : List Byte) (digest : List Byte) (r s : Nat) : Bool :=
  let n := p384n
  let x := beNat ((pub.drop 1).take 48)
  let y := beNat ((pub.drop 49).take 48)
  let onCurve := decide (x < p384p) && decide (y < p384p) && (y * y % p384p == (subP (x * x % p384p * x) (3 * x) + p384b) % p384p)
  if pub.head? == some 4 && pub.length == 97 && onCurve && decide (0 < r) && decide (r < n) && decide (0 < s) && decide (s < n) then
    let w := powMod n 384 s (n - 2)
    let a := dblAdd { x := p384gx, y := p384gy, z := 1 } { x := x, y := y, z := 1 } (beNat digest * w % n) (r * w % n) 384
    let zz := a.z * a.z % p384p
    a.z % p384p != 0 && (a.x % p384p == r * zz % p384p || (decide (r + n < p384p) && a.x % p384p == (r + n) * zz % p384p))
  else false

end Sys2Proof.Machine
end

