-- ==== Sys2Proof/Machine/ImgTable.lean ====
section
/-! DEFINITION. The fields whose reset value is "img" (R6, R438): the fields that a REGS or BROOK record may set (R430, R432), from the
Reset columns of the register tables of spec/02 to spec/18 and of R474 (EVENT_MASK).  A row gives base offset, the strides and counts of its indices and the
mask of such bits. -/

namespace Sys2Proof.Machine

/-- Words with image fields, part 1. -/
def imgRowsA : List (Nat × List (Nat × Nat) × Nat) := [
  (0x00004040, [], 0xFFFFFF),
  (0x00100040, [], 0x1F),
  (0x00100060, [(0x4, 2)], 0x7FFFFF),
  (0x00100068, [], 0xFFF81F),
  (0x0010006C, [], 0xFFFFFF),
  (0x00100080, [], 0xFFF0F),
  (0x00200100, [(0x40, 8)], 0xFFF0F7),
  (0x00200104, [(0x40, 8)], 0xFFFF),
  (0x00200800, [(0x20, 4)], 0xFFFF0003),
  (0x00401040, [(0x1000, 4)], 0x3FF7F),
  (0x00401058, [(0x1000, 4)], 0xFFFFFFFF),
  (0x00810040, [(0x10000, 3), (0x1000, 4)], 0x3FCFF1),
  (0x00810044, [(0x10000, 3), (0x1000, 4)], 0xFFFFFFFF),
  (0x00810048, [(0x10000, 3), (0x1000, 4)], 0xCFFFFFF),
  (0x0081004C, [(0x1000, 4)], 0x1FFFF),
  (0x0082004C, [(0x1000, 4)], 0xFFFFFF),
  (0x0083004C, [(0x1000, 4)], 0xFFFFFF),
  (0x00820050, [(0x1000, 4)], 0xF07),
  (0x00820054, [(0x1000, 4)], 0xFFFFFFFF),
  (0x00820058, [(0x1000, 4)], 0xFFFFFFFF),
  (0x0082005C, [(0x1000, 4)], 0x7FF07FF),
  (0x00830050, [(0x1000, 4)], 0xFFFFFFFF),
  (0x00830054, [(0x1000, 4)], 0xFF),
  (0x00830058, [(0x1000, 4)], 0xFFFFFFFF),
  (0x0083005C, [(0x1000, 4)], 0xFFFFFFFF),
  (0x00C10100, [(0x1000, 4), (0x40, 4)], 0x7F1F0F0F),
  (0x00C10104, [(0x1000, 4), (0x40, 4)], 0xFFFF),
  (0x00C10108, [(0x1000, 4), (0x40, 4)], 0xFFFFFFFF),
  (0x00C1010C, [(0x1000, 4), (0x40, 4)], 0x3FFFFFF),
  (0x00C10110, [(0x1000, 4), (0x40, 4)], 0xFFFFFF)]

/-- Words with image fields, part 2. -/
def imgRowsB : List (Nat × List (Nat × Nat) × Nat) := [
  (0x00C10114, [(0x1000, 4), (0x40, 4)], 0xF),
  (0x00C20040, [(0x1000, 4)], 0x7FF07FF),
  (0x00C20100, [(0x1000, 4), (0x20, 8)], 0x1FFF),
  (0x00C20104, [(0x1000, 4), (0x20, 8)], 0xFFFFFFFF),
  (0x00C20108, [(0x1000, 4), (0x20, 8)], 0xFFFFFFFF),
  (0x00C2010C, [(0x1000, 4), (0x20, 8)], 0xFFFFFF),
  (0x00C20400, [(0x1000, 4)], 0xF1D),
  (0x00C20404, [(0x1000, 4)], 0xFFFFFFF),
  (0x00C20408, [(0x1000, 4)], 0xFFFFFFFF),
  (0x00C2040C, [(0x1000, 4)], 0xFFFF),
  (0x00C20410, [(0x1000, 4)], 0xFFFFFFFF),
  (0x00C20414, [(0x1000, 4)], 0xFF),
  (0x00C20418, [(0x1000, 4)], 0xFFFFFFFF),
  (0x00C30040, [(0x4, 4)], 0xF3),
  (0x01100000, [(0x40, 16384)], 0x79FFFF),
  (0x01100004, [(0x40, 16384)], 0xFFFFFFFF),
  (0x01100008, [(0x40, 16384)], 0x73FFF),
  (0x0110000C, [(0x40, 16384)], 0xFFFFFFFF),
  (0x01100010, [(0x40, 16384)], 0xFFFF),
  (0x01100014, [(0x40, 16384)], 0xFFFFFFFF),
  (0x01100018, [(0x40, 16384)], 0xFFFFFFFF),
  (0x0110001C, [(0x40, 16384)], 0xFFFF),
  (0x01100020, [(0x40, 16384)], 0xFF),
  (0x01100024, [(0x40, 16384)], 0xFFFF),
  (0x01020040, [], 0x7FF07FF),
  (0x01020044, [], 0x7FF07FF),
  (0x01020048, [], 0xFFFFFFFF),
  (0x0102004C, [], 0xFF),
  (0x01020050, [], 0xFFFFFFFF),
  (0x01020054, [], 0xFFFFFFFF)]

/-- Words with image fields, part 3. -/
def imgRowsC : List (Nat × List (Nat × Nat) × Nat) := [
  (0x01020058, [], 0x1FFF),
  (0x01410040, [(0x1000, 16)], 0x1F),
  (0x01410050, [(0x1000, 16), (0x4, 2)], 0xFFFFFFFF),
  (0x01410058, [(0x1000, 16), (0x8, 2)], 0xFFFFFFFF),
  (0x0141005C, [(0x1000, 16), (0x8, 2)], 0xFFFF),
  (0x01410068, [(0x1000, 16), (0x4, 2)], 0x3FFFFFFF),
  (0x01410080, [(0x1000, 16), (0x10, 4)], 0xFFFFFFFF),
  (0x01410084, [(0x1000, 16), (0x10, 4)], 0xFF),
  (0x01410088, [(0x1000, 16), (0x10, 4)], 0xFFFFFFFF),
  (0x0141008C, [(0x1000, 16), (0x10, 4)], 0xFF),
  (0x01410400, [(0x1000, 16), (0x20, 16), (0x8, 4)], 0x1FFFFFF),
  (0x01410404, [(0x1000, 16), (0x20, 16), (0x8, 4)], 0x37FFF),
  (0x01430040, [(0x1000, 4), (0x4, 2)], 0x13FFFF),
  (0x01430100, [(0x1000, 4), (0x10, 16)], 0xFFFF0003),
  (0x01430104, [(0x1000, 4), (0x10, 16)], 0x7FFF),
  (0x01430108, [(0x1000, 4), (0x10, 16)], 0x7FFFF),
  (0x0143010C, [(0x1000, 4), (0x10, 16)], 0x7FFF),
  (0x01420040, [(0x1000, 4)], 0x1),
  (0x01420044, [(0x1000, 4)], 0xFFFFFFFF),
  (0x01420048, [(0x1000, 4)], 0xFFFFFFFF),
  (0x0142004C, [(0x1000, 4)], 0xFFFFFFFF),
  (0x01420050, [(0x1000, 4)], 0xFF),
  (0x01420054, [(0x1000, 4)], 0xFFFFFFFF),
  (0x01420058, [(0x1000, 4)], 0x7FF07FF),
  (0x01420064, [(0x1000, 4)], 0xFFFFFFFF),
  (0x01440040, [], 0xFFFFFFFF),
  (0x01440044, [], 0xFF),
  (0x01440048, [], 0xFFFFFFFF),
  (0x01810044, [], 0xFFFF0FF3),
  (0x01810048, [], 0xFFFF)]

/-- Words with image fields, part 4. -/
def imgRowsD : List (Nat × List (Nat × Nat) × Nat) := [
  (0x0181004C, [], 0xFFFF),
  (0x01810080, [(0x4, 4)], 0xFFFFFFFF),
  (0x01810090, [(0x4, 4)], 0xFFFFFFFF),
  (0x018100A0, [], 0xFFFFFFFF),
  (0x018100A4, [], 0xFFFFFFFF),
  (0x01810404, [(0x10, 64)], 0xFFFFFFFF),
  (0x01810408, [(0x10, 64)], 0x1FFF002F),
  (0x01820048, [], 0xFFFF),
  (0x01821000, [(0x4, 1280)], 0x31FFF),
  (0x01A10040, [(0x1000, 64)], 0x7),
  (0x01A10048, [(0x1000, 64)], 0xFFF),
  (0x01A1004C, [(0x1000, 64)], 0xFFF),
  (0x01A10050, [(0x1000, 64)], 0xFFF),
  (0x01A10054, [(0x1000, 64)], 0xFFF),
  (0x01A10058, [(0x1000, 64)], 0x3F3F3F3F),
  (0x01C10060, [(0x8, 16)], 0xFFFFF001),
  (0x01C10064, [(0x8, 16)], 0xFF),
  (0x01C10100, [(0x4, 64)], 0xF),
  (0x01C20040, [(0x1000, 32)], 0x10FF3),
  (0x01D10040, [(0x1000, 4)], 0x3F),
  (0x01D10048, [(0x1000, 4)], 0xFFFFFFFF),
  (0x01D1004C, [(0x1000, 4)], 0xFFFF),
  (0x01D10050, [(0x1000, 4)], 0xFFFFFFFF),
  (0x01D10054, [(0x1000, 4), (0x4, 4)], 0xFFFFFFFF),
  (0x01D20044, [], 0xFFFFFFFF),
  (0x01D20048, [], 0xFF),
  (0x01D2004C, [], 0xFFFFFFFF),
  (0x01D20050, [], 0x7FF07FF),
  (0x01D21000, [(0x40, 64)], 0xFFF01),
  (0x01D21004, [(0x40, 64)], 0x1FFF03)]

/-- Words with image fields, part 5. -/
def imgRowsE : List (Nat × List (Nat × Nat) × Nat) := [
  (0x01D21008, [(0x40, 64)], 0x3F),
  (0x01D2100C, [(0x40, 64)], 0x3FFF),
  (0x01D21010, [(0x40, 64)], 0xFFFFFFC0),
  (0x01D21014, [(0x40, 64)], 0xFF),
  (0x01D22000, [(0x40, 64)], 0xFFFFFFFF),
  (0x01D22004, [(0x40, 64)], 0x3FFFFFFF),
  (0x01D22008, [(0x40, 64), (0x4, 4)], 0xFFFFFFFF),
  (0x01D22018, [(0x40, 64)], 0xFFFFFFFF),
  (0x01D2201C, [(0x40, 64)], 0xFF3F),
  (0x01D23000, [(0x40, 64)], 0x3F03F777),
  (0x01D23004, [(0x40, 64)], 0xFFFFFF),
  (0x01D23008, [(0x40, 64)], 0xFFFFFFFF),
  (0x01D2300C, [(0x40, 64)], 0xFFFFFFFF),
  (0x01D23010, [(0x40, 64)], 0xFFFFFFFF),
  (0x01D23014, [(0x40, 64)], 0x1F1F),
  (0x01D23018, [(0x40, 64)], 0xFFFFFF),
  (0x01D40040, [], 0x1FFF37),
  (0x01D40048, [], 0xFFFFFFFF),
  (0x01D4004C, [], 0xFFFFFFFF),
  (0x01D40058, [], 0xFFFFFFFF),
  (0x01D4005C, [], 0xFFFFFFFF),
  (0x01D50040, [], 0xFFFF0001),
  (0x01E10040, [], 0x77FF1F),
  (0x01E10044, [], 0x3FF1FFF),
  (0x01E10048, [], 0x3FF03FF),
  (0x01E1004C, [], 0x3FF0FFF),
  (0x01E10050, [], 0x3FF03FF),
  (0x01E10054, [], 0xFFFFFFC0),
  (0x01E10058, [], 0xFF),
  (0x01E1005C, [], 0x3FFFF)]

/-- Words with image fields, part 6. -/
def imgRowsF : List (Nat × List (Nat × Nat) × Nat) := [
  (0x01E10064, [], 0xFFF0FFF),
  (0x01E10068, [], 0xFFF0FFF),
  (0x01E1006C, [], 0xFFFFFF),
  (0x01E10070, [], 0x3FF03FF),
  (0x01E20040, [(0x1000, 2)], 0x37),
  (0x01E80044, [], 0x1F01),
  (0x01E80050, [], 0xFFFFFFFF),
  (0x01E80080, [(0x4, 8)], 0xFFFFFF),
  (0x01E800A0, [], 0xFFFFFF),
  (0x01E800A4, [], 0xFFFFFFFF),
  (0x01E80100, [(0x4, 32)], 0x3F3F),
  (0x01E80200, [(0x4, 12)], 0xFFFF),
  (0x01E80300, [(0x10, 16)], 0xFFFFF),
  (0x01E80304, [(0x10, 16)], 0xFFFFFFFF),
  (0x01E80400, [(0x10, 64)], 0xFFFFF800),
  (0x01E80404, [(0x10, 64)], 0x7FFFFFF),
  (0x01E80408, [(0x10, 64)], 0xFFFFFFFF),
  (0x01F10040, [], 0x3F07),
  (0x01F10400, [(0x4, 256)], 0xFFFF),
  (0x01F10800, [(0x8, 24)], 0xFFFFFFFF),
  (0x01F10804, [(0x8, 24)], 0xFFFFFFFF),
  (0x01F11000, [(0x8, 256)], 0xC71F1FFF),
  (0x01F11004, [(0x8, 256)], 0xF01F00FF),
  (0x01F40040, [], 0xFFFF0001),
  (0x01F40044, [], 0x800007FF),
  (0x01F41000, [(0x10, 256)], 0x3FFFF07),
  (0x01F42000, [(0x10, 16)], 0xFF0F03)]

/-- Every word with image fields but the EVENT_MASK words. -/
def imgRows : List (Nat × List (Nat × Nat) × Nat) := imgRowsA ++ imgRowsB ++ imgRowsC ++ imgRowsD ++ imgRowsE ++ imgRowsF

/-- The bits of a word that a record of the image sets. -/
def imgMask (off : Nat) : Nat :=
  if off % 0x1000 = 0x24 ∧ (isLeaf (off - 0x24) || isBasin (off - 0x24)) then 0xFFFFFFFF
  else (imgRows.find? (fun x => decide (x.1 ≤ off) && dimsMatch x.2.1 false (off - x.1))).elim 0 (fun x => x.2.2)

end Sys2Proof.Machine
end

