-- ==== Sys2Proof/Machine/Image.lean ====
section
/-! DEFINITION. The Horby image (R429 to R434): its records, the structural check and the checks of a slot; the placement of regions (R249, R269). -/

namespace Sys2Proof.Machine

/-- Bytes of an image slot (R427). -/
def slotBytes : Nat := 96 * 2 ^ 20

/-- `n` bytes of a slot from an offset, erased bytes as 0xFF. -/
def flashTake (sl : List Byte) (o n : Nat) : List Byte :=
  let t := (sl.drop o).take n
  t ++ List.replicate (n - t.length) 0xFF

/-- A little-endian field. -/
def leAt (bs : List Byte) (o n : Nat) : Nat := leNat ((bs.drop o).take n)

/-- A record: TYPE, FLAGS, image offset of its first byte, body. -/
structure HRec where
  typ : Nat
  flags : Nat
  off : Nat
  body : List Byte
  deriving DecidableEq, Repr

/-- The records from an offset on: exactly `n` of them, up to the end of the image (R430, R432). -/
def parseRecs : Nat → List Byte → Nat → Nat → Option (List HRec)
  | 0, _, off, len => if off = len then some [] else none
  | n + 1, bs, off, len =>
    let l := leAt bs 4 4
    if len < off + 8 || l < 8 || l % 8 != 0 || len < off + l then none
    else (parseRecs n (bs.drop l) (off + l) len).map
      ({ typ := leAt bs 0 2, flags := leAt bs 2 2, off := off, body := (bs.drop 8).take (l - 8) } :: ·)

/-- A body cut into entries of `n` bytes. -/
def entriesOf (n : Nat) (bs : List Byte) : List (List Byte) := (List.range (bs.length / n)).map (fun i => (bs.drop (n * i)).take n)

def recsOf (t : Nat) (rs : List HRec) : List HRec := rs.filter (fun r => r.typ == t)

/-- Offset and value pairs of the REGS (1) or BROOK (8) records. -/
def pairsOf (t : Nat) (rs : List HRec) : List (Nat × Nat) :=
  (recsOf t rs).flatMap (fun r => (entriesOf 8 r.body).map (fun e => (leAt e 0 4, leAt e 4 4)))

/-- A region as the image declares it (R249, R430). -/
structure RegionDecl where
  size : Nat
  order : Nat
  page : Nat
  ring : Bool
  owner : Nat
  deriving DecidableEq, Repr

def regionsOf (rs : List HRec) : List RegionDecl :=
  (recsOf 2 rs).flatMap (fun r => (entriesOf 16 r.body).map (fun e =>
    { size := leAt e 0 4, order := leAt e 4 1 % 4, page := leAt e 5 1 % 4, ring := bitAt (leAt e 6 1) 0, owner := leAt e 8 2 % 2 ^ 13 }))

/-- POOL entries: FIRST, COUNT, OWNER. -/
def poolsOf (rs : List HRec) : List (Nat × Nat × Nat) :=
  (recsOf 4 rs).flatMap (fun r => (entriesOf 8 r.body).map (fun e => (leAt e 0 2, leAt e 2 2, leAt e 4 2)))

/-- LOAD records: DEST, data, image offset of the data. -/
def loadsOf (rs : List HRec) : List (Nat × List Byte × Nat) :=
  (recsOf 7 rs).map (fun r => (leAt r.body 0 8, r.body.drop 8, r.off + 16))

/-- A LOAD into the staging banks 0 to 767 (R439). -/
def isStaging (d : Nat) : Bool := decide (poolBase ≤ d) && decide (d < poolBase + 768 * bankBytes)

/-! Regions (R249, R269). -/

/-- MiB of the Reservoir with `l` logical ranks. -/
def rsvMib (l : Nat) : Nat := l * 768

/-- RING regions shrunk by the least number of MiB that makes all regions fit in `l` ranks (R269). -/
def shrinkRegions (l : Nat) (rs : List RegionDecl) : List RegionDecl :=
  let cut (k : Nat) : List RegionDecl := rs.map (fun r => if r.ring then { r with size := r.size - k } else r)
  let total (k : Nat) : Nat := (cut k).foldl (fun a r => a + r.size) 0
  if total 0 ≤ rsvMib l then rs
  else match (List.range (rsvMib 124 + 1)).find? (fun k => decide (total k ≤ rsvMib l)) with
    | some k => cut k
    | none => rs

/-- Regions placed in image order: base in MiB for those placed (R249). -/
def placeRegions (l : Nat) (rs : List RegionDecl) : List (RegionDecl × Option Nat) :=
  (rs.foldl (fun (a : List (RegionDecl × Option Nat) × Nat × Bool) r =>
    let fits := a.2.2 && decide (a.2.1 + r.size ≤ rsvMib l) && (r.order != 2 || r.size % 3 == 0)
    if fits then (a.1 ++ [(r, some a.2.1)], a.2.1 + r.size, true) else (a.1 ++ [(r, none)], a.2.1, false)) ([], 0, true)).1

/-! Checks. -/

/-- Do the bytes lie in one of the BAR0 windows that LOAD may name: the user windows, the colour tables, the context words (R430)? -/
def inTable (o n : Nat) : Bool :=
  decide (R.SRH_UTAB 0 0 0 ≤ o) && decide (o + n ≤ R.SRH_UTAB 4 0 0) ||
  decide (R.COL_LUT 0 0 0 ≤ o) && decide (o + n ≤ R.COL_LUT 4 0 0) ||
  decide (R.TRB_CTX_CTL 0 ≤ o) && decide (o + n ≤ R.TRB_CTX_CTL 16384)

/-- Is the destination of a LOAD allowed (R432)?  Mask stores have a device address of their own (R221). -/
def loadOk (regs : List RegionDecl) (d n : Nat) : Bool :=
  if 2 ^ 63 ≤ d then inTable (d - 2 ^ 63) n
  else
    decide (poolBase ≤ d) && decide (d + n ≤ poolBase + 1264 * bankBytes) ||
    (inMasks d && inMasks (d + n - 1)) ||
    (placeRegions 124 regs).any (fun r => match r.2 with
      | some b => !r.1.ring && decide (b * 2 ^ 20 ≤ d) && decide (d + n ≤ (b + r.1.size) * 2 ^ 20)
      | none => false)

/-- R432, and R431 for the place of SIG. -/
def structOk (rs : List HRec) : Bool :=
  (recsOf 0xFFFE rs).length == 1 && (rs.getLast?.map HRec.typ) == some 0xFFFE && decide ((recsOf 9 rs).length ≤ 1) &&
  (pairsOf 1 rs).all (fun p => imgMask p.1 != 0) &&
  (pairsOf 8 rs).all (fun p => decide (hBrk ≤ p.1) && decide (p.1 < hBrk + 0x80000) && imgMask p.1 != 0) &&
  (loadsOf rs).all (fun x => loadOk (regionsOf rs) x.1 x.2.1.length && (!isStaging x.1 || decide (x.1 - poolBase ≤ x.2.2))) &&
  decide ((regionsOf rs).length ≤ 64) &&
  (poolsOf rs).all (fun p => decide (p.1 + p.2.1 ≤ 1264)) &&
  rs.all (fun r => (decide (1 ≤ r.typ) && decide (r.typ ≤ 10)) || r.typ == 0xFFFE || bitAt r.flags 0)

/-- LENGTH of a slot's header. -/
def imgLen (sl : List Byte) : Nat := leAt (flashTake sl 0 128) 0x14 4

/-- The records of a slot. -/
def imgRecs (sl : List Byte) : Option (List HRec) :=
  let h := flashTake sl 0 128
  if leAt h 0x14 4 < 128 then none
  else parseRecs (leAt h 0x18 4) (flashTake sl 128 (imgLen sl - 128)) 128 (imgLen sl)

/-- Digest of R431. -/
def imgDigest (sl : List Byte) (rs : List HRec) : List Byte := sha384 (flashTake sl 0 ((recsOf 0xFFFE rs).headD ⟨0, 0, 0, []⟩).off)

/-- PUBKEY of the SIG record. -/
def imgPub (rs : List HRec) : List Byte := ((recsOf 0xFFFE rs).headD ⟨0, 0, 0, []⟩).body.take 97

/-- SVN floor (R434). -/
def svnFloor (life fused jnl : Nat) : Nat := if life = 0 then 0 else if life = 2 then max fused jnl else fused

/-- Result code of a slot (R433): lifecycle state, fused key hash, SVN floor, whether the flash was read without error. -/
def slotCheck (life : Nat) (keyHash : Option (List Byte)) (floor : Nat) (flashOk : Bool) (sl : List Byte) : Nat :=
  let h := flashTake sl 0 128
  if leAt h 0 4 != 0x59425248 || leAt h 6 2 != 128 then 2
  else if leAt h 4 2 != 2 then 3
  else if leAt h 8 4 != 0x20001 then 4
  else if slotBytes < leAt h 0x14 4 then 5
  else if !flashOk then 6
  else match imgRecs sl with
    | none => 7
    | some rs =>
      let sig := ((recsOf 0xFFFE rs).headD ⟨0, 0, 0, []⟩).body
      if !structOk rs then 7
      else if life != 0 && keyHash != some (sha384 (imgPub rs)) then 8
      else if !ecdsaOk (imgPub rs) (imgDigest sl rs) (leAt sig 100 48) (leAt sig 148 48) then 9
      else if leAt h 0x10 1 < floor then 10
      else 1

end Sys2Proof.Machine
end

