-- ==== Sys2Proof/Machine/Boot.lean ====
section
/-! DEFINITION. Thermal control (R421, R423, R425), the journal (R446 to R450), flash operations and lifecycle (R442 to R444, R451 to R453), resets of the die (R28, R379). -/

namespace Sys2Proof.Machine

def State.setBoot (s : State) (b : Boot) : State := { s with boot := b }

/-! Thermal control. -/

/-- The hottest of the four codes and the lowest sensor that shows it. -/
def hottest (codes : List Nat) : Nat × Nat :=
  (List.range 4).foldl (fun (m : Nat × Nat) i => let c := codes.getD i 0 % 4096; if i = 0 ∨ m.1 < c then (c, i) else m) (0, 0)

/-- Code of a temperature in °C: T = code / 16 − 64. -/
def tempCode (t : Nat) : Nat := (t + 64) * 16

/-- Next throttling level from the level, the code, and the samples in a row in each band (R421); 1 s is 1,000 samples. -/
def throtNext (lvl code thr1 thr2 inRel inThr : Nat) : Nat :=
  if tempCode thr2 ≤ code then 2
  else if lvl = 0 then (if tempCode thr1 ≤ code then 1 else 0)
  else if 1000 ≤ inRel then 0
  else if lvl = 2 ∧ 1000 ≤ inThr then 1
  else lvl

/-- A temperature sample every 1 ms. -/
def thermalSample (codes : List Nat) (s : State) : State :=
  let h := hottest codes
  let old := s.fld R.MOD_THERM_STATUS_TJ_MAX
  let lvl := s.fld R.MOD_THERM_STATUS_LEVEL
  let rel := tempCode (s.fld R.MOD_THERM_CFG_THROT_REL)
  let thr2 := s.fld R.MOD_THERM_CFG_THROT2
  let inRel := if h.1 < rel then min 1000 (s.boot.inRel + 1) else 0
  let inThr := if rel ≤ h.1 ∧ h.1 < tempCode thr2 then min 1000 (s.boot.inThr + 1) else 0
  let new := throtNext lvl h.1 (s.fld R.MOD_THERM_CFG_THROT1) thr2 inRel inThr
  let s1 := s.setBoot { s.boot with inRel := inRel, inThr := inThr }
  let s2 := ((s1.setFld R.MOD_THERM_STATUS_TJ_MAX h.1).setFld R.MOD_THERM_STATUS_HOTTEST h.2).setFld R.MOD_THERM_STATUS_LEVEL new
  let s3 := if lvl = 0 then s2 else s2.bump64 R.MOD_THROT 1
  let s4 := putFault hMod 0 (decide (tempCode 95 < h.1)) s3
  let s5 := if lvl < new then raise hMod 0 s4 else s4
  let s6 := if lvl ≠ 0 ∧ new = 0 then raise hMod 1 s5 else s5
  if old ≤ tempCode 90 ∧ tempCode 90 < h.1 then raise hMod 2 s6 else s6

/-- A running hour ends (R423). -/
def hourTick (s : State) : State :=
  let s1 := s.bump64 R.MOD_HOURS 1
  let s2 := if tempCode 90 < s.fld R.MOD_THERM_STATUS_TJ_MAX then s1.bump64 R.MOD_HOT_HOURS 1 else s1
  journal 5 0 [(s2.pair R.MOD_HOURS : Int), (s2.pair R.MOD_HOT_HOURS : Int)] s2

/-! The journal. -/

def Boot.grp (b : Boot) (g : Nat) : JGroup := if g = 0 then b.grp0 else b.grp1
def Boot.setGrp (b : Boot) (g : Nat) (x : JGroup) : Boot := if g = 0 then { b with grp0 := x } else { b with grp1 := x }

/-- LEN of an entry: a word for each value, a multiple of 16 from 32 on (R447). -/
def entryLen (vals : List Int) : Nat := max 32 (cdiv (20 + 4 * vals.length) 16 * 16)

/-- The entries in force: for each TYPE and KEY the good one with the highest SEQ, in SEQ order (R448). -/
def inForce (es : List JEntry) : List JEntry :=
  let good := es.filter JEntry.good
  (good.filter (fun e => !good.any (fun f => f.typ == e.typ && f.key == e.key && decide (e.seq < f.seq)))).mergeSort (fun a b => decide (a.seq ≤ b.seq))

/-- The values in force for a TYPE and KEY. -/
def jVals (s : State) (typ key : Nat) : Option (List Int) :=
  ((inForce (s.boot.grp s.boot.active).entries).find? (fun e => e.typ == typ && e.key == key)).map JEntry.vals

/-- A compaction begins. -/
def compactStart (s : State) : State := s.setBoot { s.boot with compacting := true }

/-- The live area has reached 6 MiB (R450). -/
def compactDue (s : State) : State :=
  if !s.boot.compacting && decide (6 * 2 ^ 20 ≤ (s.boot.grp s.boot.active).pos) then compactStart s else s

/-- The first entry of the queue is programmed (R449). -/
def journalWrite (ok : Bool) (s : State) : State :=
  match s.jq with
  | [] => s
  | it :: rest =>
    let b := s.boot
    let g := b.grp b.active
    if b.compacting || !g.valid then s
    else
      let seq := (s.wordN R.JNL_SEQ + 1) % 2 ^ 32
      let e : JEntry := { typ := it.typ, key := it.key, seq := seq, vals := it.vals, good := true }
      if ok then
        let s1 := { s with jq := rest, boot := { b.setGrp b.active { g with entries := g.entries ++ [e], pos := g.pos + entryLen it.vals } with tries := 0 } }
        compactDue ((s1.setWord R.JNL_SEQ seq).bump64 R.JNL_WRITES 1)
      else
        let b1 := b.setGrp b.active { g with entries := g.entries ++ [{ e with good := false }], pos := (g.pos / 256 + 1) * 256 }
        if b.tries < 2 then s.setBoot { b1 with tries := b.tries + 1 }
        else
          let s1 := { s with jq := rest, boot := { b1 with tries := 0 } }
          addLog hJnl 7 3 2 (it.typ * 256 + it.key) 0 (raise hJnl 1 (setFault hJnl 1 s1))

/-- A compaction ends with the other group active (R450). -/
def compactDone (s : State) : State :=
  let b := s.boot
  if !b.compacting then s
  else
    let g := b.grp b.active
    let es := inForce g.entries
    let new : JGroup := { valid := true, gen := g.gen + 1, entries := es, pos := 64 + es.foldl (fun a e => a + entryLen e.vals) 0 }
    let s1 := s.setBoot { (b.setGrp (1 - b.active) new).setGrp b.active JGroup.init with active := 1 - b.active, compacting := false, tries := 0 }
    compactDue (raise hJnl 0 ((s1.setWord R.JNL_GEN new.gen).bump64 R.JNL_COMPACT 1))

def compactCmd (s : State) : Code × State := if s.boot.compacting then (.busy, s) else (.ok, compactStart s)

/-- JNL_STATUS (R453). -/
def jnlStatus (s : State) : Nat :=
  min 255 s.jq.length * 2 ^ 16 + min 8191 ((s.boot.grp s.boot.active).pos / 1024) * 8 + 2 * b2n s.boot.compacting + s.boot.active

/-! Flash operations. -/

def Boot.slot (b : Boot) (k : Nat) : List Byte := if k = 0 then b.slot0 else b.slot1
def Boot.setSlot (b : Boot) (k : Nat) (x : List Byte) : Boot := if k = 0 then { b with slot0 := x } else { b with slot1 := x }

/-- LOCKED in RETIRED, BUSY during a flash operation; else the operation runs. -/
def flashCmd (op : FlashOp) (s : State) : Code × State :=
  if s.boot.life = 3 then (.locked, s)
  else if s.boot.op.isSome then (.busy, s)
  else (.ok, s.setBoot { s.boot with op := some op })

def imgSlot (s : State) : Nat := s.fld R.IMG_CMD_ARG_SLOT

def eraseCmd (s : State) : Code × State := flashCmd (.erase (imgSlot s)) s
def checkCmd (s : State) : Code × State := flashCmd (.check (imgSlot s)) s

/-- Do `n` bytes from `a` lie in the Pool or in the Reservoir? -/
def inPoolOrRsv (s : State) (a n : Nat) : Bool :=
  n == 0 || (inPool a && inPool (a + n - 1)) || (s.inReservoir a && s.inReservoir (a + n - 1))

def programCmd (s : State) : Code × State :=
  let src := s.wordN R.IMG_SRC_LO + 2 ^ 32 * s.wordN R.IMG_SRC_HI
  let n := s.wordN R.IMG_LEN
  if s.boot.life ≠ 3 ∧ (slotBytes < n ∨ inPoolOrRsv s src n = false) then (.range, s)
  else flashCmd (.program (imgSlot s) src n) s

/-- What a slot holds after a flash failure is not stated: free bytes. -/
def slotFree (k : Nat) (s : State) : State :=
  let n := s.takeFree (slotBytes + 1)
  let v := n.2.takeFree (256 ^ n.1)
  v.2.setBoot (v.2.boot.setSlot k (leBytes n.1 v.1))

/-- The erase ends. -/
def eraseDone (ok : Bool) (s : State) : State :=
  match s.boot.op with
  | some (.erase k) =>
    let s1 := s.setBoot { s.boot with op := none }
    raise hImg 0 (if ok then s1.setBoot (s1.boot.setSlot k []) else raise hImg 3 (slotFree k s1))
  | _ => s

/-- The program ends: programming only clears bits; the read-back must show the source. -/
def progDone (ok : Bool) (s : State) : State :=
  match s.boot.op with
  | some (.program k src n) =>
    let s1 := s.setBoot { s.boot with op := none }
    let data := s.readFixed src n
    let old := s.boot.slot k
    let new := List.zipWith (fun a b => a &&& b) (flashTake old 0 n) data ++ old.drop n
    raise hImg 1 (if ok then (let s2 := s1.setBoot (s1.boot.setSlot k new); if new.take n = data then s2 else raise hImg 3 s2)
      else raise hImg 3 (slotFree k s1))
  | _ => s

/-- SVN held in the journal. -/
def jnlSvn (s : State) : Nat := match jVals s 8 0 with | some (v :: _) => v.toNat | _ => 0

/-- The result of R433 for a slot. -/
def checkSlot (s : State) (flashOk : Bool) (k : Nat) : Nat :=
  slotCheck s.boot.life s.boot.keyHash (svnFloor s.boot.life s.boot.svn (jnlSvn s)) flashOk (s.boot.slot k)

/-- The check ends. -/
def chkDone (flashOk : Bool) (s : State) : State :=
  match s.boot.op with
  | some (.check k) =>
    let s1 := (s.setBoot { s.boot with op := none }).setFld R.IMG_STATUS_CHK (checkSlot s flashOk k)
    raise hImg 2 (if flashOk then s1 else raise hImg 3 s1)
  | _ => s

/-! Resets and lifecycle. -/

/-- The registers that show fuses (R453). -/
def showFuses (s : State) : State :=
  let b := s.boot
  let kh := b.keyHash.getD []
  let s1 := (List.range 12).foldl (fun s w => s.setWord (R.LCS_KEYHASH w) (leAt kh (4 * w) 4)) s
  ((s1.setFld R.LCS_STATUS_STATE b.life).setFld R.LCS_STATUS_SVN_FUSE b.svn).setFlag R.LCS_STATUS_KEY_FUSED b.keyHash.isSome

/-- The die loses all it held: every register, memory and queue but for those of Brook, the flash and the fuses. -/
def dieWipe (s : State) : State :=
  let inBrk := fun (o : Nat) => decide (hBrk ≤ o) && decide (o < hBrk + 0x1000)
  showFuses
    { State.reset with
      pending := s.pending, tclk := s.tclk, freeCtr := s.freeCtr
      regs := s.regs.filter (fun e => inBrk e.1), shadow := s.shadow.filter (fun e => inBrk e.1)
      snaps := s.snaps.filter (fun x => x.hdr == hBrk)
      rep := { Rep.init with
        pend := s.rep.pend.filter (fun e => e.1 == hBrk), flt := s.rep.flt.filter (fun e => e.1 == hBrk), cmd := s.rep.cmd.filter (fun e => e.1 == hBrk)
        xram := s.rep.xram, notices := s.rep.notices, out := s.rep.out, fresh := s.rep.fresh.filter (fun e => inBrk e.1) }
      evt := { Evt.init with gate := s.evt.gate }
      brk := s.brk
      boot := { s.boot with op := none, tries := 0, compacting := false, pub := [], parked := none, inRel := 0, inThr := 0, disabled := [], held := false } }

/-- A reset of the die with Brook's volatile state (R379); the power, the die permission and the KILL latch stay. -/
def dieReset (s : State) : State := (brkWipe (dieWipe s)).setFlag R.BRK_STATUS_DIE_RUN false

/-- ADVANCE (R443): its refusals; a fuse that fails to verify; or the next state with its reset (`none` as code: the reset clears CMD_STATUS). -/
def advanceCmd (fusesVerify : Bool) (s : State) : Option Code × State :=
  let b := s.boot
  let t := b.life + 1
  if b.life = 3 then (some .locked, s)
  else if bits (s.wordN R.LCS_CONFIRM) 7 0 ≠ t ∨ bits (s.wordN R.LCS_CONFIRM) 15 8 ≠ 255 - t then (some .range, s)
  else if b.life = 0 ∧ s.flag R.IMG_STATUS_NOIMAGE = true then (some .state, s)
  else
    let b1 := if t = 3 then { b with slot0 := [], slot1 := [] } else b
    if fusesVerify then
      (none, dieReset (s.setBoot { b1 with life := t, keyHash := if b.life = 0 then some (sha384 b.pub) else b.keyHash }))
    else (some .fault, setFault hLcs 0 (s.setBoot b1))

/-- SVN_COMMIT (R444). -/
def svnCommitCmd (fusesVerify : Bool) (s : State) : Code × State :=
  let b := s.boot
  let v := min 64 (s.fld R.IMG_INFO_SVN)
  if b.life = 0 ∨ b.life = 3 then (.locked, s)
  else if v ≤ b.svn then (.state, s)
  else if fusesVerify then (.ok, showFuses (s.setBoot { b with svn := v }))
  else (.fault, setFault hLcs 0 s)

/-- ADVANCE as a command: one that ends in a reset leaves CMD_STATUS as the reset does. -/
def runAdvance (fusesVerify : Bool) (s : State) : State :=
  if s.cmdBusy hLcs then s
  else match advanceCmd fusesVerify s with
    | (some c, s') => finish hLcs 1 c s'
    | (none, s') => s'

/-! Meanings. -/

/-- THERMAL_SAMPLE (R421, R425). -/
def execThermalSample (codes : List Nat) (s : State) : Host.Outcome State Fault Refusal := .next (thermalSample codes s)

/-- HOUR_TICK (R423). -/
def execHourTick (s : State) : Host.Outcome State Fault Refusal := .next (hourTick s)

/-- ERASE (R451). -/
def execErase (s : State) : Host.Outcome State Fault Refusal := .next (runCmd hImg 1 eraseCmd s)

/-- ERASE_DONE (R452). -/
def execEraseDone (ok : Bool) (s : State) : Host.Outcome State Fault Refusal := .next (eraseDone ok s)

/-- PROGRAM (R451). -/
def execProgram (s : State) : Host.Outcome State Fault Refusal := .next (runCmd hImg 2 programCmd s)

/-- PROG_DONE (R452). -/
def execProgDone (ok : Bool) (s : State) : Host.Outcome State Fault Refusal := .next (progDone ok s)

/-- IMG_CHECK (R451). -/
def execImgCheck (s : State) : Host.Outcome State Fault Refusal := .next (runCmd hImg 3 checkCmd s)

/-- CHK_DONE (R433, R452). -/
def execChkDone (flashOk : Bool) (s : State) : Host.Outcome State Fault Refusal := .next (chkDone flashOk s)

/-- ADVANCE (R443). -/
def execAdvance (fusesVerify : Bool) (s : State) : Host.Outcome State Fault Refusal := .next (runAdvance fusesVerify s)

/-- SVN_COMMIT (R444). -/
def execSvnCommit (fusesVerify : Bool) (s : State) : Host.Outcome State Fault Refusal := .next (runCmd hLcs 2 (svnCommitCmd fusesVerify) s)

/-- COMPACT (R450). -/
def execCompact (s : State) : Host.Outcome State Fault Refusal := .next (runCmd hJnl 1 compactCmd s)

/-- COMPACT_DONE (R450). -/
def execCompactDone (s : State) : Host.Outcome State Fault Refusal := .next (compactDone s)

/-- JOURNAL_ENTRY_WRITE (R449, R450). -/
def execJournalEntryWrite (ok : Bool) (s : State) : Host.Outcome State Fault Refusal := .next (journalWrite ok s)

/-- DIE_RESET (R28, R379). -/
def execDieReset (s : State) : Host.Outcome State Fault Refusal := .next (dieReset s)

/-- STANDBY_POWER_LOSS (R377, R415): the rails are off before, so the die holds nothing either. -/
def execStandbyPowerLoss (s : State) : Host.Outcome State Fault Refusal := .next (brkPowerLoss (dieWipe s))

end Sys2Proof.Machine
end

