-- ==== Sys2Proof/Machine/Display.lean ====
section
/-! DEFINITION. Display outputs (spec/13_display.md): the raster, its commit point, the DisplayPort outputs.  The pixel clock is
Rivulet's (R45, R487). -/

namespace Sys2Proof.Machine

/-! Rivulet's settings, as the display uses them. -/

/-- N × 2^24 (spec/02 "Rivulet"). -/
def rivN (s : State) : Nat := s.fld R.CLK_RIV_CFG_N_INT * 2 ^ 24 + s.fld R.CLK_RIV_NFRAC_N_FRAC

/-- Does Rivulet run (R487)? -/
def rivRuns (s : State) : Bool :=
  decide (15 ≤ s.fld R.CLK_RIV_CFG_N_INT) && decide (s.fld R.CLK_RIV_CFG_N_INT ≤ 30) &&
    decide (2 ≤ s.fld R.CLK_RIV_CFG_ODIV) && decide (s.fld R.CLK_RIV_CFG_ODIV ≤ 63)

/-- Is the spread of Rivulet legal for a sink (R365)? -/
def spreadLegal (s : State) (sink : Bool) : Bool :=
  let m := s.fld R.CLK_RIV_CFG_SS_MODE
  m == 0 || m == 3 || (m == 1 && decide (s.fld R.CLK_RIV_CFG_SS_DEPTH ≤ 3) && sink)

/-! The raster (R366 to R373). -/

def hTotal (s : State) : Nat := s.fld R.DPY_H0_HACT + s.fld R.DPY_H0_HFP + s.fld R.DPY_H1_HSYNC + s.fld R.DPY_H1_HBP
def vTotal (s : State) : Nat := s.fld R.DPY_V0_VACT + s.fld R.DPY_V0_VFP + s.fld R.DPY_V1_VSYNC + s.fld R.DPY_V1_VBP

/-- The timing rule of R366. -/
def timingLegal (s : State) : Bool :=
  let ha := s.fld R.DPY_H0_HACT
  let va := s.fld R.DPY_V0_VACT
  let od := s.fld R.CLK_RIV_CFG_ODIV
  decide (640 ≤ ha) && decide (ha ≤ 3840) && ha % 4 == 0 && decide (480 ≤ va) && decide (va ≤ 2160) &&
  [R.DPY_H0_HFP, R.DPY_H1_HSYNC, R.DPY_H1_HBP, R.DPY_V0_VFP, R.DPY_V1_VSYNC, R.DPY_V1_VBP].all (fun l => decide (1 ≤ s.fld l)) &&
  decide (hTotal s ≤ 8192) && decide (vTotal s ≤ 4096) && rivRuns s &&
  decide (25 * od * 2 ^ 24 ≤ 200 * rivN s) && decide (200 * rivN s ≤ 600 * od * 2 ^ 24)

/-- Width, height and bytes per pixel of the source (R368). -/
def dpySource (s : State) : Nat × Nat × Nat :=
  let k := s.fld R.DPY_CFG_SRC_KIND
  if k = 0 then
    let c := s.wordN (R.SLT_PL_CFG (s.fld R.DPY_CFG_PORT) (s.fld R.DPY_CFG_PLANE))
    (plCols c, plRows c, 2)
  else (s.fld R.DPY_FB_SIZE_FB_W, s.fld R.DPY_FB_SIZE_FB_H, k + 1)

/-- FB_BASE. -/
def fbBase (s : State) : Nat := s.wordN R.DPY_FB_BASE_LO + 2 ^ 32 * s.wordN R.DPY_FB_BASE_HI

/-- May the snapshot be applied (R369, R370)? -/
def rasterLegal (s : State) : Bool :=
  let src := dpySource s
  let line := src.1 * src.2.2
  let fb := s.fld R.DPY_CFG_SRC_KIND != 0
  timingLegal s &&
  decide (s.fld R.DPY_POS_X0 + src.1 * (s.fld R.DPY_CFG_HREPM1 + 1) ≤ s.fld R.DPY_H0_HACT) &&
  decide (s.fld R.DPY_POS_Y0 + src.2.1 * (s.fld R.DPY_CFG_VREPM1 + 1) ≤ s.fld R.DPY_V0_VACT) &&
  decide (line ≤ 16384) &&
  (!fb || (fbBase s % 64 == 0 && s.wordN R.DPY_FB_STRIDE % 64 == 0 && decide (line ≤ s.wordN R.DPY_FB_STRIDE))) &&
  s.fld R.DPY_CFG_BUFSEL != 3 &&
  (fb || plEn s (s.fld R.DPY_CFG_PORT) (s.fld R.DPY_CFG_PLANE)) &&
  decide (s.fld R.DPY_WM_LOW_WM < s.fld R.DPY_WM_HIGH_WM) && decide (s.fld R.DPY_WM_HIGH_WM ≤ 512)

/-- Timing fields and sync polarities: a change restarts the raster (R367). -/
def timingWords (s : State) : List Nat :=
  [s.wordN R.DPY_H0, s.wordN R.DPY_H1, s.wordN R.DPY_V0, s.wordN R.DPY_V1, s.fld R.DPY_CFG_HSPOL, s.fld R.DPY_CFG_VSPOL]

/-- The raster starts at line VACT (R367). -/
def rasterStart (s : State) : State :=
  { (s.setFlag R.DPY_STATUS_RUN true).setFlag R.DPY_STATUS_ABORTED false with dsp := { s.dsp with vAt := s.tclk } }

/-- The raster runs while EN is set, Rivulet is locked and the image settings were accepted. -/
def rasterUpdate (s : State) : State :=
  let want := s.flag R.DPY_CFG_EN && s.flag R.CLK_RIV_CFG_RIV_LOCK && !s.faultBit hRas 0
  let run := s.flag R.DPY_STATUS_RUN
  if want && !run then rasterStart s
  else if !want && run then (s.setFlag R.DPY_STATUS_RUN false).setFlag R.DPY_STATUS_ABORTED false
  else s

/-- The line being sent: Rivulet's pixels since line VACT began, at 200 MHz × N / ODIV. -/
def rasterLine (s : State) : Nat :=
  if s.flag R.DPY_STATUS_RUN then
    let px := (s.tclk - s.dsp.vAt) * rivN s / (16 * s.fld R.CLK_RIV_CFG_ODIV * 2 ^ 24)
    (s.fld R.DPY_V0_VACT + px / hTotal s) % vTotal s
  else 0

/-- DPY_STATUS (R376). -/
def rasterStatus (s : State) : Nat :=
  let l := rasterLine s
  l * 2 ^ 16 + 8 * b2n (s.flag R.DPY_STATUS_ABORTED) + 4 * b2n (s.snapOf hRas).isSome +
    2 * b2n (s.flag R.DPY_STATUS_RUN && decide (s.fld R.DPY_V0_VACT ≤ l)) + b2n (s.flag R.DPY_STATUS_RUN)

/-- The buffer of the plane that was last made FULL, or the one shown before (R368). -/
def lastFull (s : State) (p n : Nat) : Nat :=
  let x := s.plane p n
  match x.b0.st == .full, x.b1.st == .full with
  | true, true => if (x.b1.seq - x.b0.seq : Int) % 2 ^ 32 < 2 ^ 31 then 1 else 0
  | true, false => 0
  | false, true => 1
  | false, false => s.dsp.shown

/-- Apply or reject the raster's snapshot (R369, R372); a change of timing restarts the raster. -/
def rasterCommit (s : State) : State :=
  match s.snapOf hRas with
  | none => s
  | some ws =>
    let new := overlay s ws
    if rasterLegal new then
      let s1 := clearFault hRas 0 (raise hRas 1 (dropSnap hRas new))
      if s1.flag R.DPY_STATUS_RUN && timingWords s != timingWords s1 then rasterUpdate (rasterStart s1) else rasterUpdate s1
    else rejectSnap hRas 3 0 s

/-- T_v (R372): DPY_FRAME, VBLANK, the raster's snapshot and the colour unit's.  A stopped raster only takes the snapshots. -/
def vblankStart (s : State) : State :=
  let s1 := if s.flag R.DPY_STATUS_RUN then
              let s0 := (s.bump64 R.DPY_FRAME 1).setFlag R.DPY_STATUS_ABORTED false
              raise hRas 0 { s0 with dsp := { s0.dsp with vAt := s.tclk } }
            else s
  let s2 := colCommit (rasterCommit s1)
  { s2 with dsp := { s2.dsp with shown := lastFull s2 (s2.fld R.DPY_CFG_PORT) (s2.fld R.DPY_CFG_PLANE) } }

/-- Does an output of the display run: the raster runs and a link is trained (R176)? -/
def dpyRuns (s : State) : Bool := s.flag R.DPY_STATUS_RUN && (s.flag (R.DPY_OUT_STATUS_TRAINED 0) || s.flag (R.DPY_OUT_STATUS_TRAINED 1))

/-- The next CCLK cycle: with no output running, the colour unit's snapshot is applied in it (R176). -/
def colTick (s : State) : State :=
  if (s.tclk + 1) % 16 = 0 ∧ dpyRuns s = false ∧ (s.snapOf hCol).isSome = true then colCommit s else s

/-- An underrun aborts the frame (R371). -/
def underrun (s : State) : State :=
  if s.flag R.DPY_STATUS_RUN && !s.flag R.DPY_STATUS_ABORTED then
    raise hRas 2 ((s.setFlag R.DPY_STATUS_ABORTED true).bump64 R.DPY_UNDERRUN 1)
  else s

/-- Five or six bits widened to eight by repeating the top bits (R368). -/
def widen (w v : Nat) : Nat := v * 2 ^ (8 - w) + v / 2 ^ (2 * w - 8)

/-- RGB of source pixel (x, y) as the memory or the view holds it now (R368, R175). -/
def sourcePixel (s : State) (x y : Nat) : Nat :=
  let k := s.fld R.DPY_CFG_SRC_KIND
  if k = 0 then
    let p := s.fld R.DPY_CFG_PORT
    let n := s.fld R.DPY_CFG_PLANE
    let b := s.fld R.DPY_CFG_BUFSEL
    let a := 0xF000000000 + p * 0x4000000 + n * 0x1000000 + (if b = 2 then s.dsp.shown else b) * 0x800000 + 0x1000 + (y * (dpySource s).1 + x) * 2
    colourOf s (s.fld R.DPY_CFG_LUT) (leNat ((upFrom a 2).map (viewByte s)))
  else
    let v := leNat (s.readFixed (fbBase s + y * s.wordN R.DPY_FB_STRIDE + x * (k + 1)) (k + 1))
    if k = 1 then widen 5 (bits v 15 11) * 65536 + widen 6 (bits v 10 5) * 256 + widen 5 (bits v 4 0) else v % 2 ^ 24

/-- RGB of active output pixel (x, y) of the frame being sent: BORDER beside the source (R369) and from an underrun on (R371). -/
def shownPixel (s : State) (x y : Nat) : Nat :=
  let src := dpySource s
  let dx := x - s.fld R.DPY_POS_X0
  let dy := y - s.fld R.DPY_POS_Y0
  let h := s.fld R.DPY_CFG_HREPM1 + 1
  let v := s.fld R.DPY_CFG_VREPM1 + 1
  if s.flag R.DPY_STATUS_ABORTED || decide (x < s.fld R.DPY_POS_X0) || decide (y < s.fld R.DPY_POS_Y0) || decide (src.1 * h ≤ dx) || decide (src.2.1 * v ≤ dy) then
    bits (s.wordN R.DPY_BORDER) 23 0
  else sourcePixel s (dx / h) (dy / v)

/-! Outputs (R362 to R365, R374). -/

def State.dpOut (s : State) (o : Nat) : DpOut := Tbl.get DpOut.init s.dsp.out o
def State.setDp (s : State) (o : Nat) (x : DpOut) : State := { s with dsp := { s.dsp with out := Tbl.set s.dsp.out o x } }

/-- Lanes of a LANES code, Mbit/s of a RATE code. -/
def dpLanes (c : Nat) : Nat := 2 ^ min c 2
def dpRate (c : Nat) : Nat := if c = 0 then 1620 else if c = 1 then 2700 else if c = 2 then 5400 else 8100

/-- Does the mode fit a lane and rate pair (R363)? -/
def dpFits (s : State) (l r : Nat) : Bool :=
  decide (200 * rivN s * 240 ≤ dpLanes l * dpRate r * 8 * (s.fld R.CLK_RIV_CFG_ODIV * 2 ^ 24))

/-- Lane and rate pairs in order of falling payload, a lower rate first on a tie (R363). -/
def dpPairs : List (Nat × Nat) :=
  [(2, 3), (2, 2), (1, 3), (2, 1), (1, 2), (0, 3), (2, 0), (1, 1), (0, 2), (1, 0), (0, 1), (0, 0)]

/-- No link: TRAINED clears and STATE is as given. -/
def dpState (o st : Nat) (s : State) : State :=
  (s.setFld (R.DPY_OUT_STATUS_STATE o) st).setFlag (R.DPY_OUT_STATUS_TRAINED o) false

/-- Begin training an enabled output with a sink, or hold it in SPREAD (R363, R365). -/
def dpBegin (o : Nat) (s : State) : State :=
  let x := s.dpOut o
  if !s.flag (R.DPY_OUT_CFG_EN o) || !s.flag (R.DPY_OUT_STATUS_HPD o) then s
  else if spreadLegal s x.caps.downspread then
    let s1 := clearFault (hDp o) 0 ((dpState o 1 s).bump64 (R.DPY_RETRAIN_CNT o) 1)
    if s.fld R.CLK_RIV_CFG_SS_MODE = 1 then s1.emit (.aux o 1 0x107 1 [0x10]) else s1
  else setFault (hDp o) 0 (dpState o 4 s)

/-- The training ends with the pairs that train: the first pair that fits and trains is kept (R363). -/
def dpTrainDone (o : Nat) (ok : List (Nat × Nat)) (s : State) : State :=
  if s.fld (R.DPY_OUT_STATUS_STATE o) ≠ 1 then s
  else
    let c := (s.dpOut o).caps
    let lm := min (min (s.fld (R.DPY_OUT_CFG_LANES_MAX o)) 2) c.maxLanes
    let rm := min (s.fld (R.DPY_OUT_CFG_RATE_MAX o)) c.maxRate
    match dpPairs.find? (fun q => decide (q.1 ≤ lm) && decide (q.2 ≤ rm) && dpFits s q.1 q.2 && ok.contains q) with
    | some q =>
      let s1 := ((s.setFld (R.DPY_OUT_STATUS_STATE o) 2).setFlag (R.DPY_OUT_STATUS_TRAINED o) true).setFld (R.DPY_OUT_STATUS_LANES o) q.1
      raise (hDp o) 3 (s1.setFld (R.DPY_OUT_STATUS_RATE o) q.2)
    | none => raise (hDp o) 4 (dpState o 3 s)

/-- The sink is unplugged (R364). -/
def dpUnplug (o : Nat) (s : State) : State :=
  if s.flag (R.DPY_OUT_STATUS_HPD o) then
    raise (hDp o) 1 (clearFault (hDp o) 0 (((dpState o 0 s).setFlag (R.DPY_OUT_STATUS_HPD o) false).setFlag (R.DPY_OUT_STATUS_SINK_SS o) false))
  else s

/-- A sink is plugged in: its capabilities are read and the output trains (R363). -/
def dpPlug (o : Nat) (c : SinkCaps) (s : State) : State :=
  let s1 := ((s.setFlag (R.DPY_OUT_STATUS_HPD o) true).setFlag (R.DPY_OUT_STATUS_SINK_SS o) c.downspread).setDp o { s.dpOut o with caps := c }
  dpBegin o (raise (hDp o) 0 (s1.emit (.aux o 0 0 16 [])))

/-- HPD returns high after a number of low samples (R364). -/
def hpdRise (o low : Nat) (lost : Bool) (c : SinkCaps) (s : State) : State :=
  if !s.flag (R.DPY_OUT_STATUS_HPD o) then dpPlug o c s
  else if low < 5 then s
  else if low < 20 then
    let s1 := (raise (hDp o) 2 s).emit (.aux o 0 0x200 6 [])
    if lost && s.flag (R.DPY_OUT_STATUS_TRAINED o) then dpBegin o s1 else s1
  else dpPlug o c (dpUnplug o s)

/-- A commit of the clock unit changes the spread (R365): outputs train when it becomes legal, and leave their link when it is not. -/
def dpSpread (s : State) : State :=
  (List.range 2).foldl (fun s o =>
    let st := s.fld (R.DPY_OUT_STATUS_STATE o)
    let ok := spreadLegal s (s.dpOut o).caps.downspread
    if st = 4 ∧ ok = true then dpBegin o s
    else if (st = 1 ∨ st = 2) ∧ ok = false then setFault (hDp o) 0 (dpState o 4 s)
    else s) s

/-- A write of DPY_OUT_CFG has changed EN. -/
def dpEnable (o : Nat) (en : Bool) (s : State) : State :=
  if en then dpBegin o s else clearFault (hDp o) 0 (dpState o 0 s)

def dpRetrainCmd (o : Nat) (s : State) : Code × State :=
  if s.flag (R.DPY_OUT_STATUS_HPD o) then (.ok, dpBegin o s) else refuse .state s

def auxCmd (o : Nat) (s : State) : Code × State :=
  let op := s.fld (R.DPY_AUX_CTRL_OP o)
  let x := s.dpOut o
  let len := s.fld (R.DPY_AUX_CTRL_LENM1 o) + 1
  if !(op == 0 || op == 1 || op == 4 || op == 5) then refuse .range s
  else if !s.flag (R.DPY_OUT_STATUS_HPD o) then refuse .state s
  else if s.fld (R.DPY_OUT_STATUS_STATE o) = 1 ∨ x.aux.isSome then refuse .busy s
  else
    let data := ((List.range 4).flatMap (fun w => leBytes 4 (s.wordN (R.DPY_AUX_DATA o w)))).take len
    (.ok, (s.setDp o { x with aux := some (op, len) }).emit (.aux o op (s.fld (R.DPY_AUX_CTRL_ADDR o)) len (if op % 4 = 1 then data else [])))

/-- An AUX transaction ends: the reply, the bytes transferred, the data read, AUX_DONE (R374). -/
def auxDone (o reply : Nat) (bs : List Byte) (s : State) : State :=
  let x := s.dpOut o
  match x.aux with
  | none => s
  | some (op, len) =>
    let got := bs.take len
    let n := if op % 4 = 1 then (if reply = 0 then len else got.length) else got.length
    let s1 := ((s.setDp o { x with aux := none }).setFld (R.DPY_AUX_STATUS_REPLY o) reply).setFld (R.DPY_AUX_STATUS_BYTES o) n
    let s2 := if op % 4 = 1 then s1
      else (got.zip (List.range got.length)).foldl (fun s b =>
        s.setFld ⟨R.DPY_AUX_DATA o (b.2 / 4), 8 * (b.2 % 4) + 7, 8 * (b.2 % 4)⟩ b.1.toNat) s1
    raise (hDp o) 5 s2

/-! Meanings of the commands of spec/13. -/

/-- DP_RETRAIN (R374). -/
def execDpRetrain (o : Fin 2) (s : State) : Host.Outcome State Fault Refusal := .next (runCmd (hDp o) 1 (dpRetrainCmd o) s)

/-- AUX (R374). -/
def execAux (o : Fin 2) (s : State) : Host.Outcome State Fault Refusal := .next (runCmd (hDp o) 2 (auxCmd o) s)

/-- AUX_DONE (R374). -/
def execAuxDone (o : Fin 2) (reply : Fin 4) (bytes : List Byte) (s : State) : Host.Outcome State Fault Refusal :=
  .next (auxDone o reply bytes s)

/-- HPD_RISE (R363, R364). -/
def execHpdRise (o : Fin 2) (lowSamples : Nat) (lostLock : Bool) (caps : SinkCaps) (s : State) : Host.Outcome State Fault Refusal :=
  .next (hpdRise o lowSamples lostLock caps s)

/-- HPD_UNPLUG (R364). -/
def execHpdUnplug (o : Fin 2) (s : State) : Host.Outcome State Fault Refusal := .next (dpUnplug o s)

/-- DP_TRAIN_DONE (R363). -/
def execDpTrainDone (o : Fin 2) (trained : List (Fin 3 × Fin 4)) (s : State) : Host.Outcome State Fault Refusal :=
  .next (dpTrainDone o (trained.map (fun q => (q.1.val, q.2.val))) s)

/-- VBLANK_START (R372). -/
def execVblankStart (s : State) : Host.Outcome State Fault Refusal := .next (vblankStart s)

/-- UNDERRUN (R371). -/
def execUnderrun (s : State) : Host.Outcome State Fault Refusal := .next (underrun s)

end Sys2Proof.Machine
end

