-- ==== Sys2Proof/Machine/Evt.lean ====
section
/-! DEFINITION. Event timing inputs (spec/03_event_timing.md): edges, gates, edge queues, pairing units, calibration. -/

namespace Sys2Proof.Machine

def State.evtIn (s : State) (n : Nat) : EvtIn := Tbl.get EvtIn.init s.evt.inp n
def State.setEvt (s : State) (n : Nat) (x : EvtIn) : State := { s with evt := { s.evt with inp := Tbl.set s.evt.inp n x } }
def State.pairSt (s : State) (k : Nat) : PairSt := Tbl.get PairSt.init s.evt.pair k
def State.setPair' (s : State) (k : Nat) (x : PairSt) : State := { s with evt := { s.evt with pair := Tbl.set s.evt.pair k x } }

/-- SKEW of a trim set: set 8 is PPS_IN (R59). -/
def skewOff (m : Nat) : Nat := if m = 8 then R.EVT_PPS_SKEW else R.EVT_SKEW m

/-- The DT of an edge in a tap of the present TCLK cycle (R59). -/
def edgeDt (s : State) (m tap : Nat) : Int :=
  s.clk.dt + tap * 1280 + sext 12 (s.wordN (R.EVT_TRIM m tap)) - sext 32 (s.wordN (skewOff m))

/-- Is the input or PPS_IN (8) under calibration: the first of those that CAL still has to calibrate (R69)? -/
def State.evtCalBusy (s : State) (n : Nat) : Bool := s.evt.cal.head? == some n

/-! Pairing (R66 to R68). -/

/-- Store a record: a full queue drops it (R68). -/
def pairStore (k : Nat) (r : PairRec) (s : State) : State :=
  let x := s.pairSt k
  if x.q.length < 64 then
    let s1 := s.setPair' k { x with q := x.q ++ [{ r with loss := x.loss }], loss := false }
    if x.q.isEmpty then raise hEvt (8 + k) s1 else s1
  else raise hEvt 12 ((s.setPair' k { x with loss := true }).bumpSat (R.PAIR_LOST k) 1)

/-- The record of a start and a stop; less than a tap apart it carries UNRES (R67). -/
def pairRec (a b : PairEdge) (order rearm : Bool) : PairRec :=
  let d := b.dt - a.dt
  let un := decide (d.natAbs < 1280)
  { unres := un, order := order && !un, rearm := rearm, coast := a.coast || b.coast, stale := a.stale || b.stale, loss := false,
    startSeq := a.seq, stopSeq := b.seq, interval := if un then 0 else d }

/-- A start edge is processed (R66). -/
def pairStart (k : Nat) (e : PairEdge) (s : State) : State :=
  let x := s.pairSt k
  match x.orphan with
  | some o => pairStore k (pairRec e o (decide (o.dt < e.dt)) false) (s.setPair' k { x with orphan := none, start := none, rearm := false })
  | none => s.setPair' k { x with start := some e, rearm := x.start.isSome }

/-- A stop edge is processed (R66). -/
def pairStop (k : Nat) (e : PairEdge) (s : State) : State :=
  let x := s.pairSt k
  match x.start, x.orphan with
  | some a, _ => pairStore k (pairRec a e (decide (e.dt < a.dt)) x.rearm) (s.setPair' k { x with start := none, rearm := false })
  | none, some _ => (s.setPair' k { x with orphan := some e }).bumpSat (R.PAIR_ORPHAN k) 1
  | none, none => s.setPair' k { x with orphan := some e }

/-- TCLK cycles after an arrival from which no edge can arrive with an earlier DT: the tap, both trims and the skews can put a later arrival that far back (R59). -/
def pairReach (s : State) (k : Nat) : Nat :=
  (23294 + (sext 32 (s.wordN (skewOff (2 * k))) - sext 32 (s.wordN (skewOff (2 * k + 1)))).natAbs) / 20477 + 1

/-- Is the first edge processed before the second: by DT, a start before a stop of equal DT (R66)? -/
def pairFirst (a b : PairWait) : Bool := decide (a.edge.dt < b.edge.dt) || (a.edge.dt == b.edge.dt && (!a.stop || b.stop))

/-- An edge joins those that wait. -/
def pairInsert (w : PairWait) : List PairWait → List PairWait
  | [] => [w]
  | a :: t => if pairFirst a w then a :: pairInsert w t else w :: a :: t

/-- Process the first `n` edges that wait. -/
def pairSettle (k n : Nat) (s : State) : State :=
  let x := s.pairSt k
  if n = 0 then s
  else (x.wait.take n).foldl (fun s w => if w.stop then pairStop k w.edge s else pairStart k w.edge s) (s.setPair' k { x with wait := x.wait.drop n })

/-- Process the edges before which no other can come any more (R66). -/
def pairAge (k : Nat) (s : State) : State :=
  let x := s.pairSt k
  pairSettle k (x.wait.length - (x.wait.reverse.takeWhile (fun w => decide (s.tclk < w.arr + pairReach s k))).length) s

/-- An accepted edge reaches the pairing unit of its input pair (R66).  With MODE 1 the edges of the one input arrive in order; with MODE 0 they wait for it. -/
def pairEdge (n : Nat) (falling : Bool) (e : PairEdge) (s : State) : State :=
  let k := n / 2
  if !s.flag (R.PAIR_CFG_EN k) then s
  else if s.flag (R.PAIR_CFG_MODE k) then
    if n % 2 = 1 then s else if falling then pairStop k e s else pairStart k e s
  else
    let s1 := pairAge k s
    let x := s1.pairSt k
    s1.setPair' k { x with wait := pairInsert { stop := n % 2 == 1, arr := s.tclk, edge := e } x.wait }

/-! Edges (R57 to R63). -/

/-- The level of an input over its threshold in mV: of EVTn_P over THRESH × 10 mV, or between the pins (R56). -/
def pinLevel (s : State) (n : Nat) (w : PinSwing) : Int :=
  if s.flag (R.EVT_CFG_DIFF n) then w.p - w.n else w.p - 10 * (s.fld (R.EVT_CFG_THRESH n) : Int)

/-- The edge that a swing of the pins makes, if any: the comparator switches beyond half its hysteresis of HYST × 10 mV on either side of the threshold (R56); falling? -/
def pinEdge (s : State) (n : Nat) (w : PinSwing) : Option Bool :=
  let h : Int := 5 * (s.fld (R.EVT_CFG_HYST n) : Int)
  if (s.evtIn n).high then (if pinLevel s n w < -h then some true else none)
  else if h < pinLevel s n w then some false else none

/-- Is an edge of this polarity selected? -/
def edgeSelected (s : State) (n : Nat) (falling : Bool) : Bool :=
  let e := s.fld (R.EVT_CFG_EDGE n)
  e == 2 || falling == (e == 1)

/-- Does the gate admit an edge (R60)? -/
def gateOpen (s : State) (n : Nat) : Bool :=
  let m := s.fld (R.EVT_CFG_GATE_MODE n)
  if m = 1 then Tbl.get false s.evt.gate (n / 2) == s.flag (R.EVT_CFG_GATE_POL n)
  else if m = 2 then (s.evtIn n).armed
  else true

/-- An accepted edge: counters, queue entry (R61, R62), the Weir sequencers (R63), the pairing unit. -/
def edgeAccept (n tap : Nat) (falling : Bool) (s : State) : State :=
  let x := s.evtIn n
  let stale := s.evtCalBusy n
  let dt := edgeDt s n tap
  let e : EvtEntry := { seq := x.seq % 256, loss := x.loss, stale := stale, coast := s.coast, falling := falling, dt := dt }
  let y := { x with seq := x.seq + 1, last := some s.tclk, armed := if s.fld (R.EVT_CFG_GATE_MODE n) = 2 then false else x.armed }
  let s1 := s.bump64 (R.EVT_ACC n) 1
  let s2 := if x.q.length < 512 then
              let s2 := s1.setEvt n { y with q := x.q ++ [e], loss := false }
              if x.q.isEmpty then raise hEvt n s2 else s2
            else raise hEvt 12 ((s1.setEvt n { y with loss := true }).bump64 (R.EVT_LOST n) 1)
  let s3 := { s2 with weir := { s2.weir with edges := (n, dt.toNat) :: s2.weir.edges } }
  pairEdge n falling { seq := x.seq % 256, coast := e.coast, stale := stale, dt := dt } s3

/-- An edge at an input's comparator (R57): not selected, refused by the gate, refused and counted, or accepted.  Near a gate transition the FJV
may pass or refuse it (R60): a free value decides. -/
def evtEdgeAt (n tap : Nat) (falling near : Bool) (s : State) : State :=
  if !(s.flag (R.EVT_CFG_EN n) && edgeSelected s n falling) then s
  else
    let gated := s.fld (R.EVT_CFG_GATE_MODE n) == 1 || s.fld (R.EVT_CFG_GATE_MODE n) == 2
    let f := if near && gated then s.takeFree 2 else (b2n (gateOpen s n), s)
    if f.1 = 0 then f.2
    else
      let x := f.2.evtIn n
      let dead := match x.last with
        | some t => decide (f.2.tclk < t + 2 + f.2.fld (R.EVT_HOLDOFF_HOLDOFF n))
        | none => false
      if dead || decide (f.2.tclk < x.blankEnd) then f.2.bump64 (R.EVT_MISS n) 1
      else edgeAccept n tap falling f.2

/-- The pins of an input swing (R56). -/
def evtEdge (n tap : Nat) (pin : PinSwing) (near : Bool) (s : State) : State :=
  match pinEdge s n pin with
  | none => s
  | some falling => evtEdgeAt n tap falling near (s.setEvt n { s.evtIn n with high := !falling })

/-- A write to EVTn_CFG: 1 µs of blanking on an enabled input (R58). -/
def evtCfgWrite (n v be : Nat) (s : State) : State :=
  let s1 := writeFields (R.EVT_CFG n) v be s
  if s.flag (R.EVT_CFG_EN n) then s1.setEvt n { s1.evtIn n with blankEnd := s.tclk + 3200 } else s1

/-- A held orphan stop is discarded: counted, and ORPHAN is raised (R66, R70). -/
def orphanDiscard (k : Nat) (s : State) : State :=
  match (s.pairSt k).orphan with
  | none => s
  | some _ => raise hEvt 13 ((s.setPair' k { s.pairSt k with orphan := none }).bumpSat (R.PAIR_ORPHAN k) 1)

/-- A write to PAIRk_CFG: the edges accepted before it are processed; clearing EN discards the armed start and a held orphan (R71). -/
def pairCfgWrite (k v be : Nat) (s : State) : State :=
  let s1 := writeFields (R.PAIR_CFG k) v be (pairSettle k (s.pairSt k).wait.length s)
  if s1.flag (R.PAIR_CFG_EN k) then s1
  else orphanDiscard k (s1.setPair' k { s1.pairSt k with start := none, rearm := false })

/-- GATEk takes a level; a transition to GATE_POL arms the one-shot inputs (R60). -/
def gateTransition (k : Nat) (level : Bool) (s : State) : State :=
  let old := Tbl.get false s.evt.gate k
  let s1 := { s with evt := { s.evt with gate := Tbl.set s.evt.gate k level } }
  if old == level then s1
  else [2 * k, 2 * k + 1].foldl (fun s n =>
    if s.fld (R.EVT_CFG_GATE_MODE n) = 2 ∧ s.flag (R.EVT_CFG_GATE_POL n) = level then s.setEvt n { s.evtIn n with armed := true } else s) s1

/-! Reads (R61, R68). -/

/-- The four words of an edge entry. -/
def entryWords (n : Nat) (e : EvtEntry) : List Nat :=
  let d := dtPack e.dt.toNat
  [e.seq * 2 ^ 24 + 2 ^ 23 + b2n e.loss * 2 ^ 22 + b2n e.stale * 2 ^ 21 + b2n e.coast * 2 ^ 20 + b2n e.falling * 2 ^ 19 + n * 2 ^ 16 + bits d 15 0,
   bits d 47 16, bits d 79 48, bits d 95 80]

/-- The four words of an interval record. -/
def recordWords (r : PairRec) : List Nat :=
  let i := enc 64 r.interval
  [1 + 2 * b2n r.unres + 4 * b2n r.order + 8 * b2n r.rearm + 16 * b2n r.coast + 32 * b2n r.stale + 64 * b2n r.loss +
     r.startSeq * 2 ^ 8 + r.stopSeq * 2 ^ 16, bits i 31 0, bits i 63 32, 0]

/-- Latch the words of a popped entry: words 1 to 3 are read later (R61). -/
def popWords (path : Path) (off : Nat) (ws : List Nat) (s : State) : State :=
  ((((s.setWord (off + 4) ((ws[1]?).getD 0)).setWord (off + 8) ((ws[2]?).getD 0)).setWord (off + 12) ((ws[3]?).getD 0))).emit
    (.regRead path off ((ws[0]?).getD 0))

/-- A read of EVTn_QPOP0. -/
def evtPop (path : Path) (n : Nat) (s : State) : State :=
  let x := s.evtIn n
  match x.q with
  | [] => popWords path (R.EVT_QPOP n 0) [0, 0, 0, 0] s
  | e :: t => popWords path (R.EVT_QPOP n 0) (entryWords n e) (s.setEvt n { x with q := t })

/-- A read of PAIRk_QPOP0. -/
def pairPop (path : Path) (k : Nat) (s : State) : State :=
  let x := s.pairSt k
  match x.q with
  | [] => popWords path (R.PAIR_QPOP k 0) [0, 0, 0, 0] s
  | r :: t => popWords path (R.PAIR_QPOP k 0) (recordWords r) (s.setPair' k { x with q := t })

/-- EVTn_STATUS and PAIRk_STATUS (R71). -/
def evtStatus (s : State) (n : Nat) : Nat :=
  b2n (s.evtCalBusy n) * 2 ^ 12 + b2n (s.evtIn n).armed * 2 ^ 11 + b2n (Tbl.get false s.evt.gate (n / 2)) * 2 ^ 10 + (s.evtIn n).q.length
def pairStatus (s : State) (k : Nat) : Nat :=
  b2n (s.pairSt k).orphan.isSome * 2 ^ 8 + b2n (s.pairSt k).start.isSome * 2 ^ 7 + (s.pairSt k).q.length

/-! Commands and calibration (R64, R65, R69). -/

def evtCalCmd (s : State) : Code × State :=
  let m := s.wordN R.EVT_CMD_MASK
  if !s.evt.cal.isEmpty then refuse .busy s
  else if m = 0 then refuse .range s
  else (.ok, { s with evt := { s.evt with cal := (List.range 9).filter (fun n => bitAt m n) } })

def flushCmd (s : State) : Code × State :=
  let m := s.wordN R.EVT_CMD_MASK
  let s1 := (List.range 8).foldl (fun s n => if bitAt m n then s.setEvt n { s.evtIn n with q := [] } else s) s
  (.ok, (List.range 4).foldl (fun s k => if bitAt m (2 * k) then s.setPair' k { s.pairSt k with q := [] } else s) s1)

/-- May a trim be held in its 12 bits? -/
def trimOk (t : Int) : Bool := !clampsS 12 t

/-- The calibration of one input ends (R65): trims and skew in force and journalled; out of the field's range the old values stay (R107). -/
def evtCalInputEnd (trims : List Int) (skew : Int) (s : State) : State :=
  match s.evt.cal with
  | [] => s
  | n :: rest =>
    let s1 := { s with evt := { s.evt with cal := rest } }
    let s2 :=
      if trims.all trimOk && !clampsS 32 skew then
        let s2 := (trims.zip (List.range 16)).foldl (fun s t => s.setWord (R.EVT_TRIM n t.2) (enc 12 t.1)) s1
        journal 3 n (trims ++ [skew]) (s2.setWord (skewOff n) (enc 32 skew))
      else s1
    if rest.isEmpty then raise hEvt 14 s2 else s2

/-! Meanings of the commands of spec/03. -/

/-- EVT_EDGE (R57). -/
def execEvtEdge (n : Fin 8) (tap : Fin 16) (pin : PinSwing) (nearGate : Bool) (s : State) : Host.Outcome State Fault Refusal :=
  .next (evtEdge n tap pin nearGate s)

/-- ORPHAN_DISCARD (R66). -/
def execOrphanDiscard (k : Fin 4) (s : State) : Host.Outcome State Fault Refusal := .next (orphanDiscard k s)

/-- EVT_CFG_WRITE (R58). -/
def execEvtCfgWrite (n : Fin 8) (val : Word) (be : BitVec 4) (s : State) : Host.Outcome State Fault Refusal :=
  .next (evtCfgWrite n val.toNat be.toNat s)

/-- PAIR_CFG_WRITE (R71). -/
def execPairCfgWrite (k : Fin 4) (val : Word) (be : BitVec 4) (s : State) : Host.Outcome State Fault Refusal :=
  .next (pairCfgWrite k val.toNat be.toNat s)

/-- GATE_TRANSITION (R60). -/
def execGateTransition (k : Fin 4) (level : Bool) (s : State) : Host.Outcome State Fault Refusal := .next (gateTransition k level s)

/-- EVT_QPOP0_READ (R61). -/
def execEvtQpop0Read (path : Path) (n : Fin 8) (s : State) : Host.Outcome State Fault Refusal := .next (evtPop path n s)

/-- PAIR_QPOP0_READ (R68). -/
def execPairQpop0Read (path : Path) (k : Fin 4) (s : State) : Host.Outcome State Fault Refusal := .next (pairPop path k s)

/-- EVT_CAL (R69). -/
def execEvtCal (s : State) : Host.Outcome State Fault Refusal := .next (runCmd hEvt 1 evtCalCmd s)

/-- FLUSH (R69). -/
def execFlush (s : State) : Host.Outcome State Fault Refusal := .next (runCmd hEvt 2 flushCmd s)

/-- EVT_CAL_INPUT_END (R65). -/
def execEvtCalInputEnd (trims : List Int) (skew : Int) (s : State) : Host.Outcome State Fault Refusal :=
  .next (evtCalInputEnd trims skew s)

end Sys2Proof.Machine
end

