-- ==== Sys2Proof/Machine/Clock.lean ====
section
/-! DEFINITION. Clocks, Wellspring and device time (spec/02_clocks_timebase.md). -/

namespace Sys2Proof.Machine

/-! References and lock (R36 to R42). -/

def refOk (r : Nat) : Loc := if r = 0 then R.CLK_WS_STATUS_REFA_OK else R.CLK_WS_STATUS_REFB_OK
def State.actRef (s : State) : Nat := s.fld R.CLK_WS_STATUS_ACT_REF
def State.qual (s : State) (r : Nat) : Nat := if r = 0 then s.clk.qualA else s.clk.qualB
def State.setQual (s : State) (r n : Nat) : State :=
  if r = 0 then { s with clk := { s.clk with qualA := n } } else { s with clk := { s.clk with qualB := n } }

/-- Distance of a window's TCLK count from the expected count, in hundredths: 1,342,177.28 on REFA, 20,971,520 on REFB. -/
def lockDist (r count : Nat) : Nat := ((count : Int) * 100 - (if r = 0 then 134217728 else 2097152000)).natAbs

/-- NO_REF is set while both references are bad (R54). -/
def noRef (s : State) : State := putFault hClk 2 (!s.flag (refOk 0) && !s.flag (refOk 1)) s

/-- Release the frozen control value to a reference (R41); to another than the active one it is a switch (R42). -/
def releaseTo (r : Nat) (s : State) : State :=
  let sw := s.actRef != r
  let s1 := ((s.setFlag R.CLK_WS_STATUS_HOLDOVER false).setFld R.CLK_WS_STATUS_ACT_REF r).setFld R.CLK_WS_STATUS_GOOD_WIN 0
  if sw then raise hClk 2 s1 else s1

/-- Enter holdover: the control value is frozen at its mean over the last good window (R38). -/
def enterHoldover (s : State) : State :=
  let s1 := (s.setWord R.CLK_WS_HOLDVAL s.clk.mean).setWord R.CLK_WS_CTRLVAL s.clk.mean
  ((s1.setFlag R.CLK_WS_STATUS_HOLDOVER true).setFlag R.CLK_WS_STATUS_LOCK false).setFld R.CLK_WS_STATUS_GOOD_WIN 0

/-- In holdover the references qualify by windows that end in it (R41, R42): no earlier window counts. -/
def judgeAnew (s : State) : State := { s with clk := { s.clk with qualA := 0, qualB := 0 } }

/-- A reference becomes bad (R38): REF_LOST when it is the active one, in holdover too when it was not bad until now.  At the loss AUTO switches to the other
reference when that is qualified already (R42). -/
def refBad (r : Nat) (s : State) : State :=
  let s1 := noRef ((s.setFlag (refOk r) false).setQual r 0)
  if r ≠ s.actRef then s1
  else if s.flag R.CLK_WS_STATUS_HOLDOVER then (if s.flag (refOk r) then raise hClk 1 s1 else s1)
  else
    let s2 := raise hClk 1 (enterHoldover s1)
    if s.fld R.CLK_REF_CTRL_REF_SEL = 2 ∧ 4 ≤ s2.qual (1 - r) then releaseTo (1 - r) s2 else judgeAnew s2

/-- References that holdover may release to (R41, R42). -/
def refAllowed (s : State) (r : Nat) : Bool := s.fld R.CLK_REF_CTRL_REF_SEL == 2 || s.fld R.CLK_REF_CTRL_REF_SEL == r

/-- The end of a counting window of reference `r`: TCLK count, present control value and its mean over the window (R36 to R38, R41).  Every window's count goes to
CLK_LOCK_COUNT, and a bad reference is good again from the end of the first window within ±256 counts (log entry 70); `skip`: a release waits for the other window
that ends in the same moment. -/
def lockWindow (r count ctl mean : Nat) (skip : Bool) (s : State) : State :=
  let d := lockDist r count
  let s0 := s.setWord R.CLK_LOCK_COUNT count
  if 25600 < d then refBad r s0
  else
    let s1 := noRef ((s0.setFlag (refOk r) true).setQual r (min 4 (s.qual r + 1)))
    if s.flag R.CLK_WS_STATUS_HOLDOVER then
      if 4 ≤ s1.qual r ∧ refAllowed s r = true ∧ skip = false then releaseTo r (s1.setWord R.CLK_WS_CTRLVAL ctl) else s1
    else if r = s.actRef then
      let s2 := s1.setWord R.CLK_WS_CTRLVAL ctl
      if d ≤ 200 then
        let g := min 4 (s.fld R.CLK_WS_STATUS_GOOD_WIN + 1)
        let s3 := { s2 with clk := { s2.clk with mean := mean } }.setFld R.CLK_WS_STATUS_GOOD_WIN g
        if g = 4 ∧ s.flag R.CLK_WS_STATUS_LOCK = false then raise hClk 3 (s3.setFlag R.CLK_WS_STATUS_LOCK true) else s3
      else raise hClk 0 ((s2.setFld R.CLK_WS_STATUS_GOOD_WIN 0).setFlag R.CLK_WS_STATUS_LOCK false)
    else s1

/-- Windows of both references end in one moment: the reference that is not active is judged first, and holdover is released to the active one when both qualify (R42). -/
def lockWindows (r count ctl mean : Nat) (also : Option Nat) (s : State) : State :=
  match also with
  | none => lockWindow r count ctl mean false s
  | some c =>
    let a := s.actRef
    let ca := if r = a then count else c
    let co := if r = a then c else count
    let s1 := lockWindow a ca ctl mean false (lockWindow (1 - a) co ctl mean true s)
    if s1.flag R.CLK_WS_STATUS_HOLDOVER = true ∧ 4 ≤ s1.qual (1 - a) ∧ refAllowed s1 (1 - a) = true then
      releaseTo (1 - a) (s1.setWord R.CLK_WS_CTRLVAL ctl)
    else s1

/-! Clock outputs (R43, R44). -/

/-- Least DIV of an output format (R43). -/
def minDiv (fmt : Nat) : Nat := if fmt = 1 then 32 else if fmt = 3 then 52 else 8

/-- Does the output break R43? -/
def coutBad (s : State) (o : Nat) : Bool :=
  s.flag (R.CLK_COUT_CFG_EN o) && s.fld (R.CLK_COUT_CFG_SRC o) == 0 && decide (s.fld (R.CLK_COUT_CFG_DIV o) < minDiv (s.fld (R.CLK_COUT_CFG_FMT o)))

def State.cout (s : State) (o : Nat) : Cout := Tbl.get Cout.init s.clk.cout o
def setCout (o : Nat) (c : Cout) (s : State) : State :=
  if s.cout o = c then s else { s with clk := { s.clk with cout := Tbl.set s.clk.cout o c } }.emit (.clockOut o c.mode c.start c.div)

/-- The VCO cycle of the coincident divider edge that comes next, the present one included: every CCLK edge is one (R34), 64 VCO cycles apart. -/
def State.nextEdge (s : State) : Nat := 64 * cdiv s.tclk 16

/-- Start and ratio that an output follows in a VCO cycle. -/
def Cout.ratio (c : Cout) (v : Nat) : Nat × Nat := if v < c.start then c.old.getD (c.start, c.div) else (c.start, c.div)

/-- Is the output of a ratio high in VCO cycle `v`: it rises every DIV cycles and stays high for floor(DIV/2) (R44)? -/
def ratioHigh (x : Nat × Nat) (v : Nat) : Bool := decide (x.1 ≤ v) && decide ((v - x.1) % x.2 < x.2 / 2)

/-- Is a running output of SRC = 0 high in VCO cycle `v`? -/
def Cout.high (c : Cout) (v : Nat) : Bool := c.mode == 2 && ratioHigh (c.ratio v) v

/-- The first coincident edge from `v` on at which an output of this ratio is low or would rise (R44); within DIV edges one is a whole number of periods away. -/
def lowEdge (x : Nat × Nat) : Nat → Nat → Nat
  | 0, v => v
  | n + 1, v => if v ≤ x.1 || (v - x.1) % x.2 == 0 || !ratioHigh x v then v else lowEdge x n (v + 64)

/-- The output starts on the next coincident divider edge with its present settings (R44). -/
def startCout (o : Nat) (s : State) : State := setCout o { mode := 2, start := s.nextEdge, div := s.fld (R.CLK_COUT_CFG_DIV o), old := none } s

/-- A change of DIV alone: the present high phase ends, then the new ratio rises on a coincident edge (R44). -/
def divCout (o : Nat) (s : State) : State :=
  let c := s.cout o
  let d := s.fld (R.CLK_COUT_CFG_DIV o)
  let x := c.ratio s.nextEdge
  if c.mode ≠ 2 ∨ s.fld (R.CLK_COUT_CFG_SRC o) ≠ 0 ∨ c.div = d then s
  else setCout o { c with start := lowEdge x x.2 s.nextEdge, div := d, old := some x } s

/-- The check of R43 and the change of an output at a commit (R44); `old` holds the settings before.  An output that EN = 0 kept in high impedance starts at
once, whatever else the snapshot changes (log entry 70). -/
def coutCommit (old : State) (o : Nat) (s : State) : State :=
  let s1 := if coutBad s o then s.setFlag (R.CLK_COUT_CFG_EN o) false else s
  let same := bits (old.wordN (R.CLK_COUT_CFG o)) 21 16 == bits (s1.wordN (R.CLK_COUT_CFG o)) 21 16
  if !s1.flag (R.CLK_COUT_CFG_EN o) || s1.fld (R.CLK_COUT_CFG_SRC o) == 3 then setCout o Cout.init s1
  else if !old.flag (R.CLK_COUT_CFG_EN o) then startCout o s1
  else if same then divCout o s1
  else setCout o { Cout.init with mode := 1 } s1

/-! Rivulet (R487). -/

/-- The raster restarts when RIV_LOCK returns, and stops while it is lost (R367). -/
def setRivLock (b : Bool) (s : State) : State := rasterUpdate (s.setFlag R.CLK_RIV_CFG_RIV_LOCK b)

/-- Is a window of Rivulet good: count and expected count × 256 (R487)? -/
def rivGood (s : State) (count : Nat) : Bool :=
  let e := rivN s
  let c := count * 256
  let d := s.fld R.CLK_RIV_CFG_SS_DEPTH + 1
  let m := s.fld R.CLK_RIV_CFG_SS_MODE
  if m = 1 then decide (e * (800 - d) ≤ (c + 512) * 800) && decide (c ≤ e + 512)
  else if m = 2 then decide (e * (1600 - d) ≤ (c + 512) * 1600) && decide (c * 1600 ≤ e * (1600 + d) + 512 * 1600)
  else decide (c ≤ e + 512) && decide (e ≤ c + 512)

/-- The end of a window of 2^16 CCLK cycles. -/
def rivWindow (count : Nat) (s : State) : State :=
  if !rivRuns s then s
  else if rivGood s count then
    let g := min 4 (s.clk.rivGood + 1)
    let s1 := { s with clk := { s.clk with rivGood := g } }
    if g = 4 ∧ s.flag R.CLK_RIV_CFG_RIV_LOCK = false then clearFault hClk 1 (setRivLock true s1) else s1
  else
    let s1 := { s with clk := { s.clk with rivGood := 0 } }
    if s.flag R.CLK_RIV_CFG_RIV_LOCK then setFault hClk 1 (setRivLock false s1) else s1

/-- Rivulet at a commit: changed dividers clear its lock; a stopped Rivulet has none, and no fault. -/
def rivCommit (old : State) (s : State) : State :=
  let chg := rivN old != rivN s || old.fld R.CLK_RIV_CFG_ODIV != s.fld R.CLK_RIV_CFG_ODIV
  let s1 := if chg || !rivRuns s then
              let s1 := { s with clk := { s.clk with rivGood := 0 } }
              if s.flag R.CLK_RIV_CFG_RIV_LOCK then setRivLock false s1 else s1
            else s
  dpSpread (if rivRuns s1 then s1 else clearFault hClk 1 s1)

/-! The commit point (R35). -/

/-- A committed REF_SEL that selects the other reference passes through holdover (R42), with no REF_LOST (log entry 70). -/
def refCommit (s : State) : State :=
  let sel := s.fld R.CLK_REF_CTRL_REF_SEL
  if sel < 2 ∧ sel ≠ s.actRef then
    let hold := s.flag R.CLK_WS_STATUS_HOLDOVER
    let s1 := if hold then s else enterHoldover s
    if 4 ≤ s1.qual sel then releaseTo sel s1 else if hold then s1 else judgeAnew s1
  else s

/-- The outputs, with FAULT.COUT_CFG (R43). -/
def coutsCommit (old s : State) : State :=
  let bad := coutBad s 0 || coutBad s 1
  putFault hClk 0 bad (coutCommit old 1 (coutCommit old 0 s))

/-- Apply the clock unit's snapshot; REF_SEL = 3 keeps the selection (R55). -/
def clockCommit (s : State) : State :=
  match s.snapOf hClk with
  | none => s
  | some ws =>
    let s1 := dropSnap hClk (overlay s ws)
    let s2 := if s1.fld R.CLK_REF_CTRL_REF_SEL = 3 then s1.setFld R.CLK_REF_CTRL_REF_SEL (s.fld R.CLK_REF_CTRL_REF_SEL) else s1
    rivCommit s (coutsCommit s (refCommit s2))

/-! Device time (R47 to R53). -/

/-- The DT counter wraps at 2^48 seconds. -/
def dtMod : Nat := 2 ^ 48 * unitsPerSec

/-- Add to DT. -/
def dtAdd (x : Int) (s : State) : State := { s with clk := { s.clk with dt := ((s.clk.dt + x) % dtMod).toNat } }

/-- The whole second nearest a time, the earlier on a tie (R47). -/
def nearestSec (t : Int) : Int := (2 * t + unitsPerSec - 1) / (2 * unitsPerSec)

/-- 2^PPS_WIN ns in units of 1/65,536 ns. -/
def ppsWin (s : State) : Nat := 2 ^ s.fld R.CLK_DT_CTRL_PPS_WIN * 65536

/-- The servo (R51). -/
def servo (e : Int) (s : State) : State :=
  let acc := swrap 64 (s.clk.acc + e)
  let rate := clampI (-2147483647) 2147483647 (swrap 64 (-(asr e (s.fld R.CLK_DT_CTRL_KP_SHIFT)) - asr acc (s.fld R.CLK_DT_CTRL_KI_SHIFT)))
  { s with clk := { s.clk with acc := acc, lastAcc := s.tclk } }.setWord R.CLK_DT_RATE (enc 32 rate)

/-- Enter TRACK.  The measurement that completes the four does not run the servo; the 2 s of R47 count from it (log entry 70). -/
def dtTrack (s : State) : State :=
  raise hClk 5 ({ s with clk := { s.clk with run := [], lastAcc := s.tclk } }.setFld R.CLK_DT_STATUS_STATE 2)

/-- Do the measurements differ from one another by at most `w`? -/
def agree (w : Nat) (l : List Int) : Bool := l.all (fun a => l.all (fun b => decide ((a - b).natAbs ≤ w)))

/-- The automatic step (R48): with PPS the edge becomes a whole second, with SETTOD pending the second of CLK_DT_TOD; with PTP, DT becomes the PTP time. -/
def autoStep (pps : Bool) (edge e : Int) (s : State) : State :=
  let s1 := { s with clk := { s.clk with autoDone := true, run := [] } }
  if pps then
    match s.clk.tod with
    | some t => dtAdd (t * unitsPerSec - edge) { s1 with clk := { s1.clk with tod := none } }
    | none => dtAdd (-(edge % unitsPerSec)) s1
  else dtAdd (-e) s1

/-- A measurement of the source in force: error `e`, and for PPS the DT of the edge (R47, R49).  The automatic step is taken at the first measurement of this
ACQUIRE at which AUTO_STEP is 1 (log entry 70). -/
def measure (pps : Bool) (edge e : Int) (s0 : State) : State :=
  let s := s0.setWord R.CLK_PPS_ERR (enc 32 (clampS 32 e))
  let w := ppsWin s
  let st := s.fld R.CLK_DT_STATUS_STATE
  if st = 1 then
    if s.flag R.CLK_DT_CTRL_AUTO_STEP && !s.clk.autoDone then autoStep pps edge e s
    else if e.natAbs ≤ w then
      let run := e :: s.clk.run
      if run.length = 4 then dtTrack s else { s with clk := { s.clk with run := run } }
    else { s with clk := { s.clk with run := [] } }
  else if st = 2 then
    if e.natAbs ≤ w then servo e s
    else raise hClk 7 (s.setFld R.CLK_DT_STATUS_REJECT_CNT (satAdd 16 (s.fld R.CLK_DT_STATUS_REJECT_CNT) 1))
  else if st = 3 then
    if e.natAbs ≤ 655360000 then
      let run := (e :: s.clk.run).take 4
      if run.length = 4 ∧ agree w run = true then dtTrack s else { s with clk := { s.clk with run := run } }
    else
      let s1 := { s with clk := { s.clk with run := [], restepOk := false } }
      if s.clk.restepOk then raise hClk 8 s1 else s1
  else s

/-- An active PPS_IN edge (R31, R47): which edge is active, PPS_EDGE has told the interpolator (log entry 70). -/
def ppsMeasure (tap : Nat) (s : State) : State :=
  let edge := edgeDt s 8 tap
  let s1 := { s with clk := { s.clk with lastPps := some s.tclk } }
  if s.clk.src = 1 then measure true edge (edge - nearestSec edge * unitsPerSec) s1 else s1

/-- The measurement of a DT second by PTP (R351): the exchange with the smallest round trip. -/
def ptpSecond (s : State) : State :=
  match s.ptp.best with
  | none => s
  | some (rt, off) =>
    let ns := clampS 32 (off / 65536)
    let s1 := ({ s with ptp := { s.ptp with best := none } }.setWord R.PTP_OFFSET (enc 32 ns)).setWord R.PTP_DELAY (enc 32 (rt / 2 / 65536))
    if s.clk.src = 2 then measure false 0 off s1 else s1

/-- STEP (R50): STATE is tested before BUSY, and the offset is that of CLK_DT_STEP at the acceptance (log entry 70). -/
def dtStepCmd (s : State) : Code × State :=
  if s.fld R.CLK_DT_STATUS_STATE = 2 then refuse .state s
  else if s.clk.step.isSome then refuse .busy s
  else (.ok, { s with clk := { s.clk with step := some (sext 64 (s.pair R.CLK_DT_STEP_LO)) } })

/-- The pending step is added (R50). -/
def dtStepApply (s : State) : State :=
  match s.clk.step with
  | none => s
  | some n =>
    let s1 := dtAdd (n * 65536) s
    raise hClk 6 { s1 with clk := { s1.clk with step := none, run := [], restepOk := true } }

/-- SETTOD (R53). -/
def settodCmd (s : State) : Code × State :=
  if s.clk.tod.isSome then refuse .busy s
  else (.ok, { s with clk := { s.clk with tod := some (s.pair R.CLK_DT_TOD_LO % 2 ^ 48) } })

/-- The pending SETTOD takes effect at a PPS edge, or at a whole second when the source is not PPS_IN (R53). -/
def settodApply (tap : Nat) (s : State) : State :=
  match s.clk.tod with
  | none => s
  | some t =>
    let e := if s.clk.src = 1 then edgeDt s 8 tap else s.clk.dt
    let s1 := dtAdd ((t - nearestSec e) * unitsPerSec) s
    { s1 with clk := { s1.clk with tod := none } }

/-- The source that CLK_DT_CTRL names: 3 is treated as 0. -/
def dtSource (s : State) : Nat := if s.fld R.CLK_DT_CTRL_SRC = 3 then 0 else s.fld R.CLK_DT_CTRL_SRC

/-- DTRESTART (R53). -/
def dtRestart (s : State) : State :=
  let src := dtSource s
  let s1 := { s with clk := { s.clk with src := src, acc := 0, run := [], autoDone := false, restepOk := true } }
  (s1.setFld R.CLK_DT_STATUS_STATE (if src = 0 then 0 else 1)).setFld R.CLK_DT_STATUS_REJECT_CNT 0

/-- The dividers start: DT = 0 and its state at start-up (R34, R47). -/
def dtStart (s : State) : State :=
  let t := dtRestart s
  { t with clk := { t.clk with dt := 0, dtFrac := 0, t0 := s.tclk } }

/-- CLK_DT_STATUS with its computed bits, and CLK_WS_STATUS with PPS_OK: an edge within the last 1.1 s (R55). -/
def dtStatus (s : State) : Nat :=
  bits (s.wordN R.CLK_DT_STATUS) 31 16 * 2 ^ 16 + 16 * b2n s.clk.tod.isSome + 8 * b2n s.clk.step.isSome + 4 * b2n s.coast + s.fld R.CLK_DT_STATUS_STATE
def wsStatus (s : State) : Nat :=
  let ok := match s.clk.lastPps with | some t => decide (s.tclk ≤ t + 3520000000) | none => false
  putBits (s.wordN R.CLK_WS_STATUS) 4 4 (b2n ok)

/-- A read of CLK_DT_FRAC (R52). -/
def dtFracRead (path : Path) (s : State) : State :=
  let d := dtPack s.clk.dt
  let s1 := latchHi path R.CLK_DT_NS (bits d 47 16) (latchHi path R.CLK_DT_SEC_LO (bits d 79 48) (latchHi path R.CLK_DT_SEC_HI (bits d 95 80) s))
  s1.emit (.regRead path R.CLK_DT_FRAC (bits d 15 0))

/-! Meanings of the commands of spec/02. -/

/-- STEP (R50, R53). -/
def execDtStep (s : State) : Host.Outcome State Fault Refusal := .next (runCmd hClk 1 dtStepCmd s)

/-- DT_STEP_APPLY (R50). -/
def execDtStepApply (s : State) : Host.Outcome State Fault Refusal := .next (dtStepApply s)

/-- SETTOD (R53). -/
def execSettod (s : State) : Host.Outcome State Fault Refusal := .next (runCmd hClk 2 settodCmd s)

/-- SETTOD_APPLY (R53). -/
def execSettodApply (tap : Fin 16) (s : State) : Host.Outcome State Fault Refusal := .next (settodApply tap s)

/-- DTRESTART (R53). -/
def execDtrestart (s : State) : Host.Outcome State Fault Refusal := .next (runCmd hClk 3 (fun s => (.ok, dtRestart s)) s)

/-- LOCK_WINDOW_END (R36 to R38, R41, R42). -/
def execLockWindowEnd (ref : Fin 2) (count : WindowCount) (ctl mean : Word) (s : State) : Host.Outcome State Fault Refusal :=
  .next (lockWindows ref count.own ctl.toNat mean.toNat count.other s)

/-- REF_LOST (R38). -/
def execRefLost (ref : Fin 2) (s : State) : Host.Outcome State Fault Refusal := .next (refBad ref s)

/-- CLOCK_COMMIT (R35). -/
def execClockCommit (s : State) : Host.Outcome State Fault Refusal := .next (clockCommit s)

/-- RIV_LOCK_WINDOW_END (R487). -/
def execRivLockWindowEnd (count : Nat) (s : State) : Host.Outcome State Fault Refusal := .next (rivWindow count s)

/-- PPS_MEASUREMENT (R47). -/
def execPpsMeasurement (tap : Fin 16) (s : State) : Host.Outcome State Fault Refusal := .next (ppsMeasure tap s)

/-- DT_HOLDOVER (R47). -/
def execDtHoldover (s : State) : Host.Outcome State Fault Refusal :=
  .next (if s.fld R.CLK_DT_STATUS_STATE = 2 then
      raise hClk 4 ({ s with clk := { s.clk with run := [], restepOk := true } }.setFld R.CLK_DT_STATUS_STATE 3)
    else s)

/-- PTP_SECOND (R351). -/
def execPtpSecond (s : State) : Host.Outcome State Fault Refusal := .next (ptpSecond s)

/-- DT_FRAC_READ (R52). -/
def execDtFracRead (path : Path) (s : State) : Host.Outcome State Fault Refusal := .next (dtFracRead path s)

/-- CLOCK_OUTPUT_RESTART (R44). -/
def execClockOutputRestart (o : Fin 2) (s : State) : Host.Outcome State Fault Refusal :=
  .next (if (s.cout o).mode = 1 then startCout o s else s)

end Sys2Proof.Machine
end

