-- ==== Sys2Proof/Machine/Millrace.lean ====
section
/-! DEFINITION. Page walks, invalidation and the Millrace channels (spec/11, R317 to R331). -/

namespace Sys2Proof.Machine

def State.mch (s : State) (ch : Nat) : MlrCh := Tbl.get MlrCh.init s.mlr.ch ch
def State.setMch (s : State) (ch : Nat) (x : MlrCh) : State := { s with mlr := { s.mlr with ch := Tbl.set s.mlr.ch ch x } }

/-! MLR_STATUS.STATE. -/
def mIdle : Nat := 0
def mRun : Nat := 1
def mRetry : Nat := 2
def mReadback : Nat := 3
def mHalted : Nat := 4
def mStopped : Nat := 5

def State.mState (s : State) (ch : Nat) : Nat := s.fld (R.MLR_STATUS_STATE ch)
def mTo (ch st : Nat) (s : State) : State := s.setFld (R.MLR_STATUS_STATE ch) st

/-! Descriptors (R321, R322). -/

def dW (d : List Nat) (i : Nat) : Nat := (d[i]?).getD 0
def d64 (d : List Nat) (i : Nat) : Nat := dW d i + 2 ^ 32 * dW d (i + 1)
def dX (d : List Nat) : Nat := bits (dW d 4) 23 0
def dY (d : List Nat) : Nat := bits (dW d 5) 15 0
def dZ (d : List Nat) : Nat := bits (dW d 5) 31 16
def dCtl (d : List Nat) (b : Nat) : Bool := bitAt (dW d 10) b
def dNext (d : List Nat) : Nat := d64 d 12
def dBytes (d : List Nat) : Nat := (dX d + 1) * (dY d + 1) * (dZ d + 1)

/-- Are the reserved fields 0? -/
def descOk (d : List Nat) : Bool :=
  bits (d64 d 0) 62 48 == 0 && bits (d64 d 2) 62 48 == 0 && bits (dW d 4) 31 24 == 0 && (dW d 10 &&& 0xC0FFFFF0) == 0 && dW d 11 == 0 &&
  dW d 14 == 0 && dW d 15 == 0

/-- An address of a descriptor at an offset: PHYS in bit 63; a virtual address wraps at 48 bits. -/
def addrAt (base : Nat) (off : Int) : Nat :=
  if bitAt base 63 then 2 ^ 63 + enc 63 ((base % 2 ^ 63 : Nat) + off) else enc 48 ((base % 2 ^ 48 : Nat) + off)

def srcAt (d : List Nat) (x y z : Nat) : Nat := addrAt (d64 d 0) (z * sext 32 (dW d 7) + y * sext 32 (dW d 6) + x)
def dstAt (d : List Nat) (x y z : Nat) : Nat := addrAt (d64 d 2) (z * sext 32 (dW d 9) + y * sext 32 (dW d 8) + x)

/-- The burst at a position of the channel's descriptor `num`. -/
def burstAt (d : List Nat) (num x y z t : Nat) : Burst :=
  let a := srcAt d x y z
  let b := dstAt d x y z
  { x := x, y := y, z := z, src := a, dst := b, len := min (dX d + 1 - x) (min (256 - a % 256) (256 - b % 256)), since := t, desc := d, num := num, orphan := false }

/-- Does the source range of a descriptor hold an address (R323)? -/
def inSource (d : List Nat) (a : Nat) : Bool :=
  (List.range (dZ d + 1)).any (fun z => (List.range (dY d + 1)).any (fun y =>
    let r := srcAt d 0 y z
    decide (r ≤ a) && decide (a ≤ r + dX d)))

/-- Do the hulls of source and destination meet at all? -/
def hull (base : Nat) (ys zs : Int) (d : List Nat) : Int × Int :=
  let y := ys * (dY d : Int)
  let z := zs * (dZ d : Int)
  ((base : Int) + min 0 y + min 0 z, (base : Int) + max 0 y + max 0 z + dX d)

def mayOverlap (d : List Nat) : Bool :=
  let a := hull (d64 d 0) (sext 32 (dW d 6)) (sext 32 (dW d 7)) d
  let b := hull (d64 d 2) (sext 32 (dW d 8)) (sext 32 (dW d 9)) d
  decide (a.1 ≤ b.2) && decide (b.1 ≤ a.2)

/-! Addresses of a channel (R310, R311). -/

def chanReq (ch : Nat) : Nat := 64 + ch
def chanOwner (ch : Nat) : Nat := 0x1C20 + ch
def chanAsid (s : State) (ch : Nat) : Nat := s.fld (R.MLR_CFG_ASID ch)

def plainFault (c : Nat) : TFault := { cause := c, level := 0, mal := false, walk := false }

/-- Device address of a channel's access, or the fault of checks 1 and 2. -/
def chanResolve (ch a : Nat) (wr : Bool) (s : State) : (TFault ⊕ Nat) × State :=
  if bitAt a 63 then
    if !s.flag (R.MLR_CFG_PHYS_OK ch) then (.inl (plainFault 6), s)
    else if bits a 62 40 ≠ 0 then (.inl (plainFault 9), s)
    else (.inr (a % 2 ^ 40), s)
  else match translate (chanReq ch) (chanAsid s ch) (a % 2 ^ 48) s with
    | (.inl f, s1) => (.inl f, s1)
    | (.inr e, s1) => (if pageOk e wr false then .inr (e.dev (a % 2 ^ 48)) else .inl (plainFault 6), s1)

/-- Resolve an access and make checks 2 to 5 of R319: its device address, or its fault. -/
def chanAccess (ch a n : Nat) (wr : Bool) (resp : Response) (s : State) : (TFault ⊕ Nat) × State :=
  match chanResolve ch a wr s with
  | (.inl f, s1) => (.inl f, s1)
  | (.inr da, s1) =>
    let c := devCause s1 (chanOwner ch) da n wr resp
    let s2 := if c = 0 ∨ c = 8 then devEcc da n wr resp s1 else s1
    if c = 0 then (.inr da, s2) else (.inl (plainFault c), s2)

/-! Retry and halt (R327, R328). -/

/-- Record where a channel halted; HALTED. -/
def mlrHalt (ch cause : Nat) (side desc : Bool) (a : Nat) (s : State) : State :=
  let s1 := (((mTo ch mHalted s).setFld (R.MLR_STATUS_CAUSE ch) cause).setFlag (R.MLR_STATUS_SIDE ch) side).setFlag (R.MLR_STATUS_DESC ch) desc
  let s2 := (s1.setWord (R.MLR_FLT_VA_LO ch) (a % 2 ^ 32)).setWord (R.MLR_FLT_VA_HI ch) (a / 2 ^ 32 % 2 ^ 16 + 2 ^ 31 * b2n (bitAt a 63))
  raise (hMlr ch) 2 (setFault (hMlr ch) 0 (s2.setMch ch { s2.mch ch with stop := false }))

/-- A faulting burst, fetch or read-back: retried or halted by its cause. -/
def mlrFault (ch : Nat) (side desc : Bool) (a : Nat) (f : TFault) (s0 : State) : State :=
  let s := mmuFault (chanReq ch) (chanAsid s0 ch) (a % 2 ^ 48) side f s0
  let x := s.mch ch
  if x.stop then mlrHalt ch f.cause side desc a s
  else if f.cause = 7 then
    let t := x.mig.getD s.fclk
    if 8000 ≤ s.fclk - t then mlrHalt ch 7 side desc a s
    else mTo ch mRetry (s.setMch ch { x with mig := some t })
  else if f.cause = 9 ∧ x.bus < s.fld (R.MLR_CFG_RETRY_LIM ch) then mTo ch mRetry (s.setMch ch { x with bus := x.bus + 1 })
  else mlrHalt ch f.cause side desc a s

/-- MLR_POS shows a position. -/
def showPos (ch x y z : Nat) (s : State) : State :=
  (s.setWord (R.MLR_POS_X ch) x).setWord (R.MLR_POS_YZ ch) (y + 2 ^ 16 * z)

/-- Burst `b` of the descriptor faults: every later burst is withdrawn and it is next (R326). -/
def burstFault (ch : Nat) (b : Burst) (side : Bool) (f : TFault) (s : State) : State :=
  let x := s.mch ch
  let y := { x with out := x.out.filter Burst.orphan, nx := b.x, ny := b.y, nz := b.z, left := true }
  mlrFault ch side false (if side then b.dst else b.src) f (showPos ch b.x b.y b.z (s.setMch ch y))

/-! Descriptors in progress. -/

/-- A channel takes a descriptor; reserved fields halt it (R321). -/
def takeDesc (ch : Nat) (d : List Nat) (regd : Bool) (cur : Nat) (s : State) : State :=
  let x := s.mch ch
  let y := { x with stage := .bursts, desc := d, nx := 0, ny := 0, nz := 0, left := true, ready := s.fclk, urg := false, mig := none, bus := 0,
                    num := x.num + 1, old := x.old.filter (fun e => x.out.any (fun b => b.num == e.1 / 2 ^ 64)) }
  let s1 := ((s.setMch ch y).setFlag (R.MLR_STATUS_REGD ch) regd).setPair (R.MLR_CUR_LO ch) cur
  let s2 := showPos ch 0 0 0 (mTo ch mRun s1)
  if descOk d then s2 else mlrHalt ch 1 false (!regd) cur s2

/-- Start the fetch of NEXT; a misaligned one halts the channel (R321). -/
def startFetch (ch : Nat) (s : State) : State :=
  let x := s.mch ch
  let s1 := mTo ch mRun (s.setMch ch { x with stage := .fetch, mig := none, bus := 0 })
  if dNext x.desc % 64 ≠ 0 then mlrHalt ch 4 false true (dNext x.desc) s1 else s1

/-- Enter STOPPED (R328). -/
def mlrStopped (ch : Nat) (s : State) : State := raise (hMlr ch) 4 (mTo ch mStopped (s.setMch ch { s.mch ch with stop := false }))

/-- Stop now if a STOP is pending and nothing of the descriptor is outstanding. -/
def maybeStop (ch : Nat) (s : State) : State :=
  let x := s.mch ch
  if x.stop && x.out.all Burst.orphan then mlrStopped ch s else s

/-! A descriptor whose destination overlaps its source (R323). -/

/-- Key of a byte that a burst of descriptor `num` overwrote. -/
def oldKey (num a : Nat) : Nat := num * 2 ^ 64 + a

/-- What a burst moves: the bytes of its source, as they were before its own descriptor wrote any of them. -/
def burstData (old : Tbl Byte) (b : Burst) (bs : List Byte) : List Byte :=
  if mayOverlap b.desc then (bs.zip (List.range bs.length)).map (fun e => (Tbl.find old (oldKey b.num (b.src + e.2))).getD e.1) else bs

/-- What a burst writes: its data, with a free value in each byte of the overlap. -/
def burstBytes (b : Burst) (bs : List Byte) (s : State) : List Byte × State :=
  if mayOverlap b.desc then
    (bs.zip (List.range bs.length)).foldl (fun (a : List Byte × State) e =>
      if inSource b.desc (b.dst + e.2) then let v := a.2.takeFree 256; (a.1 ++ [BitVec.ofNat 8 v.1], v.2) else (a.1 ++ [e.1], a.2)) ([], s)
  else (bs, s)

/-- The bytes of the overlap that a burst is about to write, as they are now; those saved before stay. -/
def burstSave (old : Tbl Byte) (b : Burst) (now : List Byte) : Tbl Byte :=
  if mayOverlap b.desc then
    (now.zip (List.range now.length)).foldl (fun t e =>
      let k := oldKey b.num (b.dst + e.2)
      if inSource b.desc (b.dst + e.2) && (Tbl.find t k).isNone then Tbl.set t k e.1 else t) old
  else old

/-- A burst of an aborted descriptor faults: it and the later ones of that descriptor write nothing (R326). -/
def orphanFault (ch : Nat) (b : Burst) (side : Bool) (f : TFault) (s : State) : State :=
  let t := mmuFault (chanReq ch) (chanAsid s ch) ((if side then b.dst else b.src) % 2 ^ 48) side f s
  t.setMch ch { t.mch ch with out := (t.mch ch).out.filter (fun e => e.num != b.num) }

/-- A burst faults (R326): one of an aborted descriptor, or one of the descriptor in progress. -/
def burstFails (ch : Nat) (b : Burst) (side : Bool) (f : TFault) (s : State) : State :=
  if b.orphan then orphanFault ch b side f s else burstFault ch b side f s

/-- The oldest outstanding burst completes or faults (R322, R323, R326). -/
def burstComplete (ch : Nat) (rd wr : Response) (s : State) : State :=
  let x := s.mch ch
  match x.out with
  | [] => s
  | b :: rest =>
    match chanAccess ch b.src b.len false rd s with
    | (.inl f, s1) => burstFails ch b false f s1
    | (.inr sa, s1) =>
      match chanAccess ch b.dst b.len true wr s1 with
      | (.inl f, s2) => burstFails ch b true f s2
      | (.inr da, s2) =>
        let r := burstBytes b (burstData x.old b (devRead s2 sa b.len)) (portUseAt da (64 + ch) (portUseAt sa (64 + ch) s2))
        let old := burstSave x.old b (devRead s2 da b.len)
        let s3 := addLatency 3 ch (r.2.fclk - b.since) (devWrite da r.1 r.2)
        if b.orphan then s3.setMch ch { s3.mch ch with out := rest, old := old }
        else
          let y := { s3.mch ch with out := rest, mig := none, bus := 0, old := old }
          let s4 := s3.setMch ch y
          if rest.isEmpty && !y.left then
            let s5 := s4.bump64 (R.MLR_BYTES ch) (dBytes x.desc)
            maybeStop ch (if dCtl x.desc 2 then mTo ch mReadback (s5.setMch ch { y with stage := .readback }) else s5.setMch ch { y with stage := .done })
          else
            let p := match rest with | n :: _ => (n.x, n.y, n.z) | [] => (y.nx, y.ny, y.nz)
            maybeStop ch (showPos ch p.1 p.2.1 p.2.2 s4)

/-! Issue (R325). -/

/-- May a channel issue its next burst? -/
def mlrReady (s : State) (ch : Nat) : Bool :=
  let x := s.mch ch
  s.mState ch == mRun && x.stage == .bursts && x.left && !x.stop && decide (x.out.length < 8)

def mlrUrgent (s : State) (ch : Nat) : Bool :=
  mlrReady s ch && ((s.mch ch).urg || decide (s.wordN R.RSV_AGE_LIMIT % 65536 ≤ s.fclk - (s.mch ch).ready))

/-- PRIO of a channel. -/
def chanPrio (s : State) (ch : Nat) : Nat := s.fld (R.MLR_CFG_PRIO ch)

/-- Issue the next burst of a channel. -/
def issueBurst (ch : Nat) (s : State) : State :=
  let x := s.mch ch
  let b := burstAt x.desc x.num x.nx x.ny x.nz s.fclk
  let nx := x.nx + b.len
  let endRow := decide (dX x.desc < nx)
  let endPl := endRow && decide (dY x.desc ≤ x.ny)
  let endAll := endPl && decide (dZ x.desc ≤ x.nz)
  let y := { x with out := x.out ++ [b], nx := if endRow then 0 else nx, ny := if endPl then 0 else if endRow then x.ny + 1 else x.ny,
                    nz := if endAll then x.nz else if endPl then x.nz + 1 else x.nz, left := !endAll, ready := s.fclk, urg := false }
  let s1 := s.setMch ch y
  { s1 with mlr := { s1.mlr with last := Tbl.set s1.mlr.last (chanPrio s ch) ch } }

/-- The engine issues one burst: urgent channels first, oldest first, then the highest PRIO, round robin within it. -/
def burstIssue (s : State) : State :=
  if 64 ≤ (List.range 32).foldl (fun a ch => a + (s.mch ch).out.length) 0 then s
  else
    let ready := (List.range 32).filter (mlrReady s)
    let urgent := ready.filter (mlrUrgent s)
    let pick (better : Nat → Nat → Bool) (l : List Nat) : Option Nat :=
      l.foldl (fun m c => match m with | none => some c | some b => if better c b then some c else m) none
    let turn (a : Nat) : Nat := (a + 31 - Tbl.get 31 s.mlr.last (chanPrio s a)) % 32
    let rr (a b : Nat) : Bool := decide (turn a < turn b)
    let prio := chanPrio s
    match (if urgent.isEmpty then pick (fun a b => decide (prio b < prio a) || (prio a == prio b && rr a b)) ready
           else pick (fun a b => decide ((s.mch a).ready < (s.mch b).ready)) urgent) with
    | none => s
    | some c => issueBurst c s

/-- The delay of a faulted burst, fetch or read-back has passed (R327); the burst is ready to issue again, by R325. -/
def burstRetry (ch : Nat) (s : State) : State :=
  if s.mState ch ≠ mRetry then s
  else
    let s1 := raise (hMlr ch) 3 (s.bump64 (R.MLR_RETRIES ch) 1)
    match (s.mch ch).stage with
    | .bursts => mTo ch mRun (s1.setMch ch { s1.mch ch with ready := s1.fclk, urg := false })
    | .readback => mTo ch mReadback s1
    | _ => mTo ch mRun s1

/-! Fetch, read-back, completion (R321, R329). -/

/-- A descriptor fetch ends. -/
def descFetchDone (ch : Nat) (resp : Response) (s : State) : State :=
  let x := s.mch ch
  if !(x.stage == .fetch && s.mState ch == mRun) then s
  else
    let a := dNext x.desc
    match chanAccess ch a 64 false resp s with
    | (.inl f, s1) => mlrFault ch false true a f s1
    | (.inr da, s1) =>
      let bs := devRead s1 da 64
      let s2 := takeDesc ch ((List.range 16).map (fun w => leNat ((bs.drop (4 * w)).take 4))) false a s1
      if s2.mState ch = mRun then maybeStop ch s2 else s2

/-- Address of the read-back word: the aligned 8 bytes that hold the last byte written. -/
def readbackAddr (d : List Nat) : Nat := dstAt d (dX d) (dY d) (dZ d) / 8 * 8

/-- The read-back of a descriptor's last word returns. -/
def readbackDone (ch : Nat) (resp : Response) (s : State) : State :=
  let x := s.mch ch
  if !(x.stage == .readback && s.mState ch == mReadback) then s
  else match chanAccess ch (readbackAddr x.desc) 8 false resp s with
    | (.inl f, s1) => mlrFault ch true false (readbackAddr x.desc) f s1
    | (.inr _, s1) => maybeStop ch (mTo ch mRun (s1.setMch ch { s1.mch ch with stage := .done, mig := none, bus := 0 }))

/-- Steps 3 to 5 of R329. -/
def descComplete (ch : Nat) (s : State) : State :=
  let x := s.mch ch
  if !(x.stage == .done && s.mState ch == mRun) then s
  else
    let n := bits (dW x.desc 10) 29 24
    let s1 := if dCtl x.desc 3 then s.setWord (R.EDDY_FULL (n / 32)) (putBits (s.wordN (R.EDDY_FULL (n / 32))) (n % 32) (n % 32) 0) else s
    let s2 := s1.bump64 (R.MLR_DONE ch) 1
    let s3 := if dCtl x.desc 0 then raise (hMlr ch) 0 s2 else s2
    if dCtl x.desc 1 then startFetch ch s3
    else raise (hMlr ch) 1 (mTo ch mIdle (s3.setMch ch { s3.mch ch with stage := .none, stop := false }))

/-! Commands (R331). -/

def mlrStartCmd (ch : Nat) (s : State) : Code × State :=
  if s.mState ch ≠ mIdle ∨ s.disabled (hMlr ch) then (.state, s)
  else (.ok, takeDesc ch ((List.range 16).map (fun w => s.wordN (R.MLR_DESC ch w))) true 0 s)

def mlrStopCmd (ch : Nat) (s : State) : Code × State :=
  let st := s.mState ch
  if !(st == mRun || st == mRetry || st == mReadback) then (.state, s)
  else
    let s1 := s.setMch ch { s.mch ch with stop := true }
    (.ok, if st = mRetry ∨ (st = mRun ∧ (s.mch ch).stage ≠ .fetch) then maybeStop ch s1 else s1)

def mlrResumeCmd (ch : Nat) (s : State) : Code × State :=
  let st := s.mState ch
  if !(st == mHalted || st == mStopped) then (.state, s)
  else
    let x := s.mch ch
    let s1 := s.setMch ch { x with stop := false, mig := none, bus := 0, ready := s.fclk }
    (.ok, match x.stage with
      | .fetch => startFetch ch s1
      | .readback => mTo ch mReadback s1
      | .bursts => if descOk x.desc then mTo ch mRun s1
                   else if s.flag (R.MLR_STATUS_REGD ch) then mlrHalt ch 1 false false 0 (mTo ch mRun s1)
                   else mTo ch mRun (s1.setMch ch { s1.mch ch with stage := .fetch, desc := [0, 0, 0, 0, 0, 0, 0, 0, 0, 0, 0, 0,
                          s.wordN (R.MLR_CUR_LO ch), s.wordN (R.MLR_CUR_HI ch), 0, 0] })
      | _ => mTo ch mRun s1)

def mlrAbortCmd (ch : Nat) (s : State) : Code × State :=
  if s.mState ch = mIdle then (.state, s)
  else
    let x := s.mch ch
    (.ok, clearFault (hMlr ch) 0 (mTo ch mIdle (s.setMch ch { MlrCh.init with out := x.out.map (fun b => { b with orphan := true }), num := x.num, old := x.old })))

/-- MLR_STATUS. -/
def mlrStatus (s : State) (ch : Nat) : Nat := putBits (s.wordN (R.MLR_STATUS ch)) 10 10 (b2n (mlrUrgent s ch))

/-! Walks of channels, and invalidation (R312 to R317). -/

/-- The accesses that a channel waits for: address, a write, a descriptor fetch. -/
def chanPending (s : State) (ch : Nat) : List (Nat × Bool) :=
  let x := s.mch ch
  match x.out with
  | b :: _ => [(b.src, false), (b.dst, true)]
  | [] =>
    if x.stage == .fetch && s.mState ch == mRun then [(dNext x.desc, false)]
    else if x.stage == .readback && s.mState ch == mReadback then [(readbackAddr x.desc, true)] else []

/-- The first of them that needs a walk. -/
def chanWaits (s : State) (ch : Nat) : Option (Nat × Bool) :=
  (chanPending s ch).find? (fun e => !bitAt e.1 63 && needsWalk s (chanReq ch) (chanAsid s ch) (e.1 % 2 ^ 48))

/-- A walk of a channel ends; of one that nothing waits for any more, only that it has ended is left (R317). -/
def chanWalk (ch : Nat) (ecc : List Ecc) (s : State) : State :=
  match chanWaits s ch with
  | none => walkEnded (chanReq ch) s
  | some (a, side) =>
    match walk (chanReq ch) (chanAsid s ch) (a % 2 ^ 48) ecc s with
    | (.inr _, s1) => s1
    | (.inl f, s1) =>
      match (s1.mch ch).out with
      | b :: _ => burstFails ch b side f s1
      | [] => mlrFault ch side ((s1.mch ch).stage == .fetch) a f s1

/-- A page walk ends (R312). -/
def pageWalkDone (r : Requester) (ecc : List Ecc) (s : State) : State :=
  match r with
  | .core c => coreWalk c ecc s
  | .chan ch => chanWalk ch ecc s

/-- An invalidation begins; the walks in progress will fill nothing (R317). -/
def invCmd (code : Nat) (s : State) : Option Code × State :=
  let va := s.wordN R.MMU_CMD_ARG_LO / 4096 * 4096 + 2 ^ 32 * s.fld R.MMU_CMD_ARG_HI_VA
  let reqs := (List.range 64).filter (coreWalks s) ++ ((List.range 32).filter (fun ch => (chanWaits s ch).isSome)).map chanReq
  (none, { s with mmu := { s.mmu with inv := some (code, s.fld R.MMU_CMD_ARG_HI_ASID, va), discard := reqs } })

/-- An invalidation completes once every earlier walk has ended. -/
def invDone (s : State) : State :=
  match s.mmu.inv with
  | none => s
  | some v =>
    if !s.mmu.discard.isEmpty then s
    else
      let t := s.mmu.tlb.map (fun e => (e.1, e.2.filter (fun x => !invHits v x)))
      finish hMmu v.1 .ok (raise hMmu 2 { s with mmu := { s.mmu with tlb := t, inv := none } })

/-! Meanings of the commands of spec/11. -/

/-- PAGE_WALK_DONE (R312 to R316). -/
def execPageWalkDone (r : Requester) (ecc : List Ecc) (s : State) : Host.Outcome State Fault Refusal := .next (pageWalkDone r ecc s)

/-- INV_ALL (R317, R331). -/
def execInvAll (s : State) : Host.Outcome State Fault Refusal := .next (runLong hMmu 1 (invCmd 1) s)

/-- INV_AS (R317, R331). -/
def execInvAs (s : State) : Host.Outcome State Fault Refusal := .next (runLong hMmu 2 (invCmd 2) s)

/-- INV_VA (R317, R331). -/
def execInvVa (s : State) : Host.Outcome State Fault Refusal := .next (runLong hMmu 3 (invCmd 3) s)

/-- INV_DONE (R317). -/
def execInvDone (s : State) : Host.Outcome State Fault Refusal := .next (invDone s)

/-- START of a channel (R324, R331). -/
def execMlrStart (ch : Fin 32) (s : State) : Host.Outcome State Fault Refusal := .next (runCmd (hMlr ch) 1 (mlrStartCmd ch) s)

/-- STOP of a channel (R328, R331). -/
def execMlrStop (ch : Fin 32) (s : State) : Host.Outcome State Fault Refusal := .next (runCmd (hMlr ch) 2 (mlrStopCmd ch) s)

/-- RESUME of a channel (R327, R331). -/
def execMlrResume (ch : Fin 32) (s : State) : Host.Outcome State Fault Refusal := .next (runCmd (hMlr ch) 3 (mlrResumeCmd ch) s)

/-- ABORT of a channel (R331). -/
def execMlrAbort (ch : Fin 32) (s : State) : Host.Outcome State Fault Refusal := .next (runCmd (hMlr ch) 4 (mlrAbortCmd ch) s)

/-- DESC_FETCH_DONE (R321). -/
def execDescFetchDone (ch : Fin 32) (resp : Response) (s : State) : Host.Outcome State Fault Refusal := .next (descFetchDone ch resp s)

/-- BURST_ISSUE (R325). -/
def execBurstIssue (s : State) : Host.Outcome State Fault Refusal := .next (burstIssue s)

/-- BURST_COMPLETE (R319, R322, R326, R327). -/
def execBurstComplete (ch : Fin 32) (read write : Response) (s : State) : Host.Outcome State Fault Refusal :=
  .next (burstComplete ch read write s)

/-- BURST_RETRY (R327). -/
def execBurstRetry (ch : Fin 32) (s : State) : Host.Outcome State Fault Refusal := .next (burstRetry ch s)

/-- DESC_COMPLETE (R329). -/
def execDescComplete (ch : Fin 32) (s : State) : Host.Outcome State Fault Refusal := .next (descComplete ch s)

/-- READBACK_DONE (R329). -/
def execReadbackDone (ch : Fin 32) (resp : Response) (s : State) : Host.Outcome State Fault Refusal := .next (readbackDone ch resp s)

end Sys2Proof.Machine
end

