-- ==== Sys2Proof/Machine/Perf.lean ====
section
/-! DEFINITION. The event log, performance counters, histograms and their snapshots (spec/17_log_counters_faults.md). -/

namespace Sys2Proof.Machine

/-! The event log (R459 to R463). -/

/-- Device address of log entry `n`. -/
def logAddr (n : Nat) : Nat := 0xE009E00000 + n % 65536 * 32

/-- The 32 bytes of an entry; `dropped` marks the first one after a drop (R460, R462). -/
def logBytes (n : Nat) (e : LogEntry) (dropped : Bool) : List Byte :=
  leBytes 4 n ++ leBytes 2 e.unit ++ leBytes 1 e.kind ++ leBytes 1 (e.sev + 8 * b2n dropped + 16 * b2n e.coast) ++
  leBytes 2 e.code ++ leBytes 2 0 ++ leBytes 4 e.arg0 ++ dtBytes e.dt ++ leBytes 4 e.arg1

/-- Unread entries (R463). -/
def logUnread (s : State) : Nat := (s.wordN R.LOG_WSEQ + 2 ^ 32 - s.wordN R.LOG_RSEQ) % 2 ^ 32

/-- FILL is raised when U rises to the threshold from below. -/
def fillCheck (before : Nat) (s : State) : State :=
  let t := s.fld R.LOG_CFG_FILL_THR * 1024
  if t ≠ 0 ∧ before < t ∧ t ≤ logUnread s then raise hLog 2 s else s

/-- The oldest queued entry is written. -/
def logWrite (s : State) : State :=
  match s.rep.logq with
  | [] => s
  | e :: t =>
    let n := s.wordN R.LOG_WSEQ
    let u := logUnread s
    let s1 : State := { s with rep := { s.rep with logq := t, dropMark := false } }
    let s2 := (s1.memStore (logAddr n) (logBytes n e s.rep.dropMark)).setWord R.LOG_WSEQ ((n + 1) % 2 ^ 32)
    if u = 65536 then raise hLog 0 ((s2.setWord R.LOG_RSEQ ((s.wordN R.LOG_RSEQ + 1) % 2 ^ 32)).bump64 R.LOG_LOST 1)
    else fillCheck u s2

/-- The value that LOG_RSEQ takes for a written one (R463). -/
def rseqTaken (wseq v : Nat) : Nat :=
  let d := (v + 2 ^ 32 - wseq) % 2 ^ 32
  if 1 ≤ d ∧ d < 2 ^ 31 then wseq
  else if 65536 < (wseq + 2 ^ 32 - v) % 2 ^ 32 then (wseq + 2 ^ 32 - 65536) % 2 ^ 32
  else v

def rseqWrite (v be : Nat) (s : State) : State :=
  fillCheck (logUnread s) (s.setWord R.LOG_RSEQ (rseqTaken (s.wordN R.LOG_WSEQ) (mergeBe (s.wordN R.LOG_RSEQ) v be)))

def markCmd (s : State) : Code × State :=
  (.ok, addLog hLog 7 (sevOf (s.fld R.LOG_MARK_SEV_SEV)) 3 (s.wordN R.LOG_MARK_ARG) 0 s)

/-! Counters (R464 to R467). -/

/-- Is a signal high: `none` for a code that is not listed; with the TCLK cycles of its clock. -/
def levelSignal (s : State) (sel : Nat) : Option (Nat × Bool) :=
  if sel < 0x40 then let r := (Tbl.get RCore.init s.rfl sel).run; some (4, r == 2 || r == 3)
  else if sel < 0x60 then some (4, mlrUrgent s (sel - 0x40))
  else if sel < 0x80 then none
  else if sel < 0x100 then some (4, !(Tbl.get [] s.rsv.waits (sel - 0x80)).isEmpty)
  else if sel = 0x100 then some (4, decide (s.fclk < s.rsv.refreshEnd))
  else if sel = 0x101 then some (4, s.rsv.window)
  else if sel < 0x106 then some (4, (List.range 8).any (paused s (sel - 0x102)))
  else if sel < 0x10A then some (4, !(s.bwQ (sel - 0x106)).isEmpty)
  else if sel = 0x10A then some (4, s.rsv.waits.any (fun e => e.2.any (fun w => w.urgent && w.req.who == .display)))
  else if sel < 0x10C then none
  else if sel < 0x110 then some (2, match (s.hist (sel - 0x10C)).head? with | some x => (x.psw &&& pswGap) != 0 | none => false)
  else if sel < 0x114 then some (2, s.flag (R.ING_PORT_STATUS_CAL_BUSY (sel - 0x110)))
  else if sel = 0x114 then some (4, s.fld R.MOD_THERM_STATUS_LEVEL != 0)
  else if sel < 0x120 then none
  else if sel < 0x130 then some (2, (s.seq (sel - 0x120)).armed)
  else none

/-- Numbers of the counters in MODE 2, with their signals. -/
def levelCounters (s : State) : List (Nat × Nat) :=
  (s.regRange 0x01F41000 0x01F42000).filterMap (fun e =>
    if e.1 % 16 = 0 && bits e.2 1 0 = 2 then some ((e.1 - 0x01F41000) / 16, bits e.2 19 8) else none)

/-- A counter advances by 1; a wrap sets its PERF_OVF bit and raises OVF (R466). -/
def cntBump (n : Nat) (s : State) : State :=
  let v := Tbl.get 0 s.rep.cnt n
  if v + 1 = 2 ^ 64 then raise hPerf 0 { s with rep := { s.rep with cnt := Tbl.set s.rep.cnt n 0, ovf := s.rep.ovf ||| 2 ^ n, fresh := freshen s.cclk (R.PERF_OVF (n / 32)) (2 ^ (n % 32)) s.rep.fresh } }
  else { s with rep := { s.rep with cnt := Tbl.set s.rep.cnt n (v + 1) } }

/-- The LEVEL counters in one TCLK cycle: each counts where a cycle of its signal's clock begins. -/
def levelTick (s : State) : State :=
  if s.flag R.PERF_CTRL_FREEZE then s
  else (levelCounters s).foldl (fun t c =>
    match levelSignal s c.2 with
    | some (k, true) => if s.tclk % k = 0 then cntBump c.1 t else t
    | _ => t) s

/-- Writes to a counter's halves (R465). -/
def cntLoWrite (n v be : Nat) (s : State) : State :=
  { s with perf := { s.perf with lo := Tbl.set s.perf.lo n (mergeBe (Tbl.get 0 s.perf.lo n) v be) } }

def cntHiWrite (n v be : Nat) (s : State) : State :=
  let hi := mergeBe (Tbl.get 0 s.rep.cnt n / 2 ^ 32) v be
  { s with rep := { s.rep with cnt := Tbl.set s.rep.cnt n (hi * 2 ^ 32 + Tbl.get 0 s.perf.lo n) } }

/-- A write to PERF_CFGn keeps the count unless CLR is written as 1. -/
def perfCfg (n v be : Nat) (s : State) : State :=
  let s1 := writeFields (R.PERF_CFG n) v be s
  if bitAt be 0 && bitAt v 3 then { s1 with rep := { s1.rep with cnt := Tbl.set s1.rep.cnt n 0 } } else s1

def clrAllCmd (s : State) : Code × State := (.ok, { s with rep := { s.rep with cnt := [] } })

def hclrCmd (s : State) : Code × State :=
  let h := s.fld R.PERF_CMD_ARG_HIST
  (.ok, { s with rep := { s.rep with hbin := s.rep.hbin.filter (fun e => e.1 / 64 != h) } })

/-! Snapshots (R468). -/

/-- The snapshot bank, when the counter unit owns it. -/
def snapBank (s : State) : Option Nat :=
  let b := s.fld R.PERF_POOL_BANK
  if s.flag R.PERF_POOL_VALID && s.ownsBanks hPerf b 1 then some b else none

/-- What a snapshot holds from 0x08 on: DT, counters and bins sampled in one cycle, 0 without GRANT. -/
def snapData (s : State) : List Byte :=
  let cnt := (List.range 256).map (fun n => leBytes 8 (if s.flag (R.PERF_CFG_GRANT n) then Tbl.get 0 s.rep.cnt n else 0))
  let bin := (List.range 16).map (fun h => ((List.range 64).map (fun b =>
    leBytes 8 (if s.flag (R.PERF_HCFG_GRANT h) then Tbl.get 0 s.rep.hbin (64 * h + b) else 0))).flatten)
  dtBytes s.clk.dt ++ List.replicate 44 0 ++ cnt.flatten ++ bin.flatten

/-- A snapshot begins: SNAP_SEQ becomes odd. -/
def snapStart (b : Nat) (s : State) : State :=
  let n := s.perf.seq + 1
  unitPoolWrite hPerf (poolBase + b * bankBytes) (leBytes 4 n) { s with perf := { s.perf with seq := n, busy := some (b, snapData s) } }

def snapCmd (s : State) : Code × State :=
  if s.perf.busy.isSome then refuse .busy s
  else if s.faultBit hPerf 0 then refuse .state s
  else match snapBank s with
    | none => refuse .state s
    | some b => (.ok, snapStart b s)

/-- The period expires; nothing happens while a snapshot is being written. -/
def snapPeriod (s : State) : State :=
  if s.fld R.PERF_CTRL_SNAP_PERIOD = 0 ∨ s.perf.busy.isSome ∨ s.faultBit hPerf 0 = true then s
  else match snapBank s with
    | none => s
    | some b => snapStart b s

/-- The last data byte is written: SNAP_SEQ becomes even. -/
def snapEnd (s : State) : State :=
  match s.perf.busy with
  | none => s
  | some (b, bs) =>
    let n := (s.perf.seq + 1) % 2 ^ 32
    let s1 := unitPoolWrite hPerf (poolBase + b * bankBytes + 8) bs { s with perf := { s.perf with seq := n, busy := none } }
    raise hPerf 1 (unitPoolWrite hPerf (poolBase + b * bankBytes) (leBytes 4 n) s1)

/-! Meanings. -/

/-- LOG_ENTRY_WRITE (R462, R463). -/
def execLogEntryWrite (s : State) : Host.Outcome State Fault Refusal := .next (logWrite s)

/-- LOG_RSEQ_WRITE (R463). -/
def execLogRseqWrite (val : Word) (be : BitVec 4) (s : State) : Host.Outcome State Fault Refusal := .next (rseqWrite val.toNat be.toNat s)

/-- MARK (R461, R471). -/
def execMark (s : State) : Host.Outcome State Fault Refusal := .next (runCmd hLog 1 markCmd s)

/-- PERF_SNAP (R468, R471). -/
def execPerfSnap (s : State) : Host.Outcome State Fault Refusal := .next (runCmd hPerf 1 snapCmd s)

/-- SNAP_PERIOD_EXPIRE (R468). -/
def execSnapPeriodExpire (s : State) : Host.Outcome State Fault Refusal := .next (snapPeriod s)

/-- SNAP_DONE (R468). -/
def execSnapDone (s : State) : Host.Outcome State Fault Refusal := .next (snapEnd s)

/-- CLR_ALL (R471). -/
def execClrAll (s : State) : Host.Outcome State Fault Refusal := .next (runCmd hPerf 2 clrAllCmd s)

/-- HCLR (R471). -/
def execHclr (s : State) : Host.Outcome State Fault Refusal := .next (runCmd hPerf 3 hclrCmd s)

/-- PERF_CNT_LO_WRITE (R465). -/
def execPerfCntLoWrite (n : Fin 256) (val : Word) (be : BitVec 4) (s : State) : Host.Outcome State Fault Refusal :=
  .next (cntLoWrite n val.toNat be.toNat s)

/-- PERF_CNT_HI_WRITE (R465). -/
def execPerfCntHiWrite (n : Fin 256) (val : Word) (be : BitVec 4) (s : State) : Host.Outcome State Fault Refusal :=
  .next (cntHiWrite n val.toNat be.toNat s)

/-- PERF_CFG_WRITE (R465). -/
def execPerfCfgWrite (n : Fin 256) (val : Word) (be : BitVec 4) (s : State) : Host.Outcome State Fault Refusal :=
  .next (perfCfg n val.toNat be.toNat s)

/-- PERF_CTRL_WRITE (R467). -/
def execPerfCtrlWrite (val : Word) (be : BitVec 4) (s : State) : Host.Outcome State Fault Refusal :=
  .next (writeFields R.PERF_CTRL val.toNat be.toNat s)

end Sys2Proof.Machine
end

