-- ==== Sys2Proof/Machine/Riffle.lean ====
section
/-! DEFINITION. The commands of the Riffle cores (spec/10): the issue of an instruction, seen from its compute or its memory slot, events, pre-emption, debug
access. -/

namespace Sys2Proof.Machine

/-- The instruction word with a compute operation (R292). -/
def cWord (cop : Nat) (i : CSlot) : Nat :=
  i.pr.toNat * 2 ^ 61 + b2n i.pn * 2 ^ 60 + cop * 2 ^ 54 + i.cx.toNat * 2 ^ 50 + i.cy.toNat * 2 ^ 46 + i.cz.toNat * 2 ^ 42 + i.ci.toNat * 2 ^ 32 + i.mem.toNat

/-- The instruction word with a memory or control operation (R292). -/
def mWord (mop : Nat) (i : MSlot) : Nat :=
  i.pr.toNat * 2 ^ 61 + b2n i.pn * 2 ^ 60 + i.comp.toNat * 2 ^ 32 + mop * 2 ^ 26 + i.mr.toNat * 2 ^ 22 + i.ma.toNat * 2 ^ 19 + b2n i.ms * 2 ^ 18 +
    i.mo.toNat * 2 ^ 15 + i.low.toNat

/-- The word of a NOP in the compute slot, or in both slots. -/
def nopWord (memSlot : Bool) (i : CSlot) : Nat := cWord 0 i - (if memSlot then i.mem.toNat / 2 ^ 26 * 2 ^ 26 else 0)

/-! Events and pre-emption. -/

/-- The core is pre-empted at an issue boundary where every condition of R300 holds, and no main-bank instruction is owed (R302). -/
def preemptCore (c : Nat) (s : State) : State :=
  let x := s.core c
  if !x.shadow && x.ie && (evpWord s c &&& x.eve) != 0 && x.far.isNone && (x.run == rRunning || x.run == rWaiting) && !x.noPre then
    enterHandler c (s.wordN (R.RFL_VEC_EVENT c)) 0 x.pc 3 none s
  else s

/-- CTMR reaches 0 (R286). -/
def ctmrExpire (c : Nat) (s : State) : State :=
  let x := s.core c
  if x.ctmr.1 = 0 then s
  else let s1 := s.setCore c { x with ctmr := (0, s.fclk) }; { s1 with rep := evpSet s.cclk s1.rep c 28 }

/-- A write to RFL_DOORBELL. -/
def ringDoorbell (c : Nat) (s : State) : State := { s with rep := evpSet s.cclk s.rep c 29 }

/-- A stalled WAIT ends once a bit of its mask is set. -/
def waitRelease (c : Nat) (s : State) : State :=
  let x := s.core c
  if x.run = rWaiting ∧ (evpWord s c &&& x.mask) ≠ 0 then settle c (runTo c rRunning s) else s

/-! Commands (R307). -/

def rflRunCmd (c : Nat) (s : State) : Code × State :=
  if (s.core c).run ≠ rHalted ∨ s.faultBit (hCore c) 2 ∨ s.disabled (hCore c) then (.state, s)
  else (.ok, runTo c rRunning (clearFault (hCore c) 1 s))

def rflHaltCmd (c : Nat) (s : State) : Code × State :=
  let x := s.core c
  if x.run = rHalted then (.state, s)
  else if x.run = rStalled then (.ok, s.setCore c { x with haltReq := true })
  else (.ok, haltCore c s)

/-- Instruction words of a core. -/
def imemWord (s : State) (c n : Nat) : Nat := Tbl.get 0 (s.core c).imem (n % 4096)

def rflStepCmd (c : Nat) (s : State) : Code × State :=
  let x := s.core c
  if x.run ≠ rHalted ∨ s.disabled (hCore c) then (.state, s)
  else (.ok, issueWord c (imemWord s c x.pc) ⟨.good, []⟩ (runTo c rRunning (s.setCore c { x with step := true })))

def rflResetCmd (c : Nat) (s : State) : Code × State :=
  let x := s.core c
  if x.run ≠ rHalted then (.state, s)
  else
    let y := { RCore.init with pc := s.wordN (R.RFL_ENTRY c) % 4096, vseg := x.vseg, ewin := x.ewin, cycHi := x.cycHi, cyc := x.cyc, cycFrom := x.cycFrom,
                               stall := x.stall, stallFrom := x.stallFrom, imem := x.imem, dmem := x.dmem }
    let s1 := clearFault (hCore c) 1 (clearFault (hCore c) 2 (s.setCore c y))
    (.ok, recordCause c 0 0 (some 0) false { s1 with rep := { s1.rep with evp := Tbl.del s1.rep.evp c } })

/-! Debug access (R306, R309). -/

/-- A write to RFL_IMEM_HI. -/
def imemWrite (c v be : Nat) (s : State) : State :=
  let x := s.core c
  if x.run ≠ rHalted then raise (hCore c) 3 s
  else
    let a := s.wordN (R.RFL_IMEM_ADDR c) % 4096
    let w := s.wordN (R.RFL_IMEM_LO c) + 2 ^ 32 * mergeBe (imemWord s c a / 2 ^ 32) v be
    let im := if w = 0 then Tbl.del x.imem a else Tbl.set x.imem a w
    (s.setCore c { x with imem := im }).setWord (R.RFL_IMEM_ADDR c) ((a + 1) % 4096)

/-- A read of RFL_IMEM_HI. -/
def imemHiRead (path : Path) (c : Nat) (s : State) : State :=
  let a := s.wordN (R.RFL_IMEM_ADDR c) % 4096
  (s.emit (.regRead path (R.RFL_IMEM_HI c) (imemWord s c a / 2 ^ 32))).setWord (R.RFL_IMEM_ADDR c) ((a + 1) % 4096)

/-- The word of data memory at RFL_DMEM_ADDR. -/
def dmemWord (s : State) (c a : Nat) : Nat := leNat ((upFrom a 4).map (fun k => Tbl.get 0 (s.core c).dmem k))

/-- An access to RFL_DMEM_DATA; it adds 4 to ADDR. -/
def dmemAccess (path : Path) (c : Nat) (wr : Option (Nat × Nat)) (s : State) : State :=
  let a := 4 * s.fld (R.RFL_DMEM_ADDR_ADDR c)
  let old := dmemWord s c a
  let s1 := match wr with
    | some (v, be) => dmemPut c a (leBytes 4 (mergeBe old v be)) s
    | none => s.emit (.regRead path (R.RFL_DMEM_DATA c) old)
  s1.setFld (R.RFL_DMEM_ADDR_ADDR c) ((a / 4 + 1) % 65536)

/-- The part of an accumulator half: bits 31:0, 63:32, 71:64. -/
def accPart (v : Int) (k : Nat) : Nat := enc 72 v / 2 ^ (32 * k) % 2 ^ 32

/-- An accumulator half with one part replaced. -/
def accPut (v : Int) (k x : Nat) : Int := sext 72 (putBits (enc 72 v) (min 71 (32 * k + 31)) (32 * k) x)

/-- RFL_DBG_DATA: the register that RFL_DBG_SEL selects. -/
def dbgRead (s : State) (c : Nat) : Nat :=
  let x := s.core c
  let b := if s.flag (R.RFL_DBG_SEL_BANK c) then x.shad else x.main
  let part := s.fld (R.RFL_DBG_SEL_PART c)
  let n := s.fld (R.RFL_DBG_SEL_INDEX c)
  match s.fld (R.RFL_DBG_SEL_FILE c) with
  | 0 => b.G n
  | 1 => if part = 0 then enc 32 (b.D n).1 else if part = 1 then enc 32 (b.D n).2 else 0
  | 2 => b.A (n % 8)
  | 3 => b.file 1 (n % 8)
  | 4 => b.file 2 (n % 8)
  | 5 => b.file 3 (n % 8)
  | 6 => if part < 3 then accPart (b.ACC (n % 4)).1 part else if part < 6 then accPart (b.ACC (n % 4)).2 (part - 3) else 0
  | _ => b2n (b.P n)

/-- A bank with the selected register written. -/
def dbgPut (b : RBank) (file part n v : Nat) : RBank :=
  match file with
  | 0 => b.put (.g n) v 0
  | 1 => if part = 0 then b.put (.d n) (sext 18 v) (b.D n).2 else if part = 1 then b.put (.d n) (b.D n).1 (sext 18 v) else b
  | 2 => b.put (.a (n % 8)) v 0
  | 3 => b.put (.i (n % 8)) v 0
  | 4 => b.put (.m (n % 8)) v 0
  | 5 => b.put (.b (n % 8)) v 0
  | 6 =>
    let o := b.ACC (n % 4)
    let y := if part < 3 then (accPut o.1 part v, o.2) else if part < 6 then (o.1, accPut o.2 (part - 3) v) else o
    { b.put (.acc (n % 4)) y.1 y.2 with mac := Tbl.set b.mac (n % 4) y }
  | _ => b.put (.p (n % 8)) (b2n (bitAt v 0)) 0

/-- A write to RFL_DBG_DATA. -/
def dbgWrite (c v be : Nat) (s : State) : State :=
  let x := s.core c
  if x.run ≠ rHalted then raise (hCore c) 3 s
  else
    let w := mergeBe (dbgRead s c) v be
    let file := s.fld (R.RFL_DBG_SEL_FILE c)
    let part := s.fld (R.RFL_DBG_SEL_PART c)
    let n := s.fld (R.RFL_DBG_SEL_INDEX c)
    s.setCore c (if s.flag (R.RFL_DBG_SEL_BANK c) then { x with shad := dbgPut x.shad file part n w } else { x with main := dbgPut x.main file part n w })

/-- RFL_STATUS. -/
def rflStatus (s : State) (c : Nat) : Nat :=
  let x := s.core c
  x.run + 16 * b2n x.sup + 32 * b2n x.shadow + 64 * b2n x.ie + 128 * b2n x.sat + 256 * x.pc

/-! Meanings: instructions seen from the compute slot. -/

/-- NOP of either slot (R293, R294). -/
def execNop (memSlot : Bool) (i : CSlot) (s : State) : Host.Outcome State Fault Refusal := .next (issueWord i.core (nopWord memSlot i) i.ecc s)

/-- CMUL (R287, R293). -/
def execCmul (i : CSlot) (s : State) : Host.Outcome State Fault Refusal := .next (issueWord i.core (cWord 0x01 i) i.ecc s)

/-- CMAC (R287, R293). -/
def execCmac (i : CSlot) (s : State) : Host.Outcome State Fault Refusal := .next (issueWord i.core (cWord 0x02 i) i.ecc s)

/-- RMAC (R287, R293). -/
def execRmac (i : CSlot) (s : State) : Host.Outcome State Fault Refusal := .next (issueWord i.core (cWord 0x03 i) i.ecc s)

/-- PWR (R287, R293). -/
def execPwr (i : CSlot) (s : State) : Host.Outcome State Fault Refusal := .next (issueWord i.core (cWord 0x04 i) i.ecc s)

/-- ACLR (R293). -/
def execAclr (i : CSlot) (s : State) : Host.Outcome State Fault Refusal := .next (issueWord i.core (cWord 0x05 i) i.ecc s)

/-- AADD (R293). -/
def execAadd (i : CSlot) (s : State) : Host.Outcome State Fault Refusal := .next (issueWord i.core (cWord 0x06 i) i.ecc s)

/-- ASH (R293). -/
def execAsh (i : CSlot) (s : State) : Host.Outcome State Fault Refusal := .next (issueWord i.core (cWord 0x07 i) i.ecc s)

/-- AEXP (R288, R293). -/
def execAexp (i : CSlot) (s : State) : Host.Outcome State Fault Refusal := .next (issueWord i.core (cWord 0x08 i) i.ecc s)

/-- ANRM (R288, R293). -/
def execAnrm (i : CSlot) (s : State) : Host.Outcome State Fault Refusal := .next (issueWord i.core (cWord 0x09 i) i.ecc s)

/-- ARND (R289, R293). -/
def execArnd (i : CSlot) (s : State) : Host.Outcome State Fault Refusal := .next (issueWord i.core (cWord 0x0A i) i.ecc s)

/-- AR32 (R289, R293). -/
def execAr32 (i : CSlot) (s : State) : Host.Outcome State Fault Refusal := .next (issueWord i.core (cWord 0x0B i) i.ecc s)

/-- AFLT (R289, R293). -/
def execAflt (i : CSlot) (s : State) : Host.Outcome State Fault Refusal := .next (issueWord i.core (cWord 0x0C i) i.ecc s)

/-- FACC (R293). -/
def execFacc (i : CSlot) (s : State) : Host.Outcome State Fault Refusal := .next (issueWord i.core (cWord 0x0D i) i.ecc s)

/-- DEXP (R288, R293). -/
def execDexp (i : CSlot) (s : State) : Host.Outcome State Fault Refusal := .next (issueWord i.core (cWord 0x10 i) i.ecc s)

/-- DNRM (R288, R293). -/
def execDnrm (i : CSlot) (s : State) : Host.Outcome State Fault Refusal := .next (issueWord i.core (cWord 0x11 i) i.ecc s)

/-- DADD (R293). -/
def execDadd (i : CSlot) (s : State) : Host.Outcome State Fault Refusal := .next (issueWord i.core (cWord 0x12 i) i.ecc s)

/-- DSUB (R293). -/
def execDsub (i : CSlot) (s : State) : Host.Outcome State Fault Refusal := .next (issueWord i.core (cWord 0x13 i) i.ecc s)

/-- DCONJ (R289, R293). -/
def execDconj (i : CSlot) (s : State) : Host.Outcome State Fault Refusal := .next (issueWord i.core (cWord 0x14 i) i.ecc s)

/-- DSWAP (R293). -/
def execDswap (i : CSlot) (s : State) : Host.Outcome State Fault Refusal := .next (issueWord i.core (cWord 0x15 i) i.ecc s)

/-- DPACK (R293). -/
def execDpack (i : CSlot) (s : State) : Host.Outcome State Fault Refusal := .next (issueWord i.core (cWord 0x16 i) i.ecc s)

/-- DUNPK (R293). -/
def execDunpk (i : CSlot) (s : State) : Host.Outcome State Fault Refusal := .next (issueWord i.core (cWord 0x17 i) i.ecc s)

/-- DMOV (R293). -/
def execDmov (i : CSlot) (s : State) : Host.Outcome State Fault Refusal := .next (issueWord i.core (cWord 0x18 i) i.ecc s)

/-- MTA (R293). -/
def execMta (i : CSlot) (s : State) : Host.Outcome State Fault Refusal := .next (issueWord i.core (cWord 0x19 i) i.ecc s)

/-- MFA (R293). -/
def execMfa (i : CSlot) (s : State) : Host.Outcome State Fault Refusal := .next (issueWord i.core (cWord 0x1A i) i.ecc s)

/-- MTS (R286, R293). -/
def execMts (i : CSlot) (s : State) : Host.Outcome State Fault Refusal := .next (issueWord i.core (cWord 0x1B i) i.ecc s)

/-- MFS (R286, R293). -/
def execMfs (i : CSlot) (s : State) : Host.Outcome State Fault Refusal := .next (issueWord i.core (cWord 0x1C i) i.ecc s)

/-- ADD (R293). -/
def execAdd (i : CSlot) (s : State) : Host.Outcome State Fault Refusal := .next (issueWord i.core (cWord 0x20 i) i.ecc s)

/-- SUB (R293). -/
def execSub (i : CSlot) (s : State) : Host.Outcome State Fault Refusal := .next (issueWord i.core (cWord 0x21 i) i.ecc s)

/-- AND (R293). -/
def execAnd (i : CSlot) (s : State) : Host.Outcome State Fault Refusal := .next (issueWord i.core (cWord 0x22 i) i.ecc s)

/-- OR (R293). -/
def execOr (i : CSlot) (s : State) : Host.Outcome State Fault Refusal := .next (issueWord i.core (cWord 0x23 i) i.ecc s)

/-- XOR (R293). -/
def execXor (i : CSlot) (s : State) : Host.Outcome State Fault Refusal := .next (issueWord i.core (cWord 0x24 i) i.ecc s)

/-- SHL (R293). -/
def execShl (i : CSlot) (s : State) : Host.Outcome State Fault Refusal := .next (issueWord i.core (cWord 0x25 i) i.ecc s)

/-- SHR (R293). -/
def execShr (i : CSlot) (s : State) : Host.Outcome State Fault Refusal := .next (issueWord i.core (cWord 0x26 i) i.ecc s)

/-- SHRL (R293). -/
def execShrl (i : CSlot) (s : State) : Host.Outcome State Fault Refusal := .next (issueWord i.core (cWord 0x27 i) i.ecc s)

/-- ADDI (R293). -/
def execAddi (i : CSlot) (s : State) : Host.Outcome State Fault Refusal := .next (issueWord i.core (cWord 0x28 i) i.ecc s)

/-- MOVI (R293). -/
def execMovi (i : CSlot) (s : State) : Host.Outcome State Fault Refusal := .next (issueWord i.core (cWord 0x29 i) i.ecc s)

/-- MOVH (R293). -/
def execMovh (i : CSlot) (s : State) : Host.Outcome State Fault Refusal := .next (issueWord i.core (cWord 0x2A i) i.ecc s)

/-- CLTI (R293). -/
def execClti (i : CSlot) (s : State) : Host.Outcome State Fault Refusal := .next (issueWord i.core (cWord 0x2B i) i.ecc s)

/-- CEQ (R293). -/
def execCeq (i : CSlot) (s : State) : Host.Outcome State Fault Refusal := .next (issueWord i.core (cWord 0x2C i) i.ecc s)

/-- CLT (R293). -/
def execClt (i : CSlot) (s : State) : Host.Outcome State Fault Refusal := .next (issueWord i.core (cWord 0x2D i) i.ecc s)

/-- CLTU (R293). -/
def execCltu (i : CSlot) (s : State) : Host.Outcome State Fault Refusal := .next (issueWord i.core (cWord 0x2E i) i.ecc s)

/-- CEQI (R293). -/
def execCeqi (i : CSlot) (s : State) : Host.Outcome State Fault Refusal := .next (issueWord i.core (cWord 0x2F i) i.ecc s)

/-- PAND (R293). -/
def execPand (i : CSlot) (s : State) : Host.Outcome State Fault Refusal := .next (issueWord i.core (cWord 0x30 i) i.ecc s)

/-- PNOT (R293). -/
def execPnot (i : CSlot) (s : State) : Host.Outcome State Fault Refusal := .next (issueWord i.core (cWord 0x31 i) i.ecc s)

/-- FADD (R293). -/
def execFadd (i : CSlot) (s : State) : Host.Outcome State Fault Refusal := .next (issueWord i.core (cWord 0x38 i) i.ecc s)

/-- FSUB (R293). -/
def execFsub (i : CSlot) (s : State) : Host.Outcome State Fault Refusal := .next (issueWord i.core (cWord 0x39 i) i.ecc s)

/-- FMUL (R293). -/
def execFmul (i : CSlot) (s : State) : Host.Outcome State Fault Refusal := .next (issueWord i.core (cWord 0x3A i) i.ecc s)

/-- FMAX (R293). -/
def execFmax (i : CSlot) (s : State) : Host.Outcome State Fault Refusal := .next (issueWord i.core (cWord 0x3B i) i.ecc s)

/-- FMIN (R293). -/
def execFmin (i : CSlot) (s : State) : Host.Outcome State Fault Refusal := .next (issueWord i.core (cWord 0x3C i) i.ecc s)

/-- FCLT (R293). -/
def execFclt (i : CSlot) (s : State) : Host.Outcome State Fault Refusal := .next (issueWord i.core (cWord 0x3D i) i.ecc s)

/-- FCVT (R293). -/
def execFcvt (i : CSlot) (s : State) : Host.Outcome State Fault Refusal := .next (issueWord i.core (cWord 0x3E i) i.ecc s)

/-! Meanings: instructions seen from the memory slot. -/

/-- LDW (R283, R290, R291, R294). -/
def execLdw (i : MSlot) (s : State) : Host.Outcome State Fault Refusal := .next (issueWord i.core (mWord 0x01 i) i.ecc s)

/-- LDFW (R283, R294, R298). -/
def execLdfw (i : MSlot) (s : State) : Host.Outcome State Fault Refusal := .next (issueWord i.core (mWord 0x11 i) i.ecc s)

/-- STW (R283, R290, R291, R294). -/
def execStw (i : MSlot) (s : State) : Host.Outcome State Fault Refusal := .next (issueWord i.core (mWord 0x02 i) i.ecc s)

/-- STFW (R283, R294, R298). -/
def execStfw (i : MSlot) (s : State) : Host.Outcome State Fault Refusal := .next (issueWord i.core (mWord 0x12 i) i.ecc s)

/-- LDC6 (R283, R291, R294). -/
def execLdc6 (i : MSlot) (s : State) : Host.Outcome State Fault Refusal := .next (issueWord i.core (mWord 0x03 i) i.ecc s)

/-- LDFC6 (R294, R298). -/
def execLdfc6 (i : MSlot) (s : State) : Host.Outcome State Fault Refusal := .next (issueWord i.core (mWord 0x13 i) i.ecc s)

/-- STC6 (R283, R291, R294). -/
def execStc6 (i : MSlot) (s : State) : Host.Outcome State Fault Refusal := .next (issueWord i.core (mWord 0x04 i) i.ecc s)

/-- STFC6 (R294, R298). -/
def execStfc6 (i : MSlot) (s : State) : Host.Outcome State Fault Refusal := .next (issueWord i.core (mWord 0x14 i) i.ecc s)

/-- LDC4 (R291, R294). -/
def execLdc4 (i : MSlot) (s : State) : Host.Outcome State Fault Refusal := .next (issueWord i.core (mWord 0x05 i) i.ecc s)

/-- LDFC4 (R294, R298). -/
def execLdfc4 (i : MSlot) (s : State) : Host.Outcome State Fault Refusal := .next (issueWord i.core (mWord 0x15 i) i.ecc s)

/-- STC4 (R291, R294). -/
def execStc4 (i : MSlot) (s : State) : Host.Outcome State Fault Refusal := .next (issueWord i.core (mWord 0x06 i) i.ecc s)

/-- STFC4 (R294, R298). -/
def execStfc4 (i : MSlot) (s : State) : Host.Outcome State Fault Refusal := .next (issueWord i.core (mWord 0x16 i) i.ecc s)

/-- STA (R289, R291, R294). -/
def execSta (i : MSlot) (s : State) : Host.Outcome State Fault Refusal := .next (issueWord i.core (mWord 0x07 i) i.ecc s)

/-- STFA (R289, R294, R298). -/
def execStfa (i : MSlot) (s : State) : Host.Outcome State Fault Refusal := .next (issueWord i.core (mWord 0x17 i) i.ecc s)

/-- BR (R294, R297). -/
def execBr (i : MSlot) (s : State) : Host.Outcome State Fault Refusal := .next (issueWord i.core (mWord 0x20 i) i.ecc s)

/-- CALL (R294, R297). -/
def execCall (i : MSlot) (s : State) : Host.Outcome State Fault Refusal := .next (issueWord i.core (mWord 0x21 i) i.ecc s)

/-- JMP (R294, R297). -/
def execJmp (i : MSlot) (s : State) : Host.Outcome State Fault Refusal := .next (issueWord i.core (mWord 0x22 i) i.ecc s)

/-- WAIT (R294, R298). -/
def execWait (i : MSlot) (s : State) : Host.Outcome State Fault Refusal := .next (issueWord i.core (mWord 0x23 i) i.ecc s)

/-- ECLRV (R294, R299). -/
def execEclrv (i : MSlot) (s : State) : Host.Outcome State Fault Refusal := .next (issueWord i.core (mWord 0x24 i) i.ecc s)

/-- EVS (R294). -/
def execEvs (i : MSlot) (s : State) : Host.Outcome State Fault Refusal := .next (issueWord i.core (mWord 0x25 i) i.ecc s)

/-- EFLG (R276, R294). -/
def execEflg (i : MSlot) (s : State) : Host.Outcome State Fault Refusal := .next (issueWord i.core (mWord 0x26 i) i.ecc s)

/-- ECLR (R276, R294). -/
def execEclr (i : MSlot) (s : State) : Host.Outcome State Fault Refusal := .next (issueWord i.core (mWord 0x27 i) i.ecc s)

/-- SYS (R294, R297, R304). -/
def execSys (i : MSlot) (s : State) : Host.Outcome State Fault Refusal := .next (issueWord i.core (mWord 0x28 i) i.ecc s)

/-- RTE (R297, R302). -/
def execRte (i : MSlot) (s : State) : Host.Outcome State Fault Refusal := .next (issueWord i.core (mWord 0x29 i) i.ecc s)

/-- HALT (R294). -/
def execHalt (i : MSlot) (s : State) : Host.Outcome State Fault Refusal := .next (issueWord i.core (mWord 0x2A i) i.ecc s)

/-! Meanings: the cores. -/

/-- WAIT_RELEASE (R294, R298). -/
def execWaitRelease (c : Fin 64) (s : State) : Host.Outcome State Fault Refusal := .next (waitRelease c s)

/-- FAR_ACCESS_COMPLETE (R298, R303, R319, R320). -/
def execFarAccessComplete (c : Fin 64) (resp : Response) (s : State) : Host.Outcome State Fault Refusal := .next (farComplete c resp s)

/-- PREEMPT (R300). -/
def execPreempt (c : Fin 64) (s : State) : Host.Outcome State Fault Refusal := .next (preemptCore c s)

/-- CTMR_EXPIRE (R286, R299). -/
def execCtmrExpire (c : Fin 64) (s : State) : Host.Outcome State Fault Refusal := .next (ctmrExpire c s)

/-- DOORBELL (R299). -/
def execDoorbell (c : Fin 64) (s : State) : Host.Outcome State Fault Refusal := .next (ringDoorbell c s)

/-- RUN (R307). -/
def execRflRun (c : Fin 64) (s : State) : Host.Outcome State Fault Refusal := .next (runCmd (hCore c) 1 (rflRunCmd c) s)

/-- HALT of the core unit (R307). -/
def execRflHaltCmd (c : Fin 64) (s : State) : Host.Outcome State Fault Refusal := .next (runCmd (hCore c) 2 (rflHaltCmd c) s)

/-- STEP (R307). -/
def execRflStep (c : Fin 64) (s : State) : Host.Outcome State Fault Refusal := .next (runCmd (hCore c) 3 (rflStepCmd c) s)

/-- RESET (R307). -/
def execRflReset (c : Fin 64) (s : State) : Host.Outcome State Fault Refusal := .next (runCmd (hCore c) 4 (rflResetCmd c) s)

/-- IMEM_WRITE (R306, R309). -/
def execImemWrite (c : Fin 64) (val : Word) (be : BitVec 4) (s : State) : Host.Outcome State Fault Refusal :=
  .next (imemWrite c val.toNat be.toNat s)

/-- DMEM_DATA_ACCESS (R306, R309). -/
def execDmemDataAccess (path : Path) (c : Fin 64) (wr : Option (Word × BitVec 4)) (s : State) : Host.Outcome State Fault Refusal :=
  .next (dmemAccess path c (wr.map (fun x => (x.1.toNat, x.2.toNat))) s)

/-- DBG_DATA_WRITE (R306, R309). -/
def execDbgDataWrite (c : Fin 64) (val : Word) (be : BitVec 4) (s : State) : Host.Outcome State Fault Refusal :=
  .next (dbgWrite c val.toNat be.toNat s)

/-- IMEM_HI_READ (R309). -/
def execImemHiRead (path : Path) (c : Fin 64) (s : State) : Host.Outcome State Fault Refusal := .next (imemHiRead path c s)

end Sys2Proof.Machine
end

