-- ==== Sys2Proof/Machine/Start.lean ====
section
/-! DEFINITION. The start-up sequence of the die (R433 to R440, R446, R448), the records of an image applied (R438, R439), and the release of the units. -/

namespace Sys2Proof.Machine

/-! The journal at start (R446, R448). -/

/-- Put numbers into rising words, each with `n` bits. -/
def putWords (n : Nat) (off : Nat → Nat) (vs : List Int) (s : State) : State :=
  (vs.zip (List.range vs.length)).foldl (fun s e => s.setWord (off e.2) (enc n e.1)) s

/-- One item in force is applied. -/
def journalItem (e : JEntry) (s : State) : State :=
  let last := e.vals.getLast?.getD 0
  if e.typ = 1 ∧ e.key / 16 < 4 ∧ e.key % 16 < 9 then
    (putWords 12 (R.ING_TRIM (e.key / 16) (e.key % 16)) (e.vals.take 16) s).setWord (R.ING_LANE_SKEW (e.key / 16) (e.key % 16)) (enc 32 last)
  else if e.typ = 2 ∧ e.key < 4 then s.setWord (R.ING_PORT_SKEW e.key) (enc 32 last)
  else if e.typ = 3 ∧ e.key < 9 then (putWords 12 (R.EVT_TRIM e.key) (e.vals.take 16) s).setWord (skewOff e.key) (enc 32 last)
  else if e.typ = 5 then (s.setPair R.MOD_HOURS (e.vals.getD 0 0).toNat).setPair R.MOD_HOT_HOURS (e.vals.getD 1 0).toNat
  else if e.typ = 7 ∧ e.key < 4 then s.setWord (R.ING_LANE_MAP e.key) last.toNat
  else s

/-- The journal is read: the group with a valid header and the higher GEN, or group 0 formatted. -/
def journalLoad (s : State) : State :=
  let b := s.boot
  let page (g : JGroup) : JGroup := { g with pos := cdiv g.pos 256 * 256 }
  if !b.grp0.valid && !b.grp1.valid then
    setFault hJnl 0 ((s.setBoot { b with active := 0, grp0 := { valid := true, gen := 1, entries := [], pos := 256 } }).setWord R.JNL_GEN 1)
  else
    let a := if b.grp0.valid && (!b.grp1.valid || decide (b.grp1.gen ≤ b.grp0.gen)) then 0 else 1
    let g := b.grp a
    let s1 := s.setBoot { b.setGrp a (page g) with active := a }
    let s2 := ((s1.setWord R.JNL_GEN g.gen).setWord R.JNL_SEQ (g.entries.foldl (fun m e => max m e.seq) 0)).setPair R.JNL_BAD
      (g.entries.filter (fun e => !e.good)).length
    (inForce g.entries).foldl (fun s e => journalItem e s) s2

/-- The ADC trims that the die passes to Brook (R384). -/
def trimsToBrook (s : State) : State :=
  if !s.brk.on then s
  else match jVals s 4 0 with
    | some vs => ((s.setFld R.BRK_ADC_TRIM_OFFSET (enc 8 (vs.getD 0 0))).setFld R.BRK_ADC_TRIM_GAIN (enc 16 (vs.getD 1 0)))
    | none => s.setWord R.BRK_ADC_TRIM (Config.brkTrim % 2 ^ 24)

/-! The Reservoir (R248, R249, R269). -/

/-- The retirement list of the journal, and the physical rank of each logical rank in service. -/
def rankMap (s : State) : List Nat × List Nat :=
  let dflt := (List.range 124).map (fun l => 32 * (l / 31) + l % 31)
  let x : List Nat × List Nat := match jVals s 6 0 with
    | some (n :: rest) => ((rest.take n.toNat).map Int.toNat, (rest.drop n.toNat).map Int.toNat)
    | _ => ([], dflt)
  let keep := x.2.filter (fun r => !x.1.contains r)
  let free := (List.range 128).filter (fun r => !x.1.contains r && !keep.contains r)
  (x.1, (keep ++ free).take (124 - (x.1.length - 4)))

/-- HBM is trained, wiped and mapped. -/
def ranksStart (s : State) : State :=
  let m := rankMap s
  let s1 := m.1.foldl (fun s r => s.setFld (R.RSV_RANK_STATUS_STATE r) rkRetired) s
  let s2 := (m.2.zip (List.range m.2.length)).foldl (fun s e =>
    ((s.setFld (R.RSV_RANK_STATUS_STATE e.1) rkInService).setFld (R.RSV_RANK_STATUS_LOGICAL e.1) e.2).setWord (R.RSV_RANK_MAP e.2) e.1) s1
  let l := m.2.length
  let s3 := (s2.setFld R.RSV_STATUS_L l).setFld R.RSV_STATUS_SPARES_LEFT (sparesLeft s2)
  memDegUpdate ((s3.setWord R.RSV_COMMITTED (16794 * l / 100)).setWord R.UNIT_CAPS 0x10204044)

/-- REGION records: the placement, and the headers of the owners of unplaced regions. -/
def regionsStart (rs : List HRec) (s : State) : List Nat × State :=
  let ps := placeRegions s.lRanks (if s.lRanks < 124 then shrinkRegions s.lRanks (regionsOf rs) else regionsOf rs)
  let s1 := (ps.zip (List.range 64)).foldl (fun s e =>
    let r := e.1.1
    let n := e.2
    let s1 := (s.setWord (R.RSV_REG_SIZE n) r.size).setWord (R.RSV_REG_BASE n) (e.1.2.getD 0)
    let s2 := ((s1.setFld (R.RSV_REG_CFG_OWNER n) r.owner).setFlag (R.RSV_REG_CFG_RING n) r.ring).setFlag (R.RSV_REG_CFG_PLACED n) e.1.2.isSome
    (s2.setFld (R.RSV_REG_CFG_PAGE n) r.page).setFld (R.RSV_REG_CFG_ORDER n) r.order) s
  let bad := (ps.filter (fun p => p.2.isNone)).map (fun p => p.1.owner * 0x1000)
  (bad, if bad.isEmpty then s1 else setFault hRsv 1 s1)

/-- POOL records (R271). -/
def poolStart (rs : List HRec) (s : State) : State :=
  (poolsOf rs).foldl (fun s p => (upFrom p.1 p.2.1).foldl (fun s b =>
    (s.setFld (R.POOL_OWNER_OWNER b) p.2.2).setFld (R.POOL_OWNER_STATE b) (if p.2.2 % 2 ^ 13 = 0 then 2 else 1)) s) s

/-- A reservation asked for at start-up: consumer (0 ring, 1 deep reach, 2 stream, 3 Backwater), its port, rate in 0.1 GB/s. -/
structure Claim where
  con : Nat
  port : Nat
  rate : Nat
  deriving DecidableEq, Repr

/-- The ring of a port takes 51.2 GB/s, whatever D (R254). -/
def ringRate : Nat := 512

/-- The claims of the BUDGET records in order, then those of enabled ports whose ring no record names. -/
def claimsOf (rs : List HRec) : List Claim :=
  let a := ((recsOf 3 rs).flatMap (fun r => entriesOf 8 r.body)).map (fun e => ({ con := leAt e 0 1, port := leAt e 1 1, rate := leAt e 4 4 } : Claim))
  let b := a.map (fun c => if c.con = 0 then { c with rate := ringRate } else c)
  let en (p : Nat) : Bool := match ((pairsOf 1 rs).filter (fun e => e.1 == R.ING_PORT_CFG p)).getLast? with | some e => bitAt e.2 0 | none => false
  b ++ ((List.range 4).filter (fun p => en p && !b.any (fun c => c.con == 0 && c.port == p))).map (fun p => { con := 0, port := p, rate := ringRate })

/-- The word that shows a claim's reservation, the unit that holds it, and the most that it may be (R254). -/
def Claim.word (c : Claim) : Nat :=
  if c.con = 0 then R.RSV_RES_RING c.port else if c.con = 1 then R.RSV_RES_DR c.port else if c.con = 2 then R.RSV_RES_STREAM else R.RSV_RES_BWATER
def Claim.unit (c : Claim) : Nat := if c.con = 0 then hCap c.port else if c.con = 1 then hRch 2 c.port else hStr
def Claim.limit (c : Claim) : Nat := if c.con = 0 then ringRate else if c.con = 1 then 2 ^ 32 - 1 else if c.con = 2 then 1000 else 2000

/-- Each reservation is granted, or refused with FAULT.BUDGET and its unit named (R254, R269). -/
def budgetStart (rs : List HRec) (s : State) : List Nat × State :=
  (claimsOf rs).foldl (fun (a : List Nat × State) c =>
    let s := a.2
    if 3 < c.con ∨ (c.con < 2 ∧ 3 < c.port) then a
    else if c.limit < s.wordN c.word + c.rate ∨ committed s < reserved s 0 (s.wordN (R.DRH_RSV 0)) + c.rate then
      (a.1 ++ [c.unit], setFault hRsv 2 s)
    else
      let t := s.setWord c.word (s.wordN c.word + c.rate)
      (a.1, if c.con = 1 then t.setWord (R.DRH_RSV c.port) (s.wordN (R.DRH_RSV c.port) + c.rate) else t)) ([], s)

/-! Records (R438). -/

/-- A value for the image fields of a word: SH fields go to the shadow copy, from which the unit's first snapshot takes them. -/
def imgWord (off v : Nat) (s : State) : State :=
  let m := imgMask off
  let sh := shMask off &&& m
  let s1 := if sh = 0 then s else { s with shadow := Tbl.set s.shadow off (blend (s.shadowN off) v sh) }
  s1.setWord off (blend (s.wordN off) v (m &&& (0xFFFFFFFF - sh)))

/-- LOAD into a BAR0 window: user windows, colour tables, context words. -/
def tableWord (o v : Nat) (s : State) : State :=
  if R.SRH_UTAB 0 0 0 ≤ o ∧ o < R.SRH_UTAB 4 0 0 then
    { s with rch := { s.rch with utab := Tbl.set s.rch.utab ((o - R.SRH_UTAB 0 0 0) / 4) (v % 2 ^ 18) } }
  else if R.COL_LUT 0 0 0 ≤ o ∧ o < R.COL_LUT 4 0 0 then
    { s with slt := { s.slt with lut := Tbl.set s.slt.lut ((o - R.COL_LUT 0 0 0) / 4) (v % 2 ^ 24) } }
  else imgWord o v s

/-- A LOAD record. -/
def loadStart (x : Nat × List Byte × Nat) (s : State) : State :=
  if 2 ^ 63 ≤ x.1 then
    (List.range (x.2.1.length / 4)).foldl (fun s i => tableWord (x.1 - 2 ^ 63 + 4 * i) (leAt x.2.1 (4 * i) 4) s) s
  else if inMasks x.1 then mtabBytes x.1 x.2.1 s
  else s.memStore x.1 x.2.1

/-- A kernel that is not loaded: FAULT.KERNEL, and the instruction memory stays zeroed (R305). -/
def kernelBad (c : Nat) (s : State) : State := setFault (hCore c) 0 (s.setCore c { s.core c with imem := [] })

/-- A KERNEL record (R305, R430). -/
def kernelStart (b : List Byte) (s : State) : State :=
  let c := leAt b 0 1
  let n := leAt b 16 4
  if 63 < c then s
  else if 4096 < n then kernelBad c s
  else
    let f := leAt b 1 1
    let s1 := ((s.setFlag (R.RFL_CFG_KERNEL c) true).setFlag (R.RFL_CFG_AUTO_RUN c) (bitAt f 0)).setFlag (R.RFL_CFG_FAULT_ACT c) (bitAt f 1)
    let s2 := ((((s1.setWord (R.RFL_ENTRY c) (leAt b 4 2 % 4096)).setWord (R.RFL_VEC_EVENT c) (leAt b 6 2 % 4096)).setWord (R.RFL_VEC_FAULT c)
      (leAt b 8 2 % 4096)).setWord (R.RFL_VEC_SYS c) (leAt b 10 2 % 4096)).setWord (R.RFL_EDDY_SEL c) (leAt b 12 4 &&& 0x3F3F3F3F)
    if s2.faultBit (hCore c) 0 then s2
    else s2.setCore c { RCore.init with imem := (List.range n).map (fun i => (i, leAt b (32 + 8 * i) 8)), dmem := (s2.core c).dmem }

/-- A DMEM record. -/
def dmemStart (b : List Byte) (s : State) : State :=
  let c := leAt b 0 1
  let o := leAt b 4 4
  if 63 < c then s
  else if 2 ^ 18 < o + (b.length - 8) then kernelBad c s
  else dmemPut c o (b.drop 8) s

/-- The image words of Brook, expanded from their rows. -/
def rowWords : Nat → List (Nat × Nat) → List Nat
  | b, [] => [b]
  | b, (st, n) :: t => (List.range n).flatMap (fun i => rowWords (b + st * i) t)

def brkWords : List Nat :=
  (imgRows.filter (fun x => decide (hBrk ≤ x.1) && decide (x.1 < hBrk + 0x1000))).flatMap (fun x => rowWords x.1 x.2.1)

/-- BROOK records: factory values where none sets a word (R438); LK and RW fields at once, the rest at Brook's next commit point. -/
def brookStart (rs : List HRec) (s : State) : State :=
  if !s.brk.on then s
  else
    let s1 := brkWords.foldl (fun s o => imgWord o (resetNat o) s) (imgWord (hBrk + 0x24) 0 s)
    let s2 := (pairsOf 1 rs ++ pairsOf 8 rs).foldl (fun s p =>
      if hBrk ≤ p.1 ∧ p.1 < hBrk + 0x1000 ∧ (p.1 ≠ R.BRK_RAIL_ORDER ∨ railOrderOk p.2 = true) then imgWord p.1 p.2 s else s) s1
    takeSnap hBrk s2

/-- The records in their order (R438, R439); the owners of unplaced regions and the units whose reservation was refused. -/
def recordsApply (rs : List HRec) (s : State) : List Nat × State :=
  let a := regionsStart rs s
  let b := budgetStart rs (poolStart rs a.2)
  let inBrk (o : Nat) : Bool := decide (hBrk ≤ o) && decide (o < hBrk + 0x1000)
  let s1 := ((pairsOf 1 rs).filter (fun p => !inBrk p.1)).foldl (fun s p => imgWord p.1 p.2 s) b.2
  let s2 := ((loadsOf rs).filter (fun x => !isStaging x.1)).foldl (fun s x => loadStart x s) s1
  let s3 := (recsOf 5 rs).foldl (fun s r => kernelStart r.body s) s2
  let s4 := (recsOf 6 rs).foldl (fun s r => dmemStart r.body s) s3
  let s5 := brookStart rs s4
  let s6 : State := { s5 with net := { s5.net with key := ((recsOf 9 rs).head?).map (fun r => r.body.take 32) } }
  (a.1 ++ b.1, ((loadsOf rs).filter (fun x => isStaging x.1)).foldl (fun s x => loadStart x s) s6)

/-! Release of the units (steps 7 and 10). -/

/-- A unit takes its image settings at a commit point; a rejected image setting sets its CFG fault bit; a unit in `bad` runs disabled. -/
def unitStart (bad : List Nat) (h bit : Nat) (legal : State → Bool) (go : State → State) (s : State) : State :=
  if bad.contains h then setFault h bit s
  else
    let s1 := takeSnap h s
    let ok := legal (overlay s1 ((s1.snapOf h).getD []))
    let s2 := go s1
    if ok then s2 else setFault h bit s2

/-- The clock unit: reference by R55, outputs, Rivulet, device time (R34, R43, R44, R487). -/
def clockStart (s : State) : State :=
  let s1 := takeSnap hClk s
  let t := overlay s1 ((s1.snapOf hClk).getD [])
  let sel := t.fld R.CLK_REF_CTRL_REF_SEL
  let act := if sel < 2 then sel else t.fld R.CLK_REF_CTRL_AUTO_PREF
  let s2 := s1.setFld R.CLK_WS_STATUS_ACT_REF act
  dtStart (clockCommit (if sel = 3 then s2.setFld R.CLK_REF_CTRL_REF_SEL 2 else s2))

/-- Lock of step 7: declared by R36 for the active reference at control value `ctl`, which is also taken as the mean over the last good window (log entry 57), or
the factory control value with LOCK 0 and HOLDOVER 1 (R437). -/
def lockStart (locked : Bool) (ctl : Nat) (s : State) : State :=
  let r := s.actRef
  if locked then
    let s1 := ((s.setFlag R.CLK_WS_STATUS_LOCK true).setFld R.CLK_WS_STATUS_GOOD_WIN 4).setFlag (refOk r) true |>.setQual r 4
    raise hClk 3 (noRef { s1.setWord R.CLK_WS_CTRLVAL ctl with clk := { s1.clk with mean := ctl } })
  else
    (((s.setFlag R.CLK_WS_STATUS_LOCK false).setFlag R.CLK_WS_STATUS_HOLDOVER true).setWord R.CLK_WS_CTRLVAL 0x80000000).setWord R.CLK_WS_HOLDVAL 0x80000000

/-- A port begins: the provisional schedule from now on, then its configuration if EN (R74, R440). -/
def portStart (p : Nat) (s : State) : State :=
  let s1 := s.setPort p { s.portSt p with fmt := s.wordN (R.ING_PORT_CFG p), link := s.wordN (R.ING_PORT_CFG p), epTick := s.tick }
  if s.flag (R.ING_PORT_CFG_EN p) then (applyCfg p s1).2 else s1

/-- The capture unit: its ring runs at LEN, or at the image's MIN_LIVE when the settings are rejected. -/
def capStart (bad : List Nat) (p : Nat) (s : State) : State :=
  if bad.contains (hCap p) then setFault (hCap p) 0 s
  else
    let s1 := takeSnap (hCap p) s
    let t := overlay s1 ((s1.snapOf (hCap p)).getD [])
    if capLegal t p then (dropSnap (hCap p) t).setWord (R.CAP_LEN_ACT p) (t.wordN (R.CAP_RING_LEN p))
    else setFault (hCap p) 0 ((rejectSnap (hCap p) 6 0 s1).setWord (R.CAP_LEN_ACT p) (t.wordN (R.CAP_MIN_LIVE p)))

/-- The detector unit. -/
def detStart (bad : List Nat) (p : Nat) (s : State) : State :=
  if bad.contains (hDet p) then setFault (hDet p) 1 s
  else
    let s1 := takeSnap (hDet p) s
    let t := overlay s1 ((s1.snapOf (hDet p)).getD [])
    match detBad t p with
    | some i => setFault (hDet p) 1 (rejectSnap (hDet p) 11 i s1)
    | none => mapFaults p (poolClaim (hDet p) (t.fld (R.DET_POOL_BASE p)) (t.fld (R.DET_POOL_COUNT p)) (laySlots p (dropSnap (hDet p) t)))

/-- The silt unit. -/
def sltStart (bad : List Nat) (p : Nat) (s : State) : State :=
  if bad.contains (hSlt p) then setFault (hSlt p) 2 s
  else
  let s1 := takeSnap (hSlt p) s
  let t := overlay s1 ((s1.snapOf (hSlt p)).getD [])
  match sltBad s t p with
  | some i => setFault (hSlt p) 2 (rejectSnap (hSlt p) 6 i s1)
  | none => mapFaults p ((List.range 4).foldl (fun a n => planeCommit s p n a) (dropSnap (hSlt p) t))

/-- A sequencer; with AUTO_ARM it is armed (R227, R228). -/
def seqStart (bad : List Nat) (n : Nat) (s : State) : State :=
  let s1 := unitStart bad (hSeq n) 0 (fun t => seqLegal t n) (seqCommit n) s
  if s1.flag (R.WEIR_SEQ_CFG_AUTO_ARM n) && !s1.faultBit (hSeq n) 0 then armSeq n s1 else s1

/-- The contexts that the image sets, in order; a rejected one stays disabled (R193, R213). -/
def contextsStart (bad : List Nat) (s : State) : State :=
  let base := R.TRB_CTX_CTL 0
  let is := nubNat ((Tbl.range s.shadow base (R.TRB_CTX_CTL 16384)).map (fun e => (e.1 - base) / 0x40))
  let pool := s.namesBanks hBank (s.fld R.TRB_STATE_POOL_BASE) 256 && s.fld R.TRB_STATE_POOL_COUNT == 256
  let s1 := if pool then s else setFault hBank 1 s
  if bad.contains hBank then setFault hBank 0 s1
  else is.foldl (fun s i =>
    let t := ctxApply i (ctxSnap i s)
    if t.flag (R.TRB_CTX_STAT_CFG_REJ i) then setFault hBank 0 t else t.setFld (R.TRB_CTX_STAT_TUNE_SEQ i) 0) s1

/-- The raster. -/
def rasStart (bad : List Nat) (s : State) : State :=
  if bad.contains hRas then setFault hRas 0 s
  else
  let s1 := takeSnap hRas s
  let t := overlay s1 ((s1.snapOf hRas).getD [])
  if rasterLegal t then rasterUpdate (dropSnap hRas t) else setFault hRas 0 (rejectSnap hRas 3 0 s1)

/-- A core with a kernel and AUTO_RUN starts at ENTRY (R305). -/
def coreStart (c : Nat) (s : State) : State :=
  if s.flag (R.RFL_CFG_AUTO_RUN c) && s.flag (R.RFL_CFG_KERNEL c) && !s.faultBit (hCore c) 0 then
    (rflRunCmd c (s.setCore c { s.core c with pc := s.wordN (R.RFL_ENTRY c) % 4096 })).2
  else s

/-- Step 10; the units of `bad` run disabled (R249, R269). -/
def releaseUnits (bad : List Nat) (s0 : State) : State :=
  let r4 := List.range 4
  let s := s0.setBoot { s0.boot with disabled := bad }
  let s1 := r4.foldl (fun s p => capStart bad p s) (r4.foldl (fun s p => if bad.contains (hIng p) then setFault (hIng p) 3 s else portStart p s) s)
  let s2 := (List.range 3).foldl (fun s k => r4.foldl (fun s p =>
    unitStart bad (hRch k p) 0 (fun t => reachLegal t k p) (reachCommit k p) s) s) s1
  let s3 := colCommit (takeSnap hCol (r4.foldl (fun s p => sltStart bad p s) (r4.foldl (fun s p => detStart bad p s) s2)))
  let s4 := r4.foldl (fun s p => unitStart bad (hCond p) 1 (fun t => (condBad t p).isNone) (condCommit p) s) s3
  let s5 := (List.range 16).foldl (fun s n => seqStart bad n s) s4
  let s6 := rasStart bad (contextsStart bad (chanStart s5))
  let s7 := if s6.flag R.PERF_POOL_VALID && (snapBank s6).isSome then s6 else setFault hPerf 0 s6
  let s8 := (List.range 64).foldl (fun s c => coreStart c s) s7
  let s9 := (List.range 64).foldl (fun s m => if s.flag (R.NET_STR_CFG_AUTOSTART m) then (strStartAt m s).2 else s) s8
  let s9l := r4.foldl (fun s k => if bad.contains (hLink k) then s else lnkEnable k 0 (s.wordN (R.NET_LNK_CFG k)) s) s9
  let s10 := if bad.contains hPtp then s9l else ptpEnable 0 (s9l.wordN R.PTP_CFG) s9l
  let s11 := (List.range 2).foldl (fun s o => if s.flag (R.DPY_OUT_CFG_EN o) && !bad.contains (hDp o) then dpEnable o true s else s) s10
  let ins := (List.range 8).filter (fun n => s11.flag (R.EVT_CFG_EN n))
  let s12 := ins.foldl (fun s n => s.setEvt n { s.evtIn n with blankEnd := s.tclk + 3200 }) s11
  let s13 : State := { s12 with evt := { s12.evt with cal := ins ++ (if s12.fld R.CLK_DT_CTRL_SRC = 1 then [8] else []) } }
  let id := s13.takeFree (2 ^ 64)
  let s14 := (id.2.setWord R.MGMT_BOOT_ID_LO (id.1 % 2 ^ 32)).setWord R.MGMT_BOOT_ID_HI (id.1 / 2 ^ 32)
  if s14.brk.on then adcCalStart s14 else s14

/-- The host port is released and the start-up is complete. -/
def startDone (s : State) : State :=
  { s with net := { s.net with hostOpen := true } }.setFlag R.BRK_STATUS_DIE_RUN true

/-! The sequence. -/

/-- The slots in the order in which they are tried (R433). -/
def slotOrder (b : Boot) : Nat × Nat :=
  let magic (k : Nat) : Bool := leAt (flashTake (b.slot k) 0 4) 0 4 == 0x59425248
  let ver (k : Nat) : Nat := leAt (flashTake (b.slot k) 0 16) 12 4
  if magic 1 && (!magic 0 || decide (ver 0 < ver 1)) then (1, 0) else (0, 1)

def resLoc (k : Nat) : Loc := if k = 0 then R.IMG_STATUS_SLOT0_RES else R.IMG_STATUS_SLOT1_RES

/-- Slots are tried; the accepted one, and IMG_STATUS. -/
def slotSelect (ok0 ok1 : Bool) (s : State) : Option Nat × State :=
  if s.boot.life = 3 then (none, s)
  else
    let o := slotOrder s.boot
    let ok (k : Nat) : Bool := if k = 0 then ok0 else ok1
    let a := checkSlot s (ok o.1) o.1
    let s1 := s.setFld (resLoc o.1) a
    if a = 1 then (some o.1, s1)
    else
      let b := checkSlot s (ok o.2) o.2
      let s2 := (s1.setFld (resLoc o.2) b).setFlag R.IMG_STATUS_FALLBACK true
      (if b = 1 then some o.2 else none, s2)

/-- What the accepted image shows; a higher SVN goes to the journal (R431, R434, R453). -/
def acceptSlot (k : Nat) (s : State) : State :=
  let sl := s.boot.slot k
  let h := flashTake sl 0 128
  let rs := (imgRecs sl).getD []
  let s1 := putWords 32 R.IMG_DIGEST ((List.range 12).map (fun w => ((leAt (imgDigest sl rs) (4 * w) 4 : Nat) : Int))) s
  let s2 := ((s1.setFld R.IMG_STATUS_RUN_SLOT k).setWord R.IMG_VER (leAt h 12 4)).setWord R.IMG_INFO (leAt h 16 1 + 2 ^ 16 * leAt h 0x1C 2)
  let s3 := s2.setBoot { s2.boot with pub := imgPub rs }
  if jnlSvn s < leAt h 16 1 then journal 8 0 [(leAt h 16 1 : Int)] s3 else s3

/-- Steps 7 to 10 with the accepted slot, or NOIMAGE (R435). -/
def startFinish (slot : Option Nat) (locked : Bool) (ctl : Nat) (s : State) : State :=
  match slot with
  | none =>
    startDone (trimsToBrook (ranksStart (lockStart locked ctl (dtStart (s.setFld R.CLK_REF_CTRL_REF_SEL 2)))))
  | some k =>
    let rs := (imgRecs (s.boot.slot k)).getD []
    let x := recordsApply rs (ranksStart s)
    startDone (releaseUnits x.1 (lockStart locked ctl (clockStart (trimsToBrook x.2))))

/-- DIE_START: start-up at DIE_GO; `locked` is the control value at which Wellspring locked, or none: then start-up goes up to step 7 and waits. -/
def dieStart (ok0 ok1 : Bool) (locked : Option Word) (s : State) : State :=
  if !(s.brk.on && s.flag R.BRK_STATUS_DIE_GO) || s.flag R.BRK_STATUS_DIE_RUN || s.flag R.BRK_STATUS_KILLED then s
  else
    let x := slotSelect ok0 ok1 (journalLoad (dieWipe s))
    let s1 := match x.1 with
      | none => setFault hImg 0 (x.2.setFlag R.IMG_STATUS_NOIMAGE true)
      | some k => acceptSlot k x.2
    match locked with
    | some ctl => startFinish x.1 true ctl.toNat s1
    | none => s1.setBoot { s1.boot with parked := some x.1 }

/-- 35 ms after step 6 (R437). -/
def lockTimeout (s : State) : State :=
  match s.boot.parked with
  | none => s
  | some k => if s.flag R.BRK_STATUS_DIE_GO then startFinish k (s.flag R.CLK_WS_STATUS_LOCK) (s.wordN R.CLK_WS_CTRLVAL) (s.setBoot { s.boot with parked := none }) else s

/-! Meanings. -/

/-- DIE_START (R436). -/
def execDieStart (flashOk0 flashOk1 : Bool) (locked : Option Word) (s : State) : Host.Outcome State Fault Refusal :=
  .next (dieStart flashOk0 flashOk1 locked s)

/-- STARTUP_LOCK_TIMEOUT (R437). -/
def execStartupLockTimeout (s : State) : Host.Outcome State Fault Refusal := .next (lockTimeout s)

end Sys2Proof.Machine
end

