-- ==== Sys2Proof/Machine/Bar0.lean ====
section
/-! DEFINITION. BAR0: unit headers (R474 to R477), the commands of every unit by code (R479, R480, and the command tables of each
chapter), what every register reads and what a write to it does (R4, R483 to R485), COMMIT (R20, R25) and basins (R26). -/

namespace Sys2Proof.Machine

/-! Index arithmetic of register blocks. -/

/-- The indices that an offset relative to a block's base names: strides and counts, largest stride first. -/
def idxOf : List (Nat × Nat) → Nat → Option (List Nat)
  | [], d => if d = 0 then some [] else none
  | (stride, count) :: t, d => if d / stride < count then (idxOf t (d % stride)).map (d / stride :: ·) else none

/-- A block of words that need a rule of their own: base, strides and counts, the rule for the word with given indices. -/
abbrev Rows (β : Type) := List (Nat × List (Nat × Nat) × (Nat → Nat → Nat → β))

/-- The rule of the word at an offset. -/
def rowAt {β : Type} (rows : Rows β) (off : Nat) : Option β :=
  rows.findSome? (fun r =>
    if r.1 ≤ off then (idxOf r.2.1 (off - r.1)).map (fun l => r.2.2 (l.getD 0 0) (l.getD 1 0) (l.getD 2 0)) else none)

/-! Commands (the command table of each chapter). -/

/-- An unknown code, or any code to a unit that accepts none (R479). -/
def badCode (h code : Nat) (s : State) : State := runCmd h code (refuse .range) s

/-- ADVANCE and SVN_COMMIT through BAR0: whether the fuses read back as blown is a free value. -/
def lcsCmd (code : Nat) (s : State) : State :=
  if s.cmdBusy hLcs then s
  else
    let x := s.takeFree 2
    if code = 1 then runAdvance (x.1 == 1) x.2 else runCmd hLcs 2 (svnCommitCmd (x.1 == 1)) x.2

/-- A command of chapters 02 to 08. -/
def cmdLow (cls i code : Nat) : Option (State → Code × State) :=
  match cls, code with
  | 0x200, 1 => some dtStepCmd
  | 0x200, 2 => some settodCmd
  | 0x200, 3 => some (fun s => (.ok, dtRestart s))
  | 0x300, 1 => some evtCalCmd
  | 0x300, 2 => some flushCmd
  | 0x400, 1 => some (applyCfg i)
  | 0x400, 2 => some (portCalCmd i)
  | 0x400, 3 => some (ingRetrainCmd i)
  | 0x400, 4 => some (portIdleCmd i)
  | 0x400, 5 => some (portWakeCmd i)
  | 0x500, 1 => some (srSnapCmd i)
  | 0x501, 1 => some (cutCmd 1 i)
  | 0x502, 1 => some (cutCmd 2 i)
  | 0x502, 2 => some (reserveCmd i)
  | 0x600, 1 => some (sltClear i)
  | 0x600, 2 => some (sltRelease i)
  | 0x600, 3 => some (sltSwap i)
  | 0x601, 1 => some (detClear i)
  | 0x701, 1 => some resetCtxCmd
  | 0x701, 2 => some reportCmd
  | 0x800, 1 => some (armCmd i)
  | 0x800, 2 => some (disarmCmd i)
  | 0x800, 3 => some (forceCmd i)
  | 0x801, 1 => some (capReleaseCmd i)
  | 0x801, 2 => some (holdCmd i)
  | 0x801, 3 => some (unholdCmd i)
  | 0x801, 4 => some (releaseAllCmd i)
  | 0x801, 5 => some (capCloseCmd i)
  | _, _ => none

/-- A command of chapters 09 to 17 that takes effect at once. -/
def cmdHigh (cls i code : Nat) : Option (State → Code × State) :=
  match cls, code with
  | 0x900, 1 => some retireCmd
  | 0x900, 2 => some scrubCmd
  | 0x901, 1 => some handoverCmd
  | 0x901, 2 => some poolReleaseCmd
  | 0xA00, 1 => some (rflRunCmd i)
  | 0xA00, 2 => some (rflHaltCmd i)
  | 0xA00, 3 => some (rflStepCmd i)
  | 0xA00, 4 => some (rflResetCmd i)
  | 0xB01, 1 => some (mlrStartCmd i)
  | 0xB01, 2 => some (mlrStopCmd i)
  | 0xB01, 3 => some (mlrResumeCmd i)
  | 0xB01, 4 => some (mlrAbortCmd i)
  | 0xC01, 1 => some strStartCmd
  | 0xC01, 2 => some strStopCmd
  | 0xC01, 3 => some sendRecCmd
  | 0xC01, 4 => some qpResetCmd
  | 0xD01, 1 => some (dpRetrainCmd i)
  | 0xD01, 2 => some (auxCmd i)
  | 0xE00, 1 => some brkCalCmd
  | 0xE00, 2 => some selftestCmd
  | 0xE00, 3 => some resetFltCmd
  | 0xE00, 4 => some clrLatchCmd
  | 0xF00, 1 => some markCmd
  | 0xF01, 1 => some snapCmd
  | 0xF01, 2 => some clrAllCmd
  | 0xF01, 3 => some hclrCmd
  | 0x1000, 1 => some eraseCmd
  | 0x1000, 2 => some programCmd
  | 0x1000, 3 => some checkCmd
  | 0x1002, 1 => some compactCmd
  | _, _ => none

/-- A command of a leaf unit. -/
def unitCmd (h code : Nat) (s : State) : State :=
  let c := unitClass h
  let i := unitInstance h
  if h = hMmu then
    if 1 ≤ code ∧ code ≤ 3 then runLong hMmu code (invCmd code) s else badCode h code s
  else if h = hLcs then
    if code = 1 ∨ code = 2 then lcsCmd code s else badCode h code s
  else match (if c < 0x900 then cmdLow c i code else cmdHigh c i code) with
    | some f => runCmd h code f s
    | none => badCode h code s

/-! Basins (R25, R26). -/

/-- Has the forwarded command of a basin still to reach members, or to return from them? -/
def State.forwards (s : State) (b : Nat) : Bool := (Tbl.find s.rep.fwd b).isSome

/-- A command begins to be forwarded. -/
def fwdStart (b code : Nat) (s : State) : State :=
  { s with rep := { s.rep with fwd := Tbl.set s.rep.fwd b { code := code, left := leaves b, worst := 0 } } }

/-- Each member of a list executes or refuses a forwarded command in turn; a reset in between (R443) ends the forwarding. -/
def forwardTo (b code : Nat) (ms : List Nat) (s : State) : State :=
  ms.foldl (fun s m => if s.forwards b then unitCmd m code s else s) s

/-- A command written to a basin. -/
def basinCmd (b code : Nat) (s : State) : State :=
  if s.cmdBusy b then
    if s.forwards b then s
    else { s with rep := { s.rep with cmd := Tbl.set s.rep.cmd b { status := 1, code := code, busy := false } } }
  else if b = 0 then
    rootMembers.foldl (fun s m =>
      if !s.forwards 0 then s
      else if isBasin m then forwardTo m code (members m) (fwdStart m code s)
      else unitCmd m code s) (fwdStart 0 code s)
  else forwardTo b code (members b) (fwdStart b code s)

/-- COMMIT in the CONTROL word of a leaf: a unit without SH fields has none to snap (R475); in the bank unit it covers every context (R192). -/
def commitUnit (h : Nat) (s : State) : State :=
  let c := unitClass h
  if c = 0x701 then bankCommit s
  else if [0x200, 0x500, 0x501, 0x502, 0x600, 0x601, 0x602, 0x800, 0x801, 0x802, 0xD00, 0xE00].contains c then takeSnap h s
  else s

/-- COMMIT in the CONTROL word of a basin: every member at any depth. -/
def commitBasin (b : Nat) (s : State) : State := (leaves b).foldl (fun s m => commitUnit m s) s

/-! Headers (R474, R475, R477). -/

/-- EVENT_MASK of a unit. -/
def maskOf (s : State) (h : Nat) : Nat := s.wordN (h + 0x24)

/-- COMMIT_PEND of a leaf (R22). -/
def commitPend (s : State) (h : Nat) : Bool :=
  if h = hBank then s.trb.ctx.any (fun e => e.2.snap.isSome) else (s.snapOf h).isSome

/-- STATUS of a leaf. -/
def leafStatus (s : State) (h : Nat) : Nat :=
  b2n (commitPend s h) + 2 * b2n (s.faultOf h != 0) + 4 * b2n ((s.pendOf h &&& (0xFFFFFFFF - maskOf s h)) != 0) + 8 * b2n (s.cmdBusy h)

/-- STATUS of a unit or basin. -/
def unitStatus (s : State) (h : Nat) : Nat :=
  if isBasin h then ((leaves h).map (leafStatus s)).foldl (· ||| ·) (8 * b2n (s.cmdBusy h)) else leafStatus s h

/-- CMD_STATUS. -/
def cmdStatus (s : State) (h : Nat) : Nat :=
  match Tbl.find s.rep.fwd h with
  | some f => 1 + 256 * f.code
  | none => (s.cmdSt h).status + 256 * (s.cmdSt h).code

/-- A word of a header. -/
def headerRead (s : State) (h o : Nat) : Nat :=
  match o with
  | 0x00 => ownerId h + 2 ^ 16 * unitInstance h
  | 0x04 => unitClass h + 2 ^ 16 * b2n (isBasin h)
  | 0x08 => 0x00020001
  | 0x0C => (members h).length
  | 0x10 => if isBasin h then 0x800 else 0
  | 0x14 => unitStatus s h
  | 0x18 => if isBasin h then b2n ((leaves h).any (fun m => s.faultOf m != 0)) else s.faultOf h
  | 0x20 => if isBasin h then 0 else s.pendOf h
  | 0x24 => maskOf s h
  | 0x2C => cmdStatus s h
  | _ => 0

/-- A write to a word of a header. -/
def headerWrite (h o v be : Nat) (s : State) : State :=
  match o with
  | 0x1C => if bitAt be 0 && bitAt v 0 then (if isBasin h then commitBasin h s else commitUnit h s) else s
  | 0x20 => if isBasin h then s
            else { s with rep := { s.rep with pend := Tbl.upd 0 s.rep.pend h (fun w => s.w1c (h + 0x20) w (v &&& beMask be)) } }
  | 0x24 => s.setWord (h + 0x24) (mergeBe (maskOf s h) v be)
  | 0x28 => if bitAt be 0 then (if isBasin h then basinCmd h (v % 256) s else unitCmd h (v % 256) s) else s
  | _ => s

/-! What registers read where the word is not kept as it is written. -/

/-- Word `w` of a descriptor in the capture unit's window (R239). -/
def descWord (s : State) (p id w : Nat) : Nat := leNat (((descriptor s p id).drop (4 * w)).take 4)

/-- The half of a 64-bit value that a LO/HI pair shows. -/
def half (v i : Nat) : Nat := v / 2 ^ (32 * i) % 2 ^ 32

/-- Registers of chapters 02 to 07 that show the state of their block. -/
def viewsLow (s : State) : Rows Nat := [
  (0x00100044, [], fun _ _ _ => wsStatus s),
  (0x00100084, [], fun _ _ _ => dtStatus s),
  (0x0020010C, [(0x40, 8)], fun n _ _ => evtStatus s n),
  (0x00200804, [(0x20, 4)], fun k _ _ => pairStatus s k),
  (0x00810070, [(0x10000, 3), (0x1000, 4)], fun k p _ => reachStatus s k p),
  (0x00810074, [(0x10000, 3), (0x1000, 4)], fun k p _ => reachLat s k p % 2 ^ 32),
  (0x00820084, [(0x10000, 2), (0x1000, 4)], fun k p _ => framesOpen s (k + 1) p),
  (0x00880000, [(0x40000, 4), (0x20000, 2), (4, 32768)], fun p b j => enc 32 (s.userCoef p b j)),
  (0x00C10118, [(0x1000, 4), (0x40, 4)], fun p n _ => planeStatus s p n),
  (0x00C1011C, [(0x1000, 4), (0x40, 4)], fun p n _ => (s.plane p n).seq),
  (0x00C40000, [(0x2000, 4), (0x1000, 2), (4, 1024)], fun l b i => Tbl.get 0 s.slt.lut ((2 * l + b) * 1024 + i)),
  (0x01010040, [(0x1000, 4)], fun p _ _ => chStatus s p),
  (0x01010044, [(0x1000, 4)], fun p _ _ => Config.chanLat p % 2 ^ 32),
  (0x01020100, [(4, 16)], fun e _ _ => engLoadWord s e),
  (0x01100030, [(0x40, 16384)], fun i _ _ => ctxStat s i)]

/-- Registers of chapters 08 to 11. -/
def viewsMid (s : State) : Rows Nat := [
  (0x01410044, [(0x1000, 16)], fun n _ _ => seqStatus s n),
  (0x01410048, [(0x1000, 16), (4, 2)], fun n i _ => if i = 0 then (s.seq n).cnt0 else (s.seq n).cnt1),
  (0x01430058, [(0x1000, 4)], fun p _ _ => b2n (s.slave p)),
  (0x0142005C, [(0x1000, 4)], fun p _ _ => capStatus s p),
  (0x01420060, [(0x1000, 4)], fun p _ _ => (s.cap p).pinned.length),
  (0x01420068, [(0x1000, 4), (4, 2)], fun p i _ => half (s.cap p).wr i),
  (0x01600000, [(0x20000, 4), (0x80, 1024), (4, 32)], fun p id w => descWord s p id w),
  (0x01810058, [], fun _ _ _ => if s.lRanks = 0 then 0 else reserved s 0 (s.wordN (R.DRH_RSV 0))),
  (0x01A10044, [(0x1000, 64)], fun c _ _ => rflStatus s c),
  (0x01A10074, [(0x1000, 64)], fun c _ _ => imemWord s c (s.wordN (R.RFL_IMEM_ADDR c)) % 2 ^ 32),
  (0x01A10088, [(0x1000, 64), (4, 2)], fun c i _ => half (cycleCount s c) i),
  (0x01A10090, [(0x1000, 64), (4, 2)], fun c i _ => half (stallCount s c) i),
  (0x01A100A4, [(0x1000, 64)], fun c _ _ => dbgRead s c),
  (0x01C20044, [(0x1000, 32)], fun ch _ _ => mlrStatus s ch)]

/-- Registers of chapters 12 to 18. -/
def viewsHigh (s : State) : Rows Nat := [
  (0x01D10044, [(0x1000, 4)], fun k _ _ => lnkStatus s k),
  (0x01D20060, [(4, 4)], fun k _ _ => bwFillKib s k),
  (0x01D21018, [(0x40, 64)], fun m _ _ => strStatus s m),
  (0x01D39000, [(4, 8)], fun w _ _ => ((List.range 32).filter (fun b => (Tbl.find s.rep.pba (32 * w + b)).isSome)).foldl (fun m b => m + 2 ^ b) 0),
  (0x01D40048, [(4, 2)], fun i _ _ => match s.ptp.sel with | some id => half id i | none => s.wordN (R.PTP_GM_LO + 4 * i)),
  (0x01E10060, [], fun _ _ _ => rasterStatus s),
  (0x01E84000, [(4, 4096)], fun i _ _ => xramWord s (4 * i)),
  (0x01E88000, [(0x20, 1024), (4, 8)], fun n w _ => leNat (((Tbl.get [] s.brk.log n).drop (4 * w)).take 4)),
  (0x01F10058, [(4, 2)], fun i _ _ => half s.rep.logDrop i),
  (0x01F40060, [(4, 8)], fun i _ _ => half s.rep.ovf i),
  (0x01F40080, [], fun _ _ _ => s.rep.hovf),
  (0x01F41004, [(0x10, 256), (4, 2)], fun n i _ => half (Tbl.get 0 s.rep.cnt n) i),
  (0x01F44000, [(0x200, 16), (8, 64), (4, 2)], fun h b i => half (Tbl.get 0 s.rep.hbin (64 * h + b)) i),
  (0x01FB0040, [], fun _ _ _ => jnlStatus s),
  (0x00000048, [(4, 2)], fun i _ _ => half Config.unitSerial i),
  (0x00000050, [(4, 2)], fun i _ _ => half Config.unitDie i)]

/-- The registers that show the state of their block. -/
def viewAt (s : State) (off : Nat) : Option Nat :=
  if off < 0x01400000 then (if off < 0x100 then rowAt (viewsHigh s) off else rowAt (viewsLow s) off)
  else if off < 0x01D00000 then rowAt (viewsMid s) off else rowAt (viewsHigh s) off

/-- Bits of a word that no chapter reserves and that do not read 0 as WO (R4, R6). -/
def readMask (off : Nat) : Nat := accMask (fieldsOf off) (fun a => a != .wo)

/-- Does a page of BAR0 begin with the header of a unit or basin? -/
def isHeader (h : Nat) : Bool := isLeaf h || isBasin h

/-- What a word of BAR0 reads, reads with an effect of their own apart (R4, R474, R476, R483). -/
def regValue (s : State) (off : Nat) : Nat :=
  let h := off / 0x1000 * 0x1000
  if decide (off % 0x1000 < 0x40) && isHeader h then headerRead s h (off % 0x1000)
  else if decide (0x800 ≤ off % 0x1000) && isBasin h then (members h).getD ((off % 0x1000 - 0x800) / 4) 0
  else match viewAt s off with
    | some v => v
    | none => blend (s.wordN off) (s.shadowN off) (shMask off) &&& readMask off

/-! LO/HI pairs (R484). -/

/-- Pairs that the tables name word by word: base, strides and counts of the LO word. -/
def namedPairs : List (Nat × List (Nat × Nat)) := [
  (0x001000A0, [(8, 2)]), (0x00830050, [(0x1000, 4)]), (0x00C20410, [(0x1000, 4)]), (0x01020048, []),
  (0x01020054, []), (0x01410058, [(0x1000, 16), (8, 2)]), (0x01410080, [(0x1000, 16), (8, 8)]), (0x0142004C, [(0x1000, 4)]), (0x01440040, []),
  (0x018100B0, []), (0x01A10064, [(0x1000, 64)]), (0x01C10040, []), (0x01C1004C, []), (0x01C10060, [(8, 16)]), (0x01C20050, [(0x1000, 32)]),
  (0x01C20058, [(0x1000, 32)]), (0x01D10048, [(0x1000, 4)]), (0x01D20044, []), (0x01D21010, [(0x40, 64)]), (0x01D22000, [(0x40, 64)]),
  (0x01D2300C, [(0x40, 64)]), (0x01D30048, []), (0x01D40048, []), (0x01D50044, []), (0x01E10054, []), (0x01F10800, [(8, 24)]), (0x01F90084, []),
  (0x00000048, []), (0x00000050, [])]

/-- Is the offset the LO word of a pair? -/
def isLo (off : Nat) : Bool :=
  regBlocks.any (fun b => b.pair && decide (b.base ≤ off) && dimsMatch b.dims false (off - b.base)) ||
    namedPairs.any (fun r => decide (r.1 ≤ off) && dimsMatch r.2 false (off - r.1))

/-! Reads. -/

/-- Reads that change the block (R52, R61, R221, R238, R306, R382), and of a value that the spec leaves open while it changes. -/
def readersOf (path : Path) : Rows (State → State) := [
  (0x00100088, [], fun _ _ _ => dtFracRead path),
  (0x00200110, [(0x40, 8)], fun n _ _ => evtPop path n),
  (0x00200808, [(0x20, 4)], fun k _ _ => pairPop path k),
  (0x01420070, [(0x1000, 4)], fun p _ _ => doneqPop path p),
  (0x01430054, [(0x1000, 4)], fun p _ _ => mtabData path p none),
  (0x01810060, [], fun _ _ _ s =>
    if (match s.rsv.mig with | some m => !m.copied | none => false) then
      let x := s.takeFree (rankChunks + 1)
      x.2.emit (.regRead path R.RSV_MIG_PROG x.1)
    else s.emit (.regRead path R.RSV_MIG_PROG (s.wordN R.RSV_MIG_PROG))),
  (0x01A10078, [(0x1000, 64)], fun c _ _ => imemHiRead path c),
  (0x01A10080, [(0x1000, 64)], fun c _ _ => dmemAccess path c none),
  (0x01E80048, [], fun _ _ _ s => (adcPop s).2.emit (.regRead path R.BRK_ADC_QPOP (adcPop s).1))]

/-- CLK_DT_NS, CLK_DT_SEC_LO and CLK_DT_SEC_HI read what CLK_DT_FRAC latched on the path (R52). -/
def isDtWord (off : Nat) : Bool := off == R.CLK_DT_NS || off == R.CLK_DT_SEC_LO || off == R.CLK_DT_SEC_HI

/-- A read of one word: its value leaves on the path. -/
def bar0Read (path : Path) (off0 : Nat) (s : State) : State :=
  let off := off0 / 4 * 4
  match rowAt (readersOf path) off with
  | some f => f s
  | none =>
    if isDtWord off then s.emit (.regRead path off (s.latched path off))
    else if isLo off then (latchHi path off (regValue s (off + 4)) s).emit (.regRead path off (regValue s off))
    else if decide (4 ≤ off) && isLo (off - 4) then s.emit (.regRead path off (s.latched path (off - 4)))
    else s.emit (.regRead path off (regValue s off))

/-- The value that the last read returned. -/
def State.lastRead (s : State) : Nat := match s.rep.out with | .regRead _ _ v :: _ => v | _ => 0

/-! Writes. -/

/-- A write to a word whose EN acts at once: the write, then what the old and the new word bring about. -/
def writeThen (off : Nat) (f : Nat → Nat → State → State) (v be : Nat) (s : State) : State :=
  let s1 := writeFields off v be s
  f (s.wordN off) (s1.wordN off) s1

/-- Writes of chapters 02 to 08 with an effect of their own. -/
def writersLow (path : Path) : Rows (Nat → Nat → State → State) := [
  (0x00200100, [(0x40, 8)], fun n _ _ => evtCfgWrite n),
  (0x00200800, [(0x20, 4)], fun k _ _ => pairCfgWrite k),
  (0x00401040, [(0x1000, 4)], fun p _ _ => portCfgWrite p),
  (0x00880000, [(0x40000, 4), (0x20000, 2), (4, 32768)], fun p b j => utabWrite p b j),
  (0x00C40000, [(0x2000, 4), (0x1000, 2), (4, 1024)], fun l b i => lutWrite l b i),
  (0x01100000, [(0x40, 16384)], fun i _ _ => ctxCtlWrite i),
  (0x01430054, [(0x1000, 4)], fun p _ _ v be => mtabData path p (some (v, be)))]

/-- Writes of chapters 09 to 17 with an effect of their own. -/
def writersHigh (path : Path) : Rows (Nat → Nat → State → State) := [
  (0x01810044, [], fun _ _ _ => writeThen R.RSV_RETIRE_CFG (fun _ _ => retireCfgWritten)),
  (0x01830040, [(4, 2)], fun h _ _ v be => eddyFullWrite h v be 0),
  (0x01A10078, [(0x1000, 64)], fun c _ _ => imemWrite c),
  (0x01A10080, [(0x1000, 64)], fun c _ _ v be => dmemAccess path c (some (v, be))),
  (0x01A10084, [(0x1000, 64)], fun c _ _ _ _ => ringDoorbell c),
  (0x01A100A4, [(0x1000, 64)], fun c _ _ => dbgWrite c),
  (0x01D10040, [(0x1000, 4)], fun k _ _ => writeThen (R.NET_LNK_CFG k) (lnkEnable k)),
  (0x01D3800C, [(0x10, 256)], fun v _ _ => writeThen (R.MSIX_CTRL v) (fun old new s => if bitAt old 0 && !bitAt new 0 then vecUnmask v s else s)),
  (0x01D40040, [], fun _ _ _ => writeThen R.PTP_CFG ptpEnable),
  (0x01E20040, [(0x1000, 2)], fun o _ _ =>
    writeThen (R.DPY_OUT_CFG o) (fun old new s => if bitAt old 0 == bitAt new 0 then s else dpEnable o (bitAt new 0) s)),
  (0x01E800A0, [], fun _ _ _ v be s => if railOrderOk (mergeBe (s.wordN R.BRK_RAIL_ORDER) v be) then writeFields R.BRK_RAIL_ORDER v be s else s),
  (0x01E84000, [(4, 4096)], fun i _ _ v be s => setXramWord (4 * i) (mergeBe (xramWord s (4 * i)) v be) s),
  (0x01F10048, [], fun _ _ _ => rseqWrite),
  (0x01F40060, [(4, 8)], fun i _ _ v be s => { s with rep := { s.rep with ovf := s.rep.ovf - half s.rep.ovf i * 2 ^ (32 * i) + s.w1c (R.PERF_OVF i) (half s.rep.ovf i) (v &&& beMask be) * 2 ^ (32 * i) } }),
  (0x01F40080, [], fun _ _ _ v be s => { s with rep := { s.rep with hovf := s.w1c R.PERF_HOVF s.rep.hovf (v &&& beMask be) } }),
  (0x01F41000, [(0x10, 256)], fun n _ _ => perfCfg n),
  (0x01F41004, [(0x10, 256)], fun n _ _ => cntLoWrite n),
  (0x01F41008, [(0x10, 256)], fun n _ _ => cntHiWrite n)]

/-- A write of one word with byte enables. -/
def bar0Write (path : Path) (off0 v be : Nat) (s : State) : State :=
  let off := off0 / 4 * 4
  let h := off / 0x1000 * 0x1000
  if decide (off % 0x1000 < 0x40) && isHeader h then headerWrite h (off % 0x1000) v be s
  else match rowAt (if off < 0x01800000 then writersLow path else writersHigh path) off with
    | some f => f v be s
    | none => if fieldsOf off = [] then s else writeFields off v be s

/-! Meanings. -/

/-- REGISTER_WRITE (R4, R483). -/
def execRegisterWrite (path : Path) (w : BusWrite) (s : State) : Host.Outcome State Fault Refusal :=
  .next (bar0Write path w.off.toNat w.val.toNat w.be.toNat s)

/-- READ_LO (R484): a read of one word; that of a LO word latches its HI word. -/
def execReadLo (path : Path) (off : BitVec 25) (s : State) : Host.Outcome State Fault Refusal := .next (bar0Read path off.toNat s)

/-- COMMIT (R20, R21). -/
def execCommit (hdr : BitVec 25) (s : State) : Host.Outcome State Fault Refusal :=
  .next (if isLeaf hdr.toNat then commitUnit hdr.toNat s else s)

/-- BASIN_COMMIT (R25). -/
def execBasinCommit (hdr : BitVec 25) (s : State) : Host.Outcome State Fault Refusal :=
  .next (if isBasin hdr.toNat then commitBasin hdr.toNat s else s)

/-- BASIN_CMD (R26). -/
def execBasinCmd (hdr : BitVec 25) (code : BitVec 8) (s : State) : Host.Outcome State Fault Refusal :=
  .next (if isBasin hdr.toNat then basinCmd hdr.toNat code.toNat s else s)

end Sys2Proof.Machine
end

