-- ==== Sys2Proof/Machine/Mailbox.lean ====
section
/-! DEFINITION. The masters of BAR0 beside PCIe (R482): Brook's mailbox (R403) and its round (R378), management packets (R352 to R354) and
JTAG REGACC (R445). -/

namespace Sys2Proof.Machine

/-- A read of one word by a master that takes the value itself. -/
def bar0Take (path : Path) (off : Nat) (s : State) : Nat × State :=
  let s1 := bar0Read path off s
  (s1.lastRead, { s1 with rep := { s1.rep with out := s1.rep.out.tail } })

/-- Does the offset lie in a unit's block: in the page of a header, at a register that a chapter assigns, or in a window of the Brook mirror (NOUNIT, R479)? -/
def inUnit (off : Nat) : Bool :=
  isHeader (off / 0x1000 * 0x1000) || !(fieldsOf (off / 4 * 4)).isEmpty || decide (0x01E84000 ≤ off) && decide (off < 0x01E90000)

/-! The mailbox (R402, R403). -/

/-- The Brook unit with its mirror of the exchange RAM and the log. -/
def inMirror (off : Nat) : Bool := decide (0x01E80000 ≤ off) && decide (off < 0x01E90000)

/-- Status of a register access through the mailbox. -/
def mbAccess (s : State) (off : Nat) : Code :=
  if !inMirror off && !s.flag R.BRK_STATUS_DIE_RUN then .state else if !inUnit off then .nounit else .ok

/-- A request as Brook reads it: MB_SEQ, MB_OP and the arguments. -/
structure MbReq where
  seq : Nat
  op : Nat
  arg0 : Nat
  arg1 : Nat
  deriving DecidableEq, Repr

/-- Brook reads the request from the exchange RAM. -/
def mbTake (s : State) : MbReq × State :=
  let v := brkView s
  let w (a : Nat) : Nat := leNat ((upFrom a 4).map (Tbl.get 0 v.1))
  ({ seq := w 0x100, op := w 0x104, arg0 := w 0x108, arg1 := w 0x10C }, v.2)

/-- The response: status, then MB_ACK. -/
def mbAnswer (q : MbReq) (c : Code) (s : State) : State :=
  let s1 := setXramWord 0x180 q.seq (setXramWord 0x184 c.num s)
  { s1 with brk := { s1.brk with mbSeq := q.seq } }

/-- REG_READ. -/
def mbRead (q : MbReq) (s : State) : State :=
  match mbAccess s q.arg0 with
  | .ok => let x := bar0Take .brook q.arg0 s; mbAnswer q .ok (setXramWord 0x188 x.1 x.2)
  | c => mbAnswer q c s

/-- REG_WRITE. -/
def mbWrite (q : MbReq) (s : State) : State :=
  match mbAccess s q.arg0 with
  | .ok => mbAnswer q .ok (bar0Write .brook q.arg0 q.arg1 0xF s)
  | c => mbAnswer q c s

/-- LOG_FETCH: the entries that the log still holds, from SEQ arg 0, arg 1 of them. -/
def mbLog (q : MbReq) (s : State) : State :=
  if 256 < q.arg1 then mbAnswer q .range s
  else
    let put (s : State) (i : Nat) : State :=
      let e := Tbl.get [] s.brk.log ((q.arg0 + i) % 1024)
      if e ≠ [] ∧ e.take 4 = leBytes 4 ((q.arg0 + i) % 2 ^ 32) then { s with rep := { s.rep with xram := xramPut s.rep.xram (0x2000 + 32 * i) e } } else s
    mbAnswer q .ok ((List.range q.arg1).foldl put s)

/-- ALERT_ACK. -/
def mbAlert (q : MbReq) (s : State) : State :=
  mbAnswer q .ok (if s.brk.alert then { s with brk := { s.brk with alert := false } }.emit (.pin "ALERT_N" 1) else s)

/-- KILL_CLR. -/
def mbKill (q : MbReq) (s : State) : State :=
  if s.flag R.BRK_STATUS_KILLED then mbAnswer q .ok (clearFault hBrk 0 (s.setFlag R.BRK_STATUS_KILLED false)) else mbAnswer q .state s

/-- Brook acts on a changed MB_SEQ; an operation that is not listed returns RANGE. -/
def mbAct (q : MbReq) (s : State) : State :=
  match q.op with
  | 1 => mbRead q s
  | 2 => mbWrite q s
  | 3 => mbLog q s
  | 4 => mbAlert q s
  | 5 => mbKill q s
  | _ => mbAnswer q .range s

/-- Brook reads the mailbox and acts if MB_SEQ has changed and `want` takes the operation. -/
def mbPoll (want : Nat → Bool) (s : State) : State :=
  if !s.brk.on then s
  else
    let x := mbTake s
    if x.1.seq != s.brk.mbSeq && want x.1.op then mbAct x.1 x.2 else x.2

/-- The mailbox in a round. -/
def mailbox (s : State) : State := mbPoll (fun _ => true) s

/-! Management packets (R352 to R354). -/

/-- Is the request one of the right form, with its HMAC, for this start and not seen before? -/
def mgmtOk (s : State) (bs : List Byte) : Bool :=
  let ops := leAt bs 3 1
  let body := bs.take (bs.length - 32)
  decide (1 ≤ ops) && decide (ops ≤ 64) && bs.length == 56 + 8 * ops &&
  leAt bs 0 2 == 0x4D57 && leAt bs 2 1 == 1 && leAt bs 4 4 == 0 &&
  (List.range ops).all (fun i => (leAt bs (24 + 8 * i) 4 &&& 0x7E000003) == 0) &&
  (match s.net.key with | some k => bs.drop (bs.length - 32) == hmacSha256 k body | none => false) &&
  leAt bs 8 8 == s.pair R.MGMT_BOOT_ID_LO && decide (s.pair R.MGMT_MSEQ < leAt bs 16 8)

/-- One operation: the response's two words, and the state. -/
def mgmtOp (w0 w1 : Nat) (s : State) : List Byte × State :=
  let off := w0 % 2 ^ 25
  if bitAt w0 31 then (leBytes 4 w0 ++ leBytes 4 w1, bar0Write .mgmt off w1 0xF s)
  else let x := bar0Take .mgmt off s; (leBytes 4 w0 ++ leBytes 4 x.1, x.2)

/-- The operations in order; a reset among them (R443) ends the request. -/
def mgmtRun (bs : List Byte) (n : Nat) (s : State) : List Byte × State :=
  (List.range n).foldl (fun a i =>
    if a.2.net.key.isNone then a
    else let x := mgmtOp (leAt bs (24 + 8 * i) 4) (leAt bs (28 + 8 * i) 4) a.2; (a.1 ++ x.1, x.2)) ([], s)

/-- The frame of a response to MAC, IP address and port of the request. -/
def mgmtFrame (s : State) (k : Nat) (mac : List Byte) (v6 : Bool) (ip port : Nat) (body : List Byte) : List Byte :=
  let sp := s.fld R.MGMT_CFG_MGMT_PORT
  if v6 then ethFrame mac (s.linkMac k) 0x86DD (udpIp true 0 64 sp port (s.linkIp6 k) (beBytes 16 ip) body)
  else ethFrame mac (s.linkMac k) 0x0800 (udpIp false 0 64 sp port (s.linkIp4 k) (beBytes 4 ip) body)

/-- A request that is discarded: counted, and logged for the first of each DT second. -/
def mgmtReject (s : State) : State :=
  let sec := s.clk.dt / unitsPerSec
  let s1 := raise hMgmt 0 (s.bump64 R.MGMT_REJ 1)
  if s1.net.rejSec = some sec then s1
  else addLog hMgmt 6 2 1 (s1.wordN R.MGMT_REJ) 0 { s1 with net := { s1.net with rejSec := some sec } }

/-- A management packet arrives on a link. -/
def mgmtRx (k : Nat) (mac : List Byte) (v6 : Bool) (ip port : Nat) (bs : List Byte) (s : State) : State :=
  if !lnkUp s k then s
  else if !s.flag R.MGMT_CFG_EN then rxDiscard k s
  else if !mgmtOk s bs then mgmtReject s
  else
    let key := s.net.key.getD []
    let x := mgmtRun bs (leAt bs 3 1) ((s.setPair R.MGMT_MSEQ (leAt bs 16 8)).bump64 R.MGMT_ACC 1)
    let body := leBytes 2 0x5257 ++ (bs.take 24).drop 2 ++ x.1
    if x.2.net.key.isNone then x.2
    else sendNow k "MGMT" (mgmtFrame x.2 k mac v6 ip port (body ++ hmacSha256 key body)) x.2

/-! JTAG (R445). -/

/-- REGACC: offered in BLANK and OPEN; in the other states the instruction acts as BYPASS. -/
def jtagAccess (off v be : Nat) (read : Bool) (s : State) : State :=
  if 2 ≤ s.boot.life then s
  else if !inUnit off then s.emit (.jtag 0 Code.nounit.num)
  else if read then let x := bar0Take .jtag off s; x.2.emit (.jtag x.1 0)
  else (bar0Write .jtag off v be s).emit (.jtag v 0)

/-! Meanings. -/

/-- BROOK_ROUND (R378): Brook also acts on the mailbox in its rounds. -/
def execBrookRound (en present : Bool) (s : State) : Host.Outcome State Fault Refusal := .next (brkRound mailbox en present s)

/-- MB_REG_READ (R403): Brook acts on a pending REG_READ. -/
def execMbRegRead (s : State) : Host.Outcome State Fault Refusal := .next (mbPoll (fun op => op == 1) s)

/-- MB_REG_WRITE (R403). -/
def execMbRegWrite (s : State) : Host.Outcome State Fault Refusal := .next (mbPoll (fun op => op == 2) s)

/-- LOG_FETCH (R403). -/
def execLogFetch (s : State) : Host.Outcome State Fault Refusal := .next (mbPoll (fun op => op == 3) s)

/-- ALERT_ACK (R403). -/
def execAlertAck (s : State) : Host.Outcome State Fault Refusal := .next (mbPoll (fun op => op == 4) s)

/-- KILL_CLR (R403). -/
def execKillClr (s : State) : Host.Outcome State Fault Refusal := .next (mbPoll (fun op => op == 5) s)

/-- MGMT_PACKET (R352 to R354). -/
def execMgmtPacket (k : Fin 4) (srcMac : BitVec 48) (v6 : Bool) (srcIp : BitVec 128) (srcPort : BitVec 16) (bytes : List Byte) (s : State) :
    Host.Outcome State Fault Refusal :=
  .next (mgmtRx k (beBytes 6 srcMac.toNat) v6 (if v6 then srcIp.toNat else srcIp.toNat % 2 ^ 32) srcPort.toNat bytes s)

/-- JTAG_REGACC (R445). -/
def execJtagRegacc (w : BusWrite) (read : Bool) (s : State) : Host.Outcome State Fault Refusal :=
  .next (jtagAccess w.off.toNat w.val.toNat w.be.toNat read s)

end Sys2Proof.Machine
end

