-- ==== Sys2Proof/Machine/Dispatch.lean ====
section
/-! DEFINITION. The effect of each command on everything but the queue: one arm per constructor, each a direct call of
the command's meaning. -/

namespace Sys2Proof.Machine

def exec (i : Instr) (s : State) : Host.Outcome State Fault Refusal :=
  match i with
  | .registerWrite path w => Sys2Proof.Machine.execRegisterWrite path w s
  | .readLo path off => Sys2Proof.Machine.execReadLo path off s
  | .commit hdr => Sys2Proof.Machine.execCommit hdr s
  | .basinCommit hdr => Sys2Proof.Machine.execBasinCommit hdr s
  | .basinCmd hdr code => Sys2Proof.Machine.execBasinCmd hdr code s
  | .dtStep => Sys2Proof.Machine.execDtStep s
  | .dtStepApply => Sys2Proof.Machine.execDtStepApply s
  | .settod => Sys2Proof.Machine.execSettod s
  | .settodApply tap => Sys2Proof.Machine.execSettodApply tap s
  | .dtrestart => Sys2Proof.Machine.execDtrestart s
  | .lockWindowEnd ref count ctl mean => Sys2Proof.Machine.execLockWindowEnd ref count ctl mean s
  | .refLost ref => Sys2Proof.Machine.execRefLost ref s
  | .clockCommit => Sys2Proof.Machine.execClockCommit s
  | .rivLockWindowEnd count => Sys2Proof.Machine.execRivLockWindowEnd count s
  | .ppsMeasurement tap => Sys2Proof.Machine.execPpsMeasurement tap s
  | .dtHoldover => Sys2Proof.Machine.execDtHoldover s
  | .ptpSecond => Sys2Proof.Machine.execPtpSecond s
  | .dtFracRead path => Sys2Proof.Machine.execDtFracRead path s
  | .evtEdge n tap pin nearGate => Sys2Proof.Machine.execEvtEdge n tap pin nearGate s
  | .orphanDiscard k => Sys2Proof.Machine.execOrphanDiscard k s
  | .evtCfgWrite n val be => Sys2Proof.Machine.execEvtCfgWrite n val be s
  | .pairCfgWrite k val be => Sys2Proof.Machine.execPairCfgWrite k val be s
  | .gateTransition k level => Sys2Proof.Machine.execGateTransition k level s
  | .evtQpop0Read path n => Sys2Proof.Machine.execEvtQpop0Read path n s
  | .pairQpop0Read path k => Sys2Proof.Machine.execPairQpop0Read path k s
  | .evtCal => Sys2Proof.Machine.execEvtCal s
  | .flush => Sys2Proof.Machine.execFlush s
  | .evtCalInputEnd trims skew => Sys2Proof.Machine.execEvtCalInputEnd trims skew s
  | .portCfgWrite p val be => Sys2Proof.Machine.execPortCfgWrite p val be s
  | .restart p => Sys2Proof.Machine.execRestart p s
  | .portCal p => Sys2Proof.Machine.execPortCal p s
  | .ingRetrain p => Sys2Proof.Machine.execIngRetrain p s
  | .portIdle p => Sys2Proof.Machine.execPortIdle p s
  | .portWake p => Sys2Proof.Machine.execPortWake p s
  | .laneDetectDone p l => Sys2Proof.Machine.execLaneDetectDone p l s
  | .codewordRx p l syms => Sys2Proof.Machine.execCodewordRx p l syms s
  | .trainPresetMeasured p l errs => Sys2Proof.Machine.execTrainPresetMeasured p l errs s
  | .syncBlock p l payload => Sys2Proof.Machine.execSyncBlock p l payload s
  | .retrainTrigger p l cause => Sys2Proof.Machine.execRetrainTrigger p l cause s
  | .trainTimeout p l => Sys2Proof.Machine.execTrainTimeout p l s
  | .retrainTimeout p l => Sys2Proof.Machine.execRetrainTimeout p l s
  | .spareIn p logical => Sys2Proof.Machine.execSpareIn p logical s
  | .laneBackoffEnd p l => Sys2Proof.Machine.execLaneBackoffEnd p l s
  | .serSecond p l errs syms => Sys2Proof.Machine.execSerSecond p l errs syms s
  | .laneWakeResume p l amFound => Sys2Proof.Machine.execLaneWakeResume p l amFound s
  | .epochFix p frameCnt anchor => Sys2Proof.Machine.execEpochFix p frameCnt anchor s
  | .slip p => Sys2Proof.Machine.execSlip p s
  | .portCalDue p => Sys2Proof.Machine.execPortCalDue p s
  | .portCalEnd p result => Sys2Proof.Machine.execPortCalEnd p result s
  | .sysrefEdge tap => Sys2Proof.Machine.execSysrefEdge tap s
  | .jesdSyncLossTimeout p l => Sys2Proof.Machine.execJesdSyncLossTimeout p l s
  | .srFrameDone p => Sys2Proof.Machine.execSrFrameDone p s
  | .mrFrameDone p => Sys2Proof.Machine.execMrFrameDone p s
  | .drPassADone p => Sys2Proof.Machine.execDrPassADone p s
  | .drPassBDone p => Sys2Proof.Machine.execDrPassBDone p s
  | .level2UpdateDone p => Sys2Proof.Machine.execLevel2UpdateDone p s
  | .segmentDone k p => Sys2Proof.Machine.execSegmentDone k p s
  | .reachCommit k p => Sys2Proof.Machine.execReachCommit k p s
  | .srSnap p => Sys2Proof.Machine.execSrSnap p s
  | .cut k p => Sys2Proof.Machine.execCut k p s
  | .reserve p => Sys2Proof.Machine.execReserve p s
  | .utabWrite p b j val be => Sys2Proof.Machine.execUtabWrite p b j val be s
  | .traceUpdateDone p t => Sys2Proof.Machine.execTraceUpdateDone p t s
  | .traceSlotFree p t val => Sys2Proof.Machine.execTraceSlotFree p t val s
  | .planePeriodEnd p n => Sys2Proof.Machine.execPlanePeriodEnd p n s
  | .planeClearDone p n b => Sys2Proof.Machine.execPlaneClearDone p n b s
  | .decayPassStart p n => Sys2Proof.Machine.execDecayPassStart p n s
  | .tileWriteDone p => Sys2Proof.Machine.execTileWriteDone p s
  | .lutWrite l b ix val be => Sys2Proof.Machine.execLutWrite l b ix val be s
  | .detSltCommit silt p => Sys2Proof.Machine.execDetSltCommit silt p s
  | .detClear p => Sys2Proof.Machine.execDetClear p s
  | .sltClear p => Sys2Proof.Machine.execSltClear p s
  | .sltRelease p => Sys2Proof.Machine.execSltRelease p s
  | .swap p => Sys2Proof.Machine.execSwap p s
  | .coarseSample p => Sys2Proof.Machine.execCoarseSample p s
  | .trbRound => Sys2Proof.Machine.execTrbRound s
  | .ctxBlockBoundary ix => Sys2Proof.Machine.execCtxBlockBoundary ix s
  | .ctxCommitWrite ix val be => Sys2Proof.Machine.execCtxCommitWrite ix val be s
  | .resetCtx => Sys2Proof.Machine.execResetCtx s
  | .report => Sys2Proof.Machine.execReport s
  | .trbRecordWrite => Sys2Proof.Machine.execTrbRecordWrite s
  | .iqRecordWrite => Sys2Proof.Machine.execIqRecordWrite s
  | .slotEval sq => Sys2Proof.Machine.execSlotEval sq s
  | .weirTimerExpire sq n => Sys2Proof.Machine.execWeirTimerExpire sq n s
  | .tagWrite => Sys2Proof.Machine.execTagWrite s
  | .weirCommit u => Sys2Proof.Machine.execWeirCommit u s
  | .mtabDataAccess path p wr => Sys2Proof.Machine.execMtabDataAccess path p wr s
  | .arm sq => Sys2Proof.Machine.execArm sq s
  | .disarm sq => Sys2Proof.Machine.execDisarm sq s
  | .force sq => Sys2Proof.Machine.execForce sq s
  | .capRelease p => Sys2Proof.Machine.execCapRelease p s
  | .hold p => Sys2Proof.Machine.execHold p s
  | .unhold p => Sys2Proof.Machine.execUnhold p s
  | .releaseAll p => Sys2Proof.Machine.execReleaseAll p s
  | .capClose p => Sys2Proof.Machine.execCapClose p s
  | .ringBlockWrite p => Sys2Proof.Machine.execRingBlockWrite p s
  | .ringLenApply p => Sys2Proof.Machine.execRingLenApply p s
  | .doneqPop path p => Sys2Proof.Machine.execDoneqPop path p s
  | .refreshWindow => Sys2Proof.Machine.execRefreshWindow s
  | .stackTempHot stack => Sys2Proof.Machine.execStackTempHot stack s
  | .stackCoolEnd => Sys2Proof.Machine.execStackCoolEnd s
  | .rsvRequest rank arrived => Sys2Proof.Machine.execRsvRequest rank arrived s
  | .ageUrgent rank who => Sys2Proof.Machine.execAgeUrgent rank who s
  | .ceWindowEnd rank => Sys2Proof.Machine.execCeWindowEnd rank s
  | .scrubPeriodStart pool => Sys2Proof.Machine.execScrubPeriodStart pool s
  | .scrubPassDone pool => Sys2Proof.Machine.execScrubPassDone pool s
  | .migCopyDone => Sys2Proof.Machine.execMigCopyDone s
  | .switchoverStart => Sys2Proof.Machine.execSwitchoverStart s
  | .switchoverEnd => Sys2Proof.Machine.execSwitchoverEnd s
  | .rankDead rank => Sys2Proof.Machine.execRankDead rank s
  | .retire => Sys2Proof.Machine.execRetire s
  | .rsvScrub => Sys2Proof.Machine.execRsvScrub s
  | .handover => Sys2Proof.Machine.execHandover s
  | .poolRelease => Sys2Proof.Machine.execPoolRelease s
  | .handoverClearDone => Sys2Proof.Machine.execHandoverClearDone s
  | .eddyFullWrite h val be produced => Sys2Proof.Machine.execEddyFullWrite h val be produced s
  | .nop memSlot ix => Sys2Proof.Machine.execNop memSlot ix s
  | .cmul ix => Sys2Proof.Machine.execCmul ix s
  | .cmac ix => Sys2Proof.Machine.execCmac ix s
  | .rmac ix => Sys2Proof.Machine.execRmac ix s
  | .pwr ix => Sys2Proof.Machine.execPwr ix s
  | .aclr ix => Sys2Proof.Machine.execAclr ix s
  | .aadd ix => Sys2Proof.Machine.execAadd ix s
  | .ash ix => Sys2Proof.Machine.execAsh ix s
  | .aexp ix => Sys2Proof.Machine.execAexp ix s
  | .anrm ix => Sys2Proof.Machine.execAnrm ix s
  | .arnd ix => Sys2Proof.Machine.execArnd ix s
  | .ar32 ix => Sys2Proof.Machine.execAr32 ix s
  | .aflt ix => Sys2Proof.Machine.execAflt ix s
  | .facc ix => Sys2Proof.Machine.execFacc ix s
  | .dexp ix => Sys2Proof.Machine.execDexp ix s
  | .dnrm ix => Sys2Proof.Machine.execDnrm ix s
  | .dadd ix => Sys2Proof.Machine.execDadd ix s
  | .dsub ix => Sys2Proof.Machine.execDsub ix s
  | .dconj ix => Sys2Proof.Machine.execDconj ix s
  | .dswap ix => Sys2Proof.Machine.execDswap ix s
  | .dpack ix => Sys2Proof.Machine.execDpack ix s
  | .dunpk ix => Sys2Proof.Machine.execDunpk ix s
  | .dmov ix => Sys2Proof.Machine.execDmov ix s
  | .mta ix => Sys2Proof.Machine.execMta ix s
  | .mfa ix => Sys2Proof.Machine.execMfa ix s
  | .mts ix => Sys2Proof.Machine.execMts ix s
  | .mfs ix => Sys2Proof.Machine.execMfs ix s
  | .add ix => Sys2Proof.Machine.execAdd ix s
  | .sub ix => Sys2Proof.Machine.execSub ix s
  | .and ix => Sys2Proof.Machine.execAnd ix s
  | .or ix => Sys2Proof.Machine.execOr ix s
  | .xor ix => Sys2Proof.Machine.execXor ix s
  | .shl ix => Sys2Proof.Machine.execShl ix s
  | .shr ix => Sys2Proof.Machine.execShr ix s
  | .shrl ix => Sys2Proof.Machine.execShrl ix s
  | .addi ix => Sys2Proof.Machine.execAddi ix s
  | .movi ix => Sys2Proof.Machine.execMovi ix s
  | .movh ix => Sys2Proof.Machine.execMovh ix s
  | .clti ix => Sys2Proof.Machine.execClti ix s
  | .ceq ix => Sys2Proof.Machine.execCeq ix s
  | .clt ix => Sys2Proof.Machine.execClt ix s
  | .cltu ix => Sys2Proof.Machine.execCltu ix s
  | .ceqi ix => Sys2Proof.Machine.execCeqi ix s
  | .pand ix => Sys2Proof.Machine.execPand ix s
  | .pnot ix => Sys2Proof.Machine.execPnot ix s
  | .fadd ix => Sys2Proof.Machine.execFadd ix s
  | .fsub ix => Sys2Proof.Machine.execFsub ix s
  | .fmul ix => Sys2Proof.Machine.execFmul ix s
  | .fmax ix => Sys2Proof.Machine.execFmax ix s
  | .fmin ix => Sys2Proof.Machine.execFmin ix s
  | .fclt ix => Sys2Proof.Machine.execFclt ix s
  | .fcvt ix => Sys2Proof.Machine.execFcvt ix s
  | .ldw ix => Sys2Proof.Machine.execLdw ix s
  | .ldfw ix => Sys2Proof.Machine.execLdfw ix s
  | .stw ix => Sys2Proof.Machine.execStw ix s
  | .stfw ix => Sys2Proof.Machine.execStfw ix s
  | .ldc6 ix => Sys2Proof.Machine.execLdc6 ix s
  | .ldfc6 ix => Sys2Proof.Machine.execLdfc6 ix s
  | .stc6 ix => Sys2Proof.Machine.execStc6 ix s
  | .stfc6 ix => Sys2Proof.Machine.execStfc6 ix s
  | .ldc4 ix => Sys2Proof.Machine.execLdc4 ix s
  | .ldfc4 ix => Sys2Proof.Machine.execLdfc4 ix s
  | .stc4 ix => Sys2Proof.Machine.execStc4 ix s
  | .stfc4 ix => Sys2Proof.Machine.execStfc4 ix s
  | .sta ix => Sys2Proof.Machine.execSta ix s
  | .stfa ix => Sys2Proof.Machine.execStfa ix s
  | .br ix => Sys2Proof.Machine.execBr ix s
  | .call ix => Sys2Proof.Machine.execCall ix s
  | .jmp ix => Sys2Proof.Machine.execJmp ix s
  | .wait ix => Sys2Proof.Machine.execWait ix s
  | .waitRelease c => Sys2Proof.Machine.execWaitRelease c s
  | .eclrv ix => Sys2Proof.Machine.execEclrv ix s
  | .evs ix => Sys2Proof.Machine.execEvs ix s
  | .eflg ix => Sys2Proof.Machine.execEflg ix s
  | .eclr ix => Sys2Proof.Machine.execEclr ix s
  | .sys ix => Sys2Proof.Machine.execSys ix s
  | .rte ix => Sys2Proof.Machine.execRte ix s
  | .halt ix => Sys2Proof.Machine.execHalt ix s
  | .farAccessComplete c resp => Sys2Proof.Machine.execFarAccessComplete c resp s
  | .preempt c => Sys2Proof.Machine.execPreempt c s
  | .ctmrExpire c => Sys2Proof.Machine.execCtmrExpire c s
  | .doorbell c => Sys2Proof.Machine.execDoorbell c s
  | .rflRun c => Sys2Proof.Machine.execRflRun c s
  | .rflHaltCmd c => Sys2Proof.Machine.execRflHaltCmd c s
  | .rflStep c => Sys2Proof.Machine.execRflStep c s
  | .rflReset c => Sys2Proof.Machine.execRflReset c s
  | .imemWrite c val be => Sys2Proof.Machine.execImemWrite c val be s
  | .dmemDataAccess path c wr => Sys2Proof.Machine.execDmemDataAccess path c wr s
  | .dbgDataWrite c val be => Sys2Proof.Machine.execDbgDataWrite c val be s
  | .pageWalkDone r ecc => Sys2Proof.Machine.execPageWalkDone r ecc s
  | .invAll => Sys2Proof.Machine.execInvAll s
  | .invAs => Sys2Proof.Machine.execInvAs s
  | .invVa => Sys2Proof.Machine.execInvVa s
  | .invDone => Sys2Proof.Machine.execInvDone s
  | .mlrStart ch => Sys2Proof.Machine.execMlrStart ch s
  | .mlrStop ch => Sys2Proof.Machine.execMlrStop ch s
  | .mlrResume ch => Sys2Proof.Machine.execMlrResume ch s
  | .mlrAbort ch => Sys2Proof.Machine.execMlrAbort ch s
  | .descFetchDone ch resp => Sys2Proof.Machine.execDescFetchDone ch resp s
  | .burstIssue => Sys2Proof.Machine.execBurstIssue s
  | .burstComplete ch read write => Sys2Proof.Machine.execBurstComplete ch read write s
  | .burstRetry ch => Sys2Proof.Machine.execBurstRetry ch s
  | .descComplete ch => Sys2Proof.Machine.execDescComplete ch s
  | .readbackDone ch resp => Sys2Proof.Machine.execReadbackDone ch resp s
  | .strStart => Sys2Proof.Machine.execStrStart s
  | .strStop => Sys2Proof.Machine.execStrStop s
  | .sendRec => Sys2Proof.Machine.execSendRec s
  | .qpReset => Sys2Proof.Machine.execQpReset s
  | .datagramBuild m => Sys2Proof.Machine.execDatagramBuild m s
  | .memqEntryValid m => Sys2Proof.Machine.execMemqEntryValid m s
  | .frameTx k => Sys2Proof.Machine.execFrameTx k s
  | .pfcFrameRx k enable quanta => Sys2Proof.Machine.execPfcFrameRx k enable quanta s
  | .pauseFrameRx k quanta => Sys2Proof.Machine.execPauseFrameRx k quanta s
  | .pauseEnd k prio => Sys2Proof.Machine.execPauseEnd k prio s
  | .arpRequest k senderMac senderIp targetIp => Sys2Proof.Machine.execArpRequest k senderMac senderIp targetIp s
  | .neighbourSolicitation k sourceMac sourceIp target => Sys2Proof.Machine.execNeighbourSolicitation k sourceMac sourceIp target s
  | .frameDiscard k => Sys2Proof.Machine.execFrameDiscard k s
  | .ptpMessage k m rxTap => Sys2Proof.Machine.execPtpMessage k m rxTap s
  | .delayReqTx => Sys2Proof.Machine.execDelayReqTx s
  | .mgmtPacket k srcMac v6 srcIp srcPort bytes => Sys2Proof.Machine.execMgmtPacket k srcMac v6 srcIp srcPort bytes s
  | .roceAckRx q psn syndrome => Sys2Proof.Machine.execRoceAckRx q psn syndrome s
  | .ackTimeout q => Sys2Proof.Machine.execAckTimeout q s
  | .rnrDelayEnd q => Sys2Proof.Machine.execRnrDelayEnd q s
  | .linkUp k => Sys2Proof.Machine.execLinkUp k s
  | .linkDown k => Sys2Proof.Machine.execLinkDown k s
  | .pcieBar2Access off span wr => Sys2Proof.Machine.execPcieBar2Access off span wr s
  | .pcieConfigRequest reg wr => Sys2Proof.Machine.execPcieConfigRequest reg wr s
  | .hostDown => Sys2Proof.Machine.execHostDown s
  | .hostUp gen width => Sys2Proof.Machine.execHostUp gen width s
  | .msixVectorUnmask v => Sys2Proof.Machine.execMsixVectorUnmask v s
  | .vecHoldEnd v => Sys2Proof.Machine.execVecHoldEnd v s
  | .dpRetrain o => Sys2Proof.Machine.execDpRetrain o s
  | .aux o => Sys2Proof.Machine.execAux o s
  | .auxDone o reply bytes => Sys2Proof.Machine.execAuxDone o reply bytes s
  | .hpdRise o lowSamples lostLock caps => Sys2Proof.Machine.execHpdRise o lowSamples lostLock caps s
  | .hpdUnplug o => Sys2Proof.Machine.execHpdUnplug o s
  | .dpTrainDone o trained => Sys2Proof.Machine.execDpTrainDone o trained s
  | .vblankStart => Sys2Proof.Machine.execVblankStart s
  | .underrun => Sys2Proof.Machine.execUnderrun s
  | .brookRound en present => Sys2Proof.Machine.execBrookRound en present s
  | .mbRegRead => Sys2Proof.Machine.execMbRegRead s
  | .mbRegWrite => Sys2Proof.Machine.execMbRegWrite s
  | .logFetch => Sys2Proof.Machine.execLogFetch s
  | .alertAck => Sys2Proof.Machine.execAlertAck s
  | .killClr => Sys2Proof.Machine.execKillClr s
  | .adcConversion code => Sys2Proof.Machine.execAdcConversion code s
  | .adcQpop path => Sys2Proof.Machine.execAdcQpop path s
  | .adcWarmupEnd => Sys2Proof.Machine.execAdcWarmupEnd s
  | .kill n => Sys2Proof.Machine.execKill n s
  | .extractionImminent => Sys2Proof.Machine.execExtractionImminent s
  | .extractionClear => Sys2Proof.Machine.execExtractionClear s
  | .brookTimerExpire n => Sys2Proof.Machine.execBrookTimerExpire n s
  | .brkCal => Sys2Proof.Machine.execBrkCal s
  | .brkCalDue => Sys2Proof.Machine.execBrkCalDue s
  | .adcCalEnd offset gain => Sys2Proof.Machine.execAdcCalEnd offset gain s
  | .selftest => Sys2Proof.Machine.execSelftest s
  | .selftestDone pass => Sys2Proof.Machine.execSelftestDone pass s
  | .resetFlt => Sys2Proof.Machine.execResetFlt s
  | .clrLatch => Sys2Proof.Machine.execClrLatch s
  | .spiRead addr words col => Sys2Proof.Machine.execSpiRead addr words col s
  | .spiWrite addr words col => Sys2Proof.Machine.execSpiWrite addr words col s
  | .spiRdsr => Sys2Proof.Machine.execSpiRdsr s
  | .standbyPowerUp => Sys2Proof.Machine.execStandbyPowerUp s
  | .standbyPowerLoss => Sys2Proof.Machine.execStandbyPowerLoss s
  | .dieReset => Sys2Proof.Machine.execDieReset s
  | .thermalSample codes => Sys2Proof.Machine.execThermalSample codes s
  | .hourTick => Sys2Proof.Machine.execHourTick s
  | .dieStart flashOk0 flashOk1 locked => Sys2Proof.Machine.execDieStart flashOk0 flashOk1 locked s
  | .startupLockTimeout => Sys2Proof.Machine.execStartupLockTimeout s
  | .erase => Sys2Proof.Machine.execErase s
  | .eraseDone ok => Sys2Proof.Machine.execEraseDone ok s
  | .program => Sys2Proof.Machine.execProgram s
  | .progDone ok => Sys2Proof.Machine.execProgDone ok s
  | .imgCheck => Sys2Proof.Machine.execImgCheck s
  | .chkDone flashOk => Sys2Proof.Machine.execChkDone flashOk s
  | .advance fusesVerify => Sys2Proof.Machine.execAdvance fusesVerify s
  | .svnCommit fusesVerify => Sys2Proof.Machine.execSvnCommit fusesVerify s
  | .compact => Sys2Proof.Machine.execCompact s
  | .compactDone => Sys2Proof.Machine.execCompactDone s
  | .journalEntryWrite ok => Sys2Proof.Machine.execJournalEntryWrite ok s
  | .jtagRegacc w read => Sys2Proof.Machine.execJtagRegacc w read s
  | .logEntryWrite => Sys2Proof.Machine.execLogEntryWrite s
  | .logRseqWrite val be => Sys2Proof.Machine.execLogRseqWrite val be s
  | .mark => Sys2Proof.Machine.execMark s
  | .perfSnap => Sys2Proof.Machine.execPerfSnap s
  | .snapPeriodExpire => Sys2Proof.Machine.execSnapPeriodExpire s
  | .snapDone => Sys2Proof.Machine.execSnapDone s
  | .clrAll => Sys2Proof.Machine.execClrAll s
  | .hclr => Sys2Proof.Machine.execHclr s
  | .perfCntLoWrite n val be => Sys2Proof.Machine.execPerfCntLoWrite n val be s
  | .perfCntHiWrite n val be => Sys2Proof.Machine.execPerfCntHiWrite n val be s
  | .perfCfgWrite n val be => Sys2Proof.Machine.execPerfCfgWrite n val be s
  | .perfCtrlWrite val be => Sys2Proof.Machine.execPerfCtrlWrite val be s
  | .lossOfSignal p l los => Sys2Proof.Machine.execLossOfSignal p l los s
  | .jesdSyncHeaderLock p l => Sys2Proof.Machine.execJesdSyncHeaderLock p l s
  | .sampleRelease p jesd => Sys2Proof.Machine.execSampleRelease p jesd s
  | .clockOutputRestart o => Sys2Proof.Machine.execClockOutputRestart o s
  | .poisonFillDone chunk => Sys2Proof.Machine.execPoisonFillDone chunk s
  | .decayPassDone p n => Sys2Proof.Machine.execDecayPassDone p n s
  | .comparatorSample n raw => Sys2Proof.Machine.execComparatorSample n raw s
  | .deferredDieHold => Sys2Proof.Machine.execDeferredDieHold s
  | .announceReceiptTimeout => Sys2Proof.Machine.execAnnounceReceiptTimeout s
  | .imemHiRead path c => Sys2Proof.Machine.execImemHiRead path c s

end Sys2Proof.Machine
end

