-- ==== Sys2Proof/Machine/Tick.lean ====
section
/-! DEFINITION. What passes while no command waits: one TCLK cycle (log entry 2). -/

namespace Sys2Proof.Machine

/-- Device time advances by 20,480 units × (2^44 + rate) / 2^44 per TCLK cycle: 0.3125 ns (R28) at the rate of R46, its fraction carried on. -/
def dtAdvance (s : State) : Clk :=
  let x : Int := 20480 * (17592186044416 + sext 32 (s.wordN R.CLK_DT_RATE)) + s.clk.dtFrac
  { s.clk with dt := s.clk.dt + (x / 17592186044416).toNat, dtFrac := (x % 17592186044416).toNat }

/-- One TCLK cycle with no command: the LEVEL counters count (R464), device time advances, edges come due at the pairing units (R66),
port B of the Eddy buffers passes on (R298), and the colour unit commits when no output runs (R176). -/
def idle (s : State) : State :=
  let t := colTick (levelTick s)
  portTick ([0, 1, 2, 3].foldl (fun s k => pairAge k s) { t with tclk := s.tclk + 1, clk := dtAdvance s })

end Sys2Proof.Machine
end

