-- ==== Sys2Proof/WellFormed.lean ====
section
/-! DEFINITION. Well-formed commands: operands that their types do not bound already lie in the range the spec gives them. -/

namespace Sys2Proof

open Sys2Proof.Machine

/-- A register word lies on a 4-byte boundary of BAR0 (R483). -/
def aligned (off : BitVec 25) : Bool := off.toNat % 4 == 0

/-- Results of a port calibration: sixteen trims and a skew for each of the nine lanes (R108). -/
def PortCalResult.wf (r : PortCalResult) : Bool :=
  r.trims.length == 9 && r.trims.all (fun t => t.length == 16) && r.laneSkew.length == 9

/-- Is the command one that the spec describes?  The types of the other commands bound their operands. -/
def Instr.wf : Instr → Bool
  | .registerWrite _ w => aligned w.off
  | .readLo _ off => aligned off
  | .commit h => isLeaf h.toNat
  | .basinCommit h => isBasin h.toNat
  | .basinCmd h _ => isBasin h.toNat
  | .evtCalInputEnd trims _ => trims.length == 16
  | .codewordRx _ _ levels => levels.length == 2720 || levels.length == 5440
  | .portCalEnd _ (some r) => r.wf
  | .sampleRelease _ jesd => jesd.length == 0 || jesd.length == 8
  | .cut k _ => k.val != 0
  | .rsvRequest _ arrived => arrived.all (fun q => decide (0 < q.len))
  | .pfcFrameRx _ _ quanta => quanta.length == 8
  | .pcieBar2Access off span none => decide (0 < span.len) && decide (off.toNat + span.len ≤ 2 ^ 32)
  | .pcieBar2Access off _ (some bs) => decide (0 < bs.length) && decide (off.toNat + bs.length ≤ 2 ^ 32)
  | .hostUp gen width => gen.val != 0 && width != 0 && decide (width.toNat ≤ 8)
  | .auxDone _ _ bytes => decide (bytes.length ≤ 16)
  | .adcConversion code => decide (code < 4096)
  | .thermalSample codes => codes.length == 4 && codes.all (fun c => decide (c < 4096))
  | .poisonFillDone chunk => decide (chunk < 393216)
  | .jtagRegacc w _ => aligned w.off
  | _ => true

end Sys2Proof
end

