-- ==== Sys2Proof/Safety.lean ====
section
/-! DEFINITION. The words that claims use: the canonical form of device memory, what it says that a command completes, and what a
command may change. -/

namespace Sys2Proof.Machine

/-- Device memory is in canonical form: addresses strictly rising, no byte listed that reads as 0 anyway. -/
abbrev Memory.wf (s : State) : Prop := memWf s.mem = true

end Sys2Proof.Machine

namespace Sys2Proof.Claims

open Sys2Proof.Machine

/-- The command completes: `exec` answers a next state, of which `P` holds. -/
def Gives (i : Instr) (s : State) (P : State → Prop) : Prop := ∃ t, exec i s = .next t ∧ P t

/-- The step of analysis completes and `P` holds; while Brook holds the die in reset it completes and does nothing (R28). -/
def Analyses (i : Instr) (s : State) (P : State → Prop) : Prop := Gives i s fun t => if s.boot.held then t = s else P t

/-- Every register word outside the offsets listed reads as before. -/
def WordsKept (s t : State) (offs : List Nat) : Prop := ∀ o, o ∉ offs → t.word o = s.word o

/-- Every register word outside the offsets from `lo` up to `hi` (excluded) reads as before. -/
def WordsWithin (s t : State) (lo hi : Nat) : Prop := ∀ o, o < lo ∨ hi ≤ o → t.word o = s.word o

/-- CMD_STATUS of unit `h` holds the final code of its command `code`, and CMD_BUSY is 0 (R479, R480). -/
def Done (h code : Nat) (c : Code) (t : State) : Prop := t.cmdSt h = { status := c.num, code := code, busy := false }

/-- EVENT_PEND bit `b` of unit `h` is set (R454). -/
def Raised (h b : Nat) (t : State) : Prop := bitAt (t.pendOf h) b = true

/-- What reports may have changed: the command status of the units `cmds`, the EVENT_PEND bits `evs` (set, never cleared) besides those of the log and counter
units, which a full queue or an overflow sets, and the FAULT words of `flts`. -/
def RepFrame (cmds : List Nat) (evs : List (Nat × Nat)) (flts : List Nat) (s t : State) : Prop :=
  (∀ h, h ∉ cmds → t.cmdSt h = s.cmdSt h) ∧
  (∀ h b, bitAt (s.pendOf h) b = true → bitAt (t.pendOf h) b = true) ∧
  (∀ h b, (h, b) ∉ evs → h ≠ hLog → h ≠ hPerf → bitAt (t.pendOf h) b = bitAt (s.pendOf h) b) ∧
  (∀ h, h ∉ flts → t.faultOf h = s.faultOf h)

/-- The command of code `code` of unit `h` ended with `c`; of all reports only its CMD_STATUS (and that of a basin that forwarded it) and log entries are new. -/
def Finished (h code : Nat) (c : Code) (s t : State) : Prop := Done h code c t ∧ RepFrame (h :: basinsOf h) [] [] s t

/-- The command was turned away with `c` and changed nothing else (R479 to R481). -/
def TurnedAway (h code : Nat) (c : Code) (s t : State) : Prop := t = { s with rep := t.rep } ∧ Finished h code c s t

/-- Event `b` of unit `h` was raised, and of all reports only what that causes is new (R454, R455). -/
def Event (h b : Nat) (s t : State) : Prop := Raised h b t ∧ RepFrame [] [(h, b)] [] s t

end Sys2Proof.Claims
end

