-- ==== Sys2Proof/Certificates/Slice0/Obligations.lean ====
section
/-! DEFINITION. The statements about the FJV-6410 that the provers settle.  `Gives i s P` says that command `i` completes from `s` in a state of which `P` holds. -/

open Sys2Proof Sys2Proof.Machine Sys2Proof.Claims

/-! Device time and clocks (spec/02). -/

/-- STEP, SETTOD and DTRESTART (R50, R53): STEP holds the signed 64-bit ns offset for the next whole second, with STATE in TRACK and BUSY while one is pending; SETTOD holds 48 bits of
CLK_DT_TOD, with BUSY while one is pending; DTRESTART enters ACQUIRE, or FREE without a source, and clears acc. Choices of the model: log entry 22. -/
def Obligations.DeviceTimeCommands : Prop :=
  ∀ s : State, s.cmdBusy hClk = false →
    (s.fld R.CLK_DT_STATUS_STATE ≠ 2 → s.clk.step = none → Gives .dtStep s fun t =>
      t = { s with clk := { s.clk with step := some (sext 64 (s.pair R.CLK_DT_STEP_LO)) }, rep := t.rep } ∧ Finished hClk 1 .ok s t) ∧
    (s.fld R.CLK_DT_STATUS_STATE = 2 → Gives .dtStep s (TurnedAway hClk 1 .state s)) ∧
    (s.fld R.CLK_DT_STATUS_STATE ≠ 2 → s.clk.step ≠ none → Gives .dtStep s (TurnedAway hClk 1 .busy s)) ∧
    (s.clk.tod = none → Gives .settod s fun t =>
      t = { s with clk := { s.clk with tod := some (s.pair R.CLK_DT_TOD_LO % 2 ^ 48) }, rep := t.rep } ∧ Finished hClk 2 .ok s t) ∧
    (s.clk.tod ≠ none → Gives .settod s (TurnedAway hClk 2 .busy s)) ∧
    (Gives .dtrestart s fun t =>
      t = { s with clk := t.clk, regs := t.regs, rep := t.rep } ∧
      t.clk = { s.clk with src := t.clk.src, acc := 0, run := [], autoDone := false, restepOk := true } ∧
      t.clk.src = (if s.fld R.CLK_DT_CTRL_SRC = 3 then 0 else s.fld R.CLK_DT_CTRL_SRC) ∧
      t.fld R.CLK_DT_STATUS_STATE = (if t.clk.src = 0 then 0 else 1) ∧ t.fld R.CLK_DT_STATUS_REJECT_CNT = 0 ∧
      WordsKept s t [R.CLK_DT_STATUS] ∧ Finished hClk 3 .ok s t)

/-- The loss of the active reference (R38, R42), what comes of a pending STEP or SETTOD, the fall to HOLDOVER of DT and a DT read (R47, R50, R52, R53, R54): with the other
reference qualified the FJV switches to it, else it enters holdover; a window within 256 counts makes a bad reference good again (the model's choice, log entry 70). Choices of the model: log entries 3, 22, 70. -/
def Obligations.DeviceTimeMoments : Prop :=
  ∀ (s : State) (n : Int) (m : Nat) (tap : Fin 16) (path : Path) (r : Fin 2) (count : Nat) (ctl mean : Word),
    (s.fld R.CLK_WS_STATUS_ACT_REF = r → s.flag R.CLK_WS_STATUS_HOLDOVER = false → (s.fld R.CLK_REF_CTRL_REF_SEL ≠ 2 ∨ s.qual (1 - r) < 4) → Gives (.refLost r) s fun t =>
      t.flag R.CLK_WS_STATUS_HOLDOVER = true ∧ t.flag R.CLK_WS_STATUS_LOCK = false ∧ t.flag (refOk r) = false ∧
      t.fld R.CLK_WS_STATUS_ACT_REF = r ∧
      t.word R.CLK_WS_HOLDVAL = BitVec.ofNat 32 s.clk.mean ∧ t.word R.CLK_WS_CTRLVAL = BitVec.ofNat 32 s.clk.mean ∧ Raised hClk 1 t ∧
      t = { s with clk := { s.clk with qualA := 0, qualB := 0 }, regs := t.regs, rep := t.rep } ∧
      WordsKept s t [R.CLK_WS_STATUS, R.CLK_WS_HOLDVAL, R.CLK_WS_CTRLVAL] ∧ RepFrame [] [(hClk, 1)] [hClk] s t) ∧
    (s.fld R.CLK_WS_STATUS_ACT_REF = r → s.flag R.CLK_WS_STATUS_HOLDOVER = false → s.fld R.CLK_REF_CTRL_REF_SEL = 2 → 4 ≤ s.qual (1 - r) → Gives (.refLost r) s fun t =>
      t.fld R.CLK_WS_STATUS_ACT_REF = 1 - r ∧ t.flag R.CLK_WS_STATUS_HOLDOVER = false ∧ t.flag R.CLK_WS_STATUS_LOCK = false ∧
      t.word R.CLK_WS_HOLDVAL = BitVec.ofNat 32 s.clk.mean ∧ Raised hClk 1 t ∧ Raised hClk 2 t ∧
      t = { s with clk := (s.setQual r 0).clk, regs := t.regs, rep := t.rep } ∧
      WordsKept s t [R.CLK_WS_STATUS, R.CLK_WS_HOLDVAL, R.CLK_WS_CTRLVAL] ∧ RepFrame [] [(hClk, 1), (hClk, 2)] [hClk] s t) ∧
    (s.fld R.CLK_WS_STATUS_ACT_REF = r → s.flag R.CLK_WS_STATUS_HOLDOVER = true → s.flag (refOk r) = true → Gives (.refLost r) s fun t =>
      t.flag (refOk r) = false ∧ Raised hClk 1 t ∧ t = { s with clk := (s.setQual r 0).clk, regs := t.regs, rep := t.rep } ∧
      WordsKept s t [R.CLK_WS_STATUS] ∧ RepFrame [] [(hClk, 1)] [hClk] s t) ∧
    (((count : Int) * 100 - (if r = 0 then 134217728 else 2097152000)).natAbs ≤ 25600 → Gives (.lockWindowEnd r ⟨count, none⟩ ctl mean) s fun t =>
      t.flag (refOk r) = true ∧ t.word R.CLK_LOCK_COUNT = BitVec.ofNat 32 count) ∧
    (s.clk.step = some n → Gives .dtStepApply s fun t =>
      t = { s with clk := { s.clk with dt := ((s.clk.dt + n * 65536) % dtMod).toNat, step := none, run := [], restepOk := true }, rep := t.rep } ∧
      Event hClk 6 s t) ∧
    (s.clk.tod = some m → Gives (.settodApply tap) s fun t =>
      t = { s with clk := { s.clk with tod := none, dt := ((s.clk.dt +
        (m - nearestSec (if s.clk.src = 1 then edgeDt s 8 tap else s.clk.dt)) * unitsPerSec) % dtMod).toNat } }) ∧
    (s.fld R.CLK_DT_STATUS_STATE = 2 → Gives .dtHoldover s fun t =>
      t = { s with clk := { s.clk with run := [], restepOk := true }, regs := t.regs, rep := t.rep } ∧
      t.fld R.CLK_DT_STATUS_STATE = 3 ∧ t.fld R.CLK_DT_STATUS_REJECT_CNT = s.fld R.CLK_DT_STATUS_REJECT_CNT ∧
      WordsKept s t [R.CLK_DT_STATUS] ∧ Event hClk 4 s t) ∧
    (Gives (.dtFracRead path) s fun t =>
      t = { s with latch := t.latch, rep := { s.rep with out := .regRead path R.CLK_DT_FRAC (s.clk.dt % 65536) :: s.rep.out } } ∧
      t.latched path R.CLK_DT_NS = s.clk.dt % unitsPerSec / 65536 ∧
      t.latched path R.CLK_DT_SEC_LO = s.clk.dt / unitsPerSec % 2 ^ 32 ∧
      t.latched path R.CLK_DT_SEC_HI = s.clk.dt / unitsPerSec / 2 ^ 32 % 2 ^ 16)

/-- A PPS edge and a PTP second (R47, R51, R351): without its source in force a measurement only counts as an edge; in TRACK an error inside the window drives the servo, one outside
is counted and raises PPS_REJECT; in HOLDOVER an error above 10 µs raises RESTEP_REQ on the first such measurement. Choices of the model: log entries 3, 22. -/
def Obligations.DeviceTimeMeasurements : Prop :=
  ∀ (s : State) (tap : Fin 16) (edge e rt off : Int), edge = edgeDt s 8 tap → e = edge - nearestSec edge * unitsPerSec →
    (s.clk.src ≠ 1 → Gives (.ppsMeasurement tap) s fun t => t = { s with clk := { s.clk with lastPps := some s.tclk } }) ∧
    (s.clk.src = 1 → s.fld R.CLK_DT_STATUS_STATE = 2 → e.natAbs ≤ ppsWin s → Gives (.ppsMeasurement tap) s fun t =>
      t = { s with clk := { s.clk with lastPps := some s.tclk, lastAcc := s.tclk, acc := swrap 64 (s.clk.acc + e) }, regs := t.regs } ∧
      t.wordN R.CLK_PPS_ERR = enc 32 (clampS 32 e) ∧
      t.wordN R.CLK_DT_RATE = enc 32 (clampI (-2147483647) 2147483647 (swrap 64
        (-(asr e (s.fld R.CLK_DT_CTRL_KP_SHIFT)) - asr (swrap 64 (s.clk.acc + e)) (s.fld R.CLK_DT_CTRL_KI_SHIFT)))) ∧
      WordsKept s t [R.CLK_PPS_ERR, R.CLK_DT_RATE]) ∧
    (s.clk.src = 1 → s.fld R.CLK_DT_STATUS_STATE = 2 → ppsWin s < e.natAbs → Gives (.ppsMeasurement tap) s fun t =>
      t = { s with clk := { s.clk with lastPps := some s.tclk }, regs := t.regs, rep := t.rep } ∧
      t.fld R.CLK_DT_STATUS_REJECT_CNT = min (s.fld R.CLK_DT_STATUS_REJECT_CNT + 1) 65535 ∧
      WordsKept s t [R.CLK_PPS_ERR, R.CLK_DT_STATUS] ∧ Event hClk 7 s t) ∧
    (s.clk.src = 1 → s.fld R.CLK_DT_STATUS_STATE = 3 → 655360000 < e.natAbs → s.clk.restepOk = true → Gives (.ppsMeasurement tap) s fun t =>
      t = { s with clk := { s.clk with lastPps := some s.tclk, run := [], restepOk := false }, regs := t.regs, rep := t.rep } ∧
      WordsKept s t [R.CLK_PPS_ERR] ∧ Event hClk 8 s t) ∧
    (s.ptp.best = some (rt, off) → s.clk.src ≠ 2 → Gives .ptpSecond s fun t =>
      t = { s with ptp := { s.ptp with best := none }, regs := t.regs } ∧
      t.wordN R.PTP_OFFSET = enc 32 (clampS 32 (off / 65536)) ∧ t.wordN R.PTP_DELAY = enc 32 (rt / 2 / 65536) ∧
      WordsKept s t [R.PTP_OFFSET, R.PTP_DELAY])

/-- Counting windows (R36, R37, R41, R42), `d` the distance of the TCLK count from the expected one in hundredths of a count: within 2 counts a window of the active reference is good and the fourth good
one in a row declares lock; outside 2 and within 256 the lock is lost; in holdover the fourth qualifying window releases to its reference, and to the active one where those of both references end together. -/
def Obligations.WellspringLock : Prop :=
  ∀ (s : State) (r : Fin 2) (count c : Nat) (ctl mean : Word) (d : Nat),
    d = ((count : Int) * 100 - (if r = 0 then 134217728 else 2097152000)).natAbs →
    (s.fld R.CLK_WS_STATUS_ACT_REF = r → s.flag R.CLK_WS_STATUS_HOLDOVER = false → d ≤ 200 → Gives (.lockWindowEnd r ⟨count, none⟩ ctl mean) s fun t =>
      t.fld R.CLK_WS_STATUS_GOOD_WIN = min 4 (s.fld R.CLK_WS_STATUS_GOOD_WIN + 1) ∧
      (t.flag R.CLK_WS_STATUS_LOCK = true ↔ s.flag R.CLK_WS_STATUS_LOCK = true ∨ 3 ≤ s.fld R.CLK_WS_STATUS_GOOD_WIN) ∧
      (s.flag R.CLK_WS_STATUS_LOCK = false → 3 ≤ s.fld R.CLK_WS_STATUS_GOOD_WIN → Raised hClk 3 t) ∧
      (s.flag (refOk r) = true → t.flag (refOk r) = true) ∧ t.word R.CLK_LOCK_COUNT = BitVec.ofNat 32 count ∧ t.word R.CLK_WS_CTRLVAL = ctl ∧
      t = { s with clk := { (s.setQual r (min 4 (s.qual r + 1))).clk with mean := mean.toNat }, regs := t.regs, rep := t.rep } ∧
      WordsKept s t [R.CLK_WS_STATUS, R.CLK_LOCK_COUNT, R.CLK_WS_CTRLVAL] ∧ RepFrame [] [(hClk, 3)] [hClk] s t) ∧
    (s.fld R.CLK_WS_STATUS_ACT_REF = r → s.flag R.CLK_WS_STATUS_HOLDOVER = false → 200 < d → d ≤ 25600 → Gives (.lockWindowEnd r ⟨count, none⟩ ctl mean) s fun t =>
      t.fld R.CLK_WS_STATUS_GOOD_WIN = 0 ∧ t.flag R.CLK_WS_STATUS_LOCK = false ∧ (s.flag (refOk r) = true → t.flag (refOk r) = true) ∧
      t.word R.CLK_LOCK_COUNT = BitVec.ofNat 32 count ∧ t.word R.CLK_WS_CTRLVAL = ctl ∧ Raised hClk 0 t ∧
      t = { s with clk := (s.setQual r (min 4 (s.qual r + 1))).clk, regs := t.regs, rep := t.rep } ∧
      WordsKept s t [R.CLK_WS_STATUS, R.CLK_LOCK_COUNT, R.CLK_WS_CTRLVAL] ∧ RepFrame [] [(hClk, 0)] [hClk] s t) ∧
    (s.flag R.CLK_WS_STATUS_HOLDOVER = true → d ≤ 25600 → 3 ≤ s.qual r → (s.fld R.CLK_REF_CTRL_REF_SEL = 2 ∨ s.fld R.CLK_REF_CTRL_REF_SEL = r) →
      Gives (.lockWindowEnd r ⟨count, none⟩ ctl mean) s fun t =>
      t.flag R.CLK_WS_STATUS_HOLDOVER = false ∧ t.fld R.CLK_WS_STATUS_ACT_REF = r ∧ t.fld R.CLK_WS_STATUS_GOOD_WIN = 0 ∧ t.flag R.CLK_WS_STATUS_LOCK = s.flag R.CLK_WS_STATUS_LOCK ∧
      (s.fld R.CLK_WS_STATUS_ACT_REF ≠ r → Raised hClk 2 t) ∧ t.word R.CLK_WS_CTRLVAL = ctl ∧
      t = { s with clk := (s.setQual r 4).clk, regs := t.regs, rep := t.rep } ∧
      WordsKept s t [R.CLK_WS_STATUS, R.CLK_LOCK_COUNT, R.CLK_WS_CTRLVAL] ∧ RepFrame [] [(hClk, 2)] [hClk] s t) ∧
    (s.flag R.CLK_WS_STATUS_HOLDOVER = true → s.fld R.CLK_REF_CTRL_REF_SEL = 2 → s.fld R.CLK_WS_STATUS_ACT_REF = r → d ≤ 25600 →
      ((c : Int) * 100 - (if r = 1 then 134217728 else 2097152000)).natAbs ≤ 25600 → s.qual 0 = 3 → s.qual 1 = 3 → Gives (.lockWindowEnd r ⟨count, some c⟩ ctl mean) s fun t =>
      t.flag R.CLK_WS_STATUS_HOLDOVER = false ∧ t.fld R.CLK_WS_STATUS_ACT_REF = r ∧ t.word R.CLK_WS_CTRLVAL = ctl ∧
      t = { s with clk := { s.clk with qualA := 4, qualB := 4 }, regs := t.regs, rep := t.rep } ∧
      WordsKept s t [R.CLK_WS_STATUS, R.CLK_LOCK_COUNT, R.CLK_WS_CTRLVAL] ∧ RepFrame [] [] [hClk] s t)

/-- Rivulet's lock and a clock output's restart (R44, R487): it starts at the next coincident divider edge. Choices of the model: log entries 3, 70. -/
def Obligations.RivuletAndOutputs : Prop :=
  ∀ (s : State) (count : Nat) (o : Fin 2), 15 ≤ s.fld R.CLK_RIV_CFG_N_INT → s.fld R.CLK_RIV_CFG_N_INT ≤ 30 → 2 ≤ s.fld R.CLK_RIV_CFG_ODIV →
    s.fld R.CLK_RIV_CFG_SS_MODE ≠ 1 → s.fld R.CLK_RIV_CFG_SS_MODE ≠ 2 →
    (((count : Int) * 256 - (2 ^ 24 * s.fld R.CLK_RIV_CFG_N_INT + s.fld R.CLK_RIV_NFRAC_N_FRAC)).natAbs ≤ 512 →
      Gives (.rivLockWindowEnd count) s fun t =>
        t = { s with clk := { s.clk with rivGood := min 4 (s.clk.rivGood + 1) }, dsp := t.dsp, regs := t.regs, rep := t.rep } ∧
        WordsKept s t [R.CLK_RIV_CFG, R.DPY_STATUS] ∧ RepFrame [] [] [hClk] s t ∧
        (t.flag R.CLK_RIV_CFG_RIV_LOCK = true ↔ s.flag R.CLK_RIV_CFG_RIV_LOCK = true ∨ 3 ≤ s.clk.rivGood)) ∧
    (512 < ((count : Int) * 256 - (2 ^ 24 * s.fld R.CLK_RIV_CFG_N_INT + s.fld R.CLK_RIV_NFRAC_N_FRAC)).natAbs →
      Gives (.rivLockWindowEnd count) s fun t =>
        t = { s with clk := { s.clk with rivGood := 0 }, dsp := t.dsp, regs := t.regs, rep := t.rep } ∧
        WordsKept s t [R.CLK_RIV_CFG, R.DPY_STATUS] ∧ RepFrame [] [] [hClk] s t ∧ t.flag R.CLK_RIV_CFG_RIV_LOCK = false ∧
        (s.flag R.CLK_RIV_CFG_RIV_LOCK = true → t.faultBit hClk 1 = true)) ∧
    ((s.cout o).mode = 1 → Gives (.clockOutputRestart o) s fun t => (t.cout o).mode = 2 ∧ (t.cout o).div = s.fld (R.CLK_COUT_CFG_DIV o) ∧ (t.cout o).old = none ∧
      (t.cout o).start % 64 = 0 ∧ 4 * s.tclk ≤ (t.cout o).start ∧ (t.cout o).start < 4 * s.tclk + 64 ∧
      t = { s with clk := { s.clk with cout := Tbl.set s.clk.cout o (t.cout o) },
                   rep := { s.rep with out := .clockOut o 2 (t.cout o).start (t.cout o).div :: s.rep.out } })

/-! Event timing (spec/03). -/

/-- The pins of an input swing (R56, R57, R59 to R63): the comparator makes an edge beyond half its hysteresis on either side of the threshold; the edge is accepted when it is selected, the gate is ignored and
dead time, hold-off and blanking are over; refused and counted inside them; refused and not counted by a closed gate.  Pairing is off here; `IntervalPairing` states it. Choices of the model: log entries 25, 71. -/
def Obligations.EventEdges : Prop :=
  ∀ (s : State) (n : Fin 8) (tap : Fin 16) (falling near : Bool) (pin : PinSwing) (v h : Int) (x y : EvtIn), x = s.evtIn n → y = { x with high := !falling } → h = 5 * s.fld (R.EVT_CFG_HYST n) →
    v = (if s.flag (R.EVT_CFG_DIFF n) then pin.p - pin.n else pin.p - 10 * s.fld (R.EVT_CFG_THRESH n)) →
    (x.high = false → v ≤ h → Gives (.evtEdge n tap pin near) s fun t => t = s) ∧
    (x.high = true → -h ≤ v → Gives (.evtEdge n tap pin near) s fun t => t = s) ∧
    (x.high = falling → (falling = false → h < v) → (falling = true → v < -h) →
      (s.flag (R.EVT_CFG_EN n) = false → Gives (.evtEdge n tap pin near) s fun t => t = s.setEvt n y) ∧
      (s.flag (R.EVT_CFG_EN n) = true → (falling = true → s.fld (R.EVT_CFG_EDGE n) = 1 ∨ s.fld (R.EVT_CFG_EDGE n) = 2) →
       (falling = false → s.fld (R.EVT_CFG_EDGE n) ≠ 1) → s.flag (R.PAIR_CFG_EN (n / 2)) = false →
      ((s.fld (R.EVT_CFG_GATE_MODE n) = 0 ∨ s.fld (R.EVT_CFG_GATE_MODE n) = 3) →
        x.last.all (fun t => decide (t + 2 + s.fld (R.EVT_HOLDOFF_HOLDOFF n) ≤ s.tclk)) = true → x.blankEnd ≤ s.tclk → Gives (.evtEdge n tap pin near) s fun t =>
        t.pair (R.EVT_ACC n) = (s.pair (R.EVT_ACC n) + 1) % 2 ^ 64 ∧
        (t.evtIn n).seq = x.seq + 1 ∧ (t.evtIn n).last = some s.tclk ∧ (t.evtIn n).high = !falling ∧
        t.weir = { s.weir with edges := (n.val, (edgeDt s n tap).toNat) :: s.weir.edges } ∧
        (x.q.length < 512 → (t.evtIn n).q = x.q ++ [(⟨x.seq % 256, x.loss, s.evtCalBusy n, s.coast, falling, edgeDt s n tap⟩ : EvtEntry)] ∧
          (t.evtIn n).loss = false ∧ (x.q = [] → Raised hEvt n t) ∧ WordsKept s t [R.EVT_ACC n, R.EVT_ACC n + 4]) ∧
        (512 ≤ x.q.length → (t.evtIn n).q = x.q ∧ (t.evtIn n).loss = true ∧ t.pair (R.EVT_LOST n) = (s.pair (R.EVT_LOST n) + 1) % 2 ^ 64 ∧ Raised hEvt 12 t ∧
          WordsKept s t [R.EVT_ACC n, R.EVT_ACC n + 4, R.EVT_LOST n, R.EVT_LOST n + 4]) ∧
        t = { s with evt := t.evt, weir := t.weir, regs := t.regs, rep := t.rep } ∧ t.evt = { s.evt with inp := t.evt.inp } ∧ (∀ m : Fin 8, m ≠ n → t.evtIn m = s.evtIn m) ∧
        RepFrame [] [(hEvt, n.val), (hEvt, 12)] [] s t) ∧
      ((s.fld (R.EVT_CFG_GATE_MODE n) = 0 ∨ s.fld (R.EVT_CFG_GATE_MODE n) = 3) →
        (x.last.all (fun t => decide (t + 2 + s.fld (R.EVT_HOLDOFF_HOLDOFF n) ≤ s.tclk)) = false ∨ s.tclk < x.blankEnd) → Gives (.evtEdge n tap pin near) s fun t =>
        t.pair (R.EVT_MISS n) = (s.pair (R.EVT_MISS n) + 1) % 2 ^ 64 ∧ t = { s.setEvt n y with regs := t.regs } ∧ WordsKept s t [R.EVT_MISS n, R.EVT_MISS n + 4]) ∧
      (s.fld (R.EVT_CFG_GATE_MODE n) = 1 → near = false → Tbl.get false s.evt.gate (n / 2) ≠ s.flag (R.EVT_CFG_GATE_POL n) →
        Gives (.evtEdge n tap pin near) s fun t => t = s.setEvt n y) ∧
      (s.fld (R.EVT_CFG_GATE_MODE n) = 2 → near = false → x.armed = false → Gives (.evtEdge n tap pin near) s fun t => t = s.setEvt n y)))

/-- Pairing unit `k` (R66, R67, R70): edges of two inputs wait until no earlier one can arrive and are processed in order of their DT, a start before a stop of equal DT; what a start and a stop give in each
state of the unit; a record holds UNRES, ORDER, REARM, COAST, STALE, LOSS, START_SEQ, STOP_SEQ and the interval; ORPHAN_DISCARD completes in every state. Choices of the model: log entries 3, 71. -/
def Obligations.IntervalPairing : Prop :=
  ∀ (s : State) (k : Fin 4) (e : PairEdge) (x : PairSt) (a b : PairEdge) (w : PairWait) (ws : List PairWait) (falling : Bool), x = s.pairSt k →
    (x.start = none → x.orphan = none → ((pairStart k e s).pairSt k).start = some e ∧ ((pairStart k e s).pairSt k).rearm = false ∧ ((pairStart k e s).pairSt k).q = x.q) ∧
    (x.start = some a → x.orphan = none →
      ((pairStart k e s).pairSt k).start = some e ∧ ((pairStart k e s).pairSt k).rearm = true ∧ ((pairStart k e s).pairSt k).q = x.q) ∧
    (x.orphan = some b → b.dt < e.dt → x.q.length < 64 → ((pairStart k e s).pairSt k).orphan = none ∧ ((pairStart k e s).pairSt k).start = none ∧
      ((pairStart k e s).pairSt k).q = x.q ++ [(⟨decide ((b.dt - e.dt).natAbs < 1280), decide (1280 ≤ (b.dt - e.dt).natAbs), false, e.coast || b.coast, e.stale || b.stale, x.loss, e.seq, b.seq,
        if (b.dt - e.dt).natAbs < 1280 then 0 else b.dt - e.dt⟩ : PairRec)]) ∧
    (x.start = some a → a.dt ≤ e.dt → x.q.length < 64 → ((pairStop k e s).pairSt k).start = none ∧
      ((pairStop k e s).pairSt k).q = x.q ++ [(⟨decide ((e.dt - a.dt).natAbs < 1280), false, x.rearm, a.coast || e.coast, a.stale || e.stale, x.loss, a.seq, e.seq,
        if (e.dt - a.dt).natAbs < 1280 then 0 else e.dt - a.dt⟩ : PairRec)]) ∧
    (x.start = none → x.orphan = none → ((pairStop k e s).pairSt k).orphan = some e ∧ ((pairStop k e s).pairSt k).q = x.q) ∧
    (x.start = none → x.orphan = some b → ((pairStop k e s).pairSt k).orphan = some e ∧ ((pairStop k e s).pairSt k).q = x.q ∧
      (pairStop k e s).wordN (R.PAIR_ORPHAN k) = min (s.wordN (R.PAIR_ORPHAN k) + 1) 0xFFFFFFFF) ∧
    (s.flag (R.PAIR_CFG_EN k) = true → s.flag (R.PAIR_CFG_MODE k) = false → x.wait = [] → pairEdge (2 * k) falling e s = s.setPair' k { x with wait := [⟨false, s.tclk, e⟩] } ∧
      pairEdge (2 * k + 1) falling e s = s.setPair' k { x with wait := [⟨true, s.tclk, e⟩] }) ∧
    (ws.Pairwise (fun a b => pairFirst a b = true) → (pairInsert w ws).Pairwise (fun a b => pairFirst a b = true) ∧ (pairInsert w ws).Perm (w :: ws)) ∧
    (x.wait = [w] → s.tclk < w.arr + pairReach s k → pairAge k s = s) ∧
    (x.wait = [w] → w.arr + pairReach s k ≤ s.tclk → w.stop = true → pairAge k s = pairStop k w.edge (s.setPair' k { x with wait := [] })) ∧
    (x.wait = [w] → w.arr + pairReach s k ≤ s.tclk → w.stop = false → pairAge k s = pairStart k w.edge (s.setPair' k { x with wait := [] })) ∧
    (Gives (.orphanDiscard k) s fun t => (t.pairSt k).orphan = none ∧ (t.pairSt k).q = x.q ∧ WordsKept s t [R.PAIR_ORPHAN k] ∧ (x.orphan = none → t = s) ∧
      t = { s with evt := { s.evt with pair := t.evt.pair }, regs := t.regs, rep := t.rep }) ∧
    (x.orphan = some b → Gives (.orphanDiscard k) s fun t =>
      t = { s with evt := { s.evt with pair := Tbl.set s.evt.pair k { x with orphan := none } }, regs := t.regs, rep := t.rep } ∧
      t.wordN (R.PAIR_ORPHAN k) = min (s.wordN (R.PAIR_ORPHAN k) + 1) 0xFFFFFFFF ∧ WordsKept s t [R.PAIR_ORPHAN k] ∧ Event hEvt 13 s t)

/-- Writes to EVTn_CFG and PAIRk_CFG, gate transitions and queue reads (R58, R60, R61, R68, R70, R71): byte enables select the bytes written; 1 µs is 3,200 TCLK cycles. Choices of the model: log entries 61, 71. -/
def Obligations.EventRegistersAndQueues : Prop :=
  ∀ (s : State) (n : Fin 8) (k : Fin 4) (val : Word) (be : BitVec 4) (level : Bool) (path : Path) (e : EvtEntry) (q : List EvtEntry) (r : PairRec) (pq : List PairRec),
    (Gives (.evtCfgWrite n val be) s fun t =>
      t.wordN (R.EVT_CFG n) = blend (s.wordN (R.EVT_CFG n)) val.toNat (0x00FFF0F7 &&& beMask be.toNat) ∧ WordsKept s t [R.EVT_CFG n] ∧
      t = { s with evt := if s.flag (R.EVT_CFG_EN n) then { s.evt with inp := Tbl.set s.evt.inp n { s.evtIn n with blankEnd := s.tclk + 3200 } } else s.evt, regs := t.regs }) ∧
    (Gives (.pairCfgWrite k val be) s fun t =>
      t.wordN (R.PAIR_CFG k) = blend (s.wordN (R.PAIR_CFG k)) val.toNat (0xFFFF0003 &&& beMask be.toNat) ∧ WordsKept s t [R.PAIR_CFG k, R.PAIR_ORPHAN k, R.PAIR_LOST k] ∧
      (t.pairSt k).wait = [] ∧ (t.flag (R.PAIR_CFG_EN k) = false → (t.pairSt k).start = none ∧ (t.pairSt k).orphan = none)) ∧
    ((s.pairSt k).wait = [] → Gives (.pairCfgWrite k val be) s fun t =>
      (t.flag (R.PAIR_CFG_EN k) = true → t = { s with regs := t.regs }) ∧
      (t.flag (R.PAIR_CFG_EN k) = false → (s.pairSt k).orphan = none →
        t = { s with evt := { s.evt with pair := Tbl.set s.evt.pair k { s.pairSt k with start := none, rearm := false } }, regs := t.regs }) ∧
      (t.flag (R.PAIR_CFG_EN k) = false → (s.pairSt k).orphan ≠ none → t.wordN (R.PAIR_ORPHAN k) = min (s.wordN (R.PAIR_ORPHAN k) + 1) 0xFFFFFFFF ∧ Event hEvt 13 s t ∧
        t = { s with evt := { s.evt with pair := t.evt.pair }, regs := t.regs, rep := t.rep })) ∧
    (Gives (.gateTransition k level) s fun t =>
      t = { s with evt := { s.evt with gate := Tbl.set s.evt.gate k level, inp := t.evt.inp } } ∧
      ((n.val = 2 * k.val ∨ n.val = 2 * k.val + 1) → Tbl.get false s.evt.gate k ≠ level → s.fld (R.EVT_CFG_GATE_MODE n) = 2 → s.flag (R.EVT_CFG_GATE_POL n) = level →
        t.evtIn n = { s.evtIn n with armed := true }) ∧
      ((n.val ≠ 2 * k.val ∧ n.val ≠ 2 * k.val + 1) ∨ Tbl.get false s.evt.gate k = level ∨ s.fld (R.EVT_CFG_GATE_MODE n) ≠ 2 ∨ s.flag (R.EVT_CFG_GATE_POL n) ≠ level →
        t.evtIn n = s.evtIn n)) ∧
    ((s.evtIn n).q = e :: q → Gives (.evtQpop0Read path n) s fun t =>
      t = { s with evt := { s.evt with inp := Tbl.set s.evt.inp n { s.evtIn n with q := q } }, regs := t.regs,
                   rep := { s.rep with out := .regRead path (R.EVT_QPOP n 0) (e.seq * 2 ^ 24 + 2 ^ 23 + b2n e.loss * 2 ^ 22 + b2n e.stale * 2 ^ 21 + b2n e.coast * 2 ^ 20 +
                     b2n e.falling * 2 ^ 19 + n * 2 ^ 16 + e.dt.toNat % 65536) :: s.rep.out } } ∧
      t.wordN (R.EVT_QPOP n 0 + 4) = bits (dtPack e.dt.toNat) 47 16 ∧ t.wordN (R.EVT_QPOP n 0 + 8) = bits (dtPack e.dt.toNat) 79 48 ∧
      t.wordN (R.EVT_QPOP n 0 + 12) = bits (dtPack e.dt.toNat) 95 80 ∧ WordsKept s t [R.EVT_QPOP n 0 + 4, R.EVT_QPOP n 0 + 8, R.EVT_QPOP n 0 + 12]) ∧
    ((s.evtIn n).q = [] → Gives (.evtQpop0Read path n) s fun t =>
      t = { s with regs := t.regs, rep := { s.rep with out := .regRead path (R.EVT_QPOP n 0) 0 :: s.rep.out } } ∧
      t.wordN (R.EVT_QPOP n 0 + 4) = 0 ∧ t.wordN (R.EVT_QPOP n 0 + 8) = 0 ∧ t.wordN (R.EVT_QPOP n 0 + 12) = 0) ∧
    ((s.pairSt k).q = r :: pq → Gives (.pairQpop0Read path k) s fun t =>
      t = { s with evt := { s.evt with pair := Tbl.set s.evt.pair k { s.pairSt k with q := pq } }, regs := t.regs,
                   rep := { s.rep with out := .regRead path (R.PAIR_QPOP k 0) (1 + 2 * b2n r.unres + 4 * b2n r.order + 8 * b2n r.rearm + 16 * b2n r.coast + 32 * b2n r.stale +
                     64 * b2n r.loss + r.startSeq * 2 ^ 8 + r.stopSeq * 2 ^ 16) :: s.rep.out } } ∧
      t.wordN (R.PAIR_QPOP k 0 + 4) + 2 ^ 32 * t.wordN (R.PAIR_QPOP k 0 + 8) = enc 64 r.interval ∧ t.wordN (R.PAIR_QPOP k 0 + 12) = 0 ∧
      WordsKept s t [R.PAIR_QPOP k 0 + 4, R.PAIR_QPOP k 0 + 8, R.PAIR_QPOP k 0 + 12])

/-- CAL and FLUSH of the event unit, and the end of one input's calibration (R65, R69, R70): results outside the widths of EVT_TRIM and EVTn_SKEW are not loaded (R107). Choices of the model: log entries 3, 21. -/
def Obligations.EventCalibration : Prop :=
  ∀ (s : State) (n m : Nat) (rest : List Nat) (trims : List Int) (skew : Int) (p : Fin 16),
    (s.cmdBusy hEvt = false → s.evt.cal = [] → s.wordN R.EVT_CMD_MASK ≠ 0 → Gives .evtCal s fun t =>
      t = { s with evt := { s.evt with cal := (List.range 9).filter (fun i => bitAt (s.wordN R.EVT_CMD_MASK) i) }, rep := t.rep } ∧ Finished hEvt 1 .ok s t) ∧
    (s.cmdBusy hEvt = false → s.evt.cal = [] → s.wordN R.EVT_CMD_MASK = 0 → Gives .evtCal s (TurnedAway hEvt 1 .range s)) ∧
    (s.cmdBusy hEvt = false → s.evt.cal ≠ [] → Gives .evtCal s (TurnedAway hEvt 1 .busy s)) ∧
    (s.cmdBusy hEvt = false → Gives .flush s fun t => t = { s with evt := { s.evt with inp := t.evt.inp, pair := t.evt.pair }, rep := t.rep } ∧ Finished hEvt 2 .ok s t ∧
      (n < 8 → t.evtIn n = if bitAt (s.wordN R.EVT_CMD_MASK) n then { s.evtIn n with q := [] } else s.evtIn n) ∧
      (m < 4 → t.pairSt m = if bitAt (s.wordN R.EVT_CMD_MASK) (2 * m) then { s.pairSt m with q := [] } else s.pairSt m)) ∧
    (s.evt.cal = n :: rest → n < 9 → trims.length = 16 → trims.all (fun t => decide (-2048 ≤ t) && decide (t ≤ 2047)) = true → -2147483648 ≤ skew → skew ≤ 2147483647 →
      Gives (.evtCalInputEnd trims skew) s fun t =>
        t = { s with evt := { s.evt with cal := rest }, regs := t.regs, jq := t.jq, rep := t.rep } ∧
        sext 12 (t.wordN (R.EVT_TRIM n p)) = trims.getD p 0 ∧ sext 32 (t.wordN (skewOff n)) = skew ∧
        t.jq = s.jq.filter (fun j => !(j.typ == 3 && j.key == n)) ++ [{ typ := 3, key := n, vals := trims ++ [skew] }] ∧
        WordsKept s t (skewOff n :: (List.range 16).map (R.EVT_TRIM n)) ∧
        (rest = [] → Event hEvt 14 s t) ∧ (rest ≠ [] → t.rep = s.rep)) ∧
    (s.evt.cal = n :: rest → trims.any (fun t => decide (t < -2048) || decide (2047 < t)) = true → Gives (.evtCalInputEnd trims skew) s fun t =>
        t = { s with evt := { s.evt with cal := rest }, rep := t.rep } ∧ (rest = [] → Event hEvt 14 s t) ∧ (rest ≠ [] → t.rep = s.rep))

/-! Ingress ports (spec/04). -/

/-- The words of port `p` and of its lanes lie in the port's page; where a calibration that waits may start, the other ports' STATUS words may change too. -/
def Sys2Proof.Claims.PortFrame (p : Fin 4) (evs : List (Nat × Nat)) (s t : State) : Prop :=
  t = { s with ing := t.ing, regs := t.regs, rep := t.rep, jq := t.jq } ∧
  (∀ q : Fin 4, q ≠ p → ∀ l : Fin 9, t.word (R.ING_LANE_STATUS q l) = s.word (R.ING_LANE_STATUS q l)) ∧
  WordsWithin s t 0x401000 0x405000 ∧ RepFrame (hIng p :: basinsOf (hIng p)) evs [hIng p] s t

/-- CAL, RETRAIN, IDLE and WAKE of a port (R87, R105, R109). Choices of the model: log entry 10. -/
def Obligations.PortCommands : Prop :=
  ∀ (s : State) (p : Fin 4) (l : Fin 9), s.cmdBusy (hIng p) = false →
    ((∀ q : Fin 4, s.flag (R.ING_PORT_STATUS_CAL_BUSY q) = false) → (s.portState p = psRun ∨ s.portState p = psSpared) → Gives (.portCal p) s fun t =>
      t.flag (R.ING_PORT_STATUS_CAL_BUSY p) = true ∧ t.portState p = s.portState p ∧
      t = { s with ing := { s.ing with port := Tbl.set s.ing.port p { s.portSt p with calDue := false, calAt := s.tick } }, regs := t.regs, rep := t.rep } ∧
      WordsKept s t [R.ING_PORT_STATUS p] ∧ Finished (hIng p) 2 .ok s t) ∧
    ((∀ q : Fin 4, s.flag (R.ING_PORT_STATUS_CAL_BUSY q) = false) → s.portState p ≠ psRun → s.portState p ≠ psSpared →
      Gives (.portCal p) s (TurnedAway (hIng p) 2 .state s)) ∧
    ((∃ q : Fin 4, s.flag (R.ING_PORT_STATUS_CAL_BUSY q) = true) → Gives (.portCal p) s (TurnedAway (hIng p) 2 .busy s)) ∧
    (s.fld (R.ING_CMD_ARG_LANE p) = l → (s.lnSt p l = lnReady ∨ s.lnSt p l = lnActive) → s.jesd p = false → Gives (.ingRetrain p) s fun t =>
      t.lnSt p l = lnRetrain ∧ t.pair (R.ING_RETRAIN_CNT p l) = (s.pair (R.ING_RETRAIN_CNT p l) + 1) % 2 ^ 64 ∧ Done (hIng p) 3 .ok t ∧
      (s.lnSt p l = lnActive → Raised (hIng p) 0 t) ∧ PortFrame p [(hIng p, 0), (hIng p, 3), (hIng p, 11)] s t) ∧
    (8 < s.fld (R.ING_CMD_ARG_LANE p) → Gives (.ingRetrain p) s (TurnedAway (hIng p) 3 .range s)) ∧
    (s.fld (R.ING_CMD_ARG_LANE p) = l → s.lnSt p l ≠ lnReady → s.lnSt p l ≠ lnActive → Gives (.ingRetrain p) s (TurnedAway (hIng p) 3 .state s)) ∧
    (s.portState p ≠ psDown → s.flag (R.ING_PORT_CFG_EN p) = true → (s.portSt p).cfgBad = false → Gives (.portIdle p) s fun t =>
      t.portState p = psIdle ∧ (s.lnSt p l ≠ lnOff → t.lnSt p l = lnIdle) ∧ Out.backChannel p (bcFrame 0xF05) ∈ t.rep.out ∧ Done (hIng p) 4 .ok t ∧
      PortFrame p [(hIng p, 0), (hIng p, 3), (hIng p, 11)] s t) ∧
    (s.portState p = psDown → Gives (.portIdle p) s (TurnedAway (hIng p) 4 .state s)) ∧
    (s.portState p = psIdle → Gives (.portWake p) s fun t =>
      (t.portSt p).idle = false ∧ (s.lnSt p l = lnIdle → (t.lane p l).waking = true ∧ t.lnSt p l = lnIdle) ∧ Out.backChannel p (bcFrame 0xF06) ∈ t.rep.out ∧ Done (hIng p) 5 .ok t ∧
      PortFrame p [(hIng p, 3), (hIng p, 11)] s t) ∧
    (s.portState p ≠ psIdle → Gives (.portWake p) s (TurnedAway (hIng p) 5 .state s))

/-- RESTART and writes to ING_PORT_CFG (R72, R74, R88, R103, R109): lanes to OFF and, where the port is enabled and its format legal, to DETECT; a write of EN acts at once; words stay on the last
epoch's schedule (R116), a lane keeps its count of failures (R90). Choices of the model: log entries 26, 72. -/
def Obligations.PortFormat : Prop :=
  ∀ (s : State) (p : Fin 4) (l : Fin 9) (val : Word) (be : BitVec 4) (v : Nat), s.bonded p = false →
    v = blend (s.wordN (R.ING_PORT_CFG p)) val.toNat (0x0003FF7F &&& beMask be.toNat) →
    (s.cmdBusy (hIng p) = false → s.flag (R.ING_PORT_CFG_EN p) = true → fmtLegal (s.wordN (R.ING_PORT_CFG p)) = true → Gives (.restart p) s fun t =>
      t.portState p = psAssemble ∧ t.lnSt p l = (if s.flag (R.ING_PORT_CFG_LINK p) ∧ l = 8 then lnOff else lnDetect) ∧
      t.flag (R.ING_PORT_STATUS_EPOCH_VALID p) = false ∧ t.faultBit (hIng p) 3 = false ∧ (t.portSt p).link = s.wordN (R.ING_PORT_CFG p) ∧
      (t.portSt p).fmt = (s.portSt p).fmt ∧ (t.lane p l).fails = (s.lane p l).fails ∧ t.fld (R.ING_PORT_STATUS_LAT p) = latOf (s.wordN (R.ING_PORT_CFG p)) ∧ Done (hIng p) 1 .ok t ∧
      PortFrame p [(hIng p, 0), (hIng p, 3), (hIng p, 8)] s t) ∧
    (s.cmdBusy (hIng p) = false → fmtLegal (s.wordN (R.ING_PORT_CFG p)) = false → Gives (.restart p) s fun t =>
      t.portState p = psDown ∧ t.lnSt p l = lnOff ∧ t.flag (R.ING_PORT_STATUS_EPOCH_VALID p) = false ∧ t.faultBit (hIng p) 3 = true ∧ Done (hIng p) 1 .range t ∧
      PortFrame p [(hIng p, 0), (hIng p, 8)] s t) ∧
    (s.flag (R.ING_PORT_CFG_EN p) = false → v % 2 = 0 → Gives (.portCfgWrite p val be) s fun t =>
      t = { s with regs := t.regs } ∧ t.wordN (R.ING_PORT_CFG p) = v ∧ WordsKept s t [R.ING_PORT_CFG p]) ∧
    (s.flag (R.ING_PORT_CFG_EN p) = true → v % 2 = 0 → Gives (.portCfgWrite p val be) s fun t =>
      t.wordN (R.ING_PORT_CFG p) = v ∧ t.portState p = psDown ∧ t.lnSt p l = lnOff ∧ t.flag (R.ING_PORT_STATUS_EPOCH_VALID p) = false ∧
      t.faultBit (hIng p) 3 = s.faultBit (hIng p) 3 ∧ (t.lane p l).fails = (s.lane p l).fails ∧
      PortFrame p [(hIng p, 0), (hIng p, 8)] s t) ∧
    (s.flag (R.ING_PORT_CFG_EN p) = false → v % 2 = 1 → fmtLegal v = true → Gives (.portCfgWrite p val be) s fun t =>
      t.wordN (R.ING_PORT_CFG p) = v ∧ t.portState p = psAssemble ∧ t.lnSt p l = (if bitAt v 1 = true ∧ l = 8 then lnOff else lnDetect) ∧
      (t.portSt p).link = v ∧ PortFrame p [(hIng p, 0), (hIng p, 3), (hIng p, 8)] s t)

/-- A lane's way to READY and to FAILED (R86 to R90). Choices of the model: log entries 3, 26. -/
def Obligations.LaneTraining : Prop :=
  ∀ (s : State) (p : Fin 4) (l : Fin 9) (errs q q' : Nat) (rest : List Nat) (los : Bool),
    (s.lnSt p l = lnDetect → Gives (.laneDetectDone p l) s fun t =>
      t = { s with regs := t.regs } ∧ t.lnSt p l = lnLock ∧ t.flag (R.ING_LANE_STATUS_LOS p l) = false ∧ WordsKept s t [R.ING_LANE_STATUS p l]) ∧
    (s.lnSt p l = lnTrain → (s.lane p l).sweep = q :: q' :: rest → q' < 8 → Gives (.trainPresetMeasured p l errs) s fun t =>
      (t.lane p l).sweep = q' :: rest ∧ t.fld (R.ING_LANE_STATUS_PRESET p l) = q' ∧ t.lnSt p l = lnTrain ∧
      (t.lane p l).best = some (match (s.lane p l).best with | some (b, e) => if errs < e then (q, errs) else (b, e) | none => (q, errs)) ∧
      t = { s with ing := t.ing, regs := t.regs, rep := { s.rep with out := .backChannel p (bcFrame (2 + 256 * l + 65536 * q')) :: s.rep.out } } ∧ WordsKept s t [R.ING_LANE_STATUS p l]) ∧
    (s.lnSt p l = lnTrain → (s.lane p l).sweep = [q] → (s.lane p l).best.all (fun b => decide (errs < b.2)) = true → errs * 100000 ≤ 16384 * 544 →
      s.lnLogical p l = 15 → (s.portSt p).gone = [] → s.flag (R.ING_PORT_CFG_SPARE_IDLE p) = false → Gives (.trainPresetMeasured p l errs) s fun t =>
      t.lnSt p l = lnReady ∧ t.fld (R.ING_LANE_STATUS_BACKOFF p l) = 0 ∧ (t.lane p l).chosen = q ∧ (t.lane p l).fails = 0 ∧ Raised (hIng p) 1 t ∧
      PortFrame p [(hIng p, 1), (hIng p, 3), (hIng p, 11)] s t) ∧
    (s.lnSt p l = lnTrain → (s.lane p l).sweep = [q] → (s.lane p l).best.all (fun b => decide (16384 * 544 < b.2 * 100000)) = true → 16384 * 544 < errs * 100000 →
      Gives (.trainPresetMeasured p l errs) s fun t => t.lnSt p l = lnFailed ∧ t.fld (R.ING_LANE_STATUS_BACKOFF p l) = min (s.lane p l).fails 15 ∧
      (t.lane p l).fails = (s.lane p l).fails + 1 ∧ Raised (hIng p) 4 t ∧ PortFrame p [(hIng p, 3), (hIng p, 4), (hIng p, 11)] s t) ∧
    ((s.lnSt p l = lnLock ∨ s.lnSt p l = lnTrain) → Gives (.trainTimeout p l) s fun t =>
      t.lnSt p l = lnFailed ∧ t.fld (R.ING_LANE_STATUS_BACKOFF p l) = min (s.lane p l).fails 15 ∧ (t.lane p l).fails = (s.lane p l).fails + 1 ∧ Raised (hIng p) 4 t ∧
      PortFrame p [(hIng p, 3), (hIng p, 4), (hIng p, 11)] s t) ∧
    (s.lnSt p l = lnRetrain → Gives (.retrainTimeout p l) s fun t =>
      t.lnSt p l = lnFailed ∧ t.fld (R.ING_LANE_STATUS_BACKOFF p l) = min (s.lane p l).fails 15 ∧ (t.lane p l).fails = (s.lane p l).fails + 1 ∧ Raised (hIng p) 4 t ∧
      PortFrame p [(hIng p, 3), (hIng p, 4), (hIng p, 11)] s t) ∧
    (s.lnSt p l = lnFailed → s.jesd p = false → Gives (.laneBackoffEnd p l) s fun t =>
      t.lnSt p l = lnDetect ∧ t.fld (R.ING_LANE_STATUS_PRESET p l) = 0 ∧ (t.lane p l).fails = (s.lane p l).fails ∧
      t = { s with ing := t.ing, regs := t.regs, rep := { s.rep with out := .backChannel p (bcFrame (1 + 256 * l)) :: s.rep.out } } ∧ WordsKept s t [R.ING_LANE_STATUS p l]) ∧
    ((s.lnSt p l = lnLock ∨ s.lnSt p l = lnTrain) → Gives (.lossOfSignal p l true) s fun t =>
      t.lnSt p l = lnFailed ∧ t.flag (R.ING_LANE_STATUS_LOS p l) = true ∧ Raised (hIng p) 4 t ∧ PortFrame p [(hIng p, 3), (hIng p, 4), (hIng p, 11)] s t) ∧
    (s.jesd p = false → (s.lnSt p l = lnReady ∨ s.lnSt p l = lnActive) → Gives (.lossOfSignal p l los) s fun t =>
      t.lnSt p l = lnRetrain ∧ (los = true → t.flag (R.ING_LANE_STATUS_LOS p l) = true) ∧ t.flag (R.ING_LANE_STATUS_AM_LOCK p l) = false ∧
      PortFrame p [(hIng p, 0), (hIng p, 3), (hIng p, 8), (hIng p, 11)] s t)

/-- A trained lane in service (R89, R92, R94, R103, R104, R110). Choices of the model: log entries 3, 26, 72. -/
def Obligations.LaneService : Prop :=
  ∀ (s : State) (p : Fin 4) (l : Fin 9) (k : Fin 8) (errs syms : Nat) (found : Bool) (cause : RetrainCause),
    (s.jesd p = false → (s.lnSt p l = lnReady ∨ s.lnSt p l = lnActive) → Gives (.retrainTrigger p l cause) s fun t =>
      t.lnSt p l = lnRetrain ∧ t.pair (R.ING_RETRAIN_CNT p l) = (s.pair (R.ING_RETRAIN_CNT p l) + 1) % 2 ^ 64 ∧ (s.lnSt p l = lnActive → Raised (hIng p) 0 t) ∧
      (s.lnLogical p l ≠ 15 → s.flag (R.ING_PORT_STATUS_CAL_BUSY p) = true → Raised (hIng p) 8 t) ∧
      PortFrame p [(hIng p, 0), (hIng p, 3), (hIng p, 8), (hIng p, 11)] s t) ∧
    (k.val ∈ (s.portSt p).moved → s.lnSt p (s.laneOf p k) = lnActive → Gives (.spareIn p k) s fun t =>
      Raised (hIng p) 2 t ∧ (t.portSt p).moved = (s.portSt p).moved.filter (· != k.val) ∧ (∀ l : Fin 9, t.lnSt p l = s.lnSt p l) ∧
      PortFrame p [(hIng p, 2), (hIng p, 3), (hIng p, 11)] s t) ∧
    ((s.lnSt p l = lnReady ∨ s.lnSt p l = lnActive) → Gives (.serSecond p l errs syms) s fun t =>
      t.wordN (R.ING_LANE_SER p l) = min (errs * 2 ^ 20 / max syms 1) 0xFFFFFFFF ∧ (t.flag (R.ING_LANE_STATUS_DEG p l) = true ↔ syms < errs * 10000) ∧ t.lnSt p l = s.lnSt p l ∧
      PortFrame p [(hIng p, 3), (hIng p, 11)] s t) ∧
    (s.lnSt p l = lnIdle → (s.lane p l).waking = true → ((s.lane p l).prev = lnReady ∨ (s.lane p l).prev = lnActive) → Gives (.laneWakeResume p l false) s fun t =>
      t.lnSt p l = lnLock ∧ (t.lane p l).waking = false ∧ (s.jesd p = false → t.fld (R.ING_LANE_STATUS_PRESET p l) = 0 ∧ Out.backChannel p (bcFrame (2 + 256 * l)) ∈ t.rep.out) ∧
      PortFrame p [(hIng p, 3), (hIng p, 11)] s t) ∧
    (s.lnSt p l = lnIdle → (s.lane p l).waking = true → (s.lane p l).prev = lnActive → Gives (.laneWakeResume p l true) s fun t =>
      t.lnSt p l = lnActive ∧ (t.lane p l).waking = false ∧ t.flag (R.ING_LANE_STATUS_AM_LOCK p l) = true ∧
      (t.lane p l).since = ((s.lane p l).since + codewords (bits (s.portSt p).link 3 2) (s.tclk - (s.lane p l).idleAt)) % 16385 ∧ PortFrame p [(hIng p, 3), (hIng p, 11)] s t) ∧
    (s.lnSt p l = lnIdle → (s.lane p l).waking = true → (s.lane p l).prev ≠ lnReady → (s.lane p l).prev ≠ lnActive →
      ((s.lane p l).prev ≠ lnOff ∨ (s.flag (R.ING_PORT_CFG_EN p) = true ∧ (s.portSt p).cfgBad = false ∧ s.jesd p = false)) → Gives (.laneWakeResume p l found) s fun t =>
      t.lnSt p l = lnDetect ∧ PortFrame p [(hIng p, 3), (hIng p, 11)] s t) ∧
    (s.lnSt p l = lnIdle → (s.lane p l).waking = true → (s.lane p l).prev = lnOff → s.flag (R.ING_PORT_CFG_EN p) = false → Gives (.laneWakeResume p l found) s fun t =>
      t.lnSt p l = lnOff ∧ PortFrame p [(hIng p, 3)] s t) ∧
    (s.jesd p = true → l ≠ 8 → (s.lnSt p l = lnLock ∨ s.lnSt p l = lnDetect ∨ s.lnSt p l = lnRetrain ∨ s.lnSt p l = lnFailed) → Gives (.jesdSyncHeaderLock p l) s fun t =>
      t.lnSt p l = lnActive ∧ t.lnLogical p l = l ∧ (t.portSt p).gone = (s.portSt p).gone.filter (· != l.val) ∧
      ((t.portSt p).gone = [] → t.faultBit (hIng p) 0 = false) ∧ PortFrame p [(hIng p, 3), (hIng p, 11)] s t) ∧
    (s.jesd p = true → l ≠ 8 → s.flag (R.ING_PORT_CFG_EN p) = true → s.lnSt p l ≠ lnActive → l.val ∉ (s.portSt p).gone → (s.portSt p).cfgBad = false → (s.portSt p).idle = false →
      s.portState p ≠ psDead → Gives (.jesdSyncLossTimeout p l) s fun t =>
      t.portState p = psDead ∧ t.faultBit (hIng p) 0 = true ∧ Raised (hIng p) 3 t ∧ PortFrame p [(hIng p, 3)] s t)

/-- Codewords, SYNC blocks, SYSREF and released words (R76, R78 to R85, R91, R98, R99, R103, R104): on a port that delivers nothing every released word is 0 with GAP, on a JESD204C port that delivers
it is the W-bit sample left-aligned in 16 bits; the anchor after a SYNC block shows whether an epoch in doubt is kept. While the die is held in reset no word is released (R28). Choices of the model: log entries 3, 26, 72, 80. -/
def Obligations.LinkData : Prop :=
  ∀ (s : State) (p : Fin 4) (l : Fin 9) (levels : List Level) (c : List Nat) (n : Nat) (rx : SyncRx) (pay : Nat) (a : AnchorTap) (tap : Fin 16) (jesd : JesdRx) (j : Fin 16) (v : Nat) (x : PortSt),
    x = s.portSt p → pay = rx.payload.toNat →
    (s.jesd p = false → s.lnSt p l = lnActive → s.flag (R.ING_LANE_STATUS_AM_LOCK p l) = true → (s.lane p l).since ≠ 16384 → rsCorrect (s.rxSyms p levels) = some (c, n) →
      Gives (.codewordRx p l levels) s fun t =>
        (t.lane p l).since = (s.lane p l).since + 1 ∧ t.pair (R.ING_CW_CORR p l) = (s.pair (R.ING_CW_CORR p l) + if n = 0 then 0 else 1) % 2 ^ 64 ∧ t.lnSt p l = lnActive ∧
        t = { s with ing := t.ing, regs := t.regs } ∧
        WordsKept s t [R.ING_LANE_STATUS p l, R.ING_CW_CORR p l, R.ING_CW_CORR p l + 4, R.ING_BADBLK p, R.ING_BADBLK p + 4]) ∧
    (s.jesd p = false → s.lnSt p l = lnActive → s.flag (R.ING_LANE_STATUS_AM_LOCK p l) = true → (s.lane p l).since ≠ 16384 → rsCorrect (s.rxSyms p levels) = none →
      (s.lane p l).unc.length < 15 → Gives (.codewordRx p l levels) s fun t =>
        t.pair (R.ING_CW_UNCORR p l) = (s.pair (R.ING_CW_UNCORR p l) + 1) % 2 ^ 64 ∧ s.tclk ∈ (t.lane p l).unc ∧ t.lnSt p l = lnActive ∧
        t = { s with ing := t.ing, regs := t.regs, freeCtr := s.freeCtr + 1 } ∧ WordsKept s t [R.ING_LANE_STATUS p l, R.ING_CW_UNCORR p l, R.ING_CW_UNCORR p l + 4]) ∧
    (s.jesd p = false → (s.lnSt p l = lnDetect ∨ s.lnSt p l = lnFailed) → Gives (.codewordRx p l levels) s fun t =>
        t = { s with regs := t.regs } ∧ t.flag (R.ING_LANE_STATUS_LOS p l) = false ∧ t.lnSt p l = s.lnSt p l ∧ WordsKept s t [R.ING_LANE_STATUS p l]) ∧
    (s.jesd p = false → s.flag (R.ING_LANE_STATUS_AM_LOCK p l) = true → bits pay 7 0 = 0x53 → s.lnSt p l = lnActive →
      bits pay 66 64 ≠ bits x.link 10 8 → bits pay 13 12 = s.fld (R.ING_PORT_CFG_PORT_ID p) → Gives (.syncBlock p l rx) s fun t =>
        t.faultBit (hIng p) 1 = true ∧ (t.portSt p).asm = true ∧ t.portState p ≠ psRun ∧ t.portState p ≠ psSpared ∧
        (s.portRuns p = true → s.flag (R.ING_PORT_STATUS_EPOCH_VALID p) = true → (t.portSt p).gapCoast = true) ∧ PortFrame p [(hIng p, 3)] s t) ∧
    (s.jesd p = false → s.flag (R.ING_LANE_STATUS_AM_LOCK p l) = true → bits pay 7 0 = 0x53 → s.lnSt p l = lnActive → s.portRuns p = false → x.recheck = false → x.fmtOk = [] → bits pay 11 8 < 8 →
      bits pay 66 64 = bits x.link 10 8 → bits pay 67 67 = bits x.link 11 11 → bits pay 70 68 = bits x.link 6 4 →
      bits pay 13 12 = s.fld (R.ING_PORT_CFG_PORT_ID p) → Gives (.syncBlock p l rx) s fun t =>
        (t.portSt p).fmtOk = [bits pay 11 8] ∧ (t.lane p l).rxFc = some (bits pay 63 16) ∧ t = { s with ing := t.ing }) ∧
    (s.jesd p = false → s.flag (R.ING_LANE_STATUS_AM_LOCK p l) = true → bits pay 7 0 = 0x53 → s.lnSt p l = lnActive → x.recheck = true → x.asm = false → bits pay 11 8 = 0 → rx.anchor = some a →
      syncBad s p pay = (false, false) → Gives (.syncBlock p l rx) s fun t =>
        (bits pay 63 16 = predictedFc x → anchorNear s p (bits pay 63 16) a = true →
          (t.portSt p).recheck = false ∧ (t.portSt p).gapCoast = false ∧ t.portState p = s.portState p ∧ PortFrame p [] s t) ∧
        (bits pay 63 16 ≠ predictedFc x ∨ anchorNear s p (bits pay 63 16) a = false → (t.portSt p).asm = true ∧ (t.portSt p).gapCoast = true ∧ t.portState p ≠ psRun ∧ t.portState p ≠ psSpared ∧
          PortFrame p [(hIng p, 3)] s t)) ∧
    (s.jesd p = true → s.flag (R.ING_PORT_CFG_EN p) = true → x.sysref = none → (∀ q : Fin 4, q ≠ p → s.flag (R.ING_PORT_CFG_EN q) = false) → Gives (.sysrefEdge tap) s fun t =>
      (t.portSt p).sysref = some (s.clk.dt + tap * 1280) ∧ t.flag (R.ING_PORT_STATUS_SYSREF_OK p) = true ∧ t = { s with ing := t.ing, regs := t.regs } ∧
      WordsKept s t [R.ING_PORT_STATUS p]) ∧
    (s.portRuns p = false → x.relR ≠ 0 → x.relR < 8191 → Analyses (.sampleRelease p jesd) s fun t =>
      (t.portSt p).relR = x.relR + 1 ∧ t.released p = s.released p + 16 ∧ t.pair (R.ING_GAP p) = (s.pair (R.ING_GAP p) + 16) % 2 ^ 64 ∧
      (t.smp p (s.released p + j)).any (fun w => w.v == 0 && bitAt w.psw 3 && (!x.gapCoast || bitAt w.psw 2)) = true) ∧
    (s.jesd p = true → s.portRuns p = true → s.allActive p = true → x.deliver = some 0 → x.relR ≠ 0 → x.relR < 8191 → s.flag (R.ING_PORT_CFG_CLIP_EN p) = false →
      Analyses (.sampleRelease p jesd) s fun t =>
      (t.portSt p).relR = x.relR + 1 ∧ t.released p = s.released p + 16 ∧
      ((∀ i : Fin 16, (jesdWord x.fmt jesd i).isSome = true) → t.pair (R.ING_GAP p) = s.pair (R.ING_GAP p)) ∧
      (jesdWord x.fmt jesd j = some v → (t.smp p (s.released p + j)).any (fun w => w.v == sext (fmtW x.fmt) v * 2 ^ (16 - fmtW x.fmt) && !bitAt w.psw 3) = true) ∧
      (jesdWord x.fmt jesd j = none → (t.smp p (s.released p + j)).any (fun w => w.v == 0 && bitAt w.psw 3) = true))

/-- Epochs and calibration of a port (R98 to R100, R105 to R108): calibrated trims and skews are journalled at the end and reach their values one after the other at frame boundaries; a result outside
its limits fails. Choices of the model: log entries 3, 21, 72, 80. -/
def Obligations.EpochsAndPortCalibration : Prop :=
  ∀ (s : State) (p : Fin 4) (l : Fin 9) (i : Fin 16) (fc : BitVec 48) (a : AnchorTap) (r : PortCalResult) (goal : Int) (rest : List TrimMove) (jesd : JesdRx), (∀ q : Fin 4, (s.portSt q).calDue = false) →
    (s.portState p = psAssemble → s.allActive p = true → (s.portSt p).moved = [] → s.faultBit (hIng p) 1 = false → s.faultBit (hIng p) 2 = false →
      s.flag (R.ING_PORT_STATUS_EPOCH_VALID p) = true → (anchorTime s p a - predictedAnchor s p fc.toNat).natAbs ≤ 5120 → Gives (.epochFix p fc a) s fun t =>
        (t.portSt p).asm = false ∧ (t.portSt p).epFc = (s.portSt p).epFc ∧ (t.portSt p).epTick = (s.portSt p).epTick ∧ t.word (R.ING_PHASE p) = s.word (R.ING_PHASE p) ∧
        PortFrame p [(hIng p, 3), (hIng p, 11)] s t) ∧
    (s.portState p = psAssemble → s.allActive p = true → (s.portSt p).moved = [] → s.faultBit (hIng p) 1 = false → s.faultBit (hIng p) 2 = false →
      (s.flag (R.ING_PORT_STATUS_EPOCH_VALID p) = false ∨ 5120 < (anchorTime s p a - predictedAnchor s p fc.toNat).natAbs) → Gives (.epochFix p fc a) s fun t =>
        t.flag (R.ING_PORT_STATUS_EPOCH_VALID p) = true ∧ ((s.portSt p).anyEp = true → Raised (hIng p) 5 t) ∧ (t.portSt p).asm = false) ∧
    (s.portRuns p = true → s.flag (R.ING_PORT_CFG_EN p) = true → (s.portSt p).cfgBad = false → (s.portSt p).idle = false → (s.portSt p).gone = [] → Gives (.slip p) s fun t =>
      Raised (hIng p) 6 t ∧ t.portState p = psAssemble ∧ (t.portSt p).asm = true ∧ PortFrame p [(hIng p, 6)] s t) ∧
    (s.wordN (R.ING_CAL_PERIOD p) ≠ 0 → s.portRuns p = true → (∀ q : Fin 4, s.flag (R.ING_PORT_STATUS_CAL_BUSY q) = false) → Gives (.portCalDue p) s fun t =>
      t.flag (R.ING_PORT_STATUS_CAL_BUSY p) = true ∧ t = { s with ing := t.ing, regs := t.regs } ∧ WordsKept s t [R.ING_PORT_STATUS p]) ∧
    (s.wordN (R.ING_CAL_PERIOD p) ≠ 0 → (∃ q : Fin 4, s.flag (R.ING_PORT_STATUS_CAL_BUSY q) = true) → Gives (.portCalDue p) s fun t =>
      t = { s with ing := { s.ing with port := Tbl.set s.ing.port p { s.portSt p with calDue := true } } }) ∧
    (s.flag (R.ING_PORT_STATUS_CAL_BUSY p) = true → r.wf = true → calResultOk r = true → Gives (.portCalEnd p (some r)) s fun t =>
      t.flag (R.ING_PORT_STATUS_CAL_BUSY p) = false ∧ ({ off := R.ING_TRIM p l i, w := 12, goal := (r.trims.getD l []).getD i 0 } : TrimMove) ∈ (t.portSt p).trimTo ∧
      ({ off := R.ING_LANE_SKEW p l, w := 32, goal := r.laneSkew.getD l 0 } : TrimMove) ∈ (t.portSt p).trimTo ∧
      (t.portSt p).skewTo = some r.portSkew ∧ (t.portSt p).phaseTo = some r.phase ∧ ({ typ := 2, key := p, vals := [r.portSkew] } : JItem) ∈ t.jq ∧ Raised (hIng p) 7 t ∧
      PortFrame p [(hIng p, 7)] s t) ∧
    (s.portRuns p = false → (s.portSt p).relR = 0 → (s.portSt p).trimTo = { off := R.ING_TRIM p l i, w := 12, goal := goal } :: rest → (s.portSt p).skewTo = none → (s.portSt p).phaseTo = none →
      -2048 ≤ goal → goal ≤ 2047 → sext 12 (s.wordN (R.ING_TRIM p l i)) ≠ goal → Analyses (.sampleRelease p jesd) s fun t =>
        sext 12 (t.wordN (R.ING_TRIM p l i)) = sext 12 (s.wordN (R.ING_TRIM p l i)) + clampI (-1280) 1280 (goal - sext 12 (s.wordN (R.ING_TRIM p l i)))) ∧
    (s.flag (R.ING_PORT_STATUS_CAL_BUSY p) = true → calResultOk r = false → Gives (.portCalEnd p (some r)) s fun t =>
      t = { s with ing := t.ing, regs := t.regs, rep := t.rep } ∧ t.flag (R.ING_PORT_STATUS_CAL_BUSY p) = false ∧ (t.portSt p).trimTo = (s.portSt p).trimTo ∧ WordsKept s t [R.ING_PORT_STATUS p] ∧
      Event (hIng p) 8 s t) ∧
    (s.flag (R.ING_PORT_STATUS_CAL_BUSY p) = true → Gives (.portCalEnd p none) s fun t =>
      t = { s with ing := { s.ing with port := Tbl.set s.ing.port p { s.portSt p with cals := ((s.portSt p).calAt, s.tick) :: (s.portSt p).cals } }, regs := t.regs, rep := t.rep } ∧
      t.flag (R.ING_PORT_STATUS_CAL_BUSY p) = false ∧ WordsKept s t [R.ING_PORT_STATUS p] ∧ Event (hIng p) 8 s t)

/-! Transform reaches (spec/05). -/

/-- Completed frames of the three reaches and the deep reach's level-2 update (R127, R131, R137, R139, R141 to R143, R149, R259): the frame that `takeFrame` names is counted and leaves its grid; a mid-reach
frame joins the integration or ends it; a short-reach frame is exported when SNAP waits for it; pass A stores T in the region and pass B and level 2 store the sums.  A mid reach writes only Pool banks that it
owns (R271). While the die is held in reset nothing of this happens (R28). Choices of the model: log entries 3, 64, 73, 80. -/
def Obligations.ReachFrames : Prop :=
  ∀ (s : State) (p : Fin 4) (k : Fin 3) (g : Grid) (j : Nat) (n : Nat) (i : Integ) (fr : DrFrame) (rest : List DrFrame) (base : Nat) (a : Nat),
    n = (match (s.reach k p).integ with | some i => i.frames | none => 0) →
    base = drBase s p + (s.reach 2 p).tSeq % (2 * (1 + (g.set 2 p).ovl)) * 6 * g.bins 2 p →
    (k = 0 → (takeFrame 0 p s).1 = some (g, j) → Analyses (.srFrameDone p) s fun t =>
      t.pair (R.XRH_FRAMES 0 p) = (s.pair (R.XRH_FRAMES 0 p) + 1) % 2 ^ 64 ∧ (t.reach 0 p).grids = ((takeFrame 0 p s).2.reach 0 p).grids ∧
      ((s.reach 0 p).snap = [g.origin + g.wordOff (j * (g.set 0 p).hop)] → (t.reach 0 p).snap = [] ∧ (t.reach 0 p).prodSeq = ((s.reach 0 p).prodSeq + 1) % 2 ^ 32) ∧
      ((s.reach 0 p).snap = [] → (g.set 0 p).expEn = false → (t.reach 0 p).prodSeq = (s.reach 0 p).prodSeq ∧ (t.reach 0 p).segs = (s.reach 0 p).segs) ∧
      (∀ q : Fin 4, t.reach 1 q = s.reach 1 q ∧ t.reach 2 q = s.reach 2 q ∧ (q ≠ p → t.reach 0 q = s.reach 0 q))) ∧
    (k = 1 → (takeFrame 1 p s).1 = some (g, j) → Analyses (.mrFrameDone p) s fun t =>
      t.pair (R.XRH_FRAMES 1 p) = (s.pair (R.XRH_FRAMES 1 p) + 1) % 2 ^ 64 ∧ (t.reach 1 p).grids = ((takeFrame 1 p s).2.reach 1 p).grids ∧
      (integEnds (g.set 1 p) g j (n + 1) = false → (t.reach 1 p).integ.map Integ.frames = some (n + 1) ∧ (t.reach 1 p).prodSeq = (s.reach 1 p).prodSeq) ∧
      (integEnds (g.set 1 p) g j (n + 1) = true → (t.reach 1 p).integ = none ∧ Raised (hRch 1 p) 3 t) ∧
      t = { s with rch := t.rch, regs := t.regs, rep := t.rep, mem := t.mem, poison := t.poison, rsv := t.rsv } ∧
      (memGet t.mem a ≠ memGet s.mem a → s.ownsBanks (hRch 1 p) ((a - poolBase) / bankBytes) 1 = true) ∧ WordsWithin s t (hRch 1 p) (hRch 1 p + 0x1000) ∧
      RepFrame [] [(hRch 1 p, 0), (hRch 1 p, 3), (hRch 1 p, 4), (hRch 1 p, 7)] [] s t) ∧
    (k = 2 → (takeFrame 2 p s).1 = some (g, j) → Analyses (.drPassADone p) s fun t =>
      (t.reach 2 p).grids = ((takeFrame 2 p s).2.reach 2 p).grids ∧ (t.reach 2 p).tSeq = (s.reach 2 p).tSeq + 1 ∧
      (∃ f : DrFrame, (t.reach 2 p).passA = (s.reach 2 p).passA ++ [f] ∧ f.num = j ∧ f.grid = g ∧ f.base = base ∧ (ringEnough s p (g.set 2 p) = false → f.psw = pswGap) ∧
        ((a < base ∨ base + (tBytes f.t).length ≤ a) → memGet t.mem a = memGet s.mem a) ∧
        (s.rsv.lost = [] → memWf s.mem = true → t.memRead base (tBytes f.t).length = tBytes f.t)) ∧
      t.faultBit (hRch 2 p) 1 = ((s.rset 2 p).en && !s.slave p && !ringEnough s p (s.rset 2 p)) ∧
      t = { s with rch := t.rch, rep := t.rep, mem := t.mem, poison := t.poison, rsv := t.rsv } ∧ RepFrame [] [] [hRch 2 (p - p % 2), hRch 2 (p - p % 2 + 1)] s t) ∧
    (k = 2 → (s.reach 2 p).passA = fr :: rest → Analyses (.drPassBDone p) s fun t =>
      (t.reach 2 p).passA = rest ∧ t.pair (R.XRH_FRAMES 2 p) = (s.pair (R.XRH_FRAMES 2 p) + 1) % 2 ^ 64 ∧
      (integEnds (fr.grid.set 2 p) fr.grid fr.num (n + 1) = false → (t.reach 2 p).integ.map Integ.frames = some (n + 1)) ∧
      (integEnds (fr.grid.set 2 p) fr.grid fr.num (n + 1) = true → (t.reach 2 p).integ = none ∧ Raised (hRch 2 p) 3 t) ∧
      ((s.reach 2 p).integ = some i → a < i.at1 → a < i.at2 → memGet t.mem a = memGet s.mem a) ∧
      ((s.reach 2 p).integ = none → a < drBase s p + 12 * (1 + (fr.grid.set 2 p).ovl) * fr.grid.bins 2 p → (s.reach 2 p).lastPw = none → memGet t.mem a = memGet s.mem a) ∧
      t = { s with rch := t.rch, regs := t.regs, rep := t.rep, mem := t.mem, poison := t.poison, rsv := t.rsv } ∧ WordsWithin s t (hRch 2 p) (hRch 2 p + 0x1000) ∧
      RepFrame [] [(hRch 2 p, 0), (hRch 2 p, 3), (hRch 2 p, 5)] [] s t) ∧
    (k = 2 → (s.reach 2 p).late = true → (s.reach 2 p).integ = some i → (s.reach 2 p).owed = true → Analyses (.level2UpdateDone p) s fun t =>
      t = { s with rch := t.rch, mem := t.mem, poison := t.poison, rsv := t.rsv } ∧ (t.reach 2 p).owed = false ∧ (t.reach 2 p).late = true ∧ (t.reach 2 p).integ.map Integ.lvl1 = some [] ∧
      (s.poisoned i.at1 (4 * i.lvl1.length) = false → s.poisoned i.at2 (8 * i.sum.length) = false →
        t.rch = (s.setReach 2 p { s.reach 2 p with owed := false, integ := some { i with sum := addAll i.sum i.lvl1, lvl1 := [] } }).rch) ∧
      (a < i.at2 → memGet t.mem a = memGet s.mem a)) ∧
    (k = 2 → (s.reach 2 p).late = true → (s.reach 2 p).owed = false → Analyses (.level2UpdateDone p) s fun t =>
      t = s.setReach 2 p { s.reach 2 p with late := false })

/-- A reach's segments, commit point, commands and window table (R117, R118, R121, R132, R134, R140, R149). While the die is held in reset no segment completes (R28). Choices of the model: log entries 3, 27, 73, 80. -/
def Obligations.ReachControl : Prop :=
  ∀ (s : State) (k : Fin 3) (p : Fin 4) (sg : Seg) (rest : List Seg) (ws : Tbl Nat) (b : Fin 2) (j : Fin 32768) (val : Word) (be : BitVec 4) (a : Nat) (g : Grid) (fr : DrFrame) (fs : List DrFrame),
    ((s.reach k p).segs = sg :: rest → sg.buf < 64 → s.full sg.buf = false → memWf s.mem = true → Analyses (.segmentDone k p) s fun t =>
      t.full sg.buf = true ∧ t.memRead (eddyBase + sg.buf * 0x8000) sg.bytes.length = sg.bytes ∧ (t.reach k p).segs = rest ∧
      ((a < eddyBase + sg.buf * 0x8000 ∨ eddyBase + sg.buf * 0x8000 + sg.bytes.length ≤ a) → memGet t.mem a = memGet s.mem a) ∧
      WordsKept s t [R.EDDY_FULL (sg.buf / 32), R.EDDY_WCOL, R.EDDY_WCOL + 4] ∧ RepFrame [] [(hEddy, 0)] [] s t) ∧
    ((s.reach k p).segs = sg :: rest → s.full sg.buf = true → Analyses (.segmentDone k p) s fun t =>
      t.pair (R.XRH_DROP k p) = (s.pair (R.XRH_DROP k p) + 1) % 2 ^ 64 ∧ Event (hRch k p) 2 s t ∧
      t = { s.setReach k p { s.reach k p with segs := rest } with regs := t.regs, rep := t.rep } ∧ WordsKept s t [R.XRH_DROP k p, R.XRH_DROP k p + 4]) ∧
    (s.snapOf (hRch k p) = some ws → reachLegal (overlay s ws) k p = false → Gives (.reachCommit k p) s fun t =>
      t = { s with snaps := s.snaps.filter (fun x => x.hdr != hRch k p), rep := t.rep } ∧ Event (hRch k p) 1 s t) ∧
    (s.snapOf (hRch k p) = some ws → reachLegal (overlay s ws) k p = true → Gives (.reachCommit k p) s fun t =>
      t.snapOf (hRch k p) = none ∧ t.rset k p = (overlay s ws).rset k p ∧ t.faultBit (hRch k p) 0 = false) ∧
    (s.cmdBusy (hRch 0 p) = false → s.slave p = false → (s.rset 0 p).en = true → Gives (.srSnap p) s fun t =>
      t = { s.setReach 0 p { s.reach 0 p with snap := (s.reach 0 p).snap ++ [s.released p] } with rep := t.rep } ∧ Finished (hRch 0 p) 1 .ok s t) ∧
    (s.cmdBusy (hRch 0 p) = false → (s.slave p = true ∨ (s.rset 0 p).en = false) → Gives (.srSnap p) s (TurnedAway (hRch 0 p) 1 .state s)) ∧
    (k ≠ 0 → s.cmdBusy (hRch k p) = false → (s.slave p = true ∨ (s.rset k p).en = false ∨ (s.rset k p).f = 1) → Gives (.cut k p) s (TurnedAway (hRch k p) 1 .state s)) ∧
    (k ≠ 0 → s.cmdBusy (hRch k p) = false → s.slave p = false → (s.rset k p).en = true → (s.rset k p).f ≠ 1 → (s.reach k p).integ ≠ none → (s.reach k p).passA = [] →
      (s.reach k p).grids ≠ [] → (s.reach k p).grids.all (fun g => decide (g.stop.getD (g.begun s k p) ≤ g.next)) = true → Gives (.cut k p) s fun t =>
      (t.reach k p).integ = none ∧ Raised (hRch k p) 3 t ∧ Done (hRch k p) 1 .ok t ∧ t = { s with rch := t.rch, regs := t.regs, rep := t.rep } ∧
      WordsKept s t [R.XRH_SAT k p, R.XRH_SAT k p + 4] ∧ RepFrame (hRch k p :: basinsOf (hRch k p)) [(hRch k p, 0), (hRch k p, 3)] [] s t) ∧
    (k ≠ 0 → s.cmdBusy (hRch k p) = false → s.slave p = false → (s.rset k p).en = true → (s.rset k p).f ≠ 1 → (s.reach k p).grids = [g] → g.stop = none → g.next < g.begun s k p →
      Gives (.cut k p) s fun t => t = { s.setReach k p { s.reach k p with grids := [{ g with cuts := g.begun s k p :: g.cuts }] } with rep := t.rep } ∧ Finished (hRch k p) 1 .ok s t) ∧
    (k ≠ 0 → s.cmdBusy (hRch k p) = false → s.slave p = false → (s.rset k p).en = true → (s.rset k p).f ≠ 1 →
      (s.reach k p).grids.all (fun g => decide (g.stop.getD (g.begun s k p) ≤ g.next)) = true → (s.reach k p).passA = fs ++ [fr] → Gives (.cut k p) s fun t =>
      t = { s.setReach k p { s.reach k p with passA := fs ++ [{ fr with grid := { fr.grid with cuts := (fr.num + 1) :: fr.grid.cuts } }] } with rep := t.rep } ∧ Finished (hRch k p) 1 .ok s t) ∧
    (s.cmdBusy (hRch 2 p) = false → s.slave p = false → (s.rset 2 p).en = true → s.bonded p = false → drNeed s p (s.rset 2 p) ≤ s.wordN (R.DRH_CMD_ARG p) →
      reserved s p (s.wordN (R.DRH_CMD_ARG p)) ≤ s.wordN R.RSV_COMMITTED → Gives (.reserve p) s fun t =>
      t.word (R.DRH_RSV p) = s.word (R.DRH_CMD_ARG p) ∧ t.word (R.RSV_RES_DR p) = s.word (R.DRH_CMD_ARG p) ∧ t = { s with regs := t.regs, rep := t.rep } ∧
      WordsKept s t [R.DRH_RSV p, R.RSV_RES_DR p] ∧ Finished (hRch 2 p) 2 .ok s t) ∧
    (s.cmdBusy (hRch 2 p) = false → s.slave p = false → (s.rset 2 p).en = true → s.bonded p = false → s.wordN (R.DRH_CMD_ARG p) < drNeed s p (s.rset 2 p) →
      Gives (.reserve p) s (TurnedAway (hRch 2 p) 2 .range s)) ∧
    (s.cmdBusy (hRch 2 p) = false → s.slave p = false → (s.rset 2 p).en = true → s.bonded p = false → drNeed s p (s.rset 2 p) ≤ s.wordN (R.DRH_CMD_ARG p) →
      s.wordN R.RSV_COMMITTED < reserved s p (s.wordN (R.DRH_CMD_ARG p)) → Gives (.reserve p) s (TurnedAway (hRch 2 p) 2 .budget s)) ∧
    (bankUsers s p b = [] → Gives (.utabWrite p b j val be) s fun t =>
      t.userCoef p b j = sext 18 (mergeBe (enc 32 (s.userCoef p b j)) val.toNat be.toNat) ∧
      t = { s with rch := { s.rch with utab := Tbl.set s.rch.utab ((2 * p.val + b.val) * 32768 + j.val) (enc 18 (t.userCoef p b j)) } }) ∧
    (bankUsers s p b = [k.val] → Gives (.utabWrite p b j val be) s fun t => t = { s with rep := t.rep } ∧ Event (hRch k p) 6 s t)

/-! Detectors and silt planes (spec/06). -/

/-- A plane with one buffer or state replaced, all else of the machine as it was. -/
def Sys2Proof.Claims.OnlyPlane (s t : State) (p n : Nat) : Prop := t = { s with slt := { s.slt with plane := Tbl.set s.slt.plane (4 * p + n) (t.plane p n) }, rep := t.rep }

/-- Trace records and spectrogram tiles on their way to memory (R160, R174), and a slot that software frees: `k` is the slot that R160 names, `off` the place of the tile in its region.  A record goes to Pool
banks only where the unit owns them (R271). While the die is held in reset no update completes (R28). Choices of the model: log entries 3, 65, 74, 80. -/
def Obligations.TraceRecordsAndTiles : Prop :=
  ∀ (s : State) (p : Fin 4) (t : Fin 8) (k : Fin 2) (r : TrRec) (rest : List TrRec) (bs : List Byte) (val : Word) (ta off n a b : Nat),
    b = poolBase + (r.first + k * r.banks) * bankBytes → n = cdiv bs.length 4096 * 4096 →
    off = (if (s.spg p).nextOff + n ≤ s.wordN (R.DET_SPG_REGION_SIZE p) * 2 ^ 20 then (s.spg p).nextOff else 0) →
    ((s.trace p t).done = r :: rest → bitAt (s.wordN (R.DET_TR_STATUS p t)) 0 = true → bitAt (s.wordN (R.DET_TR_STATUS p t)) 1 = true → Analyses (.traceUpdateDone p t) s fun t' =>
      t'.pair (R.DET_TR_DROP p t) = (s.pair (R.DET_TR_DROP p t) + 1) % 2 ^ 64 ∧ Event (hDet p) 9 s t' ∧
      t' = { s.setTrace p t { s.trace p t with done := rest } with regs := t'.regs, rep := t'.rep } ∧ WordsKept s t' [R.DET_TR_DROP p t, R.DET_TR_DROP p t + 4]) ∧
    ((s.trace p t).done = r :: rest → bitAt (s.wordN (R.DET_TR_STATUS p t)) k = false → (k.val + (s.trace p t).lastSlot = 1 ∨ bitAt (s.wordN (R.DET_TR_STATUS p t)) (1 - k) = true) →
      memWf s.mem = true → Analyses (.traceUpdateDone p t) s fun t' =>
      t'.wordN (R.DET_TR_STATUS p t) = s.wordN (R.DET_TR_STATUS p t) + 2 ^ k.val ∧ Event (hDet p) t s t' ∧
      t' = { s.setTrace p t { s.trace p t with done := rest, lastSlot := k } with regs := t'.regs, mem := t'.mem, poison := t'.poison, rep := t'.rep } ∧
      WordsKept s t' [R.DET_TR_STATUS p t] ∧ ((a < b ∨ b + r.bytes.length ≤ a) → memGet t'.mem a = memGet s.mem a) ∧
      (s.ownsBanks (hDet p) (r.first + k * r.banks) ((b + r.bytes.length - 1 - poolBase) / bankBytes + 1 - (r.first + k * r.banks)) = true → t'.memRead b r.bytes.length = r.bytes) ∧
      (s.ownsBanks (hDet p) (r.first + k * r.banks) ((b + r.bytes.length - 1 - poolBase) / bankBytes + 1 - (r.first + k * r.banks)) = false → t'.mem = s.mem ∧ t'.poison = s.poison)) ∧
    (Gives (.traceSlotFree p t val) s fun t' => t' = { s with regs := t'.regs } ∧ WordsKept s t' [R.DET_TR_STATUS p t] ∧
      ∀ j : Fin 32, bitAt (t'.wordN (R.DET_TR_STATUS p t)) j = (bitAt (s.wordN (R.DET_TR_STATUS p t)) j && (!bitAt val.toNat j || bitAt (s.justSet (R.DET_TR_STATUS p t)) j))) ∧
    ((s.spg p).writing = some (ta, bs) → s.wordN (R.DET_SPG_REGION_SIZE p) * 2 ^ 20 < n → Gives (.tileWriteDone p) s fun t' =>
      t'.pair (R.DET_SPG_TDROP p) = (s.pair (R.DET_SPG_TDROP p) + 1) % 2 ^ 64 ∧ Event (hDet p) 10 s t' ∧
      t' = { s.setSpg p { s.spg p with writing := none } with regs := t'.regs, rep := t'.rep } ∧ WordsKept s t' [R.DET_SPG_TDROP p, R.DET_SPG_TDROP p + 4]) ∧
    ((s.spg p).writing = some (ta, bs) → n ≤ s.wordN (R.DET_SPG_REGION_SIZE p) * 2 ^ 20 → memWf s.mem = true → s.rsv.lost = [] → Gives (.tileWriteDone p) s fun t' =>
      t'.wordN (R.DET_SPG_WOFF p) = off % 2 ^ 32 ∧ t'.wordN (R.DET_SPG_WSEQ p) = (s.wordN (R.DET_SPG_WSEQ p) + 1) % 2 ^ 32 ∧
      t'.memRead (s.wordN (R.DET_SPG_REGION_LO p) + 2 ^ 32 * s.wordN (R.DET_SPG_REGION_HI p) + off) bs.length = tileRead s ta bs ∧ (s.poisoned ta bs.length = false → tileRead s ta bs = bs) ∧
      ((a < s.wordN (R.DET_SPG_REGION_LO p) + 2 ^ 32 * s.wordN (R.DET_SPG_REGION_HI p) + off ∨
        s.wordN (R.DET_SPG_REGION_LO p) + 2 ^ 32 * s.wordN (R.DET_SPG_REGION_HI p) + off + bs.length ≤ a) → memGet t'.mem a = memGet s.mem a) ∧
      (t'.spg p).writing = none ∧ (t'.spg p).nextOff = off + n ∧
      t' = { s.setSpg p (t'.spg p) with regs := t'.regs, mem := t'.mem, poison := t'.poison } ∧ WordsKept s t' [R.DET_SPG_WOFF p, R.DET_SPG_WSEQ p])

/-- Buffers of a silt plane (R168, R169, R171, R172, R179): the end of a period swaps or, while the other buffer is not READY, extends it once with OVERRUN; a clear that ends; a decay pass that falls due and its
end.  A pass takes max(c >> DSH, min(c, 1)) from every counter c. While the die is held in reset no period ends and no pass starts (R28). Choices of the model: log entries 3, 65, 80. -/
def Obligations.PlaneBuffers : Prop :=
  ∀ (s : State) (p n : Fin 4) (x : Plane) (b : Fin 2) (c w : Nat), x = s.plane p n →
    (plEn s p n = true → plDbuf (s.wordN (R.SLT_PL_CFG p n)) = true → x.on = true → (x.swap = true ∨ plPer s p n ≤ x.liveBuf.frames) → (x.buf (1 - x.live)).st = .ready →
      Analyses (.planePeriodEnd p n) s fun t =>
        (t.plane p n).buf x.live = { x.liveBuf with st := .full, psw := x.liveBuf.psw ||| s.memDeg } ∧
        (t.plane p n).live = 1 - x.live ∧ (t.plane p n).liveBuf.st = .live ∧ (t.plane p n).liveBuf.cnt = [] ∧ (t.plane p n).liveBuf.frames = 0 ∧
        (t.plane p n).seq = (x.seq + 1) % 2 ^ 32 ∧ (t.plane p n).liveBuf.seq = (x.seq + 1) % 2 ^ 32 ∧ (t.plane p n).swap = false ∧ (t.plane p n).on = true ∧
        OnlyPlane s t p n ∧ Event (hSlt p) n s t) ∧
    (plEn s p n = true → plDbuf (s.wordN (R.SLT_PL_CFG p n)) = true → x.on = true → (x.swap = true ∨ plPer s p n ≤ x.liveBuf.frames) → (x.buf (1 - x.live)).st ≠ .ready →
      x.ovr = false → Analyses (.planePeriodEnd p n) s fun t =>
        t.pair (R.SLT_PL_OVERRUN p n) = (s.pair (R.SLT_PL_OVERRUN p n) + 1) % 2 ^ 64 ∧ Event (hSlt p) 4 s t ∧
        t = { s.setPlane p n { x.setBuf x.live { x.liveBuf with flags := x.liveBuf.flags ||| 8 } with ovr := true } with regs := t.regs, rep := t.rep } ∧
        WordsKept s t [R.SLT_PL_OVERRUN p n, R.SLT_PL_OVERRUN p n + 4]) ∧
    ((x.on = false ∨ plEn s p n = false ∨ plDbuf (s.wordN (R.SLT_PL_CFG p n)) = false ∨ (x.swap = false ∧ x.liveBuf.frames < plPer s p n) ∨
        ((x.buf (1 - x.live)).st ≠ .ready ∧ x.ovr = true)) → Analyses (.planePeriodEnd p n) s fun t => t = s) ∧
    ((x.buf b).st = .clearing → bitAt x.clearing b = false → Gives (.planeClearDone p n b) s fun t =>
        ((t.plane p n).buf b).st = .ready ∧ ((t.plane p n).buf b).cnt = [] ∧ ((t.plane p n).buf b).frames = 0 ∧ (t.plane p n).buf (1 - b) = x.buf (1 - b) ∧
        (t.plane p n).live = x.live ∧ (t.plane p n).on = x.on ∧ OnlyPlane s t p n ∧ t.rep = s.rep) ∧
    ((x.buf b).st = .clearing → x.clearing = 2 ^ b.val → x.live < 2 → Gives (.planeClearDone p n b) s fun t =>
        (t.plane p n).on = true ∧ (t.plane p n).clearing = 0 ∧ (t.plane p n).live = x.live ∧ (t.plane p n).liveBuf.st = .live ∧ (t.plane p n).liveBuf.cnt = [] ∧
        (t.plane p n).liveBuf.frames = 0 ∧ ((t.plane p n).liveBuf.flags = if x.susp then 4 else 0) ∧ OnlyPlane s t p n ∧ t.rep = s.rep) ∧
    ((x.buf b).st ≠ .clearing → Gives (.planeClearDone p n b) s fun t => t = s) ∧
    (plEn s p n = true → plDbuf (s.wordN (R.SLT_PL_CFG p n)) = false → s.fld (R.SLT_PL_DECAY_DSH p n) ≠ 0 → x.on = true → x.decayAt < x.counted →
      x.counted % plPer s p n = 0 → x.decaying = false → Analyses (.decayPassStart p n) s fun t =>
        ((c, w) ∈ x.liveBuf.cnt → w ≠ max (w / 2 ^ s.fld (R.SLT_PL_DECAY_DSH p n)) (min w 1) →
          (c, w - max (w / 2 ^ s.fld (R.SLT_PL_DECAY_DSH p n)) (min w 1)) ∈ (t.plane p n).liveBuf.cnt) ∧
        ((t.plane p n).liveBuf.cnt.all (fun e => e.2 != 0 && x.liveBuf.cnt.any (fun o => o.1 == e.1 && o.2 - max (o.2 / 2 ^ s.fld (R.SLT_PL_DECAY_DSH p n)) (min o.2 1) == e.2)) = true) ∧
        (t.plane p n).decaying = true ∧ (t.plane p n).liveBuf.frames = x.liveBuf.frames ∧ OnlyPlane s t p n ∧ t.rep = s.rep) ∧
    (plEn s p n = true → plDbuf (s.wordN (R.SLT_PL_CFG p n)) = false → s.fld (R.SLT_PL_DECAY_DSH p n) ≠ 0 → x.on = true → x.decayAt < x.counted →
      x.counted % plPer s p n = 0 → x.decaying = true → Analyses (.decayPassStart p n) s fun t =>
        t.wordN (R.SLT_PL_DECAY_SKIP p n) = min (s.wordN (R.SLT_PL_DECAY_SKIP p n) + 1) 0xFFFFFFFF ∧ Event (hSlt p) 7 s t ∧
        t = { s.setPlane p n { x with decayAt := x.counted } with regs := t.regs, rep := t.rep } ∧ WordsKept s t [R.SLT_PL_DECAY_SKIP p n]) ∧
    (Gives (.decayPassDone p n) s fun t => t = s.setPlane p n { x with decaying := false })

/-- Commands of the detector and silt units (R158, R169, R180, R181): the slave of a bond answers STATE; an empty mask RANGE. Choices of the model: log entry 10. -/
def Obligations.DetectorAndSiltCommands : Prop :=
  ∀ (s : State) (p m : Fin 4) (j : Fin 8) (x : Plane) (b : Nat) (n : Nat), x = s.plane p m → n = s.fld (R.SLT_CMD_ARG_PLANE p) → b = s.fld (R.SLT_CMD_ARG_BUF p) →
    (s.cmdBusy (hDet p) = false → s.slave p = false → s.fld (R.DET_CMD_ARG_MASK p) ≠ 0 → Gives (.detClear p) s fun t =>
      t.trace p j = (if bitAt (s.fld (R.DET_CMD_ARG_MASK p)) j then { s.trace p j with run := none, hold := none, holdFrames := 0, holdPsw := 0, frames := (t.trace p j).frames, acc := (t.trace p j).acc, sum := (t.trace p j).sum, psw := (t.trace p j).psw } else s.trace p j) ∧
      (bitAt (s.fld (R.DET_CMD_ARG_MASK p)) j = true → (t.trace p j).frames = if trRunAvg s p j then 0 else (s.trace p j).frames) ∧
      (m ≠ p → t.trace m j = s.trace m j) ∧ t = { s with slt := { s.slt with trace := t.slt.trace }, rep := t.rep } ∧ Finished (hDet p) 1 .ok s t) ∧
    (s.cmdBusy (hDet p) = false → s.slave p = false → s.fld (R.DET_CMD_ARG_MASK p) = 0 → Gives (.detClear p) s (TurnedAway (hDet p) 1 .range s)) ∧
    (s.cmdBusy (hSlt p) = false → s.slave p = false → s.fld (R.SLT_CMD_ARG_MASK p) ≠ 0 → Gives (.sltClear p) s fun t =>
      t.plane p m = (if bitAt (s.fld (R.SLT_CMD_ARG_MASK p)) m && x.on then
        { x.setBuf x.live { x.liveBuf with st := .clearing } with on := false, clearing := 2 ^ x.live, ovr := false, swap := false, decaying := false } else x) ∧
      t = { s with slt := { s.slt with plane := t.slt.plane }, rep := t.rep } ∧ Finished (hSlt p) 1 .ok s t) ∧
    (s.cmdBusy (hSlt p) = false → s.slave p = false → s.fld (R.SLT_CMD_ARG_MASK p) = 0 → Gives (.sltClear p) s (TurnedAway (hSlt p) 1 .range s)) ∧
    (s.cmdBusy (hSlt p) = false → s.slave p = false → ((s.plane p n).buf b).st = .full → Gives (.sltRelease p) s fun t =>
      t = { s.setPlane p n ((s.plane p n).setBuf b { (s.plane p n).buf b with st := .clearing }) with rep := t.rep } ∧ Finished (hSlt p) 2 .ok s t) ∧
    (s.cmdBusy (hSlt p) = false → s.slave p = false → ((s.plane p n).buf b).st ≠ .full → Gives (.sltRelease p) s (TurnedAway (hSlt p) 2 .state s)) ∧
    (s.cmdBusy (hSlt p) = false → s.slave p = false → plEn s p n = true → plDbuf (s.wordN (R.SLT_PL_CFG p n)) = true → Gives (.swap p) s fun t =>
      t = { s.setPlane p n { s.plane p n with swap := true } with rep := t.rep } ∧ Finished (hSlt p) 3 .ok s t) ∧
    (s.cmdBusy (hSlt p) = false → s.slave p = false → (plEn s p n = false ∨ plDbuf (s.wordN (R.SLT_PL_CFG p n)) = false) → Gives (.swap p) s (TurnedAway (hSlt p) 3 .state s)) ∧
    (s.cmdBusy (hDet p) = false → s.slave p = true → Gives (.detClear p) s (TurnedAway (hDet p) 1 .state s)) ∧
    (s.cmdBusy (hSlt p) = false → s.slave p = true → Gives (.sltClear p) s (TurnedAway (hSlt p) 1 .state s) ∧ Gives (.sltRelease p) s (TurnedAway (hSlt p) 2 .state s) ∧
      Gives (.swap p) s (TurnedAway (hSlt p) 3 .state s))

/-- Commit points of the detector and silt units (R158, R159, R177 to R179) and writes to the colour tables (R175, R176): with earlier frames in
flight the commit point waits for them. Choices of the model: log entries 65, 74. -/
def Obligations.DetectorAndSiltCommit : Prop :=
  ∀ (s : State) (p : Fin 4) (j : Fin 8) (m : Fin 4) (ws : Tbl Nat) (l : Fin 4) (b : Fin 2) (i : Fin 1024) (val : Word) (be : BitVec 4) (o key a : Nat) (u : State), key = (2 * l + b) * 1024 + i → u = dropSnap (hDet p) s →
    (s.snapOf (hDet p) = some ws → srRuns s p = true → s.slt.due = [] → s.flyingBefore p (nextFrameWord s p) = true → Gives (.detSltCommit false p) s fun t =>
      t = { u with slt := { s.slt with due := [{ p := p, w := nextFrameWord s p, act := .det ws }] } }) ∧
    (s.snapOf (hDet p) = some ws → srRuns s p = true → s.slt.due = [] → s.flyingBefore p (nextFrameWord s p) = false → detBad (overlay s ws) p ≠ none → Gives (.detSltCommit false p) s fun t =>
      t = { s with snaps := s.snaps.filter (fun x => x.hdr != hDet p), rep := t.rep } ∧ Event (hDet p) 11 s t) ∧
    (s.snapOf (hDet p) = some ws → srRuns s p = true → s.slt.due = [] → s.flyingBefore p (nextFrameWord s p) = false → detBad (overlay s ws) p = none → Gives (.detSltCommit false p) s fun t =>
      t.snapOf (hDet p) = none ∧ trMap t p j = trMap (overlay s ws) p j ∧ trEn t p j = trEn (overlay s ws) p j ∧ trDet t p j = trDet (overlay s ws) p j ∧
      t.fld (R.DET_TR_SLOT_BANKS p j) = trBanks (overlay s ws) p j ∧ t.faultBit (hDet p) 1 = false ∧ (trEn s p j = true → (t.trace p j).frames = 0) ∧
      (traceKey s p j ≠ traceKey (overlay s ws) p j → (t.trace p j).run = none ∧ (t.trace p j).hold = none) ∧ (t.spg p).lines = [] ∧ t.slt.plane = s.slt.plane ∧
      (memGet t.mem a ≠ memGet s.mem a → s.ownsBanks (hDet p) ((a - poolBase) / bankBytes) 1 = true)) ∧
    (s.snapOf (hSlt p) = some ws → srRuns s p = true → s.slt.due = [] → s.flyingBefore p (nextFrameWord s p) = false → (List.range 4).all (fun n => !planeChanged s (overlay s ws) p n || canSwap (s.plane p n)) = true →
      sltBad s (overlay s ws) p ≠ none → Gives (.detSltCommit true p) s fun t =>
      t = { s with snaps := s.snaps.filter (fun x => x.hdr != hSlt p), rep := t.rep } ∧ Event (hSlt p) 6 s t) ∧
    (s.snapOf (hSlt p) = some ws → srRuns s p = true → s.slt.due = [] → s.flyingBefore p (nextFrameWord s p) = false → (List.range 4).all (fun n => !planeChanged s (overlay s ws) p n || canSwap (s.plane p n)) = true →
      sltBad s (overlay s ws) p = none → Gives (.detSltCommit true p) s fun t =>
      t.snapOf (hSlt p) = none ∧ t.word o = (overlay s ws).word o ∧ t.faultBit (hSlt p) 2 = false ∧ t.mem = s.mem ∧ t.slt.trace = s.slt.trace ∧
      (plEn s p m = true → plEn (overlay s ws) p m = false → (s.plane p m).on = true → (t.plane p m).on = false ∧ ((t.plane p m).buf (s.plane p m).live).st = .full ∧
        ((t.plane p m).buf (s.plane p m).live).cnt = (s.plane p m).liveBuf.cnt ∧ ((t.plane p m).buf (s.plane p m).live).frames = (s.plane p m).liveBuf.frames ∧ Raised (hSlt p) m t) ∧
      (plEn s p m = false → plEn (overlay s ws) p m = true → (t.plane p m).on = false ∧ (t.plane p m).b0.st = .clearing ∧
        (plDbuf ((overlay s ws).wordN (R.SLT_PL_CFG p m)) = true → (t.plane p m).b1.st = .clearing)) ∧
      (planeChanged s (overlay s ws) p m = true → (t.plane p m).live = 1 - (s.plane p m).live ∧ ((t.plane p m).buf (s.plane p m).live).st = .full)) ∧
    (s.snapOf (hSlt p) = some ws → (List.range 4).any (fun n => planeChanged s (overlay s ws) p n && !canSwap (s.plane p n)) = true → Gives (.detSltCommit true p) s fun t => t = s) ∧
    ((s.snapOf (hSlt p) = none ∨ srRuns s p = false) → Gives (.detSltCommit true p) s fun t => t = s) ∧
    ((s.snapOf (hDet p) = none ∨ srRuns s p = false) → Gives (.detSltCommit false p) s fun t => t = s) ∧
    (s.fld (R.COL_LUT_CFG_BANK l) = b → Gives (.lutWrite l b i val be) s fun t => t = { s with rep := t.rep } ∧ Event hCol 0 s t) ∧
    (s.fld (R.COL_LUT_CFG_BANK l) ≠ b → Gives (.lutWrite l b i val be) s fun t => t = { s with slt := { s.slt with lut := t.slt.lut } } ∧
      (o ≠ key → Tbl.get 0 t.slt.lut o = Tbl.get 0 s.slt.lut o) ∧
      ∀ k : Fin 24, bitAt (Tbl.get 0 t.slt.lut key) k = bitAt (if bitAt be.toNat (k / 8) then val.toNat else Tbl.get 0 s.slt.lut key) k)

/-- One increment of a plane (R163 to R165): the row comes from TOP_DB and ROW_STEP and is clamped, with OVR and UNDER counting the clamps, and every increment either adds one to the counters' sum or is counted as
saturated. -/
def Obligations.PlaneIncrement : Prop :=
  ∀ (top q : Int) (rowStep rows cols c k : Nat) (b : PBuf), b.cnt.Pairwise (fun x y => x.1 < y.1) → 0 < rowStep → 0 < rows →
    (increment top rowStep rows cols b c q).cnt.Pairwise (fun x y => x.1 < y.1) ∧
    (b.satinc < 2 ^ 32 - 1 → ((increment top rowStep rows cols b c q).cnt.map Prod.snd).sum + (increment top rowStep rows cols b c q).satinc = (b.cnt.map Prod.snd).sum + b.satinc + 1) ∧
    ((increment top rowStep rows cols b c q).ovr = if top < q then min (b.ovr + 1) 65535 else b.ovr) ∧
    ((increment top rowStep rows cols b c q).under = if q ≤ top - (rowStep : Int) * rows then min (b.under + 1) 65535 else b.under) ∧
    (k < rows → Tbl.get 0 b.cnt (k * cols + c) ≠ 65535 → top - (rowStep : Int) * (k + 1) < q → q ≤ top - (rowStep : Int) * k →
      Tbl.get 0 (increment top rowStep rows cols b c q).cnt (k * cols + c) = Tbl.get 0 b.cnt (k * cols + c) + 1) ∧
    (k % cols ≠ c % cols → Tbl.get 0 (increment top rowStep rows cols b c q).cnt k = Tbl.get 0 b.cnt k) ∧
    (b.cnt.all (fun e => decide (e.2 ≤ 65535)) = true → (increment top rowStep rows cols b c q).cnt.all (fun e => decide (e.2 ≤ 65535)) = true)

/-! The tributary bank (spec/07). -/

/-- A port's next coarse sample and a scheduling round (R185 to R187, R191, R195, R197, R207): a coarse sample is released once its span is; in a round an idle bank changes nothing but what a read of IDLE_WHY
shows, and the bank's only context, when it produces, takes all chain inputs of the coarse samples released, one output for every 2 × R_C of them. While the die is held in reset nothing of this happens (R28). Choices of the model: log entries 3, 30, 75, 80. -/
def Obligations.CoarseSamplesAndRounds : Prop :=
  ∀ (s : State) (p : Fin 4) (g : Grid) (k : Nat) (i : Fin 16384) (x : Ctx) (c : CSet) (a : Nat),
    (Tbl.find s.trb.grid p = some g → s.slave p = false → g.next * g.hc + 16 * g.hc ≤ g.points s p →
      k = coarseSats s p g g.next → Analyses (.coarseSample p) s fun t =>
        t = { s with trb := { s.trb with grid := Tbl.set s.trb.grid p { g with next := g.next + 1 } }, regs := t.regs, rep := t.rep } ∧
        t.pair (R.TRB_CH_SAT p) = (s.pair (R.TRB_CH_SAT p) + k) % 2 ^ 64 ∧ WordsKept s t [R.TRB_CH_SAT p, R.TRB_CH_SAT p + 4] ∧
        (0 < k → Event (hChn p) 0 s t) ∧ (k = 0 → t.rep = s.rep)) ∧
    (Tbl.find s.trb.grid p = some g → (s.slave p = true ∨ g.points s p < g.next * g.hc + 16 * g.hc) → Analyses (.coarseSample p) s fun t => t = s) ∧
    (Tbl.find s.trb.grid p = none → Analyses (.coarseSample p) s fun t => t = s) ∧
    ((s.trb.ctx = [] ∨ s.faultBit hBank 1 = true) → Analyses .trbRound s fun t =>
      t = { s with trb := { s.trb with started := true, mark := s.trb.grid.map (fun e => (e.1, e.2.next)) } }) ∧
    (s.faultBit hBank 1 = false → s.trb.ctx = [(i.val, x)] → x.snap = none → x.report = false → x.reset = false → c = s.cset i → ctxWhy s c = 0 → Tbl.find s.trb.grid c.port = some g →
      0 < c.rc → x.m0 ≤ g.next → a = (g.next - x.m0) * c.nch → x.ins ≤ a → 2 * c.rc * x.n ≤ x.ins → x.ins < 2 * c.rc * (x.n + 1) → x.phase < 2 ^ 32 → Analyses .trbRound s fun t =>
        (t.ctx i).n = a / (2 * c.rc) ∧ (t.ctx i).ins = a ∧ (t.ctx i).phase = (x.phase + c.ftw * (a - x.ins)) % 2 ^ 32 ∧ (t.ctx i).m0 = x.m0 ∧
        (t.ctx i).nc = x.nc ∧ (t.ctx i).nv = x.nv ∧ t.cset i = c ∧ t.trb.started = true ∧ t.trb.grid = s.trb.grid)

/-- What waits at a context's output block boundary (R192, R193, R199, R212): a snapshot that fails a check is dropped with its reason; one that passes takes effect as the table of R199 says; REPORT ends the open
report; RESET_CTX clears the context; a context that produces nothing takes its snapshot at the start of a round. While the die is held in reset there is no round (R28). Choices of the model: log entries 3, 30, 75, 80. -/
def Obligations.ContextBoundary : Prop :=
  ∀ (s : State) (i : Fin 16384) (x : Ctx) (ws : List Nat) (old new : CSet) (why o : Nat) (first : Bool), x = s.ctx i → old = s.cset i →
    new = (overlay s ((List.range ws.length).map (fun k => (R.TRB_CTX_CTL i + 4 * k, ws[k]?.getD 0)))).cset i → why = ctxReason s i new →
    first = ((!old.en && new.en) || old.port != new.port || old.chan != new.chan || old.straddle != new.straddle || old.rc != new.rc) →
    ((s.faultBit hBank 1 = true ∨ ctxWhy s old ≠ 0 ∨ atBlock old x = false ∨ (x.snap = none ∧ x.report = false ∧ x.reset = false)) →
      Gives (.ctxBlockBoundary i) s fun t => t = s) ∧
    (s.faultBit hBank 1 = false → ctxWhy s old = 0 → atBlock old x = true → x.report = false → x.reset = false → x.snap = some ws → why ≠ 0 →
      Gives (.ctxBlockBoundary i) s fun t =>
        t.flag (R.TRB_CTX_STAT_CFG_REJ i) = true ∧ t.fld (R.TRB_CTX_STAT_REASON i) = why ∧ t.pair R.TRB_CFG_REJ = (s.pair R.TRB_CFG_REJ + 1) % 2 ^ 64 ∧ t.cset i = old ∧
        t = { s.setCtx i { x with snap := none } with regs := t.regs, rep := t.rep } ∧ WordsKept s t [R.TRB_CTX_STAT i, R.TRB_CFG_REJ, R.TRB_CFG_REJ + 4] ∧ Event hBank 0 s t) ∧
    (s.faultBit hBank 1 = false → ctxWhy s old = 0 → atBlock old x = true → x.report = false → x.reset = false → x.snap = some ws → ws.length = 12 → why = 0 →
      Gives (.ctxBlockBoundary i) s fun t =>
        t.cset i = new ∧ (t.ctx i).snap = none ∧ t.flag (R.TRB_CTX_STAT_CFG_REJ i) = false ∧ t.fld (R.TRB_CTX_STAT_REASON i) = 0 ∧
        t.fld (R.TRB_CTX_STAT_TUNE_SEQ i) = (s.fld (R.TRB_CTX_STAT_TUNE_SEQ i) + 1) % 65536 ∧ (t.ctx i).iq = [] ∧
        (first = true → (t.ctx i).n = 0 ∧ (t.ctx i).ins = 0 ∧ (t.ctx i).phase = 0 ∧ (t.ctx i).chain = Chain.init ∧ (t.ctx i).vid = [] ∧ (t.ctx i).nc = 0 ∧ (t.ctx i).nv = 0) ∧
        (first = false → (t.ctx i).n = x.n ∧ (t.ctx i).m0 = x.m0 ∧ (t.ctx i).phase = x.phase ∧ (t.ctx i).chain = x.chain ∧ (t.ctx i).repFrom = cdiv x.n new.blk * new.blk) ∧
        (first = false → old.ftw ≠ new.ftw → (t.ctx i).nc = x.n ∧ (t.ctx i).nv = x.n) ∧ (first = false → old.ftw = new.ftw → (t.ctx i).nc = x.nc) ∧
        (first = false → (old.vlen ≠ new.vlen ∨ old.vidOff ≠ new.vidOff) → (t.ctx i).vid = [] ∧ (t.ctx i).nv = x.n) ∧
        (first = false → old.vlen = new.vlen → old.vidOff = new.vidOff → (t.ctx i).vid = x.vid) ∧
        ((first = true ∨ old.ftw ≠ new.ftw ∨ old.vlen ≠ new.vlen ∨ old.vidOff ≠ new.vidOff) → (t.ctx i).on = false ∧ (t.ctx i).run = 0) ∧
        (first = false → old.ftw = new.ftw → old.vlen = new.vlen → old.vidOff = new.vidOff → (t.ctx i).on = x.on ∧
          ((t.ctx i).run = if old.thr = new.thr ∧ old.min = new.min then x.run else 0)) ∧
        t = { s with trb := t.trb, regs := t.regs, weir := t.weir, freeCtr := t.freeCtr, rep := t.rep } ∧
        ((o < R.TRB_CTX_CTL i ∨ R.TRB_CTX_CTL i + 0x40 ≤ o) → (o < R.TRB_RECQ_DROP ∨ R.TRB_IQ_DROP + 8 ≤ o) → t.word o = s.word o) ∧
        RepFrame [] [(hBank, 1), (hBank, 2)] [] s t) ∧
    (s.faultBit hBank 1 = false → ctxWhy s old = 0 → atBlock old x = true → x.report = true → x.reset = false → x.snap = none → old.repEn = true → x.repFrom < x.n →
      Gives (.ctxBlockBoundary i) s fun t =>
        (t.ctx i).report = false ∧ (t.ctx i).repFrom = x.n ∧ (t.ctx i).samples = 0 ∧ (t.ctx i).n = x.n ∧ (t.ctx i).on = x.on ∧ (t.ctx i).iq = x.iq ∧
        t.wordN (R.TRB_CTX_RSEQ i) = (s.wordN (R.TRB_CTX_RSEQ i) + 1) % 2 ^ 32 ∧
        (s.trb.recq.length < 4096 → t.trb.recq.length = s.trb.recq.length + 1 ∧ t.trb.recq.take s.trb.recq.length = s.trb.recq ∧ t.rep = s.rep ∧
          (t.trb.recq.getLast?.map List.length = some 64)) ∧
        (4096 ≤ s.trb.recq.length → t.trb.recq = s.trb.recq ∧ t.pair R.TRB_RECQ_DROP = (s.pair R.TRB_RECQ_DROP + 1) % 2 ^ 64 ∧ Event hBank 1 s t) ∧
        t = { s with trb := t.trb, regs := t.regs, rep := t.rep } ∧ WordsKept s t [R.TRB_CTX_RSEQ i, R.TRB_CTX_LPWR i, R.TRB_CTX_LVID i, R.TRB_RECQ_DROP, R.TRB_RECQ_DROP + 4]) ∧
    (s.faultBit hBank 1 = false → ctxWhy s old = 0 → atBlock old x = true → x.report = false → x.reset = true → x.snap = none → old.en = true →
      Gives (.ctxBlockBoundary i) s fun t =>
        (t.ctx i).reset = false ∧ (t.ctx i).n = 0 ∧ (t.ctx i).ins = 0 ∧ (t.ctx i).phase = 0 ∧ (t.ctx i).vid = [] ∧ (t.ctx i).nc = 0 ∧ (t.ctx i).nv = 0 ∧ (t.ctx i).on = false ∧
        (t.ctx i).run = 0 ∧ (t.ctx i).iq = [] ∧ t.cset i = old ∧
        (t.ctx i).chain = Chain.init ∧ (t.ctx i).m0 = x.m0 + x.ins / old.nch ∧
        t = { s with trb := t.trb, regs := t.regs, weir := t.weir, freeCtr := t.freeCtr, rep := t.rep }) ∧
    (s.faultBit hBank 1 = false → s.trb.ctx = [(i.val, x)] → ctxWhy s old ≠ 0 → x.report = false → x.reset = false → x.snap = some ws → why ≠ 0 → Analyses .trbRound s fun t =>
        t.flag (R.TRB_CTX_STAT_CFG_REJ i) = true ∧ t.fld (R.TRB_CTX_STAT_REASON i) = why ∧ t.cset i = old ∧ t.ctx i = { x with snap := none } ∧ t.mem = s.mem ∧ t.trb.started = true) ∧
    (s.faultBit hBank 1 = false → s.trb.ctx = [(i.val, x)] → ctxWhy s old ≠ 0 → x.report = false → x.reset = false → x.snap = some ws → ws.length = 12 → why = 0 →
      Tbl.find s.trb.grid new.port = none → Analyses .trbRound s fun t =>
        t.cset i = new ∧ (t.ctx i).snap = none ∧ t.flag (R.TRB_CTX_STAT_CFG_REJ i) = false ∧ t.fld (R.TRB_CTX_STAT_REASON i) = 0 ∧
        t.fld (R.TRB_CTX_STAT_TUNE_SEQ i) = (s.fld (R.TRB_CTX_STAT_TUNE_SEQ i) + 1) % 65536 ∧
        (first = true → (t.ctx i).n = 0 ∧ (t.ctx i).ins = 0 ∧ (t.ctx i).phase = 0 ∧ (t.ctx i).chain = Chain.init ∧ (t.ctx i).vid = []) ∧ t.mem = s.mem ∧ t.trb.started = true)

/-- Commands of the bank, writes of a context's word 0, and its records on their way to memory (R192, R208, R211, R212): `b` is the address stored to. Choices of the model: log entries 3, 12. -/
def Obligations.ContextCommandsAndRecords : Prop :=
  ∀ (s : State) (i : Fin 16384) (j : Fin 16384) (val : Word) (be : BitVec 4) (bs : List Byte) (rest : List (List Byte)) (st : Nat) (rest2 : List (Nat × List Byte)) (size off a b o : Nat),
    size = s.wordN R.TRB_REP_REGION_SIZE * 2 ^ 20 → off = (if s.wordN R.TRB_REP_WSEQ = 0 ∧ s.wordN R.TRB_REP_WOFF = 0 then 0 else (s.wordN R.TRB_REP_WOFF + 64) % size) →
    (Gives (.ctxCommitWrite i val be) s fun t =>
      t.shadowN (R.TRB_CTX_CTL i) = blend (s.shadowN (R.TRB_CTX_CTL i)) val.toNat (0x0079FFFF &&& beMask be.toNat) ∧ WordsKept s t [] ∧
      (o ≠ R.TRB_CTX_CTL i → t.shadowN o = s.shadowN o) ∧
      (bitAt val.toNat 31 = true → bitAt be.toNat 3 = true → (t.ctx i).snap = some ((List.range 12).map (fun w => t.shadowN (R.TRB_CTX_CTL i + 4 * w))) ∧
        t = { s.setCtx i { s.ctx i with snap := (t.ctx i).snap } with shadow := t.shadow, regs := t.regs }) ∧
      ((bitAt val.toNat 31 = false ∨ bitAt be.toNat 3 = false) → t = { s with shadow := t.shadow, regs := t.regs })) ∧
    (s.cmdBusy hBank = false → j.val = s.fld R.TRB_CMD_ARG_CTX → (s.cset j).en = true → Gives .resetCtx s fun t =>
      t = { s.setCtx j { s.ctx j with reset := true } with rep := t.rep } ∧ Finished hBank 1 .ok s t) ∧
    (s.cmdBusy hBank = false → j.val = s.fld R.TRB_CMD_ARG_CTX → (s.cset j).en = false → Gives .resetCtx s (TurnedAway hBank 1 .state s)) ∧
    (s.cmdBusy hBank = false → j.val = s.fld R.TRB_CMD_ARG_CTX → (s.cset j).en = true → (s.cset j).repEn = true → Gives .report s fun t =>
      t = { s.setCtx j { s.ctx j with report := true } with rep := t.rep } ∧ Finished hBank 2 .ok s t) ∧
    (s.cmdBusy hBank = false → j.val = s.fld R.TRB_CMD_ARG_CTX → ((s.cset j).en = false ∨ (s.cset j).repEn = false) → Gives .report s (TurnedAway hBank 2 .state s)) ∧
    (s.trb.recq = bs :: rest → size ≠ 0 → s.rsv.lost = [] → memWf s.mem = true → b = s.wordN R.TRB_REP_REGION_LO + 2 ^ 32 * bits (s.wordN R.TRB_REP_REGION_HI) 7 0 + off →
      Gives .trbRecordWrite s fun t =>
        t.memRead b bs.length = bs ∧ ((a < b ∨ b + bs.length ≤ a) → memGet t.mem a = memGet s.mem a) ∧ t.trb = { s.trb with recq := rest } ∧
        t.wordN R.TRB_REP_WOFF = off % 2 ^ 32 ∧ t.wordN R.TRB_REP_WSEQ = (s.wordN R.TRB_REP_WSEQ + 1) % 2 ^ 32 ∧ WordsKept s t [R.TRB_REP_WOFF, R.TRB_REP_WSEQ] ∧
        t = { s with trb := t.trb, regs := t.regs, mem := t.mem, poison := t.poison }) ∧
    (s.trb.recq = [] → Gives .trbRecordWrite s fun t => t = s) ∧
    (s.trb.iqq = (st, bs) :: rest2 → st < 256 → s.rsv.lost = [] → memWf s.mem = true →
      b = s.wordN R.TRB_IQ_REGION_LO + 2 ^ 32 * s.fld R.TRB_IQ_REGION_HI_ADDR + (st * 2 ^ s.fld R.TRB_IQ_REGION_HI_IQ_SLOTS_LOG2 +
        s.wordN (R.TRB_IQ_WSEQ st) % 2 ^ s.fld R.TRB_IQ_REGION_HI_IQ_SLOTS_LOG2) * 4096 → Gives .iqRecordWrite s fun t =>
        t.memRead b bs.length = bs ∧ ((a < b ∨ b + bs.length ≤ a) → memGet t.mem a = memGet s.mem a) ∧ t.trb = { s.trb with iqq := rest2 } ∧
        t.wordN (R.TRB_IQ_WSEQ st) = (s.wordN (R.TRB_IQ_WSEQ st) + 1) % 2 ^ 32 ∧ WordsKept s t [R.TRB_IQ_WSEQ st] ∧
        t = { s with trb := t.trb, regs := t.regs, mem := t.mem, poison := t.poison }) ∧
    (s.trb.iqq = [] → Gives .iqRecordWrite s fun t => t = s)

/-! Weir triggering and acquisition (spec/08). -/

/-- ARM, DISARM and FORCE, and a timer's expiry (R224, R225, R228, R244): ARM starts at ARM_STATE with counters, timers, SIGNAL and totals cleared; DISARM clears SIGNAL and closes the open record, TRUNC. Choices of the model: log entry 28. -/
def Obligations.SequencerCommands : Prop :=
  ∀ (s : State) (n : Fin 16) (i : Fin 2) (x : WSeq) (id : Nat) (r : Rec) (tm : WTimer), x = s.seq n → r = (s.cap (n / 4)).record id →
    (s.cmdBusy (hSeq n) = false → x.armed = false → Gives (.arm n) s fun t =>
      t.seq n = { x with armed := true, from_ := s.released (slotPort s (n / 4)), until_ := none, st := s.fld (R.WEIR_SEQ_CFG_ARM_STATE n), cnt0 := 0, cnt1 := 0, ovf0 := false,
                         ovf1 := false, tm0 := none, tm1 := none, sig := false, sigLog := [], force := none, slotOf := none,
                         old := if s.slotsOf n = slotPort s (n / 4) then x.old else [] } ∧
      t.pair (R.WEIR_ARMED n) = 0 ∧ t.pair (R.WEIR_DEAD_GAP n) = 0 ∧ t.pair (R.WEIR_DEAD_STALE n) = 0 ∧ t.pair (R.WEIR_DEAD_FULL n) = 0 ∧
      WordsWithin s t (R.WEIR_ARMED n) (R.WEIR_DEAD_FULL n + 8) ∧ t = { s.setSeq n (t.seq n) with regs := t.regs, rep := t.rep } ∧ Finished (hSeq n) 1 .ok s t) ∧
    (s.cmdBusy (hSeq n) = false → x.armed = true → Gives (.arm n) s (TurnedAway (hSeq n) 1 .state s)) ∧
    (s.cmdBusy (hSeq n) = false → x.armed = true → x.opn = none → Gives (.disarm n) s fun t =>
      t = { s.setSeq n { x with armed := false, until_ := some (s.released (s.slotsOf n)), force := none, sig := false, sigLog := [] } with rep := t.rep } ∧
      Finished (hSeq n) 2 .ok s t) ∧
    (s.cmdBusy (hSeq n) = false → x.armed = true → x.opn = some id → r.partner = none → Gives (.disarm n) s fun t =>
      (t.seq n).armed = false ∧ (t.seq n).sig = false ∧ (t.seq n).opn = none ∧ ((t.cap (n / 4)).record id).st = .done ∧ ((t.cap (n / 4)).record id).trunc = true ∧
      ((t.cap (n / 4)).record id).last ≤ r.last ∧ (t.cap (n / 4)).doneq = (s.cap (n / 4)).doneq ++ [id] ∧ Raised (hCap (n / 4)) 0 t ∧
      t = { s with weir := { s.weir with seq := t.weir.seq, cap := Tbl.set s.weir.cap (n / 4) (t.cap (n / 4)) }, rep := t.rep } ∧
      Done (hSeq n) 2 .ok t ∧ RepFrame (hSeq n :: basinsOf (hSeq n)) [(hCap (n / 4), 0)] [] s t) ∧
    (s.cmdBusy (hSeq n) = false → x.armed = false → Gives (.disarm n) s (TurnedAway (hSeq n) 2 .state s)) ∧
    (s.cmdBusy (hSeq n) = false → x.armed = true → Gives (.force n) s fun t =>
      t = { s.setSeq n { x with force := some (bits (s.wordN (R.WEIR_CMD_ARG n)) 14 0, bits (s.wordN (R.WEIR_CMD_ARG n)) 17 16) } with rep := t.rep } ∧ Finished (hSeq n) 3 .ok s t) ∧
    (s.cmdBusy (hSeq n) = false → x.armed = false → Gives (.force n) s (TurnedAway (hSeq n) 3 .state s)) ∧
    (i = 0 → x.tm0 = some tm → tm.expiry ≤ s.clk.dt → Gives (.weirTimerExpire n i) s fun t => t = s.setSeq n { x with tm0 := some { tm with expired := true } }) ∧
    (i = 1 → x.tm1 = some tm → tm.expiry ≤ s.clk.dt → Gives (.weirTimerExpire n i) s fun t => t = s.setSeq n { x with tm1 := some { tm with expired := true } })

/-- A slot at an armed sequencer (R217, R223, R224, R242 to R244): no true arc leaves the state; the first true arc acts on counters, timers and SIGNAL, writes a tag when it is told to or touches a record, and enters NEXT.  Arcs that pin, open or
close are the subject of `CapturePins`. While the die is held in reset no slot is evaluated (R28). Choices of the model: log entries 3, 27, 28, 76, 80. -/
def Obligations.SlotEvaluation : Prop :=
  ∀ (s : State) (n : Fin 16) (x : WSeq) (sl0 sl : Slot) (rest : List Slot) (a : Fin 4) (trig : Nat) (ta tb : Bool) (acts len fa pf : Nat), x = s.seq n → sl = sl0.until rest →
    acts = rd (settingsAt s x.old sl.first) (R.WEIR_ARC1_ACT n x.st a) →
    len = settingsAt s x.old sl.first (R.WEIR_TIMER_LO n 0) + 2 ^ 32 * bits (settingsAt s x.old sl.first (R.WEIR_TIMER_HI n 0)) 15 0 →
    (x.slots = [] → Analyses (.slotEval n) s fun t => t = s) ∧
    (x.slots = sl0 :: rest → x.until_ = none → (x.armed = false ∨ sl.port ≠ s.slotsOf n ∨ sl.first < x.from_) → Analyses (.slotEval n) s fun t => t = s.setSeq n { x with slots := rest }) ∧
    (x.slots = sl0 :: rest → x.until_ = none → x.armed = true → sl.port = s.slotsOf n → x.from_ ≤ sl.first → x.force = none →
      (List.range 4).all (fun a => (arcTest s n (settingsAt s x.old sl.first) sl x.st a).isNone) = true → Analyses (.slotEval n) s fun t =>
        t.pair (R.WEIR_ARMED n) = (s.pair (R.WEIR_ARMED n) + sl.points) % 2 ^ 64 ∧
        t = { s.setSeq n { x with slots := rest, sigLog := (sl.tick, x.sig) :: x.sigLog } with regs := t.regs } ∧
        WordsWithin s t (R.WEIR_ARMED n) (R.WEIR_DEAD_FULL n + 8)) ∧
    (x.slots = sl0 :: rest → x.until_ = none → x.armed = true → sl.port = s.slotsOf n → x.from_ ≤ sl.first → x.force = none → x.cnt0 < 2 ^ 32 →
      (List.range 4).find? (fun a => (arcTest s n (settingsAt s x.old sl.first) sl x.st a).isSome) = some a.val →
      arcTest s n (settingsAt s x.old sl.first) sl x.st a = some (trig, ta, tb) → acts % 8 = 0 → Analyses (.slotEval n) s fun t =>
        (t.seq n).st = rd (settingsAt s x.old sl.first) (R.WEIR_ARC0_NEXT n x.st a) ∧ (t.seq n).slots = rest ∧
        ((t.seq n).sig = if bitAt acts 5 then true else if bitAt acts 6 then false else x.sig) ∧
        (t.seq n).cnt0 = min ((if bitAt acts 8 then 0 else x.cnt0) + b2n (bitAt acts 7)) 0xFFFFFFFF ∧
        ((t.seq n).tm0 = if bitAt acts 11 then some ⟨sl.lastDt + len * 40960, false⟩ else if bitAt acts 12 then none else x.tm0) ∧
        (bitAt acts 4 = true → Raised (hSeq n) 0 t) ∧ (t.seq n).opn = x.opn ∧
        (bitAt acts 3 = true → (t.seq n).tagSeq = (x.tagSeq + 1) % 2 ^ 32 ∧ t.pair (R.WEIR_TAGS n) = (s.pair (R.WEIR_TAGS n) + 1) % 2 ^ 64 ∧
          (s.weir.tagq.length < 1024 → t.weir.tagq.length = s.weir.tagq.length + 1 ∧ t.weir.tagq.take s.weir.tagq.length = s.weir.tagq ∧ t.weir.tagq.getLast?.map List.length = some 64) ∧
          (1024 ≤ s.weir.tagq.length → t.weir.tagq = s.weir.tagq ∧ Raised hTag 0 t)) ∧
        (bitAt acts 3 = false → (t.seq n).tagSeq = x.tagSeq ∧ t.weir.tagq = s.weir.tagq ∧ t.pair (R.WEIR_TAGS n) = s.pair (R.WEIR_TAGS n)) ∧
        t = { s with weir := { s.weir with seq := Tbl.set s.weir.seq n (t.seq n), tagq := t.weir.tagq }, regs := t.regs, rep := t.rep } ∧
        RepFrame [] [(hSeq n, 0), (hSeq n, 4), (hTag, 0)] [] s t) ∧
    (x.slots = sl0 :: rest → x.until_ = none → x.armed = true → sl.port = s.slotsOf n → x.from_ ≤ sl.first → x.force = some (fa, pf) → fa % 8 = 0 → Analyses (.slotEval n) s fun t =>
        (t.seq n).st = x.st ∧ (t.seq n).force = none ∧ (t.seq n).slots = rest ∧
        t = { s with weir := { s.weir with seq := Tbl.set s.weir.seq n (t.seq n), tagq := t.weir.tagq }, regs := t.regs, rep := t.rep })

/-- A pin of an unbonded port (R233 to R236): accepted, a free record takes the blocks that the plan names, CAP never holding more pinned blocks than LEN − MIN_LIVE; refused, only the counters and events tell. Choices of the model: log entry 28. -/
def Obligations.CapturePins : Prop :=
  ∀ (s : State) (sq : Fin 16) (opn forced : Bool) (pre post prof trigDt tagSeq i : Nat) (c : Cap) (x : Plan), c = s.cap (sq / 4) →
    x = c.plan (s.wordAtDt (sq / 4) trigDt) (pointWords s (sq / 4) pre) (pointWords s (sq / 4) post) → s.bonded (sq / 4) = false → (s.seq sq).opn = none →
    (c.freeId = some i → c.fits (ringLen s (sq / 4)) (minLive s (sq / 4)) x [] = true → c.wr < (x.last + 1) * 2048 →
      (pin sq opn forced pre post prof trigDt tagSeq s).1 = some i ∧
      (((pin sq opn forced pre post prof trigDt tagSeq s).2.cap (sq / 4)).record i).st = (if opn then RecSt.opn else .filling) ∧
      (((pin sq opn forced pre post prof trigDt tagSeq s).2.cap (sq / 4)).record i).blocks = x.blocks ∧
      (((pin sq opn forced pre post prof trigDt tagSeq s).2.cap (sq / 4)).record i).first = x.first ∧
      (((pin sq opn forced pre post prof trigDt tagSeq s).2.cap (sq / 4)).record i).last = x.last ∧
      (((pin sq opn forced pre post prof trigDt tagSeq s).2.cap (sq / 4)).record i).seq = c.recSeq ∧
      (((pin sq opn forced pre post prof trigDt tagSeq s).2.cap (sq / 4)).record i).trigDt = trigDt ∧
      (((pin sq opn forced pre post prof trigDt tagSeq s).2.cap (sq / 4)).record i).preShort = x.short ∧
      ((pin sq opn forced pre post prof trigDt tagSeq s).2.cap (sq / 4)).recSeq = (c.recSeq + 1) % 2 ^ 32 ∧
      ((pin sq opn forced pre post prof trigDt tagSeq s).2.seq sq).opn = (if opn then some i else none) ∧
      (pin sq opn forced pre post prof trigDt tagSeq s).2.pair (R.WEIR_PINS sq) = (s.pair (R.WEIR_PINS sq) + 1) % 2 ^ 64 ∧
      Event (hSeq sq) 1 s (pin sq opn forced pre post prof trigDt tagSeq s).2 ∧
      ((pin sq opn forced pre post prof trigDt tagSeq s).2.cap (sq / 4)).pinned.length + minLive s (sq / 4) ≤ ringLen s (sq / 4) ∧
      (pin sq opn forced pre post prof trigDt tagSeq s).2.mem = s.mem) ∧
    ((c.freeId = none ∨ c.fits (ringLen s (sq / 4)) (minLive s (sq / 4)) x [] = false) → s.flag (R.CAP_CFG_POLICY (sq / 4)) = false →
      (pin sq opn forced pre post prof trigDt tagSeq s).1 = none ∧
      (pin sq opn forced pre post prof trigDt tagSeq s).2 =
        { s with regs := (pin sq opn forced pre post prof trigDt tagSeq s).2.regs, rep := (pin sq opn forced pre post prof trigDt tagSeq s).2.rep } ∧
      (pin sq opn forced pre post prof trigDt tagSeq s).2.pair (R.WEIR_REFUSED sq) = (s.pair (R.WEIR_REFUSED sq) + 1) % 2 ^ 64 ∧
      (pin sq opn forced pre post prof trigDt tagSeq s).2.pair (R.CAP_REFUSED (sq / 4)) = (s.pair (R.CAP_REFUSED (sq / 4)) + 1) % 2 ^ 64 ∧
      Raised (hSeq sq) 2 (pin sq opn forced pre post prof trigDt tagSeq s).2 ∧ Raised (hCap (sq / 4)) 1 (pin sq opn forced pre post prof trigDt tagSeq s).2 ∧
      WordsKept s (pin sq opn forced pre post prof trigDt tagSeq s).2 [R.WEIR_REFUSED sq, R.WEIR_REFUSED sq + 4, R.CAP_REFUSED (sq / 4), R.CAP_REFUSED (sq / 4) + 4])

/-- Commands on captured records (R235, R237, R238, R244) and reads of the done queue, for records without a partner, and HOLD for one with a partner. Choices of the model: log entries 10, 76. -/
def Obligations.CaptureRecordCommands : Prop :=
  ∀ (s : State) (p : Fin 4) (c : Cap) (id : Nat) (r : Rec) (path : Path) (q : List Nat) (d j : Nat), c = s.cap p → id = s.fld (R.CAP_CMD_ARG_REC p) → r = c.record id →
    (s.cmdBusy (hCap p) = false → r.st = .done → r.partner = none → Gives (.capRelease p) s fun t =>
      t = { s.setCap p { c.setRec id { r with st := .free, held := false, blocks := [] } with doneq := c.doneq.filter (· != id) } with rep := t.rep } ∧ Finished (hCap p) 1 .ok s t) ∧
    (s.cmdBusy (hCap p) = false → r.st ≠ .done → Gives (.capRelease p) s (TurnedAway (hCap p) 1 .state s)) ∧
    (s.cmdBusy (hCap p) = false → r.st = .done → r.partner = none → Gives (.hold p) s fun t =>
      t = { s.setCap p (c.setRec id { r with held := true }) with rep := t.rep } ∧ Finished (hCap p) 2 .ok s t) ∧
    (s.cmdBusy (hCap p) = false → r.st = .done → r.partner = some j → ((s.cap (bondMate p)).record j).partner = some id → ((s.cap (bondMate p)).record j).kept = true →
      Gives (.hold p) s fun t => ((t.cap p).record id).held = true ∧ ((t.cap (bondMate p)).record j).held = true ∧ Finished (hCap p) 2 .ok s t) ∧
    (s.cmdBusy (hCap p) = false → r.st ≠ .done → Gives (.hold p) s (TurnedAway (hCap p) 2 .state s)) ∧
    (s.cmdBusy (hCap p) = false → r.st = .done → r.held = true → r.partner = none → Gives (.unhold p) s fun t =>
      t = { s.setCap p (c.setRec id { r with held := false }) with rep := t.rep } ∧ Finished (hCap p) 3 .ok s t) ∧
    (s.cmdBusy (hCap p) = false → (r.st ≠ .done ∨ r.held = false) → Gives (.unhold p) s (TurnedAway (hCap p) 3 .state s)) ∧
    (s.cmdBusy (hCap p) = false → Gives (.releaseAll p) s fun t =>
      ((c.record d).partner = none → ((t.cap p).record d).st = if (c.record d).st = .done ∧ (c.record d).held = false then .free else (c.record d).st) ∧
      t = { s with weir := { s.weir with cap := t.weir.cap }, rep := t.rep } ∧ Finished (hCap p) 4 .ok s t) ∧
    (s.cmdBusy (hCap p) = false → r.st = .opn → r.partner = none → Gives (.capClose p) s fun t =>
      ((t.cap p).record id).last = min (max c.curBlk r.first) r.last ∧ ((t.cap p).record id).trunc = r.trunc ∧
      (c.wr < (min (max c.curBlk r.first) r.last + 1) * 2048 → ((t.cap p).record id).st = .filling ∧ (t.cap p).doneq = c.doneq) ∧
      ((min (max c.curBlk r.first) r.last + 1) * 2048 ≤ c.wr → ((t.cap p).record id).st = .done ∧ (t.cap p).doneq = c.doneq ++ [id] ∧ Raised (hCap p) 0 t) ∧
      Done (hCap p) 5 .ok t ∧ t = { s with weir := { s.weir with seq := t.weir.seq, cap := t.weir.cap }, rep := t.rep } ∧
      RepFrame (hCap p :: basinsOf (hCap p)) [(hCap p, 0)] [] s t) ∧
    (s.cmdBusy (hCap p) = false → r.st ≠ .opn → Gives (.capClose p) s (TurnedAway (hCap p) 5 .state s)) ∧
    (c.doneq = d :: q → Gives (.doneqPop path p) s fun t =>
      t = { s.setCap p { c with doneq := q } with rep := { s.rep with out := .regRead path (R.CAP_DONEQ p) (2 ^ 31 + d) :: s.rep.out } }) ∧
    (c.doneq = [] → Gives (.doneqPop path p) s fun t => t = { s with rep := { s.rep with out := .regRead path (R.CAP_DONEQ p) 0 :: s.rep.out } })

/-- The ring writer moves on from a full block to the next place in ring order that no record holds (R230, R231, R234, R238), and a new LEN is applied while the ring is drained (R240). Choices of the model: log entry 3. -/
def Obligations.RingWriter : Prop :=
  ∀ (s : State) (p : Fin 4) (c : Cap) (j id l : Nat) (r : Rec), c = s.cap p → j = c.curBlk → r = c.record id →
    ((ringLen s p = 0 ∨ c.wr < (j + 1) * 2048) → (List.range 64).all (fun m => (s.strm m).port != p.val || !(s.strm m).run || (s.strm m).kind != 8) = true → Gives (.ringBlockWrite p) s fun t => t = s) ∧
    (ringLen s p ≠ 0 → (j + 1) * 2048 ≤ c.wr → (List.range 64).all (fun m => (s.strm m).port != p.val || !(s.strm m).run || (s.strm m).kind != 8) = true → Gives (.ringBlockWrite p) s fun t =>
      (t.cap p).cur = c.nextPlace (ringLen s p) ∧ (t.cap p).curBlk = j + 1 ∧ Tbl.find (t.cap p).pos (j + 1) = some (c.nextPlace (ringLen s p)) ∧ c.wr ≤ (t.cap p).wr ∧
      ((Tbl.find c.recs id).isSome = true → r.active = true → r.last ≤ j → ((t.cap p).record id).st = .done ∧ Raised (hCap p) 0 t) ∧
      ((Tbl.find c.recs id).isSome = true → r.active = true → j < r.last → r.first ≤ j + 1 → (extents (r.blocks.map Prod.snd ++ [c.nextPlace (ringLen s p)])).length ≤ 4 →
        ((t.cap p).record id).st = r.st ∧ ((t.cap p).record id).blocks = r.blocks ++ [(j + 1, c.nextPlace (ringLen s p))]) ∧
      (r.st = .done → (t.cap p).record id = r) ∧ t.net = s.net) ∧
    (c.lenPend = none → Gives (.ringLenApply p) s fun t => t = s) ∧
    (c.lenPend = some l → c.drained = false → c.wrapped = false → Gives (.ringLenApply p) s fun t => t = s) ∧
    (c.lenPend = some l → (c.drained = true ∨ c.wrapped = true) → ringLen s p ≤ l → l < 2 ^ 32 → Gives (.ringLenApply p) s fun t =>
      t.wordN (R.CAP_LEN_ACT p) = l ∧ t = { s.setCap p { c with lenPend := none } with regs := t.regs, rep := t.rep } ∧ WordsKept s t [R.CAP_LEN_ACT p] ∧ Raised (hCap p) 3 t ∧
      t.faultBit (hRch 2 p) 1 = ((s.rset 2 p).en && !s.slave p && !ringEnough t p (s.rset 2 p)) ∧ RepFrame [] [(hCap p, 3)] [hRch 2 (p - p % 2), hRch 2 (p - p % 2 + 1)] s t)

/-- Commit points of sequencers, condition units and capture units (R227, R231, R236, R240). Choices of the model: log entry 27. -/
def Obligations.WeirCommits : Prop :=
  ∀ (s : State) (n : Fin 16) (p : Fin 4) (ws : Tbl Nat) (o : Nat),
    (s.snapOf (hSeq n) = some ws → seqLegal (overlay s ws) n = false → Gives (.weirCommit (.seq n)) s fun t =>
      t = { s with snaps := s.snaps.filter (fun x => x.hdr != hSeq n), rep := t.rep } ∧ Event (hSeq n) 3 s t) ∧
    (s.snapOf (hSeq n) = some ws → seqLegal (overlay s ws) n = true → Gives (.weirCommit (.seq n)) s fun t =>
      t.word o = (overlay s ws).word o ∧ t.snapOf (hSeq n) = none ∧ t.faultBit (hSeq n) 0 = false ∧ (t.seq n).armed = (s.seq n).armed ∧ (t.seq n).st = (s.seq n).st ∧
      t = { s.setSeq n (t.seq n) with regs := t.regs, snaps := t.snaps, rep := t.rep } ∧ RepFrame [] [] [hSeq n] s t) ∧
    (s.snapOf (hCond p) = some ws → condBad (overlay s ws) p ≠ none → Gives (.weirCommit (.cond p)) s fun t =>
      t = { s with snaps := s.snaps.filter (fun x => x.hdr != hCond p), rep := t.rep } ∧ Event (hCond p) 0 s t) ∧
    (s.snapOf (hCond p) = some ws → condBad (overlay s ws) p = none → Gives (.weirCommit (.cond p)) s fun t =>
      t.word o = (overlay s ws).word o ∧ t.snapOf (hCond p) = none ∧ t.faultBit (hCond p) 1 = false ∧
      t = { s with weir := { s.weir with condOld := t.weir.condOld }, regs := t.regs, snaps := t.snaps, rep := t.rep } ∧ RepFrame [] [] [hCond p] s t) ∧
    (s.snapOf (hCap p) = some ws → capLegal (overlay s ws) p = false → Gives (.weirCommit (.cap p)) s fun t =>
      t = { s with snaps := s.snaps.filter (fun x => x.hdr != hCap p), rep := t.rep } ∧ Event (hCap p) 6 s t) ∧
    (s.snapOf (hCap p) = some ws → capLegal (overlay s ws) p = true → Gives (.weirCommit (.cap p)) s fun t =>
      t.word o = (overlay s ws).word o ∧ t.snapOf (hCap p) = none ∧ t.faultBit (hCap p) 0 = false ∧
      ((t.cap p).lenPend = if (overlay s ws).wordN (R.CAP_RING_LEN p) = (overlay s ws).wordN (R.CAP_LEN_ACT p) then none else some ((overlay s ws).wordN (R.CAP_RING_LEN p))) ∧
      t = { s.setCap p (t.cap p) with regs := t.regs, snaps := t.snaps, rep := t.rep } ∧ RepFrame [] [] [hCap p] s t) ∧
    (s.snapOf (hSeq n) = none → Gives (.weirCommit (.seq n)) s fun t => t = s)

/-- Tag records on their way to the ring, and accesses to the mask store (R221, R242): ENTRY moves on with every access; an entry inside a working mask is not written.  `b` is the address of the tag. Choices of the model: log entries 3, 28. -/
def Obligations.TagsAndMaskStore : Prop :=
  ∀ (s : State) (path : Path) (p : Fin 4) (v : Word) (be : BitVec 4) (bs : List Byte) (rest : List (List Byte)) (size off a b e o : Nat),
    size = s.wordN R.WEIR_TAG_REGION_SIZE * 2 ^ 20 → e = s.fld (R.WEIR_MTAB_ADDR_ENTRY p) →
    off = (if s.wordN R.WEIR_TAG_WSEQ = 0 ∧ s.wordN R.WEIR_TAG_WOFF = 0 then 0 else if s.wordN R.WEIR_TAG_WOFF + 64 + 64 ≤ size then s.wordN R.WEIR_TAG_WOFF + 64 else 0) →
    b = s.wordN R.WEIR_TAG_REGION_LO + 2 ^ 32 * s.wordN R.WEIR_TAG_REGION_HI + off →
    (s.weir.tagq = [] → Gives .tagWrite s fun t => t = s) ∧
    (s.weir.tagq = bs :: rest → size ≠ 0 → s.rsv.lost = [] → memWf s.mem = true → Gives .tagWrite s fun t =>
      t.memRead b bs.length = bs ∧ ((a < b ∨ b + bs.length ≤ a) → memGet t.mem a = memGet s.mem a) ∧ t.wordN R.WEIR_TAG_WOFF = off % 2 ^ 32 ∧
      t.wordN R.WEIR_TAG_WSEQ = (s.wordN R.WEIR_TAG_WSEQ + 1) % 2 ^ 32 ∧ WordsKept s t [R.WEIR_TAG_WOFF, R.WEIR_TAG_WSEQ] ∧
      t = { s with weir := { s.weir with tagq := rest }, regs := t.regs, mem := t.mem, poison := t.poison }) ∧
    (Gives (.mtabDataAccess path p none) s fun t =>
      t.rep = { s.rep with out := .regRead path (R.WEIR_MTAB_DATA p) (Tbl.get 0 s.weir.mtab (p * 524288 + e)) :: s.rep.out } ∧
      t.fld (R.WEIR_MTAB_ADDR_ENTRY p) = (e + 1) % 2 ^ 19 ∧ t = { s with regs := t.regs, rep := t.rep } ∧ WordsKept s t [R.WEIR_MTAB_ADDR p]) ∧
    (entryInUse s p e = false → Gives (.mtabDataAccess path p (some (v, be))) s fun t =>
      Tbl.get 0 t.weir.mtab (p * 524288 + e) = blend (Tbl.get 0 s.weir.mtab (p * 524288 + e) % 65536) v.toNat (0xFFFF &&& beMask be.toNat) ∧
      (o ≠ p * 524288 + e → Tbl.get 0 t.weir.mtab o = Tbl.get 0 s.weir.mtab o) ∧ t.fld (R.WEIR_MTAB_ADDR_ENTRY p) = (e + 1) % 2 ^ 19 ∧
      t = { s with weir := { s.weir with mtab := t.weir.mtab }, regs := t.regs } ∧ WordsKept s t [R.WEIR_MTAB_ADDR p]) ∧
    (entryInUse s p e = true → Gives (.mtabDataAccess path p (some (v, be))) s fun t =>
      t.fld (R.WEIR_MTAB_ADDR_ENTRY p) = (e + 1) % 2 ^ 19 ∧ Event (hCond p) 1 s t ∧ t = { s with regs := t.regs, rep := t.rep } ∧ WordsKept s t [R.WEIR_MTAB_ADDR p])

/-! Reservoir, Pool and Eddy buffers (spec/09). -/

/-- Rank controllers, refresh, temperature and scrub (R251 to R260): a request with credit is granted before any other and uses its credit; without one, the oldest urgent request goes first, and in the
best-effort class none goes before that of a Millrace channel with a higher PRIO; nothing is granted in a refresh window; what error correction finds in a word read counts at its physical rank, or in the Pool;
requests become urgent that wait without credit, those of the scrub never. Choices of the model: log entries 3, 32, 34, 63, 66, 77. -/
def Obligations.RankControllers : Prop :=
  ∀ (s : State) (r : Fin 128) (arr : List MemReq) (q : MemReq) (w : WaitReq) (g : WaitReq) (res : Bool) (bs : List Byte) (who : Consumer) (st : Fin 4) (pool : Bool) (a k : Nat) (ch : Fin 32),
    w = { req := q, since := s.fclk, urgent := false } →
    (grant s r = some (g, res) → (s.waits r).contains g = true ∧ (res = true → hasCredit s g.req = true) ∧
      (res = false → (s.waits r).all (fun x => !hasCredit s x.req) = true ∧
        ((s.waits r).any (fun x => x.urgent) = true → g.urgent = true ∧ (s.waits r).all (fun x => !x.urgent || decide (g.since ≤ x.since)) = true))) ∧
    (grant s r = none → s.waits r = []) ∧
    (grant s r = some (g, false) → (s.waits r).any (fun x => x.urgent) = false → g.req.who = .millrace ch → (s.waits r).all (fun x => decide ((prioOf s x.req.who).getD 0 ≤ s.fld (R.MLR_CFG_PRIO ch))) = true) ∧
    (s.fclk < s.rsv.refreshEnd → poolReqs arr = [] → Gives (.rsvRequest r arr) s fun t => t = { s with rsv := { s.rsv with waits := Tbl.set s.rsv.waits r (s.waits r ++ arrivals s r arr) } }) ∧
    (s.rsv.refreshEnd ≤ s.fclk → s.rsv.window = false → s.waits r = [] → arrivals s r arr = [w] → poolReqs arr = [] → q.data = none → q.ecc = [] → Gives (.rsvRequest r arr) s fun t =>
      t.waits r = [] ∧ t = { s with rsv := t.rsv, rep := t.rep } ∧ RepFrame [] [] [] s t ∧
      (hasCredit s q = true → Tbl.get (0, 0) t.rsv.credit (conNum q.who) = (credit s q.who - 8 * q.len, s.fclk))) ∧
    (s.rsv.refreshEnd ≤ s.fclk → s.rsv.window = false → s.waits r = [] → arrivals s r arr = [w] → poolReqs arr = [] → q.data = some bs → q.addr % 8 = 0 → q.ecc = [] → bs.length % 8 = 0 → s.rsv.lost = [] → memWf s.mem = true →
      Gives (.rsvRequest r arr) s fun t =>
        t.waits r = [] ∧ t.memRead q.addr bs.length = bs ∧ ((a < q.addr ∨ q.addr + bs.length ≤ a) → memGet t.mem a = memGet s.mem a) ∧
        t = { s with rsv := t.rsv, mem := t.mem, poison := t.poison }) ∧
    (s.rsv.refreshEnd ≤ s.fclk → s.rsv.window = false → s.waits r = [] → arrivals s r arr = [w] → poolReqs arr = [] → q.data = none → q.ecc = [.corrected] → 0 < q.len → s.wordPoisoned (q.addr / 8 * 8) = false →
      s.flag R.RSV_RETIRE_CFG_AUTO = false → q.addr < poolBase → Gives (.rsvRequest r arr) s fun t =>
        t.pair (R.RSV_RANK_CE r) = (s.pair (R.RSV_RANK_CE r) + 1) % 2 ^ 64 ∧ t.mem = s.mem ∧ t.poison = s.poison ∧ Raised hRsv 0 t ∧
        WordsKept s t [R.RSV_RANK_CE r, R.RSV_RANK_CE r + 4, R.RSV_RANK_CEWIN r] ∧ t.wordN (R.RSV_RANK_CEWIN r) = min (s.wordN (R.RSV_RANK_CEWIN r) + 1) 0xFFFFFFFF) ∧
    (s.rsv.refreshEnd ≤ s.fclk → s.rsv.window = false → s.waits r = [] → arrivals s r arr = [w] → poolReqs arr = [] → q.data = none → q.ecc = [.uncorrectable] → 0 < q.len → s.wordPoisoned (q.addr / 8 * 8) = false →
      s.flag R.RSV_RETIRE_CFG_AUTO = false → q.addr < poolBase → s.rsv.lost = [] → Gives (.rsvRequest r arr) s fun t =>
        t.pair (R.RSV_RANK_UE r) = (s.pair (R.RSV_RANK_UE r) + 1) % 2 ^ 64 ∧ t.mem = s.mem ∧ t.wordPoisoned (q.addr / 8 * 8) = true ∧ Raised hRsv 1 t ∧
        t.wordN R.RSV_UE_ADDR_LO + 2 ^ 32 * t.wordN R.RSV_UE_ADDR_HI = q.addr / 8 * 8 ∧
        WordsKept s t [R.RSV_RANK_UE r, R.RSV_RANK_UE r + 4, R.RSV_UE_ADDR_LO, R.RSV_UE_ADDR_HI]) ∧
    (arrivals s r arr = [] → s.waits r = [] → arr = [q] → poolReqs arr = [q] → q.data = none → s.wordPoisoned (q.addr / 8 * 8) = false → s.inReservoir (q.addr / 8 * 8) = false → 0 < q.len →
      (q.ecc = [.corrected] → Gives (.rsvRequest r arr) s fun t => t.pair R.POOL_CE = (s.pair R.POOL_CE + 1) % 2 ^ 64 ∧ Raised hPool 0 t ∧ t.mem = s.mem ∧ t.poison = s.poison ∧ WordsKept s t [R.POOL_CE, R.POOL_CE + 4]) ∧
      (q.ecc = [.uncorrectable] → Gives (.rsvRequest r arr) s fun t => t.pair R.POOL_UE = (s.pair R.POOL_UE + 1) % 2 ^ 64 ∧ Raised hPool 1 t ∧ t.mem = s.mem ∧ t.wordN R.POOL_UE_ADDR = (q.addr / 8 * 8 - poolBase) % 2 ^ 32 ∧
        t.wordPoisoned (q.addr / 8 * 8) = true ∧ WordsKept s t [R.POOL_UE, R.POOL_UE + 4, R.POOL_UE_ADDR])) ∧
    (who ≠ .scrub → (∀ c : Fin 32, who ≠ .millrace c) → Gives (.ageUrgent r who) s fun t =>
      t.waits r = (s.waits r).map (fun w => if w.req.who = who ∧ hasCredit s w.req = false then { w with urgent := true } else w) ∧ t = { s with rsv := { s.rsv with waits := t.rsv.waits } } ∧
      (k ≠ r.val → t.waits k = s.waits k)) ∧
    (Gives (.ageUrgent r (.millrace ch)) s fun t => (Tbl.get MlrCh.init t.mlr.ch ch).urg = true ∧
      t.waits r = (s.waits r).map (fun w => if w.req.who = .millrace ch then { w with urgent := true } else w) ∧
      t = { s with rsv := { s.rsv with waits := t.rsv.waits }, mlr := { s.mlr with ch := t.mlr.ch } }) ∧
    (who = .scrub → Gives (.ageUrgent r who) s fun t => t = s) ∧
    (Gives .refreshWindow s fun t => t.rsv.refreshEnd = s.fclk + 280 ∧ t.rsv.bank.all (fun e => !e.2.opn) = true ∧
      t.rsv.bank.map (fun e => (e.1, e.2.pred, e.2.row)) = s.rsv.bank.map (fun e => (e.1, e.2.pred, e.2.row)) ∧ t = { s with rsv := { s.rsv with bank := t.rsv.bank, refreshEnd := t.rsv.refreshEnd } }) ∧
    (s.flag R.RSV_STATUS_HOT = false → Gives (.stackTempHot st) s fun t =>
      t.flag R.RSV_STATUS_HOT = true ∧ Event hRsv 7 s t ∧ t = { s with regs := t.regs, rep := t.rep } ∧ WordsKept s t [R.RSV_STATUS] ∧ t.lRanks = s.lRanks) ∧
    (s.flag R.RSV_STATUS_HOT = true → Gives .stackCoolEnd s fun t =>
      t.flag R.RSV_STATUS_HOT = false ∧ Event hRsv 8 s t ∧ t = { s with regs := t.regs, rep := t.rep } ∧ WordsKept s t [R.RSV_STATUS]) ∧
    (s.flag R.RSV_STATUS_HOT = true → Gives (.stackTempHot st) s fun t => t = s) ∧
    (Gives (.ceWindowEnd r) s fun t => t.wordN (R.RSV_RANK_CEWIN r) = 0 ∧ t = { s with regs := t.regs } ∧ WordsKept s t [R.RSV_RANK_CEWIN r]) ∧
    (Gives (.scrubPeriodStart pool) s fun t => (if pool then t = { s with rsv := { s.rsv with scrubP := true } }
      else t = { s with rsv := { s.rsv with scrubR := true }, regs := t.regs } ∧ t.flag R.RSV_STATUS_SCRUB_BUSY = true ∧ WordsKept s t [R.RSV_STATUS])) ∧
    (pool = true → s.rsv.scrubP = true → Gives (.scrubPassDone pool) s fun t => Event hPool 3 s t ∧ t = { s with rsv := { s.rsv with scrubP := false }, rep := t.rep }) ∧
    (pool = false → s.rsv.scrubR = true → Gives (.scrubPassDone pool) s fun t => Event hRsv 9 s t ∧ t.flag R.RSV_STATUS_SCRUB_BUSY = false ∧
      t = { s with rsv := { s.rsv with scrubR := false, scrubCmd := false }, regs := t.regs, rep := t.rep } ∧ WordsKept s t [R.RSV_STATUS]) ∧
    (s.cmdBusy hRsv = false → s.rsv.scrubCmd = false → Gives .rsvScrub s fun t =>
      t = { s with rsv := { s.rsv with scrubR := true, scrubCmd := true }, regs := t.regs, rep := t.rep } ∧ t.flag R.RSV_STATUS_SCRUB_BUSY = true ∧ Finished hRsv 2 .ok s t) ∧
    (s.cmdBusy hRsv = false → s.rsv.scrubCmd = true → Gives .rsvScrub s (TurnedAway hRsv 2 .busy s))

/-- Retirement of a rank (R262 to R268, R270, R280): RETIRE and the death of a rank start a migration to the spare that `spareFor` names or leave the rank without one; the copy ends, the window begins, and at its end the logical rank
points at the spare. Choices of the model: log entries 3, 16, 33. -/
def Obligations.RankRetirement : Prop :=
  ∀ (s : State) (r d : Fin 128) (m : Mig) (l l2 : Nat) (x : Lost) (chunk a k : Nat) (b : Byte) (full : Bool), l = s.fld (R.RSV_RANK_STATUS_LOGICAL m.src) →
    (s.cmdBusy hRsv = false → s.wordN R.RSV_CMD_ARG = r → s.rank r = 1 → s.rsv.mig = none → s.rsv.due = [] → spareFor s r = some d.val → Gives .retire s fun t =>
      t.rank r = 2 ∧ t.rank d = 3 ∧ t.rsv = { s.rsv with mig := some ⟨r, d, false⟩ } ∧ t.flag R.RSV_STATUS_MIGRATING = true ∧ t.wordN R.RSV_MIG_PROG = 0 ∧
      t.fld R.RSV_MIG_PAIR_SOURCE = r ∧ t.fld R.RSV_MIG_PAIR_SPARE = d ∧ Raised hRsv 2 t ∧ Raised hRsv 3 t ∧ Done hRsv 1 .ok t ∧
      t = { s with rsv := t.rsv, regs := t.regs, rep := t.rep } ∧
      WordsKept s t [R.RSV_RANK_STATUS r, R.RSV_RANK_STATUS d, R.RSV_STATUS, R.RSV_MIG_PROG, R.RSV_MIG_PAIR] ∧ RepFrame (hRsv :: basinsOf hRsv) [(hRsv, 2), (hRsv, 3)] [] s t) ∧
    (s.cmdBusy hRsv = false → s.wordN R.RSV_CMD_ARG = r → s.rank r = 1 → s.rsv.mig = none → s.rsv.due = [] → spareFor s r = none → Gives .retire s fun t =>
      t.rank r = 6 ∧ t.rsv = s.rsv ∧ Raised hRsv 2 t ∧ Raised hRsv 5 t ∧ Done hRsv 1 .ok t ∧ t.jq.any (fun j => j.typ == 6) = true ∧
      t = { s with rsv := t.rsv, regs := t.regs, jq := t.jq, rep := t.rep } ∧ WordsKept s t [R.RSV_RANK_STATUS r, R.RSV_STATUS]) ∧
    (s.cmdBusy hRsv = false → 127 < s.wordN R.RSV_CMD_ARG → Gives .retire s (TurnedAway hRsv 1 .range s)) ∧
    (s.cmdBusy hRsv = false → s.wordN R.RSV_CMD_ARG = r → s.rank r ≠ 1 → s.rank r ≠ 6 → Gives .retire s (TurnedAway hRsv 1 .state s)) ∧
    (s.cmdBusy hRsv = false → s.wordN R.RSV_CMD_ARG = r → (s.rank r = 1 ∨ s.rank r = 6) → s.rsv.mig ≠ none → Gives .retire s (TurnedAway hRsv 1 .busy s)) ∧
    (s.rank r = 5 → Gives (.rankDead r) s fun t => t = s) ∧
    (s.rank r = 0 → Gives (.rankDead r) s fun t => t.rank r = 5 ∧ t.flag R.RSV_STATUS_MEM_DEG = true ∧ t.faultBit hRsv 0 = true ∧ Raised hRsv 6 t ∧
      t = { s with regs := t.regs, rep := t.rep } ∧ WordsKept s t [R.RSV_RANK_STATUS r, R.RSV_STATUS] ∧ RepFrame [] [(hRsv, 6)] [hRsv] s t) ∧
    (s.rank r = 1 → s.rsv.mig = none → s.rsv.due = [] → spareFor s r = some d.val → Gives (.rankDead r) s fun t =>
      t.rank r = 5 ∧ t.rank d = 3 ∧ t.rsv.mig = some ⟨r, d, true⟩ ∧ t.flag R.RSV_STATUS_MEM_DEG = true ∧ Raised hRsv 6 t ∧ Raised hRsv 3 t ∧
      Tbl.find t.rsv.lost (s.fld (R.RSV_RANK_STATUS_LOGICAL r)) = some ⟨0, [], false, [], []⟩) ∧
    (s.rank r = 1 → s.rsv.mig = none → s.rsv.due = [] → spareFor s r = none → Gives (.rankDead r) s fun t =>
      t.rank r = 5 ∧ t.rsv.mig = none ∧ t.flag R.RSV_STATUS_MEM_DEG = true ∧ Raised hRsv 6 t ∧ Tbl.find t.rsv.lost (s.fld (R.RSV_RANK_STATUS_LOGICAL r)) = some ⟨0, [], true, [], []⟩) ∧
    (s.rsv.mig = some m → m.copied = false → Gives .migCopyDone s fun t =>
      t = { s with rsv := { s.rsv with mig := some { m with copied := true } }, regs := t.regs } ∧ t.wordN R.RSV_MIG_PROG = 393216 ∧ WordsKept s t [R.RSV_MIG_PROG]) ∧
    ((s.rsv.mig = none ∨ (s.rsv.mig = some m ∧ m.copied = true)) → Gives .migCopyDone s fun t => t = s) ∧
    (s.rsv.mig = some m → m.copied = true → Gives .switchoverStart s fun t => t = { s with rsv := { s.rsv with window := true } }) ∧
    ((s.rsv.mig = none ∨ (s.rsv.mig = some m ∧ m.copied = false)) → Gives .switchoverStart s fun t => t = s) ∧
    (s.rsv.mig = some m → s.rsv.window = true → s.rsv.due = [] → s.net.held = [] → m.src < 128 → m.dst < 128 → m.src ≠ m.dst → Gives .switchoverEnd s fun t =>
      t.rank m.src = 4 ∧ t.rank m.dst = 1 ∧ t.fld (R.RSV_RANK_MAP_RANK l) = m.dst ∧ t.fld (R.RSV_RANK_STATUS_LOGICAL m.dst) = l ∧
      t.waits m.dst = s.waits m.src ++ s.waits m.dst ∧ t.waits m.src = [] ∧ t.rsv = { s.rsv with mig := none, window := false, waits := t.rsv.waits } ∧ t.flag R.RSV_STATUS_MIGRATING = false ∧ Raised hRsv 4 t ∧ t.jq.any (fun j => j.typ == 6) = true ∧ t.mem = s.mem ∧
      WordsKept s t [R.RSV_RANK_STATUS m.src, R.RSV_RANK_STATUS m.dst, R.RSV_RANK_MAP l, R.RSV_STATUS]) ∧
    (s.rsv.lost = [] → Gives (.poisonFillDone chunk) s fun t => t = s) ∧
    (s.rsv.lost = [(l2, x)] → s.rank (s.fld (R.RSV_RANK_MAP_RANK l2)) ≠ 5 → x.gone = false → x.first ≤ chunk → x.filled.contains chunk = false → x.held = [] → Gives (.poisonFillDone chunk) s fun t =>
      t = { s with rsv := { s.rsv with lost := [(l2, { x with filled := chunk :: x.filled })] } }) ∧
    (s.rsv.lost = [(l2, x)] → s.rank (s.fld (R.RSV_RANK_MAP_RANK l2)) ≠ 5 → x.gone = false → x.first ≤ chunk → x.filled.contains chunk = false → x.held = [(a, b, full)] → (s.rankOf a).2 / 2048 = chunk → memWf s.mem = true →
      Gives (.poisonFillDone chunk) s fun t =>
        memGet t.mem a = b ∧ (k ≠ a → memGet t.mem k = memGet s.mem k) ∧
        (full = false → t = { s with mem := memSet s.mem a b, rsv := { s.rsv with lost := [(l2, { x with filled := chunk :: x.filled, held := [] })] } }) ∧
        (full = true → s.inReservoir (a / 8 * 8) = true → (s.rankOf (a / 8 * 8)).1 = l2 → (s.rankOf (a / 8 * 8)).2 / 2048 = chunk → t.wordPoisoned (a / 8 * 8) = false)) ∧
    (s.rsv.lost = [(l2, x)] → s.rank (s.fld (R.RSV_RANK_MAP_RANK l2)) = 5 → Gives (.poisonFillDone chunk) s fun t => t = s)

/-- Pool banks pass between owners, and FULL flags of the Eddy buffers (R5, R272 to R274, R276, R280): HANDOVER takes RELEASED banks only, with CLEAR they read 0 before the new owner has them; a FULL flag set in
the CCLK cycle of the write that clears it stays set. Choices of the model: log entries 3, 10, 80. -/
def Obligations.PoolAndEddy : Prop :=
  ∀ (s : State) (f n own b a f2 n2 : Nat) (rest : List (Nat × Nat)) (h : Fin 2) (val : Word) (be : BitVec 4) (produced : Word), f = s.fld R.POOL_CMD_ARG_FIRST → n = s.fld R.POOL_CMD_CNT_COUNTM1 + 1 →
      own = s.fld R.POOL_CMD_ARG_OWNER →
    (s.cmdBusy hPool = false → (1264 < f + n ∨ own = 0) → Gives .handover s (TurnedAway hPool 1 .range s)) ∧
    (s.cmdBusy hPool = false → f + n ≤ 1264 → own ≠ 0 → f ≤ b → b < f + n → s.fld (R.POOL_OWNER_STATE b) ≠ 2 → Gives .handover s (TurnedAway hPool 1 .state s)) ∧
    (s.cmdBusy hPool = false → f + n ≤ 1264 → own ≠ 0 → (upFrom f n).all (fun b => s.fld (R.POOL_OWNER_STATE b) == 2) = true → Gives .handover s fun t =>
      (f ≤ b → b < f + n → t.fld (R.POOL_OWNER_OWNER b) = own ∧ t.fld (R.POOL_OWNER_STATE b) = (if s.flag R.POOL_CMD_ARG_CLEAR then 3 else 1)) ∧
      WordsWithin s t (R.POOL_OWNER f) (R.POOL_OWNER (f + n)) ∧ Done hPool 1 .ok t ∧
      (s.flag R.POOL_CMD_ARG_CLEAR = false → Raised hPool 2 t ∧ t = { s with regs := t.regs, rep := t.rep } ∧ RepFrame (hPool :: basinsOf hPool) [(hPool, 2)] [] s t) ∧
      (s.flag R.POOL_CMD_ARG_CLEAR = true → t = { s with regs := t.regs, rep := t.rep, rsv := { s.rsv with clearing := s.rsv.clearing ++ [(f, n)] } } ∧ Finished hPool 1 .ok s t)) ∧
    (s.cmdBusy hPool = false → 1264 < f + n → Gives .poolRelease s (TurnedAway hPool 2 .range s)) ∧
    (s.cmdBusy hPool = false → f + n ≤ 1264 → f ≤ b → b < f + n → (s.fld (R.POOL_OWNER_STATE b) ≠ 1 ∨ releasable (s.fld (R.POOL_OWNER_OWNER b)) = false) →
      Gives .poolRelease s (TurnedAway hPool 2 .state s)) ∧
    (s.cmdBusy hPool = false → f + n ≤ 1264 → (upFrom f n).all (fun b => s.fld (R.POOL_OWNER_STATE b) == 1 && releasable (s.fld (R.POOL_OWNER_OWNER b))) = true → Gives .poolRelease s fun t =>
      (f ≤ b → b < f + n → t.fld (R.POOL_OWNER_STATE b) = 2 ∧ t.fld (R.POOL_OWNER_OWNER b) = s.fld (R.POOL_OWNER_OWNER b)) ∧
      WordsWithin s t (R.POOL_OWNER f) (R.POOL_OWNER (f + n)) ∧ t = { s with regs := t.regs, rep := t.rep } ∧ Finished hPool 2 .ok s t) ∧
    (s.rsv.clearing = (f2, n2) :: rest → f2 + n2 ≤ 1264 → Gives .handoverClearDone s fun t =>
      (poolBase + f2 * bankBytes ≤ a → a < poolBase + (f2 + n2) * bankBytes → memGet t.mem a = 0 ∧ t.poison.contains a = false) ∧
      ((a < poolBase + f2 * bankBytes ∨ poolBase + (f2 + n2) * bankBytes ≤ a) → memGet t.mem a = memGet s.mem a) ∧
      (f2 ≤ b → b < f2 + n2 → t.fld (R.POOL_OWNER_STATE b) = 1 ∧ t.fld (R.POOL_OWNER_OWNER b) = s.fld (R.POOL_OWNER_OWNER b)) ∧
      WordsWithin s t (R.POOL_OWNER f2) (R.POOL_OWNER (f2 + n2)) ∧ Event hPool 2 s t ∧
      t = { s with regs := t.regs, mem := t.mem, poison := t.poison, rsv := { s.rsv with clearing := rest }, rep := t.rep }) ∧
    (s.rsv.clearing = [] → Gives .handoverClearDone s fun t => t = s) ∧
    (Gives (.eddyFullWrite h val be produced) s fun t => t = { s with regs := t.regs, rep := { s.rep with fresh := t.rep.fresh } } ∧ WordsKept s t [R.EDDY_FULL h] ∧
      ∀ j : Fin 32, bitAt (t.wordN (R.EDDY_FULL h)) j = (bitAt produced.toNat j || (bitAt (s.wordN (R.EDDY_FULL h)) j && (!(bitAt val.toNat j && bitAt be.toNat (j / 8)) || bitAt (s.justSet (R.EDDY_FULL h)) j))))

/-! Riffle cores (spec/10). -/

/-- The core runs, nothing is in flight, no branch, step or halt is pending: its next instruction issues on its own. -/
def Sys2Proof.Claims.Ready (s : State) (c : Nat) : Prop :=
  (s.core c).run = 1 ∧ (s.core c).flight = [] ∧ (s.core c).br = none ∧ (s.core c).step = false ∧ (s.core c).haltReq = false

/-- What the core looks like when its instruction has issued with these results in flight (cycles until each is seen, target, value), SAT set or not, and an accumulator as the next MAC-class instruction sees it. -/
def Sys2Proof.Claims.issued (x : RCore) (wr : List (Nat × RTgt × Int × Int)) (sat : Bool) (mac : Option (Nat × Int × Int)) : RCore :=
  { x with pc := (x.pc + 1) % 4096, noPre := x.shadow && x.noPre, sat := x.sat || sat, flight := wr.map fun e => ⟨e.1, x.shadow, e.2.1, e.2.2.1, e.2.2.2⟩
           main := if x.shadow then x.main else match mac with | some v => { x.main with mac := Tbl.set x.main.mac v.1 v.2 } | none => x.main
           shad := if x.shadow then (match mac with | some v => { x.shad with mac := Tbl.set x.shad.mac v.1 v.2 } | none => x.shad) else x.shad }

/-- The instruction issues with these results, and nothing else in the machine changes. -/
def Sys2Proof.Claims.Issues (i : Instr) (s : State) (c : Nat) (wr : List (Nat × RTgt × Int × Int)) (sat : Bool) (mac : Option (Nat × Int × Int)) : Prop :=
  Gives i s fun t => t = s.setCore c (issued (s.core c) wr sat mac)

/-- A MAC-class result: both halves clamped to 72 bits, SAT when one clamps, latency 4, and the accumulator at once for the next MAC-class instruction (R287, R295). -/
def Sys2Proof.Claims.MacIssues (i : Instr) (s : State) (c n : Nat) (re im : Int) : Prop :=
  Issues i s c [(4, .acc n, clampS 72 re, clampS 72 im)] (clampsS 72 re || clampsS 72 im) (some (n, clampS 72 re, clampS 72 im))

/-- A D result: both components clamped to 18 bits, latency 2. -/
def Sys2Proof.Claims.DIssues (i : Instr) (s : State) (c n : Nat) (re im : Int) : Prop :=
  Issues i s c [(2, .d n, clampS 18 re, clampS 18 im)] (clampsS 18 re || clampsS 18 im) none

/-- A G result of latency 1. -/
def Sys2Proof.Claims.GIssues (i : Instr) (s : State) (c n : Nat) (v : Int) : Prop := Issues i s c [(1, .g n, v, 0)] false none

/-- A predicate result of latency 2. -/
def Sys2Proof.Claims.PIssues (i : Instr) (s : State) (c n : Nat) (v : Bool) : Prop := Issues i s c [(2, .p (n % 8), b2n v, 0)] false none

/-- Every operation of the compute slot with a NOP beside it, its predicate true (R286 to R289, R293, R295): operands are D, G, ACC and P registers of the bank in use; `y` is D[CZ], conjugated by CI bit 0; `u` is 2^29, negated by CI bit 1; CYC counts FCLK cycles since the start. Choices of the model: log entries 36, 78. -/
def Obligations.ComputeOperations : Prop :=
  ∀ (s : State) (i : CSlot) (c cx cy cz n a : Nat) (b : RBank) (x z y : Int × Int) (u gy gz imm sh : Int) (ac al : Int × Int) (neg : Bool) (v : Dy), c = i.core → b = (s.core c).bank → cx = i.cx.toNat → cy = i.cy.toNat → cz = i.cz.toNat → n = i.ci.toNat →
      x = b.D cy → z = b.D cz → y = (if bitAt n 0 then (z.1, -z.2) else z) → u = (if bitAt n 1 then -(2 ^ 29) else 2 ^ 29) → gy = sext 32 (b.G cy) → gz = sext 32 (b.G cz) → imm = sext 10 n → sh = sext 7 n →
      a = cx % 4 → ac = b.MAC a → al = b.ACC (cy % 4) → Ready s c → i.ecc.fetch = .good → xor (b.P i.pr.toNat) i.pn = true → i.mem.toNat < 2 ^ 26 →
    Issues (.nop true i) s c [] false none ∧ Issues (.nop false i) s c [] false none ∧
    MacIssues (.cmul i) s c a ((x.1 * y.1 - x.2 * y.2) * u) ((x.1 * y.2 + x.2 * y.1) * u) ∧
    MacIssues (.cmac i) s c a (ac.1 + (x.1 * y.1 - x.2 * y.2) * u) (ac.2 + (x.1 * y.2 + x.2 * y.1) * u) ∧
    MacIssues (.rmac i) s c a (ac.1 + x.1 * y.1 * u) (ac.2 + x.2 * y.2 * u) ∧
    MacIssues (.pwr i) s c a (ac.1 + (x.1 * x.1 + x.2 * x.2) * u) ac.2 ∧
    MacIssues (.aclr i) s c a 0 0 ∧
    MacIssues (.aadd i) s c a (ac.1 + (b.MAC (cy % 4)).1) (ac.2 + (b.MAC (cy % 4)).2) ∧
    MacIssues (.ash i) s c a (rneScale ac.1 sh) (rneScale ac.2 sh) ∧
    Issues (.aexp i) s c [(2, .g cx, expOf 72 9 63 al, 0)] false none ∧
    MacIssues (.anrm i) s c a (rneScale ac.1 (clampI (-64) 63 gy)) (rneScale ac.2 (clampI (-64) 63 gy)) ∧
    Issues (.arnd i) s c [(2, .d cx, clampS 18 (rneScale al.1 (sh - 46)), clampS 18 (rneScale al.2 (sh - 46)))] (clampsS 18 (rneScale al.1 (sh - 46)) || clampsS 18 (rneScale al.2 (sh - 46))) none ∧
    Issues (.ar32 i) s c [(2, .g cx, clampS 32 (rneScale al.1 (sh - 32)), 0)] (clampsS 32 (rneScale al.1 (sh - 32))) none ∧
    Issues (.aflt i) s c [(2, .g cx, (f32OfDy ⟨al.1, sh - 63⟩ : Nat), 0)] false none ∧
    (Fl.dec (b.G cy) = .fin neg v → MacIssues (.facc i) s c a (ac.1 + rneScale v.m (v.e + 63 + sh)) ac.2) ∧
    (Fl.dec (b.G cy) = .nan → Issues (.facc i) s c [(4, .acc a, clampS 72 ac.1, clampS 72 ac.2)] true (some (a, clampS 72 ac.1, clampS 72 ac.2))) ∧
    (Fl.dec (b.G cy) = .inf neg → Issues (.facc i) s c [(4, .acc a, if neg then -(2 ^ 71) else 2 ^ 71 - 1, clampS 72 ac.2)] true (some (a, if neg then -(2 ^ 71) else 2 ^ 71 - 1, clampS 72 ac.2))) ∧
    Issues (.dexp i) s c [(2, .g cx, expOf 18 1 17 x, 0)] false none ∧
    DIssues (.dnrm i) s c cx (rneScale x.1 (clampI (-64) 63 gz)) (rneScale x.2 (clampI (-64) 63 gz)) ∧
    DIssues (.dadd i) s c cx (x.1 + z.1) (x.2 + z.2) ∧ DIssues (.dsub i) s c cx (x.1 - z.1) (x.2 - z.2) ∧
    DIssues (.dconj i) s c cx x.1 (-x.2) ∧ DIssues (.dswap i) s c cx x.2 x.1 ∧ DIssues (.dmov i) s c cx x.1 x.2 ∧
    DIssues (.dpack i) s c cx (sext 18 (b.G cy)) (sext 18 (b.G cz)) ∧
    Issues (.dunpk i) s c [(2, .g cx, if bitAt n 0 then x.2 else x.1, 0)] false none ∧
    Issues (.mta i) s c [(2, fileTgt (n / 8 % 4) (n % 8), b.G cy, 0)] false none ∧ GIssues (.mfa i) s c cx (b.file (n / 8 % 4) (n % 8)) ∧
    (n % 32 ≤ 13 → (spSupWrite (n % 32) = true → (s.core c).sup = true) → Issues (.mts i) s c [(2, .sp (n % 32), b.G cy, 0)] false none) ∧
    (n % 32 ≤ 13 → n % 32 ≠ 6 → (spSupRead (n % 32) = true → (s.core c).sup = true) → GIssues (.mfs i) s c cx (readSpecial s c (n % 32))) ∧
    (n % 32 = 6 → Gives (.mfs i) s fun t => t = s.setCore c { issued (s.core c) [(1, .g cx, ((s.tclk - s.clk.t0) / 4 % 2 ^ 32 : Nat), 0)] false none with cycHi := (s.tclk - s.clk.t0) / 4 / 2 ^ 32 % 2 ^ 32 }) ∧
    (13 < n % 32 → computeSlot s c b (cWord 0x1B i) = .inl 1 ∧ computeSlot s c b (cWord 0x1C i) = .inl 1) ∧
    (n % 32 ≤ 13 → (s.core c).sup = false → (spSupWrite (n % 32) = true → computeSlot s c b (cWord 0x1B i) = .inl 2) ∧ (spSupRead (n % 32) = true → computeSlot s c b (cWord 0x1C i) = .inl 2)) ∧
    GIssues (.add i) s c cx (gy + gz) ∧ GIssues (.sub i) s c cx (gy - gz) ∧ GIssues (.and i) s c cx (b.G cy &&& b.G cz : Nat) ∧
    GIssues (.or i) s c cx (b.G cy ||| b.G cz : Nat) ∧ GIssues (.xor i) s c cx (b.G cy ^^^ b.G cz : Nat) ∧
    GIssues (.shl i) s c cx (b.G cy * 2 ^ (n % 32) : Nat) ∧ GIssues (.shr i) s c cx (gy / (2 ^ (n % 32) : Nat)) ∧ GIssues (.shrl i) s c cx (b.G cy / 2 ^ (n % 32) : Nat) ∧
    GIssues (.addi i) s c cx (gy + imm) ∧ GIssues (.movi i) s c cx (sext 14 (cz * 1024 + n)) ∧
    GIssues (.movh i) s c cx ((cy * 16384 + cz * 1024 + n) * 16384 + b.G cx % 16384 : Nat) ∧
    PIssues (.clti i) s c cx (decide (gy < imm)) ∧ PIssues (.ceqi i) s c cx (decide (gy = imm)) ∧ PIssues (.ceq i) s c cx (decide (b.G cy = b.G cz)) ∧
    PIssues (.clt i) s c cx (decide (gy < gz)) ∧ PIssues (.cltu i) s c cx (decide (b.G cy < b.G cz)) ∧
    PIssues (.pand i) s c cx (b.P cy && b.P cz) ∧ PIssues (.pnot i) s c cx (!b.P cy) ∧
    Issues (.fadd i) s c [(3, .g cx, (fAdd (b.G cy) (b.G cz) : Nat), 0)] false none ∧ Issues (.fsub i) s c [(3, .g cx, (fAdd (b.G cy) (b.G cz ^^^ 2 ^ 31) : Nat), 0)] false none ∧
    Issues (.fmul i) s c [(3, .g cx, (fMul (b.G cy) (b.G cz) : Nat), 0)] false none ∧ Issues (.fmax i) s c [(3, .g cx, (fMax (b.G cy) (b.G cz) : Nat), 0)] false none ∧
    Issues (.fmin i) s c [(3, .g cx, (fMin (b.G cy) (b.G cz) : Nat), 0)] false none ∧ Issues (.fclt i) s c [(3, .p (cx % 8), b2n (fLt (b.G cy) (b.G cz)), 0)] false none ∧
    (bitAt n 0 = false → Issues (.fcvt i) s c [(3, .g cx, (f32OfDy ⟨gy, 0⟩ : Nat), 0)] false none) ∧
    (bitAt n 0 = true → Issues (.fcvt i) s c [(3, .g cx, (fToInt (b.G cy)).1, 0)] (fToInt (b.G cy)).2 none)

/-- The core stalls on the far access. -/
def Sys2Proof.Claims.FarIssues (i : Instr) (s : State) (c word : Nat) : Prop :=
  Gives i s fun t => (t.core c).run = 3 ∧ (t.core c).far = some ⟨word, s.fclk, s.fld (R.MMU_CORE_ASID_ASID c)⟩ ∧ (t.core c).pc = (s.core c).pc ∧ (t.core c).flight = [] ∧
    (t.core c).main = (s.core c).main ∧ (t.core c).shad = (s.core c).shad ∧ t = { s with rfl := Tbl.set s.rfl c (t.core c) }

/-- Every operation of the memory slot with a NOP beside it, its predicate true (R283, R284, R290, R291, R294, R297 to R299, R302): local loads and stores in data memory, far ones that stall, control and event operations.  `va` is the address
in A[MA], `pm` its post-modified value, `ld` and `st` the bytes a local load finds and a store writes, `nb` the buffer in the Eddy window.  A load that reads a corrected word counts it, one that cannot be corrected
faults; a window access waits for port B. Choices of the model: log entries 36, 78. -/
def Obligations.MemoryOperations : Prop :=
  ∀ (s : State) (i : MSlot) (c n mr va pm k nb : Nat) (b : RBank) (off : Int) (st4 st6 stc sta : List Byte), c = i.core → b = (s.core c).bank → n = i.ma.toNat → mr = i.mr.toNat → va = b.A n →
      off = (if i.ms then sext 18 (i.mo.toNat * 2 ^ 15 + i.low.toNat) else sext 32 (b.file 1 i.mo.toNat)) → pm = postMod b n off →
      st4 = leBytes 4 (b.G mr) → st6 = leBytes 3 (enc 24 (b.D mr).1) ++ leBytes 3 (enc 24 (b.D mr).2) →
      stc = leBytes 2 (enc 16 (clampS 16 (rneScale (b.D mr).1 (-2)))) ++ leBytes 2 (enc 16 (clampS 16 (rneScale (b.D mr).2 (-2)))) →
      sta = leBytes 4 (enc 32 (clampS 32 (rneScale (b.ACC (mr % 4)).1 (-32)))) ++ leBytes 4 (enc 32 (clampS 32 (rneScale (b.ACC (mr % 4)).2 (-32)))) →
      Ready s c → xor (b.P i.pr.toNat) i.pn = true → i.comp.toNat < 2 ^ 22 → i.ecc.fetch = .good → nb = (s.core c).ewin % 64 →
    (i.ecc.data = [] → va % 4 = 0 → va + 4 ≤ 0x40000 → Issues (.ldw i) s c [(1, .a n, pm, 0), (4, .g mr, (leNat (localRead s c va 4) : Nat), 0)] false none) ∧
    (i.ecc.data = [] → va % 2 = 0 → va + 6 ≤ 0x40000 → Issues (.ldc6 i) s c [(1, .a n, pm, 0), (4, .d mr, clampS 18 (sext 24 (leNat (localRead s c va 3))), clampS 18 (sext 24 (leNat (localRead s c (va + 3) 3))))]
      (clampsS 18 (sext 24 (leNat (localRead s c va 3))) || clampsS 18 (sext 24 (leNat (localRead s c (va + 3) 3)))) none) ∧
    (i.ecc.data = [] → va % 4 = 0 → va + 4 ≤ 0x40000 → Issues (.ldc4 i) s c [(1, .a n, pm, 0), (4, .d mr, 4 * sext 16 (leNat (localRead s c va 2)), 4 * sext 16 (leNat (localRead s c (va + 2) 2)))] false none) ∧
    (i.ecc.data = [.corrected] → va % 4 = 0 → va + 4 ≤ 0x40000 → Gives (.ldw i) s fun t => t.pair (R.RFL_CE c) = (s.pair (R.RFL_CE c) + 1) % 2 ^ 64 ∧
      t = { s.setCore c (issued (s.core c) [(1, .a n, pm, 0), (4, .g mr, (leNat (localRead s c va 4) : Nat), 0)] false none) with regs := t.regs } ∧ WordsKept s t [R.RFL_CE c, R.RFL_CE c + 4]) ∧
    (i.ecc.data = [.uncorrectable] → va % 4 = 0 → va + 4 ≤ 0x40000 → (s.core c).shadow = false → s.flag (R.RFL_CFG_FAULT_ACT c) = true → Gives (.ldw i) s fun t => (t.core c).ecause = 8 ∧ (t.core c).eaddr = va ∧ (t.core c).epc = (s.core c).pc ∧
      (t.core c).pc = s.wordN (R.RFL_VEC_FAULT c) % 4096 ∧ (t.core c).shadow = true ∧ (t.core c).main = (s.core c).main ∧ t.pair (R.RFL_FAULTS c) = (s.pair (R.RFL_FAULTS c) + 1) % 2 ^ 64 ∧ Raised (hCore c) 1 t ∧ t.mem = s.mem) ∧
    (va % 4 = 0 → 0x40000 ≤ va → va + 4 ≤ 0x48000 → bitAt (s.core c).ewin 6 = true → portBusy s nb = false →
      Gives (.ldw i) s fun t => t = portUse nb c (s.setCore c (issued (s.core c) [(1, .a n, pm, 0), (4, .g mr, (leNat (eddyReadB s (eddyBase + nb * 0x8000 + (va - 0x40000)) 4) : Nat), 0)] false none))) ∧
    (va % 4 = 0 → 0x40000 ≤ va → va + 4 ≤ 0x48000 → bitAt (s.core c).ewin 6 = true → portBusy s nb = true →
      Gives (.ldw i) s fun t => (t.core c).run = 3 ∧ (t.core c).win = some (mWord 0x01 i) ∧ (t.core c).pc = (s.core c).pc ∧ (t.core c).flight = [] ∧ (t.core c).main = (s.core c).main ∧ (t.core c).shad = (s.core c).shad ∧
        t = { s with rfl := Tbl.set s.rfl c (t.core c) }) ∧
    (va % 4 = 0 → va + 4 ≤ 0x40000 → Gives (.stw i) s fun t => t = s.setCore c { issued (s.core c) [(1, .a n, pm, 0)] false none with dmem := (t.core c).dmem } ∧
      localRead t c va 4 = st4 ∧ ((k < va ∨ va + 4 ≤ k) → Tbl.get 0 (t.core c).dmem k = Tbl.get 0 (s.core c).dmem k)) ∧
    (va % 2 = 0 → va + 6 ≤ 0x40000 → Gives (.stc6 i) s fun t => t = s.setCore c { issued (s.core c) [(1, .a n, pm, 0)] false none with dmem := (t.core c).dmem } ∧
      localRead t c va 6 = st6 ∧ ((k < va ∨ va + 6 ≤ k) → Tbl.get 0 (t.core c).dmem k = Tbl.get 0 (s.core c).dmem k)) ∧
    (va % 4 = 0 → va + 4 ≤ 0x40000 → Gives (.stc4 i) s fun t =>
      t = s.setCore c { issued (s.core c) [(1, .a n, pm, 0)] (clampsS 16 (rneScale (b.D mr).1 (-2)) || clampsS 16 (rneScale (b.D mr).2 (-2))) none with dmem := (t.core c).dmem } ∧
      localRead t c va 4 = stc ∧ ((k < va ∨ va + 4 ≤ k) → Tbl.get 0 (t.core c).dmem k = Tbl.get 0 (s.core c).dmem k)) ∧
    (va % 8 = 0 → va + 8 ≤ 0x40000 → Gives (.sta i) s fun t =>
      t = s.setCore c { issued (s.core c) [(1, .a n, pm, 0)] (clampsS 32 (rneScale (b.ACC (mr % 4)).1 (-32)) || clampsS 32 (rneScale (b.ACC (mr % 4)).2 (-32))) none with dmem := (t.core c).dmem } ∧
      localRead t c va 8 = sta ∧ ((k < va ∨ va + 8 ≤ k) → Tbl.get 0 (t.core c).dmem k = Tbl.get 0 (s.core c).dmem k)) ∧
    (va % 4 = 0 → FarIssues (.ldfw i) s c (mWord 0x11 i) ∧ FarIssues (.stfw i) s c (mWord 0x12 i) ∧ FarIssues (.ldfc4 i) s c (mWord 0x15 i) ∧ FarIssues (.stfc4 i) s c (mWord 0x16 i)) ∧
    (va % 2 = 0 → FarIssues (.ldfc6 i) s c (mWord 0x13 i) ∧ FarIssues (.stfc6 i) s c (mWord 0x14 i)) ∧ (va % 8 = 0 → FarIssues (.stfa i) s c (mWord 0x17 i)) ∧
    (Gives (.br i) s fun t => t = s.setCore c { issued (s.core c) [] false none with br := some ⟨i.low.toNat % 4096, 2, false⟩ }) ∧
    (Gives (.call i) s fun t => t = s.setCore c { issued (s.core c) [(1, .g 15, ((s.core c).pc + 3) % 4096, 0)] false none with br := some ⟨i.low.toNat % 4096, 2, false⟩ }) ∧
    (Gives (.jmp i) s fun t => t = s.setCore c { issued (s.core c) [] false none with br := some ⟨b.G mr % 4096, 2, false⟩ }) ∧
    ((s.core c).sup = true → Gives (.rte i) s fun t => t = s.setCore c { issued (s.core c) [] false none with br := some ⟨0, 2, true⟩ }) ∧
    ((b.G mr = 0 ∨ evpWord s c &&& b.G mr ≠ 0) → Issues (.wait i) s c [] false none) ∧
    (b.G mr ≠ 0 → evpWord s c &&& b.G mr = 0 → Gives (.wait i) s fun t => (t.core c).run = 2 ∧ (t.core c).mask = b.G mr ∧
      t = s.setCore c { issued (s.core c) [] false none with run := 2, mask := b.G mr, cyc := (t.core c).cyc, cycFrom := s.fclk, stall := (s.core c).stall, stallFrom := s.fclk }) ∧
    Issues (.eclrv i) s c [(2, .evClear, b.G mr, 0)] false none ∧
    (Gives (.evs i) s fun t => t = { s.setCore c (issued (s.core c) [] false none) with rep := t.rep } ∧ Event (hCore c) 2 s t) ∧
    Issues (.eflg i) s c [(2, .p (mr % 8), b2n (s.full (i.low.toNat % 64)), 0)] false none ∧
    (Gives (.eclr i) s fun t => t = { s.setCore c (issued (s.core c) [] false none) with regs := t.regs } ∧ WordsKept s t [R.EDDY_FULL (i.low.toNat % 64 / 32)] ∧
      ∀ j : Fin 64, t.full j = (s.full j && decide (j.val ≠ i.low.toNat % 64))) ∧
    ((s.core c).shadow = false → Gives (.sys i) s fun t => (t.core c).pc = s.wordN (R.RFL_VEC_SYS c) % 4096 ∧ (t.core c).shadow = true ∧ (t.core c).sup = true ∧ (t.core c).run = 1 ∧
      (t.core c).epc = ((s.core c).pc + 1) % 4096 ∧ (t.core c).ectx = 0 ∧ (t.core c).ecause = 10 ∧ (t.core c).main = (s.core c).main ∧ (t.core c).shad = (s.core c).shad ∧
      t.wordN (R.RFL_ECAUSE c) = 10 ∧ t.wordN (R.RFL_EPC c) = ((s.core c).pc + 1) % 4096 ∧ t = { s with rfl := t.rfl, regs := t.regs } ∧ WordsKept s t [R.RFL_ECAUSE c, R.RFL_EPC c]) ∧
    (Gives (.halt i) s fun t => (t.core c).run = 0 ∧ (t.core c).pc = ((s.core c).pc + 1) % 4096 ∧ (t.core c).main = (s.core c).main ∧ (t.core c).shad = (s.core c).shad ∧
      t = { s with rfl := t.rfl, rep := t.rep } ∧ Event (hCore c) 0 s t)

/-- Results land when their latency has passed, the later-issued last (R295, R296, R301); a false predicate leaves only the index (R292); the first fault of an instruction is taken with nothing else done (R303, R304), an instruction
word that cannot be corrected being the first of all, and one corrected counted (R284). Choices of the model: log entries 36, 78. -/
def Obligations.ResultsAndFaults : Prop :=
  ∀ (s : State) (c n k : Nat) (x : RCore) (w v : Wr) (word : Nat) (e : LocalEcc), x = s.core c →
    (x.flight = [w] → 1 < w.left → advance c s = s.setCore c { x with flight := [{ w with left := w.left - 1 }] }) ∧
    (x.flight = [w] → w.left = 1 → w.shadow = x.shadow → w.tgt = .g n → ((advance c s).core c).flight = [] ∧ ((advance c s).core c).bank.G n = enc 32 w.re ∧
      (k ≠ n → ((advance c s).core c).bank.G k = x.bank.G k)) ∧
    (x.flight = [w] → w.left = 1 → w.shadow = x.shadow → w.tgt = .d n → ((advance c s).core c).bank.D n = (w.re, w.im)) ∧
    (x.flight = [w] → w.left = 1 → w.shadow = x.shadow → w.tgt = .acc n → ((advance c s).core c).bank.ACC n = (w.re, w.im)) ∧
    (x.flight = [w] → w.left = 1 → w.shadow = x.shadow → w.tgt = .p n → n < 8 → ((advance c s).core c).bank.P n = (decide (n = 0) || decide (w.re ≠ 0))) ∧
    (x.flight = [w, v] → w.left = 1 → v.left = 1 → v.shadow = x.shadow → v.tgt = .g n → ((advance c s).core c).bank.G n = enc 32 v.re) ∧
    (Ready s c → e.fetch = .good → xor (x.bank.P (bits word 63 61)) (bitAt word 60) = false → issueWord c word e s = s.setCore c (issued x [] false none)) ∧
    (x.run ≠ 1 → issueWord c word e s = s) ∧
    (Ready s c → e.fetch = .good → xor (x.bank.P (bits word 63 61)) (bitAt word 60) = true → computeSlot s c x.bank word = .inl k → x.shadow = false → s.flag (R.RFL_CFG_FAULT_ACT c) = true → c < 64 → k ≠ 10 →
      ((issueWord c word e s).core c).pc = s.wordN (R.RFL_VEC_FAULT c) % 4096 ∧ ((issueWord c word e s).core c).epc = x.pc ∧ ((issueWord c word e s).core c).ecause = k ∧
      ((issueWord c word e s).core c).shadow = true ∧ ((issueWord c word e s).core c).sup = true ∧ ((issueWord c word e s).core c).main = x.main ∧
      (issueWord c word e s).pair (R.RFL_FAULTS c) = (s.pair (R.RFL_FAULTS c) + 1) % 2 ^ 64 ∧ Raised (hCore c) 1 (issueWord c word e s) ∧ (issueWord c word e s).mem = s.mem) ∧
    (Ready s c → e.fetch = .good → xor (x.bank.P (bits word 63 61)) (bitAt word 60) = true → computeSlot s c x.bank word = .inl k → x.shadow = false → s.flag (R.RFL_CFG_FAULT_ACT c) = false → c < 64 → k ≠ 10 →
      ((issueWord c word e s).core c).run = 0 ∧ ((issueWord c word e s).core c).pc = x.pc ∧ (issueWord c word e s).faultBit (hCore c) 1 = true ∧ Raised (hCore c) 1 (issueWord c word e s) ∧
      Raised (hCore c) 0 (issueWord c word e s)) ∧
    (Ready s c → e.fetch = .good → xor (x.bank.P (bits word 63 61)) (bitAt word 60) = true → computeSlot s c x.bank word = .inl k → x.shadow = true → c < 64 → k ≠ 10 →
      ((issueWord c word e s).core c).run = 0 ∧ (issueWord c word e s).faultBit (hCore c) 2 = true ∧ Raised (hCore c) 4 (issueWord c word e s)) ∧
    (Ready s c → e.fetch = .corrected → xor (x.bank.P (bits word 63 61)) (bitAt word 60) = false → issueWord c word e s = { s.setCore c (issued x [] false none) with regs := (issueWord c word e s).regs } ∧
      (issueWord c word e s).pair (R.RFL_CE c) = (s.pair (R.RFL_CE c) + 1) % 2 ^ 64 ∧ WordsKept s (issueWord c word e s) [R.RFL_CE c, R.RFL_CE c + 4]) ∧
    (Ready s c → e.fetch = .uncorrectable → x.shadow = false → s.flag (R.RFL_CFG_FAULT_ACT c) = true → c < 64 → ((issueWord c word e s).core c).pc = s.wordN (R.RFL_VEC_FAULT c) % 4096 ∧
      ((issueWord c word e s).core c).epc = x.pc ∧ ((issueWord c word e s).core c).ecause = 11 ∧ ((issueWord c word e s).core c).shadow = true ∧ ((issueWord c word e s).core c).main = x.main ∧
      (issueWord c word e s).pair (R.RFL_FAULTS c) = (s.pair (R.RFL_FAULTS c) + 1) % 2 ^ 64 ∧ Raised (hCore c) 1 (issueWord c word e s) ∧ (issueWord c word e s).mem = s.mem)

/-- Commands and events of a core (R286, R298 to R300, R306, R307, R309): RUN, HALT, STEP and RESET with their refusals, debug accesses, pre-emption, the timer, the doorbell, and the end of a far access; a core that runs disabled since the start is
refused RUN and STEP (R249). Choices of the model: log entries 3, 36, 77, 78. -/
def Obligations.CoreCommands : Prop :=
  ∀ (s : State) (c : Fin 64) (x : RCore) (val : Word) (be : BitVec 4) (path : Path) (a k : Nat) (resp : Response) (f : Far) (d : Nat) (i : MSlot) (p : FarPart), x = s.core c →
    (s.cmdBusy (hCore c) = false → x.run = 0 → s.faultBit (hCore c) 2 = false → s.disabled (hCore c) = false → Gives (.rflRun c) s fun t => (t.core c).run = 1 ∧ (t.core c).pc = x.pc ∧ (t.core c).main = x.main ∧
      t.faultBit (hCore c) 1 = false ∧ Done (hCore c) 1 .ok t ∧ t = { s with rfl := t.rfl, rep := t.rep } ∧ RepFrame (hCore c :: basinsOf (hCore c)) [] [hCore c] s t) ∧
    (s.cmdBusy (hCore c) = false → (x.run ≠ 0 ∨ s.faultBit (hCore c) 2 = true ∨ s.disabled (hCore c) = true) → Gives (.rflRun c) s (TurnedAway (hCore c) 1 .state s)) ∧
    (s.cmdBusy (hCore c) = false → x.run = 1 → x.flight = [] → x.step = false → Gives (.rflHaltCmd c) s fun t => (t.core c).run = 0 ∧ (t.core c).pc = x.pc ∧ (t.core c).main = x.main ∧
      Raised (hCore c) 0 t ∧ Done (hCore c) 2 .ok t ∧ t = { s with rfl := t.rfl, rep := t.rep } ∧ RepFrame (hCore c :: basinsOf (hCore c)) [(hCore c, 0)] [] s t) ∧
    (s.cmdBusy (hCore c) = false → x.run = 3 → Gives (.rflHaltCmd c) s fun t => t = { s.setCore c { x with haltReq := true } with rep := t.rep } ∧ Finished (hCore c) 2 .ok s t) ∧
    (s.cmdBusy (hCore c) = false → x.run = 0 → Gives (.rflHaltCmd c) s (TurnedAway (hCore c) 2 .state s)) ∧
    (s.cmdBusy (hCore c) = false → x.run = 0 → s.disabled (hCore c) = false → x.flight = [] → x.br = none → x.haltReq = false → xor (x.bank.P (bits (imemWord s c x.pc) 63 61)) (bitAt (imemWord s c x.pc) 60) = false → Gives (.rflStep c) s fun t =>
      (t.core c).run = 0 ∧ (t.core c).pc = (x.pc + 1) % 4096 ∧ (t.core c).main = x.main ∧ t = { s with rfl := t.rfl, rep := t.rep } ∧ Finished (hCore c) 3 .ok s t) ∧
    (s.cmdBusy (hCore c) = false → x.run ≠ 0 → Gives (.rflStep c) s (TurnedAway (hCore c) 3 .state s) ∧ Gives (.rflReset c) s (TurnedAway (hCore c) 4 .state s)) ∧
    (s.cmdBusy (hCore c) = false → s.disabled (hCore c) = true → Gives (.rflStep c) s (TurnedAway (hCore c) 3 .state s)) ∧
    (s.cmdBusy (hCore c) = false → x.run = 0 → Gives (.rflReset c) s fun t => (t.core c).pc = s.wordN (R.RFL_ENTRY c) % 4096 ∧ (t.core c).main = RBank.init ∧ (t.core c).shad = RBank.init ∧
      (t.core c).run = 0 ∧ (t.core c).imem = x.imem ∧ (t.core c).dmem = x.dmem ∧ (t.core c).ie = false ∧ Tbl.find t.rep.evp c = none ∧ t.faultBit (hCore c) 2 = false ∧ t.faultBit (hCore c) 1 = false ∧
      Done (hCore c) 4 .ok t ∧ t = { s with rfl := t.rfl, regs := t.regs, rep := t.rep } ∧ WordsKept s t [R.RFL_ECAUSE c, R.RFL_EPC c, R.RFL_EADDR_LO c, R.RFL_EADDR_HI c]) ∧
    (x.shadow = false → x.ie = true → evpWord s c &&& x.eve ≠ 0 → x.far = none → (x.run = 1 ∨ x.run = 2) → x.noPre = false → x.flight = [] → Gives (.preempt c) s fun t =>
      (t.core c).pc = s.wordN (R.RFL_VEC_EVENT c) % 4096 ∧ (t.core c).shadow = true ∧ (t.core c).sup = true ∧ (t.core c).epc = x.pc ∧ (t.core c).ectx = ectxOf x.br ∧ (t.core c).ecause = 0 ∧
      (t.core c).run = 1 ∧ (t.core c).br = none ∧ (t.core c).main = x.main ∧ t = { s with rfl := t.rfl, regs := t.regs } ∧ WordsKept s t [R.RFL_ECAUSE c, R.RFL_EPC c]) ∧
    ((x.shadow = true ∨ x.ie = false ∨ evpWord s c &&& x.eve = 0 ∨ x.run = 0 ∨ x.run = 3 ∨ x.noPre = true) → Gives (.preempt c) s fun t => t = s) ∧
    (x.ctmr.1 ≠ 0 → Gives (.ctmrExpire c) s fun t => bitAt (evpWord t c) 28 = true ∧ (t.core c).ctmr = (0, s.fclk) ∧ t = { s.setCore c { x with ctmr := (0, s.fclk) } with rep := t.rep } ∧ RepFrame [] [] [] s t) ∧
    (x.ctmr.1 = 0 → Gives (.ctmrExpire c) s fun t => t = s) ∧
    (Gives (.doorbell c) s fun t => bitAt (evpWord t c) 29 = true ∧ t = { s with rep := t.rep } ∧ RepFrame [] [] [] s t) ∧
    (x.run = 2 → evpWord s c &&& x.mask ≠ 0 → x.step = false → x.haltReq = false → Gives (.waitRelease c) s fun t => (t.core c).run = 1 ∧ (t.core c).pc = x.pc ∧ t = { s with rfl := t.rfl }) ∧
    ((x.run ≠ 2 ∨ evpWord s c &&& x.mask = 0) → Gives (.waitRelease c) s fun t => t = s) ∧
    (x.run = 0 → a = s.wordN (R.RFL_IMEM_ADDR c) % 4096 → Gives (.imemWrite c val be) s fun t =>
      imemWord t c a = s.wordN (R.RFL_IMEM_LO c) + 2 ^ 32 * blend (imemWord s c a / 2 ^ 32 % 2 ^ 32) val.toNat (beMask be.toNat) ∧ (k < 4096 → k ≠ a → imemWord t c k = imemWord s c k) ∧
      t.wordN (R.RFL_IMEM_ADDR c) = (a + 1) % 4096 ∧ t = { s.setCore c { x with imem := (t.core c).imem } with regs := t.regs } ∧ WordsKept s t [R.RFL_IMEM_ADDR c]) ∧
    (x.run ≠ 0 → Gives (.imemWrite c val be) s (fun t => t = { s with rep := t.rep } ∧ Event (hCore c) 3 s t) ∧ Gives (.dbgDataWrite c val be) s (fun t => t = { s with rep := t.rep } ∧ Event (hCore c) 3 s t)) ∧
    (a = s.wordN (R.RFL_IMEM_ADDR c) % 4096 → Gives (.imemHiRead path c) s fun t => t.rep = { s.rep with out := .regRead path (R.RFL_IMEM_HI c) (imemWord s c a / 2 ^ 32) :: s.rep.out } ∧
      t.wordN (R.RFL_IMEM_ADDR c) = (a + 1) % 4096 ∧ t = { s with regs := t.regs, rep := t.rep } ∧ WordsKept s t [R.RFL_IMEM_ADDR c]) ∧
    (a = 4 * s.fld (R.RFL_DMEM_ADDR_ADDR c) → Gives (.dmemDataAccess path c none) s fun t => t.rep = { s.rep with out := .regRead path (R.RFL_DMEM_DATA c) (dmemWord s c a) :: s.rep.out } ∧
      t.fld (R.RFL_DMEM_ADDR_ADDR c) = (a / 4 + 1) % 65536 ∧ t = { s with regs := t.regs, rep := t.rep } ∧ WordsKept s t [R.RFL_DMEM_ADDR c]) ∧
    (a = 4 * s.fld (R.RFL_DMEM_ADDR_ADDR c) → Gives (.dmemDataAccess path c (some (val, be))) s fun t => dmemWord t c a = blend (dmemWord s c a) val.toNat (beMask be.toNat) ∧
      ((k < a ∨ a + 4 ≤ k) → Tbl.get 0 (t.core c).dmem k = Tbl.get 0 x.dmem k) ∧ t.fld (R.RFL_DMEM_ADDR_ADDR c) = (a / 4 + 1) % 65536 ∧
      t = { s.setCore c { x with dmem := (t.core c).dmem } with regs := t.regs } ∧ WordsKept s t [R.RFL_DMEM_ADDR c]) ∧
    (x.run = 0 → s.fld (R.RFL_DBG_SEL_FILE c) = 0 → s.flag (R.RFL_DBG_SEL_BANK c) = false → Gives (.dbgDataWrite c val be) s fun t =>
      (t.core c).main.G (s.fld (R.RFL_DBG_SEL_INDEX c)) = blend (x.main.G (s.fld (R.RFL_DBG_SEL_INDEX c)) % 2 ^ 32) val.toNat (beMask be.toNat) ∧
      (k ≠ s.fld (R.RFL_DBG_SEL_INDEX c) → (t.core c).main.G k = x.main.G k) ∧ t = s.setCore c { x with main := { x.main with g := (t.core c).main.g } }) ∧
    (x.far = none → Gives (.farAccessComplete c resp) s fun t => t = s) ∧
    (x.far = some f → f.word = mWord 0x11 i → i.comp.toNat < 2 ^ 22 → x.run = 3 → x.flight = [] → x.br = none → x.step = false → x.haltReq = false → x.sup = true →
      (farTranslate c f false (farVa x f.word) 4 s).1 = .inr [p] → p.dev = d → p.len = 4 → (farTranslate c f false (farVa x f.word) 4 s).2 = s → devCause s (coreOwner c) d 4 false resp = 0 → resp = .answered [] → Gives (.farAccessComplete c resp) s fun t =>
        (t.core c).run = 1 ∧ (t.core c).far = none ∧ (t.core c).pc = (x.pc + 1) % 4096 ∧
        (t.core c).flight.getLast? = some ⟨4, x.shadow, .g i.mr.toNat, (leNat (devRead s d 4) : Nat), 0⟩ ∧ (t.core c).main = x.main ∧ t = { s with rfl := t.rfl, rep := t.rep, rsv := t.rsv } ∧ (inEddy d = false → t.rsv = s.rsv) ∧ RepFrame [] [] [] s t) ∧
    (x.far = some f → f.word = mWord 0x12 i → i.comp.toNat < 2 ^ 22 → x.run = 3 → x.flight = [] → x.br = none → x.step = false → x.haltReq = false → x.sup = true → s.rsv.lost = [] → memWf s.mem = true →
      (farTranslate c f false (farVa x f.word) 4 s).1 = .inr [p] → p.dev = d → p.len = 4 → (farTranslate c f false (farVa x f.word) 4 s).2 = s → devCause s (coreOwner c) d 4 true resp = 0 → resp = .answered [] → s.inReservoir d = true →
      Gives (.farAccessComplete c resp) s fun t => (t.core c).run = 1 ∧ (t.core c).far = none ∧ (t.core c).pc = (x.pc + 1) % 4096 ∧ t.memRead d 4 = leBytes 4 (x.bank.G i.mr.toNat) ∧
        ((k < d ∨ d + 4 ≤ k) → memGet t.mem k = memGet s.mem k) ∧ t = { s with rfl := t.rfl, mem := t.mem, poison := t.poison, rep := t.rep, rsv := t.rsv } ∧ (inEddy d = false → t.rsv = s.rsv) ∧ RepFrame [] [] [] s t)

/-! Translation and Millrace (spec/11). -/

/-- Number of a requester in MMU_LF_INFO.REQ (R333). -/
def Sys2Proof.Claims.reqNum : Requester → Nat
  | .core c => c.val
  | .chan ch => 64 + ch.val

/-- Does the requester `r` wait for a walk of virtual address `va` in address space `as` (R310, R312)? -/
def Sys2Proof.Claims.needs (s : State) (r : Requester) (as va : Nat) : Bool :=
  match r with
  | .core c => (match (s.core c).far with
      | none => false
      | some f => f.asid == as && (farVas s c f (farVa (s.core c) f.word) (memSize (bits f.word 31 26))).find? (fun v => needsWalk s c f.asid v) == some va)
  | .chan ch => chanAsid s ch == as && (chanWaits s ch).map (fun e => e.1 % 2 ^ 48) == some va

/-- What a failed walk leaves (R313, R319, R320, R333): the fault recorded, the counters, and a channel that fetched a descriptor halted. -/
def Sys2Proof.Claims.WalkFault (s t : State) (n as va level cause : Nat) (mal bad : Bool) : Prop :=
  t.wordN R.MMU_LF_VA_LO + 2 ^ 32 * t.wordN R.MMU_LF_VA_HI = va ∧ t.flag R.MMU_LF_INFO_VALID = true ∧ t.fld R.MMU_LF_INFO_LEVEL = level ∧ t.flag R.MMU_LF_INFO_MALFORMED = mal ∧
  t.flag R.MMU_LF_INFO_WALK = bad ∧ t.fld R.MMU_LF_INFO_CAUSE = cause ∧ t.fld R.MMU_LF_INFO_ASID = as ∧ t.fld R.MMU_LF_INFO_REQ = n ∧ Raised hMmu 0 t ∧ (mal = true → Raised hMmu 1 t) ∧
  t.pair R.MMU_FAULTS = (s.pair R.MMU_FAULTS + 1) % 2 ^ 64 ∧ t.pair R.MMU_WALKS = (s.pair R.MMU_WALKS + 1) % 2 ^ 64 ∧
  t.pair R.MMU_MALFORMED = (s.pair R.MMU_MALFORMED + b2n mal) % 2 ^ 64 ∧ t.mem = s.mem ∧ t.mmu = s.mmu ∧
  (64 ≤ n → (s.mch (n - 64)).out = [] → t.mState (n - 64) = 4 ∧ t.fld (R.MLR_STATUS_CAUSE (n - 64)) = cause ∧ Raised (hMlr (n - 64)) 2 t ∧ t.faultBit (hMlr (n - 64)) 0 = true)

/-- Walks, TLB fills and invalidation (R312 to R317, R319, R320, R331): a walk reads one entry a level and fills the TLB with the page of its leaf; an invalid or malformed entry or a poisoned
or uncorrectable read at any level is a recorded fault, the poison before the malformation. Choices of the model: log entries 3, 38, 79. -/
def Obligations.Translation : Prop :=
  ∀ (s : State) (r : Requester) (n as va t0 t1 t2 t3 e0 e1 e2 e3 key k k2 : Nat) (v : Nat × Nat × Nat) (l0 l1 l2 : Bool) (y : Nat),
    y = bits (s.wordN R.MMU_CMD_ARG_LO) 31 12 * 4096 + 2 ^ 32 * s.fld R.MMU_CMD_ARG_HI_VA →
    (n = reqNum r → key = min n 64 → needs s r as va = true → s.mmu.discard = [] → va < 2 ^ 48 →
      t0 = asRoot s as → e0 = leNat (s.memRead (t0 + 8 * bits va 47 39) 8) → t1 = bits e0 39 12 * 4096 → e1 = leNat (s.memRead (t1 + 8 * bits va 38 30) 8) → t2 = bits e1 39 12 * 4096 →
      e2 = leNat (s.memRead (t2 + 8 * bits va 29 21) 8) → t3 = bits e2 39 12 * 4096 → e3 = leNat (s.memRead (t3 + 8 * bits va 20 12) 8) →
      l0 = (tableOk s t0 && !s.poisoned (t0 + 8 * bits va 47 39) 8) →
      l1 = (l0 && decide (bits e0 1 0 = 1) && decide (e0 < 2 ^ 40) && tableOk s t1 && !s.poisoned (t1 + 8 * bits va 38 30) 8) →
      l2 = (l1 && decide (bits e1 1 0 = 1) && decide (e1 < 2 ^ 40) && tableOk s t2 && !s.poisoned (t2 + 8 * bits va 29 21) 8) →
      ((l2 = true → bits e2 1 0 = 3 → e2 < 2 ^ 40 → Gives (.pageWalkDone r []) s fun t =>
          t.tlb n = (⟨as, va / 2 ^ 21 * 2 ^ 21, bits e2 39 21 * 2 ^ 21, 21, bitAt e2 6, bitAt e2 5, bitAt e2 4⟩ :: s.tlb n).take (if n < 64 then 32 else 128) ∧ (k ≤ 64 → k ≠ key → t.tlb k = s.tlb k) ∧
          t.pair R.MMU_WALKS = (s.pair R.MMU_WALKS + 1) % 2 ^ 64 ∧ t = { s with regs := t.regs, mmu := { s.mmu with tlb := t.mmu.tlb } } ∧ WordsKept s t [R.MMU_WALKS, R.MMU_WALKS + 4]) ∧
        (l2 = true → bits e2 1 0 = 1 → e2 < 2 ^ 40 → tableOk s t3 = true → s.poisoned (t3 + 8 * bits va 20 12) 8 = false → bits e3 1 0 = 3 → e3 < 2 ^ 40 → bits e3 3 2 ≤ 1 → Gives (.pageWalkDone r []) s fun t =>
          t.tlb n = ((if bits e3 3 2 = 1 then ⟨as, va / 2 ^ 16 * 2 ^ 16, bits e3 39 16 * 2 ^ 16, 16, bitAt e3 6, bitAt e3 5, bitAt e3 4⟩
              else ⟨as, va / 2 ^ 12 * 2 ^ 12, bits e3 39 12 * 2 ^ 12, 12, bitAt e3 6, bitAt e3 5, bitAt e3 4⟩) :: s.tlb n).take (if n < 64 then 32 else 128) ∧
          (k ≤ 64 → k ≠ key → t.tlb k = s.tlb k) ∧ t.pair R.MMU_WALKS = (s.pair R.MMU_WALKS + 1) % 2 ^ 64 ∧
          t = { s with regs := t.regs, mmu := { s.mmu with tlb := t.mmu.tlb } } ∧ WordsKept s t [R.MMU_WALKS, R.MMU_WALKS + 4]) ∧
        (tableOk s t0 = false → Gives (.pageWalkDone r []) s fun t => WalkFault s t n as va 0 5 true false) ∧
        (tableOk s t0 = true → s.poisoned (t0 + 8 * bits va 47 39) 8 = true → Gives (.pageWalkDone r []) s fun t => WalkFault s t n as va 0 8 false true) ∧
        (tableOk s t0 = true → s.poisoned (t0 + 8 * bits va 47 39) 8 = false → Gives (.pageWalkDone r [.uncorrectable]) s fun t => WalkFault s t n as va 0 8 false true) ∧
        (l1 = true → Gives (.pageWalkDone r [.good, .uncorrectable]) s fun t => WalkFault s t n as va 1 8 false true) ∧
        (l0 = true → bitAt e0 0 = false → Gives (.pageWalkDone r []) s fun t => WalkFault s t n as va 0 5 false false) ∧
        (l0 = true → bitAt e0 0 = true → (bitAt e0 1 = true ∨ 2 ^ 40 ≤ e0 ∨ tableOk s t1 = false) → Gives (.pageWalkDone r []) s fun t => WalkFault s t n as va 0 5 true false) ∧
        (l1 = true → bitAt e1 0 = false → Gives (.pageWalkDone r []) s fun t => WalkFault s t n as va 1 5 false false) ∧
        (l1 = true → bitAt e1 0 = true → (bitAt e1 1 = true ∨ 2 ^ 40 ≤ e1 ∨ tableOk s t2 = false) → Gives (.pageWalkDone r []) s fun t => WalkFault s t n as va 1 5 true false) ∧
        (l2 = true → bitAt e2 0 = false → Gives (.pageWalkDone r []) s fun t => WalkFault s t n as va 2 5 false false) ∧
        (l2 = true → bitAt e2 0 = true → (2 ^ 40 ≤ e2 ∨ (bitAt e2 1 = false ∧ tableOk s t3 = false)) → Gives (.pageWalkDone r []) s fun t => WalkFault s t n as va 2 5 true false) ∧
        (l2 = true → bits e2 1 0 = 1 → e2 < 2 ^ 40 → tableOk s t3 = true → s.poisoned (t3 + 8 * bits va 20 12) 8 = false → bitAt e3 0 = false →
          Gives (.pageWalkDone r []) s fun t => WalkFault s t n as va 3 5 false false) ∧
        (l2 = true → bits e2 1 0 = 1 → e2 < 2 ^ 40 → tableOk s t3 = true → s.poisoned (t3 + 8 * bits va 20 12) 8 = false → bitAt e3 0 = true → (bitAt e3 1 = false ∨ 2 ^ 40 ≤ e3 ∨ 2 ≤ bits e3 3 2) →
          Gives (.pageWalkDone r []) s fun t => WalkFault s t n as va 3 5 true false))) ∧
    (s.cmdBusy hMmu = false → Gives .invAll s fun t => t.mmu.inv = some (1, s.fld R.MMU_CMD_ARG_HI_ASID, y) ∧ (k < 64 → t.mmu.discard.contains k = coreWalks s k) ∧
      (k2 < 32 → t.mmu.discard.contains (64 + k2) = (chanWaits s k2).isSome) ∧ t.cmdBusy hMmu = true ∧ t = { s with mmu := { s.mmu with inv := t.mmu.inv, discard := t.mmu.discard }, rep := t.rep }) ∧
    (s.cmdBusy hMmu = false → Gives .invAs s fun t => t.mmu.inv = some (2, s.fld R.MMU_CMD_ARG_HI_ASID, y) ∧ (k < 64 → t.mmu.discard.contains k = coreWalks s k) ∧
      (k2 < 32 → t.mmu.discard.contains (64 + k2) = (chanWaits s k2).isSome) ∧ t.cmdBusy hMmu = true ∧ t = { s with mmu := { s.mmu with inv := t.mmu.inv, discard := t.mmu.discard }, rep := t.rep }) ∧
    (s.cmdBusy hMmu = false → Gives .invVa s fun t => t.mmu.inv = some (3, s.fld R.MMU_CMD_ARG_HI_ASID, y) ∧ (k < 64 → t.mmu.discard.contains k = coreWalks s k) ∧
      (k2 < 32 → t.mmu.discard.contains (64 + k2) = (chanWaits s k2).isSome) ∧ t.cmdBusy hMmu = true ∧ t = { s with mmu := { s.mmu with inv := t.mmu.inv, discard := t.mmu.discard }, rep := t.rep }) ∧
    (s.cmdBusy hMmu = true → Gives .invAll s (fun t => t = s) ∧ Gives .invAs s (fun t => t = s) ∧ Gives .invVa s (fun t => t = s)) ∧
    (s.mmu.inv = some v → s.mmu.discard = [] → Gives .invDone s fun t =>
      t.tlb k = (s.tlb k).filter (fun e => !(decide (v.1 = 1) || (e.asid == v.2.1 && (decide (v.1 = 2) || decide (e.va / 2 ^ e.size = v.2.2 / 2 ^ e.size))))) ∧
      t.mmu.inv = none ∧ Done hMmu v.1 .ok t ∧ Raised hMmu 2 t ∧ t = { s with mmu := { s.mmu with tlb := t.mmu.tlb, inv := none }, rep := t.rep } ∧ RepFrame (hMmu :: basinsOf hMmu) [(hMmu, 2)] [] s t) ∧
    ((s.mmu.inv = none ∨ s.mmu.discard ≠ []) → Gives .invDone s fun t => t = s) ∧
    ((match r with | .core c => (s.core c).far.isNone | .chan ch => (chanWaits s ch).isNone) = true → Gives (.pageWalkDone r []) s fun t =>
      t = { s with mmu := { s.mmu with discard := s.mmu.discard.filter (fun q => q != reqNum r) } })

/-- Millrace descriptors (R311, R321 to R329): issue in bursts that cross no 256-byte boundary, by urgency, PRIO and turn; a burst that completes has moved its bytes, one that faults has moved none and withdraws
the later ones of its descriptor; a retried burst is ready to issue again; halts, read-back and completion. Choices of the model: log entries 3, 39, 79. -/
def Obligations.MillraceBursts : Prop :=
  ∀ (s : State) (ch : Fin 32) (x : MlrCh) (b : Burst) (rest : List Burst) (rd wr resp : Response) (a sa da k c : Nat) (d d2 : List Nat) (j : Fin 32) (e : Burst), x = s.mch ch → d = x.desc →
    (x.stage = .fetch → s.mState ch = 1 → a = dNext d → bitAt a 63 = true → s.flag (R.MLR_CFG_PHYS_OK ch) = true → bits a 62 40 = 0 → resp = .answered [] → c = devCause s (0x1C20 + ch) (a % 2 ^ 40) 64 false resp →
      d2 = (List.range 16).map (fun w => leNat (((devRead s (a % 2 ^ 40) 64).drop (4 * w)).take 4)) → x.stop = false →
      (c = 0 → descOk d2 = true → Gives (.descFetchDone ch resp) s fun t => (t.mch ch).stage = .bursts ∧ (t.mch ch).desc = d2 ∧ ((t.mch ch).nx, (t.mch ch).ny, (t.mch ch).nz) = (0, 0, 0) ∧ (t.mch ch).left = true ∧
        t.mState ch = 1 ∧ t.flag (R.MLR_STATUS_REGD ch) = false ∧ t.pair (R.MLR_CUR_LO ch) = a % 2 ^ 64 ∧ t.wordN (R.MLR_POS_X ch) = 0 ∧ t.wordN (R.MLR_POS_YZ ch) = 0 ∧
        t = { s with mlr := { s.mlr with ch := Tbl.set s.mlr.ch ch (t.mch ch) }, regs := t.regs } ∧
        WordsKept s t [R.MLR_STATUS ch, R.MLR_CUR_LO ch, R.MLR_CUR_LO ch + 4, R.MLR_POS_X ch, R.MLR_POS_YZ ch]) ∧
      (c = 0 → descOk d2 = false → Gives (.descFetchDone ch resp) s fun t => t.mState ch = 4 ∧ t.fld (R.MLR_STATUS_CAUSE ch) = 1 ∧ t.flag (R.MLR_STATUS_DESC ch) = true ∧ t.faultBit (hMlr ch) 0 = true ∧
        Raised (hMlr ch) 2 t ∧ t.mem = s.mem) ∧
      ((c = 8 ∨ (c = 9 ∧ s.fld (R.MLR_CFG_RETRY_LIM ch) ≤ x.bus)) → Gives (.descFetchDone ch resp) s fun t => t.mState ch = 4 ∧ t.fld (R.MLR_STATUS_CAUSE ch) = c ∧
        t.flag (R.MLR_STATUS_DESC ch) = true ∧ t.flag (R.MLR_STATUS_SIDE ch) = false ∧ t.wordN (R.MLR_FLT_VA_LO ch) = a % 2 ^ 32 ∧ t.faultBit (hMlr ch) 0 = true ∧ Raised (hMlr ch) 2 t ∧ Raised hMmu 0 t ∧
        (t.mch ch).stage = .fetch ∧ (t.mch ch).desc = d ∧ t.mem = s.mem) ∧
      (c = 7 → x.mig = none → Gives (.descFetchDone ch resp) s fun t => t.mState ch = 2 ∧ (t.mch ch).mig = some s.fclk ∧ Raised hMmu 0 t ∧ t.mem = s.mem) ∧
      (c = 9 → x.bus < s.fld (R.MLR_CFG_RETRY_LIM ch) → Gives (.descFetchDone ch resp) s fun t => t.mState ch = 2 ∧ (t.mch ch).bus = x.bus + 1 ∧ Raised hMmu 0 t ∧ t.mem = s.mem)) ∧
    (Gives (.descFetchDone ch resp) s fun t => ((x.stage ≠ .fetch ∨ s.mState ch ≠ 1) → t = s)) ∧
    (e = ⟨x.nx, x.ny, x.nz, srcAt d x.nx x.ny x.nz, dstAt d x.nx x.ny x.nz, min (dX d + 1 - x.nx) (min (256 - srcAt d x.nx x.ny x.nz % 256) (256 - dstAt d x.nx x.ny x.nz % 256)), s.fclk, d, x.num, false⟩ → x.nx ≤ dX d →
      (List.range 32).filter (mlrReady s) = [ch.val] → (List.range 32).foldl (fun n i => n + (s.mch i).out.length) 0 < 64 → Gives .burstIssue s fun t =>
      t.mlr.last = Tbl.set s.mlr.last (chanPrio s ch) ch.val ∧ (t.mch ch).out = x.out ++ [e] ∧ e.src / 256 = (e.src + e.len - 1) / 256 ∧ e.dst / 256 = (e.dst + e.len - 1) / 256 ∧ 0 < e.len ∧
      (x.nx + e.len ≤ dX d → ((t.mch ch).nx, (t.mch ch).ny, (t.mch ch).nz, (t.mch ch).left) = (x.nx + e.len, x.ny, x.nz, true)) ∧
      (dX d < x.nx + e.len → x.ny < dY d → ((t.mch ch).nx, (t.mch ch).ny, (t.mch ch).nz, (t.mch ch).left) = (0, x.ny + 1, x.nz, true)) ∧
      (dX d < x.nx + e.len → x.ny = dY d → x.nz < dZ d → ((t.mch ch).nx, (t.mch ch).ny, (t.mch ch).nz, (t.mch ch).left) = (0, 0, x.nz + 1, true)) ∧
      (dX d < x.nx + e.len → x.ny = dY d → x.nz = dZ d → (t.mch ch).left = false) ∧
      t = { s with mlr := { ch := Tbl.set s.mlr.ch ch (t.mch ch), last := t.mlr.last } }) ∧
    (Gives .burstIssue s fun t => (((List.range 32).filter (mlrReady s) = [] ∨ 64 ≤ (List.range 32).foldl (fun n i => n + (s.mch i).out.length) 0) → t = s) ∧
      ((t.mch ch).out ≠ x.out → mlrReady s ch = true ∧ x.out.length < 8 ∧ (mlrReady s j = true → mlrUrgent s ch = false → mlrUrgent s j = false ∧ s.fld (R.MLR_CFG_PRIO j) ≤ s.fld (R.MLR_CFG_PRIO ch)) ∧
        (mlrUrgent s j = true → x.ready ≤ (s.mch j).ready) ∧ (mlrReady s j = true → mlrUrgent s ch = false → chanPrio s j = chanPrio s ch →
          (ch.val + 31 - Tbl.get 31 s.mlr.last (chanPrio s ch)) % 32 ≤ (j.val + 31 - Tbl.get 31 s.mlr.last (chanPrio s ch)) % 32))) ∧
    (x.out = [] → Gives (.burstComplete ch rd wr) s fun t => t = s) ∧
    (x.out = b :: rest → bitAt b.src 63 = true → bitAt b.dst 63 = true → s.flag (R.MLR_CFG_PHYS_OK ch) = true → bits b.src 62 40 = 0 → bits b.dst 62 40 = 0 → sa = b.src % 2 ^ 40 → da = b.dst % 2 ^ 40 →
      rd = .answered [] → wr = .answered [] → devCause s (0x1C20 + ch) sa b.len false rd = 0 → s.rsv.lost = [] → memWf s.mem = true → s.inReservoir da = true → s.inReservoir sa = true → b.orphan = false →
      (devCause s (0x1C20 + ch) da b.len true wr = 0 → mayOverlap b.desc = false → x.stop = false → Gives (.burstComplete ch rd wr) s fun t => t.memRead da b.len = s.memRead sa b.len ∧
        ((k < da ∨ da + b.len ≤ k) → memGet t.mem k = memGet s.mem k) ∧ (t.mch ch).out = rest ∧ (t.mch ch).desc = d ∧
        t = { s with mem := t.mem, poison := t.poison, regs := t.regs, rep := t.rep, rsv := t.rsv, mlr := { s.mlr with ch := Tbl.set s.mlr.ch ch (t.mch ch) } } ∧ (inEddy sa = false → inEddy da = false → t.rsv = s.rsv) ∧ RepFrame [] [] [] s t ∧
        WordsKept s t [R.MLR_POS_X ch, R.MLR_POS_YZ ch, R.MLR_STATUS ch, R.MLR_BYTES ch, R.MLR_BYTES ch + 4] ∧
        (rest = [] → x.left = false → t.pair (R.MLR_BYTES ch) = (s.pair (R.MLR_BYTES ch) + dBytes d) % 2 ^ 64 ∧ (dCtl d 2 = true → t.mState ch = 3 ∧ (t.mch ch).stage = .readback) ∧
          (dCtl d 2 = false → (t.mch ch).stage = .done ∧ t.mState ch = s.mState ch)) ∧
        (x.left = true → t.pair (R.MLR_BYTES ch) = s.pair (R.MLR_BYTES ch) ∧ (t.mch ch).stage = x.stage ∧ t.mState ch = s.mState ch))) ∧
    (x.out = b :: rest → bitAt b.src 63 = true → bitAt b.dst 63 = true → s.flag (R.MLR_CFG_PHYS_OK ch) = true → bits b.src 62 40 = 0 → bits b.dst 62 40 = 0 → sa = b.src % 2 ^ 40 → da = b.dst % 2 ^ 40 →
      rd = .answered [] → wr = .answered [] → devCause s (0x1C20 + ch) sa b.len false rd = 0 → b.orphan = false → devCause s (0x1C20 + ch) da b.len true wr = 6 → Gives (.burstComplete ch rd wr) s fun t => t.mem = s.mem ∧ (t.mch ch).out = rest.filter Burst.orphan ∧
        ((t.mch ch).nx, (t.mch ch).ny, (t.mch ch).nz, (t.mch ch).left) = (b.x, b.y, b.z, true) ∧ t.mState ch = 4 ∧ t.fld (R.MLR_STATUS_CAUSE ch) = 6 ∧ t.flag (R.MLR_STATUS_SIDE ch) = true ∧
        t.flag (R.MLR_STATUS_DESC ch) = false ∧ t.wordN (R.MLR_POS_X ch) = b.x ∧ Raised (hMlr ch) 2 t ∧ t.faultBit (hMlr ch) 0 = true ∧ t.pair R.MMU_FAULTS = (s.pair R.MMU_FAULTS + 1) % 2 ^ 64) ∧
    (x.out = b :: rest → b.orphan = true → bitAt b.src 63 = true → bitAt b.dst 63 = true → s.flag (R.MLR_CFG_PHYS_OK ch) = true → bits b.src 62 40 = 0 → bits b.dst 62 40 = 0 → sa = b.src % 2 ^ 40 → da = b.dst % 2 ^ 40 →
      rd = .answered [] → wr = .answered [] → devCause s (0x1C20 + ch) sa b.len false rd = 0 → devCause s (0x1C20 + ch) da b.len true wr = 6 → Gives (.burstComplete ch rd wr) s fun t => t.mem = s.mem ∧
        t.mch ch = { x with out := rest.filter (fun e => e.num != b.num) } ∧ t.mState ch = s.mState ch ∧ Raised hMmu 0 t ∧ t.pair R.MMU_FAULTS = (s.pair R.MMU_FAULTS + 1) % 2 ^ 64 ∧
        t = { s with regs := t.regs, rep := t.rep, mlr := { s.mlr with ch := Tbl.set s.mlr.ch ch (t.mch ch) } } ∧ RepFrame [] [(hMmu, 0)] [] s t) ∧
    (s.mState ch = 2 → x.stage = .bursts → Gives (.burstRetry ch) s fun t => t.mState ch = 1 ∧ t.pair (R.MLR_RETRIES ch) = (s.pair (R.MLR_RETRIES ch) + 1) % 2 ^ 64 ∧ Raised (hMlr ch) 3 t ∧
      t.mch ch = { x with ready := s.fclk, urg := false } ∧ t = { s with regs := t.regs, rep := t.rep, mlr := { s.mlr with ch := Tbl.set s.mlr.ch ch (t.mch ch) } } ∧ RepFrame [] [(hMlr ch, 3)] [] s t ∧
      WordsKept s t [R.MLR_STATUS ch, R.MLR_RETRIES ch, R.MLR_RETRIES ch + 4]) ∧
    (s.mState ch = 2 → x.stage = .readback → Gives (.burstRetry ch) s fun t => t.mState ch = 3 ∧ Raised (hMlr ch) 3 t ∧ t = { s with regs := t.regs, rep := t.rep }) ∧
    (s.mState ch = 2 → x.stage = .fetch → Gives (.burstRetry ch) s fun t => t.mState ch = 1 ∧ Raised (hMlr ch) 3 t ∧ t = { s with regs := t.regs, rep := t.rep }) ∧
    (s.mState ch ≠ 2 → Gives (.burstRetry ch) s fun t => t = s) ∧
    (x.stage = .readback → s.mState ch = 3 → a = dstAt d (dX d) (dY d) (dZ d) / 8 * 8 → bitAt a 63 = true → s.flag (R.MLR_CFG_PHYS_OK ch) = true → bits a 62 40 = 0 → x.stop = false → c = devCause s (0x1C20 + ch) (a % 2 ^ 40) 8 false resp → resp = .answered [] →
      (c = 0 → Gives (.readbackDone ch resp) s fun t => t.mState ch = 1 ∧ t.mch ch = { x with stage := .done, mig := none, bus := 0 } ∧
        t = { s with regs := t.regs, mlr := { s.mlr with ch := Tbl.set s.mlr.ch ch (t.mch ch) } } ∧ WordsKept s t [R.MLR_STATUS ch]) ∧
      (c = 8 → Gives (.readbackDone ch resp) s fun t => t.mState ch = 4 ∧ t.fld (R.MLR_STATUS_CAUSE ch) = 8 ∧ Raised (hMlr ch) 2 t ∧ (t.mch ch).stage = .readback)) ∧
    ((x.stage ≠ .readback ∨ s.mState ch ≠ 3) → Gives (.readbackDone ch resp) s fun t => t = s) ∧
    (x.stage = .done → s.mState ch = 1 → (dCtl d 1 = true → dNext d % 64 = 0) → Gives (.descComplete ch) s fun t => t.pair (R.MLR_DONE ch) = (s.pair (R.MLR_DONE ch) + 1) % 2 ^ 64 ∧
      (dCtl d 0 = true → Raised (hMlr ch) 0 t) ∧ (dCtl d 1 = true → t.mState ch = 1 ∧ (t.mch ch).stage = .fetch ∧ (t.mch ch).desc = d) ∧
      (dCtl d 1 = false → t.mState ch = 0 ∧ (t.mch ch).stage = .none ∧ Raised (hMlr ch) 1 t) ∧
      (∀ i : Fin 64, bitAt (t.wordN (R.EDDY_FULL (i / 32))) (i % 32) = (bitAt (s.wordN (R.EDDY_FULL (i / 32))) (i % 32) && !(dCtl d 3 && decide (bits (dW d 10) 29 24 = i)))) ∧
      t = { s with regs := t.regs, rep := t.rep, mlr := { s.mlr with ch := Tbl.set s.mlr.ch ch (t.mch ch) } } ∧ RepFrame [] [(hMlr ch, 0), (hMlr ch, 1)] [] s t ∧
      WordsKept s t [R.MLR_STATUS ch, R.MLR_DONE ch, R.MLR_DONE ch + 4, R.EDDY_FULL 0, R.EDDY_FULL 1]) ∧
    (x.stage = .done → s.mState ch = 1 → dCtl d 1 = true → dNext d % 64 ≠ 0 → Gives (.descComplete ch) s fun t => t.mState ch = 4 ∧ t.fld (R.MLR_STATUS_CAUSE ch) = 4 ∧ t.flag (R.MLR_STATUS_DESC ch) = true ∧ Raised (hMlr ch) 2 t) ∧
    ((x.stage ≠ .done ∨ s.mState ch ≠ 1) → Gives (.descComplete ch) s fun t => t = s)

/-- START, STOP, RESUME and ABORT of a Millrace channel, with their refusals (R321, R324, R327, R328, R331). A channel that runs disabled since the start is refused START (R249). Choices of the model: log
entries 39, 77. -/
def Obligations.MillraceCommands : Prop :=
  ∀ (s : State) (ch : Fin 32) (x : MlrCh) (d : List Nat) (st : Nat), x = s.mch ch → d = (List.range 16).map (fun w => s.wordN (R.MLR_DESC ch w)) → st = s.mState ch → s.cmdBusy (hMlr ch) = false →
    (st = 0 → s.disabled (hMlr ch) = false → descOk d = true → Gives (.mlrStart ch) s fun t => t.mState ch = 1 ∧ t.flag (R.MLR_STATUS_REGD ch) = true ∧
      t.mch ch = { x with stage := .bursts, desc := d, nx := 0, ny := 0, nz := 0, left := true, ready := s.fclk, urg := false, mig := none, bus := 0, num := x.num + 1, old := (t.mch ch).old } ∧
      t.pair (R.MLR_CUR_LO ch) = 0 ∧ t.wordN (R.MLR_POS_X ch) = 0 ∧ t.wordN (R.MLR_POS_YZ ch) = 0 ∧ Finished (hMlr ch) 1 .ok s t ∧
      t = { s with regs := t.regs, rep := t.rep, mlr := { s.mlr with ch := Tbl.set s.mlr.ch ch (t.mch ch) } } ∧
      WordsKept s t [R.MLR_STATUS ch, R.MLR_CUR_LO ch, R.MLR_CUR_LO ch + 4, R.MLR_POS_X ch, R.MLR_POS_YZ ch]) ∧
    (st = 0 → s.disabled (hMlr ch) = false → descOk d = false → Gives (.mlrStart ch) s fun t => t.mState ch = 4 ∧ t.fld (R.MLR_STATUS_CAUSE ch) = 1 ∧ t.flag (R.MLR_STATUS_DESC ch) = false ∧ t.faultBit (hMlr ch) 0 = true ∧ Raised (hMlr ch) 2 t ∧
      Done (hMlr ch) 1 .ok t) ∧
    ((st ≠ 0 ∨ s.disabled (hMlr ch) = true) → Gives (.mlrStart ch) s (TurnedAway (hMlr ch) 1 .state s)) ∧
    ((st = 0 ∨ st = 4 ∨ st = 5) → Gives (.mlrStop ch) s (TurnedAway (hMlr ch) 2 .state s)) ∧
    ((st = 3 ∨ (st = 1 ∧ x.stage = .fetch) ∨ (st = 1 ∧ x.out.all Burst.orphan = false)) → Gives (.mlrStop ch) s fun t =>
      t = { s.setMch ch { x with stop := true } with rep := t.rep } ∧ Finished (hMlr ch) 2 .ok s t) ∧
    ((st = 2 ∨ (st = 1 ∧ x.stage ≠ .fetch)) → x.out.all Burst.orphan = true → Gives (.mlrStop ch) s fun t => t.mState ch = 5 ∧ t.mch ch = { x with stop := false } ∧ Raised (hMlr ch) 4 t ∧ Done (hMlr ch) 2 .ok t ∧
      t = { s with regs := t.regs, rep := t.rep, mlr := { s.mlr with ch := Tbl.set s.mlr.ch ch (t.mch ch) } } ∧ WordsKept s t [R.MLR_STATUS ch] ∧
      RepFrame (hMlr ch :: basinsOf (hMlr ch)) [(hMlr ch, 4)] [] s t) ∧
    ((st = 4 ∨ st = 5) → x.stage = .bursts → descOk x.desc = true → Gives (.mlrResume ch) s fun t => t.mState ch = 1 ∧ t.mch ch = { x with stop := false, mig := none, bus := 0, ready := s.fclk } ∧
      Finished (hMlr ch) 3 .ok s t ∧ t = { s with regs := t.regs, rep := t.rep, mlr := { s.mlr with ch := Tbl.set s.mlr.ch ch (t.mch ch) } } ∧ WordsKept s t [R.MLR_STATUS ch]) ∧
    ((st = 4 ∨ st = 5) → x.stage = .fetch → dNext x.desc % 64 = 0 → Gives (.mlrResume ch) s fun t => t.mState ch = 1 ∧ (t.mch ch).stage = .fetch ∧ Finished (hMlr ch) 3 .ok s t) ∧
    ((st = 4 ∨ st = 5) → x.stage = .readback → Gives (.mlrResume ch) s fun t => t.mState ch = 3 ∧ (t.mch ch).stage = .readback ∧ Finished (hMlr ch) 3 .ok s t) ∧
    (st ≠ 4 → st ≠ 5 → Gives (.mlrResume ch) s (TurnedAway (hMlr ch) 3 .state s)) ∧
    (st = 0 → Gives (.mlrAbort ch) s (TurnedAway (hMlr ch) 4 .state s)) ∧
    (st ≠ 0 → Gives (.mlrAbort ch) s fun t => t.mState ch = 0 ∧ t.faultBit (hMlr ch) 0 = false ∧ (t.mch ch).stage = .none ∧ (t.mch ch).out = x.out.map (fun b => { b with orphan := true }) ∧
      Done (hMlr ch) 4 .ok t ∧ RepFrame (hMlr ch :: basinsOf (hMlr ch)) [] [hMlr ch] s t ∧
      t = { s with regs := t.regs, rep := t.rep, mlr := { s.mlr with ch := Tbl.set s.mlr.ch ch (t.mch ch) } } ∧ WordsKept s t [R.MLR_STATUS ch])

/-! Streams, network and host port (spec/12). -/

/-- Links, pauses and the frames that a link answers or discards (R334 to R336): LINK_UP and LINK_DOWN, PFC and PAUSE frames, ARP and neighbour solicitations. Choices of the model: log entries 3, 17, 18, 43. -/
def Obligations.LinksAndPauses : Prop :=
  ∀ (s : State) (k : Fin 4) (c : Fin 8) (en : BitVec 8) (qs : List (BitVec 16)) (q : BitVec 16) (mac : BitVec 48) (ip target : BitVec 32) (ip6 target6 : BitVec 128),
    (lnkOn s k = true → lnkUp s k = false → Gives (.linkUp k) s fun t => lnkUp t k = true ∧ t.flag (R.NET_LNK_STATUS_PCS k) = true ∧ t.fld (R.NET_LNK_STATUS_PAUSED k) = 0 ∧ Event (hLink k) 0 s t ∧
      t = { s with regs := t.regs, rep := t.rep } ∧ WordsKept s t [R.NET_LNK_STATUS k]) ∧
    ((lnkOn s k = false ∨ lnkUp s k = true) → Gives (.linkUp k) s fun t => t = s) ∧
    (lnkUp s k = true → Gives (.linkDown k) s fun t => lnkUp t k = false ∧ t.flag (R.NET_LNK_STATUS_PCS k) = false ∧ t.fld (R.NET_LNK_STATUS_PAUSED k) = 255 ∧ Event (hLink k) 1 s t ∧
      t = { s with regs := t.regs, rep := t.rep } ∧ WordsKept s t [R.NET_LNK_STATUS k]) ∧
    (lnkUp s k = false → Gives (.linkDown k) s (fun t => t = s) ∧ Gives (.pfcFrameRx k en qs) s (fun t => t = s) ∧ Gives (.pauseFrameRx k q) s (fun t => t = s) ∧ Gives (.pauseEnd k c) s (fun t => t = s) ∧
      Gives (.arpRequest k mac ip target) s (fun t => t = s) ∧ Gives (.neighbourSolicitation k mac ip6 target6) s (fun t => t = s) ∧ Gives (.frameDiscard k) s (fun t => t = s)) ∧
    (lnkUp s k = true → bitAt (lnkCfg s k) 3 = true → qs.length = 8 → Gives (.pfcFrameRx k en qs) s fun t =>
      paused t k c = (if bitAt en.toNat c then decide (qs.getD c 0 ≠ 0) else paused s k c) ∧ t.pair (R.NET_PAUSE_RX k) = (s.pair (R.NET_PAUSE_RX k) + 1) % 2 ^ 64 ∧
      t = { s with regs := t.regs } ∧ WordsKept s t [R.NET_LNK_STATUS k, R.NET_PAUSE_RX k, R.NET_PAUSE_RX k + 4] ∧ lnkUp t k = true) ∧
    (lnkUp s k = true → bitAt (lnkCfg s k) 2 = true → Gives (.pauseFrameRx k q) s fun t => paused t k c = decide (q ≠ 0) ∧ t.pair (R.NET_PAUSE_RX k) = (s.pair (R.NET_PAUSE_RX k) + 1) % 2 ^ 64 ∧
      t = { s with regs := t.regs } ∧ WordsKept s t [R.NET_LNK_STATUS k, R.NET_PAUSE_RX k, R.NET_PAUSE_RX k + 4] ∧ lnkUp t k = true) ∧
    (lnkUp s k = true → Gives (.pauseEnd k c) s fun t => (∀ j : Fin 8, paused t k j = (paused s k j && decide (j ≠ c))) ∧ t = { s with regs := t.regs } ∧ WordsKept s t [R.NET_LNK_STATUS k]) ∧
    (lnkUp s k = true → bitAt (lnkCfg s k) 4 = true → target.toNat = s.wordN (R.NET_IP4 k) → Gives (.arpRequest k mac ip target) s fun t =>
      t.rep = { s.rep with out := .frame k "ARP" (withFcs (beBytes 6 mac.toNat ++ s.linkMac k ++ [0x08, 0x06, 0, 1, 0x08, 0x00, 6, 4, 0, 2] ++ s.linkMac k ++ s.linkIp4 k ++ beBytes 6 mac.toNat ++ beBytes 4 ip.toNat)) :: s.rep.out } ∧
      t.pair (R.NET_TX_FRAMES k) = (s.pair (R.NET_TX_FRAMES k) + 1) % 2 ^ 64 ∧ t = { s with regs := t.regs, rep := t.rep } ∧ WordsKept s t [R.NET_TX_FRAMES k, R.NET_TX_FRAMES k + 4]) ∧
    (lnkUp s k = true → bitAt (lnkCfg s k) 5 = true → beBytes 16 target6.toNat = s.linkIp6 k → Gives (.neighbourSolicitation k mac ip6 target6) s fun t =>
      t.rep = { s.rep with out := .frame k "ND" (withFcs (neighbourAdv s k (beBytes 6 mac.toNat) (beBytes 16 ip6.toNat))) :: s.rep.out } ∧
      t.pair (R.NET_TX_FRAMES k) = (s.pair (R.NET_TX_FRAMES k) + 1) % 2 ^ 64 ∧ t = { s with regs := t.regs, rep := t.rep } ∧ WordsKept s t [R.NET_TX_FRAMES k, R.NET_TX_FRAMES k + 4]) ∧
    (lnkUp s k = true → Gives (.frameDiscard k) s fun t => t.pair (R.NET_RX_DISCARD k) = (s.pair (R.NET_RX_DISCARD k) + 1) % 2 ^ 64 ∧ t = { s with regs := t.regs } ∧
      WordsKept s t [R.NET_RX_DISCARD k, R.NET_RX_DISCARD k + 4]) ∧
    (lnkUp s k = true → (bitAt (lnkCfg s k) 4 = false ∨ target.toNat ≠ s.wordN (R.NET_IP4 k)) → Gives (.arpRequest k mac ip target) s fun t =>
      t.pair (R.NET_RX_DISCARD k) = (s.pair (R.NET_RX_DISCARD k) + 1) % 2 ^ 64 ∧ t = { s with regs := t.regs } ∧ WordsKept s t [R.NET_RX_DISCARD k, R.NET_RX_DISCARD k + 4])

/-- The 64-byte header of a datagram (R341), field by field. -/
def Sys2Proof.Claims.Wenud (b : List Byte) (flags m kind psw seq id off len total : Nat) : Prop :=
  fieldAt b 0 2 = 0x4E57 ∧ fieldAt b 2 1 = 1 ∧ fieldAt b 3 1 = flags ∧ fieldAt b 4 1 = m ∧ fieldAt b 5 1 = kind ∧ fieldAt b 6 2 = psw % 65536 ∧ fieldAt b 8 8 = seq % 2 ^ 64 ∧ fieldAt b 16 8 = id % 2 ^ 64 ∧
  fieldAt b 24 6 = off % 2 ^ 48 ∧ fieldAt b 30 2 = len % 65536 ∧ fieldAt b 32 6 = total % 2 ^ 48

/-- Streams (R337 to R345, R359): START, STOP and SEND_REC; a datagram of a product carries its header and the next bytes, on die when the priority is free, in Backwater when it is paused, else lost with LOSS owed; the highest
priority that may send does so; the unit is refused START while it runs disabled since the start (R269). Choices of the model: log entries 3, 17, 40, 77. -/
def Obligations.StreamsAndDatagrams : Prop :=
  ∀ (s : State) (m : Fin 64) (x : Strm) (d : NProd) (a n j : Nat) (last : Bool) (k : Fin 4) (c : Fin 8) (g : Dg) (rest : List Dg) (f : List Byte) (b : Nat), x = s.strm m →
    (s.cmdBusy hStr = false → cmdStream s = m → (x.run = true ∨ s.disabled hStr = true) → Gives .strStart s (TurnedAway hStr 1 .state s)) ∧
    (s.cmdBusy hStr = false → cmdStream s = m → x.run = false → s.disabled hStr = false → (s.fld (R.NET_STR_CFG_KIND m) = 0 ∨ 10 < s.fld (R.NET_STR_CFG_KIND m) ∨ bits (s.wordN (R.NET_STR_PAY m)) 13 0 < 128 ∨
      9088 < bits (s.wordN (R.NET_STR_PAY m)) 13 0 ∨ bits (s.wordN (R.NET_STR_PAY m)) 13 0 % 64 ≠ 0) → Gives .strStart s (TurnedAway hStr 1 .range s)) ∧
    (s.cmdBusy hStr = false → cmdStream s = m → x.run = false → s.disabled hStr = false → 1 ≤ s.fld (R.NET_STR_CFG_KIND m) → s.fld (R.NET_STR_CFG_KIND m) ≤ 10 → 128 ≤ bits (s.wordN (R.NET_STR_PAY m)) 13 0 →
      bits (s.wordN (R.NET_STR_PAY m)) 13 0 ≤ 9088 → bits (s.wordN (R.NET_STR_PAY m)) 13 0 % 64 = 0 → Gives .strStart s fun t =>
      (t.strm m).run = true ∧ (t.strm m).cfg = s.wordN (R.NET_STR_CFG m) ∧ (t.strm m).src = s.wordN (R.NET_STR_SRC m) ∧ (t.strm m).pay = bits (s.wordN (R.NET_STR_PAY m)) 13 0 ∧ (t.strm m).seq = x.seq ∧
      (t.strm m).restart = true ∧ (t.strm m).loss = x.loss ∧ (t.strm m).cur = none ∧ t.fld (R.NET_STR_STATUS_STATE m) = 1 ∧ Finished hStr 1 .ok s t ∧
      t = { s with regs := t.regs, rep := t.rep, net := { s.net with str := Tbl.set s.net.str m (t.strm m) } } ∧ WordsKept s t [R.NET_STR_STATUS m]) ∧
    (s.cmdBusy hStr = false → cmdStream s = m → x.run = false → Gives .strStop s (TurnedAway hStr 2 .state s)) ∧
    (s.cmdBusy hStr = false → cmdStream s = m → x.run = true → Gives .strStop s fun t => t.strm m = { x with run := false, cur := none, off := 0, recq := [], tapBuf := [] } ∧ t.fld (R.NET_STR_STATUS_STATE m) = 0 ∧
      Finished hStr 2 .ok s t ∧ t = { s with regs := t.regs, rep := t.rep, net := { s.net with str := Tbl.set s.net.str m (t.strm m) } } ∧ WordsKept s t [R.NET_STR_STATUS m]) ∧
    (s.cmdBusy hStr = false → cmdStream s = m → ((s.cap (s.fld R.NET_CMD_ARG_PORT)).record (s.fld R.NET_CMD_ARG_REC)).st ≠ .done → Gives .sendRec s (TurnedAway hStr 3 .state s)) ∧
    (s.cmdBusy hStr = false → cmdStream s = m → ((s.cap (s.fld R.NET_CMD_ARG_PORT)).record (s.fld R.NET_CMD_ARG_REC)).st = .done → 64 ≤ x.recq.length → Gives .sendRec s (TurnedAway hStr 3 .busy s)) ∧
    (s.cmdBusy hStr = false → cmdStream s = m → ((s.cap (s.fld R.NET_CMD_ARG_PORT)).record (s.fld R.NET_CMD_ARG_REC)).st = .done → x.recq.length < 64 → Gives .sendRec s fun t =>
      t = { s.setStrm m { x with recq := x.recq ++ [(s.fld R.NET_CMD_ARG_PORT, s.fld R.NET_CMD_ARG_REC)] } with rep := t.rep } ∧ Finished hStr 3 .ok s t) ∧
    (x.run = false → Gives (.datagramBuild m) s (fun t => t = s) ∧ Gives (.memqEntryValid m) s (fun t => t = s)) ∧
    (x.run = true → x.kind ≤ 7 → x.kind ≠ 0 → x.roce = false → x.link = k → x.pcp = c → x.cur = some d → d.pieces = [.dev a d.len] → x.off < d.len → 64 < x.pay → n = min (x.pay - 64) (d.len - x.off) → last = decide (d.len ≤ x.off + n) →
      s.inReservoir (a + x.off) = true → s.poisoned (a + x.off) n = false → d.after = .none →
      ((∀ e ∈ s.bwQ k, e.prio ≠ c) → lnkUp s k = true → paused s k c = false → dieFill s k c ≤ 768 * 1024 → Gives (.datagramBuild m) s fun t =>
        (t.dieQ k c).dropLast = s.dieQ k c ∧ (t.dieQ k c).getLast?.map (fun e => (e.stream, e.last, e.pay, e.body.drop 64)) = some (m.val, last, n, s.memRead (a + x.off) n) ∧
        Wenud ((t.dieQ k c).getLast?.map Dg.body |>.getD []) (b2n (decide (x.off = 0)) + 2 * b2n last + 4 * b2n x.loss + 8 * b2n x.restart) m x.kind d.psw x.seq d.id x.off n d.len ∧
        (t.dieQ k c).getLast?.map (fun e => e.frames.map (fun y => y.2.take 12)) = some [dstMac x.dest ++ s.linkMac k] ∧
        (t.strm m) = { x with seq := (x.seq + 1) % 2 ^ 64, restart := false, loss := false, off := if last then 0 else x.off + n, cur := if last then none else some d } ∧
        t = { s with net := { s.net with die := t.net.die, str := t.net.str } } ∧ (j ≠ 8 * k.val + c.val → Tbl.get [] t.net.die j = Tbl.get [] s.net.die j)) ∧
      (paused s k c = true → (bwFill s k + (cdiv ((udpFrame s k c x.dest (bits (dstW x.dest 6) 15 0) (List.replicate (64 + n) 0)).length) 64) * 64 ≤ s.wordN R.NET_BW_REGION_SIZE * 2 ^ 20 / linksUsed s) → Gives (.datagramBuild m) s fun t =>
        (t.bwQ k).dropLast = s.bwQ k ∧ (t.bwQ k).getLast?.map (fun e => (e.stream, e.last, e.pay, e.body.drop 64)) = some (m.val, last, n, s.memRead (a + x.off) n) ∧
        Wenud ((t.bwQ k).getLast?.map Dg.body |>.getD []) (b2n (decide (x.off = 0)) + 2 * b2n last + 4 * b2n x.loss + 8 * b2n x.restart + 16) m x.kind d.psw x.seq d.id x.off n d.len ∧
        (s.bwQ k = [] → Raised hStr 0 t) ∧ (t.strm m).seq = (x.seq + 1) % 2 ^ 64 ∧ (t.strm m).loss = false ∧ t.net.die = s.net.die ∧ t = { s with net := t.net, rep := t.rep }) ∧
      (paused s k c = true → (s.wordN R.NET_BW_REGION_SIZE * 2 ^ 20 / linksUsed s < bwFill s k + (cdiv ((udpFrame s k c x.dest (bits (dstW x.dest 6) 15 0) (List.replicate (64 + n) 0)).length) 64) * 64) → Gives (.datagramBuild m) s fun t =>
        t.bwQ k = s.bwQ k ∧ t.net.die = s.net.die ∧ (t.strm m).loss = true ∧ (t.strm m).seq = (x.seq + 1) % 2 ^ 64 ∧ Raised hStr 2 t ∧ Raised hStr 4 t ∧ t.pair R.NET_BW_DROP = (s.pair R.NET_BW_DROP + 1) % 2 ^ 64 ∧
        t.pair (R.NET_STR_LOST m) = (s.pair (R.NET_STR_LOST m) + 1) % 2 ^ 64 ∧ t = { s with net := t.net, rep := t.rep, regs := t.regs } ∧
        WordsKept s t [R.NET_BW_DROP, R.NET_BW_DROP + 4, R.NET_STR_LOST m, R.NET_STR_LOST m + 4])) ∧
    (x.run = true → x.kind = 1 → x.cur = none → b = x.index → b < 63 → s.full b = true → s.full (b + 1) = false → x.roce = false → x.link = k → x.pcp = c → segLen (devRead s (eddyBase + b * 0x8000) 64) ≤ x.pay - 64 → 64 < x.pay →
      s.bwQ k = [] → lnkUp s k = true → paused s k c = false → dieFill s k c ≤ 768 * 1024 → Gives (.datagramBuild m) s fun t =>
      (t.dieQ k c).getLast?.map (fun e => (e.stream, e.last, e.body.drop 64)) = some (m.val, true, devRead s (eddyBase + b * 0x8000) (segLen (devRead s (eddyBase + b * 0x8000) 64))) ∧
      t.full b = false ∧ (∀ i : Fin 64, i.val ≠ b → t.full i = s.full i) ∧ (t.strm m).cur = none ∧ WordsKept s t [R.EDDY_FULL (b / 32)] ∧ t.mem = s.mem) ∧
    (x.run = true → x.kind = 10 → x.cur = none → a = x.aux + x.pos % x.nq * 64 → bitAt (fieldAt (strRead s a 64) 0 8) 63 = false → Gives (.memqEntryValid m) s fun t => t = s) ∧
    (x.run = true → x.kind = 10 → x.cur = none → a = x.aux + x.pos % x.nq * 64 → bitAt (fieldAt (strRead s a 64) 0 8) 63 = true → n = fieldAt (strRead s a 64) 8 4 → 0 < n → n ≤ x.pay - 64 → x.roce = false → x.link = k → x.pcp = c →
      s.inReservoir a = true → s.inReservoir (fieldAt (strRead s a 64) 0 5) = true → s.rsv.lost = [] → memWf s.mem = true → s.poisoned (fieldAt (strRead s a 64) 0 5) n = false → s.wordPoisoned a = false → a % 64 = 0 → s.bwQ k = [] → lnkUp s k = true → paused s k c = false → dieFill s k c ≤ 768 * 1024 →
      Gives (.memqEntryValid m) s fun t => (t.dieQ k c).getLast?.map (fun e => (e.stream, e.last, e.body.drop 64)) = some (m.val, true, strRead s (fieldAt (strRead s a 64) 0 5) n) ∧
        (t.strm m).pos = x.pos + 1 ∧ (t.strm m).cur = none ∧ bitAt (leNat (t.memRead (a + 7) 1)) 7 = false ∧ (j ≠ a + 7 → memGet t.mem j = memGet s.mem j) ∧ t.regs = s.regs ∧ t.rep = s.rep) ∧
    (lnkUp s k = false → Gives (.frameTx k) s fun t => t = s) ∧
    (lnkUp s k = true → paused s k c = false → s.reQ k c = [] → s.dieQ k c = g :: rest → g.qp = none → g.frames = [(0, f)] → s.bwQ k = [] →
      (∀ i : Fin 8, c < i → paused s k i = true ∨ (s.reQ k i = [] ∧ s.dieQ k i = [])) → g.stream < 64 → Gives (.frameTx k) s fun t =>
      t.rep = { s.rep with out := .frame k "WENUD" (withFcs f) :: s.rep.out } ∧ t.dieQ k c = rest ∧ t.pair (R.NET_TX_FRAMES k) = (s.pair (R.NET_TX_FRAMES k) + 1) % 2 ^ 64 ∧
      t.pair (R.NET_STR_PKT g.stream) = (s.pair (R.NET_STR_PKT g.stream) + 1) % 2 ^ 64 ∧ t.pair (R.NET_STR_BYTES g.stream) = (s.pair (R.NET_STR_BYTES g.stream) + g.pay) % 2 ^ 64 ∧
      t = { s with regs := t.regs, rep := t.rep, net := { s.net with die := t.net.die } } ∧
      WordsKept s t [R.NET_TX_FRAMES k, R.NET_TX_FRAMES k + 4, R.NET_STR_PKT g.stream, R.NET_STR_PKT g.stream + 4, R.NET_STR_BYTES g.stream, R.NET_STR_BYTES g.stream + 4])

/-- Queue pairs and PTP (R346 to R351, R359, R360): QP_RESET, acknowledgements, NAKs, retries and errors of a queue pair; the messages and time-outs of the time-receiver. Choices of the model: log entries 3, 17, 18, 41, 42. -/
def Obligations.QueuePairsAndPtp : Prop :=
  ∀ (s : State) (q : Fin 64) (x : QpSt) (psn : BitVec 24) (syn : BitVec 8) (p : Nat) (msg : QMsg) (m : Fin 64) (k : Fin 4) (c : Fin 8) (n : Nat) (id seq origin rx cc : Nat) (two uv : Bool) (corr t1 t2 c1 t3 off rt : Int) (mm : PtpMaster) (fr : List (Nat × List Byte)),
    x = s.qpSt q →
    (s.cmdBusy hStr = false → s.fld R.NET_CMD_ARG_QP = q → qpLegal s q = false → Gives .qpReset s (TurnedAway hStr 4 .range s)) ∧
    (s.cmdBusy hStr = false → s.fld R.NET_CMD_ARG_QP = q → qpLegal s q = true → Gives .qpReset s fun t => t.qpSt q = { QpSt.init with psn := bits (s.wordN (R.NET_QP_PSN q)) 23 0, una := bits (s.wordN (R.NET_QP_PSN q)) 23 0 } ∧
      t.fld (R.NET_QP_STATUS_STATE q) = 1 ∧ ((s.strm m).run = true → (s.strm m).qpair = some q.val → (t.strm m).loss = true) ∧ (t.dieQ k c) = (s.dieQ k c).filter (fun d => d.qp != some q.val) ∧ Done hStr 4 .ok t ∧
      t = { s with regs := t.regs, rep := t.rep, net := t.net }) ∧
    ((s.fld (R.NET_QP_STATUS_STATE q) ≠ 1 ∨ x.store = []) → Gives (.roceAckRx q psn syn) s (fun t => t = s) ∧ Gives (.ackTimeout q) s (fun t => t = s) ∧ Gives (.rnrDelayEnd q) s (fun t => t = s)) ∧
    (s.fld (R.NET_QP_STATUS_STATE q) = 1 → x.store = [msg] → msg.frames = fr → p = psn.toNat → fr.map Prod.fst = [p] → x.una = p → x.psn = (p + 1) % 2 ^ 24 → s.net.re = [] → s.net.die = [] → msg.link = k → msg.prio = c →
      (syn.toNat < 0x20 → Gives (.roceAckRx q psn syn) s fun t => t.qpSt q = { x with store := [], una := (p + 1) % 2 ^ 24, retry := 0, rnr := 0, rnrWait := false } ∧
        t = { s with net := { s.net with qp := t.net.qp, re := t.net.re } }) ∧
      (0x20 ≤ syn.toNat → syn.toNat < 0x40 → (bits msg.cfg 10 8 = 7 ∨ x.rnr < bits msg.cfg 10 8) → Gives (.roceAckRx q psn syn) s fun t => t.qpSt q = { x with rnr := x.rnr + 1, rnrWait := true } ∧
        t.fld (R.NET_QP_STATUS_SYNDROME q) = syn.toNat ∧ t = { s with regs := t.regs, net := { s.net with qp := t.net.qp, re := t.net.re } } ∧ WordsKept s t [R.NET_QP_STATUS q]) ∧
      (0x20 ≤ syn.toNat → syn.toNat < 0x40 → bits msg.cfg 10 8 ≠ 7 → bits msg.cfg 10 8 ≤ x.rnr → Gives (.roceAckRx q psn syn) s fun t => t.fld (R.NET_QP_STATUS_STATE q) = 2 ∧ (t.qpSt q).store = [] ∧ Raised hStr 3 t) ∧
      (syn.toNat = 0x60 → x.retry < bits msg.cfg 6 4 → Gives (.roceAckRx q psn syn) s fun t => t.reQ k c = fr.map (fun f => (q.val, f.1, f.2)) ∧ (t.qpSt q).retry = x.retry + 1 ∧ (t.qpSt q).store = [msg] ∧
        t.fld (R.NET_QP_STATUS_STATE q) = 1) ∧
      (0x61 ≤ syn.toNat → syn.toNat ≤ 0x63 → Gives (.roceAckRx q psn syn) s fun t => t.fld (R.NET_QP_STATUS_STATE q) = 2 ∧ t.fld (R.NET_QP_STATUS_SYNDROME q) = syn.toNat ∧ (t.qpSt q).store = [] ∧ Raised hStr 3 t) ∧
      (paused s k c = false → x.rnrWait = false → x.retry < bits msg.cfg 6 4 → Gives (.ackTimeout q) s fun t => t.reQ k c = fr.map (fun f => (q.val, f.1, f.2)) ∧ t.qpSt q = { x with retry := x.retry + 1 } ∧
        t = { s with net := { s.net with qp := t.net.qp, re := t.net.re } }) ∧
      (paused s k c = false → x.rnrWait = false → bits msg.cfg 6 4 ≤ x.retry → Gives (.ackTimeout q) s fun t => t.fld (R.NET_QP_STATUS_STATE q) = 2 ∧ (t.qpSt q).store = [] ∧ Raised hStr 3 t ∧
        t = { s with regs := t.regs, rep := t.rep, net := { s.net with qp := t.net.qp } } ∧ WordsKept s t [R.NET_QP_STATUS q]) ∧
      (paused s k c = false → x.rnrWait = true → Gives (.rnrDelayEnd q) s fun t => t.reQ k c = fr.map (fun f => (q.val, f.1, f.2)) ∧ t.qpSt q = { x with rnrWait := false }) ∧
      ((paused s k c = true ∨ x.rnrWait = true) → Gives (.ackTimeout q) s fun t => t = s) ∧
      ((paused s k c = true ∨ x.rnrWait = false) → Gives (.rnrDelayEnd q) s fun t => t = s)) ∧
    (lnkUp s k = true → (s.flag R.PTP_CFG_EN = false ∨ s.fld R.PTP_CFG_LINK ≠ k) → Gives (.ptpMessage k (.sync id seq two origin corr) rx) s fun t =>
      t.pair (R.NET_RX_DISCARD k) = (s.pair (R.NET_RX_DISCARD k) + 1) % 2 ^ 64 ∧ t = { s with regs := t.regs }) ∧
    (lnkUp s k = true → s.flag R.PTP_CFG_EN = true → s.fld R.PTP_CFG_LINK = k → t2 = (s.clk.dt + rx : Nat) - sext 32 (s.wordN R.PTP_RX_LAT) →
      (s.ptp.sel ≠ some id → Gives (.ptpMessage k (.sync id seq two origin corr) rx) s (fun t => t = s) ∧ Gives (.ptpMessage k (.followUp id seq origin corr) rx) s (fun t => t = s) ∧
        Gives (.ptpMessage k (.delayResp id seq origin corr) rx) s (fun t => t = s)) ∧
      (s.ptp.sel = some id → two = false → Gives (.ptpMessage k (.sync id seq two origin corr) rx) s fun t => t = { s with ptp := { s.ptp with wait := none, sync := some (origin, t2, corr) } }) ∧
      (s.ptp.sel = some id → two = true → Gives (.ptpMessage k (.sync id seq two origin corr) rx) s fun t => t = { s with ptp := { s.ptp with wait := some (seq, t2, corr) } }) ∧
      (s.ptp.sel = some id → s.ptp.wait = some (seq, t3, c1) → Gives (.ptpMessage k (.followUp id seq origin corr) rx) s fun t => t = { s with ptp := { s.ptp with wait := none, sync := some (origin, t3, c1 + corr) } }) ∧
      (s.ptp.sel = some id → s.ptp.sync = some (t1, t3, c1) → s.ptp.dreq = some (seq, off) → rt = (t3 - t1 - c1) + ((origin : Int) - off - corr) → (∀ b ∈ s.ptp.best, rt < b.1) → Gives (.ptpMessage k (.delayResp id seq origin corr) rx) s fun t =>
        t.ptp = { s.ptp with best := some (rt, (t3 - t1 - c1) - rt / 2), dreq := none } ∧ t.fld R.PTP_STATUS_STATE = 3 ∧ t = { s with regs := t.regs, ptp := t.ptp } ∧ WordsKept s t [R.PTP_STATUS]) ∧
      (s.ptp.masters = [] → s.ptp.sel = none → s.flag R.PTP_CFG_GM_FIX = false → Gives (.ptpMessage k (.announce id origin cc seq n p rx 1 corr uv) rx) s fun t =>
        t.ptp.sel = some id ∧ t.fld R.PTP_STATUS_STATE = 2 ∧ t.fld R.PTP_STATUS_UTC_OFFSET = enc 16 corr ∧ t.flag R.PTP_STATUS_UTC_VALID = uv ∧ Event hPtp 0 s t ∧ t = { s with regs := t.regs, rep := t.rep, ptp := t.ptp } ∧
        WordsKept s t [R.PTP_STATUS])) ∧
    (s.flag R.PTP_CFG_EN = true → s.ptp.sel = some id → s.fld R.PTP_CFG_LINK = k → lnkUp s k = true → Gives .delayReqTx s fun t =>
      t.ptp = { s.ptp with dreq := some (s.ptp.dseq, (s.clk.dt : Nat) + sext 32 (s.wordN R.PTP_TX_LAT)), dseq := (s.ptp.dseq + 1) % 65536 } ∧
      t.rep = { s.rep with out := .frame k "PTP" (withFcs (delayReqFrame s k s.ptp.dseq)) :: s.rep.out } ∧ t = { s with regs := t.regs, rep := t.rep, ptp := t.ptp } ∧ WordsKept s t [R.NET_TX_FRAMES k, R.NET_TX_FRAMES k + 4]) ∧
    ((s.flag R.PTP_CFG_EN = false ∨ s.ptp.sel = none) → Gives .delayReqTx s fun t => t = s) ∧
    (s.ptp.sel = some id → s.ptp.masters = [mm] → mm.id = id → Gives .announceReceiptTimeout s fun t => t.ptp.sel = none ∧ t.ptp.masters = [] ∧ t.ptp.sync = none ∧ t.fld R.PTP_STATUS_STATE = 1 ∧
      t.flag R.PTP_STATUS_UTC_VALID = false ∧ Event hPtp 1 s t ∧ t = { s with regs := t.regs, rep := t.rep, ptp := t.ptp } ∧ WordsKept s t [R.PTP_STATUS]) ∧
    (s.ptp.sel = none → Gives .announceReceiptTimeout s fun t => t = s)

/-- The PCIe host port and MSI-X (R355 to R358, R457): config space, the BAR2 window, link down and up, what error correction finds in the words read through it, vectors unmasked and holds that end. Choices of
the model: log entries 3, 15, 19, 44, 78. -/
def Obligations.HostPort : Prop :=
  ∀ (s : State) (off : BitVec 32) (span : Bar2Span) (len a n : Nat) (bs : List Byte) (reg : BitVec 12) (val : Word) (be : BitVec 4) (g : Fin 6) (w : BitVec 4) (v : Fin 256) (h : VecHold) (tr k : Nat), a = s.fld R.HOST_WIN_LO_BASE * 2 ^ 20 + 2 ^ 32 * s.fld R.HOST_WIN_HI_BASE + off.toNat → len = span.len →
    (s.net.hostOpen = false → Gives (.pcieConfigRequest reg none) s (fun t => t = { s with rep := { s.rep with out := .configRetry :: s.rep.out } }) ∧
      Gives (.pcieConfigRequest reg (some (val, be))) s (fun t => t = { s with rep := { s.rep with out := .configRetry :: s.rep.out } }) ∧ Gives (.pcieBar2Access off span none) s (fun t => t = s)) ∧
    (s.net.hostOpen = true → s.flag R.HOST_STATUS_LINK_UP = true →
      (Gives (.pcieConfigRequest reg none) s fun t => t = { s with rep := { s.rep with out := .configRead (reg.toNat / 4 * 4) (cfgRead s (reg.toNat / 4 * 4)) :: s.rep.out } }) ∧
      (reg = 0 → s.net.cfgsp = [] → cfgRead s reg.toNat = 0x64101C7B) ∧
      (reg.toNat / 4 = 0x14 → be = 15 → s.rep.pba = [] → Gives (.pcieConfigRequest reg (some (val, be))) s fun t => t.flag R.HOST_STATUS_MSIX_EN = bitAt val.toNat 31 ∧ t.rep = { s.rep with fnMask := bitAt val.toNat 30 } ∧
        t = { s with regs := t.regs, rep := t.rep, net := { s.net with cfgsp := t.net.cfgsp } } ∧ WordsKept s t [R.HOST_STATUS]) ∧
      (0 < len → s.inBands a len = false → Gives (.pcieBar2Access off span none) s fun t => t.rep.out.contains .bar2Abort = true ∧ t.pair R.HOST_ERR = (s.pair R.HOST_ERR + 1) % 2 ^ 64 ∧ Raised hHost 2 t ∧
        t = { s with regs := t.regs, rep := t.rep } ∧ RepFrame [] [(hHost, 2)] [] s t ∧ WordsKept s t [R.HOST_ERR, R.HOST_ERR + 4]) ∧
      (bs ≠ [] → s.inBands a bs.length = false → Gives (.pcieBar2Access off span (some bs)) s fun t => t.pair R.HOST_ERR = (s.pair R.HOST_ERR + 1) % 2 ^ 64 ∧ Event hHost 2 s t ∧ t = { s with regs := t.regs, rep := t.rep } ∧
        WordsKept s t [R.HOST_ERR, R.HOST_ERR + 4]) ∧
      (0 < len → s.inBands a len = true → s.inWindow a = false → span.ecc = [] → Gives (.pcieBar2Access off span none) s fun t =>
        t = { s with rsv := t.rsv, rep := { s.rep with out := .bar2Read (devRead s a len) ((s.inReservoir a || inPool a) && s.poisoned a len) :: s.rep.out } } ∧ (inEddy a = false → t.rsv = s.rsv)) ∧
      (0 < len → s.inBands a len = true → s.inWindow a = false → inPool a = true → s.inReservoir a = false → s.inReservoir (a / 8 * 8) = false → s.wordPoisoned (a / 8 * 8) = false →
        (span.ecc = [.corrected] → Gives (.pcieBar2Access off span none) s fun t => t.pair R.POOL_CE = (s.pair R.POOL_CE + 1) % 2 ^ 64 ∧ Raised hPool 0 t ∧ t.rep.out.head? = some (.bar2Read (devRead s a len) (s.poisoned a len)) ∧ t.mem = s.mem) ∧
        (span.ecc = [.uncorrectable] → Gives (.pcieBar2Access off span none) s fun t => t.pair R.POOL_UE = (s.pair R.POOL_UE + 1) % 2 ^ 64 ∧ Raised hPool 1 t ∧ t.rep.out.head? = some (.bar2Read (devRead s a len) true) ∧ t.mem = s.mem)) ∧
      (bs ≠ [] → n = bs.length → s.inBands a n = true → s.inWindow a = false → s.inReservoir a = true → inRing s a = false → inRing s (a + n - 1) = false → span.ecc = [] → s.rsv.lost = [] → memWf s.mem = true →
        Gives (.pcieBar2Access off span (some bs)) s fun t => t.memRead a n = bs ∧ ((k < a ∨ a + n ≤ k) → memGet t.mem k = memGet s.mem k) ∧ t = { s with mem := t.mem, poison := t.poison }) ∧
      (bs ≠ [] → n = bs.length → s.inBands a n = true → s.inWindow a = false → s.inReservoir a = true → inRing s a = true → Gives (.pcieBar2Access off span (some bs)) s fun t => t = s) ∧
      (0 < len → s.inBands a len = true → s.inWindow a = true → Gives (.pcieBar2Access off span none) s fun t => t = { s with net := { s.net with held := s.net.held ++ [{ who := .bar2, addr := a, len := len, data := none, ecc := span.ecc }] } }) ∧
      (Gives .hostDown s fun t => t.flag R.HOST_STATUS_LINK_UP = false ∧ t.fld R.HOST_STATUS_GEN = 0 ∧ t.fld R.HOST_STATUS_WIDTH = 0 ∧ t.pair R.HOST_DOWN = (s.pair R.HOST_DOWN + 1) % 2 ^ 64 ∧ Event hHost 1 s t ∧
        t.net.held = s.net.held.filter (fun q => q.data.isSome) ∧ t = { s with regs := t.regs, rep := t.rep, net := { s.net with held := t.net.held } } ∧ WordsKept s t [R.HOST_STATUS, R.HOST_DOWN, R.HOST_DOWN + 4] ∧
        (Tbl.find s.rep.holds v = some h → h.trig.isSome = true → (Tbl.find t.rep.pba v).isSome = true)) ∧
      (Gives (.hostUp g w) s fun t => t = s)) ∧
    (s.flag R.HOST_STATUS_LINK_UP = false → Gives .hostDown s fun t => t = s) ∧
    (s.flag R.HOST_STATUS_LINK_UP = false → Gives (.hostUp g w) s fun t => t.flag R.HOST_STATUS_LINK_UP = true ∧ t.fld R.HOST_STATUS_GEN = g ∧ t.fld R.HOST_STATUS_WIDTH = w.toNat ∧ t.flag R.HOST_STATUS_MSIX_EN = false ∧
      t.net.cfgsp = [] ∧ t.rep.fnMask = false ∧ Event hHost 0 s t ∧ t = { s with regs := t.regs, rep := t.rep, net := { s.net with cfgsp := [] } } ∧ WordsKept s t [R.HOST_STATUS]) ∧
    (Tbl.find s.rep.pba v = none → Gives (.msixVectorUnmask v) s fun t => t.flag (R.MSIX_CTRL_MASK v) = false ∧ t = { s with regs := t.regs } ∧ WordsKept s t [R.MSIX_CTRL v]) ∧
    (Tbl.find s.rep.pba v = some tr → s.flag R.HOST_STATUS_LINK_UP = true → s.flag R.HOST_STATUS_MSIX_EN = true → s.rep.fnMask = false → Gives (.msixVectorUnmask v) s fun t => t.flag (R.MSIX_CTRL_MASK v) = false ∧
      t.rep.out.contains (.msix v (s.wordN (R.MSIX_ADDR_LO v) + 2 ^ 32 * s.wordN (R.MSIX_ADDR_HI v)) (s.wordN (R.MSIX_DATA v))) = true ∧ Tbl.find t.rep.pba v = none ∧ t = { s with regs := t.regs, rep := t.rep } ∧
      RepFrame [] [] [] s t ∧ WordsKept s t [R.MSIX_CTRL v]) ∧
    (Tbl.find s.rep.holds v = none → Gives (.vecHoldEnd v) s fun t => t = s) ∧
    (Tbl.find s.rep.holds v = some h → h.trig = none → Gives (.vecHoldEnd v) s fun t => t = { s with rep := { s.rep with holds := Tbl.del s.rep.holds v } }) ∧
    (Tbl.find s.rep.holds v = some h → h.trig = some tr → s.flag R.HOST_STATUS_LINK_UP = true → s.flag R.HOST_STATUS_MSIX_EN = true → s.rep.fnMask = false → s.flag (R.MSIX_CTRL_MASK v) = false → Gives (.vecHoldEnd v) s fun t =>
      t.rep.out.contains (.msix v (s.wordN (R.MSIX_ADDR_LO v) + 2 ^ 32 * s.wordN (R.MSIX_ADDR_HI v)) (s.wordN (R.MSIX_DATA v))) = true ∧ t = { s with rep := t.rep } ∧ RepFrame [] [] [] s t ∧
      (bits (s.wordN (R.LOG_VEC_HOLD v)) 15 0 ≠ 0 → (Tbl.find t.rep.holds v).isSome = true)) ∧
    (Tbl.find s.rep.holds v = some h → h.trig = some tr → Tbl.find s.rep.pba v = none → (s.flag R.HOST_STATUS_LINK_UP = false ∨ s.flag (R.MSIX_CTRL_MASK v) = true) → Gives (.vecHoldEnd v) s fun t => Tbl.find t.rep.pba v = some tr)

/-! Display (spec/13). -/

/-- Display (R363 to R365, R369, R371, R372, R374): sinks plugged and unplugged, training on the first pair that fits and trains, AUX transactions with their refusals; the frame, its commit point and its underrun. Choices of the model: log entries 3, 23, 24. -/
def Obligations.DisplayOutputs : Prop :=
  ∀ (s : State) (o : Fin 2) (x : DpOut) (low : Nat) (lost : Bool) (caps : SinkCaps) (tr : List (Fin 3 × Fin 4)) (l : Fin 3) (r : Fin 4) (l2 : Fin 3) (r2 : Fin 4) (op len i : Nat) (reply : Fin 4) (bs : List Byte) (ws : Tbl Nat) (up legal : Bool)
    (n a : Nat), x = s.dpOut o → up = s.flag (R.DPY_OUT_STATUS_HPD o) → legal = spreadLegal s x.caps.downspread → n = s.fld (R.DPY_OUT_STATUS_STATE o) →
    (s.cmdBusy (hDp o) = false → up = false → Gives (.dpRetrain o) s (TurnedAway (hDp o) 1 .state s)) ∧
    (s.cmdBusy (hDp o) = false → up = true → s.flag (R.DPY_OUT_CFG_EN o) = true → legal = true → Gives (.dpRetrain o) s fun t => t.fld (R.DPY_OUT_STATUS_STATE o) = 1 ∧ t.flag (R.DPY_OUT_STATUS_TRAINED o) = false ∧
      t.pair (R.DPY_RETRAIN_CNT o) = (s.pair (R.DPY_RETRAIN_CNT o) + 1) % 2 ^ 64 ∧ t.faultBit (hDp o) 0 = false ∧ Done (hDp o) 1 .ok t ∧ t = { s with regs := t.regs, rep := t.rep } ∧
      RepFrame (hDp o :: basinsOf (hDp o)) [] [hDp o] s t ∧ WordsKept s t [R.DPY_OUT_STATUS o, R.DPY_RETRAIN_CNT o, R.DPY_RETRAIN_CNT o + 4]) ∧
    (s.cmdBusy (hDp o) = false → up = true → s.flag (R.DPY_OUT_CFG_EN o) = true → legal = false → Gives (.dpRetrain o) s fun t => t.fld (R.DPY_OUT_STATUS_STATE o) = 4 ∧ t.flag (R.DPY_OUT_STATUS_TRAINED o) = false ∧
      t.faultBit (hDp o) 0 = true ∧ Done (hDp o) 1 .ok t ∧ WordsKept s t [R.DPY_OUT_STATUS o]) ∧
    (op = s.fld (R.DPY_AUX_CTRL_OP o) → len = s.fld (R.DPY_AUX_CTRL_LENM1 o) + 1 → s.cmdBusy (hDp o) = false →
      (op ≠ 0 → op ≠ 1 → op ≠ 4 → op ≠ 5 → Gives (.aux o) s (TurnedAway (hDp o) 2 .range s)) ∧
      ((op = 0 ∨ op = 1 ∨ op = 4 ∨ op = 5) → up = false → Gives (.aux o) s (TurnedAway (hDp o) 2 .state s)) ∧
      ((op = 0 ∨ op = 1 ∨ op = 4 ∨ op = 5) → up = true → (n = 1 ∨ x.aux ≠ none) → Gives (.aux o) s (TurnedAway (hDp o) 2 .busy s)) ∧
      ((op = 0 ∨ op = 1 ∨ op = 4 ∨ op = 5) → up = true → n ≠ 1 → x.aux = none → Gives (.aux o) s fun t => (t.dpOut o).aux = some (op, len) ∧
        t.rep.out.contains (.aux o op (s.fld (R.DPY_AUX_CTRL_ADDR o)) len (if op = 1 ∨ op = 5 then ((List.range 4).flatMap (fun w => leBytes 4 (s.wordN (R.DPY_AUX_DATA o w)))).take len else [])) = true ∧
        t = { s with rep := t.rep, dsp := { s.dsp with out := t.dsp.out } } ∧ Finished (hDp o) 2 .ok s t)) ∧
    (x.aux = none → Gives (.auxDone o reply bs) s fun t => t = s) ∧
    (x.aux = some (op, len) → (op = 0 ∨ op = 4) → bs.length ≤ len → len ≤ 16 → Gives (.auxDone o reply bs) s fun t => t.fld (R.DPY_AUX_STATUS_REPLY o) = reply ∧ t.fld (R.DPY_AUX_STATUS_BYTES o) = bs.length ∧ (t.dpOut o).aux = none ∧
      (i < bs.length → bits (t.wordN (R.DPY_AUX_DATA o (i / 4))) (8 * (i % 4) + 7) (8 * (i % 4)) = ((bs[i]?).getD 0).toNat) ∧ Event (hDp o) 5 s t ∧
      t = { s with regs := t.regs, rep := t.rep, dsp := { s.dsp with out := t.dsp.out } } ∧
      WordsKept s t [R.DPY_AUX_STATUS o, R.DPY_AUX_DATA o 0, R.DPY_AUX_DATA o 1, R.DPY_AUX_DATA o 2, R.DPY_AUX_DATA o 3]) ∧
    (x.aux = some (op, len) → (op = 1 ∨ op = 5) → reply = 0 → len ≤ 16 → Gives (.auxDone o reply bs) s fun t => t.fld (R.DPY_AUX_STATUS_REPLY o) = 0 ∧ t.fld (R.DPY_AUX_STATUS_BYTES o) = len ∧ Event (hDp o) 5 s t ∧
      WordsKept s t [R.DPY_AUX_STATUS o]) ∧
    (up = false → (s.flag (R.DPY_OUT_CFG_EN o) = true → spreadLegal s caps.downspread = true) → Gives (.hpdRise o low lost caps) s fun t => t.flag (R.DPY_OUT_STATUS_HPD o) = true ∧ (t.dpOut o).caps = caps ∧
      t.flag (R.DPY_OUT_STATUS_SINK_SS o) = caps.downspread ∧ Raised (hDp o) 0 t ∧ (s.flag (R.DPY_OUT_CFG_EN o) = true → t.fld (R.DPY_OUT_STATUS_STATE o) = 1) ∧
      t = { s with regs := t.regs, rep := t.rep, dsp := { s.dsp with out := t.dsp.out } } ∧ WordsKept s t [R.DPY_OUT_STATUS o, R.DPY_RETRAIN_CNT o, R.DPY_RETRAIN_CNT o + 4]) ∧
    (up = true → low < 5 → Gives (.hpdRise o low lost caps) s fun t => t = s) ∧
    (up = true → 5 ≤ low → low < 20 → (lost = false ∨ s.flag (R.DPY_OUT_STATUS_TRAINED o) = false) → Gives (.hpdRise o low lost caps) s fun t => Event (hDp o) 2 s t ∧ t = { s with rep := t.rep }) ∧
    (up = true → 5 ≤ low → low < 20 → lost = true → s.flag (R.DPY_OUT_STATUS_TRAINED o) = true → s.flag (R.DPY_OUT_CFG_EN o) = true → legal = true → Gives (.hpdRise o low lost caps) s fun t => Raised (hDp o) 2 t ∧
      t.fld (R.DPY_OUT_STATUS_STATE o) = 1 ∧ t.flag (R.DPY_OUT_STATUS_TRAINED o) = false ∧ t.pair (R.DPY_RETRAIN_CNT o) = (s.pair (R.DPY_RETRAIN_CNT o) + 1) % 2 ^ 64) ∧
    (up = true → 20 ≤ low → Gives (.hpdRise o low lost caps) s fun t => Raised (hDp o) 0 t ∧ Raised (hDp o) 1 t ∧ (t.dpOut o).caps = caps ∧ t.flag (R.DPY_OUT_STATUS_HPD o) = true) ∧
    (up = true → Gives (.hpdUnplug o) s fun t => t.flag (R.DPY_OUT_STATUS_HPD o) = false ∧ t.flag (R.DPY_OUT_STATUS_SINK_SS o) = false ∧ t.flag (R.DPY_OUT_STATUS_TRAINED o) = false ∧ t.fld (R.DPY_OUT_STATUS_STATE o) = 0 ∧
      Raised (hDp o) 1 t ∧ t.faultBit (hDp o) 0 = false ∧ t = { s with regs := t.regs, rep := t.rep } ∧ RepFrame [] [(hDp o, 1)] [hDp o] s t ∧ WordsKept s t [R.DPY_OUT_STATUS o]) ∧
    (up = false → Gives (.hpdUnplug o) s fun t => t = s) ∧
    (n = 1 → tr = [(l, r)] → l.val ≤ min (s.fld (R.DPY_OUT_CFG_LANES_MAX o)) x.caps.maxLanes.val → r.val ≤ min (s.fld (R.DPY_OUT_CFG_RATE_MAX o)) x.caps.maxRate.val → dpFits s l r = true → Gives (.dpTrainDone o tr) s fun t =>
      t.fld (R.DPY_OUT_STATUS_STATE o) = 2 ∧ t.flag (R.DPY_OUT_STATUS_TRAINED o) = true ∧ t.fld (R.DPY_OUT_STATUS_LANES o) = l ∧ t.fld (R.DPY_OUT_STATUS_RATE o) = r ∧ Event (hDp o) 3 s t ∧
      t = { s with regs := t.regs, rep := t.rep } ∧ WordsKept s t [R.DPY_OUT_STATUS o]) ∧
    (n = 1 → tr = [(l, r), (l2, r2)] → l.val ≤ min (s.fld (R.DPY_OUT_CFG_LANES_MAX o)) x.caps.maxLanes.val → r.val ≤ min (s.fld (R.DPY_OUT_CFG_RATE_MAX o)) x.caps.maxRate.val → dpFits s l r = true →
      l2.val ≤ min (s.fld (R.DPY_OUT_CFG_LANES_MAX o)) x.caps.maxLanes.val → r2.val ≤ min (s.fld (R.DPY_OUT_CFG_RATE_MAX o)) x.caps.maxRate.val → dpFits s l2 r2 = true →
      (dpLanes l2 * dpRate r2 < dpLanes l * dpRate r ∨ (dpLanes l2 * dpRate r2 = dpLanes l * dpRate r ∧ r < r2)) → Gives (.dpTrainDone o tr) s fun t =>
        t.fld (R.DPY_OUT_STATUS_LANES o) = l ∧ t.fld (R.DPY_OUT_STATUS_RATE o) = r) ∧
    (n = 1 → tr = [(l, r)] → (min (s.fld (R.DPY_OUT_CFG_LANES_MAX o)) x.caps.maxLanes.val < l.val ∨ min (s.fld (R.DPY_OUT_CFG_RATE_MAX o)) x.caps.maxRate.val < r.val ∨ dpFits s l r = false) → Gives (.dpTrainDone o tr) s fun t =>
      t.fld (R.DPY_OUT_STATUS_STATE o) = 3 ∧ t.flag (R.DPY_OUT_STATUS_TRAINED o) = false ∧ Event (hDp o) 4 s t ∧ t = { s with regs := t.regs, rep := t.rep } ∧ WordsKept s t [R.DPY_OUT_STATUS o]) ∧
    (n ≠ 1 → Gives (.dpTrainDone o tr) s fun t => t = s) ∧
    (s.snapOf hRas = none → s.snapOf hCol = none → s.flag R.DPY_STATUS_RUN = true → Gives .vblankStart s fun t => t.pair R.DPY_FRAME = (s.pair R.DPY_FRAME + 1) % 2 ^ 64 ∧ t.flag R.DPY_STATUS_ABORTED = false ∧ t.dsp.vAt = s.tclk ∧
      Event hRas 0 s t ∧ t = { s with regs := t.regs, rep := t.rep, dsp := { s.dsp with vAt := t.dsp.vAt, shown := t.dsp.shown } } ∧ WordsKept s t [R.DPY_FRAME, R.DPY_FRAME + 4, R.DPY_STATUS]) ∧
    (s.snapOf hRas = some ws → s.snapOf hCol = none → s.flag R.DPY_STATUS_RUN = false → rasterLegal (overlay s ws) = true → Gives .vblankStart s fun t => t.snapOf hRas = none ∧ Raised hRas 1 t ∧ t.faultBit hRas 0 = false ∧
      (a ≠ R.DPY_STATUS → t.word a = (overlay s ws).word a)) ∧
    (s.snapOf hRas = some ws → s.snapOf hCol = none → s.flag R.DPY_STATUS_RUN = false → rasterLegal (overlay s ws) = false → Gives .vblankStart s fun t => t.snapOf hRas = none ∧ Raised hRas 3 t ∧ t.faultBit hRas 0 = s.faultBit hRas 0 ∧
      t.regs = s.regs) ∧
    (s.flag R.DPY_STATUS_RUN = true → s.flag R.DPY_STATUS_ABORTED = false → Gives .underrun s fun t => t.flag R.DPY_STATUS_ABORTED = true ∧ t.pair R.DPY_UNDERRUN = (s.pair R.DPY_UNDERRUN + 1) % 2 ^ 64 ∧ Event hRas 2 s t ∧
      t = { s with regs := t.regs, rep := t.rep } ∧ WordsKept s t [R.DPY_STATUS, R.DPY_UNDERRUN, R.DPY_UNDERRUN + 4]) ∧
    ((s.flag R.DPY_STATUS_RUN = false ∨ s.flag R.DPY_STATUS_ABORTED = true) → Gives .underrun s fun t => t = s)

/-! Brook (spec/14). -/

/-- An entry of Brook's log was written (R399): SEQ, CODE and ARG, and WSEQ counts it. -/
def Sys2Proof.Claims.Logged (s t : State) (code arg : Nat) : Prop :=
  t.wordN R.BRK_LOG_WSEQ = (s.wordN R.BRK_LOG_WSEQ + 1) % 2 ^ 32 ∧
  ((Tbl.get [] t.brk.log (s.wordN R.BRK_LOG_WSEQ % 1024)).take 6, (Tbl.get [] t.brk.log (s.wordN R.BRK_LOG_WSEQ % 1024)).drop 28) = (leBytes 4 (s.wordN R.BRK_LOG_WSEQ) ++ leBytes 2 code, leBytes 4 arg)

/-- Slot `n` after its inputs `h`, newest first (R388): suppressed until it holds N, then the sum shifted right by SHIFT, clamped. -/
def Sys2Proof.Claims.SlotShows (t : State) (n need shift : Nat) (h : List (Nat × Bool)) : Prop :=
  slotHist t n = h ∧ t.flag (R.BRK_FLT_OUT_SETTLING n) = decide (h.length < need) ∧ t.fld (R.BRK_FLT_OUT_FILL n) = h.length ∧
  t.fld (R.BRK_FLT_OUT_OUT n) = (if h.length < need then 0 else min ((h.map Prod.fst).sum / 2 ^ shift) 65535) ∧ t.flag (R.BRK_FLT_OUT_STALE n) = (decide (need ≤ h.length) && h.any Prod.snd) ∧
  (need ≤ h.length → 65535 < (h.map Prod.fst).sum / 2 ^ shift → t.flag (R.BRK_FLT_SAT_SAT n) = true)

/-- Brook measures (R28, R380 to R391, R404): conversions go to the queue and the slots, calibrations move the trims or are refused, comparators are filtered and kill, self-tests and filter resets. Choices of the model: log entries 3, 45, 46, 47, 80. -/
def Obligations.BrookMeasurements : Prop :=
  ∀ (s : State) (code e ch slot n2 m : Nat) (path : Path) (w : Nat) (rest : List Nat) (offset gain : Int) (n : Fin 12) (raw pass : Bool) (k : Fin 8) (tm : TmrSt) (c : CmpSt) (maj r j : Nat), n2 = bits (s.wordN R.BRK_CMD_ARG) 3 0 → m = bits (s.wordN R.BRK_CMD_ARG) 31 16 →
      r = bits (s.wordN R.BRK_CMD_ARG) 5 0 →
    (s.brk.on = false → Gives (.adcConversion code) s (fun t => t = s) ∧ Gives .adcWarmupEnd s (fun t => t = s) ∧ Gives (.kill n) s (fun t => t = s) ∧ Gives .brkCalDue s (fun t => t = s) ∧
      Gives (.comparatorSample n raw) s (fun t => t = s)) ∧
    (s.brk.on = true → s.brk.pos = e → e ≤ s.fld R.BRK_ADC_CFG_LENM1 → ch = s.fld (R.BRK_SEQ_CHAN e) → slot = s.fld (R.BRK_SEQ_SLOT e) → (33 ≤ ch → ch ≤ 36 → bitAt s.rails 4 = true) → code < 4096 → s.flag R.BRK_ADC_CFG_REFBUF_EN = true → s.flag R.BRK_STATUS_WARM = false →
      (s.flag (R.BRK_SEQ_SLOT_EN e) = false → s.flag (R.BRK_SEQ_QUEUE e) = true → s.brk.adcq.length < 64 → Gives (.adcConversion code) s fun t =>
        t.brk.adcq = s.brk.adcq ++ [2 ^ 31 + b2n s.brk.lossDue * 2 ^ 30 + b2n (s.flag R.BRK_STATUS_CAL_BUSY) * 2 ^ 28 + ch * 2 ^ 22 + s.brk.adcSeq * 2 ^ 12 + code] ∧ t.brk.adcSeq = (s.brk.adcSeq + 1) % 256 ∧
        t.brk.lossDue = false ∧ t.brk.pos = (e + 1) % (s.fld R.BRK_ADC_CFG_LENM1 + 1) ∧ t.brk.slots = s.brk.slots ∧ t = { s with regs := t.regs, brk := t.brk } ∧ WordsKept s t [R.MOD_PIN]) ∧
      (s.flag (R.BRK_SEQ_SLOT_EN e) = false → s.flag (R.BRK_SEQ_QUEUE e) = true → 64 ≤ s.brk.adcq.length → Gives (.adcConversion code) s fun t => t.brk.adcq = s.brk.adcq ∧ t.brk.lossDue = true ∧
        t.wordN R.BRK_ADC_LOST = min (s.wordN R.BRK_ADC_LOST + 1) 0xFFFFFFFF ∧ t.brk.adcSeq = (s.brk.adcSeq + 1) % 256 ∧ WordsKept s t [R.MOD_PIN, R.BRK_ADC_LOST]) ∧
      (s.flag (R.BRK_SEQ_SLOT_EN e) = true → s.flag (R.BRK_SEQ_QUEUE e) = false → s.flag (R.BRK_FLT_CFG_SRC slot) = false → Gives (.adcConversion code) s fun t => t.brk.adcq = s.brk.adcq ∧ t.brk.pos = (e + 1) % (s.fld R.BRK_ADC_CFG_LENM1 + 1) ∧
        SlotShows t slot (s.fld (R.BRK_FLT_CFG_NM1 slot) + 1) (s.fld (R.BRK_FLT_CFG_SHIFT slot)) (((code, s.flag R.BRK_STATUS_CAL_BUSY) :: slotHist s slot).take (s.fld (R.BRK_FLT_CFG_NM1 slot) + 1)) ∧
        (j ≠ slot → slotHist t j = slotHist s j) ∧ t = { s with regs := t.regs, brk := t.brk, rep := { s.rep with fresh := t.rep.fresh } } ∧ WordsKept s t [R.MOD_PIN, R.BRK_FLT_OUT slot, R.BRK_FLT_SAT slot])) ∧
    (s.brk.adcq = [] → Gives (.adcQpop path) s fun t => t = { s with rep := { s.rep with out := .regRead path R.BRK_ADC_QPOP 0 :: s.rep.out } }) ∧
    (s.brk.adcq = w :: rest → Gives (.adcQpop path) s fun t => t = { s with brk := { s.brk with adcq := rest }, rep := { s.rep with out := .regRead path R.BRK_ADC_QPOP w :: s.rep.out } }) ∧
    (s.brk.on = true → s.flag R.BRK_ADC_CFG_REFBUF_EN = true → Gives .adcWarmupEnd s fun t => t.flag R.BRK_STATUS_WARM = false ∧ t.rails = s.rails ∧ t = { s with regs := t.regs } ∧ WordsKept s t [R.BRK_STATUS]) ∧
    (s.cmdBusy hBrk = false → s.flag R.BRK_STATUS_CAL_BUSY = true → Gives .brkCal s (TurnedAway hBrk 1 .busy s)) ∧
    (s.cmdBusy hBrk = false → s.flag R.BRK_STATUS_CAL_BUSY = false → Gives .brkCal s fun t => t.flag R.BRK_STATUS_CAL_BUSY = true ∧ Finished hBrk 1 .ok s t ∧ t = { s with regs := t.regs, rep := t.rep } ∧ WordsKept s t [R.BRK_STATUS]) ∧
    (s.brk.on = true → s.wordN R.BRK_CAL_PERIOD ≠ 0 → Gives .brkCalDue s fun t => t.flag R.BRK_STATUS_CAL_BUSY = true ∧ t = { s with regs := t.regs } ∧ WordsKept s t [R.BRK_STATUS]) ∧
    (s.flag R.BRK_STATUS_CAL_BUSY = false → Gives (.adcCalEnd offset gain) s fun t => t = s) ∧
    (s.flag R.BRK_STATUS_CAL_BUSY = true → (32 < offset.natAbs ∨ 81 < gain.natAbs) → Gives (.adcCalEnd offset gain) s fun t => t.flag R.BRK_STATUS_CAL_BUSY = false ∧ Raised hBrk 3 t ∧ Logged s t 0x103 0 ∧ t.brk.alert = true ∧
      t.brk.trimTo = s.brk.trimTo ∧ t = { s with regs := t.regs, rep := t.rep, brk := t.brk } ∧ RepFrame [] [(hBrk, 3), (hBrk, 8)] [] s t ∧ WordsKept s t [R.BRK_STATUS, R.BRK_LOG_WSEQ, R.BRK_LOG_LOST]) ∧
    (s.flag R.BRK_STATUS_CAL_BUSY = true → offset.natAbs ≤ 32 → gain.natAbs ≤ 81 → Gives (.adcCalEnd offset gain) s fun t => t.flag R.BRK_STATUS_CAL_BUSY = false ∧ Raised hBrk 2 t ∧ Logged s t 0x102 0 ∧ t.brk.trimTo = some (offset, gain) ∧
      t.jq.any (fun x => decide (x.typ = 4) && decide (x.vals = [offset, gain])) = true ∧ WordsKept s t [R.BRK_STATUS, R.BRK_LOG_WSEQ, R.BRK_LOG_LOST]) ∧
    (s.brk.on = true → s.brk.tests.contains n = false → s.flag (R.BRK_CMP_CFG_KILL n) = false → s.fld (R.BRK_CMP_CFG_FILT n) = 0 → Gives (.comparatorSample n raw) s fun t => t.flag (R.BRK_CMP_STATUS_RAW n) = raw ∧
      t.flag (R.BRK_CMP_STATUS_FILTERED n) = raw ∧ bitAt (t.fld R.BRK_STATUS_CMP) n = raw ∧ t = { s with regs := t.regs, brk := { s.brk with cmps := t.brk.cmps } } ∧ WordsKept s t [R.BRK_CMP_STATUS n, R.BRK_STATUS] ∧ t.rails = s.rails) ∧
    (s.brk.on = true → s.brk.tests.contains n = false → s.flag (R.BRK_CMP_CFG_KILL n) = false → s.fld (R.BRK_CMP_CFG_FILT n) = 1 → c = Tbl.get CmpSt.init s.brk.cmps n →
      maj = (if s.fld (R.BRK_CMP_CFG_MAJ n) = 0 then 3 else if s.fld (R.BRK_CMP_CFG_MAJ n) = 1 then 5 else 9) → c.hist.length = 9 → Gives (.comparatorSample n raw) s fun t =>
      t.flag (R.BRK_CMP_STATUS_RAW n) = raw ∧ t.flag (R.BRK_CMP_STATUS_FILTERED n) = decide (maj / 2 < (((raw :: c.hist).take maj).filter id).length) ∧ WordsKept s t [R.BRK_CMP_STATUS n, R.BRK_STATUS]) ∧
    (s.brk.on = true → s.brk.tests.contains n = false → s.flag (R.BRK_CMP_CFG_KILL n) = false → s.fld (R.BRK_CMP_CFG_FILT n) = 2 → s.flag (R.BRK_CMP_CFG_BLK_SRC n) = false → 1 < (Tbl.get CmpSt.init s.brk.cmps n).hold → Gives (.comparatorSample n raw) s fun t =>
      t.flag (R.BRK_CMP_STATUS_RAW n) = raw ∧ t.flag (R.BRK_CMP_STATUS_FILTERED n) = s.flag (R.BRK_CMP_STATUS_FILTERED n)) ∧
    (s.brk.on = true → s.flag (R.BRK_CMP_CFG_KILL n) = true → s.fld (R.BRK_CMP_CFG_MODE n) = 0 → s.brk.tests.contains n = false → Gives (.kill n) s fun t => t.flag R.BRK_STATUS_KILLED = true ∧ t.rails = 0 ∧ t.flag R.BRK_STATUS_DIE_GO = false ∧
      t.flag R.BRK_STATUS_DIE_RUN = false ∧ t.faultBit hBrk 0 = true ∧ Raised hBrk 0 t ∧ t.brk.alert = true ∧ Logged s t 0x100 n ∧ t.flag R.BRK_RAIL_STATUS_ANY_EN = false ∧ t.boot.held = true ∧ t = { s with regs := t.regs, rep := t.rep, brk := t.brk, boot := { s.boot with held := true } } ∧
      RepFrame [] [(hBrk, 0), (hBrk, 8)] [hBrk] s t ∧ WordsKept s t [R.BRK_STATUS, R.BRK_RAIL_STATUS, R.BRK_CMP_STATUS n, R.BRK_LOG_WSEQ, R.BRK_LOG_LOST]) ∧
    (s.brk.on = true → s.flag (R.BRK_CMP_CFG_KILL n) = true → s.fld (R.BRK_CMP_CFG_MODE n) = 0 → s.brk.tests.contains n = false → raw = true → s.flag (R.BRK_CMP_STATUS_RAW n) = false → Gives (.comparatorSample n raw) s fun t =>
      t.flag R.BRK_STATUS_KILLED = true ∧ t.rails = 0 ∧ t.faultBit hBrk 0 = true) ∧
    ((s.flag (R.BRK_CMP_CFG_KILL n) = false ∨ s.fld (R.BRK_CMP_CFG_MODE n) ≠ 0 ∨ s.brk.tests.contains n = true) → Gives (.kill n) s fun t => t = s) ∧
    (s.cmdBusy hBrk = false → 11 < n2 → Gives .selftest s (TurnedAway hBrk 2 .range s)) ∧
    (s.cmdBusy hBrk = false → n2 ≤ 11 → s.flag (R.BRK_CMP_CFG_KILL n2) = true → s.flag R.BRK_STATUS_KILLED = false → Gives .selftest s (TurnedAway hBrk 2 .state s)) ∧
    (s.cmdBusy hBrk = false → n2 ≤ 11 → (s.flag (R.BRK_CMP_CFG_KILL n2) = false ∨ s.flag R.BRK_STATUS_KILLED = true) → Gives .selftest s fun t => t.flag (R.BRK_CMP_STATUS_ST_BUSY n2) = true ∧ t.flag (R.BRK_CMP_STATUS_ST_PASS n2) = false ∧
      t.flag (R.BRK_CMP_STATUS_ST_FAIL n2) = false ∧ t.brk.tests = s.brk.tests.filter (· ≠ n2) ++ [n2] ∧ Finished hBrk 2 .ok s t ∧ t = { s with regs := t.regs, rep := t.rep, brk := { s.brk with tests := t.brk.tests } } ∧
      WordsKept s t [R.BRK_CMP_STATUS n2]) ∧
    (s.brk.tests = [] → Gives (.selftestDone pass) s fun t => t = s) ∧
    (s.brk.tests = n.val :: rest → Gives (.selftestDone pass) s fun t => t.flag (R.BRK_CMP_STATUS_ST_BUSY n) = false ∧ t.flag (R.BRK_CMP_STATUS_ST_PASS n) = pass ∧ t.flag (R.BRK_CMP_STATUS_ST_FAIL n) = !pass ∧ Raised hBrk 4 t ∧
      (pass = false → t.faultBit hBrk 1 = true) ∧ Logged s t 0x104 n ∧ t.brk.tests = rest ∧ t = { s with regs := t.regs, rep := t.rep, brk := t.brk } ∧ RepFrame [] [(hBrk, 4), (hBrk, 8)] [hBrk] s t ∧
      WordsKept s t [R.BRK_CMP_STATUS n, R.BRK_LOG_WSEQ, R.BRK_LOG_LOST]) ∧
    (s.cmdBusy hBrk = false → m = 0 → Gives .resetFlt s (TurnedAway hBrk 3 .range s)) ∧
    (s.cmdBusy hBrk = false → m ≠ 0 → (∀ i : Fin 16, s.flag (R.BRK_FLT_CFG_SRC i) = false) → Gives .resetFlt s fun t => Finished hBrk 3 .ok s t ∧ t = { s with regs := t.regs, rep := t.rep, brk := { s.brk with slots := t.brk.slots } } ∧
      (∀ i : Fin 16, if bitAt m i then slotHist t i = [] ∧ t.flag (R.BRK_FLT_OUT_SETTLING i) = true ∧ t.fld (R.BRK_FLT_OUT_OUT i) = 0 else slotHist t i = slotHist s i ∧ t.word (R.BRK_FLT_OUT i) = s.word (R.BRK_FLT_OUT i))) ∧
    (s.cmdBusy hBrk = false → s.flag (R.BRK_RULE0_LATCH r) = false → Gives .clrLatch s (TurnedAway hBrk 4 .state s)) ∧
    (s.cmdBusy hBrk = false → s.flag (R.BRK_RULE0_LATCH r) = true → Gives .clrLatch s fun t => (∀ i : Fin 64, bitAt t.brk.held i = (bitAt s.brk.held i && decide (i.val ≠ r))) ∧
      t = { s with rep := t.rep, brk := { s.brk with held := t.brk.held } } ∧ Finished hBrk 4 .ok s t) ∧
    (Tbl.find s.brk.tmrs k = some tm → Gives (.brookTimerExpire k) s fun t => tmrExpired t k = true ∧ t = { s with brk := { s.brk with tmrs := t.brk.tmrs } } ∧ (j ≠ k.val → Tbl.find t.brk.tmrs j = Tbl.find s.brk.tmrs j)) ∧
    (Tbl.find s.brk.tmrs k = none → Gives (.brookTimerExpire k) s fun t => t = s)

/-- Rule `r` is the only rule enabled; it is always true (SRC_A 0x3F), and its actions are `acts`, of T_START, LOG, ALERT, DIE_EVT, EXTRACT, FRESET, RAIL_ON, RAIL_OFF, SEQ_UP, SEQ_DOWN, DIE_HOLD and DIE_GO (R392 to R394). -/
def Sys2Proof.Claims.OnlyRule (s : State) (r : Nat) (acts : List Bool) : Prop :=
  (∀ j : Fin 64, s.flag (R.BRK_RULE0_EN j) = decide (j.val = r)) ∧ s.fld (R.BRK_RULE0_SRC_A r) = 0x3F ∧ s.flag (R.BRK_RULE0_INV_A r) = false ∧ s.fld (R.BRK_RULE0_COMB r) = 0 ∧
  (s.flag (R.BRK_RULE0_EDGE r) = true → bitAt s.brk.prev r = false) ∧
  [R.BRK_RULE1_T_START r, R.BRK_RULE1_LOG r, R.BRK_RULE1_ALERT r, R.BRK_RULE1_DIE_EVT r, R.BRK_RULE1_EXTRACT r, R.BRK_RULE1_FRESET r, R.BRK_RULE1_RAIL_ON r, R.BRK_RULE1_RAIL_OFF r,
    R.BRK_RULE1_SEQ_UP r, R.BRK_RULE1_SEQ_DOWN r, R.BRK_RULE1_DIE_HOLD r, R.BRK_RULE1_DIE_GO r].map s.flag = acts

/-- A round of Brook and the die's power (R378, R392 to R395, R397, R415, R417, R418): BT counts 10 µs a round, rules act on one snapshot, one rail a round is sequenced; extraction, deferred holds, standby power and a reset of the die. A die that is held takes part in no analysis (R28). Choices of the model: log entries 3, 20, 45, 80. -/
def Obligations.BrookRounds : Prop :=
  ∀ (s : State) (en present : Bool) (r : Fin 64) (k : Nat) (i : Nat) (o f : Bool), 
    (s.brk.on = false → Gives (.brookRound en present) s (fun t => t = s) ∧ Gives .extractionImminent s (fun t => t = s) ∧ Gives .extractionClear s (fun t => t = s)) ∧
    (o = true → f = false → s.brk.on = true → s.snapOf hBrk = none → xramWord s 0x100 = s.brk.mbSeq → s.brk.hit = none → s.brk.trimTo = none → s.brk.bt < 2 ^ 48 → s.brk.downDue = false → (∀ i : Fin 16, s.flag (R.BRK_FLT_CFG_SRC i) = false) → (∀ i : Fin 8, bitAt (s.fld R.BRK_RAIL_STATUS_GOOD) i = true → bitAt s.rails i = true) →
      ((∀ j : Fin 64, s.flag (R.BRK_RULE0_EN j) = false) → Gives (.brookRound en present) s fun t => t.pair R.BRK_BT = s.brk.bt ∧ t.brk.bt = (s.brk.bt + 10) % 2 ^ 48 ∧ t.flag R.BRK_STATUS_PRESENT = present ∧ t.rails = s.rails ∧ t.brk.prev = 0 ∧
        t.flag R.BRK_STATUS_DIE_GO = s.flag R.BRK_STATUS_DIE_GO ∧ (∀ q : Fin 8, bitAt (t.fld R.BRK_RAIL_STATUS_GOOD) q = (bitAt (s.fld R.BRK_RAIL_STATUS_GOOD) q || (bitAt s.rails q && slotAbove s (goodSlot s q)))) ∧
        leNat ((upFrom 0 8).map (Tbl.get 0 t.rep.xram)) = s.brk.bt ∧ t = { s with regs := t.regs, rep := { s.rep with xram := t.rep.xram }, brk := { s.brk with bt := t.brk.bt, prev := 0 } } ∧
        WordsKept s t [R.BRK_STATUS, R.BRK_RAIL_STATUS, R.BRK_BT, R.BRK_BT + 4]) ∧
      (s.flag R.BRK_STATUS_KILLED = false →
        (OnlyRule s r [f, f, f, f, f, f, o, f, f, f, f, f] → Gives (.brookRound en present) s fun t => t.rails = s.rails ||| s.fld (R.BRK_RULE1_RAILS r) ∧ t.brk.prev = 2 ^ r.val ∧ t.flag R.BRK_STATUS_DIE_GO = s.flag R.BRK_STATUS_DIE_GO) ∧
        (OnlyRule s r [f, f, f, f, f, f, f, o, f, f, f, f] → Gives (.brookRound en present) s fun t => (∀ q : Fin 8, bitAt t.rails q = (bitAt s.rails q && !bitAt (s.fld (R.BRK_RULE1_RAILS r)) q))) ∧
        (OnlyRule s r [f, f, f, f, f, f, f, f, o, f, f, f] → railOrderOk (s.wordN R.BRK_RAIL_ORDER) = true → k < 8 → bitAt s.rails (railAt s k) = false → (∀ q : Fin 8, q.val < k → bitAt s.rails (railAt s q) = true) → Gives (.brookRound en present) s fun t =>
          t.rails = (if (List.range k).all (fun q => bitAt (s.fld R.BRK_RAIL_STATUS_GOOD) (railAt s q) || slotAbove s (goodSlot s (railAt s q))) then s.rails + 2 ^ railAt s k else s.rails)) ∧
        (OnlyRule s r [f, f, f, f, f, f, f, f, f, o, f, f] → railOrderOk (s.wordN R.BRK_RAIL_ORDER) = true → s.flag R.BRK_STATUS_EXTRACT = false → k < 8 → bitAt s.rails (railAt s k) = true → (∀ q : Fin 8, k < q.val → bitAt s.rails (railAt s q) = false) → Gives (.brookRound en present) s fun t =>
          t.rails + 2 ^ railAt s k = s.rails) ∧
        (OnlyRule s r [f, f, f, f, f, f, f, f, f, f, f, o] → Gives (.brookRound en present) s fun t => t.flag R.BRK_STATUS_DIE_GO = true ∧ t.rails = s.rails) ∧
        (OnlyRule s r [f, f, f, f, f, f, f, f, f, f, o, f] → s.flag R.BRK_STATUS_EXTRACT = false → Gives (.brookRound en present) s fun t => t.flag R.BRK_STATUS_DIE_GO = false ∧ t.flag R.BRK_STATUS_DIE_RUN = false ∧ t.boot.held = true ∧ t.rails = s.rails) ∧
        (OnlyRule s r [f, f, f, f, f, f, f, f, f, f, o, f] → s.flag R.BRK_STATUS_EXTRACT = true → s.brk.defer = true → Gives (.brookRound en present) s fun t => t.flag R.BRK_STATUS_DIE_RUN = s.flag R.BRK_STATUS_DIE_RUN ∧ t.brk.holdDue = true) ∧
        (OnlyRule s r [o, f, f, f, f, f, f, f, f, f, f, f] → Gives (.brookRound en present) s fun t =>
          Tbl.find t.brk.tmrs (s.fld (R.BRK_RULE1_TMR r)) = some ⟨s.brk.bt + bits (s.wordN (R.BRK_TMR (s.fld (R.BRK_RULE1_TMR r)))) 23 0, false⟩) ∧
        (OnlyRule s r [f, o, f, f, f, f, f, f, f, f, f, f] → Gives (.brookRound en present) s fun t => Logged s t r 0) ∧
        (OnlyRule s r [f, f, o, f, f, f, f, f, f, f, f, f] → Gives (.brookRound en present) s fun t => t.brk.alert = true) ∧
        (OnlyRule s r [f, f, f, o, f, f, f, f, f, f, f, f] → Gives (.brookRound en present) s fun t => Raised hBrk 6 t ∧ t.brk.alert = true) ∧
        (OnlyRule s r [f, f, f, f, f, o, f, f, f, f, f, f] → Gives (.brookRound en present) s fun t => slotHist t (s.fld (R.BRK_RULE1_FSLOT r)) = [] ∧ t.flag (R.BRK_FLT_OUT_SETTLING (s.fld (R.BRK_RULE1_FSLOT r))) = true)) ∧
      (s.flag R.BRK_STATUS_KILLED = true → OnlyRule s r [f, f, f, f, f, f, o, f, f, f, f, f] → Gives (.brookRound en present) s fun t => t.rails = s.rails ∧ t.flag R.BRK_STATUS_DIE_GO = s.flag R.BRK_STATUS_DIE_GO)) ∧
    (s.brk.on = true → s.flag R.BRK_STATUS_EXTRACT = false → s.flag R.HOST_STATUS_LINK_UP = false → (∀ p : Fin 4, s.portState p = psDown) → Gives .extractionImminent s fun t => t.flag R.BRK_STATUS_EXTRACT = true ∧ t.flag R.BRK_STATUS_PRESENT = false ∧
      Raised hBrk 1 t ∧ Logged s t 0x101 0 ∧ t.brk.defer = true ∧ t.brk.alert = true ∧ t.rails = s.rails ∧ t = { s with regs := t.regs, rep := t.rep, brk := t.brk } ∧ RepFrame [] [(hBrk, 1), (hBrk, 8)] [] s t ∧
      WordsKept s t [R.BRK_STATUS, R.BRK_LOG_WSEQ, R.BRK_LOG_LOST]) ∧
    (s.brk.on = true → s.flag R.BRK_STATUS_EXTRACT = false → s.flag R.HOST_STATUS_LINK_UP = true → Gives .extractionImminent s fun t => t.flag R.HOST_STATUS_LINK_UP = false ∧ Raised hHost 1 t ∧ (∀ p : Fin 4, t.portState p = psDown ∨ (t.portSt p).idle = true)) ∧
    (s.brk.on = true → Gives .extractionClear s fun t => t.flag R.BRK_STATUS_EXTRACT = false ∧ t.flag R.BRK_STATUS_PRESENT = true ∧ t = { s with regs := t.regs } ∧ WordsKept s t [R.BRK_STATUS]) ∧
    (s.brk.defer = false → Gives .deferredDieHold s fun t => t = s) ∧
    (s.brk.defer = true → Gives .deferredDieHold s fun t => (s.brk.holdDue = true → t.flag R.BRK_STATUS_DIE_RUN = false ∧ t.flag R.BRK_STATUS_DIE_GO = false ∧ t.boot.held = true) ∧ (s.brk.holdDue = false → t.regs = s.regs) ∧
      t = { s with regs := t.regs, brk := { s.brk with defer := false, holdDue := false } } ∧ WordsKept s t [R.BRK_STATUS]) ∧
    (s.brk.on = false → Gives .standbyPowerUp s fun t => t.brk.on = true ∧ t.brk.bt = 0 ∧ t.rails = 0 ∧ t.flag R.BRK_STATUS_KILLED = false ∧ t.flag R.BRK_STATUS_DIE_RUN = false ∧ t.brk.log = [] ∧ t.brk.adcq = [] ∧ t.brk.alert = false ∧
      t.fld R.BRK_ADC_TRIM_OFFSET = Config.brkTrim % 256 ∧ (i < hBrk ∨ hBrk + 0x1000 ≤ i → t.word i = s.word i)) ∧
    (s.brk.on = true → Gives .standbyPowerUp s fun t => t = s) ∧
    (Gives .standbyPowerLoss s fun t => t.brk = Brk.init ∧ t.mem = [] ∧ t.flag R.BRK_STATUS_DIE_RUN = false ∧ t.pending = s.pending ∧ t.tclk = s.tclk ∧ t.boot.slot0 = s.boot.slot0 ∧ t.boot.slot1 = s.boot.slot1 ∧ t.boot.life = s.boot.life ∧
      t.rep.xram = [] ∧ t.rep.logq = []) ∧
    (Gives .dieReset s fun t => t.flag R.BRK_STATUS_DIE_RUN = false ∧ t.rails = s.rails ∧ t.flag R.BRK_STATUS_KILLED = s.flag R.BRK_STATUS_KILLED ∧ t.flag R.BRK_STATUS_DIE_GO = s.flag R.BRK_STATUS_DIE_GO ∧ t.brk.log = [] ∧ t.brk.adcq = [] ∧
      t.brk.bt = s.brk.bt ∧ t.brk.on = s.brk.on ∧ t.mem = [] ∧ t.rep.xram = [] ∧ t.boot.slot0 = s.boot.slot0 ∧ t.boot.life = s.boot.life ∧ t.boot.keyHash = s.boot.keyHash ∧ t.rfl = State.reset.rfl ∧ t.net = State.reset.net ∧
      t.pending = s.pending)

/-- The mailbox and the SPI target (R400 to R403): each request is acted on once and answered with its status; SPI words are the exchange RAM's; a word that Brook writes as SPI reads it,
or SPI as Brook reads it, reads as a free value (R279). Choices of the model: log entries 3, 4, 48, 77. -/
def Obligations.MailboxAndSpi : Prop :=
  ∀ (s : State) (q off : Nat) (a : Fin 4096) (n i m : Nat) (ws : List Word) (col : Collision) (w : Bool), q = xramWord s 0x100 → off = xramWord s 0x108 →
    ((s.brk.on = false ∨ (q = s.brk.mbSeq ∧ s.brk.hit = none)) → Gives .mbRegRead s (fun t => t = s) ∧ Gives .mbRegWrite s (fun t => t = s) ∧ Gives .logFetch s (fun t => t = s) ∧ Gives .alertAck s (fun t => t = s) ∧ Gives .killClr s (fun t => t = s)) ∧
    (s.brk.on = true → s.brk.hit = none → q ≠ s.brk.mbSeq → q < 2 ^ 32 →
      (xramWord s 0x104 = 1 → (off < 0x1E80000 ∨ 0x1E90000 ≤ off) → s.flag R.BRK_STATUS_DIE_RUN = false → Gives .mbRegRead s fun t => xramWord t 0x180 = q ∧ xramWord t 0x184 = Code.num .state ∧ t.brk.mbSeq = q ∧
        t = { s with rep := { s.rep with xram := t.rep.xram }, brk := { s.brk with mbSeq := q } }) ∧
      (xramWord s 0x104 = 1 → off = R.BRK_RAIL_SLOT → Gives .mbRegRead s fun t => xramWord t 0x180 = q ∧ xramWord t 0x184 = Code.num .ok ∧ xramWord t 0x188 = s.wordN R.BRK_RAIL_SLOT ∧ t.brk.mbSeq = q ∧ t.regs = s.regs ∧ t.rep.out = s.rep.out) ∧
      (xramWord s 0x104 = 2 → (off < 0x1E80000 ∨ 0x1E90000 ≤ off) → s.flag R.BRK_STATUS_DIE_RUN = false → Gives .mbRegWrite s fun t => xramWord t 0x180 = q ∧ xramWord t 0x184 = Code.num .state ∧ t.brk.mbSeq = q ∧
        t = { s with rep := { s.rep with xram := t.rep.xram }, brk := { s.brk with mbSeq := q } }) ∧
      (xramWord s 0x104 = 2 → off = R.BRK_CMD_ARG → Gives .mbRegWrite s fun t => xramWord t 0x180 = q ∧ xramWord t 0x184 = Code.num .ok ∧ t.wordN R.BRK_CMD_ARG = xramWord s 0x10C ∧ t.brk.mbSeq = q ∧ WordsKept s t [R.BRK_CMD_ARG]) ∧
      (xramWord s 0x104 = 3 → 256 < xramWord s 0x10C → Gives .logFetch s fun t => xramWord t 0x180 = q ∧ xramWord t 0x184 = Code.num .range ∧ t.brk.mbSeq = q ∧
        t = { s with rep := { s.rep with xram := t.rep.xram }, brk := { s.brk with mbSeq := q } }) ∧
      (xramWord s 0x104 = 3 → n = xramWord s 0x10C → n ≤ 8 → i < n → (Tbl.get [] s.brk.log ((off + i) % 1024)).length = 32 → (Tbl.get [] s.brk.log ((off + i) % 1024)).take 4 = leBytes 4 ((off + i) % 2 ^ 32) →
        (∀ j : Fin 8, (Tbl.get [] s.brk.log ((off + j) % 1024)).length ≤ 32) → Gives .logFetch s fun t => xramWord t 0x180 = q ∧ xramWord t 0x184 = Code.num .ok ∧ t.brk.mbSeq = q ∧
        (upFrom (0x2000 + 32 * i) 32).map (Tbl.get 0 t.rep.xram) = Tbl.get [] s.brk.log ((off + i) % 1024) ∧ t = { s with rep := { s.rep with xram := t.rep.xram }, brk := { s.brk with mbSeq := q } }) ∧
      (xramWord s 0x104 = 4 → Gives .alertAck s fun t => xramWord t 0x180 = q ∧ xramWord t 0x184 = Code.num .ok ∧ t.brk = { s.brk with alert := false, mbSeq := q } ∧ t.regs = s.regs ∧ t = { s with rep := t.rep, brk := t.brk } ∧
        (s.brk.alert = true → t.rep.out = .pin "ALERT_N" 1 :: s.rep.out) ∧ RepFrame [] [] [] s t) ∧
      (xramWord s 0x104 = 5 → s.flag R.BRK_STATUS_KILLED = false → Gives .killClr s fun t => xramWord t 0x180 = q ∧ xramWord t 0x184 = Code.num .state ∧ t.brk.mbSeq = q ∧ t.regs = s.regs) ∧
      (xramWord s 0x104 = 5 → s.flag R.BRK_STATUS_KILLED = true → Gives .killClr s fun t => xramWord t 0x180 = q ∧ xramWord t 0x184 = Code.num .ok ∧ t.brk.mbSeq = q ∧ t.flag R.BRK_STATUS_KILLED = false ∧ t.faultBit hBrk 0 = false ∧
        t = { s with regs := t.regs, rep := t.rep, brk := { s.brk with mbSeq := q } } ∧ WordsKept s t [R.BRK_STATUS] ∧ RepFrame [] [] [hBrk] s t)) ∧
    (s.brk.on = false → Gives (.spiRead (BitVec.ofNat 16 (4 * a)) n col) s (fun t => t = s) ∧ Gives (.spiWrite (BitVec.ofNat 16 (4 * a)) ws col) s (fun t => t = s) ∧ Gives .spiRdsr s (fun t => t = s)) ∧
    (s.brk.on = true → a.val + n ≤ 4096 → (col = .none ∨ col = .spiLater m false) → Gives (.spiRead (BitVec.ofNat 16 (4 * a)) n col) s fun t => t.rep.out.contains (.spi ((upFrom (0 : Nat) n).map (fun j => xramWord s (4 * (a.val + j))))) = true ∧
      t.freeCtr = s.freeCtr ∧ t.brk.col = (s.brk.col || decide (col ≠ .none)) ∧ t = { s with rep := { s.rep with out := t.rep.out }, brk := { s.brk with col := t.brk.col } }) ∧
    (s.brk.on = true → a.val + n ≤ 4096 → i < n → (col = .spiLater i true ∨ col = .brookLater i true) → Gives (.spiRead (BitVec.ofNat 16 (4 * a)) n col) s fun t => t.freeCtr = s.freeCtr + 1 ∧ t.brk.col = (s.brk.col || decide (col = .spiLater i true)) ∧
      t.rep.out.contains (.spi (((upFrom (0 : Nat) n).map (fun j => xramWord s (4 * (a.val + j)))).set i (Config.freeNat s.freeCtr % 2 ^ 32))) = true) ∧
    (s.brk.on = true → a.val + ws.length ≤ 4096 → i < ws.length → (col = .none ∨ col = .spiLater m false) → Gives (.spiWrite (BitVec.ofNat 16 (4 * a)) ws col) s fun t => xramWord t (4 * (a.val + i)) = (ws.getD i 0).toNat ∧
      (n < 4 * a.val ∨ 4 * (a.val + ws.length) ≤ n → Tbl.get 0 t.rep.xram n = Tbl.get 0 s.rep.xram n) ∧ t.regs = s.regs ∧ t.brk = { s.brk with col := t.brk.col, hit := t.brk.hit } ∧ (col = .none → t.brk.hit = s.brk.hit) ∧ (col = .spiLater m false → t.brk.hit = some (s.tclk / 64, (a.val + m) % 4096 * 4)) ∧ RepFrame [] [] [] s t) ∧
    (s.brk.on = true → col = .brookLater m w → ws ≠ [] → a.val + ws.length ≤ 4096 → Gives (.spiWrite (BitVec.ofNat 16 (4 * a)) ws col) s fun t => t.flag R.BRK_XCOL_SET = true ∧ t.fld R.BRK_XCOL_COUNT = min 65535 (s.fld R.BRK_XCOL_COUNT + 1) ∧ Raised hBrk 7 t ∧
      t.brk.alert = true ∧ xramWord t (4 * a.val) = (ws.getD 0 0).toNat ∧ WordsKept s t [R.BRK_XCOL]) ∧
    (s.brk.on = true → s.brk.hit = some (s.tclk / 64, 0x100) → Config.freeNat s.freeCtr % 2 ^ 32 = s.brk.mbSeq → Gives .mbRegRead s fun t => t = { s with freeCtr := s.freeCtr + 1 }) ∧
    (s.brk.on = true → Gives .spiRdsr s fun t => t = { s with brk := { s.brk with col := false }, rep := { s.rep with out := .spi [b2n s.brk.col + 2 * b2n s.brk.alert + 4 * b2n (s.flag R.BRK_STATUS_DIE_RUN) + 8 * b2n (decide (xramWord s 0x100 ≠ xramWord s 0x180))] :: s.rep.out } })

/-! Module, start-up, image, lifecycle and journal (spec/15, spec/16). -/

/-- Temperature, running hours and the life of a module (R421, R423, R425, R433, R435 to R437, R443, R444): throttling levels; a start that finds no image, accepts a slot or waits for lock; ADVANCE and SVN_COMMIT with their refusals. Choices of the model: log entries 3, 51, 53, 57. -/
def Obligations.StartAndLifecycle : Prop :=
  ∀ (s : State) (codes : List Nat) (c : Fin 4) (hot lvl k : Nat) (ok0 ok1 fv : Bool) (lk : Option Word) (ctl : Word) (p : Option Nat) (b v : Nat), lvl = s.fld R.MOD_THERM_STATUS_LEVEL → b = s.boot.life → v = min 64 (s.fld R.IMG_INFO_SVN) →
    (codes.length = 4 → hot = (codes[c.val]?).getD 0 → (∀ i : Fin 4, (codes[i.val]?).getD 0 ≤ hot) → (∀ i : Fin 4, i < c → (codes[i.val]?).getD 0 < hot) → hot < 4096 → lvl ≤ 2 →
      (Gives (.thermalSample codes) s fun t => t.fld R.MOD_THERM_STATUS_TJ_MAX = hot ∧ t.fld R.MOD_THERM_STATUS_HOTTEST = c ∧ (2544 < hot ↔ t.faultBit hMod 0 = true) ∧
        (s.fld R.MOD_THERM_STATUS_TJ_MAX ≤ 2464 → 2464 < hot → Raised hMod 2 t) ∧ t.pair R.MOD_THROT = (s.pair R.MOD_THROT + (if lvl = 0 then 0 else 1)) % 2 ^ 64 ∧
        t = { s with regs := t.regs, rep := t.rep, boot := { s.boot with inRel := t.boot.inRel, inThr := t.boot.inThr } } ∧ WordsKept s t [R.MOD_THERM_STATUS, R.MOD_THROT, R.MOD_THROT + 4] ∧
        RepFrame [] [(hMod, 0), (hMod, 1), (hMod, 2)] [hMod] s t) ∧
      (16 * (s.fld R.MOD_THERM_CFG_THROT2 + 64) ≤ hot → Gives (.thermalSample codes) s fun t => t.fld R.MOD_THERM_STATUS_LEVEL = 2 ∧ (lvl < 2 → Raised hMod 0 t)) ∧
      (hot < 16 * (s.fld R.MOD_THERM_CFG_THROT2 + 64) → lvl = 0 → Gives (.thermalSample codes) s fun t =>
        t.fld R.MOD_THERM_STATUS_LEVEL = (if 16 * (s.fld R.MOD_THERM_CFG_THROT1 + 64) ≤ hot then 1 else 0) ∧ (16 * (s.fld R.MOD_THERM_CFG_THROT1 + 64) ≤ hot → Raised hMod 0 t)) ∧
      (hot < 16 * (s.fld R.MOD_THERM_CFG_THROT2 + 64) → lvl ≠ 0 → hot < 16 * (s.fld R.MOD_THERM_CFG_THROT_REL + 64) → Gives (.thermalSample codes) s fun t =>
        t.fld R.MOD_THERM_STATUS_LEVEL = (if s.boot.inRel < 999 then lvl else 0) ∧ (999 ≤ s.boot.inRel → Raised hMod 1 t)) ∧
      (hot < 16 * (s.fld R.MOD_THERM_CFG_THROT2 + 64) → lvl ≠ 0 → 16 * (s.fld R.MOD_THERM_CFG_THROT_REL + 64) ≤ hot → Gives (.thermalSample codes) s fun t =>
        t.fld R.MOD_THERM_STATUS_LEVEL = (if s.boot.inThr < 999 then lvl else 1))) ∧
    (Gives .hourTick s fun t => t.pair R.MOD_HOURS = (s.pair R.MOD_HOURS + 1) % 2 ^ 64 ∧ t.pair R.MOD_HOT_HOURS = (s.pair R.MOD_HOT_HOURS + (if 2464 < s.fld R.MOD_THERM_STATUS_TJ_MAX then 1 else 0)) % 2 ^ 64 ∧
      t.jq.any (fun j => decide (j.typ = 5) && decide (j.vals = [(t.pair R.MOD_HOURS : Int), (t.pair R.MOD_HOT_HOURS : Int)])) = true ∧ t = { s with regs := t.regs, jq := t.jq } ∧
      WordsKept s t [R.MOD_HOURS, R.MOD_HOURS + 4, R.MOD_HOT_HOURS, R.MOD_HOT_HOURS + 4]) ∧
    ((s.brk.on = false ∨ s.flag R.BRK_STATUS_DIE_GO = false ∨ s.flag R.BRK_STATUS_DIE_RUN = true ∨ s.flag R.BRK_STATUS_KILLED = true) → Gives (.dieStart ok0 ok1 lk) s fun t => t = s) ∧
    (s.brk.on = true → s.flag R.BRK_STATUS_DIE_GO = true → s.flag R.BRK_STATUS_DIE_RUN = false → s.flag R.BRK_STATUS_KILLED = false →
      (b ≠ 3 → s.boot.slot0 = [] → s.boot.slot1 = [] → Gives (.dieStart ok0 ok1 lk) s fun t => t.fld R.IMG_STATUS_SLOT0_RES = 2 ∧ t.fld R.IMG_STATUS_SLOT1_RES = 2 ∧ t.flag R.IMG_STATUS_FALLBACK = true ∧
        t.flag R.IMG_STATUS_NOIMAGE = true ∧ t.faultBit hImg 0 = true ∧ t.mem = [] ∧ t.pending = s.pending ∧ t.rfl = [] ∧
        (lk = some ctl → t.flag R.BRK_STATUS_DIE_RUN = true ∧ t.net.hostOpen = true ∧ t.boot.parked = none ∧ t.flag R.CLK_WS_STATUS_LOCK = true ∧ t.word R.CLK_WS_CTRLVAL = ctl ∧ t.clk.dt = 0) ∧
        (lk = none → t.flag R.BRK_STATUS_DIE_RUN = false ∧ t.net.hostOpen = false ∧ t.boot.parked = some none)) ∧
      (b = 3 → lk = none → Gives (.dieStart ok0 ok1 lk) s fun t => t.boot.parked = some none ∧ t.flag R.IMG_STATUS_NOIMAGE = true ∧ t.faultBit hImg 0 = true ∧ t.fld R.IMG_STATUS_SLOT0_RES = 0 ∧ t.flag R.BRK_STATUS_DIE_RUN = false) ∧
      (b ≠ 3 → lk = none → k ≤ 1 → (slotOrder s.boot).1 = k → checkSlot (journalLoad (dieWipe s)) (if k = 0 then ok0 else ok1) k = 1 → Gives (.dieStart ok0 ok1 lk) s fun t => t.boot.parked = some (some k) ∧
        t.fld R.IMG_STATUS_RUN_SLOT = k ∧ t.flag R.IMG_STATUS_FALLBACK = false ∧ t.flag R.IMG_STATUS_NOIMAGE = false ∧ t.wordN R.IMG_VER = leAt (flashTake (s.boot.slot k) 0 128) 12 4)) ∧
    (s.boot.parked = none → Gives .startupLockTimeout s fun t => t = s) ∧
    (s.boot.parked = some p → s.flag R.BRK_STATUS_DIE_GO = false → Gives .startupLockTimeout s fun t => t = s) ∧
    (s.boot.parked = some none → s.flag R.BRK_STATUS_DIE_GO = true → s.brk.on = true → Gives .startupLockTimeout s fun t => t.flag R.BRK_STATUS_DIE_RUN = true ∧ t.net.hostOpen = true ∧ t.boot.parked = none ∧ t.clk.dt = 0 ∧
      (s.flag R.CLK_WS_STATUS_LOCK = false → t.flag R.CLK_WS_STATUS_HOLDOVER = true ∧ t.wordN R.CLK_WS_CTRLVAL = 0x80000000)) ∧
    (s.cmdBusy hLcs = false → b = 3 → Gives (.advance fv) s (TurnedAway hLcs 1 .locked s)) ∧
    (s.cmdBusy hLcs = false → b < 3 → (bits (s.wordN R.LCS_CONFIRM) 7 0 ≠ b + 1 ∨ bits (s.wordN R.LCS_CONFIRM) 15 8 ≠ 254 - b) → Gives (.advance fv) s (TurnedAway hLcs 1 .range s)) ∧
    (s.cmdBusy hLcs = false → b = 0 → bits (s.wordN R.LCS_CONFIRM) 7 0 = 1 → bits (s.wordN R.LCS_CONFIRM) 15 8 = 254 → s.flag R.IMG_STATUS_NOIMAGE = true → Gives (.advance fv) s (TurnedAway hLcs 1 .state s)) ∧
    (s.cmdBusy hLcs = false → b < 3 → bits (s.wordN R.LCS_CONFIRM) 7 0 = b + 1 → bits (s.wordN R.LCS_CONFIRM) 15 8 = 254 - b → (b = 0 → s.flag R.IMG_STATUS_NOIMAGE = false) →
      (fv = true → Gives (.advance fv) s fun t => t.boot.life = b + 1 ∧ t.fld R.LCS_STATUS_STATE = b + 1 ∧ (b = 0 → t.boot.keyHash = some (sha384 s.boot.pub)) ∧ (b ≠ 0 → t.boot.keyHash = s.boot.keyHash) ∧
        (b = 2 → t.boot.slot0 = [] ∧ t.boot.slot1 = []) ∧ (b ≠ 2 → t.boot.slot0 = s.boot.slot0 ∧ t.boot.slot1 = s.boot.slot1) ∧ t.flag R.BRK_STATUS_DIE_RUN = false ∧ t.mem = [] ∧ t.boot.svn = s.boot.svn) ∧
      (fv = false → Gives (.advance fv) s fun t => t.boot.life = b ∧ t.boot.keyHash = s.boot.keyHash ∧ t.faultBit hLcs 0 = true ∧ Done hLcs 1 .fault t ∧ t = { s with rep := t.rep, boot := t.boot } ∧
        (b ≠ 2 → t.boot = s.boot))) ∧
    (s.cmdBusy hLcs = false → (b = 0 ∨ b = 3) → Gives (.svnCommit fv) s (TurnedAway hLcs 2 .locked s)) ∧
    (s.cmdBusy hLcs = false → b ≠ 0 → b ≠ 3 → v ≤ s.boot.svn → Gives (.svnCommit fv) s (TurnedAway hLcs 2 .state s)) ∧
    (s.cmdBusy hLcs = false → b ≠ 0 → b ≠ 3 → s.boot.svn < v → fv = true → Gives (.svnCommit fv) s fun t => t.boot = { s.boot with svn := v } ∧ t.fld R.LCS_STATUS_SVN_FUSE = v ∧ Finished hLcs 2 .ok s t ∧
      t = { s with regs := t.regs, rep := t.rep, boot := t.boot }) ∧
    (s.cmdBusy hLcs = false → b ≠ 0 → b ≠ 3 → s.boot.svn < v → fv = false → Gives (.svnCommit fv) s fun t => t.boot = s.boot ∧ t.faultBit hLcs 0 = true ∧ Done hLcs 2 .fault t ∧ t = { s with rep := t.rep })

/-- Flash operations and the journal (R446 to R452): one operation at a time, LOCKED in RETIRED; ERASE, PROGRAM and CHECK and their ends; an entry takes the next SEQ, a failed one is left bad; a compaction keeps what is in force. Choices of the model: log entries 3, 29, 52. -/
def Obligations.FlashAndJournal : Prop :=
  ∀ (s : State) (ok : Bool) (k k2 src n i : Nat) (it : JItem) (rest : List JItem) (g : JGroup) (a : Nat), k = s.fld R.IMG_CMD_ARG_SLOT →
    (s.cmdBusy hImg = false → s.boot.life = 3 → Gives .erase s (TurnedAway hImg 1 .locked s) ∧ Gives .program s (TurnedAway hImg 2 .locked s) ∧ Gives .imgCheck s (TurnedAway hImg 3 .locked s)) ∧
    (s.cmdBusy hImg = false → s.boot.life ≠ 3 → s.boot.op.isSome = true → Gives .erase s (TurnedAway hImg 1 .busy s) ∧ Gives .imgCheck s (TurnedAway hImg 3 .busy s)) ∧
    (s.cmdBusy hImg = false → s.boot.life ≠ 3 → s.boot.op = none → Gives .erase s fun t => t = { s with boot := { s.boot with op := some (.erase k) }, rep := t.rep } ∧ Finished hImg 1 .ok s t) ∧
    (s.cmdBusy hImg = false → s.boot.life ≠ 3 → s.boot.op = none → Gives .imgCheck s fun t => t = { s with boot := { s.boot with op := some (.check k) }, rep := t.rep } ∧ Finished hImg 3 .ok s t) ∧
    (s.cmdBusy hImg = false → s.boot.life ≠ 3 → (96 * 2 ^ 20 < s.wordN R.IMG_LEN ∨ inPoolOrRsv s (s.wordN R.IMG_SRC_LO + 2 ^ 32 * s.wordN R.IMG_SRC_HI) (s.wordN R.IMG_LEN) = false) → Gives .program s (TurnedAway hImg 2 .range s)) ∧
    (s.cmdBusy hImg = false → s.boot.life ≠ 3 → s.boot.op = none → s.wordN R.IMG_LEN ≤ 96 * 2 ^ 20 → inPoolOrRsv s (s.wordN R.IMG_SRC_LO + 2 ^ 32 * s.wordN R.IMG_SRC_HI) (s.wordN R.IMG_LEN) = true → Gives .program s fun t =>
      t = { s with boot := { s.boot with op := some (.program k (s.wordN R.IMG_SRC_LO + 2 ^ 32 * s.wordN R.IMG_SRC_HI) (s.wordN R.IMG_LEN)) }, rep := t.rep } ∧ Finished hImg 2 .ok s t) ∧
    (s.boot.op = some (.erase k2) → k2 ≤ 1 → ok = true → Gives (.eraseDone ok) s fun t => t.boot.slot k2 = [] ∧ t.boot.slot (1 - k2) = s.boot.slot (1 - k2) ∧ t.boot.op = none ∧ Event hImg 0 s t ∧ t = { s with boot := t.boot, rep := t.rep }) ∧
    (s.boot.op = some (.erase k2) → k2 ≤ 1 → ok = false → Gives (.eraseDone ok) s fun t => t.boot.slot (1 - k2) = s.boot.slot (1 - k2) ∧ t.boot.op = none ∧ Raised hImg 0 t ∧ Raised hImg 3 t ∧ s.freeCtr < t.freeCtr ∧
      t = { s with boot := t.boot, rep := t.rep, freeCtr := t.freeCtr }) ∧
    (s.boot.op = some (.program k2 src n) → k2 ≤ 1 → ok = true → n ≤ 64 → (s.boot.slot k2).length ≤ n → Gives (.progDone ok) s fun t => t.boot.op = none ∧ Raised hImg 1 t ∧
      (i < n → (((t.boot.slot k2)[i]?).getD 0xFF) = (((s.boot.slot k2)[i]?).getD 0xFF) &&& ((s.readFixed src n)[i]?).getD 0xFF) ∧ (s.boot.slot k2 = [] → t.boot.slot k2 = s.readFixed src n ∧ Event hImg 1 s t) ∧
      t.boot.slot (1 - k2) = s.boot.slot (1 - k2) ∧ t = { s with boot := t.boot, rep := t.rep }) ∧
    (s.boot.op = some (.check k2) → ok = true → Gives (.chkDone ok) s fun t => t.fld R.IMG_STATUS_CHK = checkSlot s ok k2 ∧ t.boot = { s.boot with op := none } ∧ Event hImg 2 s t ∧ t = { s with boot := t.boot, rep := t.rep, regs := t.regs } ∧
      WordsKept s t [R.IMG_STATUS]) ∧
    (s.boot.op = none → Gives (.eraseDone ok) s (fun t => t = s) ∧ Gives (.progDone ok) s (fun t => t = s) ∧ Gives (.chkDone ok) s (fun t => t = s)) ∧
    (s.jq = [] → Gives (.journalEntryWrite ok) s fun t => t = s) ∧
    (s.jq = it :: rest → a = s.boot.active → a ≤ 1 → g = s.boot.grp a → g.valid = true → s.boot.compacting = false →
      (ok = true → g.pos + 4096 ≤ 6 * 2 ^ 20 → it.vals.length ≤ 1000 → Gives (.journalEntryWrite ok) s fun t => t.jq = rest ∧ t.wordN R.JNL_SEQ = (s.wordN R.JNL_SEQ + 1) % 2 ^ 32 ∧
        (t.boot.grp a).entries = g.entries ++ [⟨it.typ, it.key, (s.wordN R.JNL_SEQ + 1) % 2 ^ 32, it.vals, true⟩] ∧ (t.boot.grp a).pos = g.pos + max 32 ((20 + 4 * it.vals.length + 15) / 16 * 16) ∧
        t.pair R.JNL_WRITES = (s.pair R.JNL_WRITES + 1) % 2 ^ 64 ∧ t.boot.compacting = false ∧ t.boot.grp (1 - a) = s.boot.grp (1 - a) ∧ t = { s with jq := t.jq, boot := t.boot, regs := t.regs } ∧
        WordsKept s t [R.JNL_SEQ, R.JNL_WRITES, R.JNL_WRITES + 4]) ∧
      (ok = false → s.boot.tries < 2 → Gives (.journalEntryWrite ok) s fun t => t.jq = s.jq ∧ (t.boot.grp a).entries = g.entries ++ [⟨it.typ, it.key, (s.wordN R.JNL_SEQ + 1) % 2 ^ 32, it.vals, false⟩] ∧
        (t.boot.grp a).pos = (g.pos / 256 + 1) * 256 ∧ t.boot.tries = s.boot.tries + 1 ∧ t = { s with boot := t.boot }) ∧
      (ok = false → 2 ≤ s.boot.tries → Gives (.journalEntryWrite ok) s fun t => t.jq = rest ∧ t.faultBit hJnl 1 = true ∧ Raised hJnl 1 t ∧ t.boot.tries = 0 ∧ t = { s with jq := t.jq, boot := t.boot, rep := t.rep })) ∧
    (s.cmdBusy hJnl = false → s.boot.compacting = true → Gives .compact s (TurnedAway hJnl 1 .busy s)) ∧
    (s.cmdBusy hJnl = false → s.boot.compacting = false → Gives .compact s fun t => t = { s with boot := { s.boot with compacting := true }, rep := t.rep } ∧ Finished hJnl 1 .ok s t) ∧
    (s.boot.compacting = false → Gives .compactDone s fun t => t = s) ∧
    (s.boot.compacting = true → a = s.boot.active → a ≤ 1 → g = s.boot.grp a → g.pos < 2 ^ 20 → (g.entries.map (fun e => entryLen e.vals)).sum < 2 ^ 20 → Gives .compactDone s fun t => t.boot.active = 1 - a ∧ t.boot.compacting = false ∧
      t.boot.grp a = JGroup.init ∧ (t.boot.grp (1 - a)).gen = g.gen + 1 ∧ (t.boot.grp (1 - a)).entries = inForce g.entries ∧ Event hJnl 0 s t ∧ t.wordN R.JNL_GEN = (g.gen + 1) % 2 ^ 32 ∧
      t.pair R.JNL_COMPACT = (s.pair R.JNL_COMPACT + 1) % 2 ^ 64 ∧ t = { s with boot := t.boot, regs := t.regs, rep := t.rep } ∧ WordsKept s t [R.JNL_GEN, R.JNL_COMPACT, R.JNL_COMPACT + 4])

/-! Event log, router and counters (spec/17). -/

/-- Only the reports named changed: what follows from one occurrence of the counter unit's bit 1. -/
def Sys2Proof.Claims.snapEvent (s : State) : Rep :=
  { s.rep with pend := Tbl.upd 0 s.rep.pend hPerf (· ||| 2 ^ 1), fresh := freshen s.cclk (hPerf + 0x20) (2 ^ 1) s.rep.fresh }

/-- The log, the router and the counters (R454 to R468, R471, R472): LOG_ENTRY_WRITE, LOG_RSEQ_WRITE and MARK; what an occurrence (here SNAP_DONE) delivers, and that a masked one is counted but not delivered; SNAP and
its period; CLR_ALL and HCLR; writes to a counter, its configuration and PERF_CTRL. Choices of the model: log entries 3, 14, 60, 80. -/
def Obligations.LogAndCounters : Prop :=
  ∀ (s : State) (e : LogEntry) (rest : List LogEntry) (w u a b w0 w1 : Nat) (v : Word) (c : Fin 256) (j : Fin 64) (h : Fin 16) (bs : List Byte),
    (s.rep.logq = [] → Gives .logEntryWrite s fun t => t = s) ∧
    (s.rep.logq = e :: rest → w = s.wordN R.LOG_WSEQ → u = logUnread s → memWf s.mem = true → Gives .logEntryWrite s fun t =>
      t.wordN R.LOG_WSEQ = (w + 1) % 2 ^ 32 ∧ logAddr w = 0xE009E00000 + w % 65536 * 32 ∧ fieldAt (t.memRead (logAddr w) 32) 0 4 = w ∧ fieldAt (t.memRead (logAddr w) 32) 4 2 = e.unit % 65536 ∧
      fieldAt (t.memRead (logAddr w) 32) 6 1 = e.kind % 256 ∧ fieldAt (t.memRead (logAddr w) 32) 7 1 = (e.sev + 8 * b2n s.rep.dropMark + 16 * b2n e.coast) % 256 ∧ fieldAt (t.memRead (logAddr w) 32) 8 2 = e.code % 65536 ∧
      fieldAt (t.memRead (logAddr w) 32) 10 2 = 0 ∧ fieldAt (t.memRead (logAddr w) 32) 12 4 = e.arg0 % 2 ^ 32 ∧ fieldAt (t.memRead (logAddr w) 32) 16 12 = dtPack e.dt % 2 ^ 96 ∧ fieldAt (t.memRead (logAddr w) 32) 28 4 = e.arg1 % 2 ^ 32 ∧
      ((a < logAddr w ∨ logAddr w + 32 ≤ a) → memGet t.mem a = memGet s.mem a) ∧ t.rep.logq.take rest.length = rest ∧
      (u = 65536 → t.wordN R.LOG_RSEQ = (s.wordN R.LOG_RSEQ + 1) % 2 ^ 32 ∧ t.pair R.LOG_LOST = (s.pair R.LOG_LOST + 1) % 2 ^ 64 ∧ Raised hLog 0 t) ∧
      (u ≠ 65536 → t.wordN R.LOG_RSEQ = s.wordN R.LOG_RSEQ ∧ t.pair R.LOG_LOST = s.pair R.LOG_LOST) ∧
      (u + 1 = s.fld R.LOG_CFG_FILL_THR * 1024 → Raised hLog 2 t) ∧ (u ≠ 65536 → u + 1 ≠ s.fld R.LOG_CFG_FILL_THR * 1024 → t.rep.pend = s.rep.pend) ∧ (u = 65536 → bitAt (t.pendOf hLog) 2 = bitAt (s.pendOf hLog) 2) ∧
      t = { s with mem := t.mem, poison := t.poison, regs := t.regs, rep := t.rep } ∧ WordsKept s t [R.LOG_WSEQ, R.LOG_RSEQ, R.LOG_LOST, R.LOG_LOST + 4] ∧ RepFrame [] [] [] s t) ∧
    (w = s.wordN R.LOG_WSEQ → Gives (.logRseqWrite v 15) s fun t =>
      t.wordN R.LOG_RSEQ = (if 1 ≤ (v.toNat + 2 ^ 32 - w) % 2 ^ 32 ∧ (v.toNat + 2 ^ 32 - w) % 2 ^ 32 ≤ 2 ^ 31 - 1 then w
        else if 65536 < (w + 2 ^ 32 - v.toNat) % 2 ^ 32 then (w + 2 ^ 32 - 65536) % 2 ^ 32 else v.toNat) ∧
      (s.fld R.LOG_CFG_FILL_THR ≠ 0 → logUnread s < s.fld R.LOG_CFG_FILL_THR * 1024 → s.fld R.LOG_CFG_FILL_THR * 1024 ≤ (w + 2 ^ 32 - t.wordN R.LOG_RSEQ) % 2 ^ 32 → Raised hLog 2 t) ∧
      ((s.fld R.LOG_CFG_FILL_THR = 0 ∨ s.fld R.LOG_CFG_FILL_THR * 1024 ≤ logUnread s ∨ (w + 2 ^ 32 - t.wordN R.LOG_RSEQ) % 2 ^ 32 < s.fld R.LOG_CFG_FILL_THR * 1024) → t.rep = s.rep) ∧
      t = { s with regs := t.regs, rep := t.rep } ∧ WordsKept s t [R.LOG_RSEQ] ∧ RepFrame [] [] [] s t) ∧
    (s.cmdBusy hLog = false → s.rep.logq.length < 256 → Gives .mark s fun t => Finished hLog 1 .ok s t ∧ t = { s with rep := t.rep } ∧
      t.rep.logq = s.rep.logq ++ [{ unit := 0x1F10, kind := 7, sev := min (s.fld R.LOG_MARK_SEV_SEV) 4, code := 3, arg0 := s.wordN R.LOG_MARK_ARG, arg1 := 0, dt := s.clk.dt, coast := s.coast }]) ∧
    (s.cmdBusy hLog = false → 256 ≤ s.rep.logq.length → Gives .mark s fun t => Finished hLog 1 .ok s t ∧ t = { s with rep := t.rep } ∧ t.rep.logq = s.rep.logq ∧ t.rep.dropMark = true ∧ Raised hLog 1 t ∧
      (s.flag R.PERF_CTRL_FREEZE = true → t.rep.logDrop = (s.rep.logDrop + 1) % 2 ^ 64)) ∧
    (s.perf.busy = none → Gives .snapDone s fun t => t = s) ∧
    (s.perf.busy = some (b, bs) → bs.length ≤ bankBytes - 8 → s.ownsBanks hPerf b 1 = true → s.rsv.lost = [] → memWf s.mem = true → Gives .snapDone s fun t =>
      t.memRead (poolBase + b * bankBytes + 8) bs.length = bs ∧ fieldAt (t.memRead (poolBase + b * bankBytes) 4) 0 4 = t.perf.seq ∧ t.perf = { s.perf with seq := (s.perf.seq + 1) % 2 ^ 32, busy := none } ∧
      ((a < poolBase + b * bankBytes ∨ poolBase + b * bankBytes + 8 + bs.length ≤ a) → memGet t.mem a = memGet s.mem a) ∧ Event hPerf 1 s t ∧
      t = { s with mem := t.mem, poison := t.poison, perf := t.perf, rep := t.rep }) ∧
    (s.perf.busy = some (b, bs) → s.flag R.PERF_CTRL_FREEZE = true → bitAt (s.wordN (hPerf + 0x24)) 1 = true → Gives .snapDone s fun t => t.rep = snapEvent s) ∧
    (s.perf.busy = some (b, bs) → s.flag R.PERF_CTRL_FREEZE = false → bitAt (s.wordN (hPerf + 0x24)) 1 = true → s.regRange 0x01F41000 0x01F42000 = [(R.PERF_CFG c, w0)] → bits w0 1 0 = 1 → bits w0 20 8 = 0x1F40 → bits w0 25 21 = 1 →
      Tbl.get 0 s.rep.cnt c + 1 < 2 ^ 64 → Gives .snapDone s fun t => t.rep = { snapEvent s with cnt := Tbl.set s.rep.cnt c (Tbl.get 0 s.rep.cnt c + 1) }) ∧
    (s.perf.busy = some (b, bs) → s.flag R.PERF_CTRL_FREEZE = true → bitAt (s.wordN (hPerf + 0x24)) 1 = false → enabledRoutes s = [(w0, w1)] → (bits w0 12 0 = 0x1F40 ∨ bits w0 12 0 = 0x1F00 ∨ bits w0 12 0 = 0) → (bitAt w0 30 = true ∨ bits w0 20 16 = 1) →
      (bits w1 31 28 = 8 → s.fld R.LOG_CFG_MIN_SEV ≤ min (bits w0 26 24) 4 → s.rep.logq.length < 256 → Gives .snapDone s fun t => t.rep = { snapEvent s with logq := s.rep.logq ++ [{ unit := 0x1F40, kind := 0, sev := min (bits w0 26 24) 4, code := 1, arg0 := (s.pendOf hPerf ||| 2) % 2 ^ 32, arg1 := 0, dt := s.clk.dt, coast := s.coast }] }) ∧
      (bits w1 31 28 = 8 → min (bits w0 26 24) 4 < s.fld R.LOG_CFG_MIN_SEV → Gives .snapDone s fun t => t.rep = snapEvent s) ∧
      (bits w1 31 28 = 1 → bits w1 20 16 < 24 → Gives .snapDone s fun t => t.rep = { snapEvent s with evp := t.rep.evp, fresh := t.rep.fresh } ∧
        ∀ l : Fin 32, bitAt (Tbl.get 0 t.rep.evp j) l = (bitAt (Tbl.get 0 s.rep.evp j) l || (decide (l.val = bits w1 20 16) && bitAt (s.wordN (R.LOG_LINE_MASK_LO l) + 2 ^ 32 * s.wordN (R.LOG_LINE_MASK_HI l)) j))) ∧
      (bits w1 31 28 = 1 → 24 ≤ bits w1 20 16 → Gives .snapDone s fun t => t.rep = snapEvent s) ∧
      (bits w1 31 28 = 2 → Tbl.find s.rep.holds (bits w1 7 0) = none → vecOpen s s.rep (bits w1 7 0) = true → bits (s.wordN (R.LOG_VEC_HOLD (bits w1 7 0))) 15 0 = 0 → Gives .snapDone s fun t =>
        t.rep = { snapEvent s with out := .msix (bits w1 7 0) (s.wordN (R.MSIX_ADDR_LO (bits w1 7 0)) + 2 ^ 32 * s.wordN (R.MSIX_ADDR_HI (bits w1 7 0))) (s.wordN (R.MSIX_DATA (bits w1 7 0))) :: s.rep.out, pba := Tbl.del s.rep.pba (bits w1 7 0) }) ∧
      (bits w1 31 28 = 2 → Tbl.find s.rep.holds (bits w1 7 0) = none → vecOpen s s.rep (bits w1 7 0) = false → Gives .snapDone s fun t => t.rep = { snapEvent s with pba := t.rep.pba } ∧ (Tbl.find t.rep.pba (bits w1 7 0)).isSome = true) ∧
      (bits w1 31 28 = 4 → Gives .snapDone s fun t => t.rep.notices = (s.rep.notices + 1) % 2 ^ 32 ∧ t.rep = { snapEvent s with notices := t.rep.notices, xram := xramPut (xramPut s.rep.xram (0x1E10 + s.rep.notices % 31 * 16) (leBytes 2 0x1F40 ++ [1, BitVec.ofNat 8 (min (bits w0 26 24) 4)] ++ leBytes 4 s.rep.notices ++ leBytes 4 (dtPack s.clk.dt / 2 ^ 48) ++ leBytes 4 (dtPack s.clk.dt / 2 ^ 16))) 0x1E00 (leBytes 4 (s.rep.notices + 1)) })) ∧
    (s.cmdBusy hPerf = false → s.perf.busy.isSome = true → Gives .perfSnap s (TurnedAway hPerf 1 .busy s)) ∧
    (s.cmdBusy hPerf = false → s.perf.busy = none → (s.faultBit hPerf 0 = true ∨ s.flag R.PERF_POOL_VALID = false ∨ s.ownsBanks hPerf (s.fld R.PERF_POOL_BANK) 1 = false) → Gives .perfSnap s (TurnedAway hPerf 1 .state s)) ∧
    ((s.fld R.PERF_CTRL_SNAP_PERIOD = 0 ∨ s.perf.busy.isSome = true ∨ s.faultBit hPerf 0 = true ∨ s.flag R.PERF_POOL_VALID = false ∨ s.ownsBanks hPerf (s.fld R.PERF_POOL_BANK) 1 = false) → Gives .snapPeriodExpire s fun t => t = s) ∧
    (s.perf.busy = none → s.faultBit hPerf 0 = false → s.flag R.PERF_POOL_VALID = true → s.ownsBanks hPerf (s.fld R.PERF_POOL_BANK) 1 = true → s.rsv.lost = [] → memWf s.mem = true → b = s.fld R.PERF_POOL_BANK →
      (s.cmdBusy hPerf = false → Gives .perfSnap s fun t => Finished hPerf 1 .ok s t ∧ t.perf.seq = s.perf.seq + 1 ∧ t.memRead (poolBase + b * bankBytes) 4 = leBytes 4 (s.perf.seq + 1) ∧
        t.perf.busy.map (fun x => (x.1, x.2.take 12)) = some (b, dtBytes s.clk.dt) ∧
        t.perf.busy.map (fun x => fieldAt x.2 (0x38 + 8 * c) 8) = some (if s.flag (R.PERF_CFG_GRANT c) then Tbl.get 0 s.rep.cnt c % 2 ^ 64 else 0) ∧
        t.perf.busy.map (fun x => fieldAt x.2 (0x838 + 0x200 * h + 8 * j) 8) = some (if s.flag (R.PERF_HCFG_GRANT h) then Tbl.get 0 s.rep.hbin (64 * h + j) % 2 ^ 64 else 0) ∧
        ((a < poolBase + b * bankBytes ∨ poolBase + b * bankBytes + 4 ≤ a) → memGet t.mem a = memGet s.mem a) ∧ t = { s with mem := t.mem, poison := t.poison, perf := { s.perf with seq := t.perf.seq, busy := t.perf.busy }, rep := t.rep }) ∧
      (s.fld R.PERF_CTRL_SNAP_PERIOD ≠ 0 → Gives .snapPeriodExpire s fun t => t.perf.seq = s.perf.seq + 1 ∧ t.memRead (poolBase + b * bankBytes) 4 = leBytes 4 (s.perf.seq + 1) ∧
        t.perf.busy.map (fun x => fieldAt x.2 (0x38 + 8 * c) 8) = some (if s.flag (R.PERF_CFG_GRANT c) then Tbl.get 0 s.rep.cnt c % 2 ^ 64 else 0) ∧
        t = { s with mem := t.mem, poison := t.poison, perf := { s.perf with seq := t.perf.seq, busy := t.perf.busy } })) ∧
    (s.cmdBusy hPerf = false → Gives .clrAll s fun t => Tbl.get 0 t.rep.cnt c = 0 ∧ Finished hPerf 2 .ok s t ∧ t = { s with rep := { s.rep with cnt := t.rep.cnt, cmd := t.rep.cmd, fwd := t.rep.fwd } }) ∧
    (s.cmdBusy hPerf = false → Gives .hclr s fun t => Tbl.get 0 t.rep.hbin (64 * h + j) = (if h.val = s.fld R.PERF_CMD_ARG_HIST then 0 else Tbl.get 0 s.rep.hbin (64 * h + j)) ∧ Finished hPerf 3 .ok s t ∧
      t = { s with rep := { s.rep with hbin := t.rep.hbin, cmd := t.rep.cmd, fwd := t.rep.fwd } }) ∧
    (s.cmdBusy hLog = true → Gives .mark s fun t => t = s) ∧
    (s.cmdBusy hPerf = true → Gives .perfSnap s (fun t => t = s) ∧ Gives .clrAll s (fun t => t = s) ∧ Gives .hclr s (fun t => t = s)) ∧
    Gives (.perfCntLoWrite c v 15) s (fun t => t.perf.lo = Tbl.set s.perf.lo c v.toNat ∧ t = { s with perf := { s.perf with lo := t.perf.lo } }) ∧
    Gives (.perfCntHiWrite c v 15) s (fun t => t.rep.cnt = Tbl.set s.rep.cnt c (v.toNat * 2 ^ 32 + Tbl.get 0 s.perf.lo c) ∧ t = { s with rep := { s.rep with cnt := t.rep.cnt } }) ∧
    Gives (.perfCfgWrite c v 15) s (fun t => t.fld (R.PERF_CFG_MODE c) = bits v.toNat 1 0 ∧ t.flag (R.PERF_CFG_GRANT c) = bitAt v.toNat 2 ∧ t.fld (R.PERF_CFG_SEL c) = bits v.toNat 25 8 ∧
      Tbl.get 0 t.rep.cnt c = (if bitAt v.toNat 3 then 0 else Tbl.get 0 s.rep.cnt c) ∧ (j.val ≠ c → Tbl.get 0 t.rep.cnt j = Tbl.get 0 s.rep.cnt j) ∧ t = { s with regs := t.regs, rep := { s.rep with cnt := t.rep.cnt } } ∧ WordsKept s t [R.PERF_CFG c]) ∧
    Gives (.perfCtrlWrite v 15) s (fun t => t.flag R.PERF_CTRL_FREEZE = bitAt v.toNat 0 ∧ t.fld R.PERF_CTRL_SNAP_PERIOD = bits v.toNat 31 16 ∧ t = { s with regs := t.regs } ∧ WordsKept s t [R.PERF_CTRL])

/-! Register accesses, commands and commits (spec/00, 01, 18). -/

/-- Two commands do the same from two states. -/
def Sys2Proof.Claims.Same (i : Instr) (s : State) (j : Instr) (u : State) : Prop := exec i s = exec j u

/-- A word whose write has no effect but that of its fields' access types. -/
def Sys2Proof.Claims.plainWord (path : Path) (off : Nat) : Bool :=
  off % 4 == 0 && !(decide (off % 0x1000 < 0x40) && isHeader (off / 0x1000 * 0x1000)) && (rowAt (if off < 0x01800000 then writersLow path else writersHigh path) off).isNone

/-- A word whose read shows the word itself, and changes nothing. -/
def Sys2Proof.Claims.plainRead (s : State) (path : Path) (off : Nat) : Bool :=
  off % 4 == 0 && !(decide (off % 0x1000 < 0x40) && isHeader (off / 0x1000 * 0x1000)) && !(decide (0x800 ≤ off % 0x1000) && isBasin (off / 0x1000 * 0x1000)) && (viewAt s off).isNone &&
    (rowAt (readersOf path) off).isNone && !isDtWord off

/-- Does bit `i` of a word belong to a field of one of the access types? -/
def Sys2Proof.Claims.accBit (p : Acc → Bool) (off i : Nat) : Bool := (fieldsOf off).any (fun f => p f.acc && decide (f.lo ≤ i) && decide (i ≤ f.hi))

/-- Is bit `i` of a word shadowed (rules 0 to 15 of Brook are LK, the others SH)? -/
def Sys2Proof.Claims.shBit (off i : Nat) : Bool := accBit (fun a => a == .sh || (a == .shlk && decide (0x01E80500 ≤ off))) off i

/-- Does a write set bit `i` of a word at once: RW, and LK in the OPEN state? -/
def Sys2Proof.Claims.setBit (opn : Bool) (off i : Nat) : Bool := accBit (fun a => a == .rw || (opn && (a == .lk || (a == .shlk && decide (off < 0x01E80500))))) off i

/-- Bit `i` that a plain read returns (R4, R6). -/
def Sys2Proof.Claims.readBit (s : State) (off i : Nat) : Bool :=
  accBit (fun a => a != .wo) off i && (if shBit off i then bitAt (s.shadowN off) i else bitAt (s.wordN off) i)

/-- Accesses to BAR0 (R4 to R6, R352 to R354, R445, R474, R475, R477, R483): what a write does to each bit by access type and byte enable, and to shadowed fields; unassigned offsets; what header words
read; EVENT_PEND and EVENT_MASK; JTAG REGACC; management packets. Choices of the model: log entries 8, 9, 17, 18, 49, 50, 61, 80. -/
def Obligations.RegisterAccess : Prop :=
  ∀ (s : State) (path : Path) (o : BitVec 25) (v : Word) (be : BitVec 4) (i : Fin 32) (off a h n : Nat) (en : Bool) (k : Fin 4) (mac : BitVec 48) (v6 : Bool) (ip : BitVec 128) (port : BitVec 16) (bs key body : List Byte) (ops : Nat), off = o.toNat → en = bitAt be.toNat (i / 8) →
    (plainWord path off = true → fieldsOf off ≠ [] → Gives (.registerWrite path { off := o, val := v, be := be }) s fun t =>
      bitAt (t.wordN off) i = ((((if en && setBit (s.fld R.LCS_STATUS_STATE == 1) off i then bitAt v.toNat i else bitAt (s.wordN off) i) && !(en && accBit (· == .w1c) off i && bitAt v.toNat i && !bitAt (s.justSet off) i)) || (en && accBit (· == .w1s) off i && bitAt v.toNat i)) : Bool) ∧
      (shMask off ≠ 0 → bitAt (t.shadowN off) i = (if en && shBit off i then bitAt v.toNat i else bitAt (s.shadowN off) i)) ∧
      (a ≠ off → Tbl.find t.shadow a = Tbl.find s.shadow a) ∧ t = { s with regs := t.regs, shadow := t.shadow } ∧ WordsKept s t [off]) ∧
    (plainWord path off = true → fieldsOf off = [] → Gives (.registerWrite path { off := o, val := v, be := be }) s fun t => t = s) ∧
    (plainRead s path off = true → fieldsOf off = [] → isLo off = false → (off < 4 ∨ isLo (off - 4) = false) → Gives (.readLo path o) s fun t => t = s.emit (.regRead path off 0)) ∧
    (plainRead s path off = true → isLo off = false → (off < 4 ∨ isLo (off - 4) = false) → Gives (.readLo path o) s fun t => t = s.emit (.regRead path off t.lastRead) ∧ bitAt t.lastRead i = readBit s off i) ∧
    (isLeaf h = true → off = h + n →
      (n = 0 → Gives (.readLo path o) s fun t => t = s.emit (.regRead path off (h / 0x1000 + 0x10000 * unitInstance h))) ∧
      (n = 4 → Gives (.readLo path o) s fun t => t = s.emit (.regRead path off (unitClass h))) ∧
      (n = 8 → Gives (.readLo path o) s fun t => t = s.emit (.regRead path off 0x00020001)) ∧
      (n = 0x14 → h ≠ hBank → Gives (.readLo path o) s fun t => t = s.emit (.regRead path off (b2n (s.snapOf h).isSome + 2 * b2n (decide (s.faultOf h ≠ 0)) + 4 * b2n (decide ((s.pendOf h &&& (0xFFFFFFFF - s.wordN (h + 0x24))) ≠ 0)) + 8 * b2n (s.cmdSt h).busy))) ∧
      (n = 0x18 → Gives (.readLo path o) s fun t => t = s.emit (.regRead path off (s.faultOf h))) ∧
      (n = 0x20 → Gives (.readLo path o) s fun t => t = s.emit (.regRead path off (s.pendOf h))) ∧
      (n = 0x24 → Gives (.readLo path o) s fun t => t = s.emit (.regRead path off (s.wordN (h + 0x24)))) ∧
      (n = 0x2C → Tbl.find s.rep.fwd h = none → Gives (.readLo path o) s fun t => t = s.emit (.regRead path off ((s.cmdSt h).status + 256 * (s.cmdSt h).code))) ∧
      ((n = 0x0C ∨ n = 0x10 ∨ n = 0x1C ∨ n = 0x28 ∨ n = 0x30 ∨ n = 0x34 ∨ n = 0x38 ∨ n = 0x3C) → Gives (.readLo path o) s fun t => t = s.emit (.regRead path off 0)) ∧
      (n = 0x20 → Gives (.registerWrite path { off := o, val := v, be := be }) s fun t => bitAt (t.pendOf h) i = (bitAt (s.pendOf h) i && (!(en && bitAt v.toNat i) || bitAt (s.justSet (h + 0x20)) i)) ∧ (a ≠ h → t.pendOf a = s.pendOf a) ∧ t = { s with rep := { s.rep with pend := t.rep.pend } }) ∧
      (n = 0x24 → Gives (.registerWrite path { off := o, val := v, be := be }) s fun t => bitAt (t.wordN off) i = (if en then bitAt v.toNat i else bitAt (s.wordN off) i) ∧ t = { s with regs := t.regs } ∧ WordsKept s t [off])) ∧
    (isBasin h = true →
      (off = h + 0x0C → Gives (.readLo path o) s fun t => t = s.emit (.regRead path off (members h).length)) ∧
      (off = h + 0x10 → Gives (.readLo path o) s fun t => t = s.emit (.regRead path off 0x800)) ∧
      (off = h + 0x18 → Gives (.readLo path o) s fun t => t = s.emit (.regRead path off (b2n ((leaves h).any (fun m => decide (s.faultOf m ≠ 0)))))) ∧
      (off = h + 0x20 → Gives (.readLo path o) s fun t => t = s.emit (.regRead path off 0)) ∧
      (n < (members h).length → off = h + 0x800 + 4 * n → Gives (.readLo path o) s fun t => t = s.emit (.regRead path off ((members h).getD n 0)))) ∧
    (2 ≤ s.boot.life → Gives (.jtagRegacc { off := o, val := v, be := be } en) s fun t => t = s) ∧
    (s.boot.life < 2 → inUnit off = false → Gives (.jtagRegacc { off := o, val := v, be := be } en) s fun t => t = s.emit (.jtag 0 5)) ∧
    (s.boot.life < 2 → inUnit off = true → Gives (.jtagRegacc { off := o, val := v, be := be } false) s fun t => Gives (.registerWrite .jtag { off := o, val := v, be := be }) s fun u => t = u.emit (.jtag v.toNat 0)) ∧
    (s.boot.life < 2 → inUnit off = true → Gives (.jtagRegacc { off := o, val := v, be := be } true) s fun t => Gives (.readLo .jtag o) s fun u => t = { u with rep := { u.rep with out := .jtag u.lastRead 0 :: u.rep.out.tail } }) ∧
    (lnkUp s k = false → Gives (.mgmtPacket k mac v6 ip port bs) s fun t => t = s) ∧
    (lnkUp s k = true → s.flag R.MGMT_CFG_EN = false → Gives (.mgmtPacket k mac v6 ip port bs) s fun t => t.pair (R.NET_RX_DISCARD k) = (s.pair (R.NET_RX_DISCARD k) + 1) % 2 ^ 64 ∧ t = { s with regs := t.regs } ∧ WordsKept s t [R.NET_RX_DISCARD k, R.NET_RX_DISCARD k + 4]) ∧
    (lnkUp s k = true → s.flag R.MGMT_CFG_EN = true → ops = leAt bs 3 1 → n = s.clk.dt / unitsPerSec → (leAt bs 0 2 ≠ 0x4D57 ∨ leAt bs 2 1 ≠ 1 ∨ ops = 0 ∨ 64 < ops ∨ bs.length ≠ 56 + 8 * ops ∨ leAt bs 8 8 ≠ s.pair R.MGMT_BOOT_ID_LO ∨ leAt bs 16 8 ≤ s.pair R.MGMT_MSEQ ∨ s.net.key = none ∨
        (s.net.key = some key ∧ bs.drop (bs.length - 32) ≠ hmacSha256 key (bs.take (bs.length - 32)))) → Gives (.mgmtPacket k mac v6 ip port bs) s fun t =>
      t.pair R.MGMT_REJ = (s.pair R.MGMT_REJ + 1) % 2 ^ 64 ∧ Event hMgmt 0 s t ∧ t = { s with regs := t.regs, rep := t.rep, net := { s.net with rejSec := some n } } ∧ WordsKept s t [R.MGMT_REJ, R.MGMT_REJ + 4] ∧
      (s.flag R.PERF_CTRL_FREEZE = true → bitAt (s.wordN (hMgmt + 0x24)) 0 = true → s.rep.logq.length < 256 → t.rep.logq = s.rep.logq ++ (if s.net.rejSec = some n then [] else
        [{ unit := 0x1D50, kind := 6, sev := 2, code := 1, arg0 := t.wordN R.MGMT_REJ, arg1 := 0, dt := s.clk.dt, coast := s.coast }]))) ∧
    (lnkUp s k = true → s.flag R.MGMT_CFG_EN = true → leAt bs 0 4 = 0x01014D57 → leAt bs 4 4 = 0 → bs.length = 64 → leAt bs 8 8 = s.pair R.MGMT_BOOT_ID_LO → s.pair R.MGMT_MSEQ < leAt bs 16 8 → s.net.key = some key → bs.drop 32 = hmacSha256 key (bs.take 32) →
      (leAt bs 24 4 = 0x44 → s.wordN 0x44 = 0x10B → body = leBytes 2 0x5257 ++ (bs.take 24).drop 2 ++ leBytes 4 0x44 ++ leBytes 4 0x10B → Gives (.mgmtPacket k mac v6 ip port bs) s fun t =>
        t.rep = { s.rep with out := .frame k "MGMT" (withFcs (mgmtFrame s k (beBytes 6 mac.toNat) v6 (if v6 then ip.toNat else ip.toNat % 2 ^ 32) port.toNat (body ++ hmacSha256 key body))) :: s.rep.out } ∧ t.pair R.MGMT_MSEQ = leAt bs 16 8 ∧
        t.pair R.MGMT_ACC = (s.pair R.MGMT_ACC + 1) % 2 ^ 64 ∧ t = { s with regs := t.regs, rep := t.rep } ∧ WordsKept s t [R.MGMT_MSEQ, R.MGMT_MSEQ + 4, R.MGMT_ACC, R.MGMT_ACC + 4, R.NET_TX_FRAMES k, R.NET_TX_FRAMES k + 4]) ∧
      (leAt bs 24 4 = 0x80000000 + off → off % 4 = 0 → v.toNat = leAt bs 28 4 → Gives (.mgmtPacket k mac v6 ip port bs) s fun t => Gives (.registerWrite .mgmt { off := o, val := v, be := 15 }) ((s.setPair R.MGMT_MSEQ (leAt bs 16 8)).bump64 R.MGMT_ACC 1) fun u =>
        t.mem = u.mem ∧ t.shadow = u.shadow ∧ t.snaps = u.snaps ∧ t.weir = u.weir ∧ WordsKept u t [R.NET_TX_FRAMES k, R.NET_TX_FRAMES k + 4]))

/-- R484: on a path, a read of the LO word of a pair returns the low word and latches the high word for that path and pair; a read of HI returns what was latched, 0 when nothing was; writes act word by word. -/
def Obligations.PairLatch : Prop :=
  ∀ (s : State) (path path2 : Path) (o o2 : BitVec 25) (lo lo2 : Nat) (v : Word) (be : BitVec 4) (i : Fin 32), lo = o.toNat → lo + 4 = o2.toNat → lo2 < 2 ^ 25 → isLo lo = true →
    (rowAt (readersOf path) lo = none → isDtWord lo = false → Gives (.readLo path o) s fun t => t.latched path lo = regValue s (lo + 4) ∧ t = { s with latch := t.latch, rep := { s.rep with out := .regRead path lo (regValue s lo) :: s.rep.out } } ∧
      (path2 ≠ path ∨ lo2 ≠ lo → t.latched path2 lo2 = s.latched path2 lo2)) ∧
    (rowAt (readersOf path) (lo + 4) = none → isDtWord (lo + 4) = false → Gives (.readLo path o2) s fun t => t = s.emit (.regRead path (lo + 4) (s.latched path lo))) ∧
    (plainRead s path lo = true → plainRead s path (lo + 4) = true → Gives (.readLo path o) s fun t => bitAt t.lastRead i = readBit s lo i ∧ bitAt (t.latched path lo) i = readBit s (lo + 4) i) ∧
    (State.reset.latched path lo = 0) ∧
    (plainWord path lo = true → Gives (.registerWrite path { off := o, val := v, be := be }) s fun t => WordsKept s t [lo]) ∧
    (plainWord path (lo + 4) = true → Gives (.registerWrite path { off := o2, val := v, be := be }) s fun t => WordsKept s t [lo + 4])

/-- Highest command code of a class (the command tables of the chapters). -/
def Sys2Proof.Claims.codesOf (cls : Nat) : Nat :=
  (([(0x200, 3), (0x300, 2), (0x400, 5), (0x500, 1), (0x501, 1), (0x502, 2), (0x600, 3), (0x601, 1), (0x701, 2), (0x800, 3), (0x801, 5), (0x900, 2), (0x901, 2), (0xA00, 4), (0xB00, 3), (0xB01, 4), (0xC01, 4),
    (0xD01, 2), (0xE00, 4), (0xF00, 1), (0xF01, 3), (0x1000, 3), (0x1001, 2), (0x1002, 1)] : List (Nat × Nat)).find? (fun x => x.1 == cls)).elim 0 Prod.snd

/-- A property of every command that a unit takes, by header, code and command (the command tables of the chapters). -/
def Sys2Proof.Claims.EachCommand (p : Fin 4) (n : Fin 16) (c : Fin 64) (ch : Fin 32) (d : Fin 2) (P : Nat → Nat → Instr → Prop) : Prop :=
  P hClk 1 .dtStep ∧ P hClk 2 .settod ∧ P hClk 3 .dtrestart ∧ P hEvt 1 .evtCal ∧ P hEvt 2 .flush ∧ P (hIng p) 1 (.restart p) ∧ P (hIng p) 2 (.portCal p) ∧ P (hIng p) 3 (.ingRetrain p) ∧
  P (hIng p) 4 (.portIdle p) ∧ P (hIng p) 5 (.portWake p) ∧ P (hRch 0 p) 1 (.srSnap p) ∧ P (hRch 1 p) 1 (.cut 1 p) ∧ P (hRch 2 p) 1 (.cut 2 p) ∧ P (hRch 2 p) 2 (.reserve p) ∧ P (hSlt p) 1 (.sltClear p) ∧ P (hSlt p) 2 (.sltRelease p) ∧
  P (hSlt p) 3 (.swap p) ∧ P (hDet p) 1 (.detClear p) ∧ P hBank 1 .resetCtx ∧ P hBank 2 .report ∧ P (hSeq n) 1 (.arm n) ∧ P (hSeq n) 2 (.disarm n) ∧ P (hSeq n) 3 (.force n) ∧ P (hCap p) 1 (.capRelease p) ∧
  P (hCap p) 2 (.hold p) ∧ P (hCap p) 3 (.unhold p) ∧ P (hCap p) 4 (.releaseAll p) ∧ P (hCap p) 5 (.capClose p) ∧ P hRsv 1 .retire ∧ P hRsv 2 .rsvScrub ∧ P hPool 1 .handover ∧ P hPool 2 .poolRelease ∧
  P (hCore c) 1 (.rflRun c) ∧ P (hCore c) 2 (.rflHaltCmd c) ∧ P (hCore c) 3 (.rflStep c) ∧ P (hCore c) 4 (.rflReset c) ∧ P hMmu 1 .invAll ∧ P hMmu 2 .invAs ∧ P hMmu 3 .invVa ∧ P (hMlr ch) 1 (.mlrStart ch) ∧
  P (hMlr ch) 2 (.mlrStop ch) ∧ P (hMlr ch) 3 (.mlrResume ch) ∧ P (hMlr ch) 4 (.mlrAbort ch) ∧ P hStr 1 .strStart ∧ P hStr 2 .strStop ∧ P hStr 3 .sendRec ∧ P hStr 4 .qpReset ∧ P (hDp d) 1 (.dpRetrain d) ∧
  P (hDp d) 2 (.aux d) ∧ P hBrk 1 .brkCal ∧ P hBrk 2 .selftest ∧ P hBrk 3 .resetFlt ∧ P hBrk 4 .clrLatch ∧ P hLog 1 .mark ∧ P hPerf 1 .perfSnap ∧ P hPerf 2 .clrAll ∧
  P hPerf 3 .hclr ∧ P hImg 1 .erase ∧ P hImg 2 .program ∧ P hImg 3 .imgCheck ∧ P hJnl 1 .compact

/-- CMD words (R26, R474, R479, R480, R483): each unit's codes are the commands of its chapter; any other code, and any code to a unit without commands, returns RANGE; a write without byte 0 or while CMD_BUSY has no effect; a basin forwards a
command to its members, reports the worst code, and refuses with BUSY while a member runs one. Choices of the model: log entries 4, 10, 11. -/
def Obligations.CommandWrites : Prop :=
  ∀ (s : State) (path : Path) (o : BitVec 25) (v : Word) (be : BitVec 4) (b h code m a : Nat) (p : Fin 4) (n : Fin 16) (c : Fin 64) (ch : Fin 32) (d : Fin 2), code = v.toNat % 256 →
    (bitAt be.toNat 0 = true → s.cmdBusy h = false → EachCommand p n c ch d fun h0 code0 i => h = h0 → code = code0 → Same (.registerWrite path { off := BitVec.ofNat 25 (h + 0x28), val := v, be := be }) s i s) ∧
    (bitAt be.toNat 0 = true → s.cmdBusy hLcs = false → code = 1 → Same (.registerWrite path { off := 0x1FA0028, val := v, be := be }) s (.advance (Config.freeNat s.freeCtr % 2 == 1)) { s with freeCtr := s.freeCtr + 1 }) ∧
    (bitAt be.toNat 0 = true → s.cmdBusy hLcs = false → code = 2 → Same (.registerWrite path { off := 0x1FA0028, val := v, be := be }) s (.svnCommit (Config.freeNat s.freeCtr % 2 == 1)) { s with freeCtr := s.freeCtr + 1 }) ∧
    (isLeaf h = true → o.toNat = h + 0x28 → bitAt be.toNat 0 = true → s.cmdBusy h = false → (code = 0 ∨ codesOf (unitClass h) < code) → Gives (.registerWrite path { off := o, val := v, be := be }) s (TurnedAway h code .range s)) ∧
    (isLeaf h = true → o.toNat = h + 0x28 → s.cmdBusy h = true → Gives (.registerWrite path { off := o, val := v, be := be }) s fun t => t = s) ∧
    (isHeader h = true → o.toNat = h + 0x28 → bitAt be.toNat 0 = false → Gives (.registerWrite path { off := o, val := v, be := be }) s fun t => t = s) ∧
    (isBasin b = true → bitAt be.toNat 0 = true → Same (.registerWrite path { off := BitVec.ofNat 25 (b + 0x28), val := v, be := be }) s (.basinCmd (BitVec.ofNat 25 b) (BitVec.ofNat 8 code)) s) ∧
    (isBasin o.toNat = false → Gives (.basinCmd o (BitVec.ofNat 8 code)) s fun t => t = s) ∧
    (isBasin b = true → o.toNat = b → s.cmdBusy b = true → (Tbl.find s.rep.fwd b).isSome = true → Gives (.basinCmd o (BitVec.ofNat 8 code)) s fun t => t = s) ∧
    (isBasin b = true → o.toNat = b → s.cmdBusy b = true → Tbl.find s.rep.fwd b = none → Gives (.basinCmd o (BitVec.ofNat 8 code)) s fun t => t.cmdSt b = { status := 1, code := code, busy := false } ∧ (a ≠ b → t.cmdSt a = s.cmdSt a) ∧
      t = { s with rep := { s.rep with cmd := t.rep.cmd } }) ∧
    (isBasin b = true → o.toNat = b → s.cmdBusy b = false → (code = 0 ∨ 5 < code) → Gives (.basinCmd o (BitVec.ofNat 8 code)) s fun t => Done b code .range t ∧ (m ∈ leaves b → Done m code .range t) ∧ (b ≠ 0 → a ≠ b → a ∉ leaves b → a ∉ basinsOf b → t.cmdSt a = s.cmdSt a) ∧
      t = { s with rep := { s.rep with cmd := t.rep.cmd, fwd := t.rep.fwd } }) ∧
    (o.toNat = 0x1F00000 → s.cmdBusy 0x1F00000 = false → code = 3 → Gives (.basinCmd o 3) s fun t => Done hLog 3 .range t ∧ Done hPerf 3 .ok t ∧ Done 0x1F00000 3 .range t ∧
      Tbl.get 0 t.rep.hbin m = (if m / 64 = s.fld R.PERF_CMD_ARG_HIST then 0 else Tbl.get 0 s.rep.hbin m) ∧ t = { s with rep := { s.rep with cmd := t.rep.cmd, fwd := t.rep.fwd, hbin := t.rep.hbin } }) ∧
    (o.toNat = 0x1C00000 → s.cmdBusy 0x1C00000 = false → (∀ j : Fin 32, s.mState j < 4) → Gives (.basinCmd o 3) s fun t => t.cmdBusy 0x1C00000 = true ∧ cmdStatus t 0x1C00000 = 0x301 ∧ t.cmdSt hMmu = { status := 1, code := 3, busy := true } ∧ Done (hMlr ch) 3 .state t)

/-- R20, R21 and R25: COMMIT snaps all of a unit's shadowed fields at once; a second one replaces a pending one; a basin's COMMIT does it for every member; a snapshot applied brings in exactly its SH bits. The clock unit applies its snapshot
at the next coincident divider edge (R35), REF_SEL 3 keeping the selection (R55), an output that breaks R43 disabled. Choices of the model: log entry 12. -/
def Obligations.CommitSnapshots : Prop :=
  ∀ (s : State) (path : Path) (o : BitVec 25) (v : Word) (be : BitVec 4) (h g m off x : Nat) (i : Fin 32) (ix : Fin 16384) (d : Fin 2) (ws : Tbl Nat) (sh : List Nat), o.toNat = h → sh = [0x200, 0x500, 0x501, 0x502, 0x600, 0x601, 0x602, 0x800, 0x801, 0x802, 0xD00, 0xE00] →
    (isLeaf h = true → unitClass h ∈ sh → Gives (.commit o) s fun t => t.snapOf h = some (s.shadowPage h) ∧ (h ≤ off → off < h + 0x1000 → Tbl.find (s.shadowPage h) off = Tbl.find s.shadow off) ∧ commitPend t h = true ∧
      (t.snaps.filter (fun e => e.hdr == h)).length = 1 ∧ (g ≠ h → t.snapOf g = s.snapOf g) ∧ t = { s with snaps := t.snaps }) ∧
    (h = hBank → Gives (.commit o) s fun t => t.ctx ix = { s.ctx ix with snap := some ((List.range 12).map (fun w => s.shadowN (R.TRB_CTX_CTL ix + 4 * w))) } ∧ t = { s with trb := { s.trb with ctx := t.trb.ctx } }) ∧
    (unitClass h ∉ sh → h ≠ hBank → Gives (.commit o) s fun t => t = s) ∧
    (isLeaf h = true → bitAt be.toNat 0 = true → bitAt v.toNat 0 = true → Same (.registerWrite path { off := BitVec.ofNat 25 (h + 0x1C), val := v, be := be }) s (.commit o) s) ∧
    (isBasin h = true → bitAt be.toNat 0 = true → bitAt v.toNat 0 = true → Same (.registerWrite path { off := BitVec.ofNat 25 (h + 0x1C), val := v, be := be }) s (.basinCommit o) s) ∧
    (isHeader h = true → (bitAt be.toNat 0 = false ∨ bitAt v.toNat 0 = false) → Gives (.registerWrite path { off := BitVec.ofNat 25 (h + 0x1C), val := v, be := be }) s fun t => t = s) ∧
    (isBasin h = true → Gives (.basinCommit o) s fun t => (m ∈ leaves h → unitClass m ∈ sh → t.snapOf m = some (s.shadowPage m)) ∧ (m ∉ leaves h → t.snapOf m = s.snapOf m) ∧
      (hBank ∈ leaves h → (t.ctx ix).snap = some ((List.range 12).map (fun w => s.shadowN (R.TRB_CTX_CTL ix + 4 * w)))) ∧ (hBank ∉ leaves h → t.trb = s.trb) ∧ t = { s with snaps := t.snaps, trb := { s.trb with ctx := t.trb.ctx } }) ∧
    (isBasin h = false → Gives (.basinCommit o) s fun t => t = s) ∧
    ((ws.map Prod.fst).Nodup → Tbl.find ws off = some x → bitAt ((overlay s ws).wordN off) i = (if shBit off i then bitAt x i else bitAt (s.wordN off) i)) ∧
    (Tbl.find ws off = none → (overlay s ws).word off = s.word off) ∧
    (s.snapOf hClk = none → Gives .clockCommit s fun t => t = s) ∧
    (s.snapOf hClk = some ws → ws.all (fun e => decide (hClk ≤ e.1) && decide (e.1 < hClk + 0x1000)) = true → Gives .clockCommit s fun t => t.snapOf hClk = none ∧
      t.fld R.CLK_REF_CTRL_REF_SEL = (if (overlay s ws).fld R.CLK_REF_CTRL_REF_SEL = 3 then s.fld R.CLK_REF_CTRL_REF_SEL else (overlay s ws).fld R.CLK_REF_CTRL_REF_SEL) ∧ t.fld R.CLK_REF_CTRL_LBW = (overlay s ws).fld R.CLK_REF_CTRL_LBW ∧
      t.flag (R.CLK_COUT_CFG_EN d) = ((overlay s ws).flag (R.CLK_COUT_CFG_EN d) && !coutBad (overlay s ws) d) ∧ t.fld (R.CLK_COUT_CFG_DIV d) = (overlay s ws).fld (R.CLK_COUT_CFG_DIV d) ∧ t.faultBit hClk 0 = (coutBad (overlay s ws) 0 || coutBad (overlay s ws) 1) ∧
      (t.flag (R.CLK_COUT_CFG_EN d) = false ∨ t.fld (R.CLK_COUT_CFG_SRC d) = 3 → (t.cout d).mode = 0) ∧
      ((rivN s ≠ rivN (overlay s ws) ∨ s.fld R.CLK_RIV_CFG_ODIV ≠ (overlay s ws).fld R.CLK_RIV_CFG_ODIV ∨ rivRuns (overlay s ws) = false) → t.flag R.CLK_RIV_CFG_RIV_LOCK = false ∧ t.clk.rivGood = 0) ∧
      (rivRuns (overlay s ws) = false → t.faultBit hClk 1 = false) ∧ t.mem = s.mem ∧ t.shadow = s.shadow ∧ WordsKept (overlay s ws) t [R.CLK_REF_CTRL, R.CLK_COUT_CFG 0, R.CLK_COUT_CFG 1, R.CLK_RIV_CFG, R.CLK_WS_STATUS, R.CLK_WS_CTRLVAL, R.CLK_WS_HOLDVAL])

/-! The machine: one step, reset, and the canonical form of memory. -/

/-- A step of the machine answers a next state, of which `P` holds. -/
def Sys2Proof.Claims.Steps (s : State) (P : State → Prop) : Prop := ∃ t, step s = .next t ∧ P t

/-- A step takes the command at the front of the queue and is `exec` of it on the state with the queue's rest; a step on an empty queue (the model's choice, log entry 2) is one TCLK cycle: device time advances by
20,480 / 65,536 ns × (2^44 + rate) / 2^44 (R46), its fraction carried on, LEVEL counters count where a cycle of their signal's clock begins (R464), unless frozen (R467), the pairing units process the edges that come due (R66), the cores
that wait for port B of an Eddy buffer get it in turn (R298), and a colour snapshot is applied while no output runs (R176). Choices of the model: log entries 1, 2, 71, 74, 78. -/
def Obligations.StepTakesFrontCommand : Prop :=
  ∀ (s : State) (c : Instr) (rest : List Instr) (n : Fin 256) (w : Nat) (x : Int) (ws : Tbl Nat) (j m : Nat) (y : RCore) (iw : Nat),
    (s.pending = c :: rest → step s = exec c { s with pending := rest }) ∧
    (s.pending = [] → s.rfl.any (fun e => e.2.win.isSome) = false → x = 20480 * (2 ^ 44 + sext 32 (s.wordN R.CLK_DT_RATE)) + s.clk.dtFrac → Steps s fun t => t.tclk = s.tclk + 1 ∧ t.clk = { s.clk with dt := s.clk.dt + (x / 2 ^ 44).toNat, dtFrac := (x % 2 ^ 44).toNat } ∧
      t = { s with tclk := t.tclk, clk := t.clk, rep := t.rep, regs := t.regs, snaps := t.snaps, evt := { s.evt with pair := t.evt.pair } }) ∧
    (s.pending = [] → s.rfl.any (fun e => e.2.win.isSome) = false → (∀ k : Fin 4, (s.pairSt k).wait = []) → (s.snapOf hCol = none ∨ dpyRuns s = true ∨ (s.tclk + 1) % 16 ≠ 0) → x = 20480 * (2 ^ 44 + sext 32 (s.wordN R.CLK_DT_RATE)) + s.clk.dtFrac → Steps s fun t => t.tclk = s.tclk + 1 ∧ t.clk = { s.clk with dt := s.clk.dt + (x / 2 ^ 44).toNat, dtFrac := (x % 2 ^ 44).toNat } ∧
      t = { s with tclk := t.tclk, clk := t.clk, rep := t.rep }) ∧
    (s.pending = [] → s.rfl.any (fun e => e.2.win.isSome) = false → (∀ k : Fin 4, (s.pairSt k).wait = []) → (s.tclk + 1) % 16 = 0 → dpyRuns s = false → s.snapOf hCol = some ws → Steps s fun t => t.snapOf hCol = none ∧ t.regs = (overlay s ws).regs) ∧
    (s.pending = [] → s.rfl.any (fun e => e.2.win.isSome) = false → (∀ k : Fin 4, (s.pairSt k).wait = []) → (s.flag R.PERF_CTRL_FREEZE = true ∨ s.regRange 0x01F41000 0x01F42000 = []) → Steps s fun t => t.rep = s.rep) ∧
    (s.pending = [] → s.rfl.any (fun e => e.2.win.isSome) = false → (∀ k : Fin 4, (s.pairSt k).wait = []) → s.flag R.PERF_CTRL_FREEZE = false → s.regRange 0x01F41000 0x01F42000 = [(R.PERF_CFG n, w)] → bits w 1 0 = 2 → bits w 19 8 = 0x101 →
      ((s.rsv.window = false ∨ s.tclk % 4 ≠ 0) → Steps s fun t => t.rep = s.rep) ∧
      (s.rsv.window = true → s.tclk % 4 = 0 → Tbl.get 0 s.rep.cnt n + 1 ≠ 2 ^ 64 → Steps s fun t => t.rep = { s.rep with cnt := Tbl.set s.rep.cnt n (Tbl.get 0 s.rep.cnt n + 1) }) ∧
      (s.rsv.window = true → s.tclk % 4 = 0 → Tbl.get 0 s.rep.cnt n + 1 = 2 ^ 64 → Steps s fun t => Tbl.get 0 t.rep.cnt n = 0 ∧ bitAt t.rep.ovf n = true ∧ Raised hPerf 0 t)) ∧
    (s.pending = [] → s.rfl.any (fun e => e.2.win.isSome) = false → (∀ k : Fin 4, (s.pairSt k).wait = []) → s.flag R.PERF_CTRL_FREEZE = false → s.regRange 0x01F41000 0x01F42000 = [(R.PERF_CFG n, w)] → bits w 1 0 = 2 → bits w 19 8 = 0x12F → Tbl.get 0 s.rep.cnt n + 1 ≠ 2 ^ 64 → Steps s fun t =>
      Tbl.get 0 t.rep.cnt n = Tbl.get 0 s.rep.cnt n + b2n ((s.seq 15).armed && decide (s.tclk % 2 = 0))) ∧
    (s.pending = [] → s.rfl = [(j, y)] → y.win = some iw → winBuffer y iw = some m → m < 64 → (s.tclk + 1) % 4 = 0 → Steps s fun t =>
      (t.core j).win = none ∧ Tbl.get (0, 0) t.rsv.portB m = ((s.tclk + 1) / 4, j))

/-- What reset leaves (the Reset columns of the register tables; R28, R376, R446): the words whose reset value is not 0, the words of the tables that reset to 0, no event pending, no fault, no command running, nothing shadowed, snapped,
latched or queued, memory empty and in canonical form. Choices of the model: log entries 5, 6, 7. -/
def Obligations.ResetState : Prop :=
  ∀ (h b off : Nat) (p : Fin 4) (l : Fin 9) (r : Fin 128) (v : Fin 256) (path : Path),
    State.reset.wordN 0x40 = 0x64101C7B ∧ State.reset.wordN 0x44 = 0x10B ∧ State.reset.wordN 0x58 = 0x10204004 ∧ State.reset.wordN R.CLK_DT_STATUS = 4 ∧ State.reset.wordN (0x401048 + 0x1000 * p) = 0x76543210 ∧
    State.reset.wordN (0x401100 + 0x1000 * p + 0x40 * l) = 0xF030 ∧ State.reset.wordN (0x142005C + 0x1000 * p) = 4 ∧ State.reset.wordN 0x1440060 = 0x4080 ∧ State.reset.wordN 0x18100A8 = 400 ∧
    State.reset.wordN (0x1811000 + 0x20 * r) = 0x7F00 ∧ State.reset.flag (R.MSIX_CTRL_MASK v) = true ∧ State.reset.wordN R.BRK_STATUS = 0x40 ∧
    (off < 0x1E80000 → off ∉ ([0x40, 0x44, 0x58, 0x4040, 0x100084, 0x1440060, 0x18100A8] : List Nat) → (off < 0x400000 ∨ 0x500000 ≤ off) → (off < 0x1420000 ∨ 0x1430000 ≤ off) → (off < 0x1811000 ∨ 0x1822400 ≤ off) →
      (off < 0x1D38000 ∨ 0x1D39000 ≤ off) → State.reset.word off = 0) ∧ State.reset.fld R.LCS_STATUS_STATE = 0 ∧ State.reset.wordN R.LOG_WSEQ = 0 ∧ State.reset.wordN R.LOG_RSEQ = 0 ∧
    State.reset.pendOf h = 0 ∧ State.reset.faultOf h = 0 ∧ State.reset.cmdSt h = { status := 0, code := 0, busy := false } ∧ State.reset.snapOf h = none ∧ State.reset.shadowN off = State.reset.wordN off ∧
    State.reset.latched path off = 0 ∧ State.reset.pending = [] ∧ State.reset.mem = [] ∧ memWf State.reset.mem = true ∧ memGet State.reset.mem b = 0

/-- Every step, from every state whose memory is in canonical form (addresses strictly rising, no byte listed that reads as 0 anyway), answers a next state whose memory is in canonical form: no command breaks it, and none stops the block. Choices of the model: log entry 5. -/
def Obligations.MemoryCanonicalKept : Prop :=
  ∀ s : State,
    (memWf s.mem = true → Steps s fun t => memWf t.mem = true)
end

