-- ==== Sys2Proof/Laws/Memory.lean ====
section
/-! SUPPORT. The laws of device memory: a byte reads as what was last stored there, and every operation keeps the canonical form. -/

namespace Sys2Proof.Machine

theorem memWf_tail {c : Host.Cell} {m : List Host.Cell} (h : memWf (c :: m) = true) : memWf m = true := by
  obtain ⟨a, v⟩ := c
  cases m with
  | nil => rfl
  | cons d t => obtain ⟨b, w⟩ := d; simp only [memWf, Bool.and_eq_true] at h; exact h.2

/-- Every address of a canonical list's tail is above its head's. -/
theorem memWf_head_lt {a : Nat} {v : Byte} {m : List Host.Cell} (h : memWf ((a, v) :: m) = true) :
    ∀ c ∈ m, a < c.1 := by
  induction m generalizing a v with
  | nil => simp
  | cons d t ih =>
    obtain ⟨b, w⟩ := d
    have h' := h
    simp only [memWf, Bool.and_eq_true, decide_eq_true_eq] at h'
    intro c hc
    rcases List.mem_cons.mp hc with rfl | hc
    · exact h'.1.2
    · exact lt_trans h'.1.2 (ih h'.2 c hc)

theorem memWf_cons {a : Nat} {v : Byte} {m : List Host.Cell} :
    memWf ((a, v) :: m) = true ↔ v ≠ 0 ∧ (∀ c ∈ m, a < c.1) ∧ memWf m = true := by
  constructor
  · intro h
    refine ⟨?_, memWf_head_lt h, memWf_tail h⟩
    cases m with
    | nil => simpa [memWf] using h
    | cons d t => obtain ⟨b, w⟩ := d; simp only [memWf, Bool.and_eq_true, bne_iff_ne] at h; exact h.1.1
  · rintro ⟨h1, h2, h3⟩
    cases m with
    | nil => simpa [memWf] using h1
    | cons d t =>
      obtain ⟨b, w⟩ := d
      simp only [memWf, Bool.and_eq_true, bne_iff_ne, decide_eq_true_eq]
      exact ⟨⟨h1, h2 (b, w) (by simp)⟩, h3⟩

/-- An address below every listed one reads as 0. -/
theorem memGet_of_lt {m : List Host.Cell} {k : Nat} (h : ∀ c ∈ m, k < c.1) : memGet m k = 0 := by
  induction m with
  | nil => rfl
  | cons c t ih =>
    obtain ⟨a, v⟩ := c
    have := h (a, v) (by simp)
    simp only [memGet]
    rw [if_neg (by omega)]
    exact ih fun c hc => h c (by simp [hc])

theorem memSet_above {m : List Host.Cell} {a k : Nat} {v : Byte} (h : ∀ c ∈ m, a < c.1) (hk : a < k) :
    ∀ c ∈ memSet m k v, a < c.1 := by
  induction m with
  | nil => simp only [memSet]; split_ifs <;> simp [hk]
  | cons d t ih =>
    obtain ⟨b, w⟩ := d
    have hb : a < b := h (b, w) (by simp)
    have ht : ∀ c ∈ t, a < c.1 := fun c hc => h c (by simp [hc])
    simp only [memSet]
    split_ifs
    · exact ht
    · intro c hc; rcases List.mem_cons.mp hc with rfl | hc; exacts [hb, ht c hc]
    · exact h
    · intro c hc; rcases List.mem_cons.mp hc with rfl | hc; exacts [hk, h c hc]
    · intro c hc; rcases List.mem_cons.mp hc with rfl | hc; exacts [hb, ih ht c hc]

/-- A store keeps the canonical form. -/
theorem memSet_wf {m : List Host.Cell} (k : Nat) (v : Byte) (h : memWf m = true) : memWf (memSet m k v) = true := by
  induction m with
  | nil =>
    simp only [memSet]
    split_ifs with hv
    · rfl
    · exact memWf_cons.mpr ⟨hv, by simp, rfl⟩
  | cons d t ih =>
    obtain ⟨b, w⟩ := d
    obtain ⟨h1, h2, h3⟩ := memWf_cons.mp h
    simp only [memSet]
    split_ifs with e1 e2 e3 e4
    · exact h3
    · exact memWf_cons.mpr ⟨e2, h2, h3⟩
    · exact h
    · refine memWf_cons.mpr ⟨e4, ?_, h⟩
      intro c hc
      rcases List.mem_cons.mp hc with rfl | hc
      · exact e3
      · exact lt_trans e3 (h2 c hc)
    · exact memWf_cons.mpr ⟨h1, memSet_above h2 (by omega), ih h3⟩

/-- Stores of several bytes keep the canonical form. -/
theorem memPut_wf {m : List Host.Cell} (a : Nat) (bs : List Byte) (h : memWf m = true) : memWf (memPut m a bs) = true := by
  induction bs generalizing m a with
  | nil => exact h
  | cons b t ih => exact ih _ (memSet_wf a b h)

/-- Keeping part of a canonical list keeps it canonical. -/
theorem memFilter_wf {m : List Host.Cell} (p : Host.Cell → Bool) (h : memWf m = true) : memWf (m.filter p) = true := by
  induction m with
  | nil => rfl
  | cons d t ih =>
    obtain ⟨b, w⟩ := d
    obtain ⟨h1, h2, h3⟩ := memWf_cons.mp h
    by_cases hp : p (b, w) = true
    · rw [List.filter_cons_of_pos hp]
      exact memWf_cons.mpr ⟨h1, fun c hc => h2 c (List.mem_filter.mp hc).1, ih h3⟩
    · rw [List.filter_cons_of_neg hp]; exact ih h3

/-- A byte reads as what a store put there; every other byte reads as before. -/
theorem memGet_memSet {m : List Host.Cell} (k j : Nat) (v : Byte) (h : memWf m = true) :
    memGet (memSet m k v) j = if j = k then v else memGet m j := by
  induction m with
  | nil =>
    by_cases hv : v = 0
    · subst hv; simp only [memSet, if_true, memGet, ite_self]
    · by_cases hj : j = k
      · simp only [memSet, if_neg hv, memGet, if_pos hj, if_pos hj.symm]
      · simp only [memSet, if_neg hv, memGet, if_neg hj, if_neg (Ne.symm hj)]
  | cons d t ih =>
    obtain ⟨b, w⟩ := d
    obtain ⟨-, h2, h3⟩ := memWf_cons.mp h
    by_cases e1 : b = k
    · subst e1
      by_cases hj : j = b
      · subst hj
        by_cases hv : v = 0
        · simpa [memSet, hv] using memGet_of_lt h2
        · simp only [memSet, if_true, if_neg hv, memGet]
      · by_cases hv : v = 0
        · simp only [memSet, if_true, if_pos hv, memGet, if_neg hj, if_neg (Ne.symm hj)]
        · simp only [memSet, if_true, if_neg hv, memGet, if_neg hj, if_neg (Ne.symm hj)]
    · by_cases e2 : k < b
      · by_cases hv : v = 0
        · simp only [memSet, if_neg e1, if_pos e2, if_pos hv]
          split_ifs with hj
          · subst hj
            rw [hv]
            exact memGet_of_lt fun c hc => by
              rcases List.mem_cons.mp hc with rfl | hc
              · exact e2
              · exact lt_trans e2 (h2 c hc)
          · rfl
        · simp only [memSet, if_neg e1, if_pos e2, if_neg hv]
          by_cases hj : j = k
          · simp only [memGet, if_pos hj, if_pos hj.symm]
          · simp only [memGet, if_neg hj, if_neg (Ne.symm hj)]
      · simp only [memSet, if_neg e1, if_neg e2, memGet, ih h3]
        by_cases hj : b = j
        · subst hj; simp only [if_true, if_neg e1]
        · simp only [if_neg hj]

/-- Every operation of the model on the memory of a state keeps the canonical form: stores of bytes. -/
theorem memStore_wf (s : State) (a : Nat) (bs : List Byte) (h : memWf s.mem = true) : memWf (s.memStore a bs).mem = true :=
  memPut_wf a bs h

theorem lostStore_wf (a : Nat) (b : Byte) (full : Bool) (s : State) (h : memWf s.mem = true) : memWf (lostStore a b full s).mem = true := by
  unfold lostStore
  split
  · exact memSet_wf _ _ h
  · split
    · exact h
    · split
      · exact memSet_wf _ _ h
      · exact h

@[simp] theorem lostHeal_mem (w : Nat) (s : State) : (lostHeal w s).mem = s.mem := by
  unfold lostHeal
  split
  · rfl
  · split <;> rfl

theorem memWrite_wf (s : State) (a : Nat) (bs : List Byte) (h : memWf s.mem = true) : memWf (s.memWrite a bs).mem = true := by
  unfold State.memWrite
  split
  · exact memStore_wf s a bs h
  · have hf : ∀ (l : List (Byte × Nat)) (s : State), memWf s.mem = true →
        memWf (l.foldl (fun s e => lostStore (a + e.2) e.1 ((fullWords a bs.length).contains ((a + e.2) / 8 * 8)) s) s).mem = true := by
      intro l
      induction l with
      | nil => intro s h; exact h
      | cons e t ih => intro s h; exact ih _ (lostStore_wf _ _ _ _ h)
    have hg : ∀ (l : List Nat) (s : State), (l.foldl (fun s w => lostHeal w s) s).mem = s.mem := by
      intro l
      induction l with
      | nil => intro s; rfl
      | cons e t ih => intro s; simp [ih]
    simp only [hg]
    exact hf _ _ h

end Sys2Proof.Machine
end

