-- ==== Sys2Proof/Laws/Tbl.lean ====
section
/-! SUPPORT. The laws of tables: what a read after a `set`, `upd` or `del` gives. -/

namespace Sys2Proof.Machine

variable {β : Type}

@[simp] theorem Tbl.find_nil (k : Nat) : Tbl.find ([] : Tbl β) k = none := rfl

@[simp] theorem Tbl.get_nil (d : β) (k : Nat) : Tbl.get d ([] : Tbl β) k = d := rfl

theorem Tbl.find_set (t : Tbl β) (k j : Nat) (v : β) :
    Tbl.find (Tbl.set t k v) j = if k = j then some v else Tbl.find t j := by
  induction t with
  | nil => simp [Tbl.set, Tbl.find]
  | cons e t ih =>
    obtain ⟨a, w⟩ := e
    by_cases h1 : a = k
    · subst h1; by_cases h2 : a = j <;> simp [Tbl.set, Tbl.find, h2]
    · by_cases h3 : k < a
      · simp [Tbl.set, h1, h3, Tbl.find]
      · by_cases h2 : a = j
        · subst h2; simp [Tbl.set, h1, h3, Tbl.find, Ne.symm h1]
        · simp [Tbl.set, h1, h3, Tbl.find, h2, ih]

@[simp] theorem Tbl.find_set_same (t : Tbl β) (k : Nat) (v : β) : Tbl.find (Tbl.set t k v) k = some v := by
  simp [Tbl.find_set]

theorem Tbl.find_set_ne (t : Tbl β) {k j : Nat} (v : β) (h : k ≠ j) : Tbl.find (Tbl.set t k v) j = Tbl.find t j := by
  simp [Tbl.find_set, h]

theorem Tbl.get_eq_find (d : β) (t : Tbl β) (k : Nat) : Tbl.get d t k = (Tbl.find t k).getD d := by
  induction t with
  | nil => rfl
  | cons e t ih => obtain ⟨a, w⟩ := e; by_cases h : a = k <;> simp [Tbl.get, Tbl.find, h, ih]

theorem Tbl.get_set (d : β) (t : Tbl β) (k j : Nat) (v : β) :
    Tbl.get d (Tbl.set t k v) j = if k = j then v else Tbl.get d t j := by
  by_cases h : k = j <;> simp [Tbl.get_eq_find, Tbl.find_set, h]

@[simp] theorem Tbl.get_set_same (d : β) (t : Tbl β) (k : Nat) (v : β) : Tbl.get d (Tbl.set t k v) k = v := by
  simp [Tbl.get_set]

theorem Tbl.get_set_ne (d : β) (t : Tbl β) {k j : Nat} (v : β) (h : k ≠ j) :
    Tbl.get d (Tbl.set t k v) j = Tbl.get d t j := by simp [Tbl.get_set, h]

theorem Tbl.get_upd (d : β) (t : Tbl β) (k j : Nat) (f : β → β) :
    Tbl.get d (Tbl.upd d t k f) j = if k = j then f (Tbl.get d t k) else Tbl.get d t j := Tbl.get_set ..

@[simp] theorem Tbl.find_del_same (t : Tbl β) (k : Nat) : Tbl.find (Tbl.del t k) k = none := by
  induction t with
  | nil => rfl
  | cons e t ih =>
    obtain ⟨a, w⟩ := e
    by_cases h : a = k
    · subst h; simpa [Tbl.del] using ih
    · simp only [Tbl.del] at ih; simp [Tbl.del, h, Tbl.find, ih]

theorem Tbl.find_del_ne (t : Tbl β) {k j : Nat} (h : k ≠ j) : Tbl.find (Tbl.del t k) j = Tbl.find t j := by
  induction t with
  | nil => rfl
  | cons e t ih =>
    obtain ⟨a, w⟩ := e
    simp only [Tbl.del] at ih
    by_cases h1 : a = k
    · subst h1; simp [Tbl.del, Tbl.find, h, ih]
    · by_cases h2 : a = j
      · subst h2; simp [Tbl.del, h1, Tbl.find]
      · simp [Tbl.del, h1, Tbl.find, h2, ih]

end Sys2Proof.Machine
end

