-- ==== Sys2Proof/Laws/State.lean ====
section
/-! SUPPORT. What each shared operation leaves alone, one lemma for each field of `State` (all true by unfolding), and what a register reads after a write. -/

namespace Sys2Proof.Machine

variable (s : State)

@[simp] theorem State.setWord_pending (o v : Nat) : (s.setWord o v).pending = s.pending := Eq.refl _
@[simp] theorem State.setWord_tclk (o v : Nat) : (s.setWord o v).tclk = s.tclk := Eq.refl _
@[simp] theorem State.setWord_freeCtr (o v : Nat) : (s.setWord o v).freeCtr = s.freeCtr := Eq.refl _
@[simp] theorem State.setWord_shadow (o v : Nat) : (s.setWord o v).shadow = s.shadow := Eq.refl _
@[simp] theorem State.setWord_snaps (o v : Nat) : (s.setWord o v).snaps = s.snaps := Eq.refl _
@[simp] theorem State.setWord_latch (o v : Nat) : (s.setWord o v).latch = s.latch := Eq.refl _
@[simp] theorem State.setWord_rep (o v : Nat) : (s.setWord o v).rep = s.rep := Eq.refl _
@[simp] theorem State.setWord_mem (o v : Nat) : (s.setWord o v).mem = s.mem := Eq.refl _
@[simp] theorem State.setWord_poison (o v : Nat) : (s.setWord o v).poison = s.poison := Eq.refl _
@[simp] theorem State.setWord_rsv (o v : Nat) : (s.setWord o v).rsv = s.rsv := Eq.refl _
@[simp] theorem State.setWord_mmu (o v : Nat) : (s.setWord o v).mmu = s.mmu := Eq.refl _
@[simp] theorem State.setWord_mlr (o v : Nat) : (s.setWord o v).mlr = s.mlr := Eq.refl _
@[simp] theorem State.setWord_rfl (o v : Nat) : (s.setWord o v).rfl = s.rfl := Eq.refl _
@[simp] theorem State.setWord_jq (o v : Nat) : (s.setWord o v).jq = s.jq := Eq.refl _
@[simp] theorem State.setWord_clk (o v : Nat) : (s.setWord o v).clk = s.clk := Eq.refl _
@[simp] theorem State.setWord_evt (o v : Nat) : (s.setWord o v).evt = s.evt := Eq.refl _
@[simp] theorem State.setWord_ing (o v : Nat) : (s.setWord o v).ing = s.ing := Eq.refl _
@[simp] theorem State.setWord_rch (o v : Nat) : (s.setWord o v).rch = s.rch := Eq.refl _
@[simp] theorem State.setWord_slt (o v : Nat) : (s.setWord o v).slt = s.slt := Eq.refl _
@[simp] theorem State.setWord_trb (o v : Nat) : (s.setWord o v).trb = s.trb := Eq.refl _
@[simp] theorem State.setWord_weir (o v : Nat) : (s.setWord o v).weir = s.weir := Eq.refl _
@[simp] theorem State.setWord_ptp (o v : Nat) : (s.setWord o v).ptp = s.ptp := Eq.refl _
@[simp] theorem State.setWord_dsp (o v : Nat) : (s.setWord o v).dsp = s.dsp := Eq.refl _
@[simp] theorem State.setWord_net (o v : Nat) : (s.setWord o v).net = s.net := Eq.refl _
@[simp] theorem State.setWord_brk (o v : Nat) : (s.setWord o v).brk = s.brk := Eq.refl _
@[simp] theorem State.setWord_perf (o v : Nat) : (s.setWord o v).perf = s.perf := Eq.refl _
@[simp] theorem State.setWord_boot (o v : Nat) : (s.setWord o v).boot = s.boot := Eq.refl _

@[simp] theorem State.setFld_pending (l : Loc) (v : Nat) : (s.setFld l v).pending = s.pending := Eq.refl _
@[simp] theorem State.setFld_tclk (l : Loc) (v : Nat) : (s.setFld l v).tclk = s.tclk := Eq.refl _
@[simp] theorem State.setFld_freeCtr (l : Loc) (v : Nat) : (s.setFld l v).freeCtr = s.freeCtr := Eq.refl _
@[simp] theorem State.setFld_shadow (l : Loc) (v : Nat) : (s.setFld l v).shadow = s.shadow := Eq.refl _
@[simp] theorem State.setFld_snaps (l : Loc) (v : Nat) : (s.setFld l v).snaps = s.snaps := Eq.refl _
@[simp] theorem State.setFld_latch (l : Loc) (v : Nat) : (s.setFld l v).latch = s.latch := Eq.refl _
@[simp] theorem State.setFld_rep (l : Loc) (v : Nat) : (s.setFld l v).rep = s.rep := Eq.refl _
@[simp] theorem State.setFld_mem (l : Loc) (v : Nat) : (s.setFld l v).mem = s.mem := Eq.refl _
@[simp] theorem State.setFld_poison (l : Loc) (v : Nat) : (s.setFld l v).poison = s.poison := Eq.refl _
@[simp] theorem State.setFld_rsv (l : Loc) (v : Nat) : (s.setFld l v).rsv = s.rsv := Eq.refl _
@[simp] theorem State.setFld_mmu (l : Loc) (v : Nat) : (s.setFld l v).mmu = s.mmu := Eq.refl _
@[simp] theorem State.setFld_mlr (l : Loc) (v : Nat) : (s.setFld l v).mlr = s.mlr := Eq.refl _
@[simp] theorem State.setFld_rfl (l : Loc) (v : Nat) : (s.setFld l v).rfl = s.rfl := Eq.refl _
@[simp] theorem State.setFld_jq (l : Loc) (v : Nat) : (s.setFld l v).jq = s.jq := Eq.refl _
@[simp] theorem State.setFld_clk (l : Loc) (v : Nat) : (s.setFld l v).clk = s.clk := Eq.refl _
@[simp] theorem State.setFld_evt (l : Loc) (v : Nat) : (s.setFld l v).evt = s.evt := Eq.refl _
@[simp] theorem State.setFld_ing (l : Loc) (v : Nat) : (s.setFld l v).ing = s.ing := Eq.refl _
@[simp] theorem State.setFld_rch (l : Loc) (v : Nat) : (s.setFld l v).rch = s.rch := Eq.refl _
@[simp] theorem State.setFld_slt (l : Loc) (v : Nat) : (s.setFld l v).slt = s.slt := Eq.refl _
@[simp] theorem State.setFld_trb (l : Loc) (v : Nat) : (s.setFld l v).trb = s.trb := Eq.refl _
@[simp] theorem State.setFld_weir (l : Loc) (v : Nat) : (s.setFld l v).weir = s.weir := Eq.refl _
@[simp] theorem State.setFld_ptp (l : Loc) (v : Nat) : (s.setFld l v).ptp = s.ptp := Eq.refl _
@[simp] theorem State.setFld_dsp (l : Loc) (v : Nat) : (s.setFld l v).dsp = s.dsp := Eq.refl _
@[simp] theorem State.setFld_net (l : Loc) (v : Nat) : (s.setFld l v).net = s.net := Eq.refl _
@[simp] theorem State.setFld_brk (l : Loc) (v : Nat) : (s.setFld l v).brk = s.brk := Eq.refl _
@[simp] theorem State.setFld_perf (l : Loc) (v : Nat) : (s.setFld l v).perf = s.perf := Eq.refl _
@[simp] theorem State.setFld_boot (l : Loc) (v : Nat) : (s.setFld l v).boot = s.boot := Eq.refl _

@[simp] theorem State.setFlag_pending (l : Loc) (b : Bool) : (s.setFlag l b).pending = s.pending := Eq.refl _
@[simp] theorem State.setFlag_tclk (l : Loc) (b : Bool) : (s.setFlag l b).tclk = s.tclk := Eq.refl _
@[simp] theorem State.setFlag_freeCtr (l : Loc) (b : Bool) : (s.setFlag l b).freeCtr = s.freeCtr := Eq.refl _
@[simp] theorem State.setFlag_shadow (l : Loc) (b : Bool) : (s.setFlag l b).shadow = s.shadow := Eq.refl _
@[simp] theorem State.setFlag_snaps (l : Loc) (b : Bool) : (s.setFlag l b).snaps = s.snaps := Eq.refl _
@[simp] theorem State.setFlag_latch (l : Loc) (b : Bool) : (s.setFlag l b).latch = s.latch := Eq.refl _
@[simp] theorem State.setFlag_rep (l : Loc) (b : Bool) : (s.setFlag l b).rep = s.rep := Eq.refl _
@[simp] theorem State.setFlag_mem (l : Loc) (b : Bool) : (s.setFlag l b).mem = s.mem := Eq.refl _
@[simp] theorem State.setFlag_poison (l : Loc) (b : Bool) : (s.setFlag l b).poison = s.poison := Eq.refl _
@[simp] theorem State.setFlag_rsv (l : Loc) (b : Bool) : (s.setFlag l b).rsv = s.rsv := Eq.refl _
@[simp] theorem State.setFlag_mmu (l : Loc) (b : Bool) : (s.setFlag l b).mmu = s.mmu := Eq.refl _
@[simp] theorem State.setFlag_mlr (l : Loc) (b : Bool) : (s.setFlag l b).mlr = s.mlr := Eq.refl _
@[simp] theorem State.setFlag_rfl (l : Loc) (b : Bool) : (s.setFlag l b).rfl = s.rfl := Eq.refl _
@[simp] theorem State.setFlag_jq (l : Loc) (b : Bool) : (s.setFlag l b).jq = s.jq := Eq.refl _
@[simp] theorem State.setFlag_clk (l : Loc) (b : Bool) : (s.setFlag l b).clk = s.clk := Eq.refl _
@[simp] theorem State.setFlag_evt (l : Loc) (b : Bool) : (s.setFlag l b).evt = s.evt := Eq.refl _
@[simp] theorem State.setFlag_ing (l : Loc) (b : Bool) : (s.setFlag l b).ing = s.ing := Eq.refl _
@[simp] theorem State.setFlag_rch (l : Loc) (b : Bool) : (s.setFlag l b).rch = s.rch := Eq.refl _
@[simp] theorem State.setFlag_slt (l : Loc) (b : Bool) : (s.setFlag l b).slt = s.slt := Eq.refl _
@[simp] theorem State.setFlag_trb (l : Loc) (b : Bool) : (s.setFlag l b).trb = s.trb := Eq.refl _
@[simp] theorem State.setFlag_weir (l : Loc) (b : Bool) : (s.setFlag l b).weir = s.weir := Eq.refl _
@[simp] theorem State.setFlag_ptp (l : Loc) (b : Bool) : (s.setFlag l b).ptp = s.ptp := Eq.refl _
@[simp] theorem State.setFlag_dsp (l : Loc) (b : Bool) : (s.setFlag l b).dsp = s.dsp := Eq.refl _
@[simp] theorem State.setFlag_net (l : Loc) (b : Bool) : (s.setFlag l b).net = s.net := Eq.refl _
@[simp] theorem State.setFlag_brk (l : Loc) (b : Bool) : (s.setFlag l b).brk = s.brk := Eq.refl _
@[simp] theorem State.setFlag_perf (l : Loc) (b : Bool) : (s.setFlag l b).perf = s.perf := Eq.refl _
@[simp] theorem State.setFlag_boot (l : Loc) (b : Bool) : (s.setFlag l b).boot = s.boot := Eq.refl _

@[simp] theorem State.setPair_pending (o v : Nat) : (s.setPair o v).pending = s.pending := Eq.refl _
@[simp] theorem State.setPair_tclk (o v : Nat) : (s.setPair o v).tclk = s.tclk := Eq.refl _
@[simp] theorem State.setPair_freeCtr (o v : Nat) : (s.setPair o v).freeCtr = s.freeCtr := Eq.refl _
@[simp] theorem State.setPair_shadow (o v : Nat) : (s.setPair o v).shadow = s.shadow := Eq.refl _
@[simp] theorem State.setPair_snaps (o v : Nat) : (s.setPair o v).snaps = s.snaps := Eq.refl _
@[simp] theorem State.setPair_latch (o v : Nat) : (s.setPair o v).latch = s.latch := Eq.refl _
@[simp] theorem State.setPair_rep (o v : Nat) : (s.setPair o v).rep = s.rep := Eq.refl _
@[simp] theorem State.setPair_mem (o v : Nat) : (s.setPair o v).mem = s.mem := Eq.refl _
@[simp] theorem State.setPair_poison (o v : Nat) : (s.setPair o v).poison = s.poison := Eq.refl _
@[simp] theorem State.setPair_rsv (o v : Nat) : (s.setPair o v).rsv = s.rsv := Eq.refl _
@[simp] theorem State.setPair_mmu (o v : Nat) : (s.setPair o v).mmu = s.mmu := Eq.refl _
@[simp] theorem State.setPair_mlr (o v : Nat) : (s.setPair o v).mlr = s.mlr := Eq.refl _
@[simp] theorem State.setPair_rfl (o v : Nat) : (s.setPair o v).rfl = s.rfl := Eq.refl _
@[simp] theorem State.setPair_jq (o v : Nat) : (s.setPair o v).jq = s.jq := Eq.refl _
@[simp] theorem State.setPair_clk (o v : Nat) : (s.setPair o v).clk = s.clk := Eq.refl _
@[simp] theorem State.setPair_evt (o v : Nat) : (s.setPair o v).evt = s.evt := Eq.refl _
@[simp] theorem State.setPair_ing (o v : Nat) : (s.setPair o v).ing = s.ing := Eq.refl _
@[simp] theorem State.setPair_rch (o v : Nat) : (s.setPair o v).rch = s.rch := Eq.refl _
@[simp] theorem State.setPair_slt (o v : Nat) : (s.setPair o v).slt = s.slt := Eq.refl _
@[simp] theorem State.setPair_trb (o v : Nat) : (s.setPair o v).trb = s.trb := Eq.refl _
@[simp] theorem State.setPair_weir (o v : Nat) : (s.setPair o v).weir = s.weir := Eq.refl _
@[simp] theorem State.setPair_ptp (o v : Nat) : (s.setPair o v).ptp = s.ptp := Eq.refl _
@[simp] theorem State.setPair_dsp (o v : Nat) : (s.setPair o v).dsp = s.dsp := Eq.refl _
@[simp] theorem State.setPair_net (o v : Nat) : (s.setPair o v).net = s.net := Eq.refl _
@[simp] theorem State.setPair_brk (o v : Nat) : (s.setPair o v).brk = s.brk := Eq.refl _
@[simp] theorem State.setPair_perf (o v : Nat) : (s.setPair o v).perf = s.perf := Eq.refl _
@[simp] theorem State.setPair_boot (o v : Nat) : (s.setPair o v).boot = s.boot := Eq.refl _

@[simp] theorem State.bump64_pending (o k : Nat) : (s.bump64 o k).pending = s.pending := Eq.refl _
@[simp] theorem State.bump64_tclk (o k : Nat) : (s.bump64 o k).tclk = s.tclk := Eq.refl _
@[simp] theorem State.bump64_freeCtr (o k : Nat) : (s.bump64 o k).freeCtr = s.freeCtr := Eq.refl _
@[simp] theorem State.bump64_shadow (o k : Nat) : (s.bump64 o k).shadow = s.shadow := Eq.refl _
@[simp] theorem State.bump64_snaps (o k : Nat) : (s.bump64 o k).snaps = s.snaps := Eq.refl _
@[simp] theorem State.bump64_latch (o k : Nat) : (s.bump64 o k).latch = s.latch := Eq.refl _
@[simp] theorem State.bump64_rep (o k : Nat) : (s.bump64 o k).rep = s.rep := Eq.refl _
@[simp] theorem State.bump64_mem (o k : Nat) : (s.bump64 o k).mem = s.mem := Eq.refl _
@[simp] theorem State.bump64_poison (o k : Nat) : (s.bump64 o k).poison = s.poison := Eq.refl _
@[simp] theorem State.bump64_rsv (o k : Nat) : (s.bump64 o k).rsv = s.rsv := Eq.refl _
@[simp] theorem State.bump64_mmu (o k : Nat) : (s.bump64 o k).mmu = s.mmu := Eq.refl _
@[simp] theorem State.bump64_mlr (o k : Nat) : (s.bump64 o k).mlr = s.mlr := Eq.refl _
@[simp] theorem State.bump64_rfl (o k : Nat) : (s.bump64 o k).rfl = s.rfl := Eq.refl _
@[simp] theorem State.bump64_jq (o k : Nat) : (s.bump64 o k).jq = s.jq := Eq.refl _
@[simp] theorem State.bump64_clk (o k : Nat) : (s.bump64 o k).clk = s.clk := Eq.refl _
@[simp] theorem State.bump64_evt (o k : Nat) : (s.bump64 o k).evt = s.evt := Eq.refl _
@[simp] theorem State.bump64_ing (o k : Nat) : (s.bump64 o k).ing = s.ing := Eq.refl _
@[simp] theorem State.bump64_rch (o k : Nat) : (s.bump64 o k).rch = s.rch := Eq.refl _
@[simp] theorem State.bump64_slt (o k : Nat) : (s.bump64 o k).slt = s.slt := Eq.refl _
@[simp] theorem State.bump64_trb (o k : Nat) : (s.bump64 o k).trb = s.trb := Eq.refl _
@[simp] theorem State.bump64_weir (o k : Nat) : (s.bump64 o k).weir = s.weir := Eq.refl _
@[simp] theorem State.bump64_ptp (o k : Nat) : (s.bump64 o k).ptp = s.ptp := Eq.refl _
@[simp] theorem State.bump64_dsp (o k : Nat) : (s.bump64 o k).dsp = s.dsp := Eq.refl _
@[simp] theorem State.bump64_net (o k : Nat) : (s.bump64 o k).net = s.net := Eq.refl _
@[simp] theorem State.bump64_brk (o k : Nat) : (s.bump64 o k).brk = s.brk := Eq.refl _
@[simp] theorem State.bump64_perf (o k : Nat) : (s.bump64 o k).perf = s.perf := Eq.refl _
@[simp] theorem State.bump64_boot (o k : Nat) : (s.bump64 o k).boot = s.boot := Eq.refl _

@[simp] theorem State.bumpSat_pending (o k : Nat) : (s.bumpSat o k).pending = s.pending := Eq.refl _
@[simp] theorem State.bumpSat_tclk (o k : Nat) : (s.bumpSat o k).tclk = s.tclk := Eq.refl _
@[simp] theorem State.bumpSat_freeCtr (o k : Nat) : (s.bumpSat o k).freeCtr = s.freeCtr := Eq.refl _
@[simp] theorem State.bumpSat_shadow (o k : Nat) : (s.bumpSat o k).shadow = s.shadow := Eq.refl _
@[simp] theorem State.bumpSat_snaps (o k : Nat) : (s.bumpSat o k).snaps = s.snaps := Eq.refl _
@[simp] theorem State.bumpSat_latch (o k : Nat) : (s.bumpSat o k).latch = s.latch := Eq.refl _
@[simp] theorem State.bumpSat_rep (o k : Nat) : (s.bumpSat o k).rep = s.rep := Eq.refl _
@[simp] theorem State.bumpSat_mem (o k : Nat) : (s.bumpSat o k).mem = s.mem := Eq.refl _
@[simp] theorem State.bumpSat_poison (o k : Nat) : (s.bumpSat o k).poison = s.poison := Eq.refl _
@[simp] theorem State.bumpSat_rsv (o k : Nat) : (s.bumpSat o k).rsv = s.rsv := Eq.refl _
@[simp] theorem State.bumpSat_mmu (o k : Nat) : (s.bumpSat o k).mmu = s.mmu := Eq.refl _
@[simp] theorem State.bumpSat_mlr (o k : Nat) : (s.bumpSat o k).mlr = s.mlr := Eq.refl _
@[simp] theorem State.bumpSat_rfl (o k : Nat) : (s.bumpSat o k).rfl = s.rfl := Eq.refl _
@[simp] theorem State.bumpSat_jq (o k : Nat) : (s.bumpSat o k).jq = s.jq := Eq.refl _
@[simp] theorem State.bumpSat_clk (o k : Nat) : (s.bumpSat o k).clk = s.clk := Eq.refl _
@[simp] theorem State.bumpSat_evt (o k : Nat) : (s.bumpSat o k).evt = s.evt := Eq.refl _
@[simp] theorem State.bumpSat_ing (o k : Nat) : (s.bumpSat o k).ing = s.ing := Eq.refl _
@[simp] theorem State.bumpSat_rch (o k : Nat) : (s.bumpSat o k).rch = s.rch := Eq.refl _
@[simp] theorem State.bumpSat_slt (o k : Nat) : (s.bumpSat o k).slt = s.slt := Eq.refl _
@[simp] theorem State.bumpSat_trb (o k : Nat) : (s.bumpSat o k).trb = s.trb := Eq.refl _
@[simp] theorem State.bumpSat_weir (o k : Nat) : (s.bumpSat o k).weir = s.weir := Eq.refl _
@[simp] theorem State.bumpSat_ptp (o k : Nat) : (s.bumpSat o k).ptp = s.ptp := Eq.refl _
@[simp] theorem State.bumpSat_dsp (o k : Nat) : (s.bumpSat o k).dsp = s.dsp := Eq.refl _
@[simp] theorem State.bumpSat_net (o k : Nat) : (s.bumpSat o k).net = s.net := Eq.refl _
@[simp] theorem State.bumpSat_brk (o k : Nat) : (s.bumpSat o k).brk = s.brk := Eq.refl _
@[simp] theorem State.bumpSat_perf (o k : Nat) : (s.bumpSat o k).perf = s.perf := Eq.refl _
@[simp] theorem State.bumpSat_boot (o k : Nat) : (s.bumpSat o k).boot = s.boot := Eq.refl _

@[simp] theorem State.emit_pending (o : Out) : (s.emit o).pending = s.pending := Eq.refl _
@[simp] theorem State.emit_tclk (o : Out) : (s.emit o).tclk = s.tclk := Eq.refl _
@[simp] theorem State.emit_freeCtr (o : Out) : (s.emit o).freeCtr = s.freeCtr := Eq.refl _
@[simp] theorem State.emit_regs (o : Out) : (s.emit o).regs = s.regs := Eq.refl _
@[simp] theorem State.emit_shadow (o : Out) : (s.emit o).shadow = s.shadow := Eq.refl _
@[simp] theorem State.emit_snaps (o : Out) : (s.emit o).snaps = s.snaps := Eq.refl _
@[simp] theorem State.emit_latch (o : Out) : (s.emit o).latch = s.latch := Eq.refl _
@[simp] theorem State.emit_mem (o : Out) : (s.emit o).mem = s.mem := Eq.refl _
@[simp] theorem State.emit_poison (o : Out) : (s.emit o).poison = s.poison := Eq.refl _
@[simp] theorem State.emit_rsv (o : Out) : (s.emit o).rsv = s.rsv := Eq.refl _
@[simp] theorem State.emit_mmu (o : Out) : (s.emit o).mmu = s.mmu := Eq.refl _
@[simp] theorem State.emit_mlr (o : Out) : (s.emit o).mlr = s.mlr := Eq.refl _
@[simp] theorem State.emit_rfl (o : Out) : (s.emit o).rfl = s.rfl := Eq.refl _
@[simp] theorem State.emit_jq (o : Out) : (s.emit o).jq = s.jq := Eq.refl _
@[simp] theorem State.emit_clk (o : Out) : (s.emit o).clk = s.clk := Eq.refl _
@[simp] theorem State.emit_evt (o : Out) : (s.emit o).evt = s.evt := Eq.refl _
@[simp] theorem State.emit_ing (o : Out) : (s.emit o).ing = s.ing := Eq.refl _
@[simp] theorem State.emit_rch (o : Out) : (s.emit o).rch = s.rch := Eq.refl _
@[simp] theorem State.emit_slt (o : Out) : (s.emit o).slt = s.slt := Eq.refl _
@[simp] theorem State.emit_trb (o : Out) : (s.emit o).trb = s.trb := Eq.refl _
@[simp] theorem State.emit_weir (o : Out) : (s.emit o).weir = s.weir := Eq.refl _
@[simp] theorem State.emit_ptp (o : Out) : (s.emit o).ptp = s.ptp := Eq.refl _
@[simp] theorem State.emit_dsp (o : Out) : (s.emit o).dsp = s.dsp := Eq.refl _
@[simp] theorem State.emit_net (o : Out) : (s.emit o).net = s.net := Eq.refl _
@[simp] theorem State.emit_brk (o : Out) : (s.emit o).brk = s.brk := Eq.refl _
@[simp] theorem State.emit_perf (o : Out) : (s.emit o).perf = s.perf := Eq.refl _
@[simp] theorem State.emit_boot (o : Out) : (s.emit o).boot = s.boot := Eq.refl _

@[simp] theorem raise_pending (h b : Nat) : (raise h b s).pending = s.pending := Eq.refl _
@[simp] theorem raise_tclk (h b : Nat) : (raise h b s).tclk = s.tclk := Eq.refl _
@[simp] theorem raise_freeCtr (h b : Nat) : (raise h b s).freeCtr = s.freeCtr := Eq.refl _
@[simp] theorem raise_regs (h b : Nat) : (raise h b s).regs = s.regs := Eq.refl _
@[simp] theorem raise_shadow (h b : Nat) : (raise h b s).shadow = s.shadow := Eq.refl _
@[simp] theorem raise_snaps (h b : Nat) : (raise h b s).snaps = s.snaps := Eq.refl _
@[simp] theorem raise_latch (h b : Nat) : (raise h b s).latch = s.latch := Eq.refl _
@[simp] theorem raise_mem (h b : Nat) : (raise h b s).mem = s.mem := Eq.refl _
@[simp] theorem raise_poison (h b : Nat) : (raise h b s).poison = s.poison := Eq.refl _
@[simp] theorem raise_rsv (h b : Nat) : (raise h b s).rsv = s.rsv := Eq.refl _
@[simp] theorem raise_mmu (h b : Nat) : (raise h b s).mmu = s.mmu := Eq.refl _
@[simp] theorem raise_mlr (h b : Nat) : (raise h b s).mlr = s.mlr := Eq.refl _
@[simp] theorem raise_rfl (h b : Nat) : (raise h b s).rfl = s.rfl := Eq.refl _
@[simp] theorem raise_jq (h b : Nat) : (raise h b s).jq = s.jq := Eq.refl _
@[simp] theorem raise_clk (h b : Nat) : (raise h b s).clk = s.clk := Eq.refl _
@[simp] theorem raise_evt (h b : Nat) : (raise h b s).evt = s.evt := Eq.refl _
@[simp] theorem raise_ing (h b : Nat) : (raise h b s).ing = s.ing := Eq.refl _
@[simp] theorem raise_rch (h b : Nat) : (raise h b s).rch = s.rch := Eq.refl _
@[simp] theorem raise_slt (h b : Nat) : (raise h b s).slt = s.slt := Eq.refl _
@[simp] theorem raise_trb (h b : Nat) : (raise h b s).trb = s.trb := Eq.refl _
@[simp] theorem raise_weir (h b : Nat) : (raise h b s).weir = s.weir := Eq.refl _
@[simp] theorem raise_ptp (h b : Nat) : (raise h b s).ptp = s.ptp := Eq.refl _
@[simp] theorem raise_dsp (h b : Nat) : (raise h b s).dsp = s.dsp := Eq.refl _
@[simp] theorem raise_net (h b : Nat) : (raise h b s).net = s.net := Eq.refl _
@[simp] theorem raise_brk (h b : Nat) : (raise h b s).brk = s.brk := Eq.refl _
@[simp] theorem raise_perf (h b : Nat) : (raise h b s).perf = s.perf := Eq.refl _
@[simp] theorem raise_boot (h b : Nat) : (raise h b s).boot = s.boot := Eq.refl _

@[simp] theorem addLog_pending (h k v c a0 a1 : Nat) : (addLog h k v c a0 a1 s).pending = s.pending := Eq.refl _
@[simp] theorem addLog_tclk (h k v c a0 a1 : Nat) : (addLog h k v c a0 a1 s).tclk = s.tclk := Eq.refl _
@[simp] theorem addLog_freeCtr (h k v c a0 a1 : Nat) : (addLog h k v c a0 a1 s).freeCtr = s.freeCtr := Eq.refl _
@[simp] theorem addLog_regs (h k v c a0 a1 : Nat) : (addLog h k v c a0 a1 s).regs = s.regs := Eq.refl _
@[simp] theorem addLog_shadow (h k v c a0 a1 : Nat) : (addLog h k v c a0 a1 s).shadow = s.shadow := Eq.refl _
@[simp] theorem addLog_snaps (h k v c a0 a1 : Nat) : (addLog h k v c a0 a1 s).snaps = s.snaps := Eq.refl _
@[simp] theorem addLog_latch (h k v c a0 a1 : Nat) : (addLog h k v c a0 a1 s).latch = s.latch := Eq.refl _
@[simp] theorem addLog_mem (h k v c a0 a1 : Nat) : (addLog h k v c a0 a1 s).mem = s.mem := Eq.refl _
@[simp] theorem addLog_poison (h k v c a0 a1 : Nat) : (addLog h k v c a0 a1 s).poison = s.poison := Eq.refl _
@[simp] theorem addLog_rsv (h k v c a0 a1 : Nat) : (addLog h k v c a0 a1 s).rsv = s.rsv := Eq.refl _
@[simp] theorem addLog_mmu (h k v c a0 a1 : Nat) : (addLog h k v c a0 a1 s).mmu = s.mmu := Eq.refl _
@[simp] theorem addLog_mlr (h k v c a0 a1 : Nat) : (addLog h k v c a0 a1 s).mlr = s.mlr := Eq.refl _
@[simp] theorem addLog_rfl (h k v c a0 a1 : Nat) : (addLog h k v c a0 a1 s).rfl = s.rfl := Eq.refl _
@[simp] theorem addLog_jq (h k v c a0 a1 : Nat) : (addLog h k v c a0 a1 s).jq = s.jq := Eq.refl _
@[simp] theorem addLog_clk (h k v c a0 a1 : Nat) : (addLog h k v c a0 a1 s).clk = s.clk := Eq.refl _
@[simp] theorem addLog_evt (h k v c a0 a1 : Nat) : (addLog h k v c a0 a1 s).evt = s.evt := Eq.refl _
@[simp] theorem addLog_ing (h k v c a0 a1 : Nat) : (addLog h k v c a0 a1 s).ing = s.ing := Eq.refl _
@[simp] theorem addLog_rch (h k v c a0 a1 : Nat) : (addLog h k v c a0 a1 s).rch = s.rch := Eq.refl _
@[simp] theorem addLog_slt (h k v c a0 a1 : Nat) : (addLog h k v c a0 a1 s).slt = s.slt := Eq.refl _
@[simp] theorem addLog_trb (h k v c a0 a1 : Nat) : (addLog h k v c a0 a1 s).trb = s.trb := Eq.refl _
@[simp] theorem addLog_weir (h k v c a0 a1 : Nat) : (addLog h k v c a0 a1 s).weir = s.weir := Eq.refl _
@[simp] theorem addLog_ptp (h k v c a0 a1 : Nat) : (addLog h k v c a0 a1 s).ptp = s.ptp := Eq.refl _
@[simp] theorem addLog_dsp (h k v c a0 a1 : Nat) : (addLog h k v c a0 a1 s).dsp = s.dsp := Eq.refl _
@[simp] theorem addLog_net (h k v c a0 a1 : Nat) : (addLog h k v c a0 a1 s).net = s.net := Eq.refl _
@[simp] theorem addLog_brk (h k v c a0 a1 : Nat) : (addLog h k v c a0 a1 s).brk = s.brk := Eq.refl _
@[simp] theorem addLog_perf (h k v c a0 a1 : Nat) : (addLog h k v c a0 a1 s).perf = s.perf := Eq.refl _
@[simp] theorem addLog_boot (h k v c a0 a1 : Nat) : (addLog h k v c a0 a1 s).boot = s.boot := Eq.refl _

@[simp] theorem addLatency_pending (c i t : Nat) : (addLatency c i t s).pending = s.pending := Eq.refl _
@[simp] theorem addLatency_tclk (c i t : Nat) : (addLatency c i t s).tclk = s.tclk := Eq.refl _
@[simp] theorem addLatency_freeCtr (c i t : Nat) : (addLatency c i t s).freeCtr = s.freeCtr := Eq.refl _
@[simp] theorem addLatency_regs (c i t : Nat) : (addLatency c i t s).regs = s.regs := Eq.refl _
@[simp] theorem addLatency_shadow (c i t : Nat) : (addLatency c i t s).shadow = s.shadow := Eq.refl _
@[simp] theorem addLatency_snaps (c i t : Nat) : (addLatency c i t s).snaps = s.snaps := Eq.refl _
@[simp] theorem addLatency_latch (c i t : Nat) : (addLatency c i t s).latch = s.latch := Eq.refl _
@[simp] theorem addLatency_mem (c i t : Nat) : (addLatency c i t s).mem = s.mem := Eq.refl _
@[simp] theorem addLatency_poison (c i t : Nat) : (addLatency c i t s).poison = s.poison := Eq.refl _
@[simp] theorem addLatency_rsv (c i t : Nat) : (addLatency c i t s).rsv = s.rsv := Eq.refl _
@[simp] theorem addLatency_mmu (c i t : Nat) : (addLatency c i t s).mmu = s.mmu := Eq.refl _
@[simp] theorem addLatency_mlr (c i t : Nat) : (addLatency c i t s).mlr = s.mlr := Eq.refl _
@[simp] theorem addLatency_rfl (c i t : Nat) : (addLatency c i t s).rfl = s.rfl := Eq.refl _
@[simp] theorem addLatency_jq (c i t : Nat) : (addLatency c i t s).jq = s.jq := Eq.refl _
@[simp] theorem addLatency_clk (c i t : Nat) : (addLatency c i t s).clk = s.clk := Eq.refl _
@[simp] theorem addLatency_evt (c i t : Nat) : (addLatency c i t s).evt = s.evt := Eq.refl _
@[simp] theorem addLatency_ing (c i t : Nat) : (addLatency c i t s).ing = s.ing := Eq.refl _
@[simp] theorem addLatency_rch (c i t : Nat) : (addLatency c i t s).rch = s.rch := Eq.refl _
@[simp] theorem addLatency_slt (c i t : Nat) : (addLatency c i t s).slt = s.slt := Eq.refl _
@[simp] theorem addLatency_trb (c i t : Nat) : (addLatency c i t s).trb = s.trb := Eq.refl _
@[simp] theorem addLatency_weir (c i t : Nat) : (addLatency c i t s).weir = s.weir := Eq.refl _
@[simp] theorem addLatency_ptp (c i t : Nat) : (addLatency c i t s).ptp = s.ptp := Eq.refl _
@[simp] theorem addLatency_dsp (c i t : Nat) : (addLatency c i t s).dsp = s.dsp := Eq.refl _
@[simp] theorem addLatency_net (c i t : Nat) : (addLatency c i t s).net = s.net := Eq.refl _
@[simp] theorem addLatency_brk (c i t : Nat) : (addLatency c i t s).brk = s.brk := Eq.refl _
@[simp] theorem addLatency_perf (c i t : Nat) : (addLatency c i t s).perf = s.perf := Eq.refl _
@[simp] theorem addLatency_boot (c i t : Nat) : (addLatency c i t s).boot = s.boot := Eq.refl _

@[simp] theorem clearFault_pending (h b : Nat) : (clearFault h b s).pending = s.pending := Eq.refl _
@[simp] theorem clearFault_tclk (h b : Nat) : (clearFault h b s).tclk = s.tclk := Eq.refl _
@[simp] theorem clearFault_freeCtr (h b : Nat) : (clearFault h b s).freeCtr = s.freeCtr := Eq.refl _
@[simp] theorem clearFault_regs (h b : Nat) : (clearFault h b s).regs = s.regs := Eq.refl _
@[simp] theorem clearFault_shadow (h b : Nat) : (clearFault h b s).shadow = s.shadow := Eq.refl _
@[simp] theorem clearFault_snaps (h b : Nat) : (clearFault h b s).snaps = s.snaps := Eq.refl _
@[simp] theorem clearFault_latch (h b : Nat) : (clearFault h b s).latch = s.latch := Eq.refl _
@[simp] theorem clearFault_mem (h b : Nat) : (clearFault h b s).mem = s.mem := Eq.refl _
@[simp] theorem clearFault_poison (h b : Nat) : (clearFault h b s).poison = s.poison := Eq.refl _
@[simp] theorem clearFault_rsv (h b : Nat) : (clearFault h b s).rsv = s.rsv := Eq.refl _
@[simp] theorem clearFault_mmu (h b : Nat) : (clearFault h b s).mmu = s.mmu := Eq.refl _
@[simp] theorem clearFault_mlr (h b : Nat) : (clearFault h b s).mlr = s.mlr := Eq.refl _
@[simp] theorem clearFault_rfl (h b : Nat) : (clearFault h b s).rfl = s.rfl := Eq.refl _
@[simp] theorem clearFault_jq (h b : Nat) : (clearFault h b s).jq = s.jq := Eq.refl _
@[simp] theorem clearFault_clk (h b : Nat) : (clearFault h b s).clk = s.clk := Eq.refl _
@[simp] theorem clearFault_evt (h b : Nat) : (clearFault h b s).evt = s.evt := Eq.refl _
@[simp] theorem clearFault_ing (h b : Nat) : (clearFault h b s).ing = s.ing := Eq.refl _
@[simp] theorem clearFault_rch (h b : Nat) : (clearFault h b s).rch = s.rch := Eq.refl _
@[simp] theorem clearFault_slt (h b : Nat) : (clearFault h b s).slt = s.slt := Eq.refl _
@[simp] theorem clearFault_trb (h b : Nat) : (clearFault h b s).trb = s.trb := Eq.refl _
@[simp] theorem clearFault_weir (h b : Nat) : (clearFault h b s).weir = s.weir := Eq.refl _
@[simp] theorem clearFault_ptp (h b : Nat) : (clearFault h b s).ptp = s.ptp := Eq.refl _
@[simp] theorem clearFault_dsp (h b : Nat) : (clearFault h b s).dsp = s.dsp := Eq.refl _
@[simp] theorem clearFault_net (h b : Nat) : (clearFault h b s).net = s.net := Eq.refl _
@[simp] theorem clearFault_brk (h b : Nat) : (clearFault h b s).brk = s.brk := Eq.refl _
@[simp] theorem clearFault_perf (h b : Nat) : (clearFault h b s).perf = s.perf := Eq.refl _
@[simp] theorem clearFault_boot (h b : Nat) : (clearFault h b s).boot = s.boot := Eq.refl _

@[simp] theorem startBusy_pending (h c : Nat) : (startBusy h c s).pending = s.pending := Eq.refl _
@[simp] theorem startBusy_tclk (h c : Nat) : (startBusy h c s).tclk = s.tclk := Eq.refl _
@[simp] theorem startBusy_freeCtr (h c : Nat) : (startBusy h c s).freeCtr = s.freeCtr := Eq.refl _
@[simp] theorem startBusy_regs (h c : Nat) : (startBusy h c s).regs = s.regs := Eq.refl _
@[simp] theorem startBusy_shadow (h c : Nat) : (startBusy h c s).shadow = s.shadow := Eq.refl _
@[simp] theorem startBusy_snaps (h c : Nat) : (startBusy h c s).snaps = s.snaps := Eq.refl _
@[simp] theorem startBusy_latch (h c : Nat) : (startBusy h c s).latch = s.latch := Eq.refl _
@[simp] theorem startBusy_mem (h c : Nat) : (startBusy h c s).mem = s.mem := Eq.refl _
@[simp] theorem startBusy_poison (h c : Nat) : (startBusy h c s).poison = s.poison := Eq.refl _
@[simp] theorem startBusy_rsv (h c : Nat) : (startBusy h c s).rsv = s.rsv := Eq.refl _
@[simp] theorem startBusy_mmu (h c : Nat) : (startBusy h c s).mmu = s.mmu := Eq.refl _
@[simp] theorem startBusy_mlr (h c : Nat) : (startBusy h c s).mlr = s.mlr := Eq.refl _
@[simp] theorem startBusy_rfl (h c : Nat) : (startBusy h c s).rfl = s.rfl := Eq.refl _
@[simp] theorem startBusy_jq (h c : Nat) : (startBusy h c s).jq = s.jq := Eq.refl _
@[simp] theorem startBusy_clk (h c : Nat) : (startBusy h c s).clk = s.clk := Eq.refl _
@[simp] theorem startBusy_evt (h c : Nat) : (startBusy h c s).evt = s.evt := Eq.refl _
@[simp] theorem startBusy_ing (h c : Nat) : (startBusy h c s).ing = s.ing := Eq.refl _
@[simp] theorem startBusy_rch (h c : Nat) : (startBusy h c s).rch = s.rch := Eq.refl _
@[simp] theorem startBusy_slt (h c : Nat) : (startBusy h c s).slt = s.slt := Eq.refl _
@[simp] theorem startBusy_trb (h c : Nat) : (startBusy h c s).trb = s.trb := Eq.refl _
@[simp] theorem startBusy_weir (h c : Nat) : (startBusy h c s).weir = s.weir := Eq.refl _
@[simp] theorem startBusy_ptp (h c : Nat) : (startBusy h c s).ptp = s.ptp := Eq.refl _
@[simp] theorem startBusy_dsp (h c : Nat) : (startBusy h c s).dsp = s.dsp := Eq.refl _
@[simp] theorem startBusy_net (h c : Nat) : (startBusy h c s).net = s.net := Eq.refl _
@[simp] theorem startBusy_brk (h c : Nat) : (startBusy h c s).brk = s.brk := Eq.refl _
@[simp] theorem startBusy_perf (h c : Nat) : (startBusy h c s).perf = s.perf := Eq.refl _
@[simp] theorem startBusy_boot (h c : Nat) : (startBusy h c s).boot = s.boot := Eq.refl _

@[simp] theorem setFault_pending (h b : Nat) : (setFault h b s).pending = s.pending := by unfold setFault; split <;> rfl
@[simp] theorem setFault_tclk (h b : Nat) : (setFault h b s).tclk = s.tclk := by unfold setFault; split <;> rfl
@[simp] theorem setFault_freeCtr (h b : Nat) : (setFault h b s).freeCtr = s.freeCtr := by unfold setFault; split <;> rfl
@[simp] theorem setFault_regs (h b : Nat) : (setFault h b s).regs = s.regs := by unfold setFault; split <;> rfl
@[simp] theorem setFault_shadow (h b : Nat) : (setFault h b s).shadow = s.shadow := by unfold setFault; split <;> rfl
@[simp] theorem setFault_snaps (h b : Nat) : (setFault h b s).snaps = s.snaps := by unfold setFault; split <;> rfl
@[simp] theorem setFault_latch (h b : Nat) : (setFault h b s).latch = s.latch := by unfold setFault; split <;> rfl
@[simp] theorem setFault_mem (h b : Nat) : (setFault h b s).mem = s.mem := by unfold setFault; split <;> rfl
@[simp] theorem setFault_poison (h b : Nat) : (setFault h b s).poison = s.poison := by unfold setFault; split <;> rfl
@[simp] theorem setFault_rsv (h b : Nat) : (setFault h b s).rsv = s.rsv := by unfold setFault; split <;> rfl
@[simp] theorem setFault_mmu (h b : Nat) : (setFault h b s).mmu = s.mmu := by unfold setFault; split <;> rfl
@[simp] theorem setFault_mlr (h b : Nat) : (setFault h b s).mlr = s.mlr := by unfold setFault; split <;> rfl
@[simp] theorem setFault_rfl (h b : Nat) : (setFault h b s).rfl = s.rfl := by unfold setFault; split <;> rfl
@[simp] theorem setFault_jq (h b : Nat) : (setFault h b s).jq = s.jq := by unfold setFault; split <;> rfl
@[simp] theorem setFault_clk (h b : Nat) : (setFault h b s).clk = s.clk := by unfold setFault; split <;> rfl
@[simp] theorem setFault_evt (h b : Nat) : (setFault h b s).evt = s.evt := by unfold setFault; split <;> rfl
@[simp] theorem setFault_ing (h b : Nat) : (setFault h b s).ing = s.ing := by unfold setFault; split <;> rfl
@[simp] theorem setFault_rch (h b : Nat) : (setFault h b s).rch = s.rch := by unfold setFault; split <;> rfl
@[simp] theorem setFault_slt (h b : Nat) : (setFault h b s).slt = s.slt := by unfold setFault; split <;> rfl
@[simp] theorem setFault_trb (h b : Nat) : (setFault h b s).trb = s.trb := by unfold setFault; split <;> rfl
@[simp] theorem setFault_weir (h b : Nat) : (setFault h b s).weir = s.weir := by unfold setFault; split <;> rfl
@[simp] theorem setFault_ptp (h b : Nat) : (setFault h b s).ptp = s.ptp := by unfold setFault; split <;> rfl
@[simp] theorem setFault_dsp (h b : Nat) : (setFault h b s).dsp = s.dsp := by unfold setFault; split <;> rfl
@[simp] theorem setFault_net (h b : Nat) : (setFault h b s).net = s.net := by unfold setFault; split <;> rfl
@[simp] theorem setFault_brk (h b : Nat) : (setFault h b s).brk = s.brk := by unfold setFault; split <;> rfl
@[simp] theorem setFault_perf (h b : Nat) : (setFault h b s).perf = s.perf := by unfold setFault; split <;> rfl
@[simp] theorem setFault_boot (h b : Nat) : (setFault h b s).boot = s.boot := by unfold setFault; split <;> rfl

@[simp] theorem putFault_pending (h b : Nat) (v : Bool) : (putFault h b v s).pending = s.pending := by cases v <;> simp [putFault]
@[simp] theorem putFault_tclk (h b : Nat) (v : Bool) : (putFault h b v s).tclk = s.tclk := by cases v <;> simp [putFault]
@[simp] theorem putFault_freeCtr (h b : Nat) (v : Bool) : (putFault h b v s).freeCtr = s.freeCtr := by cases v <;> simp [putFault]
@[simp] theorem putFault_regs (h b : Nat) (v : Bool) : (putFault h b v s).regs = s.regs := by cases v <;> simp [putFault]
@[simp] theorem putFault_shadow (h b : Nat) (v : Bool) : (putFault h b v s).shadow = s.shadow := by cases v <;> simp [putFault]
@[simp] theorem putFault_snaps (h b : Nat) (v : Bool) : (putFault h b v s).snaps = s.snaps := by cases v <;> simp [putFault]
@[simp] theorem putFault_latch (h b : Nat) (v : Bool) : (putFault h b v s).latch = s.latch := by cases v <;> simp [putFault]
@[simp] theorem putFault_mem (h b : Nat) (v : Bool) : (putFault h b v s).mem = s.mem := by cases v <;> simp [putFault]
@[simp] theorem putFault_poison (h b : Nat) (v : Bool) : (putFault h b v s).poison = s.poison := by cases v <;> simp [putFault]
@[simp] theorem putFault_rsv (h b : Nat) (v : Bool) : (putFault h b v s).rsv = s.rsv := by cases v <;> simp [putFault]
@[simp] theorem putFault_mmu (h b : Nat) (v : Bool) : (putFault h b v s).mmu = s.mmu := by cases v <;> simp [putFault]
@[simp] theorem putFault_mlr (h b : Nat) (v : Bool) : (putFault h b v s).mlr = s.mlr := by cases v <;> simp [putFault]
@[simp] theorem putFault_rfl (h b : Nat) (v : Bool) : (putFault h b v s).rfl = s.rfl := by cases v <;> simp [putFault]
@[simp] theorem putFault_jq (h b : Nat) (v : Bool) : (putFault h b v s).jq = s.jq := by cases v <;> simp [putFault]
@[simp] theorem putFault_clk (h b : Nat) (v : Bool) : (putFault h b v s).clk = s.clk := by cases v <;> simp [putFault]
@[simp] theorem putFault_evt (h b : Nat) (v : Bool) : (putFault h b v s).evt = s.evt := by cases v <;> simp [putFault]
@[simp] theorem putFault_ing (h b : Nat) (v : Bool) : (putFault h b v s).ing = s.ing := by cases v <;> simp [putFault]
@[simp] theorem putFault_rch (h b : Nat) (v : Bool) : (putFault h b v s).rch = s.rch := by cases v <;> simp [putFault]
@[simp] theorem putFault_slt (h b : Nat) (v : Bool) : (putFault h b v s).slt = s.slt := by cases v <;> simp [putFault]
@[simp] theorem putFault_trb (h b : Nat) (v : Bool) : (putFault h b v s).trb = s.trb := by cases v <;> simp [putFault]
@[simp] theorem putFault_weir (h b : Nat) (v : Bool) : (putFault h b v s).weir = s.weir := by cases v <;> simp [putFault]
@[simp] theorem putFault_ptp (h b : Nat) (v : Bool) : (putFault h b v s).ptp = s.ptp := by cases v <;> simp [putFault]
@[simp] theorem putFault_dsp (h b : Nat) (v : Bool) : (putFault h b v s).dsp = s.dsp := by cases v <;> simp [putFault]
@[simp] theorem putFault_net (h b : Nat) (v : Bool) : (putFault h b v s).net = s.net := by cases v <;> simp [putFault]
@[simp] theorem putFault_brk (h b : Nat) (v : Bool) : (putFault h b v s).brk = s.brk := by cases v <;> simp [putFault]
@[simp] theorem putFault_perf (h b : Nat) (v : Bool) : (putFault h b v s).perf = s.perf := by cases v <;> simp [putFault]
@[simp] theorem putFault_boot (h b : Nat) (v : Bool) : (putFault h b v s).boot = s.boot := by cases v <;> simp [putFault]

@[simp] theorem finish_pending (h c : Nat) (x : Code) : (finish h c x s).pending = s.pending := by cases x <;> rfl
@[simp] theorem finish_tclk (h c : Nat) (x : Code) : (finish h c x s).tclk = s.tclk := by cases x <;> rfl
@[simp] theorem finish_freeCtr (h c : Nat) (x : Code) : (finish h c x s).freeCtr = s.freeCtr := by cases x <;> rfl
@[simp] theorem finish_regs (h c : Nat) (x : Code) : (finish h c x s).regs = s.regs := by cases x <;> rfl
@[simp] theorem finish_shadow (h c : Nat) (x : Code) : (finish h c x s).shadow = s.shadow := by cases x <;> rfl
@[simp] theorem finish_snaps (h c : Nat) (x : Code) : (finish h c x s).snaps = s.snaps := by cases x <;> rfl
@[simp] theorem finish_latch (h c : Nat) (x : Code) : (finish h c x s).latch = s.latch := by cases x <;> rfl
@[simp] theorem finish_mem (h c : Nat) (x : Code) : (finish h c x s).mem = s.mem := by cases x <;> rfl
@[simp] theorem finish_poison (h c : Nat) (x : Code) : (finish h c x s).poison = s.poison := by cases x <;> rfl
@[simp] theorem finish_rsv (h c : Nat) (x : Code) : (finish h c x s).rsv = s.rsv := by cases x <;> rfl
@[simp] theorem finish_mmu (h c : Nat) (x : Code) : (finish h c x s).mmu = s.mmu := by cases x <;> rfl
@[simp] theorem finish_mlr (h c : Nat) (x : Code) : (finish h c x s).mlr = s.mlr := by cases x <;> rfl
@[simp] theorem finish_rfl (h c : Nat) (x : Code) : (finish h c x s).rfl = s.rfl := by cases x <;> rfl
@[simp] theorem finish_jq (h c : Nat) (x : Code) : (finish h c x s).jq = s.jq := by cases x <;> rfl
@[simp] theorem finish_clk (h c : Nat) (x : Code) : (finish h c x s).clk = s.clk := by cases x <;> rfl
@[simp] theorem finish_evt (h c : Nat) (x : Code) : (finish h c x s).evt = s.evt := by cases x <;> rfl
@[simp] theorem finish_ing (h c : Nat) (x : Code) : (finish h c x s).ing = s.ing := by cases x <;> rfl
@[simp] theorem finish_rch (h c : Nat) (x : Code) : (finish h c x s).rch = s.rch := by cases x <;> rfl
@[simp] theorem finish_slt (h c : Nat) (x : Code) : (finish h c x s).slt = s.slt := by cases x <;> rfl
@[simp] theorem finish_trb (h c : Nat) (x : Code) : (finish h c x s).trb = s.trb := by cases x <;> rfl
@[simp] theorem finish_weir (h c : Nat) (x : Code) : (finish h c x s).weir = s.weir := by cases x <;> rfl
@[simp] theorem finish_ptp (h c : Nat) (x : Code) : (finish h c x s).ptp = s.ptp := by cases x <;> rfl
@[simp] theorem finish_dsp (h c : Nat) (x : Code) : (finish h c x s).dsp = s.dsp := by cases x <;> rfl
@[simp] theorem finish_net (h c : Nat) (x : Code) : (finish h c x s).net = s.net := by cases x <;> rfl
@[simp] theorem finish_brk (h c : Nat) (x : Code) : (finish h c x s).brk = s.brk := by cases x <;> rfl
@[simp] theorem finish_perf (h c : Nat) (x : Code) : (finish h c x s).perf = s.perf := by cases x <;> rfl
@[simp] theorem finish_boot (h c : Nat) (x : Code) : (finish h c x s).boot = s.boot := by cases x <;> rfl

@[simp] theorem takeSnap_pending (h : Nat) : (takeSnap h s).pending = s.pending := Eq.refl _
@[simp] theorem takeSnap_tclk (h : Nat) : (takeSnap h s).tclk = s.tclk := Eq.refl _
@[simp] theorem takeSnap_freeCtr (h : Nat) : (takeSnap h s).freeCtr = s.freeCtr := Eq.refl _
@[simp] theorem takeSnap_regs (h : Nat) : (takeSnap h s).regs = s.regs := Eq.refl _
@[simp] theorem takeSnap_shadow (h : Nat) : (takeSnap h s).shadow = s.shadow := Eq.refl _
@[simp] theorem takeSnap_latch (h : Nat) : (takeSnap h s).latch = s.latch := Eq.refl _
@[simp] theorem takeSnap_rep (h : Nat) : (takeSnap h s).rep = s.rep := Eq.refl _
@[simp] theorem takeSnap_mem (h : Nat) : (takeSnap h s).mem = s.mem := Eq.refl _
@[simp] theorem takeSnap_poison (h : Nat) : (takeSnap h s).poison = s.poison := Eq.refl _
@[simp] theorem takeSnap_rsv (h : Nat) : (takeSnap h s).rsv = s.rsv := Eq.refl _
@[simp] theorem takeSnap_mmu (h : Nat) : (takeSnap h s).mmu = s.mmu := Eq.refl _
@[simp] theorem takeSnap_mlr (h : Nat) : (takeSnap h s).mlr = s.mlr := Eq.refl _
@[simp] theorem takeSnap_rfl (h : Nat) : (takeSnap h s).rfl = s.rfl := Eq.refl _
@[simp] theorem takeSnap_jq (h : Nat) : (takeSnap h s).jq = s.jq := Eq.refl _
@[simp] theorem takeSnap_clk (h : Nat) : (takeSnap h s).clk = s.clk := Eq.refl _
@[simp] theorem takeSnap_evt (h : Nat) : (takeSnap h s).evt = s.evt := Eq.refl _
@[simp] theorem takeSnap_ing (h : Nat) : (takeSnap h s).ing = s.ing := Eq.refl _
@[simp] theorem takeSnap_rch (h : Nat) : (takeSnap h s).rch = s.rch := Eq.refl _
@[simp] theorem takeSnap_slt (h : Nat) : (takeSnap h s).slt = s.slt := Eq.refl _
@[simp] theorem takeSnap_trb (h : Nat) : (takeSnap h s).trb = s.trb := Eq.refl _
@[simp] theorem takeSnap_weir (h : Nat) : (takeSnap h s).weir = s.weir := Eq.refl _
@[simp] theorem takeSnap_ptp (h : Nat) : (takeSnap h s).ptp = s.ptp := Eq.refl _
@[simp] theorem takeSnap_dsp (h : Nat) : (takeSnap h s).dsp = s.dsp := Eq.refl _
@[simp] theorem takeSnap_net (h : Nat) : (takeSnap h s).net = s.net := Eq.refl _
@[simp] theorem takeSnap_brk (h : Nat) : (takeSnap h s).brk = s.brk := Eq.refl _
@[simp] theorem takeSnap_perf (h : Nat) : (takeSnap h s).perf = s.perf := Eq.refl _
@[simp] theorem takeSnap_boot (h : Nat) : (takeSnap h s).boot = s.boot := Eq.refl _

@[simp] theorem dropSnap_pending (h : Nat) : (dropSnap h s).pending = s.pending := Eq.refl _
@[simp] theorem dropSnap_tclk (h : Nat) : (dropSnap h s).tclk = s.tclk := Eq.refl _
@[simp] theorem dropSnap_freeCtr (h : Nat) : (dropSnap h s).freeCtr = s.freeCtr := Eq.refl _
@[simp] theorem dropSnap_regs (h : Nat) : (dropSnap h s).regs = s.regs := Eq.refl _
@[simp] theorem dropSnap_shadow (h : Nat) : (dropSnap h s).shadow = s.shadow := Eq.refl _
@[simp] theorem dropSnap_latch (h : Nat) : (dropSnap h s).latch = s.latch := Eq.refl _
@[simp] theorem dropSnap_rep (h : Nat) : (dropSnap h s).rep = s.rep := Eq.refl _
@[simp] theorem dropSnap_mem (h : Nat) : (dropSnap h s).mem = s.mem := Eq.refl _
@[simp] theorem dropSnap_poison (h : Nat) : (dropSnap h s).poison = s.poison := Eq.refl _
@[simp] theorem dropSnap_rsv (h : Nat) : (dropSnap h s).rsv = s.rsv := Eq.refl _
@[simp] theorem dropSnap_mmu (h : Nat) : (dropSnap h s).mmu = s.mmu := Eq.refl _
@[simp] theorem dropSnap_mlr (h : Nat) : (dropSnap h s).mlr = s.mlr := Eq.refl _
@[simp] theorem dropSnap_rfl (h : Nat) : (dropSnap h s).rfl = s.rfl := Eq.refl _
@[simp] theorem dropSnap_jq (h : Nat) : (dropSnap h s).jq = s.jq := Eq.refl _
@[simp] theorem dropSnap_clk (h : Nat) : (dropSnap h s).clk = s.clk := Eq.refl _
@[simp] theorem dropSnap_evt (h : Nat) : (dropSnap h s).evt = s.evt := Eq.refl _
@[simp] theorem dropSnap_ing (h : Nat) : (dropSnap h s).ing = s.ing := Eq.refl _
@[simp] theorem dropSnap_rch (h : Nat) : (dropSnap h s).rch = s.rch := Eq.refl _
@[simp] theorem dropSnap_slt (h : Nat) : (dropSnap h s).slt = s.slt := Eq.refl _
@[simp] theorem dropSnap_trb (h : Nat) : (dropSnap h s).trb = s.trb := Eq.refl _
@[simp] theorem dropSnap_weir (h : Nat) : (dropSnap h s).weir = s.weir := Eq.refl _
@[simp] theorem dropSnap_ptp (h : Nat) : (dropSnap h s).ptp = s.ptp := Eq.refl _
@[simp] theorem dropSnap_dsp (h : Nat) : (dropSnap h s).dsp = s.dsp := Eq.refl _
@[simp] theorem dropSnap_net (h : Nat) : (dropSnap h s).net = s.net := Eq.refl _
@[simp] theorem dropSnap_brk (h : Nat) : (dropSnap h s).brk = s.brk := Eq.refl _
@[simp] theorem dropSnap_perf (h : Nat) : (dropSnap h s).perf = s.perf := Eq.refl _
@[simp] theorem dropSnap_boot (h : Nat) : (dropSnap h s).boot = s.boot := Eq.refl _

@[simp] theorem journal_pending (t k : Nat) (v : List Int) : (journal t k v s).pending = s.pending := Eq.refl _
@[simp] theorem journal_tclk (t k : Nat) (v : List Int) : (journal t k v s).tclk = s.tclk := Eq.refl _
@[simp] theorem journal_freeCtr (t k : Nat) (v : List Int) : (journal t k v s).freeCtr = s.freeCtr := Eq.refl _
@[simp] theorem journal_regs (t k : Nat) (v : List Int) : (journal t k v s).regs = s.regs := Eq.refl _
@[simp] theorem journal_shadow (t k : Nat) (v : List Int) : (journal t k v s).shadow = s.shadow := Eq.refl _
@[simp] theorem journal_snaps (t k : Nat) (v : List Int) : (journal t k v s).snaps = s.snaps := Eq.refl _
@[simp] theorem journal_latch (t k : Nat) (v : List Int) : (journal t k v s).latch = s.latch := Eq.refl _
@[simp] theorem journal_rep (t k : Nat) (v : List Int) : (journal t k v s).rep = s.rep := Eq.refl _
@[simp] theorem journal_mem (t k : Nat) (v : List Int) : (journal t k v s).mem = s.mem := Eq.refl _
@[simp] theorem journal_poison (t k : Nat) (v : List Int) : (journal t k v s).poison = s.poison := Eq.refl _
@[simp] theorem journal_rsv (t k : Nat) (v : List Int) : (journal t k v s).rsv = s.rsv := Eq.refl _
@[simp] theorem journal_mmu (t k : Nat) (v : List Int) : (journal t k v s).mmu = s.mmu := Eq.refl _
@[simp] theorem journal_mlr (t k : Nat) (v : List Int) : (journal t k v s).mlr = s.mlr := Eq.refl _
@[simp] theorem journal_rfl (t k : Nat) (v : List Int) : (journal t k v s).rfl = s.rfl := Eq.refl _
@[simp] theorem journal_clk (t k : Nat) (v : List Int) : (journal t k v s).clk = s.clk := Eq.refl _
@[simp] theorem journal_evt (t k : Nat) (v : List Int) : (journal t k v s).evt = s.evt := Eq.refl _
@[simp] theorem journal_ing (t k : Nat) (v : List Int) : (journal t k v s).ing = s.ing := Eq.refl _
@[simp] theorem journal_rch (t k : Nat) (v : List Int) : (journal t k v s).rch = s.rch := Eq.refl _
@[simp] theorem journal_slt (t k : Nat) (v : List Int) : (journal t k v s).slt = s.slt := Eq.refl _
@[simp] theorem journal_trb (t k : Nat) (v : List Int) : (journal t k v s).trb = s.trb := Eq.refl _
@[simp] theorem journal_weir (t k : Nat) (v : List Int) : (journal t k v s).weir = s.weir := Eq.refl _
@[simp] theorem journal_ptp (t k : Nat) (v : List Int) : (journal t k v s).ptp = s.ptp := Eq.refl _
@[simp] theorem journal_dsp (t k : Nat) (v : List Int) : (journal t k v s).dsp = s.dsp := Eq.refl _
@[simp] theorem journal_net (t k : Nat) (v : List Int) : (journal t k v s).net = s.net := Eq.refl _
@[simp] theorem journal_brk (t k : Nat) (v : List Int) : (journal t k v s).brk = s.brk := Eq.refl _
@[simp] theorem journal_perf (t k : Nat) (v : List Int) : (journal t k v s).perf = s.perf := Eq.refl _
@[simp] theorem journal_boot (t k : Nat) (v : List Int) : (journal t k v s).boot = s.boot := Eq.refl _

/-! Registers: what a read gives after a write. -/

theorem State.word_congr {s t : State} (h : t.regs = s.regs) (o : Nat) : t.word o = s.word o := by
  unfold State.word; rw [h]

theorem State.wordN_congr {s t : State} (h : t.regs = s.regs) (o : Nat) : t.wordN o = s.wordN o := by
  unfold State.wordN; rw [State.word_congr h]

theorem State.fld_congr {s t : State} (h : t.regs = s.regs) (l : Loc) : t.fld l = s.fld l := by
  unfold State.fld; rw [State.wordN_congr h]

theorem State.word_setWord (o v j : Nat) :
    (s.setWord o v).word j = if o = j then BitVec.ofNat 32 v else s.word j := by
  unfold State.word State.setWord
  by_cases h : o = j <;> simp [Tbl.find_set, h]

@[simp] theorem State.word_setWord_same (o v : Nat) : (s.setWord o v).word o = BitVec.ofNat 32 v := by
  simp [State.word_setWord]

theorem State.word_setWord_ne {o j : Nat} (v : Nat) (h : o ≠ j) : (s.setWord o v).word j = s.word j := by
  simp [State.word_setWord, h]

theorem State.wordN_setWord (o v j : Nat) :
    (s.setWord o v).wordN j = if o = j then v % 2 ^ 32 else s.wordN j := by
  unfold State.wordN; rw [State.word_setWord]; split <;> simp

theorem State.wordN_lt (o : Nat) : s.wordN o < 2 ^ 32 := (s.word o).isLt

theorem State.word_setFld_ne {l : Loc} {j : Nat} (v : Nat) (h : l.off ≠ j) : (s.setFld l v).word j = s.word j :=
  State.word_setWord_ne s _ h

theorem State.wordN_setFld (l : Loc) (v j : Nat) :
    (s.setFld l v).wordN j = if l.off = j then putBits (s.wordN l.off) l.hi l.lo v % 2 ^ 32 else s.wordN j :=
  State.wordN_setWord ..

/-- A field put into a word reads back, cut to its width. -/
theorem bits_putBits_same (w hi lo v : Nat) (h : lo ≤ hi) : bits (putBits w hi lo v) hi lo = v % 2 ^ (hi + 1 - lo) := by
  have h1 : 2 ^ (hi + 1) = 2 ^ (hi + 1 - lo) * 2 ^ lo := by rw [← Nat.pow_add]; congr 1; omega
  have h2 : 0 < 2 ^ lo := by positivity
  have h3 : w % 2 ^ lo / 2 ^ lo = 0 := Nat.div_eq_of_lt (Nat.mod_lt _ h2)
  unfold bits putBits
  rw [h1, ← Nat.mul_assoc, ← Nat.add_mul, Nat.add_comm (_ * _) (w % _), Nat.add_mul_div_right _ _ h2, h3]
  simp [Nat.add_mod]

/-- A field put into a word leaves the bits below it. -/
theorem bits_putBits_below (w hi lo v h' l' : Nat) (h1 : h' < lo) (h2 : lo ≤ hi) :
    bits (putBits w hi lo v) h' l' = bits w h' l' := by
  unfold bits
  by_cases hl : l' ≤ h'
  · have e1 : 2 ^ lo = 2 ^ (lo - (h' + 1)) * (2 ^ (h' + 1 - l') * 2 ^ l') := by
      rw [← Nat.pow_add, ← Nat.pow_add]; congr 1; omega
    have e2 : 2 ^ (hi + 1) = 2 ^ (hi + 1 - lo) * 2 ^ lo := by rw [← Nat.pow_add]; congr 1; omega
    have e3 : putBits w hi lo v = w % 2 ^ lo + (w / 2 ^ (hi + 1) * 2 ^ (hi + 1 - lo) + v % 2 ^ (hi + 1 - lo)) * 2 ^ lo := by
      unfold putBits; rw [e2]; ring
    have hp : 0 < 2 ^ l' := by positivity
    have key : ∀ x y : Nat, (x % 2 ^ lo + y * 2 ^ lo) / 2 ^ l' % 2 ^ (h' + 1 - l') = x / 2 ^ l' % 2 ^ (h' + 1 - l') := by
      intro x y
      have d1 : ∀ z : Nat, z / 2 ^ l' % 2 ^ (h' + 1 - l') = z % (2 ^ l' * 2 ^ (h' + 1 - l')) / 2 ^ l' := fun z => (Nat.mod_mul_right_div_self ..).symm
      rw [d1, d1]
      congr 1
      have e4 : 2 ^ lo = 2 ^ l' * 2 ^ (h' + 1 - l') * 2 ^ (lo - (h' + 1)) := by rw [e1]; ring
      rw [e4, Nat.add_mod, Nat.mul_mod y, Nat.mod_mul_right_mod]
      simp
    rw [e3, key]
  · have : h' + 1 - l' = 0 := by omega
    simp [this, Nat.mod_one]

/-- A field put into a word leaves the bits above it. -/
theorem bits_putBits_above (w hi lo v h' l' : Nat) (h1 : hi < l') (h2 : lo ≤ hi) :
    bits (putBits w hi lo v) h' l' = bits w h' l' := by
  have e2 : 2 ^ (hi + 1) = 2 ^ (hi + 1 - lo) * 2 ^ lo := by rw [← Nat.pow_add]; congr 1; omega
  have e3 : 2 ^ l' = 2 ^ (hi + 1) * 2 ^ (l' - (hi + 1)) := by rw [← Nat.pow_add]; congr 1; omega
  have a2 : v % 2 ^ (hi + 1 - lo) < 2 ^ (hi + 1 - lo) := Nat.mod_lt _ (by positivity)
  have a3 : w % 2 ^ lo < 2 ^ lo := Nat.mod_lt _ (by positivity)
  have b1 : v % 2 ^ (hi + 1 - lo) * 2 ^ lo + 2 ^ lo ≤ 2 ^ (hi + 1) := by
    rw [e2, ← Nat.succ_mul]; exact Nat.mul_le_mul_right _ a2
  have key : putBits w hi lo v / 2 ^ (hi + 1) = w / 2 ^ (hi + 1) := by
    have : putBits w hi lo v = v % 2 ^ (hi + 1 - lo) * 2 ^ lo + w % 2 ^ lo + w / 2 ^ (hi + 1) * 2 ^ (hi + 1) := by unfold putBits; omega
    rw [this, Nat.add_mul_div_right _ _ (by positivity), Nat.div_eq_of_lt (by omega), Nat.zero_add]
  unfold bits
  rw [e3, ← Nat.div_div_eq_div_mul, ← Nat.div_div_eq_div_mul, key]

theorem putBits_lt {w hi lo : Nat} (v : Nat) (h : lo ≤ hi) (hi31 : hi < 32) (hw : w < 2 ^ 32) : putBits w hi lo v < 2 ^ 32 := by
  have e2 : 2 ^ (hi + 1) = 2 ^ (hi + 1 - lo) * 2 ^ lo := by rw [← Nat.pow_add]; congr 1; omega
  have e3 : (2 : Nat) ^ 32 = 2 ^ (31 - hi) * 2 ^ (hi + 1) := by rw [← Nat.pow_add]; congr 1; omega
  have a1 : w / 2 ^ (hi + 1) < 2 ^ (31 - hi) := Nat.div_lt_of_lt_mul (by rw [Nat.mul_comm, ← e3]; exact hw)
  have a2 : v % 2 ^ (hi + 1 - lo) < 2 ^ (hi + 1 - lo) := Nat.mod_lt _ (by positivity)
  have a3 : w % 2 ^ lo < 2 ^ lo := Nat.mod_lt _ (by positivity)
  have b1 : v % 2 ^ (hi + 1 - lo) * 2 ^ lo + 2 ^ lo ≤ 2 ^ (hi + 1) := by
    rw [e2, ← Nat.succ_mul]; exact Nat.mul_le_mul_right _ a2
  have b2 : w / 2 ^ (hi + 1) * 2 ^ (hi + 1) + 2 ^ (hi + 1) ≤ 2 ^ 32 := by
    rw [e3, ← Nat.succ_mul]; exact Nat.mul_le_mul_right _ a1
  unfold putBits
  omega

/-- A field of a register reads back what was put into it. -/
theorem State.fld_setFld_same (l : Loc) (v : Nat) (h : l.lo ≤ l.hi) (h' : l.hi < 32) :
    (s.setFld l v).fld l = v % 2 ^ (l.hi + 1 - l.lo) := by
  unfold State.fld
  rw [State.wordN_setFld, if_pos (Eq.refl _), Nat.mod_eq_of_lt (putBits_lt v h h' (s.wordN_lt _)), bits_putBits_same _ _ _ _ h]

/-- A field of another word reads as before. -/
theorem State.fld_setFld_ne {l m : Loc} (v : Nat) (h : l.off ≠ m.off) : (s.setFld l v).fld m = s.fld m := by
  unfold State.fld; rw [State.wordN_setFld, if_neg h]

/-- A field of the same word that does not overlap reads as before. -/
theorem State.fld_setFld_apart {l m : Loc} (v : Nat) (h : l.lo ≤ l.hi) (h' : l.hi < 32) (ha : l.hi < m.lo ∨ m.hi < l.lo) :
    (s.setFld l v).fld m = s.fld m := by
  by_cases he : l.off = m.off
  · unfold State.fld
    rw [State.wordN_setFld, if_pos he, Nat.mod_eq_of_lt (putBits_lt v h h' (s.wordN_lt _)), he]
    rcases ha with ha | ha
    · exact bits_putBits_above _ _ _ _ _ _ ha h
    · exact bits_putBits_below _ _ _ _ _ _ ha h
  · exact State.fld_setFld_ne s v he

/-- A flag reads what was put into it. -/
theorem State.flag_setFlag_same (l : Loc) (b : Bool) (h : l.lo = l.hi) (h' : l.hi < 32) : (s.setFlag l b).flag l = b := by
  unfold State.flag State.setFlag
  rw [State.fld_setFld_same s l _ (by omega) h', h]
  cases b <;> simp [b2n]

theorem State.setFlag_eq (l : Loc) (b : Bool) : s.setFlag l b = s.setFld l (b2n b) := Eq.refl _

theorem State.flag_eq (l : Loc) : s.flag l = (s.fld l == 1) := Eq.refl _

theorem State.fld_lt (l : Loc) : s.fld l < 2 ^ (l.hi + 1 - l.lo) := Nat.mod_lt _ (by positivity)

theorem State.fld_setWord_ne {o : Nat} {m : Loc} (v : Nat) (h : o ≠ m.off) : (s.setWord o v).fld m = s.fld m := by
  unfold State.fld; rw [State.wordN_setWord, if_neg h]

/-- A 64-bit pair reads back. -/
theorem State.pair_setPair (o v : Nat) (h : v < 2 ^ 64) : (s.setPair o v).pair o = v := by
  unfold State.setPair State.pair
  rw [State.wordN_setWord, State.wordN_setWord, State.wordN_setWord]
  have h1 : o + 4 ≠ o := by omega
  simp only [h1, if_true, if_false]
  omega

theorem overlay_setWord (ws : Tbl Nat) : overlay s ws = { s with regs := (overlay s ws).regs } := by
  unfold overlay
  induction ws generalizing s with
  | nil => rfl
  | cons e t ih => rw [List.foldl_cons, ih]; rfl

@[simp] theorem overlay_pending (ws : Tbl Nat) : (overlay s ws).pending = s.pending := by rw [overlay_setWord]
@[simp] theorem overlay_tclk (ws : Tbl Nat) : (overlay s ws).tclk = s.tclk := by rw [overlay_setWord]
@[simp] theorem overlay_freeCtr (ws : Tbl Nat) : (overlay s ws).freeCtr = s.freeCtr := by rw [overlay_setWord]
@[simp] theorem overlay_shadow (ws : Tbl Nat) : (overlay s ws).shadow = s.shadow := by rw [overlay_setWord]
@[simp] theorem overlay_snaps (ws : Tbl Nat) : (overlay s ws).snaps = s.snaps := by rw [overlay_setWord]
@[simp] theorem overlay_latch (ws : Tbl Nat) : (overlay s ws).latch = s.latch := by rw [overlay_setWord]
@[simp] theorem overlay_rep (ws : Tbl Nat) : (overlay s ws).rep = s.rep := by rw [overlay_setWord]
@[simp] theorem overlay_mem (ws : Tbl Nat) : (overlay s ws).mem = s.mem := by rw [overlay_setWord]
@[simp] theorem overlay_poison (ws : Tbl Nat) : (overlay s ws).poison = s.poison := by rw [overlay_setWord]
@[simp] theorem overlay_rsv (ws : Tbl Nat) : (overlay s ws).rsv = s.rsv := by rw [overlay_setWord]
@[simp] theorem overlay_mmu (ws : Tbl Nat) : (overlay s ws).mmu = s.mmu := by rw [overlay_setWord]
@[simp] theorem overlay_mlr (ws : Tbl Nat) : (overlay s ws).mlr = s.mlr := by rw [overlay_setWord]
@[simp] theorem overlay_rfl (ws : Tbl Nat) : (overlay s ws).rfl = s.rfl := by rw [overlay_setWord]
@[simp] theorem overlay_jq (ws : Tbl Nat) : (overlay s ws).jq = s.jq := by rw [overlay_setWord]
@[simp] theorem overlay_clk (ws : Tbl Nat) : (overlay s ws).clk = s.clk := by rw [overlay_setWord]
@[simp] theorem overlay_evt (ws : Tbl Nat) : (overlay s ws).evt = s.evt := by rw [overlay_setWord]
@[simp] theorem overlay_ing (ws : Tbl Nat) : (overlay s ws).ing = s.ing := by rw [overlay_setWord]
@[simp] theorem overlay_rch (ws : Tbl Nat) : (overlay s ws).rch = s.rch := by rw [overlay_setWord]
@[simp] theorem overlay_slt (ws : Tbl Nat) : (overlay s ws).slt = s.slt := by rw [overlay_setWord]
@[simp] theorem overlay_trb (ws : Tbl Nat) : (overlay s ws).trb = s.trb := by rw [overlay_setWord]
@[simp] theorem overlay_weir (ws : Tbl Nat) : (overlay s ws).weir = s.weir := by rw [overlay_setWord]
@[simp] theorem overlay_ptp (ws : Tbl Nat) : (overlay s ws).ptp = s.ptp := by rw [overlay_setWord]
@[simp] theorem overlay_dsp (ws : Tbl Nat) : (overlay s ws).dsp = s.dsp := by rw [overlay_setWord]
@[simp] theorem overlay_net (ws : Tbl Nat) : (overlay s ws).net = s.net := by rw [overlay_setWord]
@[simp] theorem overlay_brk (ws : Tbl Nat) : (overlay s ws).brk = s.brk := by rw [overlay_setWord]
@[simp] theorem overlay_perf (ws : Tbl Nat) : (overlay s ws).perf = s.perf := by rw [overlay_setWord]
@[simp] theorem overlay_boot (ws : Tbl Nat) : (overlay s ws).boot = s.boot := by rw [overlay_setWord]

/-! Bits set in a W1C word (R5): its register word and the note of the cycle. -/

@[simp] theorem State.setW1c_pending (o m : Nat) : (s.setW1c o m).pending = s.pending := Eq.refl _
@[simp] theorem State.setW1c_tclk (o m : Nat) : (s.setW1c o m).tclk = s.tclk := Eq.refl _
@[simp] theorem State.setW1c_freeCtr (o m : Nat) : (s.setW1c o m).freeCtr = s.freeCtr := Eq.refl _
@[simp] theorem State.setW1c_shadow (o m : Nat) : (s.setW1c o m).shadow = s.shadow := Eq.refl _
@[simp] theorem State.setW1c_snaps (o m : Nat) : (s.setW1c o m).snaps = s.snaps := Eq.refl _
@[simp] theorem State.setW1c_latch (o m : Nat) : (s.setW1c o m).latch = s.latch := Eq.refl _
@[simp] theorem State.setW1c_mem (o m : Nat) : (s.setW1c o m).mem = s.mem := Eq.refl _
@[simp] theorem State.setW1c_poison (o m : Nat) : (s.setW1c o m).poison = s.poison := Eq.refl _
@[simp] theorem State.setW1c_rsv (o m : Nat) : (s.setW1c o m).rsv = s.rsv := Eq.refl _
@[simp] theorem State.setW1c_mmu (o m : Nat) : (s.setW1c o m).mmu = s.mmu := Eq.refl _
@[simp] theorem State.setW1c_mlr (o m : Nat) : (s.setW1c o m).mlr = s.mlr := Eq.refl _
@[simp] theorem State.setW1c_rfl (o m : Nat) : (s.setW1c o m).rfl = s.rfl := Eq.refl _
@[simp] theorem State.setW1c_jq (o m : Nat) : (s.setW1c o m).jq = s.jq := Eq.refl _
@[simp] theorem State.setW1c_clk (o m : Nat) : (s.setW1c o m).clk = s.clk := Eq.refl _
@[simp] theorem State.setW1c_evt (o m : Nat) : (s.setW1c o m).evt = s.evt := Eq.refl _
@[simp] theorem State.setW1c_ing (o m : Nat) : (s.setW1c o m).ing = s.ing := Eq.refl _
@[simp] theorem State.setW1c_rch (o m : Nat) : (s.setW1c o m).rch = s.rch := Eq.refl _
@[simp] theorem State.setW1c_slt (o m : Nat) : (s.setW1c o m).slt = s.slt := Eq.refl _
@[simp] theorem State.setW1c_trb (o m : Nat) : (s.setW1c o m).trb = s.trb := Eq.refl _
@[simp] theorem State.setW1c_weir (o m : Nat) : (s.setW1c o m).weir = s.weir := Eq.refl _
@[simp] theorem State.setW1c_ptp (o m : Nat) : (s.setW1c o m).ptp = s.ptp := Eq.refl _
@[simp] theorem State.setW1c_dsp (o m : Nat) : (s.setW1c o m).dsp = s.dsp := Eq.refl _
@[simp] theorem State.setW1c_net (o m : Nat) : (s.setW1c o m).net = s.net := Eq.refl _
@[simp] theorem State.setW1c_brk (o m : Nat) : (s.setW1c o m).brk = s.brk := Eq.refl _
@[simp] theorem State.setW1c_perf (o m : Nat) : (s.setW1c o m).perf = s.perf := Eq.refl _
@[simp] theorem State.setW1c_boot (o m : Nat) : (s.setW1c o m).boot = s.boot := Eq.refl _
@[simp] theorem State.setW1c_regs (o m : Nat) : (s.setW1c o m).regs = (s.setWord o (s.wordN o ||| m)).regs := Eq.refl _
@[simp] theorem State.setW1c_word (o m a : Nat) : (s.setW1c o m).word a = (s.setWord o (s.wordN o ||| m)).word a := Eq.refl _
@[simp] theorem State.setW1c_rep (o m : Nat) : (s.setW1c o m).rep = { s.rep with fresh := freshen s.cclk o m s.rep.fresh } := Eq.refl _

/-- A step of analysis does its work, or nothing while the die is held in reset (R28). -/
theorem analysis_spec (f : State → State) (s : State) : (s.boot.held = true ∧ analysis f s = s) ∨ (s.boot.held = false ∧ analysis f s = f s) := by
  unfold analysis
  cases s.boot.held <;> simp

end Sys2Proof.Machine
end

