-- ==== Sys2Proof/Laws/Reports.lean ====
section
/-! SUPPORT. What reports can do, once for each: raising an event sets its EVENT_PEND bit and leaves command status and FAULT words, the end of a
command writes its CMD_STATUS, a fault its FAULT word. -/

namespace Sys2Proof.Machine

open Sys2Proof.Claims

theorem bitAt_eq_testBit (x n : Nat) : bitAt x n = x.testBit n := by
  unfold bitAt
  rw [Nat.testBit_eq_decide_div_mod_eq]
  rfl

theorem bitAt_or_two_pow (x b n : Nat) : bitAt (x ||| 2 ^ b) n = (bitAt x n || decide (b = n)) := by
  simp only [bitAt_eq_testBit, Nat.testBit_or, Nat.testBit_two_pow]

/-- What a list of further occurrences may name. -/
def LogOrPerf (l : List (Nat × Nat)) : Prop := ∀ e ∈ l, e.1 = hLog ∨ e.1 = hPerf

theorem logOrPerf_nil : LogOrPerf [] := by simp [LogOrPerf]

theorem LogOrPerf.append {a b : List (Nat × Nat)} (ha : LogOrPerf a) (hb : LogOrPerf b) : LogOrPerf (a ++ b) := by
  intro e he; rcases List.mem_append.mp he with h | h
  exacts [ha e h, hb e h]

/-- The parts of `Rep` that a report which is no command and no fault leaves alone. -/
def SameCmd (r r' : Rep) : Prop := r'.cmd = r.cmd ∧ r'.flt = r.flt ∧ r'.fwd = r.fwd

theorem SameCmd.refl (r : Rep) : SameCmd r r := ⟨Eq.refl _, Eq.refl _, Eq.refl _⟩

theorem SameCmd.trans {a b c : Rep} (h : SameCmd a b) (k : SameCmd b c) : SameCmd a c :=
  ⟨k.1.trans h.1, k.2.1.trans h.2.1, k.2.2.trans h.2.2⟩

/-- What one reporting function does: command status, FAULT and EVENT_PEND stay; what follows is of the log or counter unit. -/
def Plain (r : Rep) (x : Rep × List (Nat × Nat)) : Prop := SameCmd r x.1 ∧ x.1.pend = r.pend ∧ LogOrPerf x.2

theorem plain_refl (r : Rep) : Plain r (r, []) := ⟨.refl r, Eq.refl _, logOrPerf_nil⟩

theorem plain_append {r : Rep} {a b : Rep × List (Nat × Nat)} (ha : Plain r a) (hb : Plain a.1 b) : Plain r (b.1, a.2 ++ b.2) :=
  ⟨ha.1.trans hb.1, hb.2.1.trans ha.2.1, ha.2.2.append hb.2.2⟩

/-- A fold of reporting functions is one. -/
theorem plain_foldl {α : Type} (f : Rep × List (Nat × Nat) → α → Rep × List (Nat × Nat))
    (hf : ∀ r acc x, Plain r acc → Plain r (f acc x)) (l : List α) :
    ∀ (r : Rep) (acc : Rep × List (Nat × Nat)), Plain r acc → Plain r (l.foldl f acc) := by
  induction l with
  | nil => intro r acc h; exact h
  | cons x t ih => intro r acc h; exact ih r _ (hf r acc x h)

theorem histAdd_plain (s : State) (r : Rep) (a b c : Nat) : Plain r (histAdd s r a b c) := by
  unfold histAdd
  split
  · exact plain_refl r
  · refine plain_foldl _ ?_ _ r _ (plain_refl r)
    intro r acc x h
    dsimp only
    generalize (if c = 0 then 0 else min 63 (c.log2 + 1)) = k
    split
    · split
      · refine ⟨⟨h.1.1, h.1.2.1, h.1.2.2⟩, h.2.1, h.2.2.append ?_⟩
        intro e he; right; rw [List.mem_singleton.mp he]
      · exact ⟨⟨h.1.1, h.1.2.1, h.1.2.2⟩, h.2.1, h.2.2⟩
    · exact h

theorem vecSend_plain (s : State) (r : Rep) (v t : Nat) : Plain r (vecSend s r v t) := by
  unfold vecSend
  obtain ⟨h, h2, h3⟩ := histAdd_plain s
    { r with out := .msix v (s.wordN (R.MSIX_ADDR_LO v) + 2 ^ 32 * s.wordN (R.MSIX_ADDR_HI v)) (s.wordN (R.MSIX_DATA v)) :: r.out
             pba := Tbl.del r.pba v
             holds := if bits (s.wordN (R.LOG_VEC_HOLD v)) 15 0 = 0 then r.holds
                      else Tbl.set r.holds v { running := true, trig := none } } 8 v ((s.tclk - t) / 16)
  exact ⟨⟨h.1, h.2.1, h.2.2⟩, h2, h3⟩

theorem vecTrigger_plain (s : State) (r : Rep) (v t : Nat) : Plain r (vecTrigger s r v t) := by
  unfold vecTrigger
  split
  · exact ⟨⟨Eq.refl _, Eq.refl _, Eq.refl _⟩, Eq.refl _, logOrPerf_nil⟩
  · split
    · exact vecSend_plain s r v t
    · exact ⟨⟨Eq.refl _, Eq.refl _, Eq.refl _⟩, Eq.refl _, logOrPerf_nil⟩

theorem queueLog_plain (r : Rep) (e : LogEntry) : Plain r (queueLog r e) := by
  unfold queueLog
  split
  · exact ⟨⟨Eq.refl _, Eq.refl _, Eq.refl _⟩, Eq.refl _, logOrPerf_nil⟩
  · refine ⟨⟨Eq.refl _, Eq.refl _, Eq.refl _⟩, Eq.refl _, ?_⟩
    intro e he; left; rw [List.mem_singleton.mp he]

theorem edgeCount_plain (s : State) (r : Rep) (h b : Nat) : Plain r (edgeCount s r h b) := by
  unfold edgeCount
  split
  · exact plain_refl r
  · refine plain_foldl _ ?_ _ r _ (plain_refl r)
    intro r acc x h
    dsimp only
    split
    · refine ⟨⟨h.1.1, h.1.2.1, h.1.2.2⟩, h.2.1, h.2.2.append ?_⟩
      intro e he; right; rw [List.mem_singleton.mp he]
    · exact ⟨⟨h.1.1, h.1.2.1, h.1.2.2⟩, h.2.1, h.2.2⟩

theorem evpFold_same (y : Nat) (c : List Nat) (l : Nat) : ∀ r : Rep, SameCmd r (c.foldl (fun r c => evpSet y r c l) r) ∧
    (c.foldl (fun r c => evpSet y r c l) r).pend = r.pend := by
  induction c with
  | nil => intro r; exact ⟨.refl r, Eq.refl _⟩
  | cons a t ih => intro r; exact ⟨(ih _).1, (ih _).2⟩

theorem linesFold_same (s : State) (ls : List Nat) : ∀ r : Rep,
    SameCmd r (ls.foldl (fun r l => (lineCores s l).foldl (fun r c => evpSet s.cclk r c l) r) r) ∧
    (ls.foldl (fun r l => (lineCores s l).foldl (fun r c => evpSet s.cclk r c l) r) r).pend = r.pend := by
  induction ls with
  | nil => intro r; exact ⟨.refl r, Eq.refl _⟩
  | cons a t ih =>
    intro r
    have h := evpFold_same s.cclk (lineCores s a) a r
    exact ⟨h.1.trans (ih _).1, (ih _).2.trans h.2⟩

theorem postNotice_same (s : State) (r : Rep) (h b v : Nat) :
    SameCmd r (postNotice s r h b v) ∧ (postNotice s r h b v).pend = r.pend := by
  unfold postNotice
  extract_lets n e
  exact ⟨⟨rfl, rfl, rfl⟩, rfl⟩

/-- Either of two reports that leave command status, FAULT and EVENT_PEND. -/
theorem same_ite {r x y : Rep} (c : Bool) (hx : SameCmd r x ∧ x.pend = r.pend) (hy : SameCmd r y ∧ y.pend = r.pend) :
    SameCmd r (if c then x else y) ∧ (if c then x else y).pend = r.pend := by
  cases c
  exacts [hy, hx]

theorem plain_ite {r : Rep} {x y : Rep × List (Nat × Nat)} (c : Bool) (hx : Plain r x) (hy : Plain r y) : Plain r (if c then x else y) := by
  cases c
  exacts [hy, hx]

theorem deliver_plain (s : State) (r : Rep) (h b : Nat) : Plain r (deliver s r h b) := by
  unfold deliver
  extract_lets rs logs sev a vecs bb lines r2 bks r3
  have ha : Plain r a := by
    rcases Decidable.em (h ≠ hLog && !logs.isEmpty && decide (s.fld R.LOG_CFG_MIN_SEV ≤ sev)) with k | k
    · rw [show a = _ from if_pos k]; exact queueLog_plain r _
    · rw [show a = _ from if_neg k]; exact plain_refl r
  have hb : Plain r bb := plain_foldl _ (fun r acc x h => plain_append h (vecTrigger_plain s acc.1 x s.tclk)) _ r _ ha
  have h2 : SameCmd bb.1 r2 ∧ r2.pend = bb.1.pend := linesFold_same s lines bb.1
  have hn := postNotice_same s r2 h b (bks.foldl (fun m w => max m (sevOf (bits w.1 26 24))) 0)
  have h3 : SameCmd bb.1 r3 ∧ r3.pend = bb.1.pend := same_ite _ h2 ⟨h2.1.trans hn.1, hn.2.trans h2.2⟩
  exact ⟨hb.1.trans h3.1, h3.2.trans hb.2.1, hb.2.2⟩

/-- One occurrence sets its own EVENT_PEND bit and no other. -/
theorem occur_spec (s : State) (r : Rep) (h b : Nat) :
    SameCmd r (occur s r h b).1 ∧ (occur s r h b).1.pend = Tbl.upd 0 r.pend h (· ||| 2 ^ b) ∧ LogOrPerf (occur s r h b).2 := by
  unfold occur
  dsimp only
  have ha := edgeCount_plain s { r with pend := Tbl.upd 0 r.pend h (· ||| 2 ^ b), fresh := freshen s.cclk (h + 0x20) (2 ^ b) r.fresh } h b
  split
  · exact ⟨⟨ha.1.1, ha.1.2.1, ha.1.2.2⟩, ha.2.1, ha.2.2⟩
  · have hb := plain_append ha (deliver_plain s _ h b)
    exact ⟨⟨hb.1.1, hb.1.2.1, hb.1.2.2⟩, hb.2.1, hb.2.2⟩

/-- Working off occurrences: command status and FAULT words stay, EVENT_PEND bits are never cleared, and only bits of the occurrences given, the log unit or the
counter unit are set. -/
theorem runOcc_spec (n : Nat) (s : State) : ∀ (l : List (Nat × Nat)) (r : Rep),
    SameCmd r (runOcc n s l r) ∧
    (∀ h b, bitAt (Tbl.get 0 r.pend h) b = true → bitAt (Tbl.get 0 (runOcc n s l r).pend h) b = true) ∧
    (∀ h b, (h, b) ∉ l → h ≠ hLog → h ≠ hPerf →
      bitAt (Tbl.get 0 (runOcc n s l r).pend h) b = bitAt (Tbl.get 0 r.pend h) b) := by
  induction n with
  | zero => intro l r; exact ⟨.refl r, fun _ _ h => h, fun _ _ _ _ _ => Eq.refl _⟩
  | succ n ih =>
    intro l r
    cases l with
    | nil => exact ⟨.refl r, fun _ _ h => h, fun _ _ _ _ _ => Eq.refl _⟩
    | cons e t =>
      obtain ⟨h, b⟩ := e
      obtain ⟨h1, h2, h3⟩ := occur_spec s r h b
      obtain ⟨i1, i2, i3⟩ := ih (t ++ (occur s r h b).2) (occur s r h b).1
      refine ⟨h1.trans i1, ?_, ?_⟩
      · intro h' b' hb
        refine i2 h' b' ?_
        rw [h2, Tbl.get_upd]
        split
        · rename_i e; subst e; rw [bitAt_or_two_pow, hb, Bool.true_or]
        · exact hb
      · intro h' b' hne hl hp
        have hne' : (h', b') ∉ t ++ (occur s r h b).2 := by
          intro hm
          rcases List.mem_append.mp hm with hm | hm
          · exact hne (List.mem_cons_of_mem _ hm)
          · rcases h3 _ hm with e | e
            · exact hl e
            · exact hp e
        show bitAt (Tbl.get 0 (runOcc n s (t ++ (occur s r h b).2) (occur s r h b).1).pend h') b' = _
        rw [i3 h' b' hne' hl hp, h2, Tbl.get_upd]
        split
        · rename_i e
          subst e
          have : b ≠ b' := by rintro rfl; exact hne (by simp)
          rw [bitAt_or_two_pow]; simp [this]
        · rfl

/-- The first occurrence's EVENT_PEND bit is set. -/
theorem runOcc_sets (n : Nat) (s : State) (h b : Nat) (l : List (Nat × Nat)) (r : Rep) :
    bitAt (Tbl.get 0 (runOcc (n + 1) s ((h, b) :: l) r).pend h) b = true := by
  obtain ⟨-, h2, -⟩ := occur_spec s r h b
  refine (runOcc_spec n s _ _).2.1 h b ?_
  rw [h2, Tbl.get_upd, if_pos (Eq.refl _), bitAt_or_two_pow]
  simp

/-! Frames. -/

end Sys2Proof.Machine

open Sys2Proof.Machine Sys2Proof.Claims

theorem Sys2Proof.Claims.RepFrame.refl (c : List Nat) (e : List (Nat × Nat)) (f : List Nat) (s : State) : RepFrame c e f s s :=
  ⟨fun _ _ => Eq.refl _, fun _ _ h => h, fun _ _ _ _ _ => Eq.refl _, fun _ _ => Eq.refl _⟩

/-- Two states with the same reports. -/
theorem Sys2Proof.Claims.RepFrame.of_rep {c : List Nat} {e : List (Nat × Nat)} {f : List Nat} {s t : State} (h : t.rep = s.rep) : RepFrame c e f s t := by
  have a : ∀ u, t.cmdSt u = s.cmdSt u := fun u => by unfold State.cmdSt; rw [h]
  have b : ∀ u, t.pendOf u = s.pendOf u := fun u => by unfold State.pendOf; rw [h]
  have d : ∀ u, t.faultOf u = s.faultOf u := fun u => by unfold State.faultOf; rw [h]
  exact ⟨fun u _ => a u, fun u n hu => by rw [b]; exact hu, fun u n _ _ _ => by rw [b], fun u _ => d u⟩

theorem Sys2Proof.Claims.RepFrame.trans {c c' : List Nat} {e e' : List (Nat × Nat)} {f f' : List Nat} {s t u : State}
    (h : RepFrame c e f s t) (k : RepFrame c' e' f' t u) : RepFrame (c ++ c') (e ++ e') (f ++ f') s u := by
  refine ⟨fun x hx => ?_, fun x b hb => k.2.1 x b (h.2.1 x b hb), fun x b hx hl hp => ?_, fun x hx => ?_⟩
  · simp only [List.mem_append, not_or] at hx; rw [k.1 x hx.2, h.1 x hx.1]
  · simp only [List.mem_append, not_or] at hx; rw [k.2.2.1 x b hx.2 hl hp, h.2.2.1 x b hx.1 hl hp]
  · simp only [List.mem_append, not_or] at hx; rw [k.2.2.2 x hx.2, h.2.2.2 x hx.1]

/-- Only the reports of the two states count. -/
theorem Sys2Proof.Claims.RepFrame.congr_left {c : List Nat} {e : List (Nat × Nat)} {f : List Nat} {s s' t : State} (h : s'.rep = s.rep)
    (k : RepFrame c e f s' t) : RepFrame c e f s t := by
  have a : ∀ u, s'.cmdSt u = s.cmdSt u := fun u => by unfold State.cmdSt; rw [h]
  have b : ∀ u, s'.pendOf u = s.pendOf u := fun u => by unfold State.pendOf; rw [h]
  have d : ∀ u, s'.faultOf u = s.faultOf u := fun u => by unfold State.faultOf; rw [h]
  simpa only [RepFrame, a, b, d] using k

theorem Sys2Proof.Claims.RepFrame.congr_right {c : List Nat} {e : List (Nat × Nat)} {f : List Nat} {s t t' : State} (h : t.rep = t'.rep)
    (k : RepFrame c e f s t) : RepFrame c e f s t' := by
  have a : ∀ u, t.cmdSt u = t'.cmdSt u := fun u => by unfold State.cmdSt; rw [h]
  have b : ∀ u, t.pendOf u = t'.pendOf u := fun u => by unfold State.pendOf; rw [h]
  have d : ∀ u, t.faultOf u = t'.faultOf u := fun u => by unfold State.faultOf; rw [h]
  simpa only [RepFrame, a, b, d] using k

theorem Sys2Proof.Claims.RepFrame.mono {c c' : List Nat} {e e' : List (Nat × Nat)} {f f' : List Nat} {s t : State}
    (h : RepFrame c e f s t) (hc : c ⊆ c') (he : e ⊆ e') (hf : f ⊆ f') : RepFrame c' e' f' s t :=
  ⟨fun x hx => h.1 x fun m => hx (hc m), h.2.1, fun x b hx hl hp => h.2.2.1 x b (fun m => hx (he m)) hl hp,
    fun x hx => h.2.2.2 x fun m => hx (hf m)⟩

/-- A raised event stays raised under every further report. -/
theorem Sys2Proof.Claims.Raised.kept {h b : Nat} {c : List Nat} {e : List (Nat × Nat)} {f : List Nat} {s t : State} (hr : Raised h b s)
    (k : RepFrame c e f s t) : Raised h b t := k.2.1 h b hr

theorem Sys2Proof.Claims.Done.kept {h code : Nat} {x : Code} {c : List Nat} {e : List (Nat × Nat)} {f : List Nat} {s t : State} (hd : Done h code x s)
    (k : RepFrame c e f s t) (hc : h ∉ c) : Done h code x t := (k.1 h hc).trans hd

namespace Sys2Proof.Machine

/-- What raising an event does. -/
theorem raise_frame (h b : Nat) (s : State) : RepFrame [] [(h, b)] [] s (raise h b s) := by
  obtain ⟨i1, i2, i3⟩ := runOcc_spec 1000 s [(h, b)] s.rep
  refine ⟨fun u _ => ?_, fun u n hu => i2 u n hu, fun u n hu hl hp => i3 u n hu hl hp, fun u _ => ?_⟩
  · show Tbl.get _ (runOcc 1000 s [(h, b)] s.rep).cmd u = _; rw [i1.1]; rfl
  · show Tbl.get _ (runOcc 1000 s [(h, b)] s.rep).flt u = _; rw [i1.2.1]; rfl

theorem raise_raised (h b : Nat) (s : State) : Raised h b (raise h b s) := runOcc_sets 999 s h b [] s.rep

@[simp] theorem raise_fwd (h b : Nat) (s : State) : (raise h b s).rep.fwd = s.rep.fwd := (runOcc_spec 1000 s [(h, b)] s.rep).1.2.2

theorem addLog_spec (h k v c a0 a1 : Nat) (s : State) :
    RepFrame [] [] [] s (addLog h k v c a0 a1 s) ∧ SameCmd s.rep (addLog h k v c a0 a1 s).rep := by
  have hq := queueLog_plain s.rep (mkEntry s h k v c a0 a1)
  obtain ⟨i1, i2, i3⟩ := runOcc_spec 1000 s (queueLog s.rep (mkEntry s h k v c a0 a1)).2 (queueLog s.rep (mkEntry s h k v c a0 a1)).1
  have hs := hq.1.trans i1
  refine ⟨⟨fun u _ => ?_, fun u n hu => i2 u n ?_, fun u n _ hl hp => ?_, fun u _ => ?_⟩, hs⟩
  · show Tbl.get _ (runOcc 1000 s _ _).cmd u = _; rw [hs.1]; rfl
  · rw [hq.2.1]; exact hu
  · show bitAt (Tbl.get _ (runOcc 1000 s _ _).pend u) n = _
    rw [i3 u n ?_ hl hp, hq.2.1]; rfl
    intro hm
    rcases hq.2.2 _ hm with e | e
    exacts [hl e, hp e]
  · show Tbl.get _ (runOcc 1000 s _ _).flt u = _; rw [hs.2.1]; rfl

theorem addLog_frame (h k v c a0 a1 : Nat) (s : State) : RepFrame [] [] [] s (addLog h k v c a0 a1 s) := (addLog_spec h k v c a0 a1 s).1

theorem addLatency_frame (a b c : Nat) (s : State) : RepFrame [] [] [] s (addLatency a b c s) := by
  have hq := histAdd_plain s s.rep a b c
  obtain ⟨i1, i2, i3⟩ := runOcc_spec 1000 s (histAdd s s.rep a b c).2 (histAdd s s.rep a b c).1
  have hs := hq.1.trans i1
  refine ⟨fun u _ => ?_, fun u n hu => i2 u n ?_, fun u n _ hl hp => ?_, fun u _ => ?_⟩
  · show Tbl.get _ (runOcc 1000 s _ _).cmd u = _; rw [hs.1]; rfl
  · rw [hq.2.1]; exact hu
  · show bitAt (Tbl.get _ (runOcc 1000 s _ _).pend u) n = _
    rw [i3 u n ?_ hl hp, hq.2.1]; rfl
    intro hm
    rcases hq.2.2 _ hm with e | e
    exacts [hl e, hp e]
  · show Tbl.get _ (runOcc 1000 s _ _).flt u = _; rw [hs.2.1]; rfl

theorem emit_frame (o : Out) (s : State) : RepFrame [] [] [] s (s.emit o) :=
  ⟨fun _ _ => rfl, fun _ _ h => h, fun _ _ _ _ _ => rfl, fun _ _ => rfl⟩

/-- What a change of the FAULT table alone does. -/
theorem flt_frame (h : Nat) (x : Nat → Nat) (s : State) :
    RepFrame [] [] [h] s { s with rep := { s.rep with flt := Tbl.upd 0 s.rep.flt h x } } := by
  refine ⟨fun _ _ => rfl, fun _ _ h => h, fun _ _ _ _ _ => rfl, fun u hu => ?_⟩
  have hu : h ≠ u := by simpa [eq_comm] using hu
  show Tbl.get 0 (Tbl.upd 0 s.rep.flt h x) u = _
  rw [Tbl.get_upd, if_neg hu]; rfl

theorem setFault_frame (h b : Nat) (s : State) : RepFrame [] [] [h] s (setFault h b s) := by
  unfold setFault
  split
  · exact .refl _ _ _ _
  · exact ((flt_frame h (· ||| 2 ^ b) s).trans (addLog_frame h 2 3 b _ 0 _)).mono (by simp) (by simp) (by simp)

/-- The FAULT bit set reads 1. -/
theorem setFault_sets (h b : Nat) (s : State) : (setFault h b s).faultBit h b = true := by
  unfold setFault
  split
  · assumption
  · rename_i hn
    show bitAt (State.faultOf _ h) b = true
    have := (addLog_frame h 2 3 b (State.faultOf { s with rep := { s.rep with flt := Tbl.upd 0 s.rep.flt h (· ||| 2 ^ b) } } h) 0
      { s with rep := { s.rep with flt := Tbl.upd 0 s.rep.flt h (· ||| 2 ^ b) } }).2.2.2 h (by simp)
    dsimp only
    rw [this]
    show bitAt (Tbl.get 0 (Tbl.upd 0 s.rep.flt h (· ||| 2 ^ b)) h) b = true
    rw [Tbl.get_upd, if_pos rfl, bitAt_or_two_pow]; simp

theorem clearFault_frame (h b : Nat) (s : State) : RepFrame [] [] [h] s (clearFault h b s) := flt_frame h _ s

theorem putFault_frame (h b : Nat) (v : Bool) (s : State) : RepFrame [] [] [h] s (putFault h b v s) := by
  cases v
  · exact clearFault_frame h b s
  · exact setFault_frame h b s

/-- No basin is its own member. -/
theorem notMem_basinsOf (h : Nat) : h ∉ basinsOf h := by
  unfold basinsOf
  split
  · simp
  · rename_i h0
    split
    · rename_i b hb
      have hm := List.mem_of_find?_eq_some hb
      have hp := List.find?_some hb
      have key : ∀ b ∈ basins, (b.2.any fun m => m == b.1) = false := by decide
      have hk := key b hm
      simp only [List.mem_cons, List.not_mem_nil, or_false, not_or]
      refine ⟨?_, h0⟩
      rintro rfl
      rw [hk] at hp; cases hp
    · simpa using h0

theorem fwdReturn_spec (h : Nat) (c : Code) (r : Rep) :
    (fwdReturn h c r).pend = r.pend ∧ (fwdReturn h c r).flt = r.flt ∧
    (∀ u d, u ∉ basinsOf h → Tbl.get d (fwdReturn h c r).cmd u = Tbl.get d r.cmd u) := by
  unfold fwdReturn
  generalize basinsOf h = bs
  induction bs generalizing r with
  | nil => exact ⟨rfl, rfl, fun _ _ _ => rfl⟩
  | cons b t ih =>
    rw [List.foldl_cons]
    split
    · obtain ⟨h1, h2, h3⟩ := ih r
      exact ⟨h1, h2, fun u d hu => h3 u d fun m => hu (List.mem_cons_of_mem _ m)⟩
    · split
      · dsimp only
        split
        · obtain ⟨h1, h2, h3⟩ := ih _
          refine ⟨h1, h2, fun u d hu => (h3 u d fun m => hu (List.mem_cons_of_mem _ m)).trans ?_⟩
          have : b ≠ u := by rintro rfl; exact hu (by simp)
          exact Tbl.get_set_ne d _ _ this
        · obtain ⟨h1, h2, h3⟩ := ih _
          exact ⟨h1, h2, fun u d hu => h3 u d fun m => hu (List.mem_cons_of_mem _ m)⟩
      · obtain ⟨h1, h2, h3⟩ := ih r
        exact ⟨h1, h2, fun u d hu => h3 u d fun m => hu (List.mem_cons_of_mem _ m)⟩

theorem cmdTable_frame (h code : Nat) (c : Code) (s : State) :
    RepFrame (h :: basinsOf h) [] []
      s { s with rep := fwdReturn h c { s.rep with cmd := Tbl.set s.rep.cmd h { status := c.num, code := code, busy := false } } } := by
  obtain ⟨h1, h2, h3⟩ := fwdReturn_spec h c { s.rep with cmd := Tbl.set s.rep.cmd h { status := c.num, code := code, busy := false } }
  refine ⟨fun u hu => ?_, fun u n hu => ?_, fun u n _ _ _ => ?_, fun u _ => ?_⟩
  · simp only [List.mem_cons, not_or] at hu
    show Tbl.get _ (fwdReturn h c _).cmd u = _
    rw [h3 u _ hu.2]
    exact Tbl.get_set_ne _ _ _ (Ne.symm hu.1)
  · show bitAt (Tbl.get 0 (fwdReturn h c _).pend u) n = true; rw [h1]; exact hu
  · show bitAt (Tbl.get 0 (fwdReturn h c _).pend u) n = _; rw [h1]; rfl
  · show Tbl.get 0 (fwdReturn h c _).flt u = _; rw [h2]; rfl

/-- What the end of a command changes: CMD_STATUS of its unit and of a basin that forwarded it. -/
theorem finish_frame (h code : Nat) (c : Code) (s : State) : RepFrame (h :: basinsOf h) [] [] s (finish h code c s) := by
  unfold finish
  dsimp only
  split
  · exact ((cmdTable_frame h code c s).trans (addLog_frame ..)).mono (by simp) (by simp) (by simp)
  · exact cmdTable_frame h code c s

/-- CMD_STATUS after a command. -/
theorem finish_done (h code : Nat) (c : Code) (s : State) : Done h code c (finish h code c s) := by
  have key : Tbl.get { status := 0, code := 0, busy := false }
      (fwdReturn h c { s.rep with cmd := Tbl.set s.rep.cmd h { status := c.num, code := code, busy := false } }).cmd h =
      ({ status := c.num, code := code, busy := false } : CmdSt) := by
    rw [(fwdReturn_spec h c _).2.2 h _ (notMem_basinsOf h)]
    exact Tbl.get_set_same ..
  unfold Done finish
  dsimp only
  split
  · rw [(addLog_frame ..).1 h (by simp)]; exact key
  · exact key

theorem startBusy_frame (h code : Nat) (s : State) : RepFrame [h] [] [] s (startBusy h code s) :=
  ⟨fun u hu => Tbl.get_set_ne _ _ _ (by simpa [eq_comm] using hu), fun _ _ h => h, fun _ _ _ _ _ => rfl, fun _ _ => rfl⟩

theorem startBusy_busy (h code : Nat) (s : State) : (startBusy h code s).cmdSt h = { status := 1, code := code, busy := true } :=
  Tbl.get_set_same ..

/-! What the shared operations on commands do, for the claims about them. -/

theorem finish_eq (h code : Nat) (c : Code) (s : State) : finish h code c s = { s with rep := (finish h code c s).rep } := by
  cases c <;> rfl

theorem finished_finish (h code : Nat) (c : Code) (s : State) : Finished h code c s (finish h code c s) :=
  ⟨finish_done .., finish_frame ..⟩

theorem turnedAway_finish (h code : Nat) (c : Code) (s : State) : TurnedAway h code c s (finish h code c s) :=
  ⟨finish_eq .., finished_finish ..⟩

theorem event_raise (h b : Nat) (s : State) : Event h b s (raise h b s) := ⟨raise_raised .., raise_frame ..⟩

/-- A command written while another runs changes nothing. -/
theorem runCmd_busy {h : Nat} (code : Nat) (f : State → Code × State) {s : State} (hb : s.cmdBusy h = true) : runCmd h code f s = s :=
  if_pos hb

/-- A command that is not written during another ends with the code that its meaning gives. -/
theorem runCmd_of {h code : Nat} {f : State → Code × State} {s s' : State} {c : Code} (hb : s.cmdBusy h = false) (hf : f s = (c, s')) :
    runCmd h code f s = finish h code c s' := by
  unfold runCmd; rw [hb, hf]; rfl

theorem runLong_busy {h : Nat} (code : Nat) (f : State → Option Code × State) {s : State} (hb : s.cmdBusy h = true) :
    runLong h code f s = s := if_pos hb

theorem runLong_ends {h code : Nat} {f : State → Option Code × State} {s s' : State} {c : Code} (hb : s.cmdBusy h = false)
    (hf : f s = (some c, s')) : runLong h code f s = finish h code c s' := by
  unfold runLong; rw [hb, hf]; rfl

theorem runLong_runs {h code : Nat} {f : State → Option Code × State} {s s' : State} (hb : s.cmdBusy h = false)
    (hf : f s = (none, s')) : runLong h code f s = startBusy h code s' := by
  unfold runLong; rw [hb, hf]; rfl

end Sys2Proof.Machine
end

