-- ==== Sys2Proof/Tests/Slice0.lean ====
section
/-! SUPPORT. The model's own tests: well-formed and ill-formed commands, worked examples and tables of the spec, and, for each statement of
Certificates/Slice0/Obligations.lean with hypotheses, states and operands that meet them, clause by clause (a variable that a hypothesis defines by an equation is put in). -/

open Sys2Proof Sys2Proof.Machine Sys2Proof.Claims

set_option maxRecDepth 100000
set_option Elab.async false

/-! Well-formed commands: each check refuses an ill-formed term and admits one beside it. -/

theorem test_wf_registerWrite : (Instr.registerWrite .pcie { off := 0x42, val := 0, be := 15 }).wf = false ∧ (Instr.registerWrite .pcie { off := 0x44, val := 0, be := 15 }).wf = true := by decide +kernel
theorem test_wf_readLo : (Instr.readLo .brook 0x1E80041).wf = false ∧ (Instr.readLo .brook 0x1E80040).wf = true := by decide +kernel
theorem test_wf_commit : (Instr.commit 0x800000).wf = false ∧ (Instr.commit 0x100004).wf = false ∧ (Instr.commit 0x100000).wf = true := by decide +kernel
theorem test_wf_basin : (Instr.basinCommit 0x100000).wf = false ∧ (Instr.basinCmd 0x100000 1).wf = false ∧ (Instr.basinCommit 0x800000).wf = true ∧ (Instr.basinCmd 0x800000 1).wf = true := by
  decide +kernel
theorem test_wf_evtCalInputEnd : (Instr.evtCalInputEnd (List.replicate 15 0) 0).wf = false ∧ (Instr.evtCalInputEnd (List.replicate 16 0) 0).wf = true := by decide +kernel
theorem test_wf_codewordRx : (Instr.codewordRx 0 0 (List.replicate 544 .m3)).wf = false ∧ (Instr.codewordRx 0 0 (List.replicate 2720 .m3)).wf = true ∧
    (Instr.codewordRx 0 0 (List.replicate 5440 .m3)).wf = true := by decide +kernel
theorem test_wf_portCalEnd : (Instr.portCalEnd 0 (some { trims := List.replicate 9 (List.replicate 15 0), laneSkew := List.replicate 9 0, portSkew := 0, phase := 0 })).wf = false ∧
    (Instr.portCalEnd 0 (some { trims := List.replicate 8 (List.replicate 16 0), laneSkew := List.replicate 9 0, portSkew := 0, phase := 0 })).wf = false ∧
    (Instr.portCalEnd 0 (some { trims := List.replicate 9 (List.replicate 16 0), laneSkew := [], portSkew := 0, phase := 0 })).wf = false ∧
    (Instr.portCalEnd 0 (some { trims := List.replicate 9 (List.replicate 16 0), laneSkew := List.replicate 9 0, portSkew := 0, phase := 0 })).wf = true := by decide +kernel
theorem test_wf_sampleRelease : (Instr.sampleRelease 0 [none]).wf = false ∧ (Instr.sampleRelease 0 []).wf = true ∧ (Instr.sampleRelease 0 (List.replicate 8 none)).wf = true := by decide +kernel
theorem test_wf_cut : (Instr.cut 0 1).wf = false ∧ (Instr.cut 1 1).wf = true := by decide +kernel
theorem test_wf_rsvRequest : (Instr.rsvRequest 5 [{ who := .scrub, addr := 0, len := 0, data := none, ecc := [] }]).wf = false ∧
    (Instr.rsvRequest 5 [{ who := .scrub, addr := 0, len := 1, data := none, ecc := [] }]).wf = true := by decide +kernel
theorem test_wf_pfcFrameRx : (Instr.pfcFrameRx 0 1 (List.replicate 7 9)).wf = false ∧ (Instr.pfcFrameRx 0 1 (List.replicate 8 9)).wf = true := by decide +kernel
theorem test_wf_bar2 : (Instr.pcieBar2Access 0 { len := 0, ecc := [] } none).wf = false ∧ (Instr.pcieBar2Access 0xFFFFFFFF { len := 2, ecc := [] } none).wf = false ∧ (Instr.pcieBar2Access 0 { len := 0, ecc := [] } (some [])).wf = false ∧
    (Instr.pcieBar2Access 0xFFFFFFFF { len := 0, ecc := [] } (some [0, 0])).wf = false ∧ (Instr.pcieBar2Access 0xFFFFFFFF { len := 1, ecc := [] } none).wf = true := by decide +kernel
theorem test_wf_hostUp : (Instr.hostUp 0 8).wf = false ∧ (Instr.hostUp 5 0).wf = false ∧ (Instr.hostUp 5 9).wf = false ∧ (Instr.hostUp 5 8).wf = true := by decide +kernel
theorem test_wf_auxDone : (Instr.auxDone 0 0 (List.replicate 17 0)).wf = false ∧ (Instr.auxDone 0 0 (List.replicate 16 0)).wf = true := by decide +kernel
theorem test_wf_adcConversion : (Instr.adcConversion 4096).wf = false ∧ (Instr.adcConversion 4095).wf = true := by decide +kernel
theorem test_wf_thermalSample : (Instr.thermalSample [0, 0, 0]).wf = false ∧ (Instr.thermalSample [0, 0, 0, 4096]).wf = false ∧ (Instr.thermalSample [0, 0, 0, 4095]).wf = true := by decide +kernel
theorem test_wf_poisonFillDone : (Instr.poisonFillDone 393216).wf = false ∧ (Instr.poisonFillDone 393215).wf = true := by decide +kernel
theorem test_wf_jtagRegacc : (Instr.jtagRegacc { off := 3, val := 0, be := 15 } true).wf = false ∧ (Instr.jtagRegacc { off := 4, val := 0, be := 15 } true).wf = true := by decide +kernel

/-! Worked examples and tables of the spec. -/

/-- spec/10, after R295: CMAC ACC1 += D2 × conj(D3) with LDC6 D2, [A0] += I0 is 0x0084_8C01_0C80_0000. -/
theorem test_riffle_word : cWord 2 { core := 0, pr := 0, pn := false, cx := 1, cy := 2, cz := 3, ci := 1, mem := 0x0C800000 } = 0x00848C010C800000 := by decide +kernel

/-- spec/03, worked example, steps 1 and 2: the corrected DTs lie 22,235 and 22,253 units after 100 s, 12,345,677 ns. -/
theorem test_pair_corrected : edgeDt ((State.reset.setWord (R.EVT_TRIM 2 11) 0xFDB).setWord (R.EVT_SKEW 2) 98304 |> fun s => { s with clk := { s.clk with dt := 100012345678 * 65536 + 40960 } }) 2 11 =
      100012345677 * 65536 + 22235 ∧
    edgeDt ((State.reset.setWord (R.EVT_TRIM 3 12) 12).setWord (R.EVT_SKEW 3) 99615 |> fun s => { s with clk := { s.clk with dt := 100012345678 * 65536 + 40960 } }) 3 12 =
      100012345677 * 65536 + 22253 := by decide +kernel

/-- spec/03, worked example: less than a tap apart, the record carries interval 0 and UNRES; 2,549 units out of order, ORDER and −2,549. -/
theorem test_pair_record : pairRec { seq := 4, coast := false, stale := false, dt := 22235 } { seq := 9, coast := false, stale := false, dt := 22253 } false false =
      { unres := true, order := false, rearm := false, coast := false, stale := false, loss := false, startSeq := 4, stopSeq := 9, interval := 0 } ∧
    pairRec { seq := 4, coast := false, stale := false, dt := 22235 } { seq := 9, coast := false, stale := false, dt := 19686 } true false =
      { unres := false, order := true, rearm := false, coast := false, stale := false, loss := false, startSeq := 4, stopSeq := 9, interval := -2549 } := by decide +kernel

/-- spec/05, worked example "full-scale sine in dB": power 0.25 has the code −602. -/
theorem test_db_code : dbCode 0 0x3E800000 = (-602, false) := by decide +kernel

/-- A window that sums to 0 has no quotient in R129: the frame's power words are free values, and a bin that no frame joined still reads 0 (R148). -/
theorem test_zero_window_gain : normG 1 (winSum [5, -5]) (winSq [5, -5]) = Dy.zero ∧ powerWord Dy.zero 3 (7, 9) = Config.zeroGainPower 3 7 9 % 0x7F800000 ∧
    crossWord Dy.zero 0 ⟨1, 0⟩ = 0 := ⟨by decide +kernel, rfl, rfl⟩

/-- spec/06, worked example "a persistent display plane": three decay passes with DSH = 6. -/
theorem test_decay : decayed 6 64000 = 63000 ∧ decayed 6 63000 = 62016 ∧ decayed 6 62016 = 61047 ∧ decayed 6 63 = 62 := by decide +kernel

/-- The settings of context 5,000 in the worked example of spec/07: R_C = 100, FTW = 132,491,151, CHAN = 395, VLEN = 32. -/
def exCtx : CSet := { ctl := 0x18B1, ftw := 132491151, dec := 100, vid := 31, rep := 0, thr := 0, min := 0, occ := 0, iq := 0, dbo := 0 }

/-- spec/07, worked example: support 13,295, first settled output 66, first settled video value 97, weight 16. -/
theorem test_context_spans : exCtx.support = 13295 ∧ firstSettled exCtx Ctx.init = 66 ∧ firstVideo exCtx Ctx.init = 97 ∧ exCtx.weight State.reset = 16 := by decide +kernel

/-- spec/09, worked example "a rank retired in service": physical rank 37 holds logical rank 36. -/
theorem test_rank_map : (rankMap State.reset).2[36]? = some 37 ∧ (rankMap State.reset).2.length = 124 := by decide +kernel

/-- spec/18, after R476: UNIT_ID of entry 12 of the Riffle basin reads 0x000C_1A1C. -/
theorem test_unit_id : (bar0Read .pcie 0x1A1C000 State.reset).lastRead = 0x000C1A1C := by decide +kernel

/-- spec/17, worked example, step 2: LO and HI of counter 9 written, the counter holds 0xFFFF_FFFF_FFFF_FF00. -/
theorem test_perf_counter_write : Tbl.get 0 (bar0Write .pcie 0x1F41098 0xFFFFFFFF 15 { State.reset with perf := { State.reset.perf with lo := [(9, 0xFFFFFF00)] } }).rep.cnt 9 = 0xFFFFFFFFFFFFFF00 := by
  decide +kernel

/-- spec/11, worked example: the view base of plane 0, port 0, buffer 1 lies in the band of the views. -/
theorem test_view_band : State.reset.band 0xF000800000 = some 3 := by decide +kernel

/-- The published digest of the empty message by SHA-256 (FIPS 180-4). -/
theorem test_sha256 : (sha256 []).map BitVec.toNat = [0xE3, 0xB0, 0xC4, 0x42, 0x98, 0xFC, 0x1C, 0x14, 0x9A, 0xFB, 0xF4, 0xC8, 0x99, 0x6F, 0xB9, 0x24,
    0x27, 0xAE, 0x41, 0xE4, 0x64, 0x9B, 0x93, 0x4C, 0xA4, 0x95, 0x99, 0x1B, 0x78, 0x52, 0xB8, 0x55] := by decide +kernel

/-- An empty queue: a TCLK cycle passes (log entry 2). -/
theorem test_idle_step : (step State.reset matches .next _) = true := by decide +kernel

/-! Witnesses. -/

/-- States and operands that meet the hypotheses of each clause of `Obligations.DeviceTimeCommands`. -/
theorem witness_DeviceTimeCommands :
    (∃ s : State, s.cmdBusy hClk = false ∧ s.fld R.CLK_DT_STATUS_STATE ≠ 2 ∧ s.clk.step = none) ∧
    (∃ s : State, s.cmdBusy hClk = false ∧ s.fld R.CLK_DT_STATUS_STATE = 2) ∧
    (∃ s : State, s.cmdBusy hClk = false ∧ s.fld R.CLK_DT_STATUS_STATE ≠ 2 ∧ s.clk.step ≠ none) ∧
    (∃ s : State, s.cmdBusy hClk = false ∧ s.clk.tod = none) ∧
    (∃ s : State, s.cmdBusy hClk = false ∧ s.clk.tod ≠ none) :=
  ⟨⟨State.reset, by decide +kernel⟩,
   ⟨{ State.reset with regs := [(0x100084, 2#32)] }, by decide +kernel⟩,
   ⟨{ State.reset with clk.restepOk := false, clk.step := some 0, clk.mean := 0 }, by decide +kernel⟩,
   ⟨State.reset, by decide +kernel⟩,
   ⟨{ State.reset with clk.restepOk := false, clk.tod := some 0, clk.mean := 0 }, by decide +kernel⟩⟩

/-- States and operands that meet the hypotheses of each clause of `Obligations.DeviceTimeMoments`. -/
theorem witness_DeviceTimeMoments :
    (∃ s : State, ∃ r : Fin 2, s.fld R.CLK_WS_STATUS_ACT_REF = r ∧ s.flag R.CLK_WS_STATUS_HOLDOVER = false ∧ (s.fld R.CLK_REF_CTRL_REF_SEL ≠ 2 ∨ s.qual (1 - r) < 4)) ∧
    (∃ s : State, ∃ r : Fin 2, s.fld R.CLK_WS_STATUS_ACT_REF = r ∧ s.flag R.CLK_WS_STATUS_HOLDOVER = false ∧ s.fld R.CLK_REF_CTRL_REF_SEL = 2 ∧ 4 ≤ s.qual (1 - r)) ∧
    (∃ s : State, ∃ r : Fin 2, s.fld R.CLK_WS_STATUS_ACT_REF = r ∧ s.flag R.CLK_WS_STATUS_HOLDOVER = true ∧ s.flag (refOk r) = true) ∧
    (∃ r : Fin 2, ∃ count : Nat, (((count : Int) * 100 - (if r = 0 then 134217728 else 2097152000)).natAbs : Nat) ≤ 25600) ∧
    (∃ s : State, ∃ n : Int, s.clk.step = some n) ∧
    (∃ s : State, ∃ m : Nat, s.clk.tod = some m) ∧
    (∃ s : State, s.fld R.CLK_DT_STATUS_STATE = 2) :=
  ⟨⟨State.reset, 0, by decide +kernel⟩,
   ⟨{ State.reset with regs := [(0x100040, 2#32)], clk.restepOk := false, clk.qualB := 4, clk.mean := 0 }, 0, by decide +kernel⟩,
   ⟨{ State.reset with regs := [(0x100044, 6#32)] }, 0, by decide +kernel⟩,
   ⟨0, 0x147A00, by decide +kernel⟩,
   ⟨{ State.reset with clk.restepOk := false, clk.step := some (-5000000000), clk.mean := 0 }, -5000000000, by decide +kernel⟩,
   ⟨{ State.reset with clk.restepOk := false, clk.tod := some 0xFFFFFFFFFFFF, clk.mean := 0 }, 0xFFFFFFFFFFFF, by decide +kernel⟩,
   ⟨{ State.reset with regs := [(0x100084, 2#32)] }, by decide +kernel⟩⟩

/-- States and operands that meet the hypotheses of each clause of `Obligations.DeviceTimeMeasurements`. -/
theorem witness_DeviceTimeMeasurements :
    (∃ s : State, s.clk.src ≠ 1) ∧
    (∃ s : State, ∃ tap : Fin 16, s.clk.src = 1 ∧ s.fld R.CLK_DT_STATUS_STATE = 2 ∧
      ((edgeDt s 8 tap : Int) - nearestSec (edgeDt s 8 tap : Int) * unitsPerSec : Int).natAbs ≤ ppsWin s) ∧
    (∃ s : State, ∃ tap : Fin 16, s.clk.src = 1 ∧ s.fld R.CLK_DT_STATUS_STATE = 2 ∧
      ppsWin s < ((edgeDt s 8 tap : Int) - nearestSec (edgeDt s 8 tap : Int) * unitsPerSec : Int).natAbs) ∧
    (∃ s : State, ∃ tap : Fin 16, s.clk.src = 1 ∧ s.fld R.CLK_DT_STATUS_STATE = 3 ∧
      655360000 < ((edgeDt s 8 tap : Int) - nearestSec (edgeDt s 8 tap : Int) * unitsPerSec : Int).natAbs ∧ s.clk.restepOk = true) ∧
    (∃ s : State, ∃ rt : Int, ∃ off : Int, s.ptp.best = some (rt, off) ∧ s.clk.src ≠ 2) :=
  ⟨⟨State.reset, by decide +kernel⟩,
   ⟨{ State.reset with regs := [(0x100084, 2#32)], clk.src := 1, clk.restepOk := false, clk.mean := 0 }, 0, by decide +kernel⟩,
   ⟨{ State.reset with regs := [(0x100084, 2#32)], clk.dt := 0x10000, clk.src := 1, clk.restepOk := false, clk.mean := 0 }, 1, by decide +kernel⟩,
   ⟨{ State.reset with regs := [(0x100084, 3#32)], clk.dt := 0x40000000, clk.src := 1, clk.mean := 0 }, 0, by decide +kernel⟩,
   ⟨{ State.reset with ptp.best := some (5, 0x186A0) }, 5, 0x186A0, by decide +kernel⟩⟩

/-- States and operands that meet the hypotheses of each clause of `Obligations.WellspringLock`. -/
theorem witness_WellspringLock :
    (∃ s : State, ∃ r : Fin 2, ∃ count : Nat, s.fld R.CLK_WS_STATUS_ACT_REF = r ∧ s.flag R.CLK_WS_STATUS_HOLDOVER = false ∧ s.flag (refOk r) = true ∧
      (((count : Int) * 100 - (if r = 0 then 134217728 else 2097152000)).natAbs : Nat) ≤ 200) ∧
    (∃ s : State, ∃ r : Fin 2, ∃ count : Nat, s.fld R.CLK_WS_STATUS_ACT_REF = r ∧ s.flag R.CLK_WS_STATUS_HOLDOVER = false ∧ s.flag (refOk r) = true ∧
      200 < (((count : Int) * 100 - (if r = 0 then 134217728 else 2097152000)).natAbs : Nat) ∧
      (((count : Int) * 100 - (if r = 0 then 134217728 else 2097152000)).natAbs : Nat) ≤ 25600) ∧
    (∃ s : State, ∃ r : Fin 2, ∃ count : Nat, s.flag R.CLK_WS_STATUS_HOLDOVER = true ∧ (((count : Int) * 100 - (if r = 0 then 134217728 else 2097152000)).natAbs : Nat) ≤ 25600 ∧
      3 ≤ s.qual r ∧ (s.fld R.CLK_REF_CTRL_REF_SEL = 2 ∨ s.fld R.CLK_REF_CTRL_REF_SEL = r)) ∧
    (∃ s : State, ∃ r : Fin 2, ∃ count : Nat, ∃ c : Nat, s.flag R.CLK_WS_STATUS_HOLDOVER = true ∧ s.fld R.CLK_REF_CTRL_REF_SEL = 2 ∧ s.fld R.CLK_WS_STATUS_ACT_REF = r ∧
      (((count : Int) * 100 - (if r = 0 then 134217728 else 2097152000)).natAbs : Nat) ≤ 25600 ∧
      (((c : Int) * 100 - (if r = 1 then 134217728 else 2097152000)).natAbs : Nat) ≤ 25600 ∧ s.qual 0 = 3 ∧ s.qual 1 = 3) :=
  ⟨⟨{ State.reset with regs := [(0x100044, 4#32)] }, 0, 0x147AE0, by decide +kernel⟩,
   ⟨{ State.reset with regs := [(0x100044, 4#32)] }, 0, 0x147A00, by decide +kernel⟩,
   ⟨{ State.reset with regs := [(0x100040, 1#32), (0x100044, 2#32)], clk.qualB := 3 }, 1, 0x1400080, by decide +kernel⟩,
   ⟨{ State.reset with regs := [(0x100040, 2#32), (0x100044, 2#32)], clk.qualA := 3, clk.qualB := 3 }, 0, 0x147AE0, 0x1400000, by decide +kernel⟩⟩

/-- States and operands that meet the hypotheses of each clause of `Obligations.RivuletAndOutputs`. -/
theorem witness_RivuletAndOutputs :
    (∃ s : State, ∃ count : Nat, 15 ≤ s.fld R.CLK_RIV_CFG_N_INT ∧ s.fld R.CLK_RIV_CFG_N_INT ≤ 30 ∧ 2 ≤ s.fld R.CLK_RIV_CFG_ODIV ∧ s.fld R.CLK_RIV_CFG_SS_MODE ≠ 1 ∧
      s.fld R.CLK_RIV_CFG_SS_MODE ≠ 2 ∧ ((count : Int) * 256 - (2 ^ 24 * s.fld R.CLK_RIV_CFG_N_INT + s.fld R.CLK_RIV_NFRAC_N_FRAC)).natAbs ≤ 512) ∧
    (∃ s : State, ∃ count : Nat, 15 ≤ s.fld R.CLK_RIV_CFG_N_INT ∧ s.fld R.CLK_RIV_CFG_N_INT ≤ 30 ∧ 2 ≤ s.fld R.CLK_RIV_CFG_ODIV ∧ s.fld R.CLK_RIV_CFG_SS_MODE ≠ 1 ∧
      s.fld R.CLK_RIV_CFG_SS_MODE ≠ 2 ∧ 512 < ((count : Int) * 256 - (2 ^ 24 * s.fld R.CLK_RIV_CFG_N_INT + s.fld R.CLK_RIV_NFRAC_N_FRAC)).natAbs) ∧
    (∃ s : State, ∃ o : Fin 2, 15 ≤ s.fld R.CLK_RIV_CFG_N_INT ∧ s.fld R.CLK_RIV_CFG_N_INT ≤ 30 ∧ 2 ≤ s.fld R.CLK_RIV_CFG_ODIV ∧ s.fld R.CLK_RIV_CFG_SS_MODE ≠ 1 ∧
      s.fld R.CLK_RIV_CFG_SS_MODE ≠ 2 ∧ (s.cout o).mode = 1) :=
  ⟨⟨{ State.reset with regs := [(0x100068, 0x81814#32), (0x10006C, 0x35E800#32)] }, 0x1435E8, by decide +kernel⟩,
   ⟨{ State.reset with regs := [(0x100068, 0x80010#32)] }, 0, by decide +kernel⟩,
   ⟨{ State.reset with regs := [(0x100068, 0x81810#32)], clk.restepOk := false, clk.mean := 0, clk.cout := [(1, { Cout.init with mode := 1 })] }, 1, by decide +kernel⟩⟩

/-- The level of an input over its threshold, as `Obligations.EventEdges` names it. -/
abbrev pinOver (s : State) (n : Fin 8) (pin : PinSwing) : Int := if s.flag (R.EVT_CFG_DIFF n) then pin.p - pin.n else pin.p - 10 * s.fld (R.EVT_CFG_THRESH n)

/-- A selected edge of an input that is enabled. -/
abbrev edgeComes (s : State) (n : Fin 8) (pin : PinSwing) (falling : Bool) : Prop :=
  (s.evtIn n).high = falling ∧ (falling = false → 5 * (s.fld (R.EVT_CFG_HYST n) : Int) < pinOver s n pin) ∧ (falling = true → pinOver s n pin < -(5 * (s.fld (R.EVT_CFG_HYST n) : Int))) ∧
  s.flag (R.EVT_CFG_EN n) = true ∧ (falling = true → s.fld (R.EVT_CFG_EDGE n) = 1 ∨ s.fld (R.EVT_CFG_EDGE n) = 2) ∧
  (falling = false → s.fld (R.EVT_CFG_EDGE n) ≠ 1) ∧ s.flag (R.PAIR_CFG_EN (n / 2)) = false

/-- States and operands that meet the hypotheses of each clause of `Obligations.EventEdges`. -/
theorem witness_EventEdges :
    (∃ s : State, ∃ n : Fin 8, ∃ pin : PinSwing, (s.evtIn n).high = false ∧ pinOver s n pin ≤ 5 * (s.fld (R.EVT_CFG_HYST n) : Int)) ∧
    (∃ s : State, ∃ n : Fin 8, ∃ pin : PinSwing, (s.evtIn n).high = true ∧ -(5 * (s.fld (R.EVT_CFG_HYST n) : Int)) ≤ pinOver s n pin) ∧
    (∃ s : State, ∃ n : Fin 8, ∃ pin : PinSwing, (s.evtIn n).high = false ∧ 5 * (s.fld (R.EVT_CFG_HYST n) : Int) < pinOver s n pin ∧ s.flag (R.EVT_CFG_EN n) = false) ∧
    (∃ s : State, ∃ n : Fin 8, ∃ pin : PinSwing, ∃ falling : Bool, edgeComes s n pin falling ∧ (s.fld (R.EVT_CFG_GATE_MODE n) = 0 ∨ s.fld (R.EVT_CFG_GATE_MODE n) = 3) ∧
      (s.evtIn n).last.all (fun t => decide (t + 2 + s.fld (R.EVT_HOLDOFF_HOLDOFF n) ≤ s.tclk)) = true ∧ (s.evtIn n).blankEnd ≤ s.tclk) ∧
    (∃ s : State, ∃ n : Fin 8, ∃ pin : PinSwing, ∃ falling : Bool, edgeComes s n pin falling ∧ (s.fld (R.EVT_CFG_GATE_MODE n) = 0 ∨ s.fld (R.EVT_CFG_GATE_MODE n) = 3) ∧
      ((s.evtIn n).last.all (fun t => decide (t + 2 + s.fld (R.EVT_HOLDOFF_HOLDOFF n) ≤ s.tclk)) = false ∨ s.tclk < (s.evtIn n).blankEnd)) ∧
    (∃ s : State, ∃ n : Fin 8, ∃ pin : PinSwing, ∃ falling : Bool, edgeComes s n pin falling ∧
      s.fld (R.EVT_CFG_GATE_MODE n) = 1 ∧ Tbl.get false s.evt.gate (n / 2) ≠ s.flag (R.EVT_CFG_GATE_POL n)) ∧
    (∃ s : State, ∃ n : Fin 8, ∃ pin : PinSwing, ∃ falling : Bool, edgeComes s n pin falling ∧ s.fld (R.EVT_CFG_GATE_MODE n) = 2 ∧ (s.evtIn n).armed = false) :=
  ⟨⟨{ State.reset with regs := [(0x200200, 0x640000#32)] }, 4, ⟨1000, 0⟩, by decide +kernel⟩,
   ⟨{ State.reset with evt.inp := [(4, { EvtIn.init with high := true })] }, 4, ⟨0, 0⟩, by decide +kernel⟩,
   ⟨State.reset, 0, ⟨1, 0⟩, by decide +kernel⟩,
   ⟨{ State.reset with regs := [(0x200200, 0x641001#32)] }, 4, ⟨1006, 0⟩, false, by decide +kernel⟩,
   ⟨{ State.reset with regs := [(0x2001C0, 0x13#32)], evt.inp := [(3, { EvtIn.init with blankEnd := 1, high := true })] }, 3, ⟨0, 200⟩, true, by decide +kernel⟩,
   ⟨{ State.reset with regs := [(0x200240, 0x21#32)], evt.gate := [(2, true)] }, 5, ⟨3300, 0⟩, false, by decide +kernel⟩,
   ⟨{ State.reset with regs := [(0x200280, 0x41#32)] }, 6, ⟨3300, 0⟩, false, by decide +kernel⟩⟩

/-- States and operands that meet the hypotheses of each clause of `Obligations.IntervalPairing`. -/
theorem witness_IntervalPairing :
    (∃ s : State, ∃ k : Fin 4, (s.pairSt k).start = none ∧ (s.pairSt k).orphan = none) ∧
    (∃ s : State, ∃ k : Fin 4, ∃ e : PairEdge, ∃ a : PairEdge, (s.pairSt k).start = some a ∧ (s.pairSt k).orphan = none ∧ a.dt ≤ e.dt) ∧
    (∃ s : State, ∃ k : Fin 4, ∃ e : PairEdge, ∃ b : PairEdge, (s.pairSt k).orphan = some b ∧ b.dt < e.dt ∧ (s.pairSt k).q.length < 64) ∧
    (∃ s : State, ∃ k : Fin 4, ∃ e : PairEdge, ∃ a : PairEdge, (s.pairSt k).start = some a ∧ a.dt ≤ e.dt ∧ (s.pairSt k).q.length < 64) ∧
    (∃ s : State, ∃ k : Fin 4, ∃ e : PairEdge, ∃ b : PairEdge, (s.pairSt k).start = none ∧ (s.pairSt k).orphan = some b ∧ b.dt ≤ e.dt) ∧
    (∃ s : State, ∃ k : Fin 4, s.flag (R.PAIR_CFG_EN k) = true ∧ s.flag (R.PAIR_CFG_MODE k) = false ∧ (s.pairSt k).wait = []) ∧
    (∃ s : State, ∃ k : Fin 4, ∃ w : PairWait, (s.pairSt k).wait = [w] ∧ s.tclk < w.arr + pairReach s k) ∧
    (∃ s : State, ∃ k : Fin 4, ∃ w : PairWait, (s.pairSt k).wait = [w] ∧ w.arr + pairReach s k ≤ s.tclk ∧ w.stop = true) ∧
    (∃ s : State, ∃ k : Fin 4, ∃ w : PairWait, (s.pairSt k).wait = [w] ∧ w.arr + pairReach s k ≤ s.tclk ∧ w.stop = false) :=
  ⟨⟨State.reset, 0, by decide +kernel⟩,
   ⟨{ State.reset with evt.pair := [(1, { PairSt.init with start := some { seq := 28, coast := false, stale := false, dt := 5 } })] }, 1, { seq := 0, coast := false, stale := false, dt := 256 }, { seq := 28, coast := false, stale := false, dt := 5 }, by decide +kernel⟩,
   ⟨{ State.reset with evt.pair := [(0, { PairSt.init with orphan := some { seq := 157, coast := true, stale := true, dt := 0 } })] }, 0, { seq := 0, coast := false, stale := false, dt := 1 }, { seq := 157, coast := true, stale := true, dt := 0 }, by decide +kernel⟩,
   ⟨{ State.reset with evt.pair := [(0, { PairSt.init with start := some { seq := 208, coast := false, stale := false, dt := 5 } })] }, 0, { seq := 0, coast := false, stale := false, dt := 8 }, { seq := 208, coast := false, stale := false, dt := 5 }, by decide +kernel⟩,
   ⟨{ State.reset with evt.pair := [(1, { PairSt.init with orphan := some { seq := 42, coast := false, stale := false, dt := 5 } })] }, 1, { seq := 0, coast := false, stale := false, dt := 5 }, { seq := 42, coast := false, stale := false, dt := 5 }, by decide +kernel⟩,
   ⟨{ State.reset with regs := [(0x200800, 1#32)] }, 0, by decide +kernel⟩,
   ⟨{ State.reset with tclk := 9, evt.pair := [(0, { PairSt.init with wait := [⟨true, 8, { seq := 0, coast := false, stale := false, dt := 5 }⟩] })] }, 0, ⟨true, 8, { seq := 0, coast := false, stale := false, dt := 5 }⟩, by decide +kernel⟩,
   ⟨{ State.reset with tclk := 10, evt.pair := [(0, { PairSt.init with wait := [⟨true, 8, { seq := 0, coast := false, stale := false, dt := 5 }⟩] })] }, 0, ⟨true, 8, { seq := 0, coast := false, stale := false, dt := 5 }⟩, by decide +kernel⟩,
   ⟨{ State.reset with tclk := 10, evt.pair := [(3, { PairSt.init with wait := [⟨false, 8, { seq := 0, coast := false, stale := false, dt := 5 }⟩] })] }, 3, ⟨false, 8, { seq := 0, coast := false, stale := false, dt := 5 }⟩, by decide +kernel⟩⟩

/-- States and operands that meet the hypotheses of each clause of `Obligations.EventRegistersAndQueues`. -/
theorem witness_EventRegistersAndQueues :
    (∃ s : State, ∃ n : Fin 8, ∃ e : EvtEntry, ∃ q : List EvtEntry, (s.evtIn n).q = e :: q) ∧
    (∃ s : State, ∃ n : Fin 8, (s.evtIn n).q = []) ∧
    (∃ s : State, ∃ k : Fin 4, ∃ r : PairRec, ∃ pq : List PairRec, (s.pairSt k).q = r :: pq) :=
  ⟨⟨{ State.reset with evt.inp := [(4, { EvtIn.init with q := List.replicate 512 { seq := 107, loss := false, stale := true, coast := false, falling := true, dt := 0x75F6FAC8C } })] }, 4, { seq := 107, loss := false, stale := true, coast := false, falling := true, dt := 0x75F6FAC8C }, List.replicate 511 { seq := 107, loss := false, stale := true, coast := false, falling := true, dt := 0x75F6FAC8C }, by decide +kernel⟩,
   ⟨State.reset, 0, by decide +kernel⟩,
   ⟨{ State.reset with evt.pair := [(2, { PairSt.init with q := [{ unres := true, order := true, rearm := true, coast := true, stale := true, loss := true, startSeq := 181, stopSeq := 7, interval := 5 }] })] }, 2, { unres := true, order := true, rearm := true, coast := true, stale := true, loss := true, startSeq := 181, stopSeq := 7, interval := 5 }, [], by decide +kernel⟩⟩

/-- States and operands that meet the hypotheses of each clause of `Obligations.EventCalibration`. -/
theorem witness_EventCalibration :
    (∃ s : State, s.cmdBusy hEvt = false ∧ s.evt.cal = [] ∧ s.wordN R.EVT_CMD_MASK ≠ 0) ∧
    (∃ s : State, s.cmdBusy hEvt = false ∧ s.evt.cal = [] ∧ s.wordN R.EVT_CMD_MASK = 0) ∧
    (∃ s : State, s.cmdBusy hEvt = false ∧ s.evt.cal ≠ []) ∧
    (∃ s : State, ∃ n : Nat, ∃ rest : List Nat, ∃ trims : List Int, ∃ skew : Int, s.evt.cal = n :: rest ∧ n < 9 ∧ trims.length = 16 ∧
      (trims.all (fun t => decide (-2048 ≤ t) && decide (t ≤ 2047)) = true) ∧ -2147483648 ≤ skew ∧ skew ≤ 2147483647) ∧
    (∃ s : State, ∃ n : Nat, ∃ rest : List Nat, ∃ trims : List Int, s.evt.cal = n :: rest ∧ (trims.any (fun t => decide (t < -2048) || decide (2047 < t)) = true)) :=
  ⟨⟨{ State.reset with regs := [(0x200044, 1#32)] }, by decide +kernel⟩,
   ⟨State.reset, by decide +kernel⟩,
   ⟨{ State.reset with evt.cal := [0] }, by decide +kernel⟩,
   ⟨{ State.reset with evt.cal := [1, 2] }, 1, [2], List.replicate 16 0, 0, by decide +kernel⟩,
   ⟨{ State.reset with evt.cal := [1, 2] }, 1, [2], [2048], by decide +kernel⟩⟩

/-- States and operands that meet the hypotheses of each clause of `Obligations.PortCommands`. -/
theorem witness_PortCommands :
    (∃ s : State, ∃ p : Fin 4, s.cmdBusy (hIng p) = false ∧ (∀ q : Fin 4, s.flag (R.ING_PORT_STATUS_CAL_BUSY q) = false) ∧ (s.portState p = psRun ∨ s.portState p = psSpared)) ∧
    (∃ s : State, ∃ p : Fin 4, s.cmdBusy (hIng p) = false ∧ (∀ q : Fin 4, s.flag (R.ING_PORT_STATUS_CAL_BUSY q) = false) ∧ s.portState p ≠ psRun ∧ s.portState p ≠ psSpared) ∧
    (∃ s : State, ∃ p : Fin 4, s.cmdBusy (hIng p) = false ∧ (∃ q : Fin 4, s.flag (R.ING_PORT_STATUS_CAL_BUSY q) = true)) ∧
    (∃ s : State, ∃ p : Fin 4, ∃ l : Fin 9, s.cmdBusy (hIng p) = false ∧ s.fld (R.ING_CMD_ARG_LANE p) = l ∧ (s.lnSt p l = lnReady ∨ s.lnSt p l = lnActive) ∧ s.jesd p = false) ∧
    (∃ s : State, ∃ p : Fin 4, s.cmdBusy (hIng p) = false ∧ 8 < s.fld (R.ING_CMD_ARG_LANE p)) ∧
    (∃ s : State, ∃ p : Fin 4, ∃ l : Fin 9, s.cmdBusy (hIng p) = false ∧ s.fld (R.ING_CMD_ARG_LANE p) = l ∧ s.lnSt p l ≠ lnReady ∧ s.lnSt p l ≠ lnActive) ∧
    (∃ s : State, ∃ p : Fin 4, s.cmdBusy (hIng p) = false ∧ s.portState p ≠ psDown ∧ s.flag (R.ING_PORT_CFG_EN p) = true ∧ (s.portSt p).cfgBad = false) ∧
    (∃ s : State, ∃ p : Fin 4, s.cmdBusy (hIng p) = false ∧ s.portState p = psDown) ∧
    (∃ s : State, ∃ p : Fin 4, s.cmdBusy (hIng p) = false ∧ s.portState p = psIdle) ∧
    (∃ s : State, ∃ p : Fin 4, s.cmdBusy (hIng p) = false ∧ s.portState p ≠ psIdle) :=
  ⟨⟨{ State.reset with regs := [(0x403044, 2#32)] }, 2, by decide +kernel⟩,
   ⟨State.reset, 0, by decide +kernel⟩,
   ⟨{ State.reset with regs := [(0x403044, 8#32)] }, 0, by decide +kernel⟩,
   ⟨{ State.reset with regs := [(0x40204C, 7#32), (0x4022C0, 4#32)] }, 1, 7, by decide +kernel⟩,
   ⟨{ State.reset with regs := [(0x40304C, 0xC#32)] }, 2, by decide +kernel⟩,
   ⟨{ State.reset with regs := [(0x40104C, 8#32)] }, 0, 8, by decide +kernel⟩,
   ⟨{ State.reset with regs := [(0x403040, 1#32), (0x403044, 1#32)] }, 2, by decide +kernel⟩,
   ⟨State.reset, 0, by decide +kernel⟩,
   ⟨{ State.reset with regs := [(0x402044, 5#32)] }, 1, by decide +kernel⟩,
   ⟨State.reset, 0, by decide +kernel⟩⟩

/-- States and operands that meet the hypotheses of each clause of `Obligations.PortFormat`. -/
theorem witness_PortFormat :
    (∃ s : State, ∃ p : Fin 4, s.bonded p = false ∧ s.cmdBusy (hIng p) = false ∧ s.flag (R.ING_PORT_CFG_EN p) = true ∧ fmtLegal (s.wordN (R.ING_PORT_CFG p)) = true) ∧
    (∃ s : State, ∃ p : Fin 4, s.bonded p = false ∧ s.cmdBusy (hIng p) = false ∧ fmtLegal (s.wordN (R.ING_PORT_CFG p)) = false) ∧
    (∃ s : State, ∃ p : Fin 4, ∃ val : Word, ∃ be : BitVec 4, s.bonded p = false ∧ s.flag (R.ING_PORT_CFG_EN p) = false ∧
      (blend (s.wordN (R.ING_PORT_CFG p)) val.toNat (0x0003FF7F &&& beMask be.toNat) : Nat) % 2 = 0) ∧
    (∃ s : State, ∃ p : Fin 4, ∃ val : Word, ∃ be : BitVec 4, s.bonded p = false ∧ s.flag (R.ING_PORT_CFG_EN p) = true ∧
      (blend (s.wordN (R.ING_PORT_CFG p)) val.toNat (0x0003FF7F &&& beMask be.toNat) : Nat) % 2 = 0) ∧
    (∃ s : State, ∃ p : Fin 4, ∃ val : Word, ∃ be : BitVec 4, s.bonded p = false ∧ s.flag (R.ING_PORT_CFG_EN p) = false ∧
      (blend (s.wordN (R.ING_PORT_CFG p)) val.toNat (0x0003FF7F &&& beMask be.toNat) : Nat) % 2 = 1 ∧
      fmtLegal (blend (s.wordN (R.ING_PORT_CFG p)) val.toNat (0x0003FF7F &&& beMask be.toNat) : Nat) = true) :=
  ⟨⟨{ State.reset with regs := [(0x403040, 1#32)] }, 2, by decide +kernel⟩,
   ⟨{ State.reset with regs := [(0x402040, 0x402#32)] }, 1, by decide +kernel⟩,
   ⟨State.reset, 0, 0#32, 0#4, by decide +kernel⟩,
   ⟨{ State.reset with regs := [(0x403040, 1#32)] }, 2, 0#32, 1#4, by decide +kernel⟩,
   ⟨State.reset, 0, 1#32, 1#4, by decide +kernel⟩⟩

/-- States and operands that meet the hypotheses of each clause of `Obligations.LaneTraining`. -/
theorem witness_LaneTraining :
    (∃ s : State, ∃ p : Fin 4, ∃ l : Fin 9, s.lnSt p l = lnDetect) ∧
    (∃ s : State, ∃ p : Fin 4, ∃ l : Fin 9, ∃ q : Nat, ∃ q' : Nat, ∃ rest : List Nat, s.lnSt p l = lnTrain ∧ (s.lane p l).sweep = q :: q' :: rest ∧ q' < 8) ∧
    (∃ s : State, ∃ p : Fin 4, ∃ l : Fin 9, ∃ errs : Nat, ∃ q : Nat, s.lnSt p l = lnTrain ∧ (s.lane p l).sweep = [q] ∧
      (s.lane p l).best.all (fun b => decide (errs < b.2)) = true ∧ errs * 100000 ≤ 16384 * 544 ∧ s.lnLogical p l = 15 ∧ (s.portSt p).gone = [] ∧
      s.flag (R.ING_PORT_CFG_SPARE_IDLE p) = false) ∧
    (∃ s : State, ∃ p : Fin 4, ∃ l : Fin 9, ∃ errs : Nat, ∃ q : Nat, s.lnSt p l = lnTrain ∧ (s.lane p l).sweep = [q] ∧
      (s.lane p l).best.all (fun b => decide (16384 * 544 < b.2 * 100000)) = true ∧ 16384 * 544 < errs * 100000) ∧
    (∃ s : State, ∃ p : Fin 4, ∃ l : Fin 9, (s.lnSt p l = lnLock ∨ s.lnSt p l = lnTrain)) ∧
    (∃ s : State, ∃ p : Fin 4, ∃ l : Fin 9, s.lnSt p l = lnRetrain) ∧
    (∃ s : State, ∃ p : Fin 4, ∃ l : Fin 9, s.lnSt p l = lnFailed ∧ s.jesd p = false) ∧
    (∃ s : State, ∃ p : Fin 4, ∃ l : Fin 9, s.jesd p = false ∧ (s.lnSt p l = lnReady ∨ s.lnSt p l = lnActive)) :=
  ⟨⟨{ State.reset with regs := [(0x401300, 1#32)] }, 0, 8, by decide +kernel⟩,
   ⟨{ State.reset with regs := [(0x401140, 3#32)], ing.lane := [(1, { LaneSt.init with sweep := [7, 1] })] }, 0, 1, 7, 1, [], by decide +kernel⟩,
   ⟨{ State.reset with regs := [(0x404240, 0xF003#32)], ing.lane := [(32, { LaneSt.init with sweep := [3] })] }, 3, 5, 0, 3, by decide +kernel⟩,
   ⟨{ State.reset with regs := [(0x402280, 3#32)], ing.lane := [(15, { LaneSt.init with sweep := [3] })] }, 1, 6, 90, 3, by decide +kernel⟩,
   ⟨{ State.reset with regs := [(0x402280, 2#32)] }, 1, 6, by decide +kernel⟩,
   ⟨{ State.reset with regs := [(0x4041C0, 6#32)] }, 3, 3, by decide +kernel⟩,
   ⟨{ State.reset with regs := [(0x404140, 7#32)] }, 3, 1, by decide +kernel⟩,
   ⟨{ State.reset with regs := [(0x403200, 4#32)] }, 2, 4, by decide +kernel⟩⟩

/-- States and operands that meet the hypotheses of each clause of `Obligations.LaneService`. -/
theorem witness_LaneService :
    (∃ s : State, ∃ p : Fin 4, ∃ l : Fin 9, s.jesd p = false ∧ (s.lnSt p l = lnReady ∨ s.lnSt p l = lnActive)) ∧
    (∃ s : State, ∃ p : Fin 4, ∃ k : Fin 8, k.val ∈ (s.portSt p).moved ∧ s.lnSt p (s.laneOf p k) = lnActive) ∧
    (∃ s : State, ∃ p : Fin 4, ∃ l : Fin 9, s.lnSt p l = lnIdle ∧ (s.lane p l).waking = true ∧ ((s.lane p l).prev = lnReady ∨ (s.lane p l).prev = lnActive)) ∧
    (∃ s : State, ∃ p : Fin 4, ∃ l : Fin 9, s.lnSt p l = lnIdle ∧ (s.lane p l).waking = true ∧ (s.lane p l).prev = lnActive) ∧
    (∃ s : State, ∃ p : Fin 4, ∃ l : Fin 9, s.lnSt p l = lnIdle ∧ (s.lane p l).waking = true ∧ (s.lane p l).prev ≠ lnReady ∧ (s.lane p l).prev ≠ lnActive ∧
      ((s.lane p l).prev ≠ lnOff ∨ (s.flag (R.ING_PORT_CFG_EN p) = true ∧ (s.portSt p).cfgBad = false ∧ s.jesd p = false))) ∧
    (∃ s : State, ∃ p : Fin 4, ∃ l : Fin 9, s.lnSt p l = lnIdle ∧ (s.lane p l).waking = true ∧ (s.lane p l).prev = lnOff ∧ s.flag (R.ING_PORT_CFG_EN p) = false) ∧
    (∃ s : State, ∃ p : Fin 4, ∃ l : Fin 9, s.jesd p = true ∧ l ≠ 8 ∧ (s.lnSt p l = lnLock ∨ s.lnSt p l = lnDetect ∨ s.lnSt p l = lnRetrain ∨ s.lnSt p l = lnFailed)) ∧
    (∃ s : State, ∃ p : Fin 4, ∃ l : Fin 9, s.jesd p = true ∧ l ≠ 8 ∧ s.flag (R.ING_PORT_CFG_EN p) = true ∧ s.lnSt p l ≠ lnActive ∧ l.val ∉ (s.portSt p).gone ∧
      (s.portSt p).cfgBad = false ∧ (s.portSt p).idle = false ∧ s.portState p ≠ psDead) :=
  ⟨⟨{ State.reset with regs := [(0x403200, 4#32)] }, 2, 4, by decide +kernel⟩,
   ⟨{ State.reset with regs := [(0x402140, 5#32)], ing.port := [(1, { PortSt.init with asm := false, moved := [1], calFirst := false })] }, 1, 1, by decide +kernel⟩,
   ⟨{ State.reset with regs := [(0x402280, 8#32)], ing.lane := [(15, { LaneSt.init with prev := 4, waking := true })] }, 1, 6, by decide +kernel⟩,
   ⟨{ State.reset with regs := [(0x402280, 8#32)], ing.lane := [(15, { LaneSt.init with prev := 5, waking := true })] }, 1, 6, by decide +kernel⟩,
   ⟨{ State.reset with regs := [(0x4031C0, 8#32)], ing.lane := [(21, { LaneSt.init with prev := 2, waking := true })] }, 2, 3, by decide +kernel⟩,
   ⟨{ State.reset with regs := [(0x4031C0, 8#32)], ing.lane := [(21, { LaneSt.init with waking := true })] }, 2, 3, by decide +kernel⟩,
   ⟨{ State.reset with regs := [(0x402280, 1#32)], ing.port := [(1, { PortSt.init with link := 2, asm := false, calFirst := false })] }, 1, 6, by decide +kernel⟩,
   ⟨{ State.reset with regs := [(0x403040, 1#32)], ing.port := [(2, { PortSt.init with link := 2, asm := false, calFirst := false })] }, 2, 0, by decide +kernel⟩⟩

/-- States and operands that meet the hypotheses of each clause of `Obligations.LinkData`. -/
theorem witness_LinkData :
    (∃ s : State, ∃ p : Fin 4, ∃ l : Fin 9, ∃ levels : List Level, ∃ c : List Nat, ∃ n : Nat, s.jesd p = false ∧ s.lnSt p l = lnActive ∧
      s.flag (R.ING_LANE_STATUS_AM_LOCK p l) = true ∧ (s.lane p l).since ≠ 16384 ∧ rsCorrect (s.rxSyms p levels) = some (c, n)) ∧
    (∃ s : State, ∃ p : Fin 4, ∃ l : Fin 9, ∃ levels : List Level, s.jesd p = false ∧ s.lnSt p l = lnActive ∧ s.flag (R.ING_LANE_STATUS_AM_LOCK p l) = true ∧
      (s.lane p l).since ≠ 16384 ∧ rsCorrect (s.rxSyms p levels) = none ∧ (s.lane p l).unc.length < 15) ∧
    (∃ s : State, ∃ p : Fin 4, ∃ l : Fin 9, s.jesd p = false ∧ (s.lnSt p l = lnDetect ∨ s.lnSt p l = lnFailed)) ∧
    (∃ s : State, ∃ p : Fin 4, ∃ l : Fin 9, ∃ pay : Nat, pay = (SyncRx.payload { payload := 0x10000000000000053#256, anchor := none }).toNat ∧ s.jesd p = false ∧
      s.flag (R.ING_LANE_STATUS_AM_LOCK p l) = true ∧ bits pay 7 0 = 0x53 ∧
      s.lnSt p l = lnActive ∧ bits pay 66 64 ≠ bits (s.portSt p).link 10 8 ∧ bits pay 13 12 = s.fld (R.ING_PORT_CFG_PORT_ID p)) ∧
    (∃ s : State, ∃ p : Fin 4, ∃ l : Fin 9, ∃ pay : Nat, pay = (SyncRx.payload { payload := 0x40000000000000053#256, anchor := none }).toNat ∧ s.jesd p = false ∧
      s.flag (R.ING_LANE_STATUS_AM_LOCK p l) = true ∧ bits pay 7 0 = 0x53 ∧
      s.lnSt p l = lnActive ∧ s.portRuns p = false ∧ (s.portSt p).recheck = false ∧ (s.portSt p).fmtOk = [] ∧ bits pay 11 8 < 8 ∧ bits pay 66 64 = bits (s.portSt p).link 10 8 ∧
      bits pay 67 67 = bits (s.portSt p).link 11 11 ∧ bits pay 70 68 = bits (s.portSt p).link 6 4 ∧ bits pay 13 12 = s.fld (R.ING_PORT_CFG_PORT_ID p)) ∧
    (∃ s : State, ∃ p : Fin 4, ∃ l : Fin 9, ∃ rx : SyncRx, ∃ pay : Nat, ∃ a : AnchorTap, pay = rx.payload.toNat ∧ s.jesd p = false ∧ s.flag (R.ING_LANE_STATUS_AM_LOCK p l) = true ∧
      bits pay 7 0 = 0x53 ∧ s.lnSt p l = lnActive ∧ (s.portSt p).recheck = true ∧ (s.portSt p).asm = false ∧ bits pay 11 8 = 0 ∧ rx.anchor = some a ∧ syncBad s p pay = (false, false) ∧
      bits pay 63 16 = predictedFc (s.portSt p) ∧ anchorNear s p (bits pay 63 16) a = true) ∧
    (∃ s : State, ∃ p : Fin 4, ∃ l : Fin 9, ∃ rx : SyncRx, ∃ pay : Nat, ∃ a : AnchorTap, pay = rx.payload.toNat ∧ s.jesd p = false ∧ s.flag (R.ING_LANE_STATUS_AM_LOCK p l) = true ∧
      bits pay 7 0 = 0x53 ∧ s.lnSt p l = lnActive ∧ (s.portSt p).recheck = true ∧ (s.portSt p).asm = false ∧ bits pay 11 8 = 0 ∧ rx.anchor = some a ∧ syncBad s p pay = (false, false) ∧
      anchorNear s p (bits pay 63 16) a = false) ∧
    (∃ s : State, ∃ p : Fin 4, s.jesd p = true ∧ s.flag (R.ING_PORT_CFG_EN p) = true ∧ (s.portSt p).sysref = none ∧
      (∀ q : Fin 4, q ≠ p → s.flag (R.ING_PORT_CFG_EN q) = false)) ∧
    (∃ s : State, ∃ p : Fin 4, s.portRuns p = false ∧ (s.portSt p).relR ≠ 0 ∧ (s.portSt p).relR < 8191) ∧
    (∃ s : State, ∃ p : Fin 4, ∃ jesd : JesdRx, s.jesd p = true ∧ s.portRuns p = true ∧ s.allActive p = true ∧ (s.portSt p).deliver = some 0 ∧
      (s.portSt p).relR ≠ 0 ∧ (s.portSt p).relR < 8191 ∧ s.flag (R.ING_PORT_CFG_CLIP_EN p) = false ∧ (∀ i : Fin 16, (jesdWord (s.portSt p).fmt jesd i).isSome = true) ∧
      jesdWord (s.portSt p).fmt jesd 9 = some 0x8A) ∧
    (∃ s : State, ∃ p : Fin 4, ∃ jesd : JesdRx, s.jesd p = true ∧ s.portRuns p = true ∧ s.allActive p = true ∧ (s.portSt p).deliver = some 0 ∧
      (s.portSt p).relR ≠ 0 ∧ (s.portSt p).relR < 8191 ∧ s.flag (R.ING_PORT_CFG_CLIP_EN p) = false ∧ jesdWord (s.portSt p).fmt jesd 3 = none) :=
  ⟨⟨{ State.reset with regs := [(0x402180, 0x45#32)] }, 1, 2, List.replicate 2720 .m3, List.replicate 544 0, 0, by decide +kernel⟩,
   ⟨{ State.reset with regs := [(0x401300, 0x45#32)] }, 0, 8, [], by decide +kernel⟩,
   ⟨{ State.reset with regs := [(0x401300, 0x11#32)] }, 0, 8, by decide +kernel⟩,
   ⟨{ State.reset with regs := [(0x401100, 0x45#32)] }, 0, 0, 0x10000000000000053, by decide +kernel⟩,
   ⟨{ State.reset with regs := [(0x4031C0, 0x45#32)], ing.port := [(2, { PortSt.init with link := 1024, asm := false, calFirst := false })] }, 2, 3, 0x40000000000000053, by decide +kernel⟩,
   ⟨{ State.reset with regs := [(0x401100, 0x45#32)], ing.port := [(0, { PortSt.init with epTick := 1000, asm := false, recheck := true })] }, 0, 0, { payload := 0x53#256, anchor := some { base := 22609920, tap := 4 } }, 0x53,
     { base := 22609920, tap := 4 }, by decide +kernel⟩,
   ⟨{ State.reset with regs := [(0x401100, 0x45#32)], ing.port := [(0, { PortSt.init with epTick := 1000, asm := false, recheck := true })] }, 0, 0, { payload := 0x53#256, anchor := some { base := 22609920, tap := 5 } }, 0x53,
     { base := 22609920, tap := 5 }, by decide +kernel⟩,
   ⟨{ State.reset with regs := [(0x402040, 1#32)], ing.port := [(1, { PortSt.init with link := 2, asm := false, calFirst := false })] }, 1, by decide +kernel⟩,
   ⟨{ State.reset with ing.port := [(2, { PortSt.init with asm := false, relR := 1, calFirst := false })] }, 2, by decide +kernel⟩,
   ⟨{ State.reset with regs := [(0x401044, 2#32)] ++ (List.range 8).map (fun k => (0x401100 + 0x40 * k, 5#32)), ing.port := [(0, { PortSt.init with link := 2, fmt := 2, asm := false, relR := 1, deliver := some 0, calFirst := false })] }, 0,
     (List.range 8).map (fun l => some [0x40#8 + BitVec.ofNat 8 l, 0x89#8 + BitVec.ofNat 8 l]), by decide +kernel⟩,
   ⟨{ State.reset with regs := [(0x401044, 2#32)] ++ (List.range 8).map (fun k => (0x401100 + 0x40 * k, 5#32)), ing.port := [(0, { PortSt.init with link := 2, fmt := 2, asm := false, relR := 1, deliver := some 0, calFirst := false })] }, 0,
     [some [1#8, 2#8], some [1#8, 2#8], some [1#8, 2#8], none, some [1#8, 2#8], some [1#8, 2#8], some [1#8, 2#8], some [1#8, 2#8]], by decide +kernel⟩⟩

/-- States and operands that meet the hypotheses of each clause of `Obligations.EpochsAndPortCalibration`. -/
theorem witness_EpochsAndPortCalibration :
    (∃ s : State, ∃ p : Fin 4, ∃ fc : BitVec 48, ∃ a : AnchorTap, (∀ q : Fin 4, (s.portSt q).calDue = false) ∧ s.portState p = psAssemble ∧ s.allActive p = true ∧
      (s.portSt p).moved = [] ∧ s.faultBit (hIng p) 1 = false ∧ s.faultBit (hIng p) 2 = false ∧ s.flag (R.ING_PORT_STATUS_EPOCH_VALID p) = true ∧
      (anchorTime s p a - predictedAnchor s p fc.toNat).natAbs ≤ 5120) ∧
    (∃ s : State, ∃ p : Fin 4, ∃ fc : BitVec 48, ∃ a : AnchorTap, (∀ q : Fin 4, (s.portSt q).calDue = false) ∧ s.portState p = psAssemble ∧ s.allActive p = true ∧
      (s.portSt p).moved = [] ∧ s.faultBit (hIng p) 1 = false ∧ s.faultBit (hIng p) 2 = false ∧
      (s.flag (R.ING_PORT_STATUS_EPOCH_VALID p) = false ∨ 5120 < (anchorTime s p a - predictedAnchor s p fc.toNat).natAbs)) ∧
    (∃ s : State, ∃ p : Fin 4, (∀ q : Fin 4, (s.portSt q).calDue = false) ∧ s.portRuns p = true ∧ s.flag (R.ING_PORT_CFG_EN p) = true ∧ (s.portSt p).cfgBad = false ∧
      (s.portSt p).idle = false ∧ (s.portSt p).gone = []) ∧
    (∃ s : State, ∃ p : Fin 4, (∀ q : Fin 4, (s.portSt q).calDue = false) ∧ s.wordN (R.ING_CAL_PERIOD p) ≠ 0 ∧ s.portRuns p = true ∧
      (∀ q : Fin 4, s.flag (R.ING_PORT_STATUS_CAL_BUSY q) = false)) ∧
    (∃ s : State, ∃ p : Fin 4, (∀ q : Fin 4, (s.portSt q).calDue = false) ∧ s.wordN (R.ING_CAL_PERIOD p) ≠ 0 ∧ (∃ q : Fin 4, s.flag (R.ING_PORT_STATUS_CAL_BUSY q) = true)) ∧
    (∃ s : State, ∃ p : Fin 4, ∃ r : PortCalResult, (∀ q : Fin 4, (s.portSt q).calDue = false) ∧ s.flag (R.ING_PORT_STATUS_CAL_BUSY p) = true ∧ r.wf = true ∧ calResultOk r = true) ∧
    (∃ s : State, ∃ p : Fin 4, ∃ l : Fin 9, ∃ i : Fin 16, ∃ goal : Int, ∃ rest : List TrimMove, (∀ q : Fin 4, (s.portSt q).calDue = false) ∧ s.portRuns p = false ∧ (s.portSt p).relR = 0 ∧
      (s.portSt p).trimTo = { off := R.ING_TRIM p l i, w := 12, goal := goal } :: rest ∧ (s.portSt p).skewTo = none ∧ (s.portSt p).phaseTo = none ∧ -2048 ≤ goal ∧ goal ≤ 2047 ∧
      sext 12 (s.wordN (R.ING_TRIM p l i)) ≠ goal) ∧
    (∃ s : State, ∃ p : Fin 4, ∃ r : PortCalResult, (∀ q : Fin 4, (s.portSt q).calDue = false) ∧ s.flag (R.ING_PORT_STATUS_CAL_BUSY p) = true ∧ calResultOk r = false) :=
  ⟨⟨{ State.reset with tclk := 0x186A0, regs := [(0x403044, 0x11#32)] ++ (List.range 8).map (fun k => (0x403100 + 0x40 * k, BitVec.ofNat 32 (0x5 + 0x0 * k))), ing.port := [(2, { PortSt.init with epTick := 30000, asm := false, calFirst := false })] }, 2, 0x4D#48, { base := 0x5D2140000, tap := 0 }, by decide +kernel⟩,
   ⟨{ State.reset with regs := [(0x403044, 1#32)] ++ (List.range 8).map (fun k => (0x403100 + 0x40 * k, BitVec.ofNat 32 (0x5 + 0x0 * k))) }, 2, 0#48, { base := 0, tap := 0 }, by decide +kernel⟩,
   ⟨{ State.reset with regs := [(0x401040, 1#32), (0x401044, 2#32)] }, 0, by decide +kernel⟩,
   ⟨{ State.reset with regs := [(0x401044, 2#32), (0x401058, 1#32)] }, 0, by decide +kernel⟩,
   ⟨{ State.reset with regs := [(0x403044, 8#32), (0x404058, 1#32)] }, 3, by decide +kernel⟩,
   ⟨{ State.reset with regs := [(0x403044, 8#32)] }, 2, { trims := List.replicate 9 (List.replicate 16 0), laneSkew := List.replicate 9 0, portSkew := 0, phase := 0 }, by decide +kernel⟩,
   ⟨{ State.reset with ing.port := [(1, { PortSt.init with trimTo := [{ off := 0x4029CC, w := 12, goal := -2048 }] })] }, 1, 7, 3, -2048, [], by decide +kernel⟩,
   ⟨{ State.reset with regs := [(0x403044, 8#32)] }, 2, { trims := List.replicate 9 (List.replicate 16 0), laneSkew := List.replicate 9 0, portSkew := 0, phase := 40960 }, by decide +kernel⟩⟩

/-- PAM4 levels to bits (R76): the symbol 0b1011000111, sent least significant bit first, travels as the pairs 11, 10, 00, 11, 01. -/
theorem test_lineSymbols : lineSymbols 0 [.p1, .p3, .m3, .p1, .m1] = [0b1011000111] ∧ lineSymbols 1 [.p3, .m3, .p3, .m3, .m3, .m3, .m3, .m3, .m3, .p3] = [0b1000000101] := by decide

/-- The CRC-8 of the back channel over a message with only its first bit sent set: the register after 32 steps of R86's loop. -/
theorem test_bcCrc : bcCrc (2 ^ 31) = 0x07 ∧ bcCrc (2 ^ 30) = 0x0E ∧ bcFrame 0 = 0x5A := by decide

/-- N′ = 12 with F = 3 (R103): word 1 of a frame is the low half of lane 0's second octet and its third octet; with W = 10 two tail bits go. -/
theorem test_jesdWord : jesdWord 0x202 [some [0xAB, 0xCD, 0xEF], some [0, 0, 0], some [0, 0, 0], some [0, 0, 0], some [0, 0, 0], some [0, 0, 0], some [0, 0, 0], some [0, 0, 0]] 1 = some 0xDEF ∧
    jesdWord 0x102 [some [0xAB, 0xCD, 0xEF], some [0, 0, 0], some [0, 0, 0], some [0, 0, 0], some [0, 0, 0], some [0, 0, 0], some [0, 0, 0], none] 0 = some (0xABC / 4) := by decide

/-- States and operands that meet the hypotheses of each clause of `Obligations.ReachFrames`. -/
theorem witness_ReachFrames :
    (∃ s : State, ∃ p : Fin 4, ∃ k : Fin 3, ∃ g : Grid, ∃ j : Nat, k = 0 ∧ (takeFrame 0 p s).1 = some (g, j)) ∧
    (∃ s : State, ∃ p : Fin 4, ∃ k : Fin 3, ∃ g : Grid, ∃ j : Nat, k = 1 ∧ (takeFrame 1 p s).1 = some (g, j)) ∧
    (∃ s : State, ∃ p : Fin 4, ∃ k : Fin 3, ∃ g : Grid, ∃ j : Nat, k = 2 ∧ (takeFrame 2 p s).1 = some (g, j)) ∧
    (∃ s : State, ∃ p : Fin 4, ∃ k : Fin 3, ∃ fr : DrFrame, ∃ rest : List DrFrame, k = 2 ∧ (s.reach 2 p).passA = fr :: rest) ∧
    (∃ s : State, ∃ p : Fin 4, ∃ k : Fin 3, ∃ i : Integ, k = 2 ∧ (s.reach 2 p).late = true ∧ (s.reach 2 p).integ = some i ∧ (s.reach 2 p).owed = true) ∧
    (∃ s : State, ∃ p : Fin 4, ∃ k : Fin 3, k = 2 ∧ (s.reach 2 p).late = true ∧ (s.reach 2 p).owed = false) :=
  ⟨⟨{ State.reset with rch.reach := [(1, { Reach.init with grids := [{ cfg := [(0x811040, 561), (0x811044, 0), (0x811048, 0x4060000), (0x81104C, 0x10002), (0x811050, 0), (0x811054, 0), (0x811058, 0), (0x81105C, 0)], fmt := 1, bond := false, origin := 0, origin2 := 0, next := 0, stop := none, cut := none, cut2 := none, epoch := false, cuts := [] }] })], weir.hist := [(1, List.replicate 8 { v := 0, psw := 0, dt := 0 })] }, 1, 0, { cfg := [(0x811040, 561), (0x811044, 0), (0x811048, 0x4060000), (0x81104C, 0x10002), (0x811050, 0), (0x811054, 0), (0x811058, 0), (0x81105C, 0)], fmt := 1, bond := false, origin := 0, origin2 := 0, next := 0, stop := none, cut := none, cut2 := none, epoch := false, cuts := [] }, 0, by decide +kernel⟩,
   ⟨{ State.reset with rch.reach := [(6, { Reach.init with grids := [{ cfg := [(0x822040, 561), (0x822044, 0), (0x822048, 0x83E0000), (0x82204C, 3), (0x822050, 2), (0x822054, 0), (0x822058, 0), (0x82205C, 0)], fmt := 1, bond := false, origin := 0, origin2 := 0, next := 0, stop := none, cut := none, cut2 := none, epoch := false, cuts := [] }] })], weir.hist := [(2, List.replicate 8 { v := 0, psw := 0, dt := 0 })] }, 2, 1, { cfg := [(0x822040, 561), (0x822044, 0), (0x822048, 0x83E0000), (0x82204C, 3), (0x822050, 2), (0x822054, 0), (0x822058, 0), (0x82205C, 0)], fmt := 1, bond := false, origin := 0, origin2 := 0, next := 0, stop := none, cut := none, cut2 := none, epoch := false, cuts := [] }, 0, by decide +kernel⟩,
   ⟨{ State.reset with rch.reach := [(10, { Reach.init with grids := [{ cfg := [(0x832040, 49), (0x832044, 0), (0x832048, 0x4340000), (0x83204C, 3), (0x832050, 2), (0x832054, 0), (0x832058, 0), (0x83205C, 0)], fmt := 2049, bond := false, origin := 0, origin2 := 0, next := 0, stop := some 3, cut := none, cut2 := none, epoch := false, cuts := [] }] })], weir.hist := [(2, List.replicate 16 { v := 0, psw := 0, dt := 0 })] }, 2, 2, { cfg := [(0x832040, 49), (0x832044, 0), (0x832048, 0x4340000), (0x83204C, 3), (0x832050, 2), (0x832054, 0), (0x832058, 0), (0x83205C, 0)], fmt := 2049, bond := false, origin := 0, origin2 := 0, next := 0, stop := some 3, cut := none, cut2 := none, epoch := false, cuts := [] }, 0, by decide +kernel⟩,
   ⟨{ State.reset with rch.reach := [(8, { Reach.init with passA := [{ num := 1, grid := { cfg := [(0x830040, 49), (0x830044, 0), (0x830048, 0x4100000), (0x83004C, 0), (0x830050, 6), (0x830054, 0), (0x830058, 0), (0x83005C, 0)], fmt := 2049, bond := false, origin := 0, origin2 := 0, next := 0, stop := none, cut := none, cut2 := none, epoch := false, cuts := [] }, t := [[(1, 2), (3, 4)], [(5, 6), (7, 8)]], base := 0, es := [0], psw := 1, dtFirst := 5, dtLast := 9, sat := false, stale := false }] })] }, 0, 2, { num := 1, grid := { cfg := [(0x830040, 49), (0x830044, 0), (0x830048, 0x4100000), (0x83004C, 0), (0x830050, 6), (0x830054, 0), (0x830058, 0), (0x83005C, 0)], fmt := 2049, bond := false, origin := 0, origin2 := 0, next := 0, stop := none, cut := none, cut2 := none, epoch := false, cuts := [] }, t := [[(1, 2), (3, 4)], [(5, 6), (7, 8)]], base := 0, es := [0], psw := 1, dtFirst := 5, dtLast := 9, sat := false, stale := false }, [], by decide +kernel⟩,
   ⟨{ State.reset with rch.reach := [(9, { Reach.init with integ := some { frames := 1, sum := List.replicate 8 { m := 0, e := 0 }, blk := [], s1 := [], s2 := [], cnt := List.replicate 8 0, rfi := [], xp := [], xpBlk := [], xpPsw := 0, inBlk := 0, psw := 0, dtFirst := 0, dtLast := 0, lvl1 := [], resid := 0, at1 := 0, at2 := 0 }, late := true, owed := true })] }, 1, 2, { frames := 1, sum := List.replicate 8 { m := 0, e := 0 }, blk := [], s1 := [], s2 := [], cnt := List.replicate 8 0, rfi := [], xp := [], xpBlk := [], xpPsw := 0, inBlk := 0, psw := 0, dtFirst := 0, dtLast := 0, lvl1 := [], resid := 0, at1 := 0, at2 := 0 }, by decide +kernel⟩,
   ⟨{ State.reset with rch.reach := [(10, { Reach.init with late := true })] }, 2, 2, by decide +kernel⟩⟩

/-- States and operands that meet the hypotheses of each clause of `Obligations.ReachControl`. -/
theorem witness_ReachControl :
    (∃ s : State, ∃ k : Fin 3, ∃ p : Fin 4, ∃ sg : Seg, ∃ rest : List Seg, (s.reach k p).segs = sg :: rest ∧ sg.buf < 64 ∧ s.full sg.buf = false ∧ memWf s.mem = true) ∧
    (∃ s : State, ∃ k : Fin 3, ∃ p : Fin 4, ∃ sg : Seg, ∃ rest : List Seg, (s.reach k p).segs = sg :: rest ∧ s.full sg.buf = true) ∧
    (∃ s : State, ∃ k : Fin 3, ∃ p : Fin 4, ∃ ws : Tbl Nat, s.snapOf (hRch k p) = some ws ∧ reachLegal (overlay s ws) k p = false) ∧
    (∃ s : State, ∃ k : Fin 3, ∃ p : Fin 4, ∃ ws : Tbl Nat, s.snapOf (hRch k p) = some ws ∧ reachLegal (overlay s ws) k p = true) ∧
    (∃ s : State, ∃ p : Fin 4, s.cmdBusy (hRch 0 p) = false ∧ s.slave p = false ∧ (s.rset 0 p).en = true) ∧
    (∃ s : State, ∃ p : Fin 4, s.cmdBusy (hRch 0 p) = false ∧ (s.slave p = true ∨ (s.rset 0 p).en = false)) ∧
    (∃ s : State, ∃ k : Fin 3, ∃ p : Fin 4, k ≠ 0 ∧ s.cmdBusy (hRch k p) = false ∧ (s.slave p = true ∨ (s.rset k p).en = false ∨ (s.rset k p).f = 1)) ∧
    (∃ s : State, ∃ k : Fin 3, ∃ p : Fin 4, ∃ g : Grid, k ≠ 0 ∧ s.cmdBusy (hRch k p) = false ∧ s.slave p = false ∧ (s.rset k p).en = true ∧ (s.rset k p).f ≠ 1 ∧
      (s.reach k p).integ ≠ none ∧ (s.reach k p).passA = [] ∧ (s.reach k p).grids ≠ [] ∧ (s.reach k p).grids.all (fun g => decide (g.stop.getD (g.begun s k p) ≤ g.next)) = true) ∧
    (∃ s : State, ∃ k : Fin 3, ∃ p : Fin 4, ∃ g : Grid, k ≠ 0 ∧ s.cmdBusy (hRch k p) = false ∧ s.slave p = false ∧ (s.rset k p).en = true ∧ (s.rset k p).f ≠ 1 ∧
      (s.reach k p).grids = [g] ∧ g.stop = none ∧ g.next < g.begun s k p) ∧
    (∃ s : State, ∃ k : Fin 3, ∃ p : Fin 4, ∃ fr : DrFrame, ∃ fs : List DrFrame, k ≠ 0 ∧ s.cmdBusy (hRch k p) = false ∧ s.slave p = false ∧ (s.rset k p).en = true ∧ (s.rset k p).f ≠ 1 ∧
      (s.reach k p).grids.all (fun g => decide (g.stop.getD (g.begun s k p) ≤ g.next)) = true ∧ (s.reach k p).passA = fs ++ [fr]) ∧
    (∃ s : State, ∃ p : Fin 4, s.cmdBusy (hRch 2 p) = false ∧ s.slave p = false ∧ (s.rset 2 p).en = true ∧ s.bonded p = false ∧
      drNeed s p (s.rset 2 p) ≤ s.wordN (R.DRH_CMD_ARG p) ∧ reserved s p (s.wordN (R.DRH_CMD_ARG p)) ≤ s.wordN R.RSV_COMMITTED) ∧
    (∃ s : State, ∃ p : Fin 4, s.cmdBusy (hRch 2 p) = false ∧ s.slave p = false ∧ (s.rset 2 p).en = true ∧ s.bonded p = false ∧
      s.wordN (R.DRH_CMD_ARG p) < drNeed s p (s.rset 2 p)) ∧
    (∃ s : State, ∃ p : Fin 4, s.cmdBusy (hRch 2 p) = false ∧ s.slave p = false ∧ (s.rset 2 p).en = true ∧ s.bonded p = false ∧
      drNeed s p (s.rset 2 p) ≤ s.wordN (R.DRH_CMD_ARG p) ∧ s.wordN R.RSV_COMMITTED < reserved s p (s.wordN (R.DRH_CMD_ARG p))) ∧
    (∃ s : State, ∃ p : Fin 4, ∃ b : Fin 2, bankUsers s p b = []) ∧
    (∃ s : State, ∃ k : Fin 3, ∃ p : Fin 4, ∃ b : Fin 2, bankUsers s p b = [k.val]) :=
  ⟨⟨{ State.reset with rch.reach := [(6, { Reach.init with segs := [{ buf := 29, bytes := [1#8, 2#8, 3#8, 0#8, 5#8, 6#8, 7#8, 8#8, 9#8] }] })] }, 1, 2, { buf := 29, bytes := [1#8, 2#8, 3#8, 0#8, 5#8, 6#8, 7#8, 8#8, 9#8] }, [], by decide +kernel⟩,
   ⟨{ State.reset with regs := [(0x1830044, 0x40000#32)], rch.reach := [(4, { Reach.init with segs := [{ buf := 50, bytes := [1#8, 2#8, 3#8, 0#8, 5#8, 6#8, 7#8, 8#8, 9#8] }] })] }, 1, 0, { buf := 50, bytes := [1#8, 2#8, 3#8, 0#8, 5#8, 6#8, 7#8, 8#8, 9#8] }, [], by decide +kernel⟩,
   ⟨{ State.reset with snaps := [{ hdr := 0x820000, words := [(0x820040, 129)] }] }, 1, 0, [(0x820040, 129)], by decide +kernel⟩,
   ⟨{ State.reset with snaps := [{ hdr := 0x813000, words := [(0x813040, 129)] }] }, 0, 3, [(0x813040, 129)], by decide +kernel⟩,
   ⟨{ State.reset with regs := [(0x811040, 1#32)] }, 1, by decide +kernel⟩,
   ⟨State.reset, 0, by decide +kernel⟩,
   ⟨State.reset, 1, 0, by decide +kernel⟩,
   ⟨{ State.reset with regs := [(0x821040, 1#32), (0x82104C, 1#32)], rch.reach := [(5, { Reach.init with grids := [{ cfg := [], fmt := 0, bond := false, origin := 0, origin2 := 0, next := 0, stop := none, cut := none, cut2 := none, epoch := false, cuts := [] }], integ := some { frames := 0, sum := [], blk := [], s1 := [], s2 := [], cnt := [], rfi := [], xp := [], xpBlk := [], xpPsw := 0, inBlk := 0, psw := 0, dtFirst := 0, dtLast := 0, lvl1 := [], resid := 0, at1 := 0, at2 := 0 } })] }, 1, 1, { cfg := [], fmt := 0, bond := false, origin := 0, origin2 := 0, next := 0, stop := none, cut := none, cut2 := none, epoch := false, cuts := [] }, by decide +kernel⟩,
   ⟨{ State.reset with regs := [(0x820040, 1#32), (0x82004C, 1#32)], rch.reach := [(4, { Reach.init with grids := [{ cfg := [(0x820040, 49), (0x820044, 0), (0x820048, 0x40C0000), (0x82004C, 1), (0x820050, 6), (0x820054, 0), (0x820058, 0), (0x82005C, 0)], fmt := 1, bond := false, origin := 0, origin2 := 0, next := 2, stop := none, cut := none, cut2 := none, epoch := false, cuts := [] }] })], weir.hist := [(0, List.replicate 17 { v := 0, psw := 0, dt := 0 })] }, 1, 0, { cfg := [(0x820040, 49), (0x820044, 0), (0x820048, 0x40C0000), (0x82004C, 1), (0x820050, 6), (0x820054, 0), (0x820058, 0), (0x82005C, 0)], fmt := 1, bond := false, origin := 0, origin2 := 0, next := 2, stop := none, cut := none, cut2 := none, epoch := false, cuts := [] }, by decide +kernel⟩,
   ⟨{ State.reset with regs := [(0x830040, 1#32), (0x83004C, 1#32)], rch.reach := [(8, { Reach.init with passA := [{ num := 0, grid := { cfg := [], fmt := 1, bond := false, origin := 0, origin2 := 0, next := 1, stop := none, cut := none, cut2 := none, epoch := false, cuts := [] }, t := [], base := 0, es := [], psw := 1, dtFirst := 0, dtLast := 0, sat := false, stale := false }] })] }, 2, 0, { num := 0, grid := { cfg := [], fmt := 1, bond := false, origin := 0, origin2 := 0, next := 1, stop := none, cut := none, cut2 := none, epoch := false, cuts := [] }, t := [], base := 0, es := [], psw := 1, dtFirst := 0, dtLast := 0, sat := false, stale := false }, [], by decide +kernel⟩,
   ⟨{ State.reset with regs := [(0x831040, 1#32), (0x831060, 0x1000#32), (0x1810054, 0x4000#32)] }, 1, by decide +kernel⟩,
   ⟨{ State.reset with regs := [(0x830040, 1#32)] }, 0, by decide +kernel⟩,
   ⟨{ State.reset with regs := [(0x833040, 1#32), (0x833060, 0x4000#32)] }, 3, by decide +kernel⟩,
   ⟨State.reset, 0, 0, by decide +kernel⟩,
   ⟨{ State.reset with regs := [(0x820040, 0x60001#32)] }, 1, 0, 0, by decide +kernel⟩⟩

/-- States and operands that meet the hypotheses of each clause of `Obligations.TraceRecordsAndTiles`. -/
theorem witness_TraceRecordsAndTiles :
    (∃ s : State, ∃ p : Fin 4, ∃ t : Fin 8, ∃ r : TrRec, ∃ rest : List TrRec, (s.trace p t).done = r :: rest ∧ bitAt (s.wordN (R.DET_TR_STATUS p t)) 0 = true ∧
      bitAt (s.wordN (R.DET_TR_STATUS p t)) 1 = true) ∧
    (∃ s : State, ∃ p : Fin 4, ∃ t : Fin 8, ∃ k : Fin 2, ∃ r : TrRec, ∃ rest : List TrRec, (s.trace p t).done = r :: rest ∧ bitAt (s.wordN (R.DET_TR_STATUS p t)) k = false ∧
      (k.val + (s.trace p t).lastSlot = 1 ∨ bitAt (s.wordN (R.DET_TR_STATUS p t)) (1 - k) = true) ∧ memWf s.mem = true) ∧
    (∃ s : State, ∃ p : Fin 4, ∃ ta : Nat, ∃ bs : List Byte, (s.spg p).writing = some (ta, bs) ∧ s.wordN (R.DET_SPG_REGION_SIZE p) * 2 ^ 20 < (cdiv bs.length 4096 * 4096 : Nat)) ∧
    (∃ s : State, ∃ p : Fin 4, ∃ ta : Nat, ∃ bs : List Byte, (s.spg p).writing = some (ta, bs) ∧ (cdiv bs.length 4096 * 4096 : Nat) ≤ s.wordN (R.DET_SPG_REGION_SIZE p) * 2 ^ 20 ∧
      memWf s.mem = true ∧ s.rsv.lost = []) :=
  ⟨⟨{ State.reset with regs := [(0xC21130, 3#32)], slt.trace := [(9, { Trace.init with lastSlot := 0, done := [{ first := 2, banks := 1, bytes := List.replicate 80 9#8 }] })] }, 1, 1, { first := 2, banks := 1, bytes := List.replicate 80 9#8 }, [], by decide +kernel⟩,
   ⟨{ State.reset with slt.trace := [(2, { Trace.init with done := [{ first := 2, banks := 1, bytes := List.replicate 80 9#8 }] })] }, 0, 2, 0, { first := 2, banks := 1, bytes := List.replicate 80 9#8 }, [], by decide +kernel⟩,
   ⟨{ State.reset with slt.spg := [(1, { Spg.init with writing := some (50, List.replicate 200 7#8) })] }, 1, 50, List.replicate 200 7#8, by decide +kernel⟩,
   ⟨{ State.reset with regs := [(0xC21418, 1#32)], slt.spg := [(1, { Spg.init with writing := some (50, List.replicate 80 7#8) })] }, 1, 50, List.replicate 80 7#8, by decide +kernel⟩⟩

/-- States and operands that meet the hypotheses of each clause of `Obligations.PlaneBuffers`. -/
theorem witness_PlaneBuffers :
    (∃ s : State, ∃ p : Fin 4, ∃ n : Fin 4, plEn s p n = true ∧ plDbuf (s.wordN (R.SLT_PL_CFG p n)) = true ∧ (s.plane p n).on = true ∧
      ((s.plane p n).swap = true ∨ plPer s p n ≤ (s.plane p n).liveBuf.frames) ∧ ((s.plane p n).buf (1 - (s.plane p n).live)).st = .ready) ∧
    (∃ s : State, ∃ p : Fin 4, ∃ n : Fin 4, plEn s p n = true ∧ plDbuf (s.wordN (R.SLT_PL_CFG p n)) = true ∧ (s.plane p n).on = true ∧
      ((s.plane p n).swap = true ∨ plPer s p n ≤ (s.plane p n).liveBuf.frames) ∧ ((s.plane p n).buf (1 - (s.plane p n).live)).st ≠ .ready ∧ (s.plane p n).ovr = false) ∧
    (∃ s : State, ∃ p : Fin 4, ∃ n : Fin 4, ((s.plane p n).on = false ∨ plEn s p n = false ∨ plDbuf (s.wordN (R.SLT_PL_CFG p n)) = false ∨ ((s.plane p n).swap = false ∧
      (s.plane p n).liveBuf.frames < plPer s p n) ∨ (((s.plane p n).buf (1 - (s.plane p n).live)).st ≠ .ready ∧ (s.plane p n).ovr = true))) ∧
    (∃ s : State, ∃ p : Fin 4, ∃ n : Fin 4, ∃ b : Fin 2, ((s.plane p n).buf b).st = .clearing ∧ bitAt (s.plane p n).clearing b = false) ∧
    (∃ s : State, ∃ p : Fin 4, ∃ n : Fin 4, ∃ b : Fin 2, ((s.plane p n).buf b).st = .clearing ∧ (s.plane p n).clearing = 2 ^ b.val ∧ (s.plane p n).live < 2) ∧
    (∃ s : State, ∃ p : Fin 4, ∃ n : Fin 4, ∃ b : Fin 2, ((s.plane p n).buf b).st ≠ .clearing) ∧
    (∃ s : State, ∃ p : Fin 4, ∃ n : Fin 4, plEn s p n = true ∧ plDbuf (s.wordN (R.SLT_PL_CFG p n)) = false ∧ s.fld (R.SLT_PL_DECAY_DSH p n) ≠ 0 ∧ (s.plane p n).on = true ∧
      (s.plane p n).decayAt < (s.plane p n).counted ∧ (s.plane p n).counted % plPer s p n = 0 ∧ (s.plane p n).decaying = false) ∧
    (∃ s : State, ∃ p : Fin 4, ∃ n : Fin 4, plEn s p n = true ∧ plDbuf (s.wordN (R.SLT_PL_CFG p n)) = false ∧ s.fld (R.SLT_PL_DECAY_DSH p n) ≠ 0 ∧ (s.plane p n).on = true ∧
      (s.plane p n).decayAt < (s.plane p n).counted ∧ (s.plane p n).counted % plPer s p n = 0 ∧ (s.plane p n).decaying = true) :=
  ⟨⟨{ State.reset with regs := [(0xC10180, 3#32)], slt.plane := [(2, { Plane.init with b0.st := .ready, live := 1, on := true, swap := true })] }, 0, 2, by decide +kernel⟩,
   ⟨{ State.reset with regs := [(0xC11140, 3#32)], slt.plane := [(5, { Plane.init with b1.frames := 1, live := 1, on := true })] }, 1, 1, by decide +kernel⟩,
   ⟨State.reset, 0, 0, by decide +kernel⟩,
   ⟨{ State.reset with slt.plane := [(15, { Plane.init with b0.st := .clearing })] }, 3, 3, 0, by decide +kernel⟩,
   ⟨{ State.reset with slt.plane := [(14, { Plane.init with b0.st := .clearing, clearing := 1 })] }, 3, 2, 0, by decide +kernel⟩,
   ⟨State.reset, 0, 0, 0, by decide +kernel⟩,
   ⟨{ State.reset with regs := [(0xC10140, 1#32), (0xC10154, 1#32)], slt.plane := [(1, { Plane.init with counted := 1, on := true })] }, 0, 1, by decide +kernel⟩,
   ⟨{ State.reset with regs := [(0xC11100, 1#32), (0xC11114, 1#32)], slt.plane := [(4, { Plane.init with counted := 1, live := 1, on := true, decaying := true })] }, 1, 0, by decide +kernel⟩⟩

/-- States and operands that meet the hypotheses of each clause of `Obligations.DetectorAndSiltCommands`. -/
theorem witness_DetectorAndSiltCommands :
    (∃ s : State, ∃ p : Fin 4, s.cmdBusy (hDet p) = false ∧ s.slave p = false ∧ s.fld (R.DET_CMD_ARG_MASK p) ≠ 0) ∧
    (∃ s : State, ∃ p : Fin 4, s.cmdBusy (hDet p) = false ∧ s.slave p = false ∧ s.fld (R.DET_CMD_ARG_MASK p) = 0) ∧
    (∃ s : State, ∃ p : Fin 4, s.cmdBusy (hSlt p) = false ∧ s.slave p = false ∧ s.fld (R.SLT_CMD_ARG_MASK p) ≠ 0) ∧
    (∃ s : State, ∃ p : Fin 4, s.cmdBusy (hSlt p) = false ∧ s.slave p = false ∧ s.fld (R.SLT_CMD_ARG_MASK p) = 0) ∧
    (∃ s : State, ∃ p : Fin 4, s.cmdBusy (hSlt p) = false ∧ s.slave p = false ∧
      ((s.plane p (s.fld (R.SLT_CMD_ARG_PLANE p) : Nat)).buf (s.fld (R.SLT_CMD_ARG_BUF p) : Nat)).st = .full) ∧
    (∃ s : State, ∃ p : Fin 4, s.cmdBusy (hSlt p) = false ∧ s.slave p = false ∧
      ((s.plane p (s.fld (R.SLT_CMD_ARG_PLANE p) : Nat)).buf (s.fld (R.SLT_CMD_ARG_BUF p) : Nat)).st ≠ .full) ∧
    (∃ s : State, ∃ p : Fin 4, s.cmdBusy (hSlt p) = false ∧ s.slave p = false ∧ plEn s p (s.fld (R.SLT_CMD_ARG_PLANE p) : Nat) = true ∧
      plDbuf (s.wordN (R.SLT_PL_CFG p (s.fld (R.SLT_CMD_ARG_PLANE p) : Nat))) = true) ∧
    (∃ s : State, ∃ p : Fin 4, s.cmdBusy (hSlt p) = false ∧ s.slave p = false ∧
      (plEn s p (s.fld (R.SLT_CMD_ARG_PLANE p) : Nat) = false ∨ plDbuf (s.wordN (R.SLT_PL_CFG p (s.fld (R.SLT_CMD_ARG_PLANE p) : Nat))) = false)) ∧
    (∃ s : State, ∃ p : Fin 4, s.cmdBusy (hDet p) = false ∧ s.slave p = true) ∧
    (∃ s : State, ∃ p : Fin 4, s.cmdBusy (hSlt p) = false ∧ s.slave p = true) :=
  ⟨⟨{ State.reset with regs := [(0xC20044, 1#32)] }, 0, by decide +kernel⟩,
   ⟨State.reset, 0, by decide +kernel⟩,
   ⟨{ State.reset with regs := [(0xC10040, 0x100#32)] }, 0, by decide +kernel⟩,
   ⟨State.reset, 0, by decide +kernel⟩,
   ⟨{ State.reset with regs := [(0xC10040, 1#32)], slt.plane := [(1, { Plane.init with b0.st := .full })] }, 0, by decide +kernel⟩,
   ⟨State.reset, 0, by decide +kernel⟩,
   ⟨{ State.reset with regs := [(0xC10040, 1#32), (0xC10140, 3#32)] }, 0, by decide +kernel⟩,
   ⟨State.reset, 0, by decide +kernel⟩,
   ⟨{ State.reset with regs := [(0x404044, 0x20#32)] }, 3, by decide +kernel⟩,
   ⟨{ State.reset with regs := [(0x404044, 0x20#32)] }, 3, by decide +kernel⟩⟩

/-- States and operands that meet the hypotheses of each clause of `Obligations.DetectorAndSiltCommit`. -/
theorem witness_DetectorAndSiltCommit :
    (∃ s : State, ∃ p : Fin 4, ∃ ws : Tbl Nat, s.snapOf (hDet p) = some ws ∧ srRuns s p = true ∧ s.slt.due = [] ∧ s.flyingBefore p (nextFrameWord s p) = true) ∧
    (∃ s : State, ∃ p : Fin 4, ∃ ws : Tbl Nat, s.snapOf (hSlt p) = some ws ∧
      (List.range 4).any (fun n => planeChanged s (overlay s ws) p n && !canSwap (s.plane p n)) = true) ∧
    (∃ s : State, ∃ p : Fin 4, ∃ ws : Tbl Nat, s.snapOf (hDet p) = some ws ∧ srRuns s p = true ∧ s.slt.due = [] ∧ s.flyingBefore p (nextFrameWord s p) = false ∧ detBad (overlay s ws) p ≠ none) ∧
    (∃ s : State, ∃ p : Fin 4, ∃ ws : Tbl Nat, s.snapOf (hDet p) = some ws ∧ srRuns s p = true ∧ s.slt.due = [] ∧ s.flyingBefore p (nextFrameWord s p) = false ∧ detBad (overlay s ws) p = none) ∧
    (∃ s : State, ∃ p : Fin 4, ∃ ws : Tbl Nat, s.snapOf (hSlt p) = some ws ∧ srRuns s p = true ∧ s.slt.due = [] ∧ s.flyingBefore p (nextFrameWord s p) = false ∧ 
      (List.range 4).all (fun n => !planeChanged s (overlay s ws) p n || canSwap (s.plane p n)) = true ∧ sltBad s (overlay s ws) p ≠ none) ∧
    (∃ s : State, ∃ p : Fin 4, ∃ ws : Tbl Nat, s.snapOf (hSlt p) = some ws ∧ srRuns s p = true ∧ s.slt.due = [] ∧ s.flyingBefore p (nextFrameWord s p) = false ∧ 
      (List.range 4).all (fun n => !planeChanged s (overlay s ws) p n || canSwap (s.plane p n)) = true ∧ sltBad s (overlay s ws) p = none) ∧
    (∃ s : State, ∃ p : Fin 4, (s.snapOf (hSlt p) = none ∨ srRuns s p = false)) ∧
    (∃ s : State, ∃ p : Fin 4, (s.snapOf (hDet p) = none ∨ srRuns s p = false)) ∧
    (∃ s : State, ∃ l : Fin 4, ∃ b : Fin 2, s.fld (R.COL_LUT_CFG_BANK l) = b) ∧
    (∃ s : State, ∃ l : Fin 4, ∃ b : Fin 2, s.fld (R.COL_LUT_CFG_BANK l) ≠ b) :=
  ⟨⟨{ State.reset with regs := [(0x810040, 1#32)], rch.reach := [(0, { Reach.init with grids := [{ cfg := [(0x810040, 1)], fmt := 1, bond := false, origin := 0, origin2 := 0, next := 0, stop := some 3, cut := none, cut2 := none, epoch := false, cuts := [] }] })], weir.hist := [(0, List.replicate 17 { v := 0, psw := 0, dt := 0 })], snaps := [{ hdr := 0xC20000, words := [(0xC20040, 2)] }] }, 0, [(0xC20040, 2)], by decide +kernel⟩,
   ⟨{ State.reset with regs := [(0xC10100, 3#32)], snaps := [{ hdr := 0xC10000, words := [(0xC10108, 256)] }], slt.plane := [(0, { Plane.init with on := true, b1.st := .full })] }, 0, [(0xC10108, 256)], by decide +kernel⟩,
   ⟨{ State.reset with regs := [(0x813040, 1#32)], snaps := [{ hdr := 0xC23000, words := [(0xC23100, 1), (0xC23124, 0x30000), (0xC23040, 0x50002)] }] }, 3, [(0xC23100, 1), (0xC23124, 0x30000), (0xC23040, 0x50002)], by decide +kernel⟩,
   ⟨{ State.reset with regs := [(0x810040, 1#32), (0x1821008, 0x10C20#32), (0x182100C, 0x20C20#32), (0x1821010, 0x10C20#32), (0x1821014, 0x20C20#32), (0x1821018, 0x10C20#32)], snaps := [{ hdr := 0xC20000, words := [(0xC20100, 0), (0xC20124, 0x30000), (0xC20040, 0x50002)] }] }, 0, [(0xC20100, 0), (0xC20124, 0x30000), (0xC20040, 0x50002)], by decide +kernel⟩,
   ⟨{ State.reset with regs := [(0x810040, 1#32)], snaps := [{ hdr := 0xC10000, words := [(0xC10180, 0x8000003), (0xC10188, 256), (0xC1018C, 0), (0xC10148, 256), (0xC1014C, 0x20000), (0xC10194, 0)] }] }, 0, [(0xC10180, 0x8000003), (0xC10188, 256), (0xC1018C, 0), (0xC10148, 256), (0xC1014C, 0x20000), (0xC10194, 0)], by decide +kernel⟩,
   ⟨{ State.reset with regs := [(0x811040, 1#32)], snaps := [{ hdr := 0xC11000, words := [(0xC11140, 0), (0xC11148, 0x10000), (0xC1114C, 0xA0000), (0xC11148, 256), (0xC1114C, 0x20000), (0xC11154, 0)] }] }, 1, [(0xC11140, 0), (0xC11148, 0x10000), (0xC1114C, 0xA0000), (0xC11148, 256), (0xC1114C, 0x20000), (0xC11154, 0)], by decide +kernel⟩,
   ⟨State.reset, 0, by decide +kernel⟩,
   ⟨State.reset, 0, by decide +kernel⟩,
   ⟨{ State.reset with regs := [(0xC30048, 1#32)] }, 2, 1, by decide +kernel⟩,
   ⟨{ State.reset with regs := [(0xC30040, 1#32)] }, 0, 0, by decide +kernel⟩⟩

/-- States and operands that meet the hypotheses of each clause of `Obligations.PlaneIncrement`. -/
theorem witness_PlaneIncrement :
    (∃ rowStep : Nat, ∃ rows : Nat, ∃ b : PBuf, (b.cnt.Pairwise (fun x y => x.1 < y.1)) ∧ 0 < rowStep ∧ 0 < rows ∧ b.satinc < 2 ^ 32 - 1) ∧
    (∃ top : Int, ∃ q : Int, ∃ rowStep : Nat, ∃ rows : Nat, ∃ cols : Nat, ∃ c : Nat, ∃ k : Nat, ∃ b : PBuf, (b.cnt.Pairwise (fun x y => x.1 < y.1)) ∧ 0 < rowStep ∧
      0 < rows ∧ k < rows ∧ Tbl.get 0 b.cnt (k * cols + c) ≠ 65535 ∧ top - (rowStep : Int) * (k + 1) < q ∧ q ≤ top - (rowStep : Int) * k) ∧
    (∃ rowStep : Nat, ∃ rows : Nat, ∃ cols : Nat, ∃ c : Nat, ∃ k : Nat, ∃ b : PBuf, (b.cnt.Pairwise (fun x y => x.1 < y.1)) ∧ 0 < rowStep ∧ 0 < rows ∧ k % cols ≠ c % cols) ∧
    (∃ rowStep : Nat, ∃ rows : Nat, ∃ b : PBuf, (b.cnt.Pairwise (fun x y => x.1 < y.1)) ∧ 0 < rowStep ∧ 0 < rows ∧ (b.cnt.all (fun e => decide (e.2 ≤ 65535)) = true)) :=
  ⟨⟨1, 1, PBuf.init, by decide +kernel⟩,
   ⟨0, 0, 1, 1, 0, 0, 0, PBuf.init, by decide +kernel⟩,
   ⟨1, 1, 0, 0, 1, PBuf.init, by decide +kernel⟩,
   ⟨1, 1, PBuf.init, by decide +kernel⟩⟩

/-- States and operands that meet the hypotheses of each clause of `Obligations.CoarseSamplesAndRounds`. -/
theorem witness_CoarseSamplesAndRounds :
    (∃ s : State, ∃ p : Fin 4, ∃ g : Grid, Tbl.find s.trb.grid p = some g ∧ s.slave p = false ∧ g.next * g.hc + 16 * g.hc ≤ g.points s p) ∧
    (∃ s : State, ∃ p : Fin 4, ∃ g : Grid, Tbl.find s.trb.grid p = some g ∧ (s.slave p = true ∨ g.points s p < g.next * g.hc + 16 * g.hc)) ∧
    (∃ s : State, ∃ p : Fin 4, Tbl.find s.trb.grid p = none) ∧
    (∃ s : State, (s.trb.ctx = [] ∨ s.faultBit hBank 1 = true)) ∧
    (∃ s : State, ∃ g : Grid, ∃ i : Fin 16384, ∃ x : Ctx, s.faultBit hBank 1 = false ∧ s.trb.ctx = [(i.val, x)] ∧ x.snap = none ∧ x.report = false ∧ x.reset = false ∧
      ctxWhy s (s.cset i) = 0 ∧ Tbl.find s.trb.grid (s.cset i).port = some g ∧ 0 < (s.cset i).rc ∧ x.m0 ≤ g.next ∧ x.ins ≤ ((g.next - x.m0) * (s.cset i).nch : Nat) ∧
      2 * (s.cset i).rc * x.n ≤ x.ins ∧ x.ins < 2 * (s.cset i).rc * (x.n + 1) ∧ x.phase < 2 ^ 32) :=
  ⟨⟨{ State.reset with trb.grid := [(1, { cfg := [(0x811040, 0), (0x811044, 0), (0x811048, 0), (0x81104C, 0), (0x811050, 0), (0x811054, 0), (0x811058, 0), (0x81105C, 0)], fmt := 1, bond := false, origin := 0, origin2 := 0, next := 0, stop := none, cut := none, cut2 := none, epoch := false, cuts := [] })], weir.hist := [(1, List.replicate 65536 { v := 5, psw := 0, dt := 7 })] }, 1, { cfg := [(0x811040, 0), (0x811044, 0), (0x811048, 0), (0x81104C, 0), (0x811050, 0), (0x811054, 0), (0x811058, 0), (0x81105C, 0)], fmt := 1, bond := false, origin := 0, origin2 := 0, next := 0, stop := none, cut := none, cut2 := none, epoch := false, cuts := [] }, by decide +kernel⟩,
   ⟨{ State.reset with trb.grid := [(0, { cfg := [(0x810040, 0), (0x810044, 0), (0x810048, 0), (0x81004C, 0), (0x810050, 0), (0x810054, 0), (0x810058, 0), (0x81005C, 0)], fmt := 1, bond := false, origin := 0, origin2 := 0, next := 3, stop := none, cut := none, cut2 := none, epoch := false, cuts := [] })] }, 0, { cfg := [(0x810040, 0), (0x810044, 0), (0x810048, 0), (0x81004C, 0), (0x810050, 0), (0x810054, 0), (0x810058, 0), (0x81005C, 0)], fmt := 1, bond := false, origin := 0, origin2 := 0, next := 3, stop := none, cut := none, cut2 := none, epoch := false, cuts := [] }, by decide +kernel⟩,
   ⟨State.reset, 0, by decide +kernel⟩,
   ⟨State.reset, by decide +kernel⟩,
   ⟨{ State.reset with regs := [(0x1100140, 5#32), (0x1100148, 1#32)], trb.ctx := [(5, { Ctx.init with m0 := 1, phase := 77, vid := [1, 2], nc := 1, nv := 2, run := 1 })], trb.grid := [(1, { cfg := [(0x811040, 0), (0x811044, 0), (0x811048, 0), (0x81104C, 0), (0x811050, 0), (0x811054, 0), (0x811058, 0), (0x81105C, 0)], fmt := 1, bond := false, origin := 0, origin2 := 0, next := 3, stop := none, cut := none, cut2 := none, epoch := false, cuts := [] })] }, { cfg := [(0x811040, 0), (0x811044, 0), (0x811048, 0), (0x81104C, 0), (0x811050, 0), (0x811054, 0), (0x811058, 0), (0x81105C, 0)], fmt := 1, bond := false, origin := 0, origin2 := 0, next := 3, stop := none, cut := none, cut2 := none, epoch := false, cuts := [] }, 5, { Ctx.init with m0 := 1, phase := 77, vid := [1, 2], nc := 1, nv := 2, run := 1 }, by decide +kernel⟩⟩

/-- No word from 0x500000 up to 0x1420000 resets to another value than 0. -/
theorem resetNat_between (off : Nat) (lo : 0x500000 ≤ off) (hi : off < 0x1420000) : resetNat off = 0 := by
  have e : resetRows.find? (fun x => decide (x.1 ≤ off) && dimsMatch x.2.1 false (off - x.1)) = none := by
    simp only [resetRows, List.find?_eq_none, List.forall_mem_cons, dimsMatch, Bool.and_eq_true, decide_eq_true_eq, Bool.or_eq_true, beq_iff_eq, Bool.false_and, Bool.false_eq_true, or_false, List.not_mem_nil, false_implies, implies_true, and_true]
    refine ⟨?_, ?_, ?_, ?_, ?_, ?_, ?_, ?_, ?_, ?_, ?_, ?_, ?_⟩ <;> omega
  simp only [resetNat, e]
  repeat' split
  all_goals first | omega | rfl

/-- With one word set outside the context settings, no context is enabled. -/
theorem cset_disabled (s : State) (w : Word) (h : s.regs = [(0x1020044, w)]) (j : Nat) (hj : j < 16384) : (s.cset j).en = false := by
  have h1 : resetNat (R.TRB_CTX_CTL j) = 0 := resetNat_between _ (by unfold R.TRB_CTX_CTL; omega) (by unfold R.TRB_CTX_CTL; omega)
  have h2 : 0x1020044 ≠ R.TRB_CTX_CTL j := by unfold R.TRB_CTX_CTL; omega
  simp [State.cset, cset, CSet.en, State.wordN, State.word, h, Tbl.find, h2, resetWord, h1, bitAt]

/-- Nor is any other context counted as enabled. -/
theorem othersEnabled_none (s : State) (w : Word) (h : s.regs = [(0x1020044, w)]) (i : Nat) : othersEnabled s i = [] := by
  simp only [othersEnabled, List.filter_eq_nil_iff, List.mem_range]
  intro a ha
  simp [cset_disabled s w h a ha]

/-- With a word outside the context settings and two words of context 5 set, no other context is counted as enabled. -/
theorem othersEnabled_five (s : State) (w x y : Word) (i : Nat) (hi : i = 5) (h : s.regs = [(0x1020044, w), (0x1100140, x), (0x1100148, y)]) : othersEnabled s i = [] := by
  subst hi
  simp only [othersEnabled, List.filter_eq_nil_iff, List.mem_range]
  intro a ha
  by_cases e : a = 5
  · simp [e]
  · have h1 : resetNat (R.TRB_CTX_CTL a) = 0 := resetNat_between _ (by unfold R.TRB_CTX_CTL; omega) (by unfold R.TRB_CTX_CTL; omega)
    have h2 : 0x1020044 ≠ R.TRB_CTX_CTL a := by unfold R.TRB_CTX_CTL; omega
    have h3 : 0x1100140 ≠ R.TRB_CTX_CTL a := by unfold R.TRB_CTX_CTL; omega
    have h4 : 0x1100148 ≠ R.TRB_CTX_CTL a := by unfold R.TRB_CTX_CTL; omega
    simp [State.cset, cset, CSet.en, State.wordN, State.word, h, Tbl.find, h2, h3, h4, resetWord, h1, bitAt]

/-- States and operands that meet the hypotheses of each clause of `Obligations.ContextBoundary`. -/
theorem witness_ContextBoundary :
    (∃ s : State, ∃ i : Fin 16384, (s.faultBit hBank 1 = true ∨ ctxWhy s (s.cset i) ≠ 0 ∨ atBlock (s.cset i) (s.ctx i) = false ∨ ((s.ctx i).snap = none ∧
      (s.ctx i).report = false ∧ (s.ctx i).reset = false))) ∧
    (∃ s : State, ∃ i : Fin 16384, ∃ ws : List Nat, s.faultBit hBank 1 = false ∧ ctxWhy s (s.cset i) = 0 ∧ atBlock (s.cset i) (s.ctx i) = true ∧ (s.ctx i).report = false ∧
      (s.ctx i).reset = false ∧ (s.ctx i).snap = some ws ∧
      (ctxReason s i ((overlay s ((List.range ws.length).map (fun k => (R.TRB_CTX_CTL i + 4 * k, ws[k]?.getD 0)))).cset i) : Nat) ≠ 0) ∧
    (∃ s : State, ∃ i : Fin 16384, ∃ ws : List Nat, s.faultBit hBank 1 = false ∧ ctxWhy s (s.cset i) = 0 ∧ atBlock (s.cset i) (s.ctx i) = true ∧ (s.ctx i).report = false ∧
      (s.ctx i).reset = false ∧ (s.ctx i).snap = some ws ∧ ws.length = 12 ∧
      (ctxReason s i ((overlay s ((List.range ws.length).map (fun k => (R.TRB_CTX_CTL i + 4 * k, ws[k]?.getD 0)))).cset i) : Nat) = 0) ∧
    (∃ s : State, ∃ i : Fin 16384, s.faultBit hBank 1 = false ∧ ctxWhy s (s.cset i) = 0 ∧ atBlock (s.cset i) (s.ctx i) = true ∧ (s.ctx i).report = true ∧
      (s.ctx i).reset = false ∧ (s.ctx i).snap = none ∧ (s.cset i).repEn = true ∧ (s.ctx i).repFrom < (s.ctx i).n) ∧
    (∃ s : State, ∃ i : Fin 16384, s.faultBit hBank 1 = false ∧ ctxWhy s (s.cset i) = 0 ∧ atBlock (s.cset i) (s.ctx i) = true ∧ (s.ctx i).report = false ∧
      (s.ctx i).reset = true ∧ (s.ctx i).snap = none ∧ (s.cset i).en = true) ∧
    (∃ s : State, ∃ i : Fin 16384, ∃ ws : List Nat, s.faultBit hBank 1 = false ∧ s.trb.ctx = [(i.val, s.ctx i)] ∧ ctxWhy s (s.cset i) ≠ 0 ∧ (s.ctx i).report = false ∧
      (s.ctx i).reset = false ∧ (s.ctx i).snap = some ws ∧
      (ctxReason s i ((overlay s ((List.range ws.length).map (fun k => (R.TRB_CTX_CTL i + 4 * k, ws[k]?.getD 0)))).cset i) : Nat) ≠ 0) ∧
    (∃ s : State, ∃ i : Fin 16384, ∃ ws : List Nat, s.faultBit hBank 1 = false ∧ s.trb.ctx = [(i.val, s.ctx i)] ∧ ctxWhy s (s.cset i) ≠ 0 ∧ (s.ctx i).report = false ∧
      (s.ctx i).reset = false ∧ (s.ctx i).snap = some ws ∧ ws.length = 12 ∧
      (ctxReason s i ((overlay s ((List.range ws.length).map (fun k => (R.TRB_CTX_CTL i + 4 * k, ws[k]?.getD 0)))).cset i) : Nat) = 0 ∧
      Tbl.find s.trb.grid ((overlay s ((List.range ws.length).map (fun k => (R.TRB_CTX_CTL i + 4 * k, ws[k]?.getD 0)))).cset i).port = none) :=
  ⟨⟨State.reset, 0, by decide +kernel⟩,
   ⟨{ State.reset with regs := [(0x11000C0, 1#32), (0x11000C8, 1#32)], trb.ctx := [(3, { Ctx.init with snap := some [0x480058, 0x80000000, 0x10003, 1, 2, 65280, 1, 0, 0, 0, 5, 6] })] }, 3, [0x480058, 0x80000000, 0x10003, 1, 2, 65280, 1, 0, 0, 0, 5, 6], by decide +kernel⟩,
   ⟨{ State.reset with regs := [(0x1020044, 0x10000#32), (0x1100140, 1#32), (0x1100148, 1#32)], trb.ctx := [(5, { Ctx.init with snap := some [0x18000C, 99, 1, 1, 2, 32768, 0x10000, 0, 0, 0, 5, 6] })] }, 5, [0x18000C, 99, 1, 1, 2, 32768, 0x10000, 0, 0, 0, 5, 6], by decide +kernel, by decide +kernel, by decide +kernel, by decide +kernel, by decide +kernel, by decide +kernel, by decide +kernel,
    by unfold ctxReason; rw [othersEnabled_five _ _ _ _ _ (show ((5 : Fin 16384) : Nat) = 5 from rfl) rfl]; decide +kernel⟩,
   ⟨{ State.reset with regs := [(0x1100140, 0x80001#32), (0x1100148, 1#32)], trb.ctx := [(5, { Ctx.init with report := true, ins := 2, n := 1 })] }, 5, by decide +kernel⟩,
   ⟨{ State.reset with regs := [(0x1100140, 1#32), (0x1100148, 1#32)], trb.ctx := [(5, { Ctx.init with reset := true, ins := 4, n := 2 })] }, 5, by decide +kernel⟩,
   ⟨{ State.reset with trb.ctx := [(3, { Ctx.init with snap := some [0x480058, 0x80000000, 0x10003, 1, 2, 65280, 1, 0, 0, 0, 5, 6] })] }, 3, [0x480058, 0x80000000, 0x10003, 1, 2, 65280, 1, 0, 0, 0, 5, 6], by decide +kernel⟩,
   ⟨{ State.reset with regs := [(0x1020044, 0x10000#32)], trb.ctx := [(5, { Ctx.init with snap := some [0x18000C, 99, 1, 1, 2, 32768, 0x10000, 0, 0, 0, 5, 6] })] }, 5, [0x18000C, 99, 1, 1, 2, 32768, 0x10000, 0, 0, 0, 5, 6], by decide +kernel, by decide +kernel, by decide +kernel, by decide +kernel, by decide +kernel, by decide +kernel, by decide +kernel,
    by unfold ctxReason; rw [othersEnabled_none _ _ rfl]; decide +kernel, by decide +kernel⟩⟩

/-- States and operands that meet the hypotheses of each clause of `Obligations.ContextCommandsAndRecords`. -/
theorem witness_ContextCommandsAndRecords :
    (∃ s : State, ∃ j : Fin 16384, s.cmdBusy hBank = false ∧ j.val = s.fld R.TRB_CMD_ARG_CTX ∧ (s.cset j).en = false) ∧
    (∃ s : State, ∃ j : Fin 16384, s.cmdBusy hBank = false ∧ j.val = s.fld R.TRB_CMD_ARG_CTX ∧ (s.cset j).en = true ∧ (s.cset j).repEn = true) ∧
    (∃ s : State, ∃ j : Fin 16384, s.cmdBusy hBank = false ∧ j.val = s.fld R.TRB_CMD_ARG_CTX ∧ ((s.cset j).en = false ∨ (s.cset j).repEn = false)) ∧
    (∃ s : State, ∃ bs : List Byte, ∃ rest : List (List Byte), s.trb.recq = bs :: rest ∧ (s.wordN R.TRB_REP_REGION_SIZE * 2 ^ 20 : Nat) ≠ 0 ∧ s.rsv.lost = [] ∧
      memWf s.mem = true) ∧
    (∃ s : State, s.trb.recq = []) ∧
    (∃ s : State, ∃ bs : List Byte, ∃ st : Nat, ∃ rest2 : List (Nat × List Byte), s.trb.iqq = (st, bs) :: rest2 ∧ st < 256 ∧ s.rsv.lost = [] ∧ memWf s.mem = true) ∧
    (∃ s : State, s.trb.iqq = []) :=
  ⟨⟨{ State.reset with regs := [(0x1020060, 5#32)] }, 5, by decide +kernel⟩,
   ⟨{ State.reset with regs := [(0x1020060, 5#32), (0x1100140, 0x80001#32)] }, 5, by decide +kernel⟩,
   ⟨{ State.reset with regs := [(0x1020060, 5#32)] }, 5, by decide +kernel⟩,
   ⟨{ State.reset with regs := [(0x1020050, 1#32)], trb.recq := [List.replicate 6 9#8] }, List.replicate 6 9#8, [], by decide +kernel⟩,
   ⟨State.reset, by decide +kernel⟩,
   ⟨{ State.reset with trb.iqq := [(3, [1#8, 2#8, 3#8, 4#8])] }, [1#8, 2#8, 3#8, 4#8], 3, [], by decide +kernel⟩,
   ⟨State.reset, by decide +kernel⟩⟩

/-- States and operands that meet the hypotheses of each clause of `Obligations.SequencerCommands`. -/
theorem witness_SequencerCommands :
    (∃ s : State, ∃ n : Fin 16, s.cmdBusy (hSeq n) = false ∧ (s.seq n).armed = false) ∧
    (∃ s : State, ∃ n : Fin 16, s.cmdBusy (hSeq n) = false ∧ (s.seq n).armed = true ∧ (s.seq n).opn = none) ∧
    (∃ s : State, ∃ n : Fin 16, ∃ id : Nat, s.cmdBusy (hSeq n) = false ∧ (s.seq n).armed = true ∧ (s.seq n).opn = some id ∧ ((s.cap (n / 4)).record id).partner = none) ∧
    (∃ s : State, ∃ n : Fin 16, ∃ i : Fin 2, ∃ tm : WTimer, i = 0 ∧ (s.seq n).tm0 = some tm ∧ tm.expiry ≤ s.clk.dt) ∧
    (∃ s : State, ∃ n : Fin 16, ∃ i : Fin 2, ∃ tm : WTimer, i = 1 ∧ (s.seq n).tm1 = some tm ∧ tm.expiry ≤ s.clk.dt) :=
  ⟨⟨State.reset, 0, by decide +kernel⟩,
   ⟨{ State.reset with weir.seq := [(2, { WSeq.init with armed := true })] }, 2, by decide +kernel⟩,
   ⟨{ State.reset with weir.seq := [(15, { WSeq.init with armed := true, opn := some 3 })] }, 15, 3, by decide +kernel⟩,
   ⟨{ State.reset with clk.dt := 8, clk.restepOk := false, clk.mean := 0, weir.seq := [(2, { WSeq.init with tm0 := some { expiry := 5, expired := false } })] }, 2, 0, { expiry := 5, expired := false }, by decide +kernel⟩,
   ⟨{ State.reset with clk.dt := 8, clk.restepOk := false, clk.mean := 0, weir.seq := [(8, { WSeq.init with tm1 := some { expiry := 5, expired := false } })] }, 8, 1, { expiry := 5, expired := false }, by decide +kernel⟩⟩

/-- States and operands that meet the hypotheses of each clause of `Obligations.SlotEvaluation`. -/
theorem witness_SlotEvaluation :
    (∃ s : State, ∃ n : Fin 16, (s.seq n).slots = []) ∧
    (∃ s : State, ∃ n : Fin 16, ∃ sl : Slot, ∃ rest : List Slot, (s.seq n).slots = sl :: rest ∧ (s.seq n).until_ = none ∧
      ((s.seq n).armed = false ∨ (sl.until rest).port ≠ s.slotsOf n ∨ (sl.until rest).first < (s.seq n).from_)) ∧
    (∃ s : State, ∃ n : Fin 16, ∃ sl : Slot, ∃ rest : List Slot, ∃ a : Fin 4, (s.seq n).slots = sl :: rest ∧ (s.seq n).until_ = none ∧ (s.seq n).armed = true ∧ (sl.until rest).port = s.slotsOf n ∧
      (s.seq n).from_ ≤ (sl.until rest).first ∧ (s.seq n).force = none ∧ (List.range 4).all (fun a => (arcTest s n (settingsAt s (s.seq n).old (sl.until rest).first) (sl.until rest) (s.seq n).st a).isNone) = true) ∧
    (∃ s : State, ∃ n : Fin 16, ∃ sl : Slot, ∃ rest : List Slot, ∃ a : Fin 4, ∃ trig : Nat, ∃ ta : Bool, ∃ tb : Bool, (s.seq n).slots = sl :: rest ∧
      (s.seq n).until_ = none ∧ (s.seq n).armed = true ∧ (sl.until rest).port = s.slotsOf n ∧ (s.seq n).from_ ≤ (sl.until rest).first ∧ (s.seq n).force = none ∧ (s.seq n).cnt0 < 2 ^ 32 ∧
      (List.range 4).find? (fun a => (arcTest s n (settingsAt s (s.seq n).old (sl.until rest).first) (sl.until rest) (s.seq n).st a).isSome) = some a.val ∧
      arcTest s n (settingsAt s (s.seq n).old (sl.until rest).first) (sl.until rest) (s.seq n).st a = some (trig, ta, tb) ∧
      (rd (settingsAt s (s.seq n).old (sl.until rest).first) (R.WEIR_ARC1_ACT n (s.seq n).st a) : Nat) % 8 = 0) ∧
    (∃ s : State, ∃ n : Fin 16, ∃ sl : Slot, ∃ rest : List Slot, ∃ fa : Nat, ∃ pf : Nat, (s.seq n).slots = sl :: rest ∧ (s.seq n).until_ = none ∧ (s.seq n).armed = true ∧ (sl.until rest).port = s.slotsOf n ∧
      (s.seq n).from_ ≤ (sl.until rest).first ∧ (s.seq n).force = some (fa, pf) ∧ fa % 8 = 0) :=
  ⟨⟨State.reset, 0, by decide +kernel⟩,
   ⟨{ State.reset with weir.seq := [(2, { WSeq.init with slots := [{ first := 0, last := 20, firstDt := 100, lastDt := 0x2FAF080, endDt := 0x2FAF0E4, points := 4096, psw := 8, hits := [], zero := false, port := 0 }] })] }, 2, { first := 0, last := 20, firstDt := 100, lastDt := 0x2FAF080, endDt := 0x2FAF0E4, points := 4096, psw := 8, hits := [], zero := false, port := 0 }, [], by decide +kernel⟩,
   ⟨{ State.reset with weir.seq := [(11, { WSeq.init with armed := true, slots := [{ first := 10, last := 20, firstDt := 100, lastDt := 0x2FAF080, endDt := 0x2FAF0E4, points := 4096, psw := 0, hits := [], zero := false, port := 2 }, { first := 10, last := 20, firstDt := 100, lastDt := 0x2FAF080, endDt := 0x2FAF0E4, points := 4096, psw := 0, hits := [], zero := false, port := 2 }] })] }, 11, { first := 10, last := 20, firstDt := 100, lastDt := 0x2FAF080, endDt := 0x2FAF0E4, points := 4096, psw := 0, hits := [], zero := false, port := 2 }, [{ first := 10, last := 20, firstDt := 100, lastDt := 0x2FAF080, endDt := 0x2FAF0E4, points := 4096, psw := 0, hits := [], zero := false, port := 2 }], 0, by decide +kernel⟩,
   ⟨{ State.reset with regs := [(0x14185E0, 0x1000001#32)], weir.seq := [(8, { WSeq.init with armed := true, st := 15, slots := [{ first := 10, last := 20, firstDt := 100, lastDt := 0x2FAF080, endDt := 0x2FAF0E4, points := 4096, psw := 0, hits := [], zero := false, port := 2 }] })] }, 8, { first := 10, last := 20, firstDt := 100, lastDt := 0x2FAF080, endDt := 0x2FAF0E4, points := 4096, psw := 0, hits := [], zero := false, port := 2 }, [], 0, 0x2FAF080, true, false, by decide +kernel⟩,
   ⟨{ State.reset with weir.seq := [(14, { WSeq.init with armed := true, force := some (24, 2), slots := [{ first := 5, last := 20, firstDt := 100, lastDt := 0x2FAF080, endDt := 0x2FAF0E4, points := 1, psw := 0, hits := [(3, 17)], zero := false, port := 3 }] })] }, 14, { first := 5, last := 20, firstDt := 100, lastDt := 0x2FAF080, endDt := 0x2FAF0E4, points := 1, psw := 0, hits := [(3, 17)], zero := false, port := 3 }, [], 24, 2, by decide +kernel⟩⟩

/-- States and operands that meet the hypotheses of each clause of `Obligations.CapturePins`. -/
theorem witness_CapturePins :
    (∃ s : State, ∃ sq : Fin 16, ∃ pre : Nat, ∃ post : Nat, ∃ trigDt : Nat, ∃ i : Nat, s.bonded (sq / 4) = false ∧ (s.seq sq).opn = none ∧ (s.cap (sq / 4)).freeId = some i ∧
      (s.cap (sq / 4)).fits (ringLen s (sq / 4)) (minLive s (sq / 4)) ((s.cap (sq / 4)).plan (s.wordAtDt (sq / 4) trigDt) (pointWords s (sq / 4) pre) (pointWords s (sq / 4) post)) [] = true ∧
      (s.cap (sq / 4)).wr < (((s.cap (sq / 4)).plan (s.wordAtDt (sq / 4) trigDt) (pointWords s (sq / 4) pre) (pointWords s (sq / 4) post)).last + 1) * 2048) ∧
    (∃ s : State, ∃ sq : Fin 16, ∃ pre : Nat, ∃ post : Nat, ∃ trigDt : Nat, s.bonded (sq / 4) = false ∧ (s.seq sq).opn = none ∧
      ((s.cap (sq / 4)).freeId = none ∨ (s.cap (sq / 4)).fits (ringLen s (sq / 4)) (minLive s (sq / 4)) ((s.cap (sq / 4)).plan (s.wordAtDt (sq / 4) trigDt) (pointWords s (sq / 4) pre) (pointWords s (sq / 4) post)) [] = false) ∧
      s.flag (R.CAP_CFG_POLICY (sq / 4)) = false) :=
  ⟨⟨{ State.reset with regs := [(0x1422064, 1#32)] }, 8, 0, 0, 0, 0, by decide +kernel⟩,
   ⟨State.reset, 0, 0, 0, 0, by decide +kernel⟩⟩

/-- States and operands that meet the hypotheses of each clause of `Obligations.CaptureRecordCommands`. -/
theorem witness_CaptureRecordCommands :
    (∃ s : State, ∃ p : Fin 4, ∃ j : Nat, s.cmdBusy (hCap p) = false ∧ ((s.cap p).record (s.fld (R.CAP_CMD_ARG_REC p) : Nat)).st = .done ∧
      ((s.cap p).record (s.fld (R.CAP_CMD_ARG_REC p) : Nat)).partner = some j ∧ ((s.cap (bondMate p)).record j).partner = some (s.fld (R.CAP_CMD_ARG_REC p) : Nat) ∧
      ((s.cap (bondMate p)).record j).kept = true) ∧
    (∃ s : State, ∃ p : Fin 4, s.cmdBusy (hCap p) = false ∧ ((s.cap p).record (s.fld (R.CAP_CMD_ARG_REC p) : Nat)).st ≠ .done) ∧
    (∃ s : State, ∃ p : Fin 4, s.cmdBusy (hCap p) = false ∧ ((s.cap p).record (s.fld (R.CAP_CMD_ARG_REC p) : Nat)).st = .done ∧
      ((s.cap p).record (s.fld (R.CAP_CMD_ARG_REC p) : Nat)).held = true ∧ ((s.cap p).record (s.fld (R.CAP_CMD_ARG_REC p) : Nat)).partner = none) ∧
    (∃ s : State, ∃ p : Fin 4, s.cmdBusy (hCap p) = false ∧
      (((s.cap p).record (s.fld (R.CAP_CMD_ARG_REC p) : Nat)).st ≠ .done ∨ ((s.cap p).record (s.fld (R.CAP_CMD_ARG_REC p) : Nat)).held = false)) ∧
    (∃ s : State, ∃ p : Fin 4, s.cmdBusy (hCap p) = false ∧ ((s.cap p).record (s.fld (R.CAP_CMD_ARG_REC p) : Nat)).st = .opn ∧
      ((s.cap p).record (s.fld (R.CAP_CMD_ARG_REC p) : Nat)).partner = none) ∧
    (∃ s : State, ∃ p : Fin 4, s.cmdBusy (hCap p) = false ∧ ((s.cap p).record (s.fld (R.CAP_CMD_ARG_REC p) : Nat)).st ≠ .opn) ∧
    (∃ s : State, ∃ p : Fin 4, ∃ q : List Nat, ∃ d : Nat, (s.cap p).doneq = d :: q) ∧
    (∃ s : State, ∃ p : Fin 4, (s.cap p).doneq = []) :=
  ⟨⟨{ State.reset with weir.cap := [(0, { Cap.init with recs := [(0, { Rec.init with st := .done, partner := some 2 })] }), (1, { Cap.init with recs := [(2, { Rec.init with st := .filling, partner := some 0 })] })] }, 0, 2, by decide +kernel⟩,
   ⟨State.reset, 0, by decide +kernel⟩,
   ⟨{ State.reset with weir.cap := [(3, { Cap.init with recs := [(0, { Rec.init with st := .done, held := true })], pos := [] })] }, 3, by decide +kernel⟩,
   ⟨State.reset, 0, by decide +kernel⟩,
   ⟨{ State.reset with regs := [(0x1421074, 1#32)], weir.cap := [(1, { Cap.init with recs := [(1, { Rec.init with st := .opn })], pos := [] })] }, 1, by decide +kernel⟩,
   ⟨State.reset, 0, by decide +kernel⟩,
   ⟨{ State.reset with weir.cap := [(0, { Cap.init with doneq := [5, 6], pos := [] })] }, 0, [6], 5, by decide +kernel⟩,
   ⟨State.reset, 0, by decide +kernel⟩⟩

/-- States and operands that meet the hypotheses of each clause of `Obligations.RingWriter`. -/
theorem witness_RingWriter :
    (∃ s : State, ∃ p : Fin 4, (ringLen s p = 0 ∨ (s.cap p).wr < (((s.cap p).curBlk : Nat) + 1) * 2048) ∧
      (List.range 64).all (fun m => (s.strm m).port != p.val || !(s.strm m).run || (s.strm m).kind != 8) = true) ∧
    (∃ s : State, ∃ p : Fin 4, ringLen s p ≠ 0 ∧ (((s.cap p).curBlk : Nat) + 1) * 2048 ≤ (s.cap p).wr ∧
      (List.range 64).all (fun m => (s.strm m).port != p.val || !(s.strm m).run || (s.strm m).kind != 8) = true) ∧
    (∃ s : State, ∃ p : Fin 4, (s.cap p).lenPend = none) ∧
    (∃ s : State, ∃ p : Fin 4, ∃ l : Nat, (s.cap p).lenPend = some l ∧ (s.cap p).drained = false ∧ (s.cap p).wrapped = false) ∧
    (∃ s : State, ∃ p : Fin 4, ∃ l : Nat, (s.cap p).lenPend = some l ∧ ((s.cap p).drained = true ∨ (s.cap p).wrapped = true) ∧ ringLen s p ≤ l ∧ l < 2 ^ 32) :=
  ⟨⟨State.reset, 0, by decide +kernel⟩,
   ⟨{ State.reset with regs := [(0x1420064, 1#32)], weir.cap := [(0, { Cap.init with pos := [], wr := 2048 })] }, 0, by decide +kernel⟩,
   ⟨State.reset, 0, by decide +kernel⟩,
   ⟨{ State.reset with weir.cap := [(1, { Cap.init with recs := [(3, { Rec.init with st := .opn })], pos := [], cur := 1, lenPend := some 20 })] }, 1, 20, by decide +kernel⟩,
   ⟨{ State.reset with weir.cap := [(1, { Cap.init with pos := [], lenPend := some 8 })] }, 1, 8, by decide +kernel⟩⟩

/-- States and operands that meet the hypotheses of each clause of `Obligations.WeirCommits`. -/
theorem witness_WeirCommits :
    (∃ s : State, ∃ n : Fin 16, ∃ ws : Tbl Nat, s.snapOf (hSeq n) = some ws ∧ seqLegal (overlay s ws) n = false) ∧
    (∃ s : State, ∃ n : Fin 16, ∃ ws : Tbl Nat, s.snapOf (hSeq n) = some ws ∧ seqLegal (overlay s ws) n = true) ∧
    (∃ s : State, ∃ p : Fin 4, ∃ ws : Tbl Nat, s.snapOf (hCond p) = some ws ∧ condBad (overlay s ws) p ≠ none) ∧
    (∃ s : State, ∃ p : Fin 4, ∃ ws : Tbl Nat, s.snapOf (hCond p) = some ws ∧ condBad (overlay s ws) p = none) ∧
    (∃ s : State, ∃ p : Fin 4, ∃ ws : Tbl Nat, s.snapOf (hCap p) = some ws ∧ capLegal (overlay s ws) p = false) ∧
    (∃ s : State, ∃ p : Fin 4, ∃ ws : Tbl Nat, s.snapOf (hCap p) = some ws ∧ capLegal (overlay s ws) p = true) ∧
    (∃ s : State, ∃ n : Fin 16, s.snapOf (hSeq n) = none) :=
  ⟨⟨{ State.reset with snaps := [{ hdr := 0x141B000, words := [(0x141B040, 3), (0x141B400, 2)] }] }, 11, [(0x141B040, 3), (0x141B400, 2)], by decide +kernel⟩,
   ⟨{ State.reset with snaps := [{ hdr := 0x1411000, words := [(0x1411040, 3), (0x1411080, 1), (0x1411098, 1), (0x14110A0, 1), (0x14110B0, 1), (0x1411400, 0)] }] }, 1, [(0x1411040, 3), (0x1411080, 1), (0x1411098, 1), (0x14110A0, 1), (0x14110B0, 1), (0x1411400, 0)], by decide +kernel⟩,
   ⟨{ State.reset with snaps := [{ hdr := 0x1430000, words := [(0x1430040, 0x30000), (0x1430104, 9)] }] }, 0, [(0x1430040, 0x30000), (0x1430104, 9)], by decide +kernel⟩,
   ⟨{ State.reset with snaps := [{ hdr := 0x1431000, words := [(0x1431040, 0), (0x1431104, 9)] }] }, 1, [(0x1431040, 0), (0x1431104, 9)], by decide +kernel⟩,
   ⟨{ State.reset with snaps := [{ hdr := 0x1423000, words := [(0x1423044, 100), (0x1423054, 0), (0x1423058, 0x10003)] }] }, 3, [(0x1423044, 100), (0x1423054, 0), (0x1423058, 0x10003)], by decide +kernel⟩,
   ⟨{ State.reset with regs := [(0x1421054, 1#32), (0x1421058, 0x10003#32), (0x182100C, 0x11421#32)], snaps := [{ hdr := 0x1421000, words := [(0x1421044, 8), (0x1421054, 1), (0x1421058, 0x10003)] }] }, 1, [(0x1421044, 8), (0x1421054, 1), (0x1421058, 0x10003)], by decide +kernel⟩,
   ⟨State.reset, 0, by decide +kernel⟩⟩

/-- States and operands that meet the hypotheses of each clause of `Obligations.TagsAndMaskStore`. -/
theorem witness_TagsAndMaskStore :
    (∃ s : State, s.weir.tagq = []) ∧
    (∃ s : State, ∃ bs : List Byte, ∃ rest : List (List Byte), s.weir.tagq = bs :: rest ∧ (s.wordN R.WEIR_TAG_REGION_SIZE * 2 ^ 20 : Nat) ≠ 0 ∧ s.rsv.lost = [] ∧
      memWf s.mem = true) ∧
    (∃ s : State, ∃ p : Fin 4, entryInUse s p (s.fld (R.WEIR_MTAB_ADDR_ENTRY p) : Nat) = false) ∧
    (∃ s : State, ∃ p : Fin 4, entryInUse s p (s.fld (R.WEIR_MTAB_ADDR_ENTRY p) : Nat) = true) :=
  ⟨⟨State.reset, by decide +kernel⟩,
   ⟨{ State.reset with regs := [(0x1440048, 1#32)], weir.tagq := List.replicate 1024 [1#8, 2#8, 3#8] }, [1#8, 2#8, 3#8], List.replicate 1023 [1#8, 2#8, 3#8], by decide +kernel⟩,
   ⟨State.reset, 0, by decide +kernel⟩,
   ⟨{ State.reset with regs := [(0x1431120, 1#32)] }, 1, by decide +kernel⟩⟩

/-- States and operands that meet the hypotheses of each clause of `Obligations.RankControllers`. -/
theorem witness_RankControllers :
    (∃ s : State, ∃ r : Fin 128, ∃ g : WaitReq, grant s r = some (g, (true))) ∧
    (∃ s : State, ∃ r : Fin 128, ∃ g : WaitReq, grant s r = some (g, (false)) ∧ (s.waits r).any (fun x => x.urgent) = true) ∧
    (∃ s : State, ∃ r : Fin 128, ∃ g : WaitReq, ∃ res : Bool, grant s r = some (g, res)) ∧
    (∃ s : State, ∃ r : Fin 128, grant s r = none) ∧
    (∃ s : State, ∃ r : Fin 128, ∃ g : WaitReq, ∃ ch : Fin 32, grant s r = some (g, false) ∧ (s.waits r).any (fun x => x.urgent) = false ∧ g.req.who = .millrace ch) ∧
    (∃ s : State, ∃ arr : List MemReq, s.fclk < s.rsv.refreshEnd ∧ poolReqs arr = []) ∧
    (∃ s : State, ∃ r : Fin 128, ∃ arr : List MemReq, ∃ q : MemReq, s.rsv.refreshEnd ≤ s.fclk ∧ s.rsv.window = false ∧ s.waits r = [] ∧
      arrivals s r arr = [({ req := q, since := s.fclk, urgent := false })] ∧ poolReqs arr = [] ∧ q.data = none ∧ q.ecc = []) ∧
    (∃ s : State, ∃ r : Fin 128, ∃ arr : List MemReq, ∃ q : MemReq, ∃ bs : List Byte, s.rsv.refreshEnd ≤ s.fclk ∧ s.rsv.window = false ∧ s.waits r = [] ∧
      arrivals s r arr = [({ req := q, since := s.fclk, urgent := false })] ∧ poolReqs arr = [] ∧ q.data = some bs ∧ q.addr % 8 = 0 ∧ q.ecc = [] ∧ bs.length % 8 = 0 ∧ s.rsv.lost = [] ∧ memWf s.mem = true) ∧
    (∃ s : State, ∃ r : Fin 128, ∃ arr : List MemReq, ∃ q : MemReq, s.rsv.refreshEnd ≤ s.fclk ∧ s.rsv.window = false ∧ s.waits r = [] ∧
      arrivals s r arr = [({ req := q, since := s.fclk, urgent := false })] ∧ poolReqs arr = [] ∧ q.data = none ∧ q.ecc = [.corrected] ∧ 0 < q.len ∧ s.wordPoisoned (q.addr / 8 * 8) = false ∧
      s.flag R.RSV_RETIRE_CFG_AUTO = false ∧ q.addr < poolBase) ∧
    (∃ s : State, ∃ r : Fin 128, ∃ arr : List MemReq, ∃ q : MemReq, s.rsv.refreshEnd ≤ s.fclk ∧ s.rsv.window = false ∧ s.waits r = [] ∧
      arrivals s r arr = [({ req := q, since := s.fclk, urgent := false })] ∧ poolReqs arr = [] ∧ q.data = none ∧ q.ecc = [.uncorrectable] ∧ 0 < q.len ∧ s.wordPoisoned (q.addr / 8 * 8) = false ∧
      s.flag R.RSV_RETIRE_CFG_AUTO = false ∧ q.addr < poolBase ∧ s.rsv.lost = []) ∧
    (∃ s : State, ∃ r : Fin 128, ∃ arr : List MemReq, ∃ q : MemReq, arrivals s r arr = [] ∧ s.waits r = [] ∧ arr = [q] ∧ poolReqs arr = [q] ∧ q.data = none ∧ s.wordPoisoned (q.addr / 8 * 8) = false ∧
      s.inReservoir (q.addr / 8 * 8) = false ∧ 0 < q.len ∧ q.ecc = [.corrected]) ∧
    (∃ s : State, ∃ r : Fin 128, ∃ arr : List MemReq, ∃ q : MemReq, arrivals s r arr = [] ∧ s.waits r = [] ∧ arr = [q] ∧ poolReqs arr = [q] ∧ q.data = none ∧ s.wordPoisoned (q.addr / 8 * 8) = false ∧
      s.inReservoir (q.addr / 8 * 8) = false ∧ 0 < q.len ∧ q.ecc = [.uncorrectable]) ∧
    (∃ who : Consumer, who ≠ .scrub ∧ (∀ c : Fin 32, who ≠ .millrace c)) ∧
    (∃ s : State, s.flag R.RSV_STATUS_HOT = false) ∧
    (∃ s : State, s.flag R.RSV_STATUS_HOT = true) ∧
    (∃ s : State, s.rsv.scrubP = true) ∧
    (∃ s : State, s.rsv.scrubR = true) ∧
    (∃ s : State, s.cmdBusy hRsv = false ∧ s.rsv.scrubCmd = false) ∧
    (∃ s : State, s.cmdBusy hRsv = false ∧ s.rsv.scrubCmd = true) :=
  ⟨⟨{ State.reset with tclk := 128, rsv.waits := [(0, [{ req := { who := Sys2Proof.Consumer.migration, addr := 9, len := 8, data := some [1#8, 2#8, 3#8, 4#8, 5#8, 6#8, 7#8, 0#8], ecc := [] }, since := 5, urgent := false }])] }, 0, { req := { who := Sys2Proof.Consumer.migration, addr := 9, len := 8, data := some [1#8, 2#8, 3#8, 4#8, 5#8, 6#8, 7#8, 0#8], ecc := [] }, since := 5, urgent := false }, by decide +kernel⟩,
   ⟨{ State.reset with rsv.waits := [(1, [{ req := { who := Sys2Proof.Consumer.backwater, addr := 2056, len := 8, data := some [1#8, 2#8, 3#8, 4#8, 5#8, 6#8, 7#8, 0#8], ecc := [] }, since := 3, urgent := true }])] }, 1, { req := { who := Sys2Proof.Consumer.backwater, addr := 2056, len := 8, data := some [1#8, 2#8, 3#8, 4#8, 5#8, 6#8, 7#8, 0#8], ecc := [] }, since := 3, urgent := true }, by decide +kernel⟩,
   ⟨{ State.reset with rsv.waits := [(1, [{ req := { who := Sys2Proof.Consumer.backwater, addr := 2056, len := 8, data := some [1#8, 2#8, 3#8, 4#8, 5#8, 6#8, 7#8, 0#8], ecc := [] }, since := 3, urgent := true }])] }, 1, { req := { who := Sys2Proof.Consumer.backwater, addr := 2056, len := 8, data := some [1#8, 2#8, 3#8, 4#8, 5#8, 6#8, 7#8, 0#8], ecc := [] }, since := 3, urgent := true }, false, by decide +kernel⟩,
   ⟨State.reset, 0, by decide +kernel⟩,
   ⟨{ State.reset with rsv.waits := [(1, [{ req := { who := .millrace 3, addr := 2056, len := 8, data := none, ecc := [] }, since := 3, urgent := false }])] }, 1, { req := { who := .millrace 3, addr := 2056, len := 8, data := none, ecc := [] }, since := 3, urgent := false }, 3, by decide +kernel⟩,
   ⟨{ State.reset with rsv.refreshEnd := 1 }, [], by decide +kernel⟩,
   ⟨{ State.reset with regs := [(0x1810040, 0x400#32), (0x1812004, 1#32)] }, 1, [{ who := Sys2Proof.Consumer.writer 9, addr := 2048, len := 8, data := none, ecc := [] }], { who := Sys2Proof.Consumer.writer 9, addr := 2048, len := 8, data := none, ecc := [] }, by decide +kernel⟩,
   ⟨{ State.reset with regs := [(0x1810040, 0x7C00#32), (0x18121E0, 0x78#32)] }, 120, [{ who := Sys2Proof.Consumer.migration, addr := 0x3C008, len := 8, data := some [1#8, 2#8, 3#8, 4#8, 5#8, 6#8, 7#8, 0#8], ecc := [] }], { who := Sys2Proof.Consumer.migration, addr := 0x3C008, len := 8, data := some [1#8, 2#8, 3#8, 4#8, 5#8, 6#8, 7#8, 0#8], ecc := [] }, [1#8, 2#8, 3#8, 4#8, 5#8, 6#8, 7#8, 0#8], by decide +kernel⟩,
   ⟨{ State.reset with regs := [(0x1810040, 0x400#32)] }, 0, [{ who := Sys2Proof.Consumer.display, addr := 8, len := 8, data := none, ecc := [.corrected] }], { who := Sys2Proof.Consumer.display, addr := 8, len := 8, data := none, ecc := [.corrected] }, by decide +kernel⟩,
   ⟨{ State.reset with regs := [(0x1810040, 0x400#32)] }, 0, [{ who := Sys2Proof.Consumer.bar2, addr := 8, len := 8, data := none, ecc := [.uncorrectable] }], { who := Sys2Proof.Consumer.bar2, addr := 8, len := 8, data := none, ecc := [.uncorrectable] }, by decide +kernel⟩,
   ⟨State.reset, 0, [{ who := .stream, addr := poolBase + 8, len := 4, data := none, ecc := [.corrected] }], { who := .stream, addr := poolBase + 8, len := 4, data := none, ecc := [.corrected] }, by decide +kernel⟩,
   ⟨State.reset, 127, [{ who := .scrub, addr := poolBase + 12, len := 4, data := none, ecc := [.uncorrectable] }], { who := .scrub, addr := poolBase + 12, len := 4, data := none, ecc := [.uncorrectable] }, by decide +kernel⟩,
   ⟨.riffle 5, by decide +kernel⟩,
   ⟨State.reset, by decide +kernel⟩,
   ⟨{ State.reset with regs := [(0x1810040, 2#32)] }, by decide +kernel⟩,
   ⟨{ State.reset with rsv.scrubP := true }, by decide +kernel⟩,
   ⟨{ State.reset with rsv.scrubR := true }, by decide +kernel⟩,
   ⟨State.reset, by decide +kernel⟩,
   ⟨{ State.reset with rsv.scrubCmd := true }, by decide +kernel⟩⟩

/-- States and operands that meet the hypotheses of each clause of `Obligations.RankRetirement`. -/
theorem witness_RankRetirement :
    (∃ s : State, ∃ r : Fin 128, ∃ d : Fin 128, s.cmdBusy hRsv = false ∧ s.wordN R.RSV_CMD_ARG = r ∧ s.rank r = 1 ∧ s.rsv.mig = none ∧ s.rsv.due = [] ∧
      spareFor s r = some d.val) ∧
    (∃ s : State, ∃ r : Fin 128, s.cmdBusy hRsv = false ∧ s.wordN R.RSV_CMD_ARG = r ∧ s.rank r = 1 ∧ s.rsv.mig = none ∧ s.rsv.due = [] ∧ spareFor s r = none) ∧
    (∃ s : State, s.cmdBusy hRsv = false ∧ 127 < s.wordN R.RSV_CMD_ARG) ∧
    (∃ s : State, ∃ r : Fin 128, s.cmdBusy hRsv = false ∧ s.wordN R.RSV_CMD_ARG = r ∧ s.rank r ≠ 1 ∧ s.rank r ≠ 6) ∧
    (∃ s : State, ∃ r : Fin 128, s.cmdBusy hRsv = false ∧ s.wordN R.RSV_CMD_ARG = r ∧ (s.rank r = 1 ∨ s.rank r = 6) ∧ s.rsv.mig ≠ none) ∧
    (∃ s : State, ∃ r : Fin 128, s.rank r = 5) ∧
    (∃ s : State, ∃ r : Fin 128, s.rank r = 0) ∧
    (∃ s : State, ∃ r : Fin 128, ∃ d : Fin 128, s.rank r = 1 ∧ s.rsv.mig = none ∧ s.rsv.due = [] ∧ spareFor s r = some d.val) ∧
    (∃ s : State, ∃ r : Fin 128, s.rank r = 1 ∧ s.rsv.mig = none ∧ s.rsv.due = [] ∧ spareFor s r = none) ∧
    (∃ s : State, ∃ m : Mig, s.rsv.mig = some m ∧ m.copied = false) ∧
    (∃ s : State, ∃ m : Mig, (s.rsv.mig = none ∨ (s.rsv.mig = some m ∧ m.copied = true))) ∧
    (∃ s : State, ∃ m : Mig, s.rsv.mig = some m ∧ m.copied = true) ∧
    (∃ s : State, ∃ m : Mig, (s.rsv.mig = none ∨ (s.rsv.mig = some m ∧ m.copied = false))) ∧
    (∃ s : State, ∃ m : Mig, s.rsv.mig = some m ∧ s.rsv.window = true ∧ s.rsv.due = [] ∧ s.net.held = [] ∧ m.src < 128 ∧ m.dst < 128 ∧ m.src ≠ m.dst) ∧
    (∃ s : State, s.rsv.lost = []) ∧
    (∃ s : State, ∃ l2 : Nat, ∃ x : Lost, ∃ chunk : Nat, s.rsv.lost = [(l2, x)] ∧ s.rank (s.fld (R.RSV_RANK_MAP_RANK l2)) ≠ 5 ∧ x.gone = false ∧ x.first ≤ chunk ∧ x.filled.contains chunk = false ∧ x.held = []) ∧
    (∃ s : State, ∃ l2 : Nat, ∃ x : Lost, ∃ chunk : Nat, ∃ a : Nat, ∃ b : Byte, s.rsv.lost = [(l2, x)] ∧ s.rank (s.fld (R.RSV_RANK_MAP_RANK l2)) ≠ 5 ∧ x.gone = false ∧ x.first ≤ chunk ∧ x.filled.contains chunk = false ∧
      x.held = [(a, b, false)] ∧ (s.rankOf a).2 / 2048 = chunk ∧ memWf s.mem = true) ∧
    (∃ s : State, ∃ l2 : Nat, ∃ x : Lost, ∃ chunk : Nat, ∃ a : Nat, ∃ b : Byte, s.rsv.lost = [(l2, x)] ∧ s.rank (s.fld (R.RSV_RANK_MAP_RANK l2)) ≠ 5 ∧ x.gone = false ∧ x.first ≤ chunk ∧ x.filled.contains chunk = false ∧
      x.held = [(a, b, true)] ∧ (s.rankOf a).2 / 2048 = chunk ∧ memWf s.mem = true ∧ s.inReservoir (a / 8 * 8) = true ∧ (s.rankOf (a / 8 * 8)).1 = l2 ∧ (s.rankOf (a / 8 * 8)).2 / 2048 = chunk) ∧
    (∃ s : State, ∃ l2 : Nat, ∃ x : Lost, s.rsv.lost = [(l2, x)] ∧ s.rank (s.fld (R.RSV_RANK_MAP_RANK l2)) = 5) :=
  ⟨⟨{ State.reset with regs := (List.range 63).map (fun k => (0x1811000 + 0x20 * k, BitVec.ofNat 32 (0x1 + 0x100 * k))) }, 0, 63, by decide +kernel⟩,
   ⟨{ State.reset with regs := [(0x1810050, 0x40#32)] ++ (List.range 128).map (fun k => (0x1811000 + 0x20 * k, BitVec.ofNat 32 (0x1 + 0x100 * k))) }, 64, by decide +kernel⟩,
   ⟨{ State.reset with regs := [(0x1810050, 0x80#32)] }, by decide +kernel⟩,
   ⟨{ State.reset with regs := [(0x1810050, 0x40#32)] }, 64, by decide +kernel⟩,
   ⟨{ State.reset with regs := [(0x1810050, 1#32), (0x1811020, 1#32)], rsv.mig := some { src := 0, dst := 0, copied := false } }, 1, by decide +kernel⟩,
   ⟨{ State.reset with regs := [(0x1811800, 5#32)] }, 64, by decide +kernel⟩,
   ⟨State.reset, 0, by decide +kernel⟩,
   ⟨{ State.reset with regs := (List.range 63).map (fun k => (0x1811000 + 0x20 * k, BitVec.ofNat 32 (0x1 + 0x100 * k))) }, 0, 63, by decide +kernel⟩,
   ⟨{ State.reset with regs := (List.range 128).map (fun k => (0x1811000 + 0x20 * k, BitVec.ofNat 32 (0x1 + 0x100 * k))) }, 64, by decide +kernel⟩,
   ⟨{ State.reset with rsv.mig := some { src := 1, dst := 63, copied := false } }, { src := 1, dst := 63, copied := false }, by decide +kernel⟩,
   ⟨State.reset, { src := 0, dst := 0, copied := false }, by decide +kernel⟩,
   ⟨{ State.reset with rsv.mig := some { src := 64, dst := 63, copied := true } }, { src := 64, dst := 63, copied := true }, by decide +kernel⟩,
   ⟨State.reset, { src := 0, dst := 0, copied := false }, by decide +kernel⟩,
   ⟨{ State.reset with rsv.mig := some { src := 64, dst := 2, copied := false }, rsv.window := true }, { src := 64, dst := 2, copied := false }, by decide +kernel⟩,
   ⟨State.reset, by decide +kernel⟩,
   ⟨{ State.reset with rsv.lost := [(0, { first := 0, filled := [], gone := false, healed := [], held := [] })] }, 0, { first := 0, filled := [], gone := false, healed := [], held := [] }, 0, by decide +kernel⟩,
   ⟨{ State.reset with rsv.lost := [(1, { first := 0, filled := [5], gone := false, healed := [], held := [(2053, 9#8, false)] })] }, 1, { first := 0, filled := [5], gone := false, healed := [], held := [(2053, 9#8, false)] }, 0, 2053, 9#8, by decide +kernel⟩,
   ⟨{ State.reset with regs := [(0x1810040, 0x400#32), (0x1812004, 1#32)], rsv.lost := [(1, { first := 0, filled := [5], gone := false, healed := [], held := [(2053, 9#8, true)] })] }, 1, { first := 0, filled := [5], gone := false, healed := [], held := [(2053, 9#8, true)] }, 0, 2053, 9#8, by decide +kernel⟩,
   ⟨{ State.reset with regs := [(0x1811020, 5#32), (0x1812004, 1#32)], rsv.lost := [(1, { first := 0, filled := [], gone := false, healed := [], held := [] })] }, 1, { first := 0, filled := [], gone := false, healed := [], held := [] }, by decide +kernel⟩⟩

/-- States and operands that meet the hypotheses of each clause of `Obligations.PoolAndEddy`. -/
theorem witness_PoolAndEddy :
    (∃ s : State, s.cmdBusy hPool = false ∧ (1264 < (s.fld R.POOL_CMD_ARG_FIRST : Nat) + (s.fld R.POOL_CMD_CNT_COUNTM1 + 1 : Nat) ∨ (s.fld R.POOL_CMD_ARG_OWNER : Nat) = 0)) ∧
    (∃ s : State, ∃ b : Nat, s.cmdBusy hPool = false ∧ (s.fld R.POOL_CMD_ARG_FIRST : Nat) + (s.fld R.POOL_CMD_CNT_COUNTM1 + 1 : Nat) ≤ 1264 ∧
      (s.fld R.POOL_CMD_ARG_OWNER : Nat) ≠ 0 ∧ (s.fld R.POOL_CMD_ARG_FIRST : Nat) ≤ b ∧ b < (s.fld R.POOL_CMD_ARG_FIRST : Nat) + (s.fld R.POOL_CMD_CNT_COUNTM1 + 1 : Nat) ∧
      s.fld (R.POOL_OWNER_STATE b) ≠ 2) ∧
    (∃ s : State, ∃ b : Nat, s.cmdBusy hPool = false ∧ (s.fld R.POOL_CMD_ARG_FIRST : Nat) + (s.fld R.POOL_CMD_CNT_COUNTM1 + 1 : Nat) ≤ 1264 ∧
      (s.fld R.POOL_CMD_ARG_OWNER : Nat) ≠ 0 ∧
      (upFrom (s.fld R.POOL_CMD_ARG_FIRST : Nat) (s.fld R.POOL_CMD_CNT_COUNTM1 + 1 : Nat)).all (fun b => s.fld (R.POOL_OWNER_STATE b) == 2) = true) ∧
    (∃ s : State, s.cmdBusy hPool = false ∧ 1264 < (s.fld R.POOL_CMD_ARG_FIRST : Nat) + (s.fld R.POOL_CMD_CNT_COUNTM1 + 1 : Nat)) ∧
    (∃ s : State, ∃ b : Nat, s.cmdBusy hPool = false ∧ (s.fld R.POOL_CMD_ARG_FIRST : Nat) + (s.fld R.POOL_CMD_CNT_COUNTM1 + 1 : Nat) ≤ 1264 ∧
      (s.fld R.POOL_CMD_ARG_FIRST : Nat) ≤ b ∧ b < (s.fld R.POOL_CMD_ARG_FIRST : Nat) + (s.fld R.POOL_CMD_CNT_COUNTM1 + 1 : Nat) ∧
      (s.fld (R.POOL_OWNER_STATE b) ≠ 1 ∨ releasable (s.fld (R.POOL_OWNER_OWNER b)) = false)) ∧
    (∃ s : State, ∃ b : Nat, s.cmdBusy hPool = false ∧ (s.fld R.POOL_CMD_ARG_FIRST : Nat) + (s.fld R.POOL_CMD_CNT_COUNTM1 + 1 : Nat) ≤ 1264 ∧
      (upFrom (s.fld R.POOL_CMD_ARG_FIRST : Nat) (s.fld R.POOL_CMD_CNT_COUNTM1 + 1 : Nat)).all (fun b => s.fld (R.POOL_OWNER_STATE b) == 1 && releasable (s.fld (R.POOL_OWNER_OWNER b))) = true) ∧
    (∃ s : State, ∃ f2 : Nat, ∃ n2 : Nat, ∃ rest : List (Nat × Nat), s.rsv.clearing = (f2, n2) :: rest ∧ f2 + n2 ≤ 1264) ∧
    (∃ s : State, s.rsv.clearing = []) :=
  ⟨⟨State.reset, by decide +kernel⟩,
   ⟨{ State.reset with regs := [(0x1820040, 0x10003#32), (0x182100C, 0#32)] }, 3, by decide +kernel⟩,
   ⟨{ State.reset with regs := [(0x1820040, 0x10000#32)] }, 0, by decide +kernel⟩,
   ⟨{ State.reset with regs := [(0x1820040, 0x4F0#32)] }, by decide +kernel⟩,
   ⟨{ State.reset with regs := [(0x1820040, 3#32)] }, 3, by decide +kernel⟩,
   ⟨{ State.reset with regs := [(0x1821000, 0x11A10#32)] }, 0, by decide +kernel⟩,
   ⟨{ State.reset with rsv.clearing := [(3, 2), (9, 1)] }, 3, 2, [(9, 1)], by decide +kernel⟩,
   ⟨State.reset, by decide +kernel⟩⟩

/-- States and operands that meet the hypotheses of each clause of `Obligations.ComputeOperations`. -/
theorem witness_ComputeOperations :
    (∃ s : State, ∃ i : CSlot, ∃ cx : Nat, ∃ cy : Nat, ∃ cz : Nat, ∃ neg : Bool, ∃ v : Dy, cx = i.cx.toNat ∧ cy = i.cy.toNat ∧ cz = i.cz.toNat ∧ Ready s (i.core : Nat) ∧ i.ecc.fetch = .good ∧
      xor (((s.core (i.core : Nat)).bank).P i.pr.toNat) i.pn = true ∧ i.mem.toNat < 2 ^ 26 ∧ Fl.dec (((s.core (i.core : Nat)).bank).G cy) = .fin neg v) ∧
    (∃ s : State, ∃ i : CSlot, ∃ cx : Nat, ∃ cy : Nat, ∃ cz : Nat, cx = i.cx.toNat ∧ cy = i.cy.toNat ∧ cz = i.cz.toNat ∧ Ready s (i.core : Nat) ∧ i.ecc.fetch = .good ∧
      xor (((s.core (i.core : Nat)).bank).P i.pr.toNat) i.pn = true ∧ i.mem.toNat < 2 ^ 26 ∧ Fl.dec (((s.core (i.core : Nat)).bank).G cy) = .nan) ∧
    (∃ s : State, ∃ i : CSlot, ∃ cx : Nat, ∃ cy : Nat, ∃ cz : Nat, ∃ neg : Bool, cx = i.cx.toNat ∧ cy = i.cy.toNat ∧ cz = i.cz.toNat ∧ Ready s (i.core : Nat) ∧ i.ecc.fetch = .good ∧
      xor (((s.core (i.core : Nat)).bank).P i.pr.toNat) i.pn = true ∧ i.mem.toNat < 2 ^ 26 ∧ Fl.dec (((s.core (i.core : Nat)).bank).G cy) = .inf neg) ∧
    (∃ s : State, ∃ i : CSlot, ∃ cx : Nat, ∃ cy : Nat, ∃ cz : Nat, cx = i.cx.toNat ∧ cy = i.cy.toNat ∧ cz = i.cz.toNat ∧ Ready s (i.core : Nat) ∧ i.ecc.fetch = .good ∧
      xor (((s.core (i.core : Nat)).bank).P i.pr.toNat) i.pn = true ∧ i.mem.toNat < 2 ^ 26 ∧ (i.ci.toNat : Nat) % 32 ≤ 13 ∧
      (spSupWrite ((i.ci.toNat : Nat) % 32) = true → (s.core (i.core : Nat)).sup = true)) ∧
    (∃ s : State, ∃ i : CSlot, ∃ cx : Nat, ∃ cy : Nat, ∃ cz : Nat, cx = i.cx.toNat ∧ cy = i.cy.toNat ∧ cz = i.cz.toNat ∧ Ready s (i.core : Nat) ∧ i.ecc.fetch = .good ∧
      xor (((s.core (i.core : Nat)).bank).P i.pr.toNat) i.pn = true ∧ i.mem.toNat < 2 ^ 26 ∧ (i.ci.toNat : Nat) % 32 ≤ 13 ∧ (i.ci.toNat : Nat) % 32 ≠ 6 ∧
      (spSupRead ((i.ci.toNat : Nat) % 32) = true → (s.core (i.core : Nat)).sup = true)) ∧
    (∃ s : State, ∃ i : CSlot, ∃ cx : Nat, ∃ cy : Nat, ∃ cz : Nat, cx = i.cx.toNat ∧ cy = i.cy.toNat ∧ cz = i.cz.toNat ∧ Ready s (i.core : Nat) ∧ i.ecc.fetch = .good ∧
      xor (((s.core (i.core : Nat)).bank).P i.pr.toNat) i.pn = true ∧ i.mem.toNat < 2 ^ 26 ∧ (i.ci.toNat : Nat) % 32 = 6) ∧
    (∃ s : State, ∃ i : CSlot, ∃ cx : Nat, ∃ cy : Nat, ∃ cz : Nat, cx = i.cx.toNat ∧ cy = i.cy.toNat ∧ cz = i.cz.toNat ∧ Ready s (i.core : Nat) ∧ i.ecc.fetch = .good ∧
      xor (((s.core (i.core : Nat)).bank).P i.pr.toNat) i.pn = true ∧ i.mem.toNat < 2 ^ 26 ∧ 13 < (i.ci.toNat : Nat) % 32) ∧
    (∃ s : State, ∃ i : CSlot, ∃ cx : Nat, ∃ cy : Nat, ∃ cz : Nat, cx = i.cx.toNat ∧ cy = i.cy.toNat ∧ cz = i.cz.toNat ∧ Ready s (i.core : Nat) ∧ i.ecc.fetch = .good ∧
      xor (((s.core (i.core : Nat)).bank).P i.pr.toNat) i.pn = true ∧ i.mem.toNat < 2 ^ 26 ∧ (i.ci.toNat : Nat) % 32 ≤ 13 ∧ (s.core (i.core : Nat)).sup = false ∧
      spSupWrite ((i.ci.toNat : Nat) % 32) = true) ∧
    (∃ s : State, ∃ i : CSlot, ∃ cx : Nat, ∃ cy : Nat, ∃ cz : Nat, cx = i.cx.toNat ∧ cy = i.cy.toNat ∧ cz = i.cz.toNat ∧ Ready s (i.core : Nat) ∧ i.ecc.fetch = .good ∧
      xor (((s.core (i.core : Nat)).bank).P i.pr.toNat) i.pn = true ∧ i.mem.toNat < 2 ^ 26 ∧ (i.ci.toNat : Nat) % 32 ≤ 13 ∧ (s.core (i.core : Nat)).sup = false ∧
      spSupRead ((i.ci.toNat : Nat) % 32) = true) ∧
    (∃ s : State, ∃ i : CSlot, ∃ cx : Nat, ∃ cy : Nat, ∃ cz : Nat, cx = i.cx.toNat ∧ cy = i.cy.toNat ∧ cz = i.cz.toNat ∧ Ready s (i.core : Nat) ∧ i.ecc.fetch = .good ∧
      xor (((s.core (i.core : Nat)).bank).P i.pr.toNat) i.pn = true ∧ i.mem.toNat < 2 ^ 26 ∧ bitAt (i.ci.toNat : Nat) 0 = false) ∧
    (∃ s : State, ∃ i : CSlot, ∃ cx : Nat, ∃ cy : Nat, ∃ cz : Nat, cx = i.cx.toNat ∧ cy = i.cy.toNat ∧ cz = i.cz.toNat ∧ Ready s (i.core : Nat) ∧ i.ecc.fetch = .good ∧
      xor (((s.core (i.core : Nat)).bank).P i.pr.toNat) i.pn = true ∧ i.mem.toNat < 2 ^ 26 ∧ bitAt (i.ci.toNat : Nat) 0 = true) :=
  ⟨⟨{ State.reset with rfl := [(34, { RCore.init with shad.g := [(0, 34)], run := 1, shadow := true })] }, { core := 34, pr := 0#3, pn := false, cx := 5#4, cy := 0#4, cz := 3#4, ci := 0#10, mem := 0#32 }, 5, 0, 3, false, { m := 34, e := -149 }, by unfold Ready; decide +kernel⟩,
   ⟨{ State.reset with rfl := [(32, { RCore.init with main.g := [(1, 0x7F800040)], run := 1 })] }, { core := 32, pr := 0#3, pn := false, cx := 2#4, cy := 1#4, cz := 6#4, ci := 0#10, mem := 0#32 }, 2, 1, 6, by unfold Ready; decide +kernel⟩,
   ⟨{ State.reset with rfl := [(26, { RCore.init with shad.g := [(10, 0xFF800000)], run := 1, shadow := true })] }, { core := 26, pr := 0#3, pn := false, cx := 1#4, cy := 0xA#4, cz := 0xF#4, ci := 0#10, mem := 0#32 }, 1, 10, 15, true, by unfold Ready; decide +kernel⟩,
   ⟨{ State.reset with rfl := [(34, { RCore.init with run := 1 })] }, { core := 34, pr := 0#3, pn := false, cx := 5#4, cy := 0#4, cz := 3#4, ci := 0#10, mem := 0#32 }, 5, 0, 3, by unfold Ready; decide +kernel⟩,
   ⟨{ State.reset with rfl := [(34, { RCore.init with run := 1 })] }, { core := 34, pr := 0#3, pn := false, cx := 5#4, cy := 0#4, cz := 3#4, ci := 0#10, mem := 0#32 }, 5, 0, 3, by unfold Ready; decide +kernel⟩,
   ⟨{ State.reset with rfl := [(30, { RCore.init with run := 1 })] }, { core := 30, pr := 0#3, pn := false, cx := 0xF#4, cy := 0xB#4, cz := 5#4, ci := 6#10, mem := 0#32 }, 15, 11, 5, by unfold Ready; decide +kernel⟩,
   ⟨{ State.reset with rfl := [(41, { RCore.init with run := 1 })] }, { core := 41, pr := 0#3, pn := false, cx := 0xD#4, cy := 0xB#4, cz := 0xC#4, ci := 0xE#10, mem := 0#32 }, 13, 11, 12, by unfold Ready; decide +kernel⟩,
   ⟨{ State.reset with rfl := [(32, { RCore.init with run := 1 })] }, { core := 32, pr := 0#3, pn := false, cx := 2#4, cy := 1#4, cz := 6#4, ci := 4#10, mem := 0#32 }, 2, 1, 6, by unfold Ready; decide +kernel⟩,
   ⟨{ State.reset with rfl := [(32, { RCore.init with run := 1 })] }, { core := 32, pr := 0#3, pn := false, cx := 2#4, cy := 1#4, cz := 6#4, ci := 8#10, mem := 0#32 }, 2, 1, 6, by unfold Ready; decide +kernel⟩,
   ⟨{ State.reset with rfl := [(34, { RCore.init with run := 1 })] }, { core := 34, pr := 0#3, pn := false, cx := 5#4, cy := 0#4, cz := 3#4, ci := 0#10, mem := 0#32 }, 5, 0, 3, by unfold Ready; decide +kernel⟩,
   ⟨{ State.reset with rfl := [(54, { RCore.init with run := 1 })] }, { core := 54, pr := 0#3, pn := false, cx := 4#4, cy := 0xD#4, cz := 0xF#4, ci := 1#10, mem := 0#32 }, 4, 13, 15, by unfold Ready; decide +kernel⟩⟩

/-- States and operands that meet the hypotheses of each clause of `Obligations.MemoryOperations`. -/
theorem witness_MemoryOperations :
    (∃ s : State, ∃ i : MSlot, ∃ mr : Nat, mr = i.mr.toNat ∧ Ready s (i.core : Nat) ∧ xor (((s.core (i.core : Nat)).bank).P i.pr.toNat) i.pn = true ∧ i.comp.toNat < 2 ^ 22 ∧ i.ecc.fetch = .good ∧
      (((s.core (i.core : Nat)).bank).A (i.ma.toNat : Nat) : Nat) % 4 = 0 ∧ (((s.core (i.core : Nat)).bank).A (i.ma.toNat : Nat) : Nat) + 4 ≤ 0x40000) ∧
    (∃ s : State, ∃ i : MSlot, ∃ mr : Nat, mr = i.mr.toNat ∧ Ready s (i.core : Nat) ∧ xor (((s.core (i.core : Nat)).bank).P i.pr.toNat) i.pn = true ∧ i.comp.toNat < 2 ^ 22 ∧ i.ecc.fetch = .good ∧
      (((s.core (i.core : Nat)).bank).A (i.ma.toNat : Nat) : Nat) % 2 = 0 ∧ (((s.core (i.core : Nat)).bank).A (i.ma.toNat : Nat) : Nat) + 6 ≤ 0x40000) ∧
    (∃ s : State, ∃ i : MSlot, ∃ mr : Nat, mr = i.mr.toNat ∧ Ready s (i.core : Nat) ∧ xor (((s.core (i.core : Nat)).bank).P i.pr.toNat) i.pn = true ∧ i.comp.toNat < 2 ^ 22 ∧ i.ecc.fetch = .good ∧
      (((s.core (i.core : Nat)).bank).A (i.ma.toNat : Nat) : Nat) % 8 = 0 ∧ (((s.core (i.core : Nat)).bank).A (i.ma.toNat : Nat) : Nat) + 8 ≤ 0x40000) ∧
    (∃ s : State, ∃ i : MSlot, ∃ mr : Nat, mr = i.mr.toNat ∧ Ready s (i.core : Nat) ∧ xor (((s.core (i.core : Nat)).bank).P i.pr.toNat) i.pn = true ∧ i.comp.toNat < 2 ^ 22 ∧ i.ecc.fetch = .good ∧
      (s.core (i.core : Nat)).sup = true) ∧
    (∃ s : State, ∃ i : MSlot, ∃ mr : Nat, mr = i.mr.toNat ∧ Ready s (i.core : Nat) ∧ xor (((s.core (i.core : Nat)).bank).P i.pr.toNat) i.pn = true ∧ i.comp.toNat < 2 ^ 22 ∧ i.ecc.fetch = .good ∧
      (((s.core (i.core : Nat)).bank).G mr = 0 ∨ evpWord s (i.core : Nat) &&& ((s.core (i.core : Nat)).bank).G mr ≠ 0)) ∧
    (∃ s : State, ∃ i : MSlot, ∃ mr : Nat, mr = i.mr.toNat ∧ Ready s (i.core : Nat) ∧ xor (((s.core (i.core : Nat)).bank).P i.pr.toNat) i.pn = true ∧ i.comp.toNat < 2 ^ 22 ∧ i.ecc.fetch = .good ∧
      ((s.core (i.core : Nat)).bank).G mr ≠ 0 ∧ evpWord s (i.core : Nat) &&& ((s.core (i.core : Nat)).bank).G mr = 0) ∧
    (∃ s : State, ∃ i : MSlot, ∃ mr : Nat, mr = i.mr.toNat ∧ Ready s (i.core : Nat) ∧ xor (((s.core (i.core : Nat)).bank).P i.pr.toNat) i.pn = true ∧ i.comp.toNat < 2 ^ 22 ∧ i.ecc.fetch = .good ∧
      (s.core (i.core : Nat)).shadow = false) ∧
    (∃ s : State, ∃ i : MSlot, ∃ mr : Nat, mr = i.mr.toNat ∧ Ready s (i.core : Nat) ∧ xor (((s.core (i.core : Nat)).bank).P i.pr.toNat) i.pn = true ∧ i.comp.toNat < 2 ^ 22 ∧ i.ecc.fetch = .good ∧ i.ecc.data = [] ∧
      (((s.core (i.core : Nat)).bank).A (i.ma.toNat : Nat) : Nat) % 4 = 0 ∧ (((s.core (i.core : Nat)).bank).A (i.ma.toNat : Nat) : Nat) + 4 ≤ 0x40000) ∧
    (∃ s : State, ∃ i : MSlot, ∃ mr : Nat, mr = i.mr.toNat ∧ Ready s (i.core : Nat) ∧ xor (((s.core (i.core : Nat)).bank).P i.pr.toNat) i.pn = true ∧ i.comp.toNat < 2 ^ 22 ∧ i.ecc.fetch = .good ∧ i.ecc.data = [.corrected] ∧
      (((s.core (i.core : Nat)).bank).A (i.ma.toNat : Nat) : Nat) % 4 = 0 ∧ (((s.core (i.core : Nat)).bank).A (i.ma.toNat : Nat) : Nat) + 4 ≤ 0x40000) ∧
    (∃ s : State, ∃ i : MSlot, ∃ mr : Nat, mr = i.mr.toNat ∧ Ready s (i.core : Nat) ∧ xor (((s.core (i.core : Nat)).bank).P i.pr.toNat) i.pn = true ∧ i.comp.toNat < 2 ^ 22 ∧ i.ecc.fetch = .good ∧ i.ecc.data = [.uncorrectable] ∧
      (((s.core (i.core : Nat)).bank).A (i.ma.toNat : Nat) : Nat) % 4 = 0 ∧ (((s.core (i.core : Nat)).bank).A (i.ma.toNat : Nat) : Nat) + 4 ≤ 0x40000 ∧ (s.core (i.core : Nat)).shadow = false ∧ s.flag (R.RFL_CFG_FAULT_ACT (i.core : Nat)) = true) ∧
    (∃ s : State, ∃ i : MSlot, ∃ mr : Nat, mr = i.mr.toNat ∧ Ready s (i.core : Nat) ∧ xor (((s.core (i.core : Nat)).bank).P i.pr.toNat) i.pn = true ∧ i.comp.toNat < 2 ^ 22 ∧ i.ecc.fetch = .good ∧ 
      (((s.core (i.core : Nat)).bank).A (i.ma.toNat : Nat) : Nat) % 4 = 0 ∧ 0x40000 ≤ (((s.core (i.core : Nat)).bank).A (i.ma.toNat : Nat) : Nat) ∧ (((s.core (i.core : Nat)).bank).A (i.ma.toNat : Nat) : Nat) + 4 ≤ 0x48000 ∧ bitAt (s.core (i.core : Nat)).ewin 6 = true ∧ portBusy s ((s.core (i.core : Nat)).ewin % 64) = false) ∧
    (∃ s : State, ∃ i : MSlot, ∃ mr : Nat, mr = i.mr.toNat ∧ Ready s (i.core : Nat) ∧ xor (((s.core (i.core : Nat)).bank).P i.pr.toNat) i.pn = true ∧ i.comp.toNat < 2 ^ 22 ∧ i.ecc.fetch = .good ∧ 
      (((s.core (i.core : Nat)).bank).A (i.ma.toNat : Nat) : Nat) % 4 = 0 ∧ 0x40000 ≤ (((s.core (i.core : Nat)).bank).A (i.ma.toNat : Nat) : Nat) ∧ (((s.core (i.core : Nat)).bank).A (i.ma.toNat : Nat) : Nat) + 4 ≤ 0x48000 ∧ bitAt (s.core (i.core : Nat)).ewin 6 = true ∧ portBusy s ((s.core (i.core : Nat)).ewin % 64) = true) :=
  ⟨⟨{ State.reset with rfl := [(43, { RCore.init with run := 1 })] }, { core := 43, pr := 0#3, pn := false, comp := 0#28, mr := 0xC#4, ma := 0#3, ms := false, mo := 0#3, low := 0#15 }, 12, by unfold Ready; decide +kernel⟩,
   ⟨{ State.reset with rfl := [(43, { RCore.init with run := 1 })] }, { core := 43, pr := 0#3, pn := false, comp := 0#28, mr := 0xC#4, ma := 0#3, ms := false, mo := 0#3, low := 0#15 }, 12, by unfold Ready; decide +kernel⟩,
   ⟨{ State.reset with rfl := [(29, { RCore.init with run := 1 })] }, { core := 29, pr := 0#3, pn := false, comp := 0#28, mr := 2#4, ma := 0#3, ms := false, mo := 0#3, low := 0#15 }, 2, by unfold Ready; decide +kernel⟩,
   ⟨{ State.reset with rfl := [(43, { RCore.init with run := 1, sup := true })] }, { core := 43, pr := 0#3, pn := false, comp := 0#28, mr := 0xC#4, ma := 0#3, ms := false, mo := 0#3, low := 0#15 }, 12, by unfold Ready; decide +kernel⟩,
   ⟨{ State.reset with rfl := [(43, { RCore.init with run := 1 })] }, { core := 43, pr := 0#3, pn := false, comp := 0#28, mr := 0xC#4, ma := 0#3, ms := false, mo := 0#3, low := 0#15 }, 12, by unfold Ready; decide +kernel⟩,
   ⟨{ State.reset with rfl := [(34, { RCore.init with shad.g := [(10, 1)], run := 1, shadow := true })] }, { core := 34, pr := 0#3, pn := false, comp := 0#28, mr := 0xA#4, ma := 0#3, ms := false, mo := 0#3, low := 0#15 }, 10, by unfold Ready; decide +kernel⟩,
   ⟨{ State.reset with rfl := [(43, { RCore.init with run := 1 })] }, { core := 43, pr := 0#3, pn := false, comp := 0#28, mr := 0xC#4, ma := 0#3, ms := false, mo := 0#3, low := 0#15 }, 12, by unfold Ready; decide +kernel⟩,
   ⟨{ State.reset with rfl := [(43, { RCore.init with run := 1 })] }, { core := 43, pr := 0#3, pn := false, comp := 0#28, mr := 0xC#4, ma := 0#3, ms := false, mo := 0#3, low := 0#15 }, 12, by unfold Ready; decide +kernel⟩,
   ⟨{ State.reset with rfl := [(43, { RCore.init with run := 1 })] }, { core := 43, pr := 0#3, pn := false, comp := 0#28, mr := 0xC#4, ma := 0#3, ms := false, mo := 0#3, low := 0#15, ecc := ⟨.good, [.corrected]⟩ }, 12, by unfold Ready; decide +kernel⟩,
   ⟨{ State.reset with regs := [(0x1A3B040, 4#32)], rfl := [(43, { RCore.init with run := 1 })] }, { core := 43, pr := 0#3, pn := false, comp := 0#28, mr := 0xC#4, ma := 0#3, ms := false, mo := 0#3, low := 0#15, ecc := ⟨.good, [.uncorrectable]⟩ }, 12, by unfold Ready; decide +kernel⟩,
   ⟨{ State.reset with rfl := [(43, { RCore.init with run := 1, ewin := 0x45, main.a := [(0, 0x47FFC)] })] }, { core := 43, pr := 0#3, pn := false, comp := 0#28, mr := 0xC#4, ma := 0#3, ms := false, mo := 0#3, low := 0#15 }, 12, by unfold Ready; decide +kernel⟩,
   ⟨{ State.reset with rfl := [(43, { RCore.init with run := 1, ewin := 0x45, main.a := [(0, 0x40000)] })], rsv.portB := [(5, (0, 9))] }, { core := 43, pr := 0#3, pn := false, comp := 0#28, mr := 0xC#4, ma := 0#3, ms := false, mo := 0#3, low := 0#15 }, 12, by unfold Ready; decide +kernel⟩⟩
/-- States and operands that meet the hypotheses of each clause of `Obligations.ResultsAndFaults`. -/
theorem witness_ResultsAndFaults :
    (∃ s : State, ∃ c : Nat, ∃ w : Wr, (s.core c).flight = [w] ∧ 1 < w.left) ∧
    (∃ s : State, ∃ c : Nat, ∃ n : Nat, ∃ k : Nat, ∃ w : Wr, (s.core c).flight = [w] ∧ w.left = 1 ∧ w.shadow = (s.core c).shadow ∧ w.tgt = .g n ∧ k ≠ n) ∧
    (∃ s : State, ∃ c : Nat, ∃ n : Nat, ∃ w : Wr, (s.core c).flight = [w] ∧ w.left = 1 ∧ w.shadow = (s.core c).shadow ∧ w.tgt = .d n) ∧
    (∃ s : State, ∃ c : Nat, ∃ n : Nat, ∃ w : Wr, (s.core c).flight = [w] ∧ w.left = 1 ∧ w.shadow = (s.core c).shadow ∧ w.tgt = .acc n) ∧
    (∃ s : State, ∃ c : Nat, ∃ n : Nat, ∃ w : Wr, (s.core c).flight = [w] ∧ w.left = 1 ∧ w.shadow = (s.core c).shadow ∧ w.tgt = .p n ∧ n < 8) ∧
    (∃ s : State, ∃ c : Nat, ∃ n : Nat, ∃ w : Wr, ∃ v : Wr, (s.core c).flight = [w, v] ∧ w.left = 1 ∧ v.left = 1 ∧ v.shadow = (s.core c).shadow ∧ v.tgt = .g n) ∧
    (∃ s : State, ∃ c : Nat, ∃ word : Nat, ∃ e : LocalEcc, Ready s c ∧ e.fetch = .good ∧ xor ((s.core c).bank.P (bits word 63 61)) (bitAt word 60) = false) ∧
    (∃ s : State, ∃ c : Nat, (s.core c).run ≠ 1) ∧
    (∃ s : State, ∃ c : Nat, ∃ k : Nat, ∃ word : Nat, ∃ e : LocalEcc, Ready s c ∧ e.fetch = .good ∧ xor ((s.core c).bank.P (bits word 63 61)) (bitAt word 60) = true ∧
      computeSlot s c (s.core c).bank word = .inl k ∧ (s.core c).shadow = false ∧ s.flag (R.RFL_CFG_FAULT_ACT c) = true ∧ c < 64 ∧ k ≠ 10) ∧
    (∃ s : State, ∃ c : Nat, ∃ k : Nat, ∃ word : Nat, ∃ e : LocalEcc, Ready s c ∧ e.fetch = .good ∧ xor ((s.core c).bank.P (bits word 63 61)) (bitAt word 60) = true ∧
      computeSlot s c (s.core c).bank word = .inl k ∧ (s.core c).shadow = false ∧ s.flag (R.RFL_CFG_FAULT_ACT c) = false ∧ c < 64 ∧ k ≠ 10) ∧
    (∃ s : State, ∃ c : Nat, ∃ k : Nat, ∃ word : Nat, ∃ e : LocalEcc, Ready s c ∧ e.fetch = .good ∧ xor ((s.core c).bank.P (bits word 63 61)) (bitAt word 60) = true ∧
      computeSlot s c (s.core c).bank word = .inl k ∧ (s.core c).shadow = true ∧ c < 64 ∧ k ≠ 10) :=
  ⟨⟨{ State.reset with rfl := [(2, { RCore.init with flight := [{ left := 4, shadow := false, tgt := .p 3, re := -1, im := 5 }] })] }, 2, { left := 4, shadow := false, tgt := .p 3, re := -1, im := 5 }, by decide +kernel⟩,
   ⟨{ State.reset with rfl := [(63, { RCore.init with flight := [{ left := 1, shadow := false, tgt := .g 2, re := 0x1695BB10DA, im := 5 }] })] }, 63, 2, 0, { left := 1, shadow := false, tgt := .g 2, re := 0x1695BB10DA, im := 5 }, by decide +kernel⟩,
   ⟨{ State.reset with rfl := [(55, { RCore.init with flight := [{ left := 1, shadow := true, tgt := .d 0, re := 0xA9146, im := 5 }], shadow := true })] }, 55, 0, { left := 1, shadow := true, tgt := .d 0, re := 0xA9146, im := 5 }, by decide +kernel⟩,
   ⟨{ State.reset with rfl := [(51, { RCore.init with flight := [{ left := 1, shadow := true, tgt := .acc 1, re := -1, im := 5 }], shadow := true })] }, 51, 1, { left := 1, shadow := true, tgt := .acc 1, re := -1, im := 5 }, by decide +kernel⟩,
   ⟨{ State.reset with rfl := [(42, { RCore.init with flight := [{ left := 1, shadow := false, tgt := .p 3, re := 1, im := 5 }] })] }, 42, 3, { left := 1, shadow := false, tgt := .p 3, re := 1, im := 5 }, by decide +kernel⟩,
   ⟨{ State.reset with rfl := [(37, { RCore.init with flight := [{ left := 1, shadow := true, tgt := .g 0, re := 0, im := 5 }, { left := 1, shadow := true, tgt := .g 0, re := 7, im := 5 }], shadow := true })] }, 37, 0, { left := 1, shadow := true, tgt := .g 0, re := 0, im := 5 }, { left := 1, shadow := true, tgt := .g 0, re := 7, im := 5 }, by decide +kernel⟩,
   ⟨{ State.reset with rfl := [(53, { RCore.init with run := 1 })] }, 53, 0x1000000000000000, ⟨.good, []⟩, by unfold Ready; decide +kernel⟩,
   ⟨State.reset, 0, by decide +kernel⟩,
   ⟨{ State.reset with regs := [(0x1A3E040, 4#32)], rfl := [(46, { RCore.init with run := 1 })] }, 46, 1, 0x6C0001000000000, ⟨.good, []⟩, by unfold Ready; decide +kernel⟩,
   ⟨{ State.reset with rfl := [(6, { RCore.init with run := 1 })] }, 6, 1, 0x6C0001000000000, ⟨.good, []⟩, by unfold Ready; decide +kernel⟩,
   ⟨{ State.reset with rfl := [(4, { RCore.init with run := 1, shadow := true })] }, 4, 2, 0x6C0000800000000, ⟨.good, []⟩, by unfold Ready; decide +kernel⟩⟩

/-- States and operands that meet the hypotheses of each clause of `Obligations.CoreCommands`. -/
theorem witness_CoreCommands :
    (∃ s : State, ∃ c : Fin 64, s.cmdBusy (hCore c) = false ∧ (s.core c).run = 0 ∧ s.faultBit (hCore c) 2 = false ∧ s.disabled (hCore c) = false) ∧
    (∃ s : State, ∃ c : Fin 64, s.cmdBusy (hCore c) = false ∧ ((s.core c).run ≠ 0 ∨ s.faultBit (hCore c) 2 = true ∨ s.disabled (hCore c) = true)) ∧
    (∃ s : State, ∃ c : Fin 64, s.cmdBusy (hCore c) = false ∧ s.disabled (hCore c) = true) ∧
    (∃ s : State, ∃ c : Fin 64, s.cmdBusy (hCore c) = false ∧ (s.core c).run = 0) ∧
    (∃ s : State, ∃ c : Fin 64, s.cmdBusy (hCore c) = false ∧ (s.core c).run = 1 ∧ (s.core c).flight = [] ∧ (s.core c).step = false) ∧
    (∃ s : State, ∃ c : Fin 64, s.cmdBusy (hCore c) = false ∧ (s.core c).run = 3) ∧
    (∃ s : State, ∃ c : Fin 64, s.cmdBusy (hCore c) = false ∧ (s.core c).run = 0 ∧ s.disabled (hCore c) = false ∧ (s.core c).flight = [] ∧ (s.core c).br = none ∧ (s.core c).haltReq = false ∧
      xor ((s.core c).bank.P (bits (imemWord s c (s.core c).pc) 63 61)) (bitAt (imemWord s c (s.core c).pc) 60) = false) ∧
    (∃ s : State, ∃ c : Fin 64, s.cmdBusy (hCore c) = false ∧ (s.core c).run ≠ 0) ∧
    (∃ s : State, ∃ c : Fin 64, (s.core c).shadow = false ∧ (s.core c).ie = true ∧ evpWord s c &&& (s.core c).eve ≠ 0 ∧ (s.core c).far = none ∧
      ((s.core c).run = 1 ∨ (s.core c).run = 2) ∧ (s.core c).noPre = false ∧ (s.core c).flight = []) ∧
    (∃ s : State, ∃ c : Fin 64, ((s.core c).shadow = true ∨ (s.core c).ie = false ∨ evpWord s c &&& (s.core c).eve = 0 ∨ (s.core c).run = 0 ∨ (s.core c).run = 3 ∨ (s.core c).noPre = true)) ∧
    (∃ s : State, ∃ c : Fin 64, (s.core c).ctmr.1 ≠ 0) ∧
    (∃ s : State, ∃ c : Fin 64, (s.core c).ctmr.1 = 0) ∧
    (∃ s : State, ∃ c : Fin 64, (s.core c).run = 2 ∧ evpWord s c &&& (s.core c).mask ≠ 0 ∧ (s.core c).step = false ∧ (s.core c).haltReq = false) ∧
    (∃ s : State, ∃ c : Fin 64, ((s.core c).run ≠ 2 ∨ evpWord s c &&& (s.core c).mask = 0)) ∧
    (∃ s : State, ∃ c : Fin 64, (s.core c).run = 0 ∧ s.fld (R.RFL_DBG_SEL_FILE c) = 0 ∧ s.flag (R.RFL_DBG_SEL_BANK c) = false) ∧
    (∃ s : State, ∃ c : Fin 64, ∃ f : Far, ∃ d : Nat, ∃ i : MSlot, ∃ p : FarPart, (s.core c).far = some f ∧ f.word = mWord 0x11 i ∧ i.comp.toNat < 2 ^ 22 ∧ (s.core c).run = 3 ∧
      (s.core c).flight = [] ∧ (s.core c).br = none ∧ (s.core c).step = false ∧ (s.core c).haltReq = false ∧ (s.core c).sup = true ∧
      (farTranslate c f false (farVa (s.core c) f.word) 4 s).1 = .inr [p] ∧ p.dev = d ∧ p.len = 4 ∧ (farTranslate c f false (farVa (s.core c) f.word) 4 s).2 = s ∧
      devCause s (coreOwner c) d 4 false (.answered []) = 0) ∧
    (∃ s : State, ∃ c : Fin 64, ∃ f : Far, ∃ d : Nat, ∃ i : MSlot, ∃ p : FarPart, (s.core c).far = some f ∧ f.word = mWord 0x12 i ∧ i.comp.toNat < 2 ^ 22 ∧ (s.core c).run = 3 ∧
      (s.core c).flight = [] ∧ (s.core c).br = none ∧ (s.core c).step = false ∧ (s.core c).haltReq = false ∧ (s.core c).sup = true ∧ s.rsv.lost = [] ∧ memWf s.mem = true ∧
      (farTranslate c f false (farVa (s.core c) f.word) 4 s).1 = .inr [p] ∧ p.dev = d ∧ p.len = 4 ∧ (farTranslate c f false (farVa (s.core c) f.word) 4 s).2 = s ∧
      devCause s (coreOwner c) d 4 true (.answered []) = 0 ∧ s.inReservoir d = true) :=
  ⟨⟨State.reset, 0, by decide +kernel⟩,
   ⟨{ State.reset with rfl := [(12, { RCore.init with run := 1 })] }, 12, by decide +kernel⟩,
   ⟨{ State.reset with boot.disabled := [hCore 0] }, 0, by decide +kernel⟩,
   ⟨State.reset, 0, by decide +kernel⟩,
   ⟨{ State.reset with rfl := [(12, { RCore.init with run := 1 })] }, 12, by decide +kernel⟩,
   ⟨{ State.reset with rfl := [(21, { RCore.init with run := 3 })] }, 21, by decide +kernel⟩,
   ⟨{ State.reset with rfl := [(44, { RCore.init with imem := [(0, 0x1000000000000000)] })] }, 44, by decide +kernel⟩,
   ⟨{ State.reset with rfl := [(12, { RCore.init with run := 1 })] }, 12, by decide +kernel⟩,
   ⟨{ State.reset with regs := [(0x1830040, 1#32)], rfl := [(57, { RCore.init with run := 1, ie := true, eve := 0x1000000 })] }, 57, by decide +kernel⟩,
   ⟨State.reset, 0, by decide +kernel⟩,
   ⟨{ State.reset with rfl := [(25, { RCore.init with ctmr := (5, 0) })] }, 25, by decide +kernel⟩,
   ⟨State.reset, 0, by decide +kernel⟩,
   ⟨{ State.reset with rep.evp := [(53, 1)], rfl := [(53, { RCore.init with run := 2, mask := 1 })] }, 53, by decide +kernel⟩,
   ⟨State.reset, 0, by decide +kernel⟩,
   ⟨State.reset, 0, by decide +kernel⟩,
   ⟨{ State.reset with regs := [(0x1810040, 0x400#32), (0x1C10078, 1#32)], mmu.tlb := [(21, [{ asid := 3, va := 0x40000, pa := 0x100000, size := 4, u := false, w := false, r := true }])], rfl := [(21, { RCore.init with shad.a := [(1, 0x40008)], run := 3, shadow := true, sup := true, far := some { word := 0x323488464E20A3, since := 5, asid := 3 } })] }, 21, { word := 0x323488464E20A3, since := 5, asid := 3 }, 0x100008, { core := 0, pr := 0#3, pn := false, comp := 0x323488#28, mr := 9#4, ma := 1#3, ms := true, mo := 4#3, low := 0x20A3#15 }, { va := 0x40008, page := 0x40000, dev := 0x100008, len := 4 }, by decide +kernel⟩,
   ⟨{ State.reset with regs := [(0x1810040, 0x400#32), (0x1C10078, 1#32)], mmu.tlb := [(25, [{ asid := 3, va := 0x40000, pa := 0x100000, size := 8, u := false, w := true, r := false }])], rfl := [(25, { RCore.init with main.a := [(2, 0x40010)], run := 3, sup := true, far := some { word := 0x10277FC74B94D4B0, since := 5, asid := 3 } })] }, 25, { word := 0x10277FC74B94D4B0, since := 5, asid := 3 }, 0x100010, { core := 0, pr := 0#3, pn := true, comp := 0x277FC7#28, mr := 0xE#4, ma := 2#3, ms := true, mo := 1#3, low := 0x54B0#15 }, { va := 0x40010, page := 0x40000, dev := 0x100010, len := 4 }, by decide +kernel⟩⟩

/-- States and operands that meet the hypotheses of each clause of `Obligations.Translation`. -/
theorem witness_Translation :
    (∃ s : State, ∃ r : Requester, ∃ as : Nat, ∃ va : Nat, needs s r as va = true ∧ s.mmu.discard = [] ∧ va < 2 ^ 48 ∧
      ((((((tableOk s (asRoot s as : Nat) && !s.poisoned ((asRoot s as : Nat) + 8 * bits va 47 39) 8)) && decide (bits (leNat (s.memRead ((asRoot s as : Nat) + 8 * bits va 47 39) 8) : Nat) 1 0 = 1) && decide ((leNat (s.memRead ((asRoot s as : Nat) + 8 * bits va 47 39) 8) : Nat) < 2 ^ 40) && tableOk s (bits (leNat (s.memRead ((asRoot s as : Nat) + 8 * bits va 47 39) 8) : Nat) 39 12 * 4096 : Nat) && !s.poisoned ((bits (leNat (s.memRead ((asRoot s as : Nat) + 8 * bits va 47 39) 8) : Nat) 39 12 * 4096 : Nat) + 8 * bits va 38 30) 8)) && decide (bits (leNat (s.memRead ((bits (leNat (s.memRead ((asRoot s as : Nat) + 8 * bits va 47 39) 8) : Nat) 39 12 * 4096 : Nat) + 8 * bits va 38 30) 8) : Nat) 1 0 = 1) && decide ((leNat (s.memRead ((bits (leNat (s.memRead ((asRoot s as : Nat) + 8 * bits va 47 39) 8) : Nat) 39 12 * 4096 : Nat) + 8 * bits va 38 30) 8) : Nat) < 2 ^ 40) && tableOk s (bits (leNat (s.memRead ((bits (leNat (s.memRead ((asRoot s as : Nat) + 8 * bits va 47 39) 8) : Nat) 39 12 * 4096 : Nat) + 8 * bits va 38 30) 8) : Nat) 39 12 * 4096 : Nat) && !s.poisoned ((bits (leNat (s.memRead ((bits (leNat (s.memRead ((asRoot s as : Nat) + 8 * bits va 47 39) 8) : Nat) 39 12 * 4096 : Nat) + 8 * bits va 38 30) 8) : Nat) 39 12 * 4096 : Nat) + 8 * bits va 29 21) 8)) = true ∧
      bits (leNat (s.memRead ((bits (leNat (s.memRead ((bits (leNat (s.memRead ((asRoot s as : Nat) + 8 * bits va 47 39) 8) : Nat) 39 12 * 4096 : Nat) + 8 * bits va 38 30) 8) : Nat) 39 12 * 4096 : Nat) + 8 * bits va 29 21) 8) : Nat) 1 0 = 3 ∧
      (leNat (s.memRead ((bits (leNat (s.memRead ((bits (leNat (s.memRead ((asRoot s as : Nat) + 8 * bits va 47 39) 8) : Nat) 39 12 * 4096 : Nat) + 8 * bits va 38 30) 8) : Nat) 39 12 * 4096 : Nat) + 8 * bits va 29 21) 8) : Nat) < 2 ^ 40) ∧
    (∃ s : State, ∃ r : Requester, ∃ as : Nat, ∃ va : Nat, needs s r as va = true ∧ s.mmu.discard = [] ∧ va < 2 ^ 48 ∧
      ((((((tableOk s (asRoot s as : Nat) && !s.poisoned ((asRoot s as : Nat) + 8 * bits va 47 39) 8)) && decide (bits (leNat (s.memRead ((asRoot s as : Nat) + 8 * bits va 47 39) 8) : Nat) 1 0 = 1) && decide ((leNat (s.memRead ((asRoot s as : Nat) + 8 * bits va 47 39) 8) : Nat) < 2 ^ 40) && tableOk s (bits (leNat (s.memRead ((asRoot s as : Nat) + 8 * bits va 47 39) 8) : Nat) 39 12 * 4096 : Nat) && !s.poisoned ((bits (leNat (s.memRead ((asRoot s as : Nat) + 8 * bits va 47 39) 8) : Nat) 39 12 * 4096 : Nat) + 8 * bits va 38 30) 8)) && decide (bits (leNat (s.memRead ((bits (leNat (s.memRead ((asRoot s as : Nat) + 8 * bits va 47 39) 8) : Nat) 39 12 * 4096 : Nat) + 8 * bits va 38 30) 8) : Nat) 1 0 = 1) && decide ((leNat (s.memRead ((bits (leNat (s.memRead ((asRoot s as : Nat) + 8 * bits va 47 39) 8) : Nat) 39 12 * 4096 : Nat) + 8 * bits va 38 30) 8) : Nat) < 2 ^ 40) && tableOk s (bits (leNat (s.memRead ((bits (leNat (s.memRead ((asRoot s as : Nat) + 8 * bits va 47 39) 8) : Nat) 39 12 * 4096 : Nat) + 8 * bits va 38 30) 8) : Nat) 39 12 * 4096 : Nat) && !s.poisoned ((bits (leNat (s.memRead ((bits (leNat (s.memRead ((asRoot s as : Nat) + 8 * bits va 47 39) 8) : Nat) 39 12 * 4096 : Nat) + 8 * bits va 38 30) 8) : Nat) 39 12 * 4096 : Nat) + 8 * bits va 29 21) 8)) = true ∧
      bits (leNat (s.memRead ((bits (leNat (s.memRead ((bits (leNat (s.memRead ((asRoot s as : Nat) + 8 * bits va 47 39) 8) : Nat) 39 12 * 4096 : Nat) + 8 * bits va 38 30) 8) : Nat) 39 12 * 4096 : Nat) + 8 * bits va 29 21) 8) : Nat) 1 0 = 1 ∧
      (leNat (s.memRead ((bits (leNat (s.memRead ((bits (leNat (s.memRead ((asRoot s as : Nat) + 8 * bits va 47 39) 8) : Nat) 39 12 * 4096 : Nat) + 8 * bits va 38 30) 8) : Nat) 39 12 * 4096 : Nat) + 8 * bits va 29 21) 8) : Nat) < 2 ^ 40 ∧
      tableOk s (bits (leNat (s.memRead ((bits (leNat (s.memRead ((bits (leNat (s.memRead ((asRoot s as : Nat) + 8 * bits va 47 39) 8) : Nat) 39 12 * 4096 : Nat) + 8 * bits va 38 30) 8) : Nat) 39 12 * 4096 : Nat) + 8 * bits va 29 21) 8) : Nat) 39 12 * 4096 : Nat) = true ∧
      s.poisoned ((bits (leNat (s.memRead ((bits (leNat (s.memRead ((bits (leNat (s.memRead ((asRoot s as : Nat) + 8 * bits va 47 39) 8) : Nat) 39 12 * 4096 : Nat) + 8 * bits va 38 30) 8) : Nat) 39 12 * 4096 : Nat) + 8 * bits va 29 21) 8) : Nat) 39 12 * 4096 : Nat) + 8 * bits va 20 12) 8 = false ∧
      bits (leNat (s.memRead ((bits (leNat (s.memRead ((bits (leNat (s.memRead ((bits (leNat (s.memRead ((asRoot s as : Nat) + 8 * bits va 47 39) 8) : Nat) 39 12 * 4096 : Nat) + 8 * bits va 38 30) 8) : Nat) 39 12 * 4096 : Nat) + 8 * bits va 29 21) 8) : Nat) 39 12 * 4096 : Nat) + 8 * bits va 20 12) 8) : Nat) 1 0 = 3 ∧
      (leNat (s.memRead ((bits (leNat (s.memRead ((bits (leNat (s.memRead ((bits (leNat (s.memRead ((asRoot s as : Nat) + 8 * bits va 47 39) 8) : Nat) 39 12 * 4096 : Nat) + 8 * bits va 38 30) 8) : Nat) 39 12 * 4096 : Nat) + 8 * bits va 29 21) 8) : Nat) 39 12 * 4096 : Nat) + 8 * bits va 20 12) 8) : Nat) < 2 ^ 40 ∧
      bits (leNat (s.memRead ((bits (leNat (s.memRead ((bits (leNat (s.memRead ((bits (leNat (s.memRead ((asRoot s as : Nat) + 8 * bits va 47 39) 8) : Nat) 39 12 * 4096 : Nat) + 8 * bits va 38 30) 8) : Nat) 39 12 * 4096 : Nat) + 8 * bits va 29 21) 8) : Nat) 39 12 * 4096 : Nat) + 8 * bits va 20 12) 8) : Nat) 3 2 ≤ 1) ∧
    (∃ s : State, ∃ r : Requester, ∃ as : Nat, ∃ va : Nat, needs s r as va = true ∧ s.mmu.discard = [] ∧ va < 2 ^ 48 ∧ tableOk s (asRoot s as : Nat) = false) ∧
    (∃ s : State, ∃ r : Requester, ∃ as : Nat, ∃ va : Nat, needs s r as va = true ∧ s.mmu.discard = [] ∧ va < 2 ^ 48 ∧ tableOk s (asRoot s as : Nat) = true ∧
      s.poisoned ((asRoot s as : Nat) + 8 * bits va 47 39) 8 = true) ∧
    (∃ s : State, ∃ r : Requester, ∃ as : Nat, ∃ va : Nat, needs s r as va = true ∧ s.mmu.discard = [] ∧ va < 2 ^ 48 ∧
      ((tableOk s (asRoot s as : Nat) && !s.poisoned ((asRoot s as : Nat) + 8 * bits va 47 39) 8)) = true ∧
      bitAt (leNat (s.memRead ((asRoot s as : Nat) + 8 * bits va 47 39) 8) : Nat) 0 = false) ∧
    (∃ s : State, ∃ r : Requester, ∃ as : Nat, ∃ va : Nat, needs s r as va = true ∧ s.mmu.discard = [] ∧ va < 2 ^ 48 ∧
      ((tableOk s (asRoot s as : Nat) && !s.poisoned ((asRoot s as : Nat) + 8 * bits va 47 39) 8)) = true ∧
      bitAt (leNat (s.memRead ((asRoot s as : Nat) + 8 * bits va 47 39) 8) : Nat) 0 = true ∧
      (bitAt (leNat (s.memRead ((asRoot s as : Nat) + 8 * bits va 47 39) 8) : Nat) 1 = true ∨ 2 ^ 40 ≤ (leNat (s.memRead ((asRoot s as : Nat) + 8 * bits va 47 39) 8) : Nat) ∨ tableOk s (bits (leNat (s.memRead ((asRoot s as : Nat) + 8 * bits va 47 39) 8) : Nat) 39 12 * 4096 : Nat) = false)) ∧
    (∃ s : State, ∃ r : Requester, ∃ as : Nat, ∃ va : Nat, needs s r as va = true ∧ s.mmu.discard = [] ∧ va < 2 ^ 48 ∧
      ((((tableOk s (asRoot s as : Nat) && !s.poisoned ((asRoot s as : Nat) + 8 * bits va 47 39) 8)) && decide (bits (leNat (s.memRead ((asRoot s as : Nat) + 8 * bits va 47 39) 8) : Nat) 1 0 = 1) && decide ((leNat (s.memRead ((asRoot s as : Nat) + 8 * bits va 47 39) 8) : Nat) < 2 ^ 40) && tableOk s (bits (leNat (s.memRead ((asRoot s as : Nat) + 8 * bits va 47 39) 8) : Nat) 39 12 * 4096 : Nat) && !s.poisoned ((bits (leNat (s.memRead ((asRoot s as : Nat) + 8 * bits va 47 39) 8) : Nat) 39 12 * 4096 : Nat) + 8 * bits va 38 30) 8)) = true ∧
      bitAt (leNat (s.memRead ((bits (leNat (s.memRead ((asRoot s as : Nat) + 8 * bits va 47 39) 8) : Nat) 39 12 * 4096 : Nat) + 8 * bits va 38 30) 8) : Nat) 0 = false) ∧
    (∃ s : State, ∃ r : Requester, ∃ as : Nat, ∃ va : Nat, needs s r as va = true ∧ s.mmu.discard = [] ∧ va < 2 ^ 48 ∧
      ((((tableOk s (asRoot s as : Nat) && !s.poisoned ((asRoot s as : Nat) + 8 * bits va 47 39) 8)) && decide (bits (leNat (s.memRead ((asRoot s as : Nat) + 8 * bits va 47 39) 8) : Nat) 1 0 = 1) && decide ((leNat (s.memRead ((asRoot s as : Nat) + 8 * bits va 47 39) 8) : Nat) < 2 ^ 40) && tableOk s (bits (leNat (s.memRead ((asRoot s as : Nat) + 8 * bits va 47 39) 8) : Nat) 39 12 * 4096 : Nat) && !s.poisoned ((bits (leNat (s.memRead ((asRoot s as : Nat) + 8 * bits va 47 39) 8) : Nat) 39 12 * 4096 : Nat) + 8 * bits va 38 30) 8)) = true ∧
      bitAt (leNat (s.memRead ((bits (leNat (s.memRead ((asRoot s as : Nat) + 8 * bits va 47 39) 8) : Nat) 39 12 * 4096 : Nat) + 8 * bits va 38 30) 8) : Nat) 0 = true ∧
      (bitAt (leNat (s.memRead ((bits (leNat (s.memRead ((asRoot s as : Nat) + 8 * bits va 47 39) 8) : Nat) 39 12 * 4096 : Nat) + 8 * bits va 38 30) 8) : Nat) 1 = true ∨ 2 ^ 40 ≤ (leNat (s.memRead ((bits (leNat (s.memRead ((asRoot s as : Nat) + 8 * bits va 47 39) 8) : Nat) 39 12 * 4096 : Nat) + 8 * bits va 38 30) 8) : Nat) ∨ tableOk s (bits (leNat (s.memRead ((bits (leNat (s.memRead ((asRoot s as : Nat) + 8 * bits va 47 39) 8) : Nat) 39 12 * 4096 : Nat) + 8 * bits va 38 30) 8) : Nat) 39 12 * 4096 : Nat) = false)) ∧
    (∃ s : State, ∃ r : Requester, ∃ as : Nat, ∃ va : Nat, needs s r as va = true ∧ s.mmu.discard = [] ∧ va < 2 ^ 48 ∧
      ((((((tableOk s (asRoot s as : Nat) && !s.poisoned ((asRoot s as : Nat) + 8 * bits va 47 39) 8)) && decide (bits (leNat (s.memRead ((asRoot s as : Nat) + 8 * bits va 47 39) 8) : Nat) 1 0 = 1) && decide ((leNat (s.memRead ((asRoot s as : Nat) + 8 * bits va 47 39) 8) : Nat) < 2 ^ 40) && tableOk s (bits (leNat (s.memRead ((asRoot s as : Nat) + 8 * bits va 47 39) 8) : Nat) 39 12 * 4096 : Nat) && !s.poisoned ((bits (leNat (s.memRead ((asRoot s as : Nat) + 8 * bits va 47 39) 8) : Nat) 39 12 * 4096 : Nat) + 8 * bits va 38 30) 8)) && decide (bits (leNat (s.memRead ((bits (leNat (s.memRead ((asRoot s as : Nat) + 8 * bits va 47 39) 8) : Nat) 39 12 * 4096 : Nat) + 8 * bits va 38 30) 8) : Nat) 1 0 = 1) && decide ((leNat (s.memRead ((bits (leNat (s.memRead ((asRoot s as : Nat) + 8 * bits va 47 39) 8) : Nat) 39 12 * 4096 : Nat) + 8 * bits va 38 30) 8) : Nat) < 2 ^ 40) && tableOk s (bits (leNat (s.memRead ((bits (leNat (s.memRead ((asRoot s as : Nat) + 8 * bits va 47 39) 8) : Nat) 39 12 * 4096 : Nat) + 8 * bits va 38 30) 8) : Nat) 39 12 * 4096 : Nat) && !s.poisoned ((bits (leNat (s.memRead ((bits (leNat (s.memRead ((asRoot s as : Nat) + 8 * bits va 47 39) 8) : Nat) 39 12 * 4096 : Nat) + 8 * bits va 38 30) 8) : Nat) 39 12 * 4096 : Nat) + 8 * bits va 29 21) 8)) = true ∧
      bitAt (leNat (s.memRead ((bits (leNat (s.memRead ((bits (leNat (s.memRead ((asRoot s as : Nat) + 8 * bits va 47 39) 8) : Nat) 39 12 * 4096 : Nat) + 8 * bits va 38 30) 8) : Nat) 39 12 * 4096 : Nat) + 8 * bits va 29 21) 8) : Nat) 0 = false) ∧
    (∃ s : State, ∃ r : Requester, ∃ as : Nat, ∃ va : Nat, needs s r as va = true ∧ s.mmu.discard = [] ∧ va < 2 ^ 48 ∧
      ((((((tableOk s (asRoot s as : Nat) && !s.poisoned ((asRoot s as : Nat) + 8 * bits va 47 39) 8)) && decide (bits (leNat (s.memRead ((asRoot s as : Nat) + 8 * bits va 47 39) 8) : Nat) 1 0 = 1) && decide ((leNat (s.memRead ((asRoot s as : Nat) + 8 * bits va 47 39) 8) : Nat) < 2 ^ 40) && tableOk s (bits (leNat (s.memRead ((asRoot s as : Nat) + 8 * bits va 47 39) 8) : Nat) 39 12 * 4096 : Nat) && !s.poisoned ((bits (leNat (s.memRead ((asRoot s as : Nat) + 8 * bits va 47 39) 8) : Nat) 39 12 * 4096 : Nat) + 8 * bits va 38 30) 8)) && decide (bits (leNat (s.memRead ((bits (leNat (s.memRead ((asRoot s as : Nat) + 8 * bits va 47 39) 8) : Nat) 39 12 * 4096 : Nat) + 8 * bits va 38 30) 8) : Nat) 1 0 = 1) && decide ((leNat (s.memRead ((bits (leNat (s.memRead ((asRoot s as : Nat) + 8 * bits va 47 39) 8) : Nat) 39 12 * 4096 : Nat) + 8 * bits va 38 30) 8) : Nat) < 2 ^ 40) && tableOk s (bits (leNat (s.memRead ((bits (leNat (s.memRead ((asRoot s as : Nat) + 8 * bits va 47 39) 8) : Nat) 39 12 * 4096 : Nat) + 8 * bits va 38 30) 8) : Nat) 39 12 * 4096 : Nat) && !s.poisoned ((bits (leNat (s.memRead ((bits (leNat (s.memRead ((asRoot s as : Nat) + 8 * bits va 47 39) 8) : Nat) 39 12 * 4096 : Nat) + 8 * bits va 38 30) 8) : Nat) 39 12 * 4096 : Nat) + 8 * bits va 29 21) 8)) = true ∧
      bitAt (leNat (s.memRead ((bits (leNat (s.memRead ((bits (leNat (s.memRead ((asRoot s as : Nat) + 8 * bits va 47 39) 8) : Nat) 39 12 * 4096 : Nat) + 8 * bits va 38 30) 8) : Nat) 39 12 * 4096 : Nat) + 8 * bits va 29 21) 8) : Nat) 0 = true ∧
      (2 ^ 40 ≤ (leNat (s.memRead ((bits (leNat (s.memRead ((bits (leNat (s.memRead ((asRoot s as : Nat) + 8 * bits va 47 39) 8) : Nat) 39 12 * 4096 : Nat) + 8 * bits va 38 30) 8) : Nat) 39 12 * 4096 : Nat) + 8 * bits va 29 21) 8) : Nat) ∨ (bitAt (leNat (s.memRead ((bits (leNat (s.memRead ((bits (leNat (s.memRead ((asRoot s as : Nat) + 8 * bits va 47 39) 8) : Nat) 39 12 * 4096 : Nat) + 8 * bits va 38 30) 8) : Nat) 39 12 * 4096 : Nat) + 8 * bits va 29 21) 8) : Nat) 1 = false ∧
      tableOk s (bits (leNat (s.memRead ((bits (leNat (s.memRead ((bits (leNat (s.memRead ((asRoot s as : Nat) + 8 * bits va 47 39) 8) : Nat) 39 12 * 4096 : Nat) + 8 * bits va 38 30) 8) : Nat) 39 12 * 4096 : Nat) + 8 * bits va 29 21) 8) : Nat) 39 12 * 4096 : Nat) = false))) ∧
    (∃ s : State, ∃ r : Requester, ∃ as : Nat, ∃ va : Nat, needs s r as va = true ∧ s.mmu.discard = [] ∧ va < 2 ^ 48 ∧
      ((((((tableOk s (asRoot s as : Nat) && !s.poisoned ((asRoot s as : Nat) + 8 * bits va 47 39) 8)) && decide (bits (leNat (s.memRead ((asRoot s as : Nat) + 8 * bits va 47 39) 8) : Nat) 1 0 = 1) && decide ((leNat (s.memRead ((asRoot s as : Nat) + 8 * bits va 47 39) 8) : Nat) < 2 ^ 40) && tableOk s (bits (leNat (s.memRead ((asRoot s as : Nat) + 8 * bits va 47 39) 8) : Nat) 39 12 * 4096 : Nat) && !s.poisoned ((bits (leNat (s.memRead ((asRoot s as : Nat) + 8 * bits va 47 39) 8) : Nat) 39 12 * 4096 : Nat) + 8 * bits va 38 30) 8)) && decide (bits (leNat (s.memRead ((bits (leNat (s.memRead ((asRoot s as : Nat) + 8 * bits va 47 39) 8) : Nat) 39 12 * 4096 : Nat) + 8 * bits va 38 30) 8) : Nat) 1 0 = 1) && decide ((leNat (s.memRead ((bits (leNat (s.memRead ((asRoot s as : Nat) + 8 * bits va 47 39) 8) : Nat) 39 12 * 4096 : Nat) + 8 * bits va 38 30) 8) : Nat) < 2 ^ 40) && tableOk s (bits (leNat (s.memRead ((bits (leNat (s.memRead ((asRoot s as : Nat) + 8 * bits va 47 39) 8) : Nat) 39 12 * 4096 : Nat) + 8 * bits va 38 30) 8) : Nat) 39 12 * 4096 : Nat) && !s.poisoned ((bits (leNat (s.memRead ((bits (leNat (s.memRead ((asRoot s as : Nat) + 8 * bits va 47 39) 8) : Nat) 39 12 * 4096 : Nat) + 8 * bits va 38 30) 8) : Nat) 39 12 * 4096 : Nat) + 8 * bits va 29 21) 8)) = true ∧
      bits (leNat (s.memRead ((bits (leNat (s.memRead ((bits (leNat (s.memRead ((asRoot s as : Nat) + 8 * bits va 47 39) 8) : Nat) 39 12 * 4096 : Nat) + 8 * bits va 38 30) 8) : Nat) 39 12 * 4096 : Nat) + 8 * bits va 29 21) 8) : Nat) 1 0 = 1 ∧
      (leNat (s.memRead ((bits (leNat (s.memRead ((bits (leNat (s.memRead ((asRoot s as : Nat) + 8 * bits va 47 39) 8) : Nat) 39 12 * 4096 : Nat) + 8 * bits va 38 30) 8) : Nat) 39 12 * 4096 : Nat) + 8 * bits va 29 21) 8) : Nat) < 2 ^ 40 ∧
      tableOk s (bits (leNat (s.memRead ((bits (leNat (s.memRead ((bits (leNat (s.memRead ((asRoot s as : Nat) + 8 * bits va 47 39) 8) : Nat) 39 12 * 4096 : Nat) + 8 * bits va 38 30) 8) : Nat) 39 12 * 4096 : Nat) + 8 * bits va 29 21) 8) : Nat) 39 12 * 4096 : Nat) = true ∧
      s.poisoned ((bits (leNat (s.memRead ((bits (leNat (s.memRead ((bits (leNat (s.memRead ((asRoot s as : Nat) + 8 * bits va 47 39) 8) : Nat) 39 12 * 4096 : Nat) + 8 * bits va 38 30) 8) : Nat) 39 12 * 4096 : Nat) + 8 * bits va 29 21) 8) : Nat) 39 12 * 4096 : Nat) + 8 * bits va 20 12) 8 = false ∧
      bitAt (leNat (s.memRead ((bits (leNat (s.memRead ((bits (leNat (s.memRead ((bits (leNat (s.memRead ((asRoot s as : Nat) + 8 * bits va 47 39) 8) : Nat) 39 12 * 4096 : Nat) + 8 * bits va 38 30) 8) : Nat) 39 12 * 4096 : Nat) + 8 * bits va 29 21) 8) : Nat) 39 12 * 4096 : Nat) + 8 * bits va 20 12) 8) : Nat) 0 = false) ∧
    (∃ s : State, ∃ r : Requester, ∃ as : Nat, ∃ va : Nat, needs s r as va = true ∧ s.mmu.discard = [] ∧ va < 2 ^ 48 ∧
      ((((((tableOk s (asRoot s as : Nat) && !s.poisoned ((asRoot s as : Nat) + 8 * bits va 47 39) 8)) && decide (bits (leNat (s.memRead ((asRoot s as : Nat) + 8 * bits va 47 39) 8) : Nat) 1 0 = 1) && decide ((leNat (s.memRead ((asRoot s as : Nat) + 8 * bits va 47 39) 8) : Nat) < 2 ^ 40) && tableOk s (bits (leNat (s.memRead ((asRoot s as : Nat) + 8 * bits va 47 39) 8) : Nat) 39 12 * 4096 : Nat) && !s.poisoned ((bits (leNat (s.memRead ((asRoot s as : Nat) + 8 * bits va 47 39) 8) : Nat) 39 12 * 4096 : Nat) + 8 * bits va 38 30) 8)) && decide (bits (leNat (s.memRead ((bits (leNat (s.memRead ((asRoot s as : Nat) + 8 * bits va 47 39) 8) : Nat) 39 12 * 4096 : Nat) + 8 * bits va 38 30) 8) : Nat) 1 0 = 1) && decide ((leNat (s.memRead ((bits (leNat (s.memRead ((asRoot s as : Nat) + 8 * bits va 47 39) 8) : Nat) 39 12 * 4096 : Nat) + 8 * bits va 38 30) 8) : Nat) < 2 ^ 40) && tableOk s (bits (leNat (s.memRead ((bits (leNat (s.memRead ((asRoot s as : Nat) + 8 * bits va 47 39) 8) : Nat) 39 12 * 4096 : Nat) + 8 * bits va 38 30) 8) : Nat) 39 12 * 4096 : Nat) && !s.poisoned ((bits (leNat (s.memRead ((bits (leNat (s.memRead ((asRoot s as : Nat) + 8 * bits va 47 39) 8) : Nat) 39 12 * 4096 : Nat) + 8 * bits va 38 30) 8) : Nat) 39 12 * 4096 : Nat) + 8 * bits va 29 21) 8)) = true ∧
      bits (leNat (s.memRead ((bits (leNat (s.memRead ((bits (leNat (s.memRead ((asRoot s as : Nat) + 8 * bits va 47 39) 8) : Nat) 39 12 * 4096 : Nat) + 8 * bits va 38 30) 8) : Nat) 39 12 * 4096 : Nat) + 8 * bits va 29 21) 8) : Nat) 1 0 = 1 ∧
      (leNat (s.memRead ((bits (leNat (s.memRead ((bits (leNat (s.memRead ((asRoot s as : Nat) + 8 * bits va 47 39) 8) : Nat) 39 12 * 4096 : Nat) + 8 * bits va 38 30) 8) : Nat) 39 12 * 4096 : Nat) + 8 * bits va 29 21) 8) : Nat) < 2 ^ 40 ∧
      tableOk s (bits (leNat (s.memRead ((bits (leNat (s.memRead ((bits (leNat (s.memRead ((asRoot s as : Nat) + 8 * bits va 47 39) 8) : Nat) 39 12 * 4096 : Nat) + 8 * bits va 38 30) 8) : Nat) 39 12 * 4096 : Nat) + 8 * bits va 29 21) 8) : Nat) 39 12 * 4096 : Nat) = true ∧
      s.poisoned ((bits (leNat (s.memRead ((bits (leNat (s.memRead ((bits (leNat (s.memRead ((asRoot s as : Nat) + 8 * bits va 47 39) 8) : Nat) 39 12 * 4096 : Nat) + 8 * bits va 38 30) 8) : Nat) 39 12 * 4096 : Nat) + 8 * bits va 29 21) 8) : Nat) 39 12 * 4096 : Nat) + 8 * bits va 20 12) 8 = false ∧
      bitAt (leNat (s.memRead ((bits (leNat (s.memRead ((bits (leNat (s.memRead ((bits (leNat (s.memRead ((asRoot s as : Nat) + 8 * bits va 47 39) 8) : Nat) 39 12 * 4096 : Nat) + 8 * bits va 38 30) 8) : Nat) 39 12 * 4096 : Nat) + 8 * bits va 29 21) 8) : Nat) 39 12 * 4096 : Nat) + 8 * bits va 20 12) 8) : Nat) 0 = true ∧
      (bitAt (leNat (s.memRead ((bits (leNat (s.memRead ((bits (leNat (s.memRead ((bits (leNat (s.memRead ((asRoot s as : Nat) + 8 * bits va 47 39) 8) : Nat) 39 12 * 4096 : Nat) + 8 * bits va 38 30) 8) : Nat) 39 12 * 4096 : Nat) + 8 * bits va 29 21) 8) : Nat) 39 12 * 4096 : Nat) + 8 * bits va 20 12) 8) : Nat) 1 = false ∨ 2 ^ 40 ≤ (leNat (s.memRead ((bits (leNat (s.memRead ((bits (leNat (s.memRead ((bits (leNat (s.memRead ((asRoot s as : Nat) + 8 * bits va 47 39) 8) : Nat) 39 12 * 4096 : Nat) + 8 * bits va 38 30) 8) : Nat) 39 12 * 4096 : Nat) + 8 * bits va 29 21) 8) : Nat) 39 12 * 4096 : Nat) + 8 * bits va 20 12) 8) : Nat) ∨ 2 ≤ bits (leNat (s.memRead ((bits (leNat (s.memRead ((bits (leNat (s.memRead ((bits (leNat (s.memRead ((asRoot s as : Nat) + 8 * bits va 47 39) 8) : Nat) 39 12 * 4096 : Nat) + 8 * bits va 38 30) 8) : Nat) 39 12 * 4096 : Nat) + 8 * bits va 29 21) 8) : Nat) 39 12 * 4096 : Nat) + 8 * bits va 20 12) 8) : Nat) 3 2)) ∧
    (∃ s : State, s.cmdBusy hMmu = false) ∧
    (∃ s : State, s.cmdBusy hMmu = true) ∧
    (∃ s : State, ∃ v : Nat × Nat × Nat, s.mmu.inv = some v ∧ s.mmu.discard = []) ∧
    (∃ s : State, (s.mmu.inv = none ∨ s.mmu.discard ≠ [])) ∧
    (∃ s : State, ∃ r : Requester, (match r with | .core c => (s.core c).far.isNone | .chan ch => (chanWaits s ch).isNone) = true) :=
  ⟨⟨{ State.reset with regs := [(0x1810040, 0x400#32), (0x1C10078, 0x10001#32), (0x1C3F040, 0x300#32), (0x1C3F044, 1#32)], mem := [(0x10010, 1#8), (0x10012, 0x40#8), (0x400158, 3#8), (0x400468, 1#8), (0x40046A, 0x40#8)], mlr.ch := [(31, { MlrCh.init with stage := .fetch, desc := List.replicate 12 0 ++ [0x456789AB, 291] })] }, Sys2Proof.Requester.chan 31, 3, 0x123456789AB, by decide +kernel⟩,
   ⟨{ State.reset with regs := [(0x1810040, 0x400#32), (0x1C10078, 0x10001#32)], mem := [(0x10000, 1#8), (0x10002, 0x20#8), (0x12000, 1#8), (0x12002, 0x40#8), (0x200000, 1#8), (0x200001, 0x20#8), (0x200002, 1#8), (0x400028, 3#8)], rfl := [(26, { RCore.init with main.a := [(0, 20480)], far := some { word := 0, since := 0, asid := 3 } })] }, Sys2Proof.Requester.core 26, 3, 20480, by decide +kernel⟩,
   ⟨{ State.reset with regs := [(0x1C10078, 1#32)], rfl := [(30, { RCore.init with main.a := [(0, 0x456789A8)], vseg := 291, far := some { word := 0, since := 0, asid := 3 } })] }, Sys2Proof.Requester.core 30, 3, 0x123456789A8, by decide +kernel⟩,
   ⟨{ State.reset with regs := [(0x1810040, 0x400#32), (0x1C10078, 0x10001#32)], poison := [0x10FF8], rfl := [(30, { RCore.init with main.a := [(0, 0xFFFFFFFC)], vseg := 65535, far := some { word := 0, since := 0, asid := 3 } })] }, Sys2Proof.Requester.core 30, 3, 0xFFFFFFFFFFFC, by decide +kernel⟩,
   ⟨{ State.reset with regs := [(0x1810040, 0x400#32), (0x1C10078, 1#32)], rfl := [(12, { RCore.init with main.a := [(0, 0x10000)], far := some { word := 0, since := 0, asid := 3 } })] }, Sys2Proof.Requester.core 12, 3, 0x10000, by decide +kernel⟩,
   ⟨{ State.reset with regs := [(0x1810040, 0x400#32), (0x1C10078, 0x10001#32), (0x1C31040, 0x300#32), (0x1C31044, 1#32)], mem := [(0x10010, 3#8)], mlr.ch := [(17, { MlrCh.init with stage := .fetch, desc := List.replicate 12 0 ++ [0x456789AB, 291] })] }, Sys2Proof.Requester.chan 17, 3, 0x123456789AB, by decide +kernel⟩,
   ⟨{ State.reset with regs := [(0x1810040, 0x400#32), (0x1C10078, 0x10001#32)], mem := [(0x10FF8, 1#8)], rfl := [(2, { RCore.init with main.a := [(0, 0xFFFFFFFC)], vseg := 65535, far := some { word := 0, since := 0, asid := 3 } })] }, Sys2Proof.Requester.core 2, 3, 0xFFFFFFFFFFFC, by decide +kernel⟩,
   ⟨{ State.reset with regs := [(0x1810040, 0x400#32), (0x1C10078, 0x10001#32)], mem := [(0x10000, 1#8), (0x10001, 0x10#8), (0x10002, 1#8), (0x11000, 3#8)], rfl := [(10, { RCore.init with main.a := [(0, 0x10000)], far := some { word := 0, since := 0, asid := 3 } })] }, Sys2Proof.Requester.core 10, 3, 0x10000, by decide +kernel⟩,
   ⟨{ State.reset with regs := [(0x1810040, 0x400#32), (0x1C10078, 0x10001#32), (0x1C2D040, 0x300#32), (0x1C2D044, 1#32)], mem := [(0x10000, 1#8), (0x10001, 0x10#8), (0x10002, 1#8), (0x11000, 1#8)], mlr.ch := [(13, { MlrCh.init with stage := .fetch, desc := List.replicate 12 0 ++ [20480] })] }, Sys2Proof.Requester.chan 13, 3, 20480, by decide +kernel⟩,
   ⟨{ State.reset with regs := [(0x1810040, 0x400#32), (0x1C10078, 0x10001#32)], mem := [(0x10FF8, 1#8), (0x10FF9, 0x10#8), (0x10FFA, 1#8), (0x11FF8, 1#8), (0x11FFA, 0x40#8), (0x400FF8, 1#8), (0x400FFD, 1#8)], rfl := [(23, { RCore.init with main.a := [(0, 0xFFFFFFFC)], vseg := 65535, far := some { word := 0, since := 0, asid := 3 } })] }, Sys2Proof.Requester.core 23, 3, 0xFFFFFFFFFFFC, by decide +kernel⟩,
   ⟨{ State.reset with regs := [(0x1810040, 0x400#32), (0x1C10078, 0x10001#32), (0x1C25040, 0x300#32), (0x1C25044, 1#32)], mem := [(0x10000, 1#8), (0x10002, 1#8)], mlr.ch := [(5, { MlrCh.init with stage := .fetch, desc := List.replicate 12 0 ++ [20480] })] }, Sys2Proof.Requester.chan 5, 3, 20480, by decide +kernel⟩,
   ⟨{ State.reset with regs := [(0x1810040, 0x400#32), (0x1C10078, 0x10001#32), (0x1C2E040, 0x300#32), (0x1C2E044, 1#32)], mem := [(0x10000, 1#8), (0x10002, 1#8), (0x10080, 1#8)], mlr.ch := [(14, { MlrCh.init with stage := .fetch, desc := List.replicate 12 0 ++ [0x10000] })] }, Sys2Proof.Requester.chan 14, 3, 0x10000, by decide +kernel⟩,
   ⟨State.reset, by decide +kernel⟩,
   ⟨{ State.reset with rep.cmd := [(0x1C10000, { status := 0, code := 0, busy := true })] }, by decide +kernel⟩,
   ⟨{ State.reset with mmu.inv := some (1, 3, 0) }, (1, 3, 0), by decide +kernel⟩,
   ⟨State.reset, by decide +kernel⟩,
   ⟨State.reset, .chan 3, by decide +kernel⟩⟩
/-- States and operands that meet the hypotheses of each clause of `Obligations.MillraceBursts`. -/
theorem witness_MillraceBursts :
    (∃ s : State, ∃ ch : Fin 32, (s.mch ch).stage = .fetch ∧ s.mState ch = 1 ∧ bitAt (dNext ((s.mch ch).desc) : Nat) 63 = true ∧ s.flag (R.MLR_CFG_PHYS_OK ch) = true ∧
      bits (dNext ((s.mch ch).desc) : Nat) 62 40 = 0 ∧ (s.mch ch).stop = false ∧
      (devCause s (0x1C20 + ch) ((dNext ((s.mch ch).desc) : Nat) % 2 ^ 40) 64 false (.answered []) : Nat) = 0 ∧
      (descOk ((List.range 16).map (fun w => leNat (((devRead s ((dNext ((s.mch ch).desc) : Nat) % 2 ^ 40) 64).drop (4 * w)).take 4))) = true)) ∧
    (∃ s : State, ∃ ch : Fin 32, (s.mch ch).stage = .fetch ∧ s.mState ch = 1 ∧ bitAt (dNext ((s.mch ch).desc) : Nat) 63 = true ∧ s.flag (R.MLR_CFG_PHYS_OK ch) = true ∧
      bits (dNext ((s.mch ch).desc) : Nat) 62 40 = 0 ∧ (s.mch ch).stop = false ∧
      (devCause s (0x1C20 + ch) ((dNext ((s.mch ch).desc) : Nat) % 2 ^ 40) 64 false (.answered []) : Nat) = 0 ∧
      (descOk ((List.range 16).map (fun w => leNat (((devRead s ((dNext ((s.mch ch).desc) : Nat) % 2 ^ 40) 64).drop (4 * w)).take 4))) = false)) ∧
    (∃ s : State, ∃ ch : Fin 32, (s.mch ch).stage = .fetch ∧ s.mState ch = 1 ∧ bitAt (dNext ((s.mch ch).desc) : Nat) 63 = true ∧ s.flag (R.MLR_CFG_PHYS_OK ch) = true ∧
      bits (dNext ((s.mch ch).desc) : Nat) 62 40 = 0 ∧ (s.mch ch).stop = false ∧
      ((devCause s (0x1C20 + ch) ((dNext ((s.mch ch).desc) : Nat) % 2 ^ 40) 64 false (.answered []) : Nat) = 8 ∨ ((devCause s (0x1C20 + ch) ((dNext ((s.mch ch).desc) : Nat) % 2 ^ 40) 64 false (.answered []) : Nat) = 9 ∧
      s.fld (R.MLR_CFG_RETRY_LIM ch) ≤ (s.mch ch).bus))) ∧
    (∃ s : State, ∃ ch : Fin 32, (s.mch ch).stage = .fetch ∧ s.mState ch = 1 ∧ bitAt (dNext ((s.mch ch).desc) : Nat) 63 = true ∧ s.flag (R.MLR_CFG_PHYS_OK ch) = true ∧
      bits (dNext ((s.mch ch).desc) : Nat) 62 40 = 0 ∧ (s.mch ch).stop = false ∧
      (devCause s (0x1C20 + ch) ((dNext ((s.mch ch).desc) : Nat) % 2 ^ 40) 64 false (.answered []) : Nat) = 7 ∧ (s.mch ch).mig = none) ∧
    (∃ s : State, ∃ ch : Fin 32, (s.mch ch).stage = .fetch ∧ s.mState ch = 1 ∧ bitAt (dNext ((s.mch ch).desc) : Nat) 63 = true ∧ s.flag (R.MLR_CFG_PHYS_OK ch) = true ∧
      bits (dNext ((s.mch ch).desc) : Nat) 62 40 = 0 ∧ (s.mch ch).stop = false ∧
      (devCause s (0x1C20 + ch) ((dNext ((s.mch ch).desc) : Nat) % 2 ^ 40) 64 false (.answered []) : Nat) = 9 ∧ (s.mch ch).bus < s.fld (R.MLR_CFG_RETRY_LIM ch)) ∧
    (∃ s : State, ∃ ch : Fin 32, (s.mch ch).nx ≤ dX ((s.mch ch).desc) ∧ (List.range 32).filter (mlrReady s) = [ch.val] ∧
      (List.range 32).foldl (fun n i => n + (s.mch i).out.length) 0 < 64) ∧
    (∃ s : State, ∃ ch : Fin 32, (s.mch ch).out = []) ∧
    (∃ s : State, ∃ ch : Fin 32, ∃ b : Burst, ∃ rest : List Burst, (s.mch ch).out = b :: rest ∧ bitAt b.src 63 = true ∧ bitAt b.dst 63 = true ∧
      s.flag (R.MLR_CFG_PHYS_OK ch) = true ∧ bits b.src 62 40 = 0 ∧ bits b.dst 62 40 = 0 ∧ devCause s (0x1C20 + ch) (b.src % 2 ^ 40 : Nat) b.len false (.answered []) = 0 ∧
      s.rsv.lost = [] ∧ memWf s.mem = true ∧ s.inReservoir (b.dst % 2 ^ 40 : Nat) = true ∧ s.inReservoir (b.src % 2 ^ 40 : Nat) = true ∧ b.orphan = false ∧
      devCause s (0x1C20 + ch) (b.dst % 2 ^ 40 : Nat) b.len true (.answered []) = 0 ∧ mayOverlap b.desc = false ∧ (s.mch ch).stop = false) ∧
    (∃ s : State, ∃ ch : Fin 32, ∃ b : Burst, ∃ rest : List Burst, (s.mch ch).out = b :: rest ∧ bitAt b.src 63 = true ∧ bitAt b.dst 63 = true ∧
      s.flag (R.MLR_CFG_PHYS_OK ch) = true ∧ bits b.src 62 40 = 0 ∧ bits b.dst 62 40 = 0 ∧ devCause s (0x1C20 + ch) (b.src % 2 ^ 40 : Nat) b.len false (.answered []) = 0 ∧
      b.orphan = false ∧ devCause s (0x1C20 + ch) (b.dst % 2 ^ 40 : Nat) b.len true (.answered []) = 6) ∧
    (∃ s : State, ∃ ch : Fin 32, ∃ b : Burst, ∃ rest : List Burst, (s.mch ch).out = b :: rest ∧ b.orphan = true ∧ bitAt b.src 63 = true ∧ bitAt b.dst 63 = true ∧
      s.flag (R.MLR_CFG_PHYS_OK ch) = true ∧ bits b.src 62 40 = 0 ∧ bits b.dst 62 40 = 0 ∧ devCause s (0x1C20 + ch) (b.src % 2 ^ 40 : Nat) b.len false (.answered []) = 0 ∧
      devCause s (0x1C20 + ch) (b.dst % 2 ^ 40 : Nat) b.len true (.answered []) = 6) ∧
    (∃ s : State, ∃ ch : Fin 32, s.mState ch = 2 ∧ (s.mch ch).stage = .bursts) ∧
    (∃ s : State, ∃ ch : Fin 32, s.mState ch = 2 ∧ (s.mch ch).stage = .readback) ∧
    (∃ s : State, ∃ ch : Fin 32, s.mState ch = 2 ∧ (s.mch ch).stage = .fetch) ∧
    (∃ s : State, ∃ ch : Fin 32, s.mState ch ≠ 2) ∧
    (∃ s : State, ∃ ch : Fin 32, (s.mch ch).stage = .readback ∧ s.mState ch = 3 ∧
      bitAt (dstAt ((s.mch ch).desc) (dX ((s.mch ch).desc)) (dY ((s.mch ch).desc)) (dZ ((s.mch ch).desc)) / 8 * 8 : Nat) 63 = true ∧ s.flag (R.MLR_CFG_PHYS_OK ch) = true ∧
      bits (dstAt ((s.mch ch).desc) (dX ((s.mch ch).desc)) (dY ((s.mch ch).desc)) (dZ ((s.mch ch).desc)) / 8 * 8 : Nat) 62 40 = 0 ∧ (s.mch ch).stop = false ∧
      (devCause s (0x1C20 + ch) ((dstAt ((s.mch ch).desc) (dX ((s.mch ch).desc)) (dY ((s.mch ch).desc)) (dZ ((s.mch ch).desc)) / 8 * 8 : Nat) % 2 ^ 40) 8 false (.answered []) : Nat) = 0) ∧
    (∃ s : State, ∃ ch : Fin 32, (s.mch ch).stage = .readback ∧ s.mState ch = 3 ∧
      bitAt (dstAt ((s.mch ch).desc) (dX ((s.mch ch).desc)) (dY ((s.mch ch).desc)) (dZ ((s.mch ch).desc)) / 8 * 8 : Nat) 63 = true ∧ s.flag (R.MLR_CFG_PHYS_OK ch) = true ∧
      bits (dstAt ((s.mch ch).desc) (dX ((s.mch ch).desc)) (dY ((s.mch ch).desc)) (dZ ((s.mch ch).desc)) / 8 * 8 : Nat) 62 40 = 0 ∧ (s.mch ch).stop = false ∧
      (devCause s (0x1C20 + ch) ((dstAt ((s.mch ch).desc) (dX ((s.mch ch).desc)) (dY ((s.mch ch).desc)) (dZ ((s.mch ch).desc)) / 8 * 8 : Nat) % 2 ^ 40) 8 false (.answered []) : Nat) = 8) ∧
    (∃ s : State, ∃ ch : Fin 32, ((s.mch ch).stage ≠ .readback ∨ s.mState ch ≠ 3)) ∧
    (∃ s : State, ∃ ch : Fin 32, (s.mch ch).stage = .done ∧ s.mState ch = 1 ∧ (dCtl ((s.mch ch).desc) 1 = true → dNext ((s.mch ch).desc) % 64 = 0)) ∧
    (∃ s : State, ∃ ch : Fin 32, (s.mch ch).stage = .done ∧ s.mState ch = 1 ∧ dCtl ((s.mch ch).desc) 1 = true ∧ dNext ((s.mch ch).desc) % 64 ≠ 0) ∧
    (∃ s : State, ∃ ch : Fin 32, ((s.mch ch).stage ≠ .done ∨ s.mState ch ≠ 1)) :=
  ⟨⟨{ State.reset with regs := [(0x1810040, 0x400#32), (0x1C21040, 0x10000#32), (0x1C21044, 1#32)], mlr.ch := [(1, { MlrCh.init with stage := .fetch, desc := List.replicate 13 0 ++ [0x80000000] })] }, 1, by decide +kernel⟩,
   ⟨{ State.reset with regs := [(0x1810040, 0x400#32), (0x1C22040, 0x10000#32), (0x1C22044, 1#32)], mem := [(0x20032, 1#8)], mlr.ch := [(2, { MlrCh.init with stage := .fetch, desc := List.replicate 12 0 ++ [0x20004, 0x80000000] })] }, 2, by decide +kernel⟩,
   ⟨{ State.reset with regs := [(0x1C2B040, 0x10000#32), (0x1C2B044, 1#32)], mlr.ch := [(11, { MlrCh.init with stage := .fetch, desc := List.replicate 13 0 ++ [0x80000000] })] }, 11, by decide +kernel⟩,
   ⟨{ State.reset with regs := [(0x1810040, 0x4400#32), (0x1811800, 0x4000#32), (0x1C37040, 0x10000#32), (0x1C37044, 1#32)], rsv.mig := some { src := 64, dst := 0, copied := false }, rsv.window := true, mlr.ch := [(23, { MlrCh.init with stage := .fetch, desc := List.replicate 12 0 ++ [0x20000, 0x80000000] })] }, 23, by decide +kernel⟩,
   ⟨{ State.reset with regs := [(0x1C21040, 0x10020#32), (0x1C21044, 1#32)], mlr.ch := [(1, { MlrCh.init with stage := .fetch, desc := List.replicate 13 0 ++ [0x80000000] })] }, 1, by decide +kernel⟩,
   ⟨{ State.reset with regs := [(0x1C26044, 1#32)], mlr.ch := [(6, { MlrCh.init with stage := .bursts, left := true })] }, 6, by decide +kernel⟩,
   ⟨State.reset, 0, by decide +kernel⟩,
   ⟨{ State.reset with regs := [(0x1810040, 0x400#32), (0x1C31040, 0x10000#32)], mlr.ch := [(17, { MlrCh.init with desc := [1], out := [{ x := 0, y := 0, z := 0, src := 0x8000000000300010, dst := 0x8000000000500010, len := 8, since := 5, desc := [1], num := 0, orphan := false }] })] }, 17, { x := 0, y := 0, z := 0, src := 0x8000000000300010, dst := 0x8000000000500010, len := 8, since := 5, desc := [1], num := 0, orphan := false }, [], by decide +kernel⟩,
   ⟨{ State.reset with regs := [(0x1810040, 0x400#32), (0x1C3D040, 0x10000#32)], mlr.ch := [(29, { MlrCh.init with out := [{ x := 0, y := 0, z := 0, src := 0x8000000000300000, dst := 0x800000E000000000, len := 8, since := 5, desc := [1], num := 0, orphan := false }, { x := 256, y := 0, z := 0, src := 0x8000000000300100, dst := 0x800000E000000100, len := 8, since := 5, desc := [1], num := 0, orphan := false }, { x := 512, y := 0, z := 0, src := 0x8000000000300200, dst := 0x800000E000000200, len := 8, since := 5, desc := [1], num := 0, orphan := false }, { x := 768, y := 0, z := 0, src := 0x8000000000300300, dst := 0x800000E000000300, len := 8, since := 5, desc := [1], num := 0, orphan := false }, { x := 1024, y := 0, z := 0, src := 0x8000000000300400, dst := 0x800000E000000400, len := 8, since := 5, desc := [1], num := 0, orphan := false }, { x := 1280, y := 0, z := 0, src := 0x8000000000300500, dst := 0x800000E000000500, len := 8, since := 5, desc := [1], num := 0, orphan := false }, { x := 1536, y := 0, z := 0, src := 0x8000000000300600, dst := 0x800000E000000600, len := 8, since := 5, desc := [1], num := 0, orphan := false }, { x := 1792, y := 0, z := 0, src := 0x8000000000300700, dst := 0x800000E000000700, len := 8, since := 5, desc := [1], num := 0, orphan := false }] })] }, 29, { x := 0, y := 0, z := 0, src := 0x8000000000300000, dst := 0x800000E000000000, len := 8, since := 5, desc := [1], num := 0, orphan := false }, [{ x := 256, y := 0, z := 0, src := 0x8000000000300100, dst := 0x800000E000000100, len := 8, since := 5, desc := [1], num := 0, orphan := false }, { x := 512, y := 0, z := 0, src := 0x8000000000300200, dst := 0x800000E000000200, len := 8, since := 5, desc := [1], num := 0, orphan := false }, { x := 768, y := 0, z := 0, src := 0x8000000000300300, dst := 0x800000E000000300, len := 8, since := 5, desc := [1], num := 0, orphan := false }, { x := 1024, y := 0, z := 0, src := 0x8000000000300400, dst := 0x800000E000000400, len := 8, since := 5, desc := [1], num := 0, orphan := false }, { x := 1280, y := 0, z := 0, src := 0x8000000000300500, dst := 0x800000E000000500, len := 8, since := 5, desc := [1], num := 0, orphan := false }, { x := 1536, y := 0, z := 0, src := 0x8000000000300600, dst := 0x800000E000000600, len := 8, since := 5, desc := [1], num := 0, orphan := false }, { x := 1792, y := 0, z := 0, src := 0x8000000000300700, dst := 0x800000E000000700, len := 8, since := 5, desc := [1], num := 0, orphan := false }], by decide +kernel⟩,
   ⟨{ State.reset with regs := [(0x1810040, 0x400#32), (0x1C3D040, 0x10000#32)], mlr.ch := [(29, { MlrCh.init with out := [{ x := 0, y := 0, z := 0, src := 0x8000000000300000, dst := 0x800000E000000000, len := 8, since := 5, desc := [1], num := 0, orphan := true }] })] }, 29, { x := 0, y := 0, z := 0, src := 0x8000000000300000, dst := 0x800000E000000000, len := 8, since := 5, desc := [1], num := 0, orphan := true }, [], by decide +kernel⟩,
   ⟨{ State.reset with regs := [(0x1C2F044, 2#32)], mlr.ch := [(15, { MlrCh.init with stage := .bursts })] }, 15, by decide +kernel⟩,
   ⟨{ State.reset with regs := [(0x1C27044, 2#32)], mlr.ch := [(7, { MlrCh.init with stage := .readback })] }, 7, by decide +kernel⟩,
   ⟨{ State.reset with regs := [(0x1C30044, 2#32)], mlr.ch := [(16, { MlrCh.init with stage := .fetch })] }, 16, by decide +kernel⟩,
   ⟨State.reset, 0, by decide +kernel⟩,
   ⟨{ State.reset with regs := [(0x1810040, 0x400#32), (0x1C31040, 0x10000#32), (0x1C31044, 3#32)], mlr.ch := [(17, { MlrCh.init with stage := .readback, desc := [0, 0, 0, 0x80000000] })] }, 17, by decide +kernel⟩,
   ⟨{ State.reset with regs := [(0x1810040, 0x400#32), (0x1C35040, 0x10000#32), (0x1C35044, 3#32)], poison := [0x300000], mlr.ch := [(21, { MlrCh.init with stage := .readback, desc := [0, 0, 0x300000, 0x80000000] })] }, 21, by decide +kernel⟩,
   ⟨State.reset, 0, by decide +kernel⟩,
   ⟨{ State.reset with regs := [(0x1C3C044, 1#32)], mlr.ch := [(28, { MlrCh.init with stage := .done })] }, 28, by decide +kernel⟩,
   ⟨{ State.reset with regs := [(0x1C2E044, 1#32)], mlr.ch := [(14, { MlrCh.init with stage := .done, desc := List.replicate 10 0 ++ [2, 0, 1] })] }, 14, by decide +kernel⟩,
   ⟨State.reset, 0, by decide +kernel⟩⟩

/-- States and operands that meet the hypotheses of each clause of `Obligations.MillraceCommands`. -/
theorem witness_MillraceCommands :
    (∃ s : State, ∃ ch : Fin 32, s.cmdBusy (hMlr ch) = false ∧ (s.mState ch : Nat) = 0 ∧ s.disabled (hMlr ch) = false ∧ (descOk ((List.range 16).map (fun w => s.wordN (R.MLR_DESC ch w))) = true)) ∧
    (∃ s : State, ∃ ch : Fin 32, s.cmdBusy (hMlr ch) = false ∧ (s.mState ch : Nat) = 0 ∧ s.disabled (hMlr ch) = false ∧ (descOk ((List.range 16).map (fun w => s.wordN (R.MLR_DESC ch w))) = false)) ∧
    (∃ s : State, ∃ ch : Fin 32, s.cmdBusy (hMlr ch) = false ∧ (s.mState ch : Nat) ≠ 0) ∧
    (∃ s : State, ∃ ch : Fin 32, s.cmdBusy (hMlr ch) = false ∧ ((s.mState ch : Nat) ≠ 0 ∨ s.disabled (hMlr ch) = true)) ∧
    (∃ s : State, ∃ ch : Fin 32, s.cmdBusy (hMlr ch) = false ∧ ((s.mState ch : Nat) = 0 ∨ (s.mState ch : Nat) = 4 ∨ (s.mState ch : Nat) = 5)) ∧
    (∃ s : State, ∃ ch : Fin 32, s.cmdBusy (hMlr ch) = false ∧ ((s.mState ch : Nat) = 3 ∨ ((s.mState ch : Nat) = 1 ∧ (s.mch ch).stage = .fetch) ∨ ((s.mState ch : Nat) = 1 ∧
      (s.mch ch).out.all Burst.orphan = false))) ∧
    (∃ s : State, ∃ ch : Fin 32, s.cmdBusy (hMlr ch) = false ∧ ((s.mState ch : Nat) = 2 ∨ ((s.mState ch : Nat) = 1 ∧ (s.mch ch).stage ≠ .fetch)) ∧
      (s.mch ch).out.all Burst.orphan = true) ∧
    (∃ s : State, ∃ ch : Fin 32, s.cmdBusy (hMlr ch) = false ∧ ((s.mState ch : Nat) = 4 ∨ (s.mState ch : Nat) = 5) ∧ (s.mch ch).stage = .bursts ∧
      descOk (s.mch ch).desc = true) ∧
    (∃ s : State, ∃ ch : Fin 32, s.cmdBusy (hMlr ch) = false ∧ ((s.mState ch : Nat) = 4 ∨ (s.mState ch : Nat) = 5) ∧ (s.mch ch).stage = .fetch ∧
      dNext (s.mch ch).desc % 64 = 0) ∧
    (∃ s : State, ∃ ch : Fin 32, s.cmdBusy (hMlr ch) = false ∧ ((s.mState ch : Nat) = 4 ∨ (s.mState ch : Nat) = 5) ∧ (s.mch ch).stage = .readback) ∧
    (∃ s : State, ∃ ch : Fin 32, s.cmdBusy (hMlr ch) = false ∧ (s.mState ch : Nat) ≠ 4 ∧ (s.mState ch : Nat) ≠ 5) :=
  ⟨⟨State.reset, 0, by decide +kernel⟩,
   ⟨{ State.reset with regs := [(0x1C2C090, 0x1000000#32)] }, 12, by decide +kernel⟩,
   ⟨{ State.reset with regs := [(0x1C2C044, 1#32)] }, 12, by decide +kernel⟩,
   ⟨{ State.reset with boot.disabled := [hMlr 7] }, 7, by decide +kernel⟩,
   ⟨State.reset, 0, by decide +kernel⟩,
   ⟨{ State.reset with regs := [(0x1C2C044, 1#32)], mlr.ch := [(12, { MlrCh.init with out := [{ x := 0, y := 0, z := 0, src := 0, dst := 0, len := 0, since := 0, desc := [1], num := 0, orphan := false }] })] }, 12, by decide +kernel⟩,
   ⟨{ State.reset with regs := [(0x1C35044, 1#32)] }, 21, by decide +kernel⟩,
   ⟨{ State.reset with regs := [(0x1C2B044, 4#32)], mlr.ch := [(11, { MlrCh.init with stage := .bursts })] }, 11, by decide +kernel⟩,
   ⟨{ State.reset with regs := [(0x1C2C044, 4#32)], mlr.ch := [(12, { MlrCh.init with stage := .fetch })] }, 12, by decide +kernel⟩,
   ⟨{ State.reset with regs := [(0x1C3D044, 4#32)], mlr.ch := [(29, { MlrCh.init with stage := .readback })] }, 29, by decide +kernel⟩,
   ⟨State.reset, 0, by decide +kernel⟩⟩

/-- States and operands that meet the hypotheses of each clause of `Obligations.LinksAndPauses`. -/
theorem witness_LinksAndPauses :
    (∃ s : State, ∃ k : Fin 4, lnkOn s k = true ∧ lnkUp s k = false) ∧
    (∃ s : State, ∃ k : Fin 4, (lnkOn s k = false ∨ lnkUp s k = true)) ∧
    (∃ s : State, ∃ k : Fin 4, ∃ qs : List (BitVec 16), lnkUp s k = true ∧ bitAt (lnkCfg s k) 3 = true ∧ qs.length = 8) ∧
    (∃ s : State, ∃ k : Fin 4, lnkUp s k = true ∧ bitAt (lnkCfg s k) 2 = true) ∧
    (∃ s : State, ∃ k : Fin 4, ∃ target : BitVec 32, lnkUp s k = true ∧ bitAt (lnkCfg s k) 4 = true ∧ target.toNat = s.wordN (R.NET_IP4 k)) ∧
    (∃ s : State, ∃ k : Fin 4, ∃ target6 : BitVec 128, lnkUp s k = true ∧ bitAt (lnkCfg s k) 5 = true ∧ beBytes 16 target6.toNat = s.linkIp6 k) ∧
    (∃ s : State, ∃ k : Fin 4, ∃ target : BitVec 32, lnkUp s k = true ∧ (bitAt (lnkCfg s k) 4 = false ∨ target.toNat ≠ s.wordN (R.NET_IP4 k))) :=
  ⟨⟨{ State.reset with net.lnk := [(0, 1)] }, 0, by decide +kernel⟩,
   ⟨State.reset, 0, by decide +kernel⟩,
   ⟨{ State.reset with regs := [(0x1D10044, 1#32)], net.lnk := [(0, 8)] }, 0, List.replicate 8 0#16, by decide +kernel⟩,
   ⟨{ State.reset with regs := [(0x1D10044, 1#32)], net.lnk := [(0, 4)] }, 0, by decide +kernel⟩,
   ⟨{ State.reset with regs := [(0x1D10044, 1#32), (0x1D10050, 0xC0A80001#32)], net.lnk := [(0, 16)] }, 0, 0xC0A80001#32, by decide +kernel⟩,
   ⟨{ State.reset with regs := [(0x1D10044, 1#32)], net.lnk := [(0, 32)] }, 0, 0#128, by decide +kernel⟩,
   ⟨{ State.reset with regs := [(0x1D10044, 1#32)] }, 0, 0#32, by decide +kernel⟩⟩

/-- States and operands that meet the hypotheses of each clause of `Obligations.StreamsAndDatagrams`. -/
theorem witness_StreamsAndDatagrams :
    (∃ s : State, ∃ m : Fin 64, s.cmdBusy hStr = false ∧ cmdStream s = m ∧ ((s.strm m).run = true ∨ s.disabled hStr = true)) ∧
    (∃ s : State, ∃ m : Fin 64, s.cmdBusy hStr = false ∧ cmdStream s = m ∧ (s.strm m).run = false ∧ s.disabled hStr = false ∧
      (s.fld (R.NET_STR_CFG_KIND m) = 0 ∨ 10 < s.fld (R.NET_STR_CFG_KIND m) ∨ bits (s.wordN (R.NET_STR_PAY m)) 13 0 < 128 ∨ 9088 < bits (s.wordN (R.NET_STR_PAY m)) 13 0 ∨ bits (s.wordN (R.NET_STR_PAY m)) 13 0 % 64 ≠ 0)) ∧
    (∃ s : State, ∃ m : Fin 64, s.cmdBusy hStr = false ∧ cmdStream s = m ∧ (s.strm m).run = false ∧ s.disabled hStr = false ∧ 1 ≤ s.fld (R.NET_STR_CFG_KIND m) ∧ s.fld (R.NET_STR_CFG_KIND m) ≤ 10 ∧
      128 ≤ bits (s.wordN (R.NET_STR_PAY m)) 13 0 ∧ bits (s.wordN (R.NET_STR_PAY m)) 13 0 ≤ 9088 ∧ bits (s.wordN (R.NET_STR_PAY m)) 13 0 % 64 = 0) ∧
    (∃ s : State, ∃ m : Fin 64, s.cmdBusy hStr = false ∧ cmdStream s = m ∧ ((s.cap (s.fld R.NET_CMD_ARG_PORT)).record (s.fld R.NET_CMD_ARG_REC)).st ≠ .done) ∧
    (∃ s : State, ∃ m : Fin 64, s.cmdBusy hStr = false ∧ cmdStream s = m ∧ ((s.cap (s.fld R.NET_CMD_ARG_PORT)).record (s.fld R.NET_CMD_ARG_REC)).st = .done ∧
      64 ≤ (s.strm m).recq.length) ∧
    (∃ s : State, ∃ m : Fin 64, s.cmdBusy hStr = false ∧ cmdStream s = m ∧ ((s.cap (s.fld R.NET_CMD_ARG_PORT)).record (s.fld R.NET_CMD_ARG_REC)).st = .done ∧
      (s.strm m).recq.length < 64) ∧
    (∃ s : State, ∃ m : Fin 64, ∃ d : NProd, ∃ a : Nat, ∃ k : Fin 4, ∃ c : Fin 8, (s.strm m).run = true ∧ (s.strm m).kind ≤ 7 ∧ (s.strm m).kind ≠ 0 ∧
      (s.strm m).roce = false ∧ (s.strm m).link = k ∧ (s.strm m).pcp = c ∧ (s.strm m).cur = some d ∧ d.pieces = [.dev a d.len] ∧ (s.strm m).off < d.len ∧ 64 < (s.strm m).pay ∧
      s.inReservoir (a + (s.strm m).off) = true ∧ s.poisoned (a + (s.strm m).off) (min ((s.strm m).pay - 64) (d.len - (s.strm m).off) : Nat) = false ∧ d.after = .none ∧
      (∀ e ∈ s.bwQ k, e.prio ≠ c) ∧ lnkUp s k = true ∧ paused s k c = false ∧ dieFill s k c ≤ 768 * 1024) ∧
    (∃ s : State, ∃ m : Fin 64, ∃ d : NProd, ∃ a : Nat, ∃ k : Fin 4, ∃ c : Fin 8, (s.strm m).run = true ∧ (s.strm m).kind ≤ 7 ∧ (s.strm m).kind ≠ 0 ∧
      (s.strm m).roce = false ∧ (s.strm m).link = k ∧ (s.strm m).pcp = c ∧ (s.strm m).cur = some d ∧ d.pieces = [.dev a d.len] ∧ (s.strm m).off < d.len ∧ 64 < (s.strm m).pay ∧
      s.inReservoir (a + (s.strm m).off) = true ∧ s.poisoned (a + (s.strm m).off) (min ((s.strm m).pay - 64) (d.len - (s.strm m).off) : Nat) = false ∧ d.after = .none ∧
      paused s k c = true ∧
      (bwFill s k + (cdiv ((udpFrame s k c (s.strm m).dest (bits (dstW (s.strm m).dest 6) 15 0) (List.replicate (64 + (min ((s.strm m).pay - 64) (d.len - (s.strm m).off) : Nat)) 0)).length) 64) * 64 ≤ s.wordN R.NET_BW_REGION_SIZE * 2 ^ 20 / linksUsed s)) ∧
    (∃ s : State, ∃ m : Fin 64, ∃ d : NProd, ∃ a : Nat, ∃ k : Fin 4, ∃ c : Fin 8, (s.strm m).run = true ∧ (s.strm m).kind ≤ 7 ∧ (s.strm m).kind ≠ 0 ∧
      (s.strm m).roce = false ∧ (s.strm m).link = k ∧ (s.strm m).pcp = c ∧ (s.strm m).cur = some d ∧ d.pieces = [.dev a d.len] ∧ (s.strm m).off < d.len ∧ 64 < (s.strm m).pay ∧
      s.inReservoir (a + (s.strm m).off) = true ∧ s.poisoned (a + (s.strm m).off) (min ((s.strm m).pay - 64) (d.len - (s.strm m).off) : Nat) = false ∧ d.after = .none ∧
      paused s k c = true ∧
      (s.wordN R.NET_BW_REGION_SIZE * 2 ^ 20 / linksUsed s < bwFill s k + (cdiv ((udpFrame s k c (s.strm m).dest (bits (dstW (s.strm m).dest 6) 15 0) (List.replicate (64 + (min ((s.strm m).pay - 64) (d.len - (s.strm m).off) : Nat)) 0)).length) 64) * 64)) ∧
    (∃ s : State, ∃ m : Fin 64, ∃ k : Fin 4, ∃ c : Fin 8, (s.strm m).run = true ∧ (s.strm m).kind = 1 ∧ (s.strm m).cur = none ∧ ((s.strm m).index : Nat) < 63 ∧
      s.full ((s.strm m).index : Nat) = true ∧ s.full (((s.strm m).index : Nat) + 1) = false ∧ (s.strm m).roce = false ∧ (s.strm m).link = k ∧ (s.strm m).pcp = c ∧
      segLen (devRead s (eddyBase + ((s.strm m).index : Nat) * 0x8000) 64) ≤ (s.strm m).pay - 64 ∧ 64 < (s.strm m).pay ∧ s.bwQ k = [] ∧ lnkUp s k = true ∧
      paused s k c = false ∧ dieFill s k c ≤ 768 * 1024) ∧
    (∃ s : State, ∃ m : Fin 64, (s.strm m).run = true ∧ (s.strm m).kind = 10 ∧ (s.strm m).cur = none ∧
      bitAt (fieldAt (strRead s ((s.strm m).aux + (s.strm m).pos % (s.strm m).nq * 64 : Nat) 64) 0 8) 63 = false) ∧
    (∃ s : State, ∃ m : Fin 64, ∃ k : Fin 4, ∃ c : Fin 8, (s.strm m).run = true ∧ (s.strm m).kind = 10 ∧ (s.strm m).cur = none ∧
      bitAt (fieldAt (strRead s ((s.strm m).aux + (s.strm m).pos % (s.strm m).nq * 64 : Nat) 64) 0 8) 63 = true ∧
      0 < (fieldAt (strRead s ((s.strm m).aux + (s.strm m).pos % (s.strm m).nq * 64 : Nat) 64) 8 4 : Nat) ∧
      (fieldAt (strRead s ((s.strm m).aux + (s.strm m).pos % (s.strm m).nq * 64 : Nat) 64) 8 4 : Nat) ≤ (s.strm m).pay - 64 ∧ (s.strm m).roce = false ∧ (s.strm m).link = k ∧
      (s.strm m).pcp = c ∧ s.inReservoir ((s.strm m).aux + (s.strm m).pos % (s.strm m).nq * 64 : Nat) = true ∧
      s.inReservoir (fieldAt (strRead s ((s.strm m).aux + (s.strm m).pos % (s.strm m).nq * 64 : Nat) 64) 0 5) = true ∧ s.rsv.lost = [] ∧ memWf s.mem = true ∧
      s.poisoned (fieldAt (strRead s ((s.strm m).aux + (s.strm m).pos % (s.strm m).nq * 64 : Nat) 64) 0 5) (fieldAt (strRead s ((s.strm m).aux + (s.strm m).pos % (s.strm m).nq * 64 : Nat) 64) 8 4 : Nat) = false ∧
      s.wordPoisoned ((s.strm m).aux + (s.strm m).pos % (s.strm m).nq * 64 : Nat) = false ∧ ((s.strm m).aux + (s.strm m).pos % (s.strm m).nq * 64 : Nat) % 64 = 0 ∧
      s.bwQ k = [] ∧ lnkUp s k = true ∧ paused s k c = false ∧ dieFill s k c ≤ 768 * 1024) ∧
    (∃ s : State, ∃ k : Fin 4, lnkUp s k = false) ∧
    (∃ s : State, ∃ k : Fin 4, ∃ c : Fin 8, ∃ g : Dg, ∃ rest : List Dg, ∃ f : List Byte, lnkUp s k = true ∧ paused s k c = false ∧ s.reQ k c = [] ∧ s.dieQ k c = g :: rest ∧
      g.qp = none ∧ g.frames = [(0, f)] ∧ s.bwQ k = [] ∧ (∀ i : Fin 8, c < i → paused s k i = true ∨ (s.reQ k i = [] ∧ s.dieQ k i = [])) ∧ g.stream < 64) :=
  ⟨⟨{ State.reset with regs := [(0x1D20040, 5#32)], net.str := [(5, { Strm.init with run := true })] }, 5, by decide +kernel⟩,
   ⟨State.reset, 0, by decide +kernel⟩,
   ⟨{ State.reset with regs := [(0x1D20040, 0x3F#32), (0x1D21FC0, 0x10000#32), (0x1D21FCC, 0x80#32)] }, 63, by decide +kernel⟩,
   ⟨{ State.reset with regs := [(0x1D20040, 0x3F#32)] }, 63, by decide +kernel⟩,
   ⟨{ State.reset with regs := [(0x1D20040, 0x3403F#32)], weir.cap := [(1, { Cap.init with recs := [(3, { Rec.init with st := .done })], pos := [] })], net.str := [(63, { Strm.init with recq := List.replicate 64 (0, 1) })] }, 63, by decide +kernel⟩,
   ⟨{ State.reset with regs := [(0x1D20040, 0x34005#32)], weir.cap := [(1, { Cap.init with recs := [(3, { Rec.init with st := .done })], pos := [] })] }, 5, by decide +kernel⟩,
   ⟨{ State.reset with regs := [(0x1810040, 0x400#32), (0x1D11044, 1#32)], net.str := [(5, { Strm.init with run := true, cfg := 0x11500, pay := 1024, cur := some { id := 77, psw := 3, dtFirst := 9, dtLast := 10, len := 64, pieces := [.dev 0x300000 64], after := .none } })] }, 5, { id := 77, psw := 3, dtFirst := 9, dtLast := 10, len := 64, pieces := [.dev 0x300000 64], after := .none }, 0x300000, 1, 5, by decide +kernel⟩,
   ⟨{ State.reset with regs := [(0x1810040, 0x400#32), (0x1D2004C, 1#32)], net.str := [(63, { Strm.init with run := true, cfg := 0x20100, pay := 128, cur := some { id := 77, psw := 3, dtFirst := 9, dtLast := 10, len := 1000, pieces := [.dev 0x300000 1000], after := .none } })] }, 63, { id := 77, psw := 3, dtFirst := 9, dtLast := 10, len := 1000, pieces := [.dev 0x300000 1000], after := .none }, 0x300000, 1, 0, by decide +kernel⟩,
   ⟨{ State.reset with regs := [(0x1810040, 0x400#32)], net.str := [(5, { Strm.init with run := true, cfg := 0x21400, pay := 128, cur := some { id := 77, psw := 3, dtFirst := 9, dtLast := 10, len := 64, pieces := [.dev 0x300000 64], after := .none } })] }, 5, { id := 77, psw := 3, dtFirst := 9, dtLast := 10, len := 64, pieces := [.dev 0x300000 64], after := .none }, 0x300000, 0, 5, by decide +kernel⟩,
   ⟨{ State.reset with regs := [(0x1830040, 1#32), (0x1D13044, 1#32)], net.str := [(0, { Strm.init with run := true, cfg := 0x11F00, pay := 128 })] }, 0, 3, 7, by decide +kernel⟩,
   ⟨{ State.reset with net.str := [(63, { Strm.init with run := true, cfg := 0xA0000 })] }, 63, by decide +kernel⟩,
   ⟨{ State.reset with regs := [(0x1810040, 0x400#32), (0x1D12044, 1#32)], mem := [(0x400007, 0x80#8), (0x400008, 1#8)], net.str := [(63, { Strm.init with run := true, cfg := 0xA0A00, pay := 128, aux := 0x400000 })] }, 63, 2, 2, by decide +kernel⟩,
   ⟨State.reset, 0, by decide +kernel⟩,
   ⟨{ State.reset with regs := [(0x1D11044, 1#32)], net.die := [(9, [{ stream := 3, qp := none, link := 1, prio := 1, dest := [], qpw := [], body := [1#8, 2#8], last := true, pay := 2, seq := 0, frames := [(0, [1#8, 2#8, 3#8])] }])] }, 1, 1, { stream := 3, qp := none, link := 1, prio := 1, dest := [], qpw := [], body := [1#8, 2#8], last := true, pay := 2, seq := 0, frames := [(0, [1#8, 2#8, 3#8])] }, [], [1#8, 2#8, 3#8], by decide +kernel⟩⟩

/-- States and operands that meet the hypotheses of each clause of `Obligations.QueuePairsAndPtp`. -/
theorem witness_QueuePairsAndPtp :
    (∃ s : State, ∃ q : Fin 64, s.cmdBusy hStr = false ∧ s.fld R.NET_CMD_ARG_QP = q ∧ qpLegal s q = false) ∧
    (∃ s : State, ∃ q : Fin 64, s.cmdBusy hStr = false ∧ s.fld R.NET_CMD_ARG_QP = q ∧ qpLegal s q = true) ∧
    (∃ s : State, ∃ q : Fin 64, (s.fld (R.NET_QP_STATUS_STATE q) ≠ 1 ∨ (s.qpSt q).store = [])) ∧
    (∃ s : State, ∃ q : Fin 64, ∃ psn : BitVec 24, ∃ syn : BitVec 8, ∃ msg : QMsg, ∃ k : Fin 4, ∃ c : Fin 8, ∃ fr : List (Nat × List Byte), s.fld (R.NET_QP_STATUS_STATE q) = 1 ∧
      (s.qpSt q).store = [msg] ∧ msg.frames = fr ∧ fr.map Prod.fst = [(psn.toNat : Nat)] ∧ (s.qpSt q).una = (psn.toNat : Nat) ∧
      (s.qpSt q).psn = ((psn.toNat : Nat) + 1) % 2 ^ 24 ∧ s.net.re = [] ∧ s.net.die = [] ∧ msg.link = k ∧ msg.prio = c ∧ syn.toNat < 0x20) ∧
    (∃ s : State, ∃ q : Fin 64, ∃ psn : BitVec 24, ∃ syn : BitVec 8, ∃ msg : QMsg, ∃ k : Fin 4, ∃ c : Fin 8, ∃ fr : List (Nat × List Byte), s.fld (R.NET_QP_STATUS_STATE q) = 1 ∧
      (s.qpSt q).store = [msg] ∧ msg.frames = fr ∧ fr.map Prod.fst = [(psn.toNat : Nat)] ∧ (s.qpSt q).una = (psn.toNat : Nat) ∧
      (s.qpSt q).psn = ((psn.toNat : Nat) + 1) % 2 ^ 24 ∧ s.net.re = [] ∧ s.net.die = [] ∧ msg.link = k ∧ msg.prio = c ∧ 0x20 ≤ syn.toNat ∧ syn.toNat < 0x40 ∧
      (bits msg.cfg 10 8 = 7 ∨ (s.qpSt q).rnr < bits msg.cfg 10 8)) ∧
    (∃ s : State, ∃ q : Fin 64, ∃ psn : BitVec 24, ∃ syn : BitVec 8, ∃ msg : QMsg, ∃ k : Fin 4, ∃ c : Fin 8, ∃ fr : List (Nat × List Byte), s.fld (R.NET_QP_STATUS_STATE q) = 1 ∧
      (s.qpSt q).store = [msg] ∧ msg.frames = fr ∧ fr.map Prod.fst = [(psn.toNat : Nat)] ∧ (s.qpSt q).una = (psn.toNat : Nat) ∧
      (s.qpSt q).psn = ((psn.toNat : Nat) + 1) % 2 ^ 24 ∧ s.net.re = [] ∧ s.net.die = [] ∧ msg.link = k ∧ msg.prio = c ∧ 0x20 ≤ syn.toNat ∧ syn.toNat < 0x40 ∧
      bits msg.cfg 10 8 ≠ 7 ∧ bits msg.cfg 10 8 ≤ (s.qpSt q).rnr) ∧
    (∃ s : State, ∃ q : Fin 64, ∃ psn : BitVec 24, ∃ syn : BitVec 8, ∃ msg : QMsg, ∃ k : Fin 4, ∃ c : Fin 8, ∃ fr : List (Nat × List Byte), s.fld (R.NET_QP_STATUS_STATE q) = 1 ∧
      (s.qpSt q).store = [msg] ∧ msg.frames = fr ∧ fr.map Prod.fst = [(psn.toNat : Nat)] ∧ (s.qpSt q).una = (psn.toNat : Nat) ∧
      (s.qpSt q).psn = ((psn.toNat : Nat) + 1) % 2 ^ 24 ∧ s.net.re = [] ∧ s.net.die = [] ∧ msg.link = k ∧ msg.prio = c ∧ syn.toNat = 0x60 ∧ (s.qpSt q).retry < bits msg.cfg 6 4) ∧
    (∃ s : State, ∃ q : Fin 64, ∃ psn : BitVec 24, ∃ syn : BitVec 8, ∃ msg : QMsg, ∃ k : Fin 4, ∃ c : Fin 8, ∃ fr : List (Nat × List Byte), s.fld (R.NET_QP_STATUS_STATE q) = 1 ∧
      (s.qpSt q).store = [msg] ∧ msg.frames = fr ∧ fr.map Prod.fst = [(psn.toNat : Nat)] ∧ (s.qpSt q).una = (psn.toNat : Nat) ∧
      (s.qpSt q).psn = ((psn.toNat : Nat) + 1) % 2 ^ 24 ∧ s.net.re = [] ∧ s.net.die = [] ∧ msg.link = k ∧ msg.prio = c ∧ 0x61 ≤ syn.toNat ∧ syn.toNat ≤ 0x63) ∧
    (∃ s : State, ∃ q : Fin 64, ∃ psn : BitVec 24, ∃ msg : QMsg, ∃ k : Fin 4, ∃ c : Fin 8, ∃ fr : List (Nat × List Byte), s.fld (R.NET_QP_STATUS_STATE q) = 1 ∧
      (s.qpSt q).store = [msg] ∧ msg.frames = fr ∧ fr.map Prod.fst = [(psn.toNat : Nat)] ∧ (s.qpSt q).una = (psn.toNat : Nat) ∧
      (s.qpSt q).psn = ((psn.toNat : Nat) + 1) % 2 ^ 24 ∧ s.net.re = [] ∧ s.net.die = [] ∧ msg.link = k ∧ msg.prio = c ∧ paused s k c = false ∧ (s.qpSt q).rnrWait = false ∧
      (s.qpSt q).retry < bits msg.cfg 6 4) ∧
    (∃ s : State, ∃ q : Fin 64, ∃ psn : BitVec 24, ∃ msg : QMsg, ∃ k : Fin 4, ∃ c : Fin 8, ∃ fr : List (Nat × List Byte), s.fld (R.NET_QP_STATUS_STATE q) = 1 ∧
      (s.qpSt q).store = [msg] ∧ msg.frames = fr ∧ fr.map Prod.fst = [(psn.toNat : Nat)] ∧ (s.qpSt q).una = (psn.toNat : Nat) ∧
      (s.qpSt q).psn = ((psn.toNat : Nat) + 1) % 2 ^ 24 ∧ s.net.re = [] ∧ s.net.die = [] ∧ msg.link = k ∧ msg.prio = c ∧ paused s k c = false ∧ (s.qpSt q).rnrWait = false ∧
      bits msg.cfg 6 4 ≤ (s.qpSt q).retry) ∧
    (∃ s : State, ∃ q : Fin 64, ∃ psn : BitVec 24, ∃ msg : QMsg, ∃ k : Fin 4, ∃ c : Fin 8, ∃ fr : List (Nat × List Byte), s.fld (R.NET_QP_STATUS_STATE q) = 1 ∧
      (s.qpSt q).store = [msg] ∧ msg.frames = fr ∧ fr.map Prod.fst = [(psn.toNat : Nat)] ∧ (s.qpSt q).una = (psn.toNat : Nat) ∧
      (s.qpSt q).psn = ((psn.toNat : Nat) + 1) % 2 ^ 24 ∧ s.net.re = [] ∧ s.net.die = [] ∧ msg.link = k ∧ msg.prio = c ∧ paused s k c = false ∧ (s.qpSt q).rnrWait = true) ∧
    (∃ s : State, ∃ q : Fin 64, ∃ psn : BitVec 24, ∃ msg : QMsg, ∃ k : Fin 4, ∃ c : Fin 8, ∃ fr : List (Nat × List Byte), s.fld (R.NET_QP_STATUS_STATE q) = 1 ∧
      (s.qpSt q).store = [msg] ∧ msg.frames = fr ∧ fr.map Prod.fst = [(psn.toNat : Nat)] ∧ (s.qpSt q).una = (psn.toNat : Nat) ∧
      (s.qpSt q).psn = ((psn.toNat : Nat) + 1) % 2 ^ 24 ∧ s.net.re = [] ∧ s.net.die = [] ∧ msg.link = k ∧ msg.prio = c ∧ (paused s k c = true ∨ (s.qpSt q).rnrWait = true)) ∧
    (∃ s : State, ∃ q : Fin 64, ∃ psn : BitVec 24, ∃ msg : QMsg, ∃ k : Fin 4, ∃ c : Fin 8, ∃ fr : List (Nat × List Byte), s.fld (R.NET_QP_STATUS_STATE q) = 1 ∧
      (s.qpSt q).store = [msg] ∧ msg.frames = fr ∧ fr.map Prod.fst = [(psn.toNat : Nat)] ∧ (s.qpSt q).una = (psn.toNat : Nat) ∧
      (s.qpSt q).psn = ((psn.toNat : Nat) + 1) % 2 ^ 24 ∧ s.net.re = [] ∧ s.net.die = [] ∧ msg.link = k ∧ msg.prio = c ∧ (paused s k c = true ∨ (s.qpSt q).rnrWait = false)) ∧
    (∃ s : State, ∃ k : Fin 4, lnkUp s k = true ∧ (s.flag R.PTP_CFG_EN = false ∨ s.fld R.PTP_CFG_LINK ≠ k)) ∧
    (∃ s : State, ∃ k : Fin 4, ∃ id : Nat, lnkUp s k = true ∧ s.flag R.PTP_CFG_EN = true ∧ s.fld R.PTP_CFG_LINK = k ∧ s.ptp.sel ≠ some id) ∧
    (∃ s : State, ∃ k : Fin 4, ∃ id : Nat, ∃ seq : Nat, ∃ c1 : Int, ∃ t3 : Int, lnkUp s k = true ∧ s.flag R.PTP_CFG_EN = true ∧ s.fld R.PTP_CFG_LINK = k ∧
      s.ptp.sel = some id ∧ s.ptp.wait = some (seq, t3, c1)) ∧
    (∃ s : State, ∃ k : Fin 4, ∃ id : Nat, ∃ seq : Nat, ∃ origin : Nat, ∃ corr : Int, ∃ t1 : Int, ∃ c1 : Int, ∃ t3 : Int, ∃ off : Int, lnkUp s k = true ∧
      s.flag R.PTP_CFG_EN = true ∧ s.fld R.PTP_CFG_LINK = k ∧ s.ptp.sel = some id ∧ s.ptp.sync = some (t1, t3, c1) ∧ s.ptp.dreq = some (seq, off) ∧
      (∀ b ∈ s.ptp.best, ((t3 - t1 - c1) + ((origin : Int) - off - corr) : Int) < b.1)) ∧
    (∃ s : State, ∃ k : Fin 4, lnkUp s k = true ∧ s.flag R.PTP_CFG_EN = true ∧ s.fld R.PTP_CFG_LINK = k ∧ s.ptp.masters = [] ∧ s.ptp.sel = none ∧
      s.flag R.PTP_CFG_GM_FIX = false) ∧
    (∃ s : State, (s.flag R.PTP_CFG_EN = false ∨ s.ptp.sel = none)) ∧
    (∃ s : State, ∃ id : Nat, ∃ mm : PtpMaster, s.ptp.sel = some id ∧ s.ptp.masters = [mm] ∧ mm.id = id) :=
  ⟨⟨{ State.reset with regs := [(0x1D20040, 0x700#32)] }, 7, by decide +kernel⟩,
   ⟨{ State.reset with regs := [(0x1D23014, 0x800#32)] }, 0, by decide +kernel⟩,
   ⟨State.reset, 0, by decide +kernel⟩,
   ⟨{ State.reset with regs := [(0x1D23FDC, 1#32)], net.qp := [(63, { QpSt.init with una := 0xFFFFFF, store := [{ link := 0, prio := 2, cfg := 0, frames := [(0xFFFFFF, [1#8, 2#8, 3#8])] }] })] }, 63, 0xFFFFFF#24, 0#8, { link := 0, prio := 2, cfg := 0, frames := [(0xFFFFFF, [1#8, 2#8, 3#8])] }, 0, 2, [(0xFFFFFF, [1#8, 2#8, 3#8])], by decide +kernel⟩,
   ⟨{ State.reset with regs := [(0x1D2301C, 1#32)], net.qp := [(0, { QpSt.init with una := 0xFFFFFF, store := [{ link := 1, prio := 1, cfg := 1809, frames := [(0xFFFFFF, [1#8, 2#8, 3#8])] }] })] }, 0, 0xFFFFFF#24, 0x20#8, { link := 1, prio := 1, cfg := 1809, frames := [(0xFFFFFF, [1#8, 2#8, 3#8])] }, 1, 1, [(0xFFFFFF, [1#8, 2#8, 3#8])], by decide +kernel⟩,
   ⟨{ State.reset with regs := [(0x1D2301C, 1#32)], net.qp := [(0, { QpSt.init with una := 0xFFFFFF, store := [{ link := 1, prio := 5, cfg := 0, frames := [(0xFFFFFF, [1#8, 2#8, 3#8])] }] })] }, 0, 0xFFFFFF#24, 0x20#8, { link := 1, prio := 5, cfg := 0, frames := [(0xFFFFFF, [1#8, 2#8, 3#8])] }, 1, 5, [(0xFFFFFF, [1#8, 2#8, 3#8])], by decide +kernel⟩,
   ⟨{ State.reset with regs := [(0x1D2301C, 1#32)], net.qp := [(0, { QpSt.init with una := 0xFFFFFF, store := [{ link := 3, prio := 6, cfg := 1809, frames := [(0xFFFFFF, [1#8, 2#8, 3#8])] }] })] }, 0, 0xFFFFFF#24, 0x60#8, { link := 3, prio := 6, cfg := 1809, frames := [(0xFFFFFF, [1#8, 2#8, 3#8])] }, 3, 6, [(0xFFFFFF, [1#8, 2#8, 3#8])], by decide +kernel⟩,
   ⟨{ State.reset with regs := [(0x1D2301C, 1#32)], net.qp := [(0, { QpSt.init with psn := 6, una := 5, store := [{ link := 1, prio := 5, cfg := 375, frames := [(5, [1#8, 2#8, 3#8])] }] })] }, 0, 5#24, 0x61#8, { link := 1, prio := 5, cfg := 375, frames := [(5, [1#8, 2#8, 3#8])] }, 1, 5, [(5, [1#8, 2#8, 3#8])], by decide +kernel⟩,
   ⟨{ State.reset with regs := [(0x1D11044, 1#32), (0x1D2301C, 1#32)], net.qp := [(0, { QpSt.init with una := 0xFFFFFF, store := [{ link := 1, prio := 1, cfg := 375, frames := [(0xFFFFFF, [1#8, 2#8, 3#8])] }] })] }, 0, 0xFFFFFF#24, { link := 1, prio := 1, cfg := 375, frames := [(0xFFFFFF, [1#8, 2#8, 3#8])] }, 1, 1, [(0xFFFFFF, [1#8, 2#8, 3#8])], by decide +kernel⟩,
   ⟨{ State.reset with regs := [(0x1D11044, 1#32), (0x1D2301C, 1#32)], net.qp := [(0, { QpSt.init with una := 0xFFFFFF, store := [{ link := 1, prio := 5, cfg := 0, frames := [(0xFFFFFF, [1#8, 2#8, 3#8])] }] })] }, 0, 0xFFFFFF#24, { link := 1, prio := 5, cfg := 0, frames := [(0xFFFFFF, [1#8, 2#8, 3#8])] }, 1, 5, [(0xFFFFFF, [1#8, 2#8, 3#8])], by decide +kernel⟩,
   ⟨{ State.reset with regs := [(0x1D10044, 1#32), (0x1D23FDC, 1#32)], net.qp := [(63, { QpSt.init with una := 0xFFFFFF, store := [{ link := 0, prio := 2, cfg := 0, frames := [(0xFFFFFF, [1#8, 2#8, 3#8])] }], rnrWait := true })] }, 63, 0xFFFFFF#24, { link := 0, prio := 2, cfg := 0, frames := [(0xFFFFFF, [1#8, 2#8, 3#8])] }, 0, 2, [(0xFFFFFF, [1#8, 2#8, 3#8])], by decide +kernel⟩,
   ⟨{ State.reset with regs := [(0x1D231DC, 1#32)], net.qp := [(7, { QpSt.init with una := 0xFFFFFF, store := [{ link := 0, prio := 6, cfg := 0, frames := [(0xFFFFFF, [1#8, 2#8, 3#8])] }] })] }, 7, 0xFFFFFF#24, { link := 0, prio := 6, cfg := 0, frames := [(0xFFFFFF, [1#8, 2#8, 3#8])] }, 0, 6, [(0xFFFFFF, [1#8, 2#8, 3#8])], by decide +kernel⟩,
   ⟨{ State.reset with regs := [(0x1D231DC, 1#32)], net.qp := [(7, { QpSt.init with una := 0xFFFFFF, store := [{ link := 0, prio := 6, cfg := 0, frames := [(0xFFFFFF, [1#8, 2#8, 3#8])] }] })] }, 7, 0xFFFFFF#24, { link := 0, prio := 6, cfg := 0, frames := [(0xFFFFFF, [1#8, 2#8, 3#8])] }, 0, 6, [(0xFFFFFF, [1#8, 2#8, 3#8])], by decide +kernel⟩,
   ⟨{ State.reset with regs := [(0x1D12044, 1#32)] }, 2, by decide +kernel⟩,
   ⟨{ State.reset with regs := [(0x1D10044, 1#32), (0x1D40040, 1#32)] }, 0, 0, by decide +kernel⟩,
   ⟨{ State.reset with regs := [(0x1D11044, 1#32), (0x1D40040, 3#32)], ptp.sel := some 4, ptp.wait := some (9, 100, 5) }, 1, 4, 9, 5, 100, by decide +kernel⟩,
   ⟨{ State.reset with regs := [(0x1D12044, 1#32), (0x1D40040, 5#32)], ptp.sel := some 4, ptp.sync := some (10, 200, 3), ptp.dreq := some (9, 300) }, 2, 4, 9, 0, 0, 10, 3, 200, 300, by decide +kernel⟩,
   ⟨{ State.reset with regs := [(0x1D11044, 1#32), (0x1D40040, 3#32)] }, 1, by decide +kernel⟩,
   ⟨State.reset, by decide +kernel⟩,
   ⟨{ State.reset with ptp.masters := [{ id := 4, rank := [1], steps := 2, utc := 37, utcValid := true }], ptp.sel := some 4 }, 4, { id := 4, rank := [1], steps := 2, utc := 37, utcValid := true }, by decide +kernel⟩⟩

/-- States and operands that meet the hypotheses of each clause of `Obligations.HostPort`. -/
theorem witness_HostPort :
    (∃ s : State, s.net.hostOpen = false) ∧
    (∃ s : State, ∃ reg : BitVec 12, s.net.hostOpen = true ∧ s.flag R.HOST_STATUS_LINK_UP = true ∧ reg = 0 ∧ s.net.cfgsp = []) ∧
    (∃ s : State, ∃ reg : BitVec 12, ∃ be : BitVec 4, s.net.hostOpen = true ∧ s.flag R.HOST_STATUS_LINK_UP = true ∧ reg.toNat / 4 = 0x14 ∧ be = 15 ∧ s.rep.pba = []) ∧
    (∃ s : State, ∃ off : BitVec 32, ∃ len : Nat, s.net.hostOpen = true ∧ s.flag R.HOST_STATUS_LINK_UP = true ∧ 0 < len ∧
      s.inBands (s.fld R.HOST_WIN_LO_BASE * 2 ^ 20 + 2 ^ 32 * s.fld R.HOST_WIN_HI_BASE + off.toNat : Nat) len = false) ∧
    (∃ s : State, ∃ off : BitVec 32, ∃ bs : List Byte, s.net.hostOpen = true ∧ s.flag R.HOST_STATUS_LINK_UP = true ∧ bs ≠ [] ∧
      s.inBands (s.fld R.HOST_WIN_LO_BASE * 2 ^ 20 + 2 ^ 32 * s.fld R.HOST_WIN_HI_BASE + off.toNat : Nat) bs.length = false) ∧
    (∃ s : State, ∃ off : BitVec 32, ∃ len : Nat, s.net.hostOpen = true ∧ s.flag R.HOST_STATUS_LINK_UP = true ∧ 0 < len ∧
      s.inBands (s.fld R.HOST_WIN_LO_BASE * 2 ^ 20 + 2 ^ 32 * s.fld R.HOST_WIN_HI_BASE + off.toNat : Nat) len = true ∧
      s.inWindow (s.fld R.HOST_WIN_LO_BASE * 2 ^ 20 + 2 ^ 32 * s.fld R.HOST_WIN_HI_BASE + off.toNat : Nat) = false) ∧
    (∃ s : State, ∃ off : BitVec 32, ∃ span : Bar2Span, s.net.hostOpen = true ∧ s.flag R.HOST_STATUS_LINK_UP = true ∧ 0 < span.len ∧
      s.inBands (s.fld R.HOST_WIN_LO_BASE * 2 ^ 20 + 2 ^ 32 * s.fld R.HOST_WIN_HI_BASE + off.toNat : Nat) span.len = true ∧ s.inWindow (s.fld R.HOST_WIN_LO_BASE * 2 ^ 20 + 2 ^ 32 * s.fld R.HOST_WIN_HI_BASE + off.toNat : Nat) = false ∧ inPool (s.fld R.HOST_WIN_LO_BASE * 2 ^ 20 + 2 ^ 32 * s.fld R.HOST_WIN_HI_BASE + off.toNat : Nat) = true ∧ s.inReservoir (s.fld R.HOST_WIN_LO_BASE * 2 ^ 20 + 2 ^ 32 * s.fld R.HOST_WIN_HI_BASE + off.toNat : Nat) = false ∧ s.inReservoir ((s.fld R.HOST_WIN_LO_BASE * 2 ^ 20 + 2 ^ 32 * s.fld R.HOST_WIN_HI_BASE + off.toNat : Nat) / 8 * 8) = false ∧ s.wordPoisoned ((s.fld R.HOST_WIN_LO_BASE * 2 ^ 20 + 2 ^ 32 * s.fld R.HOST_WIN_HI_BASE + off.toNat : Nat) / 8 * 8) = false ∧ span.ecc = [.corrected]) ∧
    (∃ s : State, ∃ off : BitVec 32, ∃ span : Bar2Span, s.net.hostOpen = true ∧ s.flag R.HOST_STATUS_LINK_UP = true ∧ 0 < span.len ∧
      s.inBands (s.fld R.HOST_WIN_LO_BASE * 2 ^ 20 + 2 ^ 32 * s.fld R.HOST_WIN_HI_BASE + off.toNat : Nat) span.len = true ∧ s.inWindow (s.fld R.HOST_WIN_LO_BASE * 2 ^ 20 + 2 ^ 32 * s.fld R.HOST_WIN_HI_BASE + off.toNat : Nat) = false ∧ inPool (s.fld R.HOST_WIN_LO_BASE * 2 ^ 20 + 2 ^ 32 * s.fld R.HOST_WIN_HI_BASE + off.toNat : Nat) = true ∧ s.inReservoir (s.fld R.HOST_WIN_LO_BASE * 2 ^ 20 + 2 ^ 32 * s.fld R.HOST_WIN_HI_BASE + off.toNat : Nat) = false ∧ s.inReservoir ((s.fld R.HOST_WIN_LO_BASE * 2 ^ 20 + 2 ^ 32 * s.fld R.HOST_WIN_HI_BASE + off.toNat : Nat) / 8 * 8) = false ∧ s.wordPoisoned ((s.fld R.HOST_WIN_LO_BASE * 2 ^ 20 + 2 ^ 32 * s.fld R.HOST_WIN_HI_BASE + off.toNat : Nat) / 8 * 8) = false ∧ span.ecc = [.uncorrectable]) ∧
    (∃ s : State, ∃ off : BitVec 32, ∃ bs : List Byte, s.net.hostOpen = true ∧ s.flag R.HOST_STATUS_LINK_UP = true ∧ bs ≠ [] ∧
      s.inBands (s.fld R.HOST_WIN_LO_BASE * 2 ^ 20 + 2 ^ 32 * s.fld R.HOST_WIN_HI_BASE + off.toNat : Nat) (bs.length : Nat) = true ∧
      s.inWindow (s.fld R.HOST_WIN_LO_BASE * 2 ^ 20 + 2 ^ 32 * s.fld R.HOST_WIN_HI_BASE + off.toNat : Nat) = false ∧
      s.inReservoir (s.fld R.HOST_WIN_LO_BASE * 2 ^ 20 + 2 ^ 32 * s.fld R.HOST_WIN_HI_BASE + off.toNat : Nat) = true ∧
      inRing s (s.fld R.HOST_WIN_LO_BASE * 2 ^ 20 + 2 ^ 32 * s.fld R.HOST_WIN_HI_BASE + off.toNat : Nat) = false ∧
      inRing s ((s.fld R.HOST_WIN_LO_BASE * 2 ^ 20 + 2 ^ 32 * s.fld R.HOST_WIN_HI_BASE + off.toNat : Nat) + (bs.length : Nat) - 1) = false ∧ s.rsv.lost = [] ∧
      memWf s.mem = true) ∧
    (∃ s : State, ∃ off : BitVec 32, ∃ bs : List Byte, s.net.hostOpen = true ∧ s.flag R.HOST_STATUS_LINK_UP = true ∧ bs ≠ [] ∧
      s.inBands (s.fld R.HOST_WIN_LO_BASE * 2 ^ 20 + 2 ^ 32 * s.fld R.HOST_WIN_HI_BASE + off.toNat : Nat) (bs.length : Nat) = true ∧
      s.inWindow (s.fld R.HOST_WIN_LO_BASE * 2 ^ 20 + 2 ^ 32 * s.fld R.HOST_WIN_HI_BASE + off.toNat : Nat) = false ∧
      s.inReservoir (s.fld R.HOST_WIN_LO_BASE * 2 ^ 20 + 2 ^ 32 * s.fld R.HOST_WIN_HI_BASE + off.toNat : Nat) = true ∧
      inRing s (s.fld R.HOST_WIN_LO_BASE * 2 ^ 20 + 2 ^ 32 * s.fld R.HOST_WIN_HI_BASE + off.toNat : Nat) = true) ∧
    (∃ s : State, ∃ off : BitVec 32, ∃ len : Nat, s.net.hostOpen = true ∧ s.flag R.HOST_STATUS_LINK_UP = true ∧ 0 < len ∧
      s.inBands (s.fld R.HOST_WIN_LO_BASE * 2 ^ 20 + 2 ^ 32 * s.fld R.HOST_WIN_HI_BASE + off.toNat : Nat) len = true ∧
      s.inWindow (s.fld R.HOST_WIN_LO_BASE * 2 ^ 20 + 2 ^ 32 * s.fld R.HOST_WIN_HI_BASE + off.toNat : Nat) = true) ∧
    (∃ s : State, s.flag R.HOST_STATUS_LINK_UP = false) ∧
    (∃ s : State, ∃ v : Fin 256, ∃ tr : Nat, Tbl.find s.rep.pba v = some tr ∧ s.flag R.HOST_STATUS_LINK_UP = true ∧ s.flag R.HOST_STATUS_MSIX_EN = true ∧
      s.rep.fnMask = false) ∧
    (∃ s : State, ∃ v : Fin 256, Tbl.find s.rep.holds v = none) ∧
    (∃ s : State, ∃ v : Fin 256, ∃ h : VecHold, Tbl.find s.rep.holds v = some h ∧ h.trig = none) ∧
    (∃ s : State, ∃ v : Fin 256, ∃ h : VecHold, ∃ tr : Nat, Tbl.find s.rep.holds v = some h ∧ h.trig = some tr ∧ s.flag R.HOST_STATUS_LINK_UP = true ∧
      s.flag R.HOST_STATUS_MSIX_EN = true ∧ s.rep.fnMask = false ∧ s.flag (R.MSIX_CTRL_MASK v) = false) ∧
    (∃ s : State, ∃ v : Fin 256, ∃ h : VecHold, ∃ tr : Nat, Tbl.find s.rep.holds v = some h ∧ h.trig = some tr ∧ Tbl.find s.rep.pba v = none ∧
      (s.flag R.HOST_STATUS_LINK_UP = false ∨ s.flag (R.MSIX_CTRL_MASK v) = true)) :=
  ⟨⟨State.reset, by decide +kernel⟩,
   ⟨{ State.reset with regs := [(0x1D30044, 1#32)], net.hostOpen := true }, 0#12, by decide +kernel⟩,
   ⟨{ State.reset with regs := [(0x1D30044, 1#32)], net.hostOpen := true }, 0x50#12, 0xF#4, by decide +kernel⟩,
   ⟨{ State.reset with regs := [(0x1D30044, 1#32)], net.hostOpen := true }, 0#32, 1, by decide +kernel⟩,
   ⟨{ State.reset with regs := [(0x1D30044, 1#32)], net.hostOpen := true }, 0#32, [0#8], by decide +kernel⟩,
   ⟨{ State.reset with regs := [(0x1810040, 0x400#32), (0x1D30044, 1#32)], net.hostOpen := true }, 0#32, 1, by decide +kernel⟩,
   ⟨{ State.reset with regs := [(0x1D30044, 1#32), (0x1D3004C, 0xE0#32)], net.hostOpen := true }, 0x8#32, { len := 4, ecc := [.corrected] }, by decide +kernel⟩,
   ⟨{ State.reset with regs := [(0x1D30044, 1#32), (0x1D3004C, 0xE0#32)], net.hostOpen := true }, 0x14#32, { len := 4, ecc := [.uncorrectable] }, by decide +kernel⟩,
   ⟨{ State.reset with regs := [(0x1810040, 0x400#32), (0x1D30044, 1#32)], net.hostOpen := true }, 0#32, [0#8], by decide +kernel⟩,
   ⟨{ State.reset with regs := [(0x1810040, 0x400#32), (0x1810404, 1#32), (0x1810408, 0x30#32), (0x1D30044, 1#32)], net.hostOpen := true }, 0#32, [0#8], by decide +kernel⟩,
   ⟨{ State.reset with regs := [(0x1810040, 0x7C00#32), (0x1811600, 0x3000#32), (0x1D30044, 1#32), (0x1D30048, 0x300000#32)], rsv.mig := some { src := 48, dst := 0, copied := false }, rsv.window := true, net.hostOpen := true }, 0#32, 1, by decide +kernel⟩,
   ⟨State.reset, by decide +kernel⟩,
   ⟨{ State.reset with regs := [(0x1D30044, 0x101#32)], rep.pba := [(9, 7)] }, 9, 7, by decide +kernel⟩,
   ⟨State.reset, 0, by decide +kernel⟩,
   ⟨{ State.reset with rep.holds := [(9, { running := true, trig := none })] }, 9, { running := true, trig := none }, by decide +kernel⟩,
   ⟨{ State.reset with regs := [(0x1D30044, 0x101#32), (0x1D38FFC, 0#32)], rep.holds := [(255, { running := true, trig := some 33 })] }, 255, { running := true, trig := some 33 }, 33, by decide +kernel⟩,
   ⟨{ State.reset with rep.holds := [(255, { running := true, trig := some 33 })] }, 255, { running := true, trig := some 33 }, 33, by decide +kernel⟩⟩

/-- States and operands that meet the hypotheses of each clause of `Obligations.DisplayOutputs`. -/
theorem witness_DisplayOutputs :
    (∃ s : State, ∃ o : Fin 2, s.cmdBusy (hDp o) = false ∧ (s.flag (R.DPY_OUT_STATUS_HPD o)) = true ∧ s.flag (R.DPY_OUT_CFG_EN o) = true ∧
      (spreadLegal s (s.dpOut o).caps.downspread) = true) ∧
    (∃ s : State, ∃ o : Fin 2, s.cmdBusy (hDp o) = false ∧ (s.flag (R.DPY_OUT_STATUS_HPD o)) = true ∧ s.flag (R.DPY_OUT_CFG_EN o) = true ∧
      (spreadLegal s (s.dpOut o).caps.downspread) = false) ∧
    (∃ s : State, ∃ o : Fin 2, s.cmdBusy (hDp o) = false ∧ (s.fld (R.DPY_AUX_CTRL_OP o) : Nat) ≠ 0 ∧ (s.fld (R.DPY_AUX_CTRL_OP o) : Nat) ≠ 1 ∧
      (s.fld (R.DPY_AUX_CTRL_OP o) : Nat) ≠ 4 ∧ (s.fld (R.DPY_AUX_CTRL_OP o) : Nat) ≠ 5) ∧
    (∃ s : State, ∃ o : Fin 2, s.cmdBusy (hDp o) = false ∧
      ((s.fld (R.DPY_AUX_CTRL_OP o) : Nat) = 0 ∨ (s.fld (R.DPY_AUX_CTRL_OP o) : Nat) = 1 ∨ (s.fld (R.DPY_AUX_CTRL_OP o) : Nat) = 4 ∨ (s.fld (R.DPY_AUX_CTRL_OP o) : Nat) = 5) ∧
      (s.flag (R.DPY_OUT_STATUS_HPD o)) = false) ∧
    (∃ s : State, ∃ o : Fin 2, s.cmdBusy (hDp o) = false ∧
      ((s.fld (R.DPY_AUX_CTRL_OP o) : Nat) = 0 ∨ (s.fld (R.DPY_AUX_CTRL_OP o) : Nat) = 1 ∨ (s.fld (R.DPY_AUX_CTRL_OP o) : Nat) = 4 ∨ (s.fld (R.DPY_AUX_CTRL_OP o) : Nat) = 5) ∧
      (s.flag (R.DPY_OUT_STATUS_HPD o)) = true ∧ ((s.fld (R.DPY_OUT_STATUS_STATE o) : Nat) = 1 ∨ (s.dpOut o).aux ≠ none)) ∧
    (∃ s : State, ∃ o : Fin 2, s.cmdBusy (hDp o) = false ∧
      ((s.fld (R.DPY_AUX_CTRL_OP o) : Nat) = 0 ∨ (s.fld (R.DPY_AUX_CTRL_OP o) : Nat) = 1 ∨ (s.fld (R.DPY_AUX_CTRL_OP o) : Nat) = 4 ∨ (s.fld (R.DPY_AUX_CTRL_OP o) : Nat) = 5) ∧
      (s.flag (R.DPY_OUT_STATUS_HPD o)) = true ∧ (s.fld (R.DPY_OUT_STATUS_STATE o) : Nat) ≠ 1 ∧ (s.dpOut o).aux = none) ∧
    (∃ s : State, ∃ o : Fin 2, ∃ op : Nat, ∃ len : Nat, ∃ bs : List Byte, (s.dpOut o).aux = some (op, len) ∧ (op = 0 ∨ op = 4) ∧ bs.length ≤ len ∧ len ≤ 16) ∧
    (∃ s : State, ∃ o : Fin 2, ∃ op : Nat, ∃ len : Nat, ∃ reply : Fin 4, (s.dpOut o).aux = some (op, len) ∧ (op = 1 ∨ op = 5) ∧ reply = 0 ∧ len ≤ 16) ∧
    (∃ s : State, ∃ o : Fin 2, ∃ caps : SinkCaps, (s.flag (R.DPY_OUT_STATUS_HPD o)) = false ∧ (s.flag (R.DPY_OUT_CFG_EN o) = true → spreadLegal s caps.downspread = true)) ∧
    (∃ s : State, ∃ o : Fin 2, ∃ low : Nat, (s.flag (R.DPY_OUT_STATUS_HPD o)) = true ∧ low < 5) ∧
    (∃ s : State, ∃ o : Fin 2, ∃ low : Nat, ∃ lost : Bool, (s.flag (R.DPY_OUT_STATUS_HPD o)) = true ∧ 5 ≤ low ∧ low < 20 ∧
      (lost = false ∨ s.flag (R.DPY_OUT_STATUS_TRAINED o) = false)) ∧
    (∃ s : State, ∃ o : Fin 2, ∃ low : Nat, (s.flag (R.DPY_OUT_STATUS_HPD o)) = true ∧ 5 ≤ low ∧ low < 20 ∧ s.flag (R.DPY_OUT_STATUS_TRAINED o) = true ∧
      s.flag (R.DPY_OUT_CFG_EN o) = true ∧ (spreadLegal s (s.dpOut o).caps.downspread) = true) ∧
    (∃ s : State, ∃ o : Fin 2, ∃ low : Nat, (s.flag (R.DPY_OUT_STATUS_HPD o)) = true ∧ 20 ≤ low) ∧
    (∃ s : State, ∃ o : Fin 2, ∃ l : Fin 3, ∃ r : Fin 4, ∃ l2 : Fin 3, ∃ r2 : Fin 4, (s.fld (R.DPY_OUT_STATUS_STATE o) : Nat) = 1 ∧
      l.val ≤ min (s.fld (R.DPY_OUT_CFG_LANES_MAX o)) (s.dpOut o).caps.maxLanes.val ∧ r.val ≤ min (s.fld (R.DPY_OUT_CFG_RATE_MAX o)) (s.dpOut o).caps.maxRate.val ∧
      dpFits s l r = true ∧ l2.val ≤ min (s.fld (R.DPY_OUT_CFG_LANES_MAX o)) (s.dpOut o).caps.maxLanes.val ∧
      r2.val ≤ min (s.fld (R.DPY_OUT_CFG_RATE_MAX o)) (s.dpOut o).caps.maxRate.val ∧ dpFits s l2 r2 = true ∧
      (dpLanes l2 * dpRate r2 < dpLanes l * dpRate r ∨ (dpLanes l2 * dpRate r2 = dpLanes l * dpRate r ∧ r < r2))) ∧
    (∃ s : State, ∃ o : Fin 2, ∃ l : Fin 3, ∃ r : Fin 4, (s.fld (R.DPY_OUT_STATUS_STATE o) : Nat) = 1 ∧
      (min (s.fld (R.DPY_OUT_CFG_LANES_MAX o)) (s.dpOut o).caps.maxLanes.val < l.val ∨ min (s.fld (R.DPY_OUT_CFG_RATE_MAX o)) (s.dpOut o).caps.maxRate.val < r.val ∨ dpFits s l r = false)) ∧
    (∃ s : State, s.snapOf hRas = none ∧ s.snapOf hCol = none ∧ s.flag R.DPY_STATUS_RUN = true) ∧
    (∃ s : State, ∃ ws : Tbl Nat, s.snapOf hRas = some ws ∧ s.snapOf hCol = none ∧ s.flag R.DPY_STATUS_RUN = false ∧ rasterLegal (overlay s ws) = true) ∧
    (∃ s : State, ∃ ws : Tbl Nat, s.snapOf hRas = some ws ∧ s.snapOf hCol = none ∧ s.flag R.DPY_STATUS_RUN = false ∧ rasterLegal (overlay s ws) = false) ∧
    (∃ s : State, s.flag R.DPY_STATUS_RUN = true ∧ s.flag R.DPY_STATUS_ABORTED = false) ∧
    (∃ s : State, (s.flag R.DPY_STATUS_RUN = false ∨ s.flag R.DPY_STATUS_ABORTED = true)) :=
  ⟨⟨{ State.reset with regs := [(0x1E21040, 1#32), (0x1E21044, 1#32)] }, 1, by decide +kernel⟩,
   ⟨{ State.reset with regs := [(0x100068, 0x1000#32), (0x1E21040, 1#32), (0x1E21044, 1#32)] }, 1, by decide +kernel⟩,
   ⟨{ State.reset with regs := [(0x1E21048, 0x20000000#32)] }, 1, by decide +kernel⟩,
   ⟨State.reset, 0, by decide +kernel⟩,
   ⟨{ State.reset with regs := [(0x1E21044, 1#32)], dsp.out := [(1, { DpOut.init with aux := some (0, 0) })] }, 1, by decide +kernel⟩,
   ⟨{ State.reset with regs := [(0x1E21044, 1#32)] }, 1, by decide +kernel⟩,
   ⟨{ State.reset with dsp.out := [(0, { DpOut.init with aux := some (0, 5) })] }, 0, 0, 5, [], by decide +kernel⟩,
   ⟨{ State.reset with dsp.out := [(0, { DpOut.init with aux := some (5, 16) })] }, 0, 5, 16, 0, by decide +kernel⟩,
   ⟨State.reset, 0, { maxRate := 0, maxLanes := 0, downspread := false }, by decide +kernel⟩,
   ⟨{ State.reset with regs := [(0x1E21044, 1#32)] }, 1, 0, by decide +kernel⟩,
   ⟨{ State.reset with regs := [(0x1E21044, 1#32)] }, 1, 5, false, by decide +kernel⟩,
   ⟨{ State.reset with regs := [(0x1E20040, 1#32), (0x1E20044, 3#32)] }, 0, 5, by decide +kernel⟩,
   ⟨{ State.reset with regs := [(0x1E20044, 1#32)] }, 0, 20, by decide +kernel⟩,
   ⟨{ State.reset with regs := [(0x1E21040, 0x22#32), (0x1E21044, 0x100#32)], dsp.out := [(1, { DpOut.init with caps.maxRate := 2, caps.maxLanes := 1 })] }, 1, 0, 1, 0, 0, by decide +kernel⟩,
   ⟨{ State.reset with regs := [(0x1E21044, 0x100#32)] }, 1, 0, 1, by decide +kernel⟩,
   ⟨{ State.reset with regs := [(0x1E10060, 1#32)] }, by decide +kernel⟩,
   ⟨{ State.reset with regs := [(0x100068, 0x200010#32), (0x1E10048, 0x20002#32), (0x1E1004C, 0x201E0#32), (0x1E10050, 0x20002#32), (0x1E10070, 0x40000#32)], snaps := [{ hdr := 0x1E10000, words := [(0x1E10044, 0xA0280), (0x1E1005C, 128), (0x1E10040, 2)] }] }, [(0x1E10044, 0xA0280), (0x1E1005C, 128), (0x1E10040, 2)], by decide +kernel⟩,
   ⟨{ State.reset with snaps := [{ hdr := 0x1E10000, words := [(0x1E10044, 0x100280), (0x1E10048, 0), (0x1E1004C, 0)] }] }, [(0x1E10044, 0x100280), (0x1E10048, 0), (0x1E1004C, 0)], by decide +kernel⟩,
   ⟨{ State.reset with regs := [(0x1E10060, 1#32)] }, by decide +kernel⟩,
   ⟨State.reset, by decide +kernel⟩⟩

/-- States and operands that meet the hypotheses of each clause of `Obligations.BrookMeasurements`. -/
theorem witness_BrookMeasurements :
    (∃ s : State, s.brk.on = false) ∧
    (∃ s : State, ∃ code : Nat, ∃ e : Nat, s.brk.on = true ∧ s.brk.pos = e ∧ e ≤ s.fld R.BRK_ADC_CFG_LENM1 ∧
      (33 ≤ (s.fld (R.BRK_SEQ_CHAN e) : Nat) → (s.fld (R.BRK_SEQ_CHAN e) : Nat) ≤ 36 → bitAt s.rails 4 = true) ∧ code < 4096 ∧ s.flag R.BRK_ADC_CFG_REFBUF_EN = true ∧
      s.flag R.BRK_STATUS_WARM = false ∧ s.flag (R.BRK_SEQ_SLOT_EN e) = false ∧ s.flag (R.BRK_SEQ_QUEUE e) = true ∧ s.brk.adcq.length < 64) ∧
    (∃ s : State, ∃ code : Nat, ∃ e : Nat, s.brk.on = true ∧ s.brk.pos = e ∧ e ≤ s.fld R.BRK_ADC_CFG_LENM1 ∧
      (33 ≤ (s.fld (R.BRK_SEQ_CHAN e) : Nat) → (s.fld (R.BRK_SEQ_CHAN e) : Nat) ≤ 36 → bitAt s.rails 4 = true) ∧ code < 4096 ∧ s.flag R.BRK_ADC_CFG_REFBUF_EN = true ∧
      s.flag R.BRK_STATUS_WARM = false ∧ s.flag (R.BRK_SEQ_SLOT_EN e) = false ∧ s.flag (R.BRK_SEQ_QUEUE e) = true ∧ 64 ≤ s.brk.adcq.length) ∧
    (∃ s : State, ∃ code : Nat, ∃ e : Nat, s.brk.on = true ∧ s.brk.pos = e ∧ e ≤ s.fld R.BRK_ADC_CFG_LENM1 ∧
      (33 ≤ (s.fld (R.BRK_SEQ_CHAN e) : Nat) → (s.fld (R.BRK_SEQ_CHAN e) : Nat) ≤ 36 → bitAt s.rails 4 = true) ∧ code < 4096 ∧ s.flag R.BRK_ADC_CFG_REFBUF_EN = true ∧
      s.flag R.BRK_STATUS_WARM = false ∧ s.flag (R.BRK_SEQ_SLOT_EN e) = true ∧ s.flag (R.BRK_SEQ_QUEUE e) = false ∧
      s.flag (R.BRK_FLT_CFG_SRC (s.fld (R.BRK_SEQ_SLOT e) : Nat)) = false) ∧
    (∃ s : State, s.brk.adcq = []) ∧
    (∃ s : State, ∃ w : Nat, ∃ rest : List Nat, s.brk.adcq = w :: rest) ∧
    (∃ s : State, s.cmdBusy hBrk = false ∧ s.flag R.BRK_STATUS_CAL_BUSY = true) ∧
    (∃ s : State, s.cmdBusy hBrk = false ∧ s.flag R.BRK_STATUS_CAL_BUSY = false) ∧
    (∃ s : State, s.brk.on = true ∧ s.wordN R.BRK_CAL_PERIOD ≠ 0) ∧
    (∃ s : State, ∃ offset : Int, ∃ gain : Int, s.flag R.BRK_STATUS_CAL_BUSY = true ∧ (32 < offset.natAbs ∨ 81 < gain.natAbs)) ∧
    (∃ s : State, ∃ offset : Int, ∃ gain : Int, s.flag R.BRK_STATUS_CAL_BUSY = true ∧ offset.natAbs ≤ 32 ∧ gain.natAbs ≤ 81) ∧
    (∃ s : State, ∃ n : Fin 12, s.brk.on = true ∧ s.brk.tests.contains n = false ∧ s.flag (R.BRK_CMP_CFG_KILL n) = false ∧ s.fld (R.BRK_CMP_CFG_FILT n) = 0) ∧
    (∃ s : State, ∃ n : Fin 12, s.brk.on = true ∧ s.brk.tests.contains n = false ∧ s.flag (R.BRK_CMP_CFG_KILL n) = false ∧ s.fld (R.BRK_CMP_CFG_FILT n) = 1 ∧
      (Tbl.get CmpSt.init s.brk.cmps n).hist.length = 9) ∧
    (∃ s : State, ∃ n : Fin 12, s.brk.on = true ∧ s.brk.tests.contains n = false ∧ s.flag (R.BRK_CMP_CFG_KILL n) = false ∧ s.fld (R.BRK_CMP_CFG_FILT n) = 2 ∧
      s.flag (R.BRK_CMP_CFG_BLK_SRC n) = false ∧ 1 < (Tbl.get CmpSt.init s.brk.cmps n).hold) ∧
    (∃ s : State, ∃ n : Fin 12, s.brk.on = true ∧ s.flag (R.BRK_CMP_CFG_KILL n) = true ∧ s.fld (R.BRK_CMP_CFG_MODE n) = 0 ∧ s.brk.tests.contains n = false ∧
      s.flag (R.BRK_CMP_STATUS_RAW n) = false) ∧
    (∃ s : State, ∃ n : Fin 12, (s.flag (R.BRK_CMP_CFG_KILL n) = false ∨ s.fld (R.BRK_CMP_CFG_MODE n) ≠ 0 ∨ s.brk.tests.contains n = true)) ∧
    (∃ s : State, s.cmdBusy hBrk = false ∧ 11 < (bits (s.wordN R.BRK_CMD_ARG) 3 0 : Nat)) ∧
    (∃ s : State, s.cmdBusy hBrk = false ∧ (bits (s.wordN R.BRK_CMD_ARG) 3 0 : Nat) ≤ 11 ∧ s.flag (R.BRK_CMP_CFG_KILL (bits (s.wordN R.BRK_CMD_ARG) 3 0 : Nat)) = true ∧
      s.flag R.BRK_STATUS_KILLED = false) ∧
    (∃ s : State, s.cmdBusy hBrk = false ∧ (bits (s.wordN R.BRK_CMD_ARG) 3 0 : Nat) ≤ 11 ∧
      (s.flag (R.BRK_CMP_CFG_KILL (bits (s.wordN R.BRK_CMD_ARG) 3 0 : Nat)) = false ∨ s.flag R.BRK_STATUS_KILLED = true)) ∧
    (∃ s : State, s.brk.tests = []) ∧
    (∃ s : State, ∃ rest : List Nat, ∃ n : Fin 12, s.brk.tests = n.val :: rest) ∧
    (∃ s : State, s.cmdBusy hBrk = false ∧ (bits (s.wordN R.BRK_CMD_ARG) 31 16 : Nat) = 0) ∧
    (∃ s : State, s.cmdBusy hBrk = false ∧ (bits (s.wordN R.BRK_CMD_ARG) 31 16 : Nat) ≠ 0 ∧ (∀ i : Fin 16, s.flag (R.BRK_FLT_CFG_SRC i) = false)) ∧
    (∃ s : State, s.cmdBusy hBrk = false ∧ s.flag (R.BRK_RULE0_LATCH (bits (s.wordN R.BRK_CMD_ARG) 5 0 : Nat)) = false) ∧
    (∃ s : State, s.cmdBusy hBrk = false ∧ s.flag (R.BRK_RULE0_LATCH (bits (s.wordN R.BRK_CMD_ARG) 5 0 : Nat)) = true) ∧
    (∃ s : State, ∃ k : Fin 8, ∃ tm : TmrSt, Tbl.find s.brk.tmrs k = some tm) ∧
    (∃ s : State, ∃ k : Fin 8, Tbl.find s.brk.tmrs k = none) :=
  ⟨⟨State.reset, by decide +kernel⟩,
   ⟨{ State.reset with regs := [(0x1E80040, 0#32), (0x1E80100, 0x2000#32)], brk.on := true }, 0, 0, by decide +kernel⟩,
   ⟨{ State.reset with regs := [(0x1E80040, 0#32), (0x1E80104, 0x2000#32)], brk.on := true, brk.pos := 1, brk.adcq := List.replicate 64 1 }, 0, 1, by decide +kernel⟩,
   ⟨{ State.reset with regs := [(0x1E80040, 0#32)], brk.on := true }, 0, 0, by decide +kernel⟩,
   ⟨State.reset, by decide +kernel⟩,
   ⟨{ State.reset with brk.adcq := [7] }, 7, [], by decide +kernel⟩,
   ⟨{ State.reset with regs := [(0x1E80040, 0x20#32)] }, by decide +kernel⟩,
   ⟨State.reset, by decide +kernel⟩,
   ⟨{ State.reset with regs := [(0x1E80050, 1#32)], brk.on := true }, by decide +kernel⟩,
   ⟨{ State.reset with regs := [(0x1E80040, 0x20#32)] }, 0, 82, by decide +kernel⟩,
   ⟨{ State.reset with regs := [(0x1E80040, 0x20#32)] }, 0, 0, by decide +kernel⟩,
   ⟨{ State.reset with brk.on := true }, 4, by decide +kernel⟩,
   ⟨{ State.reset with regs := [(0x1E80228, 0x200#32)], brk.on := true, brk.cmps := [(10, { CmpSt.init with hist := List.replicate 9 false })] }, 10, by decide +kernel⟩,
   ⟨{ State.reset with regs := [(0x1E80214, 0x400#32)], brk.on := true, brk.cmps := [(5, { CmpSt.init with hold := 4 })] }, 5, by decide +kernel⟩,
   ⟨{ State.reset with regs := [(0x1E80204, 0x8000#32)], brk.on := true }, 1, by decide +kernel⟩,
   ⟨State.reset, 0, by decide +kernel⟩,
   ⟨{ State.reset with regs := [(0x1E80058, 0xC#32)] }, by decide +kernel⟩,
   ⟨{ State.reset with regs := [(0x1E80200, 0x8000#32)] }, by decide +kernel⟩,
   ⟨State.reset, by decide +kernel⟩,
   ⟨State.reset, by decide +kernel⟩,
   ⟨{ State.reset with brk.tests := [1] }, [], 1, by decide +kernel⟩,
   ⟨State.reset, by decide +kernel⟩,
   ⟨{ State.reset with regs := [(0x1E80058, 0x80000000#32)] }, by decide +kernel⟩,
   ⟨State.reset, by decide +kernel⟩,
   ⟨{ State.reset with regs := [(0x1E80058, 0xC#32)] }, by decide +kernel⟩,
   ⟨{ State.reset with brk.tmrs := [(3, { fin := 55, expired := false })] }, 3, { fin := 55, expired := false }, by decide +kernel⟩,
   ⟨State.reset, 0, by decide +kernel⟩⟩

/-- States and operands that meet the hypotheses of each clause of `Obligations.BrookRounds`. -/
theorem witness_BrookRounds :
    (∃ s : State, s.brk.on = false) ∧
    (∃ s : State, ∃ i : Nat, s.brk.on = true ∧ s.snapOf hBrk = none ∧ xramWord s 0x100 = s.brk.mbSeq ∧ s.brk.hit = none ∧ s.brk.trimTo = none ∧ s.brk.bt < 2 ^ 48 ∧ s.brk.downDue = false ∧
      (∀ i : Fin 16, s.flag (R.BRK_FLT_CFG_SRC i) = false) ∧ (∀ i : Fin 8, bitAt (s.fld R.BRK_RAIL_STATUS_GOOD) i = true → bitAt s.rails i = true) ∧
      (∀ j : Fin 64, s.flag (R.BRK_RULE0_EN j) = false)) ∧
    (∃ s : State, ∃ i : Nat, s.brk.on = true ∧ s.snapOf hBrk = none ∧ xramWord s 0x100 = s.brk.mbSeq ∧ s.brk.hit = none ∧ s.brk.trimTo = none ∧ s.brk.bt < 2 ^ 48 ∧ s.brk.downDue = false ∧
      (∀ i : Fin 16, s.flag (R.BRK_FLT_CFG_SRC i) = false) ∧ (∀ i : Fin 8, bitAt (s.fld R.BRK_RAIL_STATUS_GOOD) i = true → bitAt s.rails i = true) ∧
      s.flag R.BRK_STATUS_KILLED = false) ∧
    (∃ s : State, ∃ i : Nat, s.brk.on = true ∧ s.snapOf hBrk = none ∧ xramWord s 0x100 = s.brk.mbSeq ∧ s.brk.hit = none ∧ s.brk.trimTo = none ∧ s.brk.bt < 2 ^ 48 ∧ s.brk.downDue = false ∧
      (∀ i : Fin 16, s.flag (R.BRK_FLT_CFG_SRC i) = false) ∧ (∀ i : Fin 8, bitAt (s.fld R.BRK_RAIL_STATUS_GOOD) i = true → bitAt s.rails i = true) ∧
      s.flag R.BRK_STATUS_KILLED = true) ∧
    (∃ s : State, s.brk.on = true ∧ s.flag R.BRK_STATUS_EXTRACT = false ∧ s.flag R.HOST_STATUS_LINK_UP = false ∧ (∀ p : Fin 4, s.portState p = psDown)) ∧
    (∃ s : State, s.brk.on = true ∧ s.flag R.BRK_STATUS_EXTRACT = false ∧ s.flag R.HOST_STATUS_LINK_UP = true) ∧
    (∃ s : State, s.brk.defer = false) ∧
    (∃ s : State, s.brk.defer = true) :=
  ⟨⟨State.reset, by decide +kernel⟩,
   ⟨{ State.reset with regs := (List.range 6).map (fun k => (0x1E80400 + 0x10 * k, BitVec.ofNat 32 (0x0 + 0x0 * k))) ++ (List.range 8).map (fun k => (0x1E80480 + 0x10 * k, BitVec.ofNat 32 (0x0 + 0x0 * k))), brk.on := true }, 0, by decide +kernel⟩,
   ⟨{ State.reset with brk.on := true }, 0, by decide +kernel⟩,
   ⟨{ State.reset with regs := [(0x1E80040, 8#32)], brk.on := true }, 0, by decide +kernel⟩,
   ⟨{ State.reset with brk.on := true }, by decide +kernel⟩,
   ⟨{ State.reset with regs := [(0x1D30044, 1#32)], brk.on := true }, by decide +kernel⟩,
   ⟨State.reset, by decide +kernel⟩,
   ⟨{ State.reset with brk.defer := true }, by decide +kernel⟩⟩

/-- States and operands that meet the hypotheses of each clause of `Obligations.MailboxAndSpi`. -/
theorem witness_MailboxAndSpi :
    (∃ s : State, (s.brk.on = false ∨ ((xramWord s 0x100 : Nat) = s.brk.mbSeq ∧ s.brk.hit = none))) ∧
    (∃ s : State, s.brk.on = true ∧ s.brk.hit = none ∧ (xramWord s 0x100 : Nat) ≠ s.brk.mbSeq ∧ (xramWord s 0x100 : Nat) < 2 ^ 32 ∧ xramWord s 0x104 = 1 ∧
      ((xramWord s 0x108 : Nat) < 0x1E80000 ∨ 0x1E90000 ≤ (xramWord s 0x108 : Nat)) ∧ s.flag R.BRK_STATUS_DIE_RUN = false) ∧
    (∃ s : State, s.brk.on = true ∧ s.brk.hit = none ∧ (xramWord s 0x100 : Nat) ≠ s.brk.mbSeq ∧ (xramWord s 0x100 : Nat) < 2 ^ 32 ∧ xramWord s 0x104 = 1 ∧
      (xramWord s 0x108 : Nat) = R.BRK_RAIL_SLOT) ∧
    (∃ s : State, s.brk.on = true ∧ s.brk.hit = none ∧ (xramWord s 0x100 : Nat) ≠ s.brk.mbSeq ∧ (xramWord s 0x100 : Nat) < 2 ^ 32 ∧ xramWord s 0x104 = 2 ∧
      ((xramWord s 0x108 : Nat) < 0x1E80000 ∨ 0x1E90000 ≤ (xramWord s 0x108 : Nat)) ∧ s.flag R.BRK_STATUS_DIE_RUN = false) ∧
    (∃ s : State, s.brk.on = true ∧ s.brk.hit = none ∧ (xramWord s 0x100 : Nat) ≠ s.brk.mbSeq ∧ (xramWord s 0x100 : Nat) < 2 ^ 32 ∧ xramWord s 0x104 = 2 ∧
      (xramWord s 0x108 : Nat) = R.BRK_CMD_ARG) ∧
    (∃ s : State, s.brk.on = true ∧ s.brk.hit = none ∧ (xramWord s 0x100 : Nat) ≠ s.brk.mbSeq ∧ (xramWord s 0x100 : Nat) < 2 ^ 32 ∧ xramWord s 0x104 = 3 ∧ 256 < xramWord s 0x10C) ∧
    (∃ s : State, ∃ i : Nat, s.brk.on = true ∧ s.brk.hit = none ∧ (xramWord s 0x100 : Nat) ≠ s.brk.mbSeq ∧ (xramWord s 0x100 : Nat) < 2 ^ 32 ∧ xramWord s 0x104 = 3 ∧
      (xramWord s 0x10C : Nat) ≤ 8 ∧ i < (xramWord s 0x10C : Nat) ∧ (Tbl.get [] s.brk.log (((xramWord s 0x108 : Nat) + i) % 1024)).length = 32 ∧
      (Tbl.get [] s.brk.log (((xramWord s 0x108 : Nat) + i) % 1024)).take 4 = leBytes 4 (((xramWord s 0x108 : Nat) + i) % 2 ^ 32) ∧
      (∀ j : Fin 8, (Tbl.get [] s.brk.log (((xramWord s 0x108 : Nat) + j) % 1024)).length ≤ 32)) ∧
    (∃ s : State, s.brk.on = true ∧ s.brk.hit = none ∧ (xramWord s 0x100 : Nat) ≠ s.brk.mbSeq ∧ (xramWord s 0x100 : Nat) < 2 ^ 32 ∧ xramWord s 0x104 = 4) ∧
    (∃ s : State, s.brk.on = true ∧ s.brk.hit = none ∧ (xramWord s 0x100 : Nat) ≠ s.brk.mbSeq ∧ (xramWord s 0x100 : Nat) < 2 ^ 32 ∧ xramWord s 0x104 = 5 ∧ s.flag R.BRK_STATUS_KILLED = false) ∧
    (∃ s : State, s.brk.on = true ∧ s.brk.hit = none ∧ (xramWord s 0x100 : Nat) ≠ s.brk.mbSeq ∧ (xramWord s 0x100 : Nat) < 2 ^ 32 ∧ xramWord s 0x104 = 5 ∧ s.flag R.BRK_STATUS_KILLED = true) ∧
    (∃ s : State, s.brk.on = false) ∧
    (∃ s : State, ∃ a : Fin 4096, ∃ n : Nat, ∃ m : Nat, ∃ col : Collision, s.brk.on = true ∧ a.val + n ≤ 4096 ∧ (col = .none ∨ col = .spiLater m false)) ∧
    (∃ s : State, ∃ a : Fin 4096, ∃ n : Nat, ∃ i : Nat, ∃ col : Collision, s.brk.on = true ∧ a.val + n ≤ 4096 ∧ i < n ∧ (col = .spiLater i true ∨ col = .brookLater i true)) ∧
    (∃ s : State, ∃ a : Fin 4096, ∃ i : Nat, ∃ m : Nat, ∃ ws : List Word, ∃ col : Collision, s.brk.on = true ∧ a.val + ws.length ≤ 4096 ∧ i < ws.length ∧
      (col = .none ∨ col = .spiLater m false)) ∧
    (∃ s : State, ∃ a : Fin 4096, ∃ ws : List Word, s.brk.on = true ∧ ws ≠ [] ∧ a.val + ws.length ≤ 4096) ∧
    (∃ s : State, s.brk.on = true ∧ s.brk.hit = some (s.tclk / 64, 0x100) ∧ Config.freeNat s.freeCtr % 2 ^ 32 = s.brk.mbSeq) :=
  ⟨⟨State.reset, by decide +kernel⟩,
   ⟨{ State.reset with rep.xram := [(256, 1#8), (260, 1#8)], brk.on := true }, by decide +kernel⟩,
   ⟨{ State.reset with rep.xram := [(260, 1#8), (264, 0xA4#8), (266, 0xE8#8), (267, 1#8)], brk.on := true, brk.mbSeq := 1 }, by decide +kernel⟩,
   ⟨{ State.reset with rep.xram := [(260, 2#8)], brk.on := true, brk.mbSeq := 1 }, by decide +kernel⟩,
   ⟨{ State.reset with rep.xram := [(260, 2#8), (264, 0x58#8), (266, 0xE8#8), (267, 1#8)], brk.on := true, brk.mbSeq := 1 }, by decide +kernel⟩,
   ⟨{ State.reset with rep.xram := [(256, 1#8), (260, 3#8), (268, 1#8), (269, 1#8)], brk.on := true }, by decide +kernel⟩,
   ⟨{ State.reset with rep.xram := [(260, 3#8), (264, 5#8), (268, 1#8)], brk.on := true, brk.log := [(5, [5#8] ++ List.replicate 31 0#8)], brk.mbSeq := 1 }, 0, by decide +kernel⟩,
   ⟨{ State.reset with rep.xram := [(256, 1#8), (260, 4#8)], brk.on := true }, by decide +kernel⟩,
   ⟨{ State.reset with rep.xram := [(256, 1#8), (260, 5#8)], brk.on := true }, by decide +kernel⟩,
   ⟨{ State.reset with regs := [(0x1E80040, 8#32)], rep.xram := [(256, 1#8), (260, 5#8)], brk.on := true }, by decide +kernel⟩,
   ⟨State.reset, by decide +kernel⟩,
   ⟨{ State.reset with brk.on := true }, 0, 0, 0, Sys2Proof.Collision.none, by decide +kernel⟩,
   ⟨{ State.reset with brk.on := true }, 0, 2, 1, .brookLater 1 true, by decide +kernel⟩,
   ⟨{ State.reset with brk.on := true }, 4095, 0, 0, [0#32], .spiLater 0 false, by decide +kernel⟩,
   ⟨{ State.reset with brk.on := true }, 0, [0#32], by decide +kernel⟩,
   ⟨{ State.reset with brk.on := true, brk.hit := some (0, 0x100), brk.mbSeq := Config.freeNat 0 % 2 ^ 32 }, rfl, rfl, rfl⟩⟩

/-- States and operands that meet the hypotheses of each clause of `Obligations.StartAndLifecycle`. -/
theorem witness_StartAndLifecycle :
    (∃ s : State, ∃ codes : List Nat, ∃ c : Fin 4, codes.length = 4 ∧ (∀ i : Fin 4, (codes[i.val]?).getD 0 ≤ ((codes[c.val]?).getD 0 : Nat)) ∧
      (∀ i : Fin 4, i < c → (codes[i.val]?).getD 0 < ((codes[c.val]?).getD 0 : Nat)) ∧ ((codes[c.val]?).getD 0 : Nat) < 4096 ∧ (s.fld R.MOD_THERM_STATUS_LEVEL : Nat) ≤ 2 ∧
      16 * (s.fld R.MOD_THERM_CFG_THROT2 + 64) ≤ ((codes[c.val]?).getD 0 : Nat)) ∧
    (∃ s : State, ∃ codes : List Nat, ∃ c : Fin 4, codes.length = 4 ∧ (∀ i : Fin 4, (codes[i.val]?).getD 0 ≤ ((codes[c.val]?).getD 0 : Nat)) ∧
      (∀ i : Fin 4, i < c → (codes[i.val]?).getD 0 < ((codes[c.val]?).getD 0 : Nat)) ∧ ((codes[c.val]?).getD 0 : Nat) < 4096 ∧ (s.fld R.MOD_THERM_STATUS_LEVEL : Nat) ≤ 2 ∧
      ((codes[c.val]?).getD 0 : Nat) < 16 * (s.fld R.MOD_THERM_CFG_THROT2 + 64) ∧ (s.fld R.MOD_THERM_STATUS_LEVEL : Nat) = 0) ∧
    (∃ s : State, ∃ codes : List Nat, ∃ c : Fin 4, codes.length = 4 ∧ (∀ i : Fin 4, (codes[i.val]?).getD 0 ≤ ((codes[c.val]?).getD 0 : Nat)) ∧
      (∀ i : Fin 4, i < c → (codes[i.val]?).getD 0 < ((codes[c.val]?).getD 0 : Nat)) ∧ ((codes[c.val]?).getD 0 : Nat) < 4096 ∧ (s.fld R.MOD_THERM_STATUS_LEVEL : Nat) ≤ 2 ∧
      ((codes[c.val]?).getD 0 : Nat) < 16 * (s.fld R.MOD_THERM_CFG_THROT2 + 64) ∧ (s.fld R.MOD_THERM_STATUS_LEVEL : Nat) ≠ 0 ∧
      ((codes[c.val]?).getD 0 : Nat) < 16 * (s.fld R.MOD_THERM_CFG_THROT_REL + 64)) ∧
    (∃ s : State, ∃ codes : List Nat, ∃ c : Fin 4, codes.length = 4 ∧ (∀ i : Fin 4, (codes[i.val]?).getD 0 ≤ ((codes[c.val]?).getD 0 : Nat)) ∧
      (∀ i : Fin 4, i < c → (codes[i.val]?).getD 0 < ((codes[c.val]?).getD 0 : Nat)) ∧ ((codes[c.val]?).getD 0 : Nat) < 4096 ∧ (s.fld R.MOD_THERM_STATUS_LEVEL : Nat) ≤ 2 ∧
      ((codes[c.val]?).getD 0 : Nat) < 16 * (s.fld R.MOD_THERM_CFG_THROT2 + 64) ∧ (s.fld R.MOD_THERM_STATUS_LEVEL : Nat) ≠ 0 ∧
      16 * (s.fld R.MOD_THERM_CFG_THROT_REL + 64) ≤ ((codes[c.val]?).getD 0 : Nat)) ∧
    (∃ s : State, (s.brk.on = false ∨ s.flag R.BRK_STATUS_DIE_GO = false ∨ s.flag R.BRK_STATUS_DIE_RUN = true ∨ s.flag R.BRK_STATUS_KILLED = true)) ∧
    (∃ s : State, s.brk.on = true ∧ s.flag R.BRK_STATUS_DIE_GO = true ∧ s.flag R.BRK_STATUS_DIE_RUN = false ∧ s.flag R.BRK_STATUS_KILLED = false ∧ (s.boot.life : Nat) ≠ 3 ∧
      s.boot.slot0 = [] ∧ s.boot.slot1 = []) ∧
    (∃ s : State, s.brk.on = true ∧ s.flag R.BRK_STATUS_DIE_GO = true ∧ s.flag R.BRK_STATUS_DIE_RUN = false ∧ s.flag R.BRK_STATUS_KILLED = false ∧ (s.boot.life : Nat) = 3) ∧
    (∃ s : State, ∃ k : Nat, ∃ ok0 : Bool, ∃ ok1 : Bool, s.brk.on = true ∧ s.flag R.BRK_STATUS_DIE_GO = true ∧ s.flag R.BRK_STATUS_DIE_RUN = false ∧
      s.flag R.BRK_STATUS_KILLED = false ∧ (s.boot.life : Nat) ≠ 3 ∧ k ≤ 1 ∧ (slotOrder s.boot).1 = k ∧ checkSlot (journalLoad (dieWipe s)) (if k = 0 then ok0 else ok1) k = 1) ∧
    (∃ s : State, s.boot.parked = none) ∧
    (∃ s : State, ∃ p : Option Nat, s.boot.parked = some p ∧ s.flag R.BRK_STATUS_DIE_GO = false) ∧
    (∃ s : State, s.boot.parked = some none ∧ s.flag R.BRK_STATUS_DIE_GO = true ∧ s.brk.on = true) ∧
    (∃ s : State, s.cmdBusy hLcs = false ∧ (s.boot.life : Nat) = 3) ∧
    (∃ s : State, s.cmdBusy hLcs = false ∧ (s.boot.life : Nat) < 3 ∧
      (bits (s.wordN R.LCS_CONFIRM) 7 0 ≠ (s.boot.life : Nat) + 1 ∨ bits (s.wordN R.LCS_CONFIRM) 15 8 ≠ 254 - (s.boot.life : Nat))) ∧
    (∃ s : State, s.cmdBusy hLcs = false ∧ (s.boot.life : Nat) = 0 ∧ bits (s.wordN R.LCS_CONFIRM) 7 0 = 1 ∧ bits (s.wordN R.LCS_CONFIRM) 15 8 = 254 ∧
      s.flag R.IMG_STATUS_NOIMAGE = true) ∧
    (∃ s : State, s.cmdBusy hLcs = false ∧ (s.boot.life : Nat) < 3 ∧ bits (s.wordN R.LCS_CONFIRM) 7 0 = (s.boot.life : Nat) + 1 ∧
      bits (s.wordN R.LCS_CONFIRM) 15 8 = 254 - (s.boot.life : Nat) ∧ ((s.boot.life : Nat) = 0 → s.flag R.IMG_STATUS_NOIMAGE = false)) ∧
    (∃ s : State, s.cmdBusy hLcs = false ∧ ((s.boot.life : Nat) = 0 ∨ (s.boot.life : Nat) = 3)) ∧
    (∃ s : State, s.cmdBusy hLcs = false ∧ (s.boot.life : Nat) ≠ 0 ∧ (s.boot.life : Nat) ≠ 3 ∧ (min 64 (s.fld R.IMG_INFO_SVN) : Nat) ≤ s.boot.svn) ∧
    (∃ s : State, s.cmdBusy hLcs = false ∧ (s.boot.life : Nat) ≠ 0 ∧ (s.boot.life : Nat) ≠ 3 ∧ s.boot.svn < (min 64 (s.fld R.IMG_INFO_SVN) : Nat)) :=
  ⟨⟨State.reset, [0, 2528, 0, 0], 1, by decide +kernel⟩,
   ⟨State.reset, List.replicate 4 0, 0, by decide +kernel⟩,
   ⟨{ State.reset with regs := [(16452, 0x10000#32)] }, [0, 1, 0, 0], 1, by decide +kernel⟩,
   ⟨{ State.reset with regs := [(16448, 0x5700#32), (16452, 0x20000#32)] }, [2048, 0, 0, 0], 0, by decide +kernel⟩,
   ⟨State.reset, by decide +kernel⟩,
   ⟨{ State.reset with regs := [(0x1E80040, 2#32)], brk.on := true }, by decide +kernel⟩,
   ⟨{ State.reset with regs := [(0x1E80040, 2#32)], brk.on := true, boot.life := 3 }, by decide +kernel⟩,
   ⟨{ State.reset with regs := [(0x1E80040, 2#32)], brk.on := true, boot.slot0 := leBytes 336 0x725F416AB47D2883C0ED81093486C78FD1B46A314FAD97FA13F96E877D0870EEDF79EAE9E9626627C9534F69372695E8B37699E0D518A4D370DBDAAAEA3788850FA03F8186D1F78FDFBAE6540AA670B31C8ADA0FFF3E737BD69520560FE0CE60000000DACF57CFE3687C76FB92E7A42DFA56EE879CC7502ACB6EBE3EC6403EE72BD2921D2E31D5C72C22B7E7D31010A04FFB5427B90ADBC19754A7847FD735FFBC699D4B4E8111D3AE092A246702E8E82C175582E4791099C33AB22DB156A9B8399FF904000000D00000FFFE0000000000000000000000000000000000000000000000000000000000000000000000000000000000000000000000000000000000000000000000006373656400000000000000000000000000000000000000000000000000000000000000000000007700000001000001500000000100000001000200010080000259425248 }, 0, true, false, by decide +kernel⟩,
   ⟨State.reset, by decide +kernel⟩,
   ⟨{ State.reset with boot.parked := some (some 0) }, some 0, by decide +kernel⟩,
   ⟨{ State.reset with regs := [(0x1E80040, 2#32)], brk.on := true, boot.parked := some none }, by decide +kernel⟩,
   ⟨{ State.reset with boot.life := 3 }, by decide +kernel⟩,
   ⟨State.reset, by decide +kernel⟩,
   ⟨{ State.reset with regs := [(0x1F90040, 2#32), (0x1FA0044, 0xFE01#32)] }, by decide +kernel⟩,
   ⟨{ State.reset with regs := [(0x1FA0044, 0xFE01#32)] }, by decide +kernel⟩,
   ⟨State.reset, by decide +kernel⟩,
   ⟨{ State.reset with boot.life := 1 }, by decide +kernel⟩,
   ⟨{ State.reset with regs := [(0x1F90048, 1#32)], boot.life := 1 }, by decide +kernel⟩⟩

/-- States and operands that meet the hypotheses of each clause of `Obligations.FlashAndJournal`. -/
theorem witness_FlashAndJournal :
    (∃ s : State, s.cmdBusy hImg = false ∧ s.boot.life = 3) ∧
    (∃ s : State, s.cmdBusy hImg = false ∧ s.boot.life ≠ 3 ∧ s.boot.op.isSome = true) ∧
    (∃ s : State, s.cmdBusy hImg = false ∧ s.boot.life ≠ 3 ∧
      (96 * 2 ^ 20 < s.wordN R.IMG_LEN ∨ inPoolOrRsv s (s.wordN R.IMG_SRC_LO + 2 ^ 32 * s.wordN R.IMG_SRC_HI) (s.wordN R.IMG_LEN) = false)) ∧
    (∃ s : State, s.cmdBusy hImg = false ∧ s.boot.life ≠ 3 ∧ s.boot.op = none ∧ s.wordN R.IMG_LEN ≤ 96 * 2 ^ 20 ∧
      inPoolOrRsv s (s.wordN R.IMG_SRC_LO + 2 ^ 32 * s.wordN R.IMG_SRC_HI) (s.wordN R.IMG_LEN) = true) ∧
    (∃ s : State, ∃ k2 : Nat, s.boot.op = some (.erase k2) ∧ k2 ≤ 1) ∧
    (∃ s : State, ∃ k2 : Nat, ∃ src : Nat, ∃ n : Nat, s.boot.op = some (.program k2 src n) ∧ k2 ≤ 1 ∧ n ≤ 64 ∧ (s.boot.slot k2).length ≤ n) ∧
    (∃ s : State, ∃ k2 : Nat, s.boot.op = some (.check k2)) ∧
    (∃ s : State, s.jq = []) ∧
    (∃ s : State, ∃ it : JItem, ∃ rest : List JItem, s.jq = it :: rest ∧ (s.boot.active : Nat) ≤ 1 ∧ (s.boot.grp (s.boot.active : Nat)).valid = true ∧
      s.boot.compacting = false ∧ (s.boot.grp (s.boot.active : Nat)).pos + 4096 ≤ 6 * 2 ^ 20 ∧ it.vals.length ≤ 1000) ∧
    (∃ s : State, ∃ it : JItem, ∃ rest : List JItem, s.jq = it :: rest ∧ (s.boot.active : Nat) ≤ 1 ∧ (s.boot.grp (s.boot.active : Nat)).valid = true ∧
      s.boot.compacting = false ∧ s.boot.tries < 2) ∧
    (∃ s : State, ∃ it : JItem, ∃ rest : List JItem, s.jq = it :: rest ∧ (s.boot.active : Nat) ≤ 1 ∧ (s.boot.grp (s.boot.active : Nat)).valid = true ∧
      s.boot.compacting = false ∧ 2 ≤ s.boot.tries) ∧
    (∃ s : State, s.cmdBusy hJnl = false ∧ s.boot.compacting = true) ∧
    (∃ s : State, s.cmdBusy hJnl = false ∧ s.boot.compacting = false) ∧
    (∃ s : State, s.boot.compacting = true ∧ (s.boot.active : Nat) ≤ 1 ∧ (s.boot.grp (s.boot.active : Nat)).pos < 2 ^ 20 ∧
      ((s.boot.grp (s.boot.active : Nat)).entries.map (fun e => entryLen e.vals)).sum < 2 ^ 20) :=
  ⟨⟨{ State.reset with boot.life := 3 }, by decide +kernel⟩,
   ⟨{ State.reset with boot.op := some (.program 1 0x300002 3) }, by decide +kernel⟩,
   ⟨{ State.reset with regs := [(0x1F9008C, 1#32)] }, by decide +kernel⟩,
   ⟨State.reset, by decide +kernel⟩,
   ⟨{ State.reset with boot.op := some (.erase 0) }, 0, by decide +kernel⟩,
   ⟨{ State.reset with boot.op := some (.program 1 0x300002 3) }, 1, 0x300002, 3, by decide +kernel⟩,
   ⟨{ State.reset with boot.op := some (.check 0) }, 0, by decide +kernel⟩,
   ⟨State.reset, by decide +kernel⟩,
   ⟨{ State.reset with jq := [{ typ := 5, key := 0, vals := [1, 2] }], boot.grp0.valid := true }, { typ := 5, key := 0, vals := [1, 2] }, [], by decide +kernel⟩,
   ⟨{ State.reset with jq := [{ typ := 5, key := 0, vals := [1, 2] }], boot.grp0.valid := true }, { typ := 5, key := 0, vals := [1, 2] }, [], by decide +kernel⟩,
   ⟨{ State.reset with jq := [{ typ := 5, key := 0, vals := [1, 2] }], boot.grp1.valid := true, boot.active := 1, boot.tries := 2 }, { typ := 5, key := 0, vals := [1, 2] }, [], by decide +kernel⟩,
   ⟨{ State.reset with boot.compacting := true }, by decide +kernel⟩,
   ⟨State.reset, by decide +kernel⟩,
   ⟨{ State.reset with boot.compacting := true }, by decide +kernel⟩⟩

/-- States and operands that meet the hypotheses of each clause of `Obligations.LogAndCounters`. -/
theorem witness_LogAndCounters :
    (∃ s : State, s.rep.logq = []) ∧
    (∃ s : State, ∃ e : LogEntry, ∃ rest : List LogEntry, s.rep.logq = e :: rest ∧ memWf s.mem = true) ∧
    (∃ s : State, s.cmdBusy hLog = false ∧ s.rep.logq.length < 256) ∧
    (∃ s : State, s.cmdBusy hLog = false ∧ 256 ≤ s.rep.logq.length) ∧
    (∃ s : State, ∃ b : Nat, ∃ bs : List Byte, s.perf.busy = some (b, bs) ∧ bs.length ≤ bankBytes - 8 ∧ s.ownsBanks hPerf b 1 = true ∧ s.rsv.lost = [] ∧ memWf s.mem = true) ∧
    (∃ s : State, ∃ b : Nat, ∃ bs : List Byte, s.perf.busy = some (b, bs) ∧ s.flag R.PERF_CTRL_FREEZE = true ∧ bitAt (s.wordN (hPerf + 0x24)) 1 = true) ∧
    (∃ s : State, ∃ b : Nat, ∃ w0 : Nat, ∃ c : Fin 256, ∃ bs : List Byte, s.perf.busy = some (b, bs) ∧ s.flag R.PERF_CTRL_FREEZE = false ∧
      bitAt (s.wordN (hPerf + 0x24)) 1 = true ∧ s.regRange 0x01F41000 0x01F42000 = [(R.PERF_CFG c, w0)] ∧ bits w0 1 0 = 1 ∧ bits w0 20 8 = 0x1F40 ∧ bits w0 25 21 = 1 ∧
      Tbl.get 0 s.rep.cnt c + 1 < 2 ^ 64) ∧
    (∃ s : State, ∃ b : Nat, ∃ w0 : Nat, ∃ w1 : Nat, ∃ bs : List Byte, s.perf.busy = some (b, bs) ∧ s.flag R.PERF_CTRL_FREEZE = true ∧
      bitAt (s.wordN (hPerf + 0x24)) 1 = false ∧ enabledRoutes s = [(w0, w1)] ∧ (bits w0 12 0 = 0x1F40 ∨ bits w0 12 0 = 0x1F00 ∨ bits w0 12 0 = 0) ∧
      (bitAt w0 30 = true ∨ bits w0 20 16 = 1) ∧ bits w1 31 28 = 8 ∧ s.fld R.LOG_CFG_MIN_SEV ≤ min (bits w0 26 24) 4 ∧ s.rep.logq.length < 256) ∧
    (∃ s : State, ∃ b : Nat, ∃ w0 : Nat, ∃ w1 : Nat, ∃ bs : List Byte, s.perf.busy = some (b, bs) ∧ s.flag R.PERF_CTRL_FREEZE = true ∧
      bitAt (s.wordN (hPerf + 0x24)) 1 = false ∧ enabledRoutes s = [(w0, w1)] ∧ (bits w0 12 0 = 0x1F40 ∨ bits w0 12 0 = 0x1F00 ∨ bits w0 12 0 = 0) ∧
      (bitAt w0 30 = true ∨ bits w0 20 16 = 1) ∧ bits w1 31 28 = 8 ∧ min (bits w0 26 24) 4 < s.fld R.LOG_CFG_MIN_SEV) ∧
    (∃ s : State, ∃ b : Nat, ∃ w0 : Nat, ∃ w1 : Nat, ∃ bs : List Byte, s.perf.busy = some (b, bs) ∧ s.flag R.PERF_CTRL_FREEZE = true ∧
      bitAt (s.wordN (hPerf + 0x24)) 1 = false ∧ enabledRoutes s = [(w0, w1)] ∧ (bits w0 12 0 = 0x1F40 ∨ bits w0 12 0 = 0x1F00 ∨ bits w0 12 0 = 0) ∧
      (bitAt w0 30 = true ∨ bits w0 20 16 = 1) ∧ bits w1 31 28 = 1 ∧ bits w1 20 16 < 24) ∧
    (∃ s : State, ∃ b : Nat, ∃ w0 : Nat, ∃ w1 : Nat, ∃ bs : List Byte, s.perf.busy = some (b, bs) ∧ s.flag R.PERF_CTRL_FREEZE = true ∧
      bitAt (s.wordN (hPerf + 0x24)) 1 = false ∧ enabledRoutes s = [(w0, w1)] ∧ (bits w0 12 0 = 0x1F40 ∨ bits w0 12 0 = 0x1F00 ∨ bits w0 12 0 = 0) ∧
      (bitAt w0 30 = true ∨ bits w0 20 16 = 1) ∧ bits w1 31 28 = 1 ∧ 24 ≤ bits w1 20 16) ∧
    (∃ s : State, ∃ b : Nat, ∃ w0 : Nat, ∃ w1 : Nat, ∃ bs : List Byte, s.perf.busy = some (b, bs) ∧ s.flag R.PERF_CTRL_FREEZE = true ∧
      bitAt (s.wordN (hPerf + 0x24)) 1 = false ∧ enabledRoutes s = [(w0, w1)] ∧ (bits w0 12 0 = 0x1F40 ∨ bits w0 12 0 = 0x1F00 ∨ bits w0 12 0 = 0) ∧
      (bitAt w0 30 = true ∨ bits w0 20 16 = 1) ∧ bits w1 31 28 = 2 ∧ Tbl.find s.rep.holds (bits w1 7 0) = none ∧ vecOpen s s.rep (bits w1 7 0) = true ∧
      bits (s.wordN (R.LOG_VEC_HOLD (bits w1 7 0))) 15 0 = 0) ∧
    (∃ s : State, ∃ b : Nat, ∃ w0 : Nat, ∃ w1 : Nat, ∃ bs : List Byte, s.perf.busy = some (b, bs) ∧ s.flag R.PERF_CTRL_FREEZE = true ∧
      bitAt (s.wordN (hPerf + 0x24)) 1 = false ∧ enabledRoutes s = [(w0, w1)] ∧ (bits w0 12 0 = 0x1F40 ∨ bits w0 12 0 = 0x1F00 ∨ bits w0 12 0 = 0) ∧
      (bitAt w0 30 = true ∨ bits w0 20 16 = 1) ∧ bits w1 31 28 = 2 ∧ Tbl.find s.rep.holds (bits w1 7 0) = none ∧ vecOpen s s.rep (bits w1 7 0) = false) ∧
    (∃ s : State, ∃ b : Nat, ∃ w0 : Nat, ∃ w1 : Nat, ∃ bs : List Byte, s.perf.busy = some (b, bs) ∧ s.flag R.PERF_CTRL_FREEZE = true ∧
      bitAt (s.wordN (hPerf + 0x24)) 1 = false ∧ enabledRoutes s = [(w0, w1)] ∧ (bits w0 12 0 = 0x1F40 ∨ bits w0 12 0 = 0x1F00 ∨ bits w0 12 0 = 0) ∧
      (bitAt w0 30 = true ∨ bits w0 20 16 = 1) ∧ bits w1 31 28 = 4) ∧
    (∃ s : State, s.cmdBusy hPerf = false ∧ s.perf.busy.isSome = true) ∧
    (∃ s : State, s.cmdBusy hPerf = false ∧ s.perf.busy = none ∧
      (s.faultBit hPerf 0 = true ∨ s.flag R.PERF_POOL_VALID = false ∨ s.ownsBanks hPerf (s.fld R.PERF_POOL_BANK) 1 = false)) ∧
    (∃ s : State, (s.fld R.PERF_CTRL_SNAP_PERIOD = 0 ∨ s.perf.busy.isSome = true ∨ s.faultBit hPerf 0 = true ∨ s.flag R.PERF_POOL_VALID = false ∨ s.ownsBanks hPerf (s.fld R.PERF_POOL_BANK) 1 = false)) ∧
    (∃ s : State, s.perf.busy = none ∧ s.faultBit hPerf 0 = false ∧ s.flag R.PERF_POOL_VALID = true ∧ s.ownsBanks hPerf (s.fld R.PERF_POOL_BANK) 1 = true ∧ s.rsv.lost = [] ∧
      memWf s.mem = true ∧ s.cmdBusy hPerf = false) ∧
    (∃ s : State, s.perf.busy = none ∧ s.faultBit hPerf 0 = false ∧ s.flag R.PERF_POOL_VALID = true ∧ s.ownsBanks hPerf (s.fld R.PERF_POOL_BANK) 1 = true ∧ s.rsv.lost = [] ∧
      memWf s.mem = true ∧ s.fld R.PERF_CTRL_SNAP_PERIOD ≠ 0) ∧
    (∃ s : State, s.cmdBusy hLog = true) ∧
    (∃ s : State, s.cmdBusy hPerf = true) :=
  ⟨⟨State.reset, by decide +kernel⟩,
   ⟨{ State.reset with rep.logq := [{ unit := 3, kind := 1, sev := 1, code := 3, arg0 := 0, arg1 := 0, dt := 7, coast := false }] }, { unit := 3, kind := 1, sev := 1, code := 3, arg0 := 0, arg1 := 0, dt := 7, coast := false }, [], by decide +kernel⟩,
   ⟨State.reset, by decide +kernel⟩,
   ⟨{ State.reset with rep.logq := List.replicate 256 { unit := 0, kind := 0, sev := 0, code := 0, arg0 := 0, arg1 := 0, dt := 0, coast := false } }, by decide +kernel⟩,
   ⟨{ State.reset with regs := [(0x18223BC, 0x11F40#32)], perf.busy := some (1263, [1#8, 2#8, 3#8, 4#8, 5#8]) }, 1263, [1#8, 2#8, 3#8, 4#8, 5#8], by decide +kernel⟩,
   ⟨{ State.reset with regs := [(0x1F40024, 2#32), (0x1F40040, 1#32)], perf.busy := some (5, [1#8, 2#8, 3#8, 4#8, 5#8]) }, 5, [1#8, 2#8, 3#8, 4#8, 5#8], by decide +kernel⟩,
   ⟨{ State.reset with regs := [(0x1F40024, 2#32), (0x1F41FF0, 0x3F4001#32)], perf.busy := some (1263, [1#8, 2#8, 3#8, 4#8, 5#8]) }, 1263, 0x3F4001, 255, [1#8, 2#8, 3#8, 4#8, 5#8], by decide +kernel⟩,
   ⟨{ State.reset with regs := [(0x1F11008, 0x84011F40#32), (0x1F1100C, 0x80180007#32), (0x1F40040, 1#32)], perf.busy := some (0, [1#8, 2#8, 3#8, 4#8, 5#8]) }, 0, 0x84011F40, 0x80180007, [1#8, 2#8, 3#8, 4#8, 5#8], by decide +kernel⟩,
   ⟨{ State.reset with regs := [(0x1F10040, 4#32), (0x1F11008, 0x82010000#32), (0x1F1100C, 0x80170007#32), (0x1F40040, 1#32)], perf.busy := some (0, [1#8, 2#8, 3#8, 4#8, 5#8]) }, 0, 0x82010000, 0x80170007, [1#8, 2#8, 3#8, 4#8, 5#8], by decide +kernel⟩,
   ⟨{ State.reset with regs := [(0x1F11008, 0x87011F40#32), (0x1F1100C, 0x10000007#32), (0x1F40040, 1#32)], perf.busy := some (5, [1#8, 2#8, 3#8, 4#8, 5#8]) }, 5, 0x87011F40, 0x10000007, [1#8, 2#8, 3#8, 4#8, 5#8], by decide +kernel⟩,
   ⟨{ State.reset with regs := [(0x1F11008, 0xC4011F00#32), (0x1F1100C, 0x101F0000#32), (0x1F40040, 1#32)], perf.busy := some (0, [1#8, 2#8, 3#8, 4#8, 5#8]) }, 0, 0xC4011F00, 0x101F0000, [1#8, 2#8, 3#8, 4#8, 5#8], by decide +kernel⟩,
   ⟨{ State.reset with regs := [(0x1D30044, 0x101#32), (0x1D3800C, 0#32), (0x1F11008, 0xC2011F40#32), (0x1F1100C, 0x20180000#32), (0x1F40040, 1#32)], perf.busy := some (1263, [1#8, 2#8, 3#8, 4#8, 5#8]) }, 1263, 0xC2011F40, 0x20180000, [1#8, 2#8, 3#8, 4#8, 5#8], by decide +kernel⟩,
   ⟨{ State.reset with regs := [(0x1F11008, 0x83011F00#32), (0x1F1100C, 0x201F0007#32), (0x1F40040, 1#32)], perf.busy := some (5, [1#8, 2#8, 3#8, 4#8, 5#8]) }, 5, 0x83011F00, 0x201F0007, [1#8, 2#8, 3#8, 4#8, 5#8], by decide +kernel⟩,
   ⟨{ State.reset with regs := [(0x1F11008, 0xC7010000#32), (0x1F1100C, 0x40170000#32), (0x1F40040, 1#32)], perf.busy := some (5, [1#8, 2#8, 3#8, 4#8, 5#8]) }, 5, 0xC7010000, 0x40170000, [1#8, 2#8, 3#8, 4#8, 5#8], by decide +kernel⟩,
   ⟨{ State.reset with perf.busy := some (1263, []) }, by decide +kernel⟩,
   ⟨State.reset, by decide +kernel⟩,
   ⟨State.reset, by decide +kernel⟩,
   ⟨{ State.reset with regs := [(0x1821014, 0x11F40#32), (0x1F40044, 0x80000005#32)] }, by decide +kernel⟩,
   ⟨{ State.reset with regs := [(0x1821014, 0x11F40#32), (0x1F40040, 0x10000#32), (0x1F40044, 0x80000005#32)] }, by decide +kernel⟩,
   ⟨{ State.reset with rep.cmd := [(0x1F10000, { status := 0, code := 0, busy := true })] }, by decide +kernel⟩,
   ⟨{ State.reset with rep.cmd := [(0x1F40000, { status := 0, code := 0, busy := true })] }, by decide +kernel⟩⟩

/-- States and operands that meet the hypotheses of each clause of `Obligations.RegisterAccess`. -/
theorem witness_RegisterAccess :
    (∃ path : Path, ∃ o : BitVec 25, plainWord path (o.toNat : Nat) = true ∧ fieldsOf (o.toNat : Nat) ≠ []) ∧
    (∃ path : Path, ∃ o : BitVec 25, plainWord path (o.toNat : Nat) = true ∧ fieldsOf (o.toNat : Nat) = []) ∧
    (∃ s : State, ∃ path : Path, ∃ o : BitVec 25, plainRead s path (o.toNat : Nat) = true ∧ fieldsOf (o.toNat : Nat) = [] ∧ isLo (o.toNat : Nat) = false ∧
      ((o.toNat : Nat) < 4 ∨ isLo ((o.toNat : Nat) - 4) = false)) ∧
    (∃ o : BitVec 25, ∃ h : Nat, isLeaf h = true ∧ (o.toNat : Nat) = h + (0 : Nat)) ∧
    (∃ o : BitVec 25, ∃ h : Nat, isLeaf h = true ∧ (o.toNat : Nat) = h + (4 : Nat)) ∧
    (∃ o : BitVec 25, ∃ h : Nat, isLeaf h = true ∧ (o.toNat : Nat) = h + (8 : Nat)) ∧
    (∃ o : BitVec 25, ∃ h : Nat, isLeaf h = true ∧ (o.toNat : Nat) = h + (0x14 : Nat) ∧ h ≠ hBank) ∧
    (∃ o : BitVec 25, ∃ h : Nat, isLeaf h = true ∧ (o.toNat : Nat) = h + (0x18 : Nat)) ∧
    (∃ o : BitVec 25, ∃ h : Nat, isLeaf h = true ∧ (o.toNat : Nat) = h + (0x20 : Nat)) ∧
    (∃ o : BitVec 25, ∃ h : Nat, isLeaf h = true ∧ (o.toNat : Nat) = h + (0x24 : Nat)) ∧
    (∃ s : State, ∃ o : BitVec 25, ∃ h : Nat, isLeaf h = true ∧ (o.toNat : Nat) = h + (0x2C : Nat) ∧ Tbl.find s.rep.fwd h = none) ∧
    (∃ o : BitVec 25, ∃ h : Nat, ∃ n : Nat, isLeaf h = true ∧ (o.toNat : Nat) = h + n ∧
      (n = 0x0C ∨ n = 0x10 ∨ n = 0x1C ∨ n = 0x28 ∨ n = 0x30 ∨ n = 0x34 ∨ n = 0x38 ∨ n = 0x3C)) ∧
    (∃ o : BitVec 25, ∃ h : Nat, isBasin h = true ∧ (o.toNat : Nat) = h + 0x0C) ∧
    (∃ o : BitVec 25, ∃ h : Nat, isBasin h = true ∧ (o.toNat : Nat) = h + 0x10) ∧
    (∃ o : BitVec 25, ∃ h : Nat, isBasin h = true ∧ (o.toNat : Nat) = h + 0x18) ∧
    (∃ o : BitVec 25, ∃ h : Nat, isBasin h = true ∧ (o.toNat : Nat) = h + 0x20) ∧
    (∃ o : BitVec 25, ∃ h : Nat, ∃ n : Nat, isBasin h = true ∧ n < (members h).length ∧ (o.toNat : Nat) = h + 0x800 + 4 * n) ∧
    (∃ s : State, 2 ≤ s.boot.life) ∧
    (∃ s : State, ∃ o : BitVec 25, s.boot.life < 2 ∧ inUnit (o.toNat : Nat) = false) ∧
    (∃ s : State, ∃ o : BitVec 25, s.boot.life < 2 ∧ inUnit (o.toNat : Nat) = true) ∧
    (∃ s : State, ∃ k : Fin 4, lnkUp s k = false) ∧
    (∃ s : State, ∃ k : Fin 4, lnkUp s k = true ∧ s.flag R.MGMT_CFG_EN = false) ∧
    (∃ s : State, ∃ k : Fin 4, ∃ bs : List Byte, ∃ key : List Byte, lnkUp s k = true ∧ s.flag R.MGMT_CFG_EN = true ∧
      (leAt bs 0 2 ≠ 0x4D57 ∨ leAt bs 2 1 ≠ 1 ∨ (leAt bs 3 1 : Nat) = 0 ∨ 64 < (leAt bs 3 1 : Nat) ∨ bs.length ≠ 56 + 8 * (leAt bs 3 1 : Nat) ∨ leAt bs 8 8 ≠ s.pair R.MGMT_BOOT_ID_LO ∨ leAt bs 16 8 ≤ s.pair R.MGMT_MSEQ ∨ s.net.key = none ∨ (s.net.key = some key ∧
      bs.drop (bs.length - 32) ≠ hmacSha256 key (bs.take (bs.length - 32))))) ∧
    (∃ s : State, ∃ k : Fin 4, ∃ bs : List Byte, ∃ key : List Byte, lnkUp s k = true ∧ s.flag R.MGMT_CFG_EN = true ∧ leAt bs 0 4 = 0x01014D57 ∧ leAt bs 4 4 = 0 ∧
      bs.length = 64 ∧ leAt bs 8 8 = s.pair R.MGMT_BOOT_ID_LO ∧ s.pair R.MGMT_MSEQ < leAt bs 16 8 ∧ s.net.key = some key ∧ bs.drop 32 = hmacSha256 key (bs.take 32) ∧
      leAt bs 24 4 = 0x44 ∧ s.wordN 0x44 = 0x10B) ∧
    (∃ s : State, ∃ o : BitVec 25, ∃ v : Word, ∃ k : Fin 4, ∃ bs : List Byte, ∃ key : List Byte, lnkUp s k = true ∧ s.flag R.MGMT_CFG_EN = true ∧ leAt bs 0 4 = 0x01014D57 ∧
      leAt bs 4 4 = 0 ∧ bs.length = 64 ∧ leAt bs 8 8 = s.pair R.MGMT_BOOT_ID_LO ∧ s.pair R.MGMT_MSEQ < leAt bs 16 8 ∧ s.net.key = some key ∧
      bs.drop 32 = hmacSha256 key (bs.take 32) ∧ leAt bs 24 4 = 0x80000000 + (o.toNat : Nat) ∧ (o.toNat : Nat) % 4 = 0 ∧ v.toNat = leAt bs 28 4) :=
  ⟨⟨.brook, 0x1D40048#25, by decide +kernel⟩,
   ⟨.pcie, 0x80#25, by decide +kernel⟩,
   ⟨State.reset, .pcie, 0x1000#25, by decide +kernel⟩,
   ⟨0x1C3F000#25, 0x1C3F000, by decide +kernel⟩,
   ⟨0x1413004#25, 0x1413000, by decide +kernel⟩,
   ⟨0x1A49008#25, 0x1A49000, by decide +kernel⟩,
   ⟨0x1A11014#25, 0x1A11000, by decide +kernel⟩,
   ⟨0x1A3B018#25, 0x1A3B000, by decide +kernel⟩,
   ⟨0x1C2B020#25, 0x1C2B000, by decide +kernel⟩,
   ⟨0x832024#25, 0x832000, by decide +kernel⟩,
   ⟨State.reset, 0x101102C#25, 0x1011000, by decide +kernel⟩,
   ⟨0x821010#25, 0x821000, 16, by decide +kernel⟩,
   ⟨0x80000C#25, 0x800000, by decide +kernel⟩,
   ⟨0x1F00010#25, 0x1F00000, by decide +kernel⟩,
   ⟨0x1F80018#25, 0x1F80000, by decide +kernel⟩,
   ⟨0x1000020#25, 0x1000000, by decide +kernel⟩,
   ⟨0x800#25, 0, 0, by decide +kernel⟩,
   ⟨{ State.reset with boot.life := 2 }, by decide +kernel⟩,
   ⟨State.reset, 0x1000#25, by decide +kernel⟩,
   ⟨State.reset, 0#25, by decide +kernel⟩,
   ⟨State.reset, 0, by decide +kernel⟩,
   ⟨{ State.reset with regs := [(0x1D12044, 1#32)] }, 2, by decide +kernel⟩,
   ⟨{ State.reset with regs := [(0x1D10044, 1#32), (0x1D50040, 1#32)] }, 0, [], [], by decide +kernel⟩,
   ⟨{ State.reset with regs := [(0x1D10044, 1#32), (0x1D50040, 1#32), (0x1D50044, 7#32)], net.key := some [1#8, 2#8, 3#8] }, 0, [0x57#8, 0x4D#8, 1#8, 1#8] ++ List.replicate 4 0#8 ++ [7#8] ++ List.replicate 7 0#8 ++ [9#8] ++ List.replicate 7 0#8 ++ [0x44#8] ++ List.replicate 7 0#8 ++ [0x8E#8, 0xCB#8, 0x99#8, 0x83#8, 0x3D#8, 0xB7#8, 0x87#8, 0x32#8, 0x39#8, 0x1D#8, 0x5B#8, 2#8, 0xB6#8, 0xEA#8, 0x3B#8, 0x9D#8, 0x3D#8, 0x14#8, 0xD9#8, 0x5A#8, 0xE5#8, 0x1F#8, 0x9B#8, 0x61#8, 0x94#8, 0x42#8, 0xE0#8, 0x28#8, 0x89#8, 0x62#8, 0x9B#8, 6#8], [1#8, 2#8, 3#8], by decide +kernel⟩,
   ⟨{ State.reset with regs := [(0x1D12044, 1#32), (0x1D50040, 1#32), (0x1D50044, 7#32)], net.key := some [1#8, 2#8, 3#8] }, 0x100048#25, 0#32, 2, [0x57#8, 0x4D#8, 1#8, 1#8] ++ List.replicate 4 0#8 ++ [7#8] ++ List.replicate 7 0#8 ++ [9#8] ++ List.replicate 7 0#8 ++ [0x48#8, 0#8, 0x10#8, 0x80#8] ++ List.replicate 4 0#8 ++ [9#8, 0xA1#8, 0x6F#8, 0xB2#8, 0xBD#8, 0xDE#8, 0x8A#8, 0xA#8, 0x4D#8, 0x71#8, 0xFC#8, 0x54#8, 0x38#8, 0xB6#8, 0xCA#8, 0xA9#8, 0x28#8, 0x8E#8, 0xEE#8, 0x94#8, 0x7D#8, 0x95#8, 0x55#8, 0xAF#8, 0x64#8, 0x62#8, 0xCC#8, 0x1A#8, 0xB7#8, 0x63#8, 0x61#8, 0x51#8], [1#8, 2#8, 3#8], by decide +kernel⟩⟩

/-- States and operands that meet the hypotheses of each clause of `Obligations.PairLatch`. -/
theorem witness_PairLatch :
    (∃ path : Path, ∃ o : BitVec 25, ∃ o2 : BitVec 25, ∃ lo2 : Nat, (o.toNat : Nat) + 4 = o2.toNat ∧ lo2 < 2 ^ 25 ∧ isLo (o.toNat : Nat) = true ∧
      rowAt (readersOf path) (o.toNat : Nat) = none ∧ isDtWord (o.toNat : Nat) = false) ∧
    (∃ path : Path, ∃ o : BitVec 25, ∃ o2 : BitVec 25, ∃ lo2 : Nat, (o.toNat : Nat) + 4 = o2.toNat ∧ lo2 < 2 ^ 25 ∧ isLo (o.toNat : Nat) = true ∧
      rowAt (readersOf path) ((o.toNat : Nat) + 4) = none ∧ isDtWord ((o.toNat : Nat) + 4) = false) ∧
    (∃ s : State, ∃ path : Path, ∃ o : BitVec 25, ∃ o2 : BitVec 25, ∃ lo2 : Nat, (o.toNat : Nat) + 4 = o2.toNat ∧ lo2 < 2 ^ 25 ∧ isLo (o.toNat : Nat) = true ∧
      plainRead s path (o.toNat : Nat) = true ∧ plainRead s path ((o.toNat : Nat) + 4) = true) ∧
    (∃ path : Path, ∃ o : BitVec 25, ∃ o2 : BitVec 25, ∃ lo2 : Nat, (o.toNat : Nat) + 4 = o2.toNat ∧ lo2 < 2 ^ 25 ∧ isLo (o.toNat : Nat) = true ∧
      plainWord path (o.toNat : Nat) = true) ∧
    (∃ path : Path, ∃ o : BitVec 25, ∃ o2 : BitVec 25, ∃ lo2 : Nat, (o.toNat : Nat) + 4 = o2.toNat ∧ lo2 < 2 ^ 25 ∧ isLo (o.toNat : Nat) = true ∧
      plainWord path ((o.toNat : Nat) + 4) = true) :=
  ⟨⟨.brook, 0x1D40048#25, 0x1D4004C#25, 0, by decide +kernel⟩,
   ⟨.brook, 0x1D40048#25, 0x1D4004C#25, 0, by decide +kernel⟩,
   ⟨State.reset, .brook, 0x1D23E0C#25, 0x1D23E10#25, 0, by decide +kernel⟩,
   ⟨.brook, 0x1D40048#25, 0x1D4004C#25, 0, by decide +kernel⟩,
   ⟨.brook, 0x1D40048#25, 0x1D4004C#25, 0, by decide +kernel⟩⟩

/-- States and operands that meet the hypotheses of each clause of `Obligations.CommandWrites`. -/
theorem witness_CommandWrites :
    (∃ s : State, ∃ v : Word, ∃ be : BitVec 4, bitAt be.toNat 0 = true ∧ s.cmdBusy hLcs = false ∧ (v.toNat % 256 : Nat) = 1) ∧
    (∃ s : State, ∃ v : Word, ∃ be : BitVec 4, bitAt be.toNat 0 = true ∧ s.cmdBusy hLcs = false ∧ (v.toNat % 256 : Nat) = 2) ∧
    (∃ s : State, ∃ o : BitVec 25, ∃ v : Word, ∃ be : BitVec 4, ∃ h : Nat, isLeaf h = true ∧ o.toNat = h + 0x28 ∧ bitAt be.toNat 0 = true ∧ s.cmdBusy h = false ∧
      ((v.toNat % 256 : Nat) = 0 ∨ codesOf (unitClass h) < (v.toNat % 256 : Nat))) ∧
    (∃ s : State, ∃ o : BitVec 25, ∃ h : Nat, isLeaf h = true ∧ o.toNat = h + 0x28 ∧ s.cmdBusy h = true) ∧
    (∃ o : BitVec 25, ∃ be : BitVec 4, ∃ h : Nat, isHeader h = true ∧ o.toNat = h + 0x28 ∧ bitAt be.toNat 0 = false) ∧
    (∃ be : BitVec 4, ∃ b : Nat, isBasin b = true ∧ bitAt be.toNat 0 = true) ∧
    (∃ o : BitVec 25, isBasin o.toNat = false) ∧
    (∃ s : State, ∃ o : BitVec 25, ∃ b : Nat, isBasin b = true ∧ o.toNat = b ∧ s.cmdBusy b = true ∧ (Tbl.find s.rep.fwd b).isSome = true) ∧
    (∃ s : State, ∃ o : BitVec 25, ∃ b : Nat, isBasin b = true ∧ o.toNat = b ∧ s.cmdBusy b = true ∧ Tbl.find s.rep.fwd b = none) ∧
    (∃ s : State, ∃ o : BitVec 25, ∃ v : Word, ∃ b : Nat, isBasin b = true ∧ o.toNat = b ∧ s.cmdBusy b = false ∧ ((v.toNat % 256 : Nat) = 0 ∨ 5 < (v.toNat % 256 : Nat))) ∧
    (∃ s : State, ∃ o : BitVec 25, ∃ v : Word, o.toNat = 0x1F00000 ∧ s.cmdBusy 0x1F00000 = false ∧ (v.toNat % 256 : Nat) = 3) ∧
    (∃ s : State, ∃ o : BitVec 25, o.toNat = 0x1C00000 ∧ s.cmdBusy 0x1C00000 = false ∧ (∀ j : Fin 32, s.mState j < 4)) :=
  ⟨⟨State.reset, 1#32, 1#4, by decide +kernel⟩,
   ⟨State.reset, 2#32, 1#4, by decide +kernel⟩,
   ⟨State.reset, 0x1410028#25, 0#32, 1#4, 0x1410000, by decide +kernel⟩,
   ⟨{ State.reset with rep.cmd := [(0x823000, { status := 0, code := 0, busy := true })] }, 0x823028#25, 0x823000, by decide +kernel⟩,
   ⟨0x1F00028#25, 0#4, 0x1F00000, by decide +kernel⟩,
   ⟨1#4, 0, by decide +kernel⟩,
   ⟨1#25, by decide +kernel⟩,
   ⟨{ State.reset with rep.fwd := [(0x800000, { code := 0, left := [], worst := 0 })] }, 0x800000#25, 0x800000, by decide +kernel⟩,
   ⟨{ State.reset with rep.cmd := [(0x1F10000, { status := 0, code := 0, busy := true })] }, 0#25, 0, by decide +kernel⟩,
   ⟨State.reset, 0x1F00000#25, 0#32, 0x1F00000, by decide +kernel⟩,
   ⟨State.reset, 0x1F00000#25, 3#32, by decide +kernel⟩,
   ⟨State.reset, 0x1C00000#25, by decide +kernel⟩⟩

/-- States and operands that meet the hypotheses of each clause of `Obligations.CommitSnapshots`. -/
theorem witness_CommitSnapshots :
    (∃ o : BitVec 25, ∃ h : Nat, o.toNat = h ∧ isLeaf h = true ∧ unitClass h ∈ ([0x200, 0x500, 0x501, 0x502, 0x600, 0x601, 0x602, 0x800, 0x801, 0x802, 0xD00, 0xE00])) ∧
    (∃ o : BitVec 25, o.toNat = (hBank : Nat)) ∧
    (∃ o : BitVec 25, ∃ h : Nat, o.toNat = h ∧ unitClass h ∉ ([0x200, 0x500, 0x501, 0x502, 0x600, 0x601, 0x602, 0x800, 0x801, 0x802, 0xD00, 0xE00]) ∧ h ≠ hBank) ∧
    (∃ o : BitVec 25, ∃ v : Word, ∃ be : BitVec 4, ∃ h : Nat, o.toNat = h ∧ isLeaf h = true ∧ bitAt be.toNat 0 = true ∧ bitAt v.toNat 0 = true) ∧
    (∃ o : BitVec 25, ∃ v : Word, ∃ be : BitVec 4, ∃ h : Nat, o.toNat = h ∧ isBasin h = true ∧ bitAt be.toNat 0 = true ∧ bitAt v.toNat 0 = true) ∧
    (∃ o : BitVec 25, ∃ v : Word, ∃ be : BitVec 4, ∃ h : Nat, o.toNat = h ∧ isHeader h = true ∧ (bitAt be.toNat 0 = false ∨ bitAt v.toNat 0 = false)) ∧
    (∃ o : BitVec 25, ∃ h : Nat, o.toNat = h ∧ isBasin h = false) ∧
    (∃ o : BitVec 25, ∃ h : Nat, ∃ off : Nat, ∃ x : Nat, ∃ ws : Tbl Nat, o.toNat = h ∧ (ws.map Prod.fst).Nodup ∧ Tbl.find ws off = some x) ∧
    (∃ o : BitVec 25, ∃ h : Nat, ∃ off : Nat, ∃ ws : Tbl Nat, o.toNat = h ∧ Tbl.find ws off = none) ∧
    (∃ s : State, ∃ o : BitVec 25, ∃ h : Nat, o.toNat = h ∧ s.snapOf hClk = none) ∧
    (∃ s : State, ∃ o : BitVec 25, ∃ h : Nat, ∃ ws : Tbl Nat, o.toNat = h ∧ s.snapOf hClk = some ws ∧
      (ws.all (fun e => decide (hClk ≤ e.1) && decide (e.1 < hClk + 0x1000)) = true)) :=
  ⟨⟨0x100000#25, 0x100000, by decide +kernel⟩,
   ⟨0x1020000#25, by decide +kernel⟩,
   ⟨0#25, 0, by decide +kernel⟩,
   ⟨0x1A39000#25, 1#32, 1#4, 0x1A39000, by decide +kernel⟩,
   ⟨0#25, 1#32, 1#4, 0, by decide +kernel⟩,
   ⟨0#25, 0#32, 0#4, 0, by decide +kernel⟩,
   ⟨0x100000#25, 0x100000, by decide +kernel⟩,
   ⟨0#25, 0, 0x10006C, 0xFFFFFFFF, [(0x10006C, 0xFFFFFFFF)], by decide +kernel⟩,
   ⟨0x1410000#25, 0x1410000, 0, [], by decide +kernel⟩,
   ⟨State.reset, 0x1410000#25, 0x1410000, by decide +kernel⟩,
   ⟨{ State.reset with snaps := [{ hdr := 0x100000, words := [(0x100040, 0x8C9069EB), (0x10004C, 0xCF2550CE), (0x100060, 0x80000), (0x100064, 0xC743C5F), (0x100068, 0x2000000), (0x10006C, 0)] }] }, 0x100000#25, 0x100000, [(0x100040, 0x8C9069EB), (0x10004C, 0xCF2550CE), (0x100060, 0x80000), (0x100064, 0xC743C5F), (0x100068, 0x2000000), (0x10006C, 0)], by decide +kernel⟩⟩

/-- States and operands that meet the hypotheses of each clause of `Obligations.StepTakesFrontCommand`. -/
theorem witness_StepTakesFrontCommand :
    (∃ s : State, ∃ c : Instr, ∃ rest : List Instr, s.pending = c :: rest) ∧
    (∃ s : State, s.pending = [] ∧ s.rfl.any (fun e => e.2.win.isSome) = false ∧ (∀ k : Fin 4, (s.pairSt k).wait = []) ∧ (s.snapOf hCol = none ∨ dpyRuns s = true ∨ (s.tclk + 1) % 16 ≠ 0)) ∧
    (∃ s : State, ∃ ws : Tbl Nat, s.pending = [] ∧ s.rfl.any (fun e => e.2.win.isSome) = false ∧ (∀ k : Fin 4, (s.pairSt k).wait = []) ∧ (s.tclk + 1) % 16 = 0 ∧ dpyRuns s = false ∧ s.snapOf hCol = some ws) ∧
    (∃ s : State, s.pending = [] ∧ s.rfl.any (fun e => e.2.win.isSome) = false ∧ (∀ k : Fin 4, (s.pairSt k).wait = []) ∧ (s.flag R.PERF_CTRL_FREEZE = true ∨ s.regRange 0x01F41000 0x01F42000 = [])) ∧
    (∃ s : State, ∃ n : Fin 256, ∃ w : Nat, s.pending = [] ∧ s.rfl.any (fun e => e.2.win.isSome) = false ∧ (∀ k : Fin 4, (s.pairSt k).wait = []) ∧ s.flag R.PERF_CTRL_FREEZE = false ∧ s.regRange 0x01F41000 0x01F42000 = [(R.PERF_CFG n, w)] ∧ bits w 1 0 = 2 ∧
      bits w 19 8 = 0x101 ∧ (s.rsv.window = false ∨ s.tclk % 4 ≠ 0)) ∧
    (∃ s : State, ∃ n : Fin 256, ∃ w : Nat, s.pending = [] ∧ s.rfl.any (fun e => e.2.win.isSome) = false ∧ (∀ k : Fin 4, (s.pairSt k).wait = []) ∧ s.flag R.PERF_CTRL_FREEZE = false ∧ s.regRange 0x01F41000 0x01F42000 = [(R.PERF_CFG n, w)] ∧ bits w 1 0 = 2 ∧
      bits w 19 8 = 0x101 ∧ s.rsv.window = true ∧ s.tclk % 4 = 0 ∧ Tbl.get 0 s.rep.cnt n + 1 ≠ 2 ^ 64) ∧
    (∃ s : State, ∃ n : Fin 256, ∃ w : Nat, s.pending = [] ∧ s.rfl.any (fun e => e.2.win.isSome) = false ∧ (∀ k : Fin 4, (s.pairSt k).wait = []) ∧ s.flag R.PERF_CTRL_FREEZE = false ∧ s.regRange 0x01F41000 0x01F42000 = [(R.PERF_CFG n, w)] ∧ bits w 1 0 = 2 ∧
      bits w 19 8 = 0x101 ∧ s.rsv.window = true ∧ s.tclk % 4 = 0 ∧ Tbl.get 0 s.rep.cnt n + 1 = 2 ^ 64) ∧
    (∃ s : State, ∃ n : Fin 256, ∃ w : Nat, s.pending = [] ∧ s.rfl.any (fun e => e.2.win.isSome) = false ∧ (∀ k : Fin 4, (s.pairSt k).wait = []) ∧ s.flag R.PERF_CTRL_FREEZE = false ∧ s.regRange 0x01F41000 0x01F42000 = [(R.PERF_CFG n, w)] ∧ bits w 1 0 = 2 ∧
      bits w 19 8 = 0x12F ∧ Tbl.get 0 s.rep.cnt n + 1 ≠ 2 ^ 64) ∧
    (∃ s : State, ∃ j : Nat, ∃ m : Nat, ∃ y : RCore, ∃ iw : Nat, s.pending = [] ∧ s.rfl = [(j, y)] ∧ y.win = some iw ∧ winBuffer y iw = some m ∧ m < 64 ∧ (s.tclk + 1) % 4 = 0) :=
  ⟨⟨{ State.reset with pending := [.rivLockWindowEnd 0] }, .rivLockWindowEnd 0, [], by decide +kernel⟩,
   ⟨State.reset, by decide +kernel⟩,
   ⟨{ State.reset with tclk := 31, snaps := [{ hdr := 0xC30000, words := [(0xC30040, 3)] }] }, [(0xC30040, 3)], by decide +kernel⟩,
   ⟨State.reset, by decide +kernel⟩,
   ⟨{ State.reset with regs := [(0x1F41000, 0x10106#32)] }, 0, 0x10106, by decide +kernel⟩,
   ⟨{ State.reset with regs := [(0x1F413F0, 0x10106#32)], rsv.window := true }, 63, 0x10106, by decide +kernel⟩,
   ⟨{ State.reset with regs := [(0x1F41FF0, 0x10106#32)], rep.cnt := [(255, 0xFFFFFFFFFFFFFFFF)], rsv.window := true }, 255, 0x10106, by decide +kernel⟩,
   ⟨{ State.reset with regs := [(0x1F41FF0, 0x12F02#32)] }, 255, 0x12F02, by decide +kernel⟩,
   ⟨{ State.reset with tclk := 3, rfl := [(43, { RCore.init with run := 3, ewin := 0x45, main.a := [(0, 0x40000)], win := some 0x4C00000 })] }, 43, 5, { RCore.init with run := 3, ewin := 0x45, main.a := [(0, 0x40000)], win := some 0x4C00000 }, 0x4C00000, by decide +kernel⟩⟩

/-- States and operands that meet the hypotheses of each clause of `Obligations.ResetState`. -/
theorem witness_ResetState :
    ∃ off : Nat, off < 0x1E80000 ∧ off ∉ ([0x40, 0x44, 0x58, 0x4040, 0x100084, 0x1440060, 0x18100A8] : List Nat) ∧ (off < 0x400000 ∨ 0x500000 ≤ off) ∧
      (off < 0x1420000 ∨ 0x1430000 ≤ off) ∧ (off < 0x1811000 ∨ 0x1822400 ≤ off) ∧ (off < 0x1D38000 ∨ 0x1D39000 ≤ off) :=
  ⟨0, by decide +kernel⟩

/-- States and operands that meet the hypotheses of each clause of `Obligations.MemoryCanonicalKept`. -/
theorem witness_MemoryCanonicalKept :
    ∃ s : State, memWf s.mem = true :=
  ⟨State.reset, by decide +kernel⟩
end

section
/-! Bits of the words that registers hold, and what writes of whole words and of 64-bit counters leave unchanged. -/

namespace Sys2Proof.Machine

open Sys2Proof.Claims

theorem bitAt_and (x y i : Nat) : bitAt (x &&& y) i = (bitAt x i && bitAt y i) := by
  simp only [bitAt_eq_testBit, Nat.testBit_and]

theorem bitAt_or (x y i : Nat) : bitAt (x ||| y) i = (bitAt x i || bitAt y i) := by
  simp only [bitAt_eq_testBit, Nat.testBit_or]

theorem bitAt_zero (i : Nat) : bitAt 0 i = false := by simp [bitAt_eq_testBit]

/-- Bits of the complement of a 32-bit mask. -/
theorem bitAt_compl {m i : Nat} (hm : m < 2 ^ 32) (hi : i < 32) : bitAt (0xFFFFFFFF - m) i = !bitAt m i := by
  have e : 0xFFFFFFFF - m = 2 ^ 32 - (m + 1) := by omega
  simp only [bitAt_eq_testBit, e, Nat.testBit_two_pow_sub_succ hm, hi, decide_true, Bool.true_and]

/-- Taking from a number the bits it shares with another leaves its other bits. -/
theorem testBit_sub_and (m k i : Nat) : (m - (m &&& k)).testBit i = (m.testBit i && !k.testBit i) := by
  induction i generalizing m k with
  | zero =>
    have hmod : (m &&& k) % 2 = 1 ↔ m % 2 = 1 ∧ k % 2 = 1 := Nat.and_mod_two_eq_one
    have hle : m &&& k ≤ m := Nat.and_le_left
    rw [Nat.testBit_zero, Nat.testBit_zero, Nat.testBit_zero, ← decide_not, ← Bool.decide_and, decide_eq_decide]
    omega
  | succ i ih =>
    have hhalf : (m - (m &&& k)) / 2 = m / 2 - (m / 2 &&& k / 2) := by
      have hmod : (m &&& k) % 2 = 1 ↔ m % 2 = 1 ∧ k % 2 = 1 := Nat.and_mod_two_eq_one
      have hle : m &&& k ≤ m := Nat.and_le_left
      rw [← Nat.and_div_two]
      omega
    rw [Nat.testBit_add_one, Nat.testBit_add_one, Nat.testBit_add_one, hhalf, ih]

theorem bitAt_sub_and (m k i : Nat) : bitAt (m - (m &&& k)) i = (bitAt m i && !bitAt k i) := by
  simp only [bitAt_eq_testBit, testBit_sub_and]

/-- The mask that clears the bits of `c` but for those of `kept`. -/
theorem bitAt_clearMask {c i : Nat} (kept : Nat) (hc : c < 2 ^ 32) (hi : i < 32) :
    bitAt (0xFFFFFFFF - (c - (c &&& kept))) i = !(bitAt c i && !bitAt kept i) := by
  have hlt : c - (c &&& kept) < 2 ^ 32 := by omega
  rw [bitAt_compl hlt hi, bitAt_sub_and]

theorem bitAt_mod_word {i : Nat} (x : Nat) (hi : i < 32) : bitAt (x % 2 ^ 32) i = bitAt x i := by
  simp only [bitAt_eq_testBit, Nat.testBit_mod_two_pow, hi, decide_true, Bool.true_and]

theorem beMask_lt (be : Nat) : beMask be < 2 ^ 32 := by
  unfold beMask
  split_ifs <;> decide

/-- The byte enables select the bits of the enabled bytes. -/
theorem bitAt_beMask (be : BitVec 4) (i : Fin 32) : bitAt (beMask be.toNat) i = bitAt be.toNat (i / 8) := by
  revert be i; decide

theorem and_lt_word {x m : Nat} (hm : m < 2 ^ 32) : x &&& m < 2 ^ 32 := Nat.lt_of_le_of_lt Nat.and_le_right hm

theorem bitAt_blend {m i : Nat} (old v : Nat) (hm : m < 2 ^ 32) (hi : i < 32) :
    bitAt (blend old v m) i = if bitAt m i then bitAt v i else bitAt old i := by
  unfold blend
  rw [bitAt_or, bitAt_and, bitAt_and, bitAt_compl hm hi]
  cases bitAt m i <;> simp

theorem bitAt_bitMask (hi lo i : Nat) : bitAt (bitMask hi lo) i = (decide (lo ≤ i) && decide (i ≤ hi)) := by
  unfold bitMask
  rw [bitAt_eq_testBit, Nat.testBit_mul_two_pow, Nat.testBit_two_pow_sub_one]
  by_cases h : lo ≤ i
  · have : i - lo < hi + 1 - lo ↔ i ≤ hi := by omega
    simp [h, this]
  · simp [h]

/-- A bit is in the mask of the fields that satisfy `p` when one of these fields covers it. -/
theorem bitAt_accMask (fs : List FieldAcc) (p : Acc → Bool) (i : Nat) :
    bitAt (accMask fs p) i = fs.any (fun f => p f.acc && decide (f.lo ≤ i) && decide (i ≤ f.hi)) := by
  have key : ∀ m, bitAt (fs.foldl (fun m f => if p f.acc then m ||| bitMask f.hi f.lo else m) m) i =
      (bitAt m i || fs.any (fun f => p f.acc && decide (f.lo ≤ i) && decide (i ≤ f.hi))) := by
    induction fs with
    | nil => simp
    | cons f t ih =>
      intro m
      rw [List.foldl_cons, ih, List.any_cons]
      cases hp : p f.acc
      · simp
      · simp [bitAt_or, bitAt_bitMask, Bool.or_assoc]
  rw [accMask, key, bitAt_zero, Bool.false_or]

/-! W1C words (R5). -/

/-- Ones written clear the bits of a W1C word, but for those set in this CCLK cycle. -/
theorem bitAt_w1c {m i : Nat} (s : State) (off old : Nat) (hm : m < 2 ^ 32) (hi : i < 32) :
    bitAt (s.w1c off old m) i = (bitAt old i && (!bitAt m i || bitAt (s.justSet off) i)) := by
  rw [State.w1c, bitAt_and, bitAt_clearMask _ hm hi, Bool.not_and, Bool.not_not]

theorem bitAt_wordN_setWord {i : Nat} (s : State) (o v : Nat) (hi : i < 32) : bitAt ((s.setWord o v).wordN o) i = bitAt v i := by
  rw [State.wordN_setWord, if_pos rfl, bitAt_mod_word v hi]

/-! Words that an operation leaves unchanged. -/

theorem wordsKept_setWord (s : State) (o v : Nat) : WordsKept s (s.setWord o v) [o] :=
  fun _ h => State.word_setWord_ne s v (Ne.symm (List.ne_of_not_mem_cons h))

theorem wordsKept_of_regs {s t : State} {l : List Nat} (h : t.regs = s.regs) : WordsKept s t l :=
  fun o _ => State.word_congr h o

theorem wordsKept_trans {s t u : State} {l m : List Nat} (h : WordsKept s t l) (k : WordsKept t u m) : WordsKept s u (l ++ m) :=
  fun o ho => (k o fun hm => ho (List.mem_append_right _ hm)).trans (h o fun hl => ho (List.mem_append_left _ hl))

theorem wordsKept_setPair (s : State) (o v : Nat) : WordsKept s (s.setPair o v) [o, o + 4] :=
  wordsKept_trans (wordsKept_setWord s o _) (wordsKept_setWord (s.setWord o _) (o + 4) _)

theorem wordsKept_bump64 (s : State) (o k : Nat) : WordsKept s (s.bump64 o k) [o, o + 4] := wordsKept_setPair s o _

theorem wordN_of_kept {s t : State} {l : List Nat} (h : WordsKept s t l) {o : Nat} (ho : o ∉ l) : t.wordN o = s.wordN o := by
  rw [State.wordN, State.wordN, h o ho]

theorem fld_of_kept {s t : State} {l : List Nat} (h : WordsKept s t l) {m : Loc} (hm : m.off ∉ l) : t.fld m = s.fld m := by
  rw [State.fld, State.fld, wordN_of_kept h hm]

theorem flag_of_kept {s t : State} {l : List Nat} (h : WordsKept s t l) {m : Loc} (hm : m.off ∉ l) : t.flag m = s.flag m := by
  rw [State.flag, State.flag, fld_of_kept h hm]

theorem pair_of_kept {s t : State} {l : List Nat} (h : WordsKept s t l) {o : Nat} (ho : o ∉ l) (ho4 : o + 4 ∉ l) : t.pair o = s.pair o := by
  rw [State.pair, State.pair, wordN_of_kept h ho, wordN_of_kept h ho4]

theorem pair_bump64 (s : State) (o k : Nat) : (s.bump64 o k).pair o = (s.pair o + k) % 2 ^ 64 :=
  State.pair_setPair s o _ (Nat.mod_lt _ (by decide))

end Sys2Proof.Machine
end

section
/-! The Pool (R272 to R274): a field written in a range of owner words, the clearing of banks, and the clauses of `Obligations.PoolAndEddy`. -/

namespace Sys2Proof.Machine

open Sys2Proof.Claims

theorem mem_upFrom {b f n : Nat} : b ∈ upFrom f n ↔ f ≤ b ∧ b < f + n := by
  simp only [upFrom, List.mem_map, List.mem_range]
  constructor
  · rintro ⟨x, hx, rfl⟩; omega
  · rintro ⟨h1, h2⟩; exact ⟨b - f, by omega, by omega⟩

/-- Put `v` in field `L b` of each bank `b` of a list. -/
def putEach (L : Nat → Loc) (v : Nat) (l : List Nat) (s : State) : State := l.foldl (fun s b => s.setFld (L b) v) s

theorem putEach_cons (L : Nat → Loc) (v b : Nat) (l : List Nat) (s : State) :
    putEach L v (b :: l) s = putEach L v l (s.setFld (L b) v) := rfl

theorem setBanks_eq_putEach (f n st : Nat) (s : State) : setBanks f n st s = putEach R.POOL_OWNER_STATE st (upFrom f n) s := rfl

/-- Only register words change. -/
theorem putEach_eq (L : Nat → Loc) (v : Nat) (l : List Nat) (s : State) : putEach L v l s = { s with regs := (putEach L v l s).regs } := by
  induction l generalizing s with
  | nil => rfl
  | cons b t ih => rw [putEach_cons, ih]; rfl

theorem regs_putEach_congr {L : Nat → Loc} {v : Nat} {l : List Nat} {s t : State} (h : t.regs = s.regs) :
    (putEach L v l t).regs = (putEach L v l s).regs := by
  induction l generalizing s t with
  | nil => exact h
  | cons b r ih => exact ih (by simp only [State.setFld, State.setWord, State.wordN_congr h, h])

theorem word_putEach_of_notMem {L : Nat → Loc} {v o : Nat} {l : List Nat} {s : State} (h : ∀ b ∈ l, (L b).off ≠ o) :
    (putEach L v l s).word o = s.word o := by
  induction l generalizing s with
  | nil => rfl
  | cons b t ih =>
    rw [putEach_cons, ih fun a ha => h a (List.mem_cons_of_mem b ha)]
    exact State.word_setFld_ne s v (h b List.mem_cons_self)

/-- A field that no written field overlaps reads as before. -/
theorem fld_putEach_apart {L : Nat → Loc} {v : Nat} {l : List Nat} {s : State} {m : Loc}
    (h : ∀ b ∈ l, (L b).lo ≤ (L b).hi ∧ (L b).hi < 32 ∧ ((L b).hi < m.lo ∨ m.hi < (L b).lo)) :
    (putEach L v l s).fld m = s.fld m := by
  induction l generalizing s with
  | nil => rfl
  | cons b t ih =>
    obtain ⟨h1, h2, h3⟩ := h b List.mem_cons_self
    rw [putEach_cons, ih fun a ha => h a (List.mem_cons_of_mem b ha), State.fld_setFld_apart s v h1 h2 h3]

/-- Each field of the list holds the value written, cut to its width, when different banks have different words. -/
theorem fld_putEach_mem {L : Nat → Loc} {v b : Nat} {l : List Nat} {s : State} (hL : ∀ a, (L a).off = (L b).off → a = b)
    (h1 : (L b).lo ≤ (L b).hi) (h2 : (L b).hi < 32) (hb : b ∈ l) :
    (putEach L v l s).fld (L b) = v % 2 ^ ((L b).hi + 1 - (L b).lo) := by
  induction l generalizing s with
  | nil => exact absurd hb List.not_mem_nil
  | cons a t ih =>
    rw [putEach_cons]
    by_cases ht : b ∈ t
    · exact ih ht
    · have hab : b = a := (List.mem_cons.mp hb).resolve_right ht
      have hne : ∀ c ∈ t, (L c).off ≠ (L b).off := fun c hc e => ht (hL c e ▸ hc)
      rw [State.fld, State.wordN, word_putEach_of_notMem hne, ← State.wordN, ← State.fld, hab]
      exact State.fld_setFld_same s _ v (hab ▸ h1) (hab ▸ h2)

/-! Fields of POOL_OWNER. -/

theorem poolOwner_inj {a b : Nat} (h : R.POOL_OWNER a = R.POOL_OWNER b) : a = b := by unfold R.POOL_OWNER at h; omega

theorem wordsWithin_putEach {L : Nat → Loc} (hL : ∀ b, (L b).off = R.POOL_OWNER b) (v f n : Nat) (s : State) :
    WordsWithin s (putEach L v (upFrom f n) s) (R.POOL_OWNER f) (R.POOL_OWNER (f + n)) := by
  intro o ho
  refine word_putEach_of_notMem fun b hb => ?_
  have := mem_upFrom.mp hb
  rw [hL]
  unfold R.POOL_OWNER at ho ⊢
  omega

theorem wordsWithin_trans {s t u : State} {lo hi : Nat} (h : WordsWithin s t lo hi) (k : WordsWithin t u lo hi) : WordsWithin s u lo hi :=
  fun o ho => (k o ho).trans (h o ho)

theorem wordsWithin_of_regs {s t u : State} {lo hi : Nat} (h : WordsWithin s t lo hi) (k : u.regs = t.regs) : WordsWithin s u lo hi :=
  fun o ho => (State.word_congr k o).trans (h o ho)

theorem state_setBanks {b f n st : Nat} (s : State) (hst : st < 4) (h1 : f ≤ b) (h2 : b < f + n) :
    (setBanks f n st s).fld (R.POOL_OWNER_STATE b) = st :=
  (fld_putEach_mem (fun _ e => poolOwner_inj e) (by decide : 16 ≤ 17) (by decide : 17 < 32) (mem_upFrom.mpr ⟨h1, h2⟩)).trans
    (Nat.mod_eq_of_lt hst)

theorem owner_setBanks (b f n st : Nat) (s : State) : (setBanks f n st s).fld (R.POOL_OWNER_OWNER b) = s.fld (R.POOL_OWNER_OWNER b) :=
  fld_putEach_apart fun _ _ => ⟨(by decide : 16 ≤ 17), (by decide : 17 < 32), Or.inr (by decide : 12 < 16)⟩

theorem wordsWithin_setBanks (f n st : Nat) (s : State) : WordsWithin s (setBanks f n st s) (R.POOL_OWNER f) (R.POOL_OWNER (f + n)) :=
  wordsWithin_putEach (fun _ => rfl) st f n s

theorem setBanks_eq (f n st : Nat) (s : State) : setBanks f n st s = { s with regs := (setBanks f n st s).regs } := putEach_eq ..

theorem setBanks_rep (f n st : Nat) (s : State) : (setBanks f n st s).rep = s.rep := by rw [setBanks_eq]

/-! HANDOVER and RELEASE (R272, R273, R280). -/

/-- The banks of a range, given to an owner in a state. -/
def handBanks (f n own st : Nat) (s : State) : State := setBanks f n st (putEach R.POOL_OWNER_OWNER own (upFrom f n) s)

theorem handBanks_eq (f n own st : Nat) (s : State) : handBanks f n own st s = { s with regs := (handBanks f n own st s).regs } := by
  have h := congrArg (fun u : State => { u with regs := (handBanks f n own st s).regs }) (putEach_eq R.POOL_OWNER_OWNER own (upFrom f n) s)
  exact (setBanks_eq f n st _).trans h

theorem handBanks_rep (f n own st : Nat) (s : State) : (handBanks f n own st s).rep = s.rep := by rw [handBanks_eq]

theorem owner_handBanks {b f n own : Nat} (st : Nat) (s : State) (hown : own < 2 ^ 13) (h1 : f ≤ b) (h2 : b < f + n) :
    (handBanks f n own st s).fld (R.POOL_OWNER_OWNER b) = own := by
  rw [handBanks, owner_setBanks]
  exact (fld_putEach_mem (fun _ e => poolOwner_inj e) (by decide : 0 ≤ 12) (by decide : 12 < 32) (mem_upFrom.mpr ⟨h1, h2⟩)).trans
    (Nat.mod_eq_of_lt hown)

theorem wordsWithin_handBanks (f n own st : Nat) (s : State) :
    WordsWithin s (handBanks f n own st s) (R.POOL_OWNER f) (R.POOL_OWNER (f + n)) :=
  wordsWithin_trans (wordsWithin_putEach (L := R.POOL_OWNER_OWNER) (fun _ => rfl) own f n s) (wordsWithin_setBanks f n st _)

/-- What HANDOVER answers. -/
theorem handoverCmd_range {s : State} (h : 1264 < poolFirst s + poolCount s ∨ s.fld R.POOL_CMD_ARG_OWNER = 0) :
    handoverCmd s = (.range, s) := by
  refine if_pos ?_
  rcases h with h | h
  · simp [poolRange, Nat.not_le.mpr h]
  · simp [h]

theorem handoverCmd_inRange {s : State} (h : poolFirst s + poolCount s ≤ 1264) (ho : s.fld R.POOL_CMD_ARG_OWNER ≠ 0) :
    ¬ (!poolRange s || s.fld R.POOL_CMD_ARG_OWNER == 0) = true := by
  simp [poolRange, h, ho]

theorem handoverCmd_state {s : State} (h : poolFirst s + poolCount s ≤ 1264) (ho : s.fld R.POOL_CMD_ARG_OWNER ≠ 0)
    (hst : (upFrom (poolFirst s) (poolCount s)).all (fun b => s.fld (R.POOL_OWNER_STATE b) == 2) = false) :
    handoverCmd s = (.state, s) :=
  (if_neg (handoverCmd_inRange h ho)).trans (if_pos (by rw [hst]; rfl))

theorem handoverCmd_plain {s : State} (h : poolFirst s + poolCount s ≤ 1264) (ho : s.fld R.POOL_CMD_ARG_OWNER ≠ 0)
    (hst : (upFrom (poolFirst s) (poolCount s)).all (fun b => s.fld (R.POOL_OWNER_STATE b) == 2) = true)
    (hc : s.flag R.POOL_CMD_ARG_CLEAR = false) :
    handoverCmd s = (.ok, raise hPool 2 (handBanks (poolFirst s) (poolCount s) (s.fld R.POOL_CMD_ARG_OWNER) 1 s)) :=
  (if_neg (handoverCmd_inRange h ho)).trans ((if_neg (by rw [hst]; decide)).trans (if_neg (by rw [hc]; decide)))

theorem handoverCmd_clear {s : State} (h : poolFirst s + poolCount s ≤ 1264) (ho : s.fld R.POOL_CMD_ARG_OWNER ≠ 0)
    (hst : (upFrom (poolFirst s) (poolCount s)).all (fun b => s.fld (R.POOL_OWNER_STATE b) == 2) = true)
    (hc : s.flag R.POOL_CMD_ARG_CLEAR = true) :
    handoverCmd s = (.ok, { s with
      regs := (handBanks (poolFirst s) (poolCount s) (s.fld R.POOL_CMD_ARG_OWNER) 3 s).regs
      rsv := { s.rsv with clearing := s.rsv.clearing ++ [(poolFirst s, poolCount s)] } }) := by
  have hown := congrArg State.rsv (putEach_eq R.POOL_OWNER_OWNER (s.fld R.POOL_CMD_ARG_OWNER) (upFrom (poolFirst s) (poolCount s)) s)
  have hall := congrArg (fun u : State => { u with rsv := { s.rsv with clearing := s.rsv.clearing ++ [(poolFirst s, poolCount s)] } })
    (handBanks_eq (poolFirst s) (poolCount s) (s.fld R.POOL_CMD_ARG_OWNER) 3 s)
  refine (if_neg (handoverCmd_inRange h ho)).trans ((if_neg (by rw [hst]; decide)).trans ((if_pos hc).trans ?_))
  rw [← putEach, hown]
  exact congrArg (fun u : State => (Code.ok, u)) hall

theorem not_all_of_mem {f n b : Nat} {p : Nat → Bool} (h1 : f ≤ b) (h2 : b < f + n) (hp : p b = false) : (upFrom f n).all p = false :=
  List.all_eq_false.mpr ⟨b, mem_upFrom.mpr ⟨h1, h2⟩, by simp [hp]⟩

theorem poolReleaseCmd_range {s : State} (h : 1264 < poolFirst s + poolCount s) : poolReleaseCmd s = (.range, s) :=
  if_pos (by simp [poolRange, Nat.not_le.mpr h])

theorem poolReleaseCmd_state {s : State} (h : poolFirst s + poolCount s ≤ 1264)
    (hst : (upFrom (poolFirst s) (poolCount s)).all
      (fun b => s.fld (R.POOL_OWNER_STATE b) == 1 && releasable (s.fld (R.POOL_OWNER_OWNER b))) = false) :
    poolReleaseCmd s = (.state, s) :=
  (if_neg (by simp [poolRange, h])).trans (if_pos (by rw [hst]; rfl))

theorem poolReleaseCmd_ok {s : State} (h : poolFirst s + poolCount s ≤ 1264)
    (hst : (upFrom (poolFirst s) (poolCount s)).all
      (fun b => s.fld (R.POOL_OWNER_STATE b) == 1 && releasable (s.fld (R.POOL_OWNER_OWNER b))) = true) :
    poolReleaseCmd s = (.ok, setBanks (poolFirst s) (poolCount s) 2 s) :=
  (if_neg (by simp [poolRange, h])).trans (if_neg (by rw [hst]; decide))

/-! Clearing (R273). -/

theorem memGet_filter {m : List Host.Cell} {p : Nat → Bool} (a : Nat) :
    memGet (m.filter fun c => p c.1) a = if p a then memGet m a else 0 := by
  induction m with
  | nil => simp [memGet]
  | cons c t ih =>
    obtain ⟨b, w⟩ := c
    by_cases hb : b = a
    · subst hb
      cases hp : p b
      · rw [List.filter_cons_of_neg (by simp [hp]), ih]; simp [hp]
      · rw [List.filter_cons_of_pos (by simp [hp])]; simp [memGet]
    · cases hp : p b
      · rw [List.filter_cons_of_neg (by simp [hp]), ih, memGet, if_neg hb]
      · rw [List.filter_cons_of_pos (by simp [hp]), memGet, memGet, if_neg hb, if_neg hb, ih]

theorem memGet_memZero_inside {a x n : Nat} (s : State) (h1 : x ≤ a) (h2 : a < x + n) : memGet (memZero x n s).mem a = 0 :=
  (memGet_filter (p := fun c => !(decide (x ≤ c) && decide (c < x + n))) a).trans (if_neg (by simp [h1, h2]))

theorem memGet_memZero_outside {a x n : Nat} (s : State) (h : a < x ∨ x + n ≤ a) : memGet (memZero x n s).mem a = memGet s.mem a :=
  (memGet_filter (p := fun c => !(decide (x ≤ c) && decide (c < x + n))) a).trans (if_pos (by
    rcases h with h | h
    · simp [Nat.not_le.mpr h]
    · simp [Nat.not_lt.mpr h]))

theorem poison_memZero {a x n : Nat} (s : State) (h1 : x ≤ a) (h2 : a < x + n) : (memZero x n s).poison.contains a = false := by
  simp [memZero, h1, h2]

/-! What the commands leave. -/

/-- HANDOVER ends with what its meaning answers. -/
theorem exec_handover {s u : State} {c : Code} (hb : s.cmdBusy hPool = false) (h : handoverCmd s = (c, u)) :
    exec .handover s = .next (finish hPool 1 c u) :=
  congrArg Host.Outcome.next (runCmd_of hb h)

theorem exec_poolRelease {s u : State} {c : Code} (hb : s.cmdBusy hPool = false) (h : poolReleaseCmd s = (c, u)) :
    exec .poolRelease s = .next (finish hPool 2 c u) :=
  congrArg Host.Outcome.next (runCmd_of hb h)

/-! An event, or the end of a command, after work that changed register words and reports alone. -/

theorem eq_regs_rep {s u : State} (hu : u = { s with regs := u.regs }) : u = { s with regs := u.regs, rep := u.rep } := by
  have hrep : u.rep = s.rep := by rw [hu]
  rw [hrep]
  exact hu

theorem raise_eq_of {s u : State} (h b : Nat) (hu : u = { s with regs := u.regs, rep := u.rep }) :
    raise h b u = { s with regs := (raise h b u).regs, rep := (raise h b u).rep } :=
  congrArg (fun w : State => { w with rep := (raise h b u).rep }) hu

theorem finish_eq_of {s u : State} (h code : Nat) (c : Code) (hu : u = { s with regs := u.regs, rep := u.rep }) :
    finish h code c u = { s with regs := (finish h code c u).regs, rep := (finish h code c u).rep } := by
  rw [finish_regs]
  exact (finish_eq h code c u).trans (congrArg (fun w : State => { w with rep := (finish h code c u).rep }) hu)

/-- A command whose work left the reports as they were. -/
theorem finished_finish_of {s u : State} (h code : Nat) (c : Code) (hu : u.rep = s.rep) : Finished h code c s (finish h code c u) :=
  ⟨finish_done .., (finish_frame h code c u).congr_left hu⟩

/-- HANDOVER without CLEAR hands the banks over at once and raises event 2. -/
theorem handover_plain {s : State} {f n own : Nat} (hf : f = poolFirst s) (hn : n = poolCount s) (hown : own = s.fld R.POOL_CMD_ARG_OWNER)
    (hb : s.cmdBusy hPool = false) (hr : f + n ≤ 1264) (ho : own ≠ 0)
    (hst : (upFrom f n).all (fun b => s.fld (R.POOL_OWNER_STATE b) == 2) = true) (hc : s.flag R.POOL_CMD_ARG_CLEAR = false) :
    Gives .handover s fun t => t.regs = (handBanks f n own 1 s).regs ∧ Done hPool 1 .ok t ∧ Raised hPool 2 t ∧
      t = { s with regs := t.regs, rep := t.rep } ∧ RepFrame (hPool :: basinsOf hPool) [(hPool, 2)] [] s t := by
  subst hf hn hown
  refine ⟨_, exec_handover hb (handoverCmd_plain hr ho hst hc), ?_⟩
  have hframe := finish_frame hPool 1 .ok (raise hPool 2 (handBanks (poolFirst s) (poolCount s) (s.fld R.POOL_CMD_ARG_OWNER) 1 s))
  have hall := (((raise_frame hPool 2 _).congr_left (handBanks_rep ..)).trans hframe)
  exact ⟨by simp, finish_done .., (raise_raised ..).kept hframe, finish_eq_of hPool 1 .ok (raise_eq_of hPool 2 (eq_regs_rep (handBanks_eq ..))),
    hall.mono (by simp) (by simp) (by simp)⟩

/-- HANDOVER with CLEAR gives the banks to the new owner as CLEARING, and queues them. -/
theorem handover_clear {s : State} {f n own : Nat} (hf : f = poolFirst s) (hn : n = poolCount s) (hown : own = s.fld R.POOL_CMD_ARG_OWNER)
    (hb : s.cmdBusy hPool = false) (hr : f + n ≤ 1264) (ho : own ≠ 0)
    (hst : (upFrom f n).all (fun b => s.fld (R.POOL_OWNER_STATE b) == 2) = true) (hc : s.flag R.POOL_CMD_ARG_CLEAR = true) :
    Gives .handover s fun t => t.regs = (handBanks f n own 3 s).regs ∧ Done hPool 1 .ok t ∧
      t = { s with regs := t.regs, rep := t.rep, rsv := { s.rsv with clearing := s.rsv.clearing ++ [(f, n)] } } ∧ Finished hPool 1 .ok s t := by
  subst hf hn hown
  refine ⟨_, exec_handover hb (handoverCmd_clear hr ho hst hc), ?_⟩
  exact ⟨by simp, finish_done .., finish_eq .., finished_finish_of hPool 1 .ok rfl⟩

/-- RELEASE frees the banks and leaves their owner ID. -/
theorem poolRelease_ok {s : State} {f n : Nat} (hf : f = poolFirst s) (hn : n = poolCount s) (hb : s.cmdBusy hPool = false)
    (hr : f + n ≤ 1264)
    (hst : (upFrom f n).all (fun b => s.fld (R.POOL_OWNER_STATE b) == 1 && releasable (s.fld (R.POOL_OWNER_OWNER b))) = true) :
    Gives .poolRelease s fun t => t.regs = (setBanks f n 2 s).regs ∧ t = { s with regs := t.regs, rep := t.rep } ∧ Finished hPool 2 .ok s t := by
  subst hf hn
  refine ⟨_, exec_poolRelease hb (poolReleaseCmd_ok hr hst), by simp, finish_eq_of hPool 2 .ok (eq_regs_rep (setBanks_eq ..)),
    finished_finish_of hPool 2 .ok (setBanks_rep ..)⟩

/-- The state in which the range `f`, `n` has been cleared and the ranges `rest` are still to be. -/
def clearBanks (f n : Nat) (rest : List (Nat × Nat)) (s : State) : State :=
  memZero (poolBase + f * bankBytes) (n * bankBytes) { s with rsv := { s.rsv with clearing := rest } }

theorem handoverClearDone_eq {s : State} {f n : Nat} {rest : List (Nat × Nat)} (h : s.rsv.clearing = (f, n) :: rest) :
    handoverClearDone s = raise hPool 2 (setBanks f n 1 (clearBanks f n rest s)) := by
  rw [handoverClearDone, h]
  rfl

/-- The end of a clearing: the banks read 0, then their owner has them. -/
theorem handoverClearDone_cons {s : State} {f n : Nat} {rest : List (Nat × Nat)} (h : s.rsv.clearing = (f, n) :: rest) :
    Gives .handoverClearDone s fun t => t.regs = (setBanks f n 1 s).regs ∧
      t.mem = (memZero (poolBase + f * bankBytes) (n * bankBytes) s).mem ∧
      t.poison = (memZero (poolBase + f * bankBytes) (n * bankBytes) s).poison ∧ Event hPool 2 s t ∧
      t = { s with regs := t.regs, mem := t.mem, poison := t.poison, rsv := { s.rsv with clearing := rest }, rep := t.rep } := by
  have heq := setBanks_eq f n 1 (clearBanks f n rest s)
  have hrep : (setBanks f n 1 (clearBanks f n rest s)).rep = s.rep := setBanks_rep ..
  refine ⟨_, congrArg Host.Outcome.next (handoverClearDone_eq h), regs_putEach_congr rfl, ?_, ?_, ⟨raise_raised .., ?_⟩, ?_⟩
  · rw [raise_mem, heq]; rfl
  · rw [raise_poison, heq]; rfl
  · exact (raise_frame hPool 2 _).congr_left hrep
  · rw [raise_mem, raise_poison, heq]
    rfl

/-- A write of FULL flags clears those it writes 1 to, but for those set in this cycle, and sets those of `produced` (R5, R276). -/
theorem bitAt_eddyFullWrite (s : State) (h : Nat) (val : Word) (be : BitVec 4) (produced : Nat) (j : Fin 32) :
    bitAt ((eddyFullWrite h val.toNat be.toNat produced s).wordN (R.EDDY_FULL h)) j =
      (bitAt produced j || (bitAt (s.wordN (R.EDDY_FULL h)) j &&
        (!(bitAt val.toNat j && bitAt be.toNat (j / 8)) || bitAt (s.justSet (R.EDDY_FULL h)) j))) := by
  have hm : val.toNat &&& beMask be.toNat < 2 ^ 32 := and_lt_word (beMask_lt _)
  have hset : (eddyFullWrite h val.toNat be.toNat produced s).wordN (R.EDDY_FULL h) =
      ((s.setWord (R.EDDY_FULL h) (s.w1c (R.EDDY_FULL h) (s.wordN (R.EDDY_FULL h)) (val.toNat &&& beMask be.toNat))).wordN (R.EDDY_FULL h) |||
        produced) % 2 ^ 32 := (State.wordN_setWord ..).trans (if_pos rfl)
  rw [hset, bitAt_mod_word _ j.isLt, bitAt_or, bitAt_wordN_setWord _ _ _ j.isLt, bitAt_w1c s _ _ hm j.isLt, bitAt_and, bitAt_beMask,
    Bool.or_comm]

theorem wordsKept_eddyFullWrite (s : State) (h v be produced : Nat) : WordsKept s (eddyFullWrite h v be produced s) [R.EDDY_FULL h] :=
  fun o ho => (wordsKept_setWord (s.setWord (R.EDDY_FULL h) (s.w1c (R.EDDY_FULL h) (s.wordN (R.EDDY_FULL h)) (v &&& beMask be))) _ _ o ho).trans
    (wordsKept_setWord s (R.EDDY_FULL h) _ o ho)

end Sys2Proof.Machine

open Sys2Proof Sys2Proof.Machine Sys2Proof.Claims

/-- Settles O35: each command ends with what its meaning answers, and the owner words of a range are written one by one. -/
theorem poolAndEddy : Obligations.PoolAndEddy := by
  unfold Obligations.PoolAndEddy
  intro s f n own b a f2 n2 rest h val be produced hf hn hown
  refine ⟨fun hb hr => ?_, fun hb hr ho h1 h2 hst => ?_, fun hb hr ho hst => ?_, fun hb hr => ?_, fun hb hr h1 h2 hst => ?_,
    fun hb hr hst => ?_, fun hc _ => ?_, fun hc => ?_, ?_⟩
  case refine_1 =>
    subst hf hn hown
    exact ⟨_, exec_handover hb (handoverCmd_range hr), turnedAway_finish ..⟩
  case refine_2 =>
    subst hf hn hown
    exact ⟨_, exec_handover hb (handoverCmd_state hr ho (not_all_of_mem h1 h2 (by simp [hst]))), turnedAway_finish ..⟩
  case refine_3 =>
    have hown13 : own < 2 ^ 13 := hown ▸ State.fld_lt s R.POOL_CMD_ARG_OWNER
    cases hc : s.flag R.POOL_CMD_ARG_CLEAR
    · obtain ⟨t, ht, hregs, hdone, hraised, heq, hframe⟩ := handover_plain hf hn hown hb hr ho hst hc
      refine ⟨t, ht, fun h1 h2 => ?_, wordsWithin_of_regs (wordsWithin_handBanks f n own 1 s) hregs, hdone, fun _ => ⟨hraised, heq, hframe⟩, nofun⟩
      rw [State.fld_congr hregs, State.fld_congr hregs]
      exact ⟨owner_handBanks 1 s hown13 h1 h2, state_setBanks _ (by decide) h1 h2⟩
    · obtain ⟨t, ht, hregs, hdone, heq, hfin⟩ := handover_clear hf hn hown hb hr ho hst hc
      refine ⟨t, ht, fun h1 h2 => ?_, wordsWithin_of_regs (wordsWithin_handBanks f n own 3 s) hregs, hdone, nofun, fun _ => ⟨heq, hfin⟩⟩
      rw [State.fld_congr hregs, State.fld_congr hregs]
      exact ⟨owner_handBanks 3 s hown13 h1 h2, state_setBanks _ (by decide) h1 h2⟩
  case refine_4 =>
    subst hf hn
    exact ⟨_, exec_poolRelease hb (poolReleaseCmd_range hr), turnedAway_finish ..⟩
  case refine_5 =>
    subst hf hn
    have hbank : (s.fld (R.POOL_OWNER_STATE b) == 1 && releasable (s.fld (R.POOL_OWNER_OWNER b))) = false := by
      rcases hst with hst | hst <;> simp [hst]
    exact ⟨_, exec_poolRelease hb (poolReleaseCmd_state hr (not_all_of_mem h1 h2 hbank)), turnedAway_finish ..⟩
  case refine_6 =>
    obtain ⟨t, ht, hregs, heq, hfin⟩ := poolRelease_ok hf hn hb hr hst
    refine ⟨t, ht, fun h1 h2 => ?_, wordsWithin_of_regs (wordsWithin_setBanks f n 2 s) hregs, heq, hfin⟩
    rw [State.fld_congr hregs, State.fld_congr hregs]
    exact ⟨state_setBanks s (by decide) h1 h2, owner_setBanks ..⟩
  case refine_7 =>
    obtain ⟨t, ht, hregs, hmem, hpoison, hevent, heq⟩ := handoverClearDone_cons hc
    have hlen : poolBase + (f2 + n2) * bankBytes = poolBase + f2 * bankBytes + n2 * bankBytes := by rw [Nat.add_mul, Nat.add_assoc]
    refine ⟨t, ht, ?_, ?_, fun h1 h2 => ?_, wordsWithin_of_regs (wordsWithin_setBanks f2 n2 1 s) hregs, hevent, heq⟩
    · rw [hlen, hmem, hpoison]
      exact fun h1 h2 => ⟨memGet_memZero_inside s h1 h2, poison_memZero s h1 h2⟩
    · rw [hlen, hmem]
      exact memGet_memZero_outside s
    · rw [State.fld_congr hregs, State.fld_congr hregs]
      exact ⟨state_setBanks s (by decide) h1 h2, owner_setBanks ..⟩
  case refine_8 =>
    exact ⟨s, congrArg Host.Outcome.next (by rw [handoverClearDone, hc]), rfl⟩
  case refine_9 =>
    exact ⟨_, rfl, rfl, wordsKept_eddyFullWrite s h _ _ _, bitAt_eddyFullWrite s h val be produced.toNat⟩
end

section
/-! Where the words of BAR0 lie (R474 to R476, R484): the tables of LO/HI pairs and of reads with an effect of their own name neither a word of a header nor
an entry of a basin's member table. -/

namespace Sys2Proof.Machine

/-- The row of a table (base, strides and counts) names the offset. -/
def Named (r : Nat × List (Nat × Nat)) (off : Nat) : Prop := r.1 ≤ off ∧ dimsMatch r.2 false (off - r.1) = true

theorem idxOf_isSome (dims : List (Nat × Nat)) (d : Nat) : (idxOf dims d).isSome = dimsMatch dims false d := by
  induction dims generalizing d with
  | nil => by_cases h : d = 0 <;> simp [idxOf, dimsMatch, h]
  | cons e t ih =>
    obtain ⟨stride, count⟩ := e
    by_cases h : d / stride < count <;> simp [idxOf, dimsMatch, h, ih]

/-- An offset that no row names has no rule of its own. -/
theorem rowAt_eq_none {β : Type} {rows : Rows β} {off : Nat} (h : ∀ r ∈ rows, ¬ Named (r.1, r.2.1) off) : rowAt rows off = none := by
  refine List.findSome?_eq_none_iff.mpr fun r hr => ?_
  by_cases hle : r.1 ≤ off
  · have hidx : idxOf r.2.1 (off - r.1) = none := by
      rw [← Option.not_isSome_iff_eq_none, idxOf_isSome]
      exact fun hm => h r hr ⟨hle, hm⟩
    rw [if_pos hle, hidx]
    rfl
  · exact if_neg hle

/-- The LO words of pairs, as rows. -/
def loRows : List (Nat × List (Nat × Nat)) := (regBlocks.filter (·.pair)).map (fun b => (b.base, b.dims)) ++ namedPairs

theorem named_of_isLo {off : Nat} (h : isLo off = true) : ∃ r ∈ loRows, Named r off := by
  simp only [isLo, Bool.or_eq_true, List.any_eq_true, Bool.and_eq_true, decide_eq_true_eq] at h
  rcases h with ⟨b, hb, ⟨hpair, hle⟩, hm⟩ | ⟨r, hr, hle, hm⟩
  · exact ⟨(b.base, b.dims), List.mem_append_left _ (List.mem_map.mpr ⟨b, List.mem_filter.mpr ⟨hb, hpair⟩, rfl⟩), hle, hm⟩
  · exact ⟨r, List.mem_append_right _ hr, hle, hm⟩

/-- How far above its base a row reaches. -/
def rowReach : List (Nat × Nat) → Nat
  | [] => 0
  | (stride, count) :: _ => stride * count

/-- How far above the place of its base in a 4 KiB page a row reaches in any page. -/
def pageReach : List (Nat × Nat) → Nat
  | [] => 0
  | (stride, count) :: t => if stride % 0x1000 = 0 then pageReach t else stride * count

theorem le_of_div_lt {d stride count : Nat} (hs : 0 < stride) (h : d / stride < count) : d ≤ stride * count :=
  Nat.le_of_lt ((Nat.div_lt_iff_lt_mul hs).mp h |>.trans_eq (Nat.mul_comm ..))

theorem le_rowReach {dims : List (Nat × Nat)} {d : Nat} (hs : dims.all (fun e => decide (0 < e.1)) = true) (h : dimsMatch dims false d = true) :
    d ≤ rowReach dims := by
  cases dims with
  | nil => simpa [dimsMatch, rowReach] using h
  | cons e t =>
    simp only [List.all_cons, Bool.and_eq_true, decide_eq_true_eq] at hs
    simp only [dimsMatch, Bool.and_eq_true, decide_eq_true_eq] at h
    exact le_of_div_lt hs.1 h.1

theorem mod_le_pageReach {dims : List (Nat × Nat)} {d : Nat} (hs : dims.all (fun e => decide (0 < e.1)) = true)
    (h : dimsMatch dims false d = true) : d % 0x1000 ≤ pageReach dims := by
  induction dims generalizing d with
  | nil =>
    have hd : d = 0 := by simpa [dimsMatch] using h
    rw [hd]
    exact Nat.le_refl 0
  | cons e t ih =>
    simp only [List.all_cons, Bool.and_eq_true, decide_eq_true_eq] at hs
    simp only [dimsMatch, Bool.and_eq_true, decide_eq_true_eq] at h
    simp only [pageReach]
    split
    · rename_i hpage
      rw [← Nat.mod_mod_of_dvd d (Nat.dvd_of_mod_eq_zero hpage)]
      exact ih hs.2 h.2
    · exact (Nat.mod_le ..).trans (le_of_div_lt hs.1 h.1)

/-- Every header of the unit tree. -/
def headerList : List Nat := 0 :: rootMembers ++ basins.flatMap (fun b => b.1 :: b.2)

/-- Neither a word that the row names nor the word after it is a word of a header or an entry of a member table: below every place in a page where a word
of the row may lie there is room for a header, or the row lies apart from every header. -/
def rowApart (r : Nat × List (Nat × Nat)) : Bool :=
  r.2.all (fun e => decide (0 < e.1)) &&
  (0 :: basins.map Prod.fst).all (fun b => decide (b + 0x1000 ≤ r.1) || decide (r.1 + rowReach r.2 + 4 < b + 0x800)) &&
  (decide (0x40 ≤ r.1 % 0x1000) && decide (r.1 % 0x1000 + pageReach r.2 + 4 < 0x1000) ||
    headerList.all (fun h => decide (h + 0x40 ≤ r.1) || decide (r.1 + rowReach r.2 + 4 < h)))

theorem rowApart_iff (r : Nat × List (Nat × Nat)) : rowApart r = true ↔
    r.2.all (fun e => decide (0 < e.1)) = true ∧
    (∀ b ∈ 0 :: basins.map Prod.fst, b + 0x1000 ≤ r.1 ∨ r.1 + rowReach r.2 + 4 < b + 0x800) ∧
    (0x40 ≤ r.1 % 0x1000 ∧ r.1 % 0x1000 + pageReach r.2 + 4 < 0x1000 ∨ ∀ h ∈ headerList, h + 0x40 ≤ r.1 ∨ r.1 + rowReach r.2 + 4 < h) := by
  simp only [rowApart, Bool.and_eq_true, Bool.or_eq_true, decide_eq_true_eq, List.all_eq_true, and_assoc]

theorem headerList_page : headerList.all (fun h => h % 0x1000 == 0) = true := by decide +kernel

theorem page_of_mem_headerList {h : Nat} (hh : h ∈ headerList) : h % 0x1000 = 0 := by
  simpa using List.all_eq_true.mp headerList_page h hh

theorem mem_headerList_of_basin {h : Nat} (hb : isBasin h = true) : h ∈ headerList := by
  simp only [isBasin, Bool.or_eq_true, beq_iff_eq, List.any_eq_true] at hb
  rcases hb with rfl | ⟨b, hb, rfl⟩
  · exact List.mem_cons_self
  · exact List.mem_append_right _ (List.mem_flatMap.mpr ⟨b, hb, List.mem_cons_self⟩)

theorem mem_headerList_of_leaf {h : Nat} (hl : isLeaf h = true) : h ∈ headerList := by
  simp only [isLeaf, Bool.and_eq_true, Bool.or_eq_true, List.any_eq_true, beq_iff_eq] at hl
  rcases hl.1 with ⟨m, hm, rfl⟩ | ⟨b, hb, m, hm, rfl⟩
  · exact List.mem_append_left _ (List.mem_cons_of_mem _ hm)
  · exact List.mem_append_right _ (List.mem_flatMap.mpr ⟨b, hb, List.mem_cons_of_mem _ hm⟩)

theorem mem_headerList {h : Nat} (hh : isHeader h = true) : h ∈ headerList :=
  (Bool.or_eq_true_iff.mp hh).elim mem_headerList_of_leaf mem_headerList_of_basin

/-- A word of a header is no word of a row apart, nor the word after one. -/
theorem not_named_header {r : Nat × List (Nat × Nat)} {h n x : Nat} (hr : rowApart r = true) (hh : h ∈ headerList) (hn : n < 0x40)
    (h1 : x ≤ h + n) (h2 : h + n ≤ x + 4) : ¬ Named r x := by
  rintro ⟨hle, hm⟩
  obtain ⟨hs, -, hpage | hfar⟩ := (rowApart_iff r).mp hr
  · have := mod_le_pageReach hs hm
    have := page_of_mem_headerList hh
    omega
  · have := le_rowReach hs hm
    have := hfar h hh
    omega

/-- Nor is an entry of a member table. -/
theorem not_named_member {r : Nat × List (Nat × Nat)} {b n x : Nat} (hr : rowApart r = true) (hb : isBasin b = true) (hn : n < 0x800)
    (h1 : x ≤ b + 0x800 + n) (h2 : b + 0x800 + n ≤ x + 4) : ¬ Named r x := by
  rintro ⟨hle, hm⟩
  obtain ⟨hs, hfar, -⟩ := (rowApart_iff r).mp hr
  have := le_rowReach hs hm
  have hmem : b ∈ 0 :: basins.map Prod.fst := by
    simp only [isBasin, Bool.or_eq_true, beq_iff_eq, List.any_eq_true] at hb
    rcases hb with rfl | ⟨c, hc, rfl⟩
    · exact List.mem_cons_self
    · exact List.mem_cons_of_mem _ (List.mem_map_of_mem hc)
  have := hfar b hmem
  omega

theorem loRows_apart : loRows.all rowApart = true := by decide +kernel

theorem readersOf_apart (path : Path) : (readersOf path).all (fun r => rowApart (r.1, r.2.1)) = true := by cases path <;> decide +kernel

theorem dtWords_apart : [R.CLK_DT_NS, R.CLK_DT_SEC_LO, R.CLK_DT_SEC_HI].all (fun o => rowApart (o, [])) = true := by decide +kernel

end Sys2Proof.Machine
end

section
/-! Reads and writes of one word of BAR0 (R4, R474, R475, R483). -/

namespace Sys2Proof.Machine

open Sys2Proof.Claims

theorem aligned_floor {off : Nat} (h : off % 4 = 0) : off / 4 * 4 = off := Nat.div_mul_cancel (Nat.dvd_of_mod_eq_zero h)

/-- A read without an effect of its own, of a word of no pair, returns what the word reads. -/
theorem bar0Read_plain {path : Path} {off : Nat} (s : State) (h4 : off % 4 = 0) (hr : rowAt (readersOf path) off = none)
    (hdt : isDtWord off = false) (hlo : isLo off = false) (hhi : off < 4 ∨ isLo (off - 4) = false) :
    bar0Read path off s = s.emit (.regRead path off (regValue s off)) := by
  have hhi' : (decide (4 ≤ off) && isLo (off - 4)) = false := by
    rcases hhi with h | h
    · simp [Nat.not_le.mpr h]
    · simp [h]
  simp only [bar0Read, aligned_floor h4, hr, hdt, hlo, hhi', Bool.false_eq_true, if_false]

/-- A read of a word that no row apart names, and that follows no word of one. -/
theorem bar0Read_apart {path : Path} {off : Nat} (s : State) (h4 : off % 4 = 0)
    (h : ∀ r, rowApart r = true → ∀ x, x ≤ off → off ≤ x + 4 → ¬ Named r x) :
    bar0Read path off s = s.emit (.regRead path off (regValue s off)) := by
  have hlo : ∀ x, x ≤ off → off ≤ x + 4 → isLo x = false := fun x h1 h2 => by
    refine Bool.eq_false_iff.mpr fun hx => ?_
    obtain ⟨r, hr, hn⟩ := named_of_isLo hx
    exact h r (List.all_eq_true.mp loRows_apart r hr) x h1 h2 hn
  refine bar0Read_plain s h4 (rowAt_eq_none fun r hr => ?_) ?_ (hlo off (Nat.le_refl _) (by omega)) ?_
  · exact h _ (List.all_eq_true.mp (readersOf_apart path) r hr) off (Nat.le_refl _) (by omega)
  · refine Bool.eq_false_iff.mpr fun hdt => ?_
    have hmem : off ∈ [R.CLK_DT_NS, R.CLK_DT_SEC_LO, R.CLK_DT_SEC_HI] := by simpa [isDtWord, or_assoc] using hdt
    exact h (off, []) (List.all_eq_true.mp dtWords_apart off hmem) off (Nat.le_refl _) (by omega)
      ⟨Nat.le_refl _, by simp [dimsMatch]⟩
  · by_cases hlt : off < 4
    · exact Or.inl hlt
    · exact Or.inr (hlo (off - 4) (by omega) (by omega))

/-! Headers. -/

theorem page_header {h n : Nat} (hp : h % 0x1000 = 0) (hn : n < 0x1000) : (h + n) / 0x1000 * 0x1000 = h ∧ (h + n) % 0x1000 = n := by omega

theorem regValue_header {h n : Nat} (s : State) (hh : isHeader h = true) (hn : n < 0x40) : regValue s (h + n) = headerRead s h n := by
  obtain ⟨e1, e2⟩ := page_header (page_of_mem_headerList (mem_headerList hh)) (Nat.lt_trans hn (by decide : 0x40 < 0x1000))
  simp only [regValue, e1, e2, hn, hh, decide_true, Bool.and_self, if_true]

/-- A read of a header word (R474). -/
theorem bar0Read_header {h n : Nat} (path : Path) (s : State) (hh : isHeader h = true) (hn : n < 0x40) (h4 : n % 4 = 0) :
    bar0Read path (h + n) s = s.emit (.regRead path (h + n) (headerRead s h n)) := by
  have hp := page_of_mem_headerList (mem_headerList hh)
  rw [bar0Read_apart s (by omega) fun r hr x h1 h2 => not_named_header hr (mem_headerList hh) hn h1 h2, regValue_header s hh hn]

/-- A write of a header word. -/
theorem bar0Write_header {h n : Nat} (path : Path) (v be : Nat) (s : State) (hh : isHeader h = true) (hn : n < 0x40) (h4 : n % 4 = 0) :
    bar0Write path (h + n) v be s = headerWrite h n v be s := by
  have hp := page_of_mem_headerList (mem_headerList hh)
  obtain ⟨e1, e2⟩ := page_header hp (Nat.lt_trans hn (by decide : 0x40 < 0x1000))
  have h4' : (h + n) % 4 = 0 := by omega
  simp only [bar0Write, aligned_floor h4', e1, e2, hn, hh, decide_true, Bool.and_self, if_true]

theorem members_length_le (b : Nat) : (members b).length ≤ 0x200 := by
  have key : ∀ c ∈ basins, c.2.length ≤ 0x200 := by decide
  unfold members
  split
  · decide
  · split
    · rename_i c hc
      exact key c (List.mem_of_find?_eq_some hc)
    · exact Nat.zero_le _

/-- A read of an entry of a basin's member table (R476). -/
theorem bar0Read_member {b n : Nat} (path : Path) (s : State) (hb : isBasin b = true) (hn : n < (members b).length) :
    bar0Read path (b + 0x800 + 4 * n) s = s.emit (.regRead path (b + 0x800 + 4 * n) ((members b).getD n 0)) := by
  have hp := page_of_mem_headerList (mem_headerList_of_basin hb)
  have hlen := members_length_le b
  have e1 : (b + 0x800 + 4 * n) / 0x1000 * 0x1000 = b := by omega
  have e2 : (b + 0x800 + 4 * n) % 0x1000 = 0x800 + 4 * n := by omega
  have e3 : (0x800 + 4 * n - 0x800) / 4 = n := by omega
  have hval : regValue s (b + 0x800 + 4 * n) = (members b).getD n 0 := by
    have hlow : ¬ 0x800 + 4 * n < 0x40 := by omega
    have hhigh : 0x800 ≤ 0x800 + 4 * n := by omega
    simp only [regValue, e1, e2, e3, hlow, hhigh, hb, decide_true, decide_false, Bool.false_and, Bool.and_self, if_true, if_false,
      Bool.false_eq_true]
  rw [bar0Read_apart s (by omega) fun r hr x h1 h2 => not_named_member hr hb (by omega) h1 h2, hval]

/-! A leaf unit is no basin and has no members. -/

theorem isBasin_of_leaf {h : Nat} (hl : isLeaf h = true) : isBasin h = false := by
  simp only [isLeaf, Bool.and_eq_true, Bool.not_eq_true'] at hl
  exact hl.2

theorem isHeader_of_leaf {h : Nat} (hl : isLeaf h = true) : isHeader h = true := by simp [isHeader, hl]

theorem isHeader_of_basin {h : Nat} (hb : isBasin h = true) : isHeader h = true := by simp [isHeader, hb]

theorem members_of_leaf {h : Nat} (hl : isLeaf h = true) : members h = [] := by
  have hb := isBasin_of_leaf hl
  simp only [isBasin, Bool.or_eq_false_iff, beq_eq_false_iff_ne, List.any_eq_false, beq_iff_eq] at hb
  unfold members
  rw [if_neg hb.1, List.find?_eq_none.mpr fun b hm => by simpa using hb.2 b hm]

theorem leafStatus_eq {h : Nat} (s : State) (hl : isLeaf h = true) (hbank : h ≠ hBank) :
    leafStatus s h = b2n (s.snapOf h).isSome + 2 * b2n (decide (s.faultOf h ≠ 0)) +
      4 * b2n (decide ((s.pendOf h &&& (0xFFFFFFFF - s.wordN (h + 0x24))) ≠ 0)) + 8 * b2n (s.cmdSt h).busy := by
  have hbusy : s.cmdBusy h = (s.cmdSt h).busy := if_neg (by simp [isBasin_of_leaf hl])
  have hne : ∀ x : Nat, (x != 0) = decide (x ≠ 0) := fun x => by by_cases hx : x = 0 <;> simp [hx]
  simp only [leafStatus, commitPend, if_neg hbank, maskOf, hbusy, hne]

/-! Words without a rule of their own. -/

theorem fieldsOf_hi {off : Nat} : ∀ f ∈ fieldsOf off, f.hi < 32 := by
  have key : regBlocks.all (fun b => b.fields.all fun f => decide (f.hi < 32)) = true := by decide +kernel
  intro f hf
  unfold fieldsOf at hf
  split at hf
  · rename_i b hb
    have hfields := List.all_eq_true.mp key b (List.mem_of_find?_eq_some hb)
    simpa using List.all_eq_true.mp hfields f hf
  · exact absurd hf List.not_mem_nil

/-- The masks of a word's fields have 32 bits. -/
theorem accMask_fieldsOf_lt (off : Nat) (p : Acc → Bool) : accMask (fieldsOf off) p < 2 ^ 32 := by
  refine Nat.lt_pow_two_of_testBit _ fun i hi => ?_
  rw [← bitAt_eq_testBit, bitAt_accMask]
  refine List.any_eq_false.mpr fun f hf => ?_
  have := fieldsOf_hi f hf
  simp only [Bool.and_eq_true, decide_eq_true_eq, not_and]
  omega

theorem bitAt_accMask_fieldsOf (off : Nat) (p : Acc → Bool) (i : Nat) : bitAt (accMask (fieldsOf off) p) i = accBit p off i := bitAt_accMask ..

theorem bitAt_shMask (off i : Nat) : bitAt (shMask off) i = shBit off i := bitAt_accMask ..

theorem shMask_lt (off : Nat) : shMask off < 2 ^ 32 := accMask_fieldsOf_lt ..

theorem bitAt_setMask (opn : Bool) (off i : Nat) : bitAt (setMask opn off) i = setBit opn off i := bitAt_accMask ..

/-- The access type of a bit and its byte enable decide what a write makes of it (R4, R483, R5). -/
theorem bitAt_writtenWord (opn : Bool) (off old kept : Nat) (v : Word) (be : BitVec 4) (i : Fin 32) {en : Bool} (hen : en = bitAt be.toNat (i / 8)) :
    bitAt (writtenWord opn off old kept v.toNat be.toNat) i =
      ((((if en && setBit opn off i then bitAt v.toNat i else bitAt old i) &&
          !(en && accBit (· == .w1c) off i && bitAt v.toNat i && !bitAt kept i)) ||
        (en && accBit (· == .w1s) off i && bitAt v.toNat i)) : Bool) := by
  have hset : setMask opn off &&& beMask be.toNat < 2 ^ 32 := and_lt_word (beMask_lt _)
  have hc : accMask (fieldsOf off) (· == .w1c) &&& beMask be.toNat &&& v.toNat < 2 ^ 32 := and_lt_word v.isLt
  simp only [writtenWord, bitAt_or, bitAt_and, bitAt_blend _ _ hset i.isLt, bitAt_clearMask kept hc i.isLt, bitAt_setMask,
    bitAt_accMask_fieldsOf, bitAt_beMask, ← hen]
  rw [Bool.and_comm (setBit opn off i), Bool.and_comm (accBit (· == .w1c) off i), Bool.and_comm (accBit (· == .w1s) off i)]

/-- What a word without a rule of its own reads. -/
theorem regValue_of_plainRead {path : Path} {off : Nat} (s : State) (h : plainRead s path off = true) :
    regValue s off = blend (s.wordN off) (s.shadowN off) (shMask off) &&& readMask off := by
  simp only [plainRead, Bool.and_eq_true, Bool.not_eq_true', Option.isNone_iff_eq_none] at h
  obtain ⟨⟨⟨⟨⟨-, hhdr⟩, hmem⟩, hview⟩, -⟩, -⟩ := h
  simp only [regValue, hhdr, hmem, hview, Bool.false_eq_true, if_false]

theorem bitAt_regValue {path : Path} {off : Nat} (s : State) (i : Fin 32) (h : plainRead s path off = true) :
    bitAt (regValue s off) i = readBit s off i := by
  rw [regValue_of_plainRead s h, bitAt_and, bitAt_blend _ _ (shMask_lt off) i.isLt, bitAt_shMask, readMask, bitAt_accMask_fieldsOf, Bool.and_comm]
  rfl

theorem bar0Read_of_plainRead {path : Path} {off : Nat} (s : State) (h : plainRead s path off = true) (hlo : isLo off = false)
    (hhi : off < 4 ∨ isLo (off - 4) = false) : bar0Read path off s = s.emit (.regRead path off (regValue s off)) := by
  simp only [plainRead, Bool.and_eq_true, Bool.not_eq_true', Option.isNone_iff_eq_none, beq_iff_eq] at h
  obtain ⟨⟨⟨⟨⟨h4, -⟩, -⟩, -⟩, hr⟩, hdt⟩ := h
  exact bar0Read_plain s h4 hr hdt hlo hhi

/-- A word without fields reads 0 (R483). -/
theorem regValue_of_noFields {path : Path} {off : Nat} (s : State) (h : plainRead s path off = true) (hf : fieldsOf off = []) :
    regValue s off = 0 := by
  rw [regValue_of_plainRead s h, readMask, hf]
  exact Nat.and_zero _

theorem bar0Write_of_plainWord {path : Path} {off : Nat} (v be : Nat) (s : State) (h : plainWord path off = true) :
    bar0Write path off v be s = if fieldsOf off = [] then s else writeFields off v be s := by
  simp only [plainWord, Bool.and_eq_true, Bool.not_eq_true', Option.isNone_iff_eq_none, beq_iff_eq] at h
  obtain ⟨⟨h4, hhdr⟩, hrow⟩ := h
  simp only [bar0Write, aligned_floor h4, hhdr, hrow, Bool.false_eq_true, if_false]

/-! A write that the fields' access types decide. -/

theorem writeFields_eq (off v be : Nat) (s : State) :
    writeFields off v be s = { s with regs := (writeFields off v be s).regs, shadow := (writeFields off v be s).shadow } := by
  unfold writeFields
  dsimp only
  split <;> rfl

/-- The register word that it leaves. -/
theorem writeFields_regs (off v be : Nat) (s : State) :
    (writeFields off v be s).regs = (s.setWord off (writtenWord s.lifeOpen off (s.wordN off) (s.justSet off) v be)).regs := by
  unfold writeFields
  dsimp only
  split <;> rfl

theorem writeFields_shadow (off v be : Nat) (s : State) :
    (writeFields off v be s).shadow =
      if shMask off = 0 then s.shadow else Tbl.set s.shadow off (blend (s.shadowN off) v (shMask off &&& beMask be)) := by
  unfold writeFields
  dsimp only
  split <;> rfl

theorem wordsKept_writeFields (off v be : Nat) (s : State) : WordsKept s (writeFields off v be s) [off] :=
  fun o ho => (State.word_congr (writeFields_regs ..) o).trans (wordsKept_setWord s off _ o ho)

theorem find_shadow_writeFields {off a : Nat} (v be : Nat) (s : State) (ha : a ≠ off) :
    Tbl.find (writeFields off v be s).shadow a = Tbl.find s.shadow a := by
  rw [writeFields_shadow]
  split
  · rfl
  · exact Tbl.find_set_ne _ _ (Ne.symm ha)

theorem bitAt_word_writeFields (off : Nat) (v : Word) (be : BitVec 4) (s : State) (i : Fin 32) {en : Bool} (hen : en = bitAt be.toNat (i / 8)) :
    bitAt ((writeFields off v.toNat be.toNat s).wordN off) i =
      ((((if en && setBit s.lifeOpen off i then bitAt v.toNat i else bitAt (s.wordN off) i) &&
          !(en && accBit (· == .w1c) off i && bitAt v.toNat i && !bitAt (s.justSet off) i)) ||
        (en && accBit (· == .w1s) off i && bitAt v.toNat i)) : Bool) := by
  rw [State.wordN_congr (writeFields_regs ..), bitAt_wordN_setWord _ _ _ i.isLt, bitAt_writtenWord _ _ _ _ _ _ _ hen]

theorem bitAt_shadow_writeFields {off : Nat} (v : Word) (be : BitVec 4) (s : State) (i : Fin 32) {en : Bool} (hen : en = bitAt be.toNat (i / 8))
    (hsh : shMask off ≠ 0) :
    bitAt ((writeFields off v.toNat be.toNat s).shadowN off) i = if en && shBit off i then bitAt v.toNat i else bitAt (s.shadowN off) i := by
  have hnew : (writeFields off v.toNat be.toNat s).shadowN off = blend (s.shadowN off) v.toNat (shMask off &&& beMask be.toNat) := by
    rw [State.shadowN, writeFields_shadow, if_neg hsh, Tbl.find_set_same]
  rw [hnew, bitAt_blend _ _ (and_lt_word (beMask_lt _)) i.isLt, bitAt_and, bitAt_shMask, bitAt_beMask, ← hen, Bool.and_comm]

/-! EVENT_PEND and EVENT_MASK (R475). -/

theorem bitAt_mergeBe (old : Nat) (v : Word) (be : BitVec 4) (i : Fin 32) :
    bitAt (mergeBe old v.toNat be.toNat) i = if bitAt be.toNat (i / 8) then bitAt v.toNat i else bitAt old i := by
  rw [mergeBe, bitAt_blend _ _ (beMask_lt _) i.isLt, bitAt_beMask]

theorem headerWrite_pend {h : Nat} (v be : Nat) (s : State) (hl : isLeaf h = true) :
    headerWrite h 0x20 v be s = { s with rep := { s.rep with pend := Tbl.upd 0 s.rep.pend h (fun w => s.w1c (h + 0x20) w (v &&& beMask be)) } } :=
  if_neg (by simp [isBasin_of_leaf hl])

end Sys2Proof.Machine
end

section
/-! Masters of BAR0 beside PCIe: JTAG (R445) and management packets (R352 to R354). -/

namespace Sys2Proof.Machine

open Sys2Proof.Claims

/-! JTAG REGACC. -/

theorem jtagAccess_bypass {s : State} (off v be : Nat) (read : Bool) (h : 2 ≤ s.boot.life) : jtagAccess off v be read s = s := if_pos h

theorem jtagAccess_noUnit {s : State} {off : Nat} (v be : Nat) (read : Bool) (h : s.boot.life < 2) (hu : inUnit off = false) :
    jtagAccess off v be read s = s.emit (.jtag 0 5) :=
  (if_neg (Nat.not_le.mpr h)).trans (if_pos (by rw [hu]; rfl))

theorem jtagAccess_write {s : State} {off : Nat} (v be : Nat) (h : s.boot.life < 2) (hu : inUnit off = true) :
    jtagAccess off v be false s = (bar0Write .jtag off v be s).emit (.jtag v 0) :=
  (if_neg (Nat.not_le.mpr h)).trans ((if_neg (by rw [hu]; decide)).trans (if_neg (by decide)))

theorem jtagAccess_read {s : State} {off : Nat} (v be : Nat) (h : s.boot.life < 2) (hu : inUnit off = true) :
    jtagAccess off v be true s = (bar0Take .jtag off s).2.emit (.jtag (bar0Take .jtag off s).1 0) :=
  (if_neg (Nat.not_le.mpr h)).trans ((if_neg (by rw [hu]; decide)).trans (if_pos rfl))

/-! Events and log entries whose reports are few. -/

theorem runOcc_nil (n : Nat) (s : State) (r : Rep) : runOcc n s [] r = r := by cases n <;> rfl

/-- A masked event while the counters are frozen sets its EVENT_PEND bit and no more. -/
theorem raise_masked {h b : Nat} {s : State} (hf : s.flag R.PERF_CTRL_FREEZE = true) (hm : bitAt (s.wordN (h + 0x24)) b = true) :
    raise h b s = { s with rep := { s.rep with pend := Tbl.upd 0 s.rep.pend h (· ||| 2 ^ b)
                                               fresh := freshen s.cclk (h + 0x20) (2 ^ b) s.rep.fresh } } := by
  have hocc : occur s s.rep h b = ({ s.rep with pend := Tbl.upd 0 s.rep.pend h (· ||| 2 ^ b)
                                                fresh := freshen s.cclk (h + 0x20) (2 ^ b) s.rep.fresh }, []) :=
    (if_pos hm).trans (if_pos hf)
  have hrun : runOcc 1000 s [(h, b)] s.rep = runOcc 999 s ([] ++ (occur s s.rep h b).2) (occur s s.rep h b).1 := rfl
  rw [raise, hrun, hocc, List.append_nil, runOcc_nil]

/-- A log entry while the queue has room. -/
theorem addLog_room (h k v c a0 a1 : Nat) {s : State} (hq : s.rep.logq.length < 256) :
    addLog h k v c a0 a1 s = { s with rep := { s.rep with logq := s.rep.logq ++ [mkEntry s h k v c a0 a1] } } := by
  rw [addLog, queueLog, if_pos hq, runOcc_nil]

/-! Bytes of a packet. -/

theorem leNat_append (a b : List Byte) : leNat (a ++ b) = leNat a + 256 ^ a.length * leNat b := by
  induction a with
  | nil => simp [leNat]
  | cons x t ih => simp only [List.cons_append, leNat, ih, List.length_cons, Nat.pow_succ]; ring

theorem leNat_lt (l : List Byte) : leNat l < 256 ^ l.length := by
  induction l with
  | nil => simp [leNat]
  | cons x t ih =>
    have := x.isLt
    simp only [leNat, List.length_cons, Nat.pow_succ]
    omega

theorem leAt_lt (bs : List Byte) (o n : Nat) : leAt bs o n < 256 ^ n :=
  Nat.lt_of_lt_of_le (leNat_lt _) (Nat.pow_le_pow_right (by decide) (List.length_take_le ..))

/-- A field of a packet is made of its low and its high bytes. -/
theorem leAt_add {bs : List Byte} {o m : Nat} (n : Nat) (h : o + m ≤ bs.length) :
    leAt bs o (m + n) = leAt bs o m + 256 ^ m * leAt bs (o + m) n := by
  have hlen : ((bs.drop o).take m).length = m := by rw [List.length_take, List.length_drop]; omega
  rw [leAt, List.take_add, leNat_append, hlen, List.drop_drop]
  rfl

/-- The first word of a request with one operation. -/
theorem leAt_head {bs : List Byte} (hl : bs.length = 64) (h : leAt bs 0 4 = 0x01014D57) :
    leAt bs 0 2 = 0x4D57 ∧ leAt bs 2 1 = 1 ∧ leAt bs 3 1 = 1 := by
  have e1 : leAt bs 0 4 = leAt bs 0 2 + 256 ^ 2 * leAt bs 2 2 := leAt_add 2 (by omega)
  have e2 : leAt bs 2 2 = leAt bs 2 1 + 256 ^ 1 * leAt bs 3 1 := leAt_add 1 (by omega)
  have b1 := leAt_lt bs 0 2
  have b2 := leAt_lt bs 2 1
  omega

/-! Acceptance of a request (R352). -/

/-- Is a request accepted? -/
theorem mgmtOk_iff (s : State) (bs : List Byte) : mgmtOk s bs = true ↔
    1 ≤ leAt bs 3 1 ∧ leAt bs 3 1 ≤ 64 ∧ bs.length = 56 + 8 * leAt bs 3 1 ∧ leAt bs 0 2 = 0x4D57 ∧ leAt bs 2 1 = 1 ∧ leAt bs 4 4 = 0 ∧
    (∀ i < leAt bs 3 1, leAt bs (24 + 8 * i) 4 &&& 0x7E000003 = 0) ∧
    (∃ k, s.net.key = some k ∧ bs.drop (bs.length - 32) = hmacSha256 k (bs.take (bs.length - 32))) ∧
    leAt bs 8 8 = s.pair R.MGMT_BOOT_ID_LO ∧ s.pair R.MGMT_MSEQ < leAt bs 16 8 := by
  unfold mgmtOk
  cases s.net.key <;>
    simp only [Bool.and_eq_true, decide_eq_true_eq, beq_iff_eq, List.all_eq_true, List.mem_range, and_assoc, Option.some.injEq,
      exists_eq_left', reduceCtorEq, Bool.false_eq_true, false_and, exists_const, and_false]

theorem mgmtOk_eq_false {s : State} {bs key : List Byte}
    (h : leAt bs 0 2 ≠ 0x4D57 ∨ leAt bs 2 1 ≠ 1 ∨ leAt bs 3 1 = 0 ∨ 64 < leAt bs 3 1 ∨ bs.length ≠ 56 + 8 * leAt bs 3 1 ∨
      leAt bs 8 8 ≠ s.pair R.MGMT_BOOT_ID_LO ∨ leAt bs 16 8 ≤ s.pair R.MGMT_MSEQ ∨ s.net.key = none ∨
      (s.net.key = some key ∧ bs.drop (bs.length - 32) ≠ hmacSha256 key (bs.take (bs.length - 32)))) : mgmtOk s bs = false := by
  refine Bool.eq_false_iff.mpr fun hok => ?_
  obtain ⟨h1, h2, h3, h4, h5, -, -, ⟨k, hk, hmac⟩, h6, h7⟩ := (mgmtOk_iff s bs).mp hok
  rcases h with h | h | h | h | h | h | h | h | ⟨h, hne⟩
  · exact h h4
  · exact h h5
  · omega
  · omega
  · exact h h3
  · exact h h6
  · omega
  · rw [hk] at h; cases h
  · rw [hk] at h
    cases h
    exact hne hmac

/-- A request of one operation with the right HMAC, for this start and not seen before. -/
theorem mgmtOk_one {s : State} {bs key : List Byte} (h0 : leAt bs 0 4 = 0x01014D57) (h4 : leAt bs 4 4 = 0) (hl : bs.length = 64)
    (hid : leAt bs 8 8 = s.pair R.MGMT_BOOT_ID_LO) (hseq : s.pair R.MGMT_MSEQ < leAt bs 16 8) (hk : s.net.key = some key)
    (hmac : bs.drop 32 = hmacSha256 key (bs.take 32)) (hop : leAt bs 24 4 &&& 0x7E000003 = 0) : mgmtOk s bs = true := by
  obtain ⟨e0, e2, e3⟩ := leAt_head hl h0
  refine (mgmtOk_iff s bs).mpr ⟨by omega, by omega, by omega, e0, e2, h4, fun i hi => ?_, ⟨key, hk, by rw [hl]; exact hmac⟩, hid, hseq⟩
  rw [e3] at hi
  rw [Nat.lt_one_iff.mp hi]
  exact hop

/-! What a link does with the packet. -/

/-- The state in which an accepted request has been counted. -/
def mgmtTaken (seq : Nat) (s : State) : State := (s.setPair R.MGMT_MSEQ seq).bump64 R.MGMT_ACC 1

theorem mgmtRx_down {s : State} {k : Nat} (mac : List Byte) (v6 : Bool) (ip port : Nat) (bs : List Byte) (h : lnkUp s k = false) :
    mgmtRx k mac v6 ip port bs s = s := if_pos (by rw [h]; rfl)

theorem mgmtRx_closed {s : State} {k : Nat} (mac : List Byte) (v6 : Bool) (ip port : Nat) (bs : List Byte) (h : lnkUp s k = true)
    (he : s.flag R.MGMT_CFG_EN = false) : mgmtRx k mac v6 ip port bs s = s.bump64 (R.NET_RX_DISCARD k) 1 :=
  (if_neg (by rw [h]; decide)).trans ((if_pos (by rw [he]; rfl)).trans (if_pos h))

theorem mgmtRx_rejected {s : State} {k : Nat} (mac : List Byte) (v6 : Bool) (ip port : Nat) {bs : List Byte} (h : lnkUp s k = true)
    (he : s.flag R.MGMT_CFG_EN = true) (hok : mgmtOk s bs = false) : mgmtRx k mac v6 ip port bs s = mgmtReject s :=
  (if_neg (by rw [h]; decide)).trans ((if_neg (by rw [he]; decide)).trans (if_pos (by rw [hok]; rfl)))

/-- An accepted request of one operation, while that operation leaves the key. -/
theorem mgmtRx_one {s : State} {k : Nat} (mac : List Byte) (v6 : Bool) (ip port : Nat) {bs key : List Byte} (h : lnkUp s k = true)
    (he : s.flag R.MGMT_CFG_EN = true) (hok : mgmtOk s bs = true) (h1 : leAt bs 3 1 = 1) (hk : s.net.key = some key) {x : List Byte × State}
    (hx : mgmtOp (leAt bs 24 4) (leAt bs 28 4) (mgmtTaken (leAt bs 16 8) s) = x) {body : List Byte}
    (hbody : leBytes 2 0x5257 ++ (bs.take 24).drop 2 ++ x.1 = body) :
    mgmtRx k mac v6 ip port bs s =
      if x.2.net.key.isNone then x.2 else sendNow k "MGMT" (mgmtFrame x.2 k mac v6 ip port (body ++ hmacSha256 key body)) x.2 := by
  have hrun : mgmtRun bs (leAt bs 3 1) (mgmtTaken (leAt bs 16 8) s) = x := by
    have hkey : (mgmtTaken (leAt bs 16 8) s).net.key.isNone = false := by
      rw [show (mgmtTaken (leAt bs 16 8) s).net = s.net from rfl, hk]
      rfl
    rw [h1, mgmtRun, List.range_one, List.foldl_cons, List.foldl_nil, hkey, if_neg (by decide)]
    exact hx
  have hrx : mgmtRx k mac v6 ip port bs s =
      (let x := mgmtRun bs (leAt bs 3 1) (mgmtTaken (leAt bs 16 8) s)
       let body := leBytes 2 0x5257 ++ (bs.take 24).drop 2 ++ x.1
       if x.2.net.key.isNone then x.2
       else sendNow k "MGMT" (mgmtFrame x.2 k mac v6 ip port (body ++ hmacSha256 (s.net.key.getD []) body)) x.2) :=
    (if_neg (by rw [h]; decide)).trans ((if_neg (by rw [he]; decide)).trans (if_neg (by rw [hok]; decide)))
  rw [hrx, hrun, hk]
  dsimp only
  rw [hbody]
  rfl

end Sys2Proof.Machine
end

section
/-! What management packets leave (R352 to R354), and the clauses of `Obligations.RegisterAccess`. -/

namespace Sys2Proof.Machine

open Sys2Proof.Claims

/-! A rejected request. -/

theorem mgmtReject_again {s : State} (h : s.net.rejSec = some (s.clk.dt / unitsPerSec)) :
    mgmtReject s = raise hMgmt 0 (s.bump64 R.MGMT_REJ 1) := if_pos h

theorem mgmtReject_first {s : State} (h : s.net.rejSec ≠ some (s.clk.dt / unitsPerSec)) :
    mgmtReject s = addLog hMgmt 6 2 1 ((raise hMgmt 0 (s.bump64 R.MGMT_REJ 1)).wordN R.MGMT_REJ) 0
      { raise hMgmt 0 (s.bump64 R.MGMT_REJ 1) with net := { s.net with rejSec := some (s.clk.dt / unitsPerSec) } } := if_neg h

/-- The rejection is counted in MGMT_REJ, and in the first of a DT second noted for the log. -/
theorem mgmtReject_eq (s : State) : (mgmtReject s).regs = (s.bump64 R.MGMT_REJ 1).regs ∧
    mgmtReject s = { s with regs := (mgmtReject s).regs, rep := (mgmtReject s).rep, net := { s.net with rejSec := some (s.clk.dt / unitsPerSec) } } := by
  by_cases h : s.net.rejSec = some (s.clk.dt / unitsPerSec)
  · have hnet : { s.net with rejSec := some (s.clk.dt / unitsPerSec) } = s.net := by rw [← h]
    rw [mgmtReject_again h, hnet]
    exact ⟨rfl, rfl⟩
  · rw [mgmtReject_first h]
    exact ⟨rfl, rfl⟩

theorem mgmtReject_event (s : State) : Event hMgmt 0 s (mgmtReject s) := by
  have hraise : Event hMgmt 0 s (raise hMgmt 0 (s.bump64 R.MGMT_REJ 1)) :=
    ⟨raise_raised .., (raise_frame hMgmt 0 (s.bump64 R.MGMT_REJ 1)).congr_left rfl⟩
  by_cases h : s.net.rejSec = some (s.clk.dt / unitsPerSec)
  · rw [mgmtReject_again h]
    exact hraise
  · rw [mgmtReject_first h]
    have hlog := (addLog_frame hMgmt 6 2 1 ((raise hMgmt 0 (s.bump64 R.MGMT_REJ 1)).wordN R.MGMT_REJ) 0
      { raise hMgmt 0 (s.bump64 R.MGMT_REJ 1) with net := { s.net with rejSec := some (s.clk.dt / unitsPerSec) } }).congr_left
      (s := raise hMgmt 0 (s.bump64 R.MGMT_REJ 1)) rfl
    exact ⟨hraise.1.kept hlog, (hraise.2.trans hlog).mono (by simp) (by simp) (by simp)⟩

/-- The log entry of the first rejection in a DT second, where nothing else is logged. -/
theorem mgmtReject_logq {s : State} (hf : s.flag R.PERF_CTRL_FREEZE = true) (hm : bitAt (s.wordN (hMgmt + 0x24)) 0 = true)
    (hq : s.rep.logq.length < 256) : (mgmtReject s).rep.logq = s.rep.logq ++ (if s.net.rejSec = some (s.clk.dt / unitsPerSec) then [] else
      [{ unit := 0x1D50, kind := 6, sev := 2, code := 1, arg0 := (mgmtReject s).wordN R.MGMT_REJ, arg1 := 0, dt := s.clk.dt, coast := s.coast }]) := by
  have hkept := wordsKept_bump64 s R.MGMT_REJ 1
  have hf' : (s.bump64 R.MGMT_REJ 1).flag R.PERF_CTRL_FREEZE = true := (flag_of_kept hkept (by decide)).trans hf
  have hm' : bitAt ((s.bump64 R.MGMT_REJ 1).wordN (hMgmt + 0x24)) 0 = true := by rw [wordN_of_kept hkept (by decide)]; exact hm
  have hlogq : (raise hMgmt 0 (s.bump64 R.MGMT_REJ 1)).rep.logq = s.rep.logq := by rw [raise_masked hf' hm']; rfl
  by_cases h : s.net.rejSec = some (s.clk.dt / unitsPerSec)
  · rw [if_pos h, List.append_nil, mgmtReject_again h, hlogq]
  · rw [if_neg h, State.wordN_congr (mgmtReject_eq s).1, mgmtReject_first h, addLog_room _ _ _ _ _ _ (by rw [hlogq]; exact hq)]
    have hcoast : (s.bump64 R.MGMT_REJ 1).coast = s.coast := by
      rw [State.coast, State.coast, flag_of_kept hkept (by decide), fld_of_kept hkept (by decide)]
    have hentry : mkEntry { raise hMgmt 0 (s.bump64 R.MGMT_REJ 1) with net := { s.net with rejSec := some (s.clk.dt / unitsPerSec) } }
        hMgmt 6 2 1 ((raise hMgmt 0 (s.bump64 R.MGMT_REJ 1)).wordN R.MGMT_REJ) 0 =
        { unit := 0x1D50, kind := 6, sev := 2, code := 1, arg0 := (s.bump64 R.MGMT_REJ 1).wordN R.MGMT_REJ, arg1 := 0, dt := s.clk.dt
          coast := s.coast } := by
      rw [← hcoast, ← Nat.mod_eq_of_lt ((s.bump64 R.MGMT_REJ 1).wordN_lt R.MGMT_REJ)]
      rfl
    rw [hentry, ← hlogq]

/-! An accepted request. -/

theorem wordsKept_mgmtTaken (seq : Nat) (s : State) :
    WordsKept s (mgmtTaken seq s) [R.MGMT_MSEQ, R.MGMT_MSEQ + 4, R.MGMT_ACC, R.MGMT_ACC + 4] :=
  wordsKept_trans (wordsKept_setPair s R.MGMT_MSEQ seq) (wordsKept_bump64 (s.setPair R.MGMT_MSEQ seq) R.MGMT_ACC 1)

theorem pair_seq_mgmtTaken {seq : Nat} (s : State) (h : seq < 2 ^ 64) : (mgmtTaken seq s).pair R.MGMT_MSEQ = seq :=
  (pair_of_kept (wordsKept_bump64 (s.setPair R.MGMT_MSEQ seq) R.MGMT_ACC 1) (by decide) (by decide)).trans (State.pair_setPair s _ _ h)

theorem pair_acc_mgmtTaken (seq : Nat) (s : State) : (mgmtTaken seq s).pair R.MGMT_ACC = (s.pair R.MGMT_ACC + 1) % 2 ^ 64 := by
  rw [mgmtTaken, pair_bump64, pair_of_kept (wordsKept_setPair s R.MGMT_MSEQ seq) (by decide) (by decide)]

/-- Offsets of the blocks of the four links lie below the management unit. -/
theorem link_notMem {k : Nat} (hk : k < 4) {o : Nat} (ho : o < 0x01D11000 + 0x1000 * k) :
    o ∉ [R.MGMT_MSEQ, R.MGMT_MSEQ + 4, R.MGMT_ACC, R.MGMT_ACC + 4] := by
  simp only [R.MGMT_MSEQ, R.MGMT_ACC, List.mem_cons, List.not_mem_nil, or_false]
  omega

theorem mgmtCount_notMem {k : Nat} (hk : k < 4) {o : Nat} (ho : 0x01D50000 ≤ o) : o ∉ [R.NET_TX_FRAMES k, R.NET_TX_FRAMES k + 4] := by
  simp only [R.NET_TX_FRAMES, List.mem_cons, List.not_mem_nil, or_false]
  omega

theorem lnkUp_mgmtTaken {k : Nat} (hk : k < 4) (seq : Nat) (s : State) : lnkUp (mgmtTaken seq s) k = lnkUp s k :=
  flag_of_kept (wordsKept_mgmtTaken seq s) (link_notMem hk (show 0x01D10044 + 0x1000 * k < 0x01D11000 + 0x1000 * k by omega))

/-- The response is the same before and after the count. -/
theorem mgmtFrame_mgmtTaken {k : Nat} (hk : k < 4) (seq : Nat) (s : State) (mac : List Byte) (v6 : Bool) (ip port : Nat) (body : List Byte) :
    mgmtFrame (mgmtTaken seq s) k mac v6 ip port body = mgmtFrame s k mac v6 ip port body := by
  have hword : ∀ d < 0x1000, (mgmtTaken seq s).wordN (0x01D10000 + d + 0x1000 * k) = s.wordN (0x01D10000 + d + 0x1000 * k) := fun d hd =>
    wordN_of_kept (wordsKept_mgmtTaken seq s) (link_notMem hk (by omega))
  have hport := fld_of_kept (wordsKept_mgmtTaken seq s) (m := R.MGMT_CFG_MGMT_PORT) (by decide)
  have hmac : (mgmtTaken seq s).linkMac k = s.linkMac k := by
    rw [State.linkMac, State.linkMac, R.NET_MAC_LO, R.NET_MAC_HI, hword 0x48 (by decide), hword 0x4C (by decide)]
  have hip4 : (mgmtTaken seq s).linkIp4 k = s.linkIp4 k := by rw [State.linkIp4, State.linkIp4, R.NET_IP4, hword 0x50 (by decide)]
  have hip6 : (mgmtTaken seq s).linkIp6 k = s.linkIp6 k := by
    refine List.flatMap_congr fun w hw => ?_
    have hw4 := List.mem_range.mp hw
    have hoff : R.NET_IP6 k w = 0x01D10000 + (0x54 + 4 * w) + 0x1000 * k := by unfold R.NET_IP6; omega
    rw [hoff, hword _ (by omega)]
  rw [mgmtFrame, mgmtFrame, hport, hmac, hip4, hip6]

/-- A read by a master that takes the value itself leaves the module as it was. -/
theorem bar0Take_of_read {path : Path} {off o v : Nat} {s : State} (h : bar0Read path off s = s.emit (.regRead path o v)) :
    bar0Take path off s = (v, s) := by
  rw [bar0Take, h]
  rfl

/-- A read of UNIT_CAPS returns the word: its one field is read-only. -/
theorem bar0Read_unitCaps (path : Path) (s : State) : bar0Read path 0x44 s = s.emit (.regRead path 0x44 (s.wordN 0x44)) := by
  have hsh : shMask 0x44 = 0 := by decide +kernel
  have hmask : readMask 0x44 = 2 ^ 32 - 1 := by decide +kernel
  have hread : plainRead s path 0x44 = true := by cases path <;> rfl
  have hval : regValue s 0x44 = s.wordN 0x44 := by
    rw [regValue_of_plainRead s hread, hsh, hmask, blend, Nat.and_zero, Nat.or_zero,
      show 0xFFFFFFFF - 0 = 2 ^ 32 - 1 from rfl, Nat.and_two_pow_sub_one_of_lt_two_pow (s.wordN_lt _),
      Nat.and_two_pow_sub_one_of_lt_two_pow (s.wordN_lt _)]
  rw [bar0Read_of_plainRead s hread (by decide +kernel) (Or.inr (by decide +kernel)), hval]

/-- A word that asks for a write at `off`, which is aligned, has no reserved bit set. -/
theorem writeOp_fields {off : Nat} (hlt : off < 2 ^ 25) (h4 : off % 4 = 0) :
    (0x80000000 + off) &&& 0x7E000003 = 0 ∧ (0x80000000 + off) % 2 ^ 25 = off ∧ bitAt (0x80000000 + off) 31 = true := by
  have hlow : (0x80000000 + off) % 2 ^ 25 = off := by omega
  have hhigh : (0x80000000 + off) / 2 ^ 25 = 64 := by omega
  have e1 : ((0x80000000 + off) &&& 0x7E000003) % 2 ^ 25 = 0 := by
    rw [Nat.and_mod_two_pow, hlow]
    exact (Nat.and_two_pow_sub_one_eq_mod off 2).trans h4
  have e2 : ((0x80000000 + off) &&& 0x7E000003) / 2 ^ 25 = 0 := by
    rw [Nat.and_div_two_pow, hhigh]
    decide
  have hbit : (0x80000000 + off) / 2 ^ 31 = 1 := by omega
  exact ⟨by omega, hlow, by rw [bitAt, hbit]; rfl⟩

/-- A frame that the link sends changes reports and the link's count. -/
theorem sendNow_up {s : State} {k : Nat} (what : String) (fr : List Byte) (h : lnkUp s k = true) :
    sendNow k what fr s = (s.bump64 (R.NET_TX_FRAMES k) 1).emit (.frame k what (withFcs fr)) := if_pos h

theorem sendNow_kept (k : Nat) (what : String) (fr : List Byte) (s : State) :
    sendNow k what fr s = { s with regs := (sendNow k what fr s).regs, rep := (sendNow k what fr s).rep } ∧
    WordsKept s (sendNow k what fr s) [R.NET_TX_FRAMES k, R.NET_TX_FRAMES k + 4] := by
  unfold sendNow
  split
  · exact ⟨rfl, wordsKept_bump64 s _ 1⟩
  · exact ⟨rfl, wordsKept_of_regs rfl⟩

/-- What leaves with the count of a frame. -/
theorem rep_emit_count (seq off : Nat) (x : Out) (s : State) :
    (((mgmtTaken seq s).bump64 off 1).emit x).rep = { s.rep with out := x :: s.rep.out } := rfl

theorem mgmtTaken_eq (seq : Nat) (s : State) : mgmtTaken seq s = { s with regs := (mgmtTaken seq s).regs } := rfl

theorem emit_count_eq (seq off : Nat) (x : Out) (s : State) : ((mgmtTaken seq s).bump64 off 1).emit x =
    { s with regs := (((mgmtTaken seq s).bump64 off 1).emit x).regs, rep := (((mgmtTaken seq s).bump64 off 1).emit x).rep } := by
  have hcount : ∀ u : State, (u.bump64 off 1).emit x = { u with regs := ((u.bump64 off 1).emit x).regs, rep := ((u.bump64 off 1).emit x).rep } :=
    fun _ => rfl
  exact (hcount _).trans (congrArg (fun u : State => { u with regs := (((mgmtTaken seq s).bump64 off 1).emit x).regs
                                                              rep := (((mgmtTaken seq s).bump64 off 1).emit x).rep }) (mgmtTaken_eq seq s))

/-- An accepted request to read UNIT_CAPS is counted and answered. -/
theorem mgmtRx_readCaps {s : State} {k : Nat} (hk4 : k < 4) (mac : List Byte) (v6 : Bool) (ip port : Nat) {bs key body : List Byte}
    (h : lnkUp s k = true) (he : s.flag R.MGMT_CFG_EN = true) (hok : mgmtOk s bs = true) (h1 : leAt bs 3 1 = 1) (hk : s.net.key = some key)
    (hop : leAt bs 24 4 = 0x44) (hbody : body = leBytes 2 0x5257 ++ (bs.take 24).drop 2 ++ leBytes 4 0x44 ++ leBytes 4 (s.wordN 0x44)) :
    mgmtRx k mac v6 ip port bs s = ((mgmtTaken (leAt bs 16 8) s).bump64 (R.NET_TX_FRAMES k) 1).emit
      (.frame k "MGMT" (withFcs (mgmtFrame s k mac v6 ip port (body ++ hmacSha256 key body)))) := by
  have hcaps : (mgmtTaken (leAt bs 16 8) s).wordN 0x44 = s.wordN 0x44 := wordN_of_kept (wordsKept_mgmtTaken _ s) (by decide)
  have hx : mgmtOp (leAt bs 24 4) (leAt bs 28 4) (mgmtTaken (leAt bs 16 8) s) =
      (leBytes 4 0x44 ++ leBytes 4 (s.wordN 0x44), mgmtTaken (leAt bs 16 8) s) := by
    rw [hop, mgmtOp, if_neg (by decide), show 0x44 % 2 ^ 25 = 0x44 from rfl, bar0Take_of_read (bar0Read_unitCaps .mgmt _), hcaps]
  have hup : lnkUp (mgmtTaken (leAt bs 16 8) s) k = true := (lnkUp_mgmtTaken hk4 _ s).trans h
  have hkey : (mgmtTaken (leAt bs 16 8) s).net.key.isNone = false := by
    rw [show (mgmtTaken (leAt bs 16 8) s).net = s.net from rfl, hk]
    rfl
  rw [mgmtRx_one mac v6 ip port h he hok h1 hk hx ((List.append_assoc ..).symm.trans hbody.symm), if_neg (by rw [hkey]; decide),
    sendNow_up _ _ hup, mgmtFrame_mgmtTaken hk4]

/-- An accepted request to write a word writes it, then answers. -/
theorem mgmtRx_write {s : State} {k : Nat} (mac : List Byte) (v6 : Bool) (ip port : Nat) {bs key : List Byte} {off : Nat}
    (h : lnkUp s k = true) (he : s.flag R.MGMT_CFG_EN = true) (hok : mgmtOk s bs = true) (h1 : leAt bs 3 1 = 1) (hk : s.net.key = some key)
    (hop : leAt bs 24 4 = 0x80000000 + off) (hlt : off < 2 ^ 25) (h4 : off % 4 = 0) {u : State}
    (hu : bar0Write .mgmt off (leAt bs 28 4) 15 (mgmtTaken (leAt bs 16 8) s) = u) :
    mgmtRx k mac v6 ip port bs s = { u with regs := (mgmtRx k mac v6 ip port bs s).regs, rep := (mgmtRx k mac v6 ip port bs s).rep } ∧
    WordsKept u (mgmtRx k mac v6 ip port bs s) [R.NET_TX_FRAMES k, R.NET_TX_FRAMES k + 4] := by
  obtain ⟨-, hlow, hbit⟩ := writeOp_fields hlt h4
  have hx : mgmtOp (leAt bs 24 4) (leAt bs 28 4) (mgmtTaken (leAt bs 16 8) s) = (leBytes 4 (leAt bs 24 4) ++ leBytes 4 (leAt bs 28 4), u) := by
    rw [hop, mgmtOp, if_pos hbit, hlow, hu]
  rw [mgmtRx_one mac v6 ip port h he hok h1 hk hx rfl]
  split
  · exact ⟨rfl, wordsKept_of_regs rfl⟩
  · exact sendNow_kept ..

/-! Reads and writes of header words. -/

theorem gives_readHeader {s : State} {path : Path} {o : BitVec 25} {h n v : Nat} (hh : isHeader h = true) (ho : o.toNat = h + n) (hn : n < 0x40)
    (h4 : n % 4 = 0) (hv : headerRead s h n = v) : Gives (.readLo path o) s fun t => t = s.emit (.regRead path o.toNat v) := by
  refine ⟨_, rfl, ?_⟩
  rw [ho, bar0Read_header path s hh hn h4, hv]

theorem exec_writeHeader {s : State} {path : Path} {o : BitVec 25} {h n : Nat} (v : Word) (be : BitVec 4) (hh : isHeader h = true)
    (ho : o.toNat = h + n) (hn : n < 0x40) (h4 : n % 4 = 0) :
    exec (.registerWrite path { off := o, val := v, be := be }) s = .next (headerWrite h n v.toNat be.toNat s) := by
  rw [← bar0Write_header path v.toNat be.toNat s hh hn h4, ← ho]
  rfl

/-- Ones written to EVENT_PEND clear its bits, but for those set in this cycle. -/
theorem bitAt_pend_headerWrite {h : Nat} (v : Word) (be : BitVec 4) (s : State) (i : Fin 32) {en : Bool} (hen : en = bitAt be.toNat (i / 8))
    (hl : isLeaf h = true) : bitAt ((headerWrite h 0x20 v.toNat be.toNat s).pendOf h) i =
      (bitAt (s.pendOf h) i && (!(en && bitAt v.toNat i) || bitAt (s.justSet (h + 0x20)) i)) := by
  have hnew : (headerWrite h 0x20 v.toNat be.toNat s).pendOf h = s.w1c (h + 0x20) (s.pendOf h) (v.toNat &&& beMask be.toNat) := by
    rw [headerWrite_pend _ _ s hl]
    exact Tbl.get_set_same ..
  rw [hnew, bitAt_w1c s _ _ (and_lt_word (beMask_lt _)) i.isLt, bitAt_and, bitAt_beMask, ← hen, Bool.and_comm en]

theorem pendOf_headerWrite_ne {h a : Nat} (v be : Nat) (s : State) (hl : isLeaf h = true) (ha : a ≠ h) :
    (headerWrite h 0x20 v be s).pendOf a = s.pendOf a := by
  rw [headerWrite_pend v be s hl]
  exact Tbl.get_set_ne _ _ _ (Ne.symm ha)

end Sys2Proof.Machine

open Sys2Proof Sys2Proof.Machine Sys2Proof.Claims

/-- Settles O54: header words and member tables lie apart from the words with a rule of their own, and every other word is read and written bit by bit
as the access types of its fields say. -/
theorem registerAccess : Obligations.RegisterAccess := by
  unfold Obligations.RegisterAccess
  intro s path o v be i off a h n en k mac v6 ip port bs key body ops hoff hen
  subst hoff
  refine ⟨fun hw hf => ?write, fun hw hf => ?unassignedWrite, fun hr hf hlo hhi => ?unassignedRead, fun hr hlo hhi => ?read,
    fun hl ho => ?leaf, fun hb => ?basin, fun hj => ?jtagBypass, fun hj hu => ?jtagNoUnit, fun hj hu => ?jtagWrite, fun hj hu => ?jtagRead,
    fun hup => ?down, fun hup he => ?closed, fun hup he hops hn hbad => ?rejected,
    fun hup he h0 h4 hlen hid hseq hk hmac => ?accepted⟩
  case write =>
    refine ⟨_, congrArg Host.Outcome.next ((bar0Write_of_plainWord v.toNat be.toNat s hw).trans (if_neg hf)), ?_⟩
    exact ⟨bitAt_word_writeFields _ v be s i hen, bitAt_shadow_writeFields v be s i hen, find_shadow_writeFields _ _ s, writeFields_eq ..,
      wordsKept_writeFields _ _ _ s⟩
  case unassignedWrite => exact ⟨_, congrArg Host.Outcome.next ((bar0Write_of_plainWord v.toNat be.toNat s hw).trans (if_pos hf)), rfl⟩
  case unassignedRead =>
    refine ⟨_, rfl, ?_⟩
    rw [bar0Read_of_plainRead s hr hlo hhi, regValue_of_noFields s hr hf]
  case read =>
    refine ⟨_, congrArg Host.Outcome.next (bar0Read_of_plainRead s hr hlo hhi), rfl, bitAt_regValue s i hr⟩
  case leaf =>
    have hh := isHeader_of_leaf hl
    have hb := isBasin_of_leaf hl
    refine ⟨?_, ?_, ?_, ?_, ?_, ?_, ?_, ?_, ?_, ?_, ?_⟩
    · rintro rfl
      exact gives_readHeader hh ho (by decide) (by decide) rfl
    · rintro rfl
      exact gives_readHeader hh ho (by decide) (by decide) (by simp [headerRead, hb, b2n])
    · rintro rfl
      exact gives_readHeader hh ho (by decide) (by decide) rfl
    · rintro rfl hbank
      exact gives_readHeader hh ho (by decide) (by decide) ((if_neg (by simp [hb])).trans (leafStatus_eq s hl hbank))
    · rintro rfl
      exact gives_readHeader hh ho (by decide) (by decide) (if_neg (by simp [hb]))
    · rintro rfl
      exact gives_readHeader hh ho (by decide) (by decide) (if_neg (by simp [hb]))
    · rintro rfl
      exact gives_readHeader hh ho (by decide) (by decide) rfl
    · rintro rfl hfwd
      exact gives_readHeader hh ho (by decide) (by decide) (by simp [headerRead, cmdStatus, hfwd])
    · rintro (rfl | rfl | rfl | rfl | rfl | rfl | rfl | rfl)
      all_goals exact gives_readHeader hh ho (by decide) (by decide) (by simp [headerRead, members_of_leaf hl, hb])
    · rintro rfl
      refine ⟨_, exec_writeHeader v be hh ho (by decide) (by decide), bitAt_pend_headerWrite v be s i hen hl,
        pendOf_headerWrite_ne _ _ s hl, ?_⟩
      rw [headerWrite_pend _ _ s hl]
    · rintro rfl
      refine ⟨_, exec_writeHeader v be hh ho (by decide) (by decide), ?_, rfl, ?_⟩
      · rw [ho, hen, ← bitAt_mergeBe]
        exact bitAt_wordN_setWord _ _ _ i.isLt
      · rw [ho]
        exact wordsKept_setWord s _ _
  case basin =>
    have hh := isHeader_of_basin hb
    refine ⟨fun ho => ?_, fun ho => ?_, fun ho => ?_, fun ho => ?_, fun hn ho => ?_⟩
    · exact gives_readHeader hh ho (by decide) (by decide) rfl
    · exact gives_readHeader hh ho (by decide) (by decide) (if_pos hb)
    · refine gives_readHeader hh ho (by decide) (by decide) ((if_pos hb).trans ?_)
      simp only [bne, ne_eq, decide_not, Bool.beq_eq_decide_eq]
    · exact gives_readHeader hh ho (by decide) (by decide) (if_pos hb)
    · refine ⟨_, rfl, ?_⟩
      rw [ho, bar0Read_member path s hb hn]
  case jtagBypass => exact ⟨_, congrArg Host.Outcome.next (jtagAccess_bypass _ _ _ en hj), rfl⟩
  case jtagNoUnit => exact ⟨_, congrArg Host.Outcome.next (jtagAccess_noUnit _ _ en hj hu), rfl⟩
  case jtagWrite => exact ⟨_, congrArg Host.Outcome.next (jtagAccess_write _ _ hj hu), _, rfl, rfl⟩
  case jtagRead => exact ⟨_, congrArg Host.Outcome.next (jtagAccess_read _ _ hj hu), _, rfl, rfl⟩
  case down => exact ⟨_, congrArg Host.Outcome.next (mgmtRx_down _ _ _ _ _ hup), rfl⟩
  case closed =>
    exact ⟨_, congrArg Host.Outcome.next (mgmtRx_closed _ _ _ _ _ hup he), pair_bump64 .., rfl, wordsKept_bump64 s _ _⟩
  case rejected =>
    subst hops hn
    obtain ⟨hregs, heq⟩ := mgmtReject_eq s
    refine ⟨_, congrArg Host.Outcome.next (mgmtRx_rejected _ _ _ _ hup he (mgmtOk_eq_false hbad)), ?_, mgmtReject_event s, heq, ?_,
      mgmtReject_logq⟩
    · rw [State.pair, State.wordN_congr hregs, State.wordN_congr hregs]
      exact pair_bump64 ..
    · exact fun w hw => (State.word_congr hregs w).trans (wordsKept_bump64 s _ _ w hw)
  case accepted =>
    obtain ⟨-, -, h1⟩ := leAt_head hlen h0
    refine ⟨fun hop hcaps hbody => ?_, fun hop hoff hval => ?_⟩
    · have hok := mgmtOk_one h0 h4 hlen hid hseq hk hmac (by rw [hop]; decide)
      have hrx := mgmtRx_readCaps k.isLt (beBytes 6 mac.toNat) v6 (if v6 then ip.toNat else ip.toNat % 2 ^ 32) port.toNat hup he hok h1 hk hop
        (hcaps ▸ hbody)
      have hkept := wordsKept_bump64 (mgmtTaken (leAt bs 16 8) s) (R.NET_TX_FRAMES k) 1
      have hpair : ∀ p ≥ 0x01D50000, ((mgmtTaken (leAt bs 16 8) s).bump64 (R.NET_TX_FRAMES k) 1).pair p = (mgmtTaken (leAt bs 16 8) s).pair p :=
        fun p hp => pair_of_kept hkept (mgmtCount_notMem k.isLt hp) (mgmtCount_notMem k.isLt (Nat.le_add_right_of_le hp))
      refine ⟨_, congrArg Host.Outcome.next hrx, rep_emit_count _ _ _ s, ?_, ?_, emit_count_eq _ _ _ s,
        wordsKept_trans (wordsKept_mgmtTaken (leAt bs 16 8) s) hkept⟩
      · exact (hpair R.MGMT_MSEQ (by decide)).trans (pair_seq_mgmtTaken s (leAt_lt bs 16 8))
      · exact (hpair R.MGMT_ACC (by decide)).trans (pair_acc_mgmtTaken _ s)
    · have hok := mgmtOk_one h0 h4 hlen hid hseq hk hmac (by rw [hop]; exact (writeOp_fields o.isLt hoff).1)
      obtain ⟨heq, hkept⟩ := mgmtRx_write (beBytes 6 mac.toNat) v6 (if v6 then ip.toNat else ip.toNat % 2 ^ 32) port.toNat hup he hok h1 hk hop
        o.isLt hoff rfl
      rw [← hval] at heq hkept
      have hmem := congrArg State.mem heq
      have hshadow := congrArg State.shadow heq
      have hsnaps := congrArg State.snaps heq
      have hweir := congrArg State.weir heq
      exact ⟨_, rfl, _, rfl, hmem, hshadow, hsnaps, hweir, hkept⟩
end

section
/-! What reset leaves (R28, R376, R446): the words of the register tables at their Reset columns. -/

namespace Sys2Proof.Machine

/-- A word below Brook's and outside the Pool's owner words that no row of the reset values names resets to 0. -/
theorem resetNat_of_not_named {off : Nat} (h : ∀ r ∈ resetRows, ¬ Named (r.1, r.2.1) off) (hbrk : off < 0x1E80000)
    (hpool : off < 0x1821000 ∨ 0x1822400 ≤ off) : resetNat off = 0 := by
  have hnone : resetRows.find? (fun x => decide (x.1 ≤ off) && dimsMatch x.2.1 false (off - x.1)) = none :=
    List.find?_eq_none.mpr fun r hr hm => h r hr (by simpa [Named] using hm)
  have hbrk' : ¬ (0x01E80000 ≤ off ∧ off < 0x01E81000) := by omega
  have hpool' : ¬ (0x01821000 ≤ off ∧ off < 0x01822400) := by omega
  rw [resetNat, if_neg hbrk', if_neg hpool', hnone]
  rfl

/-- Every row of the reset values names one of these words, or words in one of these ranges. -/
theorem not_named_resetRows {off : Nat} (hbrk : off < 0x1E80000)
    (hone : off ∉ ([0x40, 0x44, 0x58, 0x4040, 0x100084, 0x1440060, 0x18100A8] : List Nat)) (hing : off < 0x400000 ∨ 0x500000 ≤ off)
    (hcap : off < 0x1420000 ∨ 0x1430000 ≤ off) (hrsv : off < 0x1811000 ∨ 0x1822400 ≤ off) (hmsix : off < 0x1D38000 ∨ 0x1D39000 ≤ off) :
    ∀ r ∈ resetRows, ¬ Named (r.1, r.2.1) off := by
  simp only [List.mem_cons, List.not_mem_nil, or_false, not_or] at hone
  simp only [resetRows, Named, dimsMatch, List.forall_mem_cons, Bool.and_eq_true, Bool.or_eq_true, Bool.false_and, Bool.false_eq_true, or_false,
    decide_eq_true_eq, beq_iff_eq, List.not_mem_nil, false_implies, implies_true, and_true]
  omega

end Sys2Proof.Machine

open Sys2Proof Sys2Proof.Machine Sys2Proof.Claims

/-- Settles O59: at reset no word has been written, so each reads its reset value, and every table is empty. -/
theorem resetState : Obligations.ResetState := by
  unfold Obligations.ResetState
  intro h b off p l r v path
  refine ⟨rfl, rfl, rfl, rfl, ?map, ?lanes, ?status, rfl, rfl, ?retired, ?msix, rfl, fun hbrk hone hing hcap hrsv hmsix => ?zero,
    rfl, rfl, rfl, rfl, rfl, rfl, rfl, rfl, rfl, rfl, rfl, rfl, rfl⟩
  case map => revert p; decide +kernel
  case lanes => revert p l; decide +kernel
  case status => revert p; decide +kernel
  case retired => revert r; decide +kernel
  case msix => revert v; decide +kernel
  case zero =>
    have hnot := not_named_resetRows hbrk hone hing hcap hrsv hmsix
    exact congrArg (BitVec.ofNat 32) (resetNat_of_not_named hnot hbrk (by omega))
end

section
/-! The clock unit's commit and the raster (R35, R367): a snapshot that changes Rivulet's dividers takes its lock, and the raster stops with it. -/

namespace Sys2Proof.Machine

/-- The raster runs on a locked Rivulet (N_INT 20, ODIV 4), and the clock unit's pending snapshot sets ODIV to 5. -/
def rasterOnRivulet : State :=
  { State.reset with
    regs := [(R.CLK_RIV_CFG, 0x1100014#32), (R.DPY_CFG, 1#32), (R.DPY_STATUS, 1#32)]
    snaps := [{ hdr := hClk, words := [(R.CLK_RIV_CFG, 0x140014)] }] }

/-- The commit stops the raster. -/
theorem word_dpyStatus_clockCommit : (clockCommit rasterOnRivulet).word R.DPY_STATUS = 0#32 := by decide +kernel

/-- The snapshot alone leaves DPY_STATUS. -/
theorem word_dpyStatus_overlay : (overlay rasterOnRivulet [(R.CLK_RIV_CFG, 0x140014)]).word R.DPY_STATUS = 1#32 := by decide +kernel

end Sys2Proof.Machine

open Sys2Proof Sys2Proof.Machine Sys2Proof.Claims

/-- Refutes O57: its last clause keeps every word but those of the clock unit, while a commit that changes ODIV clears RIV_LOCK, which stops a running
raster (R487, R367) and so changes DPY_STATUS. -/
theorem not_commitSnapshots : ¬ Obligations.CommitSnapshots := by
  unfold Obligations.CommitSnapshots
  intro h
  obtain ⟨-, -, -, -, -, -, -, -, -, -, -, hcommit⟩ :=
    h rasterOnRivulet .pcie 0 0 0 0 0 0 0 0 0 0 0 [(R.CLK_RIV_CFG, 0x140014)] _ rfl rfl
  obtain ⟨t, ht, -, -, -, -, -, -, -, -, -, -, -, hkept⟩ := hcommit rfl (by decide)
  have htc : t = clockCommit rasterOnRivulet := (Host.Outcome.next.inj ht).symm
  have hword := hkept R.DPY_STATUS (by decide)
  rw [htc, word_dpyStatus_clockCommit, word_dpyStatus_overlay] at hword
  exact absurd hword (by decide)
end

section
/-! The command tables of the units (R479): which codes are commands, and that a write to a CMD word runs them. -/

namespace Sys2Proof.Machine

open Sys2Proof.Claims

/-! Headers. -/

theorem headerList_lt : headerList.all (fun h => decide (h + 0x1000 ≤ 2 ^ 25)) = true := by decide +kernel

/-- Every word of a header has an offset of 25 bits. -/
theorem toNat_headerWord {h n : Nat} (hh : isHeader h = true) (hn : n < 0x40) : (BitVec.ofNat 25 (h + n)).toNat = h + n := by
  have hlt : h + 0x1000 ≤ 2 ^ 25 := by simpa using List.all_eq_true.mp headerList_lt h (mem_headerList hh)
  rw [BitVec.toNat_ofNat, Nat.mod_eq_of_lt (by omega)]

theorem headerWrite_cmd_off {h : Nat} (v : Nat) {be : Nat} (s : State) (hbe : bitAt be 0 = false) : headerWrite h 0x28 v be s = s := by
  simp [headerWrite, hbe]

theorem headerWrite_cmd_leaf {h : Nat} (v : Nat) {be : Nat} (s : State) (hl : isLeaf h = true) (hbe : bitAt be 0 = true) :
    headerWrite h 0x28 v be s = unitCmd h (v % 256) s := by
  simp [headerWrite, hbe, isBasin_of_leaf hl]

theorem headerWrite_cmd_basin {b : Nat} (v : Nat) {be : Nat} (s : State) (hb : isBasin b = true) (hbe : bitAt be 0 = true) :
    headerWrite b 0x28 v be s = basinCmd b (v % 256) s := by
  simp [headerWrite, hbe, hb]

/-- A write of a CMD word with byte 0 enabled runs the command of the unit. -/
theorem exec_writeCmd {h : Nat} (s : State) (path : Path) (v : Word) {be : BitVec 4} (hl : isLeaf h = true) (hbe : bitAt be.toNat 0 = true) :
    exec (.registerWrite path { off := BitVec.ofNat 25 (h + 0x28), val := v, be := be }) s = .next (unitCmd h (v.toNat % 256) s) := by
  have hh := isHeader_of_leaf hl
  rw [exec_writeHeader v be hh (toNat_headerWord hh (by decide)) (by decide) (by decide), headerWrite_cmd_leaf _ s hl hbe]

/-! Commands by class and code. -/

/-- The header is that of a leaf unit of this class, with this number among its like. -/
abbrev UnitIs (h cls i : Nat) : Prop := isLeaf h = true ∧ unitClass h = cls ∧ unitInstance h = i

/-- The command of a class and code, where it takes effect at once. -/
def tableCmd (cls i code : Nat) : Option (State → Code × State) := if cls < 0x900 then cmdLow cls i code else cmdHigh cls i code

theorem unitCmd_mmu (code : Nat) (s : State) :
    unitCmd hMmu code s = if 1 ≤ code ∧ code ≤ 3 then runLong hMmu code (invCmd code) s else badCode hMmu code s := rfl

theorem unitCmd_lcs (code : Nat) (s : State) :
    unitCmd hLcs code s = if code = 1 ∨ code = 2 then lcsCmd code s else badCode hLcs code s := rfl

theorem unitCmd_other {h : Nat} (code : Nat) (s : State) (hmmu : h ≠ hMmu) (hlcs : h ≠ hLcs) :
    unitCmd h code s = match tableCmd (unitClass h) (unitInstance h) code with
      | some f => runCmd h code f s
      | none => badCode h code s := (if_neg hmmu).trans (if_neg hlcs)

theorem unitCmd_table {h cls i code : Nat} {f : State → Code × State} (s : State) (hu : UnitIs h cls i) (hf : tableCmd cls i code = some f)
    (hmmu : cls ≠ 0xB00) (hlcs : cls ≠ 0x1001) : unitCmd h code s = runCmd h code f s := by
  obtain ⟨-, rfl, rfl⟩ := hu
  have h1 : h ≠ hMmu := by rintro rfl; exact hmmu (by decide)
  have h2 : h ≠ hLcs := by rintro rfl; exact hlcs (by decide)
  rw [unitCmd_other code s h1 h2, hf]

/-- The codes of a class are those from 1 up to its highest one. -/
theorem le_codesOf_of_cmdLow {cls i code : Nat} {f : State → Code × State} (h : cmdLow cls i code = some f) : 1 ≤ code ∧ code ≤ codesOf cls := by
  unfold cmdLow at h
  split at h
  case h_29 => cases h
  all_goals decide

theorem le_codesOf_of_cmdHigh {cls i code : Nat} {f : State → Code × State} (h : cmdHigh cls i code = some f) : 1 ≤ code ∧ code ≤ codesOf cls := by
  unfold cmdHigh at h
  split at h
  case h_31 => cases h
  all_goals decide

theorem tableCmd_eq_none {cls code : Nat} (i : Nat) (hc : code = 0 ∨ codesOf cls < code) : tableCmd cls i code = none := by
  refine Option.eq_none_iff_forall_ne_some.mpr fun f hf => ?_
  have hle : 1 ≤ code ∧ code ≤ codesOf cls := by
    unfold tableCmd at hf
    split at hf
    · exact le_codesOf_of_cmdLow hf
    · exact le_codesOf_of_cmdHigh hf
  omega

theorem elim_find_le {l : List (Nat × Nat)} {k : Nat} (p : Nat × Nat → Bool) (h : ∀ y ∈ l, y.2 ≤ k) : (l.find? p).elim 0 Prod.snd ≤ k := by
  cases hf : l.find? p with
  | none => exact Nat.zero_le k
  | some y => exact h y (List.mem_of_find?_eq_some hf)

/-- No class has a code above 5. -/
theorem codesOf_le (cls : Nat) : codesOf cls ≤ 5 := elim_find_le _ (by decide)

/-- A code that is none of the unit's. -/
theorem unitCmd_unknown {h code : Nat} (s : State) (hc : code = 0 ∨ codesOf (unitClass h) < code) : unitCmd h code s = badCode h code s := by
  by_cases hmmu : h = hMmu
  · subst hmmu
    have h3 : codesOf (unitClass hMmu) = 3 := by decide
    rw [unitCmd_mmu, if_neg (by omega)]
  · by_cases hlcs : h = hLcs
    · subst hlcs
      have h2 : codesOf (unitClass hLcs) = 2 := by decide
      rw [unitCmd_lcs, if_neg (by omega)]
    · rw [unitCmd_other code s hmmu hlcs, tableCmd_eq_none _ hc]

theorem unitCmd_refused {h code : Nat} {s : State} (hc : code = 0 ∨ codesOf (unitClass h) < code) (hb : s.cmdBusy h = false) :
    unitCmd h code s = finish h code .range s := (unitCmd_unknown s hc).trans (runCmd_of hb rfl)

/-- While a command of the unit runs, another one has no effect (R480). -/
theorem unitCmd_busy {h : Nat} (code : Nat) {s : State} (hb : s.cmdBusy h = true) : unitCmd h code s = s := by
  have hrun : ∀ f, runCmd h code f s = s := fun f => runCmd_busy code f hb
  by_cases hmmu : h = hMmu
  · subst hmmu
    rw [unitCmd_mmu, badCode, hrun, runLong_busy code _ hb, ite_self]
  · by_cases hlcs : h = hLcs
    · subst hlcs
      have hl : lcsCmd code s = s := if_pos hb
      rw [unitCmd_lcs, badCode, hrun, hl, ite_self]
    · rw [unitCmd_other code s hmmu hlcs]
      split
      · exact hrun _
      · exact hrun _

/-! Every command of the tables by header. -/

theorem unitIs_ing (p : Fin 4) : UnitIs (hIng p) 0x400 p := by revert p; decide +kernel
theorem unitIs_rch (k : Fin 3) (p : Fin 4) : UnitIs (hRch k p) (0x500 + k) p := by revert k p; decide +kernel
theorem unitIs_slt (p : Fin 4) : UnitIs (hSlt p) 0x600 p := by revert p; decide +kernel
theorem unitIs_det (p : Fin 4) : UnitIs (hDet p) 0x601 p := by revert p; decide +kernel
theorem unitIs_seq (n : Fin 16) : UnitIs (hSeq n) 0x800 n := by revert n; decide +kernel
theorem unitIs_cap (p : Fin 4) : UnitIs (hCap p) 0x801 p := by revert p; decide +kernel
theorem unitIs_core (c : Fin 64) : UnitIs (hCore c) 0xA00 c := by revert c; decide +kernel
theorem unitIs_mlr (ch : Fin 32) : UnitIs (hMlr ch) 0xB01 ch := by revert ch; decide +kernel
theorem unitIs_dp (d : Fin 2) : UnitIs (hDp d) 0xD01 d := by revert d; decide +kernel

/-- The instruction is the command of this header and code: both run the same operation. -/
def IsCmd (h code : Nat) (i : Instr) : Prop := isLeaf h = true ∧ ∀ s, exec i s = .next (unitCmd h code s)

theorem isCmd_of {h cls k code : Nat} {i : Instr} {f : State → Code × State} (hu : UnitIs h cls k) (hf : tableCmd cls k code = some f)
    (hx : ∀ s, exec i s = .next (runCmd h code f s)) (hmmu : cls ≠ 0xB00 := by decide) (hlcs : cls ≠ 0x1001 := by decide) : IsCmd h code i :=
  ⟨hu.1, fun s => (hx s).trans (congrArg _ (unitCmd_table s hu hf hmmu hlcs).symm)⟩

theorem eachCommand_isCmd (p : Fin 4) (n : Fin 16) (c : Fin 64) (ch : Fin 32) (d : Fin 2) : EachCommand p n c ch d IsCmd := by
  have clk : UnitIs hClk 0x200 0 := by decide
  have evt : UnitIs hEvt 0x300 0 := by decide
  have bank : UnitIs hBank 0x701 0 := by decide
  have rsv : UnitIs hRsv 0x900 0 := by decide
  have pool : UnitIs hPool 0x901 0 := by decide
  have mmu : isLeaf hMmu = true := by decide
  have str : UnitIs hStr 0xC01 0 := by decide
  have brk : UnitIs hBrk 0xE00 0 := by decide
  have log : UnitIs hLog 0xF00 0 := by decide
  have perf : UnitIs hPerf 0xF01 0 := by decide
  have img : UnitIs hImg 0x1000 0 := by decide
  have jnl : UnitIs hJnl 0x1002 0 := by decide
  unfold EachCommand
  exact ⟨isCmd_of clk rfl fun _ => rfl, isCmd_of clk rfl fun _ => rfl, isCmd_of clk rfl fun _ => rfl, isCmd_of evt rfl fun _ => rfl,
    isCmd_of evt rfl fun _ => rfl, isCmd_of (unitIs_ing p) rfl fun _ => rfl, isCmd_of (unitIs_ing p) rfl fun _ => rfl,
    isCmd_of (unitIs_ing p) rfl fun _ => rfl, isCmd_of (unitIs_ing p) rfl fun _ => rfl, isCmd_of (unitIs_ing p) rfl fun _ => rfl,
    isCmd_of (unitIs_rch 0 p) rfl fun _ => rfl, isCmd_of (unitIs_rch 1 p) rfl fun _ => rfl, isCmd_of (unitIs_rch 2 p) rfl fun _ => rfl,
    isCmd_of (unitIs_rch 2 p) rfl fun _ => rfl, isCmd_of (unitIs_slt p) rfl fun _ => rfl, isCmd_of (unitIs_slt p) rfl fun _ => rfl,
    isCmd_of (unitIs_slt p) rfl fun _ => rfl, isCmd_of (unitIs_det p) rfl fun _ => rfl, isCmd_of bank rfl fun _ => rfl,
    isCmd_of bank rfl fun _ => rfl, isCmd_of (unitIs_seq n) rfl fun _ => rfl, isCmd_of (unitIs_seq n) rfl fun _ => rfl,
    isCmd_of (unitIs_seq n) rfl fun _ => rfl, isCmd_of (unitIs_cap p) rfl fun _ => rfl, isCmd_of (unitIs_cap p) rfl fun _ => rfl,
    isCmd_of (unitIs_cap p) rfl fun _ => rfl, isCmd_of (unitIs_cap p) rfl fun _ => rfl, isCmd_of (unitIs_cap p) rfl fun _ => rfl,
    isCmd_of rsv rfl fun _ => rfl, isCmd_of rsv rfl fun _ => rfl, isCmd_of pool rfl fun _ => rfl, isCmd_of pool rfl fun _ => rfl,
    isCmd_of (unitIs_core c) rfl fun _ => rfl, isCmd_of (unitIs_core c) rfl fun _ => rfl, isCmd_of (unitIs_core c) rfl fun _ => rfl,
    isCmd_of (unitIs_core c) rfl fun _ => rfl, ⟨mmu, fun _ => rfl⟩, ⟨mmu, fun _ => rfl⟩, ⟨mmu, fun _ => rfl⟩,
    isCmd_of (unitIs_mlr ch) rfl fun _ => rfl, isCmd_of (unitIs_mlr ch) rfl fun _ => rfl, isCmd_of (unitIs_mlr ch) rfl fun _ => rfl,
    isCmd_of (unitIs_mlr ch) rfl fun _ => rfl, isCmd_of str rfl fun _ => rfl, isCmd_of str rfl fun _ => rfl, isCmd_of str rfl fun _ => rfl,
    isCmd_of str rfl fun _ => rfl, isCmd_of (unitIs_dp d) rfl fun _ => rfl, isCmd_of (unitIs_dp d) rfl fun _ => rfl, isCmd_of brk rfl fun _ => rfl,
    isCmd_of brk rfl fun _ => rfl, isCmd_of brk rfl fun _ => rfl, isCmd_of brk rfl fun _ => rfl, isCmd_of log rfl fun _ => rfl,
    isCmd_of perf rfl fun _ => rfl, isCmd_of perf rfl fun _ => rfl, isCmd_of perf rfl fun _ => rfl, isCmd_of img rfl fun _ => rfl,
    isCmd_of img rfl fun _ => rfl, isCmd_of img rfl fun _ => rfl, isCmd_of jnl rfl fun _ => rfl⟩

theorem eachCommand_mono {p : Fin 4} {n : Fin 16} {c : Fin 64} {ch : Fin 32} {d : Fin 2} {P Q : Nat → Nat → Instr → Prop}
    (hPQ : ∀ h code i, P h code i → Q h code i) : EachCommand p n c ch d P → EachCommand p n c ch d Q := by
  unfold EachCommand
  repeat' refine And.imp ?_ ?_
  all_goals exact hPQ _ _ _

end Sys2Proof.Machine
end

section
/-! Basins (R26): what the final code of a member does to the command that a basin forwarded. -/

namespace Sys2Proof.Machine

open Sys2Proof.Claims

/-! The unit tree. -/

theorem basins_members : basins.all (fun c => c.1 != 0 && !c.2.isEmpty && decide c.2.Nodup &&
    c.2.all (fun m => isLeaf m && basinsOf m == [c.1, 0])) = true := by decide +kernel

theorem basinsOf_nodup (h : Nat) : (basinsOf h).Nodup := by
  unfold basinsOf
  split
  · exact List.nodup_nil
  · split
    · rename_i c hc
      have key := List.all_eq_true.mp basins_members c (List.mem_of_find?_eq_some hc)
      simp only [Bool.and_eq_true, bne_iff_ne] at key
      simpa using key.1.1.1
    · exact List.nodup_singleton 0

theorem isBasin_of_mem_basinsOf {h b : Nat} (hb : b ∈ basinsOf h) : isBasin b = true := by
  unfold basinsOf at hb
  split at hb
  · exact absurd hb List.not_mem_nil
  · split at hb
    · rename_i c hc
      rcases List.mem_pair.mp hb with rfl | rfl
      · exact Bool.or_eq_true_iff.mpr (Or.inr (List.any_eq_true.mpr ⟨c, List.mem_of_find?_eq_some hc, beq_self_eq_true _⟩))
      · rfl
    · rw [List.mem_singleton.mp hb]
      rfl

theorem zero_mem_basinsOf {h : Nat} (h0 : h ≠ 0) : 0 ∈ basinsOf h := by
  rw [basinsOf, if_neg h0]
  split <;> simp

/-- A leaf is no basin that contains a unit. -/
theorem leaf_notMem_basinsOf {m h : Nat} (hm : isLeaf m = true) : m ∉ basinsOf h := fun hmem => by
  have := isBasin_of_mem_basinsOf hmem
  rw [isBasin_of_leaf hm] at this
  cases this

theorem leaf_ne_basin {m b : Nat} (hm : isLeaf m = true) (hb : isBasin b = true) : m ≠ b := by
  rintro rfl
  rw [isBasin_of_leaf hm] at hb
  cases hb

/-- A basin below the root has distinct leaves as members, at least one, and is the innermost basin of each. -/
theorem members_of_basin {b : Nat} (hb : isBasin b = true) (h0 : b ≠ 0) :
    members b ≠ [] ∧ (members b).Nodup ∧ ∀ m ∈ members b, isLeaf m = true ∧ basinsOf m = [b, 0] := by
  obtain ⟨c, hc, hcb⟩ : ∃ c ∈ basins, c.1 = b := by simpa [isBasin, h0] using hb
  have hsome : (basins.find? (fun c => c.1 == b)).isSome = true := List.find?_isSome.mpr ⟨c, hc, by simpa using hcb⟩
  obtain ⟨e, he⟩ := Option.isSome_iff_exists.mp hsome
  have heb : e.1 = b := by simpa using List.find?_some he
  have hmem : members b = e.2 := by rw [members, if_neg h0, he]
  have key := List.all_eq_true.mp basins_members e (List.mem_of_find?_eq_some he)
  simp only [Bool.and_eq_true, bne_iff_ne, Bool.not_eq_true', List.isEmpty_eq_false_iff, decide_eq_true_eq, List.all_eq_true, beq_iff_eq] at key
  obtain ⟨⟨⟨-, hne⟩, hnodup⟩, hall⟩ := key
  rw [hmem]
  exact ⟨hne, hnodup, fun m hm => heb ▸ hall m hm⟩

/-! What a basin holds of a forwarded command, and what a member's final code makes of it. -/

/-- The command that a basin forwards, and its own CMD_STATUS. -/
def repView (b : Nat) (r : Rep) : Option Fwd × CmdSt := (Tbl.find r.fwd b, Tbl.get { status := 0, code := 0, busy := false } r.cmd b)

/-- A member returns its final code to a basin. -/
def returned (h : Nat) (c : Code) (x : Option Fwd × CmdSt) : Option Fwd × CmdSt :=
  match x.1 with
  | none => x
  | some f =>
    if f.left.contains h then
      if (f.left.filter (· != h)).isEmpty then (none, { status := max f.worst c.num, code := f.code, busy := false })
      else (some { f with left := f.left.filter (· != h), worst := max f.worst c.num }, x.2)
    else x

/-- One basin of `fwdReturn`. -/
def fwdReturnTo (h : Nat) (c : Code) (r : Rep) (b : Nat) : Rep :=
  match Tbl.find r.fwd b with
  | none => r
  | some f =>
    if f.left.contains h then
      if (f.left.filter (· != h)).isEmpty then
        { r with fwd := Tbl.del r.fwd b, cmd := Tbl.set r.cmd b { status := max f.worst c.num, code := f.code, busy := false } }
      else { r with fwd := Tbl.set r.fwd b { f with left := f.left.filter (· != h), worst := max f.worst c.num } }
    else r

theorem fwdReturn_eq_foldl (h : Nat) (c : Code) (r : Rep) : fwdReturn h c r = (basinsOf h).foldl (fwdReturnTo h c) r := rfl

theorem repView_fwdReturnTo_same (h : Nat) (c : Code) (r : Rep) (b : Nat) : repView b (fwdReturnTo h c r b) = returned h c (repView b r) := by
  unfold fwdReturnTo returned
  cases hf : Tbl.find r.fwd b with
  | none => simp [repView, hf]
  | some f =>
    simp only [repView, hf]
    split
    · split <;> simp
    · simp [hf]

theorem repView_fwdReturnTo_ne (h : Nat) (c : Code) (r : Rep) {a b : Nat} (hab : b ≠ a) : repView a (fwdReturnTo h c r b) = repView a r := by
  unfold fwdReturnTo
  split
  · rfl
  · split
    · split
      · simp [repView, Tbl.find_del_ne _ hab, Tbl.get_set_ne _ _ _ hab]
      · simp [repView, Tbl.find_set_ne _ _ hab]
    · rfl

theorem repView_foldl_ne (h : Nat) (c : Code) {a : Nat} {l : List Nat} (r : Rep) (ha : a ∉ l) :
    repView a (l.foldl (fwdReturnTo h c) r) = repView a r := by
  induction l generalizing r with
  | nil => rfl
  | cons b t ih =>
    rw [List.foldl_cons, ih _ (List.not_mem_of_not_mem_cons ha), repView_fwdReturnTo_ne h c r (Ne.symm (List.ne_of_not_mem_cons ha))]

/-- Each basin takes the code once. -/
theorem repView_foldl_mem (h : Nat) (c : Code) {a : Nat} {l : List Nat} (r : Rep) (ha : a ∈ l) (hl : l.Nodup) :
    repView a (l.foldl (fwdReturnTo h c) r) = returned h c (repView a r) := by
  induction l generalizing r with
  | nil => exact absurd ha List.not_mem_nil
  | cons b t ih =>
    obtain ⟨hbt, ht⟩ := List.nodup_cons.mp hl
    rw [List.foldl_cons]
    by_cases hab : b = a
    · subst hab
      rw [repView_foldl_ne h c _ hbt, repView_fwdReturnTo_same]
    · rw [ih _ ((List.mem_cons.mp ha).resolve_left (Ne.symm hab)) ht, repView_fwdReturnTo_ne h c r hab]

theorem fwdReturn_frame (h : Nat) (c : Code) (r : Rep) : fwdReturn h c r = { r with cmd := (fwdReturn h c r).cmd, fwd := (fwdReturn h c r).fwd } := by
  rw [fwdReturn_eq_foldl]
  generalize basinsOf h = l
  induction l generalizing r with
  | nil => rfl
  | cons b t ih =>
    have hone : fwdReturnTo h c r b = { r with cmd := (fwdReturnTo h c r b).cmd, fwd := (fwdReturnTo h c r b).fwd } := by
      unfold fwdReturnTo
      split
      · rfl
      · split
        · split <;> rfl
        · rfl
    rw [List.foldl_cons, ih, hone]

/-! The final code of a command, as the basins see it. -/

/-- What a basin shows of a forwarded command. -/
def State.fwdView (s : State) (b : Nat) : Option Fwd × CmdSt := repView b s.rep

/-- The end of a command but for its entry in the log. -/
def cmdEnded (h code : Nat) (c : Code) (s : State) : State :=
  { s with rep := fwdReturn h c { s.rep with cmd := Tbl.set s.rep.cmd h { status := c.num, code := code, busy := false } } }

theorem finish_logged {c : Code} (h code : Nat) (s : State) (hc : c.logged = true) :
    ∃ arg, finish h code c s = addLog h 1 1 (code + 256 * c.num) arg 0 (cmdEnded h code c s) := ⟨_, if_pos hc⟩

theorem finish_quiet {c : Code} (h code : Nat) (s : State) (hc : c.logged = false) : finish h code c s = cmdEnded h code c s :=
  if_neg (by rw [hc]; decide)

theorem fwdView_addLog (h k v c a0 a1 : Nat) (s : State) (b : Nat) : (addLog h k v c a0 a1 s).fwdView b = s.fwdView b := by
  obtain ⟨hcmd, -, hfwd⟩ := (addLog_spec h k v c a0 a1 s).2
  rw [State.fwdView, State.fwdView, repView, repView, hcmd, hfwd]

theorem fwdView_finish_eq (h code : Nat) (c : Code) (s : State) (b : Nat) : (finish h code c s).fwdView b = (cmdEnded h code c s).fwdView b := by
  cases hc : c.logged
  · rw [finish_quiet h code s hc]
  · obtain ⟨arg, hfin⟩ := finish_logged h code s hc
    rw [hfin, fwdView_addLog]

/-- Every basin of the unit takes the code; no other basin or unit changes. -/
theorem fwdView_finish {h b : Nat} (code : Nat) (c : Code) (s : State) (hb : b ≠ h) :
    (finish h code c s).fwdView b = if b ∈ basinsOf h then returned h c (s.fwdView b) else s.fwdView b := by
  have hset : repView b { s.rep with cmd := Tbl.set s.rep.cmd h { status := c.num, code := code, busy := false } } = s.fwdView b := by
    simp [repView, State.fwdView, Tbl.get_set_ne _ _ _ (Ne.symm hb)]
  rw [fwdView_finish_eq, cmdEnded, State.fwdView, fwdReturn_eq_foldl]
  split
  · rename_i hmem
    rw [repView_foldl_mem h c _ hmem (basinsOf_nodup h), hset]
  · rename_i hmem
    rw [repView_foldl_ne h c _ hmem, hset]

theorem cmdSt_finish_ne {h a : Nat} (code : Nat) (c : Code) (s : State) (ha : a ≠ h) (hb : a ∉ basinsOf h) :
    (finish h code c s).cmdSt a = s.cmdSt a := (finish_frame h code c s).1 a (by simp [ha, hb])

/-- A code whose refusal is not logged changes nothing but command status. -/
theorem finish_unlogged {c : Code} (h code : Nat) (s : State) (hc : c.logged = false) :
    finish h code c s = { s with rep := { s.rep with cmd := (finish h code c s).rep.cmd, fwd := (finish h code c s).rep.fwd } } := by
  rw [finish_quiet h code s hc, cmdEnded, fwdReturn_frame]

/-! A list of members still to return, one after the other. -/

theorem filter_ne_of_notMem {m : Nat} {l : List Nat} (h : m ∉ l) : l.filter (· != m) = l :=
  List.filter_eq_self.mpr fun a ha => by simpa using fun e : a = m => h (e ▸ ha)

theorem returned_last (m code w : Nat) (c : Code) (x : CmdSt) :
    returned m c (some { code := code, left := [m], worst := w }, x) = (none, { status := max w c.num, code := code, busy := false }) := by
  simp [returned]

theorem returned_cons {m : Nat} {l : List Nat} (code w : Nat) (c : Code) (x : CmdSt) (hm : m ∉ l) (hl : l ≠ []) :
    returned m c (some { code := code, left := m :: l, worst := w }, x) = (some { code := code, left := l, worst := max w c.num }, x) := by
  simp [returned, filter_ne_of_notMem hm, hl]

/-- A member that runs its command is still to return. -/
theorem returned_second {a m : Nat} {l : List Nat} (code w : Nat) (c : Code) (x : CmdSt) (ha : a ≠ m) (hm : m ∉ l) :
    returned m c (some { code := code, left := a :: m :: l, worst := w }, x) =
      (some { code := code, left := a :: l, worst := max w c.num }, x) := by
  simp [returned, filter_ne_of_notMem hm, ha]

end Sys2Proof.Machine
end

section
/-! A basin forwards a code that none of its members takes (R26). -/

namespace Sys2Proof.Machine

open Sys2Proof.Claims

theorem leaves_of_ne_zero {b : Nat} (h0 : b ≠ 0) : leaves b = members b := if_neg h0

theorem cmdBusy_leaf {m : Nat} (s : State) (hm : isLeaf m = true) : s.cmdBusy m = (s.cmdSt m).busy := if_neg (by rw [isBasin_of_leaf hm]; decide)

theorem not_busy_of_basin {s : State} {b : Nat} (hb : isBasin b = true) (hbusy : s.cmdBusy b = false) : ∀ m ∈ leaves b, (s.cmdSt m).busy = false := by
  rw [State.cmdBusy, if_pos hb, Bool.or_eq_false_iff, Bool.or_eq_false_iff, List.any_eq_false] at hbusy
  exact fun m hm => Bool.eq_false_iff.mpr (hbusy.1.1 m hm)

theorem fwdView_fwdStart_same (b code : Nat) (s : State) :
    (fwdStart b code s).fwdView b = (some { code := code, left := leaves b, worst := 0 }, s.cmdSt b) := by
  simp [fwdStart, State.fwdView, repView, State.cmdSt]

theorem fwdView_fwdStart_ne {a b : Nat} (code : Nat) (s : State) (h : b ≠ a) : (fwdStart b code s).fwdView a = s.fwdView a := by
  simp [fwdStart, State.fwdView, repView, Tbl.find_set_ne _ _ h]

theorem cmdSt_fwdStart (b code a : Nat) (s : State) : (fwdStart b code s).cmdSt a = s.cmdSt a := rfl

/-- The basin waits for the members of a list, of which none has returned a worse code than RANGE; when the list is empty it has ended with RANGE. -/
def Awaits (b code : Nat) (left : List Nat) (s : State) : Prop :=
  (left = [] ∧ s.fwdView b = (none, { status := Code.range.num, code := code, busy := false })) ∨
  (left ≠ [] ∧ ∃ w x, w ≤ Code.range.num ∧ s.fwdView b = (some { code := code, left := left, worst := w }, x))

theorem awaits_of_view {b code : Nat} {left : List Nat} {s t : State} (h : Awaits b code left s) (hv : t.fwdView b = s.fwdView b) :
    Awaits b code left t := by
  unfold Awaits
  rw [hv]
  exact h

theorem awaits_fwdStart {b : Nat} (code : Nat) (s : State) (hl : leaves b ≠ []) : Awaits b code (leaves b) (fwdStart b code s) :=
  Or.inr ⟨hl, 0, s.cmdSt b, Nat.zero_le _, fwdView_fwdStart_same b code s⟩

theorem forwards_of_view {b : Nat} {f : Fwd} {x : CmdSt} {s : State} (h : s.fwdView b = (some f, x)) : s.forwards b = true := by
  have hf : Tbl.find s.rep.fwd b = some f := congrArg Prod.fst h
  rw [State.forwards, hf]
  rfl

theorem forwards_of_awaits {b code : Nat} {left : List Nat} {s : State} (h : Awaits b code left s) (hl : left ≠ []) : s.forwards b = true := by
  obtain ⟨h1, -⟩ | ⟨-, w, x, -, hv⟩ := h
  · exact absurd h1 hl
  · exact forwards_of_view hv

theorem basinCmd_forwards {b : Nat} (code : Nat) {s : State} (h0 : b ≠ 0) (hbusy : s.cmdBusy b = false) :
    basinCmd b code s = forwardTo b code (members b) (fwdStart b code s) :=
  (if_neg (by rw [hbusy]; decide)).trans (if_neg h0)

theorem forwardTo_cons {b : Nat} (code m : Nat) (ms : List Nat) {s : State} (h : s.forwards b = true) :
    forwardTo b code (m :: ms) s = forwardTo b code ms (unitCmd m code s) := by
  rw [forwardTo, List.foldl_cons, if_pos h]
  rfl

theorem done_of_awaits {b code : Nat} {s : State} (h : Awaits b code [] s) : Done b code .range s := by
  obtain ⟨-, hv⟩ | ⟨h1, -⟩ := h
  · exact (Prod.ext_iff.mp hv).2
  · exact absurd rfl h1

/-- The next member refuses with RANGE. -/
theorem awaits_finish {b code m k : Nat} {l : List Nat} {s : State} (h : Awaits b code (m :: l) s) (hb : b ∈ basinsOf m) (hbm : b ≠ m) (hm : m ∉ l) :
    Awaits b code l (finish m k .range s) := by
  obtain ⟨h1, -⟩ | ⟨-, w, x, hw, hv⟩ := h
  · cases h1
  have hmax : max w Code.range.num = Code.range.num := Nat.max_eq_right hw
  have hview := fwdView_finish k .range s hbm
  rw [if_pos hb, hv] at hview
  by_cases hl : l = []
  · subst hl
    exact Or.inl ⟨rfl, by rw [hview, returned_last, hmax]⟩
  · exact Or.inr ⟨hl, Code.range.num, x, Nat.le_refl _, by rw [hview, returned_cons code w .range x hm hl, hmax]⟩

/-! Units that refuse one after the other. -/

/-- Each unit of a list ends the command with RANGE. -/
def refuseAll (code : Nat) (ms : List Nat) (s : State) : State := ms.foldl (fun s m => finish m code .range s) s

theorem refuseAll_cons (code m : Nat) (ms : List Nat) (s : State) : refuseAll code (m :: ms) s = refuseAll code ms (finish m code .range s) := rfl

theorem refuseAll_frame (code : Nat) (ms : List Nat) (s : State) : refuseAll code ms s =
    { s with rep := { s.rep with cmd := (refuseAll code ms s).rep.cmd, fwd := (refuseAll code ms s).rep.fwd } } := by
  induction ms generalizing s with
  | nil => rfl
  | cons m t ih =>
    rw [refuseAll_cons, ih, finish_unlogged m code s rfl]

theorem cmdSt_refuseAll {a : Nat} (code : Nat) {ms : List Nat} (s : State) (ha : a ∉ ms) (hb : ∀ m ∈ ms, a ∉ basinsOf m) :
    (refuseAll code ms s).cmdSt a = s.cmdSt a := by
  induction ms generalizing s with
  | nil => rfl
  | cons m t ih =>
    obtain ⟨hm, ht⟩ := List.forall_mem_cons.mp hb
    rw [refuseAll_cons, ih _ (List.not_mem_of_not_mem_cons ha) ht, cmdSt_finish_ne code .range s (List.ne_of_not_mem_cons ha) hm]

theorem done_refuseAll {m : Nat} (code : Nat) {ms : List Nat} (s : State) (hl : ∀ m ∈ ms, isLeaf m = true) (hm : m ∈ ms) :
    Done m code .range (refuseAll code ms s) := by
  induction ms generalizing s with
  | nil => exact absurd hm List.not_mem_nil
  | cons a t ih =>
    have hlt := (List.forall_mem_cons.mp hl).2
    rw [refuseAll_cons]
    by_cases hmt : m ∈ t
    · exact ih _ hlt hmt
    · have hma : m = a := (List.mem_cons.mp hm).resolve_right hmt
      subst hma
      exact (cmdSt_refuseAll code _ hmt fun x _ => leaf_notMem_basinsOf (hl m hm)).trans (finish_done ..)

theorem awaits_refuseAll {b code : Nat} {ms rest : List Nat} {s : State} (h : Awaits b code (ms ++ rest) s) (hnd : (ms ++ rest).Nodup)
    (hl : ∀ m ∈ ms, isLeaf m = true ∧ b ∈ basinsOf m) : Awaits b code rest (refuseAll code ms s) := by
  induction ms generalizing s with
  | nil => exact h
  | cons m t ih =>
    obtain ⟨⟨hm, hb⟩, ht⟩ := List.forall_mem_cons.mp hl
    obtain ⟨hmt, hnd'⟩ := List.nodup_cons.mp hnd
    exact ih (awaits_finish h hb (leaf_ne_basin hm (isBasin_of_mem_basinsOf hb)).symm hmt) hnd' ht

/-- Members of a basin that do not know the code refuse it one after the other. -/
theorem forwardTo_refused {b code : Nat} {ms : List Nat} {s : State} (h : Awaits b code ms s) (hc : code = 0 ∨ 5 < code) (hnd : ms.Nodup)
    (hl : ∀ m ∈ ms, isLeaf m = true ∧ b ∈ basinsOf m) (hbusy : ∀ m ∈ ms, (s.cmdSt m).busy = false) :
    forwardTo b code ms s = refuseAll code ms s := by
  induction ms generalizing s with
  | nil => rfl
  | cons m t ih =>
    obtain ⟨⟨hm, hb⟩, ht⟩ := List.forall_mem_cons.mp hl
    obtain ⟨hmt, hnd'⟩ := List.nodup_cons.mp hnd
    obtain ⟨hmb, htb⟩ := List.forall_mem_cons.mp hbusy
    have hunit : unitCmd m code s = finish m code .range s :=
      unitCmd_refused (by have := codesOf_le (unitClass m); omega) ((cmdBusy_leaf s hm).trans hmb)
    rw [forwardTo_cons code m t (forwards_of_awaits h (List.cons_ne_nil m t)), hunit, refuseAll_cons]
    refine ih (awaits_finish h hb (leaf_ne_basin hm (isBasin_of_mem_basinsOf hb)).symm hmt) hnd' ht fun x hx => ?_
    rw [cmdSt_finish_ne code .range s (by rintro rfl; exact hmt hx) (leaf_notMem_basinsOf (ht x hx).1)]
    exact htb x hx

/-- A command of a basin below the root that none of its members knows. -/
theorem basinCmd_refused {b code : Nat} {s : State} (hb : isBasin b = true) (h0 : b ≠ 0) (hbusy : s.cmdBusy b = false) (hc : code = 0 ∨ 5 < code) :
    basinCmd b code s = refuseAll code (leaves b) (fwdStart b code s) ∧ Awaits b code [] (basinCmd b code s) := by
  obtain ⟨hne, hnd, hall⟩ := members_of_basin hb h0
  rw [← leaves_of_ne_zero h0] at hne hnd hall
  have hl : ∀ m ∈ leaves b, isLeaf m = true ∧ b ∈ basinsOf m := fun m hm => ⟨(hall m hm).1, by simp [(hall m hm).2]⟩
  have hstart := awaits_fwdStart code s hne
  have heq : basinCmd b code s = refuseAll code (leaves b) (fwdStart b code s) := by
    rw [basinCmd_forwards code h0 hbusy, ← leaves_of_ne_zero h0]
    exact forwardTo_refused hstart hc hnd hl (not_busy_of_basin (s := s) hb hbusy)
  refine ⟨heq, ?_⟩
  rw [heq]
  exact awaits_refuseAll (by rwa [List.append_nil]) (by rwa [List.append_nil]) hl

/-! The root. -/

/-- The leaf units that a member of the root stands for. -/
def leavesOf (m : Nat) : List Nat := if isBasin m then members m else [m]

/-- The root forwards a command to one of its members. -/
def rootStep (code m : Nat) (s : State) : State :=
  if !s.forwards 0 then s
  else if isBasin m then forwardTo m code (members m) (fwdStart m code s)
  else unitCmd m code s

theorem basinCmd_root {code : Nat} {s : State} (hbusy : s.cmdBusy 0 = false) :
    basinCmd 0 code s = rootMembers.foldl (fun s m => rootStep code m s) (fwdStart 0 code s) := by
  rw [basinCmd, if_neg (by rw [hbusy]; decide), if_pos rfl]
  rfl

theorem leaves_root : leaves 0 = rootMembers.flatMap leavesOf := by decide +kernel

theorem leaves_root_nodup : (leaves 0).Nodup := by decide +kernel

theorem leaves_root_leaf : (leaves 0).all (fun m => isLeaf m && m != 0) = true := by decide +kernel

theorem rootMembers_leaves : ∀ m ∈ rootMembers, m ≠ 0 ∧ leavesOf m ≠ [] := by decide +kernel

/-- The state in which the leaves of a member of the root refuse. -/
def rootStarted (code m : Nat) (s : State) : State := if isBasin m then fwdStart m code s else s

theorem rootStarted_frame (code m : Nat) (s : State) : rootStarted code m s = { s with rep := { s.rep with fwd := (rootStarted code m s).rep.fwd } } := by
  unfold rootStarted
  split <;> rfl

theorem cmdSt_rootStarted (code m a : Nat) (s : State) : (rootStarted code m s).cmdSt a = s.cmdSt a := by
  rw [rootStarted_frame]
  rfl

theorem fwdView_rootStarted {m : Nat} (code : Nat) (s : State) (h0 : m ≠ 0) : (rootStarted code m s).fwdView 0 = s.fwdView 0 := by
  unfold rootStarted
  split
  · exact fwdView_fwdStart_ne code s h0
  · rfl

theorem rootStep_refused {m code : Nat} {s : State} (h0 : m ≠ 0) (hfwd : s.forwards 0 = true) (hc : code = 0 ∨ 5 < code)
    (hl : ∀ a ∈ leavesOf m, isLeaf a = true) (hbusy : ∀ a ∈ leavesOf m, (s.cmdSt a).busy = false) :
    rootStep code m s = refuseAll code (leavesOf m) (rootStarted code m s) := by
  rw [rootStep, hfwd, if_neg (by decide)]
  unfold leavesOf at hl hbusy
  unfold leavesOf rootStarted
  by_cases hb : isBasin m = true
  · simp only [if_pos hb] at hl hbusy ⊢
    obtain ⟨hne, hnd, hall⟩ := members_of_basin hb h0
    have hstart := awaits_fwdStart code s (by rwa [leaves_of_ne_zero h0])
    rw [leaves_of_ne_zero h0] at hstart
    exact forwardTo_refused hstart hc hnd (fun a ha => ⟨(hall a ha).1, by simp [(hall a ha).2]⟩) hbusy
  · simp only [if_neg hb] at hl hbusy ⊢
    have hm := List.mem_singleton_self m
    exact unitCmd_refused (by have := codesOf_le (unitClass m); omega) ((cmdBusy_leaf s (hl m hm)).trans (hbusy m hm))

/-- What the root's members leave once those of a list have refused. -/
structure RootRefused (code : Nat) (R : List Nat) (s t : State) : Prop where
  awaits : Awaits 0 code [] t
  done : ∀ m ∈ R.flatMap leavesOf, Done m code .range t
  frame : t = { s with rep := { s.rep with cmd := t.rep.cmd, fwd := t.rep.fwd } }

theorem rootFold_refused {code : Nat} (hc : code = 0 ∨ 5 < code) {R : List Nat} {s : State} (hR : ∀ m ∈ R, m ≠ 0 ∧ leavesOf m ≠ [])
    (hnd : (R.flatMap leavesOf).Nodup) (hl : ∀ a ∈ R.flatMap leavesOf, isLeaf a = true ∧ 0 ∈ basinsOf a)
    (hbusy : ∀ a ∈ R.flatMap leavesOf, (s.cmdSt a).busy = false) (h : Awaits 0 code (R.flatMap leavesOf) s) :
    RootRefused code R s (R.foldl (fun s m => rootStep code m s) s) ∧
    ∀ a, isLeaf a = true → a ∉ R.flatMap leavesOf → (R.foldl (fun s m => rootStep code m s) s).cmdSt a = s.cmdSt a := by
  induction R generalizing s with
  | nil => exact ⟨⟨h, fun m hm => absurd hm List.not_mem_nil, rfl⟩, fun _ _ _ => rfl⟩
  | cons m t ih =>
    obtain ⟨⟨h0, hne⟩, hR'⟩ := List.forall_mem_cons.mp hR
    rw [List.flatMap_cons] at hnd hl hbusy h
    obtain ⟨hlm, hlt⟩ := List.forall_mem_append.mp hl
    obtain ⟨hbm, hbt⟩ := List.forall_mem_append.mp hbusy
    obtain ⟨-, hndt, hdisj⟩ := List.nodup_append.mp hnd
    have hstep : rootStep code m s = refuseAll code (leavesOf m) (rootStarted code m s) :=
      rootStep_refused h0 (forwards_of_awaits h (by simp [hne])) hc (fun a ha => (hlm a ha).1) hbm
    have hkeep : ∀ a, isLeaf a = true → a ∉ leavesOf m → (rootStep code m s).cmdSt a = s.cmdSt a := fun a ha hn => by
      rw [hstep, cmdSt_refuseAll code _ hn fun x _ => leaf_notMem_basinsOf ha, cmdSt_rootStarted]
    have hnext : Awaits 0 code (t.flatMap leavesOf) (rootStep code m s) := by
      rw [hstep]
      exact awaits_refuseAll (awaits_of_view h (fwdView_rootStarted code s h0)) hnd hlm
    have hapart : ∀ a ∈ t.flatMap leavesOf, a ∉ leavesOf m := fun a ha hm => hdisj a hm a ha rfl
    obtain ⟨⟨hawaits, hdone, hframe⟩, hrest⟩ := ih hR' hndt hlt
      (fun a ha => by rw [hkeep a (hlt a ha).1 (hapart a ha)]; exact hbt a ha) hnext
    refine ⟨⟨hawaits, fun a ha => ?_, ?_⟩, fun a ha hn => ?_⟩
    · rw [List.flatMap_cons] at ha
      by_cases hat : a ∈ t.flatMap leavesOf
      · exact hdone a hat
      · have ham := (List.mem_append.mp ha).resolve_right hat
        refine (hrest a (hlm a ham).1 hat).trans ?_
        rw [hstep]
        exact done_refuseAll code _ (fun x hx => (hlm x hx).1) ham
    · rw [List.foldl_cons, hframe, hstep, refuseAll_frame, rootStarted_frame]
    · rw [List.flatMap_cons, List.mem_append, not_or] at hn
      exact (hrest a ha hn.2).trans (hkeep a ha hn.1)

/-- A command of the root that no unit knows. -/
theorem basinCmd_root_refused {code : Nat} {s : State} (hbusy : s.cmdBusy 0 = false) (hc : code = 0 ∨ 5 < code) :
    RootRefused code rootMembers s (basinCmd 0 code s) := by
  have hl : ∀ a ∈ leaves 0, isLeaf a = true ∧ 0 ∈ basinsOf a := fun a ha => by
    have h := List.all_eq_true.mp leaves_root_leaf a ha
    simp only [Bool.and_eq_true, bne_iff_ne] at h
    exact ⟨h.1, zero_mem_basinsOf h.2⟩
  have hstart := awaits_fwdStart (b := 0) code s (by decide)
  have hnd := leaves_root_nodup
  have hb : ∀ a ∈ leaves 0, ((fwdStart 0 code s).cmdSt a).busy = false := not_busy_of_basin (s := s) rfl hbusy
  rw [leaves_root] at hl hstart hnd hb
  obtain ⟨⟨hawaits, hdone, hframe⟩, -⟩ := rootFold_refused hc rootMembers_leaves hnd hl hb hstart
  rw [basinCmd_root hbusy]
  exact ⟨hawaits, hdone, hframe⟩

end Sys2Proof.Machine
end

section
/-! Commands that some members of a basin take and others refuse (R26), and the clauses of `Obligations.CommandWrites`. -/

namespace Sys2Proof.Machine

open Sys2Proof.Claims

theorem exec_basinCmd {o : BitVec 25} {b code : Nat} (s : State) (hb : isBasin b = true) (ho : o.toNat = b) (hc : code < 256) :
    exec (.basinCmd o (BitVec.ofNat 8 code)) s = .next (basinCmd b code s) := by
  have hcode : (BitVec.ofNat 8 code).toNat = code := (BitVec.toNat_ofNat code 8).trans (Nat.mod_eq_of_lt hc)
  rw [← ho] at hb ⊢
  have hx : exec (.basinCmd o (BitVec.ofNat 8 code)) s = .next (if isBasin o.toNat then basinCmd o.toNat (BitVec.ofNat 8 code).toNat s else s) := rfl
  rw [hx, if_pos hb, hcode]

theorem basinCmd_busy_forwarding {b : Nat} (code : Nat) {s : State} (hbusy : s.cmdBusy b = true) (hf : (Tbl.find s.rep.fwd b).isSome = true) :
    basinCmd b code s = s := (if_pos hbusy).trans (if_pos hf)

theorem basinCmd_busy_member {b : Nat} (code : Nat) {s : State} (hbusy : s.cmdBusy b = true) (hf : Tbl.find s.rep.fwd b = none) :
    basinCmd b code s = { s with rep := { s.rep with cmd := Tbl.set s.rep.cmd b { status := 1, code := code, busy := false } } } :=
  (if_pos hbusy).trans (if_neg (by rw [State.forwards, hf]; decide))

/-- A command that no member of the basin knows. -/
theorem basinCmd_unknown {b code : Nat} {s : State} (hb : isBasin b = true) (hbusy : s.cmdBusy b = false) (hc : code = 0 ∨ 5 < code) :
    Done b code .range (basinCmd b code s) ∧ (∀ m ∈ leaves b, Done m code .range (basinCmd b code s)) ∧
    (∀ a, b ≠ 0 → a ≠ b → a ∉ leaves b → a ∉ basinsOf b → (basinCmd b code s).cmdSt a = s.cmdSt a) ∧
    basinCmd b code s = { s with rep := { s.rep with cmd := (basinCmd b code s).rep.cmd, fwd := (basinCmd b code s).rep.fwd } } := by
  by_cases h0 : b = 0
  · subst h0
    obtain ⟨hawaits, hdone, hframe⟩ := basinCmd_root_refused hbusy hc
    exact ⟨done_of_awaits hawaits, by rwa [leaves_root], fun _ h => absurd rfl h, hframe⟩
  · obtain ⟨heq, hawaits⟩ := basinCmd_refused hb h0 hbusy hc
    have hall := (members_of_basin hb h0).2.2
    rw [← leaves_of_ne_zero h0] at hall
    refine ⟨done_of_awaits hawaits, fun m hm => ?_, fun a _ hab hal hau => ?_, ?_⟩
    · rw [heq]
      exact done_refuseAll code _ (fun x hx => (hall x hx).1) hm
    · have ha0 : a ≠ 0 := fun e => hau (e ▸ zero_mem_basinsOf h0)
      rw [heq, cmdSt_refuseAll code _ hal fun m hm => by simp [(hall m hm).2, hab, ha0], cmdSt_fwdStart]
    · rw [heq, refuseAll_frame]
      rfl

/-! HCLR to the basin of the log and counter units: the log unit has no command 3. -/

theorem get_filter_key (t : Tbl Nat) (p : Nat → Bool) (k : Nat) : Tbl.get 0 (t.filter fun e => p e.1) k = if p k then Tbl.get 0 t k else 0 := by
  induction t with
  | nil => simp
  | cons e t ih =>
    obtain ⟨a, v⟩ := e
    by_cases hak : a = k
    · subst hak
      cases hp : p a <;> simp [Tbl.get, hp, ih]
    · cases hp : p a <;> simp [Tbl.get, hp, ih, hak]

/-- The histogram that HCLR names is cleared. -/
def histCleared (s : State) : State := { s with rep := { s.rep with hbin := s.rep.hbin.filter (fun e => e.1 / 64 != s.fld R.PERF_CMD_ARG_HIST) } }

theorem hclrCmd_eq (s : State) : hclrCmd s = (.ok, histCleared s) := rfl

/-- The basin forwards command 3, and the log unit has refused it. -/
def logRefused (s : State) : State := finish hLog 3 .range (fwdStart 0x1F00000 3 s)

theorem cmdSt_logRefused {a : Nat} (s : State) (ha : a ≠ hLog) (hb : a ∉ basinsOf hLog) : (logRefused s).cmdSt a = s.cmdSt a :=
  cmdSt_finish_ne 3 .range _ ha hb

theorem logRefused_frame (s : State) : logRefused s = { s with rep := { s.rep with cmd := (logRefused s).rep.cmd, fwd := (logRefused s).rep.fwd } } :=
  finish_unlogged hLog 3 (fwdStart 0x1F00000 3 s) rfl

/-- The basin waits for the counter unit. -/
theorem fwdView_logRefused (s : State) :
    (logRefused s).fwdView 0x1F00000 = (some { code := 3, left := [hPerf], worst := 3 }, s.cmdSt 0x1F00000) := by
  have hview : (fwdStart 0x1F00000 3 s).fwdView 0x1F00000 = (some { code := 3, left := [hLog, hPerf], worst := 0 }, s.cmdSt 0x1F00000) :=
    fwdView_fwdStart_same ..
  rw [logRefused, fwdView_finish 3 .range _ (by decide), if_pos (by decide), hview]
  exact returned_cons 3 0 .range _ (by decide) (by decide)

theorem basinCmd_hclr {s : State} (hbusy : s.cmdBusy 0x1F00000 = false) :
    basinCmd 0x1F00000 3 s = finish hPerf 3 .ok (histCleared (logRefused s)) ∧
    Done 0x1F00000 3 .range (basinCmd 0x1F00000 3 s) := by
  have hfree := not_busy_of_basin (b := 0x1F00000) (by decide) hbusy
  have hlog : (s.cmdSt hLog).busy = false := hfree hLog (by decide)
  have hperf : (s.cmdSt hPerf).busy = false := hfree hPerf (by decide)
  have hfwd : (fwdStart 0x1F00000 3 s).forwards 0x1F00000 = true := forwards_of_view (fwdView_fwdStart_same ..)
  have hone : unitCmd hLog 3 (fwdStart 0x1F00000 3 s) = logRefused s :=
    unitCmd_refused (Or.inr (by decide)) ((cmdBusy_leaf _ (by decide)).trans hlog)
  have htwo : unitCmd hPerf 3 (logRefused s) = finish hPerf 3 .ok (histCleared (logRefused s)) := by
    have hb : (logRefused s).cmdBusy hPerf = false := by
      rw [cmdBusy_leaf _ (by decide), cmdSt_logRefused s (by decide) (by decide), hperf]
    rw [unitCmd_table _ (by decide : UnitIs hPerf 0xF01 0) rfl (by decide) (by decide), runCmd_of hb (hclrCmd_eq _)]
  have heq : basinCmd 0x1F00000 3 s = finish hPerf 3 .ok (histCleared (logRefused s)) := by
    rw [basinCmd_forwards 3 (by decide) hbusy, show members 0x1F00000 = [hLog, hPerf] from rfl, forwardTo_cons 3 hLog _ hfwd, hone,
      forwardTo_cons 3 hPerf _ (forwards_of_view (fwdView_logRefused s)), htwo]
    rfl
  refine ⟨heq, ?_⟩
  have hend := fwdView_finish (b := 0x1F00000) (h := hPerf) 3 .ok (histCleared (logRefused s)) (by decide)
  have hsame : (histCleared (logRefused s)).fwdView 0x1F00000 = (logRefused s).fwdView 0x1F00000 := rfl
  rw [if_pos (by decide), hsame, fwdView_logRefused, returned_last] at hend
  rw [heq]
  exact congrArg Prod.snd hend

/-! Command 3 of the basin of the MMU and the channels: INV_VA runs on, and no channel can resume. -/

theorem mlrResumeCmd_refused {ch : Nat} {s : State} (h : s.mState ch < 4) : mlrResumeCmd ch s = (.state, s) := by
  refine if_pos ?_
  have h4 : s.mState ch ≠ mHalted := Nat.ne_of_lt h
  have h5 : s.mState ch ≠ mStopped := Nat.ne_of_lt (Nat.lt_succ_of_lt h)
  simp [h4, h5]

theorem unitCmd_resume {ch : Fin 32} {s : State} (h : s.mState ch < 4) (hb : (s.cmdSt (hMlr ch)).busy = false) :
    unitCmd (hMlr ch) 3 s = finish (hMlr ch) 3 .state s := by
  rw [unitCmd_table s (unitIs_mlr ch) rfl (by decide) (by decide),
    runCmd_of ((cmdBusy_leaf s (unitIs_mlr ch).1).trans hb) (mlrResumeCmd_refused h)]

theorem basinsOf_mlr (ch : Fin 32) : basinsOf (hMlr ch) = [0x1C00000, 0] := by revert ch; decide +kernel

/-- Channels that refuse RESUME, while the MMU's command runs. -/
theorem forwardTo_resume {ms : List Nat} {s : State} {w : Nat} {x : CmdSt}
    (hview : s.fwdView 0x1C00000 = (some { code := 3, left := hMmu :: ms, worst := w }, x)) (hms : ∀ m ∈ ms, ∃ ch : Fin 32, m = hMlr ch)
    (hnd : (hMmu :: ms).Nodup) (hst : ∀ ch : Fin 32, s.mState ch < 4) (hbusy : ∀ m ∈ ms, (s.cmdSt m).busy = false) :
    (∃ w' x', (forwardTo 0x1C00000 3 ms s).fwdView 0x1C00000 = (some { code := 3, left := [hMmu], worst := w' }, x')) ∧
    (∀ m ∈ ms, Done m 3 .state (forwardTo 0x1C00000 3 ms s)) ∧
    ∀ a, isLeaf a = true → a ∉ ms → (forwardTo 0x1C00000 3 ms s).cmdSt a = s.cmdSt a := by
  induction ms generalizing s w x with
  | nil => exact ⟨⟨w, x, hview⟩, fun m hm => absurd hm List.not_mem_nil, fun _ _ _ => rfl⟩
  | cons m t ih =>
    obtain ⟨⟨ch, rfl⟩, ht⟩ := List.forall_mem_cons.mp hms
    obtain ⟨hmb, htb⟩ := List.forall_mem_cons.mp hbusy
    obtain ⟨hmmu, hnd'⟩ := List.nodup_cons.mp hnd
    obtain ⟨hmt, hndt⟩ := List.nodup_cons.mp hnd'
    have hleaf : isLeaf (hMlr ch) = true := (unitIs_mlr ch).1
    rw [forwardTo_cons 3 _ t (forwards_of_view hview), unitCmd_resume (hst ch) hmb]
    have hkeep : ∀ a, isLeaf a = true → a ≠ hMlr ch → (finish (hMlr ch) 3 .state s).cmdSt a = s.cmdSt a := fun a ha hne =>
      cmdSt_finish_ne 3 .state s hne (leaf_notMem_basinsOf ha)
    have hnext : (finish (hMlr ch) 3 .state s).fwdView 0x1C00000 = (some { code := 3, left := hMmu :: t, worst := max w Code.state.num }, x) := by
      rw [fwdView_finish 3 .state s (leaf_ne_basin hleaf (by decide)).symm, if_pos (by simp [basinsOf_mlr]), hview,
        returned_second 3 w .state x (List.ne_of_not_mem_cons hmmu) hmt]
    have hmmut : hMmu ∉ t := List.not_mem_of_not_mem_cons hmmu
    obtain ⟨hv, hdone, hrest⟩ := ih hnext ht (List.nodup_cons.mpr ⟨hmmut, hndt⟩)
      (fun j => (State.fld_congr (finish_regs ..) _).trans_lt (hst j))
      (fun a ha => by
        obtain ⟨j, rfl⟩ := ht a ha
        rw [hkeep _ (unitIs_mlr j).1 fun e => hmt (e ▸ ha)]
        exact htb _ ha)
    refine ⟨hv, List.forall_mem_cons.mpr ⟨?_, hdone⟩, fun a ha hn => ?_⟩
    · exact (hrest _ hleaf hmt).trans (finish_done ..)
    · exact (hrest a ha (List.not_mem_of_not_mem_cons hn)).trans (hkeep a ha (List.ne_of_not_mem_cons hn))

/-- The channels of the basin at `0x1C00000`, after the MMU. -/
def channelHdrs : List Nat := rowHdrs 0x1C20000 32

theorem members_mmuBasin : members 0x1C00000 = hMmu :: channelHdrs := rfl

theorem mem_channelHdrs (ch : Fin 32) : hMlr ch ∈ channelHdrs := List.mem_map.mpr ⟨ch, List.mem_range.mpr ch.isLt, rfl⟩

theorem exists_of_mem_channelHdrs {m : Nat} (hm : m ∈ channelHdrs) : ∃ ch : Fin 32, m = hMlr ch := by
  obtain ⟨i, hi, rfl⟩ := List.mem_map.mp hm
  exact ⟨⟨i, List.mem_range.mp hi⟩, rfl⟩

/-- The basin forwards command 3, and the MMU has begun INV_VA. -/
def invVaStarted (s : State) : State := startBusy hMmu 3 (invCmd 3 (fwdStart 0x1C00000 3 s)).2

theorem cmdSt_invVaStarted {a : Nat} (s : State) (ha : a ≠ hMmu) : (invVaStarted s).cmdSt a = s.cmdSt a :=
  (startBusy_frame hMmu 3 (invCmd 3 (fwdStart 0x1C00000 3 s)).2).1 a (by simpa using ha)

theorem fwdView_invVaStarted (s : State) :
    (invVaStarted s).fwdView 0x1C00000 = (some { code := 3, left := hMmu :: channelHdrs, worst := 0 }, s.cmdSt 0x1C00000) := by
  have hfwd := congrArg Prod.fst (fwdView_fwdStart_same 0x1C00000 3 s)
  exact Prod.ext hfwd (cmdSt_invVaStarted s (by decide))

theorem basinCmd_invVa {s : State} (hbusy : s.cmdBusy 0x1C00000 = false) (hst : ∀ ch : Fin 32, s.mState ch < 4) :
    (basinCmd 0x1C00000 3 s).cmdBusy 0x1C00000 = true ∧ cmdStatus (basinCmd 0x1C00000 3 s) 0x1C00000 = 0x301 ∧
    (basinCmd 0x1C00000 3 s).cmdSt hMmu = { status := 1, code := 3, busy := true } ∧
    ∀ ch : Fin 32, Done (hMlr ch) 3 .state (basinCmd 0x1C00000 3 s) := by
  obtain ⟨-, hnd, -⟩ := members_of_basin (b := 0x1C00000) (by decide) (by decide)
  rw [members_mmuBasin] at hnd
  have hnot : hMmu ∉ channelHdrs := (List.nodup_cons.mp hnd).1
  have hfree := not_busy_of_basin (b := 0x1C00000) (by decide) hbusy
  rw [leaves_of_ne_zero (by decide), members_mmuBasin] at hfree
  obtain ⟨hmmu, hchans⟩ := List.forall_mem_cons.mp hfree
  have hunit : unitCmd hMmu 3 (fwdStart 0x1C00000 3 s) = invVaStarted s := by
    rw [unitCmd_mmu, if_pos (by decide)]
    exact runLong_runs ((cmdBusy_leaf _ (by decide)).trans hmmu) rfl
  have heq : basinCmd 0x1C00000 3 s = forwardTo 0x1C00000 3 channelHdrs (invVaStarted s) := by
    rw [basinCmd_forwards 3 (by decide) hbusy, members_mmuBasin, forwardTo_cons 3 hMmu _ (forwards_of_view (fwdView_fwdStart_same ..)), hunit]
  obtain ⟨⟨w, x, hend⟩, hdone, hrest⟩ :=
    forwardTo_resume (fwdView_invVaStarted s) (fun _ => exists_of_mem_channelHdrs) hnd hst fun m hm => by
      rw [cmdSt_invVaStarted s fun e => hnot (e ▸ hm)]
      exact hchans m hm
  rw [← heq] at hend hdone hrest
  have hf : Tbl.find (basinCmd 0x1C00000 3 s).rep.fwd 0x1C00000 = some { code := 3, left := [hMmu], worst := w } := congrArg Prod.fst hend
  refine ⟨?_, ?_, ?_, fun ch => hdone _ (mem_channelHdrs ch)⟩
  · rw [State.cmdBusy, if_pos (by decide), hf]
    simp
  · simp only [cmdStatus, hf]
  · exact (hrest hMmu (by decide) hnot).trans (startBusy_busy ..)

end Sys2Proof.Machine

open Sys2Proof Sys2Proof.Machine Sys2Proof.Claims

/-- Settles O56: a CMD word runs the command that the tables give to the unit's class and code, and a basin collects the codes of its members. -/
theorem commandWrites : Obligations.CommandWrites := by
  unfold Obligations.CommandWrites
  intro s path o v be b h code m a p n c ch d hcode
  have hlt : code < 256 := hcode ▸ Nat.mod_lt _ (by decide)
  refine ⟨fun hbe _ => ?table, fun hbe hb h1 => ?advance, fun hbe hb h2 => ?svnCommit, fun hl ho hbe hb hc => ?unknown, fun hl ho hb => ?busy,
    fun hh ho hbe => ?noByte, fun hb hbe => ?basin, fun hb => ?noBasin, fun hb ho hbusy hf => ?forwarding, fun hb ho hbusy hf => ?member,
    fun hb ho hbusy hc => ?allRefuse, fun ho hbusy h3 => ?hclr, fun ho hbusy hst => ?invVa⟩
  case table =>
    refine eachCommand_mono (fun h0 code0 i hi hh hc => ?_) (eachCommand_isCmd p n c ch d)
    subst hh
    obtain ⟨hl, hx⟩ := hi
    rw [Same, exec_writeCmd s path v hl hbe, hx, ← hc, hcode]
  case advance =>
    have hlcs : unitCmd hLcs 1 s = runAdvance (Config.freeNat s.freeCtr % 2 == 1) { s with freeCtr := s.freeCtr + 1 } := if_neg (by rw [hb]; decide)
    exact (exec_writeCmd s path v (h := hLcs) (by decide) hbe).trans (by rw [← hcode, h1, hlcs]; rfl)
  case svnCommit =>
    have hlcs : unitCmd hLcs 2 s = runCmd hLcs 2 (svnCommitCmd (Config.freeNat s.freeCtr % 2 == 1)) { s with freeCtr := s.freeCtr + 1 } :=
      if_neg (by rw [hb]; decide)
    exact (exec_writeCmd s path v (h := hLcs) (by decide) hbe).trans (by rw [← hcode, h2, hlcs]; rfl)
  case unknown =>
    refine ⟨_, exec_writeHeader v be (isHeader_of_leaf hl) ho (by decide) (by decide), ?_⟩
    rw [headerWrite_cmd_leaf _ s hl hbe, ← hcode, unitCmd_refused hc hb]
    exact turnedAway_finish ..
  case busy =>
    refine ⟨_, exec_writeHeader v be (isHeader_of_leaf hl) ho (by decide) (by decide), ?_⟩
    cases hbe : bitAt be.toNat 0
    · exact headerWrite_cmd_off _ s hbe
    · rw [headerWrite_cmd_leaf _ s hl hbe, unitCmd_busy _ hb]
  case noByte => exact ⟨_, exec_writeHeader v be hh ho (by decide) (by decide), headerWrite_cmd_off _ s hbe⟩
  case basin =>
    have hh := isHeader_of_basin hb
    have ho : (BitVec.ofNat 25 b).toNat = b := toNat_headerWord (n := 0) hh (by decide)
    rw [Same, exec_writeHeader v be hh (toNat_headerWord hh (by decide)) (by decide) (by decide), headerWrite_cmd_basin _ s hb hbe, ← hcode,
      exec_basinCmd s hb ho hlt]
  case noBasin => exact ⟨s, congrArg Host.Outcome.next (if_neg (by rw [hb]; decide)), rfl⟩
  case forwarding => exact ⟨_, exec_basinCmd s hb ho hlt, basinCmd_busy_forwarding code hbusy hf⟩
  case member =>
    refine ⟨_, exec_basinCmd s hb ho hlt, ?_⟩
    rw [basinCmd_busy_member code hbusy hf]
    exact ⟨Tbl.get_set_same .., fun hab => Tbl.get_set_ne _ _ _ (Ne.symm hab), rfl⟩
  case allRefuse =>
    obtain ⟨hdone, hleaves, hkeep, hframe⟩ := basinCmd_unknown hb hbusy hc
    exact ⟨_, exec_basinCmd s hb ho hlt, hdone, hleaves m, hkeep a, hframe⟩
  case hclr =>
    obtain ⟨heq, hdone⟩ := basinCmd_hclr hbusy
    refine ⟨_, exec_basinCmd s (by decide) ho (by decide : 3 < 256), ?_, ?_, hdone, ?_, ?_⟩
    · rw [heq]
      exact (cmdSt_finish_ne 3 .ok _ (by decide) (by decide)).trans (finish_done ..)
    · rw [heq]
      exact finish_done ..
    · rw [heq, finish_unlogged _ _ _ rfl]
      have hget := get_filter_key s.rep.hbin (fun k => k / 64 != s.fld R.PERF_CMD_ARG_HIST) m
      rw [logRefused_frame]
      refine hget.trans ?_
      by_cases hm : m / 64 = s.fld R.PERF_CMD_ARG_HIST <;> simp [hm]
    · rw [heq, finish_unlogged _ _ _ rfl, logRefused_frame]
      rfl
  case invVa =>
    obtain ⟨hbusy', hstatus, hmmu, hchans⟩ := basinCmd_invVa hbusy hst
    exact ⟨_, exec_basinCmd s (by decide) ho (by decide : 3 < 256), hbusy', hstatus, hmmu, hchans ch⟩
end

section
/-! Fields beside a field that is written, and the frame of the clock unit's operations: clock state, words of the unit, events and its FAULT word. -/

namespace Sys2Proof.Machine

open Sys2Proof.Claims

/-! Fields that do not overlap. -/

/-- Does a write of field `l` leave field `m`? -/
def apart (l m : Loc) : Bool := decide (l.lo ≤ l.hi) && decide (l.hi < 32) && (l.off != m.off || decide (l.hi < m.lo) || decide (m.hi < l.lo))

theorem fld_setFld_of_apart {l m : Loc} (s : State) (v : Nat) (h : apart l m = true) : (s.setFld l v).fld m = s.fld m := by
  simp only [apart, Bool.and_eq_true, Bool.or_eq_true, bne_iff_ne, decide_eq_true_eq] at h
  obtain ⟨⟨hl, h32⟩, (hoff | hm) | hm⟩ := h
  · exact State.fld_setFld_ne s v hoff
  · exact State.fld_setFld_apart s v hl h32 (.inl hm)
  · exact State.fld_setFld_apart s v hl h32 (.inr hm)

theorem flag_setFld_of_apart {l m : Loc} (s : State) (v : Nat) (h : apart l m = true) : (s.setFld l v).flag m = s.flag m := by
  rw [State.flag, fld_setFld_of_apart s v h, State.flag]

theorem fld_setFlag_of_apart {l m : Loc} (s : State) (b : Bool) (h : apart l m = true) : (s.setFlag l b).fld m = s.fld m :=
  fld_setFld_of_apart s _ h

theorem flag_setFlag_of_apart {l m : Loc} (s : State) (b : Bool) (h : apart l m = true) : (s.setFlag l b).flag m = s.flag m :=
  flag_setFld_of_apart s _ h

theorem flag_setWord_ne {o : Nat} {m : Loc} (s : State) (v : Nat) (h : o ≠ m.off) : (s.setWord o v).flag m = s.flag m := by
  rw [State.flag, State.fld_setWord_ne s v h, State.flag]

theorem word_setFlag_ne {l : Loc} {o : Nat} (s : State) (b : Bool) (h : l.off ≠ o) : (s.setFlag l b).word o = s.word o :=
  State.word_setFld_ne s _ h

theorem word_setWord_toNat (s : State) (o : Nat) (w : Word) : (s.setWord o w.toNat).word o = w := by
  rw [State.word_setWord_same, BitVec.ofNat_toNat, BitVec.setWidth_eq]

theorem flag_congr {s t : State} (h : t.regs = s.regs) (l : Loc) : t.flag l = s.flag l := by rw [State.flag, State.fld_congr h, State.flag]

@[simp] theorem fld_raise (h b : Nat) (s : State) (l : Loc) : (raise h b s).fld l = s.fld l := rfl
@[simp] theorem flag_raise (h b : Nat) (s : State) (l : Loc) : (raise h b s).flag l = s.flag l := rfl
@[simp] theorem word_raise (h b : Nat) (s : State) (o : Nat) : (raise h b s).word o = s.word o := rfl
@[simp] theorem fld_withClk (s : State) (c : Clk) (l : Loc) : State.fld { s with clk := c } l = s.fld l := rfl
@[simp] theorem flag_withClk (s : State) (c : Clk) (l : Loc) : State.flag { s with clk := c } l = s.flag l := rfl
@[simp] theorem word_withClk (s : State) (c : Clk) (o : Nat) : State.word { s with clk := c } o = s.word o := rfl

theorem setFault_eq (h b : Nat) (s : State) : setFault h b s = { s with rep := (setFault h b s).rep } := by
  by_cases hb : s.faultBit h b = true
  · rw [setFault, if_pos hb]
  · rw [setFault, if_neg hb]; rfl

theorem putFault_eq (h b : Nat) (v : Bool) (s : State) : putFault h b v s = { s with rep := (putFault h b v s).rep } := by
  cases v
  · rfl
  · exact setFault_eq h b s

/-! The frame. -/

/-- Of `s` and `t` only clock state, the words `ws`, events `evs` and the clock unit's FAULT word (and what these bring to the log and the counters) differ. -/
structure ClkFrame (ws : List Nat) (evs : List (Nat × Nat)) (s t : State) : Prop where
  eq : t = { s with clk := t.clk, regs := t.regs, rep := t.rep }
  words : WordsKept s t ws
  reports : RepFrame [] evs [hClk] s t

namespace ClkFrame

variable {ws : List Nat} {evs : List (Nat × Nat)} {s t u : State}

theorem refl (ws : List Nat) (evs : List (Nat × Nat)) (s : State) : ClkFrame ws evs s s := ⟨rfl, fun _ _ => rfl, .refl ..⟩

theorem trans (h : ClkFrame ws evs s t) (k : ClkFrame ws evs t u) : ClkFrame ws evs s u where
  eq := k.eq.trans (congrArg (fun w : State => { w with clk := u.clk, regs := u.regs, rep := u.rep }) h.eq)
  words o ho := (k.words o ho).trans (h.words o ho)
  reports := (h.reports.trans k.reports).mono (by simp) (by simp) (by simp)

theorem mono {ws' : List Nat} {evs' : List (Nat × Nat)} (h : ClkFrame ws evs s t) (hw : ws ⊆ ws') (he : evs ⊆ evs') : ClkFrame ws' evs' s t :=
  ⟨h.eq, fun o ho => h.words o fun m => ho (hw m), h.reports.mono (by simp) he (by simp)⟩

theorem setWord (h : ClkFrame ws evs s t) {o : Nat} (v : Nat) (ho : o ∈ ws) : ClkFrame ws evs s (t.setWord o v) :=
  h.trans ⟨rfl, fun _ hn => State.word_setWord_ne t v fun e => hn (e ▸ ho), .of_rep rfl⟩

theorem setFld (h : ClkFrame ws evs s t) {l : Loc} (v : Nat) (hl : l.off ∈ ws) : ClkFrame ws evs s (t.setFld l v) := h.setWord _ hl

theorem setFlag (h : ClkFrame ws evs s t) {l : Loc} (b : Bool) (hl : l.off ∈ ws) : ClkFrame ws evs s (t.setFlag l b) := h.setWord _ hl

theorem withClk (h : ClkFrame ws evs s t) (c : Clk) : ClkFrame ws evs s { t with clk := c } := h.trans ⟨rfl, fun _ _ => rfl, .of_rep rfl⟩

theorem raise (h : ClkFrame ws evs s t) {b : Nat} (hb : (hClk, b) ∈ evs) : ClkFrame ws evs s (raise hClk b t) :=
  h.trans ⟨rfl, fun _ _ => rfl, (raise_frame hClk b t).mono (by simp) (by simpa using hb) (by simp)⟩

theorem putFault (h : ClkFrame ws evs s t) (b : Nat) (v : Bool) : ClkFrame ws evs s (putFault hClk b v t) :=
  h.trans ⟨(putFault_eq ..).trans (by rw [putFault_regs, putFault_clk]), fun _ _ => State.word_congr (putFault_regs ..) _,
    (putFault_frame hClk b v t).mono (by simp) (by simp) (by simp)⟩

/-- The frame with the clock state that is left. -/
theorem eq_of_clk (h : ClkFrame ws evs s t) {c : Clk} (hc : t.clk = c) : t = { s with clk := c, regs := t.regs, rep := t.rep } := hc ▸ h.eq

end ClkFrame

end Sys2Proof.Machine
end

section
/-! Wellspring's references (R36 to R42, R54): how a reference is judged, what holdover and a release leave, and the branches of the loss of a reference and of a
counting window. -/

namespace Sys2Proof.Machine

open Sys2Proof.Claims

/-! The flags REFA_OK and REFB_OK. -/

theorem refOk_off (r : Nat) : (refOk r).off = R.CLK_WS_STATUS := by unfold refOk; split <;> rfl

theorem apart_refOk {r : Nat} {m : Loc} (hA : apart R.CLK_WS_STATUS_REFA_OK m = true) (hB : apart R.CLK_WS_STATUS_REFB_OK m = true) :
    apart (refOk r) m = true := by unfold refOk; split <;> assumption

theorem apart_of_refOk {r : Nat} {l : Loc} (hA : apart l R.CLK_WS_STATUS_REFA_OK = true) (hB : apart l R.CLK_WS_STATUS_REFB_OK = true) :
    apart l (refOk r) = true := by unfold refOk; split <;> assumption

theorem flag_refOk_setFld {r : Nat} {l : Loc} (s : State) (v : Nat) (hA : apart l R.CLK_WS_STATUS_REFA_OK = true)
    (hB : apart l R.CLK_WS_STATUS_REFB_OK = true) : (s.setFld l v).flag (refOk r) = s.flag (refOk r) :=
  flag_setFld_of_apart s v (apart_of_refOk hA hB)

theorem flag_refOk_setFlag {r : Nat} {l : Loc} (s : State) (b : Bool) (hA : apart l R.CLK_WS_STATUS_REFA_OK = true)
    (hB : apart l R.CLK_WS_STATUS_REFB_OK = true) : (s.setFlag l b).flag (refOk r) = s.flag (refOk r) := flag_refOk_setFld s _ hA hB

theorem flag_refOk_setWord {r o : Nat} (s : State) (v : Nat) (h : o ≠ R.CLK_WS_STATUS) : (s.setWord o v).flag (refOk r) = s.flag (refOk r) :=
  flag_setWord_ne s v (by rwa [refOk_off])

/-! Qualifying windows. -/

@[simp] theorem setQual_regs (s : State) (r n : Nat) : (s.setQual r n).regs = s.regs := by unfold State.setQual; split <;> rfl
@[simp] theorem setQual_rep (s : State) (r n : Nat) : (s.setQual r n).rep = s.rep := by unfold State.setQual; split <;> rfl

theorem setQual_eq (s : State) (r n : Nat) : s.setQual r n = { s with clk := (s.setQual r n).clk } := by unfold State.setQual; split <;> rfl

theorem clk_setQual_congr {s t : State} (r n : Nat) (h : t.clk = s.clk) : (t.setQual r n).clk = (s.setQual r n).clk := by
  unfold State.setQual; split <;> simp [h]

theorem qual_congr {s t : State} (r : Nat) (h : t.clk = s.clk) : t.qual r = s.qual r := by unfold State.qual; rw [h]

theorem qual_setQual_same (s : State) (r n : Nat) : (s.setQual r n).qual r = n := by
  unfold State.setQual State.qual; split <;> rfl

theorem qual_setQual_other {q r : Nat} (s : State) (n : Nat) (h : q = 0 ↔ r ≠ 0) : (s.setQual r n).qual q = s.qual q := by
  unfold State.setQual State.qual
  by_cases hr : r = 0
  · rw [if_pos hr, if_neg (by omega), if_neg (by omega)]
  · rw [if_neg hr, if_pos (by omega), if_pos (by omega)]

/-! A reference judged. -/

/-- Reference `r` is found good or bad, with `n` qualifying windows in a row. -/
def judged (r n : Nat) (ok : Bool) (s : State) : State := noRef ((s.setFlag (refOk r) ok).setQual r n)

theorem judged_regs (r n : Nat) (ok : Bool) (s : State) : (judged r n ok s).regs = (s.setFlag (refOk r) ok).regs := by
  unfold judged noRef; rw [putFault_regs, setQual_regs]

theorem judged_clk (r n : Nat) (ok : Bool) (s : State) : (judged r n ok s).clk = (s.setQual r n).clk := by
  unfold judged noRef; rw [putFault_clk]; exact clk_setQual_congr r n rfl

theorem fld_judged {r : Nat} {m : Loc} (n : Nat) (ok : Bool) (s : State) (hA : apart R.CLK_WS_STATUS_REFA_OK m = true)
    (hB : apart R.CLK_WS_STATUS_REFB_OK m = true) : (judged r n ok s).fld m = s.fld m := by
  rw [State.fld_congr (judged_regs ..), fld_setFlag_of_apart s ok (apart_refOk hA hB)]

theorem flag_judged {r : Nat} {m : Loc} (n : Nat) (ok : Bool) (s : State) (hA : apart R.CLK_WS_STATUS_REFA_OK m = true)
    (hB : apart R.CLK_WS_STATUS_REFB_OK m = true) : (judged r n ok s).flag m = s.flag m := by
  rw [State.flag, fld_judged n ok s hA hB, State.flag]

theorem word_judged {r o : Nat} (n : Nat) (ok : Bool) (s : State) (h : R.CLK_WS_STATUS ≠ o) : (judged r n ok s).word o = s.word o := by
  rw [State.word_congr (judged_regs ..), word_setFlag_ne s ok (by rwa [refOk_off])]

@[simp] theorem flag_refOk_judged (r n : Nat) (ok : Bool) (s : State) : (judged r n ok s).flag (refOk r) = ok := by
  rw [flag_congr (judged_regs ..)]
  unfold refOk
  split <;> exact State.flag_setFlag_same _ _ ok rfl (by decide)

@[simp] theorem qual_judged_same (r n : Nat) (ok : Bool) (s : State) : (judged r n ok s).qual r = n := by
  rw [qual_congr (s := s.setQual r n) r (judged_clk ..), qual_setQual_same]

theorem qual_judged_other {q r : Nat} (n : Nat) (ok : Bool) (s : State) (h : q = 0 ↔ r ≠ 0) : (judged r n ok s).qual q = s.qual q := by
  rw [qual_congr (s := s.setQual r n) q (judged_clk ..), qual_setQual_other s n h]

theorem ClkFrame.judged {ws : List Nat} {evs : List (Nat × Nat)} {s t : State} (h : ClkFrame ws evs s t) (r n : Nat) (ok : Bool)
    (hw : R.CLK_WS_STATUS ∈ ws) : ClkFrame ws evs s (judged r n ok t) := by
  have hq := (h.setFlag ok (l := refOk r) (by rwa [refOk_off])).withClk ((t.setFlag (refOk r) ok).setQual r n).clk
  rw [← setQual_eq] at hq
  exact hq.putFault 2 _

/-! Holdover (R38). -/

theorem flag_holdover_enterHoldover (s : State) : (enterHoldover s).flag R.CLK_WS_STATUS_HOLDOVER = true := by
  unfold enterHoldover
  simp (disch := decide) only [flag_setFld_of_apart, flag_setFlag_of_apart, State.flag_setFlag_same]

theorem flag_lock_enterHoldover (s : State) : (enterHoldover s).flag R.CLK_WS_STATUS_LOCK = false := by
  unfold enterHoldover
  simp (disch := decide) only [flag_setFld_of_apart, State.flag_setFlag_same]

theorem fld_actRef_enterHoldover (s : State) : (enterHoldover s).fld R.CLK_WS_STATUS_ACT_REF = s.fld R.CLK_WS_STATUS_ACT_REF := by
  unfold enterHoldover
  simp (disch := decide) only [fld_setFld_of_apart, fld_setFlag_of_apart, State.fld_setWord_ne]

theorem flag_refOk_enterHoldover (r : Nat) (s : State) : (enterHoldover s).flag (refOk r) = s.flag (refOk r) := by
  unfold enterHoldover
  simp (disch := decide) only [flag_refOk_setFld, flag_refOk_setFlag, flag_refOk_setWord]

theorem word_holdval_enterHoldover (s : State) : (enterHoldover s).word R.CLK_WS_HOLDVAL = BitVec.ofNat 32 s.clk.mean := by
  unfold enterHoldover
  simp (disch := decide) only [State.word_setFld_ne, word_setFlag_ne, State.word_setWord_ne, State.word_setWord_same]

theorem word_ctrlval_enterHoldover (s : State) : (enterHoldover s).word R.CLK_WS_CTRLVAL = BitVec.ofNat 32 s.clk.mean := by
  unfold enterHoldover
  simp (disch := decide) only [State.word_setFld_ne, word_setFlag_ne, State.word_setWord_same]

theorem ClkFrame.enterHoldover {evs : List (Nat × Nat)} {s t : State}
    (h : ClkFrame [R.CLK_WS_STATUS, R.CLK_WS_HOLDVAL, R.CLK_WS_CTRLVAL] evs s t) :
    ClkFrame [R.CLK_WS_STATUS, R.CLK_WS_HOLDVAL, R.CLK_WS_CTRLVAL] evs s (enterHoldover t) :=
  ((((h.setWord _ (by simp)).setWord _ (by simp)).setFlag _ (by decide)).setFlag _ (by decide)).setFld _ (by decide)

/-! Release (R41, R42). -/

theorem releaseTo_regs (r : Nat) (s : State) :
    (releaseTo r s).regs = (((s.setFlag R.CLK_WS_STATUS_HOLDOVER false).setFld R.CLK_WS_STATUS_ACT_REF r).setFld R.CLK_WS_STATUS_GOOD_WIN 0).regs := by
  unfold releaseTo; dsimp only; split <;> rfl

@[simp] theorem releaseTo_clk (r : Nat) (s : State) : (releaseTo r s).clk = s.clk := by
  unfold releaseTo; dsimp only; split <;> rfl

theorem flag_holdover_releaseTo (r : Nat) (s : State) : (releaseTo r s).flag R.CLK_WS_STATUS_HOLDOVER = false := by
  rw [flag_congr (releaseTo_regs r s)]
  simp (disch := decide) only [flag_setFld_of_apart, State.flag_setFlag_same]

theorem fld_actRef_releaseTo {r : Nat} (s : State) (hr : r < 2) : (releaseTo r s).fld R.CLK_WS_STATUS_ACT_REF = r := by
  rw [State.fld_congr (releaseTo_regs r s)]
  simp (disch := decide) only [fld_setFld_of_apart, State.fld_setFld_same]
  exact Nat.mod_eq_of_lt hr

theorem fld_goodWin_releaseTo (r : Nat) (s : State) : (releaseTo r s).fld R.CLK_WS_STATUS_GOOD_WIN = 0 := by
  rw [State.fld_congr (releaseTo_regs r s)]
  exact State.fld_setFld_same _ _ 0 (by decide) (by decide)

theorem flag_lock_releaseTo (r : Nat) (s : State) : (releaseTo r s).flag R.CLK_WS_STATUS_LOCK = s.flag R.CLK_WS_STATUS_LOCK := by
  rw [flag_congr (releaseTo_regs r s)]
  simp (disch := decide) only [flag_setFld_of_apart, flag_setFlag_of_apart]

theorem flag_refOk_releaseTo (q r : Nat) (s : State) : (releaseTo r s).flag (refOk q) = s.flag (refOk q) := by
  rw [flag_congr (releaseTo_regs r s)]
  simp (disch := decide) only [flag_refOk_setFld, flag_refOk_setFlag]

theorem word_releaseTo {o : Nat} (r : Nat) (s : State) (h : R.CLK_WS_STATUS ≠ o) : (releaseTo r s).word o = s.word o := by
  rw [State.word_congr (releaseTo_regs r s), State.word_setFld_ne _ _ h, State.word_setFld_ne _ _ h, word_setFlag_ne _ _ h]

/-- A release to another reference than the active one is a switch. -/
theorem raised_releaseTo {r : Nat} {s : State} (h : s.actRef ≠ r) : Raised hClk 2 (releaseTo r s) := by
  unfold releaseTo
  dsimp only
  rw [if_pos (bne_iff_ne.mpr h)]
  exact raise_raised ..

theorem ClkFrame.releaseTo {ws : List Nat} {evs : List (Nat × Nat)} {s t : State} (h : ClkFrame ws evs s t) (r : Nat)
    (hw : R.CLK_WS_STATUS ∈ ws) (he : t.actRef ≠ r → (hClk, 2) ∈ evs) : ClkFrame ws evs s (releaseTo r t) := by
  have hk := ((h.setFlag (l := R.CLK_WS_STATUS_HOLDOVER) false hw).setFld (l := R.CLK_WS_STATUS_ACT_REF) r hw).setFld
    (l := R.CLK_WS_STATUS_GOOD_WIN) 0 hw
  unfold Machine.releaseTo
  dsimp only
  split
  next hsw => exact hk.raise (he (bne_iff_ne.mp hsw))
  next => exact hk

/-! The loss of the active reference (R38, R42). -/

/-- The active reference is lost and holdover entered. -/
def refLostHold (r : Nat) (s : State) : State := raise hClk 1 (enterHoldover (judged r 0 false s))

theorem refLostHold_clk (r : Nat) (s : State) : (refLostHold r s).clk = (judged r 0 false s).clk := by
  rw [refLostHold, raise_clk]; rfl

theorem qual_refLostHold (r : Fin 2) (s : State) : (refLostHold r s).qual (1 - r) = s.qual (1 - r) :=
  (qual_congr (s := judged r 0 false s) _ (refLostHold_clk r s)).trans (qual_judged_other 0 false s (by omega))

theorem refBad_stays {r : Fin 2} {s : State} (hr : s.fld R.CLK_WS_STATUS_ACT_REF = r) (hh : s.flag R.CLK_WS_STATUS_HOLDOVER = false)
    (hq : s.fld R.CLK_REF_CTRL_REF_SEL ≠ 2 ∨ s.qual (1 - r) < 4) : refBad r s = judgeAnew (refLostHold r s) := by
  have hn : ¬ (s.fld R.CLK_REF_CTRL_REF_SEL = 2 ∧ 4 ≤ (refLostHold r s).qual (1 - r)) := by rw [qual_refLostHold]; omega
  unfold refBad
  exact (if_neg (not_not.mpr hr.symm)).trans ((if_neg (ne_true_of_eq_false hh)).trans (if_neg hn))

theorem refBad_switches {r : Fin 2} {s : State} (hr : s.fld R.CLK_WS_STATUS_ACT_REF = r) (hh : s.flag R.CLK_WS_STATUS_HOLDOVER = false)
    (hsel : s.fld R.CLK_REF_CTRL_REF_SEL = 2) (hq : 4 ≤ s.qual (1 - r)) : refBad r s = releaseTo (1 - r) (refLostHold r s) := by
  have hp : s.fld R.CLK_REF_CTRL_REF_SEL = 2 ∧ 4 ≤ (refLostHold r s).qual (1 - r) := by rw [qual_refLostHold]; exact ⟨hsel, hq⟩
  unfold refBad
  exact (if_neg (not_not.mpr hr.symm)).trans ((if_neg (ne_true_of_eq_false hh)).trans (if_pos hp))

theorem refBad_inHoldover {r : Fin 2} {s : State} (hr : s.fld R.CLK_WS_STATUS_ACT_REF = r) (hh : s.flag R.CLK_WS_STATUS_HOLDOVER = true)
    (hok : s.flag (refOk r) = true) : refBad r s = raise hClk 1 (judged r 0 false s) := by
  unfold refBad
  exact (if_neg (not_not.mpr hr.symm)).trans ((if_pos hh).trans (if_pos hok))

/-! Counting windows (R36, R37, R41). -/

/-- A window within 256 counts: its count is in CLK_LOCK_COUNT, its reference good, one more window qualifies. -/
def windowTaken (r count : Nat) (s : State) : State := judged r (min 4 (s.qual r + 1)) true (s.setWord R.CLK_LOCK_COUNT count)

/-- A good window of the active reference: its mean control value is kept for holdover and one more good window counts. -/
def goodWindow (r count ctl mean : Nat) (s : State) : State :=
  let u := (windowTaken r count s).setWord R.CLK_WS_CTRLVAL ctl
  { u with clk := { u.clk with mean := mean } }.setFld R.CLK_WS_STATUS_GOOD_WIN (min 4 (s.fld R.CLK_WS_STATUS_GOOD_WIN + 1))

theorem lockWindow_good {r count : Nat} (ctl mean : Nat) {s : State} (hd : lockDist r count ≤ 200) (hh : s.flag R.CLK_WS_STATUS_HOLDOVER = false)
    (hr : s.fld R.CLK_WS_STATUS_ACT_REF = r) (hg : s.fld R.CLK_WS_STATUS_GOOD_WIN < 3 ∨ s.flag R.CLK_WS_STATUS_LOCK = true) :
    lockWindow r count ctl mean false s = goodWindow r count ctl mean s := by
  have hn : ¬ (min 4 (s.fld R.CLK_WS_STATUS_GOOD_WIN + 1) = 4 ∧ s.flag R.CLK_WS_STATUS_LOCK = false) := by
    rintro ⟨h4, hl⟩
    rw [hl] at hg
    simp only [Bool.false_eq_true, or_false] at hg
    omega
  unfold lockWindow
  exact (if_neg (by omega)).trans ((if_neg (ne_true_of_eq_false hh)).trans ((if_pos hr.symm).trans ((if_pos hd).trans (if_neg hn))))

theorem lockWindow_locks {r count : Nat} (ctl mean : Nat) {s : State} (hd : lockDist r count ≤ 200) (hh : s.flag R.CLK_WS_STATUS_HOLDOVER = false)
    (hr : s.fld R.CLK_WS_STATUS_ACT_REF = r) (hg : 3 ≤ s.fld R.CLK_WS_STATUS_GOOD_WIN) (hl : s.flag R.CLK_WS_STATUS_LOCK = false) :
    lockWindow r count ctl mean false s = raise hClk 3 ((goodWindow r count ctl mean s).setFlag R.CLK_WS_STATUS_LOCK true) := by
  have hp : min 4 (s.fld R.CLK_WS_STATUS_GOOD_WIN + 1) = 4 ∧ s.flag R.CLK_WS_STATUS_LOCK = false := ⟨by omega, hl⟩
  unfold lockWindow
  exact (if_neg (by omega)).trans ((if_neg (ne_true_of_eq_false hh)).trans ((if_pos hr.symm).trans ((if_pos hd).trans (if_pos hp))))

theorem lockWindow_outside {r count : Nat} (ctl mean : Nat) {s : State} (hd : 200 < lockDist r count) (hd' : lockDist r count ≤ 25600)
    (hh : s.flag R.CLK_WS_STATUS_HOLDOVER = false) (hr : s.fld R.CLK_WS_STATUS_ACT_REF = r) :
    lockWindow r count ctl mean false s = raise hClk 0 ((((windowTaken r count s).setWord R.CLK_WS_CTRLVAL ctl).setFld
      R.CLK_WS_STATUS_GOOD_WIN 0).setFlag R.CLK_WS_STATUS_LOCK false) := by
  unfold lockWindow
  exact (if_neg (by omega)).trans ((if_neg (ne_true_of_eq_false hh)).trans ((if_pos hr.symm).trans (if_neg (by omega))))

theorem lockWindow_releases {r count : Nat} (ctl mean : Nat) {s : State} (hd : lockDist r count ≤ 25600) (hh : s.flag R.CLK_WS_STATUS_HOLDOVER = true)
    (hq : 3 ≤ s.qual r) (ha : s.fld R.CLK_REF_CTRL_REF_SEL = 2 ∨ s.fld R.CLK_REF_CTRL_REF_SEL = r) :
    lockWindow r count ctl mean false s = releaseTo r ((windowTaken r count s).setWord R.CLK_WS_CTRLVAL ctl) := by
  have h4 : 4 ≤ (windowTaken r count s).qual r := by rw [windowTaken, qual_judged_same]; omega
  have hal : refAllowed s r = true := by simpa [refAllowed] using ha
  unfold lockWindow
  exact (if_neg (by omega)).trans ((if_pos hh).trans (if_pos ⟨h4, hal, rfl⟩))

/-- A release waits for the other window that ends in the same moment. -/
theorem lockWindow_waits {r count : Nat} (ctl mean : Nat) {s : State} (hd : lockDist r count ≤ 25600) (hh : s.flag R.CLK_WS_STATUS_HOLDOVER = true) :
    lockWindow r count ctl mean true s = windowTaken r count s := by
  have hn : ¬ (4 ≤ (windowTaken r count s).qual r ∧ refAllowed s r = true ∧ true = false) := by simp
  unfold lockWindow
  exact (if_neg (by omega)).trans ((if_pos hh).trans (if_neg hn))

theorem windowTaken_clk (r count : Nat) (s : State) : (windowTaken r count s).clk = (s.setQual r (min 4 (s.qual r + 1))).clk := by
  rw [windowTaken, judged_clk]; exact clk_setQual_congr r _ rfl

theorem flag_refOk_windowTaken (r count : Nat) (s : State) : (windowTaken r count s).flag (refOk r) = true := flag_refOk_judged ..

theorem word_lockCount_windowTaken (r count : Nat) (s : State) : (windowTaken r count s).word R.CLK_LOCK_COUNT = BitVec.ofNat 32 count := by
  rw [windowTaken, word_judged _ _ _ (by decide), State.word_setWord_same]

theorem fld_windowTaken {r : Nat} {m : Loc} (count : Nat) (s : State) (hA : apart R.CLK_WS_STATUS_REFA_OK m = true)
    (hB : apart R.CLK_WS_STATUS_REFB_OK m = true) (hm : R.CLK_LOCK_COUNT ≠ m.off) : (windowTaken r count s).fld m = s.fld m := by
  rw [windowTaken, fld_judged _ _ _ hA hB, State.fld_setWord_ne _ _ hm]

theorem flag_windowTaken {r : Nat} {m : Loc} (count : Nat) (s : State) (hA : apart R.CLK_WS_STATUS_REFA_OK m = true)
    (hB : apart R.CLK_WS_STATUS_REFB_OK m = true) (hm : R.CLK_LOCK_COUNT ≠ m.off) : (windowTaken r count s).flag m = s.flag m := by
  rw [State.flag, fld_windowTaken count s hA hB hm, State.flag]

theorem clkFrame_windowTaken {ws : List Nat} (evs : List (Nat × Nat)) (r count : Nat) (s : State) (hw : R.CLK_WS_STATUS ∈ ws)
    (hc : R.CLK_LOCK_COUNT ∈ ws) : ClkFrame ws evs s (windowTaken r count s) :=
  ((ClkFrame.refl ws evs s).setWord count hc).judged r _ true hw

/-! A good window of the active reference. -/

theorem goodWindow_clk (r count ctl mean : Nat) (s : State) :
    (goodWindow r count ctl mean s).clk = { (s.setQual r (min 4 (s.qual r + 1))).clk with mean := mean } :=
  congrArg (fun c : Clk => { c with mean := mean }) (windowTaken_clk r count s)

theorem fld_goodWin_goodWindow (r count ctl mean : Nat) (s : State) :
    (goodWindow r count ctl mean s).fld R.CLK_WS_STATUS_GOOD_WIN = min 4 (s.fld R.CLK_WS_STATUS_GOOD_WIN + 1) := by
  rw [goodWindow, State.fld_setFld_same _ _ _ (by decide) (by decide)]
  exact Nat.mod_eq_of_lt (lt_of_le_of_lt (min_le_left ..) (by decide))

theorem flag_lock_goodWindow (r count ctl mean : Nat) (s : State) : (goodWindow r count ctl mean s).flag R.CLK_WS_STATUS_LOCK = s.flag R.CLK_WS_STATUS_LOCK := by
  rw [goodWindow, flag_setFld_of_apart _ _ (by decide), flag_withClk, flag_setWord_ne _ _ (by decide), flag_windowTaken _ _ (by decide) (by decide) (by decide)]

theorem flag_refOk_goodWindow (r count ctl mean : Nat) (s : State) : (goodWindow r count ctl mean s).flag (refOk r) = true := by
  rw [goodWindow, flag_refOk_setFld _ _ (by decide) (by decide), flag_withClk, flag_refOk_setWord _ _ (by decide), flag_refOk_windowTaken]

theorem word_lockCount_goodWindow (r count ctl mean : Nat) (s : State) : (goodWindow r count ctl mean s).word R.CLK_LOCK_COUNT = BitVec.ofNat 32 count := by
  rw [goodWindow, State.word_setFld_ne _ _ (by decide), word_withClk, State.word_setWord_ne _ _ (by decide), word_lockCount_windowTaken]

theorem word_ctrlval_goodWindow (r count mean : Nat) (ctl : Word) (s : State) : (goodWindow r count ctl.toNat mean s).word R.CLK_WS_CTRLVAL = ctl := by
  rw [goodWindow, State.word_setFld_ne _ _ (by decide), word_withClk, word_setWord_toNat]

theorem clkFrame_goodWindow (evs : List (Nat × Nat)) (r count ctl mean : Nat) (s : State) :
    ClkFrame [R.CLK_WS_STATUS, R.CLK_LOCK_COUNT, R.CLK_WS_CTRLVAL] evs s (goodWindow r count ctl mean s) :=
  (((clkFrame_windowTaken evs r count s (by simp) (by simp)).setWord ctl (by simp)).withClk _).setFld _ (by decide)

/-- Every window within 256 counts makes its reference good and shows its count (log entry 70). -/
theorem lockWindow_within {r count : Nat} (ctl mean : Nat) (s : State) (hd : lockDist r count ≤ 25600) :
    (lockWindow r count ctl mean false s).flag (refOk r) = true ∧
    (lockWindow r count ctl mean false s).word R.CLK_LOCK_COUNT = BitVec.ofNat 32 count := by
  unfold lockWindow
  extract_lets d s0 s1 s2 g c s3
  have hf : s1.flag (refOk r) = true := flag_refOk_windowTaken r count s
  have hw : s1.word R.CLK_LOCK_COUNT = BitVec.ofNat 32 count := word_lockCount_windowTaken r count s
  rw [if_neg (by omega)]
  split_ifs <;>
    simp (disch := decide) only [s2, s3, hf, hw, flag_raise, word_raise, flag_withClk, word_withClk, flag_refOk_releaseTo, word_releaseTo, flag_refOk_setFld,
      flag_refOk_setFlag, flag_refOk_setWord, State.word_setFld_ne, word_setFlag_ne, State.word_setWord_ne, and_self]

end Sys2Proof.Machine
end

section
/-! The clauses of `Obligations.WellspringLock`. -/

namespace Sys2Proof.Machine

open Sys2Proof.Claims

theorem lockDist_eq (r : Fin 2) (count : Nat) : lockDist r count = ((count : Int) * 100 - (if r = 0 then 134217728 else 2097152000)).natAbs := by
  simp only [lockDist, Fin.val_eq_zero_iff]

theorem lockDist_other (r : Fin 2) (count : Nat) :
    lockDist (1 - r) count = ((count : Int) * 100 - (if r = 1 then 134217728 else 2097152000)).natAbs := by
  revert r; rw [Fin.forall_fin_two]; exact ⟨rfl, rfl⟩

/-- A counting window that ends alone. -/
theorem exec_lockWindowEnd (r : Fin 2) (count : Nat) (ctl mean : Word) (s : State) :
    exec (.lockWindowEnd r ⟨count, none⟩ ctl mean) s = .next (lockWindow r count ctl.toNat mean.toNat false s) := rfl

theorem actRef_windowTaken (r count ctl : Nat) (s : State) :
    ((windowTaken r count s).setWord R.CLK_WS_CTRLVAL ctl).actRef = s.fld R.CLK_WS_STATUS_ACT_REF := by
  rw [State.actRef, State.fld_setWord_ne _ _ (by decide), fld_windowTaken _ _ (by decide) (by decide) (by decide)]

theorem qual_windowTaken_other {q r : Nat} (count : Nat) (s : State) (h : q = 0 ↔ r ≠ 0) : (windowTaken r count s).qual q = s.qual q := by
  rw [windowTaken, qual_judged_other _ _ _ h]; exact qual_congr q rfl

/-- In holdover both references qualify in one moment: the active one is released to. -/
theorem lockWindows_both {r : Fin 2} {count c : Nat} (ctl mean : Nat) {s u : State} (hh : s.flag R.CLK_WS_STATUS_HOLDOVER = true)
    (hsel : s.fld R.CLK_REF_CTRL_REF_SEL = 2) (hr : s.fld R.CLK_WS_STATUS_ACT_REF = r) (hd : lockDist r count ≤ 25600) (hc : lockDist (1 - r) c ≤ 25600)
    (hq : 3 ≤ s.qual r) (hu : u = windowTaken (1 - r) c s) :
    lockWindows r count ctl mean (some c) s = releaseTo r ((windowTaken r count u).setWord R.CLK_WS_CTRLVAL ctl) := by
  have hhu : u.flag R.CLK_WS_STATUS_HOLDOVER = true := by rw [hu, flag_windowTaken _ _ (by decide) (by decide) (by decide), hh]
  have hsu : u.fld R.CLK_REF_CTRL_REF_SEL = 2 := by rw [hu, fld_windowTaken _ _ (by decide) (by decide) (by decide), hsel]
  have hqu : 3 ≤ u.qual r := by rwa [hu, qual_windowTaken_other _ _ (by omega)]
  have hfirst : lockWindow (1 - r) c ctl mean true s = u := (lockWindow_waits ctl mean hc hh).trans hu.symm
  have hsecond := lockWindow_releases ctl mean hd hhu hqu (.inl hsu)
  have ha : s.actRef = r := hr
  unfold lockWindows
  dsimp only
  rw [ha, if_pos rfl, if_pos rfl, hfirst, hsecond, if_neg fun h => Bool.noConfusion ((flag_holdover_releaseTo ..).symm.trans h.1)]

theorem clk_setQual_both (s : State) (r : Fin 2) (n : Nat) :
    ((s.setQual (1 - r) n).setQual r n).clk = { s.clk with qualA := n, qualB := n } := by
  revert r; rw [Fin.forall_fin_two]; exact ⟨rfl, rfl⟩

end Sys2Proof.Machine

open Sys2Proof Sys2Proof.Machine Sys2Proof.Claims

/-- Settles O4: the four branches of a counting window, each with what it leaves in the clock unit's words. -/
theorem wellspringLock : Obligations.WellspringLock := by
  unfold Obligations.WellspringLock
  intro s r count c ctl mean d hd
  rw [← lockDist_eq] at hd
  subst hd
  refine ⟨fun hr hh hd => ?good, fun hr hh hd hd' => ?outside, fun hh hd hq hsel => ?releases, fun hh hsel hr hd hc hA hB => ?both⟩
  case good =>
    refine ⟨_, exec_lockWindowEnd .., ?_⟩
    by_cases hg : s.fld R.CLK_WS_STATUS_GOOD_WIN < 3 ∨ s.flag R.CLK_WS_STATUS_LOCK = true
    · have hk := clkFrame_goodWindow [(hClk, 3)] r count ctl.toNat mean.toNat s
      rw [lockWindow_good _ _ hd hh hr hg]
      refine ⟨fld_goodWin_goodWindow .., ?_, fun hl h3 => ?_, fun _ => flag_refOk_goodWindow .., word_lockCount_goodWindow .., word_ctrlval_goodWindow ..,
        hk.eq_of_clk (goodWindow_clk ..), hk.words, hk.reports⟩
      · rw [flag_lock_goodWindow, iff_self_or]
        exact fun h3 => hg.resolve_left (by omega)
      · exact absurd h3 (by simpa [hl] using hg)
    · obtain ⟨h3, hl⟩ := not_or.mp hg
      have hk := ((clkFrame_goodWindow [(hClk, 3)] r count ctl.toNat mean.toNat s).setFlag (l := R.CLK_WS_STATUS_LOCK) true (by decide)).raise (b := 3) (by simp)
      rw [lockWindow_locks _ _ hd hh hr (by omega) (Bool.eq_false_of_not_eq_true hl)]
      refine ⟨?_, ?_, fun _ _ => raise_raised .., fun _ => ?_, ?_, ?_, hk.eq_of_clk (goodWindow_clk ..), hk.words, hk.reports⟩
      · rw [fld_raise, fld_setFlag_of_apart _ _ (by decide), fld_goodWin_goodWindow]
      · rw [flag_raise, State.flag_setFlag_same _ _ _ rfl (by decide)]; simp; omega
      · rw [flag_raise, flag_refOk_setFlag _ _ (by decide) (by decide), flag_refOk_goodWindow]
      · rw [word_raise, word_setFlag_ne _ _ (by decide), word_lockCount_goodWindow]
      · rw [word_raise, word_setFlag_ne _ _ (by decide), word_ctrlval_goodWindow]
  case outside =>
    have hk := ((((clkFrame_windowTaken [(hClk, 0)] r count s (ws := [R.CLK_WS_STATUS, R.CLK_LOCK_COUNT, R.CLK_WS_CTRLVAL]) (by simp) (by simp)).setWord
      (o := R.CLK_WS_CTRLVAL) ctl.toNat (by simp)).setFld (l := R.CLK_WS_STATUS_GOOD_WIN) 0 (by decide)).setFlag (l := R.CLK_WS_STATUS_LOCK) false (by decide)).raise
      (b := 0) (by simp)
    refine ⟨_, exec_lockWindowEnd .., ?_⟩
    obtain ⟨hok, hcount⟩ := lockWindow_within (r := r) ctl.toNat mean.toNat s hd'
    rw [lockWindow_outside _ _ hd hd' hh hr] at hok hcount ⊢
    refine ⟨?_, ?_, fun _ => hok, hcount, ?_, raise_raised .., hk.eq_of_clk (windowTaken_clk ..), hk.words, hk.reports⟩
    · rw [fld_raise, fld_setFlag_of_apart _ _ (by decide), State.fld_setFld_same _ _ _ (by decide) (by decide), Nat.zero_mod]
    · rw [flag_raise, State.flag_setFlag_same _ _ _ rfl (by decide)]
    · rw [word_raise, word_setFlag_ne _ _ (by decide), State.word_setFld_ne _ _ (by decide), word_setWord_toNat]
  case releases =>
    have hk := ((clkFrame_windowTaken [(hClk, 2)] r count s (ws := [R.CLK_WS_STATUS, R.CLK_LOCK_COUNT, R.CLK_WS_CTRLVAL]) (by simp) (by simp)).setWord
      (o := R.CLK_WS_CTRLVAL) ctl.toNat (by simp)).releaseTo r (by simp) (by simp)
    have hclk : (releaseTo r ((windowTaken r count s).setWord R.CLK_WS_CTRLVAL ctl.toNat)).clk = (s.setQual r 4).clk := by
      rw [releaseTo_clk, State.setWord_clk, windowTaken_clk, show min 4 (s.qual r + 1) = 4 by omega]
    refine ⟨_, exec_lockWindowEnd .., ?_⟩
    rw [lockWindow_releases _ _ hd hh hq hsel]
    refine ⟨flag_holdover_releaseTo .., fld_actRef_releaseTo _ r.isLt, fld_goodWin_releaseTo .., ?_, fun hne => raised_releaseTo ?_, ?_,
      hk.eq_of_clk hclk, hk.words, hk.reports⟩
    · rw [flag_lock_releaseTo, flag_setWord_ne _ _ (by decide), flag_windowTaken _ _ (by decide) (by decide) (by decide)]
    · rw [actRef_windowTaken]; exact hne
    · rw [word_releaseTo _ _ (by decide), word_setWord_toNat]
  case both =>
    rw [← lockDist_other] at hc
    obtain ⟨hq, hq'⟩ : s.qual r = 3 ∧ s.qual (1 - r) = 3 := by
      rcases Fin.exists_fin_two.mp ⟨r, rfl⟩ with h | h <;> subst h
      exacts [⟨hA, hB⟩, ⟨hB, hA⟩]
    have hact : ((windowTaken r count (windowTaken (1 - r) c s)).setWord R.CLK_WS_CTRLVAL ctl.toNat).actRef = r := by
      rw [actRef_windowTaken]; exact (fld_windowTaken _ _ (by decide) (by decide) (by decide)).trans hr
    have hk := (((clkFrame_windowTaken [] (1 - r) c s (ws := [R.CLK_WS_STATUS, R.CLK_LOCK_COUNT, R.CLK_WS_CTRLVAL]) (by simp) (by simp)).trans
      (clkFrame_windowTaken [] r count _ (by simp) (by simp))).setWord (o := R.CLK_WS_CTRLVAL) ctl.toNat (by simp)).releaseTo r (by simp)
      (fun h => absurd hact h)
    have hclk : (releaseTo r ((windowTaken r count (windowTaken (1 - r) c s)).setWord R.CLK_WS_CTRLVAL ctl.toNat)).clk =
        { s.clk with qualA := 4, qualB := 4 } := by
      rw [releaseTo_clk, State.setWord_clk, windowTaken_clk, qual_windowTaken_other _ _ (by omega), hq, ← clk_setQual_both s r 4]
      refine clk_setQual_congr r _ ?_
      rw [windowTaken_clk, hq', show min 4 (3 + 1) = 4 from rfl]
    refine ⟨_, rfl, ?_⟩
    rw [lockWindows_both _ _ hh hsel hr hd hc (by omega) rfl]
    refine ⟨flag_holdover_releaseTo .., fld_actRef_releaseTo _ r.isLt, ?_, hk.eq_of_clk hclk, hk.words, hk.reports⟩
    rw [word_releaseTo _ _ (by decide), word_setWord_toNat]
end

section
/-! Device time (R47 to R53): the commands, and what comes of a pending STEP or SETTOD, a loss, a measurement and a read. -/

namespace Sys2Proof.Machine

open Sys2Proof.Claims

/-! Words of the format of DT. -/

theorem bits_dtPack_frac (u : Nat) : bits (dtPack u) 15 0 = u % 65536 := by unfold bits dtPack; omega

theorem bits_dtPack_ns (u : Nat) : bits (dtPack u) 47 16 = u % unitsPerSec / 65536 := by unfold bits dtPack unitsPerSec; omega

theorem bits_dtPack_secLo (u : Nat) : bits (dtPack u) 79 48 = u / unitsPerSec % 2 ^ 32 := by unfold bits dtPack unitsPerSec; omega

theorem bits_dtPack_secHi (u : Nat) : bits (dtPack u) 95 80 = u / unitsPerSec / 2 ^ 32 % 2 ^ 16 := by unfold bits dtPack unitsPerSec; omega

theorem enc_lt (n : Nat) (x : Int) : enc n x < 2 ^ n := by
  have h : 0 < ((2 ^ n : Nat) : Int) := by positivity
  have := Int.emod_lt_of_pos x h
  unfold enc
  omega

theorem wordN_setWord_enc (s : State) (o : Nat) (x : Int) : (s.setWord o (enc 32 x)).wordN o = enc 32 x := by
  rw [State.wordN_setWord, if_pos rfl, Nat.mod_eq_of_lt (enc_lt 32 x)]

theorem wordN_setWord_ne {o j : Nat} (s : State) (v : Nat) (h : o ≠ j) : (s.setWord o v).wordN j = s.wordN j := by
  rw [State.wordN_setWord, if_neg h]

theorem latched_latchHi (path : Path) (a b v : Nat) (s : State) :
    (latchHi path a v s).latched path b = if a = b then v else s.latched path b := by
  unfold latchHi State.latched latchKey
  simp only [Tbl.get_set, Nat.add_left_cancel_iff]

/-! Commands. -/

theorem dtStepCmd_track {s : State} (h : s.fld R.CLK_DT_STATUS_STATE = 2) : dtStepCmd s = (.state, s) := if_pos h

theorem dtStepCmd_pending {s : State} (h : s.fld R.CLK_DT_STATUS_STATE ≠ 2) (hp : s.clk.step ≠ none) : dtStepCmd s = (.busy, s) :=
  (if_neg h).trans (if_pos (Option.isSome_iff_ne_none.mpr hp))

theorem dtStepCmd_taken {s : State} (h : s.fld R.CLK_DT_STATUS_STATE ≠ 2) (hp : s.clk.step = none) :
    dtStepCmd s = (.ok, { s with clk := { s.clk with step := some (sext 64 (s.pair R.CLK_DT_STEP_LO)) } }) :=
  (if_neg h).trans (if_neg (by simp [hp]))

theorem settodCmd_pending {s : State} (hp : s.clk.tod ≠ none) : settodCmd s = (.busy, s) := if_pos (Option.isSome_iff_ne_none.mpr hp)

theorem settodCmd_taken {s : State} (hp : s.clk.tod = none) :
    settodCmd s = (.ok, { s with clk := { s.clk with tod := some (s.pair R.CLK_DT_TOD_LO % 2 ^ 48) } }) := if_neg (by simp [hp])

theorem exec_dtStep {s u : State} {c : Code} (hb : s.cmdBusy hClk = false) (h : dtStepCmd s = (c, u)) :
    exec .dtStep s = .next (finish hClk 1 c u) := congrArg Host.Outcome.next (runCmd_of hb h)

theorem exec_settod {s u : State} {c : Code} (hb : s.cmdBusy hClk = false) (h : settodCmd s = (c, u)) :
    exec .settod s = .next (finish hClk 2 c u) := congrArg Host.Outcome.next (runCmd_of hb h)

theorem exec_dtrestart {s : State} (hb : s.cmdBusy hClk = false) : exec .dtrestart s = .next (finish hClk 3 .ok (dtRestart s)) :=
  congrArg Host.Outcome.next (runCmd_of hb rfl)

theorem state_dtRestart (s : State) : (dtRestart s).fld R.CLK_DT_STATUS_STATE = if dtSource s = 0 then 0 else 1 := by
  rw [dtRestart, fld_setFld_of_apart _ _ (by decide), State.fld_setFld_same _ _ _ (by decide) (by decide)]
  split <;> rfl

theorem rejectCnt_dtRestart (s : State) : (dtRestart s).fld R.CLK_DT_STATUS_REJECT_CNT = 0 := State.fld_setFld_same _ _ 0 (by decide) (by decide)

theorem clkFrame_dtRestart (s : State) : ClkFrame [R.CLK_DT_STATUS] [] s (dtRestart s) :=
  (((ClkFrame.refl _ _ s).withClk _).setFld _ (by decide)).setFld _ (by decide)

/-- A command of the clock unit that changed clock state and words alone. -/
theorem finish_eq_of_clk {ws : List Nat} {evs : List (Nat × Nat)} {s u : State} (code : Nat) (c : Code) (h : ClkFrame ws evs s u) :
    finish hClk code c u = { s with clk := u.clk, regs := u.regs, rep := (finish hClk code c u).rep } :=
  (finish_eq ..).trans (congrArg (fun w : State => { w with rep := (finish hClk code c u).rep }) h.eq)

/-! The loss of the active reference (R38, R42). -/

theorem raised_refLostHold (r : Nat) (s : State) : Raised hClk 1 (refLostHold r s) := raise_raised ..

theorem flag_holdover_refLostHold (r : Nat) (s : State) : (refLostHold r s).flag R.CLK_WS_STATUS_HOLDOVER = true := by
  rw [refLostHold, flag_raise, flag_holdover_enterHoldover]

theorem flag_lock_refLostHold (r : Nat) (s : State) : (refLostHold r s).flag R.CLK_WS_STATUS_LOCK = false := by
  rw [refLostHold, flag_raise, flag_lock_enterHoldover]

theorem flag_refOk_refLostHold (r : Nat) (s : State) : (refLostHold r s).flag (refOk r) = false := by
  rw [refLostHold, flag_raise, flag_refOk_enterHoldover, flag_refOk_judged]

theorem fld_actRef_refLostHold (r : Nat) (s : State) : (refLostHold r s).fld R.CLK_WS_STATUS_ACT_REF = s.fld R.CLK_WS_STATUS_ACT_REF := by
  rw [refLostHold, fld_raise, fld_actRef_enterHoldover, fld_judged _ _ _ (by decide) (by decide)]

theorem mean_judged (r n : Nat) (ok : Bool) (s : State) : (judged r n ok s).clk.mean = s.clk.mean := by
  rw [judged_clk]; unfold State.setQual; split <;> rfl

theorem word_holdval_refLostHold (r : Nat) (s : State) : (refLostHold r s).word R.CLK_WS_HOLDVAL = BitVec.ofNat 32 s.clk.mean := by
  rw [refLostHold, word_raise, word_holdval_enterHoldover, mean_judged]

theorem word_ctrlval_refLostHold (r : Nat) (s : State) : (refLostHold r s).word R.CLK_WS_CTRLVAL = BitVec.ofNat 32 s.clk.mean := by
  rw [refLostHold, word_raise, word_ctrlval_enterHoldover, mean_judged]

theorem clkFrame_refLostHold {evs : List (Nat × Nat)} (r : Nat) (s : State) (he : (hClk, 1) ∈ evs) :
    ClkFrame [R.CLK_WS_STATUS, R.CLK_WS_HOLDVAL, R.CLK_WS_CTRLVAL] evs s (refLostHold r s) :=
  (((ClkFrame.refl _ _ s).judged r 0 false (by simp)).enterHoldover).raise he

/-- No window that ended before the holdover counts in it. -/
theorem clk_judgeAnew_refLostHold (r : Nat) (s : State) : (judgeAnew (refLostHold r s)).clk = { s.clk with qualA := 0, qualB := 0 } := by
  rw [judgeAnew, refLostHold_clk, judged_clk]; unfold State.setQual; split <;> rfl

/-! Moments of device time. -/

theorem dtStepApply_pending {s : State} {n : Int} (h : s.clk.step = some n) :
    dtStepApply s = raise hClk 6 { dtAdd (n * 65536) s with clk := { (dtAdd (n * 65536) s).clk with step := none, run := [], restepOk := true } } := by
  unfold dtStepApply; rw [h]

theorem settodApply_pending {s : State} {m : Nat} (tap : Nat) (h : s.clk.tod = some m) :
    settodApply tap s = { s with clk := { s.clk with tod := none, dt := ((s.clk.dt +
      (m - nearestSec (if s.clk.src = 1 then edgeDt s 8 tap else s.clk.dt)) * unitsPerSec) % dtMod).toNat } } := by
  unfold settodApply; rw [h]; rfl

theorem dtFracRead_eq (path : Path) (s : State) :
    dtFracRead path s = (latchHi path R.CLK_DT_NS (s.clk.dt % unitsPerSec / 65536) (latchHi path R.CLK_DT_SEC_LO (s.clk.dt / unitsPerSec % 2 ^ 32)
      (latchHi path R.CLK_DT_SEC_HI (s.clk.dt / unitsPerSec / 2 ^ 32 % 2 ^ 16) s))).emit (.regRead path R.CLK_DT_FRAC (s.clk.dt % 65536)) := by
  unfold dtFracRead
  dsimp only
  rw [bits_dtPack_frac, bits_dtPack_ns, bits_dtPack_secLo, bits_dtPack_secHi]

theorem latched_emit (path : Path) (lo : Nat) (x : Out) (s : State) : (s.emit x).latched path lo = s.latched path lo := rfl

end Sys2Proof.Machine

open Sys2Proof Sys2Proof.Machine Sys2Proof.Claims

/-- Settles O1: each command's answer is its code and the state it leaves, closed by `finish`. -/
theorem deviceTimeCommands : Obligations.DeviceTimeCommands := by
  unfold Obligations.DeviceTimeCommands
  intro s hb
  refine ⟨fun hst hn => ?step, fun hst => ?stepTrack, fun hst hp => ?stepPending, fun hn => ?settod, fun hp => ?settodPending, ?restart⟩
  case step => exact ⟨_, exec_dtStep hb (dtStepCmd_taken hst hn), finish_eq .., finished_finish_of _ _ _ rfl⟩
  case stepTrack => exact ⟨_, exec_dtStep hb (dtStepCmd_track hst), turnedAway_finish ..⟩
  case stepPending => exact ⟨_, exec_dtStep hb (dtStepCmd_pending hst hp), turnedAway_finish ..⟩
  case settod => exact ⟨_, exec_settod hb (settodCmd_taken hn), finish_eq .., finished_finish_of _ _ _ rfl⟩
  case settodPending => exact ⟨_, exec_settod hb (settodCmd_pending hp), turnedAway_finish ..⟩
  case restart =>
    have hregs : (finish hClk 3 .ok (dtRestart s)).regs = (dtRestart s).regs := finish_regs ..
    refine ⟨_, exec_dtrestart hb, ?_, finish_clk .., rfl, ?_, ?_, fun o ho => ?_, finished_finish_of _ _ _ rfl⟩
    · rw [finish_clk, finish_regs]
      exact finish_eq_of_clk 3 .ok (clkFrame_dtRestart s)
    · rw [State.fld_congr hregs, state_dtRestart, finish_clk]; rfl
    · rw [State.fld_congr hregs, rejectCnt_dtRestart]
    · rw [State.word_congr hregs]; exact (clkFrame_dtRestart s).words o ho

/-- Settles O2: the branches of the loss of a reference, and each moment of device time by the equation of its operation. -/
theorem deviceTimeMoments : Obligations.DeviceTimeMoments := by
  unfold Obligations.DeviceTimeMoments
  intro s n m tap path r count ctl mean
  refine ⟨fun hr hh hq => ?stays, fun hr hh hsel hq => ?switches, fun hr hh hok => ?inHoldover, fun hd => ?window, fun hn => ?step, fun hm => ?settod,
    fun hst => ?holdover, ?read⟩
  case stays =>
    have hk := (clkFrame_refLostHold (evs := [(hClk, 1)]) r s (by simp)).withClk { (refLostHold r s).clk with qualA := 0, qualB := 0 }
    have hregs : (judgeAnew (refLostHold r s)).regs = (refLostHold r s).regs := rfl
    refine ⟨_, congrArg Host.Outcome.next (refBad_stays hr hh hq), (flag_congr hregs _).trans (flag_holdover_refLostHold r s),
      (flag_congr hregs _).trans (flag_lock_refLostHold r s), (flag_congr hregs _).trans (flag_refOk_refLostHold r s),
      (State.fld_congr hregs _).trans ((fld_actRef_refLostHold r s).trans hr), (State.word_congr hregs _).trans (word_holdval_refLostHold r s),
      (State.word_congr hregs _).trans (word_ctrlval_refLostHold r s), ?_, hk.eq_of_clk (clk_judgeAnew_refLostHold r s), hk.words, hk.reports⟩
    exact (raised_refLostHold r s).kept (.of_rep rfl : RepFrame [] [] [] (refLostHold r s) (judgeAnew (refLostHold r s)))
  case switches =>
    have hne : (refLostHold r s).actRef ≠ 1 - r := by
      rw [State.actRef, fld_actRef_refLostHold, hr]; omega
    have hrel := (ClkFrame.refl [R.CLK_WS_STATUS] [(hClk, 2)] (refLostHold r s)).releaseTo (1 - r) (by simp) (by simp)
    have hk := (clkFrame_refLostHold (evs := [(hClk, 1), (hClk, 2)]) r s (by simp)).trans (hrel.mono (by simp) (by simp))
    have hclk : (releaseTo (1 - r) (refLostHold r s)).clk = (s.setQual r 0).clk := by rw [releaseTo_clk, refLostHold_clk, judged_clk]
    refine ⟨_, congrArg Host.Outcome.next (refBad_switches hr hh hsel hq), fld_actRef_releaseTo _ (by omega), flag_holdover_releaseTo .., ?_, ?_,
      (raised_refLostHold r s).kept hrel.reports, raised_releaseTo hne, hk.eq_of_clk hclk, hk.words, hk.reports⟩
    · rw [flag_lock_releaseTo, flag_lock_refLostHold]
    · rw [word_releaseTo _ _ (by decide), word_holdval_refLostHold]
  case inHoldover =>
    have hk := ((ClkFrame.refl [R.CLK_WS_STATUS] [(hClk, 1)] s).judged r 0 false (by simp)).raise (b := 1) (by simp)
    exact ⟨_, congrArg Host.Outcome.next (refBad_inHoldover hr hh hok), flag_refOk_judged .., raise_raised .., hk.eq_of_clk (judged_clk ..), hk.words, hk.reports⟩
  case window =>
    rw [← lockDist_eq] at hd
    exact ⟨_, exec_lockWindowEnd .., lockWindow_within _ _ s hd⟩
  case step =>
    exact ⟨_, congrArg Host.Outcome.next (dtStepApply_pending hn), rfl, raise_raised .., (raise_frame ..).congr_left rfl⟩
  case settod => exact ⟨_, congrArg Host.Outcome.next (settodApply_pending tap hm), rfl⟩
  case holdover =>
    have hk := (((ClkFrame.refl [R.CLK_DT_STATUS] [(hClk, 4)] s).withClk { s.clk with run := [], restepOk := true }).setFld
      (l := R.CLK_DT_STATUS_STATE) 3 (by decide)).raise (b := 4) (by simp)
    refine ⟨_, congrArg Host.Outcome.next (if_pos hst), hk.eq_of_clk rfl, ?_, ?_, hk.words, raise_raised .., (raise_frame ..).congr_left rfl⟩
    · exact State.fld_setFld_same _ _ 3 (by decide) (by decide)
    · rw [fld_raise, fld_setFld_of_apart _ _ (by decide), fld_withClk]
  case read =>
    refine ⟨_, congrArg Host.Outcome.next (dtFracRead_eq path s), rfl, ?_, ?_, ?_⟩ <;>
      rw [latched_emit] <;> simp only [latched_latchHi, R.CLK_DT_NS, R.CLK_DT_SEC_LO, R.CLK_DT_SEC_HI, Nat.reduceEqDiff, if_true, if_false]
end

section
/-! Measurements of device time (R47, R51, R351): PPS edges in TRACK and HOLDOVER, and the seconds of PTP. -/

namespace Sys2Proof.Machine

open Sys2Proof.Claims

/-! A measurement of the source in force. -/

/-- CLK_PPS_ERR shows the error. -/
def errShown (e : Int) (s : State) : State := s.setWord R.CLK_PPS_ERR (enc 32 (clampS 32 e))

theorem fld_errShown {l : Loc} (e : Int) (s : State) (h : R.CLK_PPS_ERR ≠ l.off) : (errShown e s).fld l = s.fld l := State.fld_setWord_ne s _ h

theorem ppsWin_errShown (e : Int) (s : State) : ppsWin (errShown e s) = ppsWin s := by
  rw [ppsWin, fld_errShown e s (by decide), ppsWin]

theorem measure_drives {s : State} {e : Int} (pps : Bool) (edge : Int) (hst : s.fld R.CLK_DT_STATUS_STATE = 2) (hw : e.natAbs ≤ ppsWin s) :
    measure pps edge e s = servo e (errShown e s) := by
  have hst' : (errShown e s).fld R.CLK_DT_STATUS_STATE = 2 := (fld_errShown e s (by decide)).trans hst
  have hw' : e.natAbs ≤ ppsWin (errShown e s) := by rwa [ppsWin_errShown]
  unfold measure
  exact (if_neg (by rw [← errShown]; omega)).trans ((if_pos hst').trans (if_pos hw'))

theorem measure_rejects {s : State} {e : Int} (pps : Bool) (edge : Int) (hst : s.fld R.CLK_DT_STATUS_STATE = 2) (hw : ppsWin s < e.natAbs) :
    measure pps edge e s = raise hClk 7 ((errShown e s).setFld R.CLK_DT_STATUS_REJECT_CNT
      (satAdd 16 ((errShown e s).fld R.CLK_DT_STATUS_REJECT_CNT) 1)) := by
  have hst' : (errShown e s).fld R.CLK_DT_STATUS_STATE = 2 := (fld_errShown e s (by decide)).trans hst
  have hw' : ¬ e.natAbs ≤ ppsWin (errShown e s) := by rw [ppsWin_errShown]; omega
  unfold measure
  exact (if_neg (by rw [← errShown]; omega)).trans ((if_pos hst').trans (if_neg hw'))

theorem measure_asksRestep {s : State} {e : Int} (pps : Bool) (edge : Int) (hst : s.fld R.CLK_DT_STATUS_STATE = 3) (he : 655360000 < e.natAbs)
    (hr : s.clk.restepOk = true) :
    measure pps edge e s = raise hClk 8 { errShown e s with clk := { s.clk with run := [], restepOk := false } } := by
  have hst' : (errShown e s).fld R.CLK_DT_STATUS_STATE = 3 := (fld_errShown e s (by decide)).trans hst
  have hr' : (errShown e s).clk.restepOk = true := hr
  unfold measure
  exact (if_neg (by rw [← errShown]; omega)).trans ((if_neg (by rw [← errShown]; omega)).trans ((if_pos hst').trans ((if_neg (by omega)).trans (if_pos hr'))))

theorem wordN_rate_servo (e : Int) (s : State) : (servo e s).wordN R.CLK_DT_RATE = enc 32 (clampI (-2147483647) 2147483647 (swrap 64
    (-(asr e (s.fld R.CLK_DT_CTRL_KP_SHIFT)) - asr (swrap 64 (s.clk.acc + e)) (s.fld R.CLK_DT_CTRL_KI_SHIFT)))) := wordN_setWord_enc ..

theorem clkFrame_servo {ws : List Nat} {evs : List (Nat × Nat)} {s t : State} (h : ClkFrame ws evs s t) (e : Int) (hw : R.CLK_DT_RATE ∈ ws) :
    ClkFrame ws evs s (servo e t) := (h.withClk _).setWord _ hw

/-! PPS edges. -/

/-- The moment of an active edge is kept for PPS_OK (R55). -/
def edgeSeen (s : State) : State := { s with clk := { s.clk with lastPps := some s.tclk } }

theorem ppsMeasure_counts {s : State} (tap : Nat) (h : s.clk.src ≠ 1) : ppsMeasure tap s = edgeSeen s := if_neg h

theorem ppsMeasure_measures {s : State} (tap : Nat) (h : s.clk.src = 1) : ppsMeasure tap s =
    measure true (edgeDt s 8 tap) (edgeDt s 8 tap - nearestSec (edgeDt s 8 tap) * unitsPerSec) (edgeSeen s) := if_pos h

/-! Seconds of PTP. -/

theorem ptpSecond_shows {s : State} {rt off : Int} (h : s.ptp.best = some (rt, off)) (hs : s.clk.src ≠ 2) :
    ptpSecond s = ({ s with ptp := { s.ptp with best := none } }.setWord R.PTP_OFFSET (enc 32 (clampS 32 (off / 65536)))).setWord
      R.PTP_DELAY (enc 32 (rt / 2 / 65536)) := by
  unfold ptpSecond
  rw [h]
  exact if_neg hs

end Sys2Proof.Machine

open Sys2Proof Sys2Proof.Machine Sys2Proof.Claims

/-- Settles O3: the branch that each measurement takes, and what it leaves. -/
theorem deviceTimeMeasurements : Obligations.DeviceTimeMeasurements := by
  unfold Obligations.DeviceTimeMeasurements
  intro s tap edge e rt off hedge he
  subst hedge
  have hmeasure (hs : s.clk.src = 1) : exec (.ppsMeasurement tap) s = .next (measure true (edgeDt s 8 tap) e (edgeSeen s)) := by
    rw [he]; exact congrArg Host.Outcome.next (ppsMeasure_measures tap hs)
  refine ⟨fun hs => ?counts, fun hs hst hw => ?drives, fun hs hst hw => ?rejects, fun hs hst hbig hr => ?restep, fun hb hs => ?ptp⟩
  case counts => exact ⟨_, congrArg Host.Outcome.next (ppsMeasure_counts tap hs), rfl⟩
  case drives =>
    have hk := clkFrame_servo (((ClkFrame.refl [R.CLK_PPS_ERR, R.CLK_DT_RATE] [] s).withClk (edgeSeen s).clk).setWord (o := R.CLK_PPS_ERR)
      (enc 32 (clampS 32 e)) (by simp)) e (by simp)
    refine ⟨_, (hmeasure hs).trans (congrArg Host.Outcome.next (measure_drives true _ hst hw)), rfl, ?_, ?_, hk.words⟩
    · exact (wordN_setWord_ne _ _ (by decide)).trans (wordN_setWord_enc ..)
    · rw [wordN_rate_servo, fld_errShown _ _ (by decide), fld_errShown _ _ (by decide)]; rfl
  case rejects =>
    have hk := (((ClkFrame.refl [R.CLK_PPS_ERR, R.CLK_DT_STATUS] [(hClk, 7)] s).withClk (edgeSeen s).clk).setWord (o := R.CLK_PPS_ERR)
      (enc 32 (clampS 32 e)) (by simp)).setFld (l := R.CLK_DT_STATUS_REJECT_CNT) (satAdd 16 ((errShown e (edgeSeen s)).fld R.CLK_DT_STATUS_REJECT_CNT) 1) (by decide)
    refine ⟨_, (hmeasure hs).trans (congrArg Host.Outcome.next (measure_rejects true _ hst hw)), rfl, ?_, hk.words, raise_raised .., (raise_frame ..).congr_left rfl⟩
    rw [fld_raise, State.fld_setFld_same _ _ _ (by decide) (by decide), fld_errShown _ _ (by decide)]
    exact Nat.mod_eq_of_lt (lt_of_le_of_lt (min_le_right ..) (by decide))
  case restep =>
    have hk := ((ClkFrame.refl [R.CLK_PPS_ERR] [(hClk, 8)] s).withClk (edgeSeen s).clk).setWord (o := R.CLK_PPS_ERR)
      (enc 32 (clampS 32 e)) (by simp)
    exact ⟨_, (hmeasure hs).trans (congrArg Host.Outcome.next (measure_asksRestep true _ hst hbig hr)), rfl, hk.words, raise_raised .., (raise_frame ..).congr_left rfl⟩
  case ptp =>
    refine ⟨_, congrArg Host.Outcome.next (ptpSecond_shows hb hs), rfl, ?_, wordN_setWord_enc .., ?_⟩
    · rw [wordN_setWord_ne _ _ (by decide), wordN_setWord_enc]
    · exact wordsKept_trans (wordsKept_setWord { s with ptp := { s.ptp with best := none } } _ _) (wordsKept_setWord _ _ _)
end

section
/-! Windows of Rivulet (R487), the raster that stops and starts with its lock (R367), and the restart of a clock output (R44). -/

namespace Sys2Proof.Machine

open Sys2Proof.Claims

/-! The raster follows Rivulet's lock. -/

theorem rasterUpdate_frame (s : State) :
    rasterUpdate s = { s with dsp := (rasterUpdate s).dsp, regs := (rasterUpdate s).regs } ∧ WordsKept s (rasterUpdate s) [R.DPY_STATUS] := by
  have two (a b : Loc) (x y : Bool) (ha : a.off = R.DPY_STATUS) (hb : b.off = R.DPY_STATUS) :
      WordsKept s ((s.setFlag a x).setFlag b y) [R.DPY_STATUS] := fun o ho => by
    have hne : R.DPY_STATUS ≠ o := Ne.symm (List.ne_of_not_mem_cons ho)
    rw [word_setFlag_ne _ _ (hb ▸ hne), word_setFlag_ne _ _ (ha ▸ hne)]
  unfold rasterUpdate
  extract_lets want run
  split_ifs
  · exact ⟨rfl, two _ _ _ _ rfl rfl⟩
  · exact ⟨rfl, two _ _ _ _ rfl rfl⟩
  · exact ⟨rfl, fun _ _ => rfl⟩

theorem setRivLock_eq (b : Bool) (s : State) : setRivLock b s = { s with dsp := (setRivLock b s).dsp, regs := (setRivLock b s).regs } :=
  (rasterUpdate_frame _).1

theorem setRivLock_rep (b : Bool) (s : State) : (setRivLock b s).rep = s.rep := by rw [setRivLock_eq]

theorem wordsKept_setRivLock (b : Bool) (s : State) : WordsKept s (setRivLock b s) [R.CLK_RIV_CFG, R.DPY_STATUS] :=
  wordsKept_trans (wordsKept_setWord s R.CLK_RIV_CFG _) (rasterUpdate_frame (s.setFlag R.CLK_RIV_CFG_RIV_LOCK b)).2

theorem flag_setRivLock (b : Bool) (s : State) : (setRivLock b s).flag R.CLK_RIV_CFG_RIV_LOCK = b :=
  (flag_of_kept (rasterUpdate_frame (s.setFlag R.CLK_RIV_CFG_RIV_LOCK b)).2 (by decide)).trans (State.flag_setFlag_same s _ b rfl (by decide))

/-! Windows of Rivulet. -/

theorem rivRuns_of {s : State} (h15 : 15 ≤ s.fld R.CLK_RIV_CFG_N_INT) (h30 : s.fld R.CLK_RIV_CFG_N_INT ≤ 30) (ho : 2 ≤ s.fld R.CLK_RIV_CFG_ODIV) :
    rivRuns s = true := by
  have h63 : s.fld R.CLK_RIV_CFG_ODIV ≤ 63 := Nat.le_of_lt_succ (s.fld_lt R.CLK_RIV_CFG_ODIV)
  simp [rivRuns, h15, h30, ho, h63]

theorem rivGood_iff {s : State} (count : Nat) (h1 : s.fld R.CLK_RIV_CFG_SS_MODE ≠ 1) (h2 : s.fld R.CLK_RIV_CFG_SS_MODE ≠ 2) : rivGood s count = true ↔
    ((count : Int) * 256 - (2 ^ 24 * s.fld R.CLK_RIV_CFG_N_INT + s.fld R.CLK_RIV_NFRAC_N_FRAC)).natAbs ≤ 512 := by
  have hg : rivGood s count = (decide (count * 256 ≤ rivN s + 512) && decide (rivN s ≤ count * 256 + 512)) := (if_neg h1).trans (if_neg h2)
  rw [hg, rivN, Bool.and_eq_true, decide_eq_true_eq, decide_eq_true_eq]
  omega

/-- The windows in a row that were good. -/
def goodSoFar (n : Nat) (s : State) : State := { s with clk := { s.clk with rivGood := n } }

theorem rivWindow_counts {s : State} {count : Nat} (hr : rivRuns s = true) (hg : rivGood s count = true)
    (h : s.clk.rivGood < 3 ∨ s.flag R.CLK_RIV_CFG_RIV_LOCK = true) : rivWindow count s = goodSoFar (min 4 (s.clk.rivGood + 1)) s := by
  have hn : ¬ (min 4 (s.clk.rivGood + 1) = 4 ∧ s.flag R.CLK_RIV_CFG_RIV_LOCK = false) := by
    rintro ⟨h4, hl⟩
    rw [hl] at h
    simp only [Bool.false_eq_true, or_false] at h
    omega
  unfold rivWindow
  exact (if_neg (by simp [hr])).trans ((if_pos hg).trans (if_neg hn))

theorem rivWindow_locks {s : State} {count : Nat} (hr : rivRuns s = true) (hg : rivGood s count = true) (h3 : 3 ≤ s.clk.rivGood)
    (hl : s.flag R.CLK_RIV_CFG_RIV_LOCK = false) :
    rivWindow count s = clearFault hClk 1 (setRivLock true (goodSoFar (min 4 (s.clk.rivGood + 1)) s)) := by
  unfold rivWindow
  exact (if_neg (by simp [hr])).trans ((if_pos hg).trans (if_pos ⟨by omega, hl⟩))

theorem rivWindow_bad {s : State} {count : Nat} (hr : rivRuns s = true) (hg : rivGood s count = false) (hl : s.flag R.CLK_RIV_CFG_RIV_LOCK = false) :
    rivWindow count s = goodSoFar 0 s := by
  unfold rivWindow
  exact (if_neg (by simp [hr])).trans ((if_neg (by simp [hg])).trans (if_neg (by simp [hl])))

theorem rivWindow_drops {s : State} {count : Nat} (hr : rivRuns s = true) (hg : rivGood s count = false) (hl : s.flag R.CLK_RIV_CFG_RIV_LOCK = true) :
    rivWindow count s = setFault hClk 1 (setRivLock false (goodSoFar 0 s)) := by
  unfold rivWindow
  exact (if_neg (by simp [hr])).trans ((if_neg (by simp [hg])).trans (if_pos hl))

/-- What a change of Rivulet's lock and its fault leaves. -/
theorem putFault_setRivLock_frame (v b : Bool) (n : Nat) (s : State) {t : State} (ht : t = putFault hClk 1 v (setRivLock b (goodSoFar n s))) :
    t = { s with clk := { s.clk with rivGood := n }, dsp := t.dsp, regs := t.regs, rep := t.rep } ∧
    WordsKept s t [R.CLK_RIV_CFG, R.DPY_STATUS] ∧ RepFrame [] [] [hClk] s t ∧ t.flag R.CLK_RIV_CFG_RIV_LOCK = b := by
  have hu := setRivLock_eq b (goodSoFar n s)
  have hwords := wordsKept_setRivLock b (goodSoFar n s)
  have hrep : (setRivLock b (goodSoFar n s)).rep = s.rep := setRivLock_rep b (goodSoFar n s)
  have hlock := flag_setRivLock b (goodSoFar n s)
  generalize setRivLock b (goodSoFar n s) = u at ht hu hwords hrep hlock
  have hput := putFault_eq hClk 1 v u
  have hframe := putFault_frame hClk 1 v u
  have hregs : (putFault hClk 1 v u).regs = u.regs := putFault_regs ..
  have hdsp : (putFault hClk 1 v u).dsp = u.dsp := putFault_dsp ..
  rw [← ht] at hput hframe hregs hdsp
  refine ⟨?_, fun o ho => (State.word_congr hregs o).trans (hwords o ho), hframe.congr_left hrep, (flag_congr hregs _).trans hlock⟩
  rw [hregs, hdsp]
  exact hput.trans (congrArg (fun w : State => { w with rep := t.rep }) hu)

/-! The restart of a clock output (R44). -/

theorem startCout_eq {s : State} {o : Nat} (h : (s.cout o).mode ≠ 2) {c : Cout}
    (hc : c = { mode := 2, start := s.nextEdge, div := s.fld (R.CLK_COUT_CFG_DIV o), old := none }) :
    startCout o s = { s with clk := { s.clk with cout := Tbl.set s.clk.cout o c } }.emit (.clockOut o 2 c.start c.div) := by
  have hne : s.cout o ≠ c := fun e => h (by rw [e, hc])
  subst hc
  exact if_neg hne

theorem nextEdge_spec (s : State) : s.nextEdge % 64 = 0 ∧ 4 * s.tclk ≤ s.nextEdge ∧ s.nextEdge < 4 * s.tclk + 64 := by
  unfold State.nextEdge cdiv; omega

end Sys2Proof.Machine

open Sys2Proof Sys2Proof.Machine Sys2Proof.Claims

/-- Settles O5: a window of Rivulet either only counts or also moves its lock; an output that waits starts on the next coincident edge. -/
theorem rivuletAndOutputs : Obligations.RivuletAndOutputs := by
  unfold Obligations.RivuletAndOutputs
  intro s count o h15 h30 hodiv hm1 hm2
  have hruns := rivRuns_of h15 h30 hodiv
  rw [← rivGood_iff count hm1 hm2, ← not_le, ← rivGood_iff count hm1 hm2, Bool.not_eq_true]
  refine ⟨fun hg => ?good, fun hg => ?bad, fun hmode => ?restart⟩
  case good =>
    by_cases h : s.clk.rivGood < 3 ∨ s.flag R.CLK_RIV_CFG_RIV_LOCK = true
    · refine ⟨_, congrArg Host.Outcome.next (rivWindow_counts hruns hg h), rfl, fun _ _ => rfl, .of_rep rfl, ?_⟩
      exact iff_self_or.mpr fun h3 => h.resolve_left (by omega)
    · obtain ⟨h3, hl⟩ := not_or.mp h
      obtain ⟨heq, hwords, hrep, hlock⟩ := putFault_setRivLock_frame false true (min 4 (s.clk.rivGood + 1)) s rfl
      refine ⟨_, congrArg Host.Outcome.next (rivWindow_locks hruns hg (by omega) (Bool.eq_false_of_not_eq_true hl)), heq, hwords, hrep, ?_⟩
      exact iff_of_true hlock (.inr (by omega))
  case bad =>
    by_cases hl : s.flag R.CLK_RIV_CFG_RIV_LOCK = true
    · obtain ⟨heq, hwords, hrep, hlock⟩ := putFault_setRivLock_frame true false 0 s rfl
      exact ⟨_, congrArg Host.Outcome.next (rivWindow_drops hruns hg hl), heq, hwords, hrep, hlock, fun _ => setFault_sets ..⟩
    · have hl' := Bool.eq_false_of_not_eq_true hl
      exact ⟨_, congrArg Host.Outcome.next (rivWindow_bad hruns hg hl'), rfl, fun _ _ => rfl, .of_rep rfl, hl', fun h => absurd h hl⟩
  case restart =>
    have hcout : ((startCout o s).cout o) = { mode := 2, start := s.nextEdge, div := s.fld (R.CLK_COUT_CFG_DIV o), old := none } := by
      rw [startCout_eq (by omega) rfl]; exact Tbl.get_set_same ..
    obtain ⟨hmod, hle, hlt⟩ := nextEdge_spec s
    refine ⟨_, congrArg Host.Outcome.next (if_pos hmode), ?_⟩
    beta_reduce
    rw [hcout]
    exact ⟨rfl, rfl, rfl, hmod, hle, hlt, startCout_eq (by omega) rfl⟩
end

section
/-! One TCLK cycle with an empty queue (log entry 2): what its parts leave unchanged. -/

namespace Sys2Proof.Machine

open Sys2Proof.Claims

/-! LEVEL counters (R464). -/

theorem cntBump_eq (n : Nat) (s : State) : cntBump n s = { s with rep := (cntBump n s).rep } := by
  unfold cntBump
  dsimp only
  split <;> rfl

/-- Work that changes the reports alone, once per element. -/
theorem foldl_rep_eq {α : Type} {f : State → α → State} (hf : ∀ t x, f t x = { t with rep := (f t x).rep }) (l : List α) (s : State) :
    l.foldl f s = { s with rep := (l.foldl f s).rep } := by
  induction l generalizing s with
  | nil => rfl
  | cons x l ih => exact (ih (f s x)).trans (congrArg (fun w : State => { w with rep := (l.foldl f (f s x)).rep }) (hf s x))

theorem levelTick_eq (s : State) : levelTick s = { s with rep := (levelTick s).rep } := by
  unfold levelTick
  split
  · rfl
  · refine foldl_rep_eq (fun t c => ?_) _ s
    split
    · split
      · exact cntBump_eq ..
      · rfl
    · rfl

theorem levelTick_frozen {s : State} (h : s.flag R.PERF_CTRL_FREEZE = true ∨ s.regRange 0x01F41000 0x01F42000 = []) : levelTick s = s := by
  unfold levelTick levelCounters
  split
  · rfl
  · rw [h.resolve_left ‹_›]; rfl

/-- The only counter in use counts in MODE 2. -/
theorem levelCounters_single {s : State} {n : Fin 256} {w : Nat} (hr : s.regRange 0x01F41000 0x01F42000 = [(R.PERF_CFG n, w)]) (hm : bits w 1 0 = 2) :
    levelCounters s = [(n.val, bits w 19 8)] := by
  have hoff : R.PERF_CFG n % 16 = 0 ∧ (R.PERF_CFG n - 0x01F41000) / 16 = n.val := by unfold R.PERF_CFG; omega
  simp [levelCounters, hr, hm, hoff]

theorem levelTick_counts {s : State} {n sel k : Nat} (hf : s.flag R.PERF_CTRL_FREEZE = false) (hc : levelCounters s = [(n, sel)])
    (hs : levelSignal s sel = some (k, true)) (hk : s.tclk % k = 0) : levelTick s = cntBump n s := by
  unfold levelTick
  rw [if_neg (ne_true_of_eq_false hf), hc, List.foldl_cons, List.foldl_nil, hs]
  exact if_pos hk

theorem levelTick_waits {s : State} {n sel k : Nat} {b : Bool} (hc : levelCounters s = [(n, sel)])
    (hs : levelSignal s sel = some (k, b)) (hk : b = false ∨ s.tclk % k ≠ 0) : levelTick s = s := by
  unfold levelTick
  rw [hc, List.foldl_cons, List.foldl_nil, hs]
  split
  · rfl
  · cases b
    · rfl
    · exact if_neg (hk.resolve_left (by decide))

/-! A colour snapshot (R176). -/

theorem regs_overlay_congr {s t : State} (ws : Tbl Nat) (h : t.regs = s.regs) : (overlay t ws).regs = (overlay s ws).regs := by
  unfold overlay
  induction ws generalizing s t with
  | nil => exact h
  | cons e ws ih =>
    rw [List.foldl_cons, List.foldl_cons]
    refine ih ?_
    unfold State.setWord
    rw [State.wordN_congr h, h]

theorem snapOf_dropSnap (h : Nat) (s : State) : (dropSnap h s).snapOf h = none := by
  unfold State.snapOf dropSnap
  simp

theorem colTick_keeps {s : State} (h : s.snapOf hCol = none ∨ dpyRuns s = true ∨ (s.tclk + 1) % 16 ≠ 0) : colTick s = s := by
  refine if_neg fun ⟨ht, hd, hs⟩ => ?_
  rcases h with h | h | h
  · rw [h] at hs; cases hs
  · rw [h] at hd; cases hd
  · exact h ht

theorem colTick_applies {s : State} {ws : Tbl Nat} (ht : (s.tclk + 1) % 16 = 0) (hd : dpyRuns s = false) (hs : s.snapOf hCol = some ws) :
    colTick s = dropSnap hCol (overlay s ws) := by
  have happly : colTick s = applySnap hCol s := if_pos ⟨ht, hd, by rw [hs]; rfl⟩
  rw [happly, applySnap, hs]

theorem colTick_eq (s : State) : colTick s = { s with regs := (colTick s).regs, snaps := (colTick s).snaps } := by
  by_cases h : (s.tclk + 1) % 16 = 0 ∧ dpyRuns s = false ∧ (s.snapOf hCol).isSome = true
  · obtain ⟨ht, hd, hs⟩ := h
    obtain ⟨ws, hs⟩ := Option.isSome_iff_exists.mp hs
    rw [colTick_applies ht hd hs]
    exact congrArg (fun w : State => { w with snaps := (dropSnap hCol (overlay s ws)).snaps }) (overlay_setWord s ws)
  · rw [colTick, if_neg h]

/-! Pairing units (R66). -/

/-- Of `s` and `t` only reports, register words and pairing units differ. -/
def PairFrame (s t : State) : Prop := t = { s with regs := t.regs, rep := t.rep, evt := { s.evt with pair := t.evt.pair } }

theorem PairFrame.trans {s t u : State} (h : PairFrame s t) (k : PairFrame t u) : PairFrame s u :=
  Eq.trans k (congrArg (fun w : State => { w with regs := u.regs, rep := u.rep, evt := { w.evt with pair := u.evt.pair } }) h)

theorem pairStore_frame (k : Nat) (r : PairRec) (s : State) : PairFrame s (pairStore k r s) := by
  unfold pairStore
  extract_lets x s1
  split_ifs <;> rfl

theorem pairStart_frame (k : Nat) (e : PairEdge) (s : State) : PairFrame s (pairStart k e s) := by
  unfold pairStart
  extract_lets x
  split
  · exact .trans (t := s.setPair' k _) rfl (pairStore_frame ..)
  · rfl

theorem pairStop_frame (k : Nat) (e : PairEdge) (s : State) : PairFrame s (pairStop k e s) := by
  unfold pairStop
  extract_lets x
  split
  · exact .trans (t := s.setPair' k _) rfl (pairStore_frame ..)
  · rfl
  · rfl

theorem pairSettle_frame (k n : Nat) (s : State) : PairFrame s (pairSettle k n s) := by
  unfold pairSettle
  extract_lets x
  split
  · rfl
  · refine List.foldlRecOn (motive := PairFrame s) _ _ (show PairFrame s (s.setPair' k _) from rfl) fun t ht w _ => ht.trans ?_
    split
    · exact pairStop_frame ..
    · exact pairStart_frame ..

theorem pairAge_frame (k : Nat) (s : State) : PairFrame s (pairAge k s) := pairSettle_frame ..

theorem pairAge_noWait {k : Nat} {s : State} (h : (s.pairSt k).wait = []) : pairAge k s = s := by
  unfold pairAge pairSettle
  dsimp only
  rw [h]
  exact if_pos rfl

/-! Port B of the Eddy buffers (R298). -/

theorem portTick_noWait {s : State} (h : s.rfl.any (fun e => e.2.win.isSome) = false) : portTick s = s := if_pos (by simp [h])

/-! The cycle. -/

/-- The edges that come due at the four pairing units are processed. -/
def pairTick (s : State) : State := [0, 1, 2, 3].foldl (fun s k => pairAge k s) s

/-- The counters, the colour unit and device time have advanced. -/
def clocked (s : State) : State := { colTick (levelTick s) with tclk := s.tclk + 1, clk := dtAdvance s }

theorem pairTick_frame (s : State) : PairFrame s (pairTick s) :=
  List.foldlRecOn (motive := PairFrame s) _ _ (rfl : s = _) fun t ht k _ => ht.trans (pairAge_frame k t)

theorem pairTick_noWait {s : State} (h : ∀ k < 4, (s.pairSt k).wait = []) : pairTick s = s := by
  unfold pairTick
  rw [List.foldl_cons, pairAge_noWait (h 0 (by decide)), List.foldl_cons, pairAge_noWait (h 1 (by decide)), List.foldl_cons,
    pairAge_noWait (h 2 (by decide)), List.foldl_cons, pairAge_noWait (h 3 (by decide)), List.foldl_nil]

theorem step_idle {s : State} (h : s.pending = []) : step s = .next (portTick (pairTick (clocked s))) := by
  unfold step
  rw [h]
  rfl

theorem step_front {s : State} {c : Instr} {rest : List Instr} (h : s.pending = c :: rest) : step s = exec c { s with pending := rest } := by
  unfold step
  rw [h]

theorem clocked_eq (s : State) : clocked s =
    { s with tclk := s.tclk + 1, clk := dtAdvance s, rep := (levelTick s).rep, regs := (clocked s).regs, snaps := (clocked s).snaps } := by
  have hcol := colTick_eq (levelTick s)
  have hlevel := levelTick_eq s
  exact (congrArg (fun w : State => { w with tclk := s.tclk + 1, clk := dtAdvance s }) hcol).trans
    (congrArg (fun w : State => { w with tclk := s.tclk + 1, clk := dtAdvance s, regs := (clocked s).regs, snaps := (clocked s).snaps }) hlevel)

/-- What the cycle leaves before the turns at the Eddy buffers. -/
theorem pairTick_clocked_eq {s t : State} (ht : t = pairTick (clocked s)) :
    t = { s with tclk := s.tclk + 1, clk := dtAdvance s, rep := t.rep, regs := t.regs, snaps := t.snaps, evt := { s.evt with pair := t.evt.pair } } := by
  have hpair : PairFrame (clocked s) t := ht ▸ pairTick_frame (clocked s)
  have hsnaps : t.snaps = (clocked s).snaps := by rw [hpair]
  rw [hsnaps]
  exact Eq.trans hpair (congrArg (fun w : State => { w with regs := t.regs, rep := t.rep, evt := { w.evt with pair := t.evt.pair } }) (clocked_eq s))

/-- With no edge waiting, the pairing units do nothing. -/
theorem pairTick_clocked_noWait {s : State} (h : ∀ k : Fin 4, (s.pairSt k).wait = []) : pairTick (clocked s) = clocked s := by
  have hevt : (clocked s).evt = s.evt := by rw [clocked_eq]
  refine pairTick_noWait fun k hk => ?_
  rw [State.pairSt, hevt]
  exact h ⟨k, hk⟩

/-- A cycle in which no core waits for an Eddy buffer. -/
theorem steps_noPort {s : State} {P : State → Prop} (h : s.pending = []) (hw : s.rfl.any (fun e => e.2.win.isSome) = false)
    (hP : P (pairTick (clocked s))) : Steps s P := by
  have hrfl : (pairTick (clocked s)).rfl = s.rfl := by rw [pairTick_clocked_eq (s := s) rfl]
  rw [← hrfl] at hw
  exact ⟨_, (step_idle h).trans (congrArg _ (portTick_noWait hw)), hP⟩

/-- A cycle in which, besides, no edge waits. -/
theorem steps_clocked {s : State} {P : State → Prop} (h : s.pending = []) (hw : s.rfl.any (fun e => e.2.win.isSome) = false)
    (hp : ∀ k : Fin 4, (s.pairSt k).wait = []) (hP : P (clocked s)) : Steps s P :=
  steps_noPort h hw (by rwa [pairTick_clocked_noWait hp])

end Sys2Proof.Machine
end

section
/-! Events while no EDGE counter is in use (R464): what they leave of the counters. -/

namespace Sys2Proof.Machine

/-- The counters and their overflow bits are the same. -/
def SameCnt (r r' : Rep) : Prop := r'.cnt = r.cnt ∧ r'.ovf = r.ovf

theorem SameCnt.refl (r : Rep) : SameCnt r r := ⟨rfl, rfl⟩

theorem SameCnt.trans {a b c : Rep} (h : SameCnt a b) (k : SameCnt b c) : SameCnt a c := ⟨k.1.trans h.1, k.2.trans h.2⟩

theorem histAdd_sameCnt (s : State) (r : Rep) (a b c : Nat) : SameCnt r (histAdd s r a b c).1 := by
  unfold histAdd
  split
  · exact .refl r
  · refine List.foldlRecOn (motive := fun acc : Rep × List (Nat × Nat) => SameCnt r acc.1) _ _ (.refl r) fun acc h k _ => h.trans ?_
    dsimp only
    split_ifs <;> exact ⟨rfl, rfl⟩

theorem vecSend_sameCnt (s : State) (r : Rep) (v t : Nat) : SameCnt r (vecSend s r v t).1 := by
  unfold vecSend
  extract_lets r1
  obtain ⟨hcnt, hovf⟩ := histAdd_sameCnt s r1 8 v ((s.tclk - t) / 16)
  exact ⟨hcnt, hovf⟩

theorem vecTrigger_sameCnt (s : State) (r : Rep) (v t : Nat) : SameCnt r (vecTrigger s r v t).1 := by
  unfold vecTrigger
  split
  · exact ⟨rfl, rfl⟩
  · split
    · exact vecSend_sameCnt ..
    · exact ⟨rfl, rfl⟩

theorem queueLog_sameCnt (r : Rep) (e : LogEntry) : SameCnt r (queueLog r e).1 := by
  unfold queueLog
  split <;> exact ⟨rfl, rfl⟩

theorem linesFold_sameCnt (s : State) (ls : List Nat) (r : Rep) :
    SameCnt r (ls.foldl (fun r l => (lineCores s l).foldl (fun r c => evpSet s.cclk r c l) r) r) :=
  List.foldlRecOn (motive := SameCnt r) _ _ (.refl r) fun _ h _ _ =>
    h.trans (List.foldlRecOn (motive := SameCnt _) _ _ (.refl _) fun _ k _ _ => ⟨k.1, k.2⟩)

theorem postNotice_sameCnt (s : State) (r : Rep) (h b v : Nat) : SameCnt r (postNotice s r h b v) := by
  unfold postNotice
  extract_lets n e
  exact ⟨rfl, rfl⟩

theorem deliver_sameCnt (s : State) (r : Rep) (h b : Nat) : SameCnt r (deliver s r h b).1 := by
  unfold deliver
  extract_lets rs logs sev a vecs bb lines r2 bks r3
  have ha : SameCnt r a.1 := by
    by_cases hc : (h ≠ hLog && !logs.isEmpty && decide (s.fld R.LOG_CFG_MIN_SEV ≤ sev)) = true
    · rw [show a = _ from if_pos hc]; exact queueLog_sameCnt ..
    · rw [show a = _ from if_neg hc]; exact .refl r
  have hb : SameCnt r bb.1 := List.foldlRecOn (motive := fun acc : Rep × List (Nat × Nat) => SameCnt r acc.1) _ _ ha
    fun acc h v _ => h.trans (vecTrigger_sameCnt s acc.1 v s.tclk)
  have h2 : SameCnt r r2 := hb.trans (linesFold_sameCnt s lines bb.1)
  by_cases hk : bks.isEmpty = true
  · rw [show r3 = r2 from if_pos hk]; exact h2
  · rw [show r3 = _ from if_neg hk]; exact h2.trans (postNotice_sameCnt ..)

/-- No counter in use counts events. -/
def NoEdgeCounter (s : State) : Prop := ∀ e ∈ s.regRange 0x01F41000 0x01F42000, bits e.2 1 0 ≠ 1

theorem edgeCount_none {s : State} (hn : NoEdgeCounter s) (r : Rep) (h b : Nat) : edgeCount s r h b = (r, []) := by
  unfold edgeCount
  split
  · rfl
  · have hnil : (s.regRange 0x01F41000 0x01F42000).filter (fun e => e.1 % 16 == 0 && bits e.2 1 0 == 1 && bits e.2 20 8 == ownerId h &&
        bits e.2 25 21 == b) = [] := by
      refine List.filter_eq_nil_iff.mpr fun e he => ?_
      simp [hn e he]
    rw [hnil, List.foldl_nil]

theorem occur_sameCnt {s : State} (hn : NoEdgeCounter s) (r : Rep) (h b : Nat) : SameCnt r (occur s r h b).1 := by
  unfold occur
  dsimp only
  rw [edgeCount_none hn]
  split
  · exact ⟨rfl, rfl⟩
  · obtain ⟨hcnt, hovf⟩ := deliver_sameCnt s
      { r with pend := Tbl.upd 0 r.pend h (· ||| 2 ^ b), fresh := freshen s.cclk (h + 0x20) (2 ^ b) r.fresh } h b
    exact ⟨hcnt, hovf⟩

theorem runOcc_sameCnt {s : State} (hn : NoEdgeCounter s) (n : Nat) (l : List (Nat × Nat)) (r : Rep) : SameCnt r (runOcc n s l r) := by
  induction n generalizing l r with
  | zero => exact .refl r
  | succ n ih =>
    cases l with
    | nil => exact .refl r
    | cons e t => exact (occur_sameCnt hn r e.1 e.2).trans (ih (t ++ (occur s r e.1 e.2).2) _)

theorem raise_sameCnt {s : State} (hn : NoEdgeCounter s) (h b : Nat) : SameCnt s.rep (raise h b s).rep := runOcc_sameCnt hn 1000 [(h, b)] s.rep

/-! A counter advances (R466). -/

open Sys2Proof.Claims

theorem cntBump_below {s : State} {n : Nat} (h : Tbl.get 0 s.rep.cnt n + 1 ≠ 2 ^ 64) :
    cntBump n s = { s with rep := { s.rep with cnt := Tbl.set s.rep.cnt n (Tbl.get 0 s.rep.cnt n + 1) } } := if_neg h

theorem cntBump_wraps {s : State} {n : Nat} (hn : NoEdgeCounter s) (h : Tbl.get 0 s.rep.cnt n + 1 = 2 ^ 64) :
    Tbl.get 0 (cntBump n s).rep.cnt n = 0 ∧ bitAt (cntBump n s).rep.ovf n = true ∧ Raised hPerf 0 (cntBump n s) := by
  have hb : cntBump n s = raise hPerf 0 { s with rep := { s.rep with
      cnt := Tbl.set s.rep.cnt n 0
      ovf := s.rep.ovf ||| 2 ^ n
      fresh := freshen s.cclk (R.PERF_OVF (n / 32)) (2 ^ (n % 32)) s.rep.fresh } } := if_pos h
  obtain ⟨hcnt, hovf⟩ := raise_sameCnt (s := { s with rep := { s.rep with
      cnt := Tbl.set s.rep.cnt n 0
      ovf := s.rep.ovf ||| 2 ^ n
      fresh := freshen s.cclk (R.PERF_OVF (n / 32)) (2 ^ (n % 32)) s.rep.fresh } }) hn hPerf 0
  rw [hb, hcnt, hovf]
  refine ⟨Tbl.get_set_same .., ?_, raise_raised ..⟩
  rw [bitAt_or_two_pow]
  simp

end Sys2Proof.Machine
end

section
/-! A core that waited for port B of an Eddy buffer gets it (R298): its instruction completes, and neither its wait nor the port's user changes again in that cycle. -/

namespace Sys2Proof.Machine

/-- The only core `j` waits for no Eddy buffer, and port B of the buffers is used as `pb` says. -/
def Served (j : Nat) (pb : Tbl (Nat × Nat)) (s : State) : Prop := s.rsv.portB = pb ∧ ∃ y : RCore, s.rfl = [(j, y)] ∧ y.win = none

namespace Served

variable {j : Nat} {pb : Tbl (Nat × Nat)} {s t : State}

theorem congr (h : Served j pb s) (hr : t.rfl = s.rfl) (hp : t.rsv.portB = s.rsv.portB) : Served j pb t := by
  unfold Served
  rw [hr, hp]
  exact h

theorem core_win (h : Served j pb s) : (s.core j).win = none := by
  obtain ⟨-, y, hr, hw⟩ := h
  rw [State.core, hr, Tbl.get, if_pos rfl, hw]

theorem setCore (h : Served j pb s) {x : RCore} (hx : x.win = none) : Served j pb (s.setCore j x) := by
  obtain ⟨hp, y, hr, -⟩ := h
  refine ⟨hp, x, ?_, hx⟩
  rw [State.setCore, hr, Tbl.set, if_pos rfl]

theorem updCore (h : Served j pb s) (f : RCore → RCore) (hf : ∀ x, (f x).win = x.win) : Served j pb (s.setCore j (f (s.core j))) :=
  h.setCore ((hf _).trans h.core_win)

theorem raise (h : Served j pb s) (a b : Nat) : Served j pb (raise a b s) := h.congr rfl rfl

theorem setWord (h : Served j pb s) (o v : Nat) : Served j pb (s.setWord o v) := h.congr rfl rfl

theorem setFault (h : Served j pb s) (a b : Nat) : Served j pb (setFault a b s) := h.congr (setFault_rfl ..) (congrArg Rsv.portB (setFault_rsv ..))

theorem runTo (h : Served j pb s) (st : Nat) : Served j pb (runTo j st s) := by
  have hcore := h.core_win
  unfold Machine.runTo
  extract_lets x f stalled y s1
  have h1 : Served j pb s1 := h.setCore hcore
  split
  · exact h1.raise ..
  · exact h1

/-! Results that land. -/

theorem evpClear (h : Served j pb s) (m : Nat) : Served j pb (evpClear j m s) := h.congr rfl rfl

theorem putSpecial (h : Served j pb s) (n v : Nat) : Served j pb (putSpecial j n v s) := by
  have hcore := h.core_win
  unfold Machine.putSpecial
  extract_lets x
  split_ifs
  exacts [h.setCore hcore, h.setCore hcore, h.setCore hcore, h.evpClear v, h.setCore hcore, h.setCore hcore, h.setCore hcore, h.setCore hcore, h]

theorem land (h : Served j pb s) (w : Wr) : Served j pb (land j s w) := by
  have hcore := h.core_win
  unfold Machine.land
  split
  · exact h.putSpecial ..
  · exact h.evpClear ..
  · dsimp only
    split
    · exact h.setCore hcore
    · exact h.setCore hcore

theorem advance (h : Served j pb s) : Served j pb (advance j s) := by
  have hcore := h.core_win
  unfold Machine.advance
  extract_lets x fl
  exact List.foldlRecOn (motive := Served j pb) _ _ (h.setCore hcore) fun _ k w _ => k.land w

theorem iter {f : State → State} (hf : ∀ u, Served j pb u → Served j pb (f u)) (h : Served j pb s) (n : Nat) : Served j pb (iter f n s) := by
  induction n generalizing s with
  | zero => exact h
  | succ n ih => exact ih (hf s h)

theorem haltCore (h : Served j pb s) : Served j pb (haltCore j s) := (iter (fun _ k => k.advance) h 4).runTo _

/-! Faults. -/

theorem recordCause (h : Served j pb s) (cause epc : Nat) (ea : Option Nat) (dbl : Bool) : Served j pb (recordCause j cause epc ea dbl s) := by
  cases ea
  · exact (h.setWord ..).setWord ..
  · exact (((h.setWord ..).setWord ..).setWord ..).setWord ..

theorem enterHandler (h : Served j pb s) (vec cause epc bub : Nat) (ea : Option Nat) : Served j pb (enterHandler j vec cause epc bub ea s) := by
  unfold Machine.enterHandler
  extract_lets s1 x s2
  have h1 : Served j pb s1 := iter (fun _ k => k.advance) h bub
  have h2 : Served j pb s2 := h1.setCore h1.core_win
  refine recordCause ?_ ..
  split
  · exact h2
  · exact h2.runTo _

theorem coreFault (h : Served j pb s) (cause : Nat) (ea : Option Nat) : Served j pb (coreFault j cause ea s) := by
  unfold Machine.coreFault
  extract_lets x sys epc s0 y s1 s2 s3
  have h0 : Served j pb s0 := by
    by_cases hs : sys = true
    · rw [show s0 = s from if_pos hs]; exact h
    · rw [show s0 = _ from if_neg hs]; exact h.congr rfl rfl
  have h1 : Served j pb s1 := h0.setCore h0.core_win
  have h3 : Served j pb s3 := ((h1.haltCore.recordCause ..).setFault ..).raise ..
  split_ifs
  exacts [h3.raise .., h3, h1.enterHandler .., h1.enterHandler .., (h1.haltCore.recordCause ..).setFault ..]

/-! The instruction completes. -/

theorem memEffect (h : Served j pb s) (b : RBank) (w : Nat) : Served j pb (memEffect j b w s) := by
  have hcore := h.core_win
  have heddy (a : Nat) (bs : List Byte) : Served j pb (eddyWriteB a bs s) := by
    unfold eddyWriteB
    split
    · split
      · exact h.congr rfl rfl
      · exact h.congr rfl rfl
    · exact h.congr rfl rfl
  have hlocal (a : Nat) (bs : List Byte) : Served j pb (localWrite j a bs s) := by
    unfold localWrite
    split
    · exact h.setCore hcore
    · exact heddy ..
  unfold Machine.memEffect
  extract_lets mop n
  split_ifs
  exacts [hlocal .., h.raise .., h.setWord .., h]

theorem latchCyc (h : Served j pb s) (w : Nat) : Served j pb (latchCyc j w s) := by
  unfold Machine.latchCyc
  split
  · exact h.setCore h.core_win
  · exact h

theorem launch (h : Served j pb s) (m k : SlotRes) : Served j pb (launch j m k s) := by
  have hcore := h.core_win
  unfold Machine.launch
  extract_lets x mk put y
  refine h.setCore ?_
  split
  · exact hcore
  · exact hcore

theorem stepPc (h : Served j pb s) (nbr : Option Branch) : Served j pb (stepPc j nbr s) := by
  have hcore := h.core_win
  unfold Machine.stepPc
  extract_lets x y
  split
  · exact h.setCore hcore
  · split_ifs
    exacts [h.setCore hcore, h.setCore hcore, h.setCore hcore, h.setCore hcore]

theorem settle (h : Served j pb s) : Served j pb (settle j s) := by
  have hcore := h.core_win
  unfold Machine.settle
  extract_lets x
  split_ifs
  · exact (h.setCore (x := { x with step := false }) hcore).haltCore.updCore (fun y => { y with haltReq := false, step := false }) fun _ => rfl
  · exact (h.runTo rHalted).updCore (fun y => { y with step := false }) fun _ => rfl
  · exact h.setCore hcore
  · exact h

theorem complete (h : Served j pb s) (w : Nat) (k : SlotRes) (bs : List Byte) : Served j pb (complete j w k bs s) := by
  unfold Machine.complete
  extract_lets x b mop s1 s2
  have h1 : Served j pb s1 := ((h.memEffect b w).latchCyc w).launch ..
  have h2 : Served j pb s2 := h1.stepPc _
  split_ifs
  exacts [h1.coreFault .., h2.haltCore, (h2.updCore (fun y => { y with mask := b.G (bits w 25 22) }) fun _ => rfl).runTo _, h2]

end Served

theorem runTo_tclk (c st : Nat) (s : State) : (runTo c st s).tclk = s.tclk := by
  unfold runTo
  extract_lets x f stalled y s1
  split <;> rfl

/-- The turn of core `j` at buffer `m`. -/
theorem winServe_served {j m iw : Nat} {y : RCore} {s : State} (hr : s.rfl = [(j, y)]) (hw : y.win = some iw) :
    Served j (Tbl.set s.rsv.portB m (s.fclk, j)) (winServe m j s) := by
  have hcore : s.core j = y := by rw [State.core, hr, Tbl.get, if_pos rfl]
  have hset : Served j s.rsv.portB (s.setCore j { y with win := none }) := ⟨rfl, { y with win := none }, by rw [State.setCore, hr, Tbl.set, if_pos rfl], rfl⟩
  have hrun := hset.runTo rRunning
  have huse : Served j (Tbl.set s.rsv.portB m (s.fclk, j)) (portUse m j (runTo j rRunning (s.setCore j { y with win := none }))) := by
    obtain ⟨hp, z, hz, hzw⟩ := hrun
    refine ⟨?_, z, hz, hzw⟩
    rw [portUse, hp, State.fclk, runTo_tclk]
    rfl
  unfold winServe
  rw [hcore, hw]
  dsimp only
  split
  · exact (huse.coreFault ..).settle
  · exact (huse.complete ..).settle

end Sys2Proof.Machine
end

section
/-! The turns at the Eddy buffers in a cycle in which one core waits (R298), and the clauses of `Obligations.StepTakesFrontCommand`. -/

namespace Sys2Proof.Machine

open Sys2Proof.Claims

/-- Port B of buffer `n` goes to the next core that waits for it. -/
def portTurn (s : State) (n : Nat) : State :=
  match nextAfter (Tbl.get (0, 0) s.rsv.portB n).2 (portWaits s n) with
  | some c => winServe n c s
  | none => s

theorem portTick_turns {s : State} (ht : s.tclk % 4 = 0) (hw : s.rfl.any (fun e => e.2.win.isSome) = true) :
    portTick s = (List.range 64).foldl portTurn s := if_neg (by simp [ht, hw])

theorem nextAfter_singleton (last c : Nat) : nextAfter last [c] = some c := by
  unfold nextAfter
  by_cases h : last < c <;> simp [h]

theorem portTurn_noWait {s : State} {n : Nat} (h : portWaits s n = []) : portTurn s n = s := by
  unfold portTurn
  rw [h]
  rfl

theorem portTurn_single {s : State} {n c : Nat} (h : portWaits s n = [c]) : portTurn s n = winServe n c s := by
  unfold portTurn
  rw [h, nextAfter_singleton]

theorem portWaits_single {s : State} {j iw : Nat} {y : RCore} (n : Nat) (hr : s.rfl = [(j, y)]) (hw : y.win = some iw) :
    portWaits s n = if winBuffer y iw = some n then [j] else [] := by
  unfold portWaits
  rw [hr]
  split <;> simp [*]

theorem Served.portWaits {j : Nat} {pb : Tbl (Nat × Nat)} {s : State} (h : Served j pb s) (n : Nat) : portWaits s n = [] := by
  obtain ⟨-, y, hr, hw⟩ := h
  unfold Machine.portWaits
  simp [hr, hw]

theorem foldl_portTurn_served {j : Nat} {pb : Tbl (Nat × Nat)} {s : State} (h : Served j pb s) (l : List Nat) : l.foldl portTurn s = s := by
  induction l with
  | nil => rfl
  | cons n l ih => rw [List.foldl_cons, portTurn_noWait (h.portWaits n), ih]

/-- Of the buffers, only the one that the core waits for gives it a turn. -/
theorem foldl_portTurn_single {s : State} {j m iw : Nat} {y : RCore} (hr : s.rfl = [(j, y)]) (hw : y.win = some iw) (hb : winBuffer y iw = some m)
    {l : List Nat} (hm : m ∈ l) : l.foldl portTurn s = winServe m j s := by
  induction l with
  | nil => cases hm
  | cons n l ih =>
    rw [List.foldl_cons]
    by_cases hn : n = m
    · subst hn
      rw [portTurn_single (by rw [portWaits_single n hr hw, if_pos hb])]
      exact foldl_portTurn_served (winServe_served hr hw) l
    · have hne : winBuffer y iw ≠ some n := by rw [hb]; exact fun e => hn (Option.some.inj e).symm
      rw [portTurn_noWait (by rw [portWaits_single n hr hw, if_neg hne])]
      exact ih ((List.mem_cons.mp hm).resolve_left (Ne.symm hn))

/-- Device time in a cycle (R46). -/
theorem dtAdvance_eq {s : State} {x : Int} (hx : x = 20480 * (2 ^ 44 + sext 32 (s.wordN R.CLK_DT_RATE)) + s.clk.dtFrac) :
    dtAdvance s = { s.clk with dt := s.clk.dt + (x / 2 ^ 44).toNat, dtFrac := (x % 2 ^ 44).toNat } := by
  have h44 : (2 : Int) ^ 44 = 17592186044416 := by norm_num
  rw [hx, h44]
  rfl

theorem clocked_rep (s : State) : (clocked s).rep = (levelTick s).rep := by rw [clocked_eq]

/-! Two signals of the LEVEL counters (R464). -/

theorem levelSignal_window (s : State) : levelSignal s 0x101 = some (4, s.rsv.window) := rfl

theorem levelSignal_seq15 (s : State) : levelSignal s 0x12F = some (2, (s.seq 15).armed) := rfl

/-- A LEVEL counter counts no events. -/
theorem noEdgeCounter_of_single {s : State} {o w : Nat} (hr : s.regRange 0x01F41000 0x01F42000 = [(o, w)]) (hm : bits w 1 0 = 2) : NoEdgeCounter s := by
  intro e he
  rw [hr, List.mem_singleton] at he
  rw [he, hm]
  decide

end Sys2Proof.Machine

open Sys2Proof Sys2Proof.Machine Sys2Proof.Claims

/-- Settles O58: the front command, or the parts of a cycle one by one: counters, colour unit, pairing units and the turns at the Eddy buffers. -/
theorem stepTakesFrontCommand : Obligations.StepTakesFrontCommand := by
  unfold Obligations.StepTakesFrontCommand
  intro s c rest n w x ws j m y iw
  refine ⟨step_front, fun h hw hx => ?cycle, fun h hw hp hc hx => ?noWait, fun h hw hp ht hd hs => ?colour, fun h hw hp hf => ?frozen,
    fun h hw hp hf hr hm hsel => ⟨fun hlow => ?windowLow, fun hwin ht hv => ?windowHigh, fun hwin ht hv => ?windowWraps⟩,
    fun h hw hp hf hr hm hsel hv => ?armed, fun h hr hwin hb hm ht => ?port⟩
  case cycle =>
    have heq := pairTick_clocked_eq (s := s) rfl
    have htclk : (pairTick (clocked s)).tclk = s.tclk + 1 := by rw [heq]
    have hclk : (pairTick (clocked s)).clk = dtAdvance s := by rw [heq]
    refine steps_noPort h hw ⟨htclk, hclk.trans (dtAdvance_eq hx), ?_⟩
    rw [htclk, hclk]
    exact heq
  case noWait =>
    have hlevel := levelTick_eq s
    have hcol : colTick (levelTick s) = levelTick s := colTick_keeps (by rw [hlevel]; exact hc)
    have hstate : clocked s = { s with tclk := s.tclk + 1, clk := dtAdvance s, rep := (clocked s).rep } := by
      rw [clocked_rep]
      exact congrArg (fun u : State => { u with tclk := s.tclk + 1, clk := dtAdvance s }) (hcol.trans hlevel)
    exact steps_clocked h hw hp ⟨rfl, dtAdvance_eq hx, hstate⟩
  case colour =>
    have hlevel := levelTick_eq s
    have hcol : colTick (levelTick s) = dropSnap hCol (overlay (levelTick s) ws) :=
      colTick_applies (by rw [hlevel]; exact ht) (by rw [hlevel]; exact hd) (by rw [hlevel]; exact hs)
    have hregs : (levelTick s).regs = s.regs := by rw [hlevel]
    refine steps_clocked h hw hp ⟨?_, ?_⟩
    · show (colTick (levelTick s)).snapOf hCol = none
      rw [hcol, snapOf_dropSnap]
    · show (colTick (levelTick s)).regs = _
      rw [hcol, dropSnap_regs, regs_overlay_congr ws hregs]
  case frozen => exact steps_clocked h hw hp (by rw [clocked_rep, levelTick_frozen hf])
  case windowLow =>
    refine steps_clocked h hw hp ?_
    rw [clocked_rep, levelTick_waits (levelCounters_single hr hm) (hsel ▸ levelSignal_window s) hlow]
  case windowHigh =>
    refine steps_clocked h hw hp ?_
    rw [clocked_rep, levelTick_counts hf (levelCounters_single hr hm) (by rw [hsel, levelSignal_window, hwin]) ht, cntBump_below hv]
  case windowWraps =>
    have hlevel := levelTick_counts hf (levelCounters_single hr hm) (by rw [hsel, levelSignal_window, hwin]) ht
    obtain ⟨hcnt, hovf, hev⟩ := cntBump_wraps (noEdgeCounter_of_single hr hm) hv
    have hrep : (clocked s).rep = (cntBump n s).rep := by rw [clocked_rep, hlevel]
    refine steps_clocked h hw hp ⟨by rw [hrep, hcnt], by rw [hrep, hovf], ?_⟩
    exact hev.kept (.of_rep hrep : RepFrame [] [] [] (cntBump n s) (clocked s))
  case armed =>
    refine steps_clocked h hw hp ?_
    rw [clocked_rep]
    by_cases ha : (s.seq 15).armed = true ∧ s.tclk % 2 = 0
    · obtain ⟨harm, ht⟩ := ha
      rw [levelTick_counts hf (levelCounters_single hr hm) (by rw [hsel, levelSignal_seq15, harm]) ht, cntBump_below hv, Tbl.get_set_same, harm, ht]
      rfl
    · have hlow : (s.seq 15).armed = false ∨ s.tclk % 2 ≠ 0 := by rwa [← Bool.not_eq_true, ← not_and_or]
      have hzero : ((s.seq 15).armed && decide (s.tclk % 2 = 0)) = false := by simpa using ha
      rw [levelTick_waits (levelCounters_single hr hm) (hsel ▸ levelSignal_seq15 s) hlow, hzero]
      rfl
  case port =>
    have heq := pairTick_clocked_eq (s := s) rfl
    have hcores : (pairTick (clocked s)).rfl = [(j, y)] := by rw [heq, hr]
    have htclk : (pairTick (clocked s)).tclk = s.tclk + 1 := by rw [heq]
    have hany : (pairTick (clocked s)).rfl.any (fun e => e.2.win.isSome) = true := by rw [hcores]; simp [hwin]
    have hserved := winServe_served (m := m) hcores hwin
    refine ⟨_, step_idle h, ?_⟩
    rw [portTick_turns (by rw [htclk, ht]) hany, foldl_portTurn_single hcores hwin hb (List.mem_range.mpr hm)]
    refine ⟨hserved.core_win, ?_⟩
    rw [hserved.1, Tbl.get_set_same, State.fclk, htclk]
end

section
/-! The state of the event unit (spec/03): what an input and a pairing unit hold after a write, and what operations on words and reports leave of them. -/

namespace Sys2Proof.Machine

open Sys2Proof.Claims

theorem evtIn_congr {s t : State} (h : t.evt = s.evt) (n : Nat) : t.evtIn n = s.evtIn n := congrArg (fun e : Evt => Tbl.get EvtIn.init e.inp n) h

theorem pairSt_congr {s t : State} (h : t.evt = s.evt) (k : Nat) : t.pairSt k = s.pairSt k := congrArg (fun e : Evt => Tbl.get PairSt.init e.pair k) h

@[simp] theorem evtIn_setEvt_same (s : State) (n : Nat) (x : EvtIn) : (s.setEvt n x).evtIn n = x := Tbl.get_set_same ..

theorem evtIn_setEvt_ne {n m : Nat} (s : State) (x : EvtIn) (h : n ≠ m) : (s.setEvt n x).evtIn m = s.evtIn m := Tbl.get_set_ne _ _ _ h

@[simp] theorem pairSt_setPair'_same (s : State) (k : Nat) (x : PairSt) : (s.setPair' k x).pairSt k = x := Tbl.get_set_same ..

@[simp] theorem pairSt_raise (h b : Nat) (s : State) (k : Nat) : (raise h b s).pairSt k = s.pairSt k := rfl
@[simp] theorem pairSt_bumpSat (s : State) (o v k : Nat) : (s.bumpSat o v).pairSt k = s.pairSt k := rfl

/-- A 32-bit counter advances and stops at its end. -/
theorem wordN_bumpSat (s : State) (o : Nat) : (s.bumpSat o 1).wordN o = min (s.wordN o + 1) 0xFFFFFFFF := by
  rw [State.bumpSat, State.wordN_setWord, if_pos rfl]
  exact Nat.mod_eq_of_lt (Nat.lt_of_le_of_lt (min_le_right ..) (by decide))

theorem wordsKept_bumpSat (s : State) (o k : Nat) : WordsKept s (s.bumpSat o k) [o] := wordsKept_setWord s o _

end Sys2Proof.Machine
end

section
/-! Pairing units (R66 to R68): what a start and a stop give in each state of a unit, the order in which edges wait, and the clauses of `Obligations.IntervalPairing`. -/

namespace Sys2Proof.Machine

open Sys2Proof.Claims

/-! Records (R67, R68). -/

/-- A queue with room takes the record, with the LOSS that the unit owed. -/
theorem pairSt_pairStore {k : Nat} {s : State} (r : PairRec) (h : (s.pairSt k).q.length < 64) :
    (pairStore k r s).pairSt k = { s.pairSt k with q := (s.pairSt k).q ++ [{ r with loss := (s.pairSt k).loss }], loss := false } := by
  unfold pairStore
  dsimp only
  rw [if_pos h]
  split
  · rw [pairSt_raise, pairSt_setPair'_same]
  · rw [pairSt_setPair'_same]

theorem pairRec_eq (a b : PairEdge) (order rearm : Bool) : pairRec a b order rearm =
    { unres := decide ((b.dt - a.dt).natAbs < 1280), order := order && decide (1280 ≤ (b.dt - a.dt).natAbs), rearm := rearm, coast := a.coast || b.coast,
      stale := a.stale || b.stale, loss := false, startSeq := a.seq, stopSeq := b.seq, interval := if (b.dt - a.dt).natAbs < 1280 then 0 else b.dt - a.dt } := by
  simp only [pairRec, decide_eq_true_eq, ← decide_not, Nat.not_lt]

/-! Starts and stops (R66). -/

theorem pairStart_arms {k : Nat} {s : State} (e : PairEdge) (h : (s.pairSt k).orphan = none) :
    pairStart k e s = s.setPair' k { s.pairSt k with start := some e, rearm := (s.pairSt k).start.isSome } := by
  unfold pairStart
  dsimp only
  rw [h]

theorem pairStart_completes {k : Nat} {s : State} {o : PairEdge} (e : PairEdge) (h : (s.pairSt k).orphan = some o) : pairStart k e s =
    pairStore k (pairRec e o (decide (o.dt < e.dt)) false) (s.setPair' k { s.pairSt k with orphan := none, start := none, rearm := false }) := by
  unfold pairStart
  dsimp only
  rw [h]

theorem pairStop_completes {k : Nat} {s : State} {a : PairEdge} (e : PairEdge) (h : (s.pairSt k).start = some a) : pairStop k e s =
    pairStore k (pairRec a e (decide (e.dt < a.dt)) (s.pairSt k).rearm) (s.setPair' k { s.pairSt k with start := none, rearm := false }) := by
  unfold pairStop
  dsimp only
  rw [h]

theorem pairStop_replaces {k : Nat} {s : State} {o : PairEdge} (e : PairEdge) (h : (s.pairSt k).start = none) (ho : (s.pairSt k).orphan = some o) :
    pairStop k e s = (s.setPair' k { s.pairSt k with orphan := some e }).bumpSat (R.PAIR_ORPHAN k) 1 := by
  unfold pairStop
  dsimp only
  rw [h, ho]

theorem pairStop_holds {k : Nat} {s : State} (e : PairEdge) (h : (s.pairSt k).start = none) (ho : (s.pairSt k).orphan = none) :
    pairStop k e s = s.setPair' k { s.pairSt k with orphan := some e } := by
  unfold pairStop
  dsimp only
  rw [h, ho]

/-! The order of the edges that wait (R66). -/

theorem pairFirst_iff (a b : PairWait) :
    pairFirst a b = true ↔ a.edge.dt < b.edge.dt ∨ (a.edge.dt = b.edge.dt ∧ (a.stop = false ∨ b.stop = true)) := by
  simp [pairFirst]

theorem pairFirst_trans {a b c : PairWait} (h : pairFirst a b = true) (k : pairFirst b c = true) : pairFirst a c = true := by
  rw [pairFirst_iff] at *
  grind

theorem pairFirst_of_not {a b : PairWait} (h : ¬ pairFirst a b = true) : pairFirst b a = true := by
  rw [pairFirst_iff] at *
  grind

theorem pairInsert_perm (w : PairWait) (ws : List PairWait) : (pairInsert w ws).Perm (w :: ws) := by
  induction ws with
  | nil => exact .refl _
  | cons a t ih =>
    rw [pairInsert]
    split
    · exact (ih.cons a).trans (.swap w a t)
    · exact .refl _

theorem pairInsert_pairwise {ws : List PairWait} (w : PairWait) (h : ws.Pairwise (fun a b => pairFirst a b = true)) :
    (pairInsert w ws).Pairwise (fun a b => pairFirst a b = true) := by
  induction ws with
  | nil => exact List.pairwise_singleton ..
  | cons a t ih =>
    obtain ⟨ha, ht⟩ := List.pairwise_cons.mp h
    rw [pairInsert]
    split
    case isTrue haw =>
      refine List.pairwise_cons.mpr ⟨fun b hb => ?_, ih ht⟩
      rcases List.mem_cons.mp ((pairInsert_perm w t).mem_iff.mp hb) with rfl | hbt
      · exact haw
      · exact ha b hbt
    case isFalse haw =>
      have hwa := pairFirst_of_not haw
      refine List.pairwise_cons.mpr ⟨fun b hb => ?_, h⟩
      rcases List.mem_cons.mp hb with rfl | hbt
      · exact hwa
      · exact pairFirst_trans hwa (ha b hbt)

/-! One edge waits. -/

theorem pairAge_waits {k : Nat} {s : State} {w : PairWait} (h : (s.pairSt k).wait = [w]) (hr : s.tclk < w.arr + pairReach s k) : pairAge k s = s := by
  simp [pairAge, pairSettle, h, hr]

theorem pairAge_due {k : Nat} {s : State} {w : PairWait} (h : (s.pairSt k).wait = [w]) (hr : w.arr + pairReach s k ≤ s.tclk) : pairAge k s =
    if w.stop then pairStop k w.edge (s.setPair' k { s.pairSt k with wait := [] }) else pairStart k w.edge (s.setPair' k { s.pairSt k with wait := [] }) := by
  simp [pairAge, pairSettle, h, Nat.not_lt.mpr hr]

/-- With MODE 0 an edge joins those that wait at its unit; none waited before it. -/
theorem pairEdge_waits {k n : Nat} {s : State} (falling : Bool) (e : PairEdge) (hn : n / 2 = k) (hen : s.flag (R.PAIR_CFG_EN k) = true)
    (hm : s.flag (R.PAIR_CFG_MODE k) = false) (hw : (s.pairSt k).wait = []) :
    pairEdge n falling e s = s.setPair' k { s.pairSt k with wait := [⟨n % 2 == 1, s.tclk, e⟩] } := by
  subst hn
  simp only [pairEdge, hen, hm, pairAge_noWait hw, hw, pairInsert, Bool.not_true, Bool.false_eq_true, if_false]

/-! A held orphan stop is discarded (R66, R70). -/

theorem orphanDiscard_none {k : Nat} {s : State} (h : (s.pairSt k).orphan = none) : orphanDiscard k s = s := by
  unfold orphanDiscard
  rw [h]

theorem orphanDiscard_some {k : Nat} {s : State} (h : (s.pairSt k).orphan ≠ none) :
    orphanDiscard k s = raise hEvt 13 ((s.setPair' k { s.pairSt k with orphan := none }).bumpSat (R.PAIR_ORPHAN k) 1) := by
  obtain ⟨b, hb⟩ := Option.ne_none_iff_exists'.mp h
  unfold orphanDiscard
  rw [hb]

theorem pairSt_orphanDiscard (k : Nat) (s : State) : (orphanDiscard k s).pairSt k = { s.pairSt k with orphan := none } := by
  by_cases h : (s.pairSt k).orphan = none
  · rw [orphanDiscard_none h, ← h]
  · rw [orphanDiscard_some h, pairSt_raise, pairSt_bumpSat, pairSt_setPair'_same]

/-- What the discarding of a held stop leaves. -/
theorem orphanDiscard_held {k : Nat} {s t : State} (h : (s.pairSt k).orphan ≠ none) (ht : t = orphanDiscard k s) :
    t = { s with evt := { s.evt with pair := Tbl.set s.evt.pair k { s.pairSt k with orphan := none } }, regs := t.regs, rep := t.rep } ∧
    t.wordN (R.PAIR_ORPHAN k) = min (s.wordN (R.PAIR_ORPHAN k) + 1) 0xFFFFFFFF ∧ WordsKept s t [R.PAIR_ORPHAN k] ∧ Event hEvt 13 s t := by
  rw [orphanDiscard_some h] at ht
  subst ht
  exact ⟨rfl, wordN_bumpSat .., wordsKept_bumpSat s _ 1, raise_raised .., (raise_frame ..).congr_left rfl⟩

theorem wordsKept_orphanDiscard (k : Nat) (s : State) : WordsKept s (orphanDiscard k s) [R.PAIR_ORPHAN k] := by
  by_cases h : (s.pairSt k).orphan = none
  · rw [orphanDiscard_none h]; exact fun _ _ => rfl
  · exact (orphanDiscard_held h rfl).2.2.1

theorem orphanDiscard_frame (k : Nat) (s : State) : PairFrame s (orphanDiscard k s) := by
  by_cases h : (s.pairSt k).orphan = none
  · rw [orphanDiscard_none h]; rfl
  · rw [orphanDiscard_some h]; rfl

end Sys2Proof.Machine

open Sys2Proof Sys2Proof.Machine Sys2Proof.Claims

/-- Settles O7: what a start and a stop give in each state of the unit, and the order of the edges that wait. -/
theorem intervalPairing : Obligations.IntervalPairing := by
  unfold Obligations.IntervalPairing
  intro s k e x a b w ws falling hx
  subst hx
  refine ⟨fun hs ho => ?arms, fun hs ho => ?rearms, fun ho hlt hq => ?startCompletes, fun hs hle hq => ?stopCompletes, fun hs ho => ?holds,
    fun hs ho => ?replaces, fun hen hm hw => ?joins, fun hws => ⟨pairInsert_pairwise w hws, pairInsert_perm w ws⟩, pairAge_waits,
    fun hw hr hstop => ?stopDue, fun hw hr hstop => ?startDue, ⟨_, rfl, ?discard⟩, fun ho => ?discardHeld⟩
  case arms => rw [pairStart_arms e ho, pairSt_setPair'_same, hs]; exact ⟨rfl, rfl, rfl⟩
  case rearms => rw [pairStart_arms e ho, pairSt_setPair'_same, hs]; exact ⟨rfl, rfl, rfl⟩
  case startCompletes =>
    rw [pairStart_completes e ho, pairSt_pairStore _ (by rwa [pairSt_setPair'_same]), pairSt_setPair'_same, pairRec_eq, decide_eq_true hlt]
    exact ⟨rfl, rfl, rfl⟩
  case stopCompletes =>
    rw [pairStop_completes e hs, pairSt_pairStore _ (by rwa [pairSt_setPair'_same]), pairSt_setPair'_same, pairRec_eq, decide_eq_false (Int.not_lt.mpr hle)]
    exact ⟨rfl, rfl⟩
  case holds => rw [pairStop_holds e hs ho, pairSt_setPair'_same]; exact ⟨rfl, rfl⟩
  case replaces =>
    rw [pairStop_replaces e hs ho]
    exact ⟨by simp, by simp, wordN_bumpSat ..⟩
  case joins =>
    have hstart : 2 * k.val / 2 = k := by omega
    have hstop : (2 * k.val + 1) / 2 = k := by omega
    rw [pairEdge_waits falling e hstart hen hm hw, pairEdge_waits falling e hstop hen hm hw]
    exact ⟨by simp, by simp [Nat.add_mod]⟩
  case stopDue => rw [pairAge_due hw hr, if_pos hstop]
  case startDue => rw [pairAge_due hw hr, hstop]; rfl
  case discard =>
    have hst := pairSt_orphanDiscard k s
    exact ⟨by rw [hst], by rw [hst], wordsKept_orphanDiscard k s, orphanDiscard_none, orphanDiscard_frame k s⟩
  case discardHeld => exact ⟨_, rfl, orphanDiscard_held (by simp [ho]) rfl⟩
end

section
/-! Writes of words whose fields are all RW (R4, R483), and numbers cut to a field. -/

namespace Sys2Proof.Machine

theorem bits_lt (x hi lo : Nat) : bits x hi lo < 2 ^ (hi + 1 - lo) := Nat.mod_lt _ (by positivity)

theorem blend_lt {m : Nat} (old v : Nat) (hm : m < 2 ^ 32) : blend old v m < 2 ^ 32 :=
  Nat.or_lt_two_pow (and_lt_word (by omega)) (and_lt_word hm)

/-- Are all fields of the word RW, with `m` the mask of their bits? -/
def onlyRw (off m : Nat) : Bool := (fieldsOf off).all (fun f => f.acc == .rw) && accMask (fieldsOf off) (fun _ => true) == m

theorem accMask_congr {fs : List FieldAcc} {p q : Acc → Bool} (h : ∀ f ∈ fs, p f.acc = q f.acc) : accMask fs p = accMask fs q := by
  unfold accMask
  exact List.foldl_ext _ _ _ fun m f hf => by rw [h f hf]

theorem accMask_false (fs : List FieldAcc) : accMask fs (fun _ => false) = 0 :=
  List.foldlRecOn (motive := (· = 0)) fs _ rfl fun _ h _ _ => h

/-- Such a write puts the enabled bytes of its fields into the word. -/
theorem writeFields_onlyRw {off m : Nat} (v be : Nat) (s : State) (h : onlyRw off m = true) :
    writeFields off v be s = s.setWord off (blend (s.wordN off) v (m &&& beMask be)) := by
  obtain ⟨hall, hm⟩ : (∀ f ∈ fieldsOf off, f.acc = .rw) ∧ accMask (fieldsOf off) (fun _ => true) = m := by
    simpa [onlyRw] using h
  have hmask (p : Acc → Bool) : accMask (fieldsOf off) p = accMask (fieldsOf off) (fun _ => p .rw) := accMask_congr fun f hf => by rw [hall f hf]
  have hsh : shMask off = 0 := (hmask _).trans (accMask_false _)
  have hset : setMask s.lifeOpen off = m := (hmask _).trans hm
  have hw1c : accMask (fieldsOf off) (· == .w1c) = 0 := (hmask _).trans (accMask_false _)
  have hw1s : accMask (fieldsOf off) (· == .w1s) = 0 := (hmask _).trans (accMask_false _)
  have hlt : blend (s.wordN off) v (m &&& beMask be) < 2 ^ 32 := blend_lt _ _ (and_lt_word (beMask_lt be))
  have hword : writtenWord s.lifeOpen off (s.wordN off) (s.justSet off) v be = blend (s.wordN off) v (m &&& beMask be) := by
    simp only [writtenWord, hset, hw1c, hw1s, Nat.zero_and, Nat.sub_self, Nat.sub_zero, Nat.or_zero]
    exact (Nat.and_two_pow_sub_one_eq_mod _ 32).trans (Nat.mod_eq_of_lt hlt)
  simp only [writeFields, hsh, hword, if_true]

theorem wordN_writeFields_onlyRw {off m : Nat} (v be : Nat) (s : State) (h : onlyRw off m = true) :
    (writeFields off v be s).wordN off = blend (s.wordN off) v (m &&& beMask be) := by
  rw [writeFields_onlyRw v be s h, State.wordN_setWord, if_pos rfl]
  exact Nat.mod_eq_of_lt (blend_lt _ _ (and_lt_word (beMask_lt be)))

theorem onlyRw_evtCfg (n : Fin 8) : onlyRw (R.EVT_CFG n) 0x00FFF0F7 = true := by revert n; decide +kernel

theorem onlyRw_pairCfg (k : Fin 4) : onlyRw (R.PAIR_CFG k) 0xFFFF0003 = true := by revert k; decide +kernel

end Sys2Proof.Machine
end

section
/-! Registers and queues of the event unit (R58, R60, R61, R68, R71), and the clauses of `Obligations.EventRegistersAndQueues`. -/

namespace Sys2Proof.Machine

open Sys2Proof.Claims

/-! EVTn_CFG (R58). -/

theorem evtCfgWrite_eq (n v be : Nat) (s : State) : evtCfgWrite n v be s = { writeFields (R.EVT_CFG n) v be s with
    evt := if s.flag (R.EVT_CFG_EN n) then { s.evt with inp := Tbl.set s.evt.inp n { s.evtIn n with blankEnd := s.tclk + 3200 } } else s.evt } := by
  rw [evtCfgWrite, writeFields_eq]
  dsimp only
  split <;> rfl

/-! The edges that wait are processed (R66). -/

/-- The work of unit `k` on its edges: of register words only its two counters may change, and the edges that wait stay. -/
def PairWork (k : Nat) (s t : State) : Prop := WordsKept s t [R.PAIR_ORPHAN k, R.PAIR_LOST k] ∧ (t.pairSt k).wait = (s.pairSt k).wait

namespace PairWork

theorem trans {k : Nat} {s t u : State} (h : PairWork k s t) (h' : PairWork k t u) : PairWork k s u :=
  ⟨fun o ho => (h'.1 o ho).trans (h.1 o ho), h'.2.trans h.2⟩

theorem setPair' {k : Nat} {s : State} {x : PairSt} (h : x.wait = (s.pairSt k).wait) : PairWork k s (s.setPair' k x) :=
  ⟨fun _ _ => rfl, by rw [pairSt_setPair'_same, h]⟩

theorem bumpSat {k o : Nat} {s t : State} (h : PairWork k s t) (ho : o ∈ [R.PAIR_ORPHAN k, R.PAIR_LOST k]) : PairWork k s (t.bumpSat o 1) :=
  h.trans ⟨fun _ ha => State.word_setWord_ne t _ fun e => ha (e ▸ ho), rfl⟩

theorem raise {k : Nat} {s t : State} (h : PairWork k s t) (a b : Nat) : PairWork k s (raise a b t) := h.trans ⟨fun _ _ => rfl, rfl⟩

theorem pairStore {k : Nat} {s t : State} (h : PairWork k s t) (r : PairRec) : PairWork k s (pairStore k r t) := by
  refine h.trans ?_
  unfold Machine.pairStore
  dsimp only
  split
  · split
    · exact raise (setPair' (by rfl)) _ _
    · exact setPair' rfl
  · exact raise (bumpSat (setPair' (by rfl)) (by simp)) _ _

theorem pairStart {k : Nat} {s t : State} (h : PairWork k s t) (e : PairEdge) : PairWork k s (pairStart k e t) := by
  refine h.trans ?_
  cases ho : (t.pairSt k).orphan with
  | none => rw [pairStart_arms e ho]; exact setPair' rfl
  | some o => rw [pairStart_completes e ho]; exact pairStore (setPair' (by rfl)) _

theorem pairStop {k : Nat} {s t : State} (h : PairWork k s t) (e : PairEdge) : PairWork k s (pairStop k e t) := by
  refine h.trans ?_
  cases hs : (t.pairSt k).start with
  | some a => rw [pairStop_completes e hs]; exact pairStore (setPair' (by rfl)) _
  | none =>
    cases ho : (t.pairSt k).orphan with
    | none => rw [pairStop_holds e hs ho]; exact setPair' rfl
    | some o => rw [pairStop_replaces e hs ho]; exact bumpSat (setPair' (by rfl)) (by simp)

end PairWork

/-- The first `n` edges no longer wait; of register words only the unit's counters may have changed. -/
theorem pairSettle_spec (k n : Nat) (s : State) :
    WordsKept s (pairSettle k n s) [R.PAIR_ORPHAN k, R.PAIR_LOST k] ∧ ((pairSettle k n s).pairSt k).wait = (s.pairSt k).wait.drop n := by
  unfold pairSettle
  dsimp only
  split
  case isTrue h => rw [h]; exact ⟨fun _ _ => rfl, rfl⟩
  case isFalse =>
    have hwork : PairWork k (s.setPair' k { s.pairSt k with wait := (s.pairSt k).wait.drop n })
        (((s.pairSt k).wait.take n).foldl (fun s w => if w.stop then pairStop k w.edge s else pairStart k w.edge s)
          (s.setPair' k { s.pairSt k with wait := (s.pairSt k).wait.drop n })) := by
      refine List.foldlRecOn (motive := PairWork k _) _ _ ⟨fun _ _ => rfl, rfl⟩ fun t ht w _ => ?_
      split
      · exact ht.pairStop _
      · exact ht.pairStart _
    exact ⟨fun o ho => hwork.1 o ho, by rw [hwork.2, pairSt_setPair'_same]⟩

/-! PAIRk_CFG (R71). -/

/-- The edges that wait have been processed, and the word is written. -/
def pairCfgSet (k v be : Nat) (s : State) : State := writeFields (R.PAIR_CFG k) v be (pairSettle k (s.pairSt k).wait.length s)

/-- The armed start is discarded. -/
def startCleared (k : Nat) (s : State) : State := s.setPair' k { s.pairSt k with start := none, rearm := false }

theorem pairCfgWrite_enabled {k v be : Nat} {s : State} (h : (pairCfgSet k v be s).flag (R.PAIR_CFG_EN k) = true) :
    pairCfgWrite k v be s = pairCfgSet k v be s := if_pos h

theorem pairCfgWrite_disabled {k v be : Nat} {s : State} (h : (pairCfgSet k v be s).flag (R.PAIR_CFG_EN k) = false) :
    pairCfgWrite k v be s = orphanDiscard k (startCleared k (pairCfgSet k v be s)) := if_neg (Bool.eq_false_iff.mp h)

/-- After the word is written only the count of orphans may change. -/
theorem wordsKept_pairCfgWrite (k v be : Nat) (s : State) : WordsKept (pairCfgSet k v be s) (pairCfgWrite k v be s) [R.PAIR_ORPHAN k] := by
  cases h : (pairCfgSet k v be s).flag (R.PAIR_CFG_EN k) with
  | true => rw [pairCfgWrite_enabled h]; exact fun _ _ => rfl
  | false => rw [pairCfgWrite_disabled h]; exact fun o ho => wordsKept_orphanDiscard k _ o ho

theorem pairCfg_notMem (k : Nat) : R.PAIR_CFG k ∉ [R.PAIR_ORPHAN k, R.PAIR_LOST k] := by simp [R.PAIR_CFG, R.PAIR_ORPHAN, R.PAIR_LOST]

theorem wordN_pairCfgSet (k : Fin 4) (v be : Nat) (s : State) :
    (pairCfgSet k v be s).wordN (R.PAIR_CFG k) = blend (s.wordN (R.PAIR_CFG k)) v (0xFFFF0003 &&& beMask be) := by
  rw [pairCfgSet, wordN_writeFields_onlyRw v be _ (onlyRw_pairCfg k), wordN_of_kept (pairSettle_spec ..).1 (pairCfg_notMem k)]

theorem wordsKept_pairCfgSet (k v be : Nat) (s : State) : WordsKept s (pairCfgSet k v be s) [R.PAIR_CFG k, R.PAIR_ORPHAN k, R.PAIR_LOST k] := fun o ho => by
  obtain ⟨hcfg, hcnt⟩ := not_or.mp (mt List.mem_cons.mpr ho)
  exact (wordsKept_writeFields _ v be _ o (by simpa using hcfg)).trans ((pairSettle_spec ..).1 o hcnt)

theorem pairSt_pairCfgSet (k v be : Nat) (s : State) : (pairCfgSet k v be s).pairSt k = (pairSettle k (s.pairSt k).wait.length s).pairSt k :=
  pairSt_congr (by rw [pairCfgSet, writeFields_eq]) k

theorem wait_pairCfgSet (k v be : Nat) (s : State) : ((pairCfgSet k v be s).pairSt k).wait = [] := by
  rw [pairSt_pairCfgSet, (pairSettle_spec ..).2, List.drop_length]

theorem wait_pairCfgWrite (k v be : Nat) (s : State) : ((pairCfgWrite k v be s).pairSt k).wait = [] := by
  cases h : (pairCfgSet k v be s).flag (R.PAIR_CFG_EN k) with
  | true => rw [pairCfgWrite_enabled h, wait_pairCfgSet]
  | false => rw [pairCfgWrite_disabled h, pairSt_orphanDiscard, startCleared, pairSt_setPair'_same, wait_pairCfgSet]

theorem flag_en_pairCfgWrite (k v be : Nat) (s : State) :
    (pairCfgWrite k v be s).flag (R.PAIR_CFG_EN k) = (pairCfgSet k v be s).flag (R.PAIR_CFG_EN k) :=
  flag_of_kept (wordsKept_pairCfgWrite k v be s) fun h => pairCfg_notMem k (List.mem_cons.mpr (.inl (List.mem_singleton.mp h)))

theorem pairCfgWrite_frame (k : Fin 4) (v be : Nat) (s : State) : PairFrame s (pairCfgWrite k v be s) := by
  have hset : PairFrame s (pairCfgSet k v be s) :=
    (pairSettle_frame ..).trans (by rw [pairCfgSet, writeFields_onlyRw v be _ (onlyRw_pairCfg k)]; rfl)
  cases h : (pairCfgSet k v be s).flag (R.PAIR_CFG_EN k) with
  | true => rw [pairCfgWrite_enabled h]; exact hset
  | false =>
    rw [pairCfgWrite_disabled h]
    exact (hset.trans (u := startCleared k (pairCfgSet k v be s)) rfl).trans (orphanDiscard_frame ..)

/-! With no edge waiting only the word is written. -/

theorem pairCfgSet_noWait {k : Nat} (v be : Nat) {s : State} (h : (s.pairSt k).wait = []) : pairCfgSet k v be s = writeFields (R.PAIR_CFG k) v be s := by
  rw [pairCfgSet, h]; rfl

theorem pairCfgSet_eq (k : Fin 4) (v be : Nat) {s : State} (h : (s.pairSt k).wait = []) :
    pairCfgSet k v be s = { s with regs := (pairCfgSet k v be s).regs } := by
  rw [pairCfgSet_noWait v be h, writeFields_onlyRw v be s (onlyRw_pairCfg k)]
  rfl

theorem startCleared_eq (k : Fin 4) (v be : Nat) {s : State} (h : (s.pairSt k).wait = []) : startCleared k (pairCfgSet k v be s) =
    { s with evt := { s.evt with pair := Tbl.set s.evt.pair k { s.pairSt k with start := none, rearm := false } }, regs := (pairCfgSet k v be s).regs } :=
  congrArg (fun u : State => { startCleared k u with regs := (pairCfgSet k v be s).regs }) (pairCfgSet_eq k v be h)

theorem orphan_startCleared (k : Fin 4) (v be : Nat) {s : State} (h : (s.pairSt k).wait = []) :
    ((startCleared k (pairCfgSet k v be s)).pairSt k).orphan = (s.pairSt k).orphan := by
  rw [startCleared, pairSt_setPair'_same, pairCfgSet_eq k v be h]
  rfl

theorem orphanCount_startCleared (k : Fin 4) (v be : Nat) {s : State} (h : (s.pairSt k).wait = []) :
    (startCleared k (pairCfgSet k v be s)).wordN (R.PAIR_ORPHAN k) = s.wordN (R.PAIR_ORPHAN k) := by
  refine (State.wordN_congr (s := pairCfgSet k v be s) rfl _).trans ?_
  rw [pairCfgSet_noWait v be h]
  exact wordN_of_kept (wordsKept_writeFields _ v be s) (by simp [R.PAIR_ORPHAN, R.PAIR_CFG])

/-! Gate transitions (R60). -/

/-- A transition to `level` arms input `n` where it is one-shot and this is its GATE_POL. -/
def armOneShot (level : Bool) (s : State) (n : Nat) : State :=
  if s.fld (R.EVT_CFG_GATE_MODE n) = 2 ∧ s.flag (R.EVT_CFG_GATE_POL n) = level then s.setEvt n { s.evtIn n with armed := true } else s

/-- The gate has its new level. -/
def gateSet (k : Nat) (level : Bool) (s : State) : State := { s with evt := { s.evt with gate := Tbl.set s.evt.gate k level } }

theorem gateTransition_same {k : Nat} {level : Bool} {s : State} (h : Tbl.get false s.evt.gate k = level) :
    gateTransition k level s = gateSet k level s := if_pos (beq_iff_eq.mpr h)

theorem gateTransition_changes {k : Nat} {level : Bool} {s : State} (h : Tbl.get false s.evt.gate k ≠ level) :
    gateTransition k level s = armOneShot level (armOneShot level (gateSet k level s) (2 * k)) (2 * k + 1) := if_neg (by simpa using h)

theorem armOneShot_eq (level : Bool) (s : State) (n : Nat) :
    armOneShot level s n = { s with evt := { s.evt with inp := (armOneShot level s n).evt.inp } } := by
  unfold armOneShot
  split <;> rfl

theorem evtIn_armOneShot (level : Bool) (s : State) (m n : Nat) : (armOneShot level s m).evtIn n =
    if m = n ∧ s.fld (R.EVT_CFG_GATE_MODE n) = 2 ∧ s.flag (R.EVT_CFG_GATE_POL n) = level then { s.evtIn n with armed := true } else s.evtIn n := by
  unfold armOneShot
  by_cases hm : m = n
  · subst hm
    rw [apply_ite (State.evtIn · m), evtIn_setEvt_same]
    simp only [true_and]
  · rw [if_neg fun h : m = n ∧ _ => hm h.1, apply_ite (State.evtIn · n), evtIn_setEvt_ne s _ hm, ite_self]

theorem regs_armOneShot (level : Bool) (s : State) (n : Nat) : (armOneShot level s n).regs = s.regs := by rw [armOneShot_eq]

theorem gateTransition_eq (k : Nat) (level : Bool) (s : State) : gateTransition k level s =
    { s with evt := { s.evt with gate := Tbl.set s.evt.gate k level, inp := (gateTransition k level s).evt.inp } } := by
  by_cases h : Tbl.get false s.evt.gate k = level
  · rw [gateTransition_same h]; rfl
  · rw [gateTransition_changes h]
    exact (armOneShot_eq level _ _).trans (congrArg (fun u : State => { u with evt := { u.evt with inp := (armOneShot level (armOneShot level (gateSet k level s) (2 * k)) (2 * k + 1)).evt.inp } })
      (armOneShot_eq level (gateSet k level s) (2 * k)))

theorem evtIn_gateTransition {k : Nat} {level : Bool} {s : State} (n : Nat) (h : Tbl.get false s.evt.gate k ≠ level) : (gateTransition k level s).evtIn n =
    if (n = 2 * k ∨ n = 2 * k + 1) ∧ s.fld (R.EVT_CFG_GATE_MODE n) = 2 ∧ s.flag (R.EVT_CFG_GATE_POL n) = level then { s.evtIn n with armed := true }
    else s.evtIn n := by
  have hregs : (gateSet k level s).regs = s.regs := rfl
  have hset : (gateSet k level s).evtIn n = s.evtIn n := rfl
  rw [gateTransition_changes h, evtIn_armOneShot, evtIn_armOneShot, State.fld_congr (regs_armOneShot ..), flag_congr (regs_armOneShot ..),
    State.fld_congr hregs, flag_congr hregs, hset]
  grind

/-! Queue reads (R61, R68). -/

/-- What the read of a popped entry returns, and the words it latches. -/
theorem popWords_spec (path : Path) (off w0 : Nat) {w1 w2 w3 : Nat} (s : State) (h1 : w1 < 2 ^ 32) (h2 : w2 < 2 ^ 32) (h3 : w3 < 2 ^ 32) :
    popWords path off [w0, w1, w2, w3] s =
      { s with regs := (popWords path off [w0, w1, w2, w3] s).regs, rep := { s.rep with out := .regRead path off w0 :: s.rep.out } } ∧
    (popWords path off [w0, w1, w2, w3] s).wordN (off + 4) = w1 ∧ (popWords path off [w0, w1, w2, w3] s).wordN (off + 8) = w2 ∧
    (popWords path off [w0, w1, w2, w3] s).wordN (off + 12) = w3 ∧ WordsKept s (popWords path off [w0, w1, w2, w3] s) [off + 4, off + 8, off + 12] := by
  have hregs : (popWords path off [w0, w1, w2, w3] s).regs = (((s.setWord (off + 4) w1).setWord (off + 8) w2).setWord (off + 12) w3).regs := rfl
  refine ⟨rfl, ?_, ?_, ?_, fun o ho => ?_⟩
  · simpa [State.wordN_congr hregs, State.wordN_setWord] using h1
  · simpa [State.wordN_congr hregs, State.wordN_setWord] using h2
  · simpa [State.wordN_congr hregs, State.wordN_setWord] using h3
  · simp only [List.mem_cons, List.not_mem_nil, or_false, not_or] at ho
    obtain ⟨ho4, ho8, ho12⟩ := ho
    rw [State.word_congr hregs, State.word_setWord_ne _ _ (Ne.symm ho12), State.word_setWord_ne _ _ (Ne.symm ho8), State.word_setWord_ne _ _ (Ne.symm ho4)]

theorem evtPop_empty {path : Path} {n : Nat} {s : State} (h : (s.evtIn n).q = []) :
    evtPop path n s = popWords path (R.EVT_QPOP n 0) [0, 0, 0, 0] s := by
  unfold evtPop
  dsimp only
  rw [h]

/-- The four words of an edge entry (R61). -/
theorem evtPop_entry {path : Path} {n : Nat} {s : State} {e : EvtEntry} {q : List EvtEntry} (h : (s.evtIn n).q = e :: q) :
    evtPop path n s = popWords path (R.EVT_QPOP n 0)
      [e.seq * 2 ^ 24 + 2 ^ 23 + b2n e.loss * 2 ^ 22 + b2n e.stale * 2 ^ 21 + b2n e.coast * 2 ^ 20 + b2n e.falling * 2 ^ 19 + n * 2 ^ 16 + e.dt.toNat % 65536,
        bits (dtPack e.dt.toNat) 47 16, bits (dtPack e.dt.toNat) 79 48, bits (dtPack e.dt.toNat) 95 80]
      (s.setEvt n { s.evtIn n with q := q }) := by
  unfold evtPop
  dsimp only
  rw [h, ← bits_dtPack_frac]
  rfl

/-- The four words of an interval record (R68). -/
theorem pairPop_record {path : Path} {k : Nat} {s : State} {r : PairRec} {q : List PairRec} (h : (s.pairSt k).q = r :: q) :
    pairPop path k s = popWords path (R.PAIR_QPOP k 0)
      [1 + 2 * b2n r.unres + 4 * b2n r.order + 8 * b2n r.rearm + 16 * b2n r.coast + 32 * b2n r.stale + 64 * b2n r.loss + r.startSeq * 2 ^ 8 + r.stopSeq * 2 ^ 16,
        bits (enc 64 r.interval) 31 0, bits (enc 64 r.interval) 63 32, 0]
      (s.setPair' k { s.pairSt k with q := q }) := by
  unfold pairPop
  dsimp only
  rw [h]
  rfl

theorem bits_halves {x : Nat} (h : x < 2 ^ 64) : bits x 31 0 + 2 ^ 32 * bits x 63 32 = x := by
  simp only [bits]; omega

end Sys2Proof.Machine

open Sys2Proof Sys2Proof.Machine Sys2Proof.Claims

/-- Settles O8: what the writes of the two registers, a gate transition and the queue reads leave. -/
theorem eventRegistersAndQueues : Obligations.EventRegistersAndQueues := by
  unfold Obligations.EventRegistersAndQueues
  intro s n k val be level path e q r pq
  refine ⟨⟨_, rfl, ?evtCfg⟩, ⟨_, rfl, ?pairCfg⟩, fun hw => ⟨_, rfl, fun hen => ?enabled, fun hen ho => ?disabled, fun hen ho => ?orphaned⟩,
    ⟨_, rfl, gateTransition_eq k level s, fun hn hg hm hp => ?arms, fun hn => ?leaves⟩, fun hq => ⟨_, congrArg Host.Outcome.next (evtPop_entry hq), ?entry⟩,
    fun hq => ⟨_, congrArg Host.Outcome.next (evtPop_empty hq), ?empty⟩, fun hq => ⟨_, congrArg Host.Outcome.next (pairPop_record hq), ?record⟩⟩
  case evtCfg =>
    have hregs : (evtCfgWrite n val.toNat be.toNat s).regs = (writeFields (R.EVT_CFG n) val.toNat be.toNat s).regs := by rw [evtCfgWrite_eq]
    refine ⟨(State.wordN_congr hregs _).trans (wordN_writeFields_onlyRw _ _ s (onlyRw_evtCfg n)),
      fun o ho => (State.word_congr hregs o).trans (wordsKept_writeFields _ _ _ s o ho), (evtCfgWrite_eq ..).trans ?_⟩
    rw [hregs, writeFields_onlyRw _ _ s (onlyRw_evtCfg n)]
    rfl
  case pairCfg =>
    have hkept := wordsKept_pairCfgWrite k val.toNat be.toNat s
    have hcfg : R.PAIR_CFG k ∉ [R.PAIR_ORPHAN k] := fun h => pairCfg_notMem k (List.mem_cons.mpr (.inl (List.mem_singleton.mp h)))
    refine ⟨(wordN_of_kept hkept hcfg).trans (wordN_pairCfgSet ..), fun o ho => ?_, wait_pairCfgWrite .., fun hen => ?_⟩
    · exact (hkept o fun h => ho (by simp_all)).trans (wordsKept_pairCfgSet k _ _ s o ho)
    · rw [pairCfgWrite_disabled ((flag_en_pairCfgWrite ..).symm.trans hen), pairSt_orphanDiscard, startCleared, pairSt_setPair'_same]
      exact ⟨rfl, rfl⟩
  case enabled => rw [pairCfgWrite_enabled ((flag_en_pairCfgWrite ..).symm.trans hen), pairCfgSet_eq k _ _ hw]
  case disabled =>
    rw [pairCfgWrite_disabled ((flag_en_pairCfgWrite ..).symm.trans hen), orphanDiscard_none ((orphan_startCleared k _ _ hw).trans ho)]
    exact startCleared_eq k _ _ hw
  case orphaned =>
    have hdis := pairCfgWrite_disabled ((flag_en_pairCfgWrite ..).symm.trans hen)
    obtain ⟨-, hcnt, -, hraised, hframe⟩ := orphanDiscard_held (by rwa [orphan_startCleared k _ _ hw]) hdis
    refine ⟨by rw [hcnt, orphanCount_startCleared k _ _ hw], ⟨hraised, hframe.congr_left ?_⟩, pairCfgWrite_frame ..⟩
    rw [startCleared_eq k _ _ hw]
  case arms => exact (evtIn_gateTransition n hg).trans (if_pos ⟨hn, hm, hp⟩)
  case leaves =>
    by_cases hg : Tbl.get false s.evt.gate k = level
    · exact (congrArg (State.evtIn · n) (gateTransition_same hg)).trans rfl
    · refine (evtIn_gateTransition n hg).trans (if_neg ?_)
      tauto
  case entry => exact popWords_spec path _ _ (s.setEvt n _) (bits_lt ..) (bits_lt ..) (lt_trans (bits_lt ..) (by decide))
  case empty =>
    obtain ⟨heq, hw1, hw2, hw3, -⟩ := popWords_spec path (R.EVT_QPOP n 0) 0 s (Nat.two_pow_pos 32) (Nat.two_pow_pos 32) (Nat.two_pow_pos 32)
    exact ⟨heq, hw1, hw2, hw3⟩
  case record =>
    have hlo : bits (enc 64 r.interval) 31 0 < 2 ^ 32 := bits_lt ..
    have hhi : bits (enc 64 r.interval) 63 32 < 2 ^ 32 := bits_lt ..
    obtain ⟨heq, hw1, hw2, hw3, hkept⟩ := popWords_spec path (R.PAIR_QPOP k 0) _ (s.setPair' k { s.pairSt k with q := pq }) hlo hhi (Nat.two_pow_pos 32)
    exact ⟨heq, by rw [hw1, hw2, bits_halves (enc_lt ..)], hw3, hkept⟩
end

section
/-! Calibration and FLUSH of the event unit (R65, R69, R70), and the clauses of `Obligations.EventCalibration`. -/

namespace Sys2Proof.Machine

open Sys2Proof.Claims

/-! Two's complement of an integer that fits. -/

theorem sext_enc {n : Nat} {x : Int} (hn : 0 < n) (hlo : -((2 ^ (n - 1) : Nat) : Int) ≤ x) (hhi : x < ((2 ^ (n - 1) : Nat) : Int)) : sext n (enc n x) = x := by
  obtain ⟨m, rfl⟩ : ∃ m, n = m + 1 := ⟨n - 1, by omega⟩
  have hpow : (2 : Nat) ^ (m + 1) = 2 * 2 ^ m := by rw [Nat.pow_succ]; omega
  have hpos : 0 < 2 ^ m := by positivity
  simp only [sext, Nat.mod_eq_of_lt (enc_lt _ x), Nat.add_sub_cancel] at *
  unfold enc
  rw [hpow]
  generalize 2 ^ m = p at *
  rcases lt_or_ge x 0 with h | h
  · have hmod : x % ((2 * p : Nat) : Int) = x + (2 * p : Nat) := by
      rw [← Int.add_emod_right]; exact Int.emod_eq_of_lt (by omega) (by omega)
    rw [hmod]; split <;> omega
  · have hmod : x % ((2 * p : Nat) : Int) = x := Int.emod_eq_of_lt h (by omega)
    rw [hmod]; split <;> omega

theorem clampsS_eq_false {n : Nat} {x : Int} (hlo : -((2 ^ (n - 1) : Nat) : Int) ≤ x) (hhi : x < ((2 ^ (n - 1) : Nat) : Int)) : clampsS n x = false := by
  simp only [clampsS, clampS, clampI, bne_eq_false_iff_eq]
  rw [if_neg (by omega), if_neg (by omega)]

theorem clampsS_eq_true {n : Nat} {x : Int} (h : x < -((2 ^ (n - 1) : Nat) : Int) ∨ ((2 ^ (n - 1) : Nat) : Int) ≤ x) : clampsS n x = true := by
  simp only [clampsS, clampS, clampI, bne_iff_ne]
  have hpos : 0 < 2 ^ (n - 1) := by positivity
  split_ifs <;> omega

/-- A trim is held in its 12 bits where it lies between their ends. -/
theorem trimOk_eq (t : Int) : trimOk t = (decide (-2048 ≤ t) && decide (t ≤ 2047)) := by
  have hpow : 2 ^ (12 - 1) = 2048 := rfl
  by_cases h : -2048 ≤ t ∧ t ≤ 2047
  · rw [trimOk, clampsS_eq_false (by omega) (by omega), decide_eq_true h.1, decide_eq_true h.2]; rfl
  · rw [trimOk, clampsS_eq_true (by omega), ← Bool.decide_and, decide_eq_false h]; rfl

/-! CAL and FLUSH (R69). -/

theorem evtCalCmd_starts {s : State} (h : s.evt.cal = []) (hm : s.wordN R.EVT_CMD_MASK ≠ 0) :
    evtCalCmd s = (.ok, { s with evt := { s.evt with cal := (List.range 9).filter (fun i => bitAt (s.wordN R.EVT_CMD_MASK) i) } }) := by
  simp [evtCalCmd, h, hm]

theorem evtCalCmd_empty {s : State} (h : s.evt.cal = []) (hm : s.wordN R.EVT_CMD_MASK = 0) : evtCalCmd s = (.range, s) := by
  simp [evtCalCmd, h, hm, refuse]

theorem evtCalCmd_running {s : State} (h : s.evt.cal ≠ []) : evtCalCmd s = (.busy, s) := by
  simp [evtCalCmd, h, refuse]

theorem exec_evtCal {s u : State} {c : Code} (hb : s.cmdBusy hEvt = false) (h : evtCalCmd s = (c, u)) : exec .evtCal s = .next (finish hEvt 1 c u) :=
  congrArg Host.Outcome.next (runCmd_of hb h)

/-- The queues of the inputs named in `m` are emptied. -/
def inputsFlushed (m : Nat) (l : List Nat) (s : State) : State := l.foldl (fun s n => if bitAt m n then s.setEvt n { s.evtIn n with q := [] } else s) s

/-- The queues of the pairing units whose inputs are named in `m` are emptied. -/
def pairsFlushed (m : Nat) (l : List Nat) (s : State) : State :=
  l.foldl (fun s k => if bitAt m (2 * k) then s.setPair' k { s.pairSt k with q := [] } else s) s

theorem inputsFlushed_eq (m : Nat) (l : List Nat) (s : State) :
    inputsFlushed m l s = { s with evt := { s.evt with inp := (inputsFlushed m l s).evt.inp } } := by
  refine List.foldlRecOn (motive := fun t : State => t = { s with evt := { s.evt with inp := t.evt.inp } }) l _ rfl fun t ht n _ => ?_
  split
  · exact congrArg (fun u : State => u.setEvt n { t.evtIn n with q := [] }) ht
  · exact ht

theorem pairsFlushed_eq (m : Nat) (l : List Nat) (s : State) :
    pairsFlushed m l s = { s with evt := { s.evt with pair := (pairsFlushed m l s).evt.pair } } := by
  refine List.foldlRecOn (motive := fun t : State => t = { s with evt := { s.evt with pair := t.evt.pair } }) l _ rfl fun t ht k _ => ?_
  split
  · exact congrArg (fun u : State => u.setPair' k { t.pairSt k with q := [] }) ht
  · exact ht

/-- A part of the state that is changed at each place of a list, under a condition on the place, by a function that does nothing the second time. -/
theorem get_foldl_setIf {α : Type} {get : State → Nat → α} {set : State → Nat → α → State} (hget : ∀ s i x j, get (set s i x) j = if i = j then x else get s j)
    {f : α → α} (hf : ∀ x, f (f x) = f x) (p : Nat → Bool) (l : List Nat) (s : State) (n : Nat) :
    get (l.foldl (fun s i => if p i then set s i (f (get s i)) else s) s) n = if n ∈ l ∧ p n = true then f (get s n) else get s n := by
  induction l generalizing s with
  | nil => simp
  | cons i l ih =>
    have hstep : get (if p i then set s i (f (get s i)) else s) n = if i = n ∧ p n = true then f (get s n) else get s n := by
      rw [apply_ite (get · n), hget]
      grind
    rw [List.foldl_cons, ih, hstep]
    grind

theorem evtIn_inputsFlushed (m : Nat) (l : List Nat) (s : State) (n : Nat) :
    (inputsFlushed m l s).evtIn n = if n ∈ l ∧ bitAt m n = true then { s.evtIn n with q := [] } else s.evtIn n :=
  get_foldl_setIf (get := State.evtIn) (set := State.setEvt) (f := fun x => { x with q := [] }) (fun _ _ _ _ => Tbl.get_set ..) (fun _ => rfl) (bitAt m) l s n

theorem pairSt_pairsFlushed (m : Nat) (l : List Nat) (s : State) (k : Nat) :
    (pairsFlushed m l s).pairSt k = if k ∈ l ∧ bitAt m (2 * k) = true then { s.pairSt k with q := [] } else s.pairSt k :=
  get_foldl_setIf (get := State.pairSt) (set := State.setPair') (f := fun x => { x with q := [] }) (fun _ _ _ _ => Tbl.get_set ..) (fun _ => rfl)
    (fun k => bitAt m (2 * k)) l s k

/-- FLUSH has emptied the queues that EVT_CMD_MASK names. -/
def flushed (s : State) : State :=
  pairsFlushed (s.wordN R.EVT_CMD_MASK) (List.range 4) (inputsFlushed (s.wordN R.EVT_CMD_MASK) (List.range 8) s)

theorem flushed_eq (s : State) : flushed s = { s with evt := { s.evt with inp := (flushed s).evt.inp, pair := (flushed s).evt.pair } } := by
  have hinp : (flushed s).evt.inp = (inputsFlushed (s.wordN R.EVT_CMD_MASK) (List.range 8) s).evt.inp := by rw [flushed, pairsFlushed_eq]
  rw [hinp]
  exact (pairsFlushed_eq ..).trans (congrArg (fun u : State => { u with evt := { u.evt with pair := (flushed s).evt.pair } }) (inputsFlushed_eq ..))

theorem exec_flush {s : State} (hb : s.cmdBusy hEvt = false) : exec .flush s = .next (finish hEvt 2 .ok (flushed s)) :=
  congrArg Host.Outcome.next (runCmd_of hb rfl)

theorem evtIn_flushed {n : Nat} (s : State) (hn : n < 8) :
    (flushed s).evtIn n = if bitAt (s.wordN R.EVT_CMD_MASK) n then { s.evtIn n with q := [] } else s.evtIn n := by
  have hpair : (flushed s).evtIn n = (inputsFlushed (s.wordN R.EVT_CMD_MASK) (List.range 8) s).evtIn n := by rw [flushed, pairsFlushed_eq]; rfl
  rw [hpair, evtIn_inputsFlushed]
  simp only [List.mem_range, hn, true_and]

theorem pairSt_flushed {k : Nat} (s : State) (hk : k < 4) :
    (flushed s).pairSt k = if bitAt (s.wordN R.EVT_CMD_MASK) (2 * k) then { s.pairSt k with q := [] } else s.pairSt k := by
  have hinp : (inputsFlushed (s.wordN R.EVT_CMD_MASK) (List.range 8) s).pairSt k = s.pairSt k := by rw [inputsFlushed_eq]; rfl
  rw [flushed, pairSt_pairsFlushed, hinp]
  simp only [List.mem_range, hk, true_and]

/-! The end of one input's calibration (R65, R107). -/

/-- The trims of set `n` are in force. -/
def trimsLoaded (n : Nat) (l : List (Int × Nat)) (s : State) : State := l.foldl (fun s t => s.setWord (R.EVT_TRIM n t.2) (enc 12 t.1)) s

theorem evtTrim_inj {n p q : Nat} (h : R.EVT_TRIM n p = R.EVT_TRIM n q) : p = q := by unfold R.EVT_TRIM at h; omega

theorem trimsLoaded_eq (n : Nat) (l : List (Int × Nat)) (s : State) : trimsLoaded n l s = { s with regs := (trimsLoaded n l s).regs } := by
  refine List.foldlRecOn (motive := fun t : State => t = { s with regs := t.regs }) l _ rfl fun t ht e _ => ?_
  exact congrArg (fun u : State => { u with regs := (t.setWord (R.EVT_TRIM n e.2) (enc 12 e.1)).regs }) ht

theorem wordsKept_trimsLoaded (n : Nat) (l : List (Int × Nat)) (s : State) : WordsKept s (trimsLoaded n l s) (l.map fun e => R.EVT_TRIM n e.2) := by
  refine List.foldlRecOn (motive := fun t : State => WordsKept s t _) l _ (fun _ _ => rfl) fun t ht e he o ho => ?_
  have hne : R.EVT_TRIM n e.2 ≠ o := fun h => ho (h ▸ List.mem_map.mpr ⟨e, he, rfl⟩)
  exact (State.word_setWord_ne t _ hne).trans (ht o ho)

/-- Each tap has its trim, where no tap is named twice. -/
theorem wordN_trimsLoaded {n p : Nat} {x : Int} {l : List (Int × Nat)} (s : State) (hl : (l.map Prod.snd).Nodup) (h : (x, p) ∈ l) :
    (trimsLoaded n l s).wordN (R.EVT_TRIM n p) = enc 12 x := by
  induction l generalizing s with
  | nil => cases h
  | cons e l ih =>
    obtain ⟨hnot, hl⟩ := List.nodup_cons.mp hl
    rcases List.mem_cons.mp h with rfl | h
    · have hkept : R.EVT_TRIM n p ∉ l.map fun e => R.EVT_TRIM n e.2 := fun hm => by
        obtain ⟨e, he, heq⟩ := List.mem_map.mp hm
        exact hnot (List.mem_map.mpr ⟨e, he, evtTrim_inj heq⟩)
      refine (wordN_of_kept (wordsKept_trimsLoaded n l (s.setWord (R.EVT_TRIM n p) (enc 12 x))) hkept).trans ?_
      rw [State.wordN_setWord, if_pos rfl]
      exact Nat.mod_eq_of_lt (lt_trans (enc_lt 12 x) (by decide))
    · exact ih _ hl h

/-- The next input or none is under calibration. -/
def calAdvanced (rest : List Nat) (s : State) : State := { s with evt := { s.evt with cal := rest } }

/-- Trims and skew of set `n` are in force and journalled. -/
def calLoaded (n : Nat) (trims : List Int) (skew : Int) (s : State) : State :=
  journal 3 n (trims ++ [skew]) ((trimsLoaded n (trims.zip (List.range 16)) s).setWord (skewOff n) (enc 32 skew))

/-- The last input's calibration ends that of CAL. -/
def calReported (rest : List Nat) (s : State) : State := if rest.isEmpty then raise hEvt 14 s else s

theorem evtCalInputEnd_loads {s : State} {n : Nat} {rest : List Nat} {trims : List Int} {skew : Int} (h : s.evt.cal = n :: rest)
    (ht : trims.all trimOk = true) (hs : clampsS 32 skew = false) :
    evtCalInputEnd trims skew s = calReported rest (calLoaded n trims skew (calAdvanced rest s)) := by
  unfold evtCalInputEnd
  rw [h]
  dsimp only
  rw [ht, hs]
  rfl

theorem evtCalInputEnd_rejects {s : State} {n : Nat} {rest : List Nat} {trims : List Int} (skew : Int) (h : s.evt.cal = n :: rest)
    (ht : trims.all trimOk = false) : evtCalInputEnd trims skew s = calReported rest (calAdvanced rest s) := by
  unfold evtCalInputEnd
  rw [h]
  dsimp only
  rw [ht]
  rfl

theorem calReported_eq (rest : List Nat) (s : State) : calReported rest s = { s with rep := (calReported rest s).rep } := by
  unfold calReported
  split <;> rfl

/-- Event 14 where no input is left. -/
theorem calReported_event {s u : State} (rest : List Nat) (hu : u.rep = s.rep) :
    (rest = [] → Event hEvt 14 s (calReported rest u)) ∧ (rest ≠ [] → (calReported rest u).rep = s.rep) := by
  constructor
  · rintro rfl
    exact ⟨raise_raised .., (raise_frame ..).congr_left hu⟩
  · intro hr
    rw [calReported, if_neg (by simpa using hr), hu]

theorem calLoaded_eq {n : Nat} {trims : List Int} {skew : Int} {s u : State} (hu : u = calLoaded n trims skew s) :
    u = { s with regs := u.regs, jq := s.jq.filter (fun j => !(j.typ == 3 && j.key == n)) ++ [{ typ := 3, key := n, vals := trims ++ [skew] }] } := by
  subst hu
  have h := trimsLoaded_eq n (trims.zip (List.range 16)) s
  exact congrArg (fun u : State => { journal 3 n (trims ++ [skew]) u with regs := (calLoaded n trims skew s).regs }) h

theorem regs_calLoaded (n : Nat) (trims : List Int) (skew : Int) (s : State) :
    (calLoaded n trims skew s).regs = ((trimsLoaded n (trims.zip (List.range 16)) s).setWord (skewOff n) (enc 32 skew)).regs := rfl

theorem skewOff_ne_evtTrim (n p : Nat) : skewOff n ≠ R.EVT_TRIM n p := by
  unfold skewOff R.EVT_TRIM R.EVT_PPS_SKEW R.EVT_SKEW
  split <;> omega

theorem wordN_skew_calLoaded (n : Nat) (trims : List Int) (skew : Int) (s : State) : (calLoaded n trims skew s).wordN (skewOff n) = enc 32 skew := by
  rw [State.wordN_congr (regs_calLoaded ..), wordN_setWord_enc]

theorem wordN_trim_calLoaded {n : Nat} {trims : List Int} (skew : Int) (s : State) (p : Fin 16) (ht : trims.length = 16) :
    (calLoaded n trims skew s).wordN (R.EVT_TRIM n p) = enc 12 (trims.getD p 0) := by
  have hp : p.val < trims.length := by omega
  rw [State.wordN_congr (regs_calLoaded ..), wordN_setWord_ne _ _ (skewOff_ne_evtTrim n p)]
  refine wordN_trimsLoaded s ?_ ?_
  · rw [List.map_snd_zip (by simp [ht])]
    exact List.nodup_range
  · rw [List.getD_eq_getElem _ _ hp]
    exact List.mem_iff_getElem.mpr ⟨p, by simp [ht], by simp⟩

theorem wordsKept_calLoaded (n : Nat) (trims : List Int) (skew : Int) (s : State) :
    WordsKept s (calLoaded n trims skew s) (skewOff n :: (List.range 16).map (R.EVT_TRIM n)) := fun o ho => by
  obtain ⟨hskew, htrim⟩ := not_or.mp (mt List.mem_cons.mpr ho)
  rw [State.word_congr (regs_calLoaded ..), State.word_setWord_ne _ _ (Ne.symm hskew)]
  refine wordsKept_trimsLoaded n _ s o fun hm => htrim ?_
  obtain ⟨⟨x, q⟩, he, rfl⟩ := List.mem_map.mp hm
  exact List.mem_map_of_mem (List.of_mem_zip he).2

end Sys2Proof.Machine

open Sys2Proof Sys2Proof.Machine Sys2Proof.Claims

/-- Settles O9: what CAL, FLUSH and the end of an input's calibration leave. -/
theorem eventCalibration : Obligations.EventCalibration := by
  unfold Obligations.EventCalibration
  intro s n m rest trims skew p
  refine ⟨fun hb hc hm => ⟨_, exec_evtCal hb (evtCalCmd_starts hc hm), finish_eq .., finished_finish_of hEvt 1 .ok rfl⟩,
    fun hb hc hm => ⟨_, exec_evtCal hb (evtCalCmd_empty hc hm), turnedAway_finish ..⟩,
    fun hb hc => ⟨_, exec_evtCal hb (evtCalCmd_running hc), turnedAway_finish ..⟩,
    fun hb => ⟨_, exec_flush hb, ?flush⟩, fun hc _ hlen hall hlo hhi => ?loads, fun hc hany => ?rejects⟩
  case flush =>
    have heq := flushed_eq s
    refine ⟨(finish_eq ..).trans ?_, finished_finish_of hEvt 2 .ok (by rw [heq]), ?_, ?_⟩
    · rw [finish_evt]
      exact congrArg (fun u : State => { u with rep := (finish hEvt 2 .ok (flushed s)).rep }) heq
    · exact fun hn => (evtIn_congr (finish_evt ..) n).trans (evtIn_flushed s hn)
    · exact fun hm => (pairSt_congr (finish_evt ..) m).trans (pairSt_flushed s hm)
  case loads =>
    have htrims : trims.all trimOk = true := by rwa [funext trimOk_eq]
    have hskew : clampsS 32 skew = false := clampsS_eq_false hlo (Int.lt_add_one_of_le hhi)
    obtain ⟨u, hu⟩ : ∃ u, u = calLoaded n trims skew (calAdvanced rest s) := ⟨_, rfl⟩
    have hload := calLoaded_eq hu
    have heq := calReported_eq rest u
    have hregs : (calReported rest u).regs = u.regs := by rw [heq]
    have hjq : (calReported rest u).jq = s.jq.filter (fun j => !(j.typ == 3 && j.key == n)) ++ [{ typ := 3, key := n, vals := trims ++ [skew] }] := by
      rw [heq, hload]; rfl
    refine ⟨calReported rest u, hu ▸ congrArg Host.Outcome.next (evtCalInputEnd_loads hc htrims hskew), ?_, ?_, ?_, hjq,
      fun o ho => (State.word_congr hregs o).trans (hu ▸ wordsKept_calLoaded n trims skew (calAdvanced rest s) o ho), calReported_event rest (by rw [hload]; rfl)⟩
    · rw [hregs, hjq]
      exact heq.trans (congrArg (fun w : State => { w with rep := (calReported rest u).rep }) hload)
    · have hmem : trims.getD p 0 ∈ trims := by
        rw [List.getD_eq_getElem _ _ (by omega)]
        exact List.getElem_mem _
      have hrange := List.all_eq_true.mp hall _ hmem
      simp only [Bool.and_eq_true, decide_eq_true_eq] at hrange
      rw [State.wordN_congr hregs, hu, wordN_trim_calLoaded skew _ p hlen]
      exact sext_enc (by decide) hrange.1 (Int.lt_add_one_of_le hrange.2)
    · rw [State.wordN_congr hregs, hu, wordN_skew_calLoaded]
      exact sext_enc (by decide) hlo (Int.lt_add_one_of_le hhi)
  case rejects =>
    have htrims : trims.all trimOk = false := by
      obtain ⟨t, ht, hout⟩ := List.any_eq_true.mp hany
      refine List.all_eq_false.mpr ⟨t, ht, ?_⟩
      rw [trimOk_eq]
      simp only [Bool.or_eq_true, Bool.and_eq_true, decide_eq_true_eq] at hout ⊢
      omega
    exact ⟨_, congrArg Host.Outcome.next (evtCalInputEnd_rejects skew hc htrims), calReported_eq .., calReported_event rest rfl⟩
end

section
/-! Edges of the inputs (R56 to R63): what a swing of the pins makes, which edges are accepted, and the clauses of `Obligations.EventEdges`. -/

namespace Sys2Proof.Machine

open Sys2Proof.Claims

/-! The comparator (R56). -/

theorem pinEdge_low {s : State} {n : Nat} {pin : PinSwing} (hx : (s.evtIn n).high = false) (h : pinLevel s n pin ≤ 5 * s.fld (R.EVT_CFG_HYST n)) :
    pinEdge s n pin = none := by
  simp [pinEdge, hx, Int.not_lt.mpr h]

theorem pinEdge_high {s : State} {n : Nat} {pin : PinSwing} (hx : (s.evtIn n).high = true) (h : -(5 * s.fld (R.EVT_CFG_HYST n)) ≤ pinLevel s n pin) :
    pinEdge s n pin = none := by
  simp [pinEdge, hx, Int.not_lt.mpr h]

theorem pinEdge_some {s : State} {n : Nat} {pin : PinSwing} {falling : Bool} (hx : (s.evtIn n).high = falling)
    (hr : falling = false → 5 * s.fld (R.EVT_CFG_HYST n) < pinLevel s n pin) (hf : falling = true → pinLevel s n pin < -(5 * s.fld (R.EVT_CFG_HYST n))) :
    pinEdge s n pin = some falling := by
  cases falling with
  | false => simp [pinEdge, hx, hr rfl]
  | true => simp [pinEdge, hx, hf rfl]

theorem evtEdge_none {s : State} {n : Nat} {pin : PinSwing} (tap : Nat) (near : Bool) (h : pinEdge s n pin = none) : evtEdge n tap pin near s = s := by
  rw [evtEdge, h]

/-- The comparator has switched at an edge. -/
def switched (n : Nat) (falling : Bool) (s : State) : State := s.setEvt n { s.evtIn n with high := !falling }

theorem evtEdge_some {s : State} {n : Nat} {pin : PinSwing} {falling : Bool} (tap : Nat) (near : Bool) (h : pinEdge s n pin = some falling) :
    evtEdge n tap pin near s = evtEdgeAt n tap falling near (switched n falling s) := by
  rw [evtEdge, h]
  rfl

/-! Selection, gate, dead time, hold-off and blanking (R57 to R60). -/

theorem edgeSelected_of {s : State} {n : Nat} {falling : Bool} (hf : falling = true → s.fld (R.EVT_CFG_EDGE n) = 1 ∨ s.fld (R.EVT_CFG_EDGE n) = 2)
    (hr : falling = false → s.fld (R.EVT_CFG_EDGE n) ≠ 1) : edgeSelected s n falling = true := by
  cases falling with
  | false => simp [edgeSelected, hr rfl]
  | true => rcases hf rfl with h | h <;> simp [edgeSelected, h]

theorem evtEdgeAt_disabled {s : State} {n : Nat} (tap : Nat) (falling near : Bool) (h : s.flag (R.EVT_CFG_EN n) = false) :
    evtEdgeAt n tap falling near s = s := by
  simp [evtEdgeAt, h]

/-- Away from its transitions a closed gate refuses an edge and nothing counts it. -/
theorem evtEdgeAt_closed {s : State} {n : Nat} (tap : Nat) (falling : Bool) (h : gateOpen s n = false) : evtEdgeAt n tap falling false s = s := by
  simp [evtEdgeAt, h, b2n]

/-- Are dead time and hold-off since the last accepted edge over, and the blanking? -/
def edgeDue (s : State) (n : Nat) : Bool :=
  (s.evtIn n).last.all (fun t => decide (t + 2 + s.fld (R.EVT_HOLDOFF_HOLDOFF n) ≤ s.tclk)) && decide ((s.evtIn n).blankEnd ≤ s.tclk)

/-- With the gate ignored, a selected edge is accepted when it is due, else counted as missed. -/
theorem evtEdgeAt_ungated {s : State} {n : Nat} {falling : Bool} (tap : Nat) (near : Bool) (hen : s.flag (R.EVT_CFG_EN n) = true)
    (hsel : edgeSelected s n falling = true) (hm : s.fld (R.EVT_CFG_GATE_MODE n) = 0 ∨ s.fld (R.EVT_CFG_GATE_MODE n) = 3) :
    evtEdgeAt n tap falling near s = if edgeDue s n then edgeAccept n tap falling s else s.bump64 (R.EVT_MISS n) 1 := by
  have h1 : s.fld (R.EVT_CFG_GATE_MODE n) ≠ 1 := by omega
  have h2 : s.fld (R.EVT_CFG_GATE_MODE n) ≠ 2 := by omega
  have hopen : gateOpen s n = true := by simp [gateOpen, h1, h2]
  have hbranch : evtEdgeAt n tap falling near s = if !edgeDue s n then s.bump64 (R.EVT_MISS n) 1 else edgeAccept n tap falling s := by
    cases hl : (s.evtIn n).last <;> simp [evtEdgeAt, edgeDue, hen, hsel, h1, h2, hopen, hl, b2n]
  rw [hbranch]
  cases edgeDue s n <;> rfl

theorem gateOpen_level {s : State} {n : Nat} (hm : s.fld (R.EVT_CFG_GATE_MODE n) = 1) (h : Tbl.get false s.evt.gate (n / 2) ≠ s.flag (R.EVT_CFG_GATE_POL n)) :
    gateOpen s n = false := by
  simp [gateOpen, hm, h]

theorem gateOpen_oneShot {s : State} {n : Nat} (hm : s.fld (R.EVT_CFG_GATE_MODE n) = 2) (h : (s.evtIn n).armed = false) : gateOpen s n = false := by
  simp [gateOpen, hm, h]

theorem evtIn_switched (n : Nat) (falling : Bool) (s : State) : (switched n falling s).evtIn n = { s.evtIn n with high := !falling } := evtIn_setEvt_same ..

/-! An accepted edge (R61 to R63). -/

theorem pairEdge_disabled {s : State} {n : Nat} (falling : Bool) (e : PairEdge) (h : s.flag (R.PAIR_CFG_EN (n / 2)) = false) : pairEdge n falling e s = s := by
  simp [pairEdge, h]

/-- The queue entry of an edge. -/
def edgeEntry (s : State) (n tap : Nat) (falling : Bool) : EvtEntry :=
  { seq := (s.evtIn n).seq % 256, loss := (s.evtIn n).loss, stale := s.evtCalBusy n, coast := s.coast, falling := falling, dt := edgeDt s n tap }

/-- The input after an accepted edge, but for its queue. -/
def edgeCounted (s : State) (n : Nat) : EvtIn :=
  { s.evtIn n with seq := (s.evtIn n).seq + 1, last := some s.tclk, armed := if s.fld (R.EVT_CFG_GATE_MODE n) = 2 then false else (s.evtIn n).armed }

/-- The Weir sequencers have the edge. -/
def toSequencers (n : Nat) (dt : Int) (s : State) : State := { s with weir := { s.weir with edges := (n, dt.toNat) :: s.weir.edges } }

/-- The edge is counted, and the input holds `z`. -/
def edgeStored (n : Nat) (z : EvtIn) (s : State) : State := (s.bump64 (R.EVT_ACC n) 1).setEvt n z

theorem pairCfg_notMem_evt {n k : Nat} (hn : n < 8) :
    R.PAIR_CFG k ∉ [R.EVT_ACC n, R.EVT_ACC n + 4, R.EVT_LOST n, R.EVT_LOST n + 4] := by
  simp only [R.PAIR_CFG, R.EVT_ACC, R.EVT_LOST, List.mem_cons, List.not_mem_nil, or_false]
  omega

theorem evtAcc_notMem (n : Nat) : R.EVT_ACC n ∉ [R.EVT_LOST n, R.EVT_LOST n + 4] ∧ R.EVT_ACC n + 4 ∉ [R.EVT_LOST n, R.EVT_LOST n + 4] := by
  simp only [R.EVT_ACC, R.EVT_LOST, List.mem_cons, List.not_mem_nil, or_false]
  omega

theorem evtLost_notMem (n : Nat) : R.EVT_LOST n ∉ [R.EVT_ACC n, R.EVT_ACC n + 4] ∧ R.EVT_LOST n + 4 ∉ [R.EVT_ACC n, R.EVT_ACC n + 4] := by
  simp only [R.EVT_ACC, R.EVT_LOST, List.mem_cons, List.not_mem_nil, or_false]
  omega

theorem edgeAccept_room {s : State} {n : Nat} (tap : Nat) (falling : Bool) (hn : n < 8) (hp : s.flag (R.PAIR_CFG_EN (n / 2)) = false)
    (hq : (s.evtIn n).q.length < 512) : edgeAccept n tap falling s = toSequencers n (edgeDt s n tap)
      (if (s.evtIn n).q.isEmpty then raise hEvt n (edgeStored n { edgeCounted s n with q := (s.evtIn n).q ++ [edgeEntry s n tap falling], loss := false } s)
       else edgeStored n { edgeCounted s n with q := (s.evtIn n).q ++ [edgeEntry s n tap falling], loss := false } s) := by
  have hacc := wordsKept_bump64 s (R.EVT_ACC n) 1
  have hflag : (s.bump64 (R.EVT_ACC n) 1).flag (R.PAIR_CFG_EN (n / 2)) = false :=
    (flag_of_kept hacc fun h => pairCfg_notMem_evt hn (List.mem_append_left [_, _] h)).trans hp
  unfold edgeAccept
  dsimp only
  rw [if_pos hq]
  refine (pairEdge_disabled _ _ ?_).trans rfl
  split
  · exact hflag
  · exact hflag

theorem edgeAccept_full {s : State} {n : Nat} (tap : Nat) (falling : Bool) (hn : n < 8) (hp : s.flag (R.PAIR_CFG_EN (n / 2)) = false)
    (hq : 512 ≤ (s.evtIn n).q.length) : edgeAccept n tap falling s = toSequencers n (edgeDt s n tap)
      (raise hEvt 12 ((edgeStored n { edgeCounted s n with loss := true } s).bump64 (R.EVT_LOST n) 1)) := by
  have hcnt := wordsKept_trans (wordsKept_bump64 s (R.EVT_ACC n) 1) (wordsKept_bump64 (s.bump64 (R.EVT_ACC n) 1) (R.EVT_LOST n) 1)
  have hflag : ((s.bump64 (R.EVT_ACC n) 1).bump64 (R.EVT_LOST n) 1).flag (R.PAIR_CFG_EN (n / 2)) = false :=
    (flag_of_kept hcnt (pairCfg_notMem_evt hn)).trans hp
  unfold edgeAccept
  dsimp only
  rw [if_neg (Nat.not_lt.mpr hq)]
  refine (pairEdge_disabled _ _ ?_).trans rfl
  exact hflag

theorem pair_congr {s t : State} (h : t.regs = s.regs) (o : Nat) : t.pair o = s.pair o := by
  rw [State.pair, State.pair, State.wordN_congr h, State.wordN_congr h]

/-- What an accepted edge leaves: input `n` holds `z`, EVTn_ACC has counted it, the sequencers have it. -/
structure EdgeTaken (n : Nat) (dt : Int) (z : EvtIn) (s t : State) : Prop where
  eq : t = { s.setEvt n z with weir := { s.weir with edges := (n, dt.toNat) :: s.weir.edges }, regs := t.regs, rep := t.rep }
  acc : t.pair (R.EVT_ACC n) = (s.pair (R.EVT_ACC n) + 1) % 2 ^ 64
  frame : RepFrame [] [(hEvt, n), (hEvt, 12)] [] s t

theorem edgeAccept_taken_room {s t : State} {n tap : Nat} {falling : Bool} (hn : n < 8) (hp : s.flag (R.PAIR_CFG_EN (n / 2)) = false)
    (hq : (s.evtIn n).q.length < 512) (ht : t = edgeAccept n tap falling s) :
    EdgeTaken n (edgeDt s n tap) { edgeCounted s n with q := (s.evtIn n).q ++ [edgeEntry s n tap falling], loss := false } s t ∧
    ((s.evtIn n).q = [] → Raised hEvt n t) ∧ WordsKept s t [R.EVT_ACC n, R.EVT_ACC n + 4] := by
  rw [edgeAccept_room tap falling hn hp hq] at ht
  subst ht
  have hacc := wordsKept_bump64 s (R.EVT_ACC n) 1
  split
  case isTrue =>
    exact ⟨⟨rfl, (pair_congr rfl _).trans (pair_bump64 ..), ((raise_frame hEvt n _).mono (by simp) (by simp) (by simp)).congr_left rfl⟩,
      fun _ => raise_raised .., fun o ho => (State.word_congr rfl o).trans (hacc o ho)⟩
  case isFalse h =>
    exact ⟨⟨rfl, (pair_congr rfl _).trans (pair_bump64 ..), .of_rep rfl⟩, fun hnil => absurd (List.isEmpty_iff.mpr hnil) h,
      fun o ho => (State.word_congr rfl o).trans (hacc o ho)⟩

theorem edgeAccept_taken_full {s t : State} {n tap : Nat} {falling : Bool} (hn : n < 8) (hp : s.flag (R.PAIR_CFG_EN (n / 2)) = false)
    (hq : 512 ≤ (s.evtIn n).q.length) (ht : t = edgeAccept n tap falling s) :
    EdgeTaken n (edgeDt s n tap) { edgeCounted s n with loss := true } s t ∧ t.pair (R.EVT_LOST n) = (s.pair (R.EVT_LOST n) + 1) % 2 ^ 64 ∧
    Raised hEvt 12 t ∧ WordsKept s t [R.EVT_ACC n, R.EVT_ACC n + 4, R.EVT_LOST n, R.EVT_LOST n + 4] := by
  rw [edgeAccept_full tap falling hn hp hq] at ht
  have hregs : t.regs = ((s.bump64 (R.EVT_ACC n) 1).bump64 (R.EVT_LOST n) 1).regs := by rw [ht]; rfl
  have hacc := wordsKept_bump64 s (R.EVT_ACC n) 1
  have hlost := wordsKept_bump64 (s.bump64 (R.EVT_ACC n) 1) (R.EVT_LOST n) 1
  refine ⟨⟨by rw [ht]; rfl, ?acc, ?frame⟩, ?lost, by rw [ht]; exact raise_raised .., fun o ho => (State.word_congr hregs o).trans (wordsKept_trans hacc hlost o ho)⟩
  case acc => rw [pair_congr hregs, pair_of_kept hlost (evtAcc_notMem n).1 (evtAcc_notMem n).2, pair_bump64]
  case lost => rw [pair_congr hregs, pair_bump64, pair_of_kept hacc (evtLost_notMem n).1 (evtLost_notMem n).2]
  case frame =>
    rw [ht]
    exact ((raise_frame hEvt 12 _).mono (by simp) (by simp) (by simp)).congr_left rfl

/-! What is left of the state in which the edge arrived. -/

namespace EdgeTaken

variable {n : Nat} {falling : Bool} {dt : Int} {z : EvtIn} {s t : State}

theorem evt_eq (h : EdgeTaken n dt z s t) : t.evt = { s.evt with inp := t.evt.inp } := by rw [h.eq]; rfl

theorem evtIn_same (h : EdgeTaken n dt z s t) : t.evtIn n = z := by rw [h.eq]; exact evtIn_setEvt_same ..

theorem evtIn_ne (h : EdgeTaken n dt z (switched n falling s) t) {m : Nat} (hm : m ≠ n) : t.evtIn m = s.evtIn m := by
  rw [h.eq]
  exact (evtIn_setEvt_ne _ _ hm.symm).trans (evtIn_setEvt_ne _ _ hm.symm)

theorem weir_eq (h : EdgeTaken n dt z s t) : t.weir = { s.weir with edges := (n, dt.toNat) :: s.weir.edges } := by rw [h.eq]

theorem state_eq (h : EdgeTaken n dt z s t) : t = { s with evt := t.evt, weir := t.weir, regs := t.regs, rep := t.rep } := by
  have hevt : t.evt = (s.setEvt n z).evt := by rw [h.eq]
  rw [hevt, h.weir_eq]
  exact h.eq

end EdgeTaken

theorem edgeCounted_switched (n : Nat) (falling : Bool) (s : State) : edgeCounted (switched n falling s) n =
    { s.evtIn n with seq := (s.evtIn n).seq + 1, last := some s.tclk, high := !falling,
                     armed := if s.fld (R.EVT_CFG_GATE_MODE n) = 2 then false else (s.evtIn n).armed } := by
  rw [edgeCounted, evtIn_switched]
  rfl

theorem edgeEntry_switched (n tap : Nat) (falling : Bool) (s : State) : edgeEntry (switched n falling s) n tap falling = edgeEntry s n tap falling := by
  rw [edgeEntry, evtIn_switched]
  rfl

end Sys2Proof.Machine

open Sys2Proof Sys2Proof.Machine Sys2Proof.Claims

/-- Settles O6: the branch that each swing of the pins takes, and what it leaves. -/
theorem eventEdges : Obligations.EventEdges := by
  unfold Obligations.EventEdges
  intro s n tap falling near pin v h x y hx hy hh hv
  subst hx hy hh
  replace hv : v = pinLevel s n pin := hv
  subst hv
  refine ⟨fun hlow hle => ⟨_, rfl, evtEdge_none _ _ (pinEdge_low hlow hle)⟩, fun hhigh hle => ⟨_, rfl, evtEdge_none _ _ (pinEdge_high hhigh hle)⟩,
    fun hlvl hrise hfall => ?edge⟩
  have hexec : exec (.evtEdge n tap pin near) s = .next (evtEdgeAt n tap falling near (switched n falling s)) :=
    congrArg Host.Outcome.next (evtEdge_some _ _ (pinEdge_some hlvl hrise hfall))
  refine ⟨fun hen => ⟨_, hexec, evtEdgeAt_disabled _ _ _ hen⟩, fun hen hselF hselR hpair => ?_⟩
  have hsel : edgeSelected (switched n falling s) n falling = true := edgeSelected_of hselF hselR
  have hdue : edgeDue (switched n falling s) n =
      ((s.evtIn n).last.all (fun t => decide (t + 2 + s.fld (R.EVT_HOLDOFF_HOLDOFF n) ≤ s.tclk)) && decide ((s.evtIn n).blankEnd ≤ s.tclk)) := by
    rw [edgeDue, evtIn_switched]; rfl
  refine ⟨fun hm hlast hblank => ?accepted, fun hm hearly => ?missed,
    fun hm hnear hg => ⟨_, hexec, ?level⟩, fun hm hnear ha => ⟨_, hexec, ?oneShot⟩⟩
  case accepted =>
    have hbranch := evtEdgeAt_ungated (s := switched n falling s) tap near hen hsel hm
    rw [hdue, hlast, decide_eq_true hblank, Bool.true_and, if_pos rfl] at hbranch
    obtain ⟨t, ht⟩ : ∃ t, t = edgeAccept n tap falling (switched n falling s) := ⟨_, rfl⟩
    refine ⟨t, by rw [hexec, hbranch, ht], ?_⟩
    have hothers (m : Fin 8) (hm : m ≠ n) : m.val ≠ n.val := Fin.val_ne_of_ne hm
    have hlen : ((switched n falling s).evtIn n).q.length = (s.evtIn n).q.length := by rw [evtIn_switched]
    rcases Nat.lt_or_ge (s.evtIn n).q.length 512 with hq | hq
    · obtain ⟨htaken, hraised, hwords⟩ := edgeAccept_taken_room (s := switched n falling s) n.isLt hpair (hlen ▸ hq) ht
      have hin := htaken.evtIn_same
      rw [edgeCounted_switched, edgeEntry_switched, evtIn_switched] at hin
      rw [evtIn_switched] at hraised
      exact ⟨htaken.acc, by rw [hin], by rw [hin], by rw [hin], htaken.weir_eq, fun _ => ⟨by rw [hin]; rfl, by rw [hin], hraised, hwords⟩,
        fun hfull => absurd hq (Nat.not_lt.mpr hfull), htaken.state_eq, htaken.evt_eq, fun m hm => htaken.evtIn_ne (hothers m hm), htaken.frame⟩
    · obtain ⟨htaken, hlost, hraised, hwords⟩ := edgeAccept_taken_full (s := switched n falling s) n.isLt hpair (hlen ▸ hq) ht
      have hin := htaken.evtIn_same
      rw [edgeCounted_switched] at hin
      exact ⟨htaken.acc, by rw [hin], by rw [hin], by rw [hin], htaken.weir_eq, fun hroom => absurd hroom (Nat.not_lt.mpr hq),
        fun _ => ⟨by rw [hin], by rw [hin], hlost, hraised, hwords⟩, htaken.state_eq, htaken.evt_eq, fun m hm => htaken.evtIn_ne (hothers m hm), htaken.frame⟩
  case missed =>
    have hbranch := evtEdgeAt_ungated (s := switched n falling s) tap near hen hsel hm
    have hnot : edgeDue (switched n falling s) n = false := by
      rw [hdue]
      rcases hearly with h | h
      · rw [h, Bool.false_and]
      · rw [decide_eq_false (Nat.not_le.mpr h), Bool.and_false]
    rw [hnot, if_neg Bool.false_ne_true] at hbranch
    exact ⟨_, by rw [hexec, hbranch], pair_bump64 (switched n falling s) _ _, rfl, wordsKept_bump64 (switched n falling s) _ _⟩
  case level =>
    subst hnear
    exact evtEdgeAt_closed tap falling (gateOpen_level (s := switched n falling s) hm hg)
  case oneShot =>
    subst hnear
    exact evtEdgeAt_closed tap falling (gateOpen_oneShot (s := switched n falling s) hm (by rw [evtIn_switched]; exact ha))
end

section
/-! What has left the module stays among the reports (R457, log entry 67): further reports only add to it. -/

namespace Sys2Proof.Machine

/-- Everything that had left the module in `r` has left it in `r'`. -/
def Sent (r r' : Rep) : Prop := r.out ⊆ r'.out

theorem Sent.refl (r : Rep) : Sent r r := List.Subset.refl _

theorem Sent.trans {a b c : Rep} (h : Sent a b) (k : Sent b c) : Sent a c := List.Subset.trans h k

theorem Sent.of_eq {r r' : Rep} (h : r'.out = r.out) : Sent r r' := fun o ho => (congrArg (o ∈ ·) h).mpr ho

/-- A fold of reports that each keep what was sent keeps it. -/
theorem sent_foldl {α : Type} {f : Rep × List (Nat × Nat) → α → Rep × List (Nat × Nat)} (hf : ∀ acc x, Sent acc.1 (f acc x).1) (l : List α)
    (acc : Rep × List (Nat × Nat)) : Sent acc.1 (l.foldl f acc).1 :=
  List.foldlRecOn (motive := fun a : Rep × List (Nat × Nat) => Sent acc.1 a.1) l f (.refl _) fun a h x _ => h.trans (hf a x)

theorem sent_histAdd (s : State) (r : Rep) (a b c : Nat) : Sent r (histAdd s r a b c).1 := by
  unfold histAdd
  split
  · exact .refl r
  · refine sent_foldl (fun acc x => ?_) _ (r, [])
    dsimp only
    split_ifs <;> exact .of_eq rfl

theorem sent_vecSend (s : State) (r : Rep) (v t : Nat) : Sent r (vecSend s r v t).1 := by
  unfold vecSend
  extract_lets r1
  have h1 : Sent r r1 := fun _ h => List.mem_cons_of_mem _ h
  exact h1.trans (sent_histAdd ..)

theorem sent_vecTrigger (s : State) (r : Rep) (v t : Nat) : Sent r (vecTrigger s r v t).1 := by
  unfold vecTrigger
  split
  · exact .of_eq rfl
  · split
    · exact sent_vecSend ..
    · exact .of_eq rfl

theorem sent_queueLog (r : Rep) (e : LogEntry) : Sent r (queueLog r e).1 := by
  unfold queueLog
  split <;> exact .of_eq rfl

theorem sent_edgeCount (s : State) (r : Rep) (h b : Nat) : Sent r (edgeCount s r h b).1 := by
  unfold edgeCount
  split
  · exact .refl r
  · refine sent_foldl (fun acc x => ?_) _ (r, [])
    dsimp only
    split_ifs <;> exact .of_eq rfl

theorem sent_lines (s : State) (ls : List Nat) (r : Rep) :
    Sent r (ls.foldl (fun r l => (lineCores s l).foldl (fun r c => evpSet s.cclk r c l) r) r) :=
  List.foldlRecOn (motive := Sent r) _ _ (.refl r) fun _ h _ _ =>
    h.trans (List.foldlRecOn (motive := Sent _) _ _ (.refl _) fun _ k _ _ => k)

theorem sent_postNotice (s : State) (r : Rep) (h b v : Nat) : Sent r (postNotice s r h b v) := by
  unfold postNotice
  extract_lets n e
  exact .of_eq rfl

theorem sent_deliver (s : State) (r : Rep) (h b : Nat) : Sent r (deliver s r h b).1 := by
  unfold deliver
  extract_lets rs logs sev a vecs bb lines r2 bks r3
  have ha : Sent r a.1 := by
    by_cases hc : (h ≠ hLog && !logs.isEmpty && decide (s.fld R.LOG_CFG_MIN_SEV ≤ sev)) = true
    · rw [show a = _ from if_pos hc]; exact sent_queueLog ..
    · rw [show a = _ from if_neg hc]; exact .refl r
  have hb : Sent r bb.1 := List.foldlRecOn (motive := fun acc : Rep × List (Nat × Nat) => Sent r acc.1) _ _ ha
    fun acc h v _ => h.trans (sent_vecTrigger s acc.1 v s.tclk)
  have h2 : Sent r r2 := hb.trans (sent_lines s lines bb.1)
  by_cases hk : bks.isEmpty = true
  · rw [show r3 = r2 from if_pos hk]; exact h2
  · rw [show r3 = _ from if_neg hk]; exact h2.trans (sent_postNotice ..)

theorem sent_occur (s : State) (r : Rep) (h b : Nat) : Sent r (occur s r h b).1 := by
  unfold occur
  extract_lets r1 a
  have ha : Sent r a.1 := sent_edgeCount s r1 h b
  split
  · exact ha
  · exact ha.trans (sent_deliver s a.1 h b)

theorem sent_runOcc (n : Nat) (s : State) (l : List (Nat × Nat)) (r : Rep) : Sent r (runOcc n s l r) := by
  induction n generalizing l r with
  | zero => exact .refl r
  | succ n ih =>
    cases l with
    | nil => exact .refl r
    | cons e t => exact (sent_occur s r e.1 e.2).trans (ih ..)

theorem sent_raise (h b : Nat) (s : State) : Sent s.rep (raise h b s).rep := sent_runOcc ..

theorem sent_addLog (h k v c a0 a1 : Nat) (s : State) : Sent s.rep (addLog h k v c a0 a1 s).rep := (sent_queueLog ..).trans (sent_runOcc ..)

theorem sent_emit (o : Out) (s : State) : Sent s.rep (s.emit o).rep := fun _ h => List.mem_cons_of_mem _ h

theorem sent_setFault (h b : Nat) (s : State) : Sent s.rep (setFault h b s).rep := by
  unfold setFault
  split
  · exact .refl _
  · exact (sent_addLog h 2 3 b _ 0 { s with rep := { s.rep with flt := Tbl.upd 0 s.rep.flt h (· ||| 2 ^ b) } })

theorem sent_putFault (h b : Nat) (v : Bool) (s : State) : Sent s.rep (putFault h b v s).rep := by
  cases v
  · exact .of_eq rfl
  · exact sent_setFault h b s

theorem sent_fwdReturn (h : Nat) (c : Code) (r : Rep) : Sent r (fwdReturn h c r) := by
  refine List.foldlRecOn (motive := Sent r) _ _ (.refl r) fun a k x _ => k.trans ?_
  split
  · exact .refl _
  · split
    · dsimp only
      split <;> exact .of_eq rfl
    · exact .refl _

theorem sent_finish (h code : Nat) (c : Code) (s : State) : Sent s.rep (finish h code c s).rep := by
  unfold finish
  dsimp only
  have h1 := sent_fwdReturn h c { s.rep with cmd := Tbl.set s.rep.cmd h { status := c.num, code := code, busy := false } }
  split
  · exact fun o ho => sent_addLog _ _ _ _ _ _ _ (h1 ho)
  · exact h1

end Sys2Proof.Machine
end

section
/-! FAULT words: what setting and clearing a bit leaves of the other bits, and what leaves a FAULT word. -/

namespace Sys2Proof.Machine

open Sys2Proof.Claims

theorem bitAt_eq_bits (x n : Nat) : bitAt x n = (bits x n n == 1) := by
  have h : n + 1 - n = 1 := by omega
  rw [bitAt, bits, h, Nat.pow_one]

/-- A bit put into a word, and the bits beside it. -/
theorem bitAt_putBits_bit (w b v n : Nat) : bitAt (putBits w b b v) n = if n = b then v % 2 == 1 else bitAt w n := by
  rw [bitAt_eq_bits, bitAt_eq_bits]
  rcases Nat.lt_trichotomy n b with h | h | h
  · rw [bits_putBits_below _ _ _ _ _ _ h (Nat.le_refl b), if_neg (by omega)]
  · have h1 : b + 1 - b = 1 := by omega
    rw [h, bits_putBits_same _ _ _ _ (Nat.le_refl b), if_pos rfl, h1, Nat.pow_one]
  · rw [bits_putBits_above _ _ _ _ _ _ h (Nat.le_refl b), if_neg (by omega)]

theorem faultBit_of_frame {c : List Nat} {e : List (Nat × Nat)} {s t : State} (h : RepFrame c e [] s t) (u b : Nat) : t.faultBit u b = s.faultBit u b :=
  congrArg (bitAt · b) (h.2.2.2 u (by simp))

theorem faultBit_setFault (h b u n : Nat) (s : State) : (setFault h b s).faultBit u n = if u = h ∧ n = b then true else s.faultBit u n := by
  split
  · rename_i e
    rw [e.1, e.2]
    exact setFault_sets h b s
  · rename_i hne
    by_cases hs : s.faultBit h b = true
    · rw [setFault, if_pos hs]
    · rw [setFault, if_neg hs]
      refine (faultBit_of_frame (addLog_frame ..) u n).trans ?_
      show bitAt (Tbl.get 0 (Tbl.upd 0 s.rep.flt h (· ||| 2 ^ b)) u) n = _
      rw [Tbl.get_upd]
      by_cases hu : h = u
      · have hb : b ≠ n := fun hb => hne ⟨hu.symm, hb.symm⟩
        rw [if_pos hu, bitAt_or_two_pow, hu]
        simp [hb, State.faultBit, State.faultOf]
      · rw [if_neg hu]
        rfl

theorem faultBit_clearFault (h b u n : Nat) (s : State) : (clearFault h b s).faultBit u n = if u = h ∧ n = b then false else s.faultBit u n := by
  show bitAt (Tbl.get 0 (Tbl.upd 0 s.rep.flt h (fun w => putBits w b b 0)) u) n = _
  rw [Tbl.get_upd]
  by_cases hu : h = u
  · subst hu
    rw [if_pos rfl, bitAt_putBits_bit]
    simp [State.faultBit, State.faultOf]
  · rw [if_neg hu, if_neg fun e => hu e.1.symm]
    rfl

theorem faultBit_putFault (h b u n : Nat) (v : Bool) (s : State) : (putFault h b v s).faultBit u n = if u = h ∧ n = b then v else s.faultBit u n := by
  cases v
  · exact faultBit_clearFault h b u n s
  · exact faultBit_setFault h b u n s

end Sys2Proof.Machine
end

section
/-! Ports and lanes of the ingress (spec/04): what writes leave of them, and the frame of the operations of a port: its words, those of STATUS where a calibration
that waits may start, ports, lanes, reports and the journal's queue. -/

namespace Sys2Proof.Machine

open Sys2Proof.Claims

/-! What a port and a lane hold after a write. -/

@[simp] theorem portSt_setPort_same (s : State) (p : Nat) (x : PortSt) : (s.setPort p x).portSt p = x := Tbl.get_set_same ..

theorem portSt_setPort_ne {p q : Nat} (s : State) (x : PortSt) (h : p ≠ q) : (s.setPort p x).portSt q = s.portSt q := Tbl.get_set_ne _ _ _ h

@[simp] theorem lane_setLane_same (s : State) (p l : Nat) (x : LaneSt) : (s.setLane p l x).lane p l = x := Tbl.get_set_same ..

theorem lane_setLane_ne {l m : Nat} (s : State) (p : Nat) (x : LaneSt) (h : l ≠ m) : (s.setLane p l x).lane p m = s.lane p m :=
  Tbl.get_set_ne _ _ _ (by omega)

@[simp] theorem portSt_setLane (s : State) (p l q : Nat) (x : LaneSt) : (s.setLane p l x).portSt q = s.portSt q := rfl

theorem portSt_congr {s t : State} (h : t.ing = s.ing) (p : Nat) : t.portSt p = s.portSt p := congrArg (fun i : Ing => Tbl.get PortSt.init i.port p) h

theorem lane_congr {s t : State} (h : t.ing = s.ing) (p l : Nat) : t.lane p l = s.lane p l :=
  congrArg (fun i : Ing => Tbl.get LaneSt.init i.lane (9 * p + l)) h

theorem jesd_congr {s t : State} {p : Nat} (h : (t.portSt p).link = (s.portSt p).link) : t.jesd p = s.jesd p := congrArg (bitAt · 1) h

/-! Fields of the lanes and ports where the words that change are known. -/

theorem lnSt_of_kept {s t : State} {ws : List Nat} {p l : Nat} (h : WordsKept s t ws) (hl : R.ING_LANE_STATUS p l ∉ ws) : t.lnSt p l = s.lnSt p l :=
  fld_of_kept h hl

theorem lnLogical_of_kept {s t : State} {ws : List Nat} {p l : Nat} (h : WordsKept s t ws) (hl : R.ING_LANE_STATUS p l ∉ ws) :
    t.lnLogical p l = s.lnLogical p l := fld_of_kept h hl

theorem wordsKept_setFld (s : State) (l : Loc) (v : Nat) : WordsKept s (s.setFld l v) [l.off] := wordsKept_setWord s l.off _

theorem wordsKept_setFlag (s : State) (l : Loc) (b : Bool) : WordsKept s (s.setFlag l b) [l.off] := wordsKept_setWord s l.off _

theorem wordsKept_mono {s t : State} {ws ws' : List Nat} (h : WordsKept s t ws) (hw : ws ⊆ ws') : WordsKept s t ws' := fun o ho => h o fun hm => ho (hw hm)

/-- Steps that each leave the words outside a list leave them together. -/
theorem wordsKept_step {s t u : State} {ws : List Nat} (h : WordsKept s t ws) (k : WordsKept t u ws) : WordsKept s u ws := fun o ho => (k o ho).trans (h o ho)

theorem wordsKept_foldl {α : Type} {f : State → α → State} {ws : List Nat} (l : List α) (s : State) (hf : ∀ t, ∀ x ∈ l, WordsKept t (f t x) ws) :
    WordsKept s (l.foldl f s) ws :=
  List.foldlRecOn (motive := fun t => WordsKept s t ws) l f (fun _ _ => rfl) fun t h x hx => wordsKept_step h (hf t x hx)

/-- What a fold over a list establishes at one element, under an invariant, and every step keeps holds at the end. -/
theorem foldl_establishes {α : Type} {f : State → α → State} {I P : State → Prop} {l : List α} {a : α} (ha : a ∈ l) (hI : ∀ t, ∀ x ∈ l, I t → I (f t x))
    (hdo : ∀ t, I t → P (f t a)) (hkeep : ∀ t, ∀ x ∈ l, I t → P t → P (f t x)) {s : State} (h : I s) : P (l.foldl f s) := by
  induction l generalizing s with
  | nil => exact absurd ha List.not_mem_nil
  | cons b t ih =>
    have hIb := hI s b List.mem_cons_self h
    have hIt : ∀ u, ∀ x ∈ t, I u → I (f u x) := fun u x hx => hI u x (List.mem_cons_of_mem _ hx)
    have hkt : ∀ u, ∀ x ∈ t, I u → P u → P (f u x) := fun u x hx => hkeep u x (List.mem_cons_of_mem _ hx)
    by_cases hat : a ∈ t
    · exact ih hat hIt hkt hIb
    · have hab : a = b := (List.mem_cons.mp ha).resolve_right hat
      subst hab
      have hboth := List.foldlRecOn (motive := fun u => I u ∧ P u) t f ⟨hIb, hdo s h⟩ fun u hu x hx => ⟨hIt u x hx hu.1, hkt u x hx hu.1 hu.2⟩
      exact hboth.2

/-! The frame. -/

/-- The word lies in the page of port `p`. -/
def InPage (p o : Nat) : Prop := hIng p ≤ o ∧ o < hIng p + 0x1000

/-- The words of STATUS of the four ports. -/
def statusWords : List Nat := (List.range 4).map R.ING_PORT_STATUS

theorem mem_statusWords {q : Nat} (h : q < 4) : R.ING_PORT_STATUS q ∈ statusWords := List.mem_map_of_mem (List.mem_range.mpr h)

theorem laneWord_notMem_status {o : Nat} (p : Fin 4) (h : hIng p + 0x100 ≤ o) (h' : o < hIng p + 0x1000) : o ∉ statusWords := by
  unfold statusWords R.ING_PORT_STATUS
  unfold hIng at h h'
  simp only [List.mem_map, List.mem_range, not_exists, not_and]
  intro q _ e
  omega

/-- What an operation of port `p` may change, events `evs` among the reports, and what has left the module stays. -/
structure PortStep (p : Fin 4) (evs : List (Nat × Nat)) (s t : State) : Prop where
  frame : PortFrame p evs s t
  sent : Sent s.rep t.rep

namespace PortStep

variable {p : Fin 4} {evs : List (Nat × Nat)} {s t u : State}

theorem refl (p : Fin 4) (evs : List (Nat × Nat)) (s : State) : PortStep p evs s s :=
  ⟨⟨rfl, fun _ _ _ => rfl, fun _ _ => rfl, .refl ..⟩, .refl _⟩

theorem trans (h : PortStep p evs s t) (k : PortStep p evs t u) : PortStep p evs s u := by
  obtain ⟨⟨h1, h2, h3, h4⟩, hs⟩ := h
  obtain ⟨⟨k1, k2, k3, k4⟩, ks⟩ := k
  refine ⟨⟨?_, fun q hq l => (k2 q hq l).trans (h2 q hq l), wordsWithin_trans h3 k3, (h4.trans k4).mono (by simp) (by simp) (by simp)⟩, hs.trans ks⟩
  exact k1.trans (congrArg (fun w : State => { w with ing := u.ing, regs := u.regs, rep := u.rep, jq := u.jq }) h1)

theorem mono {evs' : List (Nat × Nat)} (h : PortStep p evs s t) (he : evs ⊆ evs') : PortStep p evs' s t := by
  obtain ⟨⟨h1, h2, h3, h4⟩, hs⟩ := h
  exact ⟨⟨h1, h2, h3, h4.mono (by simp) he (by simp)⟩, hs⟩

/-- Reports alone change. -/
theorem of_rep {c : List Nat} {e : List (Nat × Nat)} {f : List Nat} (ht : t = { s with rep := t.rep }) (h : RepFrame c e f s t)
    (hc : c ⊆ hIng p :: basinsOf (hIng p)) (he : e ⊆ evs) (hf : f ⊆ [hIng p]) (hs : Sent s.rep t.rep) : PortStep p evs s t := by
  have hregs : t.regs = s.regs := by rw [ht]
  refine ⟨⟨?_, fun q _ l => State.word_congr hregs _, fun o _ => State.word_congr hregs o, h.mono hc he hf⟩, hs⟩
  have hing : t.ing = s.ing := by rw [ht]
  have hjq : t.jq = s.jq := by rw [ht]
  rw [hregs, hing, hjq]
  exact ht

/-- A word of the port's page, or of another port that shows no lane. -/
theorem setWord' (h : PortStep p evs s t) {o : Nat} (v : Nat) (hlo : 0x401000 ≤ o) (hhi : o < 0x405000)
    (hl : ∀ q : Fin 4, q ≠ p → ∀ l : Fin 9, o ≠ R.ING_LANE_STATUS q l) : PortStep p evs s (t.setWord o v) :=
  h.trans ⟨⟨rfl, fun q hq l => State.word_setWord_ne t v (hl q hq l), fun x hx => State.word_setWord_ne t v (by omega), .of_rep rfl⟩, .refl _⟩

theorem setWord (h : PortStep p evs s t) {o : Nat} (v : Nat) (ho : InPage p o) : PortStep p evs s (t.setWord o v) := by
  obtain ⟨h1, h2⟩ := ho
  unfold hIng at h1 h2
  refine h.setWord' v (by omega) (by omega) fun q hq l => ?_
  have hne : q.val ≠ p.val := fun e => hq (Fin.ext e)
  unfold R.ING_LANE_STATUS
  omega

theorem setFld (h : PortStep p evs s t) {l : Loc} (v : Nat) (ho : InPage p l.off) : PortStep p evs s (t.setFld l v) := h.setWord _ ho

theorem setFlag (h : PortStep p evs s t) {l : Loc} (b : Bool) (ho : InPage p l.off) : PortStep p evs s (t.setFlag l b) := h.setWord _ ho

theorem setPair (h : PortStep p evs s t) {o : Nat} (v : Nat) (ho : InPage p o) (ho4 : InPage p (o + 4)) : PortStep p evs s (t.setPair o v) :=
  (h.setWord _ ho).setWord _ ho4

theorem bump64 (h : PortStep p evs s t) {o : Nat} (k : Nat) (ho : InPage p o) (ho4 : InPage p (o + 4)) : PortStep p evs s (t.bump64 o k) :=
  h.setPair _ ho ho4

theorem withIng (h : PortStep p evs s t) (i : Ing) : PortStep p evs s { t with ing := i } :=
  h.trans ⟨⟨rfl, fun _ _ _ => rfl, fun _ _ => rfl, .of_rep rfl⟩, .refl _⟩

theorem setPort (h : PortStep p evs s t) (q : Nat) (x : PortSt) : PortStep p evs s (t.setPort q x) := h.withIng _

theorem setLane (h : PortStep p evs s t) (q l : Nat) (x : LaneSt) : PortStep p evs s (t.setLane q l x) := h.withIng _

theorem journal (h : PortStep p evs s t) (ty k : Nat) (v : List Int) : PortStep p evs s (journal ty k v t) :=
  h.trans ⟨⟨rfl, fun _ _ _ => rfl, fun _ _ => rfl, .of_rep rfl⟩, .refl _⟩

theorem raise (h : PortStep p evs s t) {b : Nat} (hb : (hIng p, b) ∈ evs) : PortStep p evs s (raise (hIng p) b t) :=
  h.trans (.of_rep rfl (raise_frame ..) (by simp) (by simpa using hb) (by simp) (sent_raise ..))

theorem addLog (h : PortStep p evs s t) (k v c a0 a1 : Nat) : PortStep p evs s (addLog (hIng p) k v c a0 a1 t) :=
  h.trans (.of_rep rfl (addLog_frame ..) (by simp) (by simp) (by simp) (sent_addLog ..))

theorem emit (h : PortStep p evs s t) (o : Out) : PortStep p evs s (t.emit o) :=
  h.trans (.of_rep rfl (emit_frame o t) (by simp) (by simp) (by simp) (sent_emit ..))

theorem putFault (h : PortStep p evs s t) (b : Nat) (v : Bool) : PortStep p evs s (putFault (hIng p) b v t) :=
  h.trans (.of_rep (putFault_eq ..) (putFault_frame ..) (by simp) (by simp) (by simp) (sent_putFault ..))

theorem setFault (h : PortStep p evs s t) (b : Nat) : PortStep p evs s (setFault (hIng p) b t) := h.putFault b true

theorem clearFault (h : PortStep p evs s t) (b : Nat) : PortStep p evs s (clearFault (hIng p) b t) := h.putFault b false

theorem finish (h : PortStep p evs s t) (code : Nat) (c : Code) : PortStep p evs s (finish (hIng p) code c t) :=
  h.trans (.of_rep (finish_eq ..) (finish_frame ..) (by simp) (by simp) (by simp) (sent_finish ..))

theorem foldl {α : Type} {f : State → α → State} (h : PortStep p evs s t) (l : List α) (hf : ∀ u, ∀ x ∈ l, PortStep p evs u (f u x)) :
    PortStep p evs s (l.foldl f t) :=
  List.foldlRecOn (motive := fun u => PortStep p evs s u) l f h fun u k x hx => k.trans (hf u x hx)

theorem raised (h : PortStep p evs s t) {u b : Nat} (hr : Raised u b s) : Raised u b t := hr.kept h.frame.2.2.2

end PortStep

theorem inPage_lane {p l k : Nat} (hl : l < 16) (hk : k < 0x40) : InPage p (R.ING_LANE_STATUS p l + k) := by
  unfold InPage hIng R.ING_LANE_STATUS
  omega

end Sys2Proof.Machine
end

section
/-! Lane states (R88, R111) and back-channel messages (R86, R87): what a change of a lane's state, and the sending of a message, make of the lane's status and leave. -/

namespace Sys2Proof.Machine

open Sys2Proof.Claims

/-! A lane changes state. -/

/-- The status bits that a lane's new state brings. -/
def laneShown (p l st : Nat) (s : State) : State :=
  let s1 := s.setFld (R.ING_LANE_STATUS_STATE p l) st
  let s2 := if st = lnReady ∨ st = lnActive then s1 else s1.setFlag (R.ING_LANE_STATUS_DEG p l) false
  if st = lnOff ∨ st = lnIdle then
    ((s2.setFlag (R.ING_LANE_STATUS_LOS p l) true).setFlag (R.ING_LANE_STATUS_LOL p l) true).setFlag (R.ING_LANE_STATUS_AM_LOCK p l) false
  else if st = lnDetect ∨ st = lnRetrain then (s2.setFlag (R.ING_LANE_STATUS_LOL p l) true).setFlag (R.ING_LANE_STATUS_AM_LOCK p l) false
  else if st = lnLock ∨ st = lnFailed then s2.setFlag (R.ING_LANE_STATUS_AM_LOCK p l) false
  else s2

theorem laneTo_eq (p l st : Nat) (s : State) : laneTo p l st s =
    let s4 := if s.lnSt p l = lnActive ∧ st ≠ lnActive then raise (hIng p) 0 (laneShown p l st s) else laneShown p l st s
    if st = lnReady ∧ s.lnSt p l ≠ lnReady then raise (hIng p) 1 s4 else s4 := rfl

/-- A property of the words that hold after each of the writes of a lane's new status holds after them. -/
theorem laneShown_of {P : State → Prop} (p l st : Nat) (s : State) (h : P (s.setFld (R.ING_LANE_STATUS_STATE p l) st))
    (hdeg : ∀ t, P t → P (t.setFlag (R.ING_LANE_STATUS_DEG p l) false)) (hlos : st = lnOff ∨ st = lnIdle → ∀ t, P t → P (t.setFlag (R.ING_LANE_STATUS_LOS p l) true))
    (hlol : ∀ t, P t → P (t.setFlag (R.ING_LANE_STATUS_LOL p l) true)) (ham : ∀ t, P t → P (t.setFlag (R.ING_LANE_STATUS_AM_LOCK p l) false)) :
    P (laneShown p l st s) := by
  unfold laneShown
  extract_lets s1 s2
  have h2 : P s2 := by
    by_cases hc : st = lnReady ∨ st = lnActive
    · rw [show s2 = s1 from if_pos hc]; exact h
    · rw [show s2 = _ from if_neg hc]; exact hdeg _ h
  split
  · rename_i hc
    exact ham _ (hlol _ (hlos hc _ h2))
  · split
    · exact ham _ (hlol _ h2)
    · split
      · exact ham _ h2
      · exact h2

theorem laneShown_eq (p l st : Nat) (s : State) : laneShown p l st s = { s with regs := (laneShown p l st s).regs } :=
  laneShown_of (P := fun t => t = { s with regs := t.regs }) p l st s rfl (fun _ h => h ▸ rfl) (fun _ _ h => h ▸ rfl) (fun _ h => h ▸ rfl) (fun _ h => h ▸ rfl)

theorem laneTo_regs (p l st : Nat) (s : State) : (laneTo p l st s).regs = (laneShown p l st s).regs := by
  rw [laneTo_eq]
  extract_lets s4
  have h4 : s4.regs = (laneShown p l st s).regs := by
    by_cases hc : s.lnSt p l = lnActive ∧ st ≠ lnActive
    · rw [show s4 = _ from if_pos hc]; rfl
    · rw [show s4 = _ from if_neg hc]
  split
  · exact h4
  · exact h4

/-- A lane that neither leaves ACTIVE nor reaches READY raises no event. -/
theorem laneTo_quiet {p l st : Nat} {s : State} (h0 : s.lnSt p l ≠ lnActive ∨ st = lnActive) (h1 : st ≠ lnReady) : laneTo p l st s = laneShown p l st s := by
  rw [laneTo_eq, if_neg (fun h : st = lnReady ∧ _ => h1 h.1), if_neg fun h => h0.elim (fun h' => h' h.1) h.2]

theorem laneTo_eq_regs_rep (p l st : Nat) (s : State) : laneTo p l st s = { s with regs := (laneTo p l st s).regs, rep := (laneTo p l st s).rep } := by
  have h := eq_regs_rep (laneShown_eq p l st s)
  rw [laneTo_eq]
  dsimp only
  split_ifs
  exacts [raise_eq_of _ _ (raise_eq_of _ _ h), raise_eq_of _ _ h, raise_eq_of _ _ h, h]

@[simp] theorem laneTo_ing (p l st : Nat) (s : State) : (laneTo p l st s).ing = s.ing := by rw [laneTo_eq_regs_rep]

@[simp] theorem portSt_laneTo (p l st q : Nat) (s : State) : (laneTo p l st s).portSt q = s.portSt q := portSt_congr (laneTo_ing ..) q
@[simp] theorem lane_laneTo (p l st q m : Nat) (s : State) : (laneTo p l st s).lane q m = s.lane q m := lane_congr (laneTo_ing ..) q m
@[simp] theorem jesd_laneTo (p l st q : Nat) (s : State) : (laneTo p l st s).jesd q = s.jesd q := jesd_congr (by rw [portSt_laneTo])

theorem wordsKept_laneShown (p l st : Nat) (s : State) : WordsKept s (laneShown p l st s) [R.ING_LANE_STATUS p l] := by
  refine laneShown_of (P := fun t => WordsKept s t [R.ING_LANE_STATUS p l]) p l st s (wordsKept_setFld s _ st) ?_ ?_ ?_ ?_
  · exact fun _ h => wordsKept_step h (wordsKept_setFlag _ _ _)
  · exact fun _ _ h => wordsKept_step h (wordsKept_setFlag _ _ _)
  · exact fun _ h => wordsKept_step h (wordsKept_setFlag _ _ _)
  · exact fun _ h => wordsKept_step h (wordsKept_setFlag _ _ _)

theorem wordsKept_laneTo (p l st : Nat) (s : State) : WordsKept s (laneTo p l st s) [R.ING_LANE_STATUS p l] :=
  wordsKept_step (wordsKept_laneShown p l st s) (wordsKept_of_regs (laneTo_regs p l st s))

/-- The state shown is the new one. -/
theorem lnSt_laneTo {st : Nat} (p l : Nat) (s : State) (h : st < 16) : (laneTo p l st s).lnSt p l = st := by
  refine (State.fld_congr (laneTo_regs p l st s) _).trans (laneShown_of (P := fun t => t.lnSt p l = st) p l st s ?_ ?_ ?_ ?_ ?_)
  · exact (State.fld_setFld_same s _ st (by decide : 0 ≤ 3) (by decide : 3 < 32)).trans (Nat.mod_eq_of_lt h)
  · exact fun t ht => (State.fld_setFld_apart t _ (by decide : 7 ≤ 7) (by decide : 7 < 32) (.inr (by decide : 3 < 7))).trans ht
  · exact fun _ t ht => (State.fld_setFld_apart t _ (by decide : 4 ≤ 4) (by decide : 4 < 32) (.inr (by decide : 3 < 4))).trans ht
  · exact fun t ht => (State.fld_setFld_apart t _ (by decide : 5 ≤ 5) (by decide : 5 < 32) (.inr (by decide : 3 < 5))).trans ht
  · exact fun t ht => (State.fld_setFld_apart t _ (by decide : 6 ≤ 6) (by decide : 6 < 32) (.inr (by decide : 3 < 6))).trans ht

/-- Fields above the status flags stay: PRESET, LOGICAL and BACKOFF. -/
theorem fld_laneTo_high {m : Loc} (p l st : Nat) (s : State) (h : 7 < m.lo) : (laneTo p l st s).fld m = s.fld m := by
  refine (State.fld_congr (laneTo_regs p l st s) m).trans (laneShown_of (P := fun t => t.fld m = s.fld m) p l st s ?_ ?_ ?_ ?_ ?_)
  · exact State.fld_setFld_apart s st (by decide : 0 ≤ 3) (by decide : 3 < 32) (.inl (by show 3 < m.lo; omega))
  · exact fun t ht => (State.fld_setFld_apart t _ (by decide : 7 ≤ 7) (by decide : 7 < 32) (.inl h)).trans ht
  · exact fun _ t ht => (State.fld_setFld_apart t _ (by decide : 4 ≤ 4) (by decide : 4 < 32) (.inl (by show 4 < m.lo; omega))).trans ht
  · exact fun t ht => (State.fld_setFld_apart t _ (by decide : 5 ≤ 5) (by decide : 5 < 32) (.inl (by show 5 < m.lo; omega))).trans ht
  · exact fun t ht => (State.fld_setFld_apart t _ (by decide : 6 ≤ 6) (by decide : 6 < 32) (.inl (by show 6 < m.lo; omega))).trans ht

theorem lnLogical_laneTo (p l st : Nat) (s : State) (m : Nat) : (laneTo p l st s).lnLogical p m = s.lnLogical p m :=
  fld_laneTo_high p l st s (by decide : 7 < 12)

/-- LOS stays but in the states in which the receiver is off. -/
theorem flag_los_laneTo {st : Nat} (p l : Nat) (s : State) (h : st ≠ lnOff ∧ st ≠ lnIdle) :
    (laneTo p l st s).flag (R.ING_LANE_STATUS_LOS p l) = s.flag (R.ING_LANE_STATUS_LOS p l) := by
  refine (flag_congr (laneTo_regs p l st s) _).trans (congrArg (· == 1) ?_)
  refine laneShown_of (P := fun t => t.fld (R.ING_LANE_STATUS_LOS p l) = s.fld (R.ING_LANE_STATUS_LOS p l)) p l st s ?_ ?_ ?_ ?_ ?_
  · exact State.fld_setFld_apart s st (by decide : 0 ≤ 3) (by decide : 3 < 32) (.inl (by decide : 3 < 4))
  · exact fun t ht => (State.fld_setFld_apart t _ (by decide : 7 ≤ 7) (by decide : 7 < 32) (.inr (by decide : 4 < 7))).trans ht
  · exact fun hc => absurd hc (not_or.mpr h)
  · exact fun t ht => (State.fld_setFld_apart t _ (by decide : 5 ≤ 5) (by decide : 5 < 32) (.inr (by decide : 4 < 5))).trans ht
  · exact fun t ht => (State.fld_setFld_apart t _ (by decide : 6 ≤ 6) (by decide : 6 < 32) (.inr (by decide : 4 < 6))).trans ht

/-- AM lock is not held in OFF, DETECT, LOCK, RETRAIN, FAILED and IDLE (R111). -/
theorem flag_amLock_laneTo {st : Nat} (p l : Nat) (s : State) (h : st = lnOff ∨ st = lnIdle ∨ st = lnDetect ∨ st = lnRetrain ∨ st = lnLock ∨ st = lnFailed) :
    (laneTo p l st s).flag (R.ING_LANE_STATUS_AM_LOCK p l) = false := by
  have hset (t : State) : (t.setFlag (R.ING_LANE_STATUS_AM_LOCK p l) false).flag (R.ING_LANE_STATUS_AM_LOCK p l) = false :=
    State.flag_setFlag_same t _ false rfl (by decide : 6 < 32)
  refine (flag_congr (laneTo_regs p l st s) _).trans ?_
  unfold laneShown
  extract_lets s1 s2
  split
  · exact hset _
  · split
    · exact hset _
    · split
      · exact hset _
      · simp_all

/-- AM lock stays in the states that hold it. -/
theorem flag_amLock_laneTo_kept {st : Nat} (p l : Nat) (s : State) (h : st = lnReady ∨ st = lnActive) :
    (laneTo p l st s).flag (R.ING_LANE_STATUS_AM_LOCK p l) = s.flag (R.ING_LANE_STATUS_AM_LOCK p l) := by
  have hshown : laneShown p l st s = s.setFld (R.ING_LANE_STATUS_STATE p l) st := by
    rcases h with rfl | rfl <;> rfl
  rw [flag_congr (laneTo_regs p l st s), hshown]
  exact congrArg (· == 1) (State.fld_setFld_apart s st (by decide : 0 ≤ 3) (by decide : 3 < 32) (.inl (by decide : 3 < 6)))

/-- The lane leaves ACTIVE: LANE_LOST (R110). -/
theorem raised_laneTo_lost {p l st : Nat} {s : State} (h : s.lnSt p l = lnActive) (hst : st ≠ lnActive) : Raised (hIng p) 0 (laneTo p l st s) := by
  rw [laneTo_eq, if_pos (And.intro h hst)]
  dsimp only
  split
  · exact (raise_raised (hIng p) 0 _).kept (raise_frame (hIng p) 1 _)
  · exact raise_raised ..

/-- The lane reaches READY: LANE_READY (R110). -/
theorem raised_laneTo_ready {p l : Nat} {s : State} (h : s.lnSt p l ≠ lnReady) : Raised (hIng p) 1 (laneTo p l lnReady s) := by
  rw [laneTo_eq, if_pos (And.intro rfl h)]
  exact raise_raised ..

theorem faultBit_laneTo (p l st u b : Nat) (s : State) : (laneTo p l st s).faultBit u b = s.faultBit u b := by
  have h : (laneShown p l st s).faultBit u b = s.faultBit u b := by rw [laneShown_eq]; rfl
  have hr (e : Nat) (t : State) : (raise (hIng p) e t).faultBit u b = t.faultBit u b := faultBit_of_frame (raise_frame ..) u b
  rw [laneTo_eq]
  dsimp only
  split_ifs <;> simp only [hr, h]

theorem PortStep.laneTo {p : Fin 4} {evs : List (Nat × Nat)} {s t : State} (h : PortStep p evs s t) {l : Nat} (st : Nat) (hl : l < 16)
    (h0 : t.lnSt p l = lnActive → st ≠ lnActive → (hIng p, 0) ∈ evs) (h1 : st = lnReady → (hIng p, 1) ∈ evs) : PortStep p evs s (laneTo p l st t) := by
  have hw : InPage p (R.ING_LANE_STATUS p l) := inPage_lane (k := 0) hl (by decide)
  have hs : PortStep p evs s (laneShown p l st t) := laneShown_of (P := PortStep p evs s) p l st t (h.setFld st hw) (fun _ k => k.setFlag _ hw)
    (fun _ _ k => k.setFlag _ hw) (fun _ k => k.setFlag _ hw) (fun _ k => k.setFlag _ hw)
  rw [laneTo_eq]
  extract_lets s4
  have h4 : PortStep p evs s s4 := by
    by_cases hc : t.lnSt p l = lnActive ∧ st ≠ lnActive
    · rw [show s4 = _ from if_pos hc]; exact hs.raise (h0 hc.1 hc.2)
    · rw [show s4 = _ from if_neg hc]; exact hs
  split
  · rename_i hc
    exact h4.raise (h1 hc.1)
  · exact h4

/-! The back channel. -/

theorem bcSend_sent (p a b c d : Nat) (s : State) : Out.backChannel p (bcFrame (a + 256 * b + 4096 * c + 65536 * d)) ∈ (bcSend p a b c d s).rep.out :=
  List.mem_cons_self

theorem PortStep.bcSend {p : Fin 4} {evs : List (Nat × Nat)} {s t : State} (h : PortStep p evs s t) (a b c d : Nat) :
    PortStep p evs s (bcSend p a b c d t) := h.emit _

end Sys2Proof.Machine
end

section
/-! The state of a port (R91) and the calibrations that wait (R105): what `portTarget` calls for, and what bringing the port to it leaves. -/

namespace Sys2Proof.Machine

open Sys2Proof.Claims

/-! Calibrations that wait (R105). -/

/-- A port for which a deferred calibration may start, or none. -/
theorem calKick_cases (s : State) : calKick s = s ∨ ∃ q < 4, (s.portSt q).calDue = true ∧ calKick s = calStart q s := by
  unfold calKick
  split
  · exact .inl rfl
  · cases hf : (List.range 4).find? (fun p => (s.portSt p).calDue && s.portRuns p) with
    | none => exact .inl rfl
    | some q =>
      have hp := List.find?_some hf
      rw [Bool.and_eq_true] at hp
      exact .inr ⟨q, List.mem_range.mp (List.mem_of_find?_eq_some hf), hp.1, rfl⟩

theorem calKick_none {s : State} (h : ∀ q < 4, (s.portSt q).calDue = false) : calKick s = s := by
  rcases calKick_cases s with hk | ⟨q, hq, hd, -⟩
  · exact hk
  · rw [h q hq] at hd
    exact absurd hd (by decide)

/-- A property kept by the start of every port's calibration. -/
theorem calKick_of {P : State → Prop} {s : State} (h : P s) (hq : ∀ q < 4, P (calStart q s)) : P (calKick s) := by
  rcases calKick_cases s with hk | ⟨q, hlt, -, hk⟩
  · rw [hk]; exact h
  · rw [hk]; exact hq q hlt

theorem wordsKept_calKick (s : State) : WordsKept s (calKick s) statusWords :=
  calKick_of (P := fun t => WordsKept s t statusWords) (fun _ _ => rfl) fun q hq =>
    wordsKept_mono (wordsKept_setFlag s (R.ING_PORT_STATUS_CAL_BUSY q) true) (List.cons_subset.mpr ⟨mem_statusWords hq, List.nil_subset _⟩)

/-- Fields beside CAL_BUSY. -/
theorem fld_calKick {m : Loc} (s : State) (h : 3 < m.lo ∨ m.hi < 3) : (calKick s).fld m = s.fld m :=
  calKick_of (P := fun t => t.fld m = s.fld m) rfl fun q _ =>
    State.fld_setFld_apart s (l := R.ING_PORT_STATUS_CAL_BUSY q) _ (by decide : 3 ≤ 3) (by decide : 3 < 32) h

@[simp] theorem calKick_rep (s : State) : (calKick s).rep = s.rep := calKick_of (P := fun t => t.rep = s.rep) rfl fun _ _ => rfl

theorem lane_calKick (s : State) (p l : Nat) : (calKick s).lane p l = s.lane p l := calKick_of (P := fun t => t.lane p l = s.lane p l) rfl fun _ _ => rfl

theorem portSt_calStart (q p : Nat) (s : State) :
    (calStart q s).portSt p = { s.portSt p with calDue := ((calStart q s).portSt p).calDue, calAt := ((calStart q s).portSt p).calAt } := by
  by_cases h : q = p
  · subst h
    simp only [calStart, portSt_setPort_same]
  · have he : (calStart q s).portSt p = s.portSt p := portSt_setPort_ne _ _ h
    rw [he]

/-- Of a port only what its calibration notes changes. -/
theorem portSt_calKick (s : State) (p : Nat) :
    (calKick s).portSt p = { s.portSt p with calDue := ((calKick s).portSt p).calDue, calAt := ((calKick s).portSt p).calAt } :=
  calKick_of (P := fun t => t.portSt p = { s.portSt p with calDue := (t.portSt p).calDue, calAt := (t.portSt p).calAt }) rfl fun q _ => portSt_calStart q p s

theorem PortStep.calKick {p : Fin 4} {evs : List (Nat × Nat)} {s t : State} (h : PortStep p evs s t) : PortStep p evs s (calKick t) := by
  refine calKick_of (P := PortStep p evs s) h fun q hq => (h.setWord' _ ?_ ?_ ?_).setPort q _
  · show 0x401000 ≤ R.ING_PORT_STATUS q
    unfold R.ING_PORT_STATUS
    omega
  · show R.ING_PORT_STATUS q < 0x405000
    unfold R.ING_PORT_STATUS
    omega
  · intro q' _ l
    show R.ING_PORT_STATUS q ≠ R.ING_LANE_STATUS q' l
    unfold R.ING_PORT_STATUS R.ING_LANE_STATUS
    omega

/-! What the lanes, the epoch and the commands call for (R91). -/

theorem portTarget_idle {s : State} {p : Nat} (hen : s.flag (R.ING_PORT_CFG_EN p) = true) (hc : (s.portSt p).cfgBad = false) (hi : (s.portSt p).idle = true) :
    portTarget s p = psIdle := by
  simp only [portTarget, hen, hc, hi]
  cases (s.portSt p).ext <;> rfl

theorem portTarget_down {s : State} {p : Nat} (hoff : s.flag (R.ING_PORT_CFG_EN p) = false ∨ (s.portSt p).cfgBad = true) (hi : (s.portSt p).idle = false) :
    portTarget s p = psDown := by
  rcases hoff with h | h <;> simp [portTarget, h, hi]

theorem portTarget_dead {s : State} {p : Nat} (hen : s.flag (R.ING_PORT_CFG_EN p) = true) (hc : (s.portSt p).cfgBad = false) (hi : (s.portSt p).idle = false)
    (hg : (s.portSt p).gone ≠ []) : portTarget s p = psDead := by
  simp [portTarget, hen, hc, hi, hg]

theorem portTarget_assemble {s : State} {p : Nat} (hen : s.flag (R.ING_PORT_CFG_EN p) = true) (hc : (s.portSt p).cfgBad = false) (hi : (s.portSt p).idle = false)
    (hg : (s.portSt p).gone = []) (h : s.flag (R.ING_PORT_STATUS_EPOCH_VALID p) = false ∨ (s.portSt p).asm = true) : portTarget s p = psAssemble := by
  rcases h with h | h <;> simp [portTarget, hen, hc, hi, hg, h]

/-- A port that must reassemble delivers nothing. -/
theorem portTarget_not_runs {s : State} {p : Nat} (h : (s.portSt p).asm = true) : portTarget s p ≠ psRun ∧ portTarget s p ≠ psSpared := by
  unfold portTarget
  simp only [h, Bool.or_true, Bool.true_or, if_true]
  split_ifs <;> decide

theorem portTarget_not_dead {s : State} {p : Nat} (h : (s.portSt p).gone = []) : portTarget s p ≠ psDead := by
  unfold portTarget
  simp only [h, List.isEmpty_nil, Bool.not_true, Bool.false_eq_true, if_false]
  split_ifs <;> decide

/-- A port that is not enabled is down, or idled. -/
theorem portTarget_disabled {s : State} {p : Nat} (h : s.flag (R.ING_PORT_CFG_EN p) = false) : portTarget s p = psDown ∨ portTarget s p = psIdle := by
  unfold portTarget
  simp only [h, Bool.not_false, Bool.true_or, if_true]
  split_ifs
  · exact .inr rfl
  · exact .inl rfl

theorem portTarget_lt (s : State) (p : Nat) : portTarget s p < 8 := by
  unfold portTarget
  dsimp only
  split_ifs <;> decide

/-! The port is brought to the state called for. -/

/-- Does the port state deliver words? -/
def psRuns (st : Nat) : Bool := st == psRun || st == psSpared

/-- STATE, DEG and what the port notes, before any event. -/
def portShown (p : Nat) (s : State) : State :=
  let new := portTarget s p
  let s1 := (s.setFld (R.ING_PORT_STATUS_STATE p) new).setFlag (R.ING_PORT_STATUS_DEG p) (new == psSpared)
  let x := s1.portSt p
  let doubt := psRuns (s.portState p) && !psRuns new && s1.flag (R.ING_PORT_STATUS_EPOCH_VALID p)
  s1.setPort p
    { x with deliver := if psRuns new then some (x.deliver.getD (nextFrame s1 p)) else none
             recheck := x.recheck || doubt
             gapCoast := x.gapCoast || doubt
             calDue := x.calDue || (psRuns new && x.calFirst)
             calFirst := x.calFirst && !psRuns new }

/-- The events of the new state and LANE_DEAD. -/
def portReported (p old new : Nat) (s : State) : State :=
  let s1 := if psRuns new && !psRuns old then raise (hIng p) 11 s else s
  if new = psDead ∧ old ≠ psDead then setFault (hIng p) 0 (raise (hIng p) 3 s1)
  else if psRuns new then clearFault (hIng p) 0 s1 else s1

theorem portUpdate_eq (p : Nat) (s : State) : portUpdate p s = calKick (portReported p (s.portState p) (portTarget s p) (portShown p s)) := rfl

/-- Reports alone change. -/
theorem portReported_eq (p old new : Nat) (s : State) : portReported p old new s = { s with rep := (portReported p old new s).rep } := by
  have h1 (b : Bool) : (if b then raise (hIng p) 11 s else s) = { s with rep := (if b then raise (hIng p) 11 s else s).rep } := by cases b <;> rfl
  unfold portReported
  extract_lets s1
  have hs : s1 = { s with rep := s1.rep } := h1 _
  split_ifs
  · rw [setFault_eq, hs]; rfl
  · rw [hs]; rfl
  · exact hs

@[simp] theorem portReported_regs (p old new : Nat) (s : State) : (portReported p old new s).regs = s.regs := by rw [portReported_eq]
@[simp] theorem portReported_ing (p old new : Nat) (s : State) : (portReported p old new s).ing = s.ing := by rw [portReported_eq]

theorem wordsKept_portShown (p : Nat) (s : State) : WordsKept s (portShown p s) [R.ING_PORT_STATUS p] :=
  wordsKept_step (wordsKept_step (wordsKept_setFld s (R.ING_PORT_STATUS_STATE p) _) (wordsKept_setFlag _ (R.ING_PORT_STATUS_DEG p) _)) (wordsKept_of_regs rfl)

/-- Of all words only those of STATUS change. -/
theorem wordsKept_portUpdate {p : Nat} (s : State) (hp : p < 4) : WordsKept s (portUpdate p s) statusWords := by
  have h1 := wordsKept_mono (wordsKept_portShown p s) (List.cons_subset.mpr ⟨mem_statusWords hp, List.nil_subset _⟩)
  exact wordsKept_step (wordsKept_step h1 (wordsKept_of_regs (portReported_regs ..))) (wordsKept_calKick _)

/-- The lanes' words stay. -/
theorem fld_portUpdate {m : Loc} (p : Fin 4) (s : State) (h : m.off ∉ statusWords) : (portUpdate p s).fld m = s.fld m :=
  fld_of_kept (wordsKept_portUpdate s p.isLt) h

theorem lnSt_portUpdate (p : Fin 4) {l : Nat} (s : State) (hl : l < 16) : (portUpdate p s).lnSt p l = s.lnSt p l :=
  fld_portUpdate p s (laneWord_notMem_status p (by show _ ≤ R.ING_LANE_STATUS p l; unfold hIng R.ING_LANE_STATUS; omega)
    (by show R.ING_LANE_STATUS p l < _; unfold hIng R.ING_LANE_STATUS; omega))

theorem laneStatus_notMem_status (p : Fin 4) {l : Nat} (hl : l < 16) : R.ING_LANE_STATUS p l ∉ statusWords :=
  laneWord_notMem_status p (by unfold hIng R.ING_LANE_STATUS; omega) (by unfold hIng R.ING_LANE_STATUS; omega)

/-- Fields of STATUS beside STATE, CAL_BUSY and DEG. -/
theorem fld_status_portUpdate {m : Loc} (p : Nat) (s : State) (h : 3 < m.lo) (h6 : 6 < m.lo ∨ m.hi < 6) : (portUpdate p s).fld m = s.fld m := by
  rw [portUpdate_eq, fld_calKick _ (.inl h), State.fld_congr (portReported_regs ..)]
  refine (State.fld_congr (s := (s.setFld (R.ING_PORT_STATUS_STATE p) (portTarget s p)).setFlag (R.ING_PORT_STATUS_DEG p) (portTarget s p == psSpared)) rfl m).trans ?_
  exact (State.fld_setFld_apart _ _ (by decide : 6 ≤ 6) (by decide : 6 < 32) h6).trans
    (State.fld_setFld_apart s _ (by decide : 0 ≤ 2) (by decide : 2 < 32) (.inl (by show 2 < m.lo; omega)))

theorem epochValid_portUpdate (p : Nat) (s : State) (q : Nat) : (portUpdate p s).flag (R.ING_PORT_STATUS_EPOCH_VALID q) = s.flag (R.ING_PORT_STATUS_EPOCH_VALID q) :=
  congrArg (· == 1) (fld_status_portUpdate p s (by decide : 3 < 4) (.inr (by decide : 4 < 6)))

/-- The port shows the state called for. -/
theorem portState_portUpdate (p : Nat) (s : State) : (portUpdate p s).portState p = portTarget s p := by
  refine (fld_calKick _ (.inr (by decide : 2 < 3))).trans ((State.fld_congr (portReported_regs ..) _).trans ?_)
  refine (State.fld_setFld_apart _ _ (by decide : 6 ≤ 6) (by decide : 6 < 32) (.inr (by decide : 2 < 6))).trans ?_
  exact (State.fld_setFld_same s _ _ (by decide : 0 ≤ 2) (by decide : 2 < 32)).trans (Nat.mod_eq_of_lt (portTarget_lt s p))

theorem lane_portUpdate (p : Nat) (s : State) (q l : Nat) : (portUpdate p s).lane q l = s.lane q l := by
  rw [portUpdate_eq, lane_calKick]
  exact lane_congr (s := portShown p s) (portReported_ing ..) q l

theorem portSt_portShown (p : Nat) (s : State) : (portShown p s).portSt p = { s.portSt p with
    deliver := ((portShown p s).portSt p).deliver, recheck := ((portShown p s).portSt p).recheck, gapCoast := ((portShown p s).portSt p).gapCoast,
    calDue := ((portShown p s).portSt p).calDue, calFirst := ((portShown p s).portSt p).calFirst } := by
  unfold portShown
  extract_lets new s1 x doubt
  rw [portSt_setPort_same]
  rfl

theorem gapCoast_portShown (p : Nat) (s : State) : ((portShown p s).portSt p).gapCoast =
    ((s.portSt p).gapCoast || (psRuns (s.portState p) && !psRuns (portTarget s p) && s.flag (R.ING_PORT_STATUS_EPOCH_VALID p))) := by
  have hv : ((s.setFld (R.ING_PORT_STATUS_STATE p) (portTarget s p)).setFlag (R.ING_PORT_STATUS_DEG p) (portTarget s p == psSpared)).flag
      (R.ING_PORT_STATUS_EPOCH_VALID p) = s.flag (R.ING_PORT_STATUS_EPOCH_VALID p) := by
    refine congrArg (· == 1) ((State.fld_setFld_apart _ _ (by decide : 6 ≤ 6) (by decide : 6 < 32) (.inr (by decide : 4 < 6))).trans ?_)
    exact State.fld_setFld_apart s _ (by decide : 0 ≤ 2) (by decide : 2 < 32) (.inl (by decide : 2 < 4))
  rw [← hv]
  unfold portShown
  extract_lets new s1 x doubt
  rw [portSt_setPort_same]
  rfl

/-- The port as it was shown, but for what the start of a calibration notes. -/
theorem portSt_portUpdate_shown (p : Nat) (s : State) : (portUpdate p s).portSt p =
    { (portShown p s).portSt p with calDue := ((portUpdate p s).portSt p).calDue, calAt := ((portUpdate p s).portSt p).calAt } := by
  have hr : (portReported p (s.portState p) (portTarget s p) (portShown p s)).portSt p = (portShown p s).portSt p := portSt_congr (portReported_ing ..) p
  rw [← hr]
  exact portSt_calKick _ p

/-- What the port notes on the way to its state. -/
theorem portSt_portUpdate (p : Nat) (s : State) : (portUpdate p s).portSt p = { s.portSt p with
    deliver := ((portUpdate p s).portSt p).deliver, recheck := ((portUpdate p s).portSt p).recheck, gapCoast := ((portUpdate p s).portSt p).gapCoast,
    calDue := ((portUpdate p s).portSt p).calDue, calFirst := ((portUpdate p s).portSt p).calFirst, calAt := ((portUpdate p s).portSt p).calAt } := by
  rw [portSt_portUpdate_shown, portSt_portShown]

theorem gapCoast_portUpdate (p : Nat) (s : State) : ((portUpdate p s).portSt p).gapCoast =
    ((s.portSt p).gapCoast || (psRuns (s.portState p) && !psRuns (portTarget s p) && s.flag (R.ING_PORT_STATUS_EPOCH_VALID p))) := by
  rw [portSt_portUpdate_shown]
  exact gapCoast_portShown p s

/-- Bits of FAULT beside LANE_DEAD stay. -/
theorem faultBit_portUpdate {b : Nat} (p : Nat) (s : State) (hb : b ≠ 0) : (portUpdate p s).faultBit (hIng p) b = s.faultBit (hIng p) b := by
  have hr (e : Nat) (t : State) : (raise (hIng p) e t).faultBit (hIng p) b = t.faultBit (hIng p) b := faultBit_of_frame (raise_frame ..) _ b
  have hrep : (portUpdate p s).faultBit (hIng p) b = (portReported p (s.portState p) (portTarget s p) (portShown p s)).faultBit (hIng p) b :=
    congrArg (fun r : Rep => bitAt (Tbl.get 0 r.flt (hIng p)) b) (calKick_rep _)
  have hs : (portShown p s).faultBit (hIng p) b = s.faultBit (hIng p) b := rfl
  rw [hrep, portReported]
  split_ifs <;> simp only [faultBit_setFault, faultBit_clearFault, hr, hs, hb, and_false, if_false]

/-- LANE_DEAD after the change, but where the port enters DEAD. -/
theorem faultBit_portUpdate_clear {p : Nat} {s : State} (hb : s.faultBit (hIng p) 0 = false) (h : portTarget s p ≠ psDead) :
    (portUpdate p s).faultBit (hIng p) 0 = false := by
  have hr (e : Nat) (t : State) : (raise (hIng p) e t).faultBit (hIng p) 0 = t.faultBit (hIng p) 0 := faultBit_of_frame (raise_frame ..) _ 0
  have hrep : (portUpdate p s).faultBit (hIng p) 0 = (portReported p (s.portState p) (portTarget s p) (portShown p s)).faultBit (hIng p) 0 :=
    congrArg (fun r : Rep => bitAt (Tbl.get 0 r.flt (hIng p)) 0) (calKick_rep _)
  have hs : (portShown p s).faultBit (hIng p) 0 = false := hb
  rw [hrep, portReported, if_neg fun hc => h hc.1]
  split_ifs <;> simp [faultBit_clearFault, hr, hs]

/-- A port that enters DEAD sets LANE_DEAD and raises PORT_DEAD (R95, R110). -/
theorem portUpdate_enters_dead {p : Nat} {s : State} (h : portTarget s p = psDead) (ho : s.portState p ≠ psDead) :
    (portUpdate p s).faultBit (hIng p) 0 = true ∧ Raised (hIng p) 3 (portUpdate p s) := by
  have hrep : portUpdate p s = calKick (setFault (hIng p) 0 (raise (hIng p) 3 (portShown p s))) := by
    rw [portUpdate_eq, portReported, if_pos ⟨h, ho⟩, h]
    rfl
  have hf := setFault_sets (hIng p) 0 (raise (hIng p) 3 (portShown p s))
  have he := (raise_raised (hIng p) 3 (portShown p s)).kept (setFault_frame (hIng p) 0 _)
  rw [hrep]
  constructor
  · rw [State.faultBit, State.faultOf, calKick_rep]
    exact hf
  · rw [Raised, State.pendOf, calKick_rep]
    exact he

theorem PortStep.portUpdate {p : Fin 4} {evs : List (Nat × Nat)} {s t : State} (h : PortStep p evs s t) (h3 : portTarget t p = psDead → (hIng p, 3) ∈ evs)
    (h11 : portTarget t p = psRun ∨ portTarget t p = psSpared → (hIng p, 11) ∈ evs) : PortStep p evs s (portUpdate p t) := by
  have hpage : InPage p (R.ING_PORT_STATUS p) := by
    unfold InPage hIng R.ING_PORT_STATUS
    omega
  have hshown : PortStep p evs s (portShown p t) := ((h.setFld (l := R.ING_PORT_STATUS_STATE p) _ hpage).setFlag (l := R.ING_PORT_STATUS_DEG p) _ hpage).setPort p _
  rw [portUpdate_eq]
  refine PortStep.calKick ?_
  unfold portReported
  extract_lets s1
  have h1 : PortStep p evs s s1 := by
    by_cases hc : (psRuns (portTarget t p) && !psRuns (t.portState p)) = true
    · rw [show s1 = _ from if_pos hc]
      refine hshown.raise (h11 ?_)
      simpa [psRuns] using (Bool.and_eq_true_iff.mp hc).1
    · rw [show s1 = _ from if_neg hc]
      exact hshown
  split_ifs with hd
  · exact (h1.raise (h3 hd.1)).setFault 0
  · exact h1.clearFault 0
  · exact h1

end Sys2Proof.Machine
end

section
/-! What the operations on lanes leave (R88, R90, R94 to R96, R107): a lane given, failed, retrained, idled or started over, and the port whose lane it is. -/

namespace Sys2Proof.Machine

open Sys2Proof.Claims

/-! The end of a calibration as failed (R107). -/

theorem calFail_idle {p : Nat} {s : State} (h : s.flag (R.ING_PORT_STATUS_CAL_BUSY p) = false) : calFail p s = s := by
  rw [calFail, h]
  rfl

theorem calFail_busy {p : Nat} {s : State} (h : s.flag (R.ING_PORT_STATUS_CAL_BUSY p) = true) : calFail p s = calKick (raise (hIng p) 8 (calStop p s)) :=
  if_pos h

theorem wordsKept_calStop {p : Nat} (s : State) (hp : p < 4) : WordsKept s (calStop p s) statusWords :=
  wordsKept_mono (wordsKept_setFlag s (R.ING_PORT_STATUS_CAL_BUSY p) false) (List.cons_subset.mpr ⟨mem_statusWords hp, List.nil_subset _⟩)

/-- A property that holds of a state and of it with its calibration ended. -/
theorem calFail_of {P : State → Prop} {p : Nat} {s : State} (h : P s)
    (hb : s.flag (R.ING_PORT_STATUS_CAL_BUSY p) = true → P (calKick (raise (hIng p) 8 (calStop p s)))) : P (calFail p s) := by
  cases hc : s.flag (R.ING_PORT_STATUS_CAL_BUSY p)
  · rw [calFail_idle hc]; exact h
  · rw [calFail_busy hc]; exact hb hc

theorem wordsKept_calFail {p : Nat} (s : State) (hp : p < 4) : WordsKept s (calFail p s) statusWords :=
  calFail_of (P := fun t => WordsKept s t statusWords) (fun _ _ => rfl) fun _ =>
    wordsKept_step (wordsKept_step (wordsKept_calStop s hp) (wordsKept_of_regs rfl)) (wordsKept_calKick _)

theorem fld_calFail {m : Loc} (p : Nat) (s : State) (h : 3 < m.lo ∨ m.hi < 3) : (calFail p s).fld m = s.fld m :=
  calFail_of (P := fun t => t.fld m = s.fld m) rfl fun _ => (fld_calKick _ h).trans
    (State.fld_setFld_apart s (l := R.ING_PORT_STATUS_CAL_BUSY p) _ (by decide : 3 ≤ 3) (by decide : 3 < 32) h)

theorem lane_calFail (p : Nat) (s : State) (q l : Nat) : (calFail p s).lane q l = s.lane q l :=
  calFail_of (P := fun t => t.lane q l = s.lane q l) rfl fun _ => lane_calKick _ q l

/-- Of the port only what its calibrations note changes. -/
theorem portSt_calFail (p : Nat) (s : State) : (calFail p s).portSt p = { s.portSt p with
    calDue := ((calFail p s).portSt p).calDue, calAt := ((calFail p s).portSt p).calAt, cals := ((calFail p s).portSt p).cals } := by
  refine calFail_of (P := fun t => t.portSt p = { s.portSt p with calDue := (t.portSt p).calDue, calAt := (t.portSt p).calAt, cals := (t.portSt p).cals }) rfl fun _ => ?_
  have hs : (raise (hIng p) 8 (calStop p s)).portSt p = { s.portSt p with cals := ((s.portSt p).calAt, s.tick) :: (s.portSt p).cals } := portSt_setPort_same _ p _
  rw [portSt_calKick, hs]

theorem faultBit_calFail (p u b : Nat) (s : State) : (calFail p s).faultBit u b = s.faultBit u b := by
  refine calFail_of (P := fun t => t.faultBit u b = s.faultBit u b) rfl fun _ => ?_
  rw [State.faultBit, State.faultOf, calKick_rep]
  exact faultBit_of_frame (raise_frame (hIng p) 8 (calStop p s)) u b

theorem raised_calFail {p : Nat} {s : State} (h : s.flag (R.ING_PORT_STATUS_CAL_BUSY p) = true) : Raised (hIng p) 8 (calFail p s) := by
  rw [calFail_busy h, Raised, State.pendOf, calKick_rep]
  exact raise_raised ..

theorem inPage_status (p : Nat) : InPage p (R.ING_PORT_STATUS p) := by
  unfold InPage hIng R.ING_PORT_STATUS
  omega

theorem PortStep.calFail {p : Fin 4} {evs : List (Nat × Nat)} {s t : State} (h : PortStep p evs s t)
    (h8 : t.flag (R.ING_PORT_STATUS_CAL_BUSY p) = true → (hIng p, 8) ∈ evs) : PortStep p evs s (calFail p t) :=
  calFail_of (P := PortStep p evs s) h fun hb => (((h.setFlag (l := R.ING_PORT_STATUS_CAL_BUSY p) _ (inPage_status p)).setPort p _).raise (h8 hb)).calKick

/-! A lane starts over. -/

theorem inPage_laneStatus {p l : Nat} (hl : l < 16) : InPage p (R.ING_LANE_STATUS p l) := inPage_lane (k := 0) hl (by decide)

/-- On a Taborn port P0 is in use, and the message of `code` that says so is sent. -/
def presetZero (p l code : Nat) (s : State) : State := if s.jesd p then s else bcSend p code l 0 0 (s.setFld (R.ING_LANE_STATUS_PRESET p l) 0)

theorem toDetect_eq (p l : Nat) (s : State) :
    toDetect p l s = presetZero p l 1 ((laneTo p l lnDetect s).setLane p l { (s.lane p l).unlocked with waking := false }) := rfl

theorem trainToLock_eq (p l : Nat) (s : State) : trainToLock p l s = presetZero p l 2 ((laneTo p l lnLock s).setLane p l (s.lane p l).unlocked) := by
  have hj : ((laneTo p l lnLock s).setLane p l (s.lane p l).unlocked).jesd p = s.jesd p := jesd_laneTo p l lnLock p s
  rw [presetZero, hj]
  rfl

@[simp] theorem presetZero_ing (p l c : Nat) (s : State) : (presetZero p l c s).ing = s.ing := by
  unfold presetZero
  split <;> rfl

theorem wordsKept_presetZero (p l c : Nat) (s : State) : WordsKept s (presetZero p l c s) [R.ING_LANE_STATUS p l] := by
  unfold presetZero
  split
  · exact fun _ _ => rfl
  · exact wordsKept_step (wordsKept_setFld s (R.ING_LANE_STATUS_PRESET p l) 0) (wordsKept_of_regs rfl)

theorem lnSt_presetZero (p l c m : Nat) (s : State) : (presetZero p l c s).lnSt p m = s.lnSt p m := by
  unfold presetZero
  split
  · rfl
  · exact State.fld_setFld_apart s (l := R.ING_LANE_STATUS_PRESET p l) (m := R.ING_LANE_STATUS_STATE p m) 0 (by decide : 8 ≤ 10) (by decide : 10 < 32)
      (.inr (by decide : 3 < 8))

theorem presetZero_taborn {p : Nat} {s : State} (l c : Nat) (h : s.jesd p = false) : (presetZero p l c s).fld (R.ING_LANE_STATUS_PRESET p l) = 0 ∧
    (presetZero p l c s).rep = { s.rep with out := .backChannel p (bcFrame (c + 256 * l)) :: s.rep.out } := by
  rw [presetZero, h]
  exact ⟨State.fld_setFld_same s _ 0 (by decide : 8 ≤ 10) (by decide : 10 < 32), rfl⟩

theorem faultBit_presetZero (p l c u b : Nat) (s : State) : (presetZero p l c s).faultBit u b = s.faultBit u b := by
  unfold presetZero
  split <;> rfl

theorem PortStep.presetZero {p : Fin 4} {evs : List (Nat × Nat)} {s t : State} (h : PortStep p evs s t) {l : Nat} (c : Nat) (hl : l < 16) :
    PortStep p evs s (presetZero p l c t) := by
  unfold Machine.presetZero
  split
  · exact h
  · exact (h.setFld (l := R.ING_LANE_STATUS_PRESET p l) 0 (inPage_laneStatus hl)).bcSend ..

theorem lnSt_toDetect (p l : Nat) (s : State) : (toDetect p l s).lnSt p l = lnDetect := by
  rw [toDetect_eq, lnSt_presetZero]
  exact lnSt_laneTo p l s (by decide)

theorem wordsKept_toDetect (p l : Nat) (s : State) : WordsKept s (toDetect p l s) [R.ING_LANE_STATUS p l] :=
  wordsKept_step (wordsKept_step (wordsKept_laneTo p l lnDetect s) (wordsKept_of_regs rfl)) (wordsKept_presetZero p l 1 _)

theorem portSt_toDetect (p l q : Nat) (s : State) : (toDetect p l s).portSt q = s.portSt q := by
  rw [toDetect_eq, portSt_congr (presetZero_ing ..), portSt_setLane, portSt_laneTo]

theorem lane_toDetect (p l : Nat) (s : State) : (toDetect p l s).lane p l = { (s.lane p l).unlocked with waking := false } := by
  rw [toDetect_eq, lane_congr (presetZero_ing ..), lane_setLane_same]

theorem lane_toDetect_ne {l m : Nat} (p : Nat) (s : State) (h : l ≠ m) : (toDetect p l s).lane p m = s.lane p m := by
  rw [toDetect_eq, lane_congr (presetZero_ing ..), lane_setLane_ne _ _ _ h, lane_laneTo]

theorem faultBit_toDetect (p l u b : Nat) (s : State) : (toDetect p l s).faultBit u b = s.faultBit u b := by
  rw [toDetect_eq, faultBit_presetZero]
  exact faultBit_laneTo ..

theorem PortStep.toDetect {p : Fin 4} {evs : List (Nat × Nat)} {s t : State} (h : PortStep p evs s t) {l : Nat} (hl : l < 16)
    (h0 : t.lnSt p l = lnActive → (hIng p, 0) ∈ evs) : PortStep p evs s (toDetect p l t) :=
  ((h.laneTo lnDetect hl (fun ha _ => h0 ha) (fun e => absurd e (by decide))).setLane p l _).presetZero 1 hl

theorem lnSt_trainToLock (p l : Nat) (s : State) : (trainToLock p l s).lnSt p l = lnLock := by
  rw [trainToLock_eq, lnSt_presetZero]
  exact lnSt_laneTo p l s (by decide)

theorem lane_trainToLock (p l : Nat) (s : State) : (trainToLock p l s).lane p l = (s.lane p l).unlocked := by
  rw [trainToLock_eq, lane_congr (presetZero_ing ..), lane_setLane_same]

theorem PortStep.trainToLock {p : Fin 4} {evs : List (Nat × Nat)} {s t : State} (h : PortStep p evs s t) {l : Nat} (hl : l < 16)
    (h0 : t.lnSt p l = lnActive → (hIng p, 0) ∈ evs) : PortStep p evs s (trainToLock p l t) := by
  rw [trainToLock_eq]
  exact ((h.laneTo lnLock hl (fun ha _ => h0 ha) (fun e => absurd e (by decide))).setLane p l _).presetZero 2 hl

/-! A lane goes to electrical idle (R92). -/

theorem lnSt_idleLane (p l : Nat) (s : State) : (idleLane p l s).lnSt p l = lnIdle := lnSt_laneTo p l s (by decide)

theorem wordsKept_idleLane (p l : Nat) (s : State) : WordsKept s (idleLane p l s) [R.ING_LANE_STATUS p l] := wordsKept_laneTo p l lnIdle s

theorem PortStep.idleLane {p : Fin 4} {evs : List (Nat × Nat)} {s t : State} (h : PortStep p evs s t) {l : Nat} (hl : l < 16)
    (h0 : t.lnSt p l = lnActive → (hIng p, 0) ∈ evs) : PortStep p evs s (idleLane p l t) :=
  (h.laneTo lnIdle hl (fun ha _ => h0 ha) (fun e => absurd e (by decide))).setLane p l _

/-! A logical lane is given (R87, R94, R96). -/

theorem setMap_cases (p k l : Nat) (s : State) : setMap p k l s = s ∨
    ∃ w : Nat, setMap p k l s = journal 7 p [(w : Int)] (s.setWord (R.ING_LANE_MAP p) w) := by
  unfold setMap
  extract_lets w
  split
  · exact .inl rfl
  · exact .inr ⟨w, rfl⟩

theorem wordsKept_setMap (p k l : Nat) (s : State) : WordsKept s (setMap p k l s) [R.ING_LANE_MAP p] := by
  rcases setMap_cases p k l s with h | ⟨w, h⟩
  · rw [h]; exact fun _ _ => rfl
  · rw [h]; exact wordsKept_setWord s _ w

@[simp] theorem setMap_ing (p k l : Nat) (s : State) : (setMap p k l s).ing = s.ing := by
  rcases setMap_cases p k l s with h | ⟨w, h⟩
  · rw [h]
  · rw [h]; rfl

theorem PortStep.setMap {p : Fin 4} {evs : List (Nat × Nat)} {s t : State} (h : PortStep p evs s t) (k l : Nat) : PortStep p evs s (setMap p k l t) := by
  rcases setMap_cases p k l t with e | ⟨w, e⟩
  · rw [e]; exact h
  · rw [e]
    refine (h.setWord w ?_).journal ..
    unfold InPage hIng R.ING_LANE_MAP
    omega

/-- WAKE is sent to an idled spare. -/
def spareWoken (p l : Nat) (s : State) : State := (bcSend p 6 l 0 0 s).setLane p l { s.lane p l with prev := lnActive, waking := true }

/-- RUN or SPARE is sent, and the lane carries the logical lane. -/
def laneMapped (p k l : Nat) (spare : Bool) (s : State) : State :=
  setMap p k l ((bcSend p (if spare then 4 else 3) l k 0 s).setFld (R.ING_LANE_STATUS_LOGICAL p l) k)

theorem giveLane_eq (p k l : Nat) (spare : Bool) (s : State) : giveLane p k l spare s =
    if s.lnSt p l == lnIdle then laneMapped p k l spare (spareWoken p l s) else laneTo p l lnActive (laneMapped p k l spare s) := by
  unfold giveLane laneMapped spareWoken
  cases s.lnSt p l == lnIdle <;> rfl

theorem laneMapped_ing (p k l : Nat) (b : Bool) (s : State) : (laneMapped p k l b s).ing = s.ing := setMap_ing ..

theorem wordsKept_laneMapped (p k l : Nat) (b : Bool) (s : State) : WordsKept s (laneMapped p k l b s) [R.ING_LANE_STATUS p l, R.ING_LANE_MAP p] :=
  wordsKept_trans (wordsKept_setFld s (R.ING_LANE_STATUS_LOGICAL p l) k) (wordsKept_setMap p k l _)

theorem wordsKept_giveLane (p k l : Nat) (b : Bool) (s : State) : WordsKept s (giveLane p k l b s) [R.ING_LANE_STATUS p l, R.ING_LANE_MAP p] := by
  rw [giveLane_eq]
  split
  · exact wordsKept_laneMapped p k l b (spareWoken p l s)
  · exact wordsKept_step (wordsKept_laneMapped p k l b s) (wordsKept_mono (wordsKept_laneTo p l lnActive _) (by simp))

theorem lane_giveLane_ne {l m : Nat} (p k : Nat) (b : Bool) (s : State) (h : l ≠ m) : (giveLane p k l b s).lane p m = s.lane p m := by
  rw [giveLane_eq]
  split
  · rw [lane_congr (laneMapped_ing ..), spareWoken, lane_setLane_ne _ _ _ h]
    rfl
  · rw [lane_laneTo, lane_congr (laneMapped_ing ..)]

theorem PortStep.laneMapped {p : Fin 4} {evs : List (Nat × Nat)} {s t : State} (h : PortStep p evs s t) (k : Nat) {l : Nat} (b : Bool) (hl : l < 16) :
    PortStep p evs s (laneMapped p k l b t) :=
  ((h.bcSend _ l k 0).setFld (l := R.ING_LANE_STATUS_LOGICAL p l) k (inPage_laneStatus hl)).setMap k l

theorem PortStep.giveLane {p : Fin 4} {evs : List (Nat × Nat)} {s t : State} (h : PortStep p evs s t) (k : Nat) {l : Nat} (b : Bool) (hl : l < 16) :
    PortStep p evs s (giveLane p k l b t) := by
  rw [giveLane_eq]
  split
  · exact ((h.bcSend ..).setLane p l _).laneMapped k b hl
  · exact (h.laneMapped k b hl).laneTo lnActive hl (fun _ hn => absurd rfl hn) (fun e => absurd e (by decide))

/-! Substitution of a failed lane (R94, R95). -/

theorem spares_spec {s : State} {p l : Nat} (h : l ∈ spares s p) : l < 9 ∧ (s.lnSt p l = lnReady ∨ s.lnSt p l = lnIdle) := by
  simp only [spares, List.mem_filter, List.mem_range, Bool.and_eq_true, Bool.or_eq_true, beq_iff_eq] at h
  exact ⟨h.1, h.2.2.imp id And.left⟩

/-- The logical lane has no working lane, or goes to a spare. -/
theorem substitute_cases (p k : Nat) (s : State) : (∃ x : PortSt, substitute p k s = s.setPort p x) ∨
    ∃ l ∈ spares s p, ∃ x : PortSt, substitute p k s = giveLane p k l (l == 8) (s.setPort p x) := by
  unfold substitute
  extract_lets sp x
  have hsub : sp ⊆ spares s p := by
    by_cases hi : (s.portSt p).idle = true
    · rw [show sp = [] from if_pos hi]; exact List.nil_subset _
    · rw [show sp = _ from if_neg hi]; exact List.Subset.refl _
  clear_value sp
  cases sp with
  | nil => exact .inl ⟨_, rfl⟩
  | cons l t =>
    refine .inr ⟨if (l :: t).contains 8 then 8 else l, ?_, _, rfl⟩
    split
    · rename_i h8
      exact hsub (List.contains_iff_mem.mp h8)
    · exact hsub List.mem_cons_self

theorem PortStep.substitute {p : Fin 4} {evs : List (Nat × Nat)} {s t : State} (h : PortStep p evs s t) (k : Nat) : PortStep p evs s (substitute p k t) := by
  rcases substitute_cases p k t with ⟨x, e⟩ | ⟨l, hl, x, e⟩
  · rw [e]; exact h.setPort p x
  · rw [e]
    exact (h.setPort p x).giveLane k _ (Nat.lt_trans (spares_spec hl).1 (by decide))

/-- A lane that is no spare keeps its status and what it holds. -/
theorem substitute_other {p l : Nat} {s : State} (k : Nat) (hl : s.lnSt p l ≠ lnReady ∧ s.lnSt p l ≠ lnIdle) :
    (substitute p k s).word (R.ING_LANE_STATUS p l) = s.word (R.ING_LANE_STATUS p l) ∧ (substitute p k s).lane p l = s.lane p l := by
  rcases substitute_cases p k s with ⟨x, e⟩ | ⟨m, hm, x, e⟩
  · rw [e]; exact ⟨rfl, rfl⟩
  · have hne : m ≠ l := by
      rintro rfl
      exact (spares_spec hm).2.elim hl.1 hl.2
    rw [e]
    refine ⟨wordsKept_giveLane p k m _ (s.setPort p x) _ ?_, lane_giveLane_ne p k _ (s.setPort p x) hne⟩
    simp only [R.ING_LANE_STATUS, R.ING_LANE_MAP, List.mem_cons, List.not_mem_nil, or_false]
    omega

/-! FAILED (R88, R90). -/

/-- The lane has failed: its count, its back-off, the log entry and TRAIN_FAIL. -/
def laneFailed (p l : Nat) (s : State) : State :=
  raise (hIng p) 4 (addLog (hIng p) 5 2 1 (p * 16 + l) (min (s.lane p l).fails 15)
    (((laneTo p l lnFailed s).setLane p l { (s.lane p l).unlocked with fails := (s.lane p l).fails + 1 }).setFld (R.ING_LANE_STATUS_BACKOFF p l) (min (s.lane p l).fails 15)))

/-- What becomes of the logical lane that a failed lane carried. -/
def failSubstituted (p l k : Nat) (s : State) : State := if k = 15 then s else substitute p k (s.setFld (R.ING_LANE_STATUS_LOGICAL p l) 15)

theorem laneFail_eq (p l : Nat) (s : State) : laneFail p l s = portUpdate p (failSubstituted p l (s.lnLogical p l) (laneFailed p l s)) := rfl

theorem lnSt_laneFailed (p l : Nat) (s : State) : (laneFailed p l s).lnSt p l = lnFailed :=
  (State.fld_setFld_apart _ (l := R.ING_LANE_STATUS_BACKOFF p l) (m := R.ING_LANE_STATUS_STATE p l) _ (by decide : 16 ≤ 19) (by decide : 19 < 32)
    (.inr (by decide : 3 < 16))).trans (lnSt_laneTo p l s (by decide))

theorem backoff_laneFailed (p l : Nat) (s : State) : (laneFailed p l s).fld (R.ING_LANE_STATUS_BACKOFF p l) = min (s.lane p l).fails 15 :=
  (State.fld_setFld_same _ (R.ING_LANE_STATUS_BACKOFF p l) _ (by decide : 16 ≤ 19) (by decide : 19 < 32)).trans
    (Nat.mod_eq_of_lt (show min (s.lane p l).fails 15 < 16 by omega))

theorem los_laneFailed (p l : Nat) (s : State) : (laneFailed p l s).flag (R.ING_LANE_STATUS_LOS p l) = s.flag (R.ING_LANE_STATUS_LOS p l) :=
  (congrArg (· == 1) (State.fld_setFld_apart _ (l := R.ING_LANE_STATUS_BACKOFF p l) (m := R.ING_LANE_STATUS_LOS p l) _ (by decide : 16 ≤ 19) (by decide : 19 < 32)
    (.inr (by decide : 4 < 16)))).trans (flag_los_laneTo p l s (by decide))

theorem fails_laneFailed (p l : Nat) (s : State) : ((laneFailed p l s).lane p l).fails = (s.lane p l).fails + 1 :=
  congrArg LaneSt.fails (lane_setLane_same (laneTo p l lnFailed s) p l _)

/-- Fields of the lane's status below LOGICAL, BACKOFF and what the lane holds stay. -/
theorem failSubstituted_kept {p l : Nat} {s : State} (k : Nat) (h : s.lnSt p l = lnFailed) :
    (∀ m : Loc, m.off = R.ING_LANE_STATUS p l → m.hi < 12 ∨ 15 < m.lo → (failSubstituted p l k s).fld m = s.fld m) ∧
    (failSubstituted p l k s).lane p l = s.lane p l := by
  unfold failSubstituted
  split
  · exact ⟨fun _ _ _ => rfl, rfl⟩
  · have hst : (s.setFld (R.ING_LANE_STATUS_LOGICAL p l) 15).lnSt p l = lnFailed :=
      (State.fld_setFld_apart s 15 (by decide : 12 ≤ 15) (by decide : 15 < 32) (.inr (by decide : 3 < 12))).trans h
    obtain ⟨hw, hl⟩ := substitute_other k (by rw [hst]; decide : _ ∧ _)
    refine ⟨fun m hm hap => ?_, hl⟩
    rw [State.fld, State.wordN, hm, hw, ← hm]
    exact State.fld_setFld_apart s 15 (by decide : 12 ≤ 15) (by decide : 15 < 32) hap.symm

theorem PortStep.laneFailed {p : Fin 4} {evs : List (Nat × Nat)} {s t : State} (h : PortStep p evs s t) {l : Nat} (hl : l < 16)
    (h0 : t.lnSt p l = lnActive → (hIng p, 0) ∈ evs) (h4 : (hIng p, 4) ∈ evs) : PortStep p evs s (laneFailed p l t) :=
  ((((h.laneTo lnFailed hl (fun ha _ => h0 ha) (fun e => absurd e (by decide))).setLane p l _).setFld (l := R.ING_LANE_STATUS_BACKOFF p l) _ (inPage_laneStatus hl)).addLog ..).raise h4

theorem PortStep.failSubstituted {p : Fin 4} {evs : List (Nat × Nat)} {s t : State} (h : PortStep p evs s t) {l : Nat} (k : Nat) (hl : l < 16) :
    PortStep p evs s (failSubstituted p l k t) := by
  unfold Machine.failSubstituted
  split
  · exact h
  · exact (h.setFld (l := R.ING_LANE_STATUS_LOGICAL p l) 15 (inPage_laneStatus hl)).substitute k

/-- A lane fails that was not ACTIVE. -/
theorem laneFail_spec {p : Fin 4} {l : Nat} {s : State} (hl : l < 9) (ha : s.lnSt p l ≠ lnActive) :
    (laneFail p l s).lnSt p l = lnFailed ∧ (laneFail p l s).fld (R.ING_LANE_STATUS_BACKOFF p l) = min (s.lane p l).fails 15 ∧
    ((laneFail p l s).lane p l).fails = (s.lane p l).fails + 1 ∧
    (laneFail p l s).flag (R.ING_LANE_STATUS_LOS p l) = s.flag (R.ING_LANE_STATUS_LOS p l) ∧ Raised (hIng p) 4 (laneFail p l s) ∧
    PortStep p [(hIng p, 3), (hIng p, 4), (hIng p, 11)] s (laneFail p l s) := by
  have hl16 : l < 16 := by omega
  obtain ⟨hf, hln⟩ := failSubstituted_kept (s.lnLogical p l) (lnSt_laneFailed p l s)
  have hfld (m : Loc) (hm : m.off = R.ING_LANE_STATUS p l) (hap : m.hi < 12 ∨ 15 < m.lo) : (laneFail p l s).fld m = (laneFailed p l s).fld m :=
    (fld_portUpdate p _ (hm ▸ laneStatus_notMem_status p hl16)).trans (hf m hm hap)
  have hfailed : PortStep p [(hIng p, 3), (hIng p, 4), (hIng p, 11)] s (laneFailed p l s) :=
    (PortStep.refl p _ s).laneFailed hl16 (fun h => absurd h ha) (by simp)
  have hrest : PortStep p [(hIng p, 3), (hIng p, 4), (hIng p, 11)] (laneFailed p l s) (laneFail p l s) :=
    ((PortStep.refl p _ _).failSubstituted (s.lnLogical p l) hl16).portUpdate (fun _ => by simp) (fun _ => by simp)
  refine ⟨(hfld _ rfl (.inl (by decide : 3 < 12))).trans (lnSt_laneFailed p l s), (hfld _ rfl (.inr (by decide : 15 < 16))).trans (backoff_laneFailed p l s), ?_,
    (congrArg (· == 1) (hfld _ rfl (.inl (by decide : 4 < 12)))).trans (los_laneFailed p l s), hrest.raised (raise_raised ..), hfailed.trans hrest⟩
  rw [laneFail_eq, lane_portUpdate, hln, fails_laneFailed]

/-! RETRAIN (R88, R89). -/

/-- The lane shows RETRAIN, and LOS where its signal is lost. -/
def laneRetrainShown (p l : Nat) (los : Bool) (s : State) : State :=
  let s1 := (laneTo p l lnRetrain s).setLane p l { (s.lane p l).unlocked with unc := [] }
  if los then s1.setFlag (R.ING_LANE_STATUS_LOS p l) true else s1

/-- The lane is in RETRAIN, and its entry is counted. -/
def laneRetrained (p l : Nat) (los : Bool) (s : State) : State := (laneRetrainShown p l los s).bump64 (R.ING_RETRAIN_CNT p l) 1

/-- A calibration ends as failed by a trigger on a lane that carries a logical lane. -/
def calFailedBy (p : Nat) (b : Bool) (s : State) : State := if b then calFail p s else s

theorem laneRetrain_taborn {p l : Nat} {s : State} (los trigger : Bool) (hst : s.lnSt p l = lnReady ∨ s.lnSt p l = lnActive) (hj : s.jesd p = false) :
    laneRetrain p l los trigger s = portUpdate p (calFailedBy p (trigger && s.lnLogical p l != 15) (laneRetrained p l los s)) := by
  rw [laneRetrain, if_pos hst, hj]
  rfl

theorem retrainCnt_ne (p l : Nat) : R.ING_LANE_STATUS p l ∉ [R.ING_RETRAIN_CNT p l, R.ING_RETRAIN_CNT p l + 4] := by
  simp only [R.ING_LANE_STATUS, R.ING_RETRAIN_CNT, List.mem_cons, List.not_mem_nil, or_false]
  omega

theorem lnSt_laneRetrained (p l : Nat) (los : Bool) (s : State) : (laneRetrained p l los s).lnSt p l = lnRetrain := by
  rw [laneRetrained, lnSt_of_kept (wordsKept_bump64 _ _ 1) (retrainCnt_ne p l)]
  cases los
  · exact lnSt_laneTo p l s (by decide)
  · exact (State.fld_setFld_apart _ (l := R.ING_LANE_STATUS_LOS p l) _ (by decide : 4 ≤ 4) (by decide : 4 < 32) (.inr (by decide : 3 < 4))).trans
      (lnSt_laneTo p l s (by decide))

theorem amLock_laneRetrained (p l : Nat) (los : Bool) (s : State) : (laneRetrained p l los s).flag (R.ING_LANE_STATUS_AM_LOCK p l) = false := by
  have hk := flag_amLock_laneTo (st := lnRetrain) p l s (by simp)
  rw [laneRetrained, flag_of_kept (wordsKept_bump64 _ _ 1) (retrainCnt_ne p l)]
  cases los
  · exact hk
  · exact (congrArg (· == 1) (State.fld_setFld_apart _ (l := R.ING_LANE_STATUS_LOS p l) (m := R.ING_LANE_STATUS_AM_LOCK p l) _ (by decide : 4 ≤ 4)
      (by decide : 4 < 32) (.inl (by decide : 4 < 6)))).trans hk

theorem los_laneRetrained (p l : Nat) (s : State) : (laneRetrained p l true s).flag (R.ING_LANE_STATUS_LOS p l) = true := by
  rw [laneRetrained, flag_of_kept (wordsKept_bump64 _ _ 1) (retrainCnt_ne p l)]
  exact State.flag_setFlag_same _ _ true rfl (by decide : 4 < 32)

theorem wordsKept_laneRetrainShown (p l : Nat) (los : Bool) (s : State) : WordsKept s (laneRetrainShown p l los s) [R.ING_LANE_STATUS p l] := by
  cases los
  · exact wordsKept_laneTo p l lnRetrain s
  · exact wordsKept_step (wordsKept_laneTo p l lnRetrain s) (wordsKept_setFlag _ (R.ING_LANE_STATUS_LOS p l) true)

theorem cnt_laneRetrained (p l : Nat) (los : Bool) (s : State) :
    (laneRetrained p l los s).pair (R.ING_RETRAIN_CNT p l) = (s.pair (R.ING_RETRAIN_CNT p l) + 1) % 2 ^ 64 := by
  rw [laneRetrained, pair_bump64, pair_of_kept (wordsKept_laneRetrainShown p l los s)]
  · simp only [R.ING_LANE_STATUS, R.ING_RETRAIN_CNT, List.mem_cons, List.not_mem_nil, or_false]
    omega
  · simp only [R.ING_LANE_STATUS, R.ING_RETRAIN_CNT, List.mem_cons, List.not_mem_nil, or_false]
    omega

theorem wordsKept_calFailedBy {p : Nat} (b : Bool) (s : State) (hp : p < 4) : WordsKept s (calFailedBy p b s) statusWords := by
  cases b
  · exact fun _ _ => rfl
  · exact wordsKept_calFail s hp

theorem raised_laneRetrained_lost {p l : Nat} {s : State} (los : Bool) (h : s.lnSt p l = lnActive) : Raised (hIng p) 0 (laneRetrained p l los s) := by
  have hr := raised_laneTo_lost (p := p) (st := lnRetrain) h (by decide)
  cases los <;> exact hr

theorem calBusy_laneRetrained (p l : Nat) (los : Bool) (s : State) (q : Nat) :
    (laneRetrained p l los s).flag (R.ING_PORT_STATUS_CAL_BUSY q) = s.flag (R.ING_PORT_STATUS_CAL_BUSY q) := by
  rw [laneRetrained]
  have h1 : (R.ING_PORT_STATUS_CAL_BUSY q).off ∉ [R.ING_RETRAIN_CNT p l, R.ING_RETRAIN_CNT p l + 4] := by
    show R.ING_PORT_STATUS q ∉ _
    simp only [R.ING_PORT_STATUS, R.ING_RETRAIN_CNT, List.mem_cons, List.not_mem_nil, or_false]
    omega
  have h2 : (R.ING_PORT_STATUS_CAL_BUSY q).off ∉ [R.ING_LANE_STATUS p l] := by
    show R.ING_PORT_STATUS q ∉ _
    simp only [R.ING_PORT_STATUS, R.ING_LANE_STATUS, List.mem_cons, List.not_mem_nil, or_false]
    omega
  rw [flag_of_kept (wordsKept_bump64 _ _ 1) h1, flag_of_kept (wordsKept_laneRetrainShown p l los s) h2]

theorem PortStep.laneRetrained {p : Fin 4} {evs : List (Nat × Nat)} {s t : State} (h : PortStep p evs s t) {l : Nat} (los : Bool) (hl : l < 16)
    (h0 : (hIng p, 0) ∈ evs) : PortStep p evs s (laneRetrained p l los t) := by
  have h1 := (h.laneTo lnRetrain hl (fun _ _ => h0) (fun e => absurd e (by decide))).setLane p l { (t.lane p l).unlocked with unc := [] }
  have hc : InPage p (R.ING_RETRAIN_CNT p l) ∧ InPage p (R.ING_RETRAIN_CNT p l + 4) := by
    unfold InPage hIng R.ING_RETRAIN_CNT
    omega
  rw [Machine.laneRetrained]
  cases los
  · exact h1.bump64 1 hc.1 hc.2
  · exact (h1.setFlag (l := R.ING_LANE_STATUS_LOS p l) true (inPage_laneStatus hl)).bump64 1 hc.1 hc.2

/-- A READY or ACTIVE lane of a Taborn port retrains. -/
theorem laneRetrain_spec {p : Fin 4} {l : Nat} {s : State} (los trigger : Bool) (hl : l < 9) (hst : s.lnSt p l = lnReady ∨ s.lnSt p l = lnActive) (hj : s.jesd p = false) :
    (laneRetrain p l los trigger s).lnSt p l = lnRetrain ∧
    (laneRetrain p l los trigger s).pair (R.ING_RETRAIN_CNT p l) = (s.pair (R.ING_RETRAIN_CNT p l) + 1) % 2 ^ 64 ∧
    (s.lnSt p l = lnActive → Raised (hIng p) 0 (laneRetrain p l los trigger s)) ∧
    (trigger = true → s.lnLogical p l ≠ 15 → s.flag (R.ING_PORT_STATUS_CAL_BUSY p) = true → Raised (hIng p) 8 (laneRetrain p l los trigger s)) ∧
    (los = true → (laneRetrain p l los trigger s).flag (R.ING_LANE_STATUS_LOS p l) = true) ∧
    (laneRetrain p l los trigger s).flag (R.ING_LANE_STATUS_AM_LOCK p l) = false ∧
    PortStep p ([(hIng p, 0), (hIng p, 3)] ++ (if trigger then [(hIng p, 8)] else []) ++ [(hIng p, 11)]) s (laneRetrain p l los trigger s) := by
  have hl16 : l < 16 := by omega
  rw [laneRetrain_taborn los trigger hst hj]
  generalize hb : (trigger && s.lnLogical p l != 15) = b
  have hw : WordsKept (laneRetrained p l los s) (portUpdate p (calFailedBy p b (laneRetrained p l los s))) statusWords :=
    wordsKept_step (wordsKept_calFailedBy b _ p.isLt) (wordsKept_portUpdate _ p.isLt)
  have hstat := laneStatus_notMem_status p hl16
  have hcnt : R.ING_RETRAIN_CNT p l ∉ statusWords ∧ R.ING_RETRAIN_CNT p l + 4 ∉ statusWords :=
    ⟨laneWord_notMem_status p (by unfold hIng R.ING_RETRAIN_CNT; omega) (by unfold hIng R.ING_RETRAIN_CNT; omega),
      laneWord_notMem_status p (by unfold hIng R.ING_RETRAIN_CNT; omega) (by unfold hIng R.ING_RETRAIN_CNT; omega)⟩
  have hretr : PortStep p ([(hIng p, 0), (hIng p, 3)] ++ (if trigger then [(hIng p, 8)] else []) ++ [(hIng p, 11)]) s (laneRetrained p l los s) :=
    (PortStep.refl p _ s).laneRetrained los hl16 (by simp)
  have hfail : PortStep p ([(hIng p, 0), (hIng p, 3)] ++ (if trigger then [(hIng p, 8)] else []) ++ [(hIng p, 11)]) (laneRetrained p l los s)
      (calFailedBy p b (laneRetrained p l los s)) := by
    cases b
    · exact .refl ..
    · exact (PortStep.refl p _ _).calFail fun _ => by simp [(Bool.and_eq_true_iff.mp hb).1]
  have hupd : PortStep p ([(hIng p, 0), (hIng p, 3)] ++ (if trigger then [(hIng p, 8)] else []) ++ [(hIng p, 11)]) (calFailedBy p b (laneRetrained p l los s))
      (portUpdate p (calFailedBy p b (laneRetrained p l los s))) := (PortStep.refl p _ _).portUpdate (fun _ => by simp) (fun _ => by simp)
  refine ⟨(lnSt_of_kept hw hstat).trans (lnSt_laneRetrained ..), (pair_of_kept hw hcnt.1 hcnt.2).trans (cnt_laneRetrained ..),
    fun ha => (hfail.trans hupd).raised (raised_laneRetrained_lost los ha), fun ht hk hc => hupd.raised ?_,
    fun h => (flag_of_kept hw hstat).trans (h ▸ los_laneRetrained p l s), (flag_of_kept hw hstat).trans (amLock_laneRetrained ..), (hretr.trans hfail).trans hupd⟩
  have hbt : b = true := by simp [← hb, ht, hk]
  rw [hbt]
  exact raised_calFail ((calBusy_laneRetrained p l los s p).trans hc)

end Sys2Proof.Machine
end

section
/-! The commands of a port (R87, R105, R109): CAL, RETRAIN, IDLE and WAKE. -/

namespace Sys2Proof.Machine

open Sys2Proof.Claims

/-! What a command of the port does, by what its meaning answers. -/

theorem exec_portCal {p : Fin 4} {s u : State} {c : Code} (hb : s.cmdBusy (hIng p) = false) (h : portCalCmd p s = (c, u)) :
    exec (.portCal p) s = .next (finish (hIng p) 2 c u) := congrArg Host.Outcome.next (runCmd_of hb h)

theorem exec_ingRetrain {p : Fin 4} {s u : State} {c : Code} (hb : s.cmdBusy (hIng p) = false) (h : ingRetrainCmd p s = (c, u)) :
    exec (.ingRetrain p) s = .next (finish (hIng p) 3 c u) := congrArg Host.Outcome.next (runCmd_of hb h)

theorem exec_portIdle {p : Fin 4} {s u : State} {c : Code} (hb : s.cmdBusy (hIng p) = false) (h : portIdleCmd p s = (c, u)) :
    exec (.portIdle p) s = .next (finish (hIng p) 4 c u) := congrArg Host.Outcome.next (runCmd_of hb h)

theorem exec_portWake {p : Fin 4} {s u : State} {c : Code} (hb : s.cmdBusy (hIng p) = false) (h : portWakeCmd p s = (c, u)) :
    exec (.portWake p) s = .next (finish (hIng p) 5 c u) := congrArg Host.Outcome.next (runCmd_of hb h)

/-! CAL (R105). -/

/-- Does a calibration of some port run? -/
def calRuns (s : State) : Bool := (List.range 4).any (fun q => s.flag (R.ING_PORT_STATUS_CAL_BUSY q))

theorem calRuns_eq_false {s : State} (h : ∀ q : Fin 4, s.flag (R.ING_PORT_STATUS_CAL_BUSY q) = false) : calRuns s = false :=
  List.any_eq_false.mpr fun q hq => ne_true_of_eq_false (h ⟨q, List.mem_range.mp hq⟩)

theorem calRuns_eq_true {s : State} (h : ∃ q : Fin 4, s.flag (R.ING_PORT_STATUS_CAL_BUSY q) = true) : calRuns s = true := by
  obtain ⟨q, hq⟩ := h
  exact List.any_eq_true.mpr ⟨q, List.mem_range.mpr q.isLt, hq⟩

theorem portRuns_iff {s : State} {p : Nat} : s.portRuns p = true ↔ s.portState p = psRun ∨ s.portState p = psSpared := by
  simp [State.portRuns]

theorem portRuns_eq_false {s : State} {p : Nat} (h : s.portState p ≠ psRun ∧ s.portState p ≠ psSpared) : s.portRuns p = false := by
  simp [State.portRuns, h]

theorem portCalCmd_busy {s : State} (p : Nat) (h : calRuns s = true) : portCalCmd p s = (.busy, s) := if_pos h

theorem portCalCmd_idle {s : State} (p : Nat) (h : calRuns s = false) : portCalCmd p s = if s.portRuns p then (.ok, calStart p s) else (.state, s) :=
  if_neg (ne_true_of_eq_false h)

theorem calBusy_calStart (p : Nat) (s : State) : (calStart p s).flag (R.ING_PORT_STATUS_CAL_BUSY p) = true :=
  State.flag_setFlag_same s (R.ING_PORT_STATUS_CAL_BUSY p) true rfl (by decide : 3 < 32)

theorem portState_calStart (p : Nat) (s : State) : (calStart p s).portState p = s.portState p :=
  State.fld_setFld_apart s (l := R.ING_PORT_STATUS_CAL_BUSY p) _ (by decide : 3 ≤ 3) (by decide : 3 < 32) (.inr (by decide : 2 < 3))

theorem wordsKept_calStart (p : Nat) (s : State) : WordsKept s (calStart p s) [R.ING_PORT_STATUS p] := wordsKept_setFlag s (R.ING_PORT_STATUS_CAL_BUSY p) true

/-! IDLE (R92, R93). -/

/-- One lane of a port that idles. -/
def laneIdled (p : Nat) (ext : Bool) (s : State) (l : Nat) : State :=
  if (s.lnSt p l = lnOff ∧ !ext) ∨ s.lnSt p l = lnIdle then s.setLane p l { s.lane p l with waking := false } else idleLane p l s

/-- All lanes of a port that idles, IDLE sent to all. -/
def allIdled (p : Nat) (ext : Bool) (s : State) : State := (List.range 9).foldl (laneIdled p ext) (bcSend p 5 15 0 0 s)

theorem portToIdle_eq (p : Nat) (ext : Bool) (s : State) : portToIdle p ext s =
    portUpdate p ((allIdled p ext s).setPort p { (allIdled p ext s).portSt p with idle := true, ext := ((allIdled p ext s).portSt p).ext || ext }) := rfl

theorem wordsKept_laneIdled (p : Nat) (ext : Bool) (s : State) (l : Nat) : WordsKept s (laneIdled p ext s l) [R.ING_LANE_STATUS p l] := by
  unfold laneIdled
  split
  · exact fun _ _ => rfl
  · exact wordsKept_idleLane p l s

theorem portSt_laneIdled (p : Nat) (ext : Bool) (s : State) (l q : Nat) : (laneIdled p ext s l).portSt q = s.portSt q := by
  unfold laneIdled
  split
  · rfl
  · exact portSt_laneTo ..

theorem lnSt_laneIdled {p l : Nat} {s : State} (h : s.lnSt p l ≠ lnOff) : (laneIdled p false s l).lnSt p l = lnIdle := by
  unfold laneIdled
  split
  · rename_i hc
    exact hc.resolve_left fun ho => h ho.1
  · exact lnSt_idleLane p l s

theorem lnSt_laneIdled_ne {l m : Nat} (p : Nat) (ext : Bool) (s : State) (h : m ≠ l) : (laneIdled p ext s m).lnSt p l = s.lnSt p l :=
  lnSt_of_kept (wordsKept_laneIdled p ext s m) (by unfold R.ING_LANE_STATUS; simp; omega)

theorem PortStep.laneIdled {p : Fin 4} {evs : List (Nat × Nat)} {s t : State} (h : PortStep p evs s t) (ext : Bool) {l : Nat} (hl : l < 16) (h0 : (hIng p, 0) ∈ evs) :
    PortStep p evs s (laneIdled p ext t l) := by
  unfold Machine.laneIdled
  split
  · exact h.setLane p l _
  · exact h.idleLane hl fun _ => h0

theorem lnSt_allIdled {p l : Nat} {s : State} (hl : l < 9) (h : s.lnSt p l ≠ lnOff) : (allIdled p false s).lnSt p l = lnIdle := by
  have hkeep (t : State) (m : Nat) (ht : t.lnSt p l = lnIdle) : (laneIdled p false t m).lnSt p l = lnIdle := by
    by_cases hm : m = l
    · rw [hm]
      exact lnSt_laneIdled (by rw [ht]; decide)
    · exact (lnSt_laneIdled_ne p false t hm).trans ht
  have hon (t : State) (m : Nat) (ht : t.lnSt p l ≠ lnOff) : (laneIdled p false t m).lnSt p l ≠ lnOff := by
    by_cases hm : m = l
    · rw [hm, lnSt_laneIdled ht]
      decide
    · rwa [lnSt_laneIdled_ne p false t hm]
  exact foldl_establishes (I := fun t => t.lnSt p l ≠ lnOff) (P := fun t => t.lnSt p l = lnIdle) (List.mem_range.mpr hl) (fun t m _ => hon t m)
    (fun _ ht => lnSt_laneIdled ht) (fun t m _ _ => hkeep t m) h

theorem portSt_allIdled (p : Nat) (ext : Bool) (s : State) (q : Nat) : (allIdled p ext s).portSt q = s.portSt q :=
  List.foldlRecOn (motive := fun t : State => t.portSt q = s.portSt q) _ _ rfl fun t ht l _ => (portSt_laneIdled p ext t l q).trans ht

/-- The words outside the lanes stay. -/
theorem wordsKept_allIdled (p : Nat) (ext : Bool) (s : State) : WordsKept s (allIdled p ext s) ((List.range 9).map (R.ING_LANE_STATUS p)) :=
  wordsKept_foldl _ (bcSend p 5 15 0 0 s) fun t l hl =>
    wordsKept_mono (wordsKept_laneIdled p ext t l) (List.cons_subset.mpr ⟨List.mem_map_of_mem hl, List.nil_subset _⟩)

theorem portCfg_notMem_lanes (p : Nat) : R.ING_PORT_CFG p ∉ (List.range 9).map (R.ING_LANE_STATUS p) := by
  simp only [List.mem_map, R.ING_PORT_CFG, R.ING_LANE_STATUS, not_exists, not_and]
  omega

/-- A port that is enabled goes to IDLE, and its lanes with it. -/
theorem portToIdle_spec {p : Fin 4} {s : State} (hen : s.flag (R.ING_PORT_CFG_EN p) = true) (hc : (s.portSt p).cfgBad = false) :
    (portToIdle p false s).portState p = psIdle ∧ (∀ l < 9, s.lnSt p l ≠ lnOff → (portToIdle p false s).lnSt p l = lnIdle) ∧
    Out.backChannel p (bcFrame 0xF05) ∈ (portToIdle p false s).rep.out ∧
    PortStep p [(hIng p, 0), (hIng p, 3), (hIng p, 11)] s (portToIdle p false s) := by
  have hidled : PortStep p [(hIng p, 0), (hIng p, 3), (hIng p, 11)] (bcSend p 5 15 0 0 s) (portToIdle p false s) :=
    (((PortStep.refl p _ (bcSend p 5 15 0 0 s)).foldl _ fun u l hl =>
      (PortStep.refl p _ u).laneIdled false (Nat.lt_trans (List.mem_range.mp hl) (by decide)) (by simp)).setPort p _).portUpdate
      (fun _ => by simp) (fun _ => by simp)
  refine ⟨?_, fun l hl h => ?_, hidled.sent (bcSend_sent p 5 15 0 0 s), ((PortStep.refl p _ s).bcSend 5 15 0 0).trans hidled⟩
  · rw [portToIdle_eq, portState_portUpdate]
    refine portTarget_idle ((flag_of_kept (wordsKept_allIdled p false s) (portCfg_notMem_lanes p)).trans hen) ?_ ?_
    · rw [portSt_setPort_same, portSt_allIdled]
      exact hc
    · rw [portSt_setPort_same]
  · rw [portToIdle_eq, lnSt_portUpdate p _ (by omega)]
    exact lnSt_allIdled hl h

/-! WAKE (R92). -/

/-- One lane of a port that wakes. -/
def laneWoken (p : Nat) (s : State) (l : Nat) : State := if s.lnSt p l = lnIdle then s.setLane p l { s.lane p l with waking := true } else s

/-- All lanes of a port that wakes, WAKE sent to all. -/
def allWoken (p : Nat) (s : State) : State := (List.range 9).foldl (laneWoken p) (bcSend p 6 15 0 0 s)

/-- The port is awake again. -/
def portWoken (p : Nat) (s : State) : State := portUpdate p ((allWoken p s).setPort p { (allWoken p s).portSt p with idle := false, ext := false })

theorem portWakeCmd_wakes {p : Nat} {s : State} (h : s.portState p = psIdle) : portWakeCmd p s = (.ok, portWoken p s) := if_neg (not_not_intro h)

theorem laneWoken_regs (p : Nat) (s : State) (l : Nat) : (laneWoken p s l).regs = s.regs := by
  unfold laneWoken
  split <;> rfl

theorem waking_laneWoken {p l : Nat} {s : State} (h : s.lnSt p l = lnIdle) : ((laneWoken p s l).lane p l).waking = true := by
  rw [laneWoken, if_pos h, lane_setLane_same]

theorem lane_laneWoken_ne {l m : Nat} (p : Nat) (s : State) (h : m ≠ l) : (laneWoken p s m).lane p l = s.lane p l := by
  unfold laneWoken
  split
  · exact lane_setLane_ne _ _ _ h
  · rfl

theorem allWoken_regs (p : Nat) (s : State) : (allWoken p s).regs = s.regs :=
  List.foldlRecOn (motive := fun t : State => t.regs = s.regs) _ _ rfl fun t ht l _ => (laneWoken_regs p t l).trans ht

theorem waking_allWoken {p l : Nat} {s : State} (hl : l < 9) (h : s.lnSt p l = lnIdle) : ((allWoken p s).lane p l).waking = true := by
  have hidle (t : State) (m : Nat) (ht : t.lnSt p l = lnIdle) : (laneWoken p t m).lnSt p l = lnIdle := (State.fld_congr (laneWoken_regs p t m) _).trans ht
  refine foldl_establishes (I := fun t => t.lnSt p l = lnIdle) (P := fun t => (t.lane p l).waking = true) (List.mem_range.mpr hl) (fun t m _ => hidle t m)
    (fun _ ht => waking_laneWoken ht) (fun t m _ ht hw => ?_) h
  by_cases hm : m = l
  · rw [hm]
    exact waking_laneWoken ht
  · rwa [lane_laneWoken_ne p t hm]

theorem PortStep.laneWoken {p : Fin 4} {evs : List (Nat × Nat)} {s t : State} (h : PortStep p evs s t) (l : Nat) : PortStep p evs s (laneWoken p t l) := by
  unfold Machine.laneWoken
  split
  · exact h.setLane p l _
  · exact h

theorem portWoken_spec (p : Fin 4) (s : State) :
    ((portWoken p s).portSt p).idle = false ∧ (∀ l < 9, s.lnSt p l = lnIdle → ((portWoken p s).lane p l).waking = true ∧ (portWoken p s).lnSt p l = lnIdle) ∧
    Out.backChannel p (bcFrame 0xF06) ∈ (portWoken p s).rep.out ∧ PortStep p [(hIng p, 3), (hIng p, 11)] s (portWoken p s) := by
  have hwoken : PortStep p [(hIng p, 3), (hIng p, 11)] (bcSend p 6 15 0 0 s) (portWoken p s) :=
    (((PortStep.refl p _ (bcSend p 6 15 0 0 s)).foldl _ fun u l _ => (PortStep.refl p _ u).laneWoken l).setPort p _).portUpdate (fun _ => by simp) (fun _ => by simp)
  refine ⟨?_, fun l hl h => ⟨?_, ?_⟩, hwoken.sent (bcSend_sent p 6 15 0 0 s), ((PortStep.refl p _ s).bcSend 6 15 0 0).trans hwoken⟩
  · rw [portWoken, portSt_portUpdate, portSt_setPort_same]
  · rw [portWoken, lane_portUpdate]
    exact waking_allWoken hl h
  · rw [portWoken, lnSt_portUpdate p _ (by omega)]
    exact (State.fld_congr (allWoken_regs p s) _).trans h

/-! RETRAIN (R109). -/

theorem ingRetrainCmd_range {p : Nat} {s : State} (h : 8 < s.fld (R.ING_CMD_ARG_LANE p)) : ingRetrainCmd p s = (.range, s) := if_pos h

theorem ingRetrainCmd_state {p l : Nat} {s : State} (hl : s.fld (R.ING_CMD_ARG_LANE p) = l) (h9 : l < 9) (h : s.lnSt p l ≠ lnReady ∧ s.lnSt p l ≠ lnActive) :
    ingRetrainCmd p s = (.state, s) := by
  subst hl
  exact (if_neg (by omega)).trans (if_neg (not_or.mpr h))

theorem ingRetrainCmd_retrains {p l : Nat} {s : State} (hl : s.fld (R.ING_CMD_ARG_LANE p) = l) (h9 : l < 9) (h : s.lnSt p l = lnReady ∨ s.lnSt p l = lnActive) :
    ingRetrainCmd p s = (.ok, laneRetrain p l false false s) := by
  subst hl
  exact (if_neg (by omega)).trans (if_pos h)

end Sys2Proof.Machine

open Sys2Proof Sys2Proof.Machine Sys2Proof.Claims

/-- Settles O10: each command by what its meaning answers, and what the lanes and the port make of it. -/
theorem portCommands : Obligations.PortCommands := by
  unfold Obligations.PortCommands
  intro s p l hb
  have hregs (code : Nat) (c : Code) (t : State) (m : Loc) : (finish (hIng p) code c t).fld m = t.fld m := State.fld_congr (finish_regs ..) m
  refine ⟨fun hcal hruns => ⟨_, exec_portCal hb ((portCalCmd_idle p (calRuns_eq_false hcal)).trans (if_pos (portRuns_iff.mpr hruns))), ?cal⟩,
    fun hcal hrun hspared => ⟨_, exec_portCal hb ((portCalCmd_idle p (calRuns_eq_false hcal)).trans
      (if_neg (ne_true_of_eq_false (portRuns_eq_false ⟨hrun, hspared⟩)))), turnedAway_finish ..⟩,
    fun hcal => ⟨_, exec_portCal hb (portCalCmd_busy p (calRuns_eq_true hcal)), turnedAway_finish ..⟩,
    fun hl hst hj => ⟨_, exec_ingRetrain hb (ingRetrainCmd_retrains hl l.isLt hst), ?retrain⟩,
    fun h => ⟨_, exec_ingRetrain hb (ingRetrainCmd_range h), turnedAway_finish ..⟩,
    fun hl hr ha => ⟨_, exec_ingRetrain hb (ingRetrainCmd_state hl l.isLt ⟨hr, ha⟩), turnedAway_finish ..⟩,
    fun hst hen hc => ⟨_, exec_portIdle hb (if_neg hst), ?idle⟩,
    fun hst => ⟨_, exec_portIdle hb (if_pos hst), turnedAway_finish ..⟩,
    fun hst => ⟨_, exec_portWake hb (portWakeCmd_wakes hst), ?wake⟩,
    fun hst => ⟨_, exec_portWake hb (if_pos hst), turnedAway_finish ..⟩⟩
  case cal =>
    refine ⟨(congrArg (· == 1) (hregs ..)).trans (calBusy_calStart p s), (hregs ..).trans (portState_calStart p s), ?_,
      wordsKept_step (wordsKept_calStart p s) (wordsKept_of_regs (finish_regs ..)), finished_finish_of _ _ _ rfl⟩
    rw [finish_eq]
    rfl
  case retrain =>
    obtain ⟨hln, hcnt, hlost, -, -, -, hstep⟩ := laneRetrain_spec false false l.isLt hst hj
    exact ⟨(hregs ..).trans hln, (pair_congr (finish_regs ..) _).trans hcnt, finish_done .., fun ha => (hlost ha).kept (finish_frame ..), (hstep.finish 3 .ok).frame⟩
  case idle =>
    obtain ⟨hport, hlanes, hsent, hstep⟩ := portToIdle_spec hen hc
    exact ⟨(hregs ..).trans hport, fun hoff => (hregs ..).trans (hlanes l l.isLt hoff), sent_finish _ _ _ _ hsent, finish_done .., (hstep.finish 4 .ok).frame⟩
  case wake =>
    obtain ⟨hidle, hlanes, hsent, hstep⟩ := portWoken_spec p s
    have hing (t : State) : (finish (hIng p) 5 .ok t).ing = t.ing := by rw [finish_eq]
    refine ⟨(congrArg PortSt.idle (portSt_congr (hing _) p)).trans hidle, fun hl => ?_, sent_finish _ _ _ _ hsent, finish_done .., (hstep.finish 5 .ok).frame⟩
    obtain ⟨hwaking, hln⟩ := hlanes l l.isLt hl
    exact ⟨(congrArg LaneSt.waking (lane_congr (hing _) p l)).trans hwaking, (hregs ..).trans hln⟩
end

section
/-! A lane's way from OFF through training to READY or FAILED (R86 to R90). -/

namespace Sys2Proof.Machine

open Sys2Proof.Claims

/-! A signal is found (R88). -/

/-- What the end of DETECT leaves. -/
def laneDetected (p l : Nat) (s : State) : State := laneTo p l lnLock (s.setFlag (R.ING_LANE_STATUS_LOS p l) false)

theorem lnSt_setLos (p l : Nat) (b : Bool) (s : State) : (s.setFlag (R.ING_LANE_STATUS_LOS p l) b).lnSt p l = s.lnSt p l :=
  State.fld_setFld_apart s (l := R.ING_LANE_STATUS_LOS p l) _ (by decide : 4 ≤ 4) (by decide : 4 < 32) (.inr (by decide : 3 < 4))

theorem lnSt_setLol (p l : Nat) (b : Bool) (s : State) : (s.setFlag (R.ING_LANE_STATUS_LOL p l) b).lnSt p l = s.lnSt p l :=
  State.fld_setFld_apart s (l := R.ING_LANE_STATUS_LOL p l) _ (by decide : 5 ≤ 5) (by decide : 5 < 32) (.inr (by decide : 3 < 5))

theorem los_setLos (p l : Nat) (b : Bool) (s : State) : (s.setFlag (R.ING_LANE_STATUS_LOS p l) b).flag (R.ING_LANE_STATUS_LOS p l) = b :=
  State.flag_setFlag_same s _ b rfl (by decide : 4 < 32)

theorem laneDetected_spec {p l : Nat} {s : State} (h : s.lnSt p l = lnDetect) :
    laneDetected p l s = { s with regs := (laneDetected p l s).regs } ∧ (laneDetected p l s).lnSt p l = lnLock ∧
    (laneDetected p l s).flag (R.ING_LANE_STATUS_LOS p l) = false ∧ WordsKept s (laneDetected p l s) [R.ING_LANE_STATUS p l] := by
  have hquiet : laneDetected p l s = laneShown p l lnLock (s.setFlag (R.ING_LANE_STATUS_LOS p l) false) :=
    laneTo_quiet (.inl (by rw [lnSt_setLos, h]; decide)) (by decide)
  refine ⟨?_, lnSt_laneTo p l _ (by decide), ?_, wordsKept_step (wordsKept_setFlag s (R.ING_LANE_STATUS_LOS p l) false) (wordsKept_laneTo p l lnLock _)⟩
  · rw [hquiet]
    exact laneShown_eq ..
  · exact (flag_los_laneTo p l _ (by decide)).trans (los_setLos ..)

/-! The presets of the sweep (R88). -/

/-- The best preset measured so far, with its errors. -/
def bestPreset (b : Option (Nat × Nat)) (q errs : Nat) : Nat × Nat :=
  match b with
  | some (b, e) => if errs < e then (q, errs) else (b, e)
  | none => (q, errs)

/-- A preset that is better than all before it is the best. -/
theorem bestPreset_new {b : Option (Nat × Nat)} {errs : Nat} (q : Nat) (h : b.all (fun b => decide (errs < b.2)) = true) : bestPreset b q errs = (q, errs) := by
  cases b with
  | none => rfl
  | some b => exact if_pos (of_decide_eq_true h)

/-- Where every preset has too many errors, the best one has. -/
theorem bestPreset_bad {b : Option (Nat × Nat)} {errs : Nat} (q : Nat) (h : b.all (fun b => decide (16384 * 544 < b.2 * 100000)) = true)
    (he : 16384 * 544 < errs * 100000) : serGood (bestPreset b q errs).2 = false := by
  refine decide_eq_false (Nat.not_le.mpr ?_)
  cases b with
  | none => exact he
  | some b =>
    rw [bestPreset, apply_ite Prod.snd]
    split
    · exact he
    · exact of_decide_eq_true h

theorem presetMeasured_more {p l q q' : Nat} {s : State} {rest : List Nat} (errs : Nat) (hst : s.lnSt p l = lnTrain) (hsw : (s.lane p l).sweep = q :: q' :: rest) :
    presetMeasured p l errs s =
      sweepNext p l (s.setLane p l { s.lane p l with sweep := q' :: rest, best := some (bestPreset (s.lane p l).best q errs) }) := by
  simp only [presetMeasured, hsw, hst]
  rfl

/-- The last preset of the sweep: no good one, the last one is the best, or the best one is taken up again. -/
theorem presetMeasured_last {p l q : Nat} {s : State} (errs : Nat) (hst : s.lnSt p l = lnTrain) (hsw : (s.lane p l).sweep = [q]) :
    presetMeasured p l errs s =
      if !serGood (bestPreset (s.lane p l).best q errs).2 then laneFail p l s
      else if (bestPreset (s.lane p l).best q errs).1 = q then laneReady p l (s.setLane p l { s.lane p l with chosen := q, sweep := [] })
      else bcSend p 2 l 0 (bestPreset (s.lane p l).best q errs).1
        ((s.setFld (R.ING_LANE_STATUS_PRESET p l) (bestPreset (s.lane p l).best q errs).1).setLane p l
          { s.lane p l with chosen := (bestPreset (s.lane p l).best q errs).1, sweep := [], best := some (bestPreset (s.lane p l).best q errs), waitAck := true }) := by
  simp only [presetMeasured, hsw, hst]
  rfl

theorem presetMeasured_good {p l q : Nat} {s : State} {errs : Nat} (hst : s.lnSt p l = lnTrain) (hsw : (s.lane p l).sweep = [q])
    (hb : bestPreset (s.lane p l).best q errs = (q, errs)) (hg : errs * 100000 ≤ 16384 * 544) :
    presetMeasured p l errs s = laneReady p l (s.setLane p l { s.lane p l with chosen := q, sweep := [] }) := by
  have hser : serGood errs = true := decide_eq_true hg
  rw [presetMeasured_last errs hst hsw, hb, hser]
  exact if_pos rfl

theorem presetMeasured_bad {p l q : Nat} {s : State} {errs : Nat} (hst : s.lnSt p l = lnTrain) (hsw : (s.lane p l).sweep = [q])
    (hb : serGood (bestPreset (s.lane p l).best q errs).2 = false) : presetMeasured p l errs s = laneFail p l s := by
  rw [presetMeasured_last errs hst hsw, hb]
  rfl

theorem sweepNext_cons {p l q : Nat} {s : State} {rest : List Nat} (h : (s.lane p l).sweep = q :: rest) :
    sweepNext p l s = bcSend p 2 l 0 q (s.setFld (R.ING_LANE_STATUS_PRESET p l) q) := by
  rw [sweepNext, h]

/-! READY (R88, R90). -/

/-- The lane is READY, its count and back-off set back. -/
def laneReadied (p l : Nat) (s : State) : State :=
  ((laneTo p l lnReady s).setLane p l { s.lane p l with fails := 0, unc := [], waitAck := false, sweep := [] }).setFld (R.ING_LANE_STATUS_BACKOFF p l) 0

theorem wordsKept_laneReadied (p l : Nat) (s : State) : WordsKept s (laneReadied p l s) [R.ING_LANE_STATUS p l] :=
  wordsKept_step (wordsKept_laneTo p l lnReady s) (wordsKept_setFld ((laneTo p l lnReady s).setLane p l _) (R.ING_LANE_STATUS_BACKOFF p l) 0)

theorem lnSt_laneReadied (p l : Nat) (s : State) : (laneReadied p l s).lnSt p l = lnReady :=
  (State.fld_setFld_apart _ (l := R.ING_LANE_STATUS_BACKOFF p l) (m := R.ING_LANE_STATUS_STATE p l) _ (by decide : 16 ≤ 19) (by decide : 19 < 32)
    (.inr (by decide : 3 < 16))).trans (lnSt_laneTo p l s (by decide))

theorem lnLogical_laneReadied (p l : Nat) (s : State) : (laneReadied p l s).lnLogical p l = s.lnLogical p l :=
  (State.fld_setFld_apart _ (l := R.ING_LANE_STATUS_BACKOFF p l) (m := R.ING_LANE_STATUS_LOGICAL p l) _ (by decide : 16 ≤ 19) (by decide : 19 < 32)
    (.inr (by decide : 15 < 16))).trans (lnLogical_laneTo p l lnReady s l)

theorem backoff_laneReadied (p l : Nat) (s : State) : (laneReadied p l s).fld (R.ING_LANE_STATUS_BACKOFF p l) = 0 :=
  State.fld_setFld_same _ (R.ING_LANE_STATUS_BACKOFF p l) 0 (by decide : 16 ≤ 19) (by decide : 19 < 32)

theorem portSt_laneReadied (p l q : Nat) (s : State) : (laneReadied p l s).portSt q = s.portSt q := portSt_laneTo p l lnReady q s

theorem portCfg_ne_lane (p l : Nat) : R.ING_PORT_CFG p ∉ [R.ING_LANE_STATUS p l] := by
  simp only [R.ING_PORT_CFG, R.ING_LANE_STATUS, List.mem_cons, List.not_mem_nil, or_false]
  omega

theorem PortStep.laneReadied {p : Fin 4} {evs : List (Nat × Nat)} {s t : State} (h : PortStep p evs s t) {l : Nat} (hl : l < 16) (ha : t.lnSt p l ≠ lnActive)
    (h1 : (hIng p, 1) ∈ evs) : PortStep p evs s (laneReadied p l t) :=
  ((h.laneTo lnReady hl (fun h _ => absurd h ha) fun _ => h1).setLane p l _).setFld (l := R.ING_LANE_STATUS_BACKOFF p l) 0 (inPage_laneStatus hl)

/-- A lane that carried no logical lane becomes a spare that is not idled, where every logical lane has a working lane. -/
theorem laneReady_spare {p l : Nat} {s : State} (hk : s.lnLogical p l = 15) (hg : (s.portSt p).gone = []) (hi : s.flag (R.ING_PORT_CFG_SPARE_IDLE p) = false) :
    laneReady p l s = portUpdate p (laneReadied p l s) := by
  have hi' : (laneReadied p l s).flag (R.ING_PORT_CFG_SPARE_IDLE p) = false :=
    (flag_of_kept (wordsKept_laneReadied p l s) (portCfg_ne_lane p l)).trans hi
  have hg' : ((laneReadied p l s).portSt p).gone = [] := (congrArg PortSt.gone (portSt_laneReadied p l p s)).trans hg
  have hnone : (List.range 8).find? (fun k => ((laneReadied p l s).portSt p).gone.contains k) = none := by simp [hg']
  change portUpdate p (if (laneReadied p l s).lnLogical p l ≠ 15 then _ else match (List.range 8).find? (fun k => ((laneReadied p l s).portSt p).gone.contains k) with
    | some k => _
    | none => if (laneReadied p l s).flag (R.ING_PORT_CFG_SPARE_IDLE p) then _ else laneReadied p l s) = _
  rw [if_neg (not_not_intro ((lnLogical_laneReadied p l s).trans hk)), hnone, hi']
  rfl

/-- Training ends in READY on a lane that becomes a spare. -/
theorem laneReady_spec {p : Fin 4} {l : Nat} {s : State} (hl : l < 9) (hst : s.lnSt p l ≠ lnReady ∧ s.lnSt p l ≠ lnActive) (hk : s.lnLogical p l = 15)
    (hg : (s.portSt p).gone = []) (hi : s.flag (R.ING_PORT_CFG_SPARE_IDLE p) = false) :
    (laneReady p l s).lnSt p l = lnReady ∧ (laneReady p l s).fld (R.ING_LANE_STATUS_BACKOFF p l) = 0 ∧
    (laneReady p l s).lane p l = { s.lane p l with fails := 0, unc := [], waitAck := false, sweep := [] } ∧ Raised (hIng p) 1 (laneReady p l s) ∧
    PortStep p [(hIng p, 1), (hIng p, 3), (hIng p, 11)] s (laneReady p l s) := by
  have hl16 : l < 16 := by omega
  rw [laneReady_spare hk hg hi]
  have hupd : PortStep p [(hIng p, 1), (hIng p, 3), (hIng p, 11)] (laneReadied p l s) (portUpdate p (laneReadied p l s)) :=
    (PortStep.refl p _ _).portUpdate (fun _ => by simp) (fun _ => by simp)
  refine ⟨(lnSt_portUpdate p _ hl16).trans (lnSt_laneReadied p l s),
    (fld_portUpdate p _ (m := R.ING_LANE_STATUS_BACKOFF p l) (laneStatus_notMem_status p hl16)).trans (backoff_laneReadied p l s), ?_,
    hupd.raised (raised_laneTo_ready hst.1), ((PortStep.refl p _ s).laneReadied hl16 hst.2 (by simp)).trans hupd⟩
  rw [lane_portUpdate]
  exact lane_setLane_same (laneTo p l lnReady s) p l _

/-! DETECT again after the back-off (R90). -/

theorem laneBackoffEnd_spec {p l : Nat} {s : State} (h : s.lnSt p l = lnFailed) (hj : s.jesd p = false) :
    (toDetect p l s).lnSt p l = lnDetect ∧ (toDetect p l s).fld (R.ING_LANE_STATUS_PRESET p l) = 0 ∧ ((toDetect p l s).lane p l).fails = (s.lane p l).fails ∧
    toDetect p l s = { s with ing := (toDetect p l s).ing, regs := (toDetect p l s).regs,
                              rep := { s.rep with out := .backChannel p (bcFrame (1 + 256 * l)) :: s.rep.out } } ∧
    WordsKept s (toDetect p l s) [R.ING_LANE_STATUS p l] := by
  have hquiet : laneTo p l lnDetect s = laneShown p l lnDetect s := laneTo_quiet (.inl (by rw [h]; decide)) (by decide)
  have hj' : ((laneTo p l lnDetect s).setLane p l { (s.lane p l).unlocked with waking := false }).jesd p = false := (jesd_laneTo p l lnDetect p s).trans hj
  refine ⟨lnSt_toDetect p l s, (presetZero_taborn l 1 hj').1, by rw [lane_toDetect]; rfl, ?_, wordsKept_toDetect p l s⟩
  have heq : toDetect p l s = bcSend p 1 l 0 0 (((laneShown p l lnDetect s).setLane p l { (s.lane p l).unlocked with waking := false }).setFld
      (R.ING_LANE_STATUS_PRESET p l) 0) := by
    rw [toDetect_eq, presetZero, hj', hquiet]
    rfl
  rw [heq, laneShown_eq]
  rfl

/-! Signal or lock is lost (R88, R89). -/

/-- LOS and LOL show that the signal is lost. -/
def signalLost (p l : Nat) (s : State) : State := (s.setFlag (R.ING_LANE_STATUS_LOS p l) true).setFlag (R.ING_LANE_STATUS_LOL p l) true

theorem laneLost_training {p l : Nat} {s : State} (h : s.lnSt p l = lnLock ∨ s.lnSt p l = lnTrain) : laneLost p l true true s = laneFail p l (signalLost p l s) := by
  rcases h with h | h <;>
  · simp only [laneLost, h]
    rfl

theorem laneLost_trained {p l : Nat} {s : State} (los lol : Bool) (h : s.lnSt p l = lnReady ∨ s.lnSt p l = lnActive) :
    laneLost p l los lol s = laneRetrain p l los true s := by
  rcases h with h | h <;>
  · simp only [laneLost, h]
    rfl

theorem lnSt_signalLost (p l : Nat) (s : State) : (signalLost p l s).lnSt p l = s.lnSt p l := (lnSt_setLol ..).trans (lnSt_setLos ..)

theorem los_signalLost (p l : Nat) (s : State) : (signalLost p l s).flag (R.ING_LANE_STATUS_LOS p l) = true :=
  (congrArg (· == 1) (State.fld_setFld_apart _ (l := R.ING_LANE_STATUS_LOL p l) (m := R.ING_LANE_STATUS_LOS p l) _ (by decide : 5 ≤ 5) (by decide : 5 < 32)
    (.inr (by decide : 4 < 5)))).trans (los_setLos ..)

theorem PortStep.signalLost {p : Fin 4} {evs : List (Nat × Nat)} {s t : State} (h : PortStep p evs s t) {l : Nat} (hl : l < 16) :
    PortStep p evs s (signalLost p l t) :=
  (h.setFlag (l := R.ING_LANE_STATUS_LOS p l) _ (inPage_laneStatus hl)).setFlag (l := R.ING_LANE_STATUS_LOL p l) _ (inPage_laneStatus hl)

end Sys2Proof.Machine

open Sys2Proof Sys2Proof.Machine Sys2Proof.Claims

/-- Settles O12: each step of training by the state that the lane is in, and FAILED and READY by what they leave. -/
theorem laneTraining : Obligations.LaneTraining := by
  unfold Obligations.LaneTraining
  intro s p l errs q q' rest los
  have hl16 : l.val < 16 := by omega
  have hfails (h : s.lnSt p l ≠ lnActive) := laneFail_spec l.isLt h
  refine ⟨fun h => ⟨_, congrArg Host.Outcome.next (if_pos h), laneDetected_spec h⟩,
    fun hst hsw hq' => ⟨_, congrArg Host.Outcome.next ((presetMeasured_more errs hst hsw).trans (sweepNext_cons (congrArg LaneSt.sweep (lane_setLane_same ..)))), ?next⟩,
    fun hst hsw hb hg hk hgone hi => ⟨_, congrArg Host.Outcome.next (presetMeasured_good hst hsw (bestPreset_new q hb) hg), ?ready⟩,
    fun hst hsw hb he => ⟨_, congrArg Host.Outcome.next (presetMeasured_bad hst hsw (bestPreset_bad q hb he)), ?bad⟩,
    fun hst => ⟨_, congrArg Host.Outcome.next (if_pos hst), ?trainTimeout⟩,
    fun hst => ⟨_, congrArg Host.Outcome.next (if_pos hst), ?retrainTimeout⟩,
    fun hst hj => ⟨_, congrArg Host.Outcome.next (if_pos hst), laneBackoffEnd_spec hst hj⟩,
    fun hst => ⟨_, congrArg Host.Outcome.next (laneLost_training hst), ?lost⟩,
    fun hj hst => ⟨_, congrArg Host.Outcome.next (laneLost_trained los true hst), ?retrain⟩⟩
  case next =>
    have hlane := lane_setLane_same s p l { s.lane p l with sweep := q' :: rest, best := some (bestPreset (s.lane p l).best q errs) }
    refine ⟨congrArg LaneSt.sweep hlane, ?_, ?_, congrArg LaneSt.best hlane, rfl, wordsKept_setFld s (R.ING_LANE_STATUS_PRESET p l) q'⟩
    · exact (State.fld_setFld_same _ (R.ING_LANE_STATUS_PRESET p l) q' (by decide : 8 ≤ 10) (by decide : 10 < 32)).trans (Nat.mod_eq_of_lt hq')
    · exact (State.fld_setFld_apart _ (l := R.ING_LANE_STATUS_PRESET p l) (m := R.ING_LANE_STATUS_STATE p l) q' (by decide : 8 ≤ 10) (by decide : 10 < 32)
        (.inr (by decide : 3 < 8))).trans hst
  case ready =>
    have htrain : (s.setLane p l { s.lane p l with chosen := q, sweep := [] }).lnSt p l = lnTrain := hst
    obtain ⟨hln, hback, hlane, hraised, hstep⟩ := laneReady_spec (s := s.setLane p l { s.lane p l with chosen := q, sweep := [] }) l.isLt
      (by rw [htrain]; decide) hk hgone hi
    rw [lane_setLane_same] at hlane
    exact ⟨hln, hback, congrArg LaneSt.chosen hlane, congrArg LaneSt.fails hlane, hraised, (((PortStep.refl p _ s).setLane p l _).trans hstep).frame⟩
  case bad =>
    obtain ⟨hln, hback, hcount, -, hraised, hstep⟩ := hfails (by rw [hst]; decide)
    exact ⟨hln, hback, hcount, hraised, hstep.frame⟩
  case trainTimeout =>
    obtain ⟨hln, hback, hcount, -, hraised, hstep⟩ := hfails (by rcases hst with h | h <;> rw [h] <;> decide)
    exact ⟨hln, hback, hcount, hraised, hstep.frame⟩
  case retrainTimeout =>
    obtain ⟨hln, hback, hcount, -, hraised, hstep⟩ := hfails (by rw [hst]; decide)
    exact ⟨hln, hback, hcount, hraised, hstep.frame⟩
  case lost =>
    have hna : (signalLost p l s).lnSt p l ≠ lnActive := by rcases hst with h | h <;> rw [lnSt_signalLost, h] <;> decide
    obtain ⟨hln, -, -, hlos, hraised, hstep⟩ := laneFail_spec l.isLt hna
    exact ⟨hln, hlos.trans (los_signalLost p l s), hraised, (((PortStep.refl p _ s).signalLost hl16).trans hstep).frame⟩
  case retrain =>
    obtain ⟨hln, -, -, -, hlos, ham, hstep⟩ := laneRetrain_spec los true l.isLt hst hj
    exact ⟨hln, hlos, ham, hstep.frame⟩
end

section
/-! A trained lane in service (R89, R92, R94, R103, R104, R110). -/

namespace Sys2Proof.Machine

open Sys2Proof.Claims

/-! A logical lane that was moved to a spare is deskewed on it (R94). -/

/-- The logical lane no longer waits for its new lane. -/
def sparedIn (p k : Nat) (s : State) : State := raise (hIng p) 2 (s.setPort p { s.portSt p with moved := (s.portSt p).moved.filter (· != k) })

theorem spareIn_moved {p k : Nat} {s : State} (hk : k ∈ (s.portSt p).moved) (ha : s.lnSt p (s.laneOf p k) = lnActive) :
    spareIn p k s = portUpdate p (sparedIn p k s) :=
  if_pos (by rw [ha]; simpa using hk)

theorem spareIn_spec {p : Fin 4} {k : Nat} {s : State} (hk : k ∈ (s.portSt p).moved) (ha : s.lnSt p (s.laneOf p k) = lnActive) :
    Raised (hIng p) 2 (spareIn p k s) ∧ ((spareIn p k s).portSt p).moved = (s.portSt p).moved.filter (· != k) ∧
    (∀ l : Fin 9, (spareIn p k s).lnSt p l = s.lnSt p l) ∧ PortStep p [(hIng p, 2), (hIng p, 3), (hIng p, 11)] s (spareIn p k s) := by
  have hupd : PortStep p [(hIng p, 2), (hIng p, 3), (hIng p, 11)] (sparedIn p k s) (portUpdate p (sparedIn p k s)) :=
    (PortStep.refl p _ _).portUpdate (fun _ => by simp) (fun _ => by simp)
  rw [spareIn_moved hk ha]
  refine ⟨hupd.raised (raise_raised ..), ?_, fun l => lnSt_portUpdate p _ (by omega), (((PortStep.refl p _ s).setPort p _).raise (by simp)).trans hupd⟩
  rw [portSt_portUpdate]
  exact congrArg PortSt.moved (portSt_setPort_same s p _)

/-! Symbol errors over the last second (R89). -/

/-- SER and DEG show the last second. -/
def serShown (p l errs syms : Nat) (s : State) : State :=
  (s.setWord (R.ING_LANE_SER p l) (min (errs * 2 ^ 20 / max syms 1) 0xFFFFFFFF)).setFlag (R.ING_LANE_STATUS_DEG p l) (decide (syms < errs * 10000))

theorem ser_serShown (p l errs syms : Nat) (s : State) :
    (serShown p l errs syms s).wordN (R.ING_LANE_SER p l) = min (errs * 2 ^ 20 / max syms 1) 0xFFFFFFFF := by
  have hser : R.ING_LANE_SER p l ∉ [R.ING_LANE_STATUS p l] := by simp [R.ING_LANE_SER, R.ING_LANE_STATUS]
  refine (wordN_of_kept (wordsKept_setFlag _ (R.ING_LANE_STATUS_DEG p l) _) hser).trans ?_
  rw [State.wordN_setWord, if_pos rfl]
  exact Nat.mod_eq_of_lt (Nat.lt_of_le_of_lt (Nat.min_le_right ..) (by decide))

theorem deg_serShown (p l errs syms : Nat) (s : State) : (serShown p l errs syms s).flag (R.ING_LANE_STATUS_DEG p l) = decide (syms < errs * 10000) :=
  State.flag_setFlag_same _ _ _ rfl (by decide : 7 < 32)

theorem lnSt_serShown (p l errs syms : Nat) (s : State) : (serShown p l errs syms s).lnSt p l = s.lnSt p l := by
  refine (State.fld_setFld_apart _ (l := R.ING_LANE_STATUS_DEG p l) _ (by decide : 7 ≤ 7) (by decide : 7 < 32) (.inr (by decide : 3 < 7))).trans ?_
  exact lnSt_of_kept (wordsKept_setWord s _ _) (by simp [R.ING_LANE_SER, R.ING_LANE_STATUS])

theorem PortStep.serShown {p : Fin 4} {evs : List (Nat × Nat)} {s t : State} (h : PortStep p evs s t) {l : Nat} (errs syms : Nat) (hl : l < 16) :
    PortStep p evs s (serShown p l errs syms t) := by
  have hser : InPage p (R.ING_LANE_SER p l) := by
    unfold InPage hIng R.ING_LANE_SER
    omega
  exact (h.setWord _ hser).setFlag (l := R.ING_LANE_STATUS_DEG p l) _ (inPage_laneStatus hl)

theorem serSecond_spec {p : Fin 4} {l : Nat} {s : State} (errs syms : Nat) (hl : l < 9) (h : s.lnSt p l = lnReady ∨ s.lnSt p l = lnActive) :
    (serSecond p l errs syms s).wordN (R.ING_LANE_SER p l) = min (errs * 2 ^ 20 / max syms 1) 0xFFFFFFFF ∧
    (serSecond p l errs syms s).flag (R.ING_LANE_STATUS_DEG p l) = decide (syms < errs * 10000) ∧ (serSecond p l errs syms s).lnSt p l = s.lnSt p l ∧
    PortStep p [(hIng p, 3), (hIng p, 11)] s (serSecond p l errs syms s) := by
  have hl16 : l < 16 := by omega
  have heq : serSecond p l errs syms s = portUpdate p (serShown p l errs syms s) := if_pos h
  have hser : R.ING_LANE_SER p l ∉ statusWords :=
    laneWord_notMem_status p (by unfold hIng R.ING_LANE_SER; omega) (by unfold hIng R.ING_LANE_SER; omega)
  rw [heq]
  exact ⟨(wordN_of_kept (wordsKept_portUpdate _ p.isLt) hser).trans (ser_serShown ..),
    (flag_of_kept (wordsKept_portUpdate _ p.isLt) (laneStatus_notMem_status p hl16)).trans (deg_serShown ..),
    (lnSt_portUpdate p _ hl16).trans (lnSt_serShown ..),
    ((PortStep.refl p _ s).serShown errs syms hl16).portUpdate (fun _ => by simp) (fun _ => by simp)⟩

/-! The WAKE burst reaches an idled lane (R92). -/

/-- The lane no longer waits for the burst. -/
def burstSeen (p l : Nat) (s : State) : State := s.setLane p l { s.lane p l with waking := false }

/-- The lane's codeword count goes on from the place kept, with AM lock. -/
def countResumed (p l : Nat) (s : State) : State :=
  let s2 := (burstSeen p l s).setFlag (R.ING_LANE_STATUS_LOS p l) false
  ((s2.setFlag (R.ING_LANE_STATUS_LOL p l) false).setFlag (R.ING_LANE_STATUS_AM_LOCK p l) true).setLane p l
    ((s2.lane p l).counted (bits (s.portSt p).link 3 2) s.tclk)

theorem wakeResume_unlocked {p l : Nat} {s : State} (hi : s.lnSt p l = lnIdle) (hw : (s.lane p l).waking = true)
    (hp : (s.lane p l).prev = lnReady ∨ (s.lane p l).prev = lnActive) :
    wakeResume p l false s = portUpdate p (trainToLock p l ((burstSeen p l s).setFlag (R.ING_LANE_STATUS_LOS p l) false)) := by
  simp only [wakeResume, hi, hw, if_pos hp]
  rfl

theorem wakeResume_active {p l : Nat} {s : State} (hi : s.lnSt p l = lnIdle) (hw : (s.lane p l).waking = true) (hp : (s.lane p l).prev = lnActive) :
    wakeResume p l true s = portUpdate p (laneTo p l lnActive (countResumed p l s)) := by
  simp only [wakeResume, hi, hw, if_pos (Or.inr hp : (s.lane p l).prev = lnReady ∨ (s.lane p l).prev = lnActive), if_pos hp]
  rfl

/-- A lane that has not been trained goes to DETECT, or stays off where the port leaves it off. -/
theorem wakeResume_untrained {p l : Nat} {s : State} (found : Bool) (hi : s.lnSt p l = lnIdle) (hw : (s.lane p l).waking = true)
    (hp : (s.lane p l).prev ≠ lnReady ∧ (s.lane p l).prev ≠ lnActive) :
    wakeResume p l found s = portUpdate p
      (if (s.lane p l).prev = lnOff ∧ (!s.flag (R.ING_PORT_CFG_EN p) || (s.portSt p).cfgBad || (s.jesd p && l == 8)) then laneTo p l lnOff (burstSeen p l s)
       else toDetect p l (burstSeen p l s)) := by
  rw [apply_ite (portUpdate p)]
  simp only [wakeResume, hi, hw, if_neg (not_or.mpr hp)]
  rfl

theorem wakeResume_unlocked_spec {p : Fin 4} {l : Nat} {s : State} (hl : l < 9) (hi : s.lnSt p l = lnIdle) (hw : (s.lane p l).waking = true)
    (hp : (s.lane p l).prev = lnReady ∨ (s.lane p l).prev = lnActive) :
    (wakeResume p l false s).lnSt p l = lnLock ∧ ((wakeResume p l false s).lane p l).waking = false ∧
    (s.jesd p = false → (wakeResume p l false s).fld (R.ING_LANE_STATUS_PRESET p l) = 0 ∧
      Out.backChannel p (bcFrame (2 + 256 * l)) ∈ (wakeResume p l false s).rep.out) ∧
    PortStep p [(hIng p, 3), (hIng p, 11)] s (wakeResume p l false s) := by
  have hl16 : l < 16 := by omega
  rw [wakeResume_unlocked hi hw hp]
  generalize hu : (burstSeen p l s).setFlag (R.ING_LANE_STATUS_LOS p l) false = u
  have hidle : u.lnSt p l = lnIdle := by
    rw [← hu]
    exact (lnSt_setLos p l false (burstSeen p l s)).trans hi
  have hjesd : u.jesd p = s.jesd p := by rw [← hu]; rfl
  have hwaking : (u.lane p l).waking = false := by
    rw [← hu]
    exact congrArg LaneSt.waking (lane_setLane_same s p l _)
  have hseen : PortStep p [(hIng p, 3), (hIng p, 11)] s u := by
    rw [← hu]
    exact ((PortStep.refl p _ s).setLane p l _).setFlag (l := R.ING_LANE_STATUS_LOS p l) _ (inPage_laneStatus hl16)
  have hlock : PortStep p [(hIng p, 3), (hIng p, 11)] u (trainToLock p l u) :=
    (PortStep.refl p _ u).trainToLock hl16 fun h => absurd (hidle.symm.trans h) (by decide)
  have hupd : PortStep p [(hIng p, 3), (hIng p, 11)] (trainToLock p l u) (portUpdate p (trainToLock p l u)) :=
    (PortStep.refl p _ _).portUpdate (fun _ => by simp) (fun _ => by simp)
  refine ⟨(lnSt_portUpdate p _ hl16).trans (lnSt_trainToLock p l u), ?_, fun hj => ?_, (hseen.trans hlock).trans hupd⟩
  · rw [lane_portUpdate, lane_trainToLock]
    exact hwaking
  · have hj' : ((laneTo p l lnLock u).setLane p l (u.lane p l).unlocked).jesd p = false := (jesd_laneTo p l lnLock p u).trans (hjesd.trans hj)
    obtain ⟨hpreset, hrep⟩ := presetZero_taborn l 2 hj'
    rw [← trainToLock_eq] at hpreset hrep
    refine ⟨(fld_portUpdate p _ (m := R.ING_LANE_STATUS_PRESET p l) (laneStatus_notMem_status p hl16)).trans hpreset, hupd.sent ?_⟩
    rw [hrep]
    exact List.mem_cons_self

theorem lane_countResumed (p l : Nat) (s : State) : (countResumed p l s).lane p l =
    ({ s.lane p l with waking := false } : LaneSt).counted (bits (s.portSt p).link 3 2) s.tclk := by
  have hlane : ((burstSeen p l s).setFlag (R.ING_LANE_STATUS_LOS p l) false).lane p l = { s.lane p l with waking := false } := lane_setLane_same s p l _
  rw [countResumed, lane_setLane_same, hlane]

theorem wakeResume_active_spec {p : Fin 4} {l : Nat} {s : State} (hl : l < 9) (hi : s.lnSt p l = lnIdle) (hw : (s.lane p l).waking = true)
    (hp : (s.lane p l).prev = lnActive) :
    (wakeResume p l true s).lnSt p l = lnActive ∧ (wakeResume p l true s).lane p l =
      ({ s.lane p l with waking := false } : LaneSt).counted (bits (s.portSt p).link 3 2) s.tclk ∧
    (wakeResume p l true s).flag (R.ING_LANE_STATUS_AM_LOCK p l) = true ∧ PortStep p [(hIng p, 3), (hIng p, 11)] s (wakeResume p l true s) := by
  have hl16 : l < 16 := by omega
  have hpage := inPage_laneStatus (p := p) hl16
  have ham : (countResumed p l s).flag (R.ING_LANE_STATUS_AM_LOCK p l) = true := State.flag_setFlag_same _ _ true rfl (by decide : 6 < 32)
  have hres : PortStep p [(hIng p, 3), (hIng p, 11)] s (countResumed p l s) :=
    (((((PortStep.refl p _ s).setLane p l _).setFlag (l := R.ING_LANE_STATUS_LOS p l) _ hpage).setFlag (l := R.ING_LANE_STATUS_LOL p l) _ hpage).setFlag
      (l := R.ING_LANE_STATUS_AM_LOCK p l) _ hpage).setLane p l _
  rw [wakeResume_active hi hw hp]
  refine ⟨(lnSt_portUpdate p _ hl16).trans (lnSt_laneTo p l _ (by decide)), ?_,
    (flag_of_kept (wordsKept_portUpdate _ p.isLt) (laneStatus_notMem_status p hl16)).trans ((flag_amLock_laneTo_kept p l _ (.inr rfl)).trans ham),
    (hres.laneTo lnActive hl16 (fun _ h => absurd rfl h) fun e => absurd e (by decide)).portUpdate (fun _ => by simp) (fun _ => by simp)⟩
  rw [lane_portUpdate, lane_laneTo, lane_countResumed]

theorem wakeResume_detect_spec {p : Fin 4} {l : Nat} {s : State} (found : Bool) (hl : l < 9) (hi : s.lnSt p l = lnIdle) (hw : (s.lane p l).waking = true)
    (hp : (s.lane p l).prev ≠ lnReady ∧ (s.lane p l).prev ≠ lnActive)
    (hon : (s.lane p l).prev ≠ lnOff ∨ (s.flag (R.ING_PORT_CFG_EN p) = true ∧ (s.portSt p).cfgBad = false ∧ s.jesd p = false)) :
    (wakeResume p l found s).lnSt p l = lnDetect ∧ PortStep p [(hIng p, 3), (hIng p, 11)] s (wakeResume p l found s) := by
  have hl16 : l < 16 := by omega
  rw [wakeResume_untrained found hi hw hp, if_neg]
  case hnc =>
    rintro ⟨hoff, hc⟩
    obtain ⟨hen, hcfg, hj⟩ := hon.resolve_left (not_not_intro hoff)
    rw [hen, hcfg, hj] at hc
    exact absurd hc (by simp)
  have hseen : PortStep p [(hIng p, 3), (hIng p, 11)] s (burstSeen p l s) := (PortStep.refl p _ s).setLane p l _
  refine ⟨(lnSt_portUpdate p _ hl16).trans (lnSt_toDetect p l _), (hseen.toDetect hl16 fun h => ?_).portUpdate (fun _ => by simp) (fun _ => by simp)⟩
  exact absurd (hi.symm.trans h) (by decide)

theorem wakeResume_off_spec {p : Fin 4} {l : Nat} {s : State} (found : Bool) (hl : l < 9) (hi : s.lnSt p l = lnIdle) (hw : (s.lane p l).waking = true)
    (hp : (s.lane p l).prev = lnOff) (hen : s.flag (R.ING_PORT_CFG_EN p) = false) :
    (wakeResume p l found s).lnSt p l = lnOff ∧ PortStep p [(hIng p, 3)] s (wakeResume p l found s) := by
  have hl16 : l < 16 := by omega
  rw [wakeResume_untrained found hi hw (by rw [hp]; decide), if_pos ⟨hp, by rw [hen]; rfl⟩]
  have hen' : (laneTo p l lnOff (burstSeen p l s)).flag (R.ING_PORT_CFG_EN p) = false :=
    (flag_of_kept (wordsKept_laneTo p l lnOff (burstSeen p l s)) (portCfg_ne_lane p l)).trans hen
  have hseen : PortStep p [(hIng p, 3)] s (burstSeen p l s) := (PortStep.refl p _ s).setLane p l _
  refine ⟨(lnSt_portUpdate p _ hl16).trans (lnSt_laneTo p l _ (by decide)),
    (hseen.laneTo lnOff hl16 (fun h _ => absurd (hi.symm.trans h) (by decide)) fun e => absurd e (by decide)).portUpdate (fun _ => by simp) fun h => ?_⟩
  rcases portTarget_disabled hen' with ht | ht <;> rw [ht] at h <;> exact absurd h (by decide)

/-! JESD204C lanes (R103, R104). -/

theorem wordsKept_jesdEpochEnd (p : Nat) (s : State) : WordsKept s (jesdEpochEnd p s) [R.ING_PORT_STATUS p] := by
  unfold jesdEpochEnd
  split
  · exact wordsKept_setFlag s (R.ING_PORT_STATUS_EPOCH_VALID p) false
  · exact fun _ _ => rfl

theorem portSt_jesdEpochEnd (p : Nat) (s : State) :
    (jesdEpochEnd p s).portSt p = { s.portSt p with gapCoast := ((jesdEpochEnd p s).portSt p).gapCoast, asm := ((jesdEpochEnd p s).portSt p).asm } := by
  unfold jesdEpochEnd
  split
  · rw [portSt_setPort_same]
  · rfl

@[simp] theorem jesdEpochEnd_rep (p : Nat) (s : State) : (jesdEpochEnd p s).rep = s.rep := by
  unfold jesdEpochEnd
  split <;> rfl

theorem PortStep.jesdEpochEnd {p : Fin 4} {evs : List (Nat × Nat)} {s t : State} (h : PortStep p evs s t) : PortStep p evs s (jesdEpochEnd p t) := by
  unfold Machine.jesdEpochEnd
  split
  · exact (h.setFlag (l := R.ING_PORT_STATUS_EPOCH_VALID p) _ (inPage_status p)).setPort p _
  · exact h

/-- The lane has lock and carries the logical lane of its number. -/
def headerLocked (p l : Nat) (s : State) : State :=
  let s1 := (s.setFlag (R.ING_LANE_STATUS_LOS p l) false).setFlag (R.ING_LANE_STATUS_LOL p l) false
  (s1.setPort p { s.portSt p with gone := (s.portSt p).gone.filter (· != l) }).setFld (R.ING_LANE_STATUS_LOGICAL p l) l

/-- LANE_DEAD clears where no lane lacks lock any more. -/
def headerCleared (p : Nat) (s : State) : State := if (s.portSt p).gone.isEmpty then clearFault (hIng p) 0 s else s

/-- The epoch ends where it does not survive. -/
def epochJudged (p : Nat) (held : Bool) (s : State) : State := if held then s else jesdEpochEnd p s

theorem portSt_headerLocked (p l : Nat) (s : State) : (headerLocked p l s).portSt p = { s.portSt p with gone := (s.portSt p).gone.filter (· != l) } :=
  portSt_setPort_same _ p _

theorem syncHeaderLock_locks {p l : Nat} {s : State} (hj : s.jesd p = true) (hl : l < 8)
    (h : s.lnSt p l = lnLock ∨ s.lnSt p l = lnDetect ∨ s.lnSt p l = lnRetrain ∨ s.lnSt p l = lnFailed) :
    syncHeaderLock p l s = portUpdate p (laneTo p l lnActive (epochJudged p (s.sysrefHeld p) (headerCleared p (headerLocked p l s)))) := by
  have hcond : (s.jesd p && decide (l < 8) && (s.lnSt p l == lnLock || s.lnSt p l == lnDetect || s.lnSt p l == lnRetrain || s.lnSt p l == lnFailed)) = true := by
    simp only [hj, decide_eq_true hl, Bool.true_and, Bool.or_eq_true, beq_iff_eq]
    tauto
  rw [headerCleared, portSt_headerLocked]
  exact if_pos hcond

theorem headerCleared_eq (p : Nat) (s : State) : headerCleared p s = { s with rep := (headerCleared p s).rep } := by
  unfold headerCleared
  split <;> rfl

theorem faultBit_headerCleared {p : Nat} {s : State} (h : (s.portSt p).gone = []) : (headerCleared p s).faultBit (hIng p) 0 = false := by
  rw [headerCleared, h, List.isEmpty_nil, if_pos rfl, faultBit_clearFault, if_pos ⟨rfl, rfl⟩]

theorem wordsKept_epochJudged (p : Nat) (b : Bool) (s : State) : WordsKept s (epochJudged p b s) [R.ING_PORT_STATUS p] := by
  cases b
  · exact wordsKept_jesdEpochEnd p s
  · exact fun _ _ => rfl

theorem gone_epochJudged (p : Nat) (b : Bool) (s : State) : ((epochJudged p b s).portSt p).gone = (s.portSt p).gone := by
  cases b
  · show ((jesdEpochEnd p s).portSt p).gone = _
    rw [portSt_jesdEpochEnd]
  · rfl

theorem epochJudged_rep (p : Nat) (b : Bool) (s : State) : (epochJudged p b s).rep = s.rep := by
  cases b
  · exact jesdEpochEnd_rep p s
  · rfl

theorem PortStep.epochJudged {p : Fin 4} {evs : List (Nat × Nat)} {s t : State} (h : PortStep p evs s t) (b : Bool) : PortStep p evs s (epochJudged p b t) := by
  cases b
  · exact h.jesdEpochEnd
  · exact h

theorem PortStep.headerCleared {p : Fin 4} {evs : List (Nat × Nat)} {s t : State} (h : PortStep p evs s t) : PortStep p evs s (headerCleared p t) := by
  unfold Machine.headerCleared
  split
  · exact h.clearFault 0
  · exact h

theorem PortStep.headerLocked {p : Fin 4} {evs : List (Nat × Nat)} {s t : State} (h : PortStep p evs s t) {l : Nat} (hl : l < 16) :
    PortStep p evs s (headerLocked p l t) := by
  have hpage := inPage_laneStatus (p := p) hl
  exact (((h.setFlag (l := R.ING_LANE_STATUS_LOS p l) _ hpage).setFlag (l := R.ING_LANE_STATUS_LOL p l) _ hpage).setPort p _).setFld
    (l := R.ING_LANE_STATUS_LOGICAL p l) l hpage

theorem syncHeaderLock_spec {p : Fin 4} {l : Nat} {s : State} (hj : s.jesd p = true) (hl : l < 8)
    (h : s.lnSt p l = lnLock ∨ s.lnSt p l = lnDetect ∨ s.lnSt p l = lnRetrain ∨ s.lnSt p l = lnFailed) :
    (syncHeaderLock p l s).lnSt p l = lnActive ∧ (syncHeaderLock p l s).lnLogical p l = l ∧
    ((syncHeaderLock p l s).portSt p).gone = (s.portSt p).gone.filter (· != l) ∧
    (((syncHeaderLock p l s).portSt p).gone = [] → (syncHeaderLock p l s).faultBit (hIng p) 0 = false) ∧
    PortStep p [(hIng p, 3), (hIng p, 11)] s (syncHeaderLock p l s) := by
  have hl16 : l < 16 := by omega
  rw [syncHeaderLock_locks hj hl h]
  generalize hu : epochJudged p (s.sysrefHeld p) (headerCleared p (headerLocked p l s)) = u
  have hstatus : R.ING_LANE_STATUS p l ∉ [R.ING_PORT_STATUS p] := by
    simp only [R.ING_LANE_STATUS, R.ING_PORT_STATUS, List.mem_cons, List.not_mem_nil, or_false]
    omega
  have hlogical : u.lnLogical p l = l := by
    rw [← hu, lnLogical_of_kept (wordsKept_epochJudged p _ _) hstatus, headerCleared_eq]
    exact (State.fld_setFld_same _ (R.ING_LANE_STATUS_LOGICAL p l) l (by decide : 12 ≤ 15) (by decide : 15 < 32)).trans
      (Nat.mod_eq_of_lt (show l < 16 from hl16))
  have hgone : (u.portSt p).gone = (s.portSt p).gone.filter (· != l) := by
    rw [← hu, gone_epochJudged, headerCleared_eq]
    exact congrArg PortSt.gone (portSt_headerLocked p l s)
  have hgone' : ((portUpdate p (laneTo p l lnActive u)).portSt p).gone = (s.portSt p).gone.filter (· != l) := by
    rw [portSt_portUpdate, portSt_laneTo]
    exact hgone
  have hstep : PortStep p [(hIng p, 3), (hIng p, 11)] s u := by
    rw [← hu]
    exact (((PortStep.refl p _ s).headerLocked hl16).headerCleared).epochJudged _
  refine ⟨(lnSt_portUpdate p _ hl16).trans (lnSt_laneTo p l u (by decide)),
    (fld_portUpdate p _ (m := R.ING_LANE_STATUS_LOGICAL p l) (laneStatus_notMem_status p hl16)).trans ((lnLogical_laneTo p l lnActive u l).trans hlogical),
    hgone', fun hnil => ?_,
    (hstep.laneTo lnActive hl16 (fun _ h => absurd rfl h) fun e => absurd e (by decide)).portUpdate (fun _ => by simp) (fun _ => by simp)⟩
  have hnil' : (s.portSt p).gone.filter (· != l) = [] := hgone'.symm.trans hnil
  refine faultBit_portUpdate_clear ?_ (portTarget_not_dead ?_)
  · have hrep : u.faultBit (hIng p) 0 = (headerCleared p (headerLocked p l s)).faultBit (hIng p) 0 := by
      rw [← hu, State.faultBit, State.faultOf, epochJudged_rep]
      rfl
    rw [faultBit_laneTo, hrep]
    exact faultBit_headerCleared ((congrArg PortSt.gone (portSt_headerLocked p l s)).trans hnil')
  · rw [portSt_laneTo]
    exact hgone.trans hnil'

/-- The lane has had no lock for 40 ms. -/
def lockMissed (p l : Nat) (s : State) : State := s.setPort p { s.portSt p with gone := (s.portSt p).gone ++ [l] }

theorem syncLossTimeout_spec {p : Fin 4} {l : Nat} {s : State} (hj : s.jesd p = true) (hl : l < 8) (hen : s.flag (R.ING_PORT_CFG_EN p) = true)
    (hst : s.lnSt p l ≠ lnActive) (hg : l ∉ (s.portSt p).gone) (hc : (s.portSt p).cfgBad = false) (hi : (s.portSt p).idle = false) (hd : s.portState p ≠ psDead) :
    (syncLossTimeout p l s).portState p = psDead ∧ (syncLossTimeout p l s).faultBit (hIng p) 0 = true ∧ Raised (hIng p) 3 (syncLossTimeout p l s) ∧
    PortStep p [(hIng p, 3)] s (syncLossTimeout p l s) := by
  have heq : syncLossTimeout p l s = portUpdate p (lockMissed p l s) := if_pos (by simp [hj, hl, hen, hst, hg])
  have hport : (lockMissed p l s).portSt p = { s.portSt p with gone := (s.portSt p).gone ++ [l] } := portSt_setPort_same s p _
  have htgt : portTarget (lockMissed p l s) p = psDead := portTarget_dead hen (by rw [hport]; exact hc) (by rw [hport]; exact hi) (by rw [hport]; simp)
  obtain ⟨hfault, hraised⟩ := portUpdate_enters_dead htgt hd
  have hmissed : PortStep p [(hIng p, 3)] s (lockMissed p l s) := (PortStep.refl p _ s).setPort p _
  rw [heq]
  refine ⟨(portState_portUpdate p _).trans htgt, hfault, hraised, hmissed.portUpdate (fun _ => by simp) fun h => ?_⟩
  rw [htgt] at h
  exact absurd h (by decide)

end Sys2Proof.Machine

open Sys2Proof Sys2Proof.Machine Sys2Proof.Claims

/-- Settles O13: each step of a lane in service by the branch it takes, and what the port makes of it. -/
theorem laneService : Obligations.LaneService := by
  unfold Obligations.LaneService
  intro s p l k errs syms found cause
  have hl8 (h : l ≠ 8) : l.val < 8 := by
    have : l.val ≠ 8 := fun e => h (Fin.ext e)
    omega
  refine ⟨fun hj hst => ⟨_, rfl, ?retrain⟩, fun hk ha => ⟨_, rfl, ?spare⟩, fun hst => ⟨_, rfl, ?ser⟩, fun hi hw hp => ⟨_, rfl, ?unlocked⟩,
    fun hi hw hp => ⟨_, rfl, ?active⟩, fun hi hw hr ha hon => ⟨_, rfl, ?detect⟩, fun hi hw hp hen => ⟨_, rfl, ?off⟩, fun hj hl h => ⟨_, rfl, ?header⟩,
    fun hj hl hen hst hg hc hidle hd => ⟨_, rfl, ?timeout⟩⟩
  case retrain =>
    obtain ⟨hln, hcnt, hlost, hcal, -, -, hstep⟩ := laneRetrain_spec (cause == .los) true l.isLt hst hj
    exact ⟨hln, hcnt, hlost, hcal rfl, hstep.frame⟩
  case spare =>
    obtain ⟨hraised, hmoved, hlanes, hstep⟩ := spareIn_spec hk ha
    exact ⟨hraised, hmoved, hlanes, hstep.frame⟩
  case ser =>
    obtain ⟨hser, hdeg, hln, hstep⟩ := serSecond_spec errs syms l.isLt hst
    exact ⟨hser, by rw [hdeg, decide_eq_true_iff], hln, hstep.frame⟩
  case unlocked =>
    obtain ⟨hln, hwaking, hsent, hstep⟩ := wakeResume_unlocked_spec l.isLt hi hw hp
    exact ⟨hln, hwaking, hsent, hstep.frame⟩
  case active =>
    obtain ⟨hln, hlane, ham, hstep⟩ := wakeResume_active_spec l.isLt hi hw hp
    exact ⟨hln, congrArg LaneSt.waking hlane, ham, congrArg LaneSt.since hlane, hstep.frame⟩
  case detect =>
    obtain ⟨hln, hstep⟩ := wakeResume_detect_spec found l.isLt hi hw ⟨hr, ha⟩ hon
    exact ⟨hln, hstep.frame⟩
  case off =>
    obtain ⟨hln, hstep⟩ := wakeResume_off_spec found l.isLt hi hw hp hen
    exact ⟨hln, hstep.frame⟩
  case header =>
    obtain ⟨hln, hlogical, hgone, hfault, hstep⟩ := syncHeaderLock_spec hj (hl8 hl) h
    exact ⟨hln, hlogical, hgone, hfault, hstep.frame⟩
  case timeout =>
    obtain ⟨hport, hfault, hraised, hstep⟩ := syncLossTimeout_spec hj (hl8 hl) hen hst hg hc hidle hd
    exact ⟨hport, hfault, hraised, hstep.frame⟩
end

section
/-! RESTART and writes to ING_PORT_CFG (R72, R74, R88, R103, R109): the port stops, and its lanes start over in the format that is put in force. -/

namespace Sys2Proof.Machine

open Sys2Proof.Claims

/-- The status words of the lanes of a port; ING_LANE_MAP can name lanes up to 15. -/
def laneWords (p : Nat) : List Nat := (List.range 16).map (R.ING_LANE_STATUS p)

theorem mem_laneWords {p l : Nat} (h : l < 16) : R.ING_LANE_STATUS p l ∈ laneWords p := List.mem_map_of_mem (List.mem_range.mpr h)

theorem wordsKept_lane {p l : Nat} {s t : State} (h : WordsKept s t [R.ING_LANE_STATUS p l]) (hl : l < 16) : WordsKept s t (laneWords p) :=
  wordsKept_mono h (List.cons_subset.mpr ⟨mem_laneWords hl, List.nil_subset _⟩)

/-- The words of the port before those of its lanes. -/
theorem portWord_notMem_lanes {p o : Nat} (h : o < R.ING_LANE_STATUS p 0) : o ∉ laneWords p := by
  unfold R.ING_LANE_STATUS at h
  simp only [laneWords, List.mem_map, R.ING_LANE_STATUS, not_exists, not_and]
  omega

theorem status_notMem_lanes (p : Nat) : R.ING_PORT_STATUS p ∉ laneWords p := portWord_notMem_lanes (by unfold R.ING_PORT_STATUS R.ING_LANE_STATUS; omega)
theorem cfg_notMem_lanes (p : Nat) : R.ING_PORT_CFG p ∉ laneWords p := portWord_notMem_lanes (by unfold R.ING_PORT_CFG R.ING_LANE_STATUS; omega)

theorem laneStatus_inj {p l m : Nat} (h : m ≠ l) : R.ING_LANE_STATUS p l ∉ [R.ING_LANE_STATUS p m] := by
  simp only [R.ING_LANE_STATUS, List.mem_cons, List.not_mem_nil, or_false]
  omega

theorem laneStatus_ne_status (p l : Nat) : R.ING_LANE_STATUS p l ∉ [R.ING_PORT_STATUS p] := by
  simp only [R.ING_LANE_STATUS, R.ING_PORT_STATUS, List.mem_cons, List.not_mem_nil, or_false]
  omega

theorem cfg_notMem_status (p : Nat) : R.ING_PORT_CFG p ∉ statusWords := by
  simp only [statusWords, List.mem_map, R.ING_PORT_CFG, R.ING_PORT_STATUS, not_exists, not_and]
  omega

theorem cfg_ne_status (p : Nat) : R.ING_PORT_CFG p ∉ [R.ING_PORT_STATUS p] := by simp [R.ING_PORT_CFG, R.ING_PORT_STATUS]

/-! The lanes of a port that stops (R72, R88). -/

/-- A lane is off, and keeps its count of failures. -/
def laneStopped (p : Nat) (s : State) (l : Nat) : State :=
  ((laneTo p l lnOff s).setFld (R.ING_LANE_STATUS_LOGICAL p l) 15).setLane p l { LaneSt.init with fails := (s.lane p l).fails }

/-- All lanes are off. -/
def lanesStopped (p : Nat) (s : State) : State := (List.range 9).foldl (laneStopped p) s

theorem wordsKept_laneStopped (p : Nat) (s : State) (l : Nat) : WordsKept s (laneStopped p s l) [R.ING_LANE_STATUS p l] :=
  wordsKept_step (wordsKept_laneTo p l lnOff s) (wordsKept_setFld _ (R.ING_LANE_STATUS_LOGICAL p l) 15)

theorem lnSt_laneStopped (p l : Nat) (s : State) : (laneStopped p s l).lnSt p l = lnOff :=
  (State.fld_setFld_apart _ (l := R.ING_LANE_STATUS_LOGICAL p l) (m := R.ING_LANE_STATUS_STATE p l) 15 (by decide : 12 ≤ 15) (by decide : 15 < 32)
    (.inr (by decide : 3 < 12))).trans (lnSt_laneTo p l s (by decide))

theorem fails_laneStopped (p l m : Nat) (s : State) : ((laneStopped p s m).lane p l).fails = (s.lane p l).fails := by
  by_cases h : m = l
  · rw [h, laneStopped, lane_setLane_same]
  · rw [laneStopped, lane_setLane_ne _ _ _ h]
    exact congrArg LaneSt.fails (lane_laneTo p m lnOff p l s)

theorem portSt_laneStopped (p l q : Nat) (s : State) : (laneStopped p s l).portSt q = s.portSt q := portSt_laneTo p l lnOff q s

theorem faultBit_laneStopped (p l u b : Nat) (s : State) : (laneStopped p s l).faultBit u b = s.faultBit u b := faultBit_laneTo p l lnOff u b s

theorem PortStep.laneStopped {p : Fin 4} {evs : List (Nat × Nat)} {s t : State} (h : PortStep p evs s t) {l : Nat} (hl : l < 16) (h0 : (hIng p, 0) ∈ evs) :
    PortStep p evs s (laneStopped p t l) :=
  ((h.laneTo lnOff hl (fun _ _ => h0) (fun e => absurd e (by decide))).setFld (l := R.ING_LANE_STATUS_LOGICAL p l) 15 (inPage_laneStatus hl)).setLane p l _

theorem wordsKept_lanesStopped (p : Nat) (s : State) : WordsKept s (lanesStopped p s) (laneWords p) :=
  wordsKept_foldl _ s fun t l hl => wordsKept_lane (wordsKept_laneStopped p t l) (Nat.lt_trans (List.mem_range.mp hl) (by decide))

theorem lnSt_lanesStopped {p l : Nat} (s : State) (hl : l < 9) : (lanesStopped p s).lnSt p l = lnOff := by
  refine foldl_establishes (I := fun _ => True) (P := fun t => t.lnSt p l = lnOff) (List.mem_range.mpr hl) (fun _ _ _ _ => trivial)
    (fun t _ => lnSt_laneStopped p l t) (fun t m _ _ ht => ?_) trivial
  by_cases hm : m = l
  · rw [hm, lnSt_laneStopped]
  · exact (lnSt_of_kept (wordsKept_laneStopped p t m) (laneStatus_inj hm)).trans ht

theorem fails_lanesStopped (p l : Nat) (s : State) : ((lanesStopped p s).lane p l).fails = (s.lane p l).fails :=
  List.foldlRecOn (motive := fun t : State => (t.lane p l).fails = (s.lane p l).fails) _ _ rfl fun t ht m _ => (fails_laneStopped p l m t).trans ht

theorem portSt_lanesStopped (p q : Nat) (s : State) : (lanesStopped p s).portSt q = s.portSt q :=
  List.foldlRecOn (motive := fun t : State => t.portSt q = s.portSt q) _ _ rfl fun t ht m _ => (portSt_laneStopped p m q t).trans ht

theorem faultBit_lanesStopped (p u b : Nat) (s : State) : (lanesStopped p s).faultBit u b = s.faultBit u b :=
  List.foldlRecOn (motive := fun t : State => t.faultBit u b = s.faultBit u b) _ _ rfl fun t ht m _ => (faultBit_laneStopped p m u b t).trans ht

theorem PortStep.lanesStopped {p : Fin 4} {evs : List (Nat × Nat)} {s t : State} (h : PortStep p evs s t) (h0 : (hIng p, 0) ∈ evs) :
    PortStep p evs s (lanesStopped p t) :=
  h.foldl _ fun u l hl => (PortStep.refl p evs u).laneStopped (Nat.lt_trans (List.mem_range.mp hl) (by decide)) h0

/-! The port that stops (R72, R84, R99). -/

/-- Its epoch has ended, and nothing is known of its lanes and frames. -/
def epochStopped (p : Nat) (s : State) : State :=
  let x := s.portSt p
  (((s.setFlag (R.ING_PORT_STATUS_EPOCH_VALID p) false).setPort p
    { x with asm := true, recheck := false, gone := [], moved := [], fmtOk := [], idle := false, ext := false, deliver := none
             gapCoast := x.gapCoast || s.flag (R.ING_PORT_STATUS_EPOCH_VALID p), sysref := none, phaseTo := none }).setFlag (R.ING_PORT_STATUS_SYSREF_OK p) false)

theorem portStop_eq (p : Nat) (s : State) :
    portStop p s = unbond p (clearFault (hIng p) 2 (clearFault (hIng p) 1 (epochStopped p (lanesStopped p (calFail p s))))) := rfl

theorem unbond_free {p : Nat} {s : State} (h : s.bonded p = false) : unbond p s = s := by
  rw [unbond, h]
  rfl

theorem wordsKept_epochStopped (p : Nat) (s : State) : WordsKept s (epochStopped p s) [R.ING_PORT_STATUS p] :=
  wordsKept_step (wordsKept_setFlag s (R.ING_PORT_STATUS_EPOCH_VALID p) false) (wordsKept_setFlag _ (R.ING_PORT_STATUS_SYSREF_OK p) false)

theorem bonded_epochStopped (p : Nat) (s : State) : (epochStopped p s).bonded p = s.bonded p :=
  congrArg (· == 1) ((State.fld_setFld_apart _ (l := R.ING_PORT_STATUS_SYSREF_OK p) (m := R.ING_PORT_STATUS_BONDED p) _ (by decide : 7 ≤ 7) (by decide : 7 < 32)
    (.inr (by decide : 5 < 7))).trans
    (State.fld_setFld_apart s (l := R.ING_PORT_STATUS_EPOCH_VALID p) (m := R.ING_PORT_STATUS_BONDED p) _ (by decide : 4 ≤ 4) (by decide : 4 < 32) (.inl (by decide : 4 < 5))))

theorem epochValid_epochStopped (p : Nat) (s : State) : (epochStopped p s).flag (R.ING_PORT_STATUS_EPOCH_VALID p) = false :=
  (congrArg (· == 1) (State.fld_setFld_apart _ (l := R.ING_PORT_STATUS_SYSREF_OK p) (m := R.ING_PORT_STATUS_EPOCH_VALID p) _ (by decide : 7 ≤ 7) (by decide : 7 < 32)
    (.inr (by decide : 4 < 7)))).trans (State.flag_setFlag_same s (R.ING_PORT_STATUS_EPOCH_VALID p) false rfl (by decide : 4 < 32))

theorem portSt_epochStopped (p : Nat) (s : State) : (epochStopped p s).portSt p =
    { s.portSt p with asm := true, recheck := false, gone := [], moved := [], fmtOk := [], idle := false, ext := false, deliver := none
                      gapCoast := (s.portSt p).gapCoast || s.flag (R.ING_PORT_STATUS_EPOCH_VALID p), sysref := none, phaseTo := none } :=
  portSt_setPort_same _ p _

theorem PortStep.epochStopped {p : Fin 4} {evs : List (Nat × Nat)} {s t : State} (h : PortStep p evs s t) : PortStep p evs s (epochStopped p t) :=
  ((h.setFlag (l := R.ING_PORT_STATUS_EPOCH_VALID p) _ (inPage_status p)).setPort p _).setFlag (l := R.ING_PORT_STATUS_SYSREF_OK p) _ (inPage_status p)

/-- What the stop of a port that is in no bond leaves. -/
structure Stopped (p : Fin 4) (s t : State) : Prop where
  lnSt : ∀ l < 9, t.lnSt p l = lnOff
  fails : ∀ l, (t.lane p l).fails = (s.lane p l).fails
  cfg : t.word (R.ING_PORT_CFG p) = s.word (R.ING_PORT_CFG p)
  epoch : t.flag (R.ING_PORT_STATUS_EPOCH_VALID p) = false
  asm : (t.portSt p).asm = true
  idle : (t.portSt p).idle = false
  gone : (t.portSt p).gone = []
  link : (t.portSt p).link = (s.portSt p).link
  fmt : (t.portSt p).fmt = (s.portSt p).fmt
  faultBit : t.faultBit (hIng p) 3 = s.faultBit (hIng p) 3
  step : PortStep p [(hIng p, 0), (hIng p, 8)] s t

theorem portStop_free {p : Fin 4} {s : State} (h : s.bonded p = false) :
    portStop p s = clearFault (hIng p) 2 (clearFault (hIng p) 1 (epochStopped p (lanesStopped p (calFail p s)))) := by
  have hb : (epochStopped p (lanesStopped p (calFail p s))).bonded p = s.bonded p :=
    (bonded_epochStopped ..).trans ((flag_of_kept (wordsKept_lanesStopped p _) (status_notMem_lanes p)).trans
      (congrArg (· == 1) (fld_calFail p s (m := R.ING_PORT_STATUS_BONDED p) (.inl (by decide : 3 < 5)))))
  rw [portStop_eq]
  exact unbond_free (hb.trans h)

theorem Stopped.clearFault {p : Fin 4} {s t : State} (h : Stopped p s t) {b : Nat} (hb : b ≠ 3) : Stopped p s (clearFault (hIng p) b t) where
  lnSt := h.lnSt
  fails := h.fails
  cfg := h.cfg
  epoch := h.epoch
  asm := h.asm
  idle := h.idle
  gone := h.gone
  link := h.link
  fmt := h.fmt
  faultBit := (faultBit_clearFault ..).trans ((if_neg fun e => hb e.2.symm).trans h.faultBit)
  step := h.step.clearFault b

theorem epochStopped_stopped (p : Fin 4) (s : State) : Stopped p s (epochStopped p (lanesStopped p (calFail p s))) := by
  have hport := (portSt_lanesStopped p p (calFail p s)).trans (portSt_calFail p s)
  have hlanes := fun l (hl : l < 9) => lnSt_lanesStopped (p := p) (calFail p s) hl
  have hfails := fun l => (fails_lanesStopped p l (calFail p s)).trans (congrArg LaneSt.fails (lane_calFail ..))
  have hcfg := (wordsKept_lanesStopped p (calFail p s) _ (cfg_notMem_lanes p)).trans (wordsKept_calFail s p.isLt _ (cfg_notMem_status p))
  have hfault := (faultBit_lanesStopped p (hIng p) 3 (calFail p s)).trans (faultBit_calFail p (hIng p) 3 s)
  have hstep : PortStep p [(hIng p, 0), (hIng p, 8)] s (lanesStopped p (calFail p s)) :=
    ((PortStep.refl p _ s).calFail fun _ => by simp).lanesStopped (by simp)
  generalize lanesStopped p (calFail p s) = a at hport hlanes hfails hcfg hfault hstep ⊢
  have hx := portSt_epochStopped p a
  have hw := wordsKept_epochStopped p a
  exact {
    lnSt := fun l hl => (lnSt_of_kept hw (laneStatus_ne_status p l)).trans (hlanes l hl)
    fails := hfails
    cfg := (hw _ (cfg_ne_status p)).trans hcfg
    epoch := epochValid_epochStopped p a
    asm := by rw [hx]
    idle := by rw [hx]
    gone := by rw [hx]
    link := by rw [hx, hport]
    fmt := by rw [hx, hport]
    faultBit := hfault
    step := hstep.epochStopped }

theorem portStop_stopped {p : Fin 4} {s : State} (h : s.bonded p = false) : Stopped p s (portStop p s) := by
  rw [portStop_free h]
  exact ((epochStopped_stopped p s).clearFault (by decide)).clearFault (by decide)

/-! The lanes of an enabled port start (R88, R103). -/

/-- Each lane carries the logical lane that the map gives it. -/
def lanesNumbered (p : Nat) (s : State) : State := (List.range 8).foldl (fun s k => s.setFld (R.ING_LANE_STATUS_LOGICAL p (s.laneOf p k)) k) s

/-- Lanes with numbers below `n` go to DETECT. -/
def lanesDetect (p n : Nat) (s : State) : State := (List.range n).foldl (fun s l => toDetect p l s) s

theorem lanesStart_eq (p : Nat) (s : State) : lanesStart p s = lanesDetect p (if s.jesd p then 8 else 9) (lanesNumbered p s) := rfl

theorem laneOf_lt (s : State) (p : Nat) {k : Nat} (hk : k < 8) : s.laneOf p k < 16 := by
  unfold State.laneOf
  split
  · omega
  · exact Nat.lt_of_lt_of_eq (bits_lt ..) (by rw [show 4 * k + 3 + 1 - 4 * k = 4 by omega]; rfl)

/-- Fields of the lanes beside LOGICAL stay, and so do all other words. -/
theorem lanesNumbered_kept (p : Nat) (s : State) :
    WordsKept s (lanesNumbered p s) (laneWords p) ∧ (∀ l, (lanesNumbered p s).lnSt p l = s.lnSt p l) ∧ (lanesNumbered p s).ing = s.ing ∧
    (lanesNumbered p s).rep = s.rep := by
  refine List.foldlRecOn (motive := fun t : State => WordsKept s t (laneWords p) ∧ (∀ l, t.lnSt p l = s.lnSt p l) ∧ t.ing = s.ing ∧ t.rep = s.rep) _ _
    ⟨fun _ _ => rfl, fun _ => rfl, rfl, rfl⟩ fun t ⟨hw, hln, hi, hr⟩ k hk => ⟨?_, fun l => ?_, hi, hr⟩
  · exact wordsKept_step hw (wordsKept_lane (wordsKept_setFld t (R.ING_LANE_STATUS_LOGICAL p (t.laneOf p k)) k) (laneOf_lt t p (List.mem_range.mp hk)))
  · exact (State.fld_setFld_apart t (l := R.ING_LANE_STATUS_LOGICAL p (t.laneOf p k)) (m := R.ING_LANE_STATUS_STATE p l) k (by decide : 12 ≤ 15)
      (by decide : 15 < 32) (.inr (by decide : 3 < 12))).trans (hln l)

theorem PortStep.lanesNumbered {p : Fin 4} {evs : List (Nat × Nat)} {s t : State} (h : PortStep p evs s t) : PortStep p evs s (lanesNumbered p t) :=
  h.foldl _ fun u k hk => (PortStep.refl p evs u).setFld (l := R.ING_LANE_STATUS_LOGICAL p (u.laneOf p k)) k
    (inPage_laneStatus (laneOf_lt u p (List.mem_range.mp hk)))

theorem wordsKept_lanesDetect {n : Nat} (p : Nat) (s : State) (hn : n ≤ 16) : WordsKept s (lanesDetect p n s) (laneWords p) :=
  wordsKept_foldl _ s fun t l hl => wordsKept_lane (wordsKept_toDetect p l t) (Nat.lt_of_lt_of_le (List.mem_range.mp hl) hn)

theorem lnSt_toDetect_ne {l m : Nat} (p : Nat) (s : State) (h : m ≠ l) : (toDetect p m s).lnSt p l = s.lnSt p l :=
  lnSt_of_kept (wordsKept_toDetect p m s) (laneStatus_inj h)

theorem lnSt_lanesDetect (p n l : Nat) (s : State) : (lanesDetect p n s).lnSt p l = if l < n then lnDetect else s.lnSt p l := by
  split
  · rename_i hl
    refine foldl_establishes (I := fun _ => True) (P := fun t => t.lnSt p l = lnDetect) (List.mem_range.mpr hl) (fun _ _ _ _ => trivial)
      (fun t _ => lnSt_toDetect p l t) (fun t m _ _ ht => ?_) trivial
    by_cases hm : m = l
    · rw [hm, lnSt_toDetect]
    · rwa [lnSt_toDetect_ne p t hm]
  · rename_i hl
    refine List.foldlRecOn (motive := fun t : State => t.lnSt p l = s.lnSt p l) _ _ rfl fun t ht m hm => (lnSt_toDetect_ne p t ?_).trans ht
    rintro rfl
    exact hl (List.mem_range.mp hm)

theorem fails_lanesDetect (p n l : Nat) (s : State) : ((lanesDetect p n s).lane p l).fails = (s.lane p l).fails := by
  refine List.foldlRecOn (motive := fun t : State => (t.lane p l).fails = (s.lane p l).fails) _ _ rfl fun t ht m _ => Eq.trans ?_ ht
  by_cases hm : m = l
  · rw [hm, lane_toDetect]
    rfl
  · rw [lane_toDetect_ne p t hm]

theorem portSt_lanesDetect (p n q : Nat) (s : State) : (lanesDetect p n s).portSt q = s.portSt q :=
  List.foldlRecOn (motive := fun t : State => t.portSt q = s.portSt q) _ _ rfl fun t ht m _ => (portSt_toDetect p m q t).trans ht

theorem faultBit_lanesDetect (p n u b : Nat) (s : State) : (lanesDetect p n s).faultBit u b = s.faultBit u b :=
  List.foldlRecOn (motive := fun t : State => t.faultBit u b = s.faultBit u b) _ _ rfl fun t ht m _ => (faultBit_toDetect p m u b t).trans ht

theorem PortStep.lanesDetect {p : Fin 4} {evs : List (Nat × Nat)} {s t : State} (h : PortStep p evs s t) {n : Nat} (hn : n ≤ 16) (h0 : (hIng p, 0) ∈ evs) :
    PortStep p evs s (lanesDetect p n t) :=
  h.foldl _ fun u _ hl => (PortStep.refl p evs u).toDetect (Nat.lt_of_lt_of_le (List.mem_range.mp hl) hn) fun _ => h0

/-- What the start of the lanes leaves. -/
structure Started (p : Fin 4) (s t : State) : Prop where
  words : WordsKept s t (laneWords p)
  lnSt : ∀ l < 9, t.lnSt p l = if s.jesd p = true ∧ l = 8 then s.lnSt p l else lnDetect
  fails : ∀ l, (t.lane p l).fails = (s.lane p l).fails
  portSt : ∀ q, t.portSt q = s.portSt q
  faultBit : ∀ b, t.faultBit (hIng p) b = s.faultBit (hIng p) b
  step : PortStep p [(hIng p, 0), (hIng p, 3), (hIng p, 8)] s t

theorem lanesStart_started (p : Fin 4) (s : State) : Started p s (lanesStart p s) := by
  obtain ⟨hw, hln, hing, hrep⟩ := lanesNumbered_kept p s
  have hn : (if s.jesd p then 8 else 9) ≤ 16 := by split <;> decide
  rw [lanesStart_eq]
  refine ⟨wordsKept_step hw (wordsKept_lanesDetect p _ hn), fun l hl => ?_, fun l => ?_, fun q => ?_, fun b => ?_,
    ((PortStep.refl p _ s).lanesNumbered).lanesDetect hn (by simp)⟩
  · rw [lnSt_lanesDetect, hln]
    cases s.jesd p
    · exact (if_pos hl).trans (if_neg (by simp)).symm
    · by_cases h8 : l = 8
      · exact (if_neg (show ¬ l < 8 by omega)).trans (if_pos ⟨rfl, h8⟩).symm
      · exact (if_pos (show l < 8 by omega)).trans (if_neg (by simp [h8])).symm
  · rw [fails_lanesDetect, lane_congr hing]
  · rw [portSt_lanesDetect, portSt_congr hing]
  · rw [faultBit_lanesDetect, State.faultBit, State.faultOf, hrep]
    rfl

/-! The format is put in force (R72, R74). -/

/-- The format of the link, its latency, and FAULT.CFG. -/
def formatTaken (p f : Nat) (s : State) : State :=
  putFault (hIng p) 3 (!fmtLegal f) ((s.setPort p { s.portSt p with link := f, cfgBad := !fmtLegal f }).setFld (R.ING_PORT_STATUS_LAT p) (latOf f))

theorem applyCfg_eq (p : Nat) (s : State) : applyCfg p s =
    let f := (portStop p s).wordN (R.ING_PORT_CFG p)
    let u := formatTaken p f (portStop p s)
    (if fmtLegal f then .ok else .range, portUpdate p (if u.flag (R.ING_PORT_CFG_EN p) && fmtLegal f then lanesStart p u else u)) := rfl

theorem formatTaken_regs (p f : Nat) (s : State) : (formatTaken p f s).regs = (s.setFld (R.ING_PORT_STATUS_LAT p) (latOf f)).regs := by
  unfold formatTaken
  rw [putFault_eq]
  rfl

theorem wordsKept_formatTaken (p f : Nat) (s : State) : WordsKept s (formatTaken p f s) [R.ING_PORT_STATUS p] :=
  wordsKept_step (wordsKept_setFld s (R.ING_PORT_STATUS_LAT p) (latOf f)) (wordsKept_of_regs (formatTaken_regs p f s))

theorem formatTaken_ing (p f : Nat) (s : State) : (formatTaken p f s).ing = (s.setPort p { s.portSt p with link := f, cfgBad := !fmtLegal f }).ing := by
  unfold formatTaken
  rw [putFault_eq]
  rfl

theorem portSt_formatTaken (p f : Nat) (s : State) : (formatTaken p f s).portSt p = { s.portSt p with link := f, cfgBad := !fmtLegal f } :=
  (portSt_congr (formatTaken_ing p f s) p).trans (portSt_setPort_same s p _)

theorem lane_formatTaken (p f q l : Nat) (s : State) : (formatTaken p f s).lane q l = s.lane q l := lane_congr (formatTaken_ing p f s) q l

theorem faultBit_formatTaken (p f : Nat) (s : State) : (formatTaken p f s).faultBit (hIng p) 3 = !fmtLegal f := by
  rw [formatTaken, faultBit_putFault, if_pos ⟨rfl, rfl⟩]

theorem latOf_lt (f : Nat) : latOf f < 2048 := by
  unfold latOf
  split_ifs <;> decide

theorem lat_formatTaken (p f : Nat) (s : State) : (formatTaken p f s).fld (R.ING_PORT_STATUS_LAT p) = latOf f :=
  (State.fld_congr (formatTaken_regs p f s) _).trans ((State.fld_setFld_same s (R.ING_PORT_STATUS_LAT p) (latOf f) (by decide : 16 ≤ 26) (by decide : 26 < 32)).trans
    (Nat.mod_eq_of_lt (latOf_lt f)))

theorem epochValid_formatTaken (p f : Nat) (s : State) :
    (formatTaken p f s).flag (R.ING_PORT_STATUS_EPOCH_VALID p) = s.flag (R.ING_PORT_STATUS_EPOCH_VALID p) :=
  (flag_congr (formatTaken_regs p f s) _).trans (congrArg (· == 1) (State.fld_setFld_apart s (l := R.ING_PORT_STATUS_LAT p) (m := R.ING_PORT_STATUS_EPOCH_VALID p)
    (latOf f) (by decide : 16 ≤ 26) (by decide : 26 < 32) (.inr (by decide : 4 < 16))))

theorem PortStep.formatTaken {p : Fin 4} {evs : List (Nat × Nat)} {s t : State} (h : PortStep p evs s t) (f : Nat) : PortStep p evs s (formatTaken p f t) :=
  ((h.setPort p _).setFld (l := R.ING_PORT_STATUS_LAT p) _ (inPage_status p)).putFault 3 _

theorem en_of_cfg {s t : State} {p : Nat} (h : t.word (R.ING_PORT_CFG p) = s.word (R.ING_PORT_CFG p)) :
    t.flag (R.ING_PORT_CFG_EN p) = s.flag (R.ING_PORT_CFG_EN p) := congrArg (fun w : Word => bits w.toNat 0 0 == 1) h

/-- What the application of a legal format leaves on an enabled port. -/
structure Applied (p : Fin 4) (f : Nat) (s t : State) : Prop where
  cfg : t.wordN (R.ING_PORT_CFG p) = f
  portState : t.portState p = psAssemble
  lnSt : ∀ l < 9, t.lnSt p l = if bitAt f 1 = true ∧ l = 8 then lnOff else lnDetect
  fails : ∀ l, (t.lane p l).fails = (s.lane p l).fails
  epoch : t.flag (R.ING_PORT_STATUS_EPOCH_VALID p) = false
  faultBit : t.faultBit (hIng p) 3 = false
  link : (t.portSt p).link = f
  fmt : (t.portSt p).fmt = (s.portSt p).fmt
  lat : t.fld (R.ING_PORT_STATUS_LAT p) = latOf f
  step : PortStep p [(hIng p, 0), (hIng p, 3), (hIng p, 8)] s t

theorem applyCfg_legal {p : Fin 4} {s : State} (hb : s.bonded p = false) (hen : s.flag (R.ING_PORT_CFG_EN p) = true)
    (hf : fmtLegal (s.wordN (R.ING_PORT_CFG p)) = true) :
    (applyCfg p s).1 = .ok ∧ Applied p (s.wordN (R.ING_PORT_CFG p)) s (applyCfg p s).2 := by
  have hstop := portStop_stopped hb
  have hcfg : (portStop p s).wordN (R.ING_PORT_CFG p) = s.wordN (R.ING_PORT_CFG p) := congrArg BitVec.toNat hstop.cfg
  rw [applyCfg_eq, hcfg]
  generalize hfe : s.wordN (R.ING_PORT_CFG p) = f at hf hcfg ⊢
  generalize portStop p s = a at hstop hcfg ⊢
  have hucfg : (formatTaken p f a).word (R.ING_PORT_CFG p) = s.word (R.ING_PORT_CFG p) := (wordsKept_formatTaken p f a _ (cfg_ne_status p)).trans hstop.cfg
  have huen : (formatTaken p f a).flag (R.ING_PORT_CFG_EN p) = true := (en_of_cfg hucfg).trans hen
  dsimp only
  rw [huen, hf, Bool.and_self, if_pos rfl, if_pos rfl]
  refine ⟨rfl, ?_⟩
  have hstart := lanesStart_started p (formatTaken p f a)
  have hport := (hstart.portSt p).trans (portSt_formatTaken p f a)
  have hucw : (lanesStart p (formatTaken p f a)).word (R.ING_PORT_CFG p) = s.word (R.ING_PORT_CFG p) := (hstart.words _ (cfg_notMem_lanes p)).trans hucfg
  have hjesd : (formatTaken p f a).jesd p = bitAt f 1 := by rw [State.jesd, portSt_formatTaken]
  have hepoch : (lanesStart p (formatTaken p f a)).flag (R.ING_PORT_STATUS_EPOCH_VALID p) = false :=
    (flag_of_kept hstart.words (status_notMem_lanes p)).trans ((epochValid_formatTaken p f a).trans hstop.epoch)
  have hoff (l : Nat) (hl : l < 9) : (formatTaken p f a).lnSt p l = lnOff :=
    (lnSt_of_kept (wordsKept_formatTaken p f a) (laneStatus_ne_status p l)).trans (hstop.lnSt l hl)
  have htgt : portTarget (lanesStart p (formatTaken p f a)) p = psAssemble := by
    refine portTarget_assemble ((en_of_cfg hucw).trans hen) ?_ ?_ ?_ (.inl hepoch) <;> rw [hport]
    · rw [hf]; rfl
    · exact hstop.idle
    · exact hstop.gone
  have hstep : PortStep p [(hIng p, 0), (hIng p, 3), (hIng p, 8)] s (lanesStart p (formatTaken p f a)) :=
    ((hstop.step.mono (by simp)).formatTaken f).trans hstart.step
  refine {
    cfg := (wordN_of_kept (wordsKept_portUpdate _ p.isLt) (cfg_notMem_status p)).trans ((congrArg BitVec.toNat hucw).trans hfe)
    portState := (portState_portUpdate p _).trans htgt
    lnSt := fun l hl => ?lanes
    fails := fun l => by rw [lane_portUpdate, hstart.fails, lane_formatTaken, hstop.fails]
    epoch := (epochValid_portUpdate p _ p).trans hepoch
    faultBit := ?fault
    link := by rw [portSt_portUpdate, hport]
    fmt := by rw [portSt_portUpdate, hport]; exact hstop.fmt
    lat := ?lat
    step := hstep.portUpdate (fun _ => by simp) fun h => ?update }
  case lanes =>
    rw [lnSt_portUpdate p _ (by omega), hstart.lnSt l hl, hjesd, hoff l hl]
  case fault =>
    rw [faultBit_portUpdate p _ (by decide), hstart.faultBit, faultBit_formatTaken, hf]
    rfl
  case lat =>
    rw [fld_status_portUpdate p _ (by decide : 3 < 16) (.inl (by decide : 6 < 16)), fld_of_kept hstart.words (status_notMem_lanes p), lat_formatTaken]
  case update =>
    rw [htgt] at h
    exact absurd h (by decide)

theorem applyCfg_illegal {p : Fin 4} {s : State} (hb : s.bonded p = false) (hf : fmtLegal (s.wordN (R.ING_PORT_CFG p)) = false) :
    (applyCfg p s).1 = .range ∧ (applyCfg p s).2.portState p = psDown ∧ (∀ l < 9, (applyCfg p s).2.lnSt p l = lnOff) ∧
    (applyCfg p s).2.flag (R.ING_PORT_STATUS_EPOCH_VALID p) = false ∧ (applyCfg p s).2.faultBit (hIng p) 3 = true ∧
    PortStep p [(hIng p, 0), (hIng p, 8)] s (applyCfg p s).2 := by
  have hstop := portStop_stopped hb
  have hcfg : (portStop p s).wordN (R.ING_PORT_CFG p) = s.wordN (R.ING_PORT_CFG p) := congrArg BitVec.toNat hstop.cfg
  rw [applyCfg_eq, hcfg]
  generalize s.wordN (R.ING_PORT_CFG p) = f at hf hcfg ⊢
  generalize portStop p s = a at hstop hcfg ⊢
  dsimp only
  rw [hf, Bool.and_false, if_neg Bool.false_ne_true, if_neg Bool.false_ne_true]
  have hport := portSt_formatTaken p f a
  have htgt : portTarget (formatTaken p f a) p = psDown := by
    refine portTarget_down (.inr ?_) ?_ <;> rw [hport]
    · rw [hf]; rfl
    · exact hstop.idle
  refine ⟨rfl, (portState_portUpdate p _).trans htgt, fun l hl => ?_, (epochValid_portUpdate p _ p).trans ((epochValid_formatTaken p f a).trans hstop.epoch), ?_,
    (hstop.step.formatTaken f).portUpdate (fun h => ?_) fun h => ?_⟩
  · rw [lnSt_portUpdate p _ (by omega), lnSt_of_kept (wordsKept_formatTaken p f a) (laneStatus_ne_status p l), hstop.lnSt l hl]
  · rw [faultBit_portUpdate p _ (by decide), faultBit_formatTaken, hf]
    rfl
  · rw [htgt] at h
    exact absurd h (by decide)
  · rw [htgt] at h
    exact absurd h (by decide)

/-! A write of ING_PORT_CFG (R72). -/

theorem onlyRw_portCfg (p : Fin 4) : onlyRw (R.ING_PORT_CFG p) 0x0003FF7F = true := by revert p; decide +kernel

theorem en_of_wordN {s : State} {p v : Nat} (h : s.wordN (R.ING_PORT_CFG p) = v) : s.flag (R.ING_PORT_CFG_EN p) = (v % 2 == 1) := by
  rw [State.flag, State.fld, show (R.ING_PORT_CFG_EN p).off = R.ING_PORT_CFG p from rfl, h]
  show (v / 2 ^ 0 % 2 ^ 1 == 1) = _
  rw [Nat.pow_zero, Nat.div_one, Nat.pow_one]

/-- The word written. -/
def cfgWritten (p : Nat) (val be : Nat) (s : State) : State := writeFields (R.ING_PORT_CFG p) val be s

theorem wordsKept_cfgWritten (p : Fin 4) (val be : Nat) (s : State) : WordsKept s (cfgWritten p val be s) [R.ING_PORT_CFG p] := by
  rw [cfgWritten, writeFields_onlyRw val be s (onlyRw_portCfg p)]
  exact wordsKept_setWord s _ _

theorem cfgWritten_eq (p : Fin 4) (val be : Nat) (s : State) : cfgWritten p val be s = { s with regs := (cfgWritten p val be s).regs } := by
  rw [cfgWritten, writeFields_onlyRw val be s (onlyRw_portCfg p)]
  rfl

theorem cfg_cfgWritten (p : Fin 4) (val be : Nat) (s : State) :
    (cfgWritten p val be s).wordN (R.ING_PORT_CFG p) = blend (s.wordN (R.ING_PORT_CFG p)) val (0x0003FF7F &&& beMask be) :=
  wordN_writeFields_onlyRw val be s (onlyRw_portCfg p)

theorem bonded_cfgWritten (p : Fin 4) (val be : Nat) (s : State) : (cfgWritten p val be s).bonded p = s.bonded p :=
  flag_of_kept (wordsKept_cfgWritten p val be s) (show R.ING_PORT_STATUS p ∉ _ by simp [R.ING_PORT_CFG, R.ING_PORT_STATUS])

theorem PortStep.cfgWritten {p : Fin 4} {evs : List (Nat × Nat)} {s t : State} (h : PortStep p evs s t) (val be : Nat) :
    PortStep p evs s (cfgWritten p val be t) := by
  rw [Machine.cfgWritten, writeFields_onlyRw val be t (onlyRw_portCfg p)]
  refine h.setWord _ ?_
  unfold InPage hIng R.ING_PORT_CFG
  omega

theorem portCfgWrite_disabled {p val be : Nat} {s : State} (h0 : s.flag (R.ING_PORT_CFG_EN p) = false) (h1 : (cfgWritten p val be s).flag (R.ING_PORT_CFG_EN p) = false) :
    portCfgWrite p val be s = cfgWritten p val be s := by
  rw [cfgWritten] at h1 ⊢
  simp only [portCfgWrite, h0, h1]
  rfl

theorem portCfgWrite_disables {p val be : Nat} {s : State} (h0 : s.flag (R.ING_PORT_CFG_EN p) = true) (h1 : (cfgWritten p val be s).flag (R.ING_PORT_CFG_EN p) = false) :
    portCfgWrite p val be s = portUpdate p (portStop p (cfgWritten p val be s)) := by
  rw [cfgWritten] at h1 ⊢
  simp only [portCfgWrite, h0, h1]
  rfl

theorem portCfgWrite_enables {p val be : Nat} {s : State} (h0 : s.flag (R.ING_PORT_CFG_EN p) = false) (h1 : (cfgWritten p val be s).flag (R.ING_PORT_CFG_EN p) = true) :
    portCfgWrite p val be s = (applyCfg p (cfgWritten p val be s)).2 := by
  rw [cfgWritten] at h1 ⊢
  simp only [portCfgWrite, h0, h1]
  rfl

/-- A port that is no longer enabled. -/
theorem portStop_down {p : Fin 4} {s : State} (hb : s.bonded p = false) (hen : s.flag (R.ING_PORT_CFG_EN p) = false) :
    (portUpdate p (portStop p s)).wordN (R.ING_PORT_CFG p) = s.wordN (R.ING_PORT_CFG p) ∧
    (portUpdate p (portStop p s)).portState p = psDown ∧ (∀ l < 9, (portUpdate p (portStop p s)).lnSt p l = lnOff) ∧
    (portUpdate p (portStop p s)).flag (R.ING_PORT_STATUS_EPOCH_VALID p) = false ∧
    (portUpdate p (portStop p s)).faultBit (hIng p) 3 = s.faultBit (hIng p) 3 ∧
    (∀ l, ((portUpdate p (portStop p s)).lane p l).fails = (s.lane p l).fails) ∧ PortStep p [(hIng p, 0), (hIng p, 8)] s (portUpdate p (portStop p s)) := by
  have hstop := portStop_stopped hb
  have htgt : portTarget (portStop p s) p = psDown := portTarget_down (.inl ((en_of_cfg hstop.cfg).trans hen)) hstop.idle
  refine ⟨(wordN_of_kept (wordsKept_portUpdate _ p.isLt) (cfg_notMem_status p)).trans (congrArg BitVec.toNat hstop.cfg), (portState_portUpdate p _).trans htgt,
    fun l hl => (lnSt_portUpdate p _ (by omega)).trans (hstop.lnSt l hl), (epochValid_portUpdate p _ p).trans hstop.epoch,
    (faultBit_portUpdate p _ (by decide)).trans hstop.faultBit, fun l => (congrArg LaneSt.fails (lane_portUpdate ..)).trans (hstop.fails l),
    hstop.step.portUpdate (fun h => ?_) fun h => ?_⟩
  · rw [htgt] at h
    exact absurd h (by decide)
  · rw [htgt] at h
    exact absurd h (by decide)

end Sys2Proof.Machine

open Sys2Proof Sys2Proof.Machine Sys2Proof.Claims

/-- Settles O11: RESTART and the writes that change EN, through what the stop of the port and the start of its lanes leave. -/
theorem portFormat : Obligations.PortFormat := by
  unfold Obligations.PortFormat
  intro s p l val be v hb hv
  have hregs (c : Code) (t : State) (m : Loc) : (finish (hIng p) 1 c t).fld m = t.fld m := State.fld_congr (finish_regs ..) m
  have hing (c : Code) (t : State) : (finish (hIng p) 1 c t).ing = t.ing := by rw [finish_eq]
  have hflt (c : Code) (t : State) (b : Nat) : (finish (hIng p) 1 c t).faultBit (hIng p) b = t.faultBit (hIng p) b := faultBit_of_frame (finish_frame ..) _ _
  have hlink : s.flag (R.ING_PORT_CFG_LINK p) = bitAt (s.wordN (R.ING_PORT_CFG p)) 1 := (bitAt_eq_bits _ 1).symm
  have hexec (hbusy : s.cmdBusy (hIng p) = false) : exec (.restart p) s = .next (finish (hIng p) 1 (applyCfg p s).1 (applyCfg p s).2) :=
    congrArg Host.Outcome.next (runCmd_of hbusy rfl)
  have hword : (cfgWritten p val.toNat be.toNat s).wordN (R.ING_PORT_CFG p) = v := (cfg_cfgWritten ..).trans hv.symm
  have hb' : (cfgWritten p val.toNat be.toNat s).bonded p = false := (bonded_cfgWritten ..).trans hb
  have heven (h : v % 2 = 0) : (cfgWritten p val.toNat be.toNat s).flag (R.ING_PORT_CFG_EN p) = false := (en_of_wordN hword).trans (by rw [h]; rfl)
  have hodd (h : v % 2 = 1) : (cfgWritten p val.toNat be.toNat s).flag (R.ING_PORT_CFG_EN p) = true := (en_of_wordN hword).trans (by rw [h]; rfl)
  have hstate := cfgWritten_eq p val.toNat be.toNat s
  refine ⟨fun hbusy hen hf => ⟨_, hexec hbusy, ?legal⟩, fun hbusy hf => ⟨_, hexec hbusy, ?illegal⟩,
    fun h0 h1 => ⟨_, congrArg Host.Outcome.next (portCfgWrite_disabled h0 (heven h1)), hstate, hword, wordsKept_cfgWritten p _ _ s⟩,
    fun h0 h1 => ⟨_, congrArg Host.Outcome.next (portCfgWrite_disables h0 (heven h1)), ?disables⟩,
    fun h0 h1 hf => ⟨_, congrArg Host.Outcome.next (portCfgWrite_enables h0 (hodd h1)), ?enables⟩⟩
  case legal =>
    obtain ⟨hcode, h⟩ := applyCfg_legal hb hen hf
    rw [hcode]
    refine ⟨(hregs ..).trans h.portState, ?_, (congrArg (· == 1) (hregs ..)).trans h.epoch, (hflt ..).trans h.faultBit,
      (congrArg PortSt.link (portSt_congr (hing ..) p)).trans h.link, (congrArg PortSt.fmt (portSt_congr (hing ..) p)).trans h.fmt,
      (congrArg LaneSt.fails (lane_congr (hing ..) p l)).trans (h.fails l), (hregs ..).trans h.lat, finish_done .., (h.step.finish 1 .ok).frame⟩
    refine (hregs ..).trans ((h.lnSt l l.isLt).trans ?_)
    rw [hlink]
    simp only [Fin.ext_iff]
    rfl
  case illegal =>
    obtain ⟨hcode, hport, hlanes, hepoch, hfault, hstep⟩ := applyCfg_illegal hb hf
    rw [hcode]
    exact ⟨(hregs ..).trans hport, (hregs ..).trans (hlanes l l.isLt), (congrArg (· == 1) (hregs ..)).trans hepoch, (hflt ..).trans hfault, finish_done ..,
      (hstep.finish 1 .range).frame⟩
  case disables =>
    obtain ⟨hcfg, hport, hlanes, hepoch, hfault, hfails, hstep⟩ := portStop_down hb' (heven h1)
    refine ⟨hcfg.trans hword, hport, hlanes l l.isLt, hepoch, hfault.trans ?_, (hfails l).trans ?_, (((PortStep.refl p _ s).cfgWritten ..).trans hstep).frame⟩
    · rw [hstate]; rfl
    · rw [hstate]; rfl
  case enables =>
    obtain ⟨-, h⟩ := applyCfg_legal hb' (hodd h1) (by rw [hword]; exact hf)
    rw [hword] at h
    refine ⟨h.cfg, h.portState, (h.lnSt l l.isLt).trans ?_, h.link, (((PortStep.refl p _ s).cfgWritten ..).trans h.step).frame⟩
    simp only [Fin.ext_iff]
    rfl
end

section
/-! Codewords, SYNC blocks and SYSREF edges of a port (R76, R78 to R85, R91, R99, R104). -/

namespace Sys2Proof.Machine

open Sys2Proof.Claims

/-! Codewords (R78 to R82). -/

/-- A codeword has come: there is a signal, and the receiver is locked to it. -/
def codewordSeen (p l : Nat) (s : State) : State := (s.setFlag (R.ING_LANE_STATUS_LOL p l) false).setFlag (R.ING_LANE_STATUS_LOS p l) false

theorem wordsKept_codewordSeen (p l : Nat) (s : State) : WordsKept s (codewordSeen p l s) [R.ING_LANE_STATUS p l] :=
  wordsKept_step (wordsKept_setFlag s (R.ING_LANE_STATUS_LOL p l) false) (wordsKept_setFlag _ (R.ING_LANE_STATUS_LOS p l) false)

theorem lnSt_codewordSeen (p l : Nat) (s : State) : (codewordSeen p l s).lnSt p l = s.lnSt p l := (lnSt_setLos ..).trans (lnSt_setLol ..)

theorem amLock_codewordSeen (p l : Nat) (s : State) :
    (codewordSeen p l s).flag (R.ING_LANE_STATUS_AM_LOCK p l) = s.flag (R.ING_LANE_STATUS_AM_LOCK p l) :=
  congrArg (· == 1) ((State.fld_setFld_apart _ (l := R.ING_LANE_STATUS_LOS p l) (m := R.ING_LANE_STATUS_AM_LOCK p l) _ (by decide : 4 ≤ 4) (by decide : 4 < 32)
    (.inl (by decide : 4 < 6))).trans
    (State.fld_setFld_apart s (l := R.ING_LANE_STATUS_LOL p l) (m := R.ING_LANE_STATUS_AM_LOCK p l) _ (by decide : 5 ≤ 5) (by decide : 5 < 32) (.inl (by decide : 5 < 6))))

/-- Corrected symbols are counted. -/
def corrected (p l n : Nat) (s : State) : State := if n = 0 then s else s.bump64 (R.ING_CW_CORR p l) 1

/-- The blocks of a codeword's message. -/
def blocksRx (p l : Nat) (msg : Nat) (s : State) : State := (List.range 20).foldl (fun s b => blockRx p l (rsBlock msg b) s) s

/-- On a locked lane no alignment codeword is due, and the codeword holds data. -/
theorem codewordRx_data {p l n : Nat} {s : State} {syms c : List Nat} (hj : s.jesd p = false) (ha : s.lnSt p l = lnActive)
    (hlock : s.flag (R.ING_LANE_STATUS_AM_LOCK p l) = true) (hs : (s.lane p l).since ≠ 16384) (hc : rsCorrect syms = some (c, n)) :
    codewordRx p l syms s = blocksRx p l (rsMessage c) ((corrected p l n (codewordSeen p l s)).setLane p l { s.lane p l with since := (s.lane p l).since + 1 }) := by
  have hlock' : ((s.setFlag (R.ING_LANE_STATUS_LOL p l) false).setFlag (R.ING_LANE_STATUS_LOS p l) false).flag (R.ING_LANE_STATUS_AM_LOCK p l) = true :=
    (amLock_codewordSeen p l s).trans hlock
  have hdue : ((((s.setFlag (R.ING_LANE_STATUS_LOL p l) false).setFlag (R.ING_LANE_STATUS_LOS p l) false).lane p l).since == 16384) = false := beq_eq_false_iff_ne.mpr hs
  simp only [codewordRx, hj, ha, hc, hlock', hdue]
  rfl

/-- A codeword that cannot be corrected, its symbols counted as missing. -/
theorem codewordRx_lost {p l : Nat} {s : State} {syms : List Nat} (hj : s.jesd p = false) (ha : s.lnSt p l = lnActive)
    (hs : (s.lane p l).since ≠ 16384) (hc : rsCorrect syms = none) :
    codewordRx p l syms s = (uncorrectable p l syms (codewordSeen p l s)).setLane p l
      { (uncorrectable p l syms (codewordSeen p l s)).lane p l with since := (s.lane p l).since + 1 } := by
  have hdue : ((((s.setFlag (R.ING_LANE_STATUS_LOL p l) false).setFlag (R.ING_LANE_STATUS_LOS p l) false).lane p l).since == 16384) = false := beq_eq_false_iff_ne.mpr hs
  simp only [codewordRx, hj, ha, hc, hdue]
  rfl

theorem codewordRx_signal {p l : Nat} {s : State} (syms : List Nat) (hj : s.jesd p = false) (h : s.lnSt p l = lnDetect ∨ s.lnSt p l = lnFailed) :
    codewordRx p l syms s = s.setFlag (R.ING_LANE_STATUS_LOS p l) false := by
  refine if_pos ?_
  rw [hj]
  rcases h with h | h <;> rw [h] <;> rfl

theorem rxAdd_since (w : Nat) (x : LaneSt) (bs : List (Option Nat)) : (rxAdd w x bs).since = x.since := by
  unfold rxAdd
  split <;> rfl

/-- What a block leaves: the lane's place in its count, and all words but BADBLK. -/
structure BlockTaken (p l : Nat) (s t : State) : Prop where
  since : (t.lane p l).since = (s.lane p l).since
  eq : t = { s with ing := t.ing, regs := t.regs }
  words : WordsKept s t [R.ING_BADBLK p, R.ING_BADBLK p + 4]

theorem BlockTaken.setLane {p l : Nat} (s : State) {x : LaneSt} (h : x.since = (s.lane p l).since) : BlockTaken p l s (s.setLane p l x) :=
  ⟨(congrArg LaneSt.since (lane_setLane_same s p l x)).trans h, rfl, fun _ _ => rfl⟩

theorem BlockTaken.trans {p l : Nat} {s t u : State} (h : BlockTaken p l s t) (k : BlockTaken p l t u) : BlockTaken p l s u :=
  ⟨k.since.trans h.since, k.eq.trans (congrArg (fun w : State => { w with ing := u.ing, regs := u.regs }) h.eq), wordsKept_step h.words k.words⟩

theorem blockRx_taken (p l : Nat) (b : Nat × Nat) (s : State) : BlockTaken p l s (blockRx p l b s) := by
  unfold blockRx
  extract_lets x d x1
  split
  · exact .setLane s (rxAdd_since ..)
  · split
    · exact .setLane s rfl
    · split
      · exact .setLane s rfl
      · exact (BlockTaken.setLane s (x := x1) rfl).trans ⟨rfl, rfl, wordsKept_bump64 (s.setLane p l x1) _ 1⟩

theorem blocksRx_taken (p l msg : Nat) (s : State) : BlockTaken p l s (blocksRx p l msg s) :=
  List.foldlRecOn (motive := BlockTaken p l s) _ _ ⟨rfl, rfl, fun _ _ => rfl⟩ fun t ht b _ => ht.trans (blockRx_taken p l (rsBlock msg b) t)

theorem wordsKept_corrected (p l n : Nat) (s : State) : WordsKept s (corrected p l n s) [R.ING_CW_CORR p l, R.ING_CW_CORR p l + 4] := by
  unfold corrected
  split
  · exact fun _ _ => rfl
  · exact wordsKept_bump64 s _ 1

theorem corrected_eq (p l n : Nat) (s : State) : corrected p l n s = { s with regs := (corrected p l n s).regs } := by
  unfold corrected
  split <;> rfl

theorem pair_lt (s : State) (o : Nat) : s.pair o < 2 ^ 64 := by
  have h0 := s.wordN_lt o
  have h4 := s.wordN_lt (o + 4)
  unfold State.pair
  omega

theorem cnt_corrected (p l n : Nat) (s : State) :
    (corrected p l n s).pair (R.ING_CW_CORR p l) = (s.pair (R.ING_CW_CORR p l) + if n = 0 then 0 else 1) % 2 ^ 64 := by
  unfold corrected
  split
  · exact (Nat.mod_eq_of_lt (pair_lt s _)).symm
  · exact pair_bump64 ..

theorem codewordRx_data_spec {p : Fin 4} {l n : Nat} {s : State} {syms c : List Nat} (hj : s.jesd p = false) (ha : s.lnSt p l = lnActive)
    (hlock : s.flag (R.ING_LANE_STATUS_AM_LOCK p l) = true) (hs : (s.lane p l).since ≠ 16384) (hc : rsCorrect syms = some (c, n)) :
    ((codewordRx p l syms s).lane p l).since = (s.lane p l).since + 1 ∧
    (codewordRx p l syms s).pair (R.ING_CW_CORR p l) = (s.pair (R.ING_CW_CORR p l) + if n = 0 then 0 else 1) % 2 ^ 64 ∧
    (codewordRx p l syms s).lnSt p l = lnActive ∧ codewordRx p l syms s = { s with ing := (codewordRx p l syms s).ing, regs := (codewordRx p l syms s).regs } ∧
    WordsKept s (codewordRx p l syms s) [R.ING_LANE_STATUS p l, R.ING_CW_CORR p l, R.ING_CW_CORR p l + 4, R.ING_BADBLK p, R.ING_BADBLK p + 4] := by
  rw [codewordRx_data hj ha hlock hs hc]
  generalize hu : (corrected p l n (codewordSeen p l s)).setLane p l { s.lane p l with since := (s.lane p l).since + 1 } = u
  have hseen := wordsKept_codewordSeen p l s
  have hcorr := wordsKept_corrected p l n (codewordSeen p l s)
  have hueq : u = { s with ing := u.ing, regs := u.regs } := by
    rw [← hu, corrected_eq]
    rfl
  have huregs : u.regs = (corrected p l n (codewordSeen p l s)).regs := by rw [← hu]; rfl
  have hsince : (u.lane p l).since = (s.lane p l).since + 1 := by
    rw [← hu]
    exact congrArg LaneSt.since (lane_setLane_same _ p l _)
  obtain ⟨hbs, hbe, hbw⟩ := blocksRx_taken p l (rsMessage c) u
  have hb (o : Nat) (h : o ≠ R.ING_BADBLK p ∧ o ≠ R.ING_BADBLK p + 4) : o ∉ [R.ING_BADBLK p, R.ING_BADBLK p + 4] := by simpa using h
  have hstat : R.ING_LANE_STATUS p l ∉ [R.ING_CW_CORR p l, R.ING_CW_CORR p l + 4] := by
    simp only [R.ING_LANE_STATUS, R.ING_CW_CORR, List.mem_cons, List.not_mem_nil, or_false]
    omega
  have hcnt : R.ING_CW_CORR p l ∉ [R.ING_LANE_STATUS p l] ∧ R.ING_CW_CORR p l + 4 ∉ [R.ING_LANE_STATUS p l] := by
    simp only [R.ING_LANE_STATUS, R.ING_CW_CORR, List.mem_cons, List.not_mem_nil, or_false]
    omega
  refine ⟨hbs.trans hsince, ?_, ?_, hbe.trans (congrArg (fun w : State => { w with ing := (blocksRx p l (rsMessage c) u).ing, regs := (blocksRx p l (rsMessage c) u).regs }) hueq), fun o ho => ?_⟩
  · rw [pair_of_kept hbw (hb _ (by unfold R.ING_CW_CORR R.ING_BADBLK; omega)) (hb _ (by unfold R.ING_CW_CORR R.ING_BADBLK; omega)), pair_congr huregs,
      cnt_corrected, pair_of_kept hseen hcnt.1 hcnt.2]
  · rw [lnSt_of_kept hbw (hb _ (by unfold R.ING_LANE_STATUS R.ING_BADBLK; omega))]
    exact (State.fld_congr huregs _).trans ((lnSt_of_kept hcorr hstat).trans ((lnSt_codewordSeen p l s).trans ha))
  · simp only [List.mem_cons, List.not_mem_nil, or_false, not_or] at ho
    obtain ⟨h1, h2, h3, h4, h5⟩ := ho
    exact (hbw o (hb o ⟨h4, h5⟩)).trans ((State.word_congr huregs o).trans ((hcorr o (by simp [h2, h3])).trans (hseen o (by simpa using h1))))

/-- What is kept of uncorrectable codewords: those of the last 10 ms, with this one. -/
def uncRecent (s : State) (p l : Nat) : List Nat := s.tclk :: (s.lane p l).unc.filter (fun t => decide (s.tclk < t + 3200000))

/-- The state after an uncorrectable codeword that calls for no retraining. -/
theorem uncorrectable_few {p l : Nat} {s : State} (syms : List Nat) (h : (s.lane p l).unc.length < 15) :
    ∃ x : LaneSt, x.unc = uncRecent s p l ∧
      uncorrectable p l syms s = ({ s with freeCtr := s.freeCtr + 1 }.setLane p l x).bump64 (R.ING_CW_UNCORR p l) 1 := by
  have hlen : ¬ 16 ≤ (uncRecent s p l).length := by
    have := List.length_filter_le (fun t => decide (s.tclk < t + 3200000)) (s.lane p l).unc
    rw [uncRecent, List.length_cons]
    omega
  unfold uncorrectable
  extract_lets x f msg scr unc s1
  exact ⟨{ rxAdd (fmtW (s.portSt p).link) x (List.replicate f.1 none) with scr := scr, unc := unc }, rfl, if_neg hlen⟩

theorem codewordRx_lost_spec {p : Fin 4} {l : Nat} {s : State} {syms : List Nat} (hj : s.jesd p = false) (ha : s.lnSt p l = lnActive)
    (hs : (s.lane p l).since ≠ 16384) (hc : rsCorrect syms = none) (h : (s.lane p l).unc.length < 15) :
    (codewordRx p l syms s).pair (R.ING_CW_UNCORR p l) = (s.pair (R.ING_CW_UNCORR p l) + 1) % 2 ^ 64 ∧ s.tclk ∈ ((codewordRx p l syms s).lane p l).unc ∧
    (codewordRx p l syms s).lnSt p l = lnActive ∧
    codewordRx p l syms s = { s with ing := (codewordRx p l syms s).ing, regs := (codewordRx p l syms s).regs, freeCtr := s.freeCtr + 1 } ∧
    WordsKept s (codewordRx p l syms s) [R.ING_LANE_STATUS p l, R.ING_CW_UNCORR p l, R.ING_CW_UNCORR p l + 4] := by
  obtain ⟨x, hx, he⟩ := uncorrectable_few (p := p) (l := l) (s := codewordSeen p l s) syms h
  have hlane : (uncorrectable p l syms (codewordSeen p l s)).lane p l = x := by
    rw [he]
    exact lane_setLane_same { codewordSeen p l s with freeCtr := s.freeCtr + 1 } p l x
  have hwords : WordsKept (codewordSeen p l s) (uncorrectable p l syms (codewordSeen p l s)) [R.ING_CW_UNCORR p l, R.ING_CW_UNCORR p l + 4] := by
    rw [he]
    exact wordsKept_bump64 ({ codewordSeen p l s with freeCtr := s.freeCtr + 1 }.setLane p l x) _ 1
  have hcnt : (uncorrectable p l syms (codewordSeen p l s)).pair (R.ING_CW_UNCORR p l) = ((codewordSeen p l s).pair (R.ING_CW_UNCORR p l) + 1) % 2 ^ 64 := by
    rw [he]
    exact pair_bump64 ({ codewordSeen p l s with freeCtr := s.freeCtr + 1 }.setLane p l x) _ 1
  have heq : uncorrectable p l syms (codewordSeen p l s) =
      { s with ing := (uncorrectable p l syms (codewordSeen p l s)).ing, regs := (uncorrectable p l syms (codewordSeen p l s)).regs, freeCtr := s.freeCtr + 1 } := by
    rw [he]
    rfl
  rw [codewordRx_lost hj ha hs hc]
  generalize uncorrectable p l syms (codewordSeen p l s) = u at hlane hwords hcnt heq ⊢
  have hstat : R.ING_LANE_STATUS p l ∉ [R.ING_CW_UNCORR p l, R.ING_CW_UNCORR p l + 4] := by
    simp only [R.ING_LANE_STATUS, R.ING_CW_UNCORR, List.mem_cons, List.not_mem_nil, or_false]
    omega
  have hnot : R.ING_CW_UNCORR p l ∉ [R.ING_LANE_STATUS p l] ∧ R.ING_CW_UNCORR p l + 4 ∉ [R.ING_LANE_STATUS p l] := by
    simp only [R.ING_LANE_STATUS, R.ING_CW_UNCORR, List.mem_cons, List.not_mem_nil, or_false]
    omega
  have hseen := wordsKept_codewordSeen p l s
  refine ⟨hcnt.trans (by rw [pair_of_kept hseen hnot.1 hnot.2]), ?_, (lnSt_of_kept hwords hstat).trans ((lnSt_codewordSeen p l s).trans ha),
    congrArg (fun w : State => w.setLane p l { u.lane p l with since := (s.lane p l).since + 1 }) heq, wordsKept_trans hseen hwords⟩
  rw [lane_setLane_same, hlane]
  show s.tclk ∈ x.unc
  rw [hx]
  exact List.mem_cons_self

/-! SYNC blocks (R82, R84, R99). -/

/-- The frame that the blocks on the lane belong to. -/
def frameNamed (p l fc : Nat) (s : State) : State :=
  if (s.lane p l).rxFc = some fc then s else s.setLane p l { s.lane p l with rxFc := some fc, rx := Tbl.set (s.lane p l).rx fc [] }

theorem rxFc_frameNamed (p l fc : Nat) (s : State) : ((frameNamed p l fc s).lane p l).rxFc = some fc := by
  unfold frameNamed
  split
  · assumption
  · rw [lane_setLane_same]

theorem portSt_frameNamed (p l fc q : Nat) (s : State) : (frameNamed p l fc s).portSt q = s.portSt q := by
  unfold frameNamed
  split <;> rfl

theorem frameNamed_eq (p l fc : Nat) (s : State) : frameNamed p l fc s = { s with ing := { s.ing with lane := (frameNamed p l fc s).ing.lane } } := by
  unfold frameNamed
  split <;> rfl

/-- A SYNC block whose format or identity is wrong. -/
def syncWrong (p : Nat) (bad : Bool × Bool) (s : State) : State :=
  let s2 := if bad.1 then setFault (hIng p) 1 s else s
  let s3 := if bad.2 then setFault (hIng p) 2 s2 else s2
  portUpdate p (s3.setPort p { s3.portSt p with fmtOk := [], asm := true })

/-- The logical lanes that have shown a right SYNC block. -/
def syncSeen (y : PortSt) (k : Nat) : List Nat := if k < 8 && !y.fmtOk.contains k then k :: y.fmtOk else y.fmtOk

/-- The lane has shown a right SYNC block, and FMT and XWIRE clear when all have. -/
def syncShown (p k : Nat) (s : State) : State :=
  let s2 := s.setPort p { s.portSt p with fmtOk := syncSeen (s.portSt p) k }
  if (syncSeen (s.portSt p) k).length = 8 then clearFault (hIng p) 2 (clearFault (hIng p) 1 s2) else s2

/-- Must the port judge whether it keeps its epoch? -/
def epochInDoubt (y : PortSt) : Bool := y.recheck && !y.asm

/-- Does a right SYNC block show that the epoch is lost? -/
def syncOff (s : State) (p d : Nat) (a : Option AnchorTap) : Bool :=
  ((s.portRuns p || epochInDoubt (s.portSt p)) && bits d 63 16 != predictedFc (s.portSt p)) ||
    (epochInDoubt (s.portSt p) && bits d 11 8 == 0 && a.any (fun a => !anchorNear s p (bits d 63 16) a))

/-- The epoch is lost. -/
def epochLost (p : Nat) (s : State) : State := portUpdate p (s.setPort p { s.portSt p with asm := true, gapCoast := true })

/-- The epoch is kept. -/
def epochKept (p : Nat) (s : State) : State := s.setPort p { s.portSt p with recheck := false, gapCoast := false }

/-- A SYNC block whose format and identity are right. -/
def syncRight (p d : Nat) (a : Option AnchorTap) (s : State) : State :=
  if syncOff s p d a then epochLost p (syncShown p (bits d 11 8) s)
  else if epochInDoubt (s.portSt p) && bits d 11 8 == 0 && a.isSome then epochKept p (syncShown p (bits d 11 8) s)
  else syncShown p (bits d 11 8) s

/-- A SYNC block on an ACTIVE lane with AM lock. -/
theorem syncBlock_active {p l d : Nat} {s : State} (a : Option AnchorTap) (hj : s.jesd p = false) (hlock : s.flag (R.ING_LANE_STATUS_AM_LOCK p l) = true)
    (hd : bits d 7 0 = 0x53) (hst : s.lnSt p l = lnActive) :
    syncBlock p l d a s = let s1 := frameNamed p l (bits d 63 16) s
      if (syncBad s1 p d).1 || (syncBad s1 p d).2 then syncWrong p (syncBad s1 p d) s1 else syncRight p d a s1 := by
  have hcond : (s.jesd p || bits d 7 0 != 0x53 || !s.flag (R.ING_LANE_STATUS_AM_LOCK p l)) = false := by rw [hj, hlock, hd]; rfl
  have hack (x : LaneSt) : ¬ (s.lnSt p l = lnTrain ∧ x.waitAck = true ∧ bits d 79 72 = 2) := by
    rw [hst]
    exact fun h => absurd h.1 (by decide)
  unfold syncBlock
  extract_lets st
  rw [if_neg (by rw [hcond]; decide), if_neg (hack _)]
  rfl

theorem syncBad_frameNamed (p l fc d : Nat) (s : State) : syncBad (frameNamed p l fc s) p d = syncBad s p d := by
  unfold frameNamed
  split <;> rfl

theorem portRuns_frameNamed (p l fc : Nat) (s : State) : (frameNamed p l fc s).portRuns p = s.portRuns p := by
  unfold frameNamed
  split <;> rfl

theorem anchorNear_frameNamed (p l fc : Nat) (a : AnchorTap) (s : State) : anchorNear (frameNamed p l fc s) p fc a = anchorNear s p fc a := by
  unfold frameNamed
  split <;> rfl

theorem PortStep.frameNamed {p : Fin 4} {evs : List (Nat × Nat)} {s t : State} (h : PortStep p evs s t) (l fc : Nat) : PortStep p evs s (frameNamed p l fc t) := by
  unfold Machine.frameNamed
  split
  · exact h
  · exact h.setLane p l _

theorem syncBad_none {p d : Nat} {s : State} (hw : bits d 66 64 = bits (s.portSt p).link 10 8) (hc : bits d 67 67 = bits (s.portSt p).link 11 11)
    (hd : bits d 70 68 = bits (s.portSt p).link 6 4) (hi : bits d 13 12 = s.fld (R.ING_PORT_CFG_PORT_ID p)) : syncBad s p d = (false, false) := by
  simp [syncBad, hw, hc, hd, hi]

theorem syncBlock_wrong {p l d : Nat} {s : State} (a : Option AnchorTap) (hj : s.jesd p = false) (hlock : s.flag (R.ING_LANE_STATUS_AM_LOCK p l) = true)
    (hd : bits d 7 0 = 0x53) (hst : s.lnSt p l = lnActive) (hb : (syncBad s p d).1 = true) :
    syncBlock p l d a s = syncWrong p (syncBad s p d) (frameNamed p l (bits d 63 16) s) := by
  rw [syncBlock_active a hj hlock hd hst]
  dsimp only
  rw [syncBad_frameNamed, hb, Bool.true_or, if_pos rfl]

theorem syncBlock_right {p l d : Nat} {s : State} (a : Option AnchorTap) (hj : s.jesd p = false) (hlock : s.flag (R.ING_LANE_STATUS_AM_LOCK p l) = true)
    (hd : bits d 7 0 = 0x53) (hst : s.lnSt p l = lnActive) (hb : syncBad s p d = (false, false)) :
    syncBlock p l d a s = syncRight p d a (frameNamed p l (bits d 63 16) s) := by
  rw [syncBlock_active a hj hlock hd hst]
  dsimp only
  rw [syncBad_frameNamed, hb]
  rfl

/-- On a port that does not run and has no epoch in doubt, a right block is noted alone. -/
theorem syncRight_quiet {p l d : Nat} {s : State} {a : Option AnchorTap} (hr : s.portRuns p = false) (hn : epochInDoubt (s.portSt p) = false) :
    syncRight p d a (frameNamed p l (bits d 63 16) s) = syncShown p (bits d 11 8) (frameNamed p l (bits d 63 16) s) := by
  rw [syncRight, syncOff, portRuns_frameNamed, portSt_frameNamed, hr, hn]
  rfl

theorem syncShown_first {p l fc k : Nat} {s : State} (h : syncSeen (s.portSt p) k = [k]) :
    syncShown p k (frameNamed p l fc s) = (frameNamed p l fc s).setPort p { s.portSt p with fmtOk := [k] } := by
  rw [syncShown, portSt_frameNamed, h]
  rfl

/-- The block and its anchor fit the epoch in doubt. -/
theorem syncRight_kept {p l d : Nat} {s : State} {a : Option AnchorTap} {b : AnchorTap} (hn : epochInDoubt (s.portSt p) = true) (hk : bits d 11 8 = 0)
    (ha : a = some b) (hfc : bits d 63 16 = predictedFc (s.portSt p)) (hnear : anchorNear s p (bits d 63 16) b = true) :
    syncRight p d a (frameNamed p l (bits d 63 16) s) = epochKept p (syncShown p (bits d 11 8) (frameNamed p l (bits d 63 16) s)) := by
  have hoff : syncOff (frameNamed p l (bits d 63 16) s) p d a = false := by
    simp [syncOff, portSt_frameNamed, ha, anchorNear_frameNamed, hnear, ← hfc]
  rw [syncRight, hoff, portSt_frameNamed, hn, hk, ha]
  rfl

/-- The block or its anchor does not fit the epoch in doubt. -/
theorem syncRight_lost {p l d : Nat} {s : State} {a : Option AnchorTap} {b : AnchorTap} (hn : epochInDoubt (s.portSt p) = true) (hk : bits d 11 8 = 0)
    (ha : a = some b) (h : bits d 63 16 ≠ predictedFc (s.portSt p) ∨ anchorNear s p (bits d 63 16) b = false) :
    syncRight p d a (frameNamed p l (bits d 63 16) s) = epochLost p (syncShown p (bits d 11 8) (frameNamed p l (bits d 63 16) s)) := by
  have hoff : syncOff (frameNamed p l (bits d 63 16) s) p d a = true := by
    rcases h with h | h <;> simp [syncOff, portSt_frameNamed, ha, anchorNear_frameNamed, hn, hk, h]
  rw [syncRight, if_pos hoff]

/-- The wrong format (R84). -/
theorem syncWrong_spec {p : Fin 4} (s : State) {bad : Bool × Bool} (hf : bad.1 = true) (hx : bad.2 = false) :
    (syncWrong p bad s).faultBit (hIng p) 1 = true ∧ ((syncWrong p bad s).portSt p).asm = true ∧ (syncWrong p bad s).portState p ≠ psRun ∧
    (syncWrong p bad s).portState p ≠ psSpared ∧
    (s.portRuns p = true → s.flag (R.ING_PORT_STATUS_EPOCH_VALID p) = true → ((syncWrong p bad s).portSt p).gapCoast = true) ∧
    PortStep p [(hIng p, 3)] s (syncWrong p bad s) := by
  have heq : syncWrong p bad s = portUpdate p ((setFault (hIng p) 1 s).setPort p { (setFault (hIng p) 1 s).portSt p with fmtOk := [], asm := true }) := by
    rw [syncWrong, hf, hx]
    rfl
  rw [heq]
  generalize hu : (setFault (hIng p) 1 s).setPort p { (setFault (hIng p) 1 s).portSt p with fmtOk := [], asm := true } = u
  have hasm : (u.portSt p).asm = true := by rw [← hu, portSt_setPort_same]
  have hregs : u.regs = s.regs := by rw [← hu, setFault_eq]; rfl
  have hfault : u.faultBit (hIng p) 1 = true := by rw [← hu]; exact setFault_sets (hIng p) 1 s
  have hstep : PortStep p [(hIng p, 3)] s u := by rw [← hu]; exact ((PortStep.refl p _ s).setFault 1).setPort p _
  have hrun := portTarget_not_runs hasm
  refine ⟨(faultBit_portUpdate p u (by decide)).trans hfault, ?_, ?_, ?_, fun hr hv => ?_, hstep.portUpdate (fun _ => by simp) fun h => absurd h (not_or.mpr hrun)⟩
  · rw [portSt_portUpdate]
    exact hasm
  · rw [portState_portUpdate]
    exact hrun.1
  · rw [portState_portUpdate]
    exact hrun.2
  · have hr' : psRuns (u.portState p) = true := (congrArg psRuns (State.fld_congr hregs (R.ING_PORT_STATUS_STATE p))).trans hr
    have hn : psRuns (portTarget u p) = false := by simp [psRuns, hrun]
    rw [gapCoast_portUpdate, hr', hn, (flag_congr hregs _).trans hv]
    simp

theorem syncShown_step {p : Fin 4} (evs : List (Nat × Nat)) (k : Nat) (s : State) : PortStep p evs s (syncShown p k s) := by
  have h : PortStep p evs s (s.setPort p { s.portSt p with fmtOk := syncSeen (s.portSt p) k }) := (PortStep.refl p evs s).setPort p _
  unfold syncShown
  extract_lets s2
  split
  · exact (h.clearFault 1).clearFault 2
  · exact h

theorem syncShown_regs (p k : Nat) (s : State) : (syncShown p k s).regs = s.regs := by
  unfold syncShown
  extract_lets s2
  split <;> rfl

/-- The epoch is kept: only what the port notes of it changes. -/
theorem epochKept_spec {p : Fin 4} (k : Nat) (s : State) :
    ((epochKept p (syncShown p k s)).portSt p).recheck = false ∧ ((epochKept p (syncShown p k s)).portSt p).gapCoast = false ∧
    (epochKept p (syncShown p k s)).portState p = s.portState p ∧ PortStep p [] s (epochKept p (syncShown p k s)) := by
  have hport := portSt_setPort_same (syncShown p k s) p { (syncShown p k s).portSt p with recheck := false, gapCoast := false }
  exact ⟨congrArg PortSt.recheck hport, congrArg PortSt.gapCoast hport, State.fld_congr (syncShown_regs p k s) _, (syncShown_step [] k s).setPort p _⟩

/-- The epoch is lost: the port must reassemble. -/
theorem epochLost_spec {p : Fin 4} {s t : State} {evs : List (Nat × Nat)} (h : PortStep p evs s t) (h3 : (hIng p, 3) ∈ evs) :
    ((epochLost p t).portSt p).asm = true ∧ ((epochLost p t).portSt p).gapCoast = true ∧ (epochLost p t).portState p ≠ psRun ∧
    (epochLost p t).portState p ≠ psSpared ∧ PortStep p evs s (epochLost p t) := by
  have hport := portSt_setPort_same t p { t.portSt p with asm := true, gapCoast := true }
  have hrun := portTarget_not_runs (congrArg PortSt.asm hport)
  refine ⟨?_, ?_, ?_, ?_, (h.setPort p _).portUpdate (fun _ => h3) fun hr => absurd hr (not_or.mpr hrun)⟩
  · rw [epochLost, portSt_portUpdate, hport]
  · rw [epochLost, gapCoast_portUpdate, hport]
    rfl
  · rw [epochLost, portState_portUpdate]
    exact hrun.1
  · rw [epochLost, portState_portUpdate]
    exact hrun.2

/-! SYSREF edges (R104). -/

/-- A fold in which one element alone has an effect. -/
theorem foldl_single {α : Type} {f : State → α → State} {I : State → Prop} {l : List α} {a : α} (hnd : l.Nodup) (ha : a ∈ l)
    (hf : ∀ u, I u → ∀ x ∈ l, x ≠ a → f u x = u) {s : State} (h : I s) (hI : I (f s a)) : l.foldl f s = f s a := by
  induction l with
  | nil => exact absurd ha List.not_mem_nil
  | cons b t ih =>
    obtain ⟨hb, hnd'⟩ := List.nodup_cons.mp hnd
    have hft : ∀ u, I u → ∀ x ∈ t, x ≠ a → f u x = u := fun u hu x hx => hf u hu x (List.mem_cons_of_mem _ hx)
    by_cases hba : b = a
    · subst hba
      exact List.foldlRecOn (motive := fun u => u = f s b) t f rfl fun u hu x hx => by
        rw [hu]
        exact hft _ hI x hx fun e => hb (e ▸ hx)
    · rw [List.foldl_cons, hf s h b List.mem_cons_self hba]
      exact ih hnd' ((List.mem_cons.mp ha).resolve_left fun e => hba e.symm) hft

theorem sysrefPort_disabled {q : Nat} {s : State} (t : Nat) (h : s.flag (R.ING_PORT_CFG_EN q) = false) : sysrefPort q t s = s := by
  rw [sysrefPort, h]
  rfl

theorem sysrefPort_first {p : Nat} {s : State} (t : Nat) (hen : s.flag (R.ING_PORT_CFG_EN p) = true) (hj : s.jesd p = true) (h : (s.portSt p).sysref = none) :
    sysrefPort p t s = (s.setPort p { s.portSt p with sysref := some t }).setFlag (R.ING_PORT_STATUS_SYSREF_OK p) true := by
  simp only [sysrefPort, hen, hj, h]
  rfl

/-- The first edge on the one port that takes SYSREF. -/
theorem sysrefEdge_first {p : Fin 4} {s : State} (t : Nat) (hen : s.flag (R.ING_PORT_CFG_EN p) = true) (hj : s.jesd p = true) (h : (s.portSt p).sysref = none)
    (ho : ∀ q : Fin 4, q ≠ p → s.flag (R.ING_PORT_CFG_EN q) = false) :
    (List.range 4).foldl (fun st p => sysrefPort p t st) s =
      (s.setPort p { s.portSt p with sysref := some t }).setFlag (R.ING_PORT_STATUS_SYSREF_OK p) true := by
  have hI : ∀ q < 4, q ≠ p.val → s.flag (R.ING_PORT_CFG_EN q) = false := fun q hq hne => ho ⟨q, hq⟩ fun e => hne (congrArg Fin.val e)
  have hfirst := sysrefPort_first t hen hj h
  rw [foldl_single (f := fun st p => sysrefPort p t st) (I := fun u => ∀ q < 4, q ≠ p.val → u.flag (R.ING_PORT_CFG_EN q) = false) List.nodup_range
    (List.mem_range.mpr p.isLt) (fun u hu q hq hne => sysrefPort_disabled t (hu q (List.mem_range.mp hq) hne)) hI, hfirst]
  rw [hfirst]
  intro q hq hne
  refine (flag_of_kept (wordsKept_setFlag _ (R.ING_PORT_STATUS_SYSREF_OK p) true) ?_).trans (hI q hq hne)
  show R.ING_PORT_CFG q ∉ [R.ING_PORT_STATUS p]
  simp only [R.ING_PORT_CFG, R.ING_PORT_STATUS, List.mem_cons, List.not_mem_nil, or_false]
  omega

end Sys2Proof.Machine
end

section
/-! Released words (R83, R85, R91, R98): the sixteen words of a port, and what their release leaves. -/

namespace Sys2Proof.Machine

open Sys2Proof.Claims

/-! The level detectors and the ring writer leave registers, ports and released words. -/

theorem lvlWord_eq (p r : Nat) (x : Smp) (s : State) : lvlWord p r x s = { s with weir := { s.weir with lvl := (lvlWord p r x s).weir.lvl } } := by
  unfold lvlWord
  split
  · rfl
  · extract_lets w
    refine List.foldlRecOn (motive := fun t : State => t = { s with weir := { s.weir with lvl := t.weir.lvl } }) _ _ rfl fun t ht n _ => ?_
    extract_lets th md hit
    split
    · exact congrArg (fun u : State => { u with weir := { u.weir with lvl := Tbl.upd [] t.weir.lvl (2 * p + n) fun l => (r, x.dt) :: l } }) ht
    · exact ht

/-- The level detectors test the words. -/
def levelsTested (p : Nat) (l : List (Smp × Nat)) (s : State) : State := l.foldl (fun s w => lvlWord p w.2 w.1 s) s

theorem levelsTested_eq (p : Nat) (l : List (Smp × Nat)) (s : State) :
    levelsTested p l s = { s with weir := { s.weir with lvl := (levelsTested p l s).weir.lvl } } :=
  List.foldlRecOn (motive := fun t : State => t = { s with weir := { s.weir with lvl := t.weir.lvl } }) _ _ rfl fun t ht w _ =>
    (lvlWord_eq p w.2 w.1 t).trans (congrArg (fun u : State => { u with weir := { u.weir with lvl := (lvlWord p w.2 w.1 t).weir.lvl } }) ht)

theorem memStep_trans {s t u : State} (h : t = { s with mem := t.mem, poison := t.poison, rsv := t.rsv })
    (k : u = { t with mem := u.mem, poison := u.poison, rsv := u.rsv }) : u = { s with mem := u.mem, poison := u.poison, rsv := u.rsv } :=
  k.trans (congrArg (fun w : State => { w with mem := u.mem, poison := u.poison, rsv := u.rsv }) h)

theorem lostStore_eq (a : Nat) (b : Byte) (full : Bool) (s : State) : lostStore a b full s =
    { s with mem := (lostStore a b full s).mem, poison := (lostStore a b full s).poison, rsv := (lostStore a b full s).rsv } := by
  unfold lostStore
  split
  · rfl
  · split_ifs <;> rfl

theorem lostHeal_eq (w : Nat) (s : State) :
    lostHeal w s = { s with mem := (lostHeal w s).mem, poison := (lostHeal w s).poison, rsv := (lostHeal w s).rsv } := by
  unfold lostHeal
  split
  · rfl
  · split <;> rfl

/-- A write to device memory leaves all but the memory and what is noted of lost ranks. -/
theorem memWrite_eq (s : State) (a : Nat) (bs : List Byte) :
    s.memWrite a bs = { s with mem := (s.memWrite a bs).mem, poison := (s.memWrite a bs).poison, rsv := (s.memWrite a bs).rsv } := by
  unfold State.memWrite
  split
  · rfl
  · extract_lets full s1
    have h1 : s1 = { s with mem := s1.mem, poison := s1.poison, rsv := s1.rsv } :=
      List.foldlRecOn (motive := fun t : State => t = { s with mem := t.mem, poison := t.poison, rsv := t.rsv }) _ _ rfl fun t ht _ _ =>
        memStep_trans ht (lostStore_eq _ _ _ t)
    exact List.foldlRecOn (motive := fun t : State => t = { s with mem := t.mem, poison := t.poison, rsv := t.rsv }) _ _ h1 fun t ht w _ =>
      memStep_trans ht (lostHeal_eq w t)

theorem capWrite_eq (p : Nat) (s : State) : capWrite p s = { s with mem := (capWrite p s).mem, poison := (capWrite p s).poison, rsv := (capWrite p s).rsv,
                                                                    weir := { s.weir with cap := (capWrite p s).weir.cap } } := by
  unfold capWrite
  split
  · rfl
  · dsimp only
    split
    · rfl
    · rw [memWrite_eq]
      rfl

/-! The sixteen words. -/

/-- Does the port deliver what its lanes bring? -/
def relLive (p : Nat) (s : State) : Bool :=
  s.portRuns p && s.allActive p && (match (s.portSt p).deliver with | some w => decide (w ≤ (s.portSt p).relF * 8192 + (s.portSt p).relR) | none => false)

/-- Word `j` as received, if it was. -/
def relRaw (p : Nat) (jesd : JesdRx) (s : State) (j : Nat) : Option Nat :=
  if !relLive p s then none else if s.jesd p then jesdWord (s.portSt p).fmt jesd j else rxWord s p (s.portSt p).relF ((s.portSt p).relR * 16 + j)

/-- The SCLK tick of the words. -/
def relTick (p : Nat) (s : State) : Nat :=
  (s.portSt p).epTick + (((s.portSt p).relF - (s.portSt p).epFc) * 8192 + (s.portSt p).relR) * fmtD (s.portSt p).fmt

/-- Bits of the status word that delivered and filled words share. -/
def relBase (p : Nat) (s : State) : Nat :=
  (if s.portState p = psSpared then pswLaneDeg else 0) + (if calTaken s p (relTick p s) then pswStale else 0)

/-- COAST of the words. -/
def relCoast (s : State) : Nat := if s.coast then pswCoast else 0

/-- Bits of the status word of a filled word. -/
def relGap (p : Nat) (s : State) : Nat := pswGap ||| relCoast s ||| (if (s.portSt p).gapCoast then pswCoast else 0)

/-- Device time of word `j`. -/
def relDt (p : Nat) (s : State) (j : Nat) : Nat :=
  (tickPin s (s.portSt p).fmt (relTick p s) + s.wordN (R.ING_PHASE p) - sext 32 (s.wordN (R.ING_PORT_SKEW p)) +
    (if fmtCplx (s.portSt p).fmt then j / 2 * 2 else j : Nat) * 2560 * fmtD (s.portSt p).fmt).toNat

/-- Does the sample clip, where the port marks that? -/
def relClip (p : Nat) (s : State) (r : Nat) : Bool :=
  s.flag (R.ING_PORT_CFG_CLIP_EN p) && (r == 2 ^ (fmtW (s.portSt p).fmt - 1) || r + 1 == 2 ^ (fmtW (s.portSt p).fmt - 1))

/-- Word `j`, and whether it clips. -/
def relWord (p : Nat) (jesd : JesdRx) (s : State) (j : Nat) : Smp × Bool :=
  match relRaw p jesd s j with
  | none => ({ v := 0, psw := relBase p s ||| relGap p s, dt := relDt p s j, tick := tickOfDt s (relDt p s j) }, false)
  | some r =>
    ({ v := sext (fmtW (s.portSt p).fmt) r * 2 ^ (16 - fmtW (s.portSt p).fmt), psw := relBase p s ||| relCoast s ||| (if relClip p s r then pswClip else 0)
       dt := relDt p s j, tick := tickOfDt s (relDt p s j) }, relClip p s r)

/-- The words of one release. -/
def relWords (p : Nat) (jesd : JesdRx) (s : State) : List (Smp × Bool) := (List.range 16).map (relWord p jesd s)

/-- How many of the words are filled with GAP. -/
def gapCount (ws : List (Smp × Bool)) : Nat := (ws.filter (fun w => (w.1.psw &&& pswGap) != 0)).length

/-- The words are the last ones released. -/
def histAdded (p : Nat) (ws : List Smp) (s : State) : State := { s with weir := { s.weir with hist := Tbl.set s.weir.hist p (ws.reverse ++ s.hist p) } }

/-- The words are released and counted, and the next release follows in the same frame. -/
def wordsReleased (p : Nat) (ws : List (Smp × Bool)) (s : State) : State :=
  (((histAdded p (ws.map Prod.fst) s).bump64 (R.ING_GAP p) (gapCount ws)).bump64 (R.ING_CLIP p) (ws.filter Prod.snd).length).setPort p { s.portSt p with relR := (s.portSt p).relR + 1 }

/-- The moves of calibrated values at the boundary of a frame. -/
def boundaryMoved (p : Nat) (s : State) : State := if (s.portSt p).relR = 0 then calMove p s else s

/-- A release that is not the last one of its frame. -/
theorem sampleRelease_eq {p : Nat} {s : State} (jesd : JesdRx) (h : ((boundaryMoved p s).portSt p).relR < 8191) : sampleRelease p jesd s =
    levelsTested p (((relWords p jesd (boundaryMoved p s)).map Prod.fst).zip (upFrom ((boundaryMoved p s).released p) 16))
      (capWrite p (wordsReleased p (relWords p jesd (boundaryMoved p s)) (boundaryMoved p s))) := by
  unfold sampleRelease
  extract_lets s0 x n d live t base coast gap t0 clipEn mk ws gaps clips rwn w s1 s2 last s3 s4 s5
  have hlast : last = false := decide_eq_false (Nat.not_le.mpr h)
  have h3 : s3 = s2.setPort p { x with relR := x.relR + 1 } := by
    simp only [s3, hlast]
    rfl
  have h4 : s4 = s3 := if_neg (ne_true_of_eq_false hlast)
  show List.foldl _ (capWrite p s4) _ = _
  rw [h4, h3]
  rfl

/-- What a release leaves of registers, ports and released words. -/
theorem sampleRelease_kept {p : Nat} {s : State} (jesd : JesdRx) (h : ((boundaryMoved p s).portSt p).relR < 8191) :
    (sampleRelease p jesd s).regs = (wordsReleased p (relWords p jesd (boundaryMoved p s)) (boundaryMoved p s)).regs ∧
    (sampleRelease p jesd s).ing = (wordsReleased p (relWords p jesd (boundaryMoved p s)) (boundaryMoved p s)).ing ∧
    (sampleRelease p jesd s).weir.hist = (wordsReleased p (relWords p jesd (boundaryMoved p s)) (boundaryMoved p s)).weir.hist := by
  rw [sampleRelease_eq jesd h, levelsTested_eq, capWrite_eq]
  exact ⟨rfl, rfl, rfl⟩

theorem hist_wordsReleased (p : Nat) (ws : List (Smp × Bool)) (s : State) : (wordsReleased p ws s).hist p = (ws.map Prod.fst).reverse ++ s.hist p :=
  Tbl.get_set_same ..

theorem portSt_wordsReleased (p : Nat) (ws : List (Smp × Bool)) (s : State) :
    (wordsReleased p ws s).portSt p = { s.portSt p with relR := (s.portSt p).relR + 1 } := portSt_setPort_same ..

theorem gap_wordsReleased (p : Nat) (ws : List (Smp × Bool)) (s : State) :
    (wordsReleased p ws s).pair (R.ING_GAP p) = (s.pair (R.ING_GAP p) + gapCount ws) % 2 ^ 64 := by
  have hclip := wordsKept_bump64 ((histAdded p (ws.map Prod.fst) s).bump64 (R.ING_GAP p) (gapCount ws)) (R.ING_CLIP p) (ws.filter Prod.snd).length
  have hne : R.ING_GAP p ∉ [R.ING_CLIP p, R.ING_CLIP p + 4] ∧ R.ING_GAP p + 4 ∉ [R.ING_CLIP p, R.ING_CLIP p + 4] := by
    simp only [R.ING_GAP, R.ING_CLIP, List.mem_cons, List.not_mem_nil, or_false]
    omega
  exact (pair_of_kept hclip hne.1 hne.2).trans (pair_bump64 ..)

theorem wordsKept_wordsReleased (p : Nat) (ws : List (Smp × Bool)) (s : State) :
    WordsKept s (wordsReleased p ws s) [R.ING_GAP p, R.ING_GAP p + 4, R.ING_CLIP p, R.ING_CLIP p + 4] := fun o ho =>
  wordsKept_trans (wordsKept_bump64 (histAdded p (ws.map Prod.fst) s) (R.ING_GAP p) (gapCount ws))
    (wordsKept_bump64 _ (R.ING_CLIP p) (ws.filter Prod.snd).length) o ho

/-- Sixteen more words are released, and the last ones can be read. -/
theorem smp_of_hist {s t : State} {p : Nat} {ws : List Smp} (h : t.hist p = ws.reverse ++ s.hist p) (hn : ws.length = 16) :
    t.released p = s.released p + 16 ∧ ∀ j < 16, t.smp p (s.released p + j) = ws[j]? := by
  have hlen : (t.hist p).length = (s.hist p).length + 16 := by rw [h, List.length_append, List.length_reverse, hn, Nat.add_comm]
  refine ⟨hlen, fun j hj => ?_⟩
  have hidx : (t.hist p).length - 1 - (s.released p + j) = 15 - j := by
    rw [hlen, State.released]
    omega
  have hlt : s.released p + j < (t.hist p).length := by
    rw [hlen, State.released]
    omega
  have hback : ws.length - 1 - (15 - j) = j := by omega
  rw [State.smp, if_pos hlt, hidx, h, List.getElem?_append_left (by rw [List.length_reverse]; omega), List.getElem?_reverse (by omega), hback]

/-! Filled and delivered words. -/

theorem relWord_filled {p j : Nat} {jesd : JesdRx} {s : State} (h : relRaw p jesd s j = none) :
    relWord p jesd s j = ({ v := 0, psw := relBase p s ||| relGap p s, dt := relDt p s j, tick := tickOfDt s (relDt p s j) }, false) := by
  rw [relWord, h]

/-- A word delivered by a port that does not mark clipping. -/
theorem relWord_delivered {p j r : Nat} {jesd : JesdRx} {s : State} (h : relRaw p jesd s j = some r) (hc : s.flag (R.ING_PORT_CFG_CLIP_EN p) = false) :
    relWord p jesd s j = ({ v := sext (fmtW (s.portSt p).fmt) r * 2 ^ (16 - fmtW (s.portSt p).fmt), psw := relBase p s ||| relCoast s ||| 0
                            dt := relDt p s j, tick := tickOfDt s (relDt p s j) }, false) := by
  have hclip : relClip p s r = false := by rw [relClip, hc]; rfl
  rw [relWord, h]
  dsimp only
  rw [hclip]
  rfl

theorem gap_filled (p : Nat) (s : State) : bitAt (relBase p s ||| relGap p s) 3 = true := by
  have h : bitAt pswGap 3 = true := by decide
  rw [relGap, bitAt_or, bitAt_or, bitAt_or, h, Bool.true_or, Bool.true_or, Bool.or_true]

theorem coast_filled {p : Nat} {s : State} (h : (s.portSt p).gapCoast = true) : bitAt (relBase p s ||| relGap p s) 2 = true := by
  have hc : bitAt pswCoast 2 = true := by decide
  rw [relGap, h, if_pos rfl, bitAt_or, bitAt_or, hc, Bool.or_true, Bool.or_true]

theorem gap_delivered (p : Nat) (s : State) : bitAt (relBase p s ||| relCoast s ||| 0) 3 = false := by
  have hb : bitAt (relBase p s) 3 = false := by
    unfold relBase
    split_ifs <;> decide
  have hc : bitAt (relCoast s) 3 = false := by
    unfold relCoast
    split_ifs <;> decide
  rw [bitAt_or, bitAt_or, hb, hc, bitAt_zero]
  rfl

theorem and_gap (x : Nat) : ((x &&& pswGap) != 0) = bitAt x 3 := by
  rw [show pswGap = 2 ^ 3 from rfl, Nat.and_two_pow, bitAt_eq_testBit]
  cases x.testBit 3 <;> rfl

theorem gapCount_all {ws : List (Smp × Bool)} (h : ∀ w ∈ ws, bitAt w.1.psw 3 = true) : gapCount ws = ws.length := by
  rw [gapCount, List.filter_eq_self.mpr fun w hw => (and_gap _).trans (h w hw)]

theorem gapCount_none {ws : List (Smp × Bool)} (h : ∀ w ∈ ws, bitAt w.1.psw 3 = false) : gapCount ws = 0 := by
  rw [gapCount, List.filter_eq_nil_iff.mpr fun w hw => ne_true_of_eq_false ((and_gap _).trans (h w hw))]
  rfl

theorem relRaw_dead {p : Nat} {s : State} (jesd : JesdRx) (j : Nat) (h : s.portRuns p = false) : relRaw p jesd s j = none := by
  have hl : relLive p s = false := by rw [relLive, h]; rfl
  rw [relRaw, hl]
  rfl

theorem relRaw_jesd {p : Nat} {s : State} (jesd : JesdRx) (j : Nat) (hj : s.jesd p = true) (hr : s.portRuns p = true) (ha : s.allActive p = true)
    (hd : (s.portSt p).deliver = some 0) : relRaw p jesd s j = jesdWord (s.portSt p).fmt jesd j := by
  have hl : relLive p s = true := by simp [relLive, hr, ha, hd]
  rw [relRaw, hl, hj]
  rfl

/-- A release within a frame. -/
theorem sampleRelease_within {p : Nat} {s : State} (jesd : JesdRx) (h0 : (s.portSt p).relR ≠ 0) (h : (s.portSt p).relR < 8191) :
    ((sampleRelease p jesd s).portSt p).relR = (s.portSt p).relR + 1 ∧ (sampleRelease p jesd s).released p = s.released p + 16 ∧
    (sampleRelease p jesd s).pair (R.ING_GAP p) = (s.pair (R.ING_GAP p) + gapCount (relWords p jesd s)) % 2 ^ 64 ∧
    ∀ j < 16, (sampleRelease p jesd s).smp p (s.released p + j) = some (relWord p jesd s j).1 := by
  have hb : boundaryMoved p s = s := if_neg h0
  obtain ⟨hregs, hing, hhist⟩ := sampleRelease_kept (p := p) (s := s) jesd (hb.symm ▸ h)
  rw [hb] at hregs hing hhist
  have hlen : ((relWords p jesd s).map Prod.fst).length = 16 := by rw [List.length_map, relWords, List.length_map, List.length_range]
  obtain ⟨hrel, hsmp⟩ := smp_of_hist (t := sampleRelease p jesd s) (s := s) (p := p)
    ((congrArg (Tbl.get [] · p) hhist).trans (hist_wordsReleased p (relWords p jesd s) s)) hlen
  refine ⟨?_, hrel, (pair_congr hregs _).trans (gap_wordsReleased ..), fun j hj => ?_⟩
  · rw [portSt_congr hing, portSt_wordsReleased]
  · rw [hsmp j hj, relWords, List.map_map, List.getElem?_map, List.getElem?_range hj]
    rfl

end Sys2Proof.Machine

open Sys2Proof Sys2Proof.Machine Sys2Proof.Claims

/-- Settles O14: codewords, SYNC blocks, SYSREF and releases, each by the branch that its hypotheses select. -/
theorem linkData : Obligations.LinkData := by
  unfold Obligations.LinkData
  intro s p l levels c n rx pay a tap jesd j v x hx hpay
  subst hx hpay
  have hinc (f : State → State) (P : State → Prop) (i : Instr) (he : exec i s = .next (analysis f s)) (h : P (f s)) : Analyses i s P := by
    rcases analysis_spec f s with ⟨hheld, hs⟩ | ⟨hheld, hs⟩
    · exact ⟨_, he, by rw [hheld]; exact hs⟩
    · exact ⟨_, he, by rw [hheld, hs]; exact h⟩
  have hwrong (h : bits rx.payload.toNat 66 64 ≠ bits (s.portSt p).link 10 8) : (syncBad s p rx.payload.toNat).1 = true := by simp [syncBad, h]
  have hidentity (h : bits rx.payload.toNat 13 12 = s.fld (R.ING_PORT_CFG_PORT_ID p)) : (syncBad s p rx.payload.toNat).2 = false := by simp [syncBad, h]
  refine ⟨fun hj ha hlock hs hc => ⟨_, rfl, codewordRx_data_spec hj ha hlock hs hc⟩, fun hj ha hlock hs hc h => ⟨_, rfl, codewordRx_lost_spec hj ha hs hc h⟩,
    fun hj h => ⟨_, congrArg Host.Outcome.next (codewordRx_signal _ hj h), rfl, los_setLos p l false s, lnSt_setLos p l false s,
      wordsKept_setFlag s (R.ING_LANE_STATUS_LOS p l) false⟩,
    fun hj hlock hd hst hf hid => ⟨_, congrArg Host.Outcome.next (syncBlock_wrong rx.anchor hj hlock hd hst (hwrong hf)), ?wrong⟩,
    fun hj hlock hd hst hr hre hok hk hw hcx hdec hid => ⟨_, congrArg Host.Outcome.next (syncBlock_right rx.anchor hj hlock hd hst (syncBad_none hw hcx hdec hid)), ?right⟩,
    fun hj hlock hd hst hre hasm hk ha hbad => ⟨_, congrArg Host.Outcome.next (syncBlock_right rx.anchor hj hlock hd hst hbad), ?anchor⟩,
    fun hj hen hsys ho => ⟨_, congrArg Host.Outcome.next (sysrefEdge_first (s.clk.dt + tap * 1280) hen hj hsys ho), ?sysref⟩,
    fun hr h0 hlast => hinc (sampleRelease p jesd) _ _ rfl ?filled,
    fun hj hr hact hdel h0 hlast hclip => hinc (sampleRelease p jesd) _ _ rfl ?delivered⟩
  case sysref =>
    refine ⟨?_, State.flag_setFlag_same _ _ true rfl (by decide : 7 < 32), rfl, wordsKept_setFlag _ (R.ING_PORT_STATUS_SYSREF_OK p) true⟩
    exact congrArg PortSt.sysref (portSt_setPort_same s p _)
  case filled =>
    obtain ⟨hrel, hcount, hgap, hsmp⟩ := sampleRelease_within jesd h0 hlast
    have hall (i : Nat) := relWord_filled (relRaw_dead jesd i hr)
    have hgaps : gapCount (relWords p jesd s) = 16 := by
      rw [gapCount_all fun w hw => ?_, relWords, List.length_map, List.length_range]
      obtain ⟨i, -, rfl⟩ := List.mem_map.mp hw
      rw [hall i]
      exact gap_filled p s
    refine ⟨hrel, hcount, hgap.trans (by rw [hgaps]), ?_⟩
    rw [hsmp j j.isLt, hall j]
    simp only [Option.any_some, gap_filled, beq_self_eq_true, Bool.true_and, Bool.or_eq_true, Bool.not_eq_true']
    cases hg : (s.portSt p).gapCoast
    · exact .inl rfl
    · exact .inr (coast_filled hg)
  case delivered =>
    obtain ⟨hrel, hcount, hgap, hsmp⟩ := sampleRelease_within jesd h0 hlast
    have hraw (i : Nat) := relRaw_jesd jesd i hj hr hact hdel
    refine ⟨hrel, hcount, fun hsome => ?_, fun hv => ?_, fun hv => ?_⟩
    · rw [hgap, gapCount_none fun w hw => ?_]
      · exact Nat.mod_eq_of_lt (pair_lt s _)
      · obtain ⟨i, hi, rfl⟩ := List.mem_map.mp hw
        obtain ⟨r, hr⟩ := Option.isSome_iff_exists.mp (hsome ⟨i, List.mem_range.mp hi⟩)
        rw [relWord_delivered ((hraw i).trans hr) hclip]
        exact gap_delivered p s
    · rw [hsmp j j.isLt, relWord_delivered ((hraw j).trans hv) hclip]
      simp only [Option.any_some, gap_delivered, beq_self_eq_true, Bool.true_and, Bool.not_false]
    · rw [hsmp j j.isLt, relWord_filled ((hraw j).trans hv)]
      simp only [Option.any_some, gap_filled, beq_self_eq_true, Bool.true_and]
  case wrong =>
    have hport := portSt_frameNamed p l (bits rx.payload.toNat 63 16) p s
    obtain ⟨hfault, hasm, hrun, hspared, hcoast, hstep⟩ := syncWrong_spec (frameNamed p l (bits rx.payload.toNat 63 16) s) (hwrong hf) (hidentity hid)
    refine ⟨hfault, hasm, hrun, hspared, fun hr hv => hcoast ((portRuns_frameNamed ..).trans hr) ?_, (((PortStep.refl p _ s).frameNamed ..).trans hstep).frame⟩
    rw [frameNamed_eq]
    exact hv
  case right =>
    have hdoubt : epochInDoubt (s.portSt p) = false := by rw [epochInDoubt, hre]; rfl
    have hseen : syncSeen (s.portSt p) (bits rx.payload.toNat 11 8) = [bits rx.payload.toNat 11 8] := by simp [syncSeen, hok, hk]
    rw [syncRight_quiet hr hdoubt, syncShown_first hseen]
    refine ⟨congrArg PortSt.fmtOk (portSt_setPort_same ..), rxFc_frameNamed p l _ s, ?_⟩
    rw [frameNamed_eq]
    rfl
  case anchor =>
    have hdoubt : epochInDoubt (s.portSt p) = true := by rw [epochInDoubt, hre, hasm]; rfl
    have hnamed (evs : List (Nat × Nat)) : PortStep p evs s (frameNamed p l (bits rx.payload.toNat 63 16) s) := (PortStep.refl p evs s).frameNamed ..
    refine ⟨fun hfc hnear => ?_, fun hoff => ?_⟩
    · rw [syncRight_kept hdoubt hk ha hfc hnear]
      obtain ⟨hrecheck, hcoast, hport, hstep⟩ := epochKept_spec (p := p) (bits rx.payload.toNat 11 8) (frameNamed p l (bits rx.payload.toNat 63 16) s)
      refine ⟨hrecheck, hcoast, hport.trans ?_, ((hnamed []).trans hstep).frame⟩
      rw [frameNamed_eq]
      rfl
    · rw [syncRight_lost hdoubt hk ha hoff]
      obtain ⟨hasm, hcoast, hrun, hspared, hstep⟩ := epochLost_spec ((hnamed [(hIng p, 3)]).trans (syncShown_step _ (bits rx.payload.toNat 11 8) _)) (by simp)
      exact ⟨hasm, hcoast, hrun, hspared, hstep.frame⟩
end

section
/-! What the blocks behind the ports do at a new epoch leaves the ports and the words of spec/04 as they were (R116, R145, R146, R206, R229, R239). -/

namespace Sys2Proof.Machine

open Sys2Proof.Claims

/-- Ports and lanes, and the words up to those of the ports, stay; events raised stay raised. -/
structure FarStep (s t : State) : Prop where
  ing : t.ing = s.ing
  words : ∀ o < 0x405000, t.word o = s.word o
  pend : ∀ h b, Raised h b s → Raised h b t

namespace FarStep

variable {s t : State}

theorem refl (s : State) : FarStep s s := ⟨rfl, fun _ _ => rfl, fun _ _ h => h⟩

theorem trans {u : State} (h : FarStep s t) (k : FarStep t u) : FarStep s u :=
  ⟨k.ing.trans h.ing, fun o ho => (k.words o ho).trans (h.words o ho), fun u b hr => k.pend u b (h.pend u b hr)⟩

/-- Other parts of the state change. -/
theorem same {u : State} (h : FarStep s t) (hi : u.ing = t.ing) (hr : u.regs = t.regs) (hp : u.rep = t.rep) : FarStep s u :=
  h.trans ⟨hi, fun o _ => State.word_congr hr o, fun _ _ hb => by rw [Raised, State.pendOf, hp]; exact hb⟩

theorem setWord (h : FarStep s t) {o : Nat} (v : Nat) (ho : 0x405000 ≤ o) : FarStep s (t.setWord o v) :=
  h.trans ⟨rfl, fun x hx => State.word_setWord_ne t v (by omega), fun _ _ hb => hb⟩

theorem setFld (h : FarStep s t) {l : Loc} (v : Nat) (ho : 0x405000 ≤ l.off) : FarStep s (t.setFld l v) := h.setWord _ ho

theorem setFlag (h : FarStep s t) {l : Loc} (b : Bool) (ho : 0x405000 ≤ l.off) : FarStep s (t.setFlag l b) := h.setWord _ ho

theorem setPair (h : FarStep s t) {o : Nat} (v : Nat) (ho : 0x405000 ≤ o) : FarStep s (t.setPair o v) :=
  (h.setWord _ ho).setWord _ (Nat.le_add_right_of_le ho)

theorem bump64 (h : FarStep s t) {o : Nat} (k : Nat) (ho : 0x405000 ≤ o) : FarStep s (t.bump64 o k) := h.setPair _ ho

theorem of_rep {c : List Nat} {e : List (Nat × Nat)} {f : List Nat} {u : State} (h : FarStep s t) (hu : u = { t with rep := u.rep }) (hr : RepFrame c e f t u) :
    FarStep s u :=
  h.trans ⟨by rw [hu], fun o _ => State.word_congr (by rw [hu]) o, hr.2.1⟩

theorem raise (h : FarStep s t) (u b : Nat) : FarStep s (raise u b t) := h.of_rep rfl (raise_frame ..)

theorem addLog (h : FarStep s t) (u k v c a0 a1 : Nat) : FarStep s (addLog u k v c a0 a1 t) := h.of_rep rfl (addLog_frame ..)

theorem putFault (h : FarStep s t) (u b : Nat) (v : Bool) : FarStep s (putFault u b v t) := h.of_rep (putFault_eq ..) (putFault_frame ..)

theorem memWrite (h : FarStep s t) (a : Nat) (bs : List Byte) : FarStep s (t.memWrite a bs) := by
  rw [memWrite_eq]
  exact h.same rfl rfl rfl

theorem unitPoolWrite (h : FarStep s t) (u a : Nat) (bs : List Byte) : FarStep s (unitPoolWrite u a bs t) := by
  unfold Machine.unitPoolWrite
  dsimp only
  split
  · exact h.memWrite a bs
  · exact h

theorem takeFree (h : FarStep s t) (n : Nat) : FarStep s (t.takeFree n).2 := h.same rfl rfl rfl
theorem setCtx (h : FarStep s t) (i : Nat) (x : Ctx) : FarStep s (t.setCtx i x) := h.same rfl rfl rfl
theorem setSeq (h : FarStep s t) (n : Nat) (x : WSeq) : FarStep s (t.setSeq n x) := h.same rfl rfl rfl
theorem setCap (h : FarStep s t) (p : Nat) (x : Cap) : FarStep s (t.setCap p x) := h.same rfl rfl rfl

theorem foldl {α : Type} {f : State → α → State} (h : FarStep s t) (l : List α) (hf : ∀ u x, FarStep s u → FarStep s (f u x)) : FarStep s (l.foldl f t) :=
  List.foldlRecOn (motive := fun u => FarStep s u) l f h fun u k x _ => hf u x k

/-! Tributaries (spec/07): records, reports and events. -/

theorem queueRec (h : FarStep s t) (bs : List Byte) : FarStep s (queueRec bs t) := by
  unfold Machine.queueRec
  split
  · exact h.same rfl rfl rfl
  · exact (h.bump64 1 (by decide)).raise _ _

theorem queueIq (h : FarStep s t) (slot : Nat) (bs : List Byte) : FarStep s (queueIq slot bs t) := by
  unfold Machine.queueIq
  split
  · exact h.same rfl rfl rfl
  · exact (h.bump64 1 (by decide)).raise _ _

/-- A word of a context's settings or state. -/
theorem ctxWord_far (i k : Nat) : 0x405000 ≤ R.TRB_CTX_CTL i + k := by
  unfold R.TRB_CTX_CTL
  omega

theorem endReport (h : FarStep s t) (i : Nat) (g : Grid) (c : CSet) : FarStep s (endReport i g c t) := by
  unfold Machine.endReport
  extract_lets x
  split
  · exact h.setCtx i _
  · exact ((((h.setCtx i _).setWord _ (by unfold R.TRB_CTX_LPWR; omega)).setFld (l := R.TRB_CTX_LVID_PEAK i) _ (by show _ ≤ R.TRB_CTX_LVID i; unfold R.TRB_CTX_LVID; omega)).setWord _
      (by unfold R.TRB_CTX_RSEQ; omega)).queueRec _

theorem endIq (h : FarStep s t) (i : Nat) (g : Grid) (c : CSet) : FarStep s (endIq i g c t) := by
  unfold Machine.endIq
  extract_lets x
  split
  · exact h
  · exact (h.setCtx i _).queueIq _ _

theorem emitEvent (h : FarStep s t) (i : Nat) (g : Grid) (c : CSet) (on forced : Bool) (psw dtF dtL edge level run : Nat) :
    FarStep s (emitEvent i g c on forced psw dtF dtL edge level run t) := by
  unfold Machine.emitEvent
  extract_lets x bs s1
  have h1 : FarStep s s1 := by
    by_cases hc : c.evEn = true
    · rw [show s1 = _ from if_pos hc]
      exact (h.setCtx i _).queueRec _
    · rw [show s1 = t from if_neg hc]
      exact h
  split
  · exact h1.same rfl rfl rfl
  · exact h1

theorem forceOff (h : FarStep s t) (i : Nat) (g : Grid) (c : CSet) : FarStep s (forceOff i g c t) := by
  unfold Machine.forceOff
  extract_lets x
  split
  · exact h.setCtx i _
  · exact (((h.setCtx i _).takeFree _).takeFree _).emitEvent i g c _ _ _ _ _ _ _ _

theorem endOpen (h : FarStep s t) (i : Nat) : FarStep s (endOpen i t) := (h.endReport i _ _).endIq i _ _

theorem resetCtx (h : FarStep s t) (i : Nat) : FarStep s (resetCtx i t) := ((h.endOpen i).forceOff i _ _).setCtx i _

/-! Settings that wait for a block boundary. -/

theorem overlay (h : FarStep s t) (ws : Tbl Nat) (hw : ∀ e ∈ ws, 0x405000 ≤ e.1) : FarStep s (overlay t ws) :=
  List.foldlRecOn (motive := fun u => FarStep s u) ws _ h fun _ k e he => k.setWord _ (hw e he)

theorem ctxStat_far (i : Nat) : 0x405000 ≤ R.TRB_CTX_STAT i := by
  unfold R.TRB_CTX_STAT
  omega

theorem ctxApply (h : FarStep s t) (i : Nat) : FarStep s (ctxApply i t) := by
  unfold Machine.ctxApply
  split
  · exact h
  · rename_i ws _
    extract_lets w s0 old u c why first ftw vid thr s1 s2 m0 x y s3
    have h0 : FarStep s s0 := h.setCtx i _
    have hstat := ctxStat_far i
    split
    · exact ((((h0.setFlag (l := R.TRB_CTX_STAT_CFG_REJ i) true hstat).setFld (l := R.TRB_CTX_STAT_REASON i) why hstat).bump64 1 (by decide)).raise _ _).addLog _ _ _ _ _ _
    · have h1 : FarStep s s1 := h0.endOpen i
      have h2 : FarStep s s2 := by
        by_cases hc : (first || ftw || vid) = true
        · rw [show s2 = _ from if_pos hc]
          exact h1.forceOff i _ _
        · rw [show s2 = s1 from if_neg hc]
          exact h1
      have h3 : FarStep s s3 := (h2.setCtx i _).overlay _ fun e he => by
        obtain ⟨k, -, rfl⟩ := List.mem_map.mp he
        exact ctxWord_far i _
      exact ((h3.setFlag (l := R.TRB_CTX_STAT_CFG_REJ i) false hstat).setFld (l := R.TRB_CTX_STAT_REASON i) 0 hstat).setFld (l := R.TRB_CTX_STAT_TUNE_SEQ i) _ hstat

theorem ctxPending (h : FarStep s t) (i : Nat) : FarStep s (ctxPending i t) := by
  unfold Machine.ctxPending
  extract_lets x c s1 s2
  have h1 : FarStep s s1 := by
    by_cases hc : x.report = true
    · rw [show s1 = _ from if_pos hc]
      exact (h.endReport i _ _).setCtx i _
    · rw [show s1 = t from if_neg hc]
      exact h
  have h2 : FarStep s s2 := h1.ctxApply i
  split_ifs
  · exact h2.resetCtx i
  · exact h2.setCtx i _
  · exact h2

/-! Outputs and rounds. -/

theorem chainOut (h : FarStep s t) (i : Nat) (present : Bool) (rc : Nat) (x : Ctx) : FarStep s (chainOut i present rc x t).2 := by
  unfold Machine.chainOut
  split_ifs
  · exact (h.takeFree (2 ^ 24)).takeFree (2 ^ 24)
  · exact h.same rfl rfl rfl
  · exact h

theorem qualify (h : FarStep s t) (i : Nat) (g : Grid) (c : CSet) (n : Nat) (code : Int) (clamp : Bool) : FarStep s (qualify i g c n code clamp t) := by
  unfold Machine.qualify
  extract_lets x hit first y a sp s1
  split
  · exact h.setCtx i _
  · by_cases hc : y.run < if x.on then c.minOff else c.minOn
    · rw [if_pos hc]
      exact h.setCtx i _
    · rw [if_neg hc]
      exact (h.setCtx i _).emitEvent i g c _ _ _ _ _ _ _ _

theorem ctxOutput (h : FarStep s t) (i : Nat) (g : Grid) (c : CSet) (overlap : Bool) : FarStep s (ctxOutput i g c overlap t) := by
  unfold Machine.ctxOutput
  extract_lets x n fr f sat re im pw lost old sum vr v s1 dc inRep sOut vOut sVid top y s2 s3 s4 s5
  have hf : FarStep s fr.2 := h.chainOut i _ _ _
  have h1 : FarStep s s1 := by
    by_cases hc : overlap = true
    · rw [show s1 = vr.2 from if_pos hc]
      exact hf.takeFree _
    · rw [show s1 = fr.2 from if_neg hc]
      exact hf
  have h2 : FarStep s s2 := ((h1.setCtx i y).setFld (l := R.TRB_CTX_LVID_LATEST i) _ (by show _ ≤ R.TRB_CTX_LVID i; unfold R.TRB_CTX_LVID; omega)).unitPoolWrite _ _ _
  have h3 : FarStep s s3 := by
    by_cases hc : sat = true
    · rw [show s3 = _ from if_pos hc]
      exact (h2.bump64 1 (by decide)).raise _ _
    · rw [show s3 = s2 from if_neg hc]
      exact h2
  have h4 : FarStep s s4 := by
    by_cases hc : (vOut && !bitAt (spanPsw s3 g c y (n + 1 - c.vlen) n).1 1) = true
    · rw [show s4 = _ from if_pos hc]
      exact h3.qualify i g c n _ _
    · rw [show s4 = s3 from if_neg hc]
      exact h3
  have h5 : FarStep s s5 := by
    by_cases hc : y.iq.length = 1008
    · rw [show s5 = _ from if_pos hc]
      exact h4.endIq i g c
    · rw [show s5 = s4 from if_neg hc]
      exact h4
  split
  · exact h5.endReport i g c
  · exact h5

theorem ctxTake (h : FarStep s t) (i : Nat) (g : Grid) (c : CSet) (m : Nat) : FarStep s (ctxTake i g c m t) := h.setCtx i _

theorem ctxRun (i lim k : Nat) (h : FarStep s t) : FarStep s (ctxRun i lim k t) := by
  induction k generalizing t with
  | zero => exact h
  | succ k ih =>
    unfold Machine.ctxRun
    extract_lets u c x g avail next
    have hu : FarStep s u := by
      by_cases hc : atBlock (t.cset i) (t.ctx i) = true
      · rw [show u = _ from if_pos hc]
        exact h.ctxPending i
      · rw [show u = t from if_neg hc]
        exact h
    split_ifs
    · exact hu
    · exact hu.ctxTake i _ _ _
    · exact ih ((hu.ctxTake i _ _ _).ctxOutput i _ _ _)

theorem chainFetch (h : FarStep s t) (i : Nat) : FarStep s (chainFetch i t) := by
  unfold Machine.chainFetch
  split
  · exact h.setCtx i _
  · exact h

theorem ctxServe (h : FarStep s t) (i lim : Nat) : FarStep s (ctxServe i lim t) :=
  ((ctxRun i lim _ (h.chainFetch i)).takeFree _).unitPoolWrite _ _ _

theorem countCoarse (h : FarStep s t) (p k : Nat) : FarStep s (countCoarse p k t) := by
  unfold Machine.countCoarse
  split
  · exact (h.bump64 k (by unfold R.TRB_CH_SAT; omega)).raise _ _
  · exact h

/-! The grids of a port end and begin (R206). -/

theorem trbClose (h : FarStep s t) (p : Nat) : FarStep s (trbClose p t) := by
  unfold Machine.trbClose
  split
  · exact h
  · extract_lets m g w s1 mine s2
    have h1 : FarStep s s1 := (h.same (u := { t with trb := { t.trb with grid := Tbl.set t.trb.grid p { g with next := m } } }) rfl rfl rfl).foldl _
      fun u k hu => hu.countCoarse p _
    have h2 : FarStep s s2 := by
      by_cases hc : s1.faultBit hBank 1 = true
      · rw [show s2 = s1 from if_pos hc]
        exact h1
      · rw [show s2 = _ from if_neg hc]
        exact h1.foldl _ fun u i hu => hu.ctxServe i m
    exact h2.foldl _ fun u i hu => (hu.endOpen i).forceOff i _ _

theorem trbOpen (h : FarStep s t) (p : Nat) : FarStep s (trbOpen p t) := by
  unfold Machine.trbOpen
  extract_lets old grid w s1
  exact (h.same (u := s1) rfl rfl rfl).foldl _ fun u i hu => hu.setCtx i _

theorem trbEpoch (h : FarStep s t) (p : Nat) : FarStep s (trbEpoch p t) := (h.trbClose p).trbOpen p

/-! Reaches, rings and sequencers (R146, R229, R239). -/

theorem reachEpoch (h : FarStep s t) (p : Nat) : FarStep s (reachEpoch p t) := by
  unfold Machine.reachEpoch
  extract_lets s1
  have h1 : FarStep s s1 := h.foldl _ fun u k hu => hu.same rfl rfl rfl
  have h2 : FarStep s (ringFault p s1) := h1.foldl _ fun u q hu => hu.putFault _ _ _
  refine h2.foldl _ fun u a hu => ?_
  dsimp only
  split
  · exact hu.same rfl rfl rfl
  · exact hu

theorem recDone (h : FarStep s t) (p id : Nat) : FarStep s (recDone p id t) := by
  unfold Machine.recDone
  extract_lets c r n w s1 s2
  have h2 : FarStep s s2 := (h.setCap p _).foldl _ fun u k hu => by
    split
    · exact hu.setSeq k _
    · exact hu
  exact h2.raise _ _

theorem truncNow (h : FarStep s t) (p id : Nat) : FarStep s (truncNow p id t) := by
  unfold Machine.truncNow
  extract_lets c r j
  exact (h.setCap p _).recDone p id

theorem quiet (h : FarStep s t) (n : Nat) : FarStep s (quiet n t) := by
  unfold Machine.quiet
  refine FarStep.setSeq ?_ n _
  split
  · exact h
  · rename_i id _
    extract_lets p partner s1
    have h1 : FarStep s s1 := h.truncNow p id
    clear_value partner
    cases partner with
    | none => exact h1
    | some j =>
      dsimp only
      split
      · exact h1.truncNow _ _
      · exact h1

theorem disarmSeq (h : FarStep s t) (n : Nat) : FarStep s (disarmSeq n t) := (h.setSeq n _).quiet n

theorem armSeq (h : FarStep s t) (n : Nat) : FarStep s (armSeq n t) :=
  ((((h.setSeq n _).setPair 0 (by unfold R.WEIR_ARMED; omega)).setPair 0 (by unfold R.WEIR_DEAD_GAP; omega)).setPair 0 (by unfold R.WEIR_DEAD_STALE; omega)).setPair 0
    (by unfold R.WEIR_DEAD_FULL; omega)

theorem bondSeqs (h : FarStep s t) (p : Nat) (was : Nat → Nat) : FarStep s (bondSeqs p was t) := by
  refine h.foldl _ fun u n hu => ?_
  extract_lets w s0 s1
  have h0 : FarStep s s0 := hu.setSeq n _
  have h1 : FarStep s s1 := by
    by_cases hc : (s0.seq n).armed = true
    · rw [show s1 = _ from if_pos hc]
      exact h0.disarmSeq n
    · rw [show s1 = s0 from if_neg hc]
      exact h0
  split
  · exact h1.armSeq n
  · exact h1

theorem epochEntry (h : FarStep s t) (p dt : Nat) : FarStep s (epochEntry p dt t) := by
  unfold Machine.epochEntry
  extract_lets c r again e s1 s2
  have h1 : FarStep s s1 := (h.setPair _ (by unfold R.CAP_EP_RWN; omega)).setWord _ (by unfold R.CAP_EP_DT; omega)
  have h2 : FarStep s s2 := (h1.setWord _ (by unfold R.CAP_EP_DT; omega)).setWord _ (by unfold R.CAP_EP_DT; omega)
  exact h2.setCap p _

theorem maskFault (h : FarStep s t) (p : Nat) : FarStep s (maskFault p t) := h.putFault _ _ _

/-- What the blocks behind the port do at a new epoch. -/
theorem epochDown (h : FarStep s t) (p : Nat) : FarStep s (epochDown p t) := (((h.epochEntry p _).reachEpoch p).trbEpoch p).maskFault p

end FarStep

end Sys2Proof.Machine
end

section
/-! Epochs, slips and calibrations of a port (R98 to R100, R105 to R108). -/

namespace Sys2Proof.Machine

open Sys2Proof.Claims

/-! A new epoch (R98, R99, R101). -/

/-- The port has an epoch and needs not reassemble; where it had one before, EPOCH_NEW was raised. -/
structure EpochBegun (p : Nat) (old : Bool) (s : State) : Prop where
  valid : s.flag (R.ING_PORT_STATUS_EPOCH_VALID p) = true
  asm : (s.portSt p).asm = false
  raised : old = true → Raised (hIng p) 5 s

namespace EpochBegun

variable {p : Nat} {old : Bool} {s t : State}

theorem far (h : EpochBegun p old s) (hp : p < 4) (k : FarStep s t) : EpochBegun p old t := by
  have hlo : R.ING_PORT_STATUS p < 0x405000 := by
    unfold R.ING_PORT_STATUS
    omega
  refine ⟨?_, ?_, fun ho => k.pend _ _ (h.raised ho)⟩
  · have hw : t.flag (R.ING_PORT_STATUS_EPOCH_VALID p) = s.flag (R.ING_PORT_STATUS_EPOCH_VALID p) :=
      congrArg (fun w : Word => bits w.toNat 4 4 == 1) (k.words _ hlo)
    rw [hw]
    exact h.valid
  · rw [portSt_congr k.ing]
    exact h.asm

theorem setPort (h : EpochBegun p old s) (q : Nat) {x : PortSt} (hx : q = p → x.asm = false) : EpochBegun p old (s.setPort q x) := by
  refine ⟨h.valid, ?_, h.raised⟩
  by_cases hq : q = p
  · subst hq
    rw [portSt_setPort_same]
    exact hx rfl
  · rw [portSt_setPort_ne s x hq]
    exact h.asm

theorem setWord (h : EpochBegun p old s) {o : Nat} (v : Nat) (ho : R.ING_PORT_STATUS p ≠ o) : EpochBegun p old (s.setWord o v) :=
  ⟨(flag_of_kept (wordsKept_setWord s o v) (List.mem_singleton.not.mpr ho)).trans h.valid, h.asm, h.raised⟩

theorem setBonded (h : EpochBegun p old s) (q : Nat) (b : Bool) : EpochBegun p old (s.setFlag (R.ING_PORT_STATUS_BONDED q) b) :=
  ⟨(congrArg (· == 1) (State.fld_setFld_apart s (l := R.ING_PORT_STATUS_BONDED q) (m := R.ING_PORT_STATUS_EPOCH_VALID p) _ (by decide : 5 ≤ 5) (by decide : 5 < 32)
    (.inr (by decide : 4 < 5)))).trans h.valid, h.asm, h.raised⟩

/-- A bond that forms keeps the epochs of its ports. -/
theorem bondForm (h : EpochBegun p old s) (hp : p < 4) (q : Nat) : EpochBegun p old (bondForm q s) := by
  unfold Machine.bondForm
  extract_lets e o x y same d f l t ph s1 s2
  split
  · split
    · have hclosed := h.far hp (((FarStep.refl s).trbClose e).trbClose o)
      have hx : e = p → x.asm = false := fun he => (congrArg (fun q => (s.portSt q).asm) he).trans h.asm
      have hy : o = p → y.asm = false := fun ho => (congrArg (fun q => (s.portSt q).asm) ho).trans h.asm
      have hports := (hclosed.setPort e (x := { x with relF := f, relR := 0, deliver := some (f * 8192) }) hx).setPort o
        (x := { y with epFc := f, epTick := t, relF := f, relR := 0, deliver := some (f * 8192) }) hy
      have h1 : EpochBegun p old s1 := hports.setWord (ph + 1280) (by unfold R.ING_PORT_STATUS R.ING_PHASE; omega)
      have h2 : EpochBegun p old s2 := (((h1.setWord _ (by unfold R.ING_PORT_STATUS R.ING_EPOCH_FC; omega)).setWord _
        (by unfold R.ING_PORT_STATUS R.ING_EPOCH_FC; omega)).setBonded e true).setBonded o true
      exact h2.far hp (((((((((((FarStep.refl s2).putFault (hIng e) 4 false).epochEntry o _).reachEpoch o).reachEpoch e).trbOpen o).trbOpen e).bondSeqs e id).maskFault e).maskFault o))
    · exact h.far hp (((FarStep.refl s).raise _ _).putFault _ _ true)
  · exact h

end EpochBegun

/-- The epoch begins. -/
theorem valid_beginEpoch (p fc : Nat) (t : Int) (phase : Nat) (s : State) : (beginEpoch p fc t phase s).flag (R.ING_PORT_STATUS_EPOCH_VALID p) = true :=
  State.flag_setFlag_same _ (R.ING_PORT_STATUS_EPOCH_VALID p) true rfl (by decide : 4 < 32)

theorem asm_beginEpoch (p fc : Nat) (t : Int) (phase : Nat) (s : State) : ((beginEpoch p fc t phase s).portSt p).asm = false :=
  congrArg PortSt.asm (portSt_setPort_same _ p _)

theorem epochNew_begun {p old : Nat} {first : Bool} {s : State} (hp : p < 4) (hv : s.flag (R.ING_PORT_STATUS_EPOCH_VALID p) = true)
    (ha : (s.portSt p).asm = false) : EpochBegun p (!first) (epochNew p old first s) := by
  cases first
  · have h : EpochBegun p false s := ⟨hv, ha, fun e => absurd e (by decide)⟩
    have hk : FarStep s (epochNew p old false s) := ((FarStep.refl s).raise _ _).addLog _ _ _ _ _ _
    obtain ⟨hv', ha', -⟩ := h.far hp hk
    exact ⟨hv', ha', fun _ => (raise_raised (hIng p) 5 s).kept (addLog_frame ..)⟩
  · exact ⟨hv, ha, fun e => absurd e (by decide)⟩

/-- Has the port got what an epoch needs (R98)? -/
structure Assembled (p : Nat) (s : State) : Prop where
  state : s.portState p = psAssemble
  lanes : s.allActive p = true
  moved : (s.portSt p).moved = []
  fmt : s.faultBit (hIng p) 1 = false
  wire : s.faultBit (hIng p) 2 = false

theorem Assembled.goes {p : Nat} {s : State} (h : Assembled p s) :
    (s.portState p != psAssemble || !s.allActive p || !(s.portSt p).moved.isEmpty || (s.faultBit (hIng p) 1 || s.faultBit (hIng p) 2)) = false := by
  rw [h.state, h.lanes, h.moved, h.fmt, h.wire]
  rfl

/-- The epoch is kept. -/
theorem epochFix_keeps {p fc : Nat} {a : AnchorTap} {s : State} (h : Assembled p s) (hv : s.flag (R.ING_PORT_STATUS_EPOCH_VALID p) = true)
    (hn : anchorNear s p fc a = true) : epochFix p fc a s = portUpdate p (s.setPort p { s.portSt p with asm := false, recheck := false, gapCoast := false }) := by
  have hgo := ne_true_of_eq_false h.goes
  unfold epochFix
  dsimp only
  rw [if_neg hgo, hv, hn]
  rfl

/-- A new epoch is fixed. -/
theorem epochFix_fixes {p fc : Nat} {a : AnchorTap} {s : State} (h : Assembled p s)
    (hn : (s.flag (R.ING_PORT_STATUS_EPOCH_VALID p) && anchorNear s p fc a) = false) : ∃ (t : Int) (ph old : Nat), epochFix p fc a s =
      portUpdate p (bondForm p (epochDown p (epochNew p old (!(s.portSt p).anyEp) (beginEpoch p fc t ph (unbond p s))))) := by
  have hgo := ne_true_of_eq_false h.goes
  refine ⟨(fixPhase s (s.portSt p).link (anchorTime s p a)).1, (fixPhase s (s.portSt p).link (anchorTime s p a)).2.toNat, s.wordN (R.ING_PHASE p), ?_⟩
  unfold epochFix
  dsimp only
  rw [if_neg hgo, hn]
  rfl

theorem epochFix_keeps_spec {p : Fin 4} {fc : Nat} {a : AnchorTap} {s : State} (h : Assembled p s) (hv : s.flag (R.ING_PORT_STATUS_EPOCH_VALID p) = true)
    (hn : anchorNear s p fc a = true) :
    ((epochFix p fc a s).portSt p).asm = false ∧ ((epochFix p fc a s).portSt p).epFc = (s.portSt p).epFc ∧
    ((epochFix p fc a s).portSt p).epTick = (s.portSt p).epTick ∧ (epochFix p fc a s).word (R.ING_PHASE p) = s.word (R.ING_PHASE p) ∧
    PortStep p [(hIng p, 3), (hIng p, 11)] s (epochFix p fc a s) := by
  have hport := portSt_setPort_same s p { s.portSt p with asm := false, recheck := false, gapCoast := false }
  have hphase : R.ING_PHASE p ∉ statusWords := by
    simp only [statusWords, List.mem_map, R.ING_PHASE, R.ING_PORT_STATUS, not_exists, not_and]
    omega
  rw [epochFix_keeps h hv hn]
  refine ⟨?_, ?_, ?_, wordsKept_portUpdate (s.setPort p _) p.isLt _ hphase, ((PortStep.refl p _ s).setPort p _).portUpdate (fun _ => by simp) (fun _ => by simp)⟩
  · rw [portSt_portUpdate, hport]
  · rw [portSt_portUpdate, hport]
  · rw [portSt_portUpdate, hport]

theorem epochFix_fixes_spec {p : Fin 4} {fc : Nat} {a : AnchorTap} {s : State} (h : Assembled p s)
    (hn : (s.flag (R.ING_PORT_STATUS_EPOCH_VALID p) && anchorNear s p fc a) = false) : EpochBegun p (s.portSt p).anyEp (epochFix p fc a s) := by
  obtain ⟨t, ph, old, he⟩ := epochFix_fixes h hn
  have hbegun := epochNew_begun (old := old) (first := !(s.portSt p).anyEp) p.isLt (valid_beginEpoch p fc t ph (unbond p s)) (asm_beginEpoch ..)
  rw [Bool.not_not] at hbegun
  obtain ⟨hv, ha, hr⟩ := (hbegun.far p.isLt ((FarStep.refl _).epochDown p)).bondForm p.isLt p
  rw [he]
  generalize bondForm p (epochDown p (epochNew p old (!(s.portSt p).anyEp) (beginEpoch p fc t ph (unbond p s)))) = u at hv ha hr ⊢
  have hupd : PortStep p [(hIng p, 3), (hIng p, 11)] u (portUpdate p u) := (PortStep.refl p _ u).portUpdate (fun _ => by simp) (fun _ => by simp)
  refine ⟨(epochValid_portUpdate p u p).trans hv, ?_, fun ho => hupd.raised (hr ho)⟩
  rw [portSt_portUpdate]
  exact ha

/-! SLIP (R100). -/

/-- The port must reassemble after a slip. -/
def slipped (p : Nat) (s : State) : State := raise (hIng p) 6 (s.setPort p { s.portSt p with asm := true, gapCoast := true })

theorem slip_spec {p : Fin 4} {s : State} (hr : s.portRuns p = true) (hen : s.flag (R.ING_PORT_CFG_EN p) = true) (hc : (s.portSt p).cfgBad = false)
    (hi : (s.portSt p).idle = false) (hg : (s.portSt p).gone = []) :
    Raised (hIng p) 6 (slip p s) ∧ (slip p s).portState p = psAssemble ∧ ((slip p s).portSt p).asm = true ∧ PortStep p [(hIng p, 6)] s (slip p s) := by
  have heq : slip p s = portUpdate p (slipped p s) := if_pos hr
  have hport : (slipped p s).portSt p = { s.portSt p with asm := true, gapCoast := true } := portSt_setPort_same s p _
  have htgt : portTarget (slipped p s) p = psAssemble := portTarget_assemble hen (by rw [hport]; exact hc) (by rw [hport]; exact hi) (by rw [hport]; exact hg)
    (.inr (by rw [hport]))
  have hslip : PortStep p [(hIng p, 6)] s (slipped p s) := ((PortStep.refl p _ s).setPort p _).raise (by simp)
  have hupd : PortStep p [(hIng p, 6)] (slipped p s) (portUpdate p (slipped p s)) :=
    (PortStep.refl p _ _).portUpdate (fun h => absurd (htgt.symm.trans h) (by decide)) fun h => by
      rw [htgt] at h
      exact absurd h (by decide)
  rw [heq]
  refine ⟨hupd.raised (raise_raised ..), (portState_portUpdate p _).trans htgt, ?_, hslip.trans hupd⟩
  rw [portSt_portUpdate, hport]

/-! Calibrations (R105 to R108). -/

/-- No calibration of another port waits. -/
theorem calDue_setPort {s : State} {p : Nat} {x : PortSt} (hs : ∀ q < 4, (s.portSt q).calDue = false) (hx : x.calDue = false) (q : Nat) (hq : q < 4) :
    ((s.setPort p x).portSt q).calDue = false := by
  by_cases h : p = q
  · subst h
    rw [portSt_setPort_same]
    exact hx
  · rw [portSt_setPort_ne s x h]
    exact hs q hq

/-- The port's calibration waits. -/
def calAwaited (p : Nat) (s : State) : State := s.setPort p { s.portSt p with calDue := true }

theorem portCalDue_eq {p : Nat} {s : State} (h : s.wordN (R.ING_CAL_PERIOD p) ≠ 0) : portCalDue p s = calKick (calAwaited p s) := if_neg h

theorem calKick_waits {s : State} (h : calRuns s = true) : calKick s = s := if_pos h

theorem calKick_starts {p : Nat} {s : State} (hp : p < 4) (hn : calRuns s = false) (hd : (s.portSt p).calDue = true) (hr : s.portRuns p = true)
    (ho : ∀ q < 4, q ≠ p → (s.portSt q).calDue = false) : calKick s = calStart p s := by
  have hfind : (List.range 4).find? (fun q => (s.portSt q).calDue && s.portRuns q) = some p := by
    refine List.find?_range_eq_some.mpr ⟨by rw [hd, hr]; rfl, List.mem_range.mpr hp, fun q hq => ?_⟩
    rw [ho q (by omega) (by omega)]
    rfl
  refine (if_neg (ne_true_of_eq_false hn)).trans ?_
  rw [hfind]

theorem portCalDue_starts {p : Fin 4} {s : State} (h : s.wordN (R.ING_CAL_PERIOD p) ≠ 0) (hr : s.portRuns p = true) (hn : calRuns s = false)
    (ho : ∀ q < 4, (s.portSt q).calDue = false) : portCalDue p s = calStart p (calAwaited p s) := by
  rw [portCalDue_eq h]
  refine calKick_starts p.isLt hn ?_ hr fun q hq hne => ?_
  · exact congrArg PortSt.calDue (portSt_setPort_same s p _)
  · rw [calAwaited, portSt_setPort_ne s _ (Ne.symm hne)]
    exact ho q hq

/-- A calibration that runs ends as failed. -/
theorem calFail_ends {p : Nat} {s : State} (h : s.flag (R.ING_PORT_STATUS_CAL_BUSY p) = true) (ho : ∀ q < 4, (s.portSt q).calDue = false) (hp : p < 4) :
    calFail p s = raise (hIng p) 8 (calStop p s) := by
  rw [calFail_busy h]
  exact calKick_none (calDue_setPort (s := s.setFlag (R.ING_PORT_STATUS_CAL_BUSY p) false) ho (ho p hp))

theorem calBusy_calStop (p : Nat) (s : State) : (calStop p s).flag (R.ING_PORT_STATUS_CAL_BUSY p) = false :=
  State.flag_setFlag_same s (R.ING_PORT_STATUS_CAL_BUSY p) false rfl (by decide : 3 < 32)

theorem portSt_calStop (p : Nat) (s : State) : (calStop p s).portSt p = { s.portSt p with cals := ((s.portSt p).calAt, s.tick) :: (s.portSt p).cals } :=
  portSt_setPort_same ..

theorem event_calFail (p : Nat) (s : State) : Event (hIng p) 8 s (raise (hIng p) 8 (calStop p s)) :=
  ⟨raise_raised .., (raise_frame ..).congr_left rfl⟩

theorem portCalEnd_none {p : Nat} {s : State} (h : s.flag (R.ING_PORT_STATUS_CAL_BUSY p) = true) : portCalEnd p none s = calFail p s := by
  rw [portCalEnd, h]
  rfl

theorem portCalEnd_outside {p : Nat} {s : State} {r : PortCalResult} (h : s.flag (R.ING_PORT_STATUS_CAL_BUSY p) = true) (hr : calResultOk r = false) :
    portCalEnd p (some r) s = calFail p s := by
  rw [portCalEnd, h]
  dsimp only
  rw [hr]
  rfl

/-- The results of the lanes are journalled. -/
def lanesJournalled (p : Nat) (r : PortCalResult) (l : List Nat) (s : State) : State :=
  l.foldl (fun s l => journal 1 (p * 16 + l) ((r.trims[l]?).getD [] ++ [(r.laneSkew[l]?).getD 0]) s) s

/-- The results are journalled. -/
def calJournalled (p : Nat) (r : PortCalResult) (s : State) : State := journal 2 p [r.portSkew] (lanesJournalled p r (List.range 9) s)

/-- The results are what the port's values move to. -/
def calTargeted (p : Nat) (r : PortCalResult) (s : State) : State :=
  s.setPort p { s.portSt p with skewTo := some r.portSkew, phaseTo := some r.phase, trimTo := (List.range 9).flatMap (fun l => trimMoves p l r) }

theorem portCalEnd_within {p : Nat} {s : State} {r : PortCalResult} (h : s.flag (R.ING_PORT_STATUS_CAL_BUSY p) = true) (hr : calResultOk r = true) :
    portCalEnd p (some r) s = calKick (raise (hIng p) 7 (calStop p (calTargeted p r (calJournalled p r s)))) := by
  rw [portCalEnd, h]
  dsimp only
  rw [hr]
  rfl

theorem lanesJournalled_eq (p : Nat) (r : PortCalResult) (l : List Nat) (s : State) :
    lanesJournalled p r l s = { s with jq := (lanesJournalled p r l s).jq } :=
  List.foldlRecOn (motive := fun t : State => t = { s with jq := t.jq }) l _ rfl fun _ ht k _ =>
    congrArg (journal 1 (p * 16 + k) ((r.trims[k]?).getD [] ++ [(r.laneSkew[k]?).getD 0])) ht

theorem calJournalled_eq (p : Nat) (r : PortCalResult) (s : State) : calJournalled p r s = { s with jq := (calJournalled p r s).jq } := by
  unfold calJournalled
  generalize List.range 9 = l
  exact congrArg (journal 2 p [r.portSkew]) (lanesJournalled_eq p r l s)

theorem jq_calJournalled (p : Nat) (r : PortCalResult) (s : State) : ({ typ := 2, key := p, vals := [r.portSkew] } : JItem) ∈ (calJournalled p r s).jq :=
  List.mem_append_right _ (List.mem_singleton_self _)

theorem PortStep.lanesJournalled {p : Fin 4} {evs : List (Nat × Nat)} {s t : State} (h : PortStep p evs s t) (r : PortCalResult) (l : List Nat) :
    PortStep p evs s (lanesJournalled p r l t) :=
  h.foldl l fun u k _ => (PortStep.refl p evs u).journal 1 (p * 16 + k) ((r.trims[k]?).getD [] ++ [(r.laneSkew[k]?).getD 0])

theorem PortStep.calJournalled {p : Fin 4} {evs : List (Nat × Nat)} {s t : State} (h : PortStep p evs s t) (r : PortCalResult) :
    PortStep p evs s (calJournalled p r t) := (h.lanesJournalled r (List.range 9)).journal 2 p [r.portSkew]

/-- The moves of a lane's trims. -/
theorem trim_mem_trimMoves {p l i : Nat} {r : PortCalResult} (hw : r.wf = true) (hl : l < 9) (hi : i < 16) :
    ({ off := R.ING_TRIM p l i, w := 12, goal := (r.trims.getD l []).getD i 0 } : TrimMove) ∈ trimMoves p l r := by
  simp only [PortCalResult.wf, Bool.and_eq_true, beq_iff_eq, List.all_eq_true] at hw
  obtain ⟨⟨hn, hall⟩, -⟩ := hw
  have hl' : l < r.trims.length := by omega
  have hlane : (r.trims[l]?).getD [] = r.trims[l] := by rw [List.getElem?_eq_getElem hl']; rfl
  have hlen : r.trims[l].length = 16 := hall _ (List.getElem_mem hl')
  have hi' : i < r.trims[l].length := by omega
  refine List.mem_append_left _ (List.mem_map.mpr ⟨(r.trims[l][i], i), ?_, ?_⟩)
  · rw [hlane, List.mem_iff_getElem]
    refine ⟨i, by rw [List.length_zip, List.length_range]; omega, ?_⟩
    rw [List.getElem_zip, List.getElem_range]
  · rw [List.getD_eq_getElem?_getD, List.getD_eq_getElem?_getD, hlane, List.getElem?_eq_getElem hi']
    rfl

theorem skew_mem_trimMoves (p l : Nat) (r : PortCalResult) :
    ({ off := R.ING_LANE_SKEW p l, w := 32, goal := r.laneSkew.getD l 0 } : TrimMove) ∈ trimMoves p l r := by
  rw [List.getD_eq_getElem?_getD]
  exact List.mem_append_right _ (List.mem_singleton_self _)

theorem mem_trimTo {p l : Nat} {r : PortCalResult} {m : TrimMove} (hl : l < 9) (h : m ∈ trimMoves p l r) :
    m ∈ (List.range 9).flatMap (fun l => trimMoves p l r) := List.mem_flatMap.mpr ⟨l, List.mem_range.mpr hl, h⟩

theorem portCalEnd_within_spec {p : Fin 4} {s : State} {r : PortCalResult} (h : s.flag (R.ING_PORT_STATUS_CAL_BUSY p) = true) (hr : calResultOk r = true)
    (ho : ∀ q < 4, (s.portSt q).calDue = false) :
    (portCalEnd p (some r) s).flag (R.ING_PORT_STATUS_CAL_BUSY p) = false ∧
    ((portCalEnd p (some r) s).portSt p).trimTo = (List.range 9).flatMap (fun l => trimMoves p l r) ∧
    ((portCalEnd p (some r) s).portSt p).skewTo = some r.portSkew ∧ ((portCalEnd p (some r) s).portSt p).phaseTo = some r.phase ∧
    ({ typ := 2, key := p, vals := [r.portSkew] } : JItem) ∈ (portCalEnd p (some r) s).jq ∧ Raised (hIng p) 7 (portCalEnd p (some r) s) ∧
    PortStep p [(hIng p, 7)] s (portCalEnd p (some r) s) := by
  have hjq := jq_calJournalled p r s
  have hstep : PortStep p [(hIng p, 7)] s (calJournalled p r s) := (PortStep.refl p _ s).calJournalled r
  have hport := portSt_congr (congrArg State.ing (calJournalled_eq p r s))
  rw [portCalEnd_within h hr]
  generalize calJournalled p r s = a at hjq hstep hport ⊢
  have hloaded : (calTargeted p r a).portSt p =
      { a.portSt p with skewTo := some r.portSkew, phaseTo := some r.phase, trimTo := (List.range 9).flatMap (fun l => trimMoves p l r) } := portSt_setPort_same a p _
  have hstopped : (raise (hIng p) 7 (calStop p (calTargeted p r a))).portSt p =
      { (calTargeted p r a).portSt p with cals := (((calTargeted p r a).portSt p).calAt, (calTargeted p r a).tick) :: ((calTargeted p r a).portSt p).cals } :=
    portSt_setPort_same _ p _
  have hdue0 : ∀ q < 4, (a.portSt q).calDue = false := fun q hq => by rw [hport]; exact ho q hq
  have hdue1 : ∀ q < 4, ((calTargeted p r a).portSt q).calDue = false := calDue_setPort hdue0 (hdue0 p p.isLt)
  have hdue2 : ∀ q < 4, ((raise (hIng p) 7 (calStop p (calTargeted p r a))).portSt q).calDue = false :=
    calDue_setPort (s := (calTargeted p r a).setFlag (R.ING_PORT_STATUS_CAL_BUSY p) false) hdue1 (hdue1 p p.isLt)
  rw [calKick_none hdue2, hstopped, hloaded]
  refine ⟨calBusy_calStop p (calTargeted p r a), rfl, rfl, rfl, hjq, raise_raised .., ?_⟩
  exact (((hstep.setPort p _).setFlag (l := R.ING_PORT_STATUS_CAL_BUSY p) _ (inPage_status p)).setPort p _).raise (by simp)

/-! Moves at the boundary of a frame (R107). -/

/-- The first move that has not reached its goal makes a step. -/
theorem trimMove_first {p : Nat} {s : State} {m : TrimMove} {rest : List TrimMove} (h : (s.portSt p).trimTo = m :: rest) (hg : sext m.w (s.wordN m.off) ≠ m.goal) :
    trimMove p s = (s.setWord m.off (enc m.w (stepTo (sext m.w (s.wordN m.off)) m.goal))).setPort p { s.portSt p with trimTo := m :: rest } := by
  have hne : (sext m.w (s.wordN m.off) == m.goal) = false := beq_eq_false_iff_ne.mpr hg
  rw [trimMove, h, List.dropWhile_cons, hne]
  rfl

theorem calMove_trims {p : Nat} {s : State} (hs : ((trimMove p s).portSt p).skewTo = none) (hp : ((trimMove p s).portSt p).phaseTo = none) :
    calMove p s = (trimMove p s).setPort p ((trimMove p s).portSt p) := by
  simp only [calMove, hs, hp, Option.filter_none]
  rw [← hs, ← hp]

theorem sext12_bounds (x : Nat) : -2048 ≤ sext 12 x ∧ sext 12 x ≤ 2047 := by
  have h : x % 2 ^ 12 < 4096 := Nat.mod_lt _ (by decide)
  unfold sext
  split <;> omega

/-- A step of a trim stays within the trim's register. -/
theorem stepTo_bounds {cur goal : Int} (hc : -2048 ≤ cur ∧ cur ≤ 2047) (hg : -2048 ≤ goal ∧ goal ≤ 2047) :
    -2048 ≤ stepTo cur goal ∧ stepTo cur goal ≤ 2047 := by
  unfold stepTo clampI
  split_ifs <;> omega

theorem sext_wordN_setWord {o : Nat} {v : Int} (s : State) (h : -2048 ≤ v ∧ v ≤ 2047) : sext 12 ((s.setWord o (enc 12 v)).wordN o) = v := by
  have hlt : enc 12 v < 2 ^ 32 := Nat.lt_trans (enc_lt 12 v) (by decide)
  rw [State.wordN_setWord, if_pos rfl, Nat.mod_eq_of_lt hlt]
  exact sext_enc (by decide) h.1 (by have := h.2; show v < 2048; omega)

theorem trim_notMem_counters (p l i : Nat) : R.ING_TRIM p l i ∉ [R.ING_GAP p, R.ING_GAP p + 4, R.ING_CLIP p, R.ING_CLIP p + 4] := by
  simp only [R.ING_TRIM, R.ING_GAP, R.ING_CLIP, List.mem_cons, List.not_mem_nil, or_false]
  omega

theorem sampleRelease_trim {p l i : Nat} {s : State} {goal : Int} {rest : List TrimMove} (jesd : JesdRx) (h0 : (s.portSt p).relR = 0)
    (ht : (s.portSt p).trimTo = { off := R.ING_TRIM p l i, w := 12, goal := goal } :: rest) (hs : (s.portSt p).skewTo = none) (hp : (s.portSt p).phaseTo = none)
    (hg : -2048 ≤ goal ∧ goal ≤ 2047) (hne : sext 12 (s.wordN (R.ING_TRIM p l i)) ≠ goal) :
    sext 12 ((sampleRelease p jesd s).wordN (R.ING_TRIM p l i)) =
      sext 12 (s.wordN (R.ING_TRIM p l i)) + clampI (-1280) 1280 (goal - sext 12 (s.wordN (R.ING_TRIM p l i))) := by
  have htrim := trimMove_first ht hne
  have hport : (trimMove p s).portSt p = { s.portSt p with trimTo := { off := R.ING_TRIM p l i, w := 12, goal := goal } :: rest } := by
    rw [htrim, portSt_setPort_same]
  have hmove : boundaryMoved p s = (trimMove p s).setPort p ((trimMove p s).portSt p) :=
    (if_pos h0).trans (calMove_trims (by rw [hport]; exact hs) (by rw [hport]; exact hp))
  have hrel : ((boundaryMoved p s).portSt p).relR = 0 := by
    rw [hmove, portSt_setPort_same, hport]
    exact h0
  obtain ⟨hregs, -, -⟩ := sampleRelease_kept (p := p) (s := s) jesd (by rw [hrel]; decide)
  have hword : (sampleRelease p jesd s).wordN (R.ING_TRIM p l i) = (boundaryMoved p s).wordN (R.ING_TRIM p l i) :=
    (State.wordN_congr hregs _).trans (wordN_of_kept (wordsKept_wordsReleased p (relWords p jesd (boundaryMoved p s)) (boundaryMoved p s)) (trim_notMem_counters p l i))
  have hmoved : (boundaryMoved p s).wordN (R.ING_TRIM p l i) =
      (s.setWord (R.ING_TRIM p l i) (enc 12 (stepTo (sext 12 (s.wordN (R.ING_TRIM p l i))) goal))).wordN (R.ING_TRIM p l i) := by
    rw [hmove, htrim]
    rfl
  rw [hword, hmoved, sext_wordN_setWord s (stepTo_bounds (sext12_bounds _) hg)]
  rfl

end Sys2Proof.Machine

open Sys2Proof Sys2Proof.Machine Sys2Proof.Claims

/-- Settles O15: the epoch kept or fixed anew, the slip, and the start, the end and the moves of a calibration. -/
theorem epochsAndPortCalibration : Obligations.EpochsAndPortCalibration := by
  unfold Obligations.EpochsAndPortCalibration
  intro s p l i fc a r goal rest jesd hdue
  have ho : ∀ q < 4, (s.portSt q).calDue = false := fun q hq => hdue ⟨q, hq⟩
  refine ⟨fun hst hl hm h1 h2 hv hn => ⟨_, rfl, ?keep⟩, fun hst hl hm h1 h2 hn => ⟨_, rfl, ?fix⟩, fun hr hen hc hi hg => ⟨_, rfl, ?slip⟩,
    fun hper hr hb => ⟨_, congrArg Host.Outcome.next (portCalDue_starts hper hr (calRuns_eq_false hb) ho), ?starts⟩,
    fun hper hb => ⟨_, congrArg Host.Outcome.next ((portCalDue_eq hper).trans (calKick_waits (calRuns_eq_true hb))), rfl⟩,
    fun hb hw hok => ⟨_, rfl, ?within⟩, fun hr h0 ht hs hp hlo hhi hne => ?moves,
    fun hb hbad => ⟨_, congrArg Host.Outcome.next ((portCalEnd_outside hb hbad).trans (calFail_ends hb ho p.isLt)), rfl, calBusy_calStop p s, ?trims,
      wordsKept_setFlag s (R.ING_PORT_STATUS_CAL_BUSY p) false, event_calFail p s⟩,
    fun hb => ⟨_, congrArg Host.Outcome.next ((portCalEnd_none hb).trans (calFail_ends hb ho p.isLt)), rfl, calBusy_calStop p s,
      wordsKept_setFlag s (R.ING_PORT_STATUS_CAL_BUSY p) false, event_calFail p s⟩⟩
  case keep =>
    obtain ⟨hasm, hfc, htick, hphase, hstep⟩ := epochFix_keeps_spec ⟨hst, hl, hm, h1, h2⟩ hv (decide_eq_true hn)
    exact ⟨hasm, hfc, htick, hphase, hstep.frame⟩
  case fix =>
    have hnot : (s.flag (R.ING_PORT_STATUS_EPOCH_VALID p) && anchorNear s p fc.toNat a) = false := by
      rcases hn with h | h
      · rw [h, Bool.false_and]
      · rw [anchorNear, decide_eq_false (Nat.not_le.mpr h), Bool.and_false]
    obtain ⟨hvalid, hasm, hraised⟩ := epochFix_fixes_spec ⟨hst, hl, hm, h1, h2⟩ hnot
    exact ⟨hvalid, hraised, hasm⟩
  case slip =>
    obtain ⟨hraised, hport, hasm, hstep⟩ := slip_spec hr hen hc hi hg
    exact ⟨hraised, hport, hasm, hstep.frame⟩
  case starts => exact ⟨calBusy_calStart p (calAwaited p s), rfl, wordsKept_calStart p (calAwaited p s)⟩
  case within =>
    obtain ⟨hbusy, htrim, hskew, hphase, hjq, hraised, hstep⟩ := portCalEnd_within_spec hb hok ho
    refine ⟨hbusy, ?_, ?_, hskew, hphase, hjq, hraised, hstep.frame⟩
    · exact htrim ▸ mem_trimTo l.isLt (trim_mem_trimMoves hw l.isLt i.isLt)
    · exact htrim ▸ mem_trimTo l.isLt (skew_mem_trimMoves p l r)
  case moves =>
    rcases analysis_spec (sampleRelease p jesd) s with ⟨hheld, he⟩ | ⟨hheld, he⟩
    · exact ⟨_, rfl, by rw [hheld]; exact he⟩
    · exact ⟨_, rfl, by rw [hheld, he]; exact sampleRelease_trim jesd h0 ht hs hp ⟨hlo, hhi⟩ hne⟩
  case trims =>
    show ((calStop p s).portSt p).trimTo = _
    rw [portSt_calStop]
end

section
/-! A commit point of a short reach (R117) settles what waits at the silt unit (R177), and that writes whatever words the waiting snapshot holds. -/

namespace Sys2Proof.Machine

/-- The short reach of port 0 is disabled and its snapshot changes nothing, while a snapshot of the silt unit waits whose one word, against R20, is XRH_CFG of that
short reach, with N_LOG2 at 16. -/
def sltHoldsReachWord : State :=
  { State.reset with
    snaps := [{ hdr := hRch 0 0, words := [] }]
    slt := { Slt.init with due := [{ p := 0, w := 0, act := .slt [(R.XRH_CFG 0 0, 0x100)] }] } }

/-- The reach's snapshot passes R118. -/
theorem reachLegal_sltHoldsReachWord : reachLegal (overlay sltHoldsReachWord []) 0 0 = true := by decide +kernel

/-- The reach's snapshot leaves XRH_CFG at its reset value. -/
theorem cfg_overlay_sltHoldsReachWord : ((overlay sltHoldsReachWord []).rset 0 0).cfg = 0 := by decide +kernel

/-- The commit point leaves N_LOG2 at 16. -/
theorem cfg_reachCommit_sltHoldsReachWord : ((reachCommit 0 0 sltHoldsReachWord).rset 0 0).cfg = 0x100 := by decide +kernel

end Sys2Proof.Machine

open Sys2Proof Sys2Proof.Machine Sys2Proof.Claims

/-- Refutes O17: its fourth clause has the settings of the reach after an accepted commit equal to those of its own snapshot, in every state.  A short reach's commit point
also lets the commits that wait at the detector and silt units of its port take effect, and nothing in `State` keeps a waiting snapshot to the words of its own unit. -/
theorem not_reachControl : ¬ Obligations.ReachControl := by
  unfold Obligations.ReachControl
  intro h
  obtain ⟨-, -, -, hcommit, -⟩ :=
    h sltHoldsReachWord 0 0 ⟨0, []⟩ [] [] 0 0 0 0 0 ⟨[], 0, false, 0, 0, 0, none, none, none, false, []⟩
      ⟨0, ⟨[], 0, false, 0, 0, 0, none, none, none, false, []⟩, [], 0, [], 0, 0, 0, false, false⟩ []
  obtain ⟨t, ht, -, hset, -⟩ := hcommit rfl reachLegal_sltHoldsReachWord
  have htc : t = reachCommit 0 0 sltHoldsReachWord := (Host.Outcome.next.inj ht).symm
  have hcfg : (t.rset 0 0).cfg = ((overlay sltHoldsReachWord []).rset 0 0).cfg := congrArg RSet.cfg hset
  rw [htc, cfg_reachCommit_sltHoldsReachWord, cfg_overlay_sltHoldsReachWord] at hcfg
  exact absurd hcfg (by decide)
end

section
/-! Bytes of device memory that a write leaves as they were, and those that it stores (R259, R267, R271). -/

namespace Sys2Proof.Machine

theorem memGet_memSet_ne {a x : Nat} (m : List Host.Cell) (v : Byte) (h : a ≠ x) : memGet (memSet m x v) a = memGet m a := by
  induction m with
  | nil =>
    rw [memSet]
    split_ifs
    · rfl
    · exact if_neg (Ne.symm h)
  | cons c t ih =>
    obtain ⟨b, w⟩ := c
    have hx : ∀ l : List Host.Cell, memGet ((x, v) :: l) a = memGet l a := fun l => if_neg (Ne.symm h)
    have hb : ∀ l : List Host.Cell, memGet ((b, w) :: l) a = if b = a then w else memGet l a := fun _ => rfl
    rw [memSet]
    split_ifs with hbx hv hlt hv
    · exact (if_neg (fun e => h (e.symm.trans hbx))).symm
    · subst hbx
      rw [hx, hb, if_neg (Ne.symm h)]
    · rfl
    · exact hx _
    · rw [hb, hb, ih]

theorem memGet_memPut_outside {a x : Nat} (m : List Host.Cell) {bs : List Byte} (h : a < x ∨ x + bs.length ≤ a) : memGet (memPut m x bs) a = memGet m a := by
  induction bs generalizing m x with
  | nil => rfl
  | cons b t ih =>
    rw [List.length_cons] at h
    rw [memPut, ih _ (by omega), memGet_memSet_ne m b (by omega)]

theorem memGet_lostStore_ne {a x : Nat} (b : Byte) (full : Bool) (s : State) (h : a ≠ x) : memGet (lostStore x b full s).mem a = memGet s.mem a := by
  unfold lostStore
  split
  · exact memGet_memSet_ne _ b h
  · split_ifs
    · rfl
    · exact memGet_memSet_ne _ b h
    · rfl

/-- A write changes no byte outside its range, whether ranks were lost or not. -/
theorem memGet_memWrite_outside {a x : Nat} (s : State) {bs : List Byte} (h : a < x ∨ x + bs.length ≤ a) : memGet (s.memWrite x bs).mem a = memGet s.mem a := by
  unfold State.memWrite
  split
  · exact memGet_memPut_outside s.mem h
  · extract_lets full s1
    have h1 : memGet s1.mem a = memGet s.mem a :=
      List.foldlRecOn (motive := fun t : State => memGet t.mem a = memGet s.mem a) _ _ rfl fun t ht e he => by
        have hi : e.2 < bs.length := List.mem_range.mp (List.of_mem_zip he).2
        exact (memGet_lostStore_ne e.1 _ t (by omega)).trans ht
    exact List.foldlRecOn (motive := fun t : State => memGet t.mem a = memGet s.mem a) _ _ h1 fun t ht w _ => by rw [lostHeal_mem, ht]

/-- A byte that a unit's write to the Pool changes lies in a bank that the unit owns (R271). -/
theorem ownsBanks_of_unitPoolWrite {u a x : Nat} {bs : List Byte} {s : State} (h : memGet (unitPoolWrite u x bs s).mem a ≠ memGet s.mem a) :
    s.ownsBanks u ((a - poolBase) / bankBytes) 1 = true := by
  revert h
  unfold unitPoolWrite
  extract_lets f l
  split
  · rename_i ho
    intro h
    have hin : x ≤ a ∧ a < x + bs.length := by
      by_contra hn
      exact h (memGet_memWrite_outside s (by omega))
    have hf : f ≤ (a - poolBase) / bankBytes := Nat.div_le_div_right (by omega)
    have hl : (a - poolBase) / bankBytes ≤ l := Nat.div_le_div_right (by omega)
    simp only [State.ownsBanks, Bool.and_eq_true, decide_eq_true_eq, List.all_eq_true] at ho ⊢
    refine ⟨by omega, fun b hb => ho.2 b ?_⟩
    have := mem_upFrom.mp hb
    exact mem_upFrom.mpr (by omega)
  · exact fun h => absurd rfl h

theorem upFrom_succ (x n : Nat) : upFrom x (n + 1) = x :: upFrom (x + 1) n := by
  rw [upFrom, List.range_succ_eq_map, List.map_cons, List.map_map, upFrom]
  exact congrArg _ (List.map_congr_left fun i _ => by simp only [Function.comp_apply]; omega)

/-- What a store put in memory is read back. -/
theorem memTake_memPut {m : List Host.Cell} (x : Nat) (bs : List Byte) (h : memWf m = true) : memTake (memPut m x bs) x bs.length = bs := by
  induction bs generalizing m x with
  | nil => rfl
  | cons b t ih =>
    rw [memTake, List.length_cons, upFrom_succ, List.map_cons, memPut]
    refine congrArg₂ _ ?_ (ih (x + 1) (memSet_wf x b h))
    rw [memGet_memPut_outside _ (by omega), memGet_memSet x x b h, if_pos rfl]

end Sys2Proof.Machine
end

section
/-! What the operations of the mid and deep reaches leave (R127, R132, R137, R141, R142): words, events, bytes of memory, and the parts of the reach that each one writes. -/

namespace Sys2Proof.Machine

open Sys2Proof.Claims

/-! A reach after a write. -/

theorem reach_congr {s t : State} (h : t.rch = s.rch) (k p : Nat) : t.reach k p = s.reach k p := congrArg (fun r : Rch => Tbl.get Reach.init r.reach (4 * k + p)) h

@[simp] theorem reach_setReach_same (s : State) (k p : Nat) (x : Reach) : (s.setReach k p x).reach k p = x := Tbl.get_set_same ..

theorem reach_setReach_ne {k p m q : Nat} (s : State) (x : Reach) (h : 4 * k + p ≠ 4 * m + q) : (s.setReach k p x).reach m q = s.reach m q := Tbl.get_set_ne _ _ _ h

/-- A reach has noted frames to hold (R144), and nothing else. -/
def Remembers (x y : Reach) : Prop := y = { x with last := y.last, lastXp := y.lastXp }

/-- A reach has queued segments of products (R132), and nothing else. -/
def Emits (x y : Reach) : Prop := y = { x with prodSeq := y.prodSeq, alt := y.alt, segs := y.segs }

theorem Remembers.of_eq {x y : Reach} (h : y = x) : Remembers x y := by rw [h]; rfl

theorem Remembers.trans {x y z : Reach} (h : Remembers x y) (k : Remembers y z) : Remembers x z :=
  Eq.trans k (congrArg (fun w : Reach => { w with last := z.last, lastXp := z.lastXp }) h)

theorem Emits.of_eq {x y : Reach} (h : y = x) : Emits x y := by rw [h]; rfl

theorem Emits.trans {x y z : Reach} (h : Emits x y) (k : Emits y z) : Emits x z :=
  Eq.trans k (congrArg (fun w : Reach => { w with prodSeq := z.prodSeq, alt := z.alt, segs := z.segs }) h)

/-! The frame. -/

/-- Of `s` and `t` only reach state, the words `ws`, events `evs` of unit `h`, bytes at addresses in `W` and what is noted of lost ranks differ. -/
structure ReachFrame (h : Nat) (ws evs : List Nat) (W : Nat → Prop) (s t : State) : Prop where
  eq : t = { s with rch := t.rch, regs := t.regs, rep := t.rep, mem := t.mem, poison := t.poison, rsv := t.rsv }
  words : WordsKept s t ws
  reports : RepFrame [] (evs.map (h, ·)) [] s t
  mem : ∀ a, memGet t.mem a ≠ memGet s.mem a → W a

namespace ReachFrame

variable {h : Nat} {ws evs : List Nat} {W : Nat → Prop} {s t u : State}

theorem refl (h : Nat) (ws evs : List Nat) (W : Nat → Prop) (s : State) : ReachFrame h ws evs W s s := ⟨rfl, fun _ _ => rfl, .refl .., fun _ hn => absurd rfl hn⟩

theorem trans (f : ReachFrame h ws evs W s t) (k : ReachFrame h ws evs W t u) : ReachFrame h ws evs W s u where
  eq := k.eq.trans (congrArg (fun w : State => { w with rch := u.rch, regs := u.regs, rep := u.rep, mem := u.mem, poison := u.poison, rsv := u.rsv }) f.eq)
  words := wordsKept_step f.words k.words
  reports := (f.reports.trans k.reports).mono (by simp) (by simp) (by simp)
  mem a hn := by
    by_cases ht : memGet u.mem a = memGet t.mem a
    · exact f.mem a (ht ▸ hn)
    · exact k.mem a ht

theorem mono {ws' evs' : List Nat} {W' : Nat → Prop} (f : ReachFrame h ws evs W s t) (hw : ws ⊆ ws') (he : evs ⊆ evs') (hW : ∀ a, W a → W' a) :
    ReachFrame h ws' evs' W' s t :=
  ⟨f.eq, wordsKept_mono f.words hw, f.reports.mono (by simp) (List.map_subset _ he) (by simp), fun a hn => hW a (f.mem a hn)⟩

theorem ite {c : Prop} [Decidable c] (f : ReachFrame h ws evs W s t) (k : ReachFrame h ws evs W s u) : ReachFrame h ws evs W s (if c then t else u) := by
  split
  · exact f
  · exact k

theorem withRch (f : ReachFrame h ws evs W s t) (r : Rch) : ReachFrame h ws evs W s { t with rch := r } :=
  f.trans ⟨rfl, fun _ _ => rfl, .of_rep rfl, fun _ hn => absurd rfl hn⟩

theorem setReach (f : ReachFrame h ws evs W s t) (k p : Nat) (x : Reach) : ReachFrame h ws evs W s (t.setReach k p x) := f.withRch _

theorem setWord (f : ReachFrame h ws evs W s t) {o : Nat} (v : Nat) (ho : o ∈ ws) : ReachFrame h ws evs W s (t.setWord o v) :=
  f.trans ⟨rfl, fun _ hn => State.word_setWord_ne t v fun e => hn (e ▸ ho), .of_rep rfl, fun _ hn => absurd rfl hn⟩

theorem bump64 (f : ReachFrame h ws evs W s t) {o : Nat} (k : Nat) (ho : o ∈ ws) (ho4 : o + 4 ∈ ws) : ReachFrame h ws evs W s (t.bump64 o k) :=
  (f.setWord _ ho).setWord _ ho4

theorem raise (f : ReachFrame h ws evs W s t) {b : Nat} (hb : b ∈ evs) : ReachFrame h ws evs W s (raise h b t) :=
  f.trans ⟨rfl, fun _ _ => rfl, (raise_frame h b t).mono (by simp) (by simpa using hb) (by simp), fun _ hn => absurd rfl hn⟩

theorem memWrite (f : ReachFrame h ws evs W s t) {a : Nat} (bs : List Byte) (hW : ∀ x, a ≤ x → W x) : ReachFrame h ws evs W s (t.memWrite a bs) := by
  refine f.trans ⟨?_, ?_, ?_, fun x hn => hW x ?_⟩
  · conv_lhs => rw [memWrite_eq]
    rw [memWrite_eq]
  · exact wordsKept_of_regs (by rw [memWrite_eq])
  · exact .of_rep (by rw [memWrite_eq])
  · exact Nat.le_of_not_lt fun hx => hn (memGet_memWrite_outside t (.inl hx))

end ReachFrame

theorem unitPoolWrite_eq (u a : Nat) (bs : List Byte) (s : State) :
    unitPoolWrite u a bs s = { s with mem := (unitPoolWrite u a bs s).mem, poison := (unitPoolWrite u a bs s).poison, rsv := (unitPoolWrite u a bs s).rsv } := by
  unfold unitPoolWrite
  extract_lets f l
  split
  · exact memWrite_eq ..
  · rfl

/-- Ownership of Pool banks is what their owner words say. -/
theorem ownsBanks_of_kept {s t : State} {ws : List Nat} (h : WordsKept s t ws) (hw : ∀ b, R.POOL_OWNER b ∉ ws) (u b n : Nat) : t.ownsBanks u b n = s.ownsBanks u b n := by
  have hfld : ∀ i, t.fld (R.POOL_OWNER_OWNER i) = s.fld (R.POOL_OWNER_OWNER i) ∧ t.fld (R.POOL_OWNER_STATE i) = s.fld (R.POOL_OWNER_STATE i) :=
    fun i => ⟨fld_of_kept h (hw i), fld_of_kept h (hw i)⟩
  simp only [State.ownsBanks, hfld]

/-- The addresses in the Pool banks that a unit owns. -/
def InOwnBanks (u : Nat) (s : State) (a : Nat) : Prop := s.ownsBanks u ((a - poolBase) / bankBytes) 1 = true

theorem ReachFrame.unitPoolWrite {h : Nat} {ws evs : List Nat} {s t : State} (f : ReachFrame h ws evs (InOwnBanks h s) s t) (hw : ∀ b, R.POOL_OWNER b ∉ ws)
    (a : Nat) (bs : List Byte) : ReachFrame h ws evs (InOwnBanks h s) s (unitPoolWrite h a bs t) := by
  refine f.trans ⟨?_, ?_, ?_, fun x hn => ?_⟩
  · conv_lhs => rw [unitPoolWrite_eq]
    rw [unitPoolWrite_eq]
  · exact wordsKept_of_regs (by rw [unitPoolWrite_eq])
  · exact .of_rep (by rw [unitPoolWrite_eq])
  · exact (ownsBanks_of_kept f.words hw ..).symm.trans (ownsBanks_of_unitPoolWrite hn)

/-! Frames taken, and frames to hold (R144). -/

/-- The frame that is taken leaves its grid. -/
theorem takeFrame_some {k p j : Nat} {g : Grid} {s : State} (h : (takeFrame k p s).1 = some (g, j)) :
    (takeFrame k p s).2 = s.setReach k p { s.reach k p with grids := ((takeFrame k p s).2.reach k p).grids } := by
  revert h
  unfold takeFrame
  extract_lets x
  split
  · nofun
  · split
    · nofun
    · intro _
      rw [reach_setReach_same]

theorem frameAt_cases (k p : Nat) (g : Grid) (n : Nat) (s : State) :
    (frameAt k p g n s).2.2 = s ∨ ∃ f, (frameAt k p g n s).2.2 = s.setReach k p { s.reach k p with last := some f } := by
  unfold frameAt
  extract_lets r c x
  by_cases hb : bitAt c.1.psw 1 = true
  · rw [if_pos hb]
    exact .inl rfl
  · rw [if_neg hb]
    split
    · exact .inr ⟨_, rfl⟩
    · exact .inl rfl

theorem partnerFrame_cases (p q : Nat) (g : Grid) (n : Nat) (s : State) :
    (partnerFrame p q g n s).2 = s ∨ ∃ f, (partnerFrame p q g n s).2 = s.setReach 1 p { s.reach 1 p with lastXp := some f } := by
  unfold partnerFrame
  extract_lets r c x
  split_ifs
  · exact .inl rfl
  · exact .inl rfl
  · exact .inr ⟨_, rfl⟩

theorem remembers_frameAt (k p : Nat) (g : Grid) (n : Nat) (s : State) : Remembers (s.reach k p) ((frameAt k p g n s).2.2.reach k p) := by
  rcases frameAt_cases k p g n s with h | ⟨f, h⟩
  · exact .of_eq (by rw [h])
  · rw [h, reach_setReach_same]
    rfl

theorem remembers_partnerFrame (p q : Nat) (g : Grid) (n : Nat) (s : State) : Remembers (s.reach 1 p) ((partnerFrame p q g n s).2.reach 1 p) := by
  rcases partnerFrame_cases p q g n s with h | ⟨f, h⟩
  · exact .of_eq (by rw [h])
  · rw [h, reach_setReach_same]
    rfl

/-! Products (R132). -/

theorem emits_emitProduct (r : RSet) (dec : Nat) (d : Prod) (s : State) : Emits (s.reach r.k r.p) ((emitProduct r dec d s).reach r.k r.p) := by
  unfold emitProduct
  extract_lets x alt per n segs
  rw [reach_setReach_same]
  rfl

theorem prodSeq_emitProduct (r : RSet) (dec : Nat) (d : Prod) (s : State) :
    ((emitProduct r dec d s).reach r.k r.p).prodSeq = ((s.reach r.k r.p).prodSeq + 1) % 2 ^ 32 :=
  congrArg Reach.prodSeq (reach_setReach_same ..)

namespace ReachFrame

variable {h : Nat} {ws evs : List Nat} {W : Nat → Prop} {s t : State}

theorem takeFrame {k p j : Nat} {g : Grid} (f : ReachFrame h ws evs W s t) (ht : (takeFrame k p t).1 = some (g, j)) : ReachFrame h ws evs W s (takeFrame k p t).2 := by
  rw [takeFrame_some ht]
  exact f.setReach ..

theorem frameAt (f : ReachFrame h ws evs W s t) (k p : Nat) (g : Grid) (n : Nat) : ReachFrame h ws evs W s (frameAt k p g n t).2.2 := by
  rcases frameAt_cases k p g n t with he | ⟨l, he⟩
  · rw [he]
    exact f
  · rw [he]
    exact f.setReach ..

theorem partnerFrame (f : ReachFrame h ws evs W s t) (p q : Nat) (g : Grid) (n : Nat) : ReachFrame h ws evs W s (partnerFrame p q g n t).2 := by
  rcases partnerFrame_cases p q g n t with he | ⟨l, he⟩
  · rw [he]
    exact f
  · rw [he]
    exact f.setReach ..

theorem emitProduct (f : ReachFrame h ws evs W s t) (r : RSet) (dec : Nat) (d : Prod) : ReachFrame h ws evs W s (emitProduct r dec d t) := f.setReach ..

theorem countSat {k p : Nat} (f : ReachFrame (hRch k p) ws evs W s t) (ho : R.XRH_SAT k p ∈ ws) (ho4 : R.XRH_SAT k p + 4 ∈ ws) (he : 0 ∈ evs) :
    ReachFrame (hRch k p) ws evs W s (countSat k p t) := (f.bump64 1 ho ho4).raise he

end ReachFrame

/-- A completed frame is counted in FRAMES, and a saturated one in SAT (R127). -/
theorem countFrame_spec (k p : Nat) (sat : Bool) (W : Nat → Prop) (s : State) :
    ReachFrame (hRch k p) [R.XRH_FRAMES k p, R.XRH_FRAMES k p + 4, R.XRH_SAT k p, R.XRH_SAT k p + 4] [0] W s (countFrame k p sat s) ∧
    (countFrame k p sat s).pair (R.XRH_FRAMES k p) = (s.pair (R.XRH_FRAMES k p) + 1) % 2 ^ 64 ∧ (countFrame k p sat s).rch = s.rch := by
  have h1 : ReachFrame (hRch k p) [R.XRH_FRAMES k p, R.XRH_FRAMES k p + 4, R.XRH_SAT k p, R.XRH_SAT k p + 4] [0] W s (s.bump64 (R.XRH_FRAMES k p) 1) :=
    (ReachFrame.refl ..).bump64 1 (by simp) (by simp)
  have hne : R.XRH_FRAMES k p ∉ [R.XRH_SAT k p, R.XRH_SAT k p + 4] ∧ R.XRH_FRAMES k p + 4 ∉ [R.XRH_SAT k p, R.XRH_SAT k p + 4] := by
    simp only [R.XRH_FRAMES, R.XRH_SAT, List.mem_cons, List.not_mem_nil, or_false]
    omega
  unfold countFrame
  cases sat
  · exact ⟨h1, pair_bump64 .., rfl⟩
  · refine ⟨h1.countSat (by simp) (by simp) (by simp), ?_, rfl⟩
    exact (pair_of_kept (wordsKept_bump64 (s.bump64 (R.XRH_FRAMES k p) 1) (R.XRH_SAT k p) 1) hne.1 hne.2).trans (pair_bump64 ..)

end Sys2Proof.Machine
end

section
/-! What a frame does that the short reach delivers (R131, R177, R215) leaves the reaches, and of their words all but those with shadowed fields, as they were. -/

namespace Sys2Proof.Machine

open Sys2Proof.Claims

/-- Reach state stays, and so do the words of the reaches' pages that have no shadowed field: a snapshot that waits may hold words of any unit. -/
structure Downstream (s t : State) : Prop where
  rch : t.rch = s.rch
  words : ∀ o, 0x810000 ≤ o → o < 0x840000 → shMask o = 0 → t.word o = s.word o

namespace Downstream

variable {s t : State}

theorem refl (s : State) : Downstream s s := ⟨rfl, fun _ _ _ _ => rfl⟩

theorem trans {u : State} (h : Downstream s t) (k : Downstream t u) : Downstream s u :=
  ⟨k.rch.trans h.rch, fun o h1 h2 h3 => (k.words o h1 h2 h3).trans (h.words o h1 h2 h3)⟩

/-- Other parts of the state change. -/
theorem same {u : State} (h : Downstream s t) (hc : u.rch = t.rch) (hr : u.regs = t.regs) : Downstream s u :=
  h.trans ⟨hc, fun o _ _ _ => State.word_congr hr o⟩

theorem setWord (h : Downstream s t) {o : Nat} (v : Nat) (ho : 0x840000 ≤ o) : Downstream s (t.setWord o v) :=
  h.trans ⟨rfl, fun x _ hx _ => State.word_setWord_ne t v (by omega)⟩

theorem bump64 (h : Downstream s t) {o : Nat} (k : Nat) (ho : 0x840000 ≤ o) : Downstream s (t.bump64 o k) :=
  (h.setWord _ ho).setWord _ (Nat.le_add_right_of_le ho)

theorem raise (h : Downstream s t) (u b : Nat) : Downstream s (raise u b t) := h.same rfl rfl
theorem addLog (h : Downstream s t) (u k v c a0 a1 : Nat) : Downstream s (addLog u k v c a0 a1 t) := h.same rfl rfl
theorem clearFault (h : Downstream s t) (u b : Nat) : Downstream s (clearFault u b t) := h.same rfl rfl
theorem putFault (h : Downstream s t) (u b : Nat) (v : Bool) : Downstream s (putFault u b v t) := h.same (putFault_rch ..) (putFault_regs ..)
theorem setTrace (h : Downstream s t) (p n : Nat) (x : Trace) : Downstream s (t.setTrace p n x) := h.same rfl rfl
theorem setSpg (h : Downstream s t) (p : Nat) (x : Spg) : Downstream s (t.setSpg p x) := h.same rfl rfl
theorem setPlane (h : Downstream s t) (p n : Nat) (x : Plane) : Downstream s (t.setPlane p n x) := h.same rfl rfl
theorem setSeq (h : Downstream s t) (n : Nat) (x : WSeq) : Downstream s (t.setSeq n x) := h.same rfl rfl

theorem unitPoolWrite (h : Downstream s t) (u a : Nat) (bs : List Byte) : Downstream s (unitPoolWrite u a bs t) := by
  rw [unitPoolWrite_eq]
  exact h.same rfl rfl

theorem ite {c : Prop} [Decidable c] {u : State} (h : Downstream s t) (k : Downstream s u) : Downstream s (if c then t else u) := by
  split
  · exact h
  · exact k

theorem foldl {α : Type} {f : State → α → State} (h : Downstream s t) (l : List α) (hf : ∀ u x, Downstream s u → Downstream s (f u x)) : Downstream s (l.foldl f t) :=
  List.foldlRecOn (motive := fun u => Downstream s u) l f h fun u k x _ => hf u x k

/-- Of a word without shadowed fields a snapshot changes nothing. -/
theorem overlay (h : Downstream s t) (ws : Tbl Nat) : Downstream s (overlay t ws) :=
  h.foldl ws fun u e hu => hu.trans ⟨rfl, fun o _ _ ho => by
    dsimp only
    by_cases heq : e.1 = o
    · have hall : ((u.wordN o &&& (0xFFFFFFFF - 0)) ||| (e.2 &&& 0)) = (u.word o).toNat := by
        rw [Nat.and_zero, Nat.or_zero]
        exact Nat.and_two_pow_sub_one_of_lt_two_pow (n := 32) (u.word o).isLt
      rw [heq, ho, hall, word_setWord_toNat]
    · exact State.word_setWord_ne u _ heq⟩

/-! Traces and the spectrogram stream (R155 to R161, R173, R174). -/

theorem endUpdate (h : Downstream s t) (p n : Nat) : Downstream s (endUpdate p n t) := by
  unfold Machine.endUpdate
  extract_lets x
  split
  · exact h
  · exact h.setTrace ..

theorem traceFrame (h : Downstream s t) (p n : Nat) (f : FrameIn) : Downstream s (traceFrame p n f t) := by
  unfold Machine.traceFrame
  split
  · exact h
  · extract_lets x det m cs pw first vals acc holdTr hold newHold psw y s1
    have h1 : Downstream s s1 := h.setTrace ..
    exact .ite (h1.endUpdate p n) h1

theorem endTile (h : Downstream s t) (p : Nat) : Downstream s (endTile p t) := by
  refine .ite (h.setSpg ..) ?_
  dsimp only
  split
  · exact ((h.setSpg ..).bump64 1 (by unfold R.DET_SPG_TDROP; omega)).raise ..
  · exact ((h.setSpg ..).unitPoolWrite ..).raise ..

theorem spgFrame (h : Downstream s t) (p : Nat) (f : FrameIn) : Downstream s (spgFrame p f t) := by
  unfold Machine.spgFrame
  split
  · exact h
  · exact .ite (h.setSpg ..) (.ite (((h.setSpg ..).unitPoolWrite ..).endTile p) ((h.setSpg ..).unitPoolWrite ..))

/-! Planes (R163 to R168). -/

theorem planeFrame (h : Downstream s t) (p n : Nat) (f : FrameIn) : Downstream s (planeFrame p n f t) := by
  unfold Machine.planeFrame
  exact .ite h (.ite (((h.setPlane ..).bump64 _ (by unfold R.SLT_PL_SATINC; omega)).raise ..) (h.setPlane ..))

theorem fillBuf (h : Downstream s t) (p n : Nat) : Downstream s (fillBuf p n t) := (h.setPlane ..).raise ..

theorem swapBufs (h : Downstream s t) (p n : Nat) : Downstream s (swapBufs p n t) := (h.fillBuf p n).setPlane ..

theorem setSusp (h : Downstream s t) (p n : Nat) (b : Bool) : Downstream s (setSusp p n b t) := by
  unfold Machine.setSusp
  exact .ite ((h.setPlane ..).raise ..) (h.setPlane ..)

theorem mapFaults (h : Downstream s t) (p : Nat) : Downstream s (mapFaults p t) := (h.putFault ..).putFault ..

/-! Commit points that waited (R177). -/

theorem planesSrCommit (h : Downstream s t) (p : Nat) : Downstream s (planesSrCommit p t) := by
  unfold Machine.planesSrCommit
  extract_lets s1 s2 fresh s3
  have h1 : Downstream s s1 := h.foldl _ fun u n hu => .ite (hu.setPlane ..) hu
  have h2 : Downstream s s2 := h1.foldl _ fun u n hu => .ite (hu.setSusp p n true) hu
  have h3 : Downstream s s3 := .ite h2 (h2.foldl _ fun u n hu => .ite (.ite (hu.setSusp p n false) hu) hu)
  exact h3.putFault ..

theorem applySr (h : Downstream s t) (p : Nat) (restart : Bool) : Downstream s (applySr p restart t) := by
  have h1 : Downstream s (Machine.endTile p t) := h.endTile p
  exact (planesSrCommit (.ite (h1.foldl _ fun u n hu => hu.setTrace ..) h1) p).mapFaults p

theorem poolClaim (h : Downstream s t) (u b n : Nat) : Downstream s (poolClaim u b n t) :=
  h.foldl _ fun v i hv => by
    have hset : ∀ x, Downstream s (v.setFld (R.POOL_OWNER_STATE i) x) := fun x => hv.setWord _ (by show _ ≤ R.POOL_OWNER i; unfold R.POOL_OWNER; omega)
    exact .ite (.ite (hset 1) (.ite (hset 2) hv)) hv

theorem laySlots (h : Downstream s t) (p : Nat) : Downstream s (laySlots p t) :=
  List.foldlRecOn (motive := fun a : Nat × State => Downstream s a.2) _ _ h fun a ha n _ => ha.setWord _ (by unfold R.DET_TR_SLOT; omega)

theorem applyDet (h : Downstream s t) (p : Nat) (ws : Tbl Nat) : Downstream s (applyDet p ws t) := by
  unfold Machine.applyDet
  extract_lets new s1 s2 s3 s4
  split
  · exact (h.raise ..).addLog ..
  · have h1 : Downstream s s1 := (h.foldl _ fun u n hu => .ite (hu.endUpdate p n) hu).endTile p
    have h3 : Downstream s s3 := (h1.overlay ws).foldl _ fun u n hu => .ite hu (hu.setTrace ..)
    exact (((h3.laySlots p).poolClaim ..).clearFault ..).mapFaults p

theorem planeCommit (h : Downstream s t) (old : State) (p n : Nat) : Downstream s (planeCommit old p n t) := by
  unfold Machine.planeCommit
  exact .ite (setPlane (.ite (h.fillBuf p n) h) ..) (.ite (h.setPlane ..) (.ite (h.swapBufs p n) (.ite (h.setPlane ..) h)))

theorem applySlt (h : Downstream s t) (p : Nat) (ws : Tbl Nat) : Downstream s (applySlt p ws t) := by
  unfold Machine.applySlt
  split
  · exact (h.raise ..).addLog ..
  · exact ((((h.overlay ws).foldl _ fun u n hu => hu.planeCommit t p n).putFault ..).clearFault ..).mapFaults p

theorem applyDue {u : State} (h : Downstream s t) {p : Nat} {a : SiltAct} (ha : applyDue p a t = some u) : Downstream s u := by
  cases a with
  | det ws =>
    cases ha
    exact h.applyDet p ws
  | slt ws =>
    unfold Machine.applyDue at ha
    dsimp only at ha
    split at ha
    · cases ha
    · cases ha
      exact h.applySlt p ws
  | sr r =>
    cases ha
    exact h.applySr p r

theorem runDue (ok : Nat → Bool) (p : Nat) (l : List SiltDue) (h : Downstream s t) : Downstream s (runDue ok p l t).2 := by
  induction l generalizing t with
  | nil => exact h
  | cons e l ih =>
    unfold Machine.runDue
    split
    · rename_i u hu
      refine ih ?_
      split at hu
      · exact h.applyDue hu
      · cases hu
    · exact ih h

theorem drainDue (h : Downstream s t) (ok : Nat → Bool) (p : Nat) : Downstream s (drainDue ok p t) := (runDue ok p t.slt.due h).same rfl rfl

theorem settleDue (h : Downstream s t) (p : Nat) : Downstream s (settleDue p t) := .ite h (h.drainDue ..)

/-! The frame. -/

/-- Traces, stream and planes take the frame. -/
theorem siltFrame (h : Downstream s t) (p w : Nat) (f : FrameIn) : Downstream s (siltFrame p w f t) := by
  unfold Machine.siltFrame
  extract_lets s0 s1 s2
  have h0 : Downstream s s0 := .ite h (h.drainDue ..)
  have h1 : Downstream s s1 := h0.foldl _ fun u n hu => hu.traceFrame p n f
  have h2 : Downstream s s2 := (h1.spgFrame p f).foldl _ fun u n hu => hu.planeFrame p n f
  exact (h2.mapFaults p).settleDue p

theorem slotFrame (h : Downstream s t) (p : Nat) (merge : Bool) (sl : Slot) : Downstream s (slotFrame p merge sl t) := by
  unfold Machine.slotFrame
  extract_lets join s1
  have h1 : Downstream s s1 := h.foldl _ fun u n hu => by
    dsimp only
    split
    · split
      · exact hu.setSeq ..
      · exact hu
    · exact hu.setSeq ..
  exact h1.same rfl rfl

/-- Masks and slots take the frame. -/
theorem weirFrame (h : Downstream s t) (p : Nat) (g : Grid) (start last : Nat) (fresh : Bool) (f : FrameIn) : Downstream s (weirFrame p g start last fresh f t) :=
  slotFrame (h.foldl _ fun u x hu => hu.bump64 1 (by unfold R.WEIR_HITS; omega)) ..

/-- FRAMES has no shadowed field. -/
theorem pair_frames (h : Downstream s t) (k : Fin 3) (p : Fin 4) : t.pair (R.XRH_FRAMES k p) = s.pair (R.XRH_FRAMES k p) := by
  have hmask : shMask (R.XRH_FRAMES k p) = 0 ∧ shMask (R.XRH_FRAMES k p + 4) = 0 := by
    revert k p
    decide +kernel
  have hlo : 0x810000 ≤ R.XRH_FRAMES k p ∧ R.XRH_FRAMES k p + 4 < 0x840000 := by
    unfold R.XRH_FRAMES
    omega
  rw [State.pair, State.wordN, State.wordN, h.words _ hlo.1 (by omega) hmask.1, h.words _ (by omega) hlo.2 hmask.2]
  rfl

end Downstream

end Sys2Proof.Machine
end

section
/-! What taking and counting a frame leaves (R127), and the short reach's frame (R131, R134). -/

namespace Sys2Proof.Machine

open Sys2Proof.Claims

/-- The frame that `takeFrame` names has left its grid and is counted; besides, the reach has at most noted frames to hold. -/
structure FrameTaken (k p : Nat) (s t : State) : Prop where
  frames : t.pair (R.XRH_FRAMES k p) = (s.pair (R.XRH_FRAMES k p) + 1) % 2 ^ 64
  reach : Remembers ((takeFrame k p s).2.reach k p) (t.reach k p)
  others : ∀ m q, 4 * k + p ≠ 4 * m + q → t.reach m q = s.reach m q

theorem frameTaken_countFrame {k p j : Nat} {g : Grid} {s : State} (h : (takeFrame k p s).1 = some (g, j)) (n : Nat) (sat : Bool) :
    FrameTaken k p s (countFrame k p sat (frameAt k p g n (takeFrame k p s).2).2.2) := by
  obtain ⟨-, hpair, hrch⟩ := countFrame_spec k p sat (fun _ => True) (frameAt k p g n (takeFrame k p s).2).2.2
  have htake := takeFrame_some h
  refine ⟨?frames, ?reach, fun m q hne => ?others⟩
  case frames =>
    rw [hpair, pair_congr (s := s)]
    rcases frameAt_cases k p g n (takeFrame k p s).2 with he | ⟨f, he⟩ <;> rw [he, htake] <;> rfl
  case reach =>
    rw [reach_congr hrch]
    exact remembers_frameAt ..
  case others =>
    rw [reach_congr hrch]
    rcases frameAt_cases k p g n (takeFrame k p s).2 with he | ⟨f, he⟩
    · rw [he, htake, reach_setReach_ne _ _ hne]
    · rw [he, reach_setReach_ne _ _ hne, htake, reach_setReach_ne _ _ hne]

/-- What takeFrame leaves of the reach besides its grids. -/
theorem reach_takeFrame {k p j : Nat} {g : Grid} {s : State} (h : (takeFrame k p s).1 = some (g, j)) :
    (takeFrame k p s).2.reach k p = { s.reach k p with grids := ((takeFrame k p s).2.reach k p).grids } := by
  conv_lhs => rw [takeFrame_some h, reach_setReach_same]

theorem FrameTaken.reach_eq {k p j : Nat} {g : Grid} {s t : State} (f : FrameTaken k p s t) (h : (takeFrame k p s).1 = some (g, j)) :
    t.reach k p = { s.reach k p with grids := ((takeFrame k p s).2.reach k p).grids, last := (t.reach k p).last, lastXp := (t.reach k p).lastXp } := by
  have hr := f.reach
  rw [Remembers, reach_takeFrame h] at hr
  exact hr

/-- What the reach still holds when a frame of it was taken and counted. -/
theorem FrameTaken.kept {k p j : Nat} {g : Grid} {s t : State} (f : FrameTaken k p s t) (h : (takeFrame k p s).1 = some (g, j)) :
    (t.reach k p).grids = ((takeFrame k p s).2.reach k p).grids ∧ (t.reach k p).snap = (s.reach k p).snap ∧
    (t.reach k p).prodSeq = (s.reach k p).prodSeq ∧ (t.reach k p).segs = (s.reach k p).segs ∧ (t.reach k p).integ = (s.reach k p).integ := by
  have hr := f.reach_eq h
  exact ⟨by rw [hr], by rw [hr], by rw [hr], by rw [hr], by rw [hr]⟩

theorem FrameTaken.downstream {p : Nat} {s t u : State} (f : FrameTaken 0 p s t) (hp : p < 4) (h : Downstream t u) : FrameTaken 0 p s u where
  frames := (h.pair_frames 0 ⟨p, hp⟩).trans f.frames
  reach := (reach_congr h.rch 0 p).symm ▸ f.reach
  others m q hne := (reach_congr h.rch m q).trans (f.others m q hne)

/-- The frame of the short reach is taken and counted; then a product follows where SNAP waits for it or one is due (R131). -/
theorem srFrameDone_eq {p j : Nat} {g : Grid} {s : State} (hp : p < 4) (h : (takeFrame 0 p s).1 = some (g, j)) :
    ∃ (v : State) (d : Prod), FrameTaken 0 p s v ∧ srFrameDone p s =
      (if (v.reach 0 p).snap.any (fun w => decide (w ≤ g.origin + g.wordOff (j * (g.set 0 p).hop))) || ((g.set 0 p).expEn && j % ((g.set 0 p).expDiv + 1) == 0) then
        emitProduct (g.set 0 p) g.dec d
          (if (v.reach 0 p).snap.any (fun w => decide (w ≤ g.origin + g.wordOff (j * (g.set 0 p).hop))) then
            v.setReach 0 p { v.reach 0 p with snap := (v.reach 0 p).snap.filter (fun w => decide (g.origin + g.wordOff (j * (g.set 0 p).hop) < w)) }
          else v)
      else v) := by
  have hpair : takeFrame 0 p s = (some (g, j), (takeFrame 0 p s).2) := Prod.ext h rfl
  unfold srFrameDone
  rw [hpair]
  refine ⟨_, _, ?_, rfl⟩
  exact (frameTaken_countFrame h ..).downstream hp (((Downstream.refl _).siltFrame ..).weirFrame ..)

theorem reach_emitProduct_ne {k p m q : Nat} (g : Grid) (d : Prod) (s : State) (h : 4 * k + p ≠ 4 * m + q) :
    (emitProduct (g.set k p) g.dec d s).reach m q = s.reach m q := reach_setReach_ne s _ h

theorem reach_emitProduct_same {k p : Nat} (g : Grid) (d : Prod) (s : State) :
    ((emitProduct (g.set k p) g.dec d s).reach k p).grids = (s.reach k p).grids ∧ ((emitProduct (g.set k p) g.dec d s).reach k p).snap = (s.reach k p).snap ∧
    ((emitProduct (g.set k p) g.dec d s).reach k p).prodSeq = ((s.reach k p).prodSeq + 1) % 2 ^ 32 := by
  have he : Emits (s.reach k p) ((emitProduct (g.set k p) g.dec d s).reach k p) := emits_emitProduct (g.set k p) g.dec d s
  exact ⟨(congrArg Reach.grids he :), (congrArg Reach.snap he :), prodSeq_emitProduct (g.set k p) g.dec d s⟩

/-- What a completed frame of the short reach does. -/
theorem srFrameDone_spec {p j : Nat} {g : Grid} {s : State} (hp : p < 4) (h : (takeFrame 0 p s).1 = some (g, j)) :
    (srFrameDone p s).pair (R.XRH_FRAMES 0 p) = (s.pair (R.XRH_FRAMES 0 p) + 1) % 2 ^ 64 ∧
    ((srFrameDone p s).reach 0 p).grids = ((takeFrame 0 p s).2.reach 0 p).grids ∧
    ((s.reach 0 p).snap = [g.origin + g.wordOff (j * (g.set 0 p).hop)] →
      ((srFrameDone p s).reach 0 p).snap = [] ∧ ((srFrameDone p s).reach 0 p).prodSeq = ((s.reach 0 p).prodSeq + 1) % 2 ^ 32) ∧
    ((s.reach 0 p).snap = [] → (g.set 0 p).expEn = false →
      ((srFrameDone p s).reach 0 p).prodSeq = (s.reach 0 p).prodSeq ∧ ((srFrameDone p s).reach 0 p).segs = (s.reach 0 p).segs) ∧
    ∀ m q, 4 * 0 + p ≠ 4 * m + q → (srFrameDone p s).reach m q = s.reach m q := by
  obtain ⟨v, d, hv, he⟩ := srFrameDone_eq hp h
  obtain ⟨hgrids, hsnap, hseq, hsegs, -⟩ := hv.kept h
  rw [he]
  generalize g.origin + g.wordOff (j * (g.set 0 p).hop) = w0
  refine ⟨?frames, ?grids, fun hs => ?snapped, fun hs hexp => ?idle, fun m q hne => ?others⟩
  case frames =>
    split_ifs <;> exact hv.frames
  case grids =>
    rw [← hgrids]
    split_ifs
    · exact (reach_emitProduct_same ..).1.trans (congrArg Reach.grids (reach_setReach_same ..) :)
    · exact (reach_emitProduct_same ..).1
    · rfl
  case snapped =>
    have hone : (v.reach 0 p).snap = [w0] := hsnap.trans hs
    have hany : (v.reach 0 p).snap.any (fun w => decide (w ≤ w0)) = true := by simp [hone]
    have hgone : (v.reach 0 p).snap.filter (fun w => decide (w0 < w)) = [] := by simp [hone]
    rw [hany, Bool.true_or, if_pos rfl, if_pos rfl, hgone, ← hseq]
    obtain ⟨-, h1, h2⟩ := reach_emitProduct_same g d (v.setReach 0 p { v.reach 0 p with snap := [] }) (k := 0) (p := p)
    rw [reach_setReach_same] at h1 h2
    exact ⟨h1, h2⟩
  case idle =>
    rw [hsnap, hs, hexp]
    exact ⟨hseq, hsegs⟩
  case others =>
    rw [← hv.others m q hne]
    split_ifs
    · rw [reach_emitProduct_ne _ _ _ hne, reach_setReach_ne _ _ hne]
    · rw [reach_emitProduct_ne _ _ _ hne]
    · rfl

end Sys2Proof.Machine
end

section
/-! The mid reach's frame (R131, R141 to R143, R146, R149). -/

namespace Sys2Proof.Machine

open Sys2Proof.Claims

/-- The words that a mid-reach frame may write once it is counted. -/
def midWords (p : Nat) : List Nat := [R.XRH_SAT 1 p, R.XRH_SAT 1 p + 4, R.MRH_RFI_BLK p, R.MRH_RFI_BLK p + 4, R.MRH_XP_RESID p]

/-- The events of a mid-reach frame: saturation, product, blanked block, cross-power alignment. -/
def midEvents : List Nat := [0, 3, 4, 7]

theorem poolOwner_notMem_midWords {p : Nat} (hp : p < 4) (b : Nat) : R.POOL_OWNER b ∉ midWords p := by
  simp only [midWords, R.POOL_OWNER, R.XRH_SAT, R.MRH_RFI_BLK, R.MRH_XP_RESID, List.mem_cons, List.not_mem_nil, or_false]
  omega

/-- A frame on its way through a mid reach: the reach has at most noted frames to hold. -/
structure MidStep (p : Nat) (s t : State) : Prop where
  frame : ReachFrame (hRch 1 p) (midWords p) midEvents (InOwnBanks (hRch 1 p) s) s t
  reach : Remembers (s.reach 1 p) (t.reach 1 p)

namespace MidStep

variable {p : Nat} {s t : State}

theorem refl (p : Nat) (s : State) : MidStep p s s := ⟨.refl .., .of_eq rfl⟩

theorem ite {c : Prop} [Decidable c] {u : State} (h : MidStep p s t) (k : MidStep p s u) : MidStep p s (if c then t else u) := by
  split
  · exact h
  · exact k

theorem xpSet (h : MidStep p s t) (q i w d : Nat) : MidStep p s (xpSet p q i w d t).2 := by
  unfold Machine.xpSet
  dsimp only
  split
  · exact h
  · exact ⟨((h.frame.withRch _).setWord _ (by simp [midWords])).raise (by simp [midEvents]), h.reach⟩

theorem partnerFrame (h : MidStep p s t) (q : Nat) (g : Grid) (n : Nat) : MidStep p s (partnerFrame p q g n t).2 :=
  ⟨h.frame.partnerFrame .., h.reach.trans (remembers_partnerFrame ..)⟩

theorem blanked (h : MidStep p s t) : MidStep p s (raise (hRch 1 p) 4 (t.bump64 (R.MRH_RFI_BLK p) 1)) :=
  ⟨(h.frame.bump64 1 (by simp [midWords]) (by simp [midWords])).raise (by simp [midEvents]), h.reach⟩

theorem unitPoolWrite (hp : p < 4) (h : MidStep p s t) (a : Nat) (bs : List Byte) : MidStep p s (unitPoolWrite (hRch 1 p) a bs t) := by
  have hrch : (Machine.unitPoolWrite (hRch 1 p) a bs t).rch = t.rch := by rw [unitPoolWrite_eq]
  exact ⟨h.frame.unitPoolWrite (poolOwner_notMem_midWords hp) .., (reach_congr hrch 1 p).symm ▸ h.reach⟩

/-- The sums of the integration go to the reach's Pool region (R131). -/
theorem mrStore (hp : p < 4) (h : MidStep p s t) (r : RSet) (i : Integ) : MidStep p s (mrStore p r i t) := by
  unfold Machine.mrStore
  extract_lets a b s1 s2 s3
  have h1 : MidStep p s s1 := h.unitPoolWrite hp ..
  have h2 : MidStep p s s2 := .ite h1 (h1.unitPoolWrite hp ..)
  have h3 : MidStep p s s3 := .ite h2 (h2.unitPoolWrite hp ..)
  exact .ite (h3.unitPoolWrite hp ..) h3

end MidStep

/-! The count of frames in an integration (R131). -/

theorem frames_mrMask (p : Nat) (r : RSet) (i : Integ) (s : State) : (mrMask p r i s).1.frames = i.frames := by
  unfold mrMask
  extract_lets
  split_ifs <;> rfl

theorem frames_closeBlock (r : RSet) (i : Integ) : (closeBlock r i).1.frames = i.frames := by
  unfold closeBlock
  extract_lets
  split_ifs <;> rfl

theorem frames_integAdd (r : RSet) (f : Frame) (pw : List Nat) (xp : Option (List (Dy × Dy) × Nat)) (old : Option Integ) :
    (integAdd r f pw xp old).1.frames = (old.getD (Integ.fresh pw.length)).frames + 1 := by
  have hclose : ∀ (b : Bool) (i : Integ), (if b then closeBlock r i else (i, false)).1.frames = i.frames := fun b i => by
    cases b
    · rfl
    · exact frames_closeBlock ..
  exact hclose ..

/-- Reading the sums back (R259) does not touch the count. -/
theorem frames_integAdd_mrMask (p : Nat) (s : State) (r : RSet) (f : Frame) (pw : List Nat) (xp : Option (List (Dy × Dy) × Nat)) :
    (integAdd r f pw xp ((s.reach 1 p).integ.map (fun i => (mrMask p r i s).1))).1.frames = framesOpen s 1 p + 1 := by
  rw [frames_integAdd, framesOpen]
  cases (s.reach 1 p).integ with
  | none => rfl
  | some i => exact congrArg (· + 1) (frames_mrMask ..)

/-! The end of an integration (R132, R141). -/

theorem ReachFrame.emitInteg {p : Nat} {ws evs : List Nat} {W : Nat → Prop} {s t : State} (h : ReachFrame (hRch 1 p) ws evs W s t) (ho : R.XRH_SAT 1 p ∈ ws)
    (ho4 : R.XRH_SAT 1 p + 4 ∈ ws) (h0 : 0 ∈ evs) (h3 : 3 ∈ evs) (g : Grid) (f : Frame) (sat : Bool) (i : Integ) :
    ReachFrame (hRch 1 p) ws evs W s (emitInteg p g f sat i t) := by
  have hsat : ∀ b : Bool, ReachFrame (hRch 1 p) ws evs W s (if b then Machine.countSat 1 p t else t) := fun b => .ite (h.countSat ho ho4 h0) h
  unfold Machine.emitInteg
  exact raise (.ite ((hsat _).emitProduct ..) (((hsat _).emitProduct ..).emitProduct ..)) h3

theorem emits_emitInteg (p : Nat) (g : Grid) (f : Frame) (sat : Bool) (i : Integ) (s : State) : Emits (s.reach 1 p) ((emitInteg p g f sat i s).reach 1 p) := by
  have hemit : ∀ (d : Prod) (t : State), Emits (t.reach 1 p) ((emitProduct (g.set 1 p) g.dec d t).reach 1 p) := fun d t => emits_emitProduct (g.set 1 p) g.dec d t
  have hsat : ∀ b : Bool, Emits (s.reach 1 p) ((if b then countSat 1 p s else s).reach 1 p) := fun b => by cases b <;> rfl
  have hite : ∀ (b : Bool) (t u : State), Emits (s.reach 1 p) (t.reach 1 p) → Emits (s.reach 1 p) (u.reach 1 p) → Emits (s.reach 1 p) ((if b then t else u).reach 1 p) :=
    fun b t u ht hu => by cases b <;> assumption
  unfold emitInteg
  exact hite _ _ _ ((hsat _).trans (hemit ..)) (((hsat _).trans (hemit ..)).trans (hemit ..))

theorem raised_emitInteg (p : Nat) (g : Grid) (f : Frame) (sat : Bool) (i : Integ) (s : State) : Raised (hRch 1 p) 3 (emitInteg p g f sat i s) := raise_raised ..

/-! The frame. -/

/-- The frame is taken and counted, passes the cross-power, is added and stored; then the integration ends, or the reach keeps it (R131, R141). -/
theorem mrFrameDone_eq {p j : Nat} {g : Grid} {s : State} (hp : p < 4) (h : (takeFrame 1 p s).1 = some (g, j)) :
    ∃ (sat : Bool) (u v : State) (i : Integ) (f : Frame), mrFrameDone p s =
      (if integEnds (g.set 1 p) g j i.frames then emitInteg p g f sat i (v.setReach 1 p { v.reach 1 p with integ := none })
      else v.setReach 1 p { v.reach 1 p with integ := some i }) ∧ i.frames = framesOpen u 1 p + 1 ∧
      MidStep p (countFrame 1 p sat (frameAt 1 p g (j * (g.set 1 p).hop) (takeFrame 1 p s).2).2.2) u ∧
      MidStep p (countFrame 1 p sat (frameAt 1 p g (j * (g.set 1 p).hop) (takeFrame 1 p s).2).2.2) v := by
  have hpair : takeFrame 1 p s = (some (g, j), (takeFrame 1 p s).2) := Prod.ext h rfl
  unfold mrFrameDone
  rw [hpair]
  have hstore : ∀ {c u : State} (b : Bool) (r : RSet) (i : Integ), MidStep p c u →
      MidStep p c (mrStore p r i (if b then raise (hRch 1 p) 4 (u.bump64 (R.MRH_RFI_BLK p) 1) else u)) := fun b r i hu => (MidStep.ite hu.blanked hu).mrStore hp r i
  refine ⟨_, _, _, _, _, rfl, frames_integAdd_mrMask .., ?crossed, hstore _ _ _ ?crossed⟩
  dsimp only
  split
  · split
    · exact ((MidStep.refl ..).xpSet ..).partnerFrame ..
    · exact .refl ..
  · exact .refl ..

theorem reachFrame_countFrame {k p j : Nat} {g : Grid} {s : State} (h : (takeFrame k p s).1 = some (g, j)) (n : Nat) (sat : Bool) (W : Nat → Prop) :
    ReachFrame (hRch k p) [R.XRH_FRAMES k p, R.XRH_FRAMES k p + 4, R.XRH_SAT k p, R.XRH_SAT k p + 4] [0] W s
      (countFrame k p sat (frameAt k p g n (takeFrame k p s).2).2.2) :=
  (((ReachFrame.refl ..).takeFrame h).frameAt ..).trans (countFrame_spec ..).1

theorem frames_notMem_midWords {p : Nat} : R.XRH_FRAMES 1 p ∉ midWords p ∧ R.XRH_FRAMES 1 p + 4 ∉ midWords p := by
  simp only [midWords, R.XRH_FRAMES, R.XRH_SAT, R.MRH_RFI_BLK, R.MRH_XP_RESID, List.mem_cons, List.not_mem_nil, or_false]
  omega

/-- All that a mid-reach frame may change: its words, its events, the Pool banks of the reach, the reaches' state (R271). -/
abbrev MidFrame (p : Nat) (s t : State) : Prop :=
  ReachFrame (hRch 1 p) (R.XRH_FRAMES 1 p :: (R.XRH_FRAMES 1 p + 4) :: midWords p) midEvents (InOwnBanks (hRch 1 p) s) s t

/-- What a completed frame of the mid reach does. -/
theorem mrFrameDone_spec {p j : Nat} {g : Grid} {s : State} (hp : p < 4) (h : (takeFrame 1 p s).1 = some (g, j)) :
    MidFrame p s (mrFrameDone p s) ∧ (mrFrameDone p s).pair (R.XRH_FRAMES 1 p) = (s.pair (R.XRH_FRAMES 1 p) + 1) % 2 ^ 64 ∧
    ((mrFrameDone p s).reach 1 p).grids = ((takeFrame 1 p s).2.reach 1 p).grids ∧
    (integEnds (g.set 1 p) g j (framesOpen s 1 p + 1) = false →
      ((mrFrameDone p s).reach 1 p).integ.map Integ.frames = some (framesOpen s 1 p + 1) ∧ ((mrFrameDone p s).reach 1 p).prodSeq = (s.reach 1 p).prodSeq) ∧
    (integEnds (g.set 1 p) g j (framesOpen s 1 p + 1) = true → ((mrFrameDone p s).reach 1 p).integ = none ∧ Raised (hRch 1 p) 3 (mrFrameDone p s)) := by
  obtain ⟨sat, u, v, i, f, he, hi, hu, hv⟩ := mrFrameDone_eq hp h
  have hcount := frameTaken_countFrame h (j * (g.set 1 p).hop) sat
  have hframe := reachFrame_countFrame h (j * (g.set 1 p).hop) sat (InOwnBanks (hRch 1 p) s)
  generalize countFrame 1 p sat (frameAt 1 p g (j * (g.set 1 p).hop) (takeFrame 1 p s).2).2.2 = c at *
  obtain ⟨hgrids, -, hseq, -, hinteg⟩ := hcount.kept h
  have hopen : i.frames = framesOpen s 1 p + 1 := by
    rw [hi, framesOpen, (congrArg Reach.integ hu.reach :), hinteg, framesOpen]
  have hbanks : ∀ a, InOwnBanks (hRch 1 p) c a → InOwnBanks (hRch 1 p) s a := fun a ha =>
    (ownsBanks_of_kept hframe.words (by simp only [R.POOL_OWNER, R.XRH_FRAMES, R.XRH_SAT, List.mem_cons, List.not_mem_nil, or_false]; omega) ..).symm.trans ha
  have hall : ∀ {t : State}, ReachFrame (hRch 1 p) (midWords p) midEvents (InOwnBanks (hRch 1 p) c) c t →
      MidFrame p s t ∧ t.pair (R.XRH_FRAMES 1 p) = (s.pair (R.XRH_FRAMES 1 p) + 1) % 2 ^ 64 := fun ht =>
    ⟨(hframe.mono (by simp [midWords]) (by simp [midEvents]) fun _ ha => ha).trans (ht.mono (by simp) (List.Subset.refl _) hbanks),
      (pair_of_kept ht.words frames_notMem_midWords.1 frames_notMem_midWords.2).trans hcount.frames⟩
  have hvgrids : (v.reach 1 p).grids = ((takeFrame 1 p s).2.reach 1 p).grids := (congrArg Reach.grids hv.reach :).trans hgrids
  have hvseq : (v.reach 1 p).prodSeq = (s.reach 1 p).prodSeq := (congrArg Reach.prodSeq hv.reach :).trans hseq
  rw [he, ← hopen]
  cases integEnds (g.set 1 p) g j i.frames with
  | false =>
    obtain ⟨hfr, hpair⟩ := hall (hv.frame.setReach 1 p { v.reach 1 p with integ := some i })
    rw [if_neg Bool.false_ne_true, reach_setReach_same]
    exact ⟨hfr, hpair, hvgrids, fun _ => ⟨rfl, hvseq⟩, nofun⟩
  | true =>
    have hemits := emits_emitInteg p g f sat i (v.setReach 1 p { v.reach 1 p with integ := none })
    rw [reach_setReach_same] at hemits
    obtain ⟨hfr, hpair⟩ := hall ((hv.frame.setReach 1 p { v.reach 1 p with integ := none }).emitInteg (by simp [midWords]) (by simp [midWords]) (by simp [midEvents])
      (by simp [midEvents]) g f sat i)
    rw [if_pos rfl]
    exact ⟨hfr, hpair, (congrArg Reach.grids hemits :).trans hvgrids, nofun, fun _ => ⟨(congrArg Reach.integ hemits :), raised_emitInteg ..⟩⟩

end Sys2Proof.Machine
end

section
/-! Pass A of the deep reach (R137, R139, R149). -/

namespace Sys2Proof.Machine

open Sys2Proof.Claims

/-! FAULT 1 of the deep reaches: the rings are too short (R149). -/

/-- What the bit of reach `q` stands for. -/
def ringShort (s : State) (q : Nat) : Bool := (s.rset 2 q).en && !s.slave q && !ringEnough s q (s.rset 2 q)

theorem ringEnough_congr {s t : State} (hr : t.regs = s.regs) (hi : t.ing = s.ing) (q : Nat) (r : RSet) : ringEnough t q r = ringEnough s q r := by
  have hrings : ringsOf t q = ringsOf s q := by rw [ringsOf, State.bonded, flag_congr hr, ringsOf, State.bonded]
  have hpoints : ∀ x, blockPoints t x (min (ringLen t x) (minLive t x)) = blockPoints s x (min (ringLen s x) (minLive s x)) := fun x => by
    rw [ringLen, minLive, State.wordN_congr hr, State.wordN_congr hr, blockPoints, portSt_congr hi, blockPoints, ringLen, minLive]
  rw [ringEnough, hrings, ringEnough]
  exact congrArg (List.all _) (funext fun x => by rw [hpoints])

theorem ringShort_congr {s t : State} (hr : t.regs = s.regs) (hi : t.ing = s.ing) (q : Nat) : ringShort t q = ringShort s q := by
  have hset : t.rset 2 q = s.rset 2 q := by simp only [State.rset, rset, State.wordN_congr hr]
  simp only [ringShort, hset, State.slave, State.bonded, flag_congr hr, ringEnough_congr hr hi]

theorem eq_withRep_trans {s t u : State} (h : t = { s with rep := t.rep }) (k : u = { t with rep := u.rep }) : u = { s with rep := u.rep } :=
  k.trans (congrArg (fun x : State => { x with rep := u.rep }) h)

theorem hRch_inj {k p q : Nat} (h : hRch k p = hRch k q) : p = q := by
  unfold hRch at h
  omega

/-- Both reaches of the pair get their bit anew; nothing else changes. -/
theorem ringFault_spec (p : Nat) (s : State) :
    ringFault p s = { s with rep := (ringFault p s).rep } ∧ RepFrame [] [] [hRch 2 (p - p % 2), hRch 2 (p - p % 2 + 1)] s (ringFault p s) ∧
    (ringFault p s).faultBit (hRch 2 p) 1 = ringShort s p := by
  have hfold : ringFault p s = putFault (hRch 2 (p - p % 2 + 1)) 1 (ringShort (putFault (hRch 2 (p - p % 2)) 1 (ringShort s (p - p % 2)) s) (p - p % 2 + 1))
      (putFault (hRch 2 (p - p % 2)) 1 (ringShort s (p - p % 2)) s) := rfl
  rw [ringShort_congr (putFault_regs ..) (putFault_ing ..)] at hfold
  rw [hfold]
  refine ⟨?eq, ?rep, ?bit⟩
  case eq => exact eq_withRep_trans (putFault_eq ..) (putFault_eq ..)
  case rep => exact ((putFault_frame ..).trans (putFault_frame ..)).mono (by simp) (by simp) (by simp)
  case bit =>
    rw [faultBit_putFault, faultBit_putFault]
    rcases Nat.mod_two_eq_zero_or_one p with he | ho
    · rw [if_neg fun h => by have := hRch_inj h.1; omega, if_pos ⟨congrArg (hRch 2) (by omega), rfl⟩, he, Nat.sub_zero]
    · have hp : p - p % 2 + 1 = p := by omega
      rw [hp, if_pos ⟨rfl, rfl⟩]

/-! The frame. -/

/-- Pass A writes T at its place in the region and keeps the frame for pass B; a ring that is too short leaves a gap. -/
theorem drPassADone_eq {p j : Nat} {g : Grid} {s : State} (h : (takeFrame 2 p s).1 = some (g, j)) :
    ∃ (f : DrFrame) (b : Nat) (m : List (List Cx)), drPassADone p s = ringFault p (((takeFrame 2 p s).2.memWrite b (tBytes m)).setReach 2 p
        { (takeFrame 2 p s).2.reach 2 p with passA := ((takeFrame 2 p s).2.reach 2 p).passA ++ [f], tSeq := ((takeFrame 2 p s).2.reach 2 p).tSeq + 1 }) ∧
      f.num = j ∧ f.grid = g ∧ f.base = b ∧ b = drBase s p + ((takeFrame 2 p s).2.reach 2 p).tSeq % (2 * (1 + (g.set 2 p).ovl)) * 6 * g.bins 2 p ∧ f.t = m ∧
      (ringEnough s p (g.set 2 p) = false → f.psw = pswGap) := by
  have hpair : takeFrame 2 p s = (some (g, j), (takeFrame 2 p s).2) := Prod.ext h rfl
  unfold drPassADone
  rw [hpair]
  refine ⟨_, _, _, rfl, rfl, rfl, rfl, rfl, rfl, fun hr => ?_⟩
  rw [hr]
  rfl

/-- What a write stored is read back while no rank is lost. -/
theorem memRead_memWrite (s : State) (a : Nat) (bs : List Byte) (h : s.rsv.lost = []) (hw : memWf s.mem = true) : (s.memWrite a bs).memRead a bs.length = bs := by
  rw [State.memWrite, h, if_pos List.isEmpty_nil]
  exact memTake_memPut a bs hw

/-- A write and new reach state, where only reach state was new before. -/
theorem memWrite_withRch_eq {s u : State} (h : u = { s with rch := u.rch }) (b : Nat) (bs : List Byte) (r : Rch) :
    { u.memWrite b bs with rch := r } = { s with rch := r, mem := (u.memWrite b bs).mem, poison := (u.memWrite b bs).poison, rsv := (u.memWrite b bs).rsv } :=
  (congrArg (fun v : State => { v with rch := r }) (memWrite_eq u b bs)).trans
    (congrArg (fun v : State => { v with rch := r, mem := (u.memWrite b bs).mem, poison := (u.memWrite b bs).poison, rsv := (u.memWrite b bs).rsv }) h)

/-- What a completed pass A does. -/
theorem drPassADone_spec {p j : Nat} {g : Grid} {s : State} (h : (takeFrame 2 p s).1 = some (g, j)) :
    ∃ f : DrFrame, f.num = j ∧ f.grid = g ∧ f.base = drBase s p + (s.reach 2 p).tSeq % (2 * (1 + (g.set 2 p).ovl)) * 6 * g.bins 2 p ∧
      (ringEnough s p (g.set 2 p) = false → f.psw = pswGap) ∧
      (drPassADone p s).reach 2 p = { (takeFrame 2 p s).2.reach 2 p with passA := (s.reach 2 p).passA ++ [f], tSeq := (s.reach 2 p).tSeq + 1 } ∧
      (∀ a, a < f.base ∨ f.base + (tBytes f.t).length ≤ a → memGet (drPassADone p s).mem a = memGet s.mem a) ∧
      (s.rsv.lost = [] → memWf s.mem = true → (drPassADone p s).memRead f.base (tBytes f.t).length = tBytes f.t) ∧
      (drPassADone p s).faultBit (hRch 2 p) 1 = ringShort s p ∧
      drPassADone p s = { s with rch := (drPassADone p s).rch, rep := (drPassADone p s).rep, mem := (drPassADone p s).mem, poison := (drPassADone p s).poison,
                                 rsv := (drPassADone p s).rsv } ∧
      RepFrame [] [] [hRch 2 (p - p % 2), hRch 2 (p - p % 2 + 1)] s (drPassADone p s) := by
  obtain ⟨f, _, _, he, hnum, hgrid, rfl, hbase, rfl, hgap⟩ := drPassADone_eq h
  have hreach := reach_takeFrame h
  rw [(by rw [hreach] : ((takeFrame 2 p s).2.reach 2 p).tSeq = (s.reach 2 p).tSeq)] at he hbase
  rw [(by rw [hreach] : ((takeFrame 2 p s).2.reach 2 p).passA = (s.reach 2 p).passA)] at he
  have htake : (takeFrame 2 p s).2 = { s with rch := (takeFrame 2 p s).2.rch } := by rw [takeFrame_some h]; rfl
  have hmem : (takeFrame 2 p s).2.mem = s.mem := by rw [htake]
  have hrsv : (takeFrame 2 p s).2.rsv = s.rsv := by rw [htake]
  generalize (takeFrame 2 p s).2 = u at *
  generalize hx : { u.reach 2 p with passA := (s.reach 2 p).passA ++ [f], tSeq := (s.reach 2 p).tSeq + 1 } = x at he ⊢
  have hw := memWrite_withRch_eq htake f.base (tBytes f.t) ((u.memWrite f.base (tBytes f.t)).setReach 2 p x).rch
  obtain ⟨heq, hrep, hbit⟩ := ringFault_spec p ((u.memWrite f.base (tBytes f.t)).setReach 2 p x)
  rw [← he] at heq hrep hbit
  have hkept : (drPassADone p s).mem = (u.memWrite f.base (tBytes f.t)).mem ∧ (drPassADone p s).rch = ((u.memWrite f.base (tBytes f.t)).setReach 2 p x).rch := by
    rw [heq]
    exact ⟨rfl, rfl⟩
  refine ⟨f, hnum, hgrid, hbase, hgap, ?reach, fun a ha => ?outside, fun hl hwf => ?stored, ?bit, ?eq, ?rep⟩
  case reach => exact ((reach_congr hkept.2 2 p).trans (reach_setReach_same ..)).trans hx.symm
  case outside => rw [hkept.1, memGet_memWrite_outside u ha, hmem]
  case stored =>
    rw [State.memRead, hkept.1]
    exact memRead_memWrite u f.base (tBytes f.t) (hrsv ▸ hl) (hmem ▸ hwf)
  case bit => exact hbit.trans (ringShort_congr (congrArg State.regs hw :) (congrArg State.ing hw :) p)
  case eq =>
    have hs := heq.trans (congrArg (fun v : State => { v with rep := (drPassADone p s).rep }) hw)
    generalize drPassADone p s = t at hs ⊢
    rw [hs]
  case rep => exact hrep.congr_left (congrArg State.rep hw :)

end Sys2Proof.Machine
end

section
/-! Pass B and level 2 of the deep reach (R137, R139, R141, R142). -/

namespace Sys2Proof.Machine

open Sys2Proof.Claims

/-- The words that pass B and level 2 may write once the frame is counted. -/
def deepWords (p : Nat) : List Nat := [R.XRH_SAT 2 p, R.XRH_SAT 2 p + 4, R.DRH_FLUSH_LATE p, R.DRH_FLUSH_LATE p + 4]

/-- The events of pass B and level 2: saturation, product, a late update. -/
def deepEvents : List Nat := [0, 3, 5]

/-- The addresses from either place of an integration's sums on. -/
def FromSums (at1 at2 a : Nat) : Prop := at1 ≤ a ∨ at2 ≤ a

/-! Reading the sums back (R259) touches neither their places nor the count of frames. -/

theorem drMask1_kept (i : Integ) (s : State) : (drMask1 i s).frames = i.frames ∧ (drMask1 i s).at1 = i.at1 ∧ (drMask1 i s).at2 = i.at2 := by
  unfold drMask1
  split_ifs <;> exact ⟨rfl, rfl, rfl⟩

theorem drMask2_kept (i : Integ) (s : State) : (drMask2 i s).frames = i.frames ∧ (drMask2 i s).at1 = i.at1 ∧ (drMask2 i s).at2 = i.at2 := by
  unfold drMask2
  split_ifs <;> exact ⟨rfl, rfl, rfl⟩

/-! The sums of a frame. -/

/-- Where the sums of frame `n` go: to level 1, and with the last frame of a group to level 2 (R142). -/
def storeSums (p : Nat) (r : RSet) (n : Nat) (i : Integ) (s : State) : Integ × State :=
  if 256 < r.f ∧ n % 256 = 0 then level2Group p i s else (i, s.memWrite i.at1 (bytes32 i.lvl1))

/-- Sums stored, the frames of the reach and of the integration as they were. -/
structure SumsStored (p : Nat) (i : Integ) (s : State) (r : Integ × State) : Prop where
  frame : ReachFrame (hRch 2 p) (deepWords p) deepEvents (FromSums i.at1 i.at2) s r.2
  frames : r.1.frames = i.frames
  passA : (r.2.reach 2 p).passA = (s.reach 2 p).passA

theorem memWrite_rch (s : State) (a : Nat) (bs : List Byte) : (s.memWrite a bs).rch = s.rch := by rw [memWrite_eq]

theorem level2Add_frame {h : Nat} {ws evs : List Nat} {s t : State} (i : Integ) (f : ReachFrame h ws evs (FromSums i.at1 i.at2) s t) :
    ReachFrame h ws evs (FromSums i.at1 i.at2) s (level2Add i t).2 :=
  f.memWrite _ fun _ hx => .inr ((drMask2_kept i t).2.2 ▸ hx)

theorem level2Group_stored (p : Nat) (i : Integ) (s : State) : SumsStored p i s (level2Group p i s) := by
  unfold level2Group
  extract_lets x
  split
  · refine ⟨?_, rfl, ?_⟩
    · exact ((((ReachFrame.refl ..).memWrite _ fun _ hx => .inl hx).setReach ..).bump64 1 (by simp [deepWords]) (by simp [deepWords])).raise (by simp [deepEvents])
    · exact (congrArg Reach.passA (reach_setReach_same (s.memWrite i.at1 (bytes32 i.lvl1)) 2 p { x with owed := true }) :)
  · refine ⟨level2Add_frame i ((ReachFrame.refl ..).setReach ..), (drMask2_kept ..).1, ?_⟩
    have hr : ((level2Add i (s.setReach 2 p { x with late := true })).2.reach 2 p) = { x with late := true } :=
      (reach_congr (memWrite_rch ..) 2 p).trans (reach_setReach_same ..)
    rw [hr]

theorem storeSums_stored (p : Nat) (r : RSet) (n : Nat) (i : Integ) (s : State) : SumsStored p i s (storeSums p r n i s) := by
  unfold storeSums
  split
  · exact level2Group_stored ..
  · exact ⟨(ReachFrame.refl ..).memWrite _ fun _ hx => .inl hx, rfl, by rw [reach_congr (memWrite_rch ..)]⟩

/-! The end of an integration. -/

theorem ReachFrame.emitDr {p : Nat} {ws evs : List Nat} {W : Nat → Prop} {s t : State} (h : ReachFrame (hRch 2 p) ws evs W s t) (ho : R.XRH_SAT 2 p ∈ ws)
    (ho4 : R.XRH_SAT 2 p + 4 ∈ ws) (h0 : 0 ∈ evs) (h3 : 3 ∈ evs) (g : Grid) (sat : Bool) (i : Integ) : ReachFrame (hRch 2 p) ws evs W s (emitDr p g sat i t) := by
  have hsat : ∀ b : Bool, ReachFrame (hRch 2 p) ws evs W s (if b then Machine.countSat 2 p t else t) := fun b => .ite (h.countSat ho ho4 h0) h
  exact raise ((hsat _).emitProduct ..) h3

theorem emits_emitDr (p : Nat) (g : Grid) (sat : Bool) (i : Integ) (s : State) : Emits (s.reach 2 p) ((emitDr p g sat i s).reach 2 p) := by
  have hemit : ∀ (d : Prod) (t : State), Emits (t.reach 2 p) ((emitProduct (g.set 2 p) g.dec d t).reach 2 p) := fun d t => emits_emitProduct (g.set 2 p) g.dec d t
  have hsat : ∀ b : Bool, Emits (s.reach 2 p) ((if b then countSat 2 p s else s).reach 2 p) := fun b => by cases b <;> rfl
  exact (hsat _).trans (hemit ..)

theorem raised_emitDr (p : Nat) (g : Grid) (sat : Bool) (i : Integ) (s : State) : Raised (hRch 2 p) 3 (emitDr p g sat i s) := raise_raised ..

/-! The frame. -/

/-- The bins of a product are as many as pass B gives, or fewer. -/
theorem bins_le_passB (p : Nat) (g : Grid) (fb : Nat) (gain : Dy) (t : List (List Cx)) (es : List Int) :
    g.bins 2 p ≤ (passB fb (if fmtCplx g.fmt && !g.bond then (g.set 2 p).nlog else (g.set 2 p).nlog - 1) (fmtCplx g.fmt && !g.bond) gain t es).1.length := by
  rw [Grid.bins, binsOf, RSet.n]
  unfold passB
  rw [List.length_map, List.length_range]
  split
  · exact Nat.le_refl _
  · cases (g.set 2 p).nlog with
    | zero => decide
    | succ n => rw [Nat.pow_succ, Nat.mul_div_cancel _ (by decide), Nat.add_sub_cancel]

/-- The integration that a frame joins: the open one as it is read back, or a new one with its sums at `a`. -/
def joined (o : Option Integ) (s : State) (a : Nat × Nat) : Integ :=
  match o with
  | some i => drMask1 i s
  | none => { Integ.fresh 0 with at1 := a.1, at2 := a.2 }

theorem drPassBDone_eq {p : Nat} {fr : DrFrame} {rest : List DrFrame} {s : State} (h : (s.reach 2 p).passA = fr :: rest) :
    ∃ (sat : Bool) (lp : Option (List Nat × Nat)) (n : Nat) (i : Integ) (s1 : State), s1 = countFrame 2 p sat (s.setReach 2 p { s.reach 2 p with passA := rest, lastPw := lp }) ∧
      drPassBDone p s =
        (if integEnds (fr.grid.set 2 p) fr.grid fr.num n then
          emitDr p fr.grid sat (storeSums p (fr.grid.set 2 p) n i s1).1 ((storeSums p (fr.grid.set 2 p) n i s1).2.setReach 2 p
            { (storeSums p (fr.grid.set 2 p) n i s1).2.reach 2 p with integ := none, owed := false, sums := 1 - (s.reach 2 p).sums })
        else (storeSums p (fr.grid.set 2 p) n i s1).2.setReach 2 p
          { (storeSums p (fr.grid.set 2 p) n i s1).2.reach 2 p with integ := some (storeSums p (fr.grid.set 2 p) n i s1).1 }) ∧
      i.frames = n ∧ ∃ (i0 : Integ) (k : Nat), i0 = joined (s.reach 2 p).integ s1 (drSums s p (fr.grid.set 2 p) k (s.reach 2 p).sums) ∧
      n = i0.frames + 1 ∧ i.at1 = i0.at1 ∧ i.at2 = i0.at2 ∧ ((s.reach 2 p).lastPw = none → fr.grid.bins 2 p ≤ k) := by
  have hx : s.reach 2 p = { s.reach 2 p with passA := fr :: rest } := by rw [← h]
  unfold drPassBDone
  rw [hx]
  refine ⟨_, _, _, _, _, rfl, rfl, rfl, _, (_ : List Dy).length, rfl, rfl, rfl, rfl, fun hl => ?_⟩
  rw [List.length_map]
  by_cases hst : fr.stale = true
  · rw [if_pos hst]
    dsimp only at hl
    simp only [hl, ite_self, List.length_replicate]
    exact Nat.le_refl _
  · rw [if_neg hst]
    exact bins_le_passB ..

/-! What pass B leaves. -/

theorem joined_frames (s t : State) (p : Nat) (a : Nat × Nat) : (joined (s.reach 2 p).integ t a).frames = framesOpen s 2 p := by
  unfold joined framesOpen
  cases (s.reach 2 p).integ with
  | none => rfl
  | some i => exact (drMask1_kept i t).1

theorem joined_some {o : Option Integ} {i : Integ} (h : o = some i) (t : State) (a : Nat × Nat) : (joined o t a).at1 = i.at1 ∧ (joined o t a).at2 = i.at2 := by
  subst h
  exact (drMask1_kept i t).2

/-- A new integration has its sums behind the places of T (R137). -/
theorem joined_none {o : Option Integ} (h : o = none) (s t : State) (p : Nat) (r : RSet) {b k : Nat} (hk : b ≤ k) (n : Nat) :
    drBase s p + 12 * (1 + r.ovl) * b ≤ (joined o t (drSums s p r k n)).at1 ∧ drBase s p + 12 * (1 + r.ovl) * b ≤ (joined o t (drSums s p r k n)).at2 := by
  subst h
  have hb : drBase s p + 12 * (1 + r.ovl) * b ≤ drBase s p + 12 * (1 + r.ovl) * k := Nat.add_le_add_left (Nat.mul_le_mul_left _ hk) _
  exact ⟨Nat.le_add_right_of_le hb, Nat.le_add_right_of_le (Nat.le_add_right_of_le hb)⟩

theorem frames_notMem_deepWords {p : Nat} : R.XRH_FRAMES 2 p ∉ deepWords p ∧ R.XRH_FRAMES 2 p + 4 ∉ deepWords p := by
  simp only [deepWords, R.XRH_FRAMES, R.XRH_SAT, R.DRH_FLUSH_LATE, List.mem_cons, List.not_mem_nil, or_false]
  omega

/-- All that pass B may change, with the sums at `at1` and `at2`. -/
abbrev DeepFrame (p at1 at2 : Nat) (s t : State) : Prop :=
  ReachFrame (hRch 2 p) (R.XRH_FRAMES 2 p :: (R.XRH_FRAMES 2 p + 4) :: deepWords p) deepEvents (FromSums at1 at2) s t

/-- What a completed pass B does. -/
theorem drPassBDone_spec {p : Nat} {fr : DrFrame} {rest : List DrFrame} {s : State} (h : (s.reach 2 p).passA = fr :: rest) :
    (∃ at1 at2, DeepFrame p at1 at2 s (drPassBDone p s) ∧ (∀ i, (s.reach 2 p).integ = some i → at1 = i.at1 ∧ at2 = i.at2) ∧
      ((s.reach 2 p).integ = none → (s.reach 2 p).lastPw = none →
        drBase s p + 12 * (1 + (fr.grid.set 2 p).ovl) * fr.grid.bins 2 p ≤ at1 ∧ drBase s p + 12 * (1 + (fr.grid.set 2 p).ovl) * fr.grid.bins 2 p ≤ at2)) ∧
    ((drPassBDone p s).reach 2 p).passA = rest ∧ (drPassBDone p s).pair (R.XRH_FRAMES 2 p) = (s.pair (R.XRH_FRAMES 2 p) + 1) % 2 ^ 64 ∧
    (integEnds (fr.grid.set 2 p) fr.grid fr.num (framesOpen s 2 p + 1) = false →
      ((drPassBDone p s).reach 2 p).integ.map Integ.frames = some (framesOpen s 2 p + 1)) ∧
    (integEnds (fr.grid.set 2 p) fr.grid fr.num (framesOpen s 2 p + 1) = true → ((drPassBDone p s).reach 2 p).integ = none ∧ Raised (hRch 2 p) 3 (drPassBDone p s)) := by
  obtain ⟨sat, lp, n, i, s1, hs1, he, hi, i0, k, hi0, hn, h1, h2, hk⟩ := drPassBDone_eq h
  obtain ⟨hframe, hpair, hrch⟩ := countFrame_spec 2 p sat (FromSums i.at1 i.at2) (s.setReach 2 p { s.reach 2 p with passA := rest, lastPw := lp })
  rw [← hs1] at hframe hpair hrch
  have hpass1 : (s1.reach 2 p).passA = rest := by rw [reach_congr hrch, reach_setReach_same]
  have hopen : n = framesOpen s 2 p + 1 := by rw [hn, hi0, joined_frames]
  obtain ⟨hstep, hfr, hpass⟩ := storeSums_stored p (fr.grid.set 2 p) n i s1
  generalize storeSums p (fr.grid.set 2 p) n i s1 = v at *
  have hall : ∀ {t : State}, ReachFrame (hRch 2 p) (deepWords p) deepEvents (FromSums i.at1 i.at2) s1 t →
      DeepFrame p i.at1 i.at2 s t ∧ t.pair (R.XRH_FRAMES 2 p) = (s.pair (R.XRH_FRAMES 2 p) + 1) % 2 ^ 64 := fun ht =>
    ⟨(((ReachFrame.refl ..).setReach ..).trans (hframe.mono (by simp [deepWords]) (by simp [deepEvents]) fun _ ha => ha)).trans
        (ht.mono (by simp) (List.Subset.refl _) fun _ ha => ha),
      (pair_of_kept ht.words frames_notMem_deepWords.1 frames_notMem_deepWords.2).trans hpair⟩
  have hplaces : (∀ x, (s.reach 2 p).integ = some x → i.at1 = x.at1 ∧ i.at2 = x.at2) ∧ ((s.reach 2 p).integ = none → (s.reach 2 p).lastPw = none →
      drBase s p + 12 * (1 + (fr.grid.set 2 p).ovl) * fr.grid.bins 2 p ≤ i.at1 ∧ drBase s p + 12 * (1 + (fr.grid.set 2 p).ovl) * fr.grid.bins 2 p ≤ i.at2) := by
    rw [h1, h2, hi0]
    exact ⟨fun x hx => joined_some hx .., fun hx hl => joined_none hx _ _ _ _ (hk hl) _⟩
  rw [he, ← hopen]
  cases integEnds (fr.grid.set 2 p) fr.grid fr.num n with
  | false =>
    obtain ⟨hdeep, hcount⟩ := hall (hstep.setReach 2 p { v.2.reach 2 p with integ := some v.1 })
    rw [if_neg Bool.false_ne_true, reach_setReach_same]
    exact ⟨⟨_, _, hdeep, hplaces⟩, hpass.trans hpass1, hcount, fun _ => congrArg some (hfr.trans hi), nofun⟩
  | true =>
    have hemits := emits_emitDr p fr.grid sat v.1 (v.2.setReach 2 p { v.2.reach 2 p with integ := none, owed := false, sums := 1 - (s.reach 2 p).sums })
    rw [reach_setReach_same] at hemits
    obtain ⟨hdeep, hcount⟩ := hall ((hstep.setReach 2 p { v.2.reach 2 p with integ := none, owed := false, sums := 1 - (s.reach 2 p).sums }).emitDr
      (by simp [deepWords]) (by simp [deepWords]) (by simp [deepEvents]) (by simp [deepEvents]) fr.grid sat v.1)
    rw [if_pos rfl]
    exact ⟨⟨_, _, hdeep, hplaces⟩, (congrArg Reach.passA hemits :).trans (hpass.trans hpass1), hcount, nofun,
      fun _ => ⟨(congrArg Reach.integ hemits :), raised_emitDr ..⟩⟩

end Sys2Proof.Machine
end

section
/-! The level-2 update of the deep reach that completes late (R142). -/

namespace Sys2Proof.Machine

open Sys2Proof.Claims

theorem drMask1_of_clean {i : Integ} {s : State} (h : s.poisoned i.at1 (4 * i.lvl1.length) = false) : drMask1 i s = i := by
  rw [drMask1, h, if_pos (by rfl)]

theorem drMask2_of_clean {i : Integ} {s : State} (h : s.poisoned i.at2 (8 * i.sum.length) = false) : drMask2 i s = i := by
  rw [drMask2, h, if_pos (by rfl)]

/-- An update that another one waits for: the sums of the group go to level 2. -/
theorem level2Done_owed {p : Nat} {i : Integ} {s : State} (hl : (s.reach 2 p).late = true) (hi : (s.reach 2 p).integ = some i) (ho : (s.reach 2 p).owed = true) :
    level2Done p s = (level2Add (drMask1 i s) s).2.setReach 2 p { s.reach 2 p with owed := false, integ := some (level2Add (drMask1 i s) s).1 } := by
  simp only [level2Done, hl, hi, ho, Bool.not_true, Bool.false_eq_true, if_false, if_true]

/-- An update that nothing waits for. -/
theorem level2Done_idle {p : Nat} {s : State} (hl : (s.reach 2 p).late = true) (ho : (s.reach 2 p).owed = false) :
    level2Done p s = s.setReach 2 p { s.reach 2 p with late := false } := by
  have hx : s.reach 2 p = { s.reach 2 p with owed := false } := by rw [← ho]
  cases hi : (s.reach 2 p).integ with
  | none =>
    conv_rhs => rw [hx]
    simp only [level2Done, hl, hi, Bool.not_true, Bool.false_eq_true, if_false]
  | some i => simp only [level2Done, hl, hi, ho, Bool.not_true, Bool.false_eq_true, if_false]

/-- What the update leaves. -/
theorem level2Done_owed_spec {p : Nat} {i : Integ} {s : State} (hl : (s.reach 2 p).late = true) (hi : (s.reach 2 p).integ = some i) (ho : (s.reach 2 p).owed = true) :
    level2Done p s = { s with rch := (level2Done p s).rch, mem := (level2Done p s).mem, poison := (level2Done p s).poison, rsv := (level2Done p s).rsv } ∧
    ((level2Done p s).reach 2 p).owed = false ∧ ((level2Done p s).reach 2 p).late = true ∧ ((level2Done p s).reach 2 p).integ.map Integ.lvl1 = some [] ∧
    (s.poisoned i.at1 (4 * i.lvl1.length) = false → s.poisoned i.at2 (8 * i.sum.length) = false →
      (level2Done p s).rch = (s.setReach 2 p { s.reach 2 p with owed := false, integ := some { i with sum := addAll i.sum i.lvl1, lvl1 := [] } }).rch) ∧
    ∀ a, a < i.at2 → memGet (level2Done p s).mem a = memGet s.mem a := by
  rw [level2Done_owed hl hi ho]
  refine ⟨?eq, ?owed, ?late, ?sums, fun h1 h2 => ?clean, fun a ha => ?outside⟩
  case eq => exact memWrite_withRch_eq (u := s) rfl ..
  case owed => rw [reach_setReach_same]
  case late => rw [reach_setReach_same, hl]
  case sums => rw [reach_setReach_same]; rfl
  case clean =>
    rw [drMask1_of_clean h1, level2Add, drMask2_of_clean h2, State.setReach, memWrite_rch, State.setReach]
  case outside =>
    have hat : (drMask2 (drMask1 i s) s).at2 = i.at2 := (drMask2_kept ..).2.2.trans (drMask1_kept i s).2.2
    exact memGet_memWrite_outside s (.inl (hat ▸ ha))

end Sys2Proof.Machine
end

section
/-! Completed frames of the reaches. -/

namespace Sys2Proof.Machine

open Sys2Proof.Claims

/-- All of a reach's words are in its page. -/
theorem wordsWithin_of_kept {s t : State} {ws : List Nat} {lo hi : Nat} (h : WordsKept s t ws) (hw : ∀ o ∈ ws, lo ≤ o ∧ o < hi) : WordsWithin s t lo hi :=
  fun o ho => h o fun hm => by have := hw o hm; omega

theorem MidFrame.wordsWithin {p : Nat} {s t : State} (h : MidFrame p s t) : WordsWithin s t (hRch 1 p) (hRch 1 p + 0x1000) :=
  wordsWithin_of_kept h.words fun o ho => by
    simp only [midWords, R.XRH_FRAMES, R.XRH_SAT, R.MRH_RFI_BLK, R.MRH_XP_RESID, List.mem_cons, List.not_mem_nil, or_false] at ho
    unfold hRch
    omega

theorem DeepFrame.wordsWithin {p at1 at2 : Nat} {s t : State} (h : DeepFrame p at1 at2 s t) : WordsWithin s t (hRch 2 p) (hRch 2 p + 0x1000) :=
  wordsWithin_of_kept h.words fun o ho => by
    simp only [deepWords, R.XRH_FRAMES, R.XRH_SAT, R.DRH_FLUSH_LATE, List.mem_cons, List.not_mem_nil, or_false] at ho
    unfold hRch
    omega

end Sys2Proof.Machine

open Sys2Proof Sys2Proof.Machine Sys2Proof.Claims

/-- Settles O16: each completion by what its operation leaves (`srFrameDone_spec`, `mrFrameDone_spec`, `drPassADone_spec`, `drPassBDone_spec`, `level2Done_owed_spec`). -/
theorem reachFrames : Obligations.ReachFrames := by
  unfold Obligations.ReachFrames
  intro s p k g j n i fr rest base a hn hbase
  have hdone (f : State → State) (P : State → Prop) (i : Instr) (he : exec i s = .next (analysis f s)) (h : P (f s)) : Analyses i s P := by
    rcases analysis_spec f s with ⟨hheld, hs⟩ | ⟨hheld, hs⟩
    · exact ⟨_, he, by rw [hheld]; exact hs⟩
    · exact ⟨_, he, by rw [hheld, hs]; exact h⟩
  refine ⟨fun hk ht => hdone (srFrameDone p) _ _ rfl ?short, fun hk ht => hdone (mrFrameDone p) _ _ rfl ?mid, fun hk ht => hdone (drPassADone p) _ _ rfl ?passA,
    fun hk hp => hdone (drPassBDone p) _ _ rfl ?passB, fun hk hl hi ho => hdone (level2Done p) _ _ rfl ?late, fun hk hl ho => hdone (level2Done p) _ _ rfl ?idle⟩
  case short =>
    obtain ⟨hframes, hgrids, hsnap, hnone, hothers⟩ := srFrameDone_spec p.isLt ht
    exact ⟨hframes, hgrids, hsnap, hnone, fun q => ⟨hothers 1 q (by omega), hothers 2 q (by omega), fun hq => hothers 0 q (by omega)⟩⟩
  case mid =>
    obtain rfl : n = framesOpen s 1 p := by rw [hn, hk]; rfl
    obtain ⟨hframe, hframes, hgrids, hgoes, hends⟩ := mrFrameDone_spec p.isLt ht
    exact ⟨hframes, hgrids, hgoes, hends, hframe.eq, hframe.mem a, hframe.wordsWithin, hframe.reports⟩
  case passA =>
    obtain ⟨f, hnum, hgrid, hfbase, hgap, hreach, houtside, hstored, hbit, heq, hrep⟩ := drPassADone_spec ht
    obtain rfl : f.base = base := hfbase.trans hbase.symm
    exact ⟨(congrArg Reach.grids hreach :), (congrArg Reach.tSeq hreach :), ⟨f, (congrArg Reach.passA hreach :), hnum, hgrid, rfl, hgap, houtside a, hstored⟩, hbit, heq, hrep⟩
  case passB =>
    obtain rfl : n = framesOpen s 2 p := by rw [hn, hk]; rfl
    obtain ⟨⟨at1, at2, hframe, hopen, hnew⟩, hpass, hframes, hgoes, hends⟩ := drPassBDone_spec hp
    refine ⟨hpass, hframes, hgoes, hends, fun hi h1 h2 => ?_, fun hi hlow hl => ?_, hframe.eq, hframe.wordsWithin, hframe.reports⟩
    · by_contra hne
      have hplaces := hopen i hi
      have hfrom : at1 ≤ a ∨ at2 ≤ a := hframe.mem a hne
      omega
    · by_contra hne
      have hplaces := hnew hi hl
      have hfrom : at1 ≤ a ∨ at2 ≤ a := hframe.mem a hne
      omega
  case late =>
    obtain ⟨heq, howed, hlate, hsums, hclean, houtside⟩ := level2Done_owed_spec hl hi ho
    exact ⟨heq, howed, hlate, hsums, hclean, houtside a⟩
  case idle => exact level2Done_idle hl ho
end

section
/-! Tables in key order: what a `set` does to the entries, to their order and to the sum of the values; and the increments of a plane (R163 to R165). -/

namespace Sys2Proof.Machine

variable {β : Type}

theorem Tbl.mem_set {t : Tbl β} {k : Nat} {v : β} {e : Nat × β} (h : e ∈ Tbl.set t k v) : e = (k, v) ∨ e ∈ t := by
  induction t with
  | nil => exact .inl (List.mem_singleton.mp h)
  | cons c t ih =>
    obtain ⟨a, w⟩ := c
    rw [Tbl.set] at h
    split_ifs at h with hak hka
    · rcases List.mem_cons.mp h with he | he
      · exact .inl (hak ▸ he)
      · exact .inr (List.mem_cons_of_mem _ he)
    · exact List.mem_cons.mp h
    · rcases List.mem_cons.mp h with he | he
      · exact .inr (List.mem_cons.mpr (.inl he))
      · exact (ih he).imp_right (List.mem_cons_of_mem _)

/-- A table in key order stays in key order. -/
theorem Tbl.pairwise_set {t : Tbl β} (k : Nat) (v : β) (h : t.Pairwise fun x y => x.1 < y.1) : (Tbl.set t k v).Pairwise fun x y => x.1 < y.1 := by
  induction t with
  | nil => exact List.pairwise_singleton ..
  | cons c t ih =>
    obtain ⟨a, w⟩ := c
    obtain ⟨hlt, ht⟩ := List.pairwise_cons.mp h
    rw [Tbl.set]
    split_ifs with hak hka
    · exact List.pairwise_cons.mpr ⟨hlt, ht⟩
    · exact List.pairwise_cons.mpr ⟨List.forall_mem_cons.mpr ⟨hka, fun e he => hka.trans (hlt e he)⟩, h⟩
    · refine List.pairwise_cons.mpr ⟨fun e he => ?_, ih ht⟩
      rcases Tbl.mem_set he with rfl | he
      · exact Nat.lt_of_le_of_ne (Nat.le_of_not_lt hka) hak
      · exact hlt e he

theorem Tbl.get_of_below {d : β} {t : Tbl β} {k : Nat} (h : ∀ e ∈ t, k < e.1) : Tbl.get d t k = d := by
  induction t with
  | nil => rfl
  | cons c t ih =>
    obtain ⟨hc, ht⟩ := List.forall_mem_cons.mp h
    exact (if_neg (Nat.ne_of_gt hc)).trans (ih ht)

theorem Tbl.get_of_mem_all {t : Tbl Nat} {p : Nat → Bool} (k : Nat) (h0 : p 0 = true) (h : t.all (fun e => p e.2) = true) : p (Tbl.get 0 t k) = true := by
  induction t with
  | nil => exact h0
  | cons c t ih =>
    rw [List.all_cons, Bool.and_eq_true] at h
    rw [Tbl.get]
    split_ifs
    · exact h.1
    · exact ih h.2

/-- In a table in key order a `set` changes the sum of the values by the change at its key. -/
theorem Tbl.sum_set {t : Tbl Nat} (k v : Nat) (h : t.Pairwise fun x y => x.1 < y.1) :
    ((Tbl.set t k v).map Prod.snd).sum + Tbl.get 0 t k = (t.map Prod.snd).sum + v := by
  induction t with
  | nil => exact Nat.add_comm ..
  | cons c t ih =>
    obtain ⟨a, w⟩ := c
    obtain ⟨hlt, ht⟩ := List.pairwise_cons.mp h
    rw [Tbl.set, Tbl.get]
    split_ifs with hak hka
    · simp only [List.map_cons, List.sum_cons]
      omega
    · rw [Tbl.get_of_below fun e he => hka.trans (hlt e he)]
      simp only [List.map_cons, List.sum_cons]
      omega
    · have := ih ht
      simp only [List.map_cons, List.sum_cons]
      omega

/-! One increment. -/

/-- The row of a code, clamped to the rows of the plane. -/
def clampedRow (top : Int) (rowStep rows : Nat) (q : Int) : Nat :=
  if decide (planeRow top rowStep q < 0) then 0 else if decide ((rows : Int) - 1 < planeRow top rowStep q) then rows - 1 else (planeRow top rowStep q).toNat

variable {top q : Int} {rowStep rows cols c k : Nat} {b : PBuf}

theorem planeRow_neg (hs : 0 < rowStep) : planeRow top rowStep q < 0 ↔ top < q := by
  rw [planeRow, Int.ediv_lt_iff_lt_mul (by omega), Int.zero_mul]
  omega

theorem le_planeRow (hs : 0 < rowStep) : (rows : Int) ≤ planeRow top rowStep q ↔ q ≤ top - rowStep * rows := by
  rw [planeRow, Int.le_ediv_iff_mul_le (by omega), Int.mul_comm]
  omega

theorem planeRow_eq (hs : 0 < rowStep) (hlo : top - (rowStep : Int) * (k + 1) < q) (hhi : q ≤ top - (rowStep : Int) * k) : planeRow top rowStep q = k := by
  have hk : (k : Int) ≤ planeRow top rowStep q := (le_planeRow hs).mpr hhi
  have hk1 : ¬ ((k + 1 : Nat) : Int) ≤ planeRow top rowStep q := fun h => by
    have := (le_planeRow hs).mp h
    push_cast at this
    omega
  push_cast at hk1
  omega

theorem clampedRow_eq (hs : 0 < rowStep) (hk : k < rows) (hlo : top - (rowStep : Int) * (k + 1) < q) (hhi : q ≤ top - (rowStep : Int) * k) :
    clampedRow top rowStep rows q = k := by
  rw [clampedRow, planeRow_eq hs hlo hhi, if_neg (by rw [decide_eq_true_eq]; omega), if_neg (by rw [decide_eq_true_eq]; omega), Int.toNat_natCast]

/-- The counter that an increment is for. -/
def incKey (top : Int) (rowStep rows cols c : Nat) (q : Int) : Nat := clampedRow top rowStep rows q * cols + c

theorem increment_eq (top : Int) (rowStep rows cols : Nat) (b : PBuf) (c : Nat) (q : Int) : increment top rowStep rows cols b c q =
    let key := incKey top rowStep rows cols c q
    let b1 := { b with ovr := if decide (planeRow top rowStep q < 0) then satAdd 16 b.ovr 1 else b.ovr
                       under := if decide ((rows : Int) - 1 < planeRow top rowStep q) then satAdd 16 b.under 1 else b.under }
    if Tbl.get 0 b.cnt key = 65535 then { b1 with satinc := satAdd 32 b.satinc 1 } else { b1 with cnt := Tbl.set b.cnt key (Tbl.get 0 b.cnt key + 1) } := rfl

/-- A full counter stays and the increment counts as saturated; any other counter rises by 1. -/
theorem increment_cases (top : Int) (rowStep rows cols : Nat) (b : PBuf) (c : Nat) (q : Int) :
    (Tbl.get 0 b.cnt (incKey top rowStep rows cols c q) = 65535 ∧ (increment top rowStep rows cols b c q).cnt = b.cnt ∧
      (increment top rowStep rows cols b c q).satinc = satAdd 32 b.satinc 1) ∨
    (Tbl.get 0 b.cnt (incKey top rowStep rows cols c q) ≠ 65535 ∧
      (increment top rowStep rows cols b c q).cnt = Tbl.set b.cnt (incKey top rowStep rows cols c q) (Tbl.get 0 b.cnt (incKey top rowStep rows cols c q) + 1) ∧
      (increment top rowStep rows cols b c q).satinc = b.satinc) := by
  by_cases hcell : Tbl.get 0 b.cnt (incKey top rowStep rows cols c q) = 65535
  · exact .inl ⟨hcell, by rw [increment_eq, if_pos hcell], by rw [increment_eq, if_pos hcell]⟩
  · exact .inr ⟨hcell, by rw [increment_eq, if_neg hcell], by rw [increment_eq, if_neg hcell]⟩

theorem increment_ovr (hs : 0 < rowStep) : (increment top rowStep rows cols b c q).ovr = if top < q then min (b.ovr + 1) 65535 else b.ovr := by
  simp only [increment_eq, apply_ite PBuf.ovr, ite_self, decide_eq_true_eq, planeRow_neg hs]
  rfl

theorem increment_under (hs : 0 < rowStep) :
    (increment top rowStep rows cols b c q).under = if q ≤ top - (rowStep : Int) * rows then min (b.under + 1) 65535 else b.under := by
  simp only [increment_eq, apply_ite PBuf.under, ite_self, decide_eq_true_eq, Int.sub_one_lt_iff, le_planeRow hs]
  rfl

end Sys2Proof.Machine

open Sys2Proof Sys2Proof.Machine Sys2Proof.Claims

/-- Settles O22: the counter that the increment is for is full or not (`increment_cases`). -/
theorem planeIncrement : Obligations.PlaneIncrement := by
  unfold Obligations.PlaneIncrement
  intro top q rowStep rows cols c k b hsorted hstep hrows
  have hkey : k < rows → top - (rowStep : Int) * (k + 1) < q → q ≤ top - (rowStep : Int) * k → incKey top rowStep rows cols c q = k * cols + c :=
    fun hk hlo hhi => by rw [incKey, clampedRow_eq hstep hk hlo hhi]
  obtain ⟨hfull, hcnt, hinc⟩ | ⟨hroom, hcnt, hinc⟩ := increment_cases top rowStep rows cols b c q
  · rw [hcnt, hinc]
    refine ⟨hsorted, fun hsat => ?sum, increment_ovr hstep, increment_under hstep, fun hk hcell hlo hhi => ?counted, fun _ => rfl, id⟩
    case sum =>
      have : satAdd 32 b.satinc 1 = b.satinc + 1 := Nat.min_eq_left (by omega)
      omega
    case counted => exact absurd (hkey hk hlo hhi ▸ hfull) hcell
  · rw [hcnt, hinc]
    refine ⟨Tbl.pairwise_set _ _ hsorted, fun _ => ?sum, increment_ovr hstep, increment_under hstep, fun hk _ hlo hhi => ?counted, fun hcol => ?others,
      fun hall => ?bounded⟩
    case sum =>
      have := Tbl.sum_set (incKey top rowStep rows cols c q) (Tbl.get 0 b.cnt (incKey top rowStep rows cols c q) + 1) hsorted
      omega
    case counted => rw [hkey hk hlo hhi, Tbl.get_set_same]
    case others =>
      refine Tbl.get_set_ne _ _ _ ?_
      rintro rfl
      exact hcol (Nat.mul_add_mod_self_right ..)
    case bounded =>
      have hle := of_decide_eq_true (Tbl.get_of_mem_all (p := fun w => decide (w ≤ 65535)) (incKey top rowStep rows cols c q) rfl hall)
      refine List.all_eq_true.mpr fun e he => ?_
      rcases Tbl.mem_set he with rfl | he
      · exact decide_eq_true (Nat.lt_of_le_of_ne hle hroom)
      · exact List.all_eq_true.mp hall e he
end

section
/-! Traces, streams and planes after a write, and what a fold of one step over all traces or planes of a unit gives at one of them. -/

namespace Sys2Proof.Machine

open Sys2Proof.Claims

/-- The last value set at a key is the one that stays. -/
theorem Tbl.set_set {β : Type} (t : Tbl β) (k : Nat) (v w : β) : Tbl.set (Tbl.set t k v) k w = Tbl.set t k w := by
  induction t with
  | nil => exact if_pos rfl
  | cons c t ih =>
    obtain ⟨a, x⟩ := c
    rw [Tbl.set, Tbl.set]
    split_ifs with hak hka
    · exact if_pos hak
    · exact if_pos rfl
    · rw [Tbl.set, if_neg hak, if_neg hka, ih]

variable (s : State)

theorem trace_congr {s t : State} (h : t.slt = s.slt) (p n : Nat) : t.trace p n = s.trace p n := congrArg (fun x : Slt => Tbl.get Trace.init x.trace (8 * p + n)) h
theorem spg_congr {s t : State} (h : t.slt = s.slt) (p : Nat) : t.spg p = s.spg p := congrArg (fun x : Slt => Tbl.get Spg.init x.spg p) h
theorem plane_congr {s t : State} (h : t.slt = s.slt) (p n : Nat) : t.plane p n = s.plane p n := congrArg (fun x : Slt => Tbl.get Plane.init x.plane (4 * p + n)) h

@[simp] theorem trace_setTrace_same (p n : Nat) (x : Trace) : (s.setTrace p n x).trace p n = x := Tbl.get_set_same ..
@[simp] theorem spg_setSpg_same (p : Nat) (x : Spg) : (s.setSpg p x).spg p = x := Tbl.get_set_same ..
@[simp] theorem plane_setPlane_same (p n : Nat) (x : Plane) : (s.setPlane p n x).plane p n = x := Tbl.get_set_same ..

theorem trace_setTrace_ne {p n q m : Nat} (x : Trace) (h : 8 * p + n ≠ 8 * q + m) : (s.setTrace p n x).trace q m = s.trace q m := Tbl.get_set_ne _ _ _ h
theorem plane_setPlane_ne {p n q m : Nat} (x : Plane) (h : 4 * p + n ≠ 4 * q + m) : (s.setPlane p n x).plane q m = s.plane q m := Tbl.get_set_ne _ _ _ h

theorem setPlane_setPlane (p n : Nat) (x y : Plane) : (s.setPlane p n x).setPlane p n y = s.setPlane p n y :=
  congrArg (fun w => { s with slt := { s.slt with plane := w } }) (Tbl.set_set ..)

theorem onlyPlane_setPlane (p n : Nat) (x : Plane) : OnlyPlane s (s.setPlane p n x) p n := by
  rw [OnlyPlane, plane_setPlane_same]
  rfl

/-! The two buffers of a plane. -/

theorem buf_setBuf_same (x : Plane) (b : Nat) (v : PBuf) : (x.setBuf b v).buf b = v := by
  unfold Plane.setBuf Plane.buf
  split_ifs <;> rfl

theorem buf_setBuf_other {a b : Nat} (x : Plane) (v : PBuf) (h : a = 0 ↔ b ≠ 0) : (x.setBuf a v).buf b = x.buf b := by
  unfold Plane.setBuf Plane.buf
  by_cases ha : a = 0
  · rw [if_pos ha, if_neg (h.mp ha), if_neg (h.mp ha)]
  · have hb : b = 0 := not_not.mp fun hb => ha (h.mpr hb)
    rw [if_neg ha, if_pos hb, if_pos hb]

/-- The number of a buffer and that of the other one. -/
theorem other_buf (b : Nat) : 1 - b = 0 ↔ b ≠ 0 := by omega

@[simp] theorem setBuf_live (x : Plane) (b : Nat) (v : PBuf) : (x.setBuf b v).live = x.live := by unfold Plane.setBuf; split <;> rfl
@[simp] theorem setBuf_on (x : Plane) (b : Nat) (v : PBuf) : (x.setBuf b v).on = x.on := by unfold Plane.setBuf; split <;> rfl
@[simp] theorem setBuf_susp (x : Plane) (b : Nat) (v : PBuf) : (x.setBuf b v).susp = x.susp := by unfold Plane.setBuf; split <;> rfl
@[simp] theorem setBuf_seq (x : Plane) (b : Nat) (v : PBuf) : (x.setBuf b v).seq = x.seq := by unfold Plane.setBuf; split <;> rfl
@[simp] theorem setBuf_swap (x : Plane) (b : Nat) (v : PBuf) : (x.setBuf b v).swap = x.swap := by unfold Plane.setBuf; split <;> rfl

/-- The LIVE buffer after it has been replaced. -/
theorem liveBuf_setBuf_live (x : Plane) (v : PBuf) : (x.setBuf x.live v).liveBuf = v := by rw [Plane.liveBuf, setBuf_live, buf_setBuf_same]

/-! One step for each of several objects. -/

/-- A fold whose step at `a` takes what is read of the state by `g`, and whose other steps leave it, takes it by `g` once. -/
theorem get_foldl_once {α γ : Type} {f : State → α → State} {get : State → γ} {g : γ → γ} {I : State → Prop} {l : List α} {a : α} (hnd : l.Nodup) (ha : a ∈ l)
    (hI : ∀ t, ∀ x ∈ l, I t → I (f t x)) (hown : ∀ t, I t → get (f t a) = g (get t)) (hother : ∀ t, ∀ x ∈ l, x ≠ a → get (f t x) = get t) {s : State} (h : I s) :
    get (l.foldl f s) = g (get s) := by
  induction l generalizing s with
  | nil => exact absurd ha List.not_mem_nil
  | cons b l ih =>
    obtain ⟨hb, hnd'⟩ := List.nodup_cons.mp hnd
    have hIl : ∀ t, ∀ x ∈ l, I t → I (f t x) := fun t x hx => hI t x (List.mem_cons_of_mem _ hx)
    have hol : ∀ t, ∀ x ∈ l, x ≠ a → get (f t x) = get t := fun t x hx => hother t x (List.mem_cons_of_mem _ hx)
    rw [List.foldl_cons]
    rcases List.mem_cons.mp ha with rfl | hal
    · have hrest : ∀ t, get (l.foldl f t) = get t := fun t =>
        List.foldlRecOn (motive := fun u => get u = get t) l f rfl fun u hu x hx => (hol u x hx fun e => hb (e ▸ hx)).trans hu
      rw [hrest, hown s h]
    · rw [ih hnd' hal hIl hol (hI s b List.mem_cons_self h), hother s b List.mem_cons_self fun e => hb (e ▸ hal)]

/-- A fold of steps that each replace the state of a trace alone. -/
theorem foldl_traces_eq {α : Type} {f : State → α → State} (l : List α) (hf : ∀ t, ∀ x ∈ l, f t x = { t with slt := { t.slt with trace := (f t x).slt.trace } }) :
    l.foldl f s = { s with slt := { s.slt with trace := (l.foldl f s).slt.trace } } :=
  List.foldlRecOn (motive := fun u => u = { s with slt := { s.slt with trace := u.slt.trace } }) l f rfl fun u hu x hx =>
    (hf u x hx).trans (congrArg (fun w : State => { w with slt := { w.slt with trace := (f u x).slt.trace } }) hu)

/-- A fold of steps that each replace the state of a plane alone. -/
theorem foldl_planes_eq {α : Type} {f : State → α → State} (l : List α) (hf : ∀ t, ∀ x ∈ l, f t x = { t with slt := { t.slt with plane := (f t x).slt.plane } }) :
    l.foldl f s = { s with slt := { s.slt with plane := (l.foldl f s).slt.plane } } :=
  List.foldlRecOn (motive := fun u => u = { s with slt := { s.slt with plane := u.slt.plane } }) l f rfl fun u hu x hx =>
    (hf u x hx).trans (congrArg (fun w : State => { w with slt := { w.slt with plane := (f u x).slt.plane } }) hu)

end Sys2Proof.Machine
end

section
/-! Commands of the detector and silt units (R158, R169, R180, R181). -/

namespace Sys2Proof.Machine

open Sys2Proof.Claims

theorem exec_detClear {p : Fin 4} {s u : State} {c : Code} (hb : s.cmdBusy (hDet p) = false) (h : detClear p s = (c, u)) :
    exec (.detClear p) s = .next (finish (hDet p) 1 c u) := congrArg Host.Outcome.next (runCmd_of hb h)

theorem exec_sltClear {p : Fin 4} {s u : State} {c : Code} (hb : s.cmdBusy (hSlt p) = false) (h : sltClear p s = (c, u)) :
    exec (.sltClear p) s = .next (finish (hSlt p) 1 c u) := congrArg Host.Outcome.next (runCmd_of hb h)

theorem exec_sltRelease {p : Fin 4} {s u : State} {c : Code} (hb : s.cmdBusy (hSlt p) = false) (h : sltRelease p s = (c, u)) :
    exec (.sltRelease p) s = .next (finish (hSlt p) 2 c u) := congrArg Host.Outcome.next (runCmd_of hb h)

theorem exec_swap {p : Fin 4} {s u : State} {c : Code} (hb : s.cmdBusy (hSlt p) = false) (h : sltSwap p s = (c, u)) :
    exec (.swap p) s = .next (finish (hSlt p) 3 c u) := congrArg Host.Outcome.next (runCmd_of hb h)

/-- A command whose work changed the detectors and planes alone. -/
theorem finish_eq_of_slt {s u : State} {x : Slt} (h code : Nat) (c : Code) (hu : u = { s with slt := x }) :
    finish h code c u = { s with slt := x, rep := (finish h code c u).rep } :=
  (finish_eq ..).trans (congrArg (fun w : State => { w with rep := (finish h code c u).rep }) hu)

/-! DET CLEAR. -/

/-- A trace whose hold or running average restarts; `avg`: it runs an average. -/
def restarted (avg : Bool) (x : Trace) : Trace :=
  { x with
    run := none, hold := none, holdFrames := 0, holdPsw := 0
    frames := if avg then 0 else x.frames, acc := if avg then [] else x.acc, sum := if avg then [] else x.sum, psw := if avg then 0 else x.psw }

theorem restartTrace_eq (p t : Nat) (s : State) : restartTrace p t s = s.setTrace p t (restarted (trRunAvg s p t) (s.trace p t)) := rfl

/-- The traces of a mask restart. -/
def clearTraces (p m : Nat) (s : State) : State := (List.range 8).foldl (fun s t => if bitAt m t then restartTrace p t s else s) s

theorem clearTraces_eq (p m : Nat) (s : State) : clearTraces p m s = { s with slt := { s.slt with trace := (clearTraces p m s).slt.trace } } :=
  foldl_traces_eq s _ fun t x _ => by
    split
    · rfl
    · rfl

theorem trace_clearTraces {p j : Nat} (m : Nat) (s : State) (hj : j < 8) :
    (clearTraces p m s).trace p j = if bitAt m j then restarted (trRunAvg s p j) (s.trace p j) else s.trace p j := by
  refine get_foldl_once (get := fun t => t.trace p j) (g := fun x => if bitAt m j then restarted (trRunAvg s p j) x else x) (I := fun t => t.regs = s.regs)
    List.nodup_range (List.mem_range.mpr hj) (fun t x _ ht => ?_) (fun t ht => ?_) (fun t x _ hx => ?_) rfl
  · split
    · exact ht
    · exact ht
  · have havg : trRunAvg t p j = trRunAvg s p j := by
      simp only [trRunAvg, trDet, State.fld_congr ht]
    split
    · rw [restartTrace_eq, trace_setTrace_same, havg]
    · rfl
  · split
    · exact trace_setTrace_ne t _ (by omega)
    · rfl

theorem trace_clearTraces_ne {p q : Nat} (m n : Nat) (s : State) (hn : n < 8) (hq : q ≠ p) : (clearTraces p m s).trace q n = s.trace q n :=
  List.foldlRecOn (motive := fun t : State => t.trace q n = s.trace q n) _ _ rfl fun t ht x hx => by
    have hx8 := List.mem_range.mp hx
    split
    · exact (trace_setTrace_ne t _ (by omega)).trans ht
    · exact ht

/-! SLT CLEAR. -/

/-- A plane that counts starts anew: its LIVE buffer is CLEARING. -/
def planeCleared (x : Plane) : Plane :=
  { x.setBuf x.live { x.liveBuf with st := .clearing } with on := false, clearing := 2 ^ x.live, ovr := false, swap := false, decaying := false }

/-- The planes of a mask that count start anew. -/
def clearPlanes (p m : Nat) (s : State) : State :=
  (List.range 4).foldl (fun s n => if bitAt m n && (s.plane p n).on then s.setPlane p n (planeCleared (s.plane p n)) else s) s

theorem clearPlanes_eq (p m : Nat) (s : State) : clearPlanes p m s = { s with slt := { s.slt with plane := (clearPlanes p m s).slt.plane } } :=
  foldl_planes_eq s _ fun t x _ => by
    split
    · rfl
    · rfl

theorem plane_clearPlanes_ne {p q : Nat} (m n : Nat) (s : State) (hn : n < 4) (hq : q ≠ p) : (clearPlanes p m s).plane q n = s.plane q n :=
  List.foldlRecOn (motive := fun t : State => t.plane q n = s.plane q n) _ _ rfl fun t ht x hx => by
    have hx4 := List.mem_range.mp hx
    split
    · exact (plane_setPlane_ne t _ (by omega)).trans ht
    · exact ht

theorem plane_clearPlanes {p n : Nat} (m : Nat) (s : State) (hn : n < 4) :
    (clearPlanes p m s).plane p n = if bitAt m n && (s.plane p n).on then planeCleared (s.plane p n) else s.plane p n := by
  refine get_foldl_once (get := fun t => t.plane p n) (g := fun x => if bitAt m n && x.on then planeCleared x else x) (I := fun _ => True)
    List.nodup_range (List.mem_range.mpr hn) (fun _ _ _ _ => trivial) (fun t _ => ?_) (fun t x _ hx => ?_) trivial
  · split
    · exact plane_setPlane_same ..
    · rfl
  · split
    · exact plane_setPlane_ne t _ (by omega)
    · rfl

/-! What each command answers. -/

theorem detClear_slave {p : Nat} {s : State} (h : s.slave p = true) : detClear p s = (.state, s) := if_pos h

theorem detClear_empty {p : Nat} {s : State} (h : s.slave p = false) (hm : s.fld (R.DET_CMD_ARG_MASK p) = 0) : detClear p s = (.range, s) :=
  (if_neg (ne_true_of_eq_false h)).trans (if_pos hm)

theorem detClear_ok {p : Nat} {s : State} (h : s.slave p = false) (hm : s.fld (R.DET_CMD_ARG_MASK p) ≠ 0) :
    detClear p s = (.ok, clearTraces p (s.fld (R.DET_CMD_ARG_MASK p)) s) :=
  (if_neg (ne_true_of_eq_false h)).trans (if_neg hm)

theorem sltClear_slave {p : Nat} {s : State} (h : s.slave p = true) : sltClear p s = (.state, s) := if_pos h

theorem sltClear_empty {p : Nat} {s : State} (h : s.slave p = false) (hm : s.fld (R.SLT_CMD_ARG_MASK p) = 0) : sltClear p s = (.range, s) :=
  (if_neg (ne_true_of_eq_false h)).trans (if_pos hm)

theorem sltClear_ok {p : Nat} {s : State} (h : s.slave p = false) (hm : s.fld (R.SLT_CMD_ARG_MASK p) ≠ 0) :
    sltClear p s = (.ok, clearPlanes p (s.fld (R.SLT_CMD_ARG_MASK p)) s) :=
  (if_neg (ne_true_of_eq_false h)).trans (if_neg hm)

theorem sltRelease_slave {p : Nat} {s : State} (h : s.slave p = true) : sltRelease p s = (.state, s) := if_pos h

theorem sltRelease_state {p n b : Nat} {s : State} (h : s.slave p = false) (hn : n = s.fld (R.SLT_CMD_ARG_PLANE p)) (hb : b = s.fld (R.SLT_CMD_ARG_BUF p))
    (hst : ((s.plane p n).buf b).st ≠ .full) : sltRelease p s = (.state, s) := by
  subst hn hb
  exact (if_neg (ne_true_of_eq_false h)).trans (if_pos (bne_iff_ne.mpr hst))

theorem sltRelease_ok {p n b : Nat} {s : State} (h : s.slave p = false) (hn : n = s.fld (R.SLT_CMD_ARG_PLANE p)) (hb : b = s.fld (R.SLT_CMD_ARG_BUF p))
    (hst : ((s.plane p n).buf b).st = .full) :
    sltRelease p s = (.ok, s.setPlane p n ((s.plane p n).setBuf b { (s.plane p n).buf b with st := .clearing })) := by
  subst hn hb
  exact (if_neg (ne_true_of_eq_false h)).trans (if_neg fun hne => bne_iff_ne.mp hne hst)

theorem sltSwap_slave {p : Nat} {s : State} (h : s.slave p = true) : sltSwap p s = (.state, s) := if_pos h

theorem sltSwap_state {p n : Nat} {s : State} (h : s.slave p = false) (hn : n = s.fld (R.SLT_CMD_ARG_PLANE p))
    (hst : plEn s p n = false ∨ plDbuf (s.wordN (R.SLT_PL_CFG p n)) = false) : sltSwap p s = (.state, s) := by
  subst hn
  refine (if_neg (ne_true_of_eq_false h)).trans (if_pos ?_)
  rw [Bool.not_eq_true', Bool.and_eq_false_iff]
  exact hst

theorem sltSwap_ok {p n : Nat} {s : State} (h : s.slave p = false) (hn : n = s.fld (R.SLT_CMD_ARG_PLANE p)) (hen : plEn s p n = true)
    (hd : plDbuf (s.wordN (R.SLT_PL_CFG p n)) = true) : sltSwap p s = (.ok, s.setPlane p n { s.plane p n with swap := true }) := by
  subst hn
  refine (if_neg (ne_true_of_eq_false h)).trans (if_neg ?_)
  rw [hen, hd]
  decide

end Sys2Proof.Machine

open Sys2Proof Sys2Proof.Machine Sys2Proof.Claims

/-- Settles O20: each command by what its meaning answers. -/
theorem detectorAndSiltCommands : Obligations.DetectorAndSiltCommands := by
  unfold Obligations.DetectorAndSiltCommands
  intro s p m j x b n hx hn hbuf
  refine ⟨fun hb hs hm => ⟨_, exec_detClear hb (detClear_ok hs hm), ?detClear⟩, fun hb hs hm => ⟨_, exec_detClear hb (detClear_empty hs hm), turnedAway_finish ..⟩,
    fun hb hs hm => ⟨_, exec_sltClear hb (sltClear_ok hs hm), ?sltClear⟩, fun hb hs hm => ⟨_, exec_sltClear hb (sltClear_empty hs hm), turnedAway_finish ..⟩,
    fun hb hs hst => ⟨_, exec_sltRelease hb (sltRelease_ok hs hn hbuf hst), finish_eq .., finished_finish_of _ _ _ rfl⟩,
    fun hb hs hst => ⟨_, exec_sltRelease hb (sltRelease_state hs hn hbuf hst), turnedAway_finish ..⟩,
    fun hb hs hen hd => ⟨_, exec_swap hb (sltSwap_ok hs hn hen hd), finish_eq .., finished_finish_of _ _ _ rfl⟩,
    fun hb hs hst => ⟨_, exec_swap hb (sltSwap_state hs hn hst), turnedAway_finish ..⟩,
    fun hb hs => ⟨_, exec_detClear hb (detClear_slave hs), turnedAway_finish ..⟩,
    fun hb hs => ⟨⟨_, exec_sltClear hb (sltClear_slave hs), turnedAway_finish ..⟩, ⟨_, exec_sltRelease hb (sltRelease_slave hs), turnedAway_finish ..⟩,
      ⟨_, exec_swap hb (sltSwap_slave hs), turnedAway_finish ..⟩⟩⟩
  case detClear =>
    have hrep : (clearTraces p (s.fld (R.DET_CMD_ARG_MASK p)) s).rep = s.rep := by rw [clearTraces_eq]
    have hfin (q i : Nat) : (finish (hDet p) 1 .ok (clearTraces p (s.fld (R.DET_CMD_ARG_MASK p)) s)).trace q i = _ := trace_congr (finish_slt ..) q i
    have hown := (hfin p j).trans (trace_clearTraces _ s j.isLt)
    refine ⟨hown.trans ?_, fun hbit => ?_, fun hne => (hfin m j).trans (trace_clearTraces_ne _ _ s j.isLt fun e => hne (Fin.ext e)),
      finish_eq_of_slt _ _ _ (clearTraces_eq ..), finished_finish_of _ _ _ hrep⟩
    · rw [hown]
      split
      · rfl
      · rfl
    · rw [hown, if_pos hbit]
      rfl
  case sltClear =>
    have hrep : (clearPlanes p (s.fld (R.SLT_CMD_ARG_MASK p)) s).rep = s.rep := by rw [clearPlanes_eq]
    have hown := (plane_congr (finish_slt _ (hSlt p) 1 .ok) p m).trans (plane_clearPlanes (s.fld (R.SLT_CMD_ARG_MASK p)) s m.isLt)
    rw [← hx] at hown
    exact ⟨hown, finish_eq_of_slt _ _ _ (clearPlanes_eq ..), finished_finish_of _ _ _ hrep⟩
end

section
/-! Buffers of a silt plane (R168 to R172, R179): the end of a period, a clear that ends, a decay pass that falls due. -/

namespace Sys2Proof.Machine

open Sys2Proof.Claims

theorem analyses_of {i : Instr} {f : State → State} {P : State → Prop} {s : State} (he : exec i s = .next (analysis f s)) (h : P (f s)) : Analyses i s P := by
  rcases analysis_spec f s with ⟨hheld, hs⟩ | ⟨hheld, hs⟩
  · exact ⟨_, he, by rw [hheld]; exact hs⟩
  · exact ⟨_, he, by rw [hheld, hs]; exact h⟩

/-- An event after work that left the reports as they were. -/
theorem event_raise_of {s u : State} (h b : Nat) (hu : u.rep = s.rep) : Event h b s (raise h b u) := ⟨raise_raised .., (raise_frame h b u).congr_left hu⟩

/-! The swap (R168). -/

/-- A plane whose LIVE buffer has become FULL; `deg`: the PSW bit of degraded memory. -/
def planeFilled (deg : Nat) (x : Plane) : Plane :=
  { x.setBuf x.live { x.liveBuf with st := .full, psw := x.liveBuf.psw ||| deg } with seq := (x.seq + 1) % 2 ^ 32, ovr := false, swap := false }

/-- The LIVE buffer of plane `n` after a swap that left plane `y`. -/
def freshLive (s : State) (p n : Nat) (y : Plane) : PBuf := { newBuf s p n .live y.seq with flags := if y.susp then 4 else 0 }

/-- A plane whose LIVE buffer is now the other one, emptied. -/
def planeSwaps (s : State) (p n : Nat) (y : Plane) : Plane := { y.setBuf (1 - y.live) (freshLive s p n y) with live := 1 - y.live }

/-- A plane after a swap. -/
def planeSwapped (s : State) (p n : Nat) (x : Plane) : Plane := planeSwaps s p n (planeFilled s.memDeg x)

theorem fillBuf_eq (p n : Nat) (s : State) : fillBuf p n s = raise (hSlt p) n (s.setPlane p n (planeFilled s.memDeg (s.plane p n))) := rfl

theorem plane_fillBuf (p n : Nat) (s : State) : (fillBuf p n s).plane p n = planeFilled s.memDeg (s.plane p n) := plane_setPlane_same ..

theorem live_planeFilled (deg : Nat) (x : Plane) : (planeFilled deg x).live = x.live := setBuf_live ..

theorem buf_planeFilled (deg : Nat) (x : Plane) : (planeFilled deg x).buf x.live = { x.liveBuf with st := .full, psw := x.liveBuf.psw ||| deg } :=
  buf_setBuf_same ..

theorem swapBufs_eq (p n : Nat) (s : State) : swapBufs p n s = (fillBuf p n s).setPlane p n (planeSwapped s p n (s.plane p n)) := by
  rw [planeSwapped, ← plane_fillBuf]
  rfl

theorem plane_swapBufs (p n : Nat) (s : State) : (swapBufs p n s).plane p n = planeSwapped s p n (s.plane p n) := by
  rw [swapBufs_eq, plane_setPlane_same]

theorem onlyPlane_swapBufs (p n : Nat) (s : State) : OnlyPlane s (swapBufs p n s) p n := by
  rw [OnlyPlane, plane_swapBufs, swapBufs_eq]
  exact congrArg (fun w : Slt => { s with slt := w, rep := (fillBuf p n s).rep })
    (congrArg (fun w => { s.slt with plane := w }) (Tbl.set_set s.slt.plane (4 * p + n) _ (planeSwapped s p n (s.plane p n))))

theorem event_swapBufs (p n : Nat) (s : State) : Event (hSlt p) n s (swapBufs p n s) := by
  rw [swapBufs_eq]
  exact event_raise_of (hSlt p) n (u := s.setPlane p n _) rfl

theorem live_planeSwapped (s : State) (p n : Nat) (x : Plane) : (planeSwapped s p n x).live = 1 - x.live := congrArg (1 - ·) (live_planeFilled s.memDeg x)

theorem on_planeSwapped (s : State) (p n : Nat) (x : Plane) : (planeSwapped s p n x).on = x.on := (setBuf_on ..).trans (setBuf_on ..)

theorem seq_planeSwapped (s : State) (p n : Nat) (x : Plane) : (planeSwapped s p n x).seq = (x.seq + 1) % 2 ^ 32 := setBuf_seq ..

theorem swap_planeSwapped (s : State) (p n : Nat) (x : Plane) : (planeSwapped s p n x).swap = false := setBuf_swap ..

/-- The buffer that was LIVE keeps its content after the swap. -/
theorem buf_planeSwapped_old (s : State) (p n : Nat) (x : Plane) :
    (planeSwapped s p n x).buf x.live = { x.liveBuf with st := .full, psw := x.liveBuf.psw ||| s.memDeg } := by
  have hother : 1 - (planeFilled s.memDeg x).live = 0 ↔ x.live ≠ 0 := by rw [live_planeFilled]; exact other_buf x.live
  exact (buf_setBuf_other (planeFilled s.memDeg x) _ hother).trans (buf_planeFilled ..)

theorem liveBuf_planeSwapped (s : State) (p n : Nat) (x : Plane) : (planeSwapped s p n x).liveBuf = freshLive s p n (planeFilled s.memDeg x) := buf_setBuf_same ..

/-! The end of a period. -/

/-- Does the plane end a period at this frame boundary (R168)? -/
def periodEnds (s : State) (p n : Nat) : Bool :=
  plEn s p n && plDbuf (s.wordN (R.SLT_PL_CFG p n)) && (s.plane p n).on && ((s.plane p n).swap || decide (plPer s p n ≤ (s.plane p n).liveBuf.frames))

theorem periodEnds_iff {s : State} {p n : Nat} : periodEnds s p n = true ↔
    plEn s p n = true ∧ plDbuf (s.wordN (R.SLT_PL_CFG p n)) = true ∧ (s.plane p n).on = true ∧ ((s.plane p n).swap = true ∨ plPer s p n ≤ (s.plane p n).liveBuf.frames) := by
  rw [periodEnds, Bool.and_eq_true, Bool.and_eq_true, Bool.and_eq_true, Bool.or_eq_true, decide_eq_true_eq, and_assoc, and_assoc]

theorem planePeriodEnd_within {s : State} {p n : Nat} (h : periodEnds s p n = false) : planePeriodEnd p n s = s :=
  if_pos (by rw [Bool.not_eq_true']; exact h)

theorem planePeriodEnd_ends {s : State} {p n : Nat} (h : periodEnds s p n = true) : planePeriodEnd p n s =
    if canSwap (s.plane p n) then swapBufs p n s else if (s.plane p n).ovr then s else
      raise (hSlt p) 4 ((s.setPlane p n { (s.plane p n).setBuf (s.plane p n).live { (s.plane p n).liveBuf with flags := (s.plane p n).liveBuf.flags ||| 8 } with ovr := true }).bump64
        (R.SLT_PL_OVERRUN p n) 1) :=
  if_neg (by rw [Bool.not_eq_true', ← periodEnds, h]; decide)

theorem canSwap_iff {x : Plane} : canSwap x = true ↔ x.on = true ∧ (x.buf (1 - x.live)).st = .ready := by
  rw [canSwap, Bool.and_eq_true, beq_iff_eq]

theorem planePeriodEnd_swaps {s : State} {p n : Nat} (h : periodEnds s p n = true) (hr : canSwap (s.plane p n) = true) : planePeriodEnd p n s = swapBufs p n s :=
  (planePeriodEnd_ends h).trans (if_pos hr)

theorem planePeriodEnd_extended {s : State} {p n : Nat} (hr : canSwap (s.plane p n) = false) (ho : (s.plane p n).ovr = true) : planePeriodEnd p n s = s := by
  cases h : periodEnds s p n
  · exact planePeriodEnd_within h
  · rw [planePeriodEnd_ends h, hr, ho]
    rfl

theorem planePeriodEnd_extends {s : State} {p n : Nat} (h : periodEnds s p n = true) (hr : canSwap (s.plane p n) = false) (ho : (s.plane p n).ovr = false) :
    planePeriodEnd p n s =
      raise (hSlt p) 4 ((s.setPlane p n { (s.plane p n).setBuf (s.plane p n).live { (s.plane p n).liveBuf with flags := (s.plane p n).liveBuf.flags ||| 8 } with ovr := true }).bump64
        (R.SLT_PL_OVERRUN p n) 1) := by
  rw [planePeriodEnd_ends h, hr, ho]
  rfl

/-! A clear that ends (R169, R179). -/

theorem planeClearDone_none {s : State} {p n b : Nat} (h : ((s.plane p n).buf b).st ≠ .clearing) : planeClearDone p n b s = s := if_pos (bne_iff_ne.mpr h)

theorem planeClearDone_buffer {s : State} {p n b : Nat} (h : ((s.plane p n).buf b).st = .clearing) (hb : bitAt (s.plane p n).clearing b = false) :
    planeClearDone p n b s = s.setPlane p n ((s.plane p n).setBuf b (newBuf s p n .ready (s.plane p n).seq)) := by
  have hst : ¬ ((s.plane p n).buf b).st != .clearing := fun hne => bne_iff_ne.mp hne h
  exact (if_neg hst).trans (if_pos (by rw [hb]; rfl))

/-- A plane that counts again after its last clear. -/
def planeRestarted (s : State) (p n b : Nat) (x : Plane) : Plane :=
  { (x.setBuf b (newBuf s p n .ready x.seq)).setBuf x.live { newBuf s p n .live x.seq with flags := if x.susp then 4 else 0 } with
    clearing := 0, on := true, counted := 0, decayAt := 0 }

theorem liveBuf_planeRestarted (s : State) (p n b : Nat) (x : Plane) :
    (planeRestarted s p n b x).liveBuf = { newBuf s p n .live x.seq with flags := if x.susp then 4 else 0 } := by
  unfold planeRestarted
  generalize ({ newBuf s p n .live x.seq with flags := if x.susp then 4 else 0 } : PBuf) = v
  rw [← setBuf_live x b (newBuf s p n .ready x.seq)]
  exact liveBuf_setBuf_live ..

theorem live_planeRestarted (s : State) (p n b : Nat) (x : Plane) : (planeRestarted s p n b x).live = x.live := (setBuf_live ..).trans (setBuf_live ..)

theorem planeClearDone_last {s : State} {p n : Nat} {b : Fin 2} (h : ((s.plane p n).buf b).st = .clearing) (hc : (s.plane p n).clearing = 2 ^ b.val) :
    planeClearDone p n b s = s.setPlane p n (planeRestarted s p n b (s.plane p n)) := by
  have hbits : bitAt (2 ^ b.val) b = true ∧ putBits (2 ^ b.val) b b 0 = 0 := by
    clear h hc
    revert b
    decide
  have hst : ¬ ((s.plane p n).buf b).st != .clearing := fun hne => bne_iff_ne.mp hne h
  refine (if_neg hst).trans ((if_neg ?_).trans (if_neg ?_))
  · rw [hc, hbits.1]
    decide
  · rw [hc, hbits.2]
    decide

/-! Decay (R171, R172). -/

/-- Does a decay pass fall due? -/
def decayDue (s : State) (p n : Nat) : Bool :=
  plEn s p n && !plDbuf (s.wordN (R.SLT_PL_CFG p n)) && s.fld (R.SLT_PL_DECAY_DSH p n) != 0 && (s.plane p n).on && decide ((s.plane p n).decayAt < (s.plane p n).counted) &&
    (s.plane p n).counted % plPer s p n == 0

/-- The counters after a decay pass. -/
def decayedCounts (dsh : Nat) (t : Tbl Nat) : Tbl Nat := (t.map (fun e => (e.1, decayed dsh e.2))).filter (fun e => e.2 != 0)

/-- A plane with its decay pass under way. -/
def planeDecays (dsh : Nat) (x : Plane) : Plane :=
  { x.setBuf x.live { x.liveBuf with cnt := decayedCounts dsh x.liveBuf.cnt } with decaying := true, decayAt := x.counted }

theorem decayDue_of {s : State} {p n : Nat} (hen : plEn s p n = true) (hd : plDbuf (s.wordN (R.SLT_PL_CFG p n)) = false) (hdsh : s.fld (R.SLT_PL_DECAY_DSH p n) ≠ 0)
    (hon : (s.plane p n).on = true) (hat : (s.plane p n).decayAt < (s.plane p n).counted) (hper : (s.plane p n).counted % plPer s p n = 0) : decayDue s p n = true := by
  simp only [decayDue, hen, hd, hon, hat, hper, bne_iff_ne.mpr hdsh, Bool.not_false, decide_true, BEq.rfl, Bool.and_true]

theorem liveBuf_planeDecays (dsh : Nat) (x : Plane) : (planeDecays dsh x).liveBuf = { x.liveBuf with cnt := decayedCounts dsh x.liveBuf.cnt } :=
  liveBuf_setBuf_live ..

theorem decayPassStart_skipped {s : State} {p n : Nat} (h : decayDue s p n = true) (hd : (s.plane p n).decaying = true) : decayPassStart p n s =
    raise (hSlt p) 7 ((s.setPlane p n { s.plane p n with decayAt := (s.plane p n).counted }).bumpSat (R.SLT_PL_DECAY_SKIP p n) 1) :=
  (if_neg (by rw [Bool.not_eq_true', ← decayDue, h]; decide)).trans (if_pos hd)

theorem decayPassStart_starts {s : State} {p n : Nat} (h : decayDue s p n = true) (hd : (s.plane p n).decaying = false) : decayPassStart p n s =
    s.setPlane p n (planeDecays (s.fld (R.SLT_PL_DECAY_DSH p n)) (s.plane p n)) :=
  (if_neg (by rw [Bool.not_eq_true', ← decayDue, h]; decide)).trans (if_neg (ne_true_of_eq_false hd))

/-- A counter that a pass leaves above 0 is in the table with its new value. -/
theorem mem_decayedCounts {dsh c w : Nat} {t : Tbl Nat} (h : (c, w) ∈ t) (hw : w ≠ max (w / 2 ^ dsh) (min w 1)) :
    (c, w - max (w / 2 ^ dsh) (min w 1)) ∈ decayedCounts dsh t := by
  have hle : w / 2 ^ dsh ≤ w := Nat.div_le_self ..
  refine List.mem_filter.mpr ⟨List.mem_map.mpr ⟨(c, w), h, rfl⟩, bne_iff_ne.mpr ?_⟩
  dsimp only
  omega

/-- Every counter of the table after a pass is above 0 and comes from one before it. -/
theorem decayedCounts_all (dsh : Nat) (t : Tbl Nat) :
    (decayedCounts dsh t).all (fun e => e.2 != 0 && t.any (fun o => o.1 == e.1 && o.2 - max (o.2 / 2 ^ dsh) (min o.2 1) == e.2)) = true := by
  refine List.all_eq_true.mpr fun e he => ?_
  obtain ⟨hm, hne⟩ := List.mem_filter.mp he
  obtain ⟨o, ho, rfl⟩ := List.mem_map.mp hm
  rw [hne, Bool.true_and]
  exact List.any_eq_true.mpr ⟨o, ho, by rw [Bool.and_eq_true, beq_iff_eq, beq_iff_eq]; exact ⟨rfl, rfl⟩⟩

end Sys2Proof.Machine

open Sys2Proof Sys2Proof.Machine Sys2Proof.Claims

/-- Settles O19: the branch that each moment takes, and what it leaves. -/
theorem planeBuffers : Obligations.PlaneBuffers := by
  unfold Obligations.PlaneBuffers
  intro s p n x b c w hx
  subst hx
  refine ⟨fun hen hd hon hper hst => analyses_of rfl ?swaps, fun hen hd hon hper hst ho => analyses_of rfl ?overrun, fun h => analyses_of rfl ?within,
    fun hst hb => ⟨_, rfl, ?buffer⟩, fun hst hc hl => ⟨_, rfl, ?restarts⟩, fun hst => ⟨_, rfl, planeClearDone_none hst⟩,
    fun hen hd hdsh hon hat hper hdec => analyses_of rfl ?decays, fun hen hd hdsh hon hat hper hdec => analyses_of rfl ?skips, ⟨_, rfl, rfl⟩⟩
  case swaps =>
    rw [planePeriodEnd_swaps (periodEnds_iff.mpr ⟨hen, hd, hon, hper⟩) (canSwap_iff.mpr ⟨hon, hst⟩)]
    rw [plane_swapBufs, liveBuf_planeSwapped]
    exact ⟨buf_planeSwapped_old .., live_planeSwapped .., rfl, rfl, rfl, seq_planeSwapped .., rfl, swap_planeSwapped .., (on_planeSwapped ..).trans hon, onlyPlane_swapBufs .., event_swapBufs ..⟩
  case overrun =>
    have hno : canSwap (s.plane p n) = false := Bool.eq_false_iff.mpr fun hc => hst (canSwap_iff.mp hc).2
    rw [planePeriodEnd_extends (periodEnds_iff.mpr ⟨hen, hd, hon, hper⟩) hno ho]
    exact ⟨pair_bump64 .., event_raise_of _ _ rfl, rfl, wordsKept_bump64 (s.setPlane p n _) _ 1⟩
  case within =>
    cases hends : periodEnds s p n with
    | false => exact planePeriodEnd_within hends
    | true =>
      obtain ⟨hen, hd, hon, hper⟩ := periodEnds_iff.mp hends
      rcases h with h | h | h | ⟨hswap, hlt⟩ | ⟨hst, ho⟩
      · exact absurd hon (ne_true_of_eq_false h)
      · exact absurd hen (ne_true_of_eq_false h)
      · exact absurd hd (ne_true_of_eq_false h)
      · exact absurd hper (not_or.mpr ⟨ne_true_of_eq_false hswap, Nat.not_le.mpr hlt⟩)
      · exact planePeriodEnd_extended (Bool.eq_false_iff.mpr fun hc => hst (canSwap_iff.mp hc).2) ho
  case buffer =>
    rw [planeClearDone_buffer hst hb]
    beta_reduce
    rw [plane_setPlane_same, buf_setBuf_same]
    exact ⟨rfl, rfl, rfl, buf_setBuf_other _ _ (by omega), setBuf_live .., setBuf_on .., onlyPlane_setPlane .., rfl⟩
  case restarts =>
    rw [planeClearDone_last hst hc]
    beta_reduce
    rw [plane_setPlane_same, liveBuf_planeRestarted]
    exact ⟨rfl, rfl, live_planeRestarted .., rfl, rfl, rfl, rfl, onlyPlane_setPlane .., rfl⟩
  case decays =>
    rw [decayPassStart_starts (decayDue_of hen hd hdsh hon hat hper) hdec]
    rw [plane_setPlane_same, liveBuf_planeDecays]
    exact ⟨mem_decayedCounts, decayedCounts_all .., rfl, rfl, onlyPlane_setPlane .., rfl⟩
  case skips =>
    rw [decayPassStart_skipped (decayDue_of hen hd hdsh hon hat hper) hdec]
    exact ⟨wordN_bumpSat .., event_raise_of _ _ rfl, rfl, wordsKept_bumpSat (s.setPlane p n _) _ 1⟩
end

section
/-! A tile shorter than its header (R161, R174): its read-back from poisoned memory (R259) is longer than the tile. -/

namespace Sys2Proof.Machine

/-- A tile of one byte waits to be written to a region of 1 MiB, and the word of its buffer is poisoned. -/
def shortPoisonedTile : State :=
  { State.reset with
    regs := [(R.DET_SPG_REGION_SIZE 0, 1#32)]
    poison := [0]
    slt := { Slt.init with spg := [(0, { Spg.init with writing := some (0, [7#8]) })] } }

/-- POISON is set in the two PSW bytes of a header that the tile does not have. -/
theorem length_tileRead_shortPoisonedTile : (tileRead shortPoisonedTile 0 [7#8]).length = 3 := by decide +kernel

theorem length_memRead (s : State) (a n : Nat) : (s.memRead a n).length = n := by
  rw [State.memRead, memTake, List.length_map, upFrom, List.length_map, List.length_range]

end Sys2Proof.Machine

open Sys2Proof Sys2Proof.Machine Sys2Proof.Claims

/-- Refutes O18: its last clause has the region hold as many bytes as the tile has, equal to the tile's read-back, in every state.  The read-back of a poisoned tile sets POISON in
the header's bytes 40 and 41, and nothing in `State` keeps a tile that is being written to the 64 bytes of a header or more, so that the read-back of a shorter one has more bytes than it. -/
theorem not_traceRecordsAndTiles : ¬ Obligations.TraceRecordsAndTiles := by
  unfold Obligations.TraceRecordsAndTiles
  intro h
  obtain ⟨-, -, -, -, htile⟩ := h shortPoisonedTile 0 0 0 ⟨0, 0, []⟩ [] [7#8] 0 0 0 4096 0 poolBase (by decide) (by decide) (by decide +kernel)
  obtain ⟨t, -, -, -, hread, -⟩ := htile (by decide +kernel) (by decide +kernel) rfl rfl
  have hlen := congrArg List.length hread
  rw [length_memRead, length_tileRead_shortPoisonedTile] at hlen
  exact absurd hlen (by decide)
end

section
/-! Writes to the colour tables (R175, R176): the bytes of an entry. -/

namespace Sys2Proof.Machine

theorem bitAt_bits (x hi lo i : Nat) : bitAt (bits x hi lo) i = (decide (i < hi + 1 - lo) && bitAt x (lo + i)) := by
  simp only [bitAt_eq_testBit, bits, Nat.testBit_mod_two_pow, Nat.testBit_div_two_pow, Nat.add_comm i lo]

theorem bitAt_putBits {lo hi : Nat} (w v n : Nat) (h : lo ≤ hi) : bitAt (putBits w hi lo v) n = if lo ≤ n ∧ n ≤ hi then bitAt v (n - lo) else bitAt w n := by
  split
  · rename_i hn
    have hlt : n - lo < hi + 1 - lo := by omega
    have hfield := bitAt_bits (putBits w hi lo v) hi lo (n - lo)
    rw [bits_putBits_same _ _ _ _ h, decide_eq_true hlt, Bool.true_and, Nat.add_sub_cancel' hn.1] at hfield
    rw [← hfield, bitAt_eq_testBit, bitAt_eq_testBit, Nat.testBit_mod_two_pow, decide_eq_true hlt, Bool.true_and]
  · rename_i hn
    rcases Nat.lt_or_ge n lo with hlo | hlo
    · rw [bitAt_eq_bits, bitAt_eq_bits, bits_putBits_below _ _ _ _ _ _ hlo h]
    · rw [bitAt_eq_bits, bitAt_eq_bits, bits_putBits_above _ _ _ _ _ _ (by omega) h]

/-- Byte `j` of a colour entry takes that of `val` if it is enabled. -/
def colourByte (val be w j : Nat) : Nat := if bitAt be j then putBits w (8 * j + 7) (8 * j) (bits val (8 * j + 7) (8 * j)) else w

theorem bitAt_colourByte (val be w j k : Nat) : bitAt (colourByte val be w j) k = if k / 8 = j ∧ bitAt be j = true then bitAt val k else bitAt w k := by
  unfold colourByte
  by_cases hbe : bitAt be j = true
  · have hin : 8 * j ≤ k ∧ k ≤ 8 * j + 7 ↔ k / 8 = j := by omega
    rw [if_pos hbe, bitAt_putBits _ _ _ (Nat.le_add_right ..)]
    by_cases hk : k / 8 = j
    · have hlt : k - 8 * j < 8 * j + 7 + 1 - 8 * j := by omega
      rw [if_pos (hin.mpr hk), if_pos ⟨hk, hbe⟩, bitAt_bits, decide_eq_true hlt, Bool.true_and, Nat.add_sub_cancel' (hin.mpr hk).1]
    · rw [if_neg fun e => hk (hin.mp e), if_neg fun e => hk e.1]
  · rw [if_neg hbe, if_neg fun e => hbe e.2]

theorem bitAt_colourBytes (val be k : Nat) (l : List Nat) (w : Nat) :
    bitAt (l.foldl (colourByte val be) w) k = if k / 8 ∈ l ∧ bitAt be (k / 8) = true then bitAt val k else bitAt w k := by
  induction l generalizing w with
  | nil => rw [if_neg fun e => absurd e.1 List.not_mem_nil]; rfl
  | cons j l ih =>
    rw [List.foldl_cons, ih, bitAt_colourByte]
    by_cases hk : k / 8 = j
    · subst hk
      by_cases hbe : bitAt be (k / 8) = true <;> simp [hbe]
    · simp [hk]

theorem lutWrite_used {l b i val be : Nat} {s : State} (h : s.fld (R.COL_LUT_CFG_BANK l) = b) : lutWrite l b i val be s = raise hCol 0 s := if_pos h

theorem lutWrite_free {l b i val be : Nat} {s : State} (h : s.fld (R.COL_LUT_CFG_BANK l) ≠ b) : lutWrite l b i val be s =
    { s with slt := { s.slt with lut := Tbl.set s.slt.lut ((2 * l + b) * 1024 + i) ((List.range 3).foldl (colourByte val be) (Tbl.get 0 s.slt.lut ((2 * l + b) * 1024 + i))) } } := if_neg h

end Sys2Proof.Machine
end

section
/-! Commit points of the detector and silt units (R177, R178): one that waits for frames in flight, one that takes effect, and one whose snapshot is rejected. -/

namespace Sys2Proof.Machine

open Sys2Proof.Claims

/-- A commit point of port `p` at word `w` is the only one that waits. -/
def awaiting (p w : Nat) (a : SiltAct) (s : State) : State := { s with slt := { s.slt with due := [{ p := p, w := w, act := a }] } }

/-- No commit point waits. -/
def noneDue (s : State) : State := { s with slt := { s.slt with due := [] } }

theorem commitAt_eq {s : State} (p w : Nat) (a : SiltAct) (hd : s.slt.due = []) : commitAt p w a s = drainDue (fun v => !(awaiting p w a s).flyingBefore p v) p (awaiting p w a s) := by
  rw [commitAt, hd]
  rfl

theorem commitAt_waits {s : State} {p w : Nat} (a : SiltAct) (hd : s.slt.due = []) (hf : s.flyingBefore p w = true) : commitAt p w a s = awaiting p w a s := by
  have hf' : (awaiting p w a s).flyingBefore p w = true := hf
  rw [commitAt_eq p w a hd, drainDue]
  simp only [awaiting, runDue] at hf' ⊢
  simp [hf']

theorem commitAt_applies {s t : State} {p w : Nat} {a : SiltAct} (hd : s.slt.due = []) (hf : s.flyingBefore p w = false) (ha : applyDue p a (awaiting p w a s) = some t) :
    commitAt p w a s = noneDue t := by
  have hf' : (awaiting p w a s).flyingBefore p w = false := hf
  rw [commitAt_eq p w a hd, drainDue]
  simp only [awaiting, runDue] at hf' ha ⊢
  simp [hf', ha, noneDue]

/-- A commit point that waits changes no register word, so a snapshot has the same words in it as before. -/
theorem overlay_of_regs {s t : State} (ws : Tbl Nat) (h : t.regs = s.regs) : overlay t ws = { t with regs := (overlay s ws).regs } := by
  rw [overlay_setWord, regs_overlay_congr ws h]

theorem event_rejectDue (h b obj : Nat) (s : State) : Event h b s (rejectDue h b obj s) :=
  ⟨(raise_raised h b s).kept (addLog_frame ..), ((raise_frame h b s).trans (addLog_frame ..)).mono (by simp) (by simp) (by simp)⟩

/-- What a rejection leaves when nothing else waited. -/
theorem noneDue_rejectDue {s : State} (p w : Nat) (a : SiltAct) (h b obj : Nat) (hd : s.slt.due = []) :
    noneDue (rejectDue h b obj (awaiting p w a (dropSnap h s))) =
      { s with snaps := s.snaps.filter (fun x => x.hdr != h), rep := (noneDue (rejectDue h b obj (awaiting p w a (dropSnap h s)))).rep } := by
  have hslt : ({ s.slt with due := [] } : Slt) = s.slt := by rw [← hd]
  exact congrArg (fun x : Slt => { s with snaps := s.snaps.filter (fun x => x.hdr != h), slt := x, rep := (rejectDue h b obj (awaiting p w a (dropSnap h s))).rep }) hslt

/-! The two units' commit points. -/

theorem detCommit_none {p : Nat} {s : State} (h : s.snapOf (hDet p) = none ∨ srRuns s p = false) : detCommit p s = s := by
  unfold detCommit
  split
  · rfl
  · rename_i ws hws
    rcases h with h | h
    · rw [h] at hws
      cases hws
    · rw [h]
      rfl

theorem detCommit_some {p : Nat} {ws : Tbl Nat} {s : State} (hs : s.snapOf (hDet p) = some ws) (hr : srRuns s p = true) :
    detCommit p s = commitAt p (nextFrameWord s p) (.det ws) (dropSnap (hDet p) s) := by
  rw [detCommit, hs]
  exact if_neg (by rw [hr]; decide)

theorem sltCommit_none {p : Nat} {s : State} (h : s.snapOf (hSlt p) = none ∨ srRuns s p = false) : sltCommit p s = s := by
  unfold sltCommit
  split
  · rfl
  · rename_i ws hws
    rcases h with h | h
    · rw [h] at hws
      cases hws
    · rw [h]
      rfl

theorem sltCommit_waits {p : Nat} {ws : Tbl Nat} {s : State} (hs : s.snapOf (hSlt p) = some ws) (hw : sltWaits p ws s = true) : sltCommit p s = s := by
  rw [sltCommit, hs]
  exact if_pos (by rw [hw, Bool.or_true])

theorem sltCommit_some {p : Nat} {ws : Tbl Nat} {s : State} (hs : s.snapOf (hSlt p) = some ws) (hr : srRuns s p = true) (hw : sltWaits p ws s = false) :
    sltCommit p s = commitAt p (nextFrameWord s p) (.slt ws) (dropSnap (hSlt p) s) := by
  rw [sltCommit, hs]
  exact if_neg (by rw [hr, hw]; decide)

theorem sltWaits_eq_false {p : Nat} {ws : Tbl Nat} {s : State} (h : (List.range 4).all (fun n => !planeChanged s (overlay s ws) p n || canSwap (s.plane p n)) = true) :
    sltWaits p ws s = false := by
  refine List.any_eq_false.mpr fun n hn => ?_
  have hall := List.all_eq_true.mp h n hn
  revert hall
  cases planeChanged s (overlay s ws) p n <;> cases canSwap (s.plane p n) <;> decide

/-! A unit whose snapshot is dropped and whose commit point is the only one that waits: what its check sees. -/

theorem sltWaits_awaiting (p w : Nat) (a : SiltAct) (h : Nat) (ws : Tbl Nat) (s : State) : sltWaits p ws (awaiting p w a (dropSnap h s)) = sltWaits p ws s := by
  rw [sltWaits, sltWaits, overlay_of_regs (s := s) (t := awaiting p w a (dropSnap h s)) ws rfl, overlay_setWord s]
  rfl

theorem detBad_awaiting (p w : Nat) (a : SiltAct) (h : Nat) (ws : Tbl Nat) (s : State) : detBad (overlay (awaiting p w a (dropSnap h s)) ws) p = detBad (overlay s ws) p := by
  rw [overlay_of_regs (s := s) (t := awaiting p w a (dropSnap h s)) ws rfl, overlay_setWord s]
  rfl

theorem sltBad_awaiting (p w : Nat) (a : SiltAct) (h : Nat) (ws : Tbl Nat) (s : State) :
    sltBad (awaiting p w a (dropSnap h s)) (overlay (awaiting p w a (dropSnap h s)) ws) p = sltBad s (overlay s ws) p := by
  rw [overlay_of_regs (s := s) (t := awaiting p w a (dropSnap h s)) ws rfl, overlay_setWord s]
  rfl

end Sys2Proof.Machine
end

section
/-! The record slots of a detector unit (R159): where they lie and what laying them out leaves. -/

namespace Sys2Proof.Machine

open Sys2Proof.Claims

/-- A trace's settings are what its three words say. -/
theorem traceSettings_congr {s t : State} {p j : Nat} (hcfg : t.wordN (R.DET_TR_CFG p j) = s.wordN (R.DET_TR_CFG p j)) (hmap : t.wordN (R.DET_TR_MAP p j) = s.wordN (R.DET_TR_MAP p j))
    (hstep : t.wordN (R.DET_TR_STEP p j) = s.wordN (R.DET_TR_STEP p j)) :
    trMap t p j = trMap s p j ∧ trEn t p j = trEn s p j ∧ trDet t p j = trDet s p j ∧ trBanks t p j = trBanks s p j := by
  have hc (m : Loc) (hm : m.off = R.DET_TR_CFG p j) : t.fld m = s.fld m := by rw [State.fld, State.fld, hm, hcfg]
  have hm (m : Loc) (hm : m.off = R.DET_TR_MAP p j) : t.fld m = s.fld m := by rw [State.fld, State.fld, hm, hmap]
  have htrMap : trMap t p j = trMap s p j := by
    rw [trMap, trMap, hm _ rfl, hm _ rfl, hc _ rfl, hstep]
  have htrEn : trEn t p j = trEn s p j := congrArg (· == 1) (hc _ rfl)
  exact ⟨htrMap, htrEn, hc _ rfl, by rw [trBanks, trBanks, htrMap, htrEn, hc (R.DET_TR_CFG_FMT p j) rfl]⟩

/-- One step of the layout: the slots of trace `t` lie from bank `acc.1` on. -/
def layStep (p : Nat) (acc : Nat × State) (t : Nat) : Nat × State :=
  (acc.1 + 2 * trBanks acc.2 p t, acc.2.setWord (R.DET_TR_SLOT p t) (if trBanks acc.2 p t = 0 then 0 else acc.1 + 65536 * trBanks acc.2 p t))

theorem laySlots_eq (p : Nat) (s : State) : laySlots p s = ((List.range 8).foldl (layStep p) (s.fld (R.DET_POOL_BASE p), s)).2 := rfl

theorem laySteps_eq (p : Nat) (l : List Nat) (acc : Nat × State) : (l.foldl (layStep p) acc).2 = { acc.2 with regs := (l.foldl (layStep p) acc).2.regs } :=
  List.foldlRecOn (motive := fun a : Nat × State => a.2 = { acc.2 with regs := a.2.regs }) l (layStep p) rfl fun a ha t _ =>
    congrArg (fun w : State => { w with regs := (layStep p a t).2.regs }) ha

theorem word_laySteps {p o : Nat} {l : List Nat} (h : ∀ t ∈ l, R.DET_TR_SLOT p t ≠ o) (acc : Nat × State) : (l.foldl (layStep p) acc).2.word o = acc.2.word o :=
  List.foldlRecOn (motive := fun a : Nat × State => a.2.word o = acc.2.word o) l (layStep p) rfl fun a ha t ht => (State.word_setWord_ne a.2 _ (h t ht)).trans ha

/-- Slots lie apart from the settings of the traces. -/
theorem trBanks_setSlot {p t : Nat} (s : State) (v j : Nat) : trBanks (s.setWord (R.DET_TR_SLOT p t) v) p j = trBanks s p j := by
  have hne (o : Nat) (ho : R.DET_TR_SLOT p t ≠ o) : (s.setWord (R.DET_TR_SLOT p t) v).wordN o = s.wordN o := congrArg BitVec.toNat (State.word_setWord_ne s v ho)
  refine (traceSettings_congr (hne _ ?_) (hne _ ?_) (hne _ ?_)).2.2.2
  · unfold R.DET_TR_SLOT R.DET_TR_CFG; omega
  · unfold R.DET_TR_SLOT R.DET_TR_MAP; omega
  · unfold R.DET_TR_SLOT R.DET_TR_STEP; omega

theorem fld_slotBanks {p t first : Nat} (s : State) {banks : Nat} (hf : first < 65536) (hb : banks < 2048) :
    (s.setWord (R.DET_TR_SLOT p t) (if banks = 0 then 0 else first + 65536 * banks)).fld (R.DET_TR_SLOT_BANKS p t) = banks := by
  have hword : (s.setWord (R.DET_TR_SLOT p t) (if banks = 0 then 0 else first + 65536 * banks)).wordN (R.DET_TR_SLOT p t) = if banks = 0 then 0 else first + 65536 * banks := by
    rw [State.wordN_setWord, if_pos rfl]
    split_ifs
    · rfl
    · omega
  have hbits : ∀ w, bits w 26 16 = w / 65536 % 2048 := fun _ => rfl
  refine (congrArg (bits · 26 16) hword).trans ?_
  rw [hbits]
  split_ifs
  · omega
  · omega

/-- Each trace of the list has its banks in SLOT_BANKS when all slots lie below bank 65,536. -/
theorem banks_laySteps {p j : Nat} {l : List Nat} (hnd : l.Nodup) (hj : j ∈ l) (n : Nat) (s : State)
    (hroom : n + 2 * (l.map (trBanks s p)).sum < 2048) : (l.foldl (layStep p) (n, s)).2.fld (R.DET_TR_SLOT_BANKS p j) = trBanks s p j := by
  induction l generalizing n s with
  | nil => exact absurd hj List.not_mem_nil
  | cons t l ih =>
    obtain ⟨htl, hnd'⟩ := List.nodup_cons.mp hnd
    rw [List.map_cons, List.sum_cons] at hroom
    rw [List.foldl_cons]
    rcases List.mem_cons.mp hj with rfl | hjl
    · have hother : ∀ u ∈ l, R.DET_TR_SLOT p u ≠ R.DET_TR_SLOT p j := fun u hu e => htl (by
        have huj : u = j := by unfold R.DET_TR_SLOT at e; omega
        exact huj ▸ hu)
      have hword := word_laySteps hother (layStep p (n, s) j)
      rw [State.fld, State.wordN, show (R.DET_TR_SLOT_BANKS p j).off = R.DET_TR_SLOT p j from rfl, hword]
      exact fld_slotBanks (first := n) (banks := trBanks s p j) s (by omega) (by omega)
    · have hbanks (u : Nat) : trBanks (layStep p (n, s) t).2 p u = trBanks s p u := trBanks_setSlot s _ u
      have hnext : n + 2 * trBanks s p t + 2 * (l.map (trBanks (layStep p (n, s) t).2 p)).sum < 2048 := by
        rw [funext hbanks]
        omega
      exact (ih hnd' hjl _ _ hnext).trans (hbanks j)

/-- The slots of settings that pass the check lie in the unit's banks. -/
theorem detBad_room {s : State} {p : Nat} (h : detBad s p = none) : s.fld (R.DET_POOL_BASE p) + 2 * ((List.range 8).map (trBanks s p)).sum ≤ 1280 := by
  unfold detBad at h
  extract_lets k need cnt at h
  split at h
  · cases h
  · split_ifs at h with hspg hneed
    rw [Bool.and_eq_true, decide_eq_true_eq, State.namesBanks, Bool.and_eq_true, decide_eq_true_eq] at hneed
    have hsum : ((List.range 8).map (trBanks s p)).sum = (List.range 8).foldl (fun a t => a + trBanks s p t) 0 := by
      rw [List.sum_eq_foldl, List.foldl_map]
    omega

theorem banks_laySlots {s : State} {p j : Nat} (hj : j < 8) (hroom : s.fld (R.DET_POOL_BASE p) + 2 * ((List.range 8).map (trBanks s p)).sum ≤ 1280) :
    (laySlots p s).fld (R.DET_TR_SLOT_BANKS p j) = trBanks s p j :=
  banks_laySteps List.nodup_range (List.mem_range.mpr hj) _ s (by omega)

/-- A claim of banks writes their owner words alone. -/
theorem word_poolClaim {o : Nat} (h b n : Nat) (s : State) (ho : ∀ i, R.POOL_OWNER i ≠ o) : (poolClaim h b n s).word o = s.word o :=
  List.foldlRecOn (motive := fun t : State => t.word o = s.word o) _ _ rfl fun t ht i _ => by
    have hset (v : Nat) : (t.setFld (R.POOL_OWNER_STATE i) v).word o = s.word o := (State.word_setFld_ne t v (ho i)).trans ht
    dsimp only
    split_ifs
    · exact hset 1
    · exact hset 2
    · exact ht
    · exact ht

theorem poolClaim_eq (h b n : Nat) (s : State) : poolClaim h b n s = { s with regs := (poolClaim h b n s).regs } :=
  List.foldlRecOn (motive := fun t : State => t = { s with regs := t.regs }) _ _ rfl fun t ht i _ => by
    have hset (v : Nat) : t.setFld (R.POOL_OWNER_STATE i) v = { s with regs := (t.setFld (R.POOL_OWNER_STATE i) v).regs } :=
      congrArg (fun w : State => { w with regs := (t.setFld (R.POOL_OWNER_STATE i) v).regs }) ht
    dsimp only
    split_ifs
    · exact hset 1
    · exact hset 2
    · exact ht
    · exact ht

end Sys2Proof.Machine
end

section
/-! The detector unit's commit point takes effect (R158, R159, R174, R177): open updates and the open tile end, the snapshot's words come into force, traces whose settings changed
restart, and the record slots are laid out. -/

namespace Sys2Proof.Machine

open Sys2Proof.Claims

/-- Of `s` and `t` only traces, streams, register words, reports, bytes of memory and what is noted of lost ranks differ. -/
def DetKept (s t : State) : Prop :=
  t = { s with slt := { s.slt with trace := t.slt.trace, spg := t.slt.spg }, regs := t.regs, rep := t.rep, mem := t.mem, poison := t.poison, rsv := t.rsv }

theorem DetKept.trans {s t u : State} (h : DetKept s t) (k : DetKept t u) : DetKept s u :=
  Eq.trans k (congrArg (fun w : State =>
    { w with slt := { w.slt with trace := u.slt.trace, spg := u.slt.spg }, regs := u.regs, rep := u.rep, mem := u.mem, poison := u.poison, rsv := u.rsv }) h)

theorem DetKept.of_eq {s t : State} (h : t = { s with regs := t.regs, rep := t.rep }) : DetKept s t :=
  h.trans (congrArg (fun w : State => { s with slt := { s.slt with trace := w.slt.trace, spg := w.slt.spg }, regs := t.regs, rep := t.rep, mem := w.mem, poison := w.poison, rsv := w.rsv }) h).symm

theorem detKept_setSpg (s : State) (p : Nat) (x : Spg) : DetKept s (s.setSpg p x) := rfl

theorem detKept_raise (s : State) (h b : Nat) : DetKept s (raise h b s) := rfl

theorem detKept_unitPoolWrite (u a : Nat) (bs : List Byte) (s : State) : DetKept s (unitPoolWrite u a bs s) := by
  have h := unitPoolWrite_eq u a bs s
  have hslt : (unitPoolWrite u a bs s).slt = s.slt := by rw [h]
  have hregs : (unitPoolWrite u a bs s).regs = s.regs := by rw [h]
  have hrep : (unitPoolWrite u a bs s).rep = s.rep := by rw [h]
  rw [DetKept, hslt, hregs, hrep]
  exact h

/-! Updates that end. -/

/-- The open updates of the traces in use end. -/
def endUpdates (p : Nat) (s : State) : State := (List.range 8).foldl (fun s t => if trEn s p t then endUpdate p t s else s) s

theorem endUpdate_eq (p t : Nat) (s : State) : endUpdate p t s = { s with slt := { s.slt with trace := (endUpdate p t s).slt.trace } } := by
  unfold endUpdate
  extract_lets x
  split
  · rfl
  · rfl

theorem trace_endUpdate_ne {p t j : Nat} (s : State) (h : t ≠ j) : (endUpdate p t s).trace p j = s.trace p j := by
  unfold endUpdate
  extract_lets x
  split
  · rfl
  · exact trace_setTrace_ne s _ (by omega)

theorem frames_endUpdate (p t : Nat) (s : State) : ((endUpdate p t s).trace p t).frames = 0 := by
  unfold endUpdate
  extract_lets x
  split
  · assumption
  · exact congrArg Trace.frames (trace_setTrace_same ..)

theorem endUpdates_eq (p : Nat) (s : State) : endUpdates p s = { s with slt := { s.slt with trace := (endUpdates p s).slt.trace } } :=
  foldl_traces_eq s _ fun t x _ => by
    split
    · exact endUpdate_eq p x t
    · rfl

theorem frames_endUpdates {p j : Nat} {s : State} (hj : j < 8) (hen : trEn s p j = true) : ((endUpdates p s).trace p j).frames = 0 := by
  refine foldl_establishes (I := fun t => t.regs = s.regs) (P := fun t => (t.trace p j).frames = 0) (List.mem_range.mpr hj) (fun t x _ ht => ?_) (fun t ht => ?_)
    (fun t x _ _ hf => ?_) rfl
  · split
    · rw [endUpdate_eq]
      exact ht
    · exact ht
  · have hent : trEn t p j = true := (congrArg (· == 1) (State.fld_congr ht _)).trans hen
    rw [if_pos hent]
    exact frames_endUpdate p j t
  · split
    · by_cases hx : x = j
      · rw [hx]
        exact frames_endUpdate p j t
      · rw [trace_endUpdate_ne t hx]
        exact hf
    · exact hf

/-! The tile that ends. -/

/-- The stream's line and tile are empty after it; a tile that had lines is dropped with an event, or its header is written with another. -/
theorem endTile_cases (p : Nat) (s : State) : ∃ y : Spg, y.lines = [] ∧
    (endTile p s = s.setSpg p y ∨ endTile p s = raise (hDet p) 10 ((s.setSpg p y).bump64 (R.DET_SPG_TDROP p) 1) ∨
      ∃ a bs, endTile p s = raise (hDet p) 8 (unitPoolWrite (hDet p) a bs (s.setSpg p y))) := by
  unfold endTile
  extract_lets x y m head bytes seq a
  split
  · exact ⟨y, rfl, .inl rfl⟩
  · split
    · exact ⟨{ y with seq := seq }, rfl, .inr (.inl rfl)⟩
    · exact ⟨{ y with seq := seq, writing := some (a, bytes), buf := 1 - x.buf }, rfl, .inr (.inr ⟨a, head, rfl⟩)⟩

/-- Of `s` and `t` only streams, the drop count of port `p`'s tiles, reports and bytes in the unit's own banks differ. -/
structure TileStep (p : Nat) (s t : State) : Prop where
  kept : DetKept s t
  trace : t.slt.trace = s.slt.trace
  words : WordsKept s t [R.DET_SPG_TDROP p, R.DET_SPG_TDROP p + 4]
  mem : ∀ a, memGet t.mem a ≠ memGet s.mem a → InOwnBanks (hDet p) s a

namespace TileStep

variable {p : Nat} {s t : State}

theorem trans {u : State} (hp : p < 4) (h : TileStep p s t) (k : TileStep p t u) : TileStep p s u where
  kept := h.kept.trans k.kept
  trace := k.trace.trans h.trace
  words := wordsKept_step h.words k.words
  mem a hne := by
    have hbank (b : Nat) : R.POOL_OWNER b ∉ [R.DET_SPG_TDROP p, R.DET_SPG_TDROP p + 4] := by
      simp only [R.POOL_OWNER, R.DET_SPG_TDROP, List.mem_cons, List.not_mem_nil, or_false]
      omega
    by_cases ht : memGet u.mem a = memGet t.mem a
    · exact h.mem a (ht ▸ hne)
    · exact (ownsBanks_of_kept h.words hbank ..).symm.trans (k.mem a ht)

theorem setSpg (x : Spg) : TileStep p s (s.setSpg p x) := ⟨rfl, rfl, fun _ _ => rfl, fun _ hne => absurd rfl hne⟩

theorem raise (b : Nat) : TileStep p s (raise (hDet p) b s) := ⟨detKept_raise .., rfl, fun _ _ => rfl, fun _ hne => absurd rfl hne⟩

theorem dropped : TileStep p s (s.bump64 (R.DET_SPG_TDROP p) 1) := ⟨.of_eq rfl, rfl, wordsKept_bump64 s _ 1, fun _ hne => absurd rfl hne⟩

theorem unitPoolWrite (a : Nat) (bs : List Byte) : TileStep p s (unitPoolWrite (hDet p) a bs s) :=
  ⟨detKept_unitPoolWrite .., by rw [unitPoolWrite_eq], wordsKept_of_regs (by rw [unitPoolWrite_eq]), fun _ hne => ownsBanks_of_unitPoolWrite hne⟩

end TileStep

theorem endTile_spec {p : Nat} (hp : p < 4) (s : State) : TileStep p s (endTile p s) ∧ ((endTile p s).spg p).lines = [] := by
  obtain ⟨y, hy, h⟩ := endTile_cases p s
  have hlines : ((s.setSpg p y).spg p).lines = [] := by rw [spg_setSpg_same, hy]
  obtain h | h | ⟨a, bs, h⟩ := h
  · rw [h]
    exact ⟨.setSpg y, hlines⟩
  · rw [h]
    exact ⟨((TileStep.setSpg y).trans hp .dropped).trans hp (.raise 10), (congrArg Spg.lines (spg_congr (raise_slt ..) p)).trans hlines⟩
  · have hslt : (unitPoolWrite (hDet p) a bs (s.setSpg p y)).slt = (s.setSpg p y).slt := by rw [unitPoolWrite_eq]
    rw [h]
    exact ⟨((TileStep.setSpg y).trans hp (.unitPoolWrite a bs)).trans hp (.raise 8), (congrArg Spg.lines (spg_congr ((raise_slt ..).trans hslt) p)).trans hlines⟩

/-! Traces that restart. -/

/-- The traces restart for which `keep` does not hold. -/
def restartTraces (p : Nat) (keep : Nat → Bool) (s : State) : State := (List.range 8).foldl (fun a t => if keep t then a else restartTrace p t a) s

theorem restartTraces_eq (p : Nat) (keep : Nat → Bool) (s : State) :
    restartTraces p keep s = { s with slt := { s.slt with trace := (restartTraces p keep s).slt.trace } } :=
  foldl_traces_eq s _ fun t x _ => by
    split
    · rfl
    · rfl

theorem trace_restartTrace_same (p t : Nat) (s : State) : (restartTrace p t s).trace p t = restarted (trRunAvg s p t) (s.trace p t) := trace_setTrace_same ..

theorem trace_restartTrace_ne {p t j : Nat} (s : State) (h : t ≠ j) : (restartTrace p t s).trace p j = s.trace p j := trace_setTrace_ne s _ (by omega)

theorem frames_restartTraces {p j : Nat} (keep : Nat → Bool) {s : State} (h : (s.trace p j).frames = 0) : ((restartTraces p keep s).trace p j).frames = 0 :=
  List.foldlRecOn (motive := fun t : State => (t.trace p j).frames = 0) _ _ h fun t ht x _ => by
    split
    · exact ht
    · by_cases hx : x = j
      · rw [hx, trace_restartTrace_same]
        exact ite_eq_iff.mpr (by rw [ht]; tauto)
      · rw [trace_restartTrace_ne t hx]
        exact ht

theorem hold_restartTraces {p j : Nat} {keep : Nat → Bool} (s : State) (hj : j < 8) (h : keep j = false) :
    ((restartTraces p keep s).trace p j).run = none ∧ ((restartTraces p keep s).trace p j).hold = none := by
  refine foldl_establishes (I := fun _ => True) (P := fun t => (t.trace p j).run = none ∧ (t.trace p j).hold = none) (List.mem_range.mpr hj) (fun _ _ _ _ => trivial)
    (fun t _ => ?_) (fun t x _ _ hp => ?_) trivial
  · rw [h, if_neg (by decide), trace_restartTrace_same]
    exact ⟨rfl, rfl⟩
  · split
    · exact hp
    · by_cases hx : x = j
      · rw [hx, trace_restartTrace_same]
        exact ⟨rfl, rfl⟩
      · rw [trace_restartTrace_ne t hx]
        exact hp

/-! The commit point. -/

/-- The state before the new layout: updates and tile ended, the snapshot's words in force, changed traces restarted. -/
def detChanged (p : Nat) (ws : Tbl Nat) (s : State) : State :=
  restartTraces p (fun t => traceKey s p t == traceKey (overlay s ws) p t) (overlay (endTile p (endUpdates p s)) ws)

/-- The layout of the slots and the claim of the unit's banks. -/
def detLaid (p : Nat) (s : State) : State := poolClaim (hDet p) (s.fld (R.DET_POOL_BASE p)) (s.fld (R.DET_POOL_COUNT p)) (laySlots p s)

theorem applyDet_rejected {p i : Nat} {ws : Tbl Nat} {s : State} (h : detBad (overlay s ws) p = some i) : applyDet p ws s = rejectDue (hDet p) 11 i s := by
  unfold applyDet
  extract_lets
  rw [h]

theorem applyDet_accepted {p : Nat} {ws : Tbl Nat} {s : State} (h : detBad (overlay s ws) p = none) :
    applyDet p ws s = mapFaults p (clearFault (hDet p) 1 (detLaid p (detChanged p ws s))) := by
  unfold applyDet
  extract_lets
  rw [h]
  rfl

theorem mapFaults_eq (p : Nat) (s : State) : mapFaults p s = { s with rep := (mapFaults p s).rep } := by
  unfold mapFaults
  extract_lets k bad det slt
  have hput (h b : Nat) (v : Bool) (t : State) : putFault h b v t = { t with rep := (putFault h b v t).rep } := by
    unfold putFault setFault
    split_ifs <;> rfl
  rw [hput, hput (hDet p)]

/-- The faults that a commit point clears stay clear. -/
theorem faultBit_mapFaults {p h b : Nat} (s : State) (hs : h ≠ hSlt p ∨ b ≠ 1) (hd : h ≠ hDet p ∨ b ≠ 0) : (mapFaults p s).faultBit h b = s.faultBit h b := by
  unfold mapFaults
  extract_lets k bad det slt
  rw [faultBit_putFault, faultBit_putFault, if_neg (by tauto), if_neg (by tauto)]

/-- Of the words of the traces a snapshot leaves what it would have left without the tile that ended. -/
theorem word_overlay_congr {s t : State} {o : Nat} (ws : Tbl Nat) (h : t.word o = s.word o) : (overlay t ws).word o = (overlay s ws).word o := by
  unfold overlay
  induction ws generalizing s t with
  | nil => exact h
  | cons e ws ih =>
    rw [List.foldl_cons, List.foldl_cons]
    refine ih ?_
    dsimp only
    rw [State.word_setWord, State.word_setWord]
    split_ifs with he
    · rw [State.wordN, State.wordN, he, h]
    · exact h

theorem word_detChanged {p o : Nat} (hp : p < 4) (ws : Tbl Nat) (s : State) (h : o ∉ [R.DET_SPG_TDROP p, R.DET_SPG_TDROP p + 4]) : (detChanged p ws s).word o = (overlay s ws).word o := by
  have hupd : (endUpdates p s).regs = s.regs := by rw [endUpdates_eq]
  have hrest : (detChanged p ws s).regs = (overlay (endTile p (endUpdates p s)) ws).regs := by rw [detChanged, restartTraces_eq]
  obtain ⟨htile, -⟩ := endTile_spec hp (endUpdates p s)
  exact (State.word_congr hrest o).trans (word_overlay_congr ws ((htile.words o h).trans (State.word_congr hupd o)))

theorem word_detLaid {p o : Nat} (s : State) (hs : ∀ t, R.DET_TR_SLOT p t ≠ o) (ho : ∀ i, R.POOL_OWNER i ≠ o) : (detLaid p s).word o = s.word o :=
  (word_poolClaim _ _ _ _ ho).trans (word_laySteps (fun t _ => hs t) _)

theorem detLaid_eq (p : Nat) (s : State) : detLaid p s = { s with regs := (detLaid p s).regs } :=
  (poolClaim_eq ..).trans (congrArg (fun w : State => { w with regs := (detLaid p s).regs }) (laySteps_eq ..))

end Sys2Proof.Machine
end

section
/-! What the detector unit's commit point leaves (R158, R159, R174, R177). -/

namespace Sys2Proof.Machine

open Sys2Proof.Claims

variable {p j : Nat} {ws : Tbl Nat} {s : State}

theorem detLaid_kept (p : Nat) (s : State) : (detLaid p s).slt = s.slt ∧ (detLaid p s).mem = s.mem ∧ (detLaid p s).snaps = s.snaps := by
  rw [detLaid_eq]
  exact ⟨rfl, rfl, rfl⟩

/-- The end of the commit point touches reports alone. -/
theorem mapFaults_kept (p : Nat) (s : State) : (mapFaults p s).regs = s.regs ∧ (mapFaults p s).slt = s.slt ∧ (mapFaults p s).mem = s.mem ∧ (mapFaults p s).snaps = s.snaps := by
  rw [mapFaults_eq]
  exact ⟨rfl, rfl, rfl, rfl⟩

theorem applyDet_regs (h : detBad (overlay s ws) p = none) : (applyDet p ws s).regs = (detLaid p (detChanged p ws s)).regs := by
  rw [applyDet_accepted h, (mapFaults_kept ..).1, clearFault_regs]

theorem applyDet_slt (h : detBad (overlay s ws) p = none) : (applyDet p ws s).slt = (detChanged p ws s).slt := by
  rw [applyDet_accepted h, (mapFaults_kept ..).2.1, clearFault_slt, (detLaid_kept ..).1]

theorem applyDet_mem (h : detBad (overlay s ws) p = none) : (applyDet p ws s).mem = (detChanged p ws s).mem := by
  rw [applyDet_accepted h, (mapFaults_kept ..).2.2.1, clearFault_mem, (detLaid_kept ..).2.1]

theorem applyDet_snaps (h : detBad (overlay s ws) p = none) : (applyDet p ws s).snaps = (detChanged p ws s).snaps := by
  rw [applyDet_accepted h, (mapFaults_kept ..).2.2.2, clearFault_snaps, (detLaid_kept ..).2.2]

theorem restartTraces_overlay_eq (p : Nat) (keep : Nat → Bool) (ws : Tbl Nat) (u : State) : restartTraces p keep (overlay u ws) =
    { u with slt := { u.slt with trace := (restartTraces p keep (overlay u ws)).slt.trace }, regs := (overlay u ws).regs } :=
  (restartTraces_eq p keep (overlay u ws)).trans
    (congrArg (fun w : State => { w with slt := { w.slt with trace := (restartTraces p keep (overlay u ws)).slt.trace } }) (overlay_setWord u ws))

/-- The snapshot's words and the restart of traces leave the rest as the tile's end left it. -/
theorem detChanged_kept (p : Nat) (ws : Tbl Nat) (s : State) :
    (detChanged p ws s).slt.spg = (endTile p (endUpdates p s)).slt.spg ∧ (detChanged p ws s).slt.plane = (endTile p (endUpdates p s)).slt.plane ∧
    (detChanged p ws s).mem = (endTile p (endUpdates p s)).mem ∧ (detChanged p ws s).snaps = (endTile p (endUpdates p s)).snaps := by
  rw [detChanged]
  generalize endTile p (endUpdates p s) = u
  rw [restartTraces_overlay_eq]
  exact ⟨rfl, rfl, rfl, rfl⟩

/-- The words of the traces' settings and of the Pool banks are those of the snapshot. -/
theorem word_applyDet {o : Nat} (hp : p < 4) (h : detBad (overlay s ws) p = none) (hd : o ∉ [R.DET_SPG_TDROP p, R.DET_SPG_TDROP p + 4]) (hs : ∀ t, R.DET_TR_SLOT p t ≠ o)
    (ho : ∀ i, R.POOL_OWNER i ≠ o) : (applyDet p ws s).word o = (overlay s ws).word o :=
  (State.word_congr (applyDet_regs h) o).trans ((word_detLaid _ hs ho).trans (word_detChanged hp ws s hd))

/-- Where the words of a trace's settings lie. -/
theorem traceWord_apart {o : Nat} (hp : p < 4) (hj : j < 8) (ho : o = R.DET_TR_CFG p j ∨ o = R.DET_TR_MAP p j ∨ o = R.DET_TR_STEP p j) :
    o ∉ [R.DET_SPG_TDROP p, R.DET_SPG_TDROP p + 4] ∧ (∀ t, R.DET_TR_SLOT p t ≠ o) ∧ ∀ i, R.POOL_OWNER i ≠ o := by
  simp only [R.DET_TR_CFG, R.DET_TR_MAP, R.DET_TR_STEP, R.DET_SPG_TDROP, R.DET_TR_SLOT, R.POOL_OWNER, List.mem_cons, List.not_mem_nil, or_false] at ho ⊢
  exact ⟨by omega, fun t => by omega, fun i => by omega⟩

theorem traceSettings_applyDet (hp : p < 4) (hj : j < 8) (h : detBad (overlay s ws) p = none) :
    trMap (applyDet p ws s) p j = trMap (overlay s ws) p j ∧ trEn (applyDet p ws s) p j = trEn (overlay s ws) p j ∧ trDet (applyDet p ws s) p j = trDet (overlay s ws) p j := by
  have hword (o : Nat) (ho : o = R.DET_TR_CFG p j ∨ o = R.DET_TR_MAP p j ∨ o = R.DET_TR_STEP p j) : (applyDet p ws s).wordN o = (overlay s ws).wordN o := by
    obtain ⟨hd, hs, ho⟩ := traceWord_apart hp hj ho
    exact congrArg BitVec.toNat (word_applyDet hp h hd hs ho)
  obtain ⟨hmap, hen, hdet, -⟩ := traceSettings_congr (hword _ (.inl rfl)) (hword _ (.inr (.inl rfl))) (hword _ (.inr (.inr rfl)))
  exact ⟨hmap, hen, hdet⟩

theorem banks_applyDet (hp : p < 4) (hj : j < 8) (h : detBad (overlay s ws) p = none) : (applyDet p ws s).fld (R.DET_TR_SLOT_BANKS p j) = trBanks (overlay s ws) p j := by
  have hbanks (t : Nat) (ht : t < 8) : trBanks (detChanged p ws s) p t = trBanks (overlay s ws) p t := by
    have hword (o : Nat) (ho : o = R.DET_TR_CFG p t ∨ o = R.DET_TR_MAP p t ∨ o = R.DET_TR_STEP p t) : (detChanged p ws s).wordN o = (overlay s ws).wordN o :=
      congrArg BitVec.toNat (word_detChanged hp ws s (traceWord_apart hp ht ho).1)
    exact (traceSettings_congr (hword _ (.inl rfl)) (hword _ (.inr (.inl rfl))) (hword _ (.inr (.inr rfl)))).2.2.2
  have hbase : (detChanged p ws s).fld (R.DET_POOL_BASE p) = (overlay s ws).fld (R.DET_POOL_BASE p) := by
    have hword : (detChanged p ws s).word (R.DET_POOL p) = (overlay s ws).word (R.DET_POOL p) := word_detChanged hp ws s (by
      simp only [R.DET_POOL, R.DET_SPG_TDROP, List.mem_cons, List.not_mem_nil, or_false]
      omega)
    exact congrArg (fun w : Word => bits w.toNat 10 0) hword
  have hroom : (detChanged p ws s).fld (R.DET_POOL_BASE p) + 2 * ((List.range 8).map (trBanks (detChanged p ws s) p)).sum ≤ 1280 := by
    rw [hbase, List.map_congr_left fun t ht => hbanks t (List.mem_range.mp ht)]
    exact detBad_room h
  have hslot : (applyDet p ws s).word (R.DET_TR_SLOT p j) = (laySlots p (detChanged p ws s)).word (R.DET_TR_SLOT p j) :=
    (State.word_congr (applyDet_regs h) _).trans (word_poolClaim _ _ _ _ fun i => by unfold R.POOL_OWNER R.DET_TR_SLOT; omega)
  exact (congrArg (fun w : Word => bits w.toNat 26 16) hslot).trans ((banks_laySlots hj hroom).trans (hbanks j hj))

theorem faultBit_applyDet (h : detBad (overlay s ws) p = none) : (applyDet p ws s).faultBit (hDet p) 1 = false := by
  rw [applyDet_accepted h, faultBit_mapFaults _ (.inl (by unfold hDet hSlt; omega)) (.inr (by decide)), faultBit_clearFault, if_pos ⟨rfl, rfl⟩]

/-- The traces before the changed ones restart. -/
theorem trace_beforeRestart (hp : p < 4) : (overlay (endTile p (endUpdates p s)) ws).trace p j = (endUpdates p s).trace p j := by
  have h : (overlay (endTile p (endUpdates p s)) ws).slt.trace = (endUpdates p s).slt.trace := by
    rw [overlay_slt]
    exact (endTile_spec hp (endUpdates p s)).1.trace
  exact congrArg (fun x => Tbl.get Trace.init x (8 * p + j)) h

theorem frames_applyDet (hp : p < 4) (hj : j < 8) (h : detBad (overlay s ws) p = none) (hen : trEn s p j = true) : ((applyDet p ws s).trace p j).frames = 0 := by
  rw [trace_congr (applyDet_slt h), detChanged]
  refine frames_restartTraces _ ?_
  rw [trace_beforeRestart hp]
  exact frames_endUpdates hj hen

theorem hold_applyDet (hj : j < 8) (h : detBad (overlay s ws) p = none) (hk : traceKey s p j ≠ traceKey (overlay s ws) p j) :
    ((applyDet p ws s).trace p j).run = none ∧ ((applyDet p ws s).trace p j).hold = none := by
  rw [trace_congr (applyDet_slt h)]
  exact hold_restartTraces _ hj (beq_false_of_ne hk)

theorem lines_applyDet (hp : p < 4) (h : detBad (overlay s ws) p = none) : ((applyDet p ws s).spg p).lines = [] := by
  have hspg : (applyDet p ws s).slt.spg = (endTile p (endUpdates p s)).slt.spg := by rw [applyDet_slt h, (detChanged_kept p ws s).1]
  exact (congrArg (fun x => (Tbl.get Spg.init x p).lines) hspg).trans (endTile_spec hp _).2

theorem detKept_endTile (hp : p < 4) : DetKept s (endTile p (endUpdates p s)) := by
  have h : DetKept s (endUpdates p s) := by
    have hu := endUpdates_eq p s
    have hrest : (endUpdates p s).slt.spg = s.slt.spg ∧ (endUpdates p s).regs = s.regs ∧ (endUpdates p s).rep = s.rep ∧ (endUpdates p s).mem = s.mem ∧
        (endUpdates p s).poison = s.poison ∧ (endUpdates p s).rsv = s.rsv := by
      rw [hu]
      exact ⟨rfl, rfl, rfl, rfl, rfl, rfl⟩
    obtain ⟨h1, h2, h3, h4, h5, h6⟩ := hrest
    rw [DetKept, h1, h2, h3, h4, h5, h6]
    exact hu
  exact h.trans (endTile_spec hp _).1.kept

theorem mem_applyDet {a : Nat} (hp : p < 4) (h : detBad (overlay s ws) p = none) (hne : memGet (applyDet p ws s).mem a ≠ memGet s.mem a) :
    s.ownsBanks (hDet p) ((a - poolBase) / bankBytes) 1 = true := by
  have hmem : (applyDet p ws s).mem = (endTile p (endUpdates p s)).mem := by rw [applyDet_mem h, (detChanged_kept p ws s).2.2.1]
  have hupd : (endUpdates p s).mem = s.mem ∧ (endUpdates p s).regs = s.regs := by
    rw [endUpdates_eq]
    exact ⟨rfl, rfl⟩
  have hbanks := (endTile_spec hp (endUpdates p s)).1.mem a (by rw [← hmem, hupd.1]; exact hne)
  exact (ownsBanks_of_kept (ws := []) (wordsKept_of_regs hupd.2) (fun _ => List.not_mem_nil) ..).symm.trans hbanks

/-- The planes and the pending snapshots stay. -/
theorem kept_applyDet (hp : p < 4) (h : detBad (overlay s ws) p = none) : (applyDet p ws s).slt.plane = s.slt.plane ∧ (applyDet p ws s).snaps = s.snaps := by
  have hk := detKept_endTile (s := s) hp
  have hplane : (endTile p (endUpdates p s)).slt.plane = s.slt.plane := by rw [hk]
  have hsnaps : (endTile p (endUpdates p s)).snaps = s.snaps := by rw [hk]
  obtain ⟨-, hplane', -, hsnaps'⟩ := detChanged_kept p ws s
  exact ⟨(congrArg Slt.plane (applyDet_slt h)).trans (hplane'.trans hplane), (applyDet_snaps h).trans (hsnaps'.trans hsnaps)⟩

end Sys2Proof.Machine
end

section
/-! The silt unit's commit point takes effect (R177, R179): planes that it disables, enables, swaps or gives new settings. -/

namespace Sys2Proof.Machine

open Sys2Proof.Claims

/-- Of `s` and `t` only planes and reports differ. -/
def PlanesKept (s t : State) : Prop := t = { s with slt := { s.slt with plane := t.slt.plane }, rep := t.rep }

theorem PlanesKept.trans {s t u : State} (h : PlanesKept s t) (k : PlanesKept t u) : PlanesKept s u :=
  Eq.trans k (congrArg (fun w : State => { w with slt := { w.slt with plane := u.slt.plane }, rep := u.rep }) h)

/-- A step that leaves plane `n` of port `p` as `y` and, of the rest, other reports alone. -/
structure PlaneStep (p n : Nat) (y : Plane) (s t : State) : Prop where
  kept : PlanesKept s t
  own : t.plane p n = y
  other : ∀ k, k ≠ n → t.plane p k = s.plane p k
  rep : RepFrame [] [(hSlt p, n)] [] s t

namespace PlaneStep

variable {p n : Nat} {x y : Plane} {s t u : State}

theorem none (s : State) : PlaneStep p n (s.plane p n) s s := ⟨rfl, rfl, fun _ _ => rfl, .refl ..⟩

theorem setPlane (y : Plane) (s : State) : PlaneStep p n y s (s.setPlane p n y) := ⟨rfl, plane_setPlane_same .., fun _ hk => plane_setPlane_ne s y (by omega), .of_rep rfl⟩

theorem trans (h : PlaneStep p n x s t) (k : PlaneStep p n y t u) : PlaneStep p n y s u :=
  ⟨h.kept.trans k.kept, k.own, fun q hq => (k.other q hq).trans (h.other q hq), (h.rep.trans k.rep).mono (by simp) (by simp) (by simp)⟩

theorem fillBuf (p n : Nat) (s : State) : PlaneStep p n (planeFilled s.memDeg (s.plane p n)) s (fillBuf p n s) := by
  rw [fillBuf_eq]
  have h := PlaneStep.setPlane (p := p) (n := n) (planeFilled s.memDeg (s.plane p n)) s
  exact ⟨h.kept.trans rfl, h.own, h.other, (h.rep.trans (raise_frame ..)).mono (by simp) (by simp) (by simp)⟩

theorem swapBufs (p n : Nat) (s : State) : PlaneStep p n (planeSwapped s p n (s.plane p n)) s (swapBufs p n s) := by
  rw [swapBufs_eq]
  exact (PlaneStep.fillBuf p n s).trans (.setPlane ..)

end PlaneStep

/-! One plane. -/

/-- The plane out of use. -/
def planeStopped (x : Plane) : Plane := { x with on := false, susp := false, clearing := 0, decaying := false }

/-- The plane out of use, whose LIVE buffer is now FULL if it counted. -/
def planeDisabled (deg : Nat) (x : Plane) : Plane := planeStopped (if x.on then planeFilled deg x else x)

/-- The state before the plane is out of use: its LIVE buffer is FULL if it counted. -/
def fillCounting (p n : Nat) (s : State) : State := if (s.plane p n).on then fillBuf p n s else s

/-- The plane that starts with its buffers CLEARING. -/
def planeEnabled (s : State) (p n : Nat) (x : Plane) : Plane :=
  { x with
    b0 := newBuf s p n .clearing x.seq, b1 := if plDbuf (s.wordN (R.SLT_PL_CFG p n)) then newBuf s p n .clearing x.seq else PBuf.init
    live := 0, on := false, susp := false, clearing := if plDbuf (s.wordN (R.SLT_PL_CFG p n)) then 3 else 1, ovr := false, swap := false
    decaying := false, counted := 0, decayAt := 0 }

/-- The plane that counts on under new settings. -/
def planeResumed (s : State) (p n : Nat) (x : Plane) : Plane :=
  let b := newBuf s p n .live x.seq
  x.setBuf x.live { x.liveBuf with cfg := b.cfg, map := b.map, step := b.step, row := b.row }

/-- What a commit point makes of plane `x`; the settings are those of `old` before it and of `new` after it. -/
def planeCommitted (old new : State) (p n : Nat) (x : Plane) : Plane :=
  if plEn old p n && !plEn new p n then planeDisabled new.memDeg x
  else if !plEn old p n && plEn new p n then planeEnabled new p n x
  else if planeChanged old new p n then planeSwapped new p n x
  else if x.on then planeResumed new p n x
  else x

theorem planeCommit_eq (old : State) (p n : Nat) (s : State) : planeCommit old p n s =
    if plEn old p n && !plEn s p n then (fillCounting p n s).setPlane p n (planeStopped ((fillCounting p n s).plane p n))
    else if !plEn old p n && plEn s p n then s.setPlane p n (planeEnabled s p n (s.plane p n))
    else if planeChanged old s p n then swapBufs p n s
    else if (s.plane p n).on then s.setPlane p n (planeResumed s p n (s.plane p n))
    else s := rfl

theorem PlaneStep.fillCounting (p n : Nat) (s : State) : PlaneStep p n (if (s.plane p n).on then planeFilled s.memDeg (s.plane p n) else s.plane p n) s (fillCounting p n s) := by
  unfold Machine.fillCounting
  split_ifs
  · exact .fillBuf ..
  · exact .none s

theorem planeCommit_step (old : State) (p n : Nat) (s : State) : PlaneStep p n (planeCommitted old s p n (s.plane p n)) s (planeCommit old p n s) := by
  rw [planeCommit_eq, planeCommitted]
  split_ifs
  · rw [planeDisabled, ← (PlaneStep.fillCounting p n s).own]
    exact (PlaneStep.fillCounting p n s).trans (.setPlane ..)
  · exact .setPlane ..
  · exact .swapBufs ..
  · exact .setPlane ..
  · exact .none s

/-- A plane that counted is reported FULL when it is disabled. -/
theorem raised_planeCommit {old s : State} {p n : Nat} (hold : plEn old p n = true) (hnew : plEn s p n = false) (hon : (s.plane p n).on = true) : Raised (hSlt p) n (planeCommit old p n s) := by
  have hfill : fillCounting p n s = fillBuf p n s := if_pos hon
  rw [planeCommit_eq, hold, hnew, Bool.not_false, Bool.and_true, if_pos rfl, hfill, fillBuf_eq]
  exact raise_raised ..

/-- A plane's settings are read from the register words. -/
theorem planeCommitted_congr {old s t : State} (h : t.regs = s.regs) (p n : Nat) (x : Plane) : planeCommitted old t p n x = planeCommitted old s p n x :=
  congrArg (fun r => planeCommitted old { s with regs := r } p n x) h

theorem planeCommitted_disabled {old new : State} {p n : Nat} {x : Plane} (hold : plEn old p n = true) (hnew : plEn new p n = false) :
    planeCommitted old new p n x = planeDisabled new.memDeg x := by
  rw [planeCommitted, hold, hnew]
  rfl

theorem planeCommitted_enabled {old new : State} {p n : Nat} {x : Plane} (hold : plEn old p n = false) (hnew : plEn new p n = true) :
    planeCommitted old new p n x = planeEnabled new p n x := by
  rw [planeCommitted, hold, hnew]
  rfl

theorem planeCommitted_changed {old new : State} {p n : Nat} {x : Plane} (h : planeChanged old new p n = true) : planeCommitted old new p n x = planeSwapped new p n x := by
  have hen : plEn old p n = true ∧ plEn new p n = true := by
    simp only [planeChanged, Bool.and_eq_true] at h
    exact h.1.1
  rw [planeCommitted, hen.1, hen.2, h]
  rfl

/-- The LIVE buffer of a counting plane keeps its counters when the plane is disabled. -/
theorem buf_planeDisabled {x : Plane} (deg : Nat) (hon : x.on = true) : (planeDisabled deg x).buf x.live = { x.liveBuf with st := .full, psw := x.liveBuf.psw ||| deg } := by
  rw [planeDisabled, if_pos hon]
  exact buf_planeFilled deg x

/-! All planes of the port. -/

/-- The planes of port `p` at a commit point, the new settings in force. -/
def commitPlanes (old : State) (p : Nat) (s : State) : State := (List.range 4).foldl (fun a n => planeCommit old p n a) s

theorem commitPlanes_kept (old : State) (p : Nat) (s : State) : PlanesKept s (commitPlanes old p s) :=
  List.foldlRecOn (motive := PlanesKept s) _ _ rfl fun t ht n _ => ht.trans (planeCommit_step old p n t).kept

theorem PlanesKept.regs {s t : State} (h : PlanesKept s t) : t.regs = s.regs := by rw [h]

theorem plane_commitPlanes {p m : Nat} (old s : State) (hm : m < 4) : (commitPlanes old p s).plane p m = planeCommitted old s p m (s.plane p m) :=
  get_foldl_once (get := fun t => t.plane p m) (g := planeCommitted old s p m) (I := fun t => t.regs = s.regs) List.nodup_range (List.mem_range.mpr hm)
    (fun t n _ ht => (planeCommit_step old p n t).kept.regs.trans ht) (fun t ht => (planeCommit_step old p m t).own.trans (planeCommitted_congr ht ..))
    (fun t n _ hn => (planeCommit_step old p n t).other m hn.symm) rfl

theorem raised_commitPlanes {old s : State} {p m : Nat} (hm : m < 4) (hold : plEn old p m = true) (hnew : plEn s p m = false) (hon : (s.plane p m).on = true) :
    Raised (hSlt p) m (commitPlanes old p s) := by
  have hown (t : State) (ht : t.regs = s.regs ∧ (Raised (hSlt p) m t ∨ (t.plane p m).on = true)) : Raised (hSlt p) m (planeCommit old p m t) := by
    obtain ⟨hregs, hr | hon⟩ := ht
    · exact hr.kept (planeCommit_step old p m t).rep
    · exact raised_planeCommit hold ((flag_congr hregs _).trans hnew) hon
  refine foldl_establishes (I := fun t => t.regs = s.regs ∧ (Raised (hSlt p) m t ∨ (t.plane p m).on = true)) (P := Raised (hSlt p) m) (List.mem_range.mpr hm) (fun t n _ ht => ?_)
    hown (fun t n _ _ hr => hr.kept (planeCommit_step old p n t).rep) ⟨rfl, .inr hon⟩
  refine ⟨(planeCommit_step old p n t).kept.regs.trans ht.1, ?_⟩
  by_cases hn : n = m
  · rw [hn]
    exact .inl (hown t ht)
  · refine ht.2.imp (fun hr => hr.kept (planeCommit_step old p n t).rep) fun hon => ?_
    rw [(planeCommit_step old p n t).other m fun e => hn e.symm]
    exact hon

/-! The commit point. -/

/-- The faults of the unit after a commit point: suspension from what its planes show, the rejection gone. -/
def sltFaults (p : Nat) (s : State) : State :=
  mapFaults p (clearFault (hSlt p) 2 (putFault (hSlt p) 0 ((List.range 4).any (fun n => plEn s p n && (s.plane p n).susp)) s))

theorem sltFaults_kept (p : Nat) (s : State) : (sltFaults p s).regs = s.regs ∧ (sltFaults p s).slt = s.slt ∧ (sltFaults p s).mem = s.mem ∧ (sltFaults p s).snaps = s.snaps := by
  unfold sltFaults
  generalize (List.range 4).any _ = v
  obtain ⟨hregs, hslt, hmem, hsnaps⟩ := mapFaults_kept p (clearFault (hSlt p) 2 (putFault (hSlt p) 0 v s))
  exact ⟨by rw [hregs, clearFault_regs, putFault_regs], by rw [hslt, clearFault_slt, putFault_slt], by rw [hmem, clearFault_mem, putFault_mem],
    by rw [hsnaps, clearFault_snaps, putFault_snaps]⟩

theorem faultBit_sltFaults (p : Nat) (s : State) : (sltFaults p s).faultBit (hSlt p) 2 = false := by
  unfold sltFaults
  rw [faultBit_mapFaults _ (.inr (by decide)) (.inr (by decide)), faultBit_clearFault, if_pos ⟨rfl, rfl⟩]

theorem mapFaults_frame (p : Nat) (s : State) : RepFrame [] [] [hDet p, hSlt p] s (mapFaults p s) := by
  unfold mapFaults
  extract_lets k bad det slt
  exact ((putFault_frame ..).trans (putFault_frame ..)).mono (by simp) (by simp) (by simp)

theorem raised_sltFaults {h b p : Nat} {s : State} (hr : Raised h b s) : Raised h b (sltFaults p s) :=
  ((hr.kept (putFault_frame ..)).kept (clearFault_frame ..)).kept (mapFaults_frame ..)

theorem applySlt_rejected {p i : Nat} {ws : Tbl Nat} {s : State} (h : sltBad s (overlay s ws) p = some i) : applySlt p ws s = rejectDue (hSlt p) 6 i s := by
  unfold applySlt
  rw [h]

theorem applySlt_accepted {p : Nat} {ws : Tbl Nat} {s : State} (h : sltBad s (overlay s ws) p = none) : applySlt p ws s = sltFaults p (commitPlanes s p (overlay s ws)) := by
  unfold applySlt
  rw [h]
  rfl

end Sys2Proof.Machine
end

section
/-! What the silt unit's commit point leaves (R177, R179). -/

namespace Sys2Proof.Machine

open Sys2Proof.Claims

variable {p m : Nat} {ws : Tbl Nat} {s : State}

theorem applySlt_slt (h : sltBad s (overlay s ws) p = none) : (applySlt p ws s).slt = (commitPlanes s p (overlay s ws)).slt := by
  rw [applySlt_accepted h, (sltFaults_kept ..).2.1]

theorem word_applySlt (o : Nat) (h : sltBad s (overlay s ws) p = none) : (applySlt p ws s).word o = (overlay s ws).word o :=
  State.word_congr (by rw [applySlt_accepted h, (sltFaults_kept ..).1, (commitPlanes_kept s p (overlay s ws)).regs]) o

/-- Memory, the traces and the pending snapshots stay. -/
theorem kept_applySlt (h : sltBad s (overlay s ws) p = none) :
    (applySlt p ws s).mem = s.mem ∧ (applySlt p ws s).slt.trace = s.slt.trace ∧ (applySlt p ws s).snaps = s.snaps := by
  obtain ⟨-, hslt, hmem, hsnaps⟩ := sltFaults_kept p (commitPlanes s p (overlay s ws))
  have hk : commitPlanes s p (overlay s ws) = _ := commitPlanes_kept s p (overlay s ws)
  rw [applySlt_accepted h, hslt, hmem, hsnaps, hk]
  have htrace := congrArg Slt.trace (overlay_slt s ws)
  exact ⟨overlay_mem .., htrace, overlay_snaps ..⟩

theorem faultBit_applySlt (h : sltBad s (overlay s ws) p = none) : (applySlt p ws s).faultBit (hSlt p) 2 = false := by
  rw [applySlt_accepted h]
  exact faultBit_sltFaults ..

theorem plane_applySlt (hm : m < 4) (h : sltBad s (overlay s ws) p = none) : (applySlt p ws s).plane p m = planeCommitted s (overlay s ws) p m (s.plane p m) := by
  rw [plane_congr (applySlt_slt h), plane_commitPlanes s (overlay s ws) hm, plane_congr (overlay_slt s ws)]

theorem raised_applySlt (hm : m < 4) (h : sltBad s (overlay s ws) p = none) (hold : plEn s p m = true) (hnew : plEn (overlay s ws) p m = false) (hon : (s.plane p m).on = true) :
    Raised (hSlt p) m (applySlt p ws s) := by
  rw [applySlt_accepted h]
  exact raised_sltFaults (raised_commitPlanes hm hold hnew (by rw [plane_congr (overlay_slt s ws)]; exact hon))

end Sys2Proof.Machine
end

section
/-! The commit points as commands (R158, R159, R177 to R179). -/

namespace Sys2Proof.Machine

open Sys2Proof.Claims

theorem exec_detCommit {p : Fin 4} {s t : State} (h : detCommit p s = t) : exec (.detSltCommit false p) s = .next t := congrArg Host.Outcome.next h

theorem exec_sltCommit {p : Fin 4} {s t : State} (h : sltCommit p s = t) : exec (.detSltCommit true p) s = .next t := congrArg Host.Outcome.next h

/-- A commit point whose snapshot fails a check, once the unit has judged it. -/
theorem rejected_awaiting {s : State} (p w : Nat) (a : SiltAct) (h b obj : Nat) (hd : s.slt.due = []) :
    let t := noneDue (rejectDue h b obj (awaiting p w a (dropSnap h s)))
    t = { s with snaps := s.snaps.filter (fun x => x.hdr != h), rep := t.rep } ∧ Event h b s t := by
  obtain ⟨hraised, hframe⟩ := event_rejectDue h b obj (awaiting p w a (dropSnap h s))
  exact ⟨noneDue_rejectDue p w a h b obj hd, hraised.kept (.of_rep (c := []) (e := []) (f := []) rfl), (hframe.congr_left (s := s) rfl).congr_right rfl⟩

variable {p w m : Nat} {ws : Tbl Nat} {s : State}

/-- The silt unit's commit point judges and applies its snapshot with the register words of before. -/
theorem planeCommitted_awaiting (a : SiltAct) (h : Nat) (x : Plane) :
    planeCommitted (awaiting p w a (dropSnap h s)) (overlay (awaiting p w a (dropSnap h s)) ws) p m x = planeCommitted s (overlay s ws) p m x :=
  planeCommitted_congr (old := s) (regs_overlay_congr ws (s := s) (t := awaiting p w a (dropSnap h s)) rfl) p m x

theorem sltCommit_rejects {i : Nat} (hs : s.snapOf (hSlt p) = some ws) (hr : srRuns s p = true) (hd : s.slt.due = []) (hf : s.flyingBefore p (nextFrameWord s p) = false)
    (hw : sltWaits p ws s = false) (hb : sltBad s (overlay s ws) p = some i) :
    sltCommit p s = noneDue (rejectDue (hSlt p) 6 i (awaiting p (nextFrameWord s p) (.slt ws) (dropSnap (hSlt p) s))) := by
  refine (sltCommit_some hs hr hw).trans (commitAt_applies (s := dropSnap (hSlt p) s) hd hf ?_)
  have hbad := (sltBad_awaiting p (nextFrameWord s p) (.slt ws) (hSlt p) ws s).trans hb
  rw [applyDue, sltWaits_awaiting, hw, applySlt_rejected hbad]
  rfl

theorem sltCommit_accepts (hs : s.snapOf (hSlt p) = some ws) (hr : srRuns s p = true) (hd : s.slt.due = []) (hf : s.flyingBefore p (nextFrameWord s p) = false)
    (hw : sltWaits p ws s = false) :
    sltCommit p s = noneDue (applySlt p ws (awaiting p (nextFrameWord s p) (.slt ws) (dropSnap (hSlt p) s))) := by
  refine (sltCommit_some hs hr hw).trans (commitAt_applies (s := dropSnap (hSlt p) s) hd hf ?_)
  rw [applyDue, sltWaits_awaiting, hw]
  rfl

theorem detCommit_applies (hs : s.snapOf (hDet p) = some ws) (hr : srRuns s p = true) (hd : s.slt.due = []) (hf : s.flyingBefore p (nextFrameWord s p) = false) :
    detCommit p s = noneDue (applyDet p ws (awaiting p (nextFrameWord s p) (.det ws) (dropSnap (hDet p) s))) :=
  (detCommit_some hs hr).trans (commitAt_applies (s := dropSnap (hDet p) s) hd hf rfl)

theorem detCommit_waits (hs : s.snapOf (hDet p) = some ws) (hr : srRuns s p = true) (hd : s.slt.due = []) (hf : s.flyingBefore p (nextFrameWord s p) = true) :
    detCommit p s = awaiting p (nextFrameWord s p) (.det ws) (dropSnap (hDet p) s) :=
  (detCommit_some hs hr).trans (commitAt_waits (s := dropSnap (hDet p) s) _ hd hf)

/-- A trace's settings under a snapshot whose commit point waits. -/
theorem traceSettings_awaiting (a : SiltAct) (h j : Nat) (ws : Tbl Nat) :
    trMap (overlay (awaiting p w a (dropSnap h s)) ws) p j = trMap (overlay s ws) p j ∧ trEn (overlay (awaiting p w a (dropSnap h s)) ws) p j = trEn (overlay s ws) p j ∧
    trDet (overlay (awaiting p w a (dropSnap h s)) ws) p j = trDet (overlay s ws) p j ∧ trBanks (overlay (awaiting p w a (dropSnap h s)) ws) p j = trBanks (overlay s ws) p j := by
  have hregs : (overlay (awaiting p w a (dropSnap h s)) ws).regs = (overlay s ws).regs := regs_overlay_congr ws rfl
  exact traceSettings_congr (State.wordN_congr hregs _) (State.wordN_congr hregs _) (State.wordN_congr hregs _)

theorem snapOf_congr {s t : State} (h : t.snaps = s.snaps) (u : Nat) : t.snapOf u = s.snapOf u := by rw [State.snapOf, State.snapOf, h]

end Sys2Proof.Machine

open Sys2Proof Sys2Proof.Machine Sys2Proof.Claims

/-- Settles O21: a commit point waits, has its snapshot rejected, or applies it to an otherwise unchanged state; a colour entry takes the enabled bytes. -/
theorem detectorAndSiltCommit : Obligations.DetectorAndSiltCommit := by
  unfold Obligations.DetectorAndSiltCommit
  intro s p j m ws l b i val be o key a u hkey hu
  subst hkey hu
  refine ⟨fun hs hr hd hf => ⟨_, exec_detCommit (detCommit_waits hs hr hd hf), rfl⟩, fun hs hr hd hf hb => ?detRejected,
    fun hs hr hd hf hb => ⟨_, exec_detCommit (detCommit_applies hs hr hd hf), ?detAccepted⟩, fun hs hr hd hf hall hb => ?sltRejected,
    fun hs hr hd hf hall hb => ⟨_, exec_sltCommit (sltCommit_accepts hs hr hd hf (sltWaits_eq_false hall)), ?sltAccepted⟩,
    fun hs hw => ⟨_, exec_sltCommit (sltCommit_waits hs hw), rfl⟩, fun h => ⟨_, exec_sltCommit (sltCommit_none h), rfl⟩, fun h => ⟨_, exec_detCommit (detCommit_none h), rfl⟩,
    fun h => ⟨_, congrArg Host.Outcome.next (lutWrite_used h), rfl, event_raise ..⟩, fun h => ⟨_, congrArg Host.Outcome.next (lutWrite_free h), rfl, fun ho => ?otherEntry, fun k => ?entry⟩⟩
  case detRejected =>
    obtain ⟨i, hi⟩ := Option.ne_none_iff_exists'.mp hb
    have hbad := (detBad_awaiting p (nextFrameWord s p) (.det ws) (hDet p) ws s).trans hi
    exact ⟨_, exec_detCommit ((detCommit_applies hs hr hd hf).trans (congrArg noneDue (applyDet_rejected hbad))), rejected_awaiting p _ _ _ _ i hd⟩
  case detAccepted =>
    have hbad := (detBad_awaiting p (nextFrameWord s p) (.det ws) (hDet p) ws s).trans hb
    obtain ⟨hmap, hen, hdet⟩ := traceSettings_applyDet p.isLt j.isLt hbad
    obtain ⟨hmap', hen', hdet', hbanks'⟩ := traceSettings_awaiting (p := p) (w := nextFrameWord s p) (s := s) (.det ws) (hDet p) j ws
    obtain ⟨hplane, hsnaps⟩ := kept_applyDet p.isLt hbad
    have hgone := (snapOf_congr hsnaps (hDet p)).trans (snapOf_dropSnap (hDet p) s)
    have hbanks := (banks_applyDet p.isLt j.isLt hbad).trans hbanks'
    have hfault := faultBit_applyDet hbad
    have hframes := frames_applyDet p.isLt j.isLt hbad
    have hhold := hold_applyDet j.isLt hbad
    have hlines := lines_applyDet p.isLt hbad
    have hmem := mem_applyDet (a := a) p.isLt hbad
    rw [traceKey, traceKey, hmap', hen', hdet'] at hhold
    generalize applyDet (p : Nat) ws _ = t at hgone hmap hen hdet hbanks hfault hframes hhold hlines hplane hmem ⊢
    exact ⟨hgone, hmap.trans hmap', hen.trans hen', hdet.trans hdet', hbanks, hfault, hframes, hhold, hlines, hplane, hmem⟩
  case sltRejected =>
    obtain ⟨i, hi⟩ := Option.ne_none_iff_exists'.mp hb
    exact ⟨_, exec_sltCommit (sltCommit_rejects hs hr hd hf (sltWaits_eq_false hall) hi), rejected_awaiting p _ _ _ _ i hd⟩
  case sltAccepted =>
    have hbad := (sltBad_awaiting p (nextFrameWord s p) (.slt ws) (hSlt p) ws s).trans hb
    have hregs : (overlay (awaiting p (nextFrameWord s p) (.slt ws) (dropSnap (hSlt p) s)) ws).regs = (overlay s ws).regs := regs_overlay_congr ws rfl
    have hplane := (plane_applySlt m.isLt hbad).trans (planeCommitted_awaiting (.slt ws) (hSlt p) (s.plane p m))
    obtain ⟨hmem, htrace, hsnaps⟩ := kept_applySlt hbad
    have hgone := (snapOf_congr hsnaps (hSlt p)).trans (snapOf_dropSnap (hSlt p) s)
    have hword := (word_applySlt o hbad).trans (State.word_congr hregs o)
    have hfault := faultBit_applySlt hbad
    have hraised := raised_applySlt m.isLt hbad
    rw [show plEn (overlay _ ws) p m = plEn (overlay s ws) p m from flag_congr hregs _] at hraised
    generalize applySlt (p : Nat) ws _ = t at hplane hmem htrace hgone hword hfault hraised ⊢
    refine ⟨hgone, hword, hfault, hmem, htrace, fun hold hnew hon => ?_, fun hold hnew => ?_, fun hch => ?_⟩
    · rw [planeCommitted_disabled hold hnew] at hplane
      have hbuf := buf_planeDisabled (overlay s ws).memDeg hon
      rw [← hplane] at hbuf
      have hcnt := congrArg PBuf.cnt hbuf
      have hframes := congrArg PBuf.frames hbuf
      exact ⟨congrArg Plane.on hplane, congrArg PBuf.st hbuf, hcnt, hframes, hraised hold hnew hon⟩
    · rw [planeCommitted_enabled hold hnew] at hplane
      refine ⟨congrArg Plane.on hplane, congrArg (fun x => x.b0.st) hplane, fun hd => (congrArg (fun x => x.b1.st) hplane).trans ?_⟩
      exact congrArg PBuf.st (if_pos hd)
    · rw [planeCommitted_changed hch] at hplane
      have hbuf := buf_planeSwapped_old (overlay s ws) p m (s.plane p m)
      rw [← hplane] at hbuf
      exact ⟨(congrArg Plane.live hplane).trans (live_planeSwapped ..), congrArg PBuf.st hbuf⟩
  case otherEntry => exact Tbl.get_set_ne _ _ _ ho.symm
  case entry =>
    have hk : k.val / 8 ∈ List.range 3 := List.mem_range.mpr (by omega)
    rw [Tbl.get_set_same, bitAt_colourBytes]
    split_ifs <;> tauto
end

section
/-! Commands of the tributary bank, writes of a context's word 0, and its records on their way to memory (R192, R208, R211, R212). -/

namespace Sys2Proof.Machine

open Sys2Proof.Claims

/-! The fields of a context's word 0 (R214). -/

/-- The bytes from the first word of a block to behind its last. -/
def RegBlock.span (b : RegBlock) : Nat :=
  match b.dims with
  | [] => 8
  | (stride, count) :: _ => stride * count

theorem RegBlock.lt_of_hit {b : RegBlock} {off : Nat} (hd : b.dims.all (fun d => d.1 != 0) = true) (h : b.hit off = true) : off < b.base + b.span := by
  obtain ⟨base, dims, pair, fields⟩ := b
  cases dims with
  | nil =>
    simp only [RegBlock.hit, dimsMatch, Bool.and_eq_true, decide_eq_true_eq, Bool.or_eq_true, beq_iff_eq] at h
    simp only [RegBlock.span]
    omega
  | cons d t =>
    simp only [RegBlock.hit, dimsMatch, Bool.and_eq_true, decide_eq_true_eq] at h
    have hpos : 0 < d.1 := by
      have := List.all_eq_true.mp hd d List.mem_cons_self
      simp only [bne_iff_ne] at this
      omega
    have hlt : off - base < d.2 * d.1 := (Nat.div_lt_iff_lt_mul hpos).mp h.2.1
    rw [Nat.mul_comm] at hlt
    simp only [RegBlock.span]
    omega

/-- The register blocks of spec/02 to spec/06. -/
def blocksBeforeBank : List RegBlock := blocks02a ++ blocks03a ++ blocks04a ++ blocks05a ++ blocks05b ++ blocks06a ++ blocks06b

theorem blocksBeforeBank_below : blocksBeforeBank.all (fun b => b.dims.all (fun d => d.1 != 0) && decide (b.base + b.span ≤ R.TRB_CTX_CTL 0)) = true := by decide +kernel

theorem find_blocksBeforeBank {off : Nat} (h : R.TRB_CTX_CTL 0 ≤ off) : blocksBeforeBank.find? (fun b => b.hit off) = none := by
  refine List.find?_eq_none.mpr fun b hb hhit => ?_
  have hbelow := List.all_eq_true.mp blocksBeforeBank_below b hb
  rw [Bool.and_eq_true, decide_eq_true_eq] at hbelow
  have := RegBlock.lt_of_hit hbelow.1 hhit
  omega

/-- The block of word 0 of the contexts. -/
def ctxCtlBlock : RegBlock :=
  ⟨0x01100000, [(0x40, 16384)], false, [⟨31, 31, .wo⟩, ⟨22, 22, .sh⟩, ⟨21, 21, .sh⟩, ⟨20, 20, .sh⟩, ⟨19, 19, .sh⟩, ⟨16, 4, .sh⟩, ⟨3, 2, .sh⟩, ⟨1, 1, .sh⟩, ⟨0, 0, .sh⟩]⟩

theorem regBlocks_split : regBlocks = blocksBeforeBank ++ ctxCtlBlock :: regBlocks.drop (blocksBeforeBank.length + 1) := by decide +kernel

theorem hit_ctxCtlBlock {i : Nat} (hi : i < 16384) : ctxCtlBlock.hit (R.TRB_CTX_CTL i) = true := by
  have hoff : R.TRB_CTX_CTL i - 0x01100000 = 0x40 * i := Nat.add_sub_cancel_left ..
  have hle : 0x01100000 ≤ R.TRB_CTX_CTL i := Nat.le_add_right ..
  simp only [RegBlock.hit, dimsMatch, ctxCtlBlock, hoff, hle, decide_true, Bool.true_and, Bool.false_and, Bool.or_false, Bool.and_eq_true, decide_eq_true_eq, beq_iff_eq]
  exact ⟨by omega, Nat.mul_mod_right ..⟩

theorem fieldsOf_ctxCtl {i : Nat} (hi : i < 16384) : fieldsOf (R.TRB_CTX_CTL i) = ctxCtlBlock.fields := by
  have hbefore : blocksBeforeBank.find? (fun b => b.hit (R.TRB_CTX_CTL i)) = none := find_blocksBeforeBank (Nat.add_le_add_left (Nat.zero_le _) _)
  have hfind : regBlocks.find? (fun b => b.hit (R.TRB_CTX_CTL i)) = some ctxCtlBlock := by
    rw [regBlocks_split, List.find?_append, hbefore, Option.none_or]
    exact List.find?_cons_of_pos (p := fun b : RegBlock => b.hit (R.TRB_CTX_CTL i)) (hit_ctxCtlBlock hi)
  rw [fieldsOf, hfind]

theorem acc_ctxCtl : ∀ f ∈ ctxCtlBlock.fields, f.acc = .sh ∨ f.acc = .wo := by decide

theorem accMask_ctxCtl {i : Nat} (hi : i < 16384) (p : Acc → Bool) (h : p .wo = false) :
    accMask (fieldsOf (R.TRB_CTX_CTL i)) p = if p .sh then 0x0079FFFF else 0 := by
  have hp : accMask (fieldsOf (R.TRB_CTX_CTL i)) p = accMask ctxCtlBlock.fields (fun a => a == .sh && p .sh) := by
    rw [fieldsOf_ctxCtl hi]
    refine accMask_congr fun f hf => ?_
    rcases acc_ctxCtl f hf with e | e
    · rw [e]; rfl
    · rw [e, h]; rfl
  rw [hp]
  cases p .sh
  · decide
  · decide

theorem shMask_ctxCtl {i : Nat} (hi : i < 16384) : shMask (R.TRB_CTX_CTL i) = 0x0079FFFF := accMask_ctxCtl hi _ rfl

/-- No field of word 0 is set by a write itself. -/
theorem writtenWord_ctxCtl {i old : Nat} (opn : Bool) (kept v be : Nat) (hi : i < 16384) (ho : old < 2 ^ 32) :
    writtenWord opn (R.TRB_CTX_CTL i) old kept v be = old := by
  have hset : setMask opn (R.TRB_CTX_CTL i) = 0 := by
    refine (accMask_ctxCtl hi _ ?_).trans (if_neg ?_)
    · cases opn <;> rfl
    · cases opn <;> exact Bool.false_ne_true
  have hw1c : accMask (fieldsOf (R.TRB_CTX_CTL i)) (· == .w1c) = 0 := accMask_ctxCtl hi _ rfl
  have hw1s : accMask (fieldsOf (R.TRB_CTX_CTL i)) (· == .w1s) = 0 := accMask_ctxCtl hi _ rfl
  have hall : old &&& 0xFFFFFFFF = old := (Nat.and_two_pow_sub_one_eq_mod old 32).trans (Nat.mod_eq_of_lt ho)
  simp only [writtenWord, hset, hw1c, hw1s, blend, Nat.zero_and, Nat.and_zero, Nat.sub_self, Nat.sub_zero, Nat.or_zero, hall]

theorem wordsKept_writeCtxCtl {i : Nat} (v be : Nat) (s : State) (hi : i < 16384) : WordsKept s (writeFields (R.TRB_CTX_CTL i) v be s) [] := by
  intro o _
  rw [State.word_congr (writeFields_regs ..), State.word_setWord]
  split
  · rename_i ho
    rw [writtenWord_ctxCtl _ _ _ _ hi (s.wordN_lt _), ← ho]
    exact BitVec.ofNat_toNat ..
  · rfl

theorem shadowN_writeCtxCtl {i : Nat} (v be : Nat) (s : State) (hi : i < 16384) (o : Nat) :
    (writeFields (R.TRB_CTX_CTL i) v be s).shadowN o =
      if o = R.TRB_CTX_CTL i then blend (s.shadowN o) v (0x0079FFFF &&& beMask be) else s.shadowN o := by
  by_cases ho : o = R.TRB_CTX_CTL i
  · subst ho
    rw [if_pos rfl, State.shadowN, writeFields_shadow, shMask_ctxCtl hi, if_neg (by decide), Tbl.find_set_same]
  · rw [if_neg ho, State.shadowN, find_shadow_writeFields v be s ho, wordN_of_kept (wordsKept_writeCtxCtl v be s hi) List.not_mem_nil]
    rfl

/-- A snapshot is taken with COMMIT written 1 in an enabled byte (R192). -/
theorem ctxCtlWrite_commit {i v be : Nat} {s : State} (hv : bitAt v 31 = true) (hb : bitAt be 3 = true) :
    ctxCtlWrite i v be s = ctxSnap i (writeFields (R.TRB_CTX_CTL i) v be s) := if_pos (by rw [hv, hb]; rfl)

theorem ctxCtlWrite_plain {i v be : Nat} {s : State} (h : bitAt v 31 = false ∨ bitAt be 3 = false) :
    ctxCtlWrite i v be s = writeFields (R.TRB_CTX_CTL i) v be s := if_neg (by rcases h with h | h <;> simp [h])

theorem ctxCtlWrite_regs_shadow (i v be : Nat) (s : State) :
    (ctxCtlWrite i v be s).regs = (writeFields (R.TRB_CTX_CTL i) v be s).regs ∧ (ctxCtlWrite i v be s).shadow = (writeFields (R.TRB_CTX_CTL i) v be s).shadow := by
  unfold ctxCtlWrite
  extract_lets s1
  split
  · exact ⟨rfl, rfl⟩
  · exact ⟨rfl, rfl⟩

theorem shadowN_congr {s t : State} (hr : t.regs = s.regs) (hs : t.shadow = s.shadow) (o : Nat) : t.shadowN o = s.shadowN o := by
  rw [State.shadowN, hs, State.wordN_congr hr]
  rfl

@[simp] theorem ctx_setCtx_same (s : State) (i : Nat) (x : Ctx) : (s.setCtx i x).ctx i = x := Tbl.get_set_same ..

/-- A snapshot holds words 0 to 11 of the shadow copy. -/
theorem snap_ctxSnap (i : Nat) (s : State) : ((ctxSnap i s).ctx i).snap = some ((List.range 12).map fun w => (ctxSnap i s).shadowN (R.TRB_CTX_CTL i + 4 * w)) := by
  rw [ctxSnap, ctx_setCtx_same]
  rfl

/-- A snapshot taken after a write that changed register words and shadow copies alone. -/
theorem ctxSnap_eq {s u : State} (i : Nat) (hu : u = { s with regs := u.regs, shadow := u.shadow }) :
    ctxSnap i u = { s.setCtx i { s.ctx i with snap := ((ctxSnap i u).ctx i).snap } with shadow := u.shadow, regs := u.regs } := by
  rw [snap_ctxSnap]
  exact (congrArg (fun w : State => w.setCtx i { w.ctx i with snap := (ctxSnapped u i).snap }) hu).trans rfl

/-! Commands (R212). -/

theorem resetCtxCmd_ok {s : State} {j : Nat} (hj : j = s.fld R.TRB_CMD_ARG_CTX) (hen : (s.cset j).en = true) :
    resetCtxCmd s = (.ok, s.setCtx j { s.ctx j with reset := true }) := by
  subst hj
  exact if_pos hen

theorem resetCtxCmd_state {s : State} {j : Nat} (hj : j = s.fld R.TRB_CMD_ARG_CTX) (hen : (s.cset j).en = false) : resetCtxCmd s = (.state, s) := by
  subst hj
  exact if_neg (by rw [hen]; decide)

theorem reportCmd_ok {s : State} {j : Nat} (hj : j = s.fld R.TRB_CMD_ARG_CTX) (hen : (s.cset j).en = true) (hrep : (s.cset j).repEn = true) :
    reportCmd s = (.ok, s.setCtx j { s.ctx j with report := true }) := by
  subst hj
  exact if_pos (by rw [hen, hrep]; rfl)

theorem reportCmd_state {s : State} {j : Nat} (hj : j = s.fld R.TRB_CMD_ARG_CTX) (h : (s.cset j).en = false ∨ (s.cset j).repEn = false) : reportCmd s = (.state, s) := by
  subst hj
  exact if_neg (by rcases h with h | h <;> simp [h])

/-- What a command leaves that marks a context. -/
theorem finished_setCtx (code : Nat) (c : Code) (j : Nat) (x : Ctx) (s : State) :
    finish hBank code c (s.setCtx j x) = { s.setCtx j x with rep := (finish hBank code c (s.setCtx j x)).rep } ∧ Finished hBank code c s (finish hBank code c (s.setCtx j x)) :=
  ⟨finish_eq .., finished_finish_of _ _ _ rfl⟩

theorem exec_resetCtx {s u : State} {c : Code} (hb : s.cmdBusy hBank = false) (h : resetCtxCmd s = (c, u)) :
    exec .resetCtx s = .next (finish hBank 1 c u) := congrArg Host.Outcome.next (runCmd_of hb h)

theorem exec_report {s u : State} {c : Code} (hb : s.cmdBusy hBank = false) (h : reportCmd s = (c, u)) :
    exec .report s = .next (finish hBank 2 c u) := congrArg Host.Outcome.next (runCmd_of hb h)

/-! Records on their way to memory (R208, R211). -/

theorem memWrite_of_noneLost {s : State} (a : Nat) (bs : List Byte) (h : s.rsv.lost = []) : s.memWrite a bs = s.memStore a bs := by
  rw [State.memWrite, h, if_pos List.isEmpty_nil]

theorem recordWrite_some {s : State} {bs : List Byte} {rest : List (List Byte)} {size off b : Nat} (h : s.trb.recq = bs :: rest) (hl : s.rsv.lost = [])
    (hsize : size = s.wordN R.TRB_REP_REGION_SIZE * 2 ^ 20) (hne : size ≠ 0)
    (hoff : off = if s.wordN R.TRB_REP_WSEQ = 0 ∧ s.wordN R.TRB_REP_WOFF = 0 then 0 else (s.wordN R.TRB_REP_WOFF + 64) % size)
    (hb : b = s.wordN R.TRB_REP_REGION_LO + 2 ^ 32 * bits (s.wordN R.TRB_REP_REGION_HI) 7 0 + off) :
    recordWrite s = (({ s with trb := { s.trb with recq := rest } }.memStore b bs).setWord R.TRB_REP_WOFF off).setWord R.TRB_REP_WSEQ ((s.wordN R.TRB_REP_WSEQ + 1) % 2 ^ 32) := by
  subst hsize hoff hb
  unfold recordWrite
  rw [h, ← memWrite_of_noneLost (s := { s with trb := { s.trb with recq := rest } }) _ _ hl]
  exact if_neg hne

theorem recordWrite_none {s : State} (h : s.trb.recq = []) : recordWrite s = s := by
  unfold recordWrite
  rw [h]

theorem iqWrite_none {s : State} (h : s.trb.iqq = []) : iqWrite s = s := by
  unfold iqWrite
  rw [h]

theorem iqWrite_some {s : State} {st b : Nat} {bs : List Byte} {rest : List (Nat × List Byte)} (h : s.trb.iqq = (st, bs) :: rest) (hl : s.rsv.lost = [])
    (hb : b = s.wordN R.TRB_IQ_REGION_LO + 2 ^ 32 * s.fld R.TRB_IQ_REGION_HI_ADDR +
      (st * 2 ^ s.fld R.TRB_IQ_REGION_HI_IQ_SLOTS_LOG2 + s.wordN (R.TRB_IQ_WSEQ st) % 2 ^ s.fld R.TRB_IQ_REGION_HI_IQ_SLOTS_LOG2) * 4096) :
    iqWrite s = ({ s with trb := { s.trb with iqq := rest } }.memStore b bs).setWord (R.TRB_IQ_WSEQ st) ((s.wordN (R.TRB_IQ_WSEQ st) + 1) % 2 ^ 32) := by
  have hplace : iqBase s st + s.wordN (R.TRB_IQ_WSEQ st) % iqSlots s * 4096 = b := by
    rw [hb, iqBase, iqSlots, Nat.add_mul, Nat.add_assoc]
  unfold iqWrite
  rw [h, ← hplace, ← memWrite_of_noneLost (s := { s with trb := { s.trb with iqq := rest } }) _ _ hl]

end Sys2Proof.Machine

open Sys2Proof Sys2Proof.Machine Sys2Proof.Claims

/-- Settles O25: what each command and write leaves. -/
theorem contextCommandsAndRecords : Obligations.ContextCommandsAndRecords := by
  unfold Obligations.ContextCommandsAndRecords
  intro s i j val be bs rest st rest2 size off a b o hsize hoff
  refine ⟨⟨_, rfl, ?write⟩, fun hb hj hen => ⟨_, exec_resetCtx hb (resetCtxCmd_ok hj hen), finished_setCtx ..⟩,
    fun hb hj hen => ⟨_, exec_resetCtx hb (resetCtxCmd_state hj hen), turnedAway_finish ..⟩, fun hb hj hen hrep => ⟨_, exec_report hb (reportCmd_ok hj hen hrep), finished_setCtx ..⟩,
    fun hb hj hno => ⟨_, exec_report hb (reportCmd_state hj hno), turnedAway_finish ..⟩,
    fun hq hne hl hw hb => ⟨_, congrArg Host.Outcome.next (recordWrite_some hq hl hsize hne hoff hb), ?record⟩, fun hq => ⟨_, congrArg Host.Outcome.next (recordWrite_none hq), rfl⟩,
    fun hq hst hl hw hb => ⟨_, congrArg Host.Outcome.next (iqWrite_some hq hl hb), ?iq⟩, fun hq => ⟨_, congrArg Host.Outcome.next (iqWrite_none hq), rfl⟩⟩
  case write =>
    obtain ⟨hregs, hshadow⟩ := ctxCtlWrite_regs_shadow i val.toNat be.toNat s
    have hsh := shadowN_congr hregs hshadow
    refine ⟨(hsh _).trans ((shadowN_writeCtxCtl _ _ s i.isLt _).trans (if_pos rfl)), fun o ho => (State.word_congr hregs o).trans (wordsKept_writeCtxCtl _ _ s i.isLt o ho),
      fun ho => (hsh _).trans ((shadowN_writeCtxCtl _ _ s i.isLt _).trans (if_neg ho)), fun hv hbe => ?_, fun h => ?_⟩
    · rw [ctxCtlWrite_commit hv hbe]
      exact ⟨snap_ctxSnap .., ctxSnap_eq _ (writeFields_eq ..)⟩
    · rw [ctxCtlWrite_plain h]
      exact (writeFields_eq ..).trans rfl
  case record =>
    refine ⟨memTake_memPut b bs hw, memGet_memPut_outside s.mem, rfl, ?_, ?_, ?_, rfl⟩
    · rw [State.wordN_setWord, if_neg (by decide), State.wordN_setWord, if_pos rfl]
    · rw [State.wordN_setWord, if_pos rfl, Nat.mod_mod]
    · exact wordsKept_trans (wordsKept_setWord (State.memStore { s with trb := { s.trb with recq := rest } } b bs) R.TRB_REP_WOFF off) (wordsKept_setWord _ R.TRB_REP_WSEQ _)
  case iq =>
    refine ⟨memTake_memPut b bs hw, memGet_memPut_outside s.mem, rfl, ?_, ?_, rfl⟩
    · rw [State.wordN_setWord, if_pos rfl, Nat.mod_mod]
    · exact wordsKept_setWord (State.memStore { s with trb := { s.trb with iqq := rest2 } } b bs) (R.TRB_IQ_WSEQ st) _
end

section
/-! Records, reports and events of a context of the tributary bank (R199, R202 to R204, R208 to R211): what ending a report, an IQ record or an ON leaves of the context and of the rest. -/

namespace Sys2Proof.Machine

open Sys2Proof.Claims

/-! Contexts and their settings. -/

theorem ctx_congr {s t : State} (h : t.trb.ctx = s.trb.ctx) (i : Nat) : t.ctx i = s.ctx i := congrArg (Tbl.get Ctx.init · i) h

theorem cset_of_words {s t : State} {i : Nat} (h : ∀ k < 10, t.word (R.TRB_CTX_CTL i + 4 * k) = s.word (R.TRB_CTX_CTL i + 4 * k)) : t.cset i = s.cset i := by
  have hw (k : Nat) (hk : k < 10) : t.wordN (R.TRB_CTX_CTL i + 4 * k) = s.wordN (R.TRB_CTX_CTL i + 4 * k) := congrArg BitVec.toNat (h k hk)
  simp only [State.cset, cset, hw 0 (by decide), hw 1 (by decide), hw 2 (by decide), hw 3 (by decide), hw 4 (by decide), hw 5 (by decide), hw 6 (by decide), hw 7 (by decide),
    hw 8 (by decide), hw 9 (by decide)]

theorem cset_congr {s t : State} (h : t.regs = s.regs) (i : Nat) : t.cset i = s.cset i := cset_of_words fun _ _ => State.word_congr h _

theorem length_leBytes (n v : Nat) : (leBytes n v).length = n := by
  induction n generalizing v with
  | zero => rfl
  | succ n ih => rw [leBytes, List.length_cons, ih]

/-! The frame. -/

/-- Of `s` and `t` only contexts, records, words of context `i` from `lo` on, drop counters, events for Weir, free values taken and reports differ; events raised are those of
records dropped. -/
structure BankStep (lo i : Nat) (s t : State) : Prop where
  eq : t = { s with trb := { s.trb with ctx := t.trb.ctx, recq := t.trb.recq, iqq := t.trb.iqq }, regs := t.regs, weir := t.weir, freeCtr := t.freeCtr, rep := t.rep }
  words : ∀ o, (o < lo ∨ R.TRB_CTX_CTL i + 0x40 ≤ o) → (o < R.TRB_RECQ_DROP ∨ R.TRB_IQ_DROP + 8 ≤ o) → t.word o = s.word o
  reports : RepFrame [] [(hBank, 1), (hBank, 2)] [] s t

/-- What the end of a report, of an IQ record or of an ON may change: of the context's words those that tell of its reports. -/
abbrev RecordStep (i : Nat) (s t : State) : Prop := BankStep (R.TRB_CTX_LPWR i) i s t

namespace BankStep

variable {lo i : Nat} {s t u : State}

theorem refl (lo i : Nat) (s : State) : BankStep lo i s s := ⟨rfl, fun _ _ _ => rfl, .refl ..⟩

theorem trans (h : BankStep lo i s t) (k : BankStep lo i t u) : BankStep lo i s u where
  eq := k.eq.trans (congrArg (fun w : State =>
    { w with trb := { w.trb with ctx := u.trb.ctx, recq := u.trb.recq, iqq := u.trb.iqq }, regs := u.regs, weir := u.weir, freeCtr := u.freeCtr, rep := u.rep }) h.eq)
  words o ho hd := (k.words o ho hd).trans (h.words o ho hd)
  reports := (h.reports.trans k.reports).mono (by simp) (by simp) (by simp)

theorem mono {lo' : Nat} (h : BankStep lo i s t) (hlo : lo' ≤ lo) : BankStep lo' i s t :=
  ⟨h.eq, fun o ho hd => h.words o (ho.imp_left fun hl => Nat.lt_of_lt_of_le hl hlo) hd, h.reports⟩

theorem frame (h : BankStep lo i s t) : t = { s with trb := t.trb, regs := t.regs, weir := t.weir, freeCtr := t.freeCtr, rep := t.rep } :=
  h.eq.trans (congrArg (fun b : Trb => { s with trb := b, regs := t.regs, weir := t.weir, freeCtr := t.freeCtr, rep := t.rep }) (congrArg State.trb h.eq).symm)

theorem grid (h : BankStep lo i s t) : t.trb.grid = s.trb.grid := by rw [h.eq]

theorem started (h : BankStep lo i s t) : t.trb.started = s.trb.started := by rw [h.eq]

theorem setCtx (h : BankStep lo i s t) (x : Ctx) : BankStep lo i s (t.setCtx i x) := h.trans ⟨rfl, fun _ _ _ => rfl, .of_rep rfl⟩

theorem setWord (h : BankStep lo i s t) {o : Nat} (v : Nat) (ho : lo ≤ o) (ho' : o < R.TRB_CTX_CTL i + 0x40) : BankStep lo i s (t.setWord o v) :=
  h.trans ⟨rfl, fun x hx _ => State.word_setWord_ne t v (by omega), .of_rep rfl⟩

theorem takeFree (h : BankStep lo i s t) (n : Nat) : BankStep lo i s (t.takeFree n).2 := h.trans ⟨rfl, fun _ _ _ => rfl, .of_rep rfl⟩

/-- The words of a context's settings stay when those of its reports alone change. -/
theorem setting (h : RecordStep i s t) {k : Nat} (hk : k < 12) : t.word (R.TRB_CTX_CTL i + 4 * k) = s.word (R.TRB_CTX_CTL i + 4 * k) :=
  h.words _ (.inl (by unfold R.TRB_CTX_LPWR R.TRB_CTX_CTL; omega)) (.inr (by unfold R.TRB_IQ_DROP R.TRB_CTX_CTL; omega))

theorem cset (h : RecordStep i s t) : t.cset i = s.cset i := cset_of_words fun _ hk => h.setting (by omega)

end BankStep

/-! Queues of records (R208, R211). -/

theorem queueRec_queues {bs : List Byte} {s : State} (h : s.trb.recq.length < 4096) : queueRec bs s = { s with trb := { s.trb with recq := s.trb.recq ++ [bs] } } := if_pos h

theorem queueRec_drops {bs : List Byte} {s : State} (h : 4096 ≤ s.trb.recq.length) : queueRec bs s = raise hBank 1 (s.bump64 R.TRB_RECQ_DROP 1) := if_neg (Nat.not_lt.mpr h)

/-- A record dropped is counted in one of the bank's counters, and raises an event. -/
theorem recordStep_drop (i : Nat) {b o : Nat} (s : State) (hb : (hBank, b) ∈ [(hBank, 1), (hBank, 2)]) (ho : R.TRB_RECQ_DROP ≤ o) (ho' : o + 8 ≤ R.TRB_IQ_DROP + 8) :
    RecordStep i s (raise hBank b (s.bump64 o 1)) where
  eq := rfl
  words x _ hx := (State.word_congr (raise_regs ..) x).trans (wordsKept_bump64 s o 1 x (by simp only [List.mem_cons, List.not_mem_nil, or_false]; omega))
  reports := ((raise_frame hBank b (s.bump64 o 1)).congr_left rfl).mono (by simp) (by simpa using hb) (by simp)

theorem recordStep_queueRec (i : Nat) (bs : List Byte) (s : State) : RecordStep i s (queueRec bs s) := by
  unfold queueRec
  split
  · exact ⟨rfl, fun _ _ _ => rfl, .of_rep rfl⟩
  · exact recordStep_drop i s (by simp) (Nat.le_refl _) (by decide)

theorem recordStep_queueIq (i slot : Nat) (bs : List Byte) (s : State) : RecordStep i s (queueIq slot bs s) := by
  unfold queueIq
  split
  · exact ⟨rfl, fun _ _ _ => rfl, .of_rep rfl⟩
  · exact recordStep_drop i s (by simp) (by decide) (Nat.le_refl _)

theorem ctx_queueRec (bs : List Byte) (s : State) (i : Nat) : (queueRec bs s).ctx i = s.ctx i := by
  unfold queueRec
  split
  · rfl
  · rfl

theorem ctx_queueIq (slot : Nat) (bs : List Byte) (s : State) (i : Nat) : (queueIq slot bs s).ctx i = s.ctx i := by
  unfold queueIq
  split
  · rfl
  · rfl

/-! The end of a report (R202). -/

/-- A report that holds no output, or that is not enabled, ends without a record. -/
theorem endReport_none {i : Nat} {g : Grid} {c : CSet} {s : State} (h : (s.ctx i).n ≤ (s.ctx i).repFrom ∨ c.repEn = false) :
    endReport i g c s = s.setCtx i ((s.ctx i).newReport c.blk) := if_pos (by rcases h with h | h <;> simp [h])

/-- A context after a report of values `v0` and `v1` with the next sequence number. -/
def reported (i : Nat) (x : Ctx) (v0 v1 : Nat) (s : State) : State :=
  (((s.setCtx i x).setWord (R.TRB_CTX_LPWR i) v0).setFld (R.TRB_CTX_LVID_PEAK i) v1).setWord (R.TRB_CTX_RSEQ i) ((s.wordN (R.TRB_CTX_RSEQ i) + 1) % 2 ^ 32)

/-- One that holds outputs leaves a record of 64 bytes. -/
theorem endReport_some {i : Nat} (g : Grid) {c : CSet} {s : State} (h : (s.ctx i).repFrom < (s.ctx i).n) (hr : c.repEn = true) :
    ∃ bs r v0 v1, bs.length = 64 ∧ endReport i g c s = queueRec bs (reported i { (s.ctx i).newReport c.blk with lastRep := r } v0 v1 s) := by
  refine ⟨_, _, _, _, ?_, if_neg (by simp [h, hr])⟩
  simp only [recHead, dtBytes, List.length_append, length_leBytes]

theorem recordStep_reported (i : Nat) (x : Ctx) (v0 v1 : Nat) (s : State) : RecordStep i s (reported i x v0 v1 s) := by
  refine ((((BankStep.refl _ i s).setCtx x).setWord v0 (Nat.le_refl _) ?_).setWord (o := R.TRB_CTX_LVID i) _ ?_ ?_).setWord _ ?_ ?_
  all_goals simp only [R.TRB_CTX_LPWR, R.TRB_CTX_CTL, R.TRB_CTX_LVID, R.TRB_CTX_RSEQ]; omega

theorem endReport_spec (i : Nat) (g : Grid) (c : CSet) (s : State) :
    RecordStep i s (endReport i g c s) ∧ ∃ r, (endReport i g c s).ctx i = { (s.ctx i).newReport c.blk with lastRep := r } := by
  by_cases h : (s.ctx i).n ≤ (s.ctx i).repFrom ∨ c.repEn = false
  · rw [endReport_none h, ctx_setCtx_same]
    exact ⟨(BankStep.refl _ i s).setCtx _, _, rfl⟩
  · rw [not_or, Nat.not_le, Bool.not_eq_false] at h
    obtain ⟨bs, r, v0, v1, -, he⟩ := endReport_some g h.1 h.2
    rw [he, ctx_queueRec]
    exact ⟨(recordStep_reported ..).trans (recordStep_queueRec ..), r, ctx_setCtx_same s i _⟩

/-! The end of an IQ record (R210). -/

theorem endIq_spec (i : Nat) (g : Grid) (c : CSet) (s : State) :
    RecordStep i s (endIq i g c s) ∧ ∃ q l, (endIq i g c s).ctx i = { s.ctx i with iq := [], iqSeq := q, lastIq := l } := by
  unfold endIq
  extract_lets x
  split
  · rename_i h
    have hiq : (s.ctx i).iq = [] := List.isEmpty_iff.mp h
    exact ⟨.refl _ i s, x.iqSeq, x.lastIq, by rw [← hiq]⟩
  · rw [ctx_queueIq, ctx_setCtx_same]
    exact ⟨((BankStep.refl _ i s).setCtx _).trans (recordStep_queueIq ..), _, _, rfl⟩

/-! Events (R203, R204). -/

/-- Of the context itself an event record takes its number alone. -/
def Notes (i : Nat) (s t : State) : Prop := RecordStep i s t ∧ ∃ q, t.ctx i = { s.ctx i with evSeq := q }

theorem notes_emitEvent (i : Nat) (g : Grid) (c : CSet) (on forced : Bool) (psw dtF dtL edge level run : Nat) (s : State) :
    Notes i s (emitEvent i g c on forced psw dtF dtL edge level run s) := by
  unfold emitEvent
  extract_lets x bs s1
  have h1 : Notes i s s1 := by
    by_cases hc : c.evEn = true
    · rw [show s1 = _ from if_pos hc, Notes, ctx_queueRec, ctx_setCtx_same]
      exact ⟨((BankStep.refl _ i s).setCtx _).trans (recordStep_queueRec ..), _, rfl⟩
    · rw [show s1 = s from if_neg hc]
      exact ⟨.refl _ i s, _, rfl⟩
  split
  · exact ⟨h1.1.trans ⟨rfl, fun _ _ _ => rfl, .of_rep rfl⟩, h1.2⟩
  · exact h1

theorem forceOff_spec (i : Nat) (g : Grid) (c : CSet) (s : State) :
    RecordStep i s (forceOff i g c s) ∧ ∃ q, (forceOff i g c s).ctx i = { s.ctx i with on := false, run := 0, evSeq := q } := by
  unfold forceOff
  extract_lets x s0 lv rn n sp
  split
  · rename_i h
    have hon : (s.ctx i).on = false := by simpa using h
    rw [ctx_setCtx_same]
    exact ⟨(BankStep.refl _ i s).setCtx _, x.evSeq, by rw [← hon]⟩
  · obtain ⟨h, q, hq⟩ := notes_emitEvent i g c false true (pswMake sp.1 sp.2) (pointDt s c.port g (outFirst g c x.m0 n)) (gridDt s c.port g (outLast g c x.m0 n)) 0 lv.1 rn.1 rn.2
    refine ⟨((((BankStep.refl _ i s).setCtx _).takeFree _).takeFree _).trans h, q, hq.trans ?_⟩
    rw [show rn.2.ctx i = s0.ctx i from rfl, ctx_setCtx_same]

/-- What a commit or reset ends: the open report and the open IQ record. -/
theorem endOpen_spec (i : Nat) (s : State) :
    RecordStep i s (endOpen i s) ∧ ∃ r q l, (endOpen i s).ctx i = { (s.ctx i).newReport (s.cset i).blk with lastRep := r, iq := [], iqSeq := q, lastIq := l } := by
  obtain ⟨h1, r, hr⟩ := endReport_spec i (s.chGrid (s.cset i).port) (s.cset i) s
  obtain ⟨h2, q, l, hq⟩ := endIq_spec i (s.chGrid (s.cset i).port) (s.cset i) (endReport i (s.chGrid (s.cset i).port) (s.cset i) s)
  exact ⟨h1.trans h2, r, q, l, hq.trans (by rw [hr])⟩

end Sys2Proof.Machine
end

section
/-! What waits at a context's output block boundary (R192, R193, R199, R212): a snapshot rejected, a snapshot taken, REPORT and RESET_CTX. -/

namespace Sys2Proof.Machine

open Sys2Proof.Claims

/-! What of that waits. -/

/-- The words of a context's snapshot at their offsets. -/
def snapWords (i : Nat) (ws : List Nat) : Tbl Nat := (List.range ws.length).map fun k => (R.TRB_CTX_CTL i + 4 * k, ws[k]?.getD 0)

theorem ctxApply_none {i : Nat} {s : State} (h : (s.ctx i).snap = none) : ctxApply i s = s := by
  unfold ctxApply
  rw [h]

theorem ctxPending_commit {i : Nat} {s : State} (hrep : (s.ctx i).report = false) (hrst : (s.ctx i).reset = false) : ctxPending i s = ctxApply i s := by
  simp only [ctxPending, hrep, hrst, Bool.false_eq_true, if_false]

/-- Nothing waits. -/
theorem ctxPending_none {i : Nat} {s : State} (hs : (s.ctx i).snap = none) (hrep : (s.ctx i).report = false) (hrst : (s.ctx i).reset = false) : ctxPending i s = s :=
  (ctxPending_commit hrep hrst).trans (ctxApply_none hs)

theorem ctxPending_report {i : Nat} {s : State} (hs : (s.ctx i).snap = none) (hrep : (s.ctx i).report = true) (hrst : (s.ctx i).reset = false) :
    ctxPending i s = let u := endReport i (s.chGrid (s.cset i).port) (s.cset i) s; u.setCtx i { u.ctx i with report := false } := by
  obtain ⟨-, r, hr⟩ := endReport_spec i (s.chGrid (s.cset i).port) (s.cset i) s
  simp only [ctxPending, hrep, hrst, Bool.false_eq_true, if_false, if_true]
  refine ctxApply_none ?_
  rw [ctx_setCtx_same, hr]
  exact hs

theorem ctxPending_reset {i : Nat} {s : State} (hs : (s.ctx i).snap = none) (hrep : (s.ctx i).report = false) (hrst : (s.ctx i).reset = true) (hen : (s.cset i).en = true) :
    ctxPending i s = resetCtx i s := by
  simp only [ctxPending, hrep, hrst, Bool.false_eq_true, if_false, if_true, ctxApply_none hs, hen]

/-! A snapshot that fails a check (R193). -/

theorem ite_le {c : Prop} [Decidable c] {a b n : Nat} (ha : a ≤ n) (hb : b ≤ n) : (if c then a else b) ≤ n := by
  split
  · exact ha
  · exact hb

/-- The reasons are 1 to 6. -/
theorem ctxReason_le (s : State) (i : Nat) (c : CSet) : ctxReason s i c ≤ 6 :=
  ite_le (by decide) (ite_le (by decide) (ite_le (by decide) (ite_le (by decide) (ite_le (by decide) (ite_le (by decide) (by decide))))))

/-- An event and a log entry with it. -/
theorem event_addLog_raise (h b k v c a0 a1 : Nat) (s : State) : Event h b s (addLog h k v c a0 a1 (raise h b s)) :=
  ⟨(raise_raised ..).kept (addLog_frame ..), ((raise_frame ..).trans (addLog_frame ..)).mono (by simp) (by simp) (by simp)⟩

/-- STAT with CFG_REJ and the reason, and the rejection counted. -/
def rejectCounted (i why : Nat) (s : State) : State := ((s.setFlag (R.TRB_CTX_STAT_CFG_REJ i) true).setFld (R.TRB_CTX_STAT_REASON i) why).bump64 R.TRB_CFG_REJ 1

theorem rejectCounted_spec {i why : Nat} (s : State) (hw : why ≤ 6) :
    let t := rejectCounted i why s
    t.flag (R.TRB_CTX_STAT_CFG_REJ i) = true ∧ t.fld (R.TRB_CTX_STAT_REASON i) = why ∧ t.pair R.TRB_CFG_REJ = (s.pair R.TRB_CFG_REJ + 1) % 2 ^ 64 ∧
      t = { s with regs := t.regs } ∧ WordsKept s t [R.TRB_CTX_STAT i, R.TRB_CFG_REJ, R.TRB_CFG_REJ + 4] := by
  have hfar : R.TRB_CFG_REJ + 4 < R.TRB_CTX_STAT i := by unfold R.TRB_CTX_STAT R.TRB_CFG_REJ; omega
  have hstat : WordsKept s ((s.setFlag (R.TRB_CTX_STAT_CFG_REJ i) true).setFld (R.TRB_CTX_STAT_REASON i) why) [R.TRB_CTX_STAT i] :=
    wordsKept_step (wordsKept_setFlag s (R.TRB_CTX_STAT_CFG_REJ i) true) (wordsKept_setFld _ (R.TRB_CTX_STAT_REASON i) why)
  have hcount := wordsKept_bump64 ((s.setFlag (R.TRB_CTX_STAT_CFG_REJ i) true).setFld (R.TRB_CTX_STAT_REASON i) why) R.TRB_CFG_REJ 1
  have hnot : R.TRB_CTX_STAT i ∉ [R.TRB_CFG_REJ, R.TRB_CFG_REJ + 4] := by
    simp only [List.mem_cons, List.not_mem_nil, or_false]
    omega
  have hpair := pair_of_kept hstat (o := R.TRB_CFG_REJ) (by rw [List.mem_singleton]; omega) (by rw [List.mem_singleton]; omega)
  refine ⟨?_, ?_, (pair_bump64 ..).trans (by rw [hpair]), rfl, wordsKept_trans hstat hcount⟩
  · refine (flag_of_kept hcount hnot).trans ?_
    rw [State.flag, State.fld_setFld_apart _ _ (by decide : 7 ≤ 9) (by decide : 9 < 32) (.inr (by decide : 6 < 7))]
    exact State.flag_setFlag_same s (R.TRB_CTX_STAT_CFG_REJ i) true rfl (by decide : 6 < 32)
  · refine (fld_of_kept hcount hnot).trans ((State.fld_setFld_same _ (R.TRB_CTX_STAT_REASON i) _ (by decide : 7 ≤ 9) (by decide : 9 < 32)).trans (Nat.mod_eq_of_lt ?_))
    exact Nat.lt_of_le_of_lt hw (by decide : 6 < 2 ^ (9 + 1 - 7))

/-- A snapshot is dropped for a reason. -/
def ctxRejected (i why : Nat) (s : State) : State := addLog hBank 3 2 why i 0 (raise hBank 0 (rejectCounted i why s))

/-- The settings that a snapshot would make, with the snapshot gone. -/
theorem cset_overlay_setCtx (s : State) (i : Nat) (x : Ctx) (ws : Tbl Nat) : (overlay (s.setCtx i x) ws).cset i = (overlay s ws).cset i :=
  cset_congr (regs_overlay_congr (s := s) (t := s.setCtx i x) ws rfl) i

theorem ctxApply_rejects {i : Nat} {ws : List Nat} {s : State} {new : CSet} (hs : (s.ctx i).snap = some ws) (hnew : new = (overlay s (snapWords i ws)).cset i)
    (hne : ctxReason s i new ≠ 0) : ctxApply i s = ctxRejected i (ctxReason s i new) (s.setCtx i { s.ctx i with snap := none }) := by
  rw [← cset_overlay_setCtx s i { s.ctx i with snap := none }] at hnew
  subst hnew
  unfold ctxApply
  rw [hs]
  exact if_pos hne

/-- What a rejected snapshot leaves. -/
theorem ctxRejected_spec {i why : Nat} (s : State) (hw : why ≤ 6) :
    let t := ctxRejected i why s
    t.flag (R.TRB_CTX_STAT_CFG_REJ i) = true ∧ t.fld (R.TRB_CTX_STAT_REASON i) = why ∧ t.pair R.TRB_CFG_REJ = (s.pair R.TRB_CFG_REJ + 1) % 2 ^ 64 ∧
      t = { s with regs := t.regs, rep := t.rep } ∧ WordsKept s t [R.TRB_CTX_STAT i, R.TRB_CFG_REJ, R.TRB_CFG_REJ + 4] ∧ Event hBank 0 s t := by
  obtain ⟨hflag, hreason, hpair, heq, hwords⟩ := rejectCounted_spec (i := i) s hw
  obtain ⟨hraised, hrep⟩ := event_addLog_raise hBank 0 3 2 why i 0 (rejectCounted i why s)
  have hregs : (ctxRejected i why s).regs = (rejectCounted i why s).regs := rfl
  refine ⟨(flag_congr hregs _).trans hflag, (State.fld_congr hregs _).trans hreason, (pair_congr hregs _).trans hpair,
    congrArg (fun u : State => { u with rep := (ctxRejected i why s).rep }) heq, fun o ho => (State.word_congr hregs o).trans (hwords o ho), hraised, hrep.congr_left ?_⟩
  rw [heq]

/-- The reason is one of the settings and of the port's bond. -/
theorem ctxWhy_of_words {s t : State} (c : CSet) (h : ∀ o < 0x01000000, t.word o = s.word o) : ctxWhy t c = ctxWhy s c := by
  have hport : c.port < 4 := bits_lt ..
  have hw := h (R.ING_PORT_STATUS c.port) (by unfold R.ING_PORT_STATUS; omega)
  have hb : t.bonded c.port = s.bonded c.port := by simp only [State.bonded, State.flag, State.fld, State.wordN, R.ING_PORT_STATUS_BONDED, hw]
  rw [ctxWhy, ctxWhy, State.slave, State.slave, hb]

/-- A snapshot that fails a check: what it leaves. -/
theorem ctxApply_rejected {i : Nat} {ws : List Nat} {s : State} {new : CSet} (hs : (s.ctx i).snap = some ws) (hnew : new = (overlay s (snapWords i ws)).cset i) (hne : ctxReason s i new ≠ 0) :
    let t := ctxApply i s
    t.flag (R.TRB_CTX_STAT_CFG_REJ i) = true ∧ t.fld (R.TRB_CTX_STAT_REASON i) = ctxReason s i new ∧ t.pair R.TRB_CFG_REJ = (s.pair R.TRB_CFG_REJ + 1) % 2 ^ 64 ∧ t.cset i = s.cset i ∧
      t = { s.setCtx i { s.ctx i with snap := none } with regs := t.regs, rep := t.rep } ∧ WordsKept s t [R.TRB_CTX_STAT i, R.TRB_CFG_REJ, R.TRB_CFG_REJ + 4] ∧ Event hBank 0 s t := by
  rw [ctxApply_rejects hs hnew hne]
  obtain ⟨hflag, hreason, hpair, heq, hwords, hevent⟩ := ctxRejected_spec (i := i) (s.setCtx i { s.ctx i with snap := none }) (ctxReason_le s i new)
  refine ⟨hflag, hreason, hpair, cset_of_words fun k hk => hwords _ ?_, heq, hwords, hevent⟩
  simp only [R.TRB_CTX_CTL, R.TRB_CTX_STAT, R.TRB_CFG_REJ, List.mem_cons, List.not_mem_nil, or_false]
  omega

/-! A snapshot that takes effect (R199). -/

/-- Does the change of settings restart a context, retune it, change its video window, change its qualification? -/
def restarts (old new : CSet) : Bool := (!old.en && new.en) || old.port != new.port || old.chan != new.chan || old.straddle != new.straddle || old.rc != new.rc
def retunes (old new : CSet) : Bool := old.ftw != new.ftw
def revideos (old new : CSet) : Bool := old.vlen != new.vlen || old.vidOff != new.vidOff
def requalifies (old new : CSet) : Bool := old.thr != new.thr || old.min != new.min

/-- What is open ends, an open ON too unless the change leaves the video values as they are. -/
def ctxClosed (i : Nat) (old new : CSet) (s : State) : State :=
  if restarts old new || retunes old new || revideos old new then forceOff i ((endOpen i s).chGrid old.port) old (endOpen i s) else endOpen i s

/-- The context under its new settings; `m0`: the coarse sample from which one that restarts goes on. -/
def ctxRenewed (old new : CSet) (m0 : Nat) (x : Ctx) : Ctx :=
  if restarts old new then x.cleared m0
  else
    { x with
      nc := if retunes old new then x.n else x.nc
      nv := if retunes old new || revideos old new then x.n else x.nv
      vid := if revideos old new then [] else x.vid
      vsum := if revideos old new then 0 else x.vsum
      repFrom := cdiv x.n new.blk * new.blk
      run := if requalifies old new then 0 else x.run }

/-- The settings written, and STAT: not rejected, with the next TUNE_SEQ. -/
def ctxTaken (i : Nat) (ws : List Nat) (tune : Nat) (x : Ctx) (s : State) : State :=
  (((overlay (s.setCtx i x) (snapWords i ws)).setFlag (R.TRB_CTX_STAT_CFG_REJ i) false).setFld (R.TRB_CTX_STAT_REASON i) 0).setFld (R.TRB_CTX_STAT_TUNE_SEQ i) tune

theorem ctxApply_accepts {i : Nat} {ws : List Nat} {s : State} {new : CSet} (hs : (s.ctx i).snap = some ws) (hnew : new = (overlay s (snapWords i ws)).cset i)
    (hr : ctxReason s i new = 0) :
    ∃ m0, let u := ctxClosed i (s.cset i) new (s.setCtx i { s.ctx i with snap := none })
      ctxApply i s = ctxTaken i ws (s.fld (R.TRB_CTX_STAT_TUNE_SEQ i) + 1) { ctxRenewed (s.cset i) new m0 (u.ctx i) with lastRep := none, lastIq := none } u := by
  rw [← cset_overlay_setCtx s i { s.ctx i with snap := none }] at hnew
  subst hnew
  unfold ctxApply
  rw [hs]
  exact ⟨_, if_neg (not_not.mpr hr)⟩

/-- What has ended of a context by then. -/
def Ended (old new : CSet) (x y : Ctx) : Prop :=
  ∃ b r q l e, y =
    { x.newReport b with
      on := if restarts old new || retunes old new || revideos old new then false else x.on
      run := if restarts old new || retunes old new || revideos old new then 0 else x.run
      lastRep := r, iq := [], iqSeq := q, lastIq := l, evSeq := e }

theorem ctxClosed_spec (i : Nat) (old new : CSet) (s : State) : RecordStep i s (ctxClosed i old new s) ∧ Ended old new (s.ctx i) ((ctxClosed i old new s).ctx i) := by
  obtain ⟨h1, r, q, l, hctx⟩ := endOpen_spec i s
  unfold ctxClosed Ended
  cases restarts old new || retunes old new || revideos old new
  · exact ⟨h1, _, r, q, l, _, hctx⟩
  · obtain ⟨h2, e, he⟩ := forceOff_spec i ((endOpen i s).chGrid old.port) old (endOpen i s)
    exact ⟨h1.trans h2, (s.cset i).blk, r, q, l, e, he.trans (by rw [hctx]; rfl)⟩

/-- The settings written change no word but those of the context's page. -/
theorem bankStep_overlay {lo i : Nat} {s t : State} (h : BankStep lo i s t) {ws : Tbl Nat} (hw : ∀ e ∈ ws, lo ≤ e.1 ∧ e.1 < R.TRB_CTX_CTL i + 0x40) : BankStep lo i s (overlay t ws) :=
  List.foldlRecOn (motive := fun u => BankStep lo i s u) ws _ h fun _ k e he => k.setWord _ (hw e he).1 (hw e he).2

theorem snapWords_mem {i : Nat} {ws : List Nat} (h : ws.length = 12) : ∀ e ∈ snapWords i ws, R.TRB_CTX_CTL i ≤ e.1 ∧ e.1 < R.TRB_CTX_CTL i + 0x40 := by
  intro e he
  obtain ⟨k, hk, rfl⟩ := List.mem_map.mp he
  have := List.mem_range.mp hk
  omega

theorem ctxTaken_spec {i tune : Nat} {ws : List Nat} {s u : State} (x : Ctx) (hl : ws.length = 12) (h : RecordStep i s u) :
    let t := ctxTaken i ws tune x u
    t.ctx i = x ∧ t.cset i = (overlay s (snapWords i ws)).cset i ∧ t.flag (R.TRB_CTX_STAT_CFG_REJ i) = false ∧ t.fld (R.TRB_CTX_STAT_REASON i) = 0 ∧
      t.fld (R.TRB_CTX_STAT_TUNE_SEQ i) = tune % 65536 ∧ BankStep (R.TRB_CTX_CTL i) i s t := by
  have hlo : R.TRB_CTX_CTL i ≤ R.TRB_CTX_LPWR i := by unfold R.TRB_CTX_CTL R.TRB_CTX_LPWR; omega
  have hlo' : R.TRB_CTX_CTL i ≤ R.TRB_CTX_STAT i := by unfold R.TRB_CTX_CTL R.TRB_CTX_STAT; omega
  have hhi : R.TRB_CTX_STAT i < R.TRB_CTX_CTL i + 0x40 := by unfold R.TRB_CTX_CTL R.TRB_CTX_STAT; omega
  have hset : BankStep (R.TRB_CTX_CTL i) i s (overlay (u.setCtx i x) (snapWords i ws)) := bankStep_overlay ((h.mono hlo).setCtx x) (snapWords_mem hl)
  have hstat : WordsKept (overlay (u.setCtx i x) (snapWords i ws)) (ctxTaken i ws tune x u) [R.TRB_CTX_STAT i] :=
    wordsKept_step (wordsKept_step (wordsKept_setFlag _ (R.TRB_CTX_STAT_CFG_REJ i) false) (wordsKept_setFld _ (R.TRB_CTX_STAT_REASON i) 0)) (wordsKept_setFld _ (R.TRB_CTX_STAT_TUNE_SEQ i) tune)
  refine ⟨?_, cset_of_words fun k hk => ?_, ?_, ?_, ?_, ((hset.setWord _ hlo' hhi).setWord _ hlo' hhi).setWord _ hlo' hhi⟩
  · refine (ctx_congr (s := u.setCtx i x) ?_ i).trans (ctx_setCtx_same ..)
    exact congrArg Trb.ctx (overlay_trb ..)
  · refine (hstat _ ?_).trans (word_overlay_congr _ (h.setting (by omega)))
    simp only [R.TRB_CTX_CTL, R.TRB_CTX_STAT, List.mem_singleton]
    omega
  · rw [State.flag, ctxTaken, State.fld_setFld_apart _ _ (by decide : 16 ≤ 31) (by decide : 31 < 32) (.inr (by decide : 6 < 16)),
      State.fld_setFld_apart _ _ (by decide : 7 ≤ 9) (by decide : 9 < 32) (.inr (by decide : 6 < 7))]
    exact State.flag_setFlag_same _ (R.TRB_CTX_STAT_CFG_REJ i) false rfl (by decide : 6 < 32)
  · rw [ctxTaken, State.fld_setFld_apart _ _ (by decide : 16 ≤ 31) (by decide : 31 < 32) (.inr (by decide : 9 < 16))]
    exact State.fld_setFld_same _ (R.TRB_CTX_STAT_REASON i) 0 (by decide : 7 ≤ 9) (by decide : 9 < 32)
  · exact State.fld_setFld_same _ (R.TRB_CTX_STAT_TUNE_SEQ i) tune (by decide : 16 ≤ 31) (by decide : 31 < 32)

/-- A snapshot taken: what it leaves. -/
theorem ctxApply_taken {i : Nat} {ws : List Nat} {s : State} {new : CSet} (hs : (s.ctx i).snap = some ws) (hl : ws.length = 12)
    (hnew : new = (overlay s (snapWords i ws)).cset i) (hr : ctxReason s i new = 0) :
    let t := ctxApply i s
    (∃ m0 y, Ended (s.cset i) new { s.ctx i with snap := none } y ∧ t.ctx i = { ctxRenewed (s.cset i) new m0 y with lastRep := none, lastIq := none }) ∧
      t.cset i = new ∧ t.flag (R.TRB_CTX_STAT_CFG_REJ i) = false ∧ t.fld (R.TRB_CTX_STAT_REASON i) = 0 ∧
      t.fld (R.TRB_CTX_STAT_TUNE_SEQ i) = (s.fld (R.TRB_CTX_STAT_TUNE_SEQ i) + 1) % 65536 ∧ BankStep (R.TRB_CTX_CTL i) i s t := by
  obtain ⟨m0, ht⟩ := ctxApply_accepts hs hnew hr
  obtain ⟨hstep, hend⟩ := ctxClosed_spec i (s.cset i) new (s.setCtx i { s.ctx i with snap := none })
  have hstep := ((BankStep.refl _ i s).setCtx { s.ctx i with snap := none }).trans hstep
  rw [ctx_setCtx_same] at hend
  obtain ⟨hctx, hcset, hrest⟩ := ctxTaken_spec (tune := s.fld (R.TRB_CTX_STAT_TUNE_SEQ i) + 1) { ctxRenewed (s.cset i) new m0 (State.ctx _ i) with lastRep := none, lastIq := none } hl hstep
  rw [ht]
  exact ⟨⟨m0, _, hend, hctx⟩, hcset.trans hnew.symm, hrest⟩

/-- A context whose settings restart it. -/
theorem ctxRenewed_restarts {old new : CSet} (m0 : Nat) (y : Ctx) (h : restarts old new = true) : ctxRenewed old new m0 y = y.cleared m0 := if_pos h

/-- One that goes on. -/
theorem ctxRenewed_goesOn {old new : CSet} (m0 : Nat) (y : Ctx) (h : restarts old new = false) : ctxRenewed old new m0 y =
    { y with
      nc := if retunes old new then y.n else y.nc
      nv := if retunes old new || revideos old new then y.n else y.nv
      vid := if revideos old new then [] else y.vid
      vsum := if revideos old new then 0 else y.vsum
      repFrom := cdiv y.n new.blk * new.blk
      run := if requalifies old new then 0 else y.run } := if_neg (ne_true_of_eq_false h)

theorem revideos_iff {old new : CSet} : revideos old new = true ↔ old.vlen ≠ new.vlen ∨ old.vidOff ≠ new.vidOff := by simp [revideos]

theorem retunes_iff {old new : CSet} : retunes old new = true ↔ old.ftw ≠ new.ftw := by simp [retunes]

/-- What a commit ends leaves the outputs, the chain and the video history. -/
theorem Ended.same {old new : CSet} {x y : Ctx} (h : Ended old new x y) :
    y.snap = x.snap ∧ y.n = x.n ∧ y.m0 = x.m0 ∧ y.phase = x.phase ∧ y.chain = x.chain ∧ y.vid = x.vid ∧ y.nc = x.nc ∧ y.iq = [] := by
  obtain ⟨b, r, q, l, e, rfl⟩ := h
  exact ⟨rfl, rfl, rfl, rfl, rfl, rfl, rfl, rfl⟩

theorem Ended.qualification {old new : CSet} {x y : Ctx} (h : Ended old new x y) :
    y.on = (if restarts old new || retunes old new || revideos old new then false else x.on) ∧
    y.run = if restarts old new || retunes old new || revideos old new then 0 else x.run := by
  obtain ⟨b, r, q, l, e, rfl⟩ := h
  exact ⟨rfl, rfl⟩

/-- Qualification is OFF under settings that change the video values. -/
theorem ctxRenewed_off {old new : CSet} {x y : Ctx} (m0 : Nat) (hy : Ended old new x y) (h : restarts old new = true ∨ retunes old new = true ∨ revideos old new = true) :
    (ctxRenewed old new m0 y).on = false ∧ (ctxRenewed old new m0 y).run = 0 := by
  have hch : (restarts old new || retunes old new || revideos old new) = true := by rcases h with h | h | h <;> simp [h]
  obtain ⟨hon, hrun⟩ := hy.qualification
  rw [if_pos hch] at hon hrun
  cases hres : restarts old new
  · rw [ctxRenewed_goesOn _ _ hres]
    exact ⟨hon, by rw [hrun, ite_self]⟩
  · rw [ctxRenewed_restarts _ _ hres]
    exact ⟨rfl, rfl⟩

/-- Under other settings its state stays; the run counter starts anew with a change of THR or MIN. -/
theorem ctxRenewed_kept {old new : CSet} {x y : Ctx} (m0 : Nat) (hy : Ended old new x y) (hres : restarts old new = false) (hftw : retunes old new = false) (hvid : revideos old new = false) :
    (ctxRenewed old new m0 y).on = x.on ∧ (ctxRenewed old new m0 y).run = if old.thr = new.thr ∧ old.min = new.min then x.run else 0 := by
  obtain ⟨hon, hrun⟩ := hy.qualification
  rw [hres, hftw, hvid] at hon hrun
  rw [ctxRenewed_goesOn _ _ hres]
  refine ⟨hon, ?_⟩
  by_cases hthr : old.thr = new.thr ∧ old.min = new.min
  · rw [if_pos hthr]
    exact (if_neg (by simp [requalifies, hthr])).trans hrun
  · rw [if_neg hthr]
    exact if_pos (by simpa [requalifies, or_iff_not_imp_left] using hthr)

/-- The snapshot has gone, and no IQ record is open. -/
theorem ctxRenewed_waits {old new : CSet} {x y : Ctx} (m0 : Nat) (hy : Ended old new x y) : (ctxRenewed old new m0 y).snap = x.snap ∧ (ctxRenewed old new m0 y).iq = [] := by
  obtain ⟨hsnap, -, -, -, -, -, -, hiq⟩ := hy.same
  cases hres : restarts old new
  · rw [ctxRenewed_goesOn _ _ hres]
    exact ⟨hsnap, hiq⟩
  · rw [ctxRenewed_restarts _ _ hres]
    exact ⟨hsnap, rfl⟩

/-! REPORT and RESET_CTX (R212). -/

/-- At the start of an output block a new report begins with the next output. -/
theorem repFrom_newReport {c : CSet} {x : Ctx} (h : atBlock c x = true) : (x.newReport c.blk).repFrom = x.n := by
  have hdvd : c.blk ∣ x.n := Nat.dvd_of_mod_eq_zero (by simpa using (Bool.and_eq_true_iff.mp h).2)
  have hpos : 0 < c.blk := Nat.two_pow_pos _
  obtain ⟨k, hk⟩ := hdvd
  show (x.n + c.blk - 1) / c.blk * c.blk = x.n
  rw [hk, Nat.add_sub_assoc hpos, Nat.mul_add_div hpos, Nat.div_eq_of_lt (by omega), Nat.add_zero, Nat.mul_comm]

theorem reported_spec (i : Nat) (x : Ctx) (v0 v1 : Nat) (s : State) :
    let t := reported i x v0 v1 s
    t = { s.setCtx i x with regs := t.regs } ∧ t.wordN (R.TRB_CTX_RSEQ i) = (s.wordN (R.TRB_CTX_RSEQ i) + 1) % 2 ^ 32 ∧
      WordsKept s t [R.TRB_CTX_RSEQ i, R.TRB_CTX_LPWR i, R.TRB_CTX_LVID i] := by
  refine ⟨rfl, ?_, ?_⟩
  · rw [reported, State.wordN_setWord, if_pos rfl, Nat.mod_mod]
  · have h := wordsKept_trans (wordsKept_trans (wordsKept_setWord (s.setCtx i x) (R.TRB_CTX_LPWR i) v0) (wordsKept_setFld _ (R.TRB_CTX_LVID_PEAK i) v1))
      (wordsKept_setWord _ (R.TRB_CTX_RSEQ i) ((s.wordN (R.TRB_CTX_RSEQ i) + 1) % 2 ^ 32))
    exact wordsKept_mono h (by simp [R.TRB_CTX_LVID_PEAK])

theorem wordsKept_queueRec (bs : List Byte) (s : State) : WordsKept s (queueRec bs s) [R.TRB_RECQ_DROP, R.TRB_RECQ_DROP + 4] := by
  unfold queueRec
  split
  · exact wordsKept_of_regs rfl
  · exact wordsKept_bump64 s R.TRB_RECQ_DROP 1

theorem queueRec_eq (bs : List Byte) (s : State) : queueRec bs s = { s with trb := (queueRec bs s).trb, regs := (queueRec bs s).regs, rep := (queueRec bs s).rep } := by
  unfold queueRec
  split
  · rfl
  · rfl

/-- A report that holds outputs, where it goes. -/
theorem endReport_emits {i : Nat} (g : Grid) {c : CSet} {s : State} (h : (s.ctx i).repFrom < (s.ctx i).n) (hr : c.repEn = true) :
    let t := endReport i g c s
    (∃ r, t.ctx i = { (s.ctx i).newReport c.blk with lastRep := r }) ∧ t.wordN (R.TRB_CTX_RSEQ i) = (s.wordN (R.TRB_CTX_RSEQ i) + 1) % 2 ^ 32 ∧
      (s.trb.recq.length < 4096 → ∃ bs : List Byte, bs.length = 64 ∧ t.trb.recq = s.trb.recq ++ [bs] ∧ t.rep = s.rep) ∧
      (4096 ≤ s.trb.recq.length → t.trb.recq = s.trb.recq ∧ t.pair R.TRB_RECQ_DROP = (s.pair R.TRB_RECQ_DROP + 1) % 2 ^ 64 ∧ Event hBank 1 s t) ∧
      t = { s with trb := t.trb, regs := t.regs, rep := t.rep } ∧ WordsKept s t [R.TRB_CTX_RSEQ i, R.TRB_CTX_LPWR i, R.TRB_CTX_LVID i, R.TRB_RECQ_DROP, R.TRB_RECQ_DROP + 4] := by
  obtain ⟨bs, r, v0, v1, hlen, he⟩ := endReport_some g h hr
  obtain ⟨heq, hseq, hwords⟩ := reported_spec i { (s.ctx i).newReport c.blk with lastRep := r } v0 v1 s
  rw [he]
  generalize reported i { (s.ctx i).newReport c.blk with lastRep := r } v0 v1 s = u at *
  have hqueue := wordsKept_queueRec bs u
  have hfar : R.TRB_RECQ_DROP + 4 < R.TRB_CTX_LPWR i ∧ R.TRB_CTX_LPWR i < R.TRB_CTX_LVID i ∧ R.TRB_CTX_LVID i < R.TRB_CTX_RSEQ i := by
    simp only [R.TRB_CTX_LPWR, R.TRB_CTX_LVID, R.TRB_CTX_RSEQ, R.TRB_RECQ_DROP]
    omega
  have hpair := pair_of_kept hwords (o := R.TRB_RECQ_DROP) (by simp only [List.mem_cons, List.not_mem_nil, or_false]; omega) (by simp only [List.mem_cons, List.not_mem_nil, or_false]; omega)
  have htrb : u.trb.recq = s.trb.recq := by rw [heq]; rfl
  have hrep : u.rep = s.rep := by rw [heq]; rfl
  refine ⟨⟨r, ?_⟩, ?_, fun hlt => ?_, fun hle => ?_, ?_, wordsKept_trans hwords hqueue⟩
  · rw [ctx_queueRec, heq]
    exact ctx_setCtx_same ..
  · exact (wordN_of_kept hqueue (by simp only [List.mem_cons, List.not_mem_nil, or_false]; omega)).trans hseq
  · rw [queueRec_queues (htrb ▸ hlt)]
    exact ⟨bs, hlen, congrArg (· ++ [bs]) htrb, hrep⟩
  · rw [queueRec_drops (htrb ▸ hle)]
    exact ⟨htrb, (pair_congr (raise_regs ..) _).trans ((pair_bump64 ..).trans (by rw [hpair])), event_raise_of (s := s) (u := u.bump64 R.TRB_RECQ_DROP 1) hBank 1 hrep⟩
  · refine (queueRec_eq bs u).trans ?_
    rw [heq]
    rfl

/-- A context reset: the first row of R199. -/
theorem resetCtx_spec (i : Nat) (s : State) (hw : ctxWhy s (s.cset i) = 0) :
    RecordStep i s (resetCtx i s) ∧ ∃ b r q l e, (resetCtx i s).ctx i =
      { (s.ctx i).newReport b with on := false, run := 0, lastRep := r, iq := [], iqSeq := q, lastIq := l, evSeq := e }.cleared ((s.ctx i).m0 + (s.ctx i).ins / (s.cset i).nch) := by
  obtain ⟨h1, r, q, l, hctx⟩ := endOpen_spec i s
  obtain ⟨h2, e, he⟩ := forceOff_spec i (s.chGrid (s.cset i).port) (s.cset i) (endOpen i s)
  refine ⟨(h1.trans h2).setCtx _, (s.cset i).blk, r, q, l, e, ?_⟩
  rw [resetCtx, ctx_setCtx_same, hw]
  simp only [resumeAt, beq_self_eq_true, if_true, he, hctx]
  rfl

/-! A round of a bank with one context (R187, R191). -/

/-- The bank in its round. -/
def roundBegun (s : State) : State := { s with trb := { s.trb with started := true } }

/-- The coarse samples noted at the end of a round. -/
def roundEnded (s : State) : State := { s with trb := { s.trb with mark := s.trb.grid.map fun e => (e.1, e.2.next) } }

theorem trbRound_eq (s : State) :
    trbRound s = roundEnded (if s.faultBit hBank 1 then roundBegun s else (s.trb.ctx.map Prod.fst).foldl (fun u i => ctxRound i u) (roundBegun s)) := rfl

theorem trbRound_idle {s : State} (h : s.trb.ctx = [] ∨ s.faultBit hBank 1 = true) : trbRound s = roundEnded (roundBegun s) := by
  rw [trbRound_eq]
  rcases h with h | h
  · rw [h, List.map_nil, List.foldl_nil, ite_self]
  · rw [if_pos h]

theorem trbRound_single {s : State} {i : Nat} {x : Ctx} (hf : s.faultBit hBank 1 = false) (hc : s.trb.ctx = [(i, x)]) : trbRound s = roundEnded (ctxRound i (roundBegun s)) := by
  rw [trbRound_eq, if_neg (ne_true_of_eq_false hf), hc]
  rfl

/-- A context that produces nothing, before and after it takes what waits. -/
theorem ctxRound_idle {i : Nat} {s : State} (hw : ctxWhy s (s.cset i) ≠ 0)
    (h : Tbl.find (ctxPending i s).trb.grid ((ctxPending i s).cset i).port = none ∨ ctxWhy (ctxPending i s) ((ctxPending i s).cset i) ≠ 0) : ctxRound i s = ctxPending i s := by
  unfold ctxRound
  extract_lets u p
  have hu : u = ctxPending i s := if_pos hw
  rw [← hu] at h ⊢
  split
  · rfl
  · rename_i g hg
    exact if_neg (h.resolve_left (by rw [hg]; exact Option.some_ne_none g))

theorem ctx_single {s : State} {i : Nat} {x : Ctx} (h : s.trb.ctx = [(i, x)]) : s.ctx i = x := by
  rw [State.ctx, h]
  exact if_pos rfl

/-! The boundary (R192). -/

theorem ctxBlockBoundary_none {i : Nat} {s : State}
    (h : s.faultBit hBank 1 = true ∨ ctxWhy s (s.cset i) ≠ 0 ∨ atBlock (s.cset i) (s.ctx i) = false ∨ ((s.ctx i).snap = none ∧ (s.ctx i).report = false ∧ (s.ctx i).reset = false)) :
    ctxBlockBoundary i s = s := by
  unfold ctxBlockBoundary
  split_ifs with hf hb
  · rfl
  · rw [Bool.and_eq_true, decide_eq_true_eq] at hb
    rcases h with h | h | h | ⟨hs, hrep, hrst⟩
    · exact absurd h hf
    · exact absurd hb.1 h
    · exact absurd hb.2 (ne_true_of_eq_false h)
    · exact ctxPending_none hs hrep hrst
  · rfl

theorem ctxBlockBoundary_reached {i : Nat} {s : State} (hf : s.faultBit hBank 1 = false) (hw : ctxWhy s (s.cset i) = 0) (hb : atBlock (s.cset i) (s.ctx i) = true) :
    ctxBlockBoundary i s = ctxPending i s := by
  rw [ctxBlockBoundary, hf, hw, hb]
  rfl

theorem exec_ctxBlockBoundary {i : Fin 16384} {s t : State} (h : ctxBlockBoundary i s = t) : exec (.ctxBlockBoundary i) s = .next t := congrArg Host.Outcome.next h

end Sys2Proof.Machine

open Sys2Proof Sys2Proof.Machine Sys2Proof.Claims

/-- Settles O24: what takes effect at the boundary, case by case. -/
theorem contextBoundary : Obligations.ContextBoundary := by
  unfold Obligations.ContextBoundary
  intro s i x ws old new why o first hx hold hnew hwhy hfirst
  have hfirst : first = restarts old new := hfirst
  subst hx hold hwhy hfirst
  have hnew' : new = (overlay (roundBegun s) (snapWords i ws)).cset i := hnew.trans (cset_congr (regs_overlay_congr (s := roundBegun s) (t := s) (snapWords i ws) rfl) i)
  refine ⟨fun h => ⟨_, exec_ctxBlockBoundary (ctxBlockBoundary_none h), rfl⟩, fun hf hw hb hrep hrst hs hne => ?rejects, fun hf hw hb hrep hrst hs hl hr => ?takes,
    fun hf hw hb hrep hrst hs hen hopen => ?reports, fun hf hw hb hrep hrst hs hen => ?resets, fun hf hc hw hrep hrst hs hne => analyses_of rfl ?roundRejects,
    fun hf hc hw hrep hrst hs hl hr hg => analyses_of rfl ?roundTakes⟩
  case rejects =>
    exact ⟨_, exec_ctxBlockBoundary ((ctxBlockBoundary_reached hf hw hb).trans (ctxPending_commit hrep hrst)), ctxApply_rejected hs hnew hne⟩
  case takes =>
    refine ⟨_, exec_ctxBlockBoundary ((ctxBlockBoundary_reached hf hw hb).trans (ctxPending_commit hrep hrst)), ?_⟩
    obtain ⟨⟨m0, y, hend, hctx⟩, hcset, hflag, hreason, htune, hstep⟩ := ctxApply_taken hs hl hnew hr
    obtain ⟨-, hn, hm0, hphase, hchain, hvid, hnc, -⟩ := hend.same
    obtain ⟨hsnap, hiq⟩ := ctxRenewed_waits m0 hend
    have hcleared := ctxRenewed_restarts (new := new) (old := s.cset i) m0 y
    have hgoesOn := ctxRenewed_goesOn (new := new) (old := s.cset i) m0 y
    rw [hctx]
    refine ⟨hcset, hsnap, hflag, hreason, htune, hiq, fun h => ?_, fun h => ?_, fun h hne => ?_, fun h he => ?_, fun h hne => ?_, fun h hl ho => ?_, fun h => ?_, fun h hftw hl ho => ?_, ?_, hstep.words o,
      hstep.reports⟩
    · rw [hcleared h]
      exact ⟨rfl, rfl, rfl, rfl, rfl, rfl, rfl⟩
    · rw [hgoesOn h]
      exact ⟨hn, hm0, hphase, hchain, congrArg (fun n => cdiv n new.blk * new.blk) hn⟩
    · rw [hgoesOn h, retunes_iff.mpr hne]
      exact ⟨hn, hn⟩
    · rw [hgoesOn h, Bool.eq_false_iff.mpr fun hr => retunes_iff.mp hr he]
      exact hnc
    · rw [hgoesOn h, revideos_iff.mpr hne]
      exact ⟨rfl, (if_pos (Bool.or_true _)).trans hn⟩
    · rw [hgoesOn h, Bool.eq_false_iff.mpr fun hr => (revideos_iff.mp hr).elim (· hl) (· ho)]
      exact hvid
    · exact ctxRenewed_off m0 hend (h.imp_right (Or.imp retunes_iff.mpr revideos_iff.mpr))
    · obtain ⟨hon, hrun⟩ := ctxRenewed_kept m0 hend h (Bool.eq_false_iff.mpr fun hr => retunes_iff.mp hr hftw) (Bool.eq_false_iff.mpr fun hr => (revideos_iff.mp hr).elim (· hl) (· ho))
      exact ⟨hon, hrun⟩
    · exact hstep.frame
  case reports =>
    refine ⟨_, exec_ctxBlockBoundary ((ctxBlockBoundary_reached hf hw hb).trans (ctxPending_report hs hrep hrst)), ?_⟩
    obtain ⟨⟨r, hctx⟩, hseq, hqueues, hdrops, heq, hwords⟩ := endReport_emits (s.chGrid (s.cset i).port) hopen hen
    generalize endReport i (s.chGrid (s.cset i).port) (s.cset i) s = u at *
    dsimp only
    rw [ctx_setCtx_same, hctx]
    refine ⟨rfl, repFrom_newReport hb, rfl, rfl, rfl, rfl, hseq, fun hlt => ?_, hdrops, ?_, hwords⟩
    · obtain ⟨bs, hlen, hrecq, hr⟩ := hqueues hlt
      rw [show (u.setCtx i _).trb.recq = _ from hrecq]
      exact ⟨List.length_append, List.take_left, hr, by rw [List.getLast?_concat, Option.map_some, hlen]⟩
    · exact congrArg (fun w : State => w.setCtx i { (s.ctx i).newReport (s.cset i).blk with lastRep := r, report := false }) heq
  case resets =>
    refine ⟨_, exec_ctxBlockBoundary ((ctxBlockBoundary_reached hf hw hb).trans (ctxPending_reset hs hrep hrst hen)), ?_⟩
    obtain ⟨hstep, b, r, q, l, e, hctx⟩ := resetCtx_spec i s hw
    rw [hctx]
    exact ⟨rfl, rfl, rfl, rfl, rfl, rfl, rfl, rfl, rfl, rfl, hstep.cset, rfl, rfl, hstep.frame⟩
  case roundRejects =>
    have happly : ctxPending i (roundBegun s) = ctxApply i (roundBegun s) := ctxPending_commit (s := roundBegun s) hrep hrst
    obtain ⟨hflag, hreason, -, hcset, heq, hwords, -⟩ := ctxApply_rejected (s := roundBegun s) hs hnew' hne
    have hidle := ctxRound_idle (i := i) (s := roundBegun s) hw
    rw [happly] at hidle
    rw [trbRound_single hf hc]
    generalize ctxApply i (roundBegun s) = u at *
    have hctx : u.ctx i = { s.ctx i with snap := none } := by
      rw [heq]
      exact ctx_setCtx_same ..
    have hstarted : u.trb.started = true := by
      rw [heq]
      rfl
    have hmem : u.mem = s.mem := by
      rw [heq]
      rfl
    have hwhy : ctxWhy u (u.cset i) = ctxWhy s (s.cset i) := by
      rw [hcset]
      refine ctxWhy_of_words _ fun o ho => hwords o ?_
      simp only [R.TRB_CTX_STAT, R.TRB_CFG_REJ, List.mem_cons, List.not_mem_nil, or_false]
      omega
    rw [hidle (.inr (hwhy.trans_ne hw))]
    exact ⟨hflag, hreason, hcset, hctx, hmem, hstarted⟩
  case roundTakes =>
    have happly : ctxPending i (roundBegun s) = ctxApply i (roundBegun s) := ctxPending_commit (s := roundBegun s) hrep hrst
    obtain ⟨⟨m0, y, hend, hctx⟩, hcset, hflag, hreason, htune, hstep⟩ := ctxApply_taken (s := roundBegun s) hs hl hnew' hr
    rw [← happly] at hflag hreason hcset hctx htune hstep
    have hgrid : Tbl.find (ctxPending i (roundBegun s)).trb.grid ((ctxPending i (roundBegun s)).cset i).port = none := by
      rw [hcset, hstep.grid]
      exact hg
    rw [trbRound_single hf hc, ctxRound_idle (s := roundBegun s) hw (.inl hgrid)]
    generalize ctxPending i (roundBegun s) = u at *
    have hmem : u.mem = s.mem := by
      rw [hstep.frame]
      rfl
    refine ⟨hcset, ?_, hflag, hreason, htune, fun h => ?_, hmem, hstep.started⟩
    · exact (congrArg Ctx.snap hctx).trans (ctxRenewed_waits m0 hend).1
    · rw [show (roundEnded u).ctx i = _ from hctx, show ctxRenewed ((roundBegun s).cset i) new m0 y = _ from ctxRenewed_restarts m0 y h]
      exact ⟨rfl, rfl, rfl, rfl, rfl⟩
end

section
/-! Coarse samples and scheduling rounds of the tributary bank (R185 to R187, R191, R195, R197, R207): the next coarse sample of a port, and how far a round takes the context that it serves. -/

namespace Sys2Proof.Machine

open Sys2Proof.Claims

/-! The next coarse sample (R186). -/

/-- The next coarse sample of a grid has been released. -/
def coarseTaken (p : Nat) (g : Grid) (s : State) : State := { s with trb := { s.trb with grid := Tbl.set s.trb.grid p { g with next := g.next + 1 } } }

theorem coarseSample_released {s : State} {p : Nat} {g : Grid} (hg : Tbl.find s.trb.grid p = some g) (hs : s.slave p = false) (hspan : g.next * g.hc + 16 * g.hc ≤ g.points s p) :
    coarseSample p s = countCoarse p (coarseSats s p g g.next) (coarseTaken p g s) := by
  unfold coarseSample
  rw [hg]
  exact if_neg (by simp [hs, hspan])

theorem coarseSample_early {s : State} {p : Nat} {g : Grid} (hg : Tbl.find s.trb.grid p = some g) (h : s.slave p = true ∨ g.points s p < g.next * g.hc + 16 * g.hc) :
    coarseSample p s = s := by
  unfold coarseSample
  rw [hg]
  exact if_pos (by rcases h with h | h <;> simp [h])

theorem coarseSample_idle {s : State} {p : Nat} (hg : Tbl.find s.trb.grid p = none) : coarseSample p s = s := by
  unfold coarseSample
  rw [hg]

theorem countCoarse_none (p : Nat) (s : State) : countCoarse p 0 s = s := rfl

theorem countCoarse_some (p : Nat) {k : Nat} (s : State) (h : 0 < k) : countCoarse p k s = raise (hChn p) 0 (s.bump64 (R.TRB_CH_SAT p) k) := if_pos h

/-- Clamped channels counted: the counter, and an event where there were any. -/
theorem countCoarse_spec (p k : Nat) {s u : State} (hr : u.rep = s.rep) :
    let t := countCoarse p k u
    t = { u with regs := t.regs, rep := t.rep } ∧ t.pair (R.TRB_CH_SAT p) = (u.pair (R.TRB_CH_SAT p) + k) % 2 ^ 64 ∧ WordsKept u t [R.TRB_CH_SAT p, R.TRB_CH_SAT p + 4] ∧
      (0 < k → Event (hChn p) 0 s t) ∧ (k = 0 → t.rep = s.rep) := by
  rcases Nat.eq_zero_or_pos k with rfl | hk
  · rw [countCoarse_none]
    exact ⟨rfl, (Nat.mod_eq_of_lt (pair_lt u _)).symm, fun _ _ => rfl, fun h => absurd h (Nat.lt_irrefl 0), fun _ => hr⟩
  · rw [countCoarse_some p u hk]
    exact ⟨rfl, (pair_congr (raise_regs ..) _).trans (pair_bump64 ..), wordsKept_bump64 u _ k,
      fun _ => event_raise_of (s := s) (u := u.bump64 (R.TRB_CH_SAT p) k) (hChn p) 0 hr, fun h => absurd h (Nat.ne_of_gt hk)⟩

/-! A context served (R187, R190, R195). -/

/-- What of a context tells how far it has come, and what waits for it. -/
structure Course where
  snap : Option (List Nat)
  reset : Bool
  report : Bool
  m0 : Nat
  ins : Nat
  n : Nat
  phase : Nat
  nc : Nat
  nv : Nat

def Ctx.course (x : Ctx) : Course := ⟨x.snap, x.reset, x.report, x.m0, x.ins, x.n, x.phase, x.nc, x.nv⟩

/-- `t` comes of `s` by the service of context `i`, whose course is `q` by then: the grids, the ports and the context's settings are as they were. -/
structure InRound (i : Nat) (s : State) (q : Course) (t : State) : Prop where
  trb : t.trb = { s.trb with ctx := t.trb.ctx, recq := t.trb.recq, iqq := t.trb.iqq }
  words : ∀ o, (o < 0x01000000 ∨ R.TRB_CTX_CTL i ≤ o ∧ o < R.TRB_CTX_STAT i) → t.word o = s.word o
  course : (t.ctx i).course = q

namespace InRound

variable {i : Nat} {q : Course} {s t u : State}

theorem refl (i : Nat) (s : State) : InRound i s (s.ctx i).course s := ⟨rfl, fun _ _ => rfl, rfl⟩

theorem cset (h : InRound i s q t) : t.cset i = s.cset i := cset_of_words fun k hk => h.words _ (.inr (by unfold R.TRB_CTX_CTL R.TRB_CTX_STAT; omega))

theorem why (h : InRound i s q t) (c : CSet) : ctxWhy t c = ctxWhy s c := ctxWhy_of_words c fun o ho => h.words o (.inl ho)

theorem trans {q' : Course} (h : InRound i s q t) (k : InRound i t q' u) : InRound i s q' u where
  trb := k.trb.trans (congrArg (fun b : Trb => { b with ctx := u.trb.ctx, recq := u.trb.recq, iqq := u.trb.iqq }) h.trb)
  words o ho := (k.words o ho).trans (h.words o ho)
  course := k.course

theorem setCtx {q' : Course} (h : InRound i s q t) (x : Ctx) (hx : x.course = q') : InRound i s q' (t.setCtx i x) :=
  h.trans ⟨rfl, fun _ _ => rfl, (congrArg Ctx.course (ctx_setCtx_same ..)).trans hx⟩

theorem same (h : InRound i s q t) (htrb : u.trb = t.trb) (hregs : u.regs = t.regs) : InRound i s q u :=
  h.trans ⟨by rw [htrb], fun o _ => State.word_congr hregs o, (congrArg Ctx.course (ctx_congr (congrArg Trb.ctx htrb) i)).trans h.course⟩

theorem words_kept (h : InRound i s q t) {ws : List Nat} (htrb : u.trb = t.trb) (hw : WordsKept t u ws) (hws : ∀ o ∈ ws, 0x01000000 ≤ o ∧ (o < R.TRB_CTX_CTL i ∨ R.TRB_CTX_STAT i ≤ o)) :
    InRound i s q u :=
  h.trans ⟨by rw [htrb], fun o ho => hw o fun hm => by have := hws o hm; omega, (congrArg Ctx.course (ctx_congr (congrArg Trb.ctx htrb) i)).trans h.course⟩

theorem takeFree (h : InRound i s q t) (n : Nat) : InRound i s q (t.takeFree n).2 := h.same rfl rfl

theorem unitPoolWrite (h : InRound i s q t) (v a : Nat) (bs : List Byte) : InRound i s q (unitPoolWrite v a bs t) :=
  h.same (by rw [unitPoolWrite_eq]) (by rw [unitPoolWrite_eq])

/-- Reports, events and IQ records leave the course. -/
theorem record (h : InRound i s q t) (k : RecordStep i t u) (hq : (u.ctx i).course = (t.ctx i).course) : InRound i s q u :=
  h.trans ⟨congrArg State.trb k.eq, fun o ho => k.words o (by unfold R.TRB_CTX_CTL R.TRB_CTX_STAT at ho; unfold R.TRB_CTX_LPWR R.TRB_CTX_CTL; omega)
    (by unfold R.TRB_CTX_CTL R.TRB_CTX_STAT at ho; unfold R.TRB_RECQ_DROP R.TRB_IQ_DROP; omega), hq.trans h.course⟩

theorem endReport (h : InRound i s q t) (g : Grid) (c : CSet) : InRound i s q (endReport i g c t) := by
  obtain ⟨hstep, r, hctx⟩ := endReport_spec i g c t
  exact h.record hstep (by rw [hctx]; rfl)

theorem endIq (h : InRound i s q t) (g : Grid) (c : CSet) : InRound i s q (endIq i g c t) := by
  obtain ⟨hstep, r, l, hctx⟩ := endIq_spec i g c t
  exact h.record hstep (by rw [hctx]; rfl)

theorem emitEvent (h : InRound i s q t) (g : Grid) (c : CSet) (on forced : Bool) (psw dtF dtL edge level run : Nat) :
    InRound i s q (emitEvent i g c on forced psw dtF dtL edge level run t) := by
  obtain ⟨hstep, e, hctx⟩ := notes_emitEvent i g c on forced psw dtF dtL edge level run t
  exact h.record hstep (by rw [hctx]; rfl)

theorem qualify (h : InRound i s q t) (g : Grid) (c : CSet) (n : Nat) (code : Int) (clamp : Bool) : InRound i s q (qualify i g c n code clamp t) := by
  have hset (x : Ctx) (hx : x.course = (t.ctx i).course) : InRound i s q (t.setCtx i x) := h.setCtx x (hx.trans h.course)
  unfold Machine.qualify
  extract_lets x hit first y a sp s1
  split
  · exact hset _ rfl
  · by_cases hc : y.run < if x.on then c.minOff else c.minOn
    · rw [if_pos hc]
      exact hset y rfl
    · rw [if_neg hc]
      exact (hset { y with on := !x.on, run := 0, onAt := if x.on then x.onAt else y.onset } rfl).emitEvent ..

theorem chainOut (h : InRound i s q t) (present : Bool) (rc : Nat) (x : Ctx) : InRound i s q (chainOut i present rc x t).2 := by
  unfold Machine.chainOut
  split_ifs
  · exact (h.takeFree (2 ^ 24)).takeFree (2 ^ 24)
  · exact h.same rfl rfl
  · exact h

theorem chainFetch (h : InRound i s q t) : InRound i s q (chainFetch i t) := by
  unfold Machine.chainFetch
  split
  · exact h.setCtx { t.ctx i with spoilt := some ((t.ctx i).spoilt.getD (t.ctx i).n) } h.course
  · exact h

theorem chainStore (h : InRound i s q t) : InRound i s q (chainStore i t) := (h.takeFree _).unitPoolWrite ..

/-- Chain inputs taken: the phase goes on by FTW for each. -/
theorem ctxTake (h : InRound i s q t) (g : Grid) (c : CSet) (m : Nat) :
    InRound i s { q with ins := m, phase := (q.phase + c.ftw * (m - q.ins)) % 2 ^ 32 } (ctxTake i g c m t) := by
  obtain rfl := h.course
  exact h.setCtx _ rfl

theorem clampCounted (h : InRound i s q t) : InRound i s q (raise hBank 3 (t.bump64 R.TRB_SAT 1)) := by
  have hfar : ∀ o ∈ [R.TRB_SAT, R.TRB_SAT + 4], 0x01000000 ≤ o ∧ (o < R.TRB_CTX_CTL i ∨ R.TRB_CTX_STAT i ≤ o) := by
    simp only [R.TRB_SAT, R.TRB_CTX_CTL, List.mem_cons, List.not_mem_nil, or_false]
    omega
  have hcount : InRound i s q (t.bump64 R.TRB_SAT 1) := h.words_kept rfl (wordsKept_bump64 t R.TRB_SAT 1) hfar
  exact hcount.same rfl rfl

/-- One output more. -/
theorem ctxOutput (h : InRound i s q t) (g : Grid) (c : CSet) (overlap : Bool) : InRound i s { q with n := q.n + 1 } (ctxOutput i g c overlap t) := by
  unfold Machine.ctxOutput
  extract_lets x n fr f sat re im pw lost old sum vr v s1 dc inRep sOut vOut sVid top y s2 s3 s4 s5
  have hf : InRound i s q fr.2 := h.chainOut ..
  have h1 : InRound i s q s1 := by
    by_cases hc : overlap = true
    · rw [show s1 = vr.2 from if_pos hc]
      exact hf.takeFree _
    · rw [show s1 = fr.2 from if_neg hc]
      exact hf
  have hy : y.course = { q with n := q.n + 1 } := by
    obtain rfl := h.course
    rfl
  have hlvid : InRound i s { q with n := q.n + 1 } ((s1.setCtx i y).setFld (R.TRB_CTX_LVID_LATEST i) (enc 16 dc.1)) :=
    (h1.setCtx y hy).words_kept (ws := [R.TRB_CTX_LVID i]) rfl (wordsKept_setFld _ (R.TRB_CTX_LVID_LATEST i) _)
      (by simp only [R.TRB_CTX_LVID, R.TRB_CTX_STAT, List.mem_singleton]; omega)
  have h2 : InRound i s { q with n := q.n + 1 } s2 := hlvid.unitPoolWrite ..
  have h3 : InRound i s { q with n := q.n + 1 } s3 := by
    by_cases hc : sat = true
    · rw [show s3 = _ from if_pos hc]
      exact h2.clampCounted
    · rw [show s3 = s2 from if_neg hc]
      exact h2
  have h4 : InRound i s { q with n := q.n + 1 } s4 := by
    by_cases hc : (vOut && !bitAt (spanPsw s3 g c y (n + 1 - c.vlen) n).1 1) = true
    · rw [show s4 = _ from if_pos hc]
      exact h3.qualify ..
    · rw [show s4 = s3 from if_neg hc]
      exact h3
  have h5 : InRound i s { q with n := q.n + 1 } s5 := by
    by_cases hc : y.iq.length = 1008
    · rw [show s5 = _ from if_pos hc]
      exact h4.endIq g c
    · rw [show s5 = s4 from if_neg hc]
      exact h4
  split
  · exact h5.endReport g c
  · exact h5

end InRound

/-! How far a round takes it (R187, R197). -/

/-- A boundary at which nothing waits. -/
theorem boundary_unwaited {i : Nat} {s : State} (hs : (s.ctx i).snap = none) (hrep : (s.ctx i).report = false) (hrst : (s.ctx i).reset = false) :
    (if atBlock (s.cset i) (s.ctx i) then ctxPending i s else s) = s := by
  rw [ctxPending_none hs hrep hrst, ite_self]

/-- Up to the last chain input, without an output on the way. -/
theorem ctxRun_takes {i lim k : Nat} {s : State} (hs : (s.ctx i).snap = none) (hrep : (s.ctx i).report = false) (hrst : (s.ctx i).reset = false) (hw : ctxWhy s (s.cset i) = 0)
    (hins : (s.ctx i).ins ≤ (lim - (s.ctx i).m0) * (s.cset i).nch) (h : (lim - (s.ctx i).m0) * (s.cset i).nch < 2 * (s.cset i).rc * ((s.ctx i).n + 1)) :
    ctxRun i lim (k + 1) s = ctxTake i (s.chGrid (s.cset i).port) (s.cset i) ((lim - (s.ctx i).m0) * (s.cset i).nch) s := by
  unfold ctxRun
  rw [boundary_unwaited hs hrep hrst]
  dsimp only
  rw [if_neg (not_not.mpr hw), if_pos h, Nat.max_eq_left hins]

/-- Up to the next output. -/
theorem ctxRun_outputs {i lim k : Nat} {s : State} (hs : (s.ctx i).snap = none) (hrep : (s.ctx i).report = false) (hrst : (s.ctx i).reset = false) (hw : ctxWhy s (s.cset i) = 0)
    (h : 2 * (s.cset i).rc * ((s.ctx i).n + 1) ≤ (lim - (s.ctx i).m0) * (s.cset i).nch) :
    ∃ v, ctxRun i lim (k + 1) s = ctxRun i lim k (ctxOutput i (s.chGrid (s.cset i).port) (s.cset i) v
      (ctxTake i (s.chGrid (s.cset i).port) (s.cset i) (2 * (s.cset i).rc * ((s.ctx i).n + 1)) s)) := by
  refine ⟨(othersEnabled s i).any fun j => vidOverlap (s.cset i) (s.cset j), ?_⟩
  rw [ctxRun, boundary_unwaited hs hrep hrst]
  dsimp only
  rw [if_neg (not_not.mpr hw), if_neg (Nat.not_lt.mpr h)]

/-- Phases add up. -/
theorem phase_add (p f a b : Nat) (m : Nat) : ((p + f * a) % m + f * b) % m = (p + f * (a + b)) % m := by
  rw [Nat.mod_add_mod, Nat.mul_add, Nat.add_assoc]

/-- It takes all chain inputs released, with an output for every 2 × R_C of them. -/
theorem ctxRun_served {i lim a : Nat} {c : CSet} {q : Course} {s t : State} (k : Nat) (h : InRound i s q t) (hc : s.cset i = c) (hw : ctxWhy s c = 0)
    (hs : q.snap = none) (hrep : q.report = false) (hrst : q.reset = false) (ha : a = (lim - q.m0) * c.nch) (hins : q.ins ≤ a) (hlo : 2 * c.rc * q.n ≤ q.ins)
    (hhi : q.ins < 2 * c.rc * (q.n + 1)) (hk : a < 2 * c.rc * (q.n + k)) :
    InRound i s { q with ins := a, n := a / (2 * c.rc), phase := (q.phase + c.ftw * (a - q.ins)) % 2 ^ 32 } (ctxRun i lim k t) := by
  induction k generalizing t q with
  | zero => exact absurd (Nat.lt_of_le_of_lt (Nat.le_trans hlo hins) hk) (Nat.lt_irrefl _)
  | succ k ih =>
    have hct : t.cset i = c := h.cset.trans hc
    have hwt : ctxWhy t (t.cset i) = 0 := by rw [hct, h.why, hw]
    obtain rfl := h.course
    have havail : (lim - (t.ctx i).m0) * c.nch = a := ha.symm
    rcases Nat.lt_or_ge a (2 * c.rc * ((t.ctx i).n + 1)) with hlt | hge
    · have hrun := ctxRun_takes (k := k) hs hrep hrst hwt (by rw [hct, havail]; exact hins) (by rw [hct, havail]; exact hlt)
      rw [hct, havail] at hrun
      have hn : a / (2 * c.rc) = (t.ctx i).course.n := Nat.div_eq_of_lt_le (by rw [Nat.mul_comm]; exact Nat.le_trans hlo hins) (by rw [Nat.mul_comm]; exact hlt)
      rw [hrun, hn]
      exact h.ctxTake ..
    · obtain ⟨v, hrun⟩ := ctxRun_outputs (k := k) hs hrep hrst hwt (by rw [hct, havail]; exact hge)
      rw [hct] at hrun
      have hnext := (h.ctxTake (t.chGrid c.port) c (2 * c.rc * ((t.ctx i).n + 1))).ctxOutput (t.chGrid c.port) c v
      have hstep : 2 * c.rc * ((t.ctx i).n + 1) < 2 * c.rc * ((t.ctx i).n + 1 + 1) := by
        have hpos : 0 < 2 * c.rc := Nat.pos_of_mul_pos_right (Nat.zero_lt_of_lt hhi)
        exact (Nat.mul_lt_mul_left hpos).mpr (Nat.lt_succ_self _)
      have hgap : 2 * c.rc * ((t.ctx i).n + 1) - (t.ctx i).course.ins + (a - 2 * c.rc * ((t.ctx i).n + 1)) = a - (t.ctx i).course.ins := by
        have : (t.ctx i).course.ins < 2 * c.rc * ((t.ctx i).n + 1) := hhi
        omega
      have hrest := ih hnext hs hrep hrst ha hge (Nat.le_refl _) hstep (by rw [Nat.add_assoc, Nat.add_comm 1 k]; exact hk)
      rw [phase_add, hgap] at hrest
      rw [hrun]
      exact hrest

/-- The fuel suffices: a coarse sample brings two chain inputs at most. -/
theorem nch_le (c : CSet) : c.nch ≤ 2 := by
  unfold CSet.nch
  split
  · exact Nat.le_refl 2
  · decide

theorem ctxRound_served {i : Nat} {g : Grid} {c : CSet} {x : Ctx} {s : State} (hx : s.ctx i = x) (hs : x.snap = none) (hrep : x.report = false) (hrst : x.reset = false) (hc : s.cset i = c)
    (hw : ctxWhy s c = 0) (hg : Tbl.find s.trb.grid c.port = some g) (hrc : 0 < c.rc) (hins : x.ins ≤ (g.next - x.m0) * c.nch)
    (hlo : 2 * c.rc * x.n ≤ x.ins) (hhi : x.ins < 2 * c.rc * (x.n + 1)) :
    InRound i s { x.course with ins := (g.next - x.m0) * c.nch, n := (g.next - x.m0) * c.nch / (2 * c.rc), phase := (x.phase + c.ftw * ((g.next - x.m0) * c.nch - x.ins)) % 2 ^ 32 } (ctxRound i s) := by
  subst hx hc
  have hround : ctxRound i s = ctxServe i g.next s := by
    unfold ctxRound
    rw [if_neg (not_not.mpr hw)]
    dsimp only
    rw [hg]
    exact if_pos hw
  have hfuel : (g.next - (s.ctx i).m0) * (s.cset i).nch < 2 * (s.cset i).rc * ((s.ctx i).n + (2 * g.next + 2)) := by
    have hin : (g.next - (s.ctx i).m0) * (s.cset i).nch ≤ g.next * 2 := Nat.mul_le_mul (Nat.sub_le ..) (nch_le _)
    have hout : 2 * (2 * g.next + 2) ≤ 2 * (s.cset i).rc * ((s.ctx i).n + (2 * g.next + 2)) := Nat.mul_le_mul (by omega) (by omega)
    omega
  rw [hround]
  exact (ctxRun_served _ (InRound.refl i s).chainFetch rfl hw hs hrep hrst rfl hins hlo hhi hfuel).chainStore

end Sys2Proof.Machine

open Sys2Proof Sys2Proof.Machine Sys2Proof.Claims

/-- Settles O23, by induction on the outputs for which a round serves the context. -/
theorem coarseSamplesAndRounds : Obligations.CoarseSamplesAndRounds := by
  unfold Obligations.CoarseSamplesAndRounds
  intro s p g k i x c a
  refine ⟨fun hg hs hspan hk => analyses_of rfl ?released, fun hg h => analyses_of rfl (coarseSample_early hg h), fun hg => analyses_of rfl (coarseSample_idle hg),
    fun h => analyses_of rfl (trbRound_idle h), fun hf hctx hs hrep hrst hc hw hg hrc hm0 ha hins hlo hhi hphase => analyses_of rfl ?round⟩
  case released =>
    rw [coarseSample_released hg hs hspan, ← hk]
    obtain ⟨heq, hpair, hwords, hevent, hrep⟩ := countCoarse_spec p k (s := s) (u := coarseTaken p g s) rfl
    exact ⟨heq, hpair, hwords, hevent, hrep⟩
  case round =>
    have h := ctxRound_served (s := roundBegun s) (ctx_single hctx) hs hrep hrst hc.symm hw hg hrc (ha ▸ hins) hlo hhi
    rw [← ha] at h
    rw [trbRound_single hf hctx]
    generalize ctxRound i (roundBegun s) = t at h ⊢
    have hcset : t.cset i = c := h.cset.trans hc.symm
    have hstarted : t.trb.started = true := by
      rw [h.trb]
      rfl
    have hgrid : t.trb.grid = s.trb.grid := by
      rw [h.trb]
      rfl
    exact ⟨congrArg Course.n h.course, congrArg Course.ins h.course, congrArg Course.phase h.course, congrArg Course.m0 h.course, congrArg Course.nc h.course, congrArg Course.nv h.course,
      hcset, hstarted, hgrid⟩
end
